-- ==== Sys2Proof/Word.lean ====
section
/-! DEFINITION. The word types of the part (00 "data widths", R1 to R3) and the lane vectors. -/

namespace Sys2Proof

/-- A byte (00, data widths). -/
abbrev Byte := BitVec 8
/-- A word: an instruction word, a lane register, a limb (00, data widths). -/
abbrev Word := BitVec 32
/-- A dword: a uniform register (00, data widths). -/
abbrev DWord := BitVec 64
/-- A code or virtual address of 48 bits (R100). -/
abbrev Addr := BitVec 48
/-- One value per lane of a group: 32 lanes (00, units of execution). -/
abbrev Lanes (α : Type) := Vector α 32
/-- A lane register: one word per lane (03, register kinds). -/
abbrev VReg := Lanes Word
/-- One bit per lane, bit `l` for lane `l`. -/
abbrev LaneMask := BitVec 32
/-- A context number (R403). -/
abbrev Asn := BitVec 12

end Sys2Proof
end

