-- ==== Sys2Proof/Syntax.lean ====
section
/-! DEFINITION. The instructions of spec/opcode_table.json: one constructor per row. The 257 words of the two
instruction sets carry the fields their encodings give them (R148, R149); the 105 event rows have no word, and their
constructors carry what the event acts on. -/

namespace Sys2Proof

/-- A comparison code (R155). -/
inductive Cmp | eq | ne | lt | le | gt | ge | un
  deriving DecidableEq, Repr

/-- A size code of an LM word (R148). -/
inductive Size | n8 | i8 | n16 | i16 | b32 | b64 | b128
  deriving DecidableEq, Repr

/-- An atomic op code (R155). -/
inductive AtomOp | add | sub | minI | maxI | minN | maxN | land | lor | lxor | swap | cas | fadd
  deriving DecidableEq, Repr

/-- A fence scope (R122). -/
inductive Scope | group | team | cluster | device | package | system
  deriving DecidableEq, Repr

/-- A span code of a wide word (R150). -/
inductive Span | w1 | w2 | w4
  deriving DecidableEq, Repr

/-- A rounding mode (R154, CVT; FCTL.RM of R65). -/
inductive Rm | rne | rtz | rdn | rup
  deriving DecidableEq, Repr

/-- A CVT conversion code, written destination, then source (R156). -/
inductive Cvt
  | f32I32 | f32N32 | i32F32 | n32F32 | f64F32 | f32F64 | f64I32 | f64N32
  | i32F64 | n32F64 | bf16F32 | f32Bf16 | e4m3F32 | f32E4m3 | e5m2F32 | f32E5m2
  | e2m1F32 | f32E2m1 | e8m0F32 | f32E8m0 | mxint8F32 | f32Mxint8
  deriving DecidableEq, Repr

/-- A cluster of the package: `40 * LD + cluster` (01, R12; TEAMID). -/
abbrev ClusterId := Fin 160
/-- A core of the package: `4 * ClusterId + core`. -/
abbrev Core := Fin 640
/-- A group slot of the package: `16 * Core + slot`. -/
abbrev GroupId := Fin 10240

/-- Where an uncorrectable error of the UNCORRECTABLE_ERROR row arises (R70, R263, R375 to R379). -/
inductive ErrSite
  /-- A 32-byte ECC granule of HBM4 (R375). -/
  | hbm (granule : Nat)
  /-- Lanes of a register-cache entry of a group: a place in its lane register file (R70). -/
  | vreg (g : GroupId) (v : Fin 96) (lanes : LaneMask)
  /-- A uniform register of a group (R70). -/
  | sreg (g : GroupId) (s : Fin 64)
  /-- An accumulator of a cluster's physical slot (R263). -/
  | acc (cl : ClusterId) (slot : Fin 8) (index : Fin 4096)
  /-- A granule of a core's local store (R263). -/
  | localStore (core : Core) (granule : Fin 8192)
  /-- The row-remap entry that governs the locations from `lo` to below `hi` of one channel, in the table or in its shadow
  (R378, R379). -/
  | remap (lo hi : Nat) (shadow : Bool)
  deriving DecidableEq, Repr

/-- Operands: three lane registers with U and a guard (R148, LR). -/
structure LR3 where
  /-- bits [23] -/
  u : Bool
  /-- bits [22:20] -/
  g : Fin 8
  /-- bits [19:14] -/
  vd : Fin 64
  /-- bits [13:8] -/
  va : Fin 64
  /-- bits [7:2] -/
  vb : Fin 64
  deriving DecidableEq, Repr

/-- Operands: two lane registers with U and a guard (R148, LR with a zero vb field). -/
structure LR2 where
  /-- bits [23] -/
  u : Bool
  /-- bits [22:20] -/
  g : Fin 8
  /-- bits [19:14] -/
  vd : Fin 64
  /-- bits [13:8] -/
  va : Fin 64
  deriving DecidableEq, Repr

/-- Operands: a lane comparison: code, destination predicate and two sources (R176). -/
structure LCmp where
  /-- bits [23] -/
  u : Bool
  /-- bits [22:20] -/
  g : Fin 8
  /-- bits [19:17] -/
  cc : Cmp
  /-- bits [16:14] -/
  k : Fin 8
  /-- bits [13:8] -/
  va : Fin 64
  /-- bits [7:2] -/
  vb : Fin 64
  deriving DecidableEq, Repr

/-- Operands: a lane register and an 8-bit immediate (R148, LI). -/
structure LImm where
  /-- bits [23] -/
  u : Bool
  /-- bits [22:20] -/
  g : Fin 8
  /-- bits [19:14] -/
  vd : Fin 64
  /-- bits [13:8] -/
  va : Fin 64
  /-- bits [7:0] -/
  imm : BitVec 8
  deriving DecidableEq, Repr

/-- Operands: a lane register and a shift amount (R173). -/
structure LShift where
  /-- bits [23] -/
  u : Bool
  /-- bits [22:20] -/
  g : Fin 8
  /-- bits [19:14] -/
  vd : Fin 64
  /-- bits [13:8] -/
  va : Fin 64
  /-- bits [4:0] -/
  amt : Fin 32
  deriving DecidableEq, Repr

/-- Operands: a 14-bit immediate (R170). -/
structure LMov where
  /-- bits [23] -/
  u : Bool
  /-- bits [22:20] -/
  g : Fin 8
  /-- bits [19:14] -/
  vd : Fin 64
  /-- bits [13:0] -/
  imm : BitVec 14
  deriving DecidableEq, Repr

/-- Operands: a conversion code and a rounding mode (R184). -/
structure LCvt where
  /-- bits [23] -/
  u : Bool
  /-- bits [22:20] -/
  g : Fin 8
  /-- bits [19:14] -/
  vd : Fin 64
  /-- bits [13:8] -/
  va : Fin 64
  /-- bits [7:2] -/
  code : Cvt
  /-- bits [1:0] -/
  rm : Rm
  deriving DecidableEq, Repr

/-- Operands: a byte index (R185). -/
structure LPack8 where
  /-- bits [23] -/
  u : Bool
  /-- bits [22:20] -/
  g : Fin 8
  /-- bits [19:14] -/
  vd : Fin 64
  /-- bits [13:8] -/
  va : Fin 64
  /-- bits [3:2] -/
  k : Fin 4
  deriving DecidableEq, Repr

/-- Operands: a nibble index (R185). -/
structure LPack4 where
  /-- bits [23] -/
  u : Bool
  /-- bits [22:20] -/
  g : Fin 8
  /-- bits [19:14] -/
  vd : Fin 64
  /-- bits [13:8] -/
  va : Fin 64
  /-- bits [4:2] -/
  k : Fin 8
  deriving DecidableEq, Repr

/-- Operands: three lane registers, no U (R188). -/
structure XR3 where
  /-- bits [22:20] -/
  g : Fin 8
  /-- bits [19:14] -/
  vd : Fin 64
  /-- bits [13:8] -/
  va : Fin 64
  /-- bits [7:2] -/
  vb : Fin 64
  deriving DecidableEq, Repr

/-- Operands: two lane registers, no U (R189). -/
structure XR2 where
  /-- bits [22:20] -/
  g : Fin 8
  /-- bits [19:14] -/
  vd : Fin 64
  /-- bits [13:8] -/
  va : Fin 64
  deriving DecidableEq, Repr

/-- Operands: a ballot: destination register and source predicate (R192). -/
structure XBallot where
  /-- bits [22:20] -/
  g : Fin 8
  /-- bits [19:14] -/
  vd : Fin 64
  /-- bits [10:8] -/
  k : Fin 8
  deriving DecidableEq, Repr

/-- Operands: a vote: destination and source predicate (R192). -/
structure XVote where
  /-- bits [22:20] -/
  g : Fin 8
  /-- bits [16:14] -/
  j : Fin 8
  /-- bits [10:8] -/
  k : Fin 8
  deriving DecidableEq, Repr

/-- Operands: a uniform source to a lane register (R193). -/
structure XBcast where
  /-- bits [22:20] -/
  g : Fin 8
  /-- bits [19:14] -/
  vd : Fin 64
  /-- bits [13:8] -/
  s : Fin 64
  deriving DecidableEq, Repr

/-- Operands: one lane of a lane register to a uniform register (R193). -/
structure XGet where
  /-- bits [22:20] -/
  g : Fin 8
  /-- bits [19:14] -/
  s : Fin 64
  /-- bits [13:8] -/
  va : Fin 64
  /-- bits [6:2] -/
  n : Fin 32
  deriving DecidableEq, Repr

/-- Operands: one lane register (R193). -/
structure X1 where
  /-- bits [22:20] -/
  g : Fin 8
  /-- bits [19:14] -/
  vd : Fin 64
  deriving DecidableEq, Repr

/-- Operands: three predicates (R194). -/
structure XPred where
  /-- bits [22:20] -/
  g : Fin 8
  /-- bits [16:14] -/
  pd : Fin 8
  /-- bits [10:8] -/
  pa : Fin 8
  /-- bits [4:2] -/
  pb : Fin 8
  deriving DecidableEq, Repr

/-- Operands: three spans (R204). -/
structure W3 where
  /-- bits [22:20] -/
  w : Span
  /-- bits [19:14] -/
  vd : Fin 64
  /-- bits [13:8] -/
  va : Fin 64
  /-- bits [7:2] -/
  vb : Fin 64
  deriving DecidableEq, Repr

/-- Operands: two spans and a uniform register (R204). -/
structure WS where
  /-- bits [22:20] -/
  w : Span
  /-- bits [19:14] -/
  vd : Fin 64
  /-- bits [13:8] -/
  va : Fin 64
  /-- bits [7:2] -/
  s : Fin 64
  deriving DecidableEq, Repr

/-- Operands: a wide comparison (R212). -/
structure WCmp where
  /-- bits [22:20] -/
  w : Span
  /-- bits [19:17] -/
  cc : Cmp
  /-- bits [16:14] -/
  k : Fin 8
  /-- bits [13:8] -/
  va : Fin 64
  /-- bits [7:2] -/
  vb : Fin 64
  deriving DecidableEq, Repr

/-- Operands: two spans (R204). -/
structure W2 where
  /-- bits [22:20] -/
  w : Span
  /-- bits [19:14] -/
  vd : Fin 64
  /-- bits [13:8] -/
  va : Fin 64
  deriving DecidableEq, Repr

/-- Operands: an extension with its source span (R213). -/
structure WExt where
  /-- bits [22:20] -/
  w : Span
  /-- bits [19:14] -/
  vd : Fin 64
  /-- bits [13:8] -/
  va : Fin 64
  /-- bits [3:2] -/
  ws : Span
  deriving DecidableEq, Repr

/-- Operands: a limb read (R214). -/
structure WGet where
  /-- bits [22:20] -/
  w : Span
  /-- bits [19:14] -/
  s : Fin 64
  /-- bits [13:8] -/
  va : Fin 64
  /-- bits [7:0] -/
  n : Fin 256
  deriving DecidableEq, Repr

/-- Operands: a limb write (R215). -/
structure WSet where
  /-- bits [22:20] -/
  w : Span
  /-- bits [19:14] -/
  vd : Fin 64
  /-- bits [13:8] -/
  s : Fin 64
  /-- bits [7:0] -/
  n : Fin 256
  deriving DecidableEq, Repr

/-- Operands: a carry resolution (R216). -/
structure WCres where
  /-- bits [22:20] -/
  w : Span
  /-- bits [19:14] -/
  vd : Fin 64
  /-- bits [10:8] -/
  j : Fin 8
  /-- bits [7:2] -/
  s : Fin 64
  deriving DecidableEq, Repr

/-- Operands: an asynchronous copy (R238). -/
structure MAcp where
  /-- bits [22:20] -/
  g : Fin 8
  /-- bits [19:14] -/
  vd : Fin 64
  /-- bits [13:8] -/
  va : Fin 64
  /-- bits [7] -/
  lsd : Bool
  /-- bits [6] -/
  lss : Bool
  /-- bits [3:1] -/
  z : Size
  deriving DecidableEq, Repr

/-- Operands: a lane load (R227). -/
structure MLd where
  /-- bits [23] -/
  u : Bool
  /-- bits [22:20] -/
  g : Fin 8
  /-- bits [19:14] -/
  vd : Fin 64
  /-- bits [13:8] -/
  va : Fin 64
  /-- bits [7:4] -/
  la : Fin 16
  /-- bits [3:1] -/
  z : Size
  /-- bits [0] -/
  o : Bool
  deriving DecidableEq, Repr

/-- Operands: a lane store (R227). -/
structure MSt where
  /-- bits [22:20] -/
  g : Fin 8
  /-- bits [19:14] -/
  vd : Fin 64
  /-- bits [13:8] -/
  va : Fin 64
  /-- bits [3:1] -/
  z : Size
  /-- bits [0] -/
  o : Bool
  deriving DecidableEq, Repr

/-- Operands: a local-store load (R229). -/
structure MLdl where
  /-- bits [23] -/
  u : Bool
  /-- bits [22:20] -/
  g : Fin 8
  /-- bits [19:14] -/
  vd : Fin 64
  /-- bits [13:8] -/
  va : Fin 64
  /-- bits [7:4] -/
  la : Fin 16
  /-- bits [3:1] -/
  z : Size
  deriving DecidableEq, Repr

/-- Operands: a local-store store (R229). -/
structure MStl where
  /-- bits [22:20] -/
  g : Fin 8
  /-- bits [19:14] -/
  vd : Fin 64
  /-- bits [13:8] -/
  va : Fin 64
  /-- bits [3:1] -/
  z : Size
  deriving DecidableEq, Repr

/-- Operands: a lane atomic (R231). -/
structure MAtom where
  /-- bits [22:20] -/
  g : Fin 8
  /-- bits [19:14] -/
  vd : Fin 64
  /-- bits [13:8] -/
  va : Fin 64
  /-- bits [7:5] -/
  la : Fin 8
  /-- bits [4:1] -/
  op : AtomOp
  /-- bits [0] -/
  nr : Bool
  deriving DecidableEq, Repr

/-- Operands: three uniform registers (R149, UR). -/
structure UR3 where
  /-- bits [23:18] -/
  sd : Fin 64
  /-- bits [17:12] -/
  sa : Fin 64
  /-- bits [11:6] -/
  sb : Fin 64
  deriving DecidableEq, Repr

/-- Operands: two uniform registers (R278). -/
structure UR2 where
  /-- bits [23:18] -/
  sd : Fin 64
  /-- bits [17:12] -/
  sa : Fin 64
  deriving DecidableEq, Repr

/-- Operands: a selecting condition and three uniform registers (R278). -/
structure USel where
  /-- bits [23:18] -/
  sd : Fin 64
  /-- bits [17:12] -/
  sa : Fin 64
  /-- bits [11:6] -/
  sb : Fin 64
  /-- bits [5:3] -/
  c : Fin 8
  deriving DecidableEq, Repr

/-- Operands: a uniform comparison (R279). -/
structure UCmp where
  /-- bits [23:21] -/
  cc : Cmp
  /-- bits [20:18] -/
  k : Fin 8
  /-- bits [17:12] -/
  sa : Fin 64
  /-- bits [11:6] -/
  sb : Fin 64
  deriving DecidableEq, Repr

/-- Operands: a 12-bit immediate (R280). -/
structure UImm where
  /-- bits [23:18] -/
  sd : Fin 64
  /-- bits [17:12] -/
  sa : Fin 64
  /-- bits [11:0] -/
  imm : BitVec 12
  deriving DecidableEq, Repr

/-- Operands: an 18-bit immediate (R280). -/
structure ULui where
  /-- bits [23:18] -/
  sd : Fin 64
  /-- bits [17:0] -/
  imm : BitVec 18
  deriving DecidableEq, Repr

/-- Operands: a literal data word (R280, UX). -/
structure ULit where
  /-- bits [23:18] -/
  sd : Fin 64
  /-- bits [63:32] -/
  data : Word
  deriving DecidableEq, Repr

/-- Operands: three conditions (R282). -/
structure UCond where
  /-- bits [20:18] -/
  cd : Fin 8
  /-- bits [14:12] -/
  ca : Fin 8
  /-- bits [8:6] -/
  cb : Fin 8
  deriving DecidableEq, Repr

/-- Operands: a predicate to a uniform register (R283). -/
structure UPred where
  /-- bits [23:18] -/
  sd : Fin 64
  /-- bits [14:12] -/
  k : Fin 8
  deriving DecidableEq, Repr

/-- Operands: a special-register read (R65). -/
structure USrd where
  /-- bits [23:18] -/
  sd : Fin 64
  /-- bits [11:0] -/
  n : BitVec 12
  deriving DecidableEq, Repr

/-- Operands: a special-register write (R65). -/
structure USwr where
  /-- bits [17:12] -/
  sa : Fin 64
  /-- bits [11:0] -/
  n : BitVec 12
  deriving DecidableEq, Repr

/-- Operands: a condition or predicate, negate and a word offset (R149, UJ). -/
structure UJ where
  /-- bits [23:21] -/
  k : Fin 8
  /-- bits [20] -/
  x : Bool
  /-- bits [19:0] -/
  off : BitVec 20
  deriving DecidableEq, Repr

/-- Operands: one uniform source (R285). -/
structure UA where
  /-- bits [17:12] -/
  sa : Fin 64
  deriving DecidableEq, Repr

/-- Operands: a loop count and body length (R286). -/
structure ULoop where
  /-- bits [17:12] -/
  sa : Fin 64
  /-- bits [11:0] -/
  imm : BitVec 12
  deriving DecidableEq, Repr

/-- Operands: one uniform destination. -/
structure UDc where
  /-- bits [23:18] -/
  sd : Fin 64
  deriving DecidableEq, Repr

/-- Operands: a word offset (R288). -/
structure UOff where
  /-- bits [19:0] -/
  off : BitVec 20
  deriving DecidableEq, Repr

/-- Operands: a 12-bit code (R307). -/
structure UCode where
  /-- bits [11:0] -/
  code : BitVec 12
  deriving DecidableEq, Repr

/-- Operands: a system-register read (R332). -/
structure UPrd where
  /-- bits [23:18] -/
  sd : Fin 64
  /-- bits [11:6] -/
  sb : Fin 64
  deriving DecidableEq, Repr

/-- Operands: a system-register write (R332). -/
structure UPwr where
  /-- bits [17:12] -/
  sa : Fin 64
  /-- bits [11:6] -/
  sb : Fin 64
  deriving DecidableEq, Repr

/-- Operands: a barrier (R294). -/
structure UBar where
  /-- bits [11:8] -/
  n : Fin 16
  deriving DecidableEq, Repr

/-- Operands: a counted barrier (R294). -/
structure UBarC where
  /-- bits [17:12] -/
  sa : Fin 64
  /-- bits [11:8] -/
  n : Fin 16
  deriving DecidableEq, Repr

/-- Operands: a fence scope and drain bit (R234). -/
structure UFence where
  /-- bits [11:9] -/
  sc : Scope
  /-- bits [6] -/
  dr : Bool
  deriving DecidableEq, Repr

/-- Operands: a uniform load (R230). -/
structure ULd where
  /-- bits [23:18] -/
  sd : Fin 64
  /-- bits [17:12] -/
  sa : Fin 64
  /-- bits [11:8] -/
  la : Fin 16
  /-- bits [7:0] -/
  off : Fin 256
  deriving DecidableEq, Repr

/-- Operands: a uniform store (R230). -/
structure USt where
  /-- bits [23:18] -/
  sd : Fin 64
  /-- bits [17:12] -/
  sa : Fin 64
  /-- bits [7:0] -/
  off : Fin 256
  deriving DecidableEq, Repr

/-- Operands: a uniform atomic (R231). -/
structure UAtom where
  /-- bits [23:18] -/
  sd : Fin 64
  /-- bits [17:12] -/
  sa : Fin 64
  /-- bits [11:8] -/
  la : Fin 16
  /-- bits [7:4] -/
  op : AtomOp
  /-- bits [3] -/
  w64 : Bool
  /-- bits [2] -/
  nr : Bool
  deriving DecidableEq, Repr

/-- Operands: a queue push (R235). -/
structure UQput where
  /-- bits [17:12] -/
  sa : Fin 64
  /-- bits [8:6] -/
  c : Fin 8
  /-- bits [5] -/
  nb : Bool
  /-- bits [4:0] -/
  q : Fin 32
  deriving DecidableEq, Repr

/-- Operands: a queue pop (R235). -/
structure UQget where
  /-- bits [23:18] -/
  sd : Fin 64
  /-- bits [8:6] -/
  c : Fin 8
  /-- bits [5] -/
  nb : Bool
  /-- bits [4:0] -/
  q : Fin 32
  deriving DecidableEq, Repr

/-- Operands: a batch count (R239). -/
structure UWait where
  /-- bits [3:0] -/
  n : Fin 16
  deriving DecidableEq, Repr

/-- Operands: a uniform destination and source with a lookahead (R149, UE). -/
structure UDAL where
  /-- bits [23:18] -/
  sd : Fin 64
  /-- bits [17:12] -/
  sa : Fin 64
  /-- bits [11:8] -/
  la : Fin 16
  deriving DecidableEq, Repr

/-- Operands: a stream and its direction (R236). -/
structure UArm where
  /-- bits [4] -/
  wr : Bool
  /-- bits [2:0] -/
  k : Fin 8
  deriving DecidableEq, Repr

/-- Operands: a stream descriptor (R236). -/
structure UStrm where
  /-- bits [2:0] -/
  k : Fin 8
  deriving DecidableEq, Repr

/-- Operands: a slot count (R267). -/
structure UMacq where
  /-- bits [23:18] -/
  sd : Fin 64
  /-- bits [3:0] -/
  n : Fin 16
  deriving DecidableEq, Repr

/-- Operands: a joint operation with a source (R262). -/
structure UJoint where
  /-- bits [17:12] -/
  sa : Fin 64
  deriving DecidableEq, Repr

/-- Operands: a transform and its prime (R272). -/
structure UNtt where
  /-- bits [23:18] -/
  sd : Fin 64
  /-- bits [17:12] -/
  sa : Fin 64
  /-- bits [11:8] -/
  la : Fin 16
  /-- bits [1:0] -/
  p : Fin 4
  deriving DecidableEq, Repr

/-- Operands: an emit with its suffixes (R301). -/
structure UEmit where
  /-- bits [17:12] -/
  sa : Fin 64
  /-- bits [6] -/
  nb : Bool
  /-- bits [5] -/
  chk : Bool
  /-- bits [4] -/
  pair : Bool
  /-- bits [3:0] -/
  k : Fin 16
  deriving DecidableEq, Repr

/-- Operands: an emit stream (R302). -/
structure UEStrm where
  /-- bits [3:0] -/
  k : Fin 16
  deriving DecidableEq, Repr

/-- Operands: an opening of an emit stream (R300). -/
structure UEopen where
  /-- bits [17:12] -/
  sa : Fin 64
  /-- bits [6] -/
  tow : Bool
  /-- bits [3:0] -/
  k : Fin 16
  deriving DecidableEq, Repr

/-- Operands: a position read (R303). -/
structure UEpos where
  /-- bits [23:18] -/
  sd : Fin 64
  /-- bits [3:0] -/
  k : Fin 16
  deriving DecidableEq, Repr

/-- Operands: a tide request (R305). -/
structure UTide where
  /-- bits [17:12] -/
  sa : Fin 64
  /-- bits [1:0] -/
  l : Fin 4
  deriving DecidableEq, Repr

/-- What every word carries beside its operands: the run boundary B at [30] (R147), and the condition field [5:3] of a UR
word, which guards it (R150, R277), 0, always true, in every other word; and the slot [7:5] of a joint matrix word
(R262, R265), 0 in every other word. The step keeps it in the state while the word
executes. -/
structure Issue where
  /-- bit [30] -/
  b : Bool
  /-- bits [5:3] of a conditional UR word -/
  c : Fin 8
  /-- bits [7:5] of a joint matrix word -/
  j : Fin 8
  deriving DecidableEq, Repr

/-- One constructor per row of spec/opcode_table.json: first the rows whose words have operands of their own, then the words
whose only fields are those of `Issue`, then the event rows, whose subjects the state names (`Arg`). -/
inductive Instr
  /-- IADD (R170): Adds two lane registers modulo 2^32 in each active lane. -/
  | iadd (o : LR3)
  /-- IADD_SAT (R170): Adds two lane registers and saturates to the i32 range. -/
  | iaddSat (o : LR3)
  /-- IADD_SAT_N32 (R170): Adds two lane registers and saturates to the n32 range. -/
  | iaddSatN32 (o : LR3)
  /-- ISUB (R170): Subtracts two lane registers modulo 2^32. -/
  | isub (o : LR3)
  /-- ISUB_SAT (R170): Subtracts and saturates to the i32 range. -/
  | isubSat (o : LR3)
  /-- ISUB_SAT_N32 (R170): Subtracts and saturates to the n32 range. -/
  | isubSatN32 (o : LR3)
  /-- IMUL (R170): Writes the low 32 bits of the product. -/
  | imul (o : LR3)
  /-- IMUL_HI (R170): Writes the high half of the signed 64-bit product. -/
  | imulHi (o : LR3)
  /-- IMUL_HI_N32 (R170): Writes the high half of the unsigned 64-bit product. -/
  | imulHiN32 (o : LR3)
  /-- IMAD (R170): Writes the low 32 bits of a times b plus d. -/
  | imad (o : LR3)
  /-- IDIV_I32 (R171): Signed division rounded towards zero. -/
  | idivI32 (o : LR3)
  /-- IDIV_N32 (R171): Unsigned division. -/
  | idivN32 (o : LR3)
  /-- IREM_I32 (R171): Signed remainder with the sign of the dividend. -/
  | iremI32 (o : LR3)
  /-- IREM_N32 (R171): Unsigned remainder. -/
  | iremN32 (o : LR3)
  /-- IMIN_I32 (R170): Signed minimum of two lane registers. -/
  | iminI32 (o : LR3)
  /-- IMIN_N32 (R170): Unsigned minimum. -/
  | iminN32 (o : LR3)
  /-- IMAX_I32 (R170): Signed maximum. -/
  | imaxI32 (o : LR3)
  /-- IMAX_N32 (R170): Unsigned maximum. -/
  | imaxN32 (o : LR3)
  /-- AND (R172): Bitwise AND. -/
  | land (o : LR3)
  /-- OR (R172): Bitwise OR. -/
  | lor (o : LR3)
  /-- XOR (R172): Bitwise XOR. -/
  | lxor (o : LR3)
  /-- ANDN (R172): Bitwise a AND NOT b. -/
  | landn (o : LR3)
  /-- ISHL (R173): Shift left by a register amount. -/
  | ishl (o : LR3)
  /-- ISHR (R173): Logical shift right by a register amount. -/
  | ishr (o : LR3)
  /-- ISAR (R173): Arithmetic shift right by a register amount. -/
  | isar (o : LR3)
  /-- IROT (R173): Rotate left by a register amount. -/
  | irot (o : LR3)
  /-- POPC (R174): Counts set bits. -/
  | popc (o : LR2)
  /-- CLZ (R174): Counts leading zeros. -/
  | clz (o : LR2)
  /-- CTZ (R174): Counts trailing zeros. -/
  | ctz (o : LR2)
  /-- BREV (R174): Reverses the bits of a lane value. -/
  | brev (o : LR2)
  /-- ICMP_I32 (R176): Signed integer compare into a predicate. -/
  | icmpI32 (o : LCmp)
  /-- ICMP_N32 (R176): Unsigned integer compare into a predicate. -/
  | icmpN32 (o : LCmp)
  /-- SEL (R177): Selects va or vb per lane by the guard predicate. -/
  | sel (o : LR3)
  /-- BFX_N32 (R175): Extracts an unsigned bit field. -/
  | bfxN32 (o : LR3)
  /-- BFX_I32 (R175): Extracts a signed bit field. -/
  | bfxI32 (o : LR3)
  /-- BFI (R175): Inserts a bit field into d. -/
  | bfi (o : LR3)
  /-- ADDMOD (R178): Modular addition modulo MODN. -/
  | addmod (o : LR3)
  /-- SUBMOD (R178): Modular subtraction modulo MODN. -/
  | submod (o : LR3)
  /-- MULMOD (R178): Barrett modular multiplication with MODN and MODB. -/
  | mulmod (o : LR3)
  /-- IADDI (R170): Adds a signed 8-bit immediate. -/
  | iaddi (o : LImm)
  /-- ISHLI (R173): Shift left by an immediate. -/
  | ishli (o : LShift)
  /-- ISHRI (R173): Logical shift right by an immediate. -/
  | ishri (o : LShift)
  /-- ISARI (R173): Arithmetic shift right by an immediate. -/
  | isari (o : LShift)
  /-- IROTI (R173): Rotate left by an immediate. -/
  | iroti (o : LShift)
  /-- IMOVI (R170): Writes a sign-extended 14-bit immediate. -/
  | imovi (o : LMov)
  /-- FADD (R179): Binary32 addition rounded once. -/
  | fadd (o : LR3)
  /-- FSUB (R179): Binary32 subtraction. -/
  | fsub (o : LR3)
  /-- FMUL (R179): Binary32 multiplication. -/
  | fmul (o : LR3)
  /-- FFMA (R179): Binary32 fused multiply-add with d as addend. -/
  | ffma (o : LR3)
  /-- FMIN (R180): Binary32 minimum. -/
  | fmin (o : LR3)
  /-- FMAX (R180): Binary32 maximum. -/
  | fmax (o : LR3)
  /-- FSCL (R179): Multiplies by 2 to an i32 exponent and rounds once. -/
  | fscl (o : LR3)
  /-- FCMP (R181): Binary32 compare into a predicate. -/
  | fcmp (o : LCmp)
  /-- FABS (R182): Binary32 absolute value. -/
  | fabs (o : LR2)
  /-- FNEG (R182): Binary32 negation. -/
  | fneg (o : LR2)
  /-- FRCP (R182): Binary32 reciprocal. -/
  | frcp (o : LR2)
  /-- FRSQ (R182): Binary32 reciprocal square root. -/
  | frsq (o : LR2)
  /-- FSQRT (R182): Binary32 square root. -/
  | fsqrt (o : LR2)
  /-- FEXP2 (R182): Binary32 base-2 exponential. -/
  | fexp2 (o : LR2)
  /-- FLOG2 (R182): Binary32 base-2 logarithm. -/
  | flog2 (o : LR2)
  /-- FCLASS (R182): Writes a one-hot class mask of a binary32 value. -/
  | fclass (o : LR2)
  /-- FRINT (R182): Rounds a binary32 value to an integral value. -/
  | frint (o : LR2)
  /-- DPE5 (R186): E5M2 dot product accumulated into binary32. -/
  | dpe5 (o : LR3)
  /-- DPBF (R186): BF16 dot product accumulated into binary32. -/
  | dpbf (o : LR3)
  /-- DPF8 (R186): E4M3 dot product accumulated into binary32. -/
  | dpf8 (o : LR3)
  /-- DPF4 (R186): E2M1 dot product accumulated into binary32. -/
  | dpf4 (o : LR3)
  /-- DADD (R183): Binary64 addition on register pairs. -/
  | dadd (o : LR3)
  /-- DSUB (R183): Binary64 subtraction. -/
  | dsub (o : LR3)
  /-- DMUL (R183): Binary64 multiplication. -/
  | dmul (o : LR3)
  /-- DFMA (R183): Binary64 fused multiply-add. -/
  | dfma (o : LR3)
  /-- DCMP (R183): Binary64 compare into a predicate. -/
  | dcmp (o : LCmp)
  /-- CVT (R184): Converts between formats with the rounding mode in fn. -/
  | cvt (o : LCvt)
  /-- PACK8 (R185): Replaces byte k of d with the low byte of a. -/
  | pack8 (o : LPack8)
  /-- PACK4 (R185): Replaces nibble k of d with the low nibble of a. -/
  | pack4 (o : LPack4)
  /-- DPI8_I8 (R186): Signed 8-bit integer dot product into i32. -/
  | dpi8I8 (o : LR3)
  /-- DPI8_N8 (R186): Unsigned 8-bit integer dot product into i32. -/
  | dpi8N8 (o : LR3)
  /-- DPI4_I4 (R186): Signed 4-bit integer dot product into i32. -/
  | dpi4I4 (o : LR3)
  /-- DPI4_N4 (R186): Unsigned 4-bit integer dot product into i32. -/
  | dpi4N4 (o : LR3)
  /-- SHFL_IDX (R188): Reads va from an indexed lane. -/
  | shflIdx (o : XR3)
  /-- SHFL_UP (R188): Reads va from the lane s below. -/
  | shflUp (o : XR3)
  /-- SHFL_DOWN (R188): Reads va from the lane s above. -/
  | shflDown (o : XR3)
  /-- SHFL_XOR (R188): Reads va from lane l XOR s. -/
  | shflXor (o : XR3)
  /-- REDADD (R189): Sum of active lanes broadcast to active lanes. -/
  | redadd (o : XR2)
  /-- REDMIN (R189): Signed minimum over active lanes. -/
  | redmin (o : XR2)
  /-- REDMAX (R189): Signed maximum over active lanes. -/
  | redmax (o : XR2)
  /-- REDMINN (R189): Unsigned minimum over active lanes. -/
  | redminn (o : XR2)
  /-- MINX_I32 (R190): Signed minimum and its lane index. -/
  | minxI32 (o : XR2)
  /-- MINX_N32 (R190): Unsigned minimum and its lane index. -/
  | minxN32 (o : XR2)
  /-- MAXX_I32 (R190): Signed maximum and its lane index. -/
  | maxxI32 (o : XR2)
  /-- MAXX_N32 (R190): Unsigned maximum and its lane index. -/
  | maxxN32 (o : XR2)
  /-- SCAN_ADD (R191): Inclusive prefix sum over active lanes. -/
  | scanAdd (o : XR2)
  /-- SCAN_XADD (R191): Exclusive prefix sum over active lanes. -/
  | scanXadd (o : XR2)
  /-- SCAN_MAX (R191): Inclusive prefix signed maximum. -/
  | scanMax (o : XR2)
  /-- SCAN_MIN (R191): Inclusive prefix signed minimum. -/
  | scanMin (o : XR2)
  /-- VOTE_BALLOT (R192): Writes the mask of active lanes where a predicate holds. -/
  | voteBallot (o : XBallot)
  /-- VOTE_ANY (R192): Sets a predicate if any active lane's predicate holds. -/
  | voteAny (o : XVote)
  /-- VOTE_ALL (R192): Sets a predicate if every active lane's predicate holds. -/
  | voteAll (o : XVote)
  /-- BCAST (R193): Broadcasts the low word of a uniform register to active lanes. -/
  | bcast (o : XBcast)
  /-- VGET (R193): Copies one lane's value into a uniform register. -/
  | vget (o : XGet)
  /-- LIDX (R193): Writes each active lane's index. -/
  | lidx (o : X1)
  /-- PAND (R194): Predicate AND per lane. -/
  | pand (o : XPred)
  /-- POR (R194): Predicate OR per lane. -/
  | por (o : XPred)
  /-- PXOR (R194): Predicate XOR per lane. -/
  | pxor (o : XPred)
  /-- PANDN (R194): Predicate AND NOT per lane. -/
  | pandn (o : XPred)
  /-- VTRP (R195): Transposes a 32 by 32 bit matrix across lanes. -/
  | vtrp (o : XR2)
  /-- WADD (R205): Wide addition with WOV on overflow. -/
  | wadd (o : W3)
  /-- WADC (R205): Wide addition with carry in and out through WCF. -/
  | wadc (o : W3)
  /-- WSUB (R205): Wide subtraction. -/
  | wsub (o : W3)
  /-- WSBB (R205): Wide subtraction with borrow through WCF. -/
  | wsbb (o : W3)
  /-- WAND (R206): Wide bitwise AND. -/
  | wand (o : W3)
  /-- WOR (R206): Wide bitwise OR. -/
  | wor (o : W3)
  /-- WXOR (R206): Wide bitwise XOR. -/
  | wxor (o : W3)
  /-- WANDN (R206): Wide bitwise AND NOT. -/
  | wandn (o : W3)
  /-- WSHL (R208): Wide shift left by a uniform amount. -/
  | wshl (o : WS)
  /-- WSHR (R208): Wide logical shift right. -/
  | wshr (o : WS)
  /-- WSAR (R208): Wide arithmetic shift right. -/
  | wsar (o : WS)
  /-- WMULS (R209): Wide multiply by an n32 scalar. -/
  | wmuls (o : WS)
  /-- WMADS (R209): Wide multiply by a scalar plus the destination. -/
  | wmads (o : WS)
  /-- WDIVS (R210): Wide divide by a scalar, remainder to the next uniform register. -/
  | wdivs (o : WS)
  /-- WDIV (R211): Sequenced wide division writing quotient and remainder. -/
  | wdiv (o : W3)
  /-- WCMP_I (R212): Signed wide compare into a condition. -/
  | wcmpI (o : WCmp)
  /-- WCMP_N (R212): Unsigned wide compare into a condition. -/
  | wcmpN (o : WCmp)
  /-- WNEG (R207): Wide negation. -/
  | wneg (o : W2)
  /-- WNOT (R207): Wide bitwise complement. -/
  | wnot (o : W2)
  /-- WABS (R207): Wide absolute value. -/
  | wabs (o : W2)
  /-- WNORM (R207): Re-derives the canonical form and extent of a span. -/
  | wnorm (o : W2)
  /-- WCLZ (R207): Counts leading zeros of a wide pattern. -/
  | wclz (o : W2)
  /-- WPOPC (R207): Counts set bits of a wide pattern. -/
  | wpopc (o : W2)
  /-- WEXT_I (R213): Sign-extends a wide value to another span. -/
  | wextI (o : WExt)
  /-- WEXT_N (R213): Zero-extends a wide pattern to another span. -/
  | wextN (o : WExt)
  /-- WGETL (R214): Reads one limb or the extent into a uniform register. -/
  | wgetl (o : WGet)
  /-- WSETL (R215): Writes one limb of a span from a uniform register. -/
  | wsetl (o : WSet)
  /-- CRES (R218): Resolves accumulator column sums into a wide number. -/
  | cres (o : WCres)
  /-- QADD (R219): Rational addition. -/
  | qadd (o : W3)
  /-- QSUB (R219): Rational subtraction. -/
  | qsub (o : W3)
  /-- QMUL (R219): Rational multiplication. -/
  | qmul (o : W3)
  /-- QDIV (R219): Rational division. -/
  | qdiv (o : W3)
  /-- QNORM (R220): Reduces a rational. -/
  | qnorm (o : W2)
  /-- WGCD (R221): Greatest common divisor of two wide values. -/
  | wgcd (o : W3)
  /-- ACP (R238): Per-lane asynchronous copy joining the open batch. -/
  | acp (o : MAcp)
  /-- LD (R227): Weak lane load. -/
  | ld (o : MLd)
  /-- LDS (R227): Strong lane load, acquire with the order bit. -/
  | lds (o : MLd)
  /-- LDI (R227): Invariant lane load. -/
  | ldi (o : MLd)
  /-- ST (R227): Weak lane store. -/
  | st (o : MSt)
  /-- STS (R227): Strong lane store, release with the order bit. -/
  | sts (o : MSt)
  /-- LDL (R229): Weak local-store load. -/
  | ldl (o : MLdl)
  /-- STL (R229): Weak local-store store. -/
  | stl (o : MStl)
  /-- ATOM (R232): 32-bit per-lane atomic read-modify-write. -/
  | atom (o : MAtom)
  /-- ATOM_64 (R232): 64-bit per-lane atomic read-modify-write. -/
  | atom64 (o : MAtom)
  /-- SADD (R278): 64-bit scalar addition. -/
  | sadd (o : UR3)
  /-- SSUB (R278): 64-bit scalar subtraction. -/
  | ssub (o : UR3)
  /-- SMUL (R278): Low 64 bits of a scalar product. -/
  | smul (o : UR3)
  /-- SMULH (R278): High half of the signed scalar product. -/
  | smulh (o : UR3)
  /-- SMULHN (R278): High half of the unsigned scalar product. -/
  | smulhn (o : UR3)
  /-- SDIV (R278): Signed scalar division. -/
  | sdiv (o : UR3)
  /-- SDIVN (R278): Unsigned scalar division. -/
  | sdivn (o : UR3)
  /-- SREM (R278): Signed scalar remainder. -/
  | srem (o : UR3)
  /-- SAND (R278): Scalar AND. -/
  | sand (o : UR3)
  /-- SOR (R278): Scalar OR. -/
  | sor (o : UR3)
  /-- SXOR (R278): Scalar XOR. -/
  | sxor (o : UR3)
  /-- SANDN (R278): Scalar AND NOT. -/
  | sandn (o : UR3)
  /-- SSHL (R278): Scalar shift left. -/
  | sshl (o : UR3)
  /-- SSHR (R278): Scalar logical shift right. -/
  | sshr (o : UR3)
  /-- SSAR (R278): Scalar arithmetic shift right. -/
  | ssar (o : UR3)
  /-- SROT (R278): Scalar rotate left. -/
  | srot (o : UR3)
  /-- SMIN (R278): Signed scalar minimum. -/
  | smin (o : UR3)
  /-- SMAX (R278): Signed scalar maximum. -/
  | smax (o : UR3)
  /-- SMINN (R278): Unsigned scalar minimum. -/
  | sminn (o : UR3)
  /-- SMAXN (R278): Unsigned scalar maximum. -/
  | smaxn (o : UR3)
  /-- SPOPC (R278): Counts set bits of a scalar. -/
  | spopc (o : UR2)
  /-- SCLZ (R278): Counts leading zeros of a scalar. -/
  | sclz (o : UR2)
  /-- SCTZ (R278): Counts trailing zeros of a scalar. -/
  | sctz (o : UR2)
  /-- SSEL (R278): Selects sa or sb by a condition, unguarded. -/
  | ssel (o : USel)
  /-- SCMP_I (R279): Signed scalar compare into a condition. -/
  | scmpI (o : UCmp)
  /-- SCMP_N (R279): Unsigned scalar compare into a condition. -/
  | scmpN (o : UCmp)
  /-- SADDI (R280): Adds a signed 12-bit immediate. -/
  | saddi (o : UImm)
  /-- SLUI (R280): Writes an 18-bit immediate shifted left by 14. -/
  | slui (o : ULui)
  /-- SLIT (R280): Writes a literal data word to the low half, zeroing the high half. -/
  | slit (o : ULit)
  /-- SLITH (R280): Writes a literal data word to the high half. -/
  | slith (o : ULit)
  /-- SBFX (R281): Extracts an unsigned scalar bit field. -/
  | sbfx (o : UR3)
  /-- SBFXS (R281): Extracts a signed scalar bit field. -/
  | sbfxs (o : UR3)
  /-- SBFI (R281): Inserts a scalar bit field. -/
  | sbfi (o : UR3)
  /-- CAND (R282): Condition AND. -/
  | cand (o : UCond)
  /-- COR (R282): Condition OR. -/
  | cor (o : UCond)
  /-- CXOR (R282): Condition XOR. -/
  | cxor (o : UCond)
  /-- CANDN (R282): Condition AND NOT. -/
  | candn (o : UCond)
  /-- SBCV (R283): Writes the mask of the issue gang's active lanes with a predicate true. -/
  | sbcv (o : UPred)
  /-- SRD (R65): Reads a special register into a uniform register. -/
  | srd (o : USrd)
  /-- SWR (R65): Writes a special register, clamping where stated. -/
  | swr (o : USwr)
  /-- BRA (R284): Conditional relative branch. -/
  | bra (o : UJ)
  /-- CALL (R284): Conditional relative call writing the link to s63. -/
  | call (o : UJ)
  /-- JMPR (R285): Jumps to the address in sa. -/
  | jmpr (o : UA)
  /-- RET (R285): Returns to the address in s63. -/
  | ret (o : UA)
  /-- CALLR (R285): Calls the address in sa. -/
  | callr (o : UA)
  /-- LOOP (R286): Pushes a zero-overhead loop level or skips the body. -/
  | loop (o : ULoop)
  /-- LCNT (R287): Reads the innermost loop count. -/
  | lcnt (o : UDc)
  /-- BRP (R288): Per-lane predicated branch that may diverge a slice. -/
  | brp (o : UJ)
  /-- RCV (R288): Pushes an open reconvergence entry with a join point. -/
  | rcv (o : UOff)
  /-- BKPT (R307): Stops for a debugger or raises a BKPT trap. -/
  | bkpt (o : UCode)
  /-- TRAP (R307): Raises a precise TRAP trap with a code. -/
  | trap (o : UCode)
  /-- PRD (R331): Reads a system register named by sb. -/
  | prd (o : UPrd)
  /-- PWR (R331): Writes a system register named by sb. -/
  | pwr (o : UPwr)
  /-- BAR (R294): Arrives at a team barrier expecting every group. -/
  | bar (o : UBar)
  /-- BAR_PROD (R294): Arrives at a barrier expecting producers. -/
  | barProd (o : UBar)
  /-- BAR_CONS (R294): Arrives at a barrier expecting consumers. -/
  | barCons (o : UBar)
  /-- BAR_CNT (R294): Arrives at a barrier expecting a count of arrivals. -/
  | barCnt (o : UBarC)
  /-- FENCE_ACQ (R133): Acquire fence at a scope, optionally draining engines. -/
  | fenceAcq (o : UFence)
  /-- FENCE_REL (R133): Release fence at a scope. -/
  | fenceRel (o : UFence)
  /-- FENCE_FULL (R133): Full fence at a scope. -/
  | fenceFull (o : UFence)
  /-- SLD (R230): Weak 64-bit uniform load. -/
  | sld (o : ULd)
  /-- SST (R230): Weak 64-bit uniform store. -/
  | sst (o : USt)
  /-- SLDA (R230): Acquire 64-bit uniform load. -/
  | slda (o : ULd)
  /-- SSTR (R230): Release 64-bit uniform store. -/
  | sstr (o : USt)
  /-- SATOM (R232): Uniform atomic read-modify-write. -/
  | satom (o : UAtom)
  /-- QPUT (R235): Pushes a uniform value onto a team queue. -/
  | qput (o : UQput)
  /-- QGET (R235): Pops a team queue into a uniform register. -/
  | qget (o : UQget)
  /-- ASEAL (R239): Seals the open copy batch and returns its number. -/
  | aseal (o : UDc)
  /-- AWAIT (R114): Waits until at most n sealed batches are unfinished. -/
  | await (o : UWait)
  /-- AWAIT_T (R241): Waits for a ticketed operation and writes its status. -/
  | awaitT (o : UR2)
  /-- BXT (R242): Starts a block transfer described by a layout record. -/
  | bxt (o : UDAL)
  /-- GATH (R247): Starts an indexed gather described by a descriptor. -/
  | gath (o : UDAL)
  /-- SARM_ARM (R236): Arms a read or write stream after checks. -/
  | sarmArm (o : UArm)
  /-- SARM_DISARM (R236): Disarms a stream. -/
  | sarmDisarm (o : UStrm)
  /-- MGANG (R255): Sets the group's gang mask for joint operations. -/
  | mgang (o : UA)
  /-- MACQ (R267): Requests accumulator slots for the team. -/
  | macq (o : UMacq)
  /-- MREL (R269): Releases accumulator slots after their entries complete. -/
  | mrel (o : UA)
  /-- MMA (R262): Joint tile multiply-accumulate into a slot. -/
  | mma (o : UJoint)
  /-- MMA_CX (R262): Joint complex tile multiply-accumulate. -/
  | mmaCx (o : UJoint)
  /-- MLT (R264): Joint limb-tile multiply into column sums. -/
  | mlt (o : UJoint)
  /-- MACC_LOAD (R266): Loads a slot from an accumulator image. -/
  | maccLoad (o : UJoint)
  /-- MACC_STORE (R266): Stores a slot as an accumulator image. -/
  | maccStore (o : UJoint)
  /-- MXMUL (R271): Starts an exact long multiplication by ticket. -/
  | mxmul (o : UDAL)
  /-- NTT_FWD (R273): Starts a forward number-theoretic transform. -/
  | nttFwd (o : UNtt)
  /-- NTT_INV (R273): Starts an inverse number-theoretic transform. -/
  | nttInv (o : UNtt)
  /-- STOW (R296): Asks the stowage engine to place a limb array. -/
  | stow (o : UR2)
  /-- UNSTOW (R297): Frees a stowage placement. -/
  | unstow (o : UDAL)
  /-- PUBL (R298): Publishes a buffer by exchanging its copies. -/
  | publ (o : UA)
  /-- EMIT (R301): Appends a word or pair to an emit stream. -/
  | emit (o : UEmit)
  /-- ESEAL (R302): Seals a static region or ends a tow stream. -/
  | eseal (o : UEStrm)
  /-- ESYNC (R302): Waits until consumers have fetched every emitted word. -/
  | esync (o : UEStrm)
  /-- EOPEN (R300): Opens or reopens an emit stream with a capacity. -/
  | eopen (o : UEopen)
  /-- EPOS (R303): Reads a stream's write position and sequence count. -/
  | epos (o : UEpos)
  /-- TIDE (R305): Records the context's inbound bundle request for a link. -/
  | tide (o : UTide)
  /-- LAUNCH (R306): Launches a child grid from a packet by ticket. -/
  | launch (o : UR2)
  /-- LEXIT (R287): Pops the innermost loop level and continues after its end. -/
  | lexit
  /-- JOIN (R288): Pops a reconvergence entry, resuming waiting lanes or rejoining. -/
  | join
  /-- REGANG (R19): Stops the slice until all slices regather or trap with GANG. -/
  | regang
  /-- RGN (R291): Records a region entry for each slice and counts REGION. -/
  | rgn
  /-- EXIT (R292): Ends active lanes, or ends the generator on a Pilot. -/
  | exitLanes
  /-- ROLESW (R22): Switches the group to the other role's allotment, class and entry. -/
  | rolesw
  /-- NOP (R307): Does nothing. -/
  | nop
  /-- RETT (R338): Returns from a trap handler, restoring saved state. -/
  | rett
  /-- IDLE (R332): Waits for an S event or 1 ms. -/
  | idle
  /-- LEASEW (R367): Waits for the context's purges and leases to end. -/
  | leasew
  /-- HALT (R332): Ends every slice of the group; the launch fails HALTED. -/
  | halt
  /-- SSTEP (R26): Arrives at the grid-wide superstep barrier. -/
  | sstep
  /-- MACC_ZERO (R265): Clears a slot to mode CLEAR. -/
  | maccZero
  /-- ISSUE_ARBITRATION (R32): A free issue slot is granted to one ready candidate, which runs until a run end. -/
  | issueArbitration
  /-- LOAD_RESULT_ARRIVAL (R152): A load or returning atomic result arrives and writes its destination. -/
  | loadResultArrival
  /-- QUEUE_REQUEST_SERVED (R43): A stalled queue push or pop is served when entries or room allow. -/
  | queueRequestServed
  /-- WIDE_SEQUENCED_COMPLETE (R200): The wide sequencer completes a sequenced instruction and writes its destinations. -/
  | wideSequencedComplete
  /-- BATCH_COMPLETE (R114): A sealed copy batch completes in number order, releasing AWAIT. -/
  | batchComplete
  /-- BXT_COMPLETE (R245): A block transfer completes with its delivered mask. -/
  | bxtComplete
  /-- GATH_COMPLETE (R248): A gather completes with its out-of-range count. -/
  | gathComplete
  /-- MXMUL_COMPLETE (R271): A long multiplication completes DONE or FAILED. -/
  | mxmulComplete
  /-- NTT_COMPLETE (R273): An NTT unit completes a transform. -/
  | nttComplete
  /-- STOW_COMPLETE (R296): The stowage engine places a value and writes the handle. -/
  | stowComplete
  /-- CHILD_LAUNCH_COMPLETE (R306): A child grid and its children complete, setting the LAUNCH ticket status. -/
  | childLaunchComplete
  /-- MATRIX_PASS (R252): The engine grants an eligible entry and performs one pass. -/
  | matrixPass
  /-- JOINT_OP_COMPLETE (R257): A joint operation finishes and its gang continues. -/
  | jointOpComplete
  /-- MACC_COMPLETE (R266): A MACC load or store finishes its image transfer. -/
  | maccComplete
  /-- MACQ_GRANT (R267): The allocator grants the oldest slot request. -/
  | macqGrant
  /-- ACC_SPILL (R268): A slot is spilled to its team's backing area at a pass boundary. -/
  | accSpill
  /-- PUBL_EXCHANGE (R141): After its drains, PUBL exchanges the buffer copies at one time. -/
  | publExchange
  /-- SSTEP_RELEASE (R26): All groups arrived and engine operations drained; the step count rises. -/
  | sstepRelease
  /-- EMIT_RESUME (R48): A stalled EMIT appends once retention marks allow. -/
  | emitResume
  /-- ESYNC_COMPLETE (R302): Consumers have passed the write position and ESYNC returns. -/
  | esyncComplete
  /-- LEASEW_RETURN (R367): LEASEW returns and clears the context's filter slots. -/
  | leasewReturn
  /-- IDLE_WAKE (R332): An S event or 1 ms wakes an IDLE group. -/
  | idleWake
  /-- CONTROLLER_ACCESS (R354): A channel controller translates and performs an arriving access. -/
  | controllerAccess
  /-- PEER_INVALIDATE (R370): A directory invalidation reaches a sharer and is acknowledged. -/
  | peerInvalidate
  /-- LEASE_EXPIRE (R364): A translation lease expires. -/
  | leaseExpire
  /-- FAULT_ENTRY_WRITE (R369): A parked fault writes its entry once the ring has room. -/
  | faultEntryWrite
  /-- SCRUB_GRANULE (R377): The patrol scrubber reads and corrects or poisons a granule. -/
  | scrubGranule
  /-- REPLAY (R341): Re-issues the not-done lanes of a parked access. -/
  | replay
  /-- REFUSE (R341): Ends a parked access with XLATE. -/
  | refuse
  /-- GRESUME (R347): Re-executes a generator's faulting instruction. -/
  | gresume
  /-- GSKIP (R347): Continues a generator after its faulting instruction. -/
  | gskip
  /-- GCANCEL (R347): Ends a generator and cancels its launch. -/
  | gcancel
  /-- PURGE (R366): A PGCMD GO write starts a purge of a page range. -/
  | purge
  /-- PURGE_COMPLETE (R366): Every cache finishes a purge and BUSY clears. -/
  | purgeComplete
  /-- ATTACH (R349): Attaches the debugger to the selected target. -/
  | attach
  /-- DETACH (R349): Detaches the debugger. -/
  | detach
  /-- DBG_STOP (R350): Stops the target at its next boundary. -/
  | dbgStop
  /-- DBG_RESUME (R350): Lets a stopped target continue. -/
  | dbgResume
  /-- STEPI (R351): Issues one instruction in the selected slices and stops. -/
  | stepi
  /-- STEPR (R351): Runs the selected slices to the end of their run. -/
  | stepr
  /-- DBG_REGRD (R353): Reads a register of a stopped target into DBGDATA. -/
  | dbgRegrd
  /-- DBG_REGWR (R353): Writes a register of a stopped target, with FORCE against pending loads. -/
  | dbgRegwr
  /-- DOORBELL (R381): A producer writes a ring's WPOS. -/
  | doorbell
  /-- CQ_CONSUMED_WRITE (R397): Host writes its consumed completion count, freeing ring room. -/
  | cqConsumedWrite
  /-- MERGE_VISIT (R385): A merge unit visits a ring and takes at most one packet. -/
  | mergeVisit
  /-- FREEZE_COMPLETE (R411): The freeze image is visible; contexts become FROZEN or the freeze fails. -/
  | freezeComplete
  /-- THAW_COMPLETE (R414): Every restored launch has completed and THAW reports. -/
  | thawComplete
  /-- SEGMENT_RETURN (R383): A finished segment is returned to the free list when it has room. -/
  | segmentReturn
  /-- LAUNCH_ADMIT (R389): A launch is admitted once its dependency is met and superstep placement fits. -/
  | launchAdmit
  /-- TEAM_PLACE (R391): The dispatcher places a team on a cluster and carves its resources. -/
  | teamPlace
  /-- TEAM_RELEASE (R393): A placed team is released after its stagger and pool room. -/
  | teamRelease
  /-- GENERATOR_START (R394): The generator image is loaded and the Pilot starts. -/
  | generatorStart
  /-- LAUNCH_COMPLETE (R396): A launch ends, frees resources and writes its completion record. -/
  | launchComplete
  /-- COMPLETION_RECORD_WRITE (R397): A completion record is written once the ring has room. -/
  | completionRecordWrite
  /-- COALESCER_HOLD_EXPIRE (R398): CHOLD elapses and the coalescer releases and interrupts. -/
  | coalescerHoldExpire
  /-- AGE_TICK (R386): AGEUS elapses and a waiting queue's effective priority rises. -/
  | ageTick
  /-- QUEUE_PAUSE (R399): Stops a queue from being served. -/
  | queuePause
  /-- QUEUE_RESUME (R399): Lets a paused queue be served again. -/
  | queueResume
  /-- QUEUE_CANCEL (R399): Cancels a queue's untaken and unadmitted packets. -/
  | queueCancel
  /-- RLOAD (R380): Loads a ring table entry. -/
  | rload
  /-- QLOAD (R380): Loads a queue table entry. -/
  | qload
  /-- CREATE (R403): Creates a context in state LIVE. -/
  | create
  /-- DESTROY (R403): Destroys a context, ending its pools, exports and imports. -/
  | destroy
  /-- PREEMPT (R407): Starts stopping and saving a context. -/
  | preempt
  /-- PREEMPT_COMPLETE (R407): The context image is written and the context reads SAVED. -/
  | preemptComplete
  /-- CTX_RESUME (R407): Restores a saved context to its former resources. -/
  | ctxResume
  /-- EXPORT (R415): Exports a range and makes a token. -/
  | exportHandle
  /-- REVOKE (R418): Revokes an export entry. -/
  | revokeHandle
  /-- REVOKE_COMPLETE (R418): Accepted accesses and invalidations finish and BUSY clears. -/
  | revokeComplete
  /-- IMPORT (R417): Sends a token to its exporter to import a handle. -/
  | importHandle
  /-- IMPORT_RESPONSE (R417): The exporter's answer, or a 1 ms timeout, sets the import result. -/
  | importResponse
  /-- UNIMPORT (R418): Clears an import entry. -/
  | unimportHandle
  /-- POOL_WRITE (R404): A POOLn write sets up a stowage pool and frees its granules on enable. -/
  | poolWrite
  /-- PBUF_WRITE (R372): A PBUFn write enables a publish buffer with SEL 0. -/
  | pbufWrite
  /-- PCTL_WRITE (R363): A PCTLf write enables or disables a hash profile with checks. -/
  | pctlWrite
  /-- REGISTER_WRITE (R4): A write to a register without behaviour of its own stores by its access codes. -/
  | registerWrite
  /-- TIDE_EVALUATE (R419): Every 2 µs a link controller turns bundles towards its target. -/
  | tideEvaluate
  /-- ETH_TRANSMIT_FRAME (R425): A port sends one frame from its transmit ring and clears OWN. -/
  | ethTransmitFrame
  /-- ETH_RECEIVE_FRAME (R425): A port receives one frame into its receive ring. -/
  | ethReceiveFrame
  /-- TX_TAIL_WRITE (R425): Hands transmit descriptors to the port. -/
  | txTailWrite
  /-- RX_TAIL_WRITE (R425): Hands receive descriptors to the port. -/
  | rxTailWrite
  /-- POWER_ON_RESET (R433): Supplies applied restart everything from the boot ROM. -/
  | powerOnReset
  /-- PACKAGE_RESET (R433): PERST, BOOTCTL RESET or a watchdog restarts the package from the boot ROM. -/
  | packageReset
  /-- START_TIMER_EXPIRE (R426): FWREADY not written within 10 s causes a watchdog package reset. -/
  | startTimerExpire
  /-- FIRMWARE_WATCHDOG (R430): The firmware watchdog expires and resets the package. -/
  | firmwareWatchdog
  /-- FWREADY (R429): Firmware signals the end of a start; a full start erases the counter sector. -/
  | fwready
  /-- POWER_LOSS (R429): Supplies are lost, clearing all state but flash. -/
  | powerLoss
  /-- FUNCTION_LEVEL_RESET (R433): An FLR cancels one logical device's commands and frees its contexts. -/
  | functionLevelReset
  /-- LINK_RESET (R433): A hot reset retrains one host link and parks its accesses with NOHOST. -/
  | linkReset
  /-- POWER_EVALUATE (R434): Every 100 µs the harbour master adjusts the duty from power and temperature. -/
  | powerEvaluate
  /-- THERMTRIP (R435): A die at 110 °C records the reason and asserts THERMTRIP#. -/
  | thermtrip
  /-- WAKE_SLOT_GRANT (R436): A die grants a wake slot to an idle matrix engine. -/
  | wakeSlotGrant
  /-- BOOT_CLEAR (R437): BOOTCTL CLEAR erases the counter sector. -/
  | bootClear
  /-- BOOT_SAFE (R437): BOOTCTL SAFE programs bytes so the next start is safe harbour. -/
  | bootSafe
  /-- BOOT_RESET (R437): BOOTCTL RESET causes a package reset. -/
  | bootReset
  /-- ATTEST (R428): ATTCMD GO produces a signed attestation quote. -/
  | attest
  /-- FLASH_ERASE (R438): FLASHWIN GO with ERASE erases a flash sector. -/
  | flashErase
  /-- FLASH_PROGRAM (R438): FLASHWIN GO programs a flash page from host memory and verifies it. -/
  | flashProgram
  /-- FLASH_OP_COMPLETE (R438): A flash operation ends, clearing BUSY and setting ERR if it failed. -/
  | flashOpComplete
  /-- UNCORRECTABLE_ERROR (R375): An error that its check code cannot correct arises in an HBM granule, a register-cache entry, an accumulator or a row-remap entry. -/
  | uncorrectableError
  /-- ATTEST_COMPLETE (R437): The attestation quote is written and ATTSTAT.BUSY clears, with ERR set on failure. -/
  | attestComplete
  /-- HOST_LINK_UP (R433): A host link finishes training or retraining and carries traffic again, so host-memory accesses no longer meet NOHOST. -/
  | hostLinkUp
  /-- HOST_SNOOP (R424): A CXL.cache snoop from the host arrives and the basin cache answers it for the host lines it holds. -/
  | hostSnoop
  /-- RECOVERY_LINK_TIMEOUT (R432): In the boot ROM's recovery service, PD0's link does not train within 10 s and the ROM causes a package reset. -/
  | recoveryLinkTimeout
  /-- IMPORT_REQUEST_ARRIVAL (R417): An import token sent by another device or package arrives at the exporter, which checks it and answers OK, HANDLE or SIZE. -/
  | importRequestArrival
  deriving DecidableEq, Repr

end Sys2Proof
end

