-- ==== Sys2Proof/WellFormed.lean ====
section
/-! DEFINITION. Which terms of Instr are instructions: the step 1 checks of R158 and R439 that the fields' types do
not make. -/

namespace Sys2Proof

/-- The limb count of a span (R150, R196). -/
def Span.regs : Span → Nat
  | .w1 => 1
  | .w2 => 2
  | .w4 => 4

/-- ACP moves 32, 64 or 128 bits (R154, major 0x37). -/
def acpSize : Size → Bool
  | .b32 | .b64 | .b128 => true
  | .n8 | .i8 | .n16 | .i16 => false

/-- A no-return atomic writes no register, so its window is zero (R231). -/
def noReturnWindow (nr : Bool) (la : Nat) : Bool := !nr || la == 0

/-- A limb number lies in the span (R214, R215). -/
def limbInSpan (w : Span) (n : Fin 256) : Bool := decide (n.val < 32 * w.regs)

/-- The numbers of R66's table that SRD reads. -/
def srdNumber (n : BitVec 12) : Bool :=
  decide ((0x001 ≤ n.toNat ∧ n.toNat ≤ 0x013) ∨ (0x100 ≤ n.toNat ∧ n.toNat ≤ 0x13F))

/-- The numbers of R66's table that some privilege may write (R65, R64): not the registers that are RO at both U and S. -/
def swrNumber (n : BitVec 12) : Bool :=
  decide ((0x006 ≤ n.toNat ∧ n.toNat ≤ 0x009) ∨ (0x00B ≤ n.toNat ∧ n.toNat ≤ 0x00D) ∨ n.toNat = 0x011 ∨ n.toNat = 0x012 ∨
    (0x100 ≤ n.toNat ∧ n.toNat ≤ 0x13F ∧ n.toNat % 8 ≤ 5))

/-- The well-formed instructions. -/
def Instr.wf : Instr → Bool
  | .icmpI32 o => decide (o.cc ≠ .un)
  | .icmpN32 o => decide (o.cc ≠ .un)
  | .wcmpI o => decide (o.cc ≠ .un)
  | .wcmpN o => decide (o.cc ≠ .un)
  | .wgetl o => limbInSpan o.w o.n || o.n == 255
  | .wsetl o => limbInSpan o.w o.n
  | .acp o => acpSize o.z
  | .atom o => noReturnWindow o.nr o.la.val
  | .atom64 o => noReturnWindow o.nr o.la.val
  | .scmpI o => decide (o.cc ≠ .un)
  | .scmpN o => decide (o.cc ≠ .un)
  | .srd o => srdNumber o.n
  | .swr o => swrNumber o.n
  | .bra o => o.k != 0 || !o.x
  | .call o => o.k != 0 || !o.x
  | .brp o => o.k != 0 || !o.x
  | .satom o => noReturnWindow o.nr o.la.val
  | .qput o => o.nb || o.c == 0
  | .qget o => o.nb || o.c == 0
  | .macq o => decide (1 ≤ o.n.val ∧ o.n.val ≤ 8)
  | .nttFwd o => o.p != 3
  | .nttInv o => o.p != 3
  | .iadd _
  | .iaddSat _
  | .iaddSatN32 _
  | .isub _
  | .isubSat _
  | .isubSatN32 _
  | .imul _
  | .imulHi _
  | .imulHiN32 _
  | .imad _
  | .idivI32 _
  | .idivN32 _
  | .iremI32 _
  | .iremN32 _
  | .iminI32 _
  | .iminN32 _
  | .imaxI32 _
  | .imaxN32 _
  | .land _
  | .lor _
  | .lxor _
  | .landn _
  | .ishl _
  | .ishr _
  | .isar _
  | .irot _
  | .popc _
  | .clz _
  | .ctz _
  | .brev _
  | .sel _
  | .bfxN32 _
  | .bfxI32 _
  | .bfi _
  | .addmod _
  | .submod _
  | .mulmod _
  | .iaddi _
  | .ishli _
  | .ishri _
  | .isari _
  | .iroti _
  | .imovi _
  | .fadd _
  | .fsub _
  | .fmul _
  | .ffma _
  | .fmin _
  | .fmax _
  | .fscl _
  | .fcmp _
  | .fabs _
  | .fneg _
  | .frcp _
  | .frsq _
  | .fsqrt _
  | .fexp2 _
  | .flog2 _
  | .fclass _
  | .frint _
  | .dpe5 _
  | .dpbf _
  | .dpf8 _
  | .dpf4 _
  | .dadd _
  | .dsub _
  | .dmul _
  | .dfma _
  | .dcmp _
  | .cvt _
  | .pack8 _
  | .pack4 _
  | .dpi8I8 _
  | .dpi8N8 _
  | .dpi4I4 _
  | .dpi4N4 _
  | .shflIdx _
  | .shflUp _
  | .shflDown _
  | .shflXor _
  | .redadd _
  | .redmin _
  | .redmax _
  | .redminn _
  | .minxI32 _
  | .minxN32 _
  | .maxxI32 _
  | .maxxN32 _
  | .scanAdd _
  | .scanXadd _
  | .scanMax _
  | .scanMin _
  | .voteBallot _
  | .voteAny _
  | .voteAll _
  | .bcast _
  | .vget _
  | .lidx _
  | .pand _
  | .por _
  | .pxor _
  | .pandn _
  | .vtrp _
  | .wadd _
  | .wadc _
  | .wsub _
  | .wsbb _
  | .wand _
  | .wor _
  | .wxor _
  | .wandn _
  | .wshl _
  | .wshr _
  | .wsar _
  | .wmuls _
  | .wmads _
  | .wdivs _
  | .wdiv _
  | .wneg _
  | .wnot _
  | .wabs _
  | .wnorm _
  | .wclz _
  | .wpopc _
  | .wextI _
  | .wextN _
  | .cres _
  | .qadd _
  | .qsub _
  | .qmul _
  | .qdiv _
  | .qnorm _
  | .wgcd _
  | .ld _
  | .lds _
  | .ldi _
  | .st _
  | .sts _
  | .ldl _
  | .stl _
  | .sadd _
  | .ssub _
  | .smul _
  | .smulh _
  | .smulhn _
  | .sdiv _
  | .sdivn _
  | .srem _
  | .sand _
  | .sor _
  | .sxor _
  | .sandn _
  | .sshl _
  | .sshr _
  | .ssar _
  | .srot _
  | .smin _
  | .smax _
  | .sminn _
  | .smaxn _
  | .spopc _
  | .sclz _
  | .sctz _
  | .ssel _
  | .saddi _
  | .slui _
  | .slit _
  | .slith _
  | .sbfx _
  | .sbfxs _
  | .sbfi _
  | .cand _
  | .cor _
  | .cxor _
  | .candn _
  | .sbcv _
  | .jmpr _
  | .ret _
  | .callr _
  | .loop _
  | .lcnt _
  | .rcv _
  | .bkpt _
  | .trap _
  | .prd _
  | .pwr _
  | .bar _
  | .barProd _
  | .barCons _
  | .barCnt _
  | .fenceAcq _
  | .fenceRel _
  | .fenceFull _
  | .sld _
  | .sst _
  | .slda _
  | .sstr _
  | .aseal _
  | .await _
  | .awaitT _
  | .bxt _
  | .gath _
  | .sarmArm _
  | .sarmDisarm _
  | .mgang _
  | .mrel _
  | .mma _
  | .mmaCx _
  | .mlt _
  | .maccLoad _
  | .maccStore _
  | .mxmul _
  | .stow _
  | .unstow _
  | .publ _
  | .emit _
  | .eseal _
  | .esync _
  | .eopen _
  | .epos _
  | .tide _
  | .launch _
  | .lexit
  | .join
  | .regang
  | .rgn
  | .exitLanes
  | .rolesw
  | .nop
  | .rett
  | .idle
  | .leasew
  | .halt
  | .sstep
  | .maccZero
  | .issueArbitration
  | .loadResultArrival
  | .queueRequestServed
  | .wideSequencedComplete
  | .batchComplete
  | .bxtComplete
  | .gathComplete
  | .mxmulComplete
  | .nttComplete
  | .stowComplete
  | .childLaunchComplete
  | .matrixPass
  | .jointOpComplete
  | .maccComplete
  | .macqGrant
  | .accSpill
  | .publExchange
  | .sstepRelease
  | .emitResume
  | .esyncComplete
  | .leasewReturn
  | .idleWake
  | .controllerAccess
  | .peerInvalidate
  | .leaseExpire
  | .faultEntryWrite
  | .scrubGranule
  | .replay
  | .refuse
  | .gresume
  | .gskip
  | .gcancel
  | .purge
  | .purgeComplete
  | .attach
  | .detach
  | .dbgStop
  | .dbgResume
  | .stepi
  | .stepr
  | .dbgRegrd
  | .dbgRegwr
  | .doorbell
  | .cqConsumedWrite
  | .mergeVisit
  | .freezeComplete
  | .thawComplete
  | .segmentReturn
  | .launchAdmit
  | .teamPlace
  | .teamRelease
  | .generatorStart
  | .launchComplete
  | .completionRecordWrite
  | .coalescerHoldExpire
  | .ageTick
  | .queuePause
  | .queueResume
  | .queueCancel
  | .rload
  | .qload
  | .create
  | .destroy
  | .preempt
  | .preemptComplete
  | .ctxResume
  | .exportHandle
  | .revokeHandle
  | .revokeComplete
  | .importHandle
  | .importResponse
  | .unimportHandle
  | .poolWrite
  | .pbufWrite
  | .pctlWrite
  | .registerWrite
  | .tideEvaluate
  | .ethTransmitFrame
  | .ethReceiveFrame
  | .txTailWrite
  | .rxTailWrite
  | .powerOnReset
  | .packageReset
  | .startTimerExpire
  | .firmwareWatchdog
  | .fwready
  | .powerLoss
  | .functionLevelReset
  | .linkReset
  | .powerEvaluate
  | .thermtrip
  | .wakeSlotGrant
  | .bootClear
  | .bootSafe
  | .bootReset
  | .attest
  | .flashErase
  | .flashProgram
  | .flashOpComplete
  | .uncorrectableError
  | .attestComplete
  | .hostLinkUp
  | .hostSnoop
  | .recoveryLinkTimeout
  | .importRequestArrival => true

/-- The UR words whose condition field guards them (R157, R277); SSEL's selects instead, and is its operand. -/
def Instr.conditional : Instr → Bool
  | .sadd _
  | .ssub _
  | .smul _
  | .smulh _
  | .smulhn _
  | .sdiv _
  | .sdivn _
  | .srem _
  | .sand _
  | .sor _
  | .sxor _
  | .sandn _
  | .sshl _
  | .sshr _
  | .ssar _
  | .srot _
  | .smin _
  | .smax _
  | .sminn _
  | .smaxn _
  | .spopc _
  | .sclz _
  | .sctz _
  | .scmpI _
  | .scmpN _
  | .sbfx _
  | .sbfxs _
  | .sbfi _
  | .cand _
  | .cor _
  | .cxor _
  | .candn _
  | .sbcv _
  | .jmpr _
  | .ret _
  | .callr _
  | .lcnt _
  | .prd _
  | .pwr _
  | .aseal _
  | .mgang _
  | .mrel _
  | .publ _
  | .launch _
  | .lexit
  | .regang
  | .rgn
  | .exitLanes
  | .rolesw
  | .nop
  | .rett
  | .idle
  | .leasew
  | .halt => true
  | .iadd _
  | .iaddSat _
  | .iaddSatN32 _
  | .isub _
  | .isubSat _
  | .isubSatN32 _
  | .imul _
  | .imulHi _
  | .imulHiN32 _
  | .imad _
  | .idivI32 _
  | .idivN32 _
  | .iremI32 _
  | .iremN32 _
  | .iminI32 _
  | .iminN32 _
  | .imaxI32 _
  | .imaxN32 _
  | .land _
  | .lor _
  | .lxor _
  | .landn _
  | .ishl _
  | .ishr _
  | .isar _
  | .irot _
  | .popc _
  | .clz _
  | .ctz _
  | .brev _
  | .icmpI32 _
  | .icmpN32 _
  | .sel _
  | .bfxN32 _
  | .bfxI32 _
  | .bfi _
  | .addmod _
  | .submod _
  | .mulmod _
  | .iaddi _
  | .ishli _
  | .ishri _
  | .isari _
  | .iroti _
  | .imovi _
  | .fadd _
  | .fsub _
  | .fmul _
  | .ffma _
  | .fmin _
  | .fmax _
  | .fscl _
  | .fcmp _
  | .fabs _
  | .fneg _
  | .frcp _
  | .frsq _
  | .fsqrt _
  | .fexp2 _
  | .flog2 _
  | .fclass _
  | .frint _
  | .dpe5 _
  | .dpbf _
  | .dpf8 _
  | .dpf4 _
  | .dadd _
  | .dsub _
  | .dmul _
  | .dfma _
  | .dcmp _
  | .cvt _
  | .pack8 _
  | .pack4 _
  | .dpi8I8 _
  | .dpi8N8 _
  | .dpi4I4 _
  | .dpi4N4 _
  | .shflIdx _
  | .shflUp _
  | .shflDown _
  | .shflXor _
  | .redadd _
  | .redmin _
  | .redmax _
  | .redminn _
  | .minxI32 _
  | .minxN32 _
  | .maxxI32 _
  | .maxxN32 _
  | .scanAdd _
  | .scanXadd _
  | .scanMax _
  | .scanMin _
  | .voteBallot _
  | .voteAny _
  | .voteAll _
  | .bcast _
  | .vget _
  | .lidx _
  | .pand _
  | .por _
  | .pxor _
  | .pandn _
  | .vtrp _
  | .wadd _
  | .wadc _
  | .wsub _
  | .wsbb _
  | .wand _
  | .wor _
  | .wxor _
  | .wandn _
  | .wshl _
  | .wshr _
  | .wsar _
  | .wmuls _
  | .wmads _
  | .wdivs _
  | .wdiv _
  | .wcmpI _
  | .wcmpN _
  | .wneg _
  | .wnot _
  | .wabs _
  | .wnorm _
  | .wclz _
  | .wpopc _
  | .wextI _
  | .wextN _
  | .wgetl _
  | .wsetl _
  | .cres _
  | .qadd _
  | .qsub _
  | .qmul _
  | .qdiv _
  | .qnorm _
  | .wgcd _
  | .acp _
  | .ld _
  | .lds _
  | .ldi _
  | .st _
  | .sts _
  | .ldl _
  | .stl _
  | .atom _
  | .atom64 _
  | .ssel _
  | .saddi _
  | .slui _
  | .slit _
  | .slith _
  | .srd _
  | .swr _
  | .bra _
  | .call _
  | .loop _
  | .brp _
  | .rcv _
  | .bkpt _
  | .trap _
  | .bar _
  | .barProd _
  | .barCons _
  | .barCnt _
  | .fenceAcq _
  | .fenceRel _
  | .fenceFull _
  | .sld _
  | .sst _
  | .slda _
  | .sstr _
  | .satom _
  | .qput _
  | .qget _
  | .await _
  | .awaitT _
  | .bxt _
  | .gath _
  | .sarmArm _
  | .sarmDisarm _
  | .macq _
  | .mma _
  | .mmaCx _
  | .mlt _
  | .maccLoad _
  | .maccStore _
  | .mxmul _
  | .nttFwd _
  | .nttInv _
  | .stow _
  | .unstow _
  | .emit _
  | .eseal _
  | .esync _
  | .eopen _
  | .epos _
  | .tide _
  | .join
  | .sstep
  | .maccZero
  | .issueArbitration
  | .loadResultArrival
  | .queueRequestServed
  | .wideSequencedComplete
  | .batchComplete
  | .bxtComplete
  | .gathComplete
  | .mxmulComplete
  | .nttComplete
  | .stowComplete
  | .childLaunchComplete
  | .matrixPass
  | .jointOpComplete
  | .maccComplete
  | .macqGrant
  | .accSpill
  | .publExchange
  | .sstepRelease
  | .emitResume
  | .esyncComplete
  | .leasewReturn
  | .idleWake
  | .controllerAccess
  | .peerInvalidate
  | .leaseExpire
  | .faultEntryWrite
  | .scrubGranule
  | .replay
  | .refuse
  | .gresume
  | .gskip
  | .gcancel
  | .purge
  | .purgeComplete
  | .attach
  | .detach
  | .dbgStop
  | .dbgResume
  | .stepi
  | .stepr
  | .dbgRegrd
  | .dbgRegwr
  | .doorbell
  | .cqConsumedWrite
  | .mergeVisit
  | .freezeComplete
  | .thawComplete
  | .segmentReturn
  | .launchAdmit
  | .teamPlace
  | .teamRelease
  | .generatorStart
  | .launchComplete
  | .completionRecordWrite
  | .coalescerHoldExpire
  | .ageTick
  | .queuePause
  | .queueResume
  | .queueCancel
  | .rload
  | .qload
  | .create
  | .destroy
  | .preempt
  | .preemptComplete
  | .ctxResume
  | .exportHandle
  | .revokeHandle
  | .revokeComplete
  | .importHandle
  | .importResponse
  | .unimportHandle
  | .poolWrite
  | .pbufWrite
  | .pctlWrite
  | .registerWrite
  | .tideEvaluate
  | .ethTransmitFrame
  | .ethReceiveFrame
  | .txTailWrite
  | .rxTailWrite
  | .powerOnReset
  | .packageReset
  | .startTimerExpire
  | .firmwareWatchdog
  | .fwready
  | .powerLoss
  | .functionLevelReset
  | .linkReset
  | .powerEvaluate
  | .thermtrip
  | .wakeSlotGrant
  | .bootClear
  | .bootSafe
  | .bootReset
  | .attest
  | .flashErase
  | .flashProgram
  | .flashOpComplete
  | .uncorrectableError
  | .attestComplete
  | .hostLinkUp
  | .hostSnoop
  | .recoveryLinkTimeout
  | .importRequestArrival => false

/-- The joint matrix words, whose field [7:5] names a slot (R262, R265). -/
def Instr.joint : Instr → Bool
  | .mma _
  | .mmaCx _
  | .mlt _
  | .maccLoad _
  | .maccStore _
  | .maccZero => true
  | .iadd _
  | .iaddSat _
  | .iaddSatN32 _
  | .isub _
  | .isubSat _
  | .isubSatN32 _
  | .imul _
  | .imulHi _
  | .imulHiN32 _
  | .imad _
  | .idivI32 _
  | .idivN32 _
  | .iremI32 _
  | .iremN32 _
  | .iminI32 _
  | .iminN32 _
  | .imaxI32 _
  | .imaxN32 _
  | .land _
  | .lor _
  | .lxor _
  | .landn _
  | .ishl _
  | .ishr _
  | .isar _
  | .irot _
  | .popc _
  | .clz _
  | .ctz _
  | .brev _
  | .icmpI32 _
  | .icmpN32 _
  | .sel _
  | .bfxN32 _
  | .bfxI32 _
  | .bfi _
  | .addmod _
  | .submod _
  | .mulmod _
  | .iaddi _
  | .ishli _
  | .ishri _
  | .isari _
  | .iroti _
  | .imovi _
  | .fadd _
  | .fsub _
  | .fmul _
  | .ffma _
  | .fmin _
  | .fmax _
  | .fscl _
  | .fcmp _
  | .fabs _
  | .fneg _
  | .frcp _
  | .frsq _
  | .fsqrt _
  | .fexp2 _
  | .flog2 _
  | .fclass _
  | .frint _
  | .dpe5 _
  | .dpbf _
  | .dpf8 _
  | .dpf4 _
  | .dadd _
  | .dsub _
  | .dmul _
  | .dfma _
  | .dcmp _
  | .cvt _
  | .pack8 _
  | .pack4 _
  | .dpi8I8 _
  | .dpi8N8 _
  | .dpi4I4 _
  | .dpi4N4 _
  | .shflIdx _
  | .shflUp _
  | .shflDown _
  | .shflXor _
  | .redadd _
  | .redmin _
  | .redmax _
  | .redminn _
  | .minxI32 _
  | .minxN32 _
  | .maxxI32 _
  | .maxxN32 _
  | .scanAdd _
  | .scanXadd _
  | .scanMax _
  | .scanMin _
  | .voteBallot _
  | .voteAny _
  | .voteAll _
  | .bcast _
  | .vget _
  | .lidx _
  | .pand _
  | .por _
  | .pxor _
  | .pandn _
  | .vtrp _
  | .wadd _
  | .wadc _
  | .wsub _
  | .wsbb _
  | .wand _
  | .wor _
  | .wxor _
  | .wandn _
  | .wshl _
  | .wshr _
  | .wsar _
  | .wmuls _
  | .wmads _
  | .wdivs _
  | .wdiv _
  | .wcmpI _
  | .wcmpN _
  | .wneg _
  | .wnot _
  | .wabs _
  | .wnorm _
  | .wclz _
  | .wpopc _
  | .wextI _
  | .wextN _
  | .wgetl _
  | .wsetl _
  | .cres _
  | .qadd _
  | .qsub _
  | .qmul _
  | .qdiv _
  | .qnorm _
  | .wgcd _
  | .acp _
  | .ld _
  | .lds _
  | .ldi _
  | .st _
  | .sts _
  | .ldl _
  | .stl _
  | .atom _
  | .atom64 _
  | .sadd _
  | .ssub _
  | .smul _
  | .smulh _
  | .smulhn _
  | .sdiv _
  | .sdivn _
  | .srem _
  | .sand _
  | .sor _
  | .sxor _
  | .sandn _
  | .sshl _
  | .sshr _
  | .ssar _
  | .srot _
  | .smin _
  | .smax _
  | .sminn _
  | .smaxn _
  | .spopc _
  | .sclz _
  | .sctz _
  | .ssel _
  | .scmpI _
  | .scmpN _
  | .saddi _
  | .slui _
  | .slit _
  | .slith _
  | .sbfx _
  | .sbfxs _
  | .sbfi _
  | .cand _
  | .cor _
  | .cxor _
  | .candn _
  | .sbcv _
  | .srd _
  | .swr _
  | .bra _
  | .call _
  | .jmpr _
  | .ret _
  | .callr _
  | .loop _
  | .lcnt _
  | .brp _
  | .rcv _
  | .bkpt _
  | .trap _
  | .prd _
  | .pwr _
  | .bar _
  | .barProd _
  | .barCons _
  | .barCnt _
  | .fenceAcq _
  | .fenceRel _
  | .fenceFull _
  | .sld _
  | .sst _
  | .slda _
  | .sstr _
  | .satom _
  | .qput _
  | .qget _
  | .aseal _
  | .await _
  | .awaitT _
  | .bxt _
  | .gath _
  | .sarmArm _
  | .sarmDisarm _
  | .mgang _
  | .macq _
  | .mrel _
  | .mxmul _
  | .nttFwd _
  | .nttInv _
  | .stow _
  | .unstow _
  | .publ _
  | .emit _
  | .eseal _
  | .esync _
  | .eopen _
  | .epos _
  | .tide _
  | .launch _
  | .lexit
  | .join
  | .regang
  | .rgn
  | .exitLanes
  | .rolesw
  | .nop
  | .rett
  | .idle
  | .leasew
  | .halt
  | .sstep
  | .issueArbitration
  | .loadResultArrival
  | .queueRequestServed
  | .wideSequencedComplete
  | .batchComplete
  | .bxtComplete
  | .gathComplete
  | .mxmulComplete
  | .nttComplete
  | .stowComplete
  | .childLaunchComplete
  | .matrixPass
  | .jointOpComplete
  | .maccComplete
  | .macqGrant
  | .accSpill
  | .publExchange
  | .sstepRelease
  | .emitResume
  | .esyncComplete
  | .leasewReturn
  | .idleWake
  | .controllerAccess
  | .peerInvalidate
  | .leaseExpire
  | .faultEntryWrite
  | .scrubGranule
  | .replay
  | .refuse
  | .gresume
  | .gskip
  | .gcancel
  | .purge
  | .purgeComplete
  | .attach
  | .detach
  | .dbgStop
  | .dbgResume
  | .stepi
  | .stepr
  | .dbgRegrd
  | .dbgRegwr
  | .doorbell
  | .cqConsumedWrite
  | .mergeVisit
  | .freezeComplete
  | .thawComplete
  | .segmentReturn
  | .launchAdmit
  | .teamPlace
  | .teamRelease
  | .generatorStart
  | .launchComplete
  | .completionRecordWrite
  | .coalescerHoldExpire
  | .ageTick
  | .queuePause
  | .queueResume
  | .queueCancel
  | .rload
  | .qload
  | .create
  | .destroy
  | .preempt
  | .preemptComplete
  | .ctxResume
  | .exportHandle
  | .revokeHandle
  | .revokeComplete
  | .importHandle
  | .importResponse
  | .unimportHandle
  | .poolWrite
  | .pbufWrite
  | .pctlWrite
  | .registerWrite
  | .tideEvaluate
  | .ethTransmitFrame
  | .ethReceiveFrame
  | .txTailWrite
  | .rxTailWrite
  | .powerOnReset
  | .packageReset
  | .startTimerExpire
  | .firmwareWatchdog
  | .fwready
  | .powerLoss
  | .functionLevelReset
  | .linkReset
  | .powerEvaluate
  | .thermtrip
  | .wakeSlotGrant
  | .bootClear
  | .bootSafe
  | .bootReset
  | .attest
  | .flashErase
  | .flashProgram
  | .flashOpComplete
  | .uncorrectableError
  | .attestComplete
  | .hostLinkUp
  | .hostSnoop
  | .recoveryLinkTimeout
  | .importRequestArrival => false

/-- An Issue that the instruction's encoding can carry. -/
def Instr.issueOk (i : Instr) (q : Issue) : Bool := (i.conditional || q.c == 0) && (i.joint || q.j == 0)

end Sys2Proof
end

