-- ==== Sys2Proof/Decode.lean ====
section
/-! DEFINITION. Bytes to instructions and back (R147 to R158), from the encoding tables of 07: the decoder, total on any
bytes and rejecting by name, then the encoder. Fields are read with division and remainder, so that both directions are
plain arithmetic. -/

namespace Sys2Proof

/-- Why bytes are no instruction. Each but `short` is step 1 of R158. -/
inductive DecodeError
  /-- Fewer bytes than the instruction has. -/
  | short
  /-- Lane major 0x00 or uniform major 0x3F (R154, R157). -/
  | illegalForEver
  /-- A major that no row of the maps uses. -/
  | reservedMajor
  /-- A reserved code or a nonzero must-be-zero bit within an assigned major. -/
  | reservedCode
  /-- A field value that the row does not accept (R439, step 1). -/
  | badField
  deriving DecidableEq, Repr

/-- The field of `n` values at bit `lo` of a word. -/
def field (n : Nat) (lo w : Nat) (h : 0 < n := by decide) : Fin n := ⟨w / 2 ^ lo % n, Nat.mod_lt _ h⟩

/-- One bit of a word. -/
def flag (lo w : Nat) : Bool := w / 2 ^ lo % 2 == 1

/-- A bit as a number. -/
def bitNat (b : Bool) : Nat := if b then 1 else 0

/-- Four bytes, lowest address first, as a word (R2). -/
def wordOfBytes (a b c d : Byte) : Nat := a.toNat + 2 ^ 8 * b.toNat + 2 ^ 16 * c.toNat + 2 ^ 24 * d.toNat

/-- The bytes of a word, lowest address first (R2). -/
def bytesOfWord (w : Word) : List Byte :=
  [w.truncate 8, (w >>> 8).truncate 8, (w >>> 16).truncate 8, (w >>> 24).truncate 8]

/-- The code of a Cmp value (R155). -/
def Cmp.code : Cmp → Nat
  | .eq => 0
  | .ne => 1
  | .lt => 2
  | .le => 3
  | .gt => 4
  | .ge => 5
  | .un => 6

/-- The Cmp value of a code; the others are reserved (R155). -/
def Cmp.ofCode : Nat → Option Cmp
  | 0 => some .eq
  | 1 => some .ne
  | 2 => some .lt
  | 3 => some .le
  | 4 => some .gt
  | 5 => some .ge
  | 6 => some .un
  | _ => none

/-- The code of a Size value (R148). -/
def Size.code : Size → Nat
  | .n8 => 0
  | .i8 => 1
  | .n16 => 2
  | .i16 => 3
  | .b32 => 4
  | .b64 => 5
  | .b128 => 6

/-- The Size value of a code; the others are reserved (R148). -/
def Size.ofCode : Nat → Option Size
  | 0 => some .n8
  | 1 => some .i8
  | 2 => some .n16
  | 3 => some .i16
  | 4 => some .b32
  | 5 => some .b64
  | 6 => some .b128
  | _ => none

/-- The code of a AtomOp value (R155). -/
def AtomOp.code : AtomOp → Nat
  | .add => 0
  | .sub => 1
  | .minI => 2
  | .maxI => 3
  | .minN => 4
  | .maxN => 5
  | .land => 6
  | .lor => 7
  | .lxor => 8
  | .swap => 9
  | .cas => 10
  | .fadd => 11

/-- The AtomOp value of a code; the others are reserved (R155). -/
def AtomOp.ofCode : Nat → Option AtomOp
  | 0 => some .add
  | 1 => some .sub
  | 2 => some .minI
  | 3 => some .maxI
  | 4 => some .minN
  | 5 => some .maxN
  | 6 => some .land
  | 7 => some .lor
  | 8 => some .lxor
  | 9 => some .swap
  | 10 => some .cas
  | 11 => some .fadd
  | _ => none

/-- The code of a Scope value (R122). -/
def Scope.code : Scope → Nat
  | .group => 0
  | .team => 1
  | .cluster => 2
  | .device => 3
  | .package => 4
  | .system => 5

/-- The Scope value of a code; the others are reserved (R122). -/
def Scope.ofCode : Nat → Option Scope
  | 0 => some .group
  | 1 => some .team
  | 2 => some .cluster
  | 3 => some .device
  | 4 => some .package
  | 5 => some .system
  | _ => none

/-- The code of a Span value (R150). -/
def Span.code : Span → Nat
  | .w1 => 0
  | .w2 => 1
  | .w4 => 2

/-- The Span value of a code; the others are reserved (R150). -/
def Span.ofCode : Nat → Option Span
  | 0 => some .w1
  | 1 => some .w2
  | 2 => some .w4
  | _ => none

/-- The code of a Rm value (R154). -/
def Rm.code : Rm → Nat
  | .rne => 0
  | .rtz => 1
  | .rdn => 2
  | .rup => 3

/-- The Rm value of a code; the others are reserved (R154). -/
def Rm.ofCode : Nat → Option Rm
  | 0 => some .rne
  | 1 => some .rtz
  | 2 => some .rdn
  | 3 => some .rup
  | _ => none

/-- The code of a Cvt value (R156). -/
def Cvt.code : Cvt → Nat
  | .f32I32 => 0
  | .f32N32 => 1
  | .i32F32 => 2
  | .n32F32 => 3
  | .f64F32 => 4
  | .f32F64 => 5
  | .f64I32 => 6
  | .f64N32 => 7
  | .i32F64 => 8
  | .n32F64 => 9
  | .bf16F32 => 10
  | .f32Bf16 => 11
  | .e4m3F32 => 12
  | .f32E4m3 => 13
  | .e5m2F32 => 14
  | .f32E5m2 => 15
  | .e2m1F32 => 16
  | .f32E2m1 => 17
  | .e8m0F32 => 18
  | .f32E8m0 => 19
  | .mxint8F32 => 20
  | .f32Mxint8 => 21

/-- The Cvt value of a code; the others are reserved (R156). -/
def Cvt.ofCode : Nat → Option Cvt
  | 0 => some .f32I32
  | 1 => some .f32N32
  | 2 => some .i32F32
  | 3 => some .n32F32
  | 4 => some .f64F32
  | 5 => some .f32F64
  | 6 => some .f64I32
  | 7 => some .f64N32
  | 8 => some .i32F64
  | 9 => some .n32F64
  | 10 => some .bf16F32
  | 11 => some .f32Bf16
  | 12 => some .e4m3F32
  | 13 => some .f32E4m3
  | 14 => some .e5m2F32
  | 15 => some .f32E5m2
  | 16 => some .e2m1F32
  | 17 => some .f32E2m1
  | 18 => some .e8m0F32
  | 19 => some .f32E8m0
  | 20 => some .mxint8F32
  | 21 => some .f32Mxint8
  | _ => none

/-- The fields of a word: three lane registers with U and a guard (R148, LR). -/
def LR3.parse (raw : Nat) : LR3 :=
  ⟨flag 23 raw, field 8 20 raw, field 64 14 raw, field 64 8 raw, field 64 2 raw⟩

/-- The field bits of a word: three lane registers with U and a guard (R148, LR). -/
def LR3.bits (o : LR3) : Nat :=
  bitNat o.u * 2 ^ 23 + o.g.val * 2 ^ 20 + o.vd.val * 2 ^ 14 + o.va.val * 2 ^ 8 + o.vb.val * 2 ^ 2

/-- The fields of a word: two lane registers with U and a guard (R148, LR with a zero vb field). -/
def LR2.parse (raw : Nat) : LR2 :=
  ⟨flag 23 raw, field 8 20 raw, field 64 14 raw, field 64 8 raw⟩

/-- The field bits of a word: two lane registers with U and a guard (R148, LR with a zero vb field). -/
def LR2.bits (o : LR2) : Nat :=
  bitNat o.u * 2 ^ 23 + o.g.val * 2 ^ 20 + o.vd.val * 2 ^ 14 + o.va.val * 2 ^ 8

/-- The fields of a word, none for a reserved code: a lane comparison: code, destination predicate and two sources (R176). -/
def LCmp.parse (raw : Nat) : Option LCmp :=
  match Cmp.ofCode (raw / 2 ^ 17 % 8) with
  | none => none
  | some cc =>
    some ⟨flag 23 raw, field 8 20 raw, cc, field 8 14 raw, field 64 8 raw, field 64 2 raw⟩

/-- The field bits of a word: a lane comparison: code, destination predicate and two sources (R176). -/
def LCmp.bits (o : LCmp) : Nat :=
  bitNat o.u * 2 ^ 23 + o.g.val * 2 ^ 20 + o.cc.code * 2 ^ 17 + o.k.val * 2 ^ 14 + o.va.val * 2 ^ 8 + o.vb.val * 2 ^ 2

/-- The fields of a word: a lane register and an 8-bit immediate (R148, LI). -/
def LImm.parse (raw : Nat) : LImm :=
  ⟨flag 23 raw, field 8 20 raw, field 64 14 raw, field 64 8 raw, BitVec.ofNat 8 (raw / 2 ^ 0)⟩

/-- The field bits of a word: a lane register and an 8-bit immediate (R148, LI). -/
def LImm.bits (o : LImm) : Nat :=
  bitNat o.u * 2 ^ 23 + o.g.val * 2 ^ 20 + o.vd.val * 2 ^ 14 + o.va.val * 2 ^ 8 + o.imm.toNat * 2 ^ 0

/-- The fields of a word: a lane register and a shift amount (R173). -/
def LShift.parse (raw : Nat) : LShift :=
  ⟨flag 23 raw, field 8 20 raw, field 64 14 raw, field 64 8 raw, field 32 0 raw⟩

/-- The field bits of a word: a lane register and a shift amount (R173). -/
def LShift.bits (o : LShift) : Nat :=
  bitNat o.u * 2 ^ 23 + o.g.val * 2 ^ 20 + o.vd.val * 2 ^ 14 + o.va.val * 2 ^ 8 + o.amt.val * 2 ^ 0

/-- The fields of a word: a 14-bit immediate (R170). -/
def LMov.parse (raw : Nat) : LMov :=
  ⟨flag 23 raw, field 8 20 raw, field 64 14 raw, BitVec.ofNat 14 (raw / 2 ^ 0)⟩

/-- The field bits of a word: a 14-bit immediate (R170). -/
def LMov.bits (o : LMov) : Nat :=
  bitNat o.u * 2 ^ 23 + o.g.val * 2 ^ 20 + o.vd.val * 2 ^ 14 + o.imm.toNat * 2 ^ 0

/-- The fields of a word, none for a reserved code: a conversion code and a rounding mode (R184). -/
def LCvt.parse (raw : Nat) : Option LCvt :=
  match Cvt.ofCode (raw / 2 ^ 2 % 64) with
  | none => none
  | some code =>
  match Rm.ofCode (raw / 2 ^ 0 % 4) with
  | none => none
  | some rm =>
    some ⟨flag 23 raw, field 8 20 raw, field 64 14 raw, field 64 8 raw, code, rm⟩

/-- The field bits of a word: a conversion code and a rounding mode (R184). -/
def LCvt.bits (o : LCvt) : Nat :=
  bitNat o.u * 2 ^ 23 + o.g.val * 2 ^ 20 + o.vd.val * 2 ^ 14 + o.va.val * 2 ^ 8 + o.code.code * 2 ^ 2 + o.rm.code * 2 ^ 0

/-- The fields of a word: a byte index (R185). -/
def LPack8.parse (raw : Nat) : LPack8 :=
  ⟨flag 23 raw, field 8 20 raw, field 64 14 raw, field 64 8 raw, field 4 2 raw⟩

/-- The field bits of a word: a byte index (R185). -/
def LPack8.bits (o : LPack8) : Nat :=
  bitNat o.u * 2 ^ 23 + o.g.val * 2 ^ 20 + o.vd.val * 2 ^ 14 + o.va.val * 2 ^ 8 + o.k.val * 2 ^ 2

/-- The fields of a word: a nibble index (R185). -/
def LPack4.parse (raw : Nat) : LPack4 :=
  ⟨flag 23 raw, field 8 20 raw, field 64 14 raw, field 64 8 raw, field 8 2 raw⟩

/-- The field bits of a word: a nibble index (R185). -/
def LPack4.bits (o : LPack4) : Nat :=
  bitNat o.u * 2 ^ 23 + o.g.val * 2 ^ 20 + o.vd.val * 2 ^ 14 + o.va.val * 2 ^ 8 + o.k.val * 2 ^ 2

/-- The fields of a word: three lane registers, no U (R188). -/
def XR3.parse (raw : Nat) : XR3 :=
  ⟨field 8 20 raw, field 64 14 raw, field 64 8 raw, field 64 2 raw⟩

/-- The field bits of a word: three lane registers, no U (R188). -/
def XR3.bits (o : XR3) : Nat :=
  o.g.val * 2 ^ 20 + o.vd.val * 2 ^ 14 + o.va.val * 2 ^ 8 + o.vb.val * 2 ^ 2

/-- The fields of a word: two lane registers, no U (R189). -/
def XR2.parse (raw : Nat) : XR2 :=
  ⟨field 8 20 raw, field 64 14 raw, field 64 8 raw⟩

/-- The field bits of a word: two lane registers, no U (R189). -/
def XR2.bits (o : XR2) : Nat :=
  o.g.val * 2 ^ 20 + o.vd.val * 2 ^ 14 + o.va.val * 2 ^ 8

/-- The fields of a word: a ballot: destination register and source predicate (R192). -/
def XBallot.parse (raw : Nat) : XBallot :=
  ⟨field 8 20 raw, field 64 14 raw, field 8 8 raw⟩

/-- The field bits of a word: a ballot: destination register and source predicate (R192). -/
def XBallot.bits (o : XBallot) : Nat :=
  o.g.val * 2 ^ 20 + o.vd.val * 2 ^ 14 + o.k.val * 2 ^ 8

/-- The fields of a word: a vote: destination and source predicate (R192). -/
def XVote.parse (raw : Nat) : XVote :=
  ⟨field 8 20 raw, field 8 14 raw, field 8 8 raw⟩

/-- The field bits of a word: a vote: destination and source predicate (R192). -/
def XVote.bits (o : XVote) : Nat :=
  o.g.val * 2 ^ 20 + o.j.val * 2 ^ 14 + o.k.val * 2 ^ 8

/-- The fields of a word: a uniform source to a lane register (R193). -/
def XBcast.parse (raw : Nat) : XBcast :=
  ⟨field 8 20 raw, field 64 14 raw, field 64 8 raw⟩

/-- The field bits of a word: a uniform source to a lane register (R193). -/
def XBcast.bits (o : XBcast) : Nat :=
  o.g.val * 2 ^ 20 + o.vd.val * 2 ^ 14 + o.s.val * 2 ^ 8

/-- The fields of a word: one lane of a lane register to a uniform register (R193). -/
def XGet.parse (raw : Nat) : XGet :=
  ⟨field 8 20 raw, field 64 14 raw, field 64 8 raw, field 32 2 raw⟩

/-- The field bits of a word: one lane of a lane register to a uniform register (R193). -/
def XGet.bits (o : XGet) : Nat :=
  o.g.val * 2 ^ 20 + o.s.val * 2 ^ 14 + o.va.val * 2 ^ 8 + o.n.val * 2 ^ 2

/-- The fields of a word: one lane register (R193). -/
def X1.parse (raw : Nat) : X1 :=
  ⟨field 8 20 raw, field 64 14 raw⟩

/-- The field bits of a word: one lane register (R193). -/
def X1.bits (o : X1) : Nat :=
  o.g.val * 2 ^ 20 + o.vd.val * 2 ^ 14

/-- The fields of a word: three predicates (R194). -/
def XPred.parse (raw : Nat) : XPred :=
  ⟨field 8 20 raw, field 8 14 raw, field 8 8 raw, field 8 2 raw⟩

/-- The field bits of a word: three predicates (R194). -/
def XPred.bits (o : XPred) : Nat :=
  o.g.val * 2 ^ 20 + o.pd.val * 2 ^ 14 + o.pa.val * 2 ^ 8 + o.pb.val * 2 ^ 2

/-- The fields of a word, none for a reserved code: three spans (R204). -/
def W3.parse (raw : Nat) : Option W3 :=
  match Span.ofCode (raw / 2 ^ 20 % 8) with
  | none => none
  | some w =>
    some ⟨w, field 64 14 raw, field 64 8 raw, field 64 2 raw⟩

/-- The field bits of a word: three spans (R204). -/
def W3.bits (o : W3) : Nat :=
  o.w.code * 2 ^ 20 + o.vd.val * 2 ^ 14 + o.va.val * 2 ^ 8 + o.vb.val * 2 ^ 2

/-- The fields of a word, none for a reserved code: two spans and a uniform register (R204). -/
def WS.parse (raw : Nat) : Option WS :=
  match Span.ofCode (raw / 2 ^ 20 % 8) with
  | none => none
  | some w =>
    some ⟨w, field 64 14 raw, field 64 8 raw, field 64 2 raw⟩

/-- The field bits of a word: two spans and a uniform register (R204). -/
def WS.bits (o : WS) : Nat :=
  o.w.code * 2 ^ 20 + o.vd.val * 2 ^ 14 + o.va.val * 2 ^ 8 + o.s.val * 2 ^ 2

/-- The fields of a word, none for a reserved code: a wide comparison (R212). -/
def WCmp.parse (raw : Nat) : Option WCmp :=
  match Span.ofCode (raw / 2 ^ 20 % 8) with
  | none => none
  | some w =>
  match Cmp.ofCode (raw / 2 ^ 17 % 8) with
  | none => none
  | some cc =>
    some ⟨w, cc, field 8 14 raw, field 64 8 raw, field 64 2 raw⟩

/-- The field bits of a word: a wide comparison (R212). -/
def WCmp.bits (o : WCmp) : Nat :=
  o.w.code * 2 ^ 20 + o.cc.code * 2 ^ 17 + o.k.val * 2 ^ 14 + o.va.val * 2 ^ 8 + o.vb.val * 2 ^ 2

/-- The fields of a word, none for a reserved code: two spans (R204). -/
def W2.parse (raw : Nat) : Option W2 :=
  match Span.ofCode (raw / 2 ^ 20 % 8) with
  | none => none
  | some w =>
    some ⟨w, field 64 14 raw, field 64 8 raw⟩

/-- The field bits of a word: two spans (R204). -/
def W2.bits (o : W2) : Nat :=
  o.w.code * 2 ^ 20 + o.vd.val * 2 ^ 14 + o.va.val * 2 ^ 8

/-- The fields of a word, none for a reserved code: an extension with its source span (R213). -/
def WExt.parse (raw : Nat) : Option WExt :=
  match Span.ofCode (raw / 2 ^ 20 % 8) with
  | none => none
  | some w =>
  match Span.ofCode (raw / 2 ^ 2 % 4) with
  | none => none
  | some ws =>
    some ⟨w, field 64 14 raw, field 64 8 raw, ws⟩

/-- The field bits of a word: an extension with its source span (R213). -/
def WExt.bits (o : WExt) : Nat :=
  o.w.code * 2 ^ 20 + o.vd.val * 2 ^ 14 + o.va.val * 2 ^ 8 + o.ws.code * 2 ^ 2

/-- The fields of a word, none for a reserved code: a limb read (R214). -/
def WGet.parse (raw : Nat) : Option WGet :=
  match Span.ofCode (raw / 2 ^ 20 % 8) with
  | none => none
  | some w =>
    some ⟨w, field 64 14 raw, field 64 8 raw, field 256 0 raw⟩

/-- The field bits of a word: a limb read (R214). -/
def WGet.bits (o : WGet) : Nat :=
  o.w.code * 2 ^ 20 + o.s.val * 2 ^ 14 + o.va.val * 2 ^ 8 + o.n.val * 2 ^ 0

/-- The fields of a word, none for a reserved code: a limb write (R215). -/
def WSet.parse (raw : Nat) : Option WSet :=
  match Span.ofCode (raw / 2 ^ 20 % 8) with
  | none => none
  | some w =>
    some ⟨w, field 64 14 raw, field 64 8 raw, field 256 0 raw⟩

/-- The field bits of a word: a limb write (R215). -/
def WSet.bits (o : WSet) : Nat :=
  o.w.code * 2 ^ 20 + o.vd.val * 2 ^ 14 + o.s.val * 2 ^ 8 + o.n.val * 2 ^ 0

/-- The fields of a word, none for a reserved code: a carry resolution (R216). -/
def WCres.parse (raw : Nat) : Option WCres :=
  match Span.ofCode (raw / 2 ^ 20 % 8) with
  | none => none
  | some w =>
    some ⟨w, field 64 14 raw, field 8 8 raw, field 64 2 raw⟩

/-- The field bits of a word: a carry resolution (R216). -/
def WCres.bits (o : WCres) : Nat :=
  o.w.code * 2 ^ 20 + o.vd.val * 2 ^ 14 + o.j.val * 2 ^ 8 + o.s.val * 2 ^ 2

/-- The fields of a word, none for a reserved code: an asynchronous copy (R238). -/
def MAcp.parse (raw : Nat) : Option MAcp :=
  match Size.ofCode (raw / 2 ^ 1 % 8) with
  | none => none
  | some z =>
    some ⟨field 8 20 raw, field 64 14 raw, field 64 8 raw, flag 7 raw, flag 6 raw, z⟩

/-- The field bits of a word: an asynchronous copy (R238). -/
def MAcp.bits (o : MAcp) : Nat :=
  o.g.val * 2 ^ 20 + o.vd.val * 2 ^ 14 + o.va.val * 2 ^ 8 + bitNat o.lsd * 2 ^ 7 + bitNat o.lss * 2 ^ 6 + o.z.code * 2 ^ 1

/-- The fields of a word, none for a reserved code: a lane load (R227). -/
def MLd.parse (raw : Nat) : Option MLd :=
  match Size.ofCode (raw / 2 ^ 1 % 8) with
  | none => none
  | some z =>
    some ⟨flag 23 raw, field 8 20 raw, field 64 14 raw, field 64 8 raw, field 16 4 raw, z, flag 0 raw⟩

/-- The field bits of a word: a lane load (R227). -/
def MLd.bits (o : MLd) : Nat :=
  bitNat o.u * 2 ^ 23 + o.g.val * 2 ^ 20 + o.vd.val * 2 ^ 14 + o.va.val * 2 ^ 8 + o.la.val * 2 ^ 4 + o.z.code * 2 ^ 1 + bitNat o.o * 2 ^ 0

/-- The fields of a word, none for a reserved code: a lane store (R227). -/
def MSt.parse (raw : Nat) : Option MSt :=
  match Size.ofCode (raw / 2 ^ 1 % 8) with
  | none => none
  | some z =>
    some ⟨field 8 20 raw, field 64 14 raw, field 64 8 raw, z, flag 0 raw⟩

/-- The field bits of a word: a lane store (R227). -/
def MSt.bits (o : MSt) : Nat :=
  o.g.val * 2 ^ 20 + o.vd.val * 2 ^ 14 + o.va.val * 2 ^ 8 + o.z.code * 2 ^ 1 + bitNat o.o * 2 ^ 0

/-- The fields of a word, none for a reserved code: a local-store load (R229). -/
def MLdl.parse (raw : Nat) : Option MLdl :=
  match Size.ofCode (raw / 2 ^ 1 % 8) with
  | none => none
  | some z =>
    some ⟨flag 23 raw, field 8 20 raw, field 64 14 raw, field 64 8 raw, field 16 4 raw, z⟩

/-- The field bits of a word: a local-store load (R229). -/
def MLdl.bits (o : MLdl) : Nat :=
  bitNat o.u * 2 ^ 23 + o.g.val * 2 ^ 20 + o.vd.val * 2 ^ 14 + o.va.val * 2 ^ 8 + o.la.val * 2 ^ 4 + o.z.code * 2 ^ 1

/-- The fields of a word, none for a reserved code: a local-store store (R229). -/
def MStl.parse (raw : Nat) : Option MStl :=
  match Size.ofCode (raw / 2 ^ 1 % 8) with
  | none => none
  | some z =>
    some ⟨field 8 20 raw, field 64 14 raw, field 64 8 raw, z⟩

/-- The field bits of a word: a local-store store (R229). -/
def MStl.bits (o : MStl) : Nat :=
  o.g.val * 2 ^ 20 + o.vd.val * 2 ^ 14 + o.va.val * 2 ^ 8 + o.z.code * 2 ^ 1

/-- The fields of a word, none for a reserved code: a lane atomic (R231). -/
def MAtom.parse (raw : Nat) : Option MAtom :=
  match AtomOp.ofCode (raw / 2 ^ 1 % 16) with
  | none => none
  | some op =>
    some ⟨field 8 20 raw, field 64 14 raw, field 64 8 raw, field 8 5 raw, op, flag 0 raw⟩

/-- The field bits of a word: a lane atomic (R231). -/
def MAtom.bits (o : MAtom) : Nat :=
  o.g.val * 2 ^ 20 + o.vd.val * 2 ^ 14 + o.va.val * 2 ^ 8 + o.la.val * 2 ^ 5 + o.op.code * 2 ^ 1 + bitNat o.nr * 2 ^ 0

/-- The fields of a word: three uniform registers (R149, UR). -/
def UR3.parse (raw : Nat) : UR3 :=
  ⟨field 64 18 raw, field 64 12 raw, field 64 6 raw⟩

/-- The field bits of a word: three uniform registers (R149, UR). -/
def UR3.bits (o : UR3) : Nat :=
  o.sd.val * 2 ^ 18 + o.sa.val * 2 ^ 12 + o.sb.val * 2 ^ 6

/-- The fields of a word: two uniform registers (R278). -/
def UR2.parse (raw : Nat) : UR2 :=
  ⟨field 64 18 raw, field 64 12 raw⟩

/-- The field bits of a word: two uniform registers (R278). -/
def UR2.bits (o : UR2) : Nat :=
  o.sd.val * 2 ^ 18 + o.sa.val * 2 ^ 12

/-- The fields of a word: a selecting condition and three uniform registers (R278). -/
def USel.parse (raw : Nat) : USel :=
  ⟨field 64 18 raw, field 64 12 raw, field 64 6 raw, field 8 3 raw⟩

/-- The field bits of a word: a selecting condition and three uniform registers (R278). -/
def USel.bits (o : USel) : Nat :=
  o.sd.val * 2 ^ 18 + o.sa.val * 2 ^ 12 + o.sb.val * 2 ^ 6 + o.c.val * 2 ^ 3

/-- The fields of a word, none for a reserved code: a uniform comparison (R279). -/
def UCmp.parse (raw : Nat) : Option UCmp :=
  match Cmp.ofCode (raw / 2 ^ 21 % 8) with
  | none => none
  | some cc =>
    some ⟨cc, field 8 18 raw, field 64 12 raw, field 64 6 raw⟩

/-- The field bits of a word: a uniform comparison (R279). -/
def UCmp.bits (o : UCmp) : Nat :=
  o.cc.code * 2 ^ 21 + o.k.val * 2 ^ 18 + o.sa.val * 2 ^ 12 + o.sb.val * 2 ^ 6

/-- The fields of a word: a 12-bit immediate (R280). -/
def UImm.parse (raw : Nat) : UImm :=
  ⟨field 64 18 raw, field 64 12 raw, BitVec.ofNat 12 (raw / 2 ^ 0)⟩

/-- The field bits of a word: a 12-bit immediate (R280). -/
def UImm.bits (o : UImm) : Nat :=
  o.sd.val * 2 ^ 18 + o.sa.val * 2 ^ 12 + o.imm.toNat * 2 ^ 0

/-- The fields of a word: an 18-bit immediate (R280). -/
def ULui.parse (raw : Nat) : ULui :=
  ⟨field 64 18 raw, BitVec.ofNat 18 (raw / 2 ^ 0)⟩

/-- The field bits of a word: an 18-bit immediate (R280). -/
def ULui.bits (o : ULui) : Nat :=
  o.sd.val * 2 ^ 18 + o.imm.toNat * 2 ^ 0

/-- The fields of a UX pair: `raw` is its first word and `data` its second (R147, R280). -/
def ULit.parse (raw : Nat) (data : Word) : ULit :=
  ⟨field 64 18 raw, data⟩

/-- The first word's field bits. -/
def ULit.bits (o : ULit) : Nat :=
  o.sd.val * 2 ^ 18

/-- The fields of a word: three conditions (R282). -/
def UCond.parse (raw : Nat) : UCond :=
  ⟨field 8 18 raw, field 8 12 raw, field 8 6 raw⟩

/-- The field bits of a word: three conditions (R282). -/
def UCond.bits (o : UCond) : Nat :=
  o.cd.val * 2 ^ 18 + o.ca.val * 2 ^ 12 + o.cb.val * 2 ^ 6

/-- The fields of a word: a predicate to a uniform register (R283). -/
def UPred.parse (raw : Nat) : UPred :=
  ⟨field 64 18 raw, field 8 12 raw⟩

/-- The field bits of a word: a predicate to a uniform register (R283). -/
def UPred.bits (o : UPred) : Nat :=
  o.sd.val * 2 ^ 18 + o.k.val * 2 ^ 12

/-- The fields of a word: a special-register read (R65). -/
def USrd.parse (raw : Nat) : USrd :=
  ⟨field 64 18 raw, BitVec.ofNat 12 (raw / 2 ^ 0)⟩

/-- The field bits of a word: a special-register read (R65). -/
def USrd.bits (o : USrd) : Nat :=
  o.sd.val * 2 ^ 18 + o.n.toNat * 2 ^ 0

/-- The fields of a word: a special-register write (R65). -/
def USwr.parse (raw : Nat) : USwr :=
  ⟨field 64 12 raw, BitVec.ofNat 12 (raw / 2 ^ 0)⟩

/-- The field bits of a word: a special-register write (R65). -/
def USwr.bits (o : USwr) : Nat :=
  o.sa.val * 2 ^ 12 + o.n.toNat * 2 ^ 0

/-- The fields of a word: a condition or predicate, negate and a word offset (R149, UJ). -/
def UJ.parse (raw : Nat) : UJ :=
  ⟨field 8 21 raw, flag 20 raw, BitVec.ofNat 20 (raw / 2 ^ 0)⟩

/-- The field bits of a word: a condition or predicate, negate and a word offset (R149, UJ). -/
def UJ.bits (o : UJ) : Nat :=
  o.k.val * 2 ^ 21 + bitNat o.x * 2 ^ 20 + o.off.toNat * 2 ^ 0

/-- The fields of a word: one uniform source (R285). -/
def UA.parse (raw : Nat) : UA :=
  ⟨field 64 12 raw⟩

/-- The field bits of a word: one uniform source (R285). -/
def UA.bits (o : UA) : Nat :=
  o.sa.val * 2 ^ 12

/-- The fields of a word: a loop count and body length (R286). -/
def ULoop.parse (raw : Nat) : ULoop :=
  ⟨field 64 12 raw, BitVec.ofNat 12 (raw / 2 ^ 0)⟩

/-- The field bits of a word: a loop count and body length (R286). -/
def ULoop.bits (o : ULoop) : Nat :=
  o.sa.val * 2 ^ 12 + o.imm.toNat * 2 ^ 0

/-- The fields of a word: one uniform destination. -/
def UDc.parse (raw : Nat) : UDc :=
  ⟨field 64 18 raw⟩

/-- The field bits of a word: one uniform destination. -/
def UDc.bits (o : UDc) : Nat :=
  o.sd.val * 2 ^ 18

/-- The fields of a word: a word offset (R288). -/
def UOff.parse (raw : Nat) : UOff :=
  ⟨BitVec.ofNat 20 (raw / 2 ^ 0)⟩

/-- The field bits of a word: a word offset (R288). -/
def UOff.bits (o : UOff) : Nat :=
  o.off.toNat * 2 ^ 0

/-- The fields of a word: a 12-bit code (R307). -/
def UCode.parse (raw : Nat) : UCode :=
  ⟨BitVec.ofNat 12 (raw / 2 ^ 0)⟩

/-- The field bits of a word: a 12-bit code (R307). -/
def UCode.bits (o : UCode) : Nat :=
  o.code.toNat * 2 ^ 0

/-- The fields of a word: a system-register read (R332). -/
def UPrd.parse (raw : Nat) : UPrd :=
  ⟨field 64 18 raw, field 64 6 raw⟩

/-- The field bits of a word: a system-register read (R332). -/
def UPrd.bits (o : UPrd) : Nat :=
  o.sd.val * 2 ^ 18 + o.sb.val * 2 ^ 6

/-- The fields of a word: a system-register write (R332). -/
def UPwr.parse (raw : Nat) : UPwr :=
  ⟨field 64 12 raw, field 64 6 raw⟩

/-- The field bits of a word: a system-register write (R332). -/
def UPwr.bits (o : UPwr) : Nat :=
  o.sa.val * 2 ^ 12 + o.sb.val * 2 ^ 6

/-- The fields of a word: a barrier (R294). -/
def UBar.parse (raw : Nat) : UBar :=
  ⟨field 16 8 raw⟩

/-- The field bits of a word: a barrier (R294). -/
def UBar.bits (o : UBar) : Nat :=
  o.n.val * 2 ^ 8

/-- The fields of a word: a counted barrier (R294). -/
def UBarC.parse (raw : Nat) : UBarC :=
  ⟨field 64 12 raw, field 16 8 raw⟩

/-- The field bits of a word: a counted barrier (R294). -/
def UBarC.bits (o : UBarC) : Nat :=
  o.sa.val * 2 ^ 12 + o.n.val * 2 ^ 8

/-- The fields of a word, none for a reserved code: a fence scope and drain bit (R234). -/
def UFence.parse (raw : Nat) : Option UFence :=
  match Scope.ofCode (raw / 2 ^ 9 % 8) with
  | none => none
  | some sc =>
    some ⟨sc, flag 6 raw⟩

/-- The field bits of a word: a fence scope and drain bit (R234). -/
def UFence.bits (o : UFence) : Nat :=
  o.sc.code * 2 ^ 9 + bitNat o.dr * 2 ^ 6

/-- The fields of a word: a uniform load (R230). -/
def ULd.parse (raw : Nat) : ULd :=
  ⟨field 64 18 raw, field 64 12 raw, field 16 8 raw, field 256 0 raw⟩

/-- The field bits of a word: a uniform load (R230). -/
def ULd.bits (o : ULd) : Nat :=
  o.sd.val * 2 ^ 18 + o.sa.val * 2 ^ 12 + o.la.val * 2 ^ 8 + o.off.val * 2 ^ 0

/-- The fields of a word: a uniform store (R230). -/
def USt.parse (raw : Nat) : USt :=
  ⟨field 64 18 raw, field 64 12 raw, field 256 0 raw⟩

/-- The field bits of a word: a uniform store (R230). -/
def USt.bits (o : USt) : Nat :=
  o.sd.val * 2 ^ 18 + o.sa.val * 2 ^ 12 + o.off.val * 2 ^ 0

/-- The fields of a word, none for a reserved code: a uniform atomic (R231). -/
def UAtom.parse (raw : Nat) : Option UAtom :=
  match AtomOp.ofCode (raw / 2 ^ 4 % 16) with
  | none => none
  | some op =>
    some ⟨field 64 18 raw, field 64 12 raw, field 16 8 raw, op, flag 3 raw, flag 2 raw⟩

/-- The field bits of a word: a uniform atomic (R231). -/
def UAtom.bits (o : UAtom) : Nat :=
  o.sd.val * 2 ^ 18 + o.sa.val * 2 ^ 12 + o.la.val * 2 ^ 8 + o.op.code * 2 ^ 4 + bitNat o.w64 * 2 ^ 3 + bitNat o.nr * 2 ^ 2

/-- The fields of a word: a queue push (R235). -/
def UQput.parse (raw : Nat) : UQput :=
  ⟨field 64 12 raw, field 8 6 raw, flag 5 raw, field 32 0 raw⟩

/-- The field bits of a word: a queue push (R235). -/
def UQput.bits (o : UQput) : Nat :=
  o.sa.val * 2 ^ 12 + o.c.val * 2 ^ 6 + bitNat o.nb * 2 ^ 5 + o.q.val * 2 ^ 0

/-- The fields of a word: a queue pop (R235). -/
def UQget.parse (raw : Nat) : UQget :=
  ⟨field 64 18 raw, field 8 6 raw, flag 5 raw, field 32 0 raw⟩

/-- The field bits of a word: a queue pop (R235). -/
def UQget.bits (o : UQget) : Nat :=
  o.sd.val * 2 ^ 18 + o.c.val * 2 ^ 6 + bitNat o.nb * 2 ^ 5 + o.q.val * 2 ^ 0

/-- The fields of a word: a batch count (R239). -/
def UWait.parse (raw : Nat) : UWait :=
  ⟨field 16 0 raw⟩

/-- The field bits of a word: a batch count (R239). -/
def UWait.bits (o : UWait) : Nat :=
  o.n.val * 2 ^ 0

/-- The fields of a word: a uniform destination and source with a lookahead (R149, UE). -/
def UDAL.parse (raw : Nat) : UDAL :=
  ⟨field 64 18 raw, field 64 12 raw, field 16 8 raw⟩

/-- The field bits of a word: a uniform destination and source with a lookahead (R149, UE). -/
def UDAL.bits (o : UDAL) : Nat :=
  o.sd.val * 2 ^ 18 + o.sa.val * 2 ^ 12 + o.la.val * 2 ^ 8

/-- The fields of a word: a stream and its direction (R236). -/
def UArm.parse (raw : Nat) : UArm :=
  ⟨flag 4 raw, field 8 0 raw⟩

/-- The field bits of a word: a stream and its direction (R236). -/
def UArm.bits (o : UArm) : Nat :=
  bitNat o.wr * 2 ^ 4 + o.k.val * 2 ^ 0

/-- The fields of a word: a stream descriptor (R236). -/
def UStrm.parse (raw : Nat) : UStrm :=
  ⟨field 8 0 raw⟩

/-- The field bits of a word: a stream descriptor (R236). -/
def UStrm.bits (o : UStrm) : Nat :=
  o.k.val * 2 ^ 0

/-- The fields of a word: a slot count (R267). -/
def UMacq.parse (raw : Nat) : UMacq :=
  ⟨field 64 18 raw, field 16 0 raw⟩

/-- The field bits of a word: a slot count (R267). -/
def UMacq.bits (o : UMacq) : Nat :=
  o.sd.val * 2 ^ 18 + o.n.val * 2 ^ 0

/-- The fields of a word: a joint operation with a source (R262). -/
def UJoint.parse (raw : Nat) : UJoint :=
  ⟨field 64 12 raw⟩

/-- The field bits of a word: a joint operation with a source (R262). -/
def UJoint.bits (o : UJoint) : Nat :=
  o.sa.val * 2 ^ 12

/-- The fields of a word: a transform and its prime (R272). -/
def UNtt.parse (raw : Nat) : UNtt :=
  ⟨field 64 18 raw, field 64 12 raw, field 16 8 raw, field 4 0 raw⟩

/-- The field bits of a word: a transform and its prime (R272). -/
def UNtt.bits (o : UNtt) : Nat :=
  o.sd.val * 2 ^ 18 + o.sa.val * 2 ^ 12 + o.la.val * 2 ^ 8 + o.p.val * 2 ^ 0

/-- The fields of a word: an emit with its suffixes (R301). -/
def UEmit.parse (raw : Nat) : UEmit :=
  ⟨field 64 12 raw, flag 6 raw, flag 5 raw, flag 4 raw, field 16 0 raw⟩

/-- The field bits of a word: an emit with its suffixes (R301). -/
def UEmit.bits (o : UEmit) : Nat :=
  o.sa.val * 2 ^ 12 + bitNat o.nb * 2 ^ 6 + bitNat o.chk * 2 ^ 5 + bitNat o.pair * 2 ^ 4 + o.k.val * 2 ^ 0

/-- The fields of a word: an emit stream (R302). -/
def UEStrm.parse (raw : Nat) : UEStrm :=
  ⟨field 16 0 raw⟩

/-- The field bits of a word: an emit stream (R302). -/
def UEStrm.bits (o : UEStrm) : Nat :=
  o.k.val * 2 ^ 0

/-- The fields of a word: an opening of an emit stream (R300). -/
def UEopen.parse (raw : Nat) : UEopen :=
  ⟨field 64 12 raw, flag 6 raw, field 16 0 raw⟩

/-- The field bits of a word: an opening of an emit stream (R300). -/
def UEopen.bits (o : UEopen) : Nat :=
  o.sa.val * 2 ^ 12 + bitNat o.tow * 2 ^ 6 + o.k.val * 2 ^ 0

/-- The fields of a word: a position read (R303). -/
def UEpos.parse (raw : Nat) : UEpos :=
  ⟨field 64 18 raw, field 16 0 raw⟩

/-- The field bits of a word: a position read (R303). -/
def UEpos.bits (o : UEpos) : Nat :=
  o.sd.val * 2 ^ 18 + o.k.val * 2 ^ 0

/-- The fields of a word: a tide request (R305). -/
def UTide.parse (raw : Nat) : UTide :=
  ⟨field 64 12 raw, field 4 0 raw⟩

/-- The field bits of a word: a tide request (R305). -/
def UTide.bits (o : UTide) : Nat :=
  o.sa.val * 2 ^ 12 + o.l.val * 2 ^ 0

/-- Lane major 0x01 (R154). -/
def parseLane01 (w : Nat) : Option Instr :=
  if w % 4 = 0 then some (.iadd (LR3.parse w))
  else if w % 4 = 1 then some (.iaddSat (LR3.parse w))
  else if w % 4 = 2 then some (.iaddSatN32 (LR3.parse w))
  else none

/-- Lane major 0x02 (R154). -/
def parseLane02 (w : Nat) : Option Instr :=
  if w % 4 = 0 then some (.isub (LR3.parse w))
  else if w % 4 = 1 then some (.isubSat (LR3.parse w))
  else if w % 4 = 2 then some (.isubSatN32 (LR3.parse w))
  else none

/-- Lane major 0x03 (R154). -/
def parseLane03 (w : Nat) : Option Instr :=
  if w % 4 = 0 then some (.imul (LR3.parse w))
  else if w % 4 = 1 then some (.imulHi (LR3.parse w))
  else if w % 4 = 2 then some (.imulHiN32 (LR3.parse w))
  else none

/-- Lane major 0x04 (R154). -/
def parseLane04 (w : Nat) : Option Instr :=
  if w % 4 = 0 then some (.imad (LR3.parse w))
  else none

/-- Lane major 0x05 (R154). -/
def parseLane05 (w : Nat) : Option Instr :=
  if w % 4 = 0 then some (.idivI32 (LR3.parse w))
  else if w % 4 = 1 then some (.idivN32 (LR3.parse w))
  else if w % 4 = 2 then some (.iremI32 (LR3.parse w))
  else if w % 4 = 3 then some (.iremN32 (LR3.parse w))
  else none

/-- Lane major 0x06 (R154). -/
def parseLane06 (w : Nat) : Option Instr :=
  if w % 4 = 0 then some (.iminI32 (LR3.parse w))
  else if w % 4 = 1 then some (.iminN32 (LR3.parse w))
  else if w % 4 = 2 then some (.imaxI32 (LR3.parse w))
  else if w % 4 = 3 then some (.imaxN32 (LR3.parse w))
  else none

/-- Lane major 0x07 (R154). -/
def parseLane07 (w : Nat) : Option Instr :=
  if w % 4 = 0 then some (.land (LR3.parse w))
  else if w % 4 = 1 then some (.lor (LR3.parse w))
  else if w % 4 = 2 then some (.lxor (LR3.parse w))
  else if w % 4 = 3 then some (.landn (LR3.parse w))
  else none

/-- Lane major 0x08 (R154). -/
def parseLane08 (w : Nat) : Option Instr :=
  if w % 4 = 0 then some (.ishl (LR3.parse w))
  else if w % 4 = 1 then some (.ishr (LR3.parse w))
  else if w % 4 = 2 then some (.isar (LR3.parse w))
  else if w % 4 = 3 then some (.irot (LR3.parse w))
  else none

/-- Lane major 0x09 (R154). -/
def parseLane09 (w : Nat) : Option Instr :=
  if w % 256 = 0 then some (.popc (LR2.parse w))
  else if w % 256 = 1 then some (.clz (LR2.parse w))
  else if w % 256 = 2 then some (.ctz (LR2.parse w))
  else if w % 256 = 3 then some (.brev (LR2.parse w))
  else none

/-- Lane major 0x0A (R154). -/
def parseLane0A (w : Nat) : Option Instr :=
  if w % 4 = 0 then (LCmp.parse w).map .icmpI32
  else if w % 4 = 1 then (LCmp.parse w).map .icmpN32
  else none

/-- Lane major 0x0B (R154). -/
def parseLane0B (w : Nat) : Option Instr :=
  if w % 4 = 0 then some (.sel (LR3.parse w))
  else none

/-- Lane major 0x0C (R154). -/
def parseLane0C (w : Nat) : Option Instr :=
  if w % 4 = 0 then some (.bfxN32 (LR3.parse w))
  else if w % 4 = 1 then some (.bfxI32 (LR3.parse w))
  else if w % 4 = 2 then some (.bfi (LR3.parse w))
  else none

/-- Lane major 0x0D (R154). -/
def parseLane0D (w : Nat) : Option Instr :=
  if w % 4 = 0 then some (.addmod (LR3.parse w))
  else if w % 4 = 1 then some (.submod (LR3.parse w))
  else if w % 4 = 2 then some (.mulmod (LR3.parse w))
  else none

/-- Lane major 0x0E (R154). -/
def parseLane0E (w : Nat) : Option Instr :=
  some (.iaddi (LImm.parse w))

/-- Lane major 0x0F (R154). -/
def parseLane0F (w : Nat) : Option Instr :=
  if w / 2 ^ 5 % 8 = 0 then some (.ishli (LShift.parse w))
  else if w / 2 ^ 5 % 8 = 2 then some (.ishri (LShift.parse w))
  else if w / 2 ^ 5 % 8 = 4 then some (.isari (LShift.parse w))
  else if w / 2 ^ 5 % 8 = 6 then some (.iroti (LShift.parse w))
  else none

/-- Lane major 0x10 (R154). -/
def parseLane10 (w : Nat) : Option Instr :=
  some (.imovi (LMov.parse w))

/-- Lane major 0x11 (R154). -/
def parseLane11 (w : Nat) : Option Instr :=
  if w % 4 = 0 then some (.fadd (LR3.parse w))
  else if w % 4 = 1 then some (.fsub (LR3.parse w))
  else none

/-- Lane major 0x12 (R154). -/
def parseLane12 (w : Nat) : Option Instr :=
  if w % 4 = 0 then some (.fmul (LR3.parse w))
  else none

/-- Lane major 0x13 (R154). -/
def parseLane13 (w : Nat) : Option Instr :=
  if w % 4 = 0 then some (.ffma (LR3.parse w))
  else none

/-- Lane major 0x14 (R154). -/
def parseLane14 (w : Nat) : Option Instr :=
  if w % 4 = 0 then some (.fmin (LR3.parse w))
  else if w % 4 = 1 then some (.fmax (LR3.parse w))
  else if w % 4 = 2 then some (.fscl (LR3.parse w))
  else none

/-- Lane major 0x15 (R154). -/
def parseLane15 (w : Nat) : Option Instr :=
  if w % 4 = 0 then (LCmp.parse w).map .fcmp
  else none

/-- Lane major 0x16 (R154). -/
def parseLane16 (w : Nat) : Option Instr :=
  if w % 256 = 0 then some (.fabs (LR2.parse w))
  else if w % 256 = 4 then some (.fneg (LR2.parse w))
  else if w % 256 = 8 then some (.frcp (LR2.parse w))
  else if w % 256 = 12 then some (.frsq (LR2.parse w))
  else if w % 256 = 16 then some (.fsqrt (LR2.parse w))
  else if w % 256 = 20 then some (.fexp2 (LR2.parse w))
  else if w % 256 = 24 then some (.flog2 (LR2.parse w))
  else if w % 256 = 28 then some (.fclass (LR2.parse w))
  else if w % 256 = 32 then some (.frint (LR2.parse w))
  else none

/-- Lane major 0x17 (R154). -/
def parseLane17 (w : Nat) : Option Instr :=
  if w % 4 = 0 then some (.dpe5 (LR3.parse w))
  else if w % 4 = 1 then some (.dpbf (LR3.parse w))
  else if w % 4 = 2 then some (.dpf8 (LR3.parse w))
  else if w % 4 = 3 then some (.dpf4 (LR3.parse w))
  else none

/-- Lane major 0x18 (R154). -/
def parseLane18 (w : Nat) : Option Instr :=
  if w % 4 = 0 then some (.dadd (LR3.parse w))
  else if w % 4 = 1 then some (.dsub (LR3.parse w))
  else none

/-- Lane major 0x19 (R154). -/
def parseLane19 (w : Nat) : Option Instr :=
  if w % 4 = 0 then some (.dmul (LR3.parse w))
  else none

/-- Lane major 0x1A (R154). -/
def parseLane1A (w : Nat) : Option Instr :=
  if w % 4 = 0 then some (.dfma (LR3.parse w))
  else none

/-- Lane major 0x1B (R154). -/
def parseLane1B (w : Nat) : Option Instr :=
  if w % 4 = 0 then (LCmp.parse w).map .dcmp
  else none

/-- Lane major 0x1C (R154). -/
def parseLane1C (w : Nat) : Option Instr :=
  (LCvt.parse w).map .cvt

/-- Lane major 0x1D (R154). -/
def parseLane1D (w : Nat) : Option Instr :=
  if w % 4 = 0 ∧ w / 2 ^ 4 % 16 = 0 then some (.pack8 (LPack8.parse w))
  else none

/-- Lane major 0x1E (R154). -/
def parseLane1E (w : Nat) : Option Instr :=
  if w % 4 = 0 ∧ w / 2 ^ 5 % 8 = 0 then some (.pack4 (LPack4.parse w))
  else none

/-- Lane major 0x1F (R154). -/
def parseLane1F (w : Nat) : Option Instr :=
  if w % 4 = 0 then some (.dpi8I8 (LR3.parse w))
  else if w % 4 = 1 then some (.dpi8N8 (LR3.parse w))
  else if w % 4 = 2 then some (.dpi4I4 (LR3.parse w))
  else if w % 4 = 3 then some (.dpi4N4 (LR3.parse w))
  else none

/-- Lane major 0x20 (R154). -/
def parseLane20 (w : Nat) : Option Instr :=
  if w % 4 = 0 ∧ w / 2 ^ 23 % 2 = 0 then some (.shflIdx (XR3.parse w))
  else if w % 4 = 1 ∧ w / 2 ^ 23 % 2 = 0 then some (.shflUp (XR3.parse w))
  else if w % 4 = 2 ∧ w / 2 ^ 23 % 2 = 0 then some (.shflDown (XR3.parse w))
  else if w % 4 = 3 ∧ w / 2 ^ 23 % 2 = 0 then some (.shflXor (XR3.parse w))
  else none

/-- Lane major 0x21 (R154). -/
def parseLane21 (w : Nat) : Option Instr :=
  if w % 256 = 0 ∧ w / 2 ^ 23 % 2 = 0 then some (.redadd (XR2.parse w))
  else if w % 256 = 1 ∧ w / 2 ^ 23 % 2 = 0 then some (.redmin (XR2.parse w))
  else if w % 256 = 2 ∧ w / 2 ^ 23 % 2 = 0 then some (.redmax (XR2.parse w))
  else if w % 256 = 3 ∧ w / 2 ^ 23 % 2 = 0 then some (.redminn (XR2.parse w))
  else none

/-- Lane major 0x22 (R154). -/
def parseLane22 (w : Nat) : Option Instr :=
  if w % 256 = 0 ∧ w / 2 ^ 23 % 2 = 0 then some (.minxI32 (XR2.parse w))
  else if w % 256 = 1 ∧ w / 2 ^ 23 % 2 = 0 then some (.minxN32 (XR2.parse w))
  else if w % 256 = 2 ∧ w / 2 ^ 23 % 2 = 0 then some (.maxxI32 (XR2.parse w))
  else if w % 256 = 3 ∧ w / 2 ^ 23 % 2 = 0 then some (.maxxN32 (XR2.parse w))
  else none

/-- Lane major 0x23 (R154). -/
def parseLane23 (w : Nat) : Option Instr :=
  if w % 256 = 0 ∧ w / 2 ^ 23 % 2 = 0 then some (.scanAdd (XR2.parse w))
  else if w % 256 = 1 ∧ w / 2 ^ 23 % 2 = 0 then some (.scanXadd (XR2.parse w))
  else if w % 256 = 2 ∧ w / 2 ^ 23 % 2 = 0 then some (.scanMax (XR2.parse w))
  else if w % 256 = 3 ∧ w / 2 ^ 23 % 2 = 0 then some (.scanMin (XR2.parse w))
  else none

/-- Lane major 0x24 (R154). -/
def parseLane24 (w : Nat) : Option Instr :=
  if w % 256 = 0 ∧ w / 2 ^ 11 % 8 = 0 ∧ w / 2 ^ 23 % 2 = 0 then some (.voteBallot (XBallot.parse w))
  else if w % 256 = 1 ∧ w / 2 ^ 11 % 8 = 0 ∧ w / 2 ^ 17 % 8 = 0 ∧ w / 2 ^ 23 % 2 = 0 then some (.voteAny (XVote.parse w))
  else if w % 256 = 2 ∧ w / 2 ^ 11 % 8 = 0 ∧ w / 2 ^ 17 % 8 = 0 ∧ w / 2 ^ 23 % 2 = 0 then some (.voteAll (XVote.parse w))
  else none

/-- Lane major 0x25 (R154). -/
def parseLane25 (w : Nat) : Option Instr :=
  if w % 256 = 0 ∧ w / 2 ^ 23 % 2 = 0 then some (.bcast (XBcast.parse w))
  else if w % 4 = 1 ∧ w / 2 ^ 7 % 2 = 0 ∧ w / 2 ^ 23 % 2 = 0 then some (.vget (XGet.parse w))
  else if w % 16384 = 2 ∧ w / 2 ^ 23 % 2 = 0 then some (.lidx (X1.parse w))
  else none

/-- Lane major 0x26 (R154). -/
def parseLane26 (w : Nat) : Option Instr :=
  if w % 4 = 0 ∧ w / 2 ^ 5 % 8 = 0 ∧ w / 2 ^ 11 % 8 = 0 ∧ w / 2 ^ 17 % 8 = 0 ∧ w / 2 ^ 23 % 2 = 0 then some (.pand (XPred.parse w))
  else if w % 4 = 1 ∧ w / 2 ^ 5 % 8 = 0 ∧ w / 2 ^ 11 % 8 = 0 ∧ w / 2 ^ 17 % 8 = 0 ∧ w / 2 ^ 23 % 2 = 0 then some (.por (XPred.parse w))
  else if w % 4 = 2 ∧ w / 2 ^ 5 % 8 = 0 ∧ w / 2 ^ 11 % 8 = 0 ∧ w / 2 ^ 17 % 8 = 0 ∧ w / 2 ^ 23 % 2 = 0 then some (.pxor (XPred.parse w))
  else if w % 4 = 3 ∧ w / 2 ^ 5 % 8 = 0 ∧ w / 2 ^ 11 % 8 = 0 ∧ w / 2 ^ 17 % 8 = 0 ∧ w / 2 ^ 23 % 2 = 0 then some (.pandn (XPred.parse w))
  else none

/-- Lane major 0x27 (R154). -/
def parseLane27 (w : Nat) : Option Instr :=
  if w % 256 = 0 ∧ w / 2 ^ 23 % 2 = 0 then some (.vtrp (XR2.parse w))
  else none

/-- Lane major 0x28 (R154). -/
def parseLane28 (w : Nat) : Option Instr :=
  if w % 4 = 0 ∧ w / 2 ^ 23 % 2 = 0 then (W3.parse w).map .wadd
  else if w % 4 = 1 ∧ w / 2 ^ 23 % 2 = 0 then (W3.parse w).map .wadc
  else none

/-- Lane major 0x29 (R154). -/
def parseLane29 (w : Nat) : Option Instr :=
  if w % 4 = 0 ∧ w / 2 ^ 23 % 2 = 0 then (W3.parse w).map .wsub
  else if w % 4 = 1 ∧ w / 2 ^ 23 % 2 = 0 then (W3.parse w).map .wsbb
  else none

/-- Lane major 0x2A (R154). -/
def parseLane2A (w : Nat) : Option Instr :=
  if w % 4 = 0 ∧ w / 2 ^ 23 % 2 = 0 then (W3.parse w).map .wand
  else if w % 4 = 1 ∧ w / 2 ^ 23 % 2 = 0 then (W3.parse w).map .wor
  else if w % 4 = 2 ∧ w / 2 ^ 23 % 2 = 0 then (W3.parse w).map .wxor
  else if w % 4 = 3 ∧ w / 2 ^ 23 % 2 = 0 then (W3.parse w).map .wandn
  else none

/-- Lane major 0x2B (R154). -/
def parseLane2B (w : Nat) : Option Instr :=
  if w % 4 = 0 ∧ w / 2 ^ 23 % 2 = 0 then (WS.parse w).map .wshl
  else if w % 4 = 1 ∧ w / 2 ^ 23 % 2 = 0 then (WS.parse w).map .wshr
  else if w % 4 = 2 ∧ w / 2 ^ 23 % 2 = 0 then (WS.parse w).map .wsar
  else none

/-- Lane major 0x2C (R154). -/
def parseLane2C (w : Nat) : Option Instr :=
  if w % 4 = 0 ∧ w / 2 ^ 23 % 2 = 0 then (WS.parse w).map .wmuls
  else if w % 4 = 1 ∧ w / 2 ^ 23 % 2 = 0 then (WS.parse w).map .wmads
  else none

/-- Lane major 0x2D (R154). -/
def parseLane2D (w : Nat) : Option Instr :=
  if w % 4 = 0 ∧ w / 2 ^ 23 % 2 = 0 then (WS.parse w).map .wdivs
  else none

/-- Lane major 0x2E (R154). -/
def parseLane2E (w : Nat) : Option Instr :=
  if w % 4 = 0 ∧ w / 2 ^ 23 % 2 = 0 then (W3.parse w).map .wdiv
  else none

/-- Lane major 0x2F (R154). -/
def parseLane2F (w : Nat) : Option Instr :=
  if w % 4 = 0 ∧ w / 2 ^ 23 % 2 = 0 then (WCmp.parse w).map .wcmpI
  else if w % 4 = 1 ∧ w / 2 ^ 23 % 2 = 0 then (WCmp.parse w).map .wcmpN
  else none

/-- Lane major 0x30 (R154). -/
def parseLane30 (w : Nat) : Option Instr :=
  if w % 256 = 0 ∧ w / 2 ^ 23 % 2 = 0 then (W2.parse w).map .wneg
  else if w % 256 = 4 ∧ w / 2 ^ 23 % 2 = 0 then (W2.parse w).map .wnot
  else if w % 256 = 8 ∧ w / 2 ^ 23 % 2 = 0 then (W2.parse w).map .wabs
  else if w % 256 = 12 ∧ w / 2 ^ 23 % 2 = 0 then (W2.parse w).map .wnorm
  else if w % 256 = 16 ∧ w / 2 ^ 23 % 2 = 0 then (W2.parse w).map .wclz
  else if w % 256 = 20 ∧ w / 2 ^ 23 % 2 = 0 then (W2.parse w).map .wpopc
  else none

/-- Lane major 0x31 (R154). -/
def parseLane31 (w : Nat) : Option Instr :=
  if w % 4 = 0 ∧ w / 2 ^ 4 % 16 = 0 ∧ w / 2 ^ 23 % 2 = 0 then (WExt.parse w).map .wextI
  else if w % 4 = 1 ∧ w / 2 ^ 4 % 16 = 0 ∧ w / 2 ^ 23 % 2 = 0 then (WExt.parse w).map .wextN
  else none

/-- Lane major 0x32 (R154). -/
def parseLane32 (w : Nat) : Option Instr :=
  if w / 2 ^ 23 % 2 = 0 then (WGet.parse w).map .wgetl
  else none

/-- Lane major 0x33 (R154). -/
def parseLane33 (w : Nat) : Option Instr :=
  if w / 2 ^ 23 % 2 = 0 then (WSet.parse w).map .wsetl
  else none

/-- Lane major 0x34 (R154). -/
def parseLane34 (w : Nat) : Option Instr :=
  if w % 4 = 0 ∧ w / 2 ^ 11 % 8 = 0 ∧ w / 2 ^ 23 % 2 = 0 then (WCres.parse w).map .cres
  else none

/-- Lane major 0x35 (R154). -/
def parseLane35 (w : Nat) : Option Instr :=
  if w % 4 = 0 ∧ w / 2 ^ 23 % 2 = 0 then (W3.parse w).map .qadd
  else if w % 4 = 1 ∧ w / 2 ^ 23 % 2 = 0 then (W3.parse w).map .qsub
  else if w % 4 = 2 ∧ w / 2 ^ 23 % 2 = 0 then (W3.parse w).map .qmul
  else if w % 4 = 3 ∧ w / 2 ^ 23 % 2 = 0 then (W3.parse w).map .qdiv
  else none

/-- Lane major 0x36 (R154). -/
def parseLane36 (w : Nat) : Option Instr :=
  if w % 256 = 0 ∧ w / 2 ^ 23 % 2 = 0 then (W2.parse w).map .qnorm
  else if w % 4 = 1 ∧ w / 2 ^ 23 % 2 = 0 then (W3.parse w).map .wgcd
  else none

/-- Lane major 0x37 (R154). -/
def parseLane37 (w : Nat) : Option Instr :=
  if w % 2 = 0 ∧ w / 2 ^ 4 % 4 = 0 ∧ w / 2 ^ 23 % 2 = 0 then (MAcp.parse w).map .acp
  else none

/-- Lane major 0x38 (R154). -/
def parseLane38 (w : Nat) : Option Instr :=
  (MLd.parse w).map .ld

/-- Lane major 0x39 (R154). -/
def parseLane39 (w : Nat) : Option Instr :=
  (MLd.parse w).map .lds

/-- Lane major 0x3A (R154). -/
def parseLane3A (w : Nat) : Option Instr :=
  (MLd.parse w).map .ldi

/-- Lane major 0x3B (R154). -/
def parseLane3B (w : Nat) : Option Instr :=
  if w / 2 ^ 4 % 16 = 0 ∧ w / 2 ^ 23 % 2 = 0 then (MSt.parse w).map .st
  else none

/-- Lane major 0x3C (R154). -/
def parseLane3C (w : Nat) : Option Instr :=
  if w / 2 ^ 4 % 16 = 0 ∧ w / 2 ^ 23 % 2 = 0 then (MSt.parse w).map .sts
  else none

/-- Lane major 0x3D (R154). -/
def parseLane3D (w : Nat) : Option Instr :=
  if w % 2 = 0 then (MLdl.parse w).map .ldl
  else if w % 2 = 1 ∧ w / 2 ^ 4 % 16 = 0 ∧ w / 2 ^ 23 % 2 = 0 then (MStl.parse w).map .stl
  else none

/-- Lane major 0x3E (R154). -/
def parseLane3E (w : Nat) : Option Instr :=
  if w / 2 ^ 23 % 2 = 0 then (MAtom.parse w).map .atom
  else none

/-- Lane major 0x3F (R154). -/
def parseLane3F (w : Nat) : Option Instr :=
  if w / 2 ^ 23 % 2 = 0 then (MAtom.parse w).map .atom64
  else none

/-- Uniform major 0x00 (R157). -/
def parseUniform00 (w : Nat) : Option Instr :=
  if w % 8 = 0 then some (.sadd (UR3.parse w))
  else if w % 8 = 1 then some (.ssub (UR3.parse w))
  else if w % 8 = 2 then some (.smul (UR3.parse w))
  else if w % 8 = 3 then some (.smulh (UR3.parse w))
  else if w % 8 = 4 then some (.smulhn (UR3.parse w))
  else if w % 8 = 5 then some (.sdiv (UR3.parse w))
  else if w % 8 = 6 then some (.sdivn (UR3.parse w))
  else if w % 8 = 7 then some (.srem (UR3.parse w))
  else none

/-- Uniform major 0x01 (R157). -/
def parseUniform01 (w : Nat) : Option Instr :=
  if w % 8 = 0 then some (.sand (UR3.parse w))
  else if w % 8 = 1 then some (.sor (UR3.parse w))
  else if w % 8 = 2 then some (.sxor (UR3.parse w))
  else if w % 8 = 3 then some (.sandn (UR3.parse w))
  else if w % 8 = 4 then some (.sshl (UR3.parse w))
  else if w % 8 = 5 then some (.sshr (UR3.parse w))
  else if w % 8 = 6 then some (.ssar (UR3.parse w))
  else if w % 8 = 7 then some (.srot (UR3.parse w))
  else none

/-- Uniform major 0x02 (R157). -/
def parseUniform02 (w : Nat) : Option Instr :=
  if w % 8 = 0 then some (.smin (UR3.parse w))
  else if w % 8 = 1 then some (.smax (UR3.parse w))
  else if w % 8 = 2 then some (.sminn (UR3.parse w))
  else if w % 8 = 3 then some (.smaxn (UR3.parse w))
  else if w % 8 = 4 ∧ w / 2 ^ 6 % 64 = 0 then some (.spopc (UR2.parse w))
  else if w % 8 = 5 ∧ w / 2 ^ 6 % 64 = 0 then some (.sclz (UR2.parse w))
  else if w % 8 = 6 ∧ w / 2 ^ 6 % 64 = 0 then some (.sctz (UR2.parse w))
  else if w % 8 = 7 then some (.ssel (USel.parse w))
  else none

/-- Uniform major 0x03 (R157). -/
def parseUniform03 (w : Nat) : Option Instr :=
  if w % 8 = 0 then (UCmp.parse w).map .scmpI
  else if w % 8 = 1 then (UCmp.parse w).map .scmpN
  else none

/-- Uniform major 0x04 (R157). -/
def parseUniform04 (w : Nat) : Option Instr :=
  some (.saddi (UImm.parse w))

/-- Uniform major 0x05 (R157). -/
def parseUniform05 (w : Nat) : Option Instr :=
  some (.slui (ULui.parse w))

/-- Uniform major 0x07 (R157). -/
def parseUniform07 (w : Nat) : Option Instr :=
  if w % 8 = 0 then some (.sbfx (UR3.parse w))
  else if w % 8 = 1 then some (.sbfxs (UR3.parse w))
  else if w % 8 = 2 then some (.sbfi (UR3.parse w))
  else none

/-- Uniform major 0x08 (R157). -/
def parseUniform08 (w : Nat) : Option Instr :=
  if w % 8 = 0 ∧ w / 2 ^ 9 % 8 = 0 ∧ w / 2 ^ 15 % 8 = 0 ∧ w / 2 ^ 21 % 8 = 0 then some (.cand (UCond.parse w))
  else if w % 8 = 1 ∧ w / 2 ^ 9 % 8 = 0 ∧ w / 2 ^ 15 % 8 = 0 ∧ w / 2 ^ 21 % 8 = 0 then some (.cor (UCond.parse w))
  else if w % 8 = 2 ∧ w / 2 ^ 9 % 8 = 0 ∧ w / 2 ^ 15 % 8 = 0 ∧ w / 2 ^ 21 % 8 = 0 then some (.cxor (UCond.parse w))
  else if w % 8 = 3 ∧ w / 2 ^ 9 % 8 = 0 ∧ w / 2 ^ 15 % 8 = 0 ∧ w / 2 ^ 21 % 8 = 0 then some (.candn (UCond.parse w))
  else none

/-- Uniform major 0x09 (R157). -/
def parseUniform09 (w : Nat) : Option Instr :=
  if w % 8 = 0 ∧ w / 2 ^ 6 % 64 = 0 ∧ w / 2 ^ 15 % 8 = 0 then some (.sbcv (UPred.parse w))
  else none

/-- Uniform major 0x0A (R157). -/
def parseUniform0A (w : Nat) : Option Instr :=
  if w / 2 ^ 12 % 64 = 0 then some (.srd (USrd.parse w))
  else none

/-- Uniform major 0x0B (R157). -/
def parseUniform0B (w : Nat) : Option Instr :=
  if w / 2 ^ 18 % 64 = 0 then some (.swr (USwr.parse w))
  else none

/-- Uniform major 0x10 (R157). -/
def parseUniform10 (w : Nat) : Option Instr :=
  some (.bra (UJ.parse w))

/-- Uniform major 0x11 (R157). -/
def parseUniform11 (w : Nat) : Option Instr :=
  some (.call (UJ.parse w))

/-- Uniform major 0x12 (R157). -/
def parseUniform12 (w : Nat) : Option Instr :=
  if w % 8 = 0 ∧ w / 2 ^ 6 % 64 = 0 ∧ w / 2 ^ 18 % 64 = 0 then some (.jmpr (UA.parse w))
  else if w % 8 = 1 ∧ w / 2 ^ 6 % 64 = 0 ∧ w / 2 ^ 18 % 64 = 0 then some (.ret (UA.parse w))
  else if w % 8 = 2 ∧ w / 2 ^ 6 % 64 = 0 ∧ w / 2 ^ 18 % 64 = 0 then some (.callr (UA.parse w))
  else none

/-- Uniform major 0x13 (R157). -/
def parseUniform13 (w : Nat) : Option Instr :=
  if w / 2 ^ 18 % 64 = 0 then some (.loop (ULoop.parse w))
  else none

/-- Uniform major 0x14 (R157). -/
def parseUniform14 (w : Nat) : Option Instr :=
  if w % 8 = 1 ∧ w / 2 ^ 6 % 4096 = 0 then some (.lcnt (UDc.parse w))
  else if w % 8 = 0 ∧ w / 2 ^ 6 % 262144 = 0 then some .lexit
  else none

/-- Uniform major 0x15 (R157). -/
def parseUniform15 (w : Nat) : Option Instr :=
  some (.brp (UJ.parse w))

/-- Uniform major 0x16 (R157). -/
def parseUniform16 (w : Nat) : Option Instr :=
  if w / 2 ^ 20 % 16 = 0 then some (.rcv (UOff.parse w))
  else none

/-- Uniform major 0x1D (R157). -/
def parseUniform1D (w : Nat) : Option Instr :=
  if w / 2 ^ 12 % 4096 = 0 then some (.bkpt (UCode.parse w))
  else none

/-- Uniform major 0x1E (R157). -/
def parseUniform1E (w : Nat) : Option Instr :=
  if w / 2 ^ 12 % 4096 = 0 then some (.trap (UCode.parse w))
  else none

/-- Uniform major 0x1F (R157). -/
def parseUniform1F (w : Nat) : Option Instr :=
  if w % 8 = 1 ∧ w / 2 ^ 12 % 64 = 0 then some (.prd (UPrd.parse w))
  else if w % 8 = 2 ∧ w / 2 ^ 18 % 64 = 0 then some (.pwr (UPwr.parse w))
  else if w % 8 = 0 ∧ w / 2 ^ 6 % 262144 = 0 then some .rett
  else if w % 8 = 3 ∧ w / 2 ^ 6 % 262144 = 0 then some .idle
  else if w % 8 = 4 ∧ w / 2 ^ 6 % 262144 = 0 then some .leasew
  else if w % 8 = 5 ∧ w / 2 ^ 6 % 262144 = 0 then some .halt
  else none

/-- Uniform major 0x20 (R157). -/
def parseUniform20 (w : Nat) : Option Instr :=
  if w % 256 = 0 ∧ w / 2 ^ 12 % 4096 = 0 then some (.bar (UBar.parse w))
  else if w % 256 = 64 ∧ w / 2 ^ 12 % 4096 = 0 then some (.barProd (UBar.parse w))
  else if w % 256 = 128 ∧ w / 2 ^ 12 % 4096 = 0 then some (.barCons (UBar.parse w))
  else if w % 256 = 192 ∧ w / 2 ^ 18 % 64 = 0 then some (.barCnt (UBarC.parse w))
  else none

/-- Uniform major 0x22 (R157). -/
def parseUniform22 (w : Nat) : Option Instr :=
  if w % 64 = 0 ∧ w / 2 ^ 7 % 4 = 0 ∧ w / 2 ^ 12 % 4096 = 0 then (UFence.parse w).map .fenceAcq
  else if w % 64 = 0 ∧ w / 2 ^ 7 % 4 = 1 ∧ w / 2 ^ 12 % 4096 = 0 then (UFence.parse w).map .fenceRel
  else if w % 64 = 0 ∧ w / 2 ^ 7 % 4 = 2 ∧ w / 2 ^ 12 % 4096 = 0 then (UFence.parse w).map .fenceFull
  else none

/-- Uniform major 0x23 (R157). -/
def parseUniform23 (w : Nat) : Option Instr :=
  some (.sld (ULd.parse w))

/-- Uniform major 0x24 (R157). -/
def parseUniform24 (w : Nat) : Option Instr :=
  if w / 2 ^ 8 % 16 = 0 then some (.sst (USt.parse w))
  else none

/-- Uniform major 0x25 (R157). -/
def parseUniform25 (w : Nat) : Option Instr :=
  some (.slda (ULd.parse w))

/-- Uniform major 0x26 (R157). -/
def parseUniform26 (w : Nat) : Option Instr :=
  if w / 2 ^ 8 % 16 = 0 then some (.sstr (USt.parse w))
  else none

/-- Uniform major 0x27 (R157). -/
def parseUniform27 (w : Nat) : Option Instr :=
  if w % 4 = 0 then (UAtom.parse w).map .satom
  else none

/-- Uniform major 0x28 (R157). -/
def parseUniform28 (w : Nat) : Option Instr :=
  if w / 2 ^ 9 % 8 = 0 ∧ w / 2 ^ 18 % 64 = 0 then some (.qput (UQput.parse w))
  else none

/-- Uniform major 0x29 (R157). -/
def parseUniform29 (w : Nat) : Option Instr :=
  if w / 2 ^ 9 % 512 = 0 then some (.qget (UQget.parse w))
  else none

/-- Uniform major 0x2B (R157). -/
def parseUniform2B (w : Nat) : Option Instr :=
  if w % 8 = 0 ∧ w / 2 ^ 6 % 4096 = 0 then some (.aseal (UDc.parse w))
  else none

/-- Uniform major 0x2C (R157). -/
def parseUniform2C (w : Nat) : Option Instr :=
  if w / 2 ^ 4 % 1048576 = 0 then some (.await (UWait.parse w))
  else if w % 4096 = 2048 then some (.awaitT (UR2.parse w))
  else none

/-- Uniform major 0x2D (R157). -/
def parseUniform2D (w : Nat) : Option Instr :=
  if w % 256 = 0 then some (.bxt (UDAL.parse w))
  else none

/-- Uniform major 0x2E (R157). -/
def parseUniform2E (w : Nat) : Option Instr :=
  if w % 256 = 0 then some (.gath (UDAL.parse w))
  else none

/-- Uniform major 0x2F (R157). -/
def parseUniform2F (w : Nat) : Option Instr :=
  if w / 2 ^ 3 % 2 = 1 ∧ w / 2 ^ 5 % 524288 = 0 then some (.sarmArm (UArm.parse w))
  else if w / 2 ^ 3 % 2097152 = 0 then some (.sarmDisarm (UStrm.parse w))
  else none

/-- Uniform major 0x30 (R157). -/
def parseUniform30 (w : Nat) : Option Instr :=
  if w % 8 = 0 ∧ w / 2 ^ 6 % 64 = 0 ∧ w / 2 ^ 18 % 64 = 0 then some (.mgang (UA.parse w))
  else none

/-- Uniform major 0x31 (R157). -/
def parseUniform31 (w : Nat) : Option Instr :=
  if w / 2 ^ 4 % 16384 = 0 then some (.macq (UMacq.parse w))
  else none

/-- Uniform major 0x32 (R157). -/
def parseUniform32 (w : Nat) : Option Instr :=
  if w % 8 = 0 ∧ w / 2 ^ 6 % 64 = 0 ∧ w / 2 ^ 18 % 64 = 0 then some (.mrel (UA.parse w))
  else none

/-- Uniform major 0x33 (R157). -/
def parseUniform33 (w : Nat) : Option Instr :=
  if w % 32 = 0 ∧ w / 2 ^ 8 % 16 = 0 ∧ w / 2 ^ 18 % 64 = 0 then some (.mma (UJoint.parse w))
  else if w % 32 = 16 ∧ w / 2 ^ 8 % 16 = 0 ∧ w / 2 ^ 18 % 64 = 0 then some (.mmaCx (UJoint.parse w))
  else none

/-- Uniform major 0x34 (R157). -/
def parseUniform34 (w : Nat) : Option Instr :=
  if w % 32 = 0 ∧ w / 2 ^ 8 % 16 = 0 ∧ w / 2 ^ 18 % 64 = 0 then some (.mlt (UJoint.parse w))
  else none

/-- Uniform major 0x35 (R157). -/
def parseUniform35 (w : Nat) : Option Instr :=
  if w % 32 = 1 ∧ w / 2 ^ 8 % 16 = 0 ∧ w / 2 ^ 18 % 64 = 0 then some (.maccLoad (UJoint.parse w))
  else if w % 32 = 2 ∧ w / 2 ^ 8 % 16 = 0 ∧ w / 2 ^ 18 % 64 = 0 then some (.maccStore (UJoint.parse w))
  else if w % 32 = 0 ∧ w / 2 ^ 8 % 65536 = 0 then some .maccZero
  else none

/-- Uniform major 0x36 (R157). -/
def parseUniform36 (w : Nat) : Option Instr :=
  if w % 256 = 0 then some (.mxmul (UDAL.parse w))
  else none

/-- Uniform major 0x37 (R157). -/
def parseUniform37 (w : Nat) : Option Instr :=
  if w / 2 ^ 2 % 64 = 0 then some (.nttFwd (UNtt.parse w))
  else if w / 2 ^ 2 % 64 = 1 then some (.nttInv (UNtt.parse w))
  else none

/-- Uniform major 0x38 (R157). -/
def parseUniform38 (w : Nat) : Option Instr :=
  if w % 4096 = 0 then some (.stow (UR2.parse w))
  else none

/-- Uniform major 0x39 (R157). -/
def parseUniform39 (w : Nat) : Option Instr :=
  if w % 256 = 0 then some (.unstow (UDAL.parse w))
  else none

/-- Uniform major 0x3A (R157). -/
def parseUniform3A (w : Nat) : Option Instr :=
  if w % 8 = 0 ∧ w / 2 ^ 6 % 64 = 0 ∧ w / 2 ^ 18 % 64 = 0 then some (.publ (UA.parse w))
  else none

/-- Uniform major 0x3B (R157). -/
def parseUniform3B (w : Nat) : Option Instr :=
  if w / 2 ^ 7 % 32 = 0 ∧ w / 2 ^ 18 % 64 = 0 then some (.emit (UEmit.parse w))
  else none

/-- Uniform major 0x3C (R157). -/
def parseUniform3C (w : Nat) : Option Instr :=
  if w / 2 ^ 4 % 1048576 = 0 then some (.eseal (UEStrm.parse w))
  else if w / 2 ^ 4 % 1048576 = 1 then some (.esync (UEStrm.parse w))
  else if w / 2 ^ 4 % 4 = 2 ∧ w / 2 ^ 7 % 32 = 0 ∧ w / 2 ^ 18 % 64 = 0 then some (.eopen (UEopen.parse w))
  else if w / 2 ^ 4 % 16384 = 3 then some (.epos (UEpos.parse w))
  else none

/-- Uniform major 0x3D (R157). -/
def parseUniform3D (w : Nat) : Option Instr :=
  if w / 2 ^ 2 % 1024 = 0 ∧ w / 2 ^ 18 % 64 = 0 then some (.tide (UTide.parse w))
  else none

/-- Uniform major 0x3E (R157). -/
def parseUniform3E (w : Nat) : Option Instr :=
  if w % 8 = 0 ∧ w / 2 ^ 6 % 64 = 0 then some (.launch (UR2.parse w))
  else none

/-- Uniform major 0x17 (R157). -/
def parseUniform17 (w : Nat) : Option Instr :=
  if w % 16777216 = 0 then some .join
  else none

/-- Uniform major 0x18 (R157). -/
def parseUniform18 (w : Nat) : Option Instr :=
  if w % 8 = 0 ∧ w / 2 ^ 6 % 262144 = 0 then some .regang
  else none

/-- Uniform major 0x19 (R157). -/
def parseUniform19 (w : Nat) : Option Instr :=
  if w % 8 = 0 ∧ w / 2 ^ 6 % 262144 = 0 then some .rgn
  else none

/-- Uniform major 0x1A (R157). -/
def parseUniform1A (w : Nat) : Option Instr :=
  if w % 8 = 0 ∧ w / 2 ^ 6 % 262144 = 0 then some .exitLanes
  else none

/-- Uniform major 0x1B (R157). -/
def parseUniform1B (w : Nat) : Option Instr :=
  if w % 8 = 0 ∧ w / 2 ^ 6 % 262144 = 0 then some .rolesw
  else none

/-- Uniform major 0x1C (R157). -/
def parseUniform1C (w : Nat) : Option Instr :=
  if w % 8 = 0 ∧ w / 2 ^ 6 % 262144 = 0 then some .nop
  else none

/-- Uniform major 0x21 (R157). -/
def parseUniform21 (w : Nat) : Option Instr :=
  if w % 16777216 = 0 then some .sstep
  else none

/-- A word of the lane set by its major opcode, bits [29:24] (R154); a UX first word is read by `decode`. -/
def parseLane (w : Nat) : Option Instr :=
  match w / 2 ^ 24 % 64 with
  | 0x01 => parseLane01 w
  | 0x02 => parseLane02 w
  | 0x03 => parseLane03 w
  | 0x04 => parseLane04 w
  | 0x05 => parseLane05 w
  | 0x06 => parseLane06 w
  | 0x07 => parseLane07 w
  | 0x08 => parseLane08 w
  | 0x09 => parseLane09 w
  | 0x0A => parseLane0A w
  | 0x0B => parseLane0B w
  | 0x0C => parseLane0C w
  | 0x0D => parseLane0D w
  | 0x0E => parseLane0E w
  | 0x0F => parseLane0F w
  | 0x10 => parseLane10 w
  | 0x11 => parseLane11 w
  | 0x12 => parseLane12 w
  | 0x13 => parseLane13 w
  | 0x14 => parseLane14 w
  | 0x15 => parseLane15 w
  | 0x16 => parseLane16 w
  | 0x17 => parseLane17 w
  | 0x18 => parseLane18 w
  | 0x19 => parseLane19 w
  | 0x1A => parseLane1A w
  | 0x1B => parseLane1B w
  | 0x1C => parseLane1C w
  | 0x1D => parseLane1D w
  | 0x1E => parseLane1E w
  | 0x1F => parseLane1F w
  | 0x20 => parseLane20 w
  | 0x21 => parseLane21 w
  | 0x22 => parseLane22 w
  | 0x23 => parseLane23 w
  | 0x24 => parseLane24 w
  | 0x25 => parseLane25 w
  | 0x26 => parseLane26 w
  | 0x27 => parseLane27 w
  | 0x28 => parseLane28 w
  | 0x29 => parseLane29 w
  | 0x2A => parseLane2A w
  | 0x2B => parseLane2B w
  | 0x2C => parseLane2C w
  | 0x2D => parseLane2D w
  | 0x2E => parseLane2E w
  | 0x2F => parseLane2F w
  | 0x30 => parseLane30 w
  | 0x31 => parseLane31 w
  | 0x32 => parseLane32 w
  | 0x33 => parseLane33 w
  | 0x34 => parseLane34 w
  | 0x35 => parseLane35 w
  | 0x36 => parseLane36 w
  | 0x37 => parseLane37 w
  | 0x38 => parseLane38 w
  | 0x39 => parseLane39 w
  | 0x3A => parseLane3A w
  | 0x3B => parseLane3B w
  | 0x3C => parseLane3C w
  | 0x3D => parseLane3D w
  | 0x3E => parseLane3E w
  | 0x3F => parseLane3F w
  | _ => none

/-- A word of the uniform set by its major opcode, bits [29:24] (R157); a UX first word is read by `decode`. -/
def parseUniform (w : Nat) : Option Instr :=
  match w / 2 ^ 24 % 64 with
  | 0x00 => parseUniform00 w
  | 0x01 => parseUniform01 w
  | 0x02 => parseUniform02 w
  | 0x03 => parseUniform03 w
  | 0x04 => parseUniform04 w
  | 0x05 => parseUniform05 w
  | 0x07 => parseUniform07 w
  | 0x08 => parseUniform08 w
  | 0x09 => parseUniform09 w
  | 0x0A => parseUniform0A w
  | 0x0B => parseUniform0B w
  | 0x10 => parseUniform10 w
  | 0x11 => parseUniform11 w
  | 0x12 => parseUniform12 w
  | 0x13 => parseUniform13 w
  | 0x14 => parseUniform14 w
  | 0x15 => parseUniform15 w
  | 0x16 => parseUniform16 w
  | 0x1D => parseUniform1D w
  | 0x1E => parseUniform1E w
  | 0x1F => parseUniform1F w
  | 0x20 => parseUniform20 w
  | 0x22 => parseUniform22 w
  | 0x23 => parseUniform23 w
  | 0x24 => parseUniform24 w
  | 0x25 => parseUniform25 w
  | 0x26 => parseUniform26 w
  | 0x27 => parseUniform27 w
  | 0x28 => parseUniform28 w
  | 0x29 => parseUniform29 w
  | 0x2B => parseUniform2B w
  | 0x2C => parseUniform2C w
  | 0x2D => parseUniform2D w
  | 0x2E => parseUniform2E w
  | 0x2F => parseUniform2F w
  | 0x30 => parseUniform30 w
  | 0x31 => parseUniform31 w
  | 0x32 => parseUniform32 w
  | 0x33 => parseUniform33 w
  | 0x34 => parseUniform34 w
  | 0x35 => parseUniform35 w
  | 0x36 => parseUniform36 w
  | 0x37 => parseUniform37 w
  | 0x38 => parseUniform38 w
  | 0x39 => parseUniform39 w
  | 0x3A => parseUniform3A w
  | 0x3B => parseUniform3B w
  | 0x3C => parseUniform3C w
  | 0x3D => parseUniform3D w
  | 0x3E => parseUniform3E w
  | 0x17 => parseUniform17 w
  | 0x18 => parseUniform18 w
  | 0x19 => parseUniform19 w
  | 0x1A => parseUniform1A w
  | 0x1B => parseUniform1B w
  | 0x1C => parseUniform1C w
  | 0x21 => parseUniform21 w
  | _ => none

/-- A one-word instruction: bit 31 selects the set (R147). -/
def parse (w : Nat) : Option Instr := if w / 2 ^ 31 % 2 = 0 then parseLane w else parseUniform w

/-- The word opens a UX pair: uniform major 0x06 with bits [17:1] zero (R149, R280). -/
def isLiteral (w : Nat) : Bool := w / 2 ^ 31 % 2 == 1 && w / 2 ^ 24 % 64 == 0x06 && w / 2 % 2 ^ 17 == 0

/-- A UX pair: fn 0 is SLIT and fn 1 is SLITH (R280). -/
def parseLiteral (w : Nat) (data : Word) : Instr :=
  if w % 2 = 0 then .slit (ULit.parse w data) else .slith (ULit.parse w data)

/-- Why a word that `parse` refuses is no instruction. -/
def refusal (w : Nat) : DecodeError :=
  let major := w / 2 ^ 24 % 64
  if w / 2 ^ 31 % 2 = 0 then (if major = 0 then .illegalForEver else .reservedCode)
  else if major = 0x3F then .illegalForEver
  else if (0x0C ≤ major ∧ major ≤ 0x0F) ∨ major = 0x2A then .reservedMajor
  else .reservedCode

/-- What a word carries beside its operands. -/
def issueOf (i : Instr) (w : Nat) : Issue := ⟨flag 30 w, if i.conditional then field 8 3 w else 0, if i.joint then field 8 5 w else 0⟩

/-- The instruction of a first word `w` and the word `data` after it, its `Issue`, and its length in words. -/
def decodeWords (w data : Word) : Except DecodeError (Instr × Issue × Nat) :=
  if isLiteral w.toNat then
    let i := parseLiteral w.toNat data
    .ok (i, issueOf i w.toNat, 2)
  else
    match parse w.toNat with
    | none => .error (refusal w.toNat)
    | some i => if i.wf then .ok (i, issueOf i w.toNat, 1) else .error .badField

/-- The instruction at the head of a list of bytes, its `Issue`, and the bytes after it (R147). -/
def decode : List Byte → Except DecodeError (Instr × Issue × List Byte)
  | a :: b :: c :: d :: rest =>
    let w := BitVec.ofNat 32 (wordOfBytes a b c d)
    if isLiteral w.toNat then
      match rest with
      | a' :: b' :: c' :: d' :: rest' =>
        let i := parseLiteral w.toNat (BitVec.ofNat 32 (wordOfBytes a' b' c' d'))
        .ok (i, issueOf i w.toNat, rest')
      | _ => .error .short
    else
      match decodeWords w 0 with
      | .ok (i, q, _) => .ok (i, q, rest)
      | .error e => .error e
  | _ => .error .short

/-- The bits of a one-word instruction without those of its `Issue`, or a pair's first word (R147 to R157); an event row has
none. -/
def encodeBits : Instr → Option Nat
  | .iadd o => some (0x01000000 + o.bits)
  | .iaddSat o => some (0x01000001 + o.bits)
  | .iaddSatN32 o => some (0x01000002 + o.bits)
  | .isub o => some (0x02000000 + o.bits)
  | .isubSat o => some (0x02000001 + o.bits)
  | .isubSatN32 o => some (0x02000002 + o.bits)
  | .imul o => some (0x03000000 + o.bits)
  | .imulHi o => some (0x03000001 + o.bits)
  | .imulHiN32 o => some (0x03000002 + o.bits)
  | .imad o => some (0x04000000 + o.bits)
  | .idivI32 o => some (0x05000000 + o.bits)
  | .idivN32 o => some (0x05000001 + o.bits)
  | .iremI32 o => some (0x05000002 + o.bits)
  | .iremN32 o => some (0x05000003 + o.bits)
  | .iminI32 o => some (0x06000000 + o.bits)
  | .iminN32 o => some (0x06000001 + o.bits)
  | .imaxI32 o => some (0x06000002 + o.bits)
  | .imaxN32 o => some (0x06000003 + o.bits)
  | .land o => some (0x07000000 + o.bits)
  | .lor o => some (0x07000001 + o.bits)
  | .lxor o => some (0x07000002 + o.bits)
  | .landn o => some (0x07000003 + o.bits)
  | .ishl o => some (0x08000000 + o.bits)
  | .ishr o => some (0x08000001 + o.bits)
  | .isar o => some (0x08000002 + o.bits)
  | .irot o => some (0x08000003 + o.bits)
  | .popc o => some (0x09000000 + o.bits)
  | .clz o => some (0x09000001 + o.bits)
  | .ctz o => some (0x09000002 + o.bits)
  | .brev o => some (0x09000003 + o.bits)
  | .icmpI32 o => some (0x0A000000 + o.bits)
  | .icmpN32 o => some (0x0A000001 + o.bits)
  | .sel o => some (0x0B000000 + o.bits)
  | .bfxN32 o => some (0x0C000000 + o.bits)
  | .bfxI32 o => some (0x0C000001 + o.bits)
  | .bfi o => some (0x0C000002 + o.bits)
  | .addmod o => some (0x0D000000 + o.bits)
  | .submod o => some (0x0D000001 + o.bits)
  | .mulmod o => some (0x0D000002 + o.bits)
  | .iaddi o => some (0x0E000000 + o.bits)
  | .ishli o => some (0x0F000000 + o.bits)
  | .ishri o => some (0x0F000040 + o.bits)
  | .isari o => some (0x0F000080 + o.bits)
  | .iroti o => some (0x0F0000C0 + o.bits)
  | .imovi o => some (0x10000000 + o.bits)
  | .fadd o => some (0x11000000 + o.bits)
  | .fsub o => some (0x11000001 + o.bits)
  | .fmul o => some (0x12000000 + o.bits)
  | .ffma o => some (0x13000000 + o.bits)
  | .fmin o => some (0x14000000 + o.bits)
  | .fmax o => some (0x14000001 + o.bits)
  | .fscl o => some (0x14000002 + o.bits)
  | .fcmp o => some (0x15000000 + o.bits)
  | .fabs o => some (0x16000000 + o.bits)
  | .fneg o => some (0x16000004 + o.bits)
  | .frcp o => some (0x16000008 + o.bits)
  | .frsq o => some (0x1600000C + o.bits)
  | .fsqrt o => some (0x16000010 + o.bits)
  | .fexp2 o => some (0x16000014 + o.bits)
  | .flog2 o => some (0x16000018 + o.bits)
  | .fclass o => some (0x1600001C + o.bits)
  | .frint o => some (0x16000020 + o.bits)
  | .dpe5 o => some (0x17000000 + o.bits)
  | .dpbf o => some (0x17000001 + o.bits)
  | .dpf8 o => some (0x17000002 + o.bits)
  | .dpf4 o => some (0x17000003 + o.bits)
  | .dadd o => some (0x18000000 + o.bits)
  | .dsub o => some (0x18000001 + o.bits)
  | .dmul o => some (0x19000000 + o.bits)
  | .dfma o => some (0x1A000000 + o.bits)
  | .dcmp o => some (0x1B000000 + o.bits)
  | .cvt o => some (0x1C000000 + o.bits)
  | .pack8 o => some (0x1D000000 + o.bits)
  | .pack4 o => some (0x1E000000 + o.bits)
  | .dpi8I8 o => some (0x1F000000 + o.bits)
  | .dpi8N8 o => some (0x1F000001 + o.bits)
  | .dpi4I4 o => some (0x1F000002 + o.bits)
  | .dpi4N4 o => some (0x1F000003 + o.bits)
  | .shflIdx o => some (0x20000000 + o.bits)
  | .shflUp o => some (0x20000001 + o.bits)
  | .shflDown o => some (0x20000002 + o.bits)
  | .shflXor o => some (0x20000003 + o.bits)
  | .redadd o => some (0x21000000 + o.bits)
  | .redmin o => some (0x21000001 + o.bits)
  | .redmax o => some (0x21000002 + o.bits)
  | .redminn o => some (0x21000003 + o.bits)
  | .minxI32 o => some (0x22000000 + o.bits)
  | .minxN32 o => some (0x22000001 + o.bits)
  | .maxxI32 o => some (0x22000002 + o.bits)
  | .maxxN32 o => some (0x22000003 + o.bits)
  | .scanAdd o => some (0x23000000 + o.bits)
  | .scanXadd o => some (0x23000001 + o.bits)
  | .scanMax o => some (0x23000002 + o.bits)
  | .scanMin o => some (0x23000003 + o.bits)
  | .voteBallot o => some (0x24000000 + o.bits)
  | .voteAny o => some (0x24000001 + o.bits)
  | .voteAll o => some (0x24000002 + o.bits)
  | .bcast o => some (0x25000000 + o.bits)
  | .vget o => some (0x25000001 + o.bits)
  | .lidx o => some (0x25000002 + o.bits)
  | .pand o => some (0x26000000 + o.bits)
  | .por o => some (0x26000001 + o.bits)
  | .pxor o => some (0x26000002 + o.bits)
  | .pandn o => some (0x26000003 + o.bits)
  | .vtrp o => some (0x27000000 + o.bits)
  | .wadd o => some (0x28000000 + o.bits)
  | .wadc o => some (0x28000001 + o.bits)
  | .wsub o => some (0x29000000 + o.bits)
  | .wsbb o => some (0x29000001 + o.bits)
  | .wand o => some (0x2A000000 + o.bits)
  | .wor o => some (0x2A000001 + o.bits)
  | .wxor o => some (0x2A000002 + o.bits)
  | .wandn o => some (0x2A000003 + o.bits)
  | .wshl o => some (0x2B000000 + o.bits)
  | .wshr o => some (0x2B000001 + o.bits)
  | .wsar o => some (0x2B000002 + o.bits)
  | .wmuls o => some (0x2C000000 + o.bits)
  | .wmads o => some (0x2C000001 + o.bits)
  | .wdivs o => some (0x2D000000 + o.bits)
  | .wdiv o => some (0x2E000000 + o.bits)
  | .wcmpI o => some (0x2F000000 + o.bits)
  | .wcmpN o => some (0x2F000001 + o.bits)
  | .wneg o => some (0x30000000 + o.bits)
  | .wnot o => some (0x30000004 + o.bits)
  | .wabs o => some (0x30000008 + o.bits)
  | .wnorm o => some (0x3000000C + o.bits)
  | .wclz o => some (0x30000010 + o.bits)
  | .wpopc o => some (0x30000014 + o.bits)
  | .wextI o => some (0x31000000 + o.bits)
  | .wextN o => some (0x31000001 + o.bits)
  | .wgetl o => some (0x32000000 + o.bits)
  | .wsetl o => some (0x33000000 + o.bits)
  | .cres o => some (0x34000000 + o.bits)
  | .qadd o => some (0x35000000 + o.bits)
  | .qsub o => some (0x35000001 + o.bits)
  | .qmul o => some (0x35000002 + o.bits)
  | .qdiv o => some (0x35000003 + o.bits)
  | .qnorm o => some (0x36000000 + o.bits)
  | .wgcd o => some (0x36000001 + o.bits)
  | .acp o => some (0x37000000 + o.bits)
  | .ld o => some (0x38000000 + o.bits)
  | .lds o => some (0x39000000 + o.bits)
  | .ldi o => some (0x3A000000 + o.bits)
  | .st o => some (0x3B000000 + o.bits)
  | .sts o => some (0x3C000000 + o.bits)
  | .ldl o => some (0x3D000000 + o.bits)
  | .stl o => some (0x3D000001 + o.bits)
  | .atom o => some (0x3E000000 + o.bits)
  | .atom64 o => some (0x3F000000 + o.bits)
  | .sadd o => some (0x80000000 + o.bits)
  | .ssub o => some (0x80000001 + o.bits)
  | .smul o => some (0x80000002 + o.bits)
  | .smulh o => some (0x80000003 + o.bits)
  | .smulhn o => some (0x80000004 + o.bits)
  | .sdiv o => some (0x80000005 + o.bits)
  | .sdivn o => some (0x80000006 + o.bits)
  | .srem o => some (0x80000007 + o.bits)
  | .sand o => some (0x81000000 + o.bits)
  | .sor o => some (0x81000001 + o.bits)
  | .sxor o => some (0x81000002 + o.bits)
  | .sandn o => some (0x81000003 + o.bits)
  | .sshl o => some (0x81000004 + o.bits)
  | .sshr o => some (0x81000005 + o.bits)
  | .ssar o => some (0x81000006 + o.bits)
  | .srot o => some (0x81000007 + o.bits)
  | .smin o => some (0x82000000 + o.bits)
  | .smax o => some (0x82000001 + o.bits)
  | .sminn o => some (0x82000002 + o.bits)
  | .smaxn o => some (0x82000003 + o.bits)
  | .spopc o => some (0x82000004 + o.bits)
  | .sclz o => some (0x82000005 + o.bits)
  | .sctz o => some (0x82000006 + o.bits)
  | .ssel o => some (0x82000007 + o.bits)
  | .scmpI o => some (0x83000000 + o.bits)
  | .scmpN o => some (0x83000001 + o.bits)
  | .saddi o => some (0x84000000 + o.bits)
  | .slui o => some (0x85000000 + o.bits)
  | .slit o => some (0x86000000 + o.bits)
  | .slith o => some (0x86000001 + o.bits)
  | .sbfx o => some (0x87000000 + o.bits)
  | .sbfxs o => some (0x87000001 + o.bits)
  | .sbfi o => some (0x87000002 + o.bits)
  | .cand o => some (0x88000000 + o.bits)
  | .cor o => some (0x88000001 + o.bits)
  | .cxor o => some (0x88000002 + o.bits)
  | .candn o => some (0x88000003 + o.bits)
  | .sbcv o => some (0x89000000 + o.bits)
  | .srd o => some (0x8A000000 + o.bits)
  | .swr o => some (0x8B000000 + o.bits)
  | .bra o => some (0x90000000 + o.bits)
  | .call o => some (0x91000000 + o.bits)
  | .jmpr o => some (0x92000000 + o.bits)
  | .ret o => some (0x92000001 + o.bits)
  | .callr o => some (0x92000002 + o.bits)
  | .loop o => some (0x93000000 + o.bits)
  | .lcnt o => some (0x94000001 + o.bits)
  | .brp o => some (0x95000000 + o.bits)
  | .rcv o => some (0x96000000 + o.bits)
  | .bkpt o => some (0x9D000000 + o.bits)
  | .trap o => some (0x9E000000 + o.bits)
  | .prd o => some (0x9F000001 + o.bits)
  | .pwr o => some (0x9F000002 + o.bits)
  | .bar o => some (0xA0000000 + o.bits)
  | .barProd o => some (0xA0000040 + o.bits)
  | .barCons o => some (0xA0000080 + o.bits)
  | .barCnt o => some (0xA00000C0 + o.bits)
  | .fenceAcq o => some (0xA2000000 + o.bits)
  | .fenceRel o => some (0xA2000080 + o.bits)
  | .fenceFull o => some (0xA2000100 + o.bits)
  | .sld o => some (0xA3000000 + o.bits)
  | .sst o => some (0xA4000000 + o.bits)
  | .slda o => some (0xA5000000 + o.bits)
  | .sstr o => some (0xA6000000 + o.bits)
  | .satom o => some (0xA7000000 + o.bits)
  | .qput o => some (0xA8000000 + o.bits)
  | .qget o => some (0xA9000000 + o.bits)
  | .aseal o => some (0xAB000000 + o.bits)
  | .await o => some (0xAC000000 + o.bits)
  | .awaitT o => some (0xAC000800 + o.bits)
  | .bxt o => some (0xAD000000 + o.bits)
  | .gath o => some (0xAE000000 + o.bits)
  | .sarmArm o => some (0xAF000008 + o.bits)
  | .sarmDisarm o => some (0xAF000000 + o.bits)
  | .mgang o => some (0xB0000000 + o.bits)
  | .macq o => some (0xB1000000 + o.bits)
  | .mrel o => some (0xB2000000 + o.bits)
  | .mma o => some (0xB3000000 + o.bits)
  | .mmaCx o => some (0xB3000010 + o.bits)
  | .mlt o => some (0xB4000000 + o.bits)
  | .maccLoad o => some (0xB5000001 + o.bits)
  | .maccStore o => some (0xB5000002 + o.bits)
  | .mxmul o => some (0xB6000000 + o.bits)
  | .nttFwd o => some (0xB7000000 + o.bits)
  | .nttInv o => some (0xB7000004 + o.bits)
  | .stow o => some (0xB8000000 + o.bits)
  | .unstow o => some (0xB9000000 + o.bits)
  | .publ o => some (0xBA000000 + o.bits)
  | .emit o => some (0xBB000000 + o.bits)
  | .eseal o => some (0xBC000000 + o.bits)
  | .esync o => some (0xBC000010 + o.bits)
  | .eopen o => some (0xBC000020 + o.bits)
  | .epos o => some (0xBC000030 + o.bits)
  | .tide o => some (0xBD000000 + o.bits)
  | .launch o => some (0xBE000000 + o.bits)
  | .lexit => some 0x94000000
  | .join => some 0x97000000
  | .regang => some 0x98000000
  | .rgn => some 0x99000000
  | .exitLanes => some 0x9A000000
  | .rolesw => some 0x9B000000
  | .nop => some 0x9C000000
  | .rett => some 0x9F000000
  | .idle => some 0x9F000003
  | .leasew => some 0x9F000004
  | .halt => some 0x9F000005
  | .sstep => some 0xA1000000
  | .maccZero => some 0xB5000000
  | .issueArbitration
  | .loadResultArrival
  | .queueRequestServed
  | .wideSequencedComplete
  | .batchComplete
  | .bxtComplete
  | .gathComplete
  | .mxmulComplete
  | .nttComplete
  | .stowComplete
  | .childLaunchComplete
  | .matrixPass
  | .jointOpComplete
  | .maccComplete
  | .macqGrant
  | .accSpill
  | .publExchange
  | .sstepRelease
  | .emitResume
  | .esyncComplete
  | .leasewReturn
  | .idleWake
  | .controllerAccess
  | .peerInvalidate
  | .leaseExpire
  | .faultEntryWrite
  | .scrubGranule
  | .replay
  | .refuse
  | .gresume
  | .gskip
  | .gcancel
  | .purge
  | .purgeComplete
  | .attach
  | .detach
  | .dbgStop
  | .dbgResume
  | .stepi
  | .stepr
  | .dbgRegrd
  | .dbgRegwr
  | .doorbell
  | .cqConsumedWrite
  | .mergeVisit
  | .freezeComplete
  | .thawComplete
  | .segmentReturn
  | .launchAdmit
  | .teamPlace
  | .teamRelease
  | .generatorStart
  | .launchComplete
  | .completionRecordWrite
  | .coalescerHoldExpire
  | .ageTick
  | .queuePause
  | .queueResume
  | .queueCancel
  | .rload
  | .qload
  | .create
  | .destroy
  | .preempt
  | .preemptComplete
  | .ctxResume
  | .exportHandle
  | .revokeHandle
  | .revokeComplete
  | .importHandle
  | .importResponse
  | .unimportHandle
  | .poolWrite
  | .pbufWrite
  | .pctlWrite
  | .registerWrite
  | .tideEvaluate
  | .ethTransmitFrame
  | .ethReceiveFrame
  | .txTailWrite
  | .rxTailWrite
  | .powerOnReset
  | .packageReset
  | .startTimerExpire
  | .firmwareWatchdog
  | .fwready
  | .powerLoss
  | .functionLevelReset
  | .linkReset
  | .powerEvaluate
  | .thermtrip
  | .wakeSlotGrant
  | .bootClear
  | .bootSafe
  | .bootReset
  | .attest
  | .flashErase
  | .flashProgram
  | .flashOpComplete
  | .uncorrectableError
  | .attestComplete
  | .hostLinkUp
  | .hostSnoop
  | .recoveryLinkTimeout
  | .importRequestArrival => none

/-- The data word of a UX pair (R147). -/
def literalData : Instr → Option Word
  | .slit o | .slith o => some o.data
  | _ => none

/-- The bits of an `Issue`. -/
def Issue.bits (q : Issue) : Nat := bitNat q.b * 2 ^ 30 + q.c.val * 2 ^ 3 + q.j.val * 2 ^ 5

/-- The words of an instruction with its `Issue` (R147 to R157); an event row has none. -/
def encode (i : Instr) (q : Issue) : Option (List Word) :=
  match encodeBits i with
  | none => none
  | some n => some (BitVec.ofNat 32 (n + q.bits) :: (literalData i).toList)

/-- The bytes of an instruction as memory holds them. -/
def encodeBytes (i : Instr) (q : Issue) : Option (List Byte) := (encode i q).map fun ws => ws.flatMap bytesOfWord

/-- The bytes of a table word: bit 0 of the first word is bit 0 of `w`, and the bits above `nbits` are zero. -/
def tableBytes (nbits w : Nat) : List Byte :=
  let v := w % 2 ^ nbits
  bytesOfWord (BitVec.ofNat 32 v) ++ bytesOfWord (BitVec.ofNat 32 (v / 2 ^ 32))

/-- The instruction the decoder reads from the table's numbering of an instruction's bits. -/
def decodeTableWord (nbits w : Nat) : Option Instr :=
  match decode (tableBytes nbits w) with
  | .ok (i, _, _) => some i
  | .error _ => none

end Sys2Proof
end

