-- ==== Sys2Proof/Config.lean ====
section
/-! DEFINITION. What an implementation fixes and the spec leaves open: constants with no body, so that no proof can use a
value of them (log entries 2 and 5). -/

namespace Sys2Proof.Config

open Sys2Proof

/-- A free bit: the choice `k` made with the free-value counter at `n` (log entry 2). -/
opaque freeBit (n k : Nat) : Bool
/-- A free number, used as an order of performance or a count. -/
opaque freeNat (n k : Nat) : Nat
/-- A free word. -/
opaque freeWord (n k : Nat) : Word
/-- How POISON's TVAL names a column of an accumulator slot (R218, R348). -/
opaque columnName (slot column : Nat) : DWord
/-- Sectors of the boot flash between the four that a firmware image may take from page 0 on and the last one (R427, R438). -/
opaque spareSectors : Fin 252
/-- The last sector of the boot flash, of the 256 that a FLASHWIN page number reaches: it holds the attempt counter, and the flash ends
with it (R429; log entry 132). -/
def counterSector : Fin 256 := ⟨4 + spareSectors.val, by omega⟩
/-- How many nanoseconds the flash takes to erase a sector, and to program a byte (R429, R430). -/
opaque flashTime (erase : Bool) : Nat
/-- The offset of a field of a firmware image's header, in the order of R427: magic, version, code length, entry address, modulus,
signature. -/
opaque imageOffset (field : Fin 6) : Nat
/-- The SHA-512 digest of the public modulus that is fused into the basin die (R427). -/
opaque keyDigest : List Byte
/-- The training and flash reads of a start (R426): 0, or the reason 2, 3, 4 or 6 of the step that fails. -/
opaque startFailure (n : Nat) : Byte
/-- The frames that system software has assigned to a logical device hold a location of HBM4 (R433). -/
opaque deviceFrame (ld : Fin 4) (loc : Nat) : Bool
/-- The host's root port completes PCIe AtomicOps of so many bytes (R136). -/
opaque hostAtomics (bytes : Nat) : Bool
/-- The check value of a handle token under this package's identity key (R416). -/
opaque tokenCheck (pkgid : Byte) (asn : Asn) (base size : Addr) (rights : BitVec 3) (gen : Word) : Word
/-- The ECDSA signature of a digest under the identity key, for one of its random numbers (R428). -/
opaque quoteSignature (n : Nat) (digest : List Byte) : List Byte
/-- The bytes of an opaque section of a context image, by the image's number, the section's kind and its cluster and team; their layout
and their length have no stated form (R402, R405). -/
opaque sectionBytes (image kind tag : Nat) : List Byte
/-- A package of the fabric other than this one answers an IMPORT (R417): 0 OK, 1 HANDLE, 2 SIZE, 3 NOPATH. -/
opaque fabricAnswer (token : DWord) (n : Nat) : Fin 4
/-- A package of the fabric other than this one answers an access through its token (R361, R417): 0 performed, 1 HANDLE, 2 RIGHTS,
3 NOPATH. -/
opaque fabricAccess (token : DWord) (n : Nat) : Fin 4
/-- The special-register number, of those that R65 does not give, by which the debug interface names a context's forced-boundary count
(R30, R349; log entry 119). -/
opaque forcedName : BitVec 12
/-- How a memory-error record names the range of rows that is retired (R379). -/
opaque rowsName (lo hi : Nat) : DWord
/-- The boot flash holds a copy of the row-remap entry of a range of rows (R378). -/
opaque flashHasEntry (lo hi : Nat) : Bool

end Sys2Proof.Config
end

