-- ==== Sys2Proof/Machine/Bits.lean ====
section
/-! DEFINITION. Bit fields, sign extension and byte order (R1, R2), and lists kept in one canonical order. -/

namespace Sys2Proof.Machine

open Sys2Proof

/-- Bits `[lo + n - 1 : lo]` of a number. -/
def bits (x lo n : Nat) : Nat := x / 2 ^ lo % 2 ^ n

/-- One bit of a number. -/
def bit (x i : Nat) : Bool := x.testBit i

/-- The number of set bits among the low `n`. -/
def popCount : Nat → Nat → Nat
  | 0, _ => 0
  | n + 1, x => x % 2 + popCount n (x / 2)

/-- The parity of the low 48 bits (R109). -/
def parity (x : Nat) : Bool :=
  let x := x % 2 ^ 48
  let x := x ^^^ (x >>> 32)
  let x := x ^^^ (x >>> 16)
  let x := x ^^^ (x >>> 8)
  let x := x ^^^ (x >>> 4)
  let x := x ^^^ (x >>> 2)
  let x := x ^^^ (x >>> 1)
  x % 2 == 1

/-- The two's-complement reading of the low `n` bits. -/
def signed (n x : Nat) : Int :=
  let x := x % 2 ^ n
  if 2 * x < 2 ^ n then x else (x : Int) - 2 ^ n

/-- The low `n` bits of an integer. -/
def wrap (n : Nat) (x : Int) : Nat := (x % (2 ^ n : Int)).toNat

/-- The `n` low bytes of a number, least significant first (R2). -/
def toBytes : Nat → Nat → List Byte
  | 0, _ => []
  | n + 1, x => BitVec.ofNat 8 x :: toBytes n (x / 256)

/-- The number that bytes spell, least significant first (R2). -/
def ofBytes : List Byte → Nat
  | [] => 0
  | b :: rest => b.toNat + 256 * ofBytes rest

/-- Is bit `i` of a mask set? -/
def maskHas {n : Nat} (m : BitVec n) (i : Nat) : Bool := m.getLsbD i

/-- The numbers below `n` whose bit is set, ascending. -/
def maskList {n : Nat} (m : BitVec n) : List Nat := (List.range n).filter (maskHas m)

/-- The mask of a list of bit numbers. -/
def maskOf (n : Nat) (l : List Nat) : BitVec n := l.foldl (fun m i => m ||| BitVec.ofNat n (2 ^ i)) 0

/-- The mask of the bits where `f` holds. -/
def maskOfFn (n : Nat) (f : Nat → Bool) : BitVec n := maskOf n ((List.range n).filter f)

/-- `⌈a / b⌉`. -/
def ceilDiv (a b : Nat) : Nat := (a + b - 1) / b

/-- A mask held between bounds (clamping, R65). -/
def clamp (lo hi x : Nat) : Nat := max lo (min hi x)

/-! ### Association lists, sorted by key -/

/-- The value at a key. -/
def getBy {α : Type} (k : Nat) : List (Nat × α) → Option α
  | [] => none
  | (x, a) :: rest => if x = k then some a else getBy k rest

/-- The list with a key's value set, in key order. -/
def putBy {α : Type} (k : Nat) (v : α) : List (Nat × α) → List (Nat × α)
  | [] => [(k, v)]
  | (x, a) :: rest => if k < x then (k, v) :: (x, a) :: rest else if k = x then (k, v) :: rest else (x, a) :: putBy k v rest

/-- The list without a key. -/
def delBy {α : Type} (k : Nat) (l : List (Nat × α)) : List (Nat × α) := l.filter fun e => e.1 ≠ k

/-! ### Sparse maps: sorted strictly by key, and no entry equal to what an unlisted key reads as -/

/-- What a key reads as. -/
def sget {α : Type} (d : Nat → α) (k : Nat) : List (Nat × α) → α
  | [] => d k
  | (x, a) :: rest => if k < x then d k else if k = x then a else sget d k rest

/-- The map with one key written; writing the default removes the entry. -/
def sput {α : Type} [DecidableEq α] (d : Nat → α) (k : Nat) (v : α) : List (Nat × α) → List (Nat × α)
  | [] => if v = d k then [] else [(k, v)]
  | (x, a) :: rest =>
    if k < x then (if v = d k then (x, a) :: rest else (k, v) :: (x, a) :: rest)
    else if k = x then (if v = d k then rest else (k, v) :: rest)
    else (x, a) :: sput d k v rest

/-- The canonical form above a key. -/
def sortedAbove {α : Type} [DecidableEq α] (d : Nat → α) : Nat → List (Nat × α) → Bool
  | _, [] => true
  | n, (x, a) :: rest => decide (n ≤ x) && decide (a ≠ d x) && sortedAbove d (x + 1) rest

/-- A set of numbers as a strictly rising list. -/
def insertNat (k : Nat) : List Nat → List Nat
  | [] => [k]
  | x :: rest => if k < x then k :: x :: rest else if k = x then x :: rest else x :: insertNat k rest

end Sys2Proof.Machine
end

