-- ==== Sys2Proof/Machine/Fp.lean ====
section
/-! DEFINITION. Floating formats, their values as exact dyadic numbers, the one rounding, and the narrow conversions
(R79 to R86). -/

namespace Sys2Proof.Machine

open Sys2Proof

/-! ### Flags as a set (R66) -/

/-- FLAGS bits (R66). -/
def flagIV : BitVec 7 := 0x01
/-- division by zero -/
def flagDZ : BitVec 7 := 0x02
/-- overflow -/
def flagOF : BitVec 7 := 0x04
/-- underflow -/
def flagUF : BitVec 7 := 0x08
/-- inexact -/
def flagIX : BitVec 7 := 0x10
/-- a wide result was truncated -/
def flagWOV : BitVec 7 := 0x20
/-- a narrow conversion saturated -/
def flagSAT : BitVec 7 := 0x40

/-! ### Values -/

/-- The value of a floating datum: `(-1)^neg × mag × 2^exp` when finite. -/
inductive FVal
  | nan (signalling : Bool)
  | inf (neg : Bool)
  | fin (neg : Bool) (mag : Nat) (exp : Int)
  deriving DecidableEq, Repr

/-- How a format spends its top codes (R79). -/
inductive Specials | ieee | e4m3 | none
  deriving DecidableEq, Repr

/-- A floating format (R79). -/
structure Fmt where
  ebits : Nat
  mbits : Nat
  bias : Nat
  specials : Specials
  deriving DecidableEq, Repr

/-- binary64 (R79) -/
def Fmt.f64 : Fmt := ⟨11, 52, 1023, .ieee⟩
/-- binary32 -/
def Fmt.f32 : Fmt := ⟨8, 23, 127, .ieee⟩
/-- BF16 -/
def Fmt.bf16 : Fmt := ⟨8, 7, 127, .ieee⟩
/-- E5M2 -/
def Fmt.e5m2 : Fmt := ⟨5, 2, 15, .ieee⟩
/-- E4M3 -/
def Fmt.e4m3 : Fmt := ⟨4, 3, 7, .e4m3⟩
/-- E2M1 -/
def Fmt.e2m1 : Fmt := ⟨2, 1, 1, .none⟩

/-- The code of infinity, or the first code past the largest finite value. -/
def Fmt.top (f : Fmt) : Nat :=
  match f.specials with
  | .ieee => (2 ^ f.ebits - 1) * 2 ^ f.mbits
  | .e4m3 => 2 ^ (f.ebits + f.mbits) - 1
  | .none => 2 ^ (f.ebits + f.mbits)

/-- The default NaN (R83, R86). -/
def Fmt.nan (f : Fmt) : Nat :=
  match f.specials with
  | .ieee => f.top + 2 ^ (f.mbits - 1)
  | .e4m3 => f.top
  | .none => 0

/-- The sign bit's weight. -/
def Fmt.sign (f : Fmt) : Nat := 2 ^ (f.ebits + f.mbits)

/-- The exponent of the smallest subnormal. -/
def Fmt.emin (f : Fmt) : Int := 1 - (f.bias : Int) - f.mbits

/-- The value of a datum (R79). -/
def Fmt.value (f : Fmt) (x : Nat) : FVal :=
  let x := x % (2 * f.sign)
  let neg := decide (f.sign ≤ x)
  let body := x % f.sign
  let e := body / 2 ^ f.mbits
  let m := body % 2 ^ f.mbits
  if f.top ≤ body then
    (if f.specials = .ieee ∧ m = 0 then .inf neg
     else .nan (decide (f.specials = .ieee) && decide (m < 2 ^ (f.mbits - 1))))
  else if e = 0 then .fin neg m f.emin
  else .fin neg (2 ^ f.mbits + m) (f.emin + (e - 1 : Nat))

/-- The datum is subnormal and not zero. -/
def Fmt.subnormal (f : Fmt) (x : Nat) : Bool := decide (0 < x % f.sign ∧ x % f.sign < 2 ^ f.mbits)

/-- A zero of a sign. -/
def Fmt.zero (f : Fmt) (neg : Bool) : Nat := if neg then f.sign else 0

/-! ### The one rounding -/

/-- Is the magnitude rounded up, given the remainder, half of the step, whether anything lies below, and the parity? -/
def roundsUp (rm : Rm) (neg : Bool) (rem half : Nat) (sticky odd : Bool) : Bool :=
  match rm with
  | .rne => decide (half < rem) || (rem == half && (sticky || odd))
  | .rtz => false
  | .rdn => neg && (rem != 0 || sticky)
  | .rup => !neg && (rem != 0 || sticky)

/-- `mag × 2^exp`, plus something below its last place when `sticky`, as a multiple of `2^q`; and whether that is
inexact. -/
def roundAt (rm : Rm) (neg : Bool) (mag : Nat) (exp : Int) (sticky : Bool) (q : Int) : Nat × Bool :=
  if q ≤ exp then (mag * 2 ^ (exp - q).toNat, sticky)
  else
    let s := (q - exp).toNat
    let m := mag / 2 ^ s
    let rem := mag % 2 ^ s
    let up := roundsUp rm neg rem (2 ^ (s - 1)) sticky (m % 2 == 1)
    (if up then m + 1 else m, rem != 0 || sticky)

/-- A nonzero magnitude rounded to a format with no bound above: the code it would have, whether it is tiny (tested on
the rounding with an unbounded exponent, R83), and whether it is inexact. -/
def Fmt.roundMag (f : Fmt) (rm : Rm) (neg : Bool) (mag : Nat) (exp : Int) (sticky : Bool) : Nat × Bool × Bool :=
  let top := exp + (Nat.log2 mag : Int)
  let q := top - f.mbits
  let (m, inexact) := roundAt rm neg mag exp sticky (max q f.emin)
  let (mu, _) := roundAt rm neg mag exp sticky q
  let tiny := decide (q < f.emin ∧ ¬ (2 ^ (f.mbits + 1) ≤ mu ∧ q + 1 = f.emin))
  (((max q f.emin) - f.emin).toNat * 2 ^ f.mbits + m, tiny, inexact)

/-- The largest finite code. -/
def Fmt.maxFinite (f : Fmt) : Nat := f.top - 1

/-- Does an overflow under a mode give the largest finite value? -/
def overflowsToFinite (rm : Rm) (neg : Bool) : Bool :=
  match rm with
  | .rne => false
  | .rtz => true
  | .rdn => !neg
  | .rup => neg

/-- A finite value rounded to an IEEE-style format (R83, R84): the datum and the flags; `zeroNeg` is the sign of an exact
zero. -/
def Fmt.round (f : Fmt) (rm : Rm) (ftz : Bool) (neg : Bool) (mag : Nat) (exp : Int) (sticky : Bool) :
    Nat × BitVec 7 :=
  let sgn := if neg then f.sign else 0
  if mag = 0 then (sgn, 0)
  else
    let (code, tiny, inexact) := f.roundMag rm neg mag exp sticky
    if f.top ≤ code then
      (sgn + (if overflowsToFinite rm neg then f.maxFinite else f.top), flagOF ||| flagIX)
    else if ftz && tiny then (sgn, flagUF ||| flagIX)
    else (sgn + code, (if inexact then flagIX else 0) ||| (if tiny && inexact then flagUF else 0))

/-- An operand of a lane instruction: under FTZ a subnormal is a zero of its sign (R84). -/
def Fmt.operand (f : Fmt) (ftz : Bool) (x : Nat) : FVal :=
  if ftz && f.subnormal x then .fin (decide (f.sign ≤ x % (2 * f.sign))) 0 f.emin else f.value x

/-! ### Exact sums and products of dyadic numbers -/

/-- `m × 2^e`. -/
structure Dy where
  m : Int
  e : Int
  deriving DecidableEq, Repr

/-- A dyadic number with its exponent lowered to `e`. -/
def Dy.lower (x : Dy) (e : Int) : Int := x.m * 2 ^ (x.e - e).toNat

/-- The exact sum. -/
def Dy.add (x y : Dy) : Dy := let e := min x.e y.e; ⟨x.lower e + y.lower e, e⟩

/-- The exact product. -/
def Dy.mul (x y : Dy) : Dy := ⟨x.m * y.m, x.e + y.e⟩

/-- A signed magnitude as a dyadic number. -/
def dyOf (neg : Bool) (mag : Nat) (exp : Int) : Dy := ⟨if neg then -(mag : Int) else mag, exp⟩

/-- An exact dyadic number rounded to a format; an exact zero has sign `zneg`. -/
def Fmt.roundDy (f : Fmt) (rm : Rm) (ftz : Bool) (x : Dy) (zneg : Bool) : Nat × BitVec 7 :=
  if x.m = 0 then (f.zero zneg, 0) else f.round rm ftz (decide (x.m < 0)) x.m.natAbs x.e false

/-! ### Narrow conversions (R86) -/

/-- A conversion to E4M3 or E2M1, which saturate (R86). -/
def Fmt.saturate (f : Fmt) (rm : Rm) (v : FVal) : Nat × BitVec 7 :=
  match v with
  | .nan sig => (f.nan, if f.specials = .none ∨ sig then flagIV else 0)
  | .inf neg => (f.zero neg + f.maxFinite, flagSAT)
  | .fin neg mag exp =>
    if mag = 0 then (f.zero neg, 0)
    else
      let (code, tiny, inexact) := f.roundMag rm neg mag exp false
      if f.top ≤ code then (f.zero neg + f.maxFinite, flagSAT ||| flagIX)
      else (f.zero neg + code, (if inexact then flagIX else 0) ||| (if tiny && inexact then flagUF else 0))

/-- A conversion to a format with infinities (R86). -/
def Fmt.narrow (f : Fmt) (rm : Rm) (ftz : Bool) (v : FVal) : Nat × BitVec 7 :=
  match v with
  | .nan sig => (f.nan, if sig then flagIV else 0)
  | .inf neg => (f.zero neg + f.top, 0)
  | .fin neg mag exp => f.round rm ftz neg mag exp false

/-- A conversion to MXINT8 (R81, R86). -/
def toMxint8 (rm : Rm) (v : FVal) : Nat × BitVec 7 :=
  match v with
  | .nan _ => (0, flagIV)
  | .inf neg => (if neg then 0x80 else 0x7F, flagSAT)
  | .fin neg mag exp =>
    if mag = 0 then (0, 0)
    else
      let (m, inexact) := roundAt rm neg mag exp false (-6)
      if (if neg then 128 else 127) < m then (if neg then 0x80 else 0x7F, flagSAT ||| flagIX)
      else (if neg then (256 - m) % 256 else m,
        (if inexact then flagIX else 0) ||| (if m = 0 ∧ inexact then flagUF else 0))

/-- The value of an MXINT8 code (R81). -/
def mxint8Value (x : Nat) : FVal := let i := signed 8 x; .fin (decide (i < 0)) i.natAbs (-6)

/-- A conversion to E8M0 (R80, R86). -/
def toE8m0 (rm : Rm) (v : FVal) : Nat × BitVec 7 :=
  match v with
  | .nan sig => (0xFF, if sig then flagIV else 0)
  | .inf true => (0xFF, flagIV)
  | .inf false => (0xFE, flagSAT)
  | .fin neg mag exp =>
    if neg ∨ mag = 0 then (0xFF, flagIV)
    else
      let l := Nat.log2 mag
      let k : Int := exp + l
      if k < -127 then (0x00, flagUF ||| flagIX)
      else
        let rem := mag - 2 ^ l
        let up := match rm with
          | .rtz | .rdn => false
          | .rup => rem != 0
          | .rne => decide (2 ^ l < 2 * rem) || (2 * rem == 2 ^ l && (k + 127) % 2 != 0)
        let code := (k + 127).toNat + bitNat up
        if 0xFE < code then (0xFE, flagSAT ||| flagIX) else (code, if rem = 0 then 0 else flagIX)

/-- The value of an E8M0 code (R80). -/
def e8m0Value (x : Nat) : FVal := if x % 256 = 0xFF then .nan false else .fin false 1 ((x % 256 : Nat) - 127)

/-- A conversion to an integer of `n` bits with the range given (R86). -/
def toInt (lo hi : Int) (rm : Rm) (v : FVal) : Int × BitVec 7 :=
  match v with
  | .nan _ => (0, flagIV)
  | .inf neg => (if neg then lo else hi, flagIV)
  | .fin neg mag exp =>
    let (m, inexact) := roundAt rm neg mag exp false 0
    let i : Int := if neg then -(m : Int) else m
    if i < lo then (lo, flagIV) else if hi < i then (hi, flagIV) else (i, if inexact then flagIX else 0)

end Sys2Proof.Machine
end

