-- ==== Sys2Proof/Machine/State.lean ====
section
/-! DEFINITION. The state of the package: every piece of state the spec gives it, as plain data, and the state right
after power-on reset. INVENTORY.md lists each field with its rule. -/

namespace Sys2Proof.Machine

open Sys2Proof

/-- Why the model stops where the spec describes no further behaviour: there is no such reason, since the spec gives the part an effect
everywhere. -/
inductive Fault
  deriving DecidableEq, Repr

/-- Why the model gives an instruction no meaning. -/
inductive Refusal
  /-- An arm of `exec` that has no meaning yet. Safe: the model stops. -/
  | notModelled (mnemonic : String)
  /-- `exec` of an instruction word in a state where no group or Pilot is executing one (`State.cur` is empty or names a
  free slot). `step` never asks it. Safe: there is no register file to act on. -/
  | noIssuer
  deriving DecidableEq, Repr

/-- Privilege of an agent (R330). -/
inductive Priv | user | system
  deriving DecidableEq, Repr

/-- One level of a loop stack (R34). -/
structure LoopLevel where
  start : Addr
  last : Addr
  count : Word
  deriving DecidableEq, Repr

/-- An entry of a slice's reconvergence stack (R288). -/
inductive Rcon
  | opened (join : Addr) (mask : BitVec 4)
  | path (join : Addr) (waiting : BitVec 4) (resume : Addr)
  deriving DecidableEq, Repr

/-- What RGN records of a slice (R291). -/
structure RegionEntry where
  pc : Addr
  active : BitVec 4
  loops : List LoopLevel
  recon : List Rcon
  deriving DecidableEq, Repr

/-- What a slice that is not ready waits for (R31). -/
inductive Wait
  | ready
  /-- stopped at REGANG (R19) -/
  | regang
  /-- arrived at a barrier (R294) -/
  | barrier (n : Fin 16)
  /-- arrived at a superstep boundary (R26) -/
  | superstep
  /-- a request waits on a hardware queue (R43) -/
  | queue (q : Fin 32)
  /-- an access refused translation, until REPLAY or REFUSE (R340) -/
  | parked
  /-- the word of these slices is issued when they next win arbitration (R43, R201) -/
  | again (gang : BitVec 8)
  /-- a refused access of these slices has been answered with REPLAY: its word is issued again before any other word of the group
  (R145, R341) -/
  | replay (gang : BitVec 8)
  /-- a result in flight that the word uses is to arrive (R27, R153) -/
  | result
  /-- no more than so many sealed batches may be unfinished (R114) -/
  | batches (n : Nat)
  /-- the operation of a ticket-table entry is to reach its status (R241) -/
  | ticket (entry : Nat) (seq : Word)
  /-- the group's engine operations are to complete (R134) -/
  | drain
  /-- the group's writes to exported and peer lines are to be acknowledged (R371) -/
  | acks
  /-- the table entries that name these slots are to complete (R269) -/
  | entries (slots : BitVec 8)
  /-- a word of an emit stream that is not yet fetchable (R44, R45) -/
  | emitted
  /-- a sequenced wide instruction is in its core's sequencer (R201) -/
  | sequencer
  /-- waiting at a rendezvous latch, or in the reservation table (R256) -/
  | latch
  /-- a MACQ request waits (R267) -/
  | slots (n : Nat)
  /-- STOW waits for its engine (R296) -/
  | stow
  /-- UNSTOW waits for the requests that reached its stowage engine before it, those below its own number (R296) -/
  | stowTurn (before : Nat)
  /-- PUBL of the buffer at a page, with a number of its own, waits for its exchange (R298) -/
  | publish (page n : Nat)
  /-- LEASEW waits until this package time (R367) -/
  | lease (until_ : Nat)
  /-- IDLE waits until this package time, or an event (R332) -/
  | idle (until_ : Nat)
  /-- a GANG trap of its REGANG, to be entered once the handler of an earlier one has returned (R19, R335) -/
  | gangTrap
  deriving DecidableEq, Repr

/-- A slice's place in one emit stream (R46): the sequence number of its last fetch, and its mark before any fetch. -/
structure TowMark where
  stream : Fin 16
  last : Option Word
  entry : Word
  deriving DecidableEq, Repr

/-- A pending debugger request on a slice (R350, R351). -/
inductive DbgReq
  | none
  /-- to stop at the next boundary (R350) -/
  | stop
  | stepI
  | stepR
  /-- the step has issued its word, and stops when the word's wait ends (R351) -/
  | stepped
  deriving DecidableEq, Repr

/-- A word as fetched: the word, the data word of a UX pair, and where it came from (R304, R331). -/
structure Fetched where
  word : Word
  word2 : Word
  sidecar : Option Word
  berth : Bool
  deriving DecidableEq, Repr

/-- One slice (R13). -/
structure Slice where
  pc : Addr
  active : BitVec 4
  ended : BitVec 4
  exited : Bool
  /-- innermost level first -/
  loops : List LoopLevel
  /-- innermost entry first -/
  recon : List Rcon
  region : RegionEntry
  wait : Wait
  /-- the word at which the slice waits -/
  waitWord : Fetched
  /-- passed-over count (R32) -/
  passed : Nat
  tows : List TowMark
  /-- an event of R146, R258 or R344 since the slice's region entry -/
  pinned : Bool
  /-- numbers of the tickets issued since the slice's region entry (R344) -/
  issued : List Word
  /-- why a debugger holds the slice: DBGSTAT.WHY, 0 when it runs (R349) -/
  why : Fin 8
  dbg : DbgReq
  /-- the next word passes its comparator once (R352) -/
  passBreak : Bool
  deriving DecidableEq, Repr

/-- Uniform registers and conditions, of a group or of a Pilot (R61, R62, R275). -/
structure UFile where
  s : Vector DWord 64
  c : BitVec 8
  deriving DecidableEq, Repr

/-- A stream descriptor (R64). -/
structure StreamDesc where
  space : Bool
  base : Addr
  extent : Vector Word 5
  stride : Vector Word 5
  dir : Bool
  armed : Bool
  done : Word
  /-- when it was armed, by the count of steps: its elements may be read from then on (R113) (the model's own) -/
  since : Nat
  deriving DecidableEq, Repr

/-- A stream descriptor at reset (R64). -/
def StreamDesc.empty : StreamDesc := ⟨false, 0, Vector.replicate 5 0, Vector.replicate 5 0, false, false, 0, 0⟩

/-- One end of an asynchronous copy (R238). -/
inductive CopyEnd
  | global (va : DWord)
  | localStore (addr : BitVec 20)
  deriving DecidableEq, Repr

/-- One lane's copy of an ACP (R238): `parked` holds the address refused while it awaits an answer to its fault entry, and
`abandoned` is set by REFUSE (R443). The ACP is known by its number, its active lanes, its word and its address (R369). -/
structure Copy where
  dst : CopyEnd
  src : CopyEnd
  size : Nat
  priv : Priv
  parked : Option Nat
  abandoned : Bool
  lane : Fin 32
  issue : Nat
  lanes : LaneMask
  word : Word
  pc : Addr
  sidecar : Option Word
  /-- the underflow threshold that stood at its issue (R66) -/
  uft : Byte
  /-- when it was issued, by the count of steps (R138) (the model's own) -/
  since : Nat
  deriving DecidableEq, Repr

/-- The copy batches of a group (R114). -/
structure Batches where
  unsealed : List Copy
  /-- unfinished sealed batches, oldest first -/
  sealed_ : List (Word × List Copy)
  last : Word
  /-- of ACPs with refused copies, the batch, none while it is open, and the lowest refused address, until an event observes the batch's
  completion (R443) -/
  refused : List (Option Word × DWord)
  deriving DecidableEq, Repr

/-- A held entry of the ticket table (R240). -/
structure Ticket where
  entry : Fin 16
  kind : Nat
  seq : Word
  status : Option DWord
  deriving DecidableEq, Repr

/-- A result in flight with its lookahead windows (R152): the words left in each slice. -/
structure InFlight where
  pc : Addr
  /-- lane registers by number in the file, with the arriving values -/
  regs : List (Nat × VReg)
  lanes : LaneMask
  /-- by place, the lanes that another write has reached inside the window: either value may stay there -/
  late : List (Nat × LaneMask)
  /-- by place, the lanes that another write has taken after the window: the result no longer writes them -/
  gone : List (Nat × LaneMask)
  sreg : Option (Fin 64 × DWord)
  sover : Bool
  /-- the uniform register's value has arrived: only its promise is still open -/
  sdone : Bool
  /-- a reserved queue entry to fill (R441) -/
  push : Option (Fin 32 × Nat)
  left : List (Nat × Nat)
  deriving DecidableEq, Repr

/-- What a word has performed of one vector of a stream: the lanes read or stored, and the values read (R145, R237). -/
structure StreamPart where
  stream : Fin 8
  /-- the vector's number, DONE as it stood -/
  vector : Word
  done : LaneMask
  vals : VReg
  deriving DecidableEq, Repr

/-- The progress of a parked or refused access, or of a word that acted and then trapped: the word is that at an address, of
the slices of one issue gang (R145, R340, R440). -/
structure Progress where
  pc : Addr
  slices : BitVec 8
  done : LaneMask
  /-- the lanes that were not done when the word was last parked (R341) -/
  left : LaneMask
  vals : List (Nat × VReg)
  pops : List DWord
  popped : Bool
  /-- registers whose write a forced debugger write has dropped: places of lane registers, and 96 and above for uniform
  registers (R353) -/
  dropped : List Nat
  /-- reserved queue entries held by the access (R441) -/
  reserved : List (Fin 32 × Nat)
  /-- vectors of streams read or stored in part or whole by the word (R145) -/
  streams : List StreamPart
  /-- the operations that go before the word at its stowage engine are those below this number (R296) -/
  turn : Option Nat
  /-- the underflow threshold that stood when the word was issued, once its access has been refused (R66) -/
  uft : Option Byte
  deriving DecidableEq, Repr

/-- The opaque block that trap entry saves for one slice (R334). -/
structure SavedSlice where
  slice : Fin 8
  active : BitVec 4
  loops : List LoopLevel
  recon : List Rcon
  region : RegionEntry
  pinned : Bool
  issued : List Word
  deriving DecidableEq, Repr

/-- The trap registers of a group (R331). -/
structure TrapRegs where
  cause : BitVec 18
  pc : Addr
  mask : DWord
  val : DWord
  prov : BitVec 33
  word : DWord
  slices : BitVec 8
  inh : Bool
  skip : Bool
  cond : BitVec 8
  tsv : Vector DWord 4
  deriving DecidableEq, Repr

/-- A resident group (03). Lane registers are numbered 0 to 39 plain, 40 to 47 stream-aliasable, 48 to 55 base block, then
frames 0 to 4 of eight (R38, R68). -/
structure Group where
  launch : Nat
  team : Nat
  inTeam : Fin 32
  inRole : Fin 32
  producer : Bool
  allot : Nat
  cls : Fin 4
  start : Nat
  v : Vector VReg 96
  tags : Vector Byte 96
  vpoison : List (Nat × LaneMask)
  u : UFile
  spoison : List (Fin 64)
  p : Vector LaneMask 8
  pix : Word
  wcf : Bool
  flags : BitVec 7
  fctl : BitVec 14
  ntth : BitVec 25
  modn : Word
  modb : DWord
  gang : Word
  qmap : DWord
  region : Word
  sd : Vector StreamDesc 8
  batches : Batches
  tickets : List Ticket
  ticketSeq : Word
  slices : Vector Slice 8
  inflight : List InFlight
  progress : List Progress
  trap : TrapRegs
  saved : List SavedSlice
  savedProgress : List Progress
  /-- stopped by a double fault or for want of a handler (R334, R336) -/
  dead : Bool
  deriving DecidableEq, Repr

/-- An open barrier generation (R294). -/
structure Generation where
  kind : Fin 4
  count : Nat
  expected : List GroupId
  arrived : List (GroupId × BitVec 8)
  deriving DecidableEq, Repr

/-- Modes of an accumulator slot (R260). -/
inductive AccMode | clear | exact | float
  deriving DecidableEq, Repr

/-- The contents of an accumulator slot: the accumulators that are not zero, by index `64 m + n`, and the poisoned ones
(R260, R263). -/
structure Acc where
  mode : AccMode
  cells : List (Nat × BitVec 96)
  poison : List Nat
  deriving DecidableEq, Repr

/-- A team placed on a cluster (R20, R391). -/
structure Team where
  id : Nat
  launch : Nat
  index : Nat
  cl : ClusterId
  released : Bool
  start : Nat
  lsBase : Nat
  lsSize : Nat
  queues : List (Fin 32)
  /-- slots of its groups, by index in the team, with the groups that have retired -/
  members : List GroupId
  retired : List GroupId
  held : BitVec 8
  spilled : List (Fin 8 × Acc)
  homes : Nat
  backing : Option Nat
  barriers : Vector (Option Generation) 16
  deriving DecidableEq, Repr

/-- One role of a launch packet (R387); `groups` 0 with every field zero names no role. -/
structure Role where
  named : Bool
  entry : Addr
  stream : Fin 16
  offset : BitVec 18
  cls : Fin 4
  allot : Nat
  groups : Nat
  deriving DecidableEq, Repr

/-- A LAUNCH packet as read (R387). -/
structure Packet where
  version : Nat
  superstep : Bool
  dep : Option (Fin 128 × Nat)
  fctl : BitVec 14
  lstore : Nat
  queues : Nat
  teams : Nat
  lanes : DWord
  genwords : Nat
  stagger : Nat
  accback : Nat
  cons : Role
  prod : Role
  genentry : BitVec 16
  genaddr : Addr
  args : Vector DWord 8
  deriving DecidableEq, Repr

/-- Where a command came from (R397, R306). -/
inductive Source
  /-- a ring packet, or unit `ioff` of the INDIRECT packet there -/
  | ring (ring : Fin 128) (pos : Nat) (ioff : Option Nat)
  /-- a LAUNCH of a group of a team, with its ticket -/
  | ticket (g : GroupId) (team : Nat) (entry : Fin 16) (seq : Word)
  deriving DecidableEq, Repr

/-- A launch that has not completed (R387 to R396). -/
structure Launch where
  id : Nat
  ld : Fin 4
  asn : Asn
  queue : Fin 32
  src : Source
  parent : Option Nat
  depth : Nat
  pkt : Packet
  admitted : Bool
  placed : Nat
  lastRelease : Option Nat
  released : Nat
  /-- superstep count and the groups that have arrived (R26) -/
  step : Nat
  arrived : List GroupId
  /-- when the grid started, by the count of steps (R127) (the model's own) -/
  began : Nat
  /-- its dependency named a ring that was disabled, or a position not yet taken: it waits for every packet up to there (R390) -/
  depWide : Bool
  halted : Bool
  /-- the kind of a failure, and its DETAIL (R241, R396) -/
  failed : Option (Nat × Nat)
  cancelled : Bool
  /-- clusters whose generator this launch has started and which still run, and those where it has ended -/
  gens : List ClusterId
  gensEnded : List ClusterId
  /-- clusters whose generator is still to start: its image is being read (R394) -/
  genPending : List ClusterId
  /-- bytes that the launch's own stores have overwritten, as its instruction fetch still sees them (R106) -/
  shadow : List Host.Cell
  /-- the launch belongs to a THAW packet's list (R414) -/
  thaw : Option Nat
  deriving DecidableEq, Repr

/-- A request waiting on a hardware queue: a gang's pops or pushes there, and how many (R42, R43). -/
structure QWaiter where
  g : GroupId
  slices : BitVec 8
  push : Bool
  count : Nat
  deriving DecidableEq, Repr

/-- A hardware queue: its entries oldest first, an entry reserved and not yet filled holding no value (R40, R441). -/
structure HQueue where
  entries : List (Nat × Option DWord)
  nextId : Nat
  waiters : List QWaiter
  deriving DecidableEq, Repr

/-- The joint operations (R256). -/
inductive JointOp | mma (cx : Bool) | mlt | zero | load | store
  deriving DecidableEq, Repr

/-- A rendezvous latch (R256). -/
structure Latch where
  team : Nat
  op : JointOp
  slot : Fin 8
  word : Word
  sa : DWord
  gang : Word
  arrived : List GroupId
  complete : Bool
  /-- of a complete latch, the operand maps as its checks read them, dwords 0 and 1 of A, then of B (R249), and the passes in all (R256) -/
  maps : List DWord
  total : Nat
  /-- the underflow threshold that stood at its issue (R66) -/
  uft : Byte
  deriving DecidableEq, Repr

/-- What a reservation-table entry does (R259, R271). -/
inductive TabWork
  | joint (op : JointOp) (members : List GroupId)
  /-- the tile path of an MXMUL, an engine operation -/
  | product (op : Nat)
  deriving DecidableEq, Repr

/-- A reservation-table entry (R259). -/
structure TabEntry where
  index : Fin 16
  team : Nat
  slot : Fin 8
  word : Word
  sa : DWord
  /-- the operand maps as they were checked: dwords 0 and 1 of A, then of B (R249) -/
  maps : List DWord
  work : TabWork
  /-- passes completed and passes in all -/
  passes : Nat
  total : Nat
  entered : Nat
  cls : Fin 4
  passed : Nat
  /-- refused translation, until REPLAY or REFUSE (R266) -/
  parked : Bool
  /-- the limbs of an MLT's two operands, fetched for its first pass (R264) -/
  limbsA : List Nat
  limbsB : List Nat
  /-- the underflow threshold of its issue (R66), and when it entered, by the count of steps (R263) (the model's own) -/
  uft : Byte
  since : Nat
  deriving DecidableEq, Repr

/-- A MACQ request (R267), or the slot of an MXMUL's tile path (R271). -/
structure SlotReq where
  team : Nat
  g : Option GroupId
  slices : BitVec 8
  count : Nat
  op : Option Nat
  /-- the class of the issuing group (R259) -/
  cls : Fin 4
  deriving DecidableEq, Repr

/-- States of an emit stream (R299). -/
inductive EmitState | closed | static | sealed_ | tow | ended
  deriving DecidableEq, Repr

/-- An emit stream: the words the berth retains, oldest first, each with its sidecar; the last has sequence number
`count - 1` (R299 to R304). -/
structure EmitStream where
  state : EmitState
  priv : Priv
  capacity : Nat
  count : Word
  /-- the next word is the data word of a UX pair (R159) -/
  data : Bool
  words : List (Word × Word)
  deriving DecidableEq, Repr

/-- Waits of a Pilot. -/
inductive PilotWait
  | ready
  | emit
  /-- writes to exported and peer lines are to be acknowledged (R371) -/
  | acks
  | esync (stream : Fin 16)
  /-- a word that needs the Pilot's parked access (R340) -/
  | parked
  deriving DecidableEq, Repr

/-- What a Pilot's access does: a load to a register, a store of a value, or an atomic with its data, CAS's replacement and the
register that takes the old value (R230, R231). -/
inductive PilotAct
  | load (sd : Fin 64)
  | store (x : DWord)
  | atomic (op : AtomOp) (w64 : Bool) (x new : DWord) (sd : Option (Fin 64))
  deriving DecidableEq, Repr

/-- A refused access of a Pilot: it awaits an answer, is to be made again after REPLAY, or has been refused for good, and then has
stopped its Pilot (R341, R347). -/
inductive AccessState | parked | again | refused | faulted
  deriving DecidableEq, Repr

/-- An access of a Pilot that was refused translation, with its word and address; the generator runs on until it waits for it
(R340). -/
structure PilotAccess where
  id : Nat
  pc : Addr
  word : Word
  addr : DWord
  act : PilotAct
  state : AccessState
  /-- the underflow threshold that stood at its issue (R66) -/
  uft : Byte
  deriving DecidableEq, Repr

/-- A Pilot (R275, R406). -/
structure Pilot where
  running : Bool
  launch : Nat
  u : UFile
  spoison : List (Fin 64)
  pc : Addr
  loops : List LoopLevel
  pix : Word
  region : Word
  priv : Priv
  /-- stopped by a level G fault: its kind and its fault-buffer entry (R347) -/
  fault : Option (Byte × Word)
  wait : PilotWait
  inflight : List InFlight
  /-- oldest first -/
  accesses : List PilotAccess
  why : Fin 8
  dbg : DbgReq
  passBreak : Bool
  deriving DecidableEq, Repr

/-- A run in progress on a core: who issues, and how many words it has issued (R27). -/
structure Run where
  g : GroupId
  slices : BitVec 8
  count : Nat
  deriving DecidableEq, Repr

/-- A sequenced wide instruction in its core's sequencer, with the operands and register values captured at its issue
(R201). -/
structure WideSeq where
  g : GroupId
  /-- the address of its word -/
  pc : Addr
  instr : Instr
  vals : List Int
  s : DWord
  enables : BitVec 7
  /-- the read streams whose DONE its issue advanced, once for each naming (R237) -/
  reads : List (Fin 8)
  steps : Nat
  total : Nat
  stopped : Bool
  deriving DecidableEq, Repr

/-- A row held in a line buffer (R117, R246). -/
structure LineBuf where
  g : GroupId
  /-- the walk: the record's address, then the record without the box starts of dimensions 1 to 4 -/
  walk : List DWord
  coords : List Nat
  bytes : List Byte
  deriving DecidableEq, Repr

/-- A cluster: its accumulators, queues, matrix engine, berth, Pilot and cores' issue slots (00, units of execution). -/
structure Cluster where
  acc : Vector Acc 8
  owner : Vector (Option Nat) 8
  /-- teams whose slot of this number is spilled, the latest spilled first (R268) -/
  below : Vector (List Nat) 8
  queues : Vector HQueue 32
  queueOwner : Vector (Option Nat) 32
  latches : List Latch
  table : List TabEntry
  requests : List SlotReq
  streams : Vector EmitStream 16
  pilot : Pilot
  lines : List LineBuf
  runs : Vector (Option Run) 4
  seqs : Vector (List WideSeq) 4
  /-- package time at which the matrix engine last ended a pass, and whether it holds a wake slot (R436) -/
  lastPass : Nat
  awake : Bool
  deriving DecidableEq, Repr

/-- Engine operations in progress (R240, R242, R247, R270, R272, R296). -/
inductive OpKind
  | bxt
  | gath
  | mxmul (nttPath : Bool)
  | ntt (inverse : Bool) (prime : Fin 4)
  | stow
  /-- the copies that a group left unfinished when it retired (R292) -/
  | acp (copies : List Copy)
  deriving DecidableEq, Repr

/-- An engine operation: what it does, its record as read, and whose it is. -/
structure EngineOp where
  id : Nat
  kind : OpKind
  g : GroupId
  team : Nat
  launch : Nat
  ld : Fin 4
  asn : Asn
  priv : Priv
  cl : ClusterId
  record : DWord
  desc : List DWord
  /-- the issuing word, its address and its provenance -/
  word : Word
  pc : Addr
  sidecar : Option Word
  /-- the underflow threshold that stood at its issue (R66) -/
  uft : Byte
  /-- when it was issued, by the count of steps (R138) (the model's own) -/
  since : Nat
  /-- the ticket entry and number, none for STOW and after the group has gone -/
  ticket : Option (Fin 16 × Word)
  parked : Bool
  deriving DecidableEq, Repr

/-- Who waits for the answer to a fault-buffer entry (R340, R341, R443). -/
inductive ParkOwner
  | group (g : GroupId) (slices : BitVec 8)
  /-- the copies of an ACP, of a group or of the operation that carries on its copies -/
  | copy (g : GroupId) (op : Option Nat) (issue : Nat)
  | engine (op : Nat)
  | macc (cl : ClusterId) (index : Fin 16)
  | image (launch : Nat) (cl : ClusterId)
  | pilot (cl : ClusterId) (access : Nat)
  /-- level G (R347) -/
  | generator (cl : ClusterId)
  /-- an INDIRECT buffer of a queue, whose read is refused (R360, R395) -/
  | indirect (ld : Fin 4) (queue : Fin 32)
  /-- an Ethernet port's access for a frame sent or received (R360, R425) -/
  | port (p : Fin 8) (rx : Bool)
  /-- a cache's line whose write-back is refused (R360, R366) -/
  | writeBack (ld : Fin 4) (asn : Asn) (line : Nat)
  /-- DOUBLE and memory errors: no answer is awaited -/
  | record
  deriving DecidableEq, Repr

/-- A fault-buffer record (R369): written to the ring when `seq` is set, else waiting for space. -/
structure FaultRec where
  seq : Option Word
  type : Fin 16
  asn : Asn
  owner : ParkOwner
  /-- dwords 0 to 7, the SEQ field of dword 0 zero until it is written -/
  dwords : List DWord
  /-- a command held while the context is stopped (R341) -/
  held : Option (Fin 16)
  deriving DecidableEq, Repr

/-- An entry kept by a controller under a lease (R364): the controller by its number, stack and channel as one. -/
structure Lease where
  ctl : Nat
  ld : Fin 4
  asn : Asn
  page : Nat
  leaf : DWord
  expires : Nat
  deriving DecidableEq, Repr

/-- A pinned page (R373): the store that holds it, its leaf, its bytes as the store holds them, and those of its granules, by number in
the page, that hold poison. -/
structure Pin where
  ld : Fin 4
  asn : Asn
  page : Nat
  place : DWord
  leaf : Nat
  bytes : List Byte
  poison : List Nat
  deriving DecidableEq, Repr

/-- A cache that can hold a line (R105): the L1 of a core, a die's L2, the basin cache. -/
inductive CacheLevel | l1 (core : Nat) | l2 | basin
  deriving DecidableEq, Repr

/-- A cache line of 128 bytes (R105): its tag (logical device, ASN, and the virtual address's line number), the location of its first
byte, its bytes, and those that are still to be written back; `imported` marks a copy of another context's line, which is clean (R370),
and `parked` one whose write-back is refused (R360). -/
structure CacheLine where
  level : CacheLevel
  ld : Fin 4
  asn : Asn
  line : Nat
  loc : Nat
  bytes : List Byte
  dirty : BitVec 128
  imported : Bool
  parked : Bool
  deriving DecidableEq, Repr

/-- A line that a home directory tracks (R370): the line's number among locations, the token it was read through, and its sharers, the
dies' L2 caches 0 to 3 and the basin cache 4. -/
structure PeerLine where
  line : Nat
  token : DWord
  /-- the home's tag of the line: logical device, ASN, and virtual line number -/
  ld : Fin 4
  asn : Asn
  page : Nat
  sharers : List (Fin 5)
  deriving DecidableEq, Repr

/-- An invalidation on its way to a sharer of a line, and the group whose write sent it (R370, R371). -/
structure Invalidation where
  line : Nat
  sharer : Fin 5
  g : Option GroupId
  deriving DecidableEq, Repr

/-- A byte that a write has replaced: when, by the count of steps, where, and what it was. -/
structure PastByte where
  at_ : Nat
  loc : Nat
  was : Byte
  deriving DecidableEq, Repr

/-- A byte that an engine operation has written while its issuing group has not observed the operation's completion: until the write is
performed, at a step that is free, the byte is seen as it was (R139). -/
structure Unseen where
  g : GroupId
  launch : Nat
  op : Nat
  loc : Nat
  was : Byte
  lands : Nat
  deriving DecidableEq, Repr

/-- A purge in a filter slot (R366). -/
structure Purge where
  /-- the context that started it (R367) -/
  by_ : Asn
  asn : Asn
  first : Nat
  pages : Nat
  busy : Bool
  deriving DecidableEq, Repr

/-- A publish buffer (R372). -/
structure PubBuf where
  en : Bool
  sel : Bool
  asn : Asn
  page : Nat
  count : Nat
  deriving DecidableEq, Repr

/-- A hash profile: SM0 to SM2, CM0 to CM4, PM, and PCTL (R109, R362, R363). -/
structure Profile where
  masks : Vector Addr 9
  en : Bool
  err : Bool
  deriving DecidableEq, Repr

/-- A stowage pool (R296, R404): `used` lists the live placements as first granule and extent in limbs. -/
structure Pool where
  en : Bool
  asn : Asn
  base : Addr
  size : BitVec 25
  used : List (Nat × Nat)
  deriving DecidableEq, Repr

/-- A ring as the part holds it (R380, R381). -/
structure Ring where
  en : Bool
  queue : Fin 32
  segUnits : Nat
  segBase : Nat
  rpos : Nat
  segStart : Nat
  wpos : Nat
  /-- a BARRIER at its head has been read (R381, R385) -/
  barrier : Bool
  deriving DecidableEq, Repr

/-- A completion record waiting for room or for its coalescer (R397, R398). -/
structure CqRecord where
  dwords : List DWord
  deriving DecidableEq, Repr

/-- An INDIRECT packet in progress (R395). -/
structure Indirect where
  ring : Fin 128
  pos : Nat
  addr : Addr
  units : Nat
  next : Nat
  deriving DecidableEq, Repr

/-- A logical queue as the part holds it (R380, R385, R386, R397, R398). -/
structure LQueue where
  en : Bool
  prio : Fin 8
  asn : Asn
  clmask : BitVec 40
  cqBase : Nat
  cqLog : Nat
  ccount : Nat
  chold : Nat
  vec : Nat
  cqHead : Word
  consumed : Word
  lastRing : Nat
  effective : Fin 8
  waitFrom : Nat
  /-- nanoseconds of readiness without service that its ageing has not counted yet (R386) -/
  aged : Nat
  paused : Bool
  /-- records to be written, oldest first -/
  records : List CqRecord
  /-- records held by the coalescer, and when the first became visible -/
  heldCount : Nat
  heldFrom : Nat
  indirect : Option Indirect
  deriving DecidableEq, Repr

/-- An entry of the export or import table as the part holds it (R415, R417). -/
structure ExportEntry where
  n : Fin 256
  rights : BitVec 3
  asn : Asn
  base : Addr
  size : Addr
  gen : Word
  token : DWord
  deriving DecidableEq, Repr

/-- A live import (R417). -/
structure ImportEntry where
  n : Fin 256
  asn : Asn
  win : Addr
  size : Addr
  token : DWord
  deriving DecidableEq, Repr

/-- An import that has been sent and not yet answered, or whose answer has come and is not yet taken (R417). -/
structure ImportWait where
  n : Fin 256
  asn : Asn
  since : Nat
  answer : Option (Fin 4)
  deriving DecidableEq, Repr

/-- A tide request of a context (R305). -/
structure TideReq where
  link : Fin 4
  inbound : Nat
  deriving DecidableEq, Repr

/-- A logical device's registers and front end (16 to 19). -/
structure Device where
  fbBad : Bool
  fbBase : BitVec 40
  fbCfg : BitVec 4
  fbHead : Word
  fbTail : Word
  faults : List FaultRec
  errLost : Word
  hbase : DWord
  pgva : Addr
  purges : List Purge
  pgFull : Bool
  profiles : Vector Profile 4
  pbuf : Vector PubBuf 64
  pools : Vector Pool 8
  dbgSel : DWord
  dbgResult : Fin 4
  dbgData : DWord
  dbgReg : BitVec 21
  rtBase : DWord
  qtBase : DWord
  ageUs : BitVec 16
  flBase : DWord
  flCfg : BitVec 5
  flHead : Word
  flTail : Word
  rhPool : DWord
  abPool : DWord
  cmdBad : Bool
  rings : List (Nat × Ring)
  queues : List (Nat × LQueue)
  segments : List (Nat × Nat)
  interrupts : List Nat
  ctxSel : Asn
  ctxBad : Bool
  hdm : DWord
  exBase : BitVec 40
  imBase : BitVec 40
  xBad : Bool
  xBusy : Bool
  xResult : Fin 4
  xToken : DWord
  exports : List ExportEntry
  /-- GEN of each export entry that has been used -/
  gens : List (Nat × Word)
  imports : List ImportEntry
  pendingImport : Option ImportWait
  lpin : Vector Byte 4
  deriving DecidableEq, Repr

/-- States of a context (R403). -/
inductive CtxState | free | live | stopping | saved | frozen
  deriving DecidableEq, Repr

/-- What PREEMPT saves of a context and RESUME restores: the sections of its image that system software never edits
(R405). -/
structure SavedCtx where
  /-- the image's number (the model's own) -/
  id : Nat
  groups : List (Nat × Group)
  teams : List Team
  launches : List Launch
  ops : List EngineOp
  /-- per cluster: its slots, queues, latches, table, requests, streams and Pilot as the context held them -/
  clusters : List (Nat × Cluster)
  /-- Pilot memory of the clusters that ran its generators -/
  pilotMem : List Host.Cell
  localMem : List Host.Cell
  /-- granules of its local store that hold poison -/
  localPoison : List Nat
  faults : List FaultRec
  /-- the context's stowage pools and publish buffers, by number, and its imports -/
  pools : List (Nat × Pool)
  pubs : List (Nat × PubBuf)
  imports : List ImportEntry
  deriving DecidableEq, Repr

/-- A context (R331, R362, R402, R403). -/
structure Ctx where
  state : CtxState
  tbase : Addr
  ptroot : BitVec 40
  lease : BitVec 11
  regtab : Word
  uft : Byte
  mfstat : DWord
  tweight : BitVec 4
  homelink : Bool
  save : BitVec 40
  brk : Vector DWord 4
  tides : List TideReq
  forced : Nat
  attached : Bool
  rewind : Bool
  /-- RESUME has been given, and waits for the context's resources (R407) -/
  resuming : Bool
  image : Option SavedCtx
  /-- of a frozen context, the fault-buffer records for which commands are held until it is thawed (R341) -/
  records : List FaultRec
  deriving DecidableEq, Repr

/-- What the bytes of a freeze image that the part has written stand for (R409): the contexts by device and ASN, the logical device,
profile and physical address of each resident 64 KiB page, and of the poisoned granules among them. -/
structure FreezeImage where
  ctxs : List (Nat × Ctx)
  pages : List (Nat × Nat × Nat)
  poison : List (Nat × Nat × Nat)
  deriving DecidableEq, Repr

/-- A FREEZE or THAW in progress (R409, R413). -/
structure FreezeJob where
  id : Nat
  ld : Fin 4
  queue : Fin 32
  ring : Fin 128
  pos : Nat
  ioff : Option Nat
  thaw : Bool
  all : Bool
  rewind : Bool
  fab : Bool
  asn : Asn
  addr : DWord
  cap : DWord
  /-- THAW: launches restored, and the first status that was not DONE -/
  restored : Nat
  outcome : Option DWord
  started : Bool
  deriving DecidableEq, Repr

/-- An Ethernet port (R425). -/
structure EthPort where
  cfg : DWord
  tx : DWord
  rx : DWord
  txTail : Word
  rxTail : Word
  txHead : Word
  rxHead : Word
  sent : List (List Byte)
  /-- a frame that has arrived, and whether it is bad, while an access for it is refused (R360) -/
  held : Option (List Byte × Bool)
  deriving DecidableEq, Repr

/-- Stages of a start (R426, R432, R435). -/
inductive BootStage
  /-- the supplies are removed -/
  | off
  /-- the boot ROM is about to begin step 1 -/
  | rom
  /-- the firmware runs and has not written FWREADY -/
  | running
  | ready
  /-- the ROM's recovery service -/
  | recovery
  /-- THERMTRIP# is asserted, and the board is to remove the supplies -/
  | tripped
  deriving DecidableEq, Repr

/-- An entry of a channel's row-remap table or of its shadow (R378): the range of locations of the failed row group, the number of the spare
rows that stand for it, and whether the entry cannot be corrected. -/
structure RemapEntry where
  lo : Nat
  hi : Nat
  spare : Nat
  bad : Bool
  deriving DecidableEq, Repr

/-- A flash operation in progress (R438). -/
structure FlashOp where
  erase : Bool
  page : Nat
  addr : Nat
  deriving DecidableEq, Repr

/-- The last operation on the boot flash of the ROM or the flash controller: an erasure of a sector, or a byte programmed, its number, and when
it began: a loss of power may interrupt it (R429, R430). -/
structure FlashTouch where
  erase : Bool
  at_ : Nat
  since : Nat
  deriving DecidableEq, Repr

/-- Package-wide state (00 R3, 19, 20). -/
structure Pack where
  time : Nat
  pkgid : Byte
  scrubPer : Word
  eth : Vector EthPort 8
  links : Vector Nat 12
  /-- the links pinned at the last evaluation, or whose pin was cleared since (R420) -/
  linkPinned : Vector Bool 12
  stage : BootStage
  /-- n of R429 and the safe flag, and the reason BOOTWHY reports -/
  attempts : Nat
  safe : Bool
  reason : Byte
  watchdogLatch : Bool
  startTime : Nat
  /-- PD0's host link has trained since the start (R432) -/
  trained : Bool
  hostUp0 : Fin 8
  hostUp2 : Fin 8
  cxl : Bool
  meas : Vector (List Byte) 4
  fwver : DWord
  plimit : BitVec 12
  pwrnow : DWord
  temp : BitVec 48
  duty : Nat
  hot : Nat
  therm : Bool
  power : Bool
  stagmin : BitVec 12
  attBusy : Option Nat
  attErr : Bool
  attLen : BitVec 16
  flashwin : DWord
  flashErr : Bool
  flashOp : Option FlashOp
  touched : Option FlashTouch
  /-- the entries of the row-remap tables, those of the channels' shadows, and the channels that use their shadow (R378, R379) -/
  remap : List RemapEntry
  shadow : List RemapEntry
  shadowed : List Nat
  /-- location ranges of retired rows (R379) -/
  retired : List (Nat × Nat)
  /-- bytes sent through the tokens of other packages: token, offset, byte (R361, R422) -/
  fabricOut : List (DWord × Nat × Byte)
  /-- 2 µs and 100 µs intervals evaluated (R419, R434) -/
  tideAt : Nat
  powerAt : Nat
  /-- granules with an uncorrectable error that nothing has met yet (R375, R377) -/
  latent : List Nat
  /-- granules with such an error, and when it arose (R377) -/
  suspects : List (Nat × Nat)
  /-- wake slots granted in the last 100 ns: die and package time (R436) -/
  wakes : List (Nat × Nat)
  deriving DecidableEq, Repr

/-- Who executes the present word. -/
inductive Issuer
  | gang (g : GroupId) (slices : BitVec 8)
  | pilot (cl : ClusterId)
  deriving DecidableEq, Repr

/-- Agents that take turns in the model: a core, a Pilot, or the units whose events are no words. -/
inductive Agent
  | core (c : Core)
  | pilot (cl : ClusterId)
  | units
  deriving DecidableEq, Repr

/-- The subject of an event row; an event reads only the fields its docstring in its meaning names. -/
structure Arg where
  ld : Fin 4
  cl : ClusterId
  core : Core
  g : GroupId
  queue : Fin 32
  ring : Fin 128
  num : Nat
  value : DWord
  flag : Bool
  bytes : List Byte
  site : ErrSite
  deriving DecidableEq, Repr

/-- What comes from outside the model's own agents: time, a turn, or an event. -/
inductive Input
  | elapse (ns : Nat)
  | turn (a : Agent)
  | event (i : Instr) (a : Arg)
  deriving DecidableEq, Repr

/-- The state of the package. -/
structure State where
  /-- pending inputs, taken first (the model's own) -/
  inputs : List Input
  /-- the agent that moves next (the model's own) -/
  turn : Agent
  /-- the gang or Pilot that executes a word, and what it fetched (the model's own) -/
  cur : Option Issuer
  issue : Issue
  fetched : Fetched
  /-- the word just executed ends its run (R27) (the model's own) -/
  runEnd : Bool
  /-- the subject of the event in execution (the model's own) -/
  arg : Arg
  /-- index of the next free value (the model's own) -/
  fresh : Nat
  /-- identities handed out (the model's own) -/
  nextId : Nat
  /-- events of the units still to be tried in this round (the model's own) -/
  due : List (Instr × Arg)
  mem : List Host.Cell
  poison : List Nat
  groups : List (Nat × Group)
  teams : List Team
  launches : List Launch
  clusters : List (Nat × Cluster)
  devices : Vector Device 4
  ctxs : List (Nat × Ctx)
  ops : List EngineOp
  leases : List Lease
  pins : List Pin
  peers : List PeerLine
  lines : List CacheLine
  invals : List Invalidation
  /-- the bytes that writes have replaced, newest first (the model's own: log entry 108) -/
  past : List PastByte
  unseen : List Unseen
  jobs : List FreezeJob
  images : List FreezeImage
  pack : Pack
  deriving DecidableEq, Repr

/-! ### Reset values -/

/-- A uniform file with every register zero and c0 true (R61, R62, R71). -/
def UFile.zero : UFile := ⟨Vector.replicate 64 0, 1⟩

/-- A released slot: every accumulator zero, mode CLEAR (R260). -/
def Acc.zero : Acc := ⟨.clear, [], []⟩

/-- A CLOSED emit stream (R299). -/
def EmitStream.closed : EmitStream := ⟨.closed, .user, 0, 0, false, []⟩

/-- A Pilot that runs no generator (R275). -/
def Pilot.idle : Pilot :=
  { running := false, launch := 0, u := UFile.zero, spoison := [], pc := 0, loops := [], pix := 0, region := 0,
    priv := .user, fault := none, wait := .ready, inflight := [], accesses := [], why := 0, dbg := .none,
    passBreak := false }

/-- A cluster with nothing placed on it. -/
def Cluster.empty : Cluster :=
  { acc := Vector.replicate 8 Acc.zero, owner := Vector.replicate 8 none, below := Vector.replicate 8 [],
    queues := Vector.replicate 32 ⟨[], 0, []⟩, queueOwner := Vector.replicate 32 none, latches := [], table := [],
    requests := [], streams := Vector.replicate 16 EmitStream.closed, pilot := Pilot.idle, lines := [],
    runs := Vector.replicate 4 none, seqs := Vector.replicate 4 [], lastPass := 0, awake := false }

/-- A logical device at reset (R362, R399, R402). -/
def Device.reset : Device :=
  { fbBad := false, fbBase := 0, fbCfg := 6, fbHead := 0, fbTail := 0, faults := [], errLost := 0, hbase := 0, pgva := 0,
    purges := [], pgFull := false, profiles := Vector.replicate 4 ⟨Vector.replicate 9 0, false, false⟩,
    pbuf := Vector.replicate 64 ⟨false, false, 0, 0, 0⟩, pools := Vector.replicate 8 ⟨false, 0, 0, 0, []⟩,
    dbgSel := 0, dbgResult := 0, dbgData := 0, dbgReg := 0, rtBase := 0, qtBase := 0, ageUs := 50,
    flBase := 0, flCfg := 4, flHead := 0, flTail := 0, rhPool := 0, abPool := 0, cmdBad := false, rings := [],
    queues := [], segments := [], interrupts := [], ctxSel := 0, ctxBad := false, hdm := 0, exBase := 0, imBase := 0,
    xBad := false, xBusy := false, xResult := 0, xToken := 0, exports := [], gens := [], imports := [],
    pendingImport := none, lpin := Vector.replicate 4 0 }

/-- A FREE context (R403). -/
def Ctx.free : Ctx :=
  { state := .free, tbase := 0, ptroot := 0, lease := 64, regtab := 0, uft := 32, mfstat := 0, tweight := 1,
    homelink := false, save := 0, brk := Vector.replicate 4 0, tides := [], forced := 0, attached := false,
    rewind := false, resuming := false, image := none, records := [] }

/-- Links 0 to 3 to the basin, 4 to 7 around the ring, 8 to 11 to the pier dies: half the bundles each way (R119). -/
def linksAtReset : Vector Nat 12 := #v[32, 32, 32, 32, 16, 16, 16, 16, 8, 8, 8, 8]

/-- The package just after supplies are applied, before the boot ROM's step 1 (R426, R428, R437). -/
def Pack.reset : Pack :=
  { time := 0, pkgid := 0, scrubPer := 86400, eth := Vector.replicate 8 ⟨0, 0, 0, 0, 0, 0, 0, [], none⟩,
    links := linksAtReset, linkPinned := Vector.replicate 12 false, stage := .rom, attempts := 0,
    safe := false, reason := 0, watchdogLatch := false, startTime := 0, trained := false, hostUp0 := 0, hostUp2 := 0, cxl := false,
    meas := Vector.replicate 4 (List.replicate 64 0), fwver := 0, plimit := 2200, pwrnow := 0, temp := 0, duty := 256,
    hot := 0, therm := false, power := false, stagmin := 0, attBusy := none, attErr := false, attLen := 0,
    flashwin := 0, flashErr := false, flashOp := none, touched := none, remap := [], shadow := [], shadowed := [], retired := [], fabricOut := [],
    tideAt := 0, powerAt := 0, latent := [], suspects := [], wakes := [] }

/-- An argument that names nothing in particular. -/
def Arg.zero : Arg :=
  { ld := 0, cl := 0, core := 0, g := 0, queue := 0, ring := 0, num := 0, value := 0, flag := false, bytes := [],
    site := .hbm 0 }

/-- The package right after power-on reset: no memory byte listed, no context, nothing resident, every register at the value
the spec or a log entry gives. -/
def State.reset : State :=
  { inputs := [], turn := .core 0, cur := none, issue := ⟨false, 0, 0⟩, fetched := ⟨0, 0, none, false⟩,
    runEnd := false, arg := Arg.zero, fresh := 0, nextId := 1, due := [], mem := [], poison := [], groups := [],
    teams := [], launches := [], clusters := [], devices := Vector.replicate 4 Device.reset, ctxs := [], ops := [],
    leases := [], pins := [], peers := [], lines := [], invals := [], past := [], unseen := [], jobs := [], images := [], pack := Pack.reset }

end Sys2Proof.Machine
end

