-- ==== Sys2Proof/Machine/Mem.lean ====
section
/-! DEFINITION. The bytes of every store of the part, in one list keyed by location, and where a physical address lies
(R109, R356, R357). Locations: HBM4 below 2^39, ordered by stack, channel, pseudo-channel and offset; then host memory, the
local stores, Pilot memory and the boot flash, each in a range of its own. -/

namespace Sys2Proof.Machine

open Sys2Proof

/-- Location of a host bus address (R359). -/
def hostLoc (addr : Nat) : Nat := 2 ^ 64 + addr % 2 ^ 64
/-- Location of an offset in a core's local store of 256 KiB (R103). -/
def localLoc (core offset : Nat) : Nat := 2 ^ 66 + core * 2 ^ 18 + offset % 2 ^ 18
/-- Location of a Pilot address (R275). -/
def pilotLoc (cl addr : Nat) : Nat := 2 ^ 67 + cl * 2 ^ 16 + addr % 2 ^ 16
/-- Location of a byte of boot flash (R429, R438). -/
def flashLoc (addr : Nat) : Nat := 2 ^ 68 + addr

/-- What a byte that nothing has written reads as: 0xFF in flash, where erased bytes read so (R429); elsewhere 0 (log
entry 3). -/
def memDefault (loc : Nat) : Byte := if 2 ^ 68 ≤ loc then 0xFF else 0

/-- The canonical form of memory: locations strictly rising, no entry equal to what an unlisted location reads as. -/
abbrev Memory.wf (m : List Host.Cell) : Bool := sortedAbove memDefault 0 m

/-- One byte of memory. -/
def Memory.read (m : List Host.Cell) (loc : Nat) : Byte := sget memDefault loc m

/-- Memory with one byte written. -/
def Memory.write (m : List Host.Cell) (loc : Nat) (b : Byte) : List Host.Cell := sput memDefault loc b m

/-- Bytes at consecutive locations. -/
def Memory.readBytes (m : List Host.Cell) (loc n : Nat) : List Byte := (List.range n).map fun i => Memory.read m (loc + i)

/-- Memory with bytes written at consecutive locations. -/
def Memory.writeBytes (m : List Host.Cell) (loc : Nat) : List Byte → List Host.Cell
  | [] => m
  | b :: rest => Memory.writeBytes (Memory.write m loc b) (loc + 1) rest

/-- A number with one bit removed, the bits above it moving down. -/
def removeBit (x p : Nat) : Nat := x % 2 ^ p + x / 2 ^ (p + 1) * 2 ^ p

/-- The pivots of a profile's nonzero masks, highest first (R357). -/
def Profile.pivots (f : Profile) : List Nat :=
  let ps := f.masks.toList.filterMap fun m => if m = 0 then none else some (Nat.log2 m.toNat)
  ((List.range 48).filter fun b => ps.contains b).reverse

/-- Stack, channel and pseudo-channel of an address as one number: the parities under the nine masks (R109). -/
def Profile.hash (f : Profile) (addr : Nat) : Nat :=
  let bitOf := fun (i : Fin 9) => if parity (addr &&& f.masks[i].toNat) then 1 else 0
  let stack := bitOf 0 + 2 * bitOf 1 + 4 * bitOf 2
  let chan := bitOf 3 + 2 * bitOf 4 + 4 * bitOf 5 + 8 * bitOf 6 + 16 * bitOf 7
  stack * 64 + chan * 2 + bitOf 8

/-- The offset of a physical address within its pseudo-channel (R357). -/
def Profile.offset (f : Profile) (pa : Nat) : Nat := f.pivots.foldl removeBit (pa % 2 ^ 39)

/-- A number with a zero bit inserted, the bits from there on moving up. -/
def insertBit (x p : Nat) : Nat := x % 2 ^ p + x / 2 ^ p * 2 ^ (p + 1)

/-- The bit of a hash number that a mask's parity gives. -/
def hashBit (h : Nat) (i : Fin 9) : Bool := bit h (if i.val < 3 then 6 + i.val else if i.val < 8 then i.val - 2 else 0)

/-- The physical address of an HBM4 location: the offset with its pivots put back, each as its mask's parity needs, lowest
first (R356, R357). -/
def Profile.address (f : Profile) (loc : Nat) : Nat :=
  let ps := f.pivots.reverse
  let h := loc / 2 ^ 30
  ps.foldl (fun pa p =>
    match (List.finRange 9).find? fun (i : Fin 9) => f.masks[i] != 0 && Nat.log2 f.masks[i].toNat == p with
    | some i => if parity (pa &&& f.masks[i].toNat) = hashBit h i then pa else pa + 2 ^ p
    | none => pa) (ps.foldl insertBit (loc % 2 ^ 30))

/-- The location of an HBM4 physical address, none outside the profile's reach (R357). -/
def Profile.locate (f : Profile) (pa : Nat) : Option Nat :=
  let off := f.offset pa
  if off < 2 ^ 30 then some (f.hash pa * 2 ^ 30 + off) else none

/-- The quadrant of an HBM4 location, which names the compute die its channel is home to (R110). -/
def quadrant (loc : Nat) : Nat := loc / 2 ^ 31 % 32 / 8

/-- The ECC granule of a location (R375). -/
def granuleOf (loc : Nat) : Nat := loc / 32

/-- The location of a physical address held in a system register or a table pointer: HBM4 under profile 0 of the device, none outside
that profile's reach (R356, R357). -/
def State.physical (s : State) (ld : Fin 4) (pa : Nat) : Option Nat :=
  if 2 ^ 39 ≤ pa then none else s.devices[ld].profiles[0].locate pa

/-- A location's granule holds the poison pattern or an uncorrectable error (R375). -/
def State.isPoison (s : State) (loc : Nat) : Bool :=
  s.poison.contains (granuleOf loc) || s.pack.latent.contains (granuleOf loc)

/-- A location lies in a retired row (R379). -/
def State.isRetired (s : State) (loc : Nat) : Bool := s.pack.retired.any fun r => decide (r.1 ≤ loc ∧ loc < r.2)

/-- A location delivers poison when it is read (R375, R379). -/
def State.isBad (s : State) (l : Nat) : Bool := s.isPoison l || s.isRetired l

/-- A byte that a unit reads at a physical address: a free value where it delivers poison, or where the part has no location (R357,
R375, log entry 109). -/
def State.physByte (s : State) (ld : Fin 4) (pa : Nat) : Byte :=
  match s.physical ld pa with
  | some l => if s.isBad l then BitVec.ofNat 8 (Config.freeNat s.fresh (2 ^ 90 + pa)) else Memory.read s.mem l
  | none => BitVec.ofNat 8 (Config.freeNat s.fresh (2 ^ 90 + pa))

/-- Bytes at a physical address, byte by byte. -/
def State.physRead (s : State) (ld : Fin 4) (pa n : Nat) : List Byte := (List.range n).map fun i => s.physByte ld (pa + i)

/-- A dword at a physical address. -/
def State.physDword (s : State) (ld : Fin 4) (pa : Nat) : Nat := ofBytes (s.physRead ld pa 8)

/-- Host memory, read. -/
def State.hostRead (s : State) (addr n : Nat) : List Byte := Memory.readBytes s.mem (hostLoc addr) n

/-- Host memory, written. -/
def State.hostWrite (s : State) (addr : Nat) (bs : List Byte) : State :=
  { s with mem := Memory.writeBytes s.mem (hostLoc addr) bs }

/-- A dword of host memory. -/
def State.hostDword (s : State) (addr : Nat) : Nat := ofBytes (s.hostRead addr 8)

end Sys2Proof.Machine
end

