-- ==== Sys2Proof/Machine/Mx.lean ====
section
/-! DEFINITION. The MX-stored BF16 view of a page (R94 to R97, R374). -/

namespace Sys2Proof.Machine

open Sys2Proof

/-- Element formats of an MX-stored page by the MXF code (R359): the bits of an element and Emax (R96). -/
def mxBits (mxf : Nat) : Nat := if mxf = 1 then 4 else 8
/-- Emax of R96. -/
def mxEmax (mxf : Nat) : Int := if mxf = 1 then 2 else if mxf = 2 then 15 else if mxf = 3 then 8 else 0

/-- The value of an element code. -/
def mxElement (mxf code : Nat) : FVal :=
  if mxf = 1 then Fmt.e2m1.value code else if mxf = 2 then Fmt.e5m2.value code
  else if mxf = 3 then Fmt.e4m3.value code else mxint8Value code

/-- A value converted to an element, with its flags (R96 step 3). -/
def mxConvert (mxf : Nat) (v : FVal) : Nat × BitVec 7 :=
  if mxf = 1 then Fmt.e2m1.saturate .rne v else if mxf = 2 then Fmt.e5m2.narrow .rne false v
  else if mxf = 3 then Fmt.e4m3.saturate .rne v else toMxint8 .rne v

/-- A value times a power of two. -/
def FVal.scale (v : FVal) (k : Int) : FVal :=
  match v with
  | .fin neg mag exp => .fin neg mag (exp + k)
  | v => v

/-- The BF16 datum of an element under its scale (R94). -/
def mxDecode (mxf scale code : Nat) : Nat :=
  if scale = 0xFF then 0x7FC0
  else (Fmt.bf16.narrow .rne false ((mxElement mxf code).scale ((scale : Int) - 127))).1

/-- Offsets in the frame of a block's elements and of its scale (R374). -/
def mxElemOffset (mxf block : Nat) : Nat := if mxf = 1 then 16 * block else 32 * block

/-- The element codes of a block from its stored bytes. -/
def mxCodes (mxf : Nat) (bs : List Byte) : List Nat :=
  if mxf = 1 then bs.flatMap fun b => [b.toNat % 16, b.toNat / 16] else bs.map BitVec.toNat

/-- The stored bytes of a block's element codes. -/
def mxPack (mxf : Nat) (codes : List Nat) : List Byte :=
  if mxf = 1 then
    (List.range 16).map fun i => BitVec.ofNat 8 (codes.getD (2 * i) 0 + 16 * codes.getD (2 * i + 1) 0)
  else codes.map fun c => BitVec.ofNat 8 c

/-- One pass of R96 steps 3 and 4 at a shared exponent: codes, underflow count, and whether an element saturated. -/
def mxTry (mxf : Nat) (vals : List Nat) (e : Int) : List Nat × Nat × Bool :=
  vals.foldr (fun x (acc : List Nat × Nat × Bool) =>
    let v := Fmt.bf16.value x
    let (code, fl) := mxConvert mxf (v.scale (-e))
    let zero := match v with
      | .fin _ mag _ => mag != 0 && (if mxf = 4 then code == 0 else if mxf = 1 then code % 8 == 0 else code % 128 == 0)
      | _ => false
    (code :: acc.1, acc.2.1 + bitNat zero, acc.2.2 || fl &&& flagSAT != 0)) ([], 0, false)

/-- Encoding a block of 32 BF16 data (R96): codes, scale, underflow count, and whether an element saturated. -/
def mxEncode (mxf : Nat) (uft : Nat) (vals : List Nat) : List Nat × Nat × Nat × Bool :=
  let vs := vals.map Fmt.bf16.value
  if vs.any fun v => match v with | .nan _ => true | _ => false then (List.replicate 32 0, 0xFF, 0, false)
  else
    let logs := vs.filterMap fun v => match v with
      | .fin _ mag exp => if mag = 0 then none else some (exp + (Nat.log2 mag : Int))
      | _ => none
    let e : Int := match logs with
      | [] => 0
      | l :: ls => max (-127) (min 127 (ls.foldl max l - mxEmax mxf))
    let first := mxTry mxf vals e
    let lower := decide (uft < first.2.1 ∧ -127 < e)
    let e' := if lower then e - 1 else e
    let r := if lower then mxTry mxf vals e' else first
    (r.1, (e' + 127).toNat, r.2.1, r.2.2)

/-- The BF16 data of block `b` of the page whose frame stands at location `base`. -/
def mxReadBlock (mem : List Host.Cell) (mxf base b : Nat) : List Nat :=
  let codes := mxCodes mxf (Memory.readBytes mem (base + mxElemOffset mxf b) (if mxf = 1 then 16 else 32))
  let scale := (Memory.read mem (base + 0x8000 + b)).toNat
  codes.map (mxDecode mxf scale)

/-- The stored bytes of block `b` re-encoded from the 64 bytes of its view, with their locations (R95, R96); also whether it
underflowed and whether it saturated (R97). -/
def mxBlockBytes (mxf uft base b : Nat) (view : List Byte) : List (Nat × Byte) × Bool × Bool :=
  let vals := (List.range 32).map fun i => ofBytes ((view.drop (2 * i)).take 2)
  let (codes, scale, count, sat) := mxEncode mxf uft vals
  ((mxPack mxf codes).zipIdx.map (fun (x, i) => (base + mxElemOffset mxf b + i, x)) ++
    [(base + 0x8000 + b, BitVec.ofNat 8 scale), (base + 0x8400 + b, BitVec.ofNat 8 count)], count != 0, sat)

end Sys2Proof.Machine
end

