-- ==== Sys2Proof/Machine/Ops.lean ====
section
/-! DEFINITION. The named operations over the state: groups, clusters, devices and contexts; registers; moving past a
word; and taking a trap and returning from one (R331 to R338). -/

namespace Sys2Proof.Machine

open Sys2Proof

/-! ### Where things stand -/

/-- The core of a group slot. -/
def coreOf (g : GroupId) : Core := ⟨g.val / 16, by omega⟩
/-- The cluster of a group slot. -/
def clusterOf (g : GroupId) : ClusterId := ⟨g.val / 64, by omega⟩
/-- The cluster of a core. -/
def clusterOfCore (c : Core) : ClusterId := ⟨c.val / 4, by omega⟩
/-- The core's number in its cluster. -/
def coreIndex (c : Core) : Fin 4 := ⟨c.val % 4, by omega⟩
/-- The logical device of a cluster. -/
def deviceOf (cl : ClusterId) : Fin 4 := ⟨cl.val / 40, by omega⟩
/-- The logical device of a group slot. -/
def deviceOfGroup (g : GroupId) : Fin 4 := deviceOf (clusterOf g)
/-- The group slot in its core. -/
def slotOf (g : GroupId) : Nat := g.val % 16
/-- The cluster's number in its device. -/
def clusterIndex (cl : ClusterId) : Nat := cl.val % 40
/-- The cluster with a number in a device. -/
def clusterAt (ld : Fin 4) (n : Fin 40) : ClusterId := ⟨ld.val * 40 + n.val, by omega⟩

/-- The group in a slot. -/
def State.group? (s : State) (g : GroupId) : Option Group := getBy g.val s.groups
/-- A group slot filled. -/
def State.setGroup (s : State) (g : GroupId) (grp : Group) : State := { s with groups := putBy g.val grp s.groups }
/-- A group slot freed. -/
def State.delGroup (s : State) (g : GroupId) : State := { s with groups := delBy g.val s.groups }
/-- A cluster. -/
def State.cluster (s : State) (cl : ClusterId) : Cluster := (getBy cl.val s.clusters).getD Cluster.empty
/-- A cluster changed. -/
def State.setCluster (s : State) (cl : ClusterId) (c : Cluster) : State := { s with clusters := putBy cl.val c s.clusters }
/-- A device changed. -/
def State.setDev (s : State) (ld : Fin 4) (d : Device) : State := { s with devices := s.devices.set ld d }
/-- The key of a context. -/
def ctxKey (ld : Fin 4) (asn : Asn) : Nat := ld.val * 4096 + asn.toNat
/-- A context. -/
def State.ctx (s : State) (ld : Fin 4) (asn : Asn) : Ctx := (getBy (ctxKey ld asn) s.ctxs).getD Ctx.free
/-- A context changed. -/
def State.setCtx (s : State) (ld : Fin 4) (asn : Asn) (c : Ctx) : State := { s with ctxs := putBy (ctxKey ld asn) c s.ctxs }
/-- A team. -/
def State.team? (s : State) (id : Nat) : Option Team := s.teams.find? fun t => t.id == id
/-- A team changed. -/
def State.setTeam (s : State) (t : Team) : State := { s with teams := s.teams.map fun u => if u.id == t.id then t else u }
/-- A launch. -/
def State.launch? (s : State) (id : Nat) : Option Launch := s.launches.find? fun l => l.id == id
/-- A launch changed. -/
def State.setLaunch (s : State) (l : Launch) : State :=
  { s with launches := s.launches.map fun u => if u.id == l.id then l else u }
/-- The context number of a launch, 0 when there is none. -/
def State.asnOf (s : State) (launch : Nat) : Asn := (s.launch? launch).elim 0 Launch.asn
/-- The context of a group. -/
def State.ctxOfGroup (s : State) (g : GroupId) (grp : Group) : Ctx := s.ctx (deviceOfGroup g) (s.asnOf grp.launch)
/-- The groups of a launch, with their slots. -/
def State.groupsOf (s : State) (launch : Nat) : List (Nat × Group) := s.groups.filter fun e => e.2.launch == launch
/-- A slot number as a group slot. -/
def groupId (n : Nat) : GroupId := ⟨n % 10240, by omega⟩
/-- Every group changed alike. -/
def State.mapGroups (s : State) (f : GroupId → Group → Group) : State :=
  { s with groups := s.groups.map fun e => (e.1, f (groupId e.1) e.2) }

/-! ### Slices and lanes -/

/-- A slice's four lanes at their place in the group. -/
def sliceLanes (i : Nat) (m : BitVec 4) : LaneMask := BitVec.ofNat 32 (m.toNat * 2 ^ (4 * i))

/-- The lanes of a set of slices for which `f` gives four bits each. -/
def lanesOf (slices : BitVec 8) (grp : Group) (f : Slice → BitVec 4) : LaneMask :=
  (List.finRange 8).foldl (fun m (i : Fin 8) => if maskHas slices i then m ||| sliceLanes i (f grp.slices[i]) else m) 0

/-- The active lanes of an issue gang (R14). -/
def activeLanes (slices : BitVec 8) (grp : Group) : LaneMask := lanesOf slices grp Slice.active

/-- The slices of a set, changed alike. -/
def Group.mapSlices (grp : Group) (slices : BitVec 8) (f : Slice → Slice) : Group :=
  { grp with slices := Vector.ofFn fun i => if maskHas slices i then f grp.slices[i] else grp.slices[i] }

/-- The lowest slice of a set, slice 0 of the empty set. -/
def lowSlice (slices : BitVec 8) : Fin 8 :=
  ((List.finRange 8).find? fun (i : Fin 8) => maskHas slices i).getD 0

/-- The slice that speaks for an issue gang: program counter, loop stack and depth are the same in all of its slices
(R14). -/
def Group.lead (grp : Group) (slices : BitVec 8) : Slice := grp.slices[lowSlice slices]

/-- The slices that have not exited. -/
def Group.present (grp : Group) : BitVec 8 :=
  maskOfFn 8 fun i => if h : i < 8 then !grp.slices[i].exited else false

/-- A group runs its handler at S, and its program at U (R330). -/
def Group.priv (grp : Group) : Priv := if grp.trap.inh then .system else .user

/-- The slices named take part in an event that bars a rewind (R146, R258, R344). -/
def Group.pin (grp : Group) (slices : BitVec 8) : Group := grp.mapSlices slices fun sl => { sl with pinned := true }

/-- The slices named wait at a word. -/
def Group.setWait (grp : Group) (slices : BitVec 8) (w : Wait) (f : Fetched) : Group :=
  grp.mapSlices slices fun sl => { sl with wait := w, waitWord := f }

/-- The slices named are ready again. -/
def Group.wake (grp : Group) (slices : BitVec 8) : Group := grp.mapSlices slices fun sl => { sl with wait := .ready }

/-! ### Registers -/

/-- A uniform register; s0 reads as zero (R61). -/
def UFile.get (u : UFile) (r : Fin 64) : DWord := if r = 0 then 0 else u.s[r]
/-- A uniform register written; a write to s0 is discarded (R61). -/
def UFile.set (u : UFile) (r : Fin 64) (x : DWord) : UFile := if r = 0 then u else { u with s := u.s.set r x }
/-- A condition; c0 is true (R62). -/
def UFile.cond (u : UFile) (k : Fin 8) : Bool := k == 0 || maskHas u.c k
/-- A mask with one bit set to a value. -/
def setBit {n : Nat} (m : BitVec n) (i : Nat) (b : Bool) : BitVec n :=
  if b then m ||| BitVec.ofNat n (2 ^ i) else m &&& ~~~(BitVec.ofNat n (2 ^ i))
/-- A condition written; a write to c0 is discarded (R62). -/
def UFile.setCond (u : UFile) (k : Fin 8) (b : Bool) : UFile := if k = 0 then u else { u with c := setBit u.c k b }

/-- A predicate; p0 is true in every lane (R62). -/
def Group.pred (grp : Group) (k : Fin 8) : LaneMask := if k = 0 then BitVec.allOnes 32 else grp.p[k]
/-- A predicate written in some lanes; a write to p0 is discarded (R62). -/
def Group.setPred (grp : Group) (k : Fin 8) (lanes x : LaneMask) : Group :=
  if k = 0 then grp else { grp with p := grp.p.set k ((grp.p[k] &&& ~~~lanes) ||| (x &&& lanes)) }

/-- The place in the lane register file of the name `v r` at loop depth `d` (R38). -/
def vIndex (d r : Nat) : Nat :=
  if r < 48 then r
  else if r < 56 then (if d = 0 then r else 56 + 8 * (d - 1) + (r - 48))
  else 56 + 8 * d + (r - 56)

/-- A register of a vector by number, zero past its end. -/
def laneReg (v : Vector VReg 96) (i : Nat) : VReg := v.getD i (Vector.replicate 32 0)

/-- The windows of an in-flight result are open for some slice of the gang (R152). -/
def InFlight.openFor (f : InFlight) (slices : BitVec 8) : Bool := f.left.any fun e => maskHas slices e.1 && decide (0 < e.2)

/-- The lanes of the slices whose windows of an in-flight result are open (R152). -/
def InFlight.openLanes (f : InFlight) : LaneMask :=
  f.left.foldl (fun m e => if 0 < e.2 then m ||| sliceLanes e.1 15 else m) 0

/-- The windows of an in-flight result have closed in every slice (R153). -/
def InFlight.closed (f : InFlight) : Bool := f.left.all fun e => e.2 == 0

/-- A result in flight writes a register place. -/
def InFlight.writes (f : InFlight) (i : Nat) : Bool := f.regs.any fun e => e.1 == i

/-- The lanes that a list gives for a place. -/
def lanesFor (l : List (Nat × LaneMask)) (i : Nat) : LaneMask := ((l.find? fun e => e.1 == i).map Prod.snd).getD 0

/-- A list with lanes added for a place. -/
def addLanes (l : List (Nat × LaneMask)) (i : Nat) (lanes : LaneMask) : List (Nat × LaneMask) :=
  (i, lanesFor l i ||| lanes) :: l.filter fun e => e.1 ≠ i

/-- The lanes of a place that a result in flight will write. -/
def InFlight.lanesAt (f : InFlight) (i : Nat) : LaneMask := f.lanes &&& ~~~(lanesFor f.gone i)

/-- A lane register as the gang reads it: inside a lookahead window each lane is the old or the new value (R152). -/
def Group.readV (grp : Group) (fresh i : Nat) : VReg :=
  grp.inflight.foldl (fun old f =>
    match f.regs.find? fun e => e.1 == i with
    | none => old
    | some (_, new) => Vector.ofFn fun (l : Fin 32) =>
      if maskHas (f.lanesAt i) l && Config.freeBit fresh (i * 32 + l) then new[l] else old[l]) (laneReg grp.v i)

/-- The uniform value of a result in flight that has not arrived. -/
def InFlight.coming (f : InFlight) : Option (Fin 64 × DWord) := if f.sdone then none else f.sreg

/-- A uniform register as a word reads it inside a lookahead window: the old or the new value (R152). -/
def readSreg (u : UFile) (inflight : List InFlight) (fresh : Nat) (r : Fin 64) : DWord :=
  inflight.foldl (fun old f =>
    match f.coming with
    | some (q, new) => if q = r ∧ r ≠ 0 ∧ Config.freeBit fresh (4096 + r) then new else old
    | none => old) (u.get r)

/-- The tags that a lane write to place `i` clears: those of the first registers of every aligned span that contains it
(R59). -/
def clearTags (tags : Vector Byte 96) (i : Nat) : Vector Byte 96 :=
  Vector.ofFn fun (k : Fin 96) => if k.val = i ∨ k.val = i - i % 2 ∨ k.val = i - i % 4 then 0 else tags[k]

/-- Lanes of a register replaced. -/
def mergeLanes (lanes : LaneMask) (new old : VReg) : VReg :=
  Vector.ofFn fun (l : Fin 32) => if maskHas lanes l then new[l] else old[l]

/-- A register place set, with nothing else changed. -/
def Group.putV (grp : Group) (i : Nat) (x : VReg) : Group := { grp with v := grp.v.setIfInBounds i x }

/-- A result in flight to a register that some lanes of are written: in open windows either value may stay, and after a window
the write does (R152, R153). -/
def InFlight.overtaken (f : InFlight) (i : Nat) (lanes : LaneMask) : InFlight :=
  if f.writes i then
    { f with late := addLanes f.late i (lanes &&& f.openLanes), gone := addLanes f.gone i (lanes &&& ~~~f.openLanes) }
  else f

/-- A result in flight to a uniform register that is written. -/
def InFlight.overtakenS (f : InFlight) (r : Fin 64) : InFlight :=
  if f.coming.any fun e => e.1 == r then (if f.closed then { f with sdone := true } else { f with sover := true }) else f

/-- A result that has arrived: what is left is the promise that it makes while a window is open (R152). -/
def InFlight.arrived (f : InFlight) : InFlight := { f with lanes := 0, sdone := true, push := none }

/-- A lane write: the lanes named take the values, tags are cleared (R56, R59), poison is replaced when the whole register
is written (R70), and a result in flight to the register notes the lanes (R152). -/
def Group.writeV (grp : Group) (i : Nat) (lanes : LaneMask) (x : VReg) : Group :=
  let grp := grp.putV i (mergeLanes lanes x (laneReg grp.v i))
  { grp with
    tags := clearTags grp.tags i
    vpoison := if lanes = BitVec.allOnes 32 then grp.vpoison.filter fun e => e.1 ≠ i else grp.vpoison
    inflight := grp.inflight.map fun f => f.overtaken i lanes }

/-- A uniform register write of a group, noted by a result in flight to it (R61, R70, R152). -/
def Group.writeS (grp : Group) (r : Fin 64) (x : DWord) : Group :=
  { grp with
    u := grp.u.set r x
    spoison := grp.spoison.filter fun q => q ≠ r
    inflight := grp.inflight.map fun f => f.overtakenS r }

/-- At its arrival a result gives way, at a place or a register that another write has reached inside its window: a free choice, apart
from those of other results (R152). -/
def InFlight.keeps (f : InFlight) (fresh k : Nat) : Bool := Config.freeBit fresh (2 ^ 60 * f.pc.toNat + k)

/-- The lanes of a place that a result writes when it arrives (R152). -/
def InFlight.wrote (f : InFlight) (fresh i : Nat) : LaneMask :=
  f.lanesAt i &&& ~~~(maskOfFn 32 fun l => maskHas (lanesFor f.late i) l && f.keeps fresh (8192 + i * 32 + l))

/-- The uniform register that a result writes when it arrives (R152). -/
def InFlight.wroteS (f : InFlight) (fresh : Nat) : Option (Fin 64 × DWord) :=
  f.coming.filter fun e => !(f.sover && f.keeps fresh (4160 + e.1))

/-- A result in flight once another has arrived: of two that were both in flight to a register, either may stay (R152). -/
def InFlight.raced (fresh : Nat) (f new : InFlight) : InFlight :=
  let f := new.regs.foldl (fun (f : InFlight) e =>
    if f.writes e.1 then { f with late := addLanes f.late e.1 (new.wrote fresh e.1) } else f) f
  if (new.wroteS fresh).any fun e => f.coming.any fun q => q.1 == e.1 then { f with sover := true } else f

/-- A result in flight arrives (R152); the extent tags stay as they were when it was issued (R59, log entry 126). -/
def Group.arrive (grp : Group) (fresh : Nat) (f : InFlight) : Group :=
  let grp := f.regs.foldl (fun (grp : Group) e =>
    grp.putV e.1 (mergeLanes (f.wrote fresh e.1) e.2 (laneReg grp.v e.1))) grp
  match f.wroteS fresh with
  | none => grp
  | some (r, x) => { grp with u := grp.u.set r x }

/-- Results that arrive one after the other, each as the arrivals before it leave it. -/
def racedAll (fresh : Nat) (fs : List InFlight) : List InFlight :=
  fs.foldl (fun done f => done ++ [done.foldl (InFlight.raced fresh) f]) []

/-- Results arrive, one after the other (R152). -/
def Group.arriveEach (grp : Group) (fresh : Nat) (fs : List InFlight) : Group :=
  (racedAll fresh fs).foldl (fun grp f => grp.arrive fresh f) grp

/-- Every result in flight has arrived (R153). -/
def Group.arriveAll (grp : Group) (fresh : Nat) : Group :=
  { grp.arriveEach fresh grp.inflight with inflight := [] }

/-! ### Moving past a word -/

/-- The first address of the berth window (R100). -/
def berthBase : Nat := 0x7FFFFF000000

/-- The address lies in the berth window (R100). -/
def inBerth (a : Addr) : Bool := decide (berthBase ≤ a.toNat ∧ a.toNat < 2 ^ 47)

/-- The stream of a berth-window address (R101). -/
def berthStream (a : Addr) : Fin 16 := ⟨(a.toNat - berthBase) / 2 ^ 20 % 16, by omega⟩

/-- The word after an address; past the last word of a stream's window it is the window's first (R300). -/
def nextWord (a : Addr) : Addr :=
  if inBerth a && a.toNat % 2 ^ 20 == 2 ^ 20 - 4 then a - BitVec.ofNat 48 (2 ^ 20 - 4) else a + 4

/-- The loop test made when a word has completed: `done` says whether it stands at a level's end (R35). -/
def loopTest (done : Addr → Bool) : List LoopLevel → Option Addr × List LoopLevel
  | [] => (none, [])
  | l :: rest =>
    if done l.last then
      (if l.count - 1 = 0 then loopTest done rest else (some l.start, { l with count := l.count - 1 } :: rest))
    else (none, l :: rest)

/-- A level's body contains an address (R36). -/
def LoopLevel.contains (l : LoopLevel) (a : Addr) : Bool := decide (l.start.toNat ≤ a.toNat ∧ a.toNat ≤ l.last.toNat)

/-- The levels left after a transfer to an address (R36). -/
def popLeft (a : Addr) : List LoopLevel → List LoopLevel
  | [] => []
  | l :: rest => if l.contains a then l :: rest else popLeft a rest

/-- Where a program continues after the word, or UX pair, at `pc`, and its loop stack then (R35, R286). -/
def sequel (pair : Bool) (pc : Addr) (loops : List LoopLevel) : Addr × List LoopLevel :=
  let second := nextWord pc
  let after := if pair then nextWord second else second
  match loopTest (fun a => a == pc || (pair && a == second)) loops with
  | (some a, ls) => (a, ls)
  | (none, ls) => (after, ls)

/-- The word in execution opens a UX pair. -/
def State.pair (s : State) : Bool := isLiteral s.fetched.word.toNat

/-- Slices move past the word they have completed. -/
def Group.advance (grp : Group) (slices : BitVec 8) (pair : Bool) : Group :=
  grp.mapSlices slices fun sl =>
    let (pc, loops) := sequel pair sl.pc sl.loops
    { sl with pc := pc, loops := loops }

/-- A Pilot moves past its word. -/
def Pilot.advance (p : Pilot) (pair : Bool) : Pilot :=
  let (pc, loops) := sequel pair p.pc p.loops
  { p with pc := pc, loops := loops }

/-- A cluster's Pilot changed. -/
def State.setPilot (s : State) (cl : ClusterId) (p : Pilot) : State :=
  s.setCluster cl { s.cluster cl with pilot := p }

/-! ### Kinds of trap (R339) -/

/-- The kinds of trap and fault (R339). -/
inductive Kind
  | illegal | priv | gang | unif | laviol | divovf | loopovf | joinerr | qport | barerr | bounds | align | lsbound | stream
  | tickfull | badrec | mcast | atomtype | accown | accmode | acqlim | badgang | gmismatch | mxref | stowpool | stowbad
  | poison | xlate | iv | dz | of | uf | sat | ix | wov | bkpt | trap | towbr | codeend | towfull | emitst | berthfull | double
  deriving DecidableEq, Repr

/-- The code of a kind (R339). -/
def Kind.code : Kind → Nat
  | .illegal => 0x01 | .priv => 0x02 | .gang => 0x03 | .unif => 0x04 | .laviol => 0x05 | .divovf => 0x06 | .loopovf => 0x07
  | .joinerr => 0x08 | .qport => 0x09 | .barerr => 0x0A | .bounds => 0x0B | .align => 0x0C | .lsbound => 0x0D
  | .stream => 0x0E | .tickfull => 0x0F | .badrec => 0x10 | .mcast => 0x11 | .atomtype => 0x12 | .accown => 0x13
  | .accmode => 0x14 | .acqlim => 0x15 | .badgang => 0x16 | .gmismatch => 0x17 | .mxref => 0x18 | .stowpool => 0x19
  | .stowbad => 0x1A | .poison => 0x1B | .xlate => 0x1C | .iv => 0x20 | .dz => 0x21 | .of => 0x22 | .uf => 0x23
  | .sat => 0x24 | .ix => 0x25 | .wov => 0x26 | .bkpt => 0x30 | .trap => 0x31 | .towbr => 0x38 | .codeend => 0x39
  | .towfull => 0x3A | .emitst => 0x3B | .berthfull => 0x3C | .double => 0x3F

/-- A trap to be taken: its kind, the lanes that raised it (0 for the whole instruction), TVAL and the sub-code. -/
structure Trap where
  kind : Kind
  lanes : LaneMask := 0
  val : DWord := 0
  reason : Nat := 0
  deriving DecidableEq, Repr

/-- TCAUSE (R331): NR for the poison kind (R348). -/
def Trap.cause (t : Trap) (e : Bool) : BitVec 18 :=
  BitVec.ofNat 18 (t.kind.code + 2 ^ 8 * t.reason + 2 ^ 16 * bitNat e + 2 ^ 17 * bitNat (t.kind == .poison))

/-! ### Fault-buffer records (R369) -/

/-- A record with its dwords laid out; the sequence number is added when it is written. -/
def faultDwords (type kind reason : Nat) (asn : Asn) (access addr fmask dmask agent engine : Nat) (pc : Addr) (word : Nat)
    (sidecar : Option Word) (time : Nat) (tval : DWord) : List DWord :=
  [BitVec.ofNat 64 (type * 2 ^ 28 + kind * 2 ^ 20 + reason * 2 ^ 12 + asn.toNat),
   BitVec.ofNat 64 (access * 2 ^ 57 + addr % 2 ^ 48),
   BitVec.ofNat 64 (fmask * 2 ^ 32 + dmask),
   BitVec.ofNat 64 (bitNat sidecar.isSome * 2 ^ 63 + agent + engine * 2 ^ 4),
   pc.zeroExtend 64,
   BitVec.ofNat 64 ((sidecar.getD 0).toNat * 2 ^ 32 + word % 2 ^ 32),
   BitVec.ofNat 64 time,
   tval]

/-- The agent fields of dword 3 for slices of a group (R369). -/
def agentOfGroup (g : GroupId) (slices : BitVec 8) : Nat :=
  (deviceOfGroup g).val * 2 ^ 30 + clusterIndex (clusterOf g) * 2 ^ 24 + (coreIndex (coreOf g)).val * 2 ^ 20 +
    slotOf g * 2 ^ 16 + slices.toNat * 2 ^ 8

/-- The agent fields of dword 3 for a cluster. -/
def agentOfCluster (cl : ClusterId) : Nat := (deviceOf cl).val * 2 ^ 30 + clusterIndex cl * 2 ^ 24

/-- A record joins those of a device, to be written to its ring when there is room (R369, FAULT_ENTRY_WRITE). -/
def State.postFault (s : State) (ld : Fin 4) (r : FaultRec) : State :=
  s.setDev ld { s.devices[ld] with faults := s.devices[ld].faults ++ [r] }

/-! ### Taking a trap, and returning (R333 to R338) -/

/-- A reserved queue entry filled (R441). -/
def HQueue.fill (q : HQueue) (id : Nat) (x : DWord) : HQueue :=
  { q with entries := q.entries.map fun e => if e.1 == id then (id, some x) else e }

/-- The queue entry that a result in flight fills when it arrives (R441). -/
def State.arrivePush (s : State) (g : GroupId) (f : InFlight) : State :=
  match f.push, f.coming with
  | some (q, id), some (_, x) =>
    let c := s.cluster (clusterOf g)
    s.setCluster (clusterOf g) { c with queues := c.queues.set q (c.queues[q].fill id x) }
  | _, _ => s

/-- Every result in flight of a group has arrived (R153). -/
def State.arriveGroup (s : State) (g : GroupId) : State :=
  match s.group? g with
  | none => s
  | some grp => (grp.inflight.foldl (fun s f => State.arrivePush s g f) s).setGroup g (grp.arriveAll s.fresh)

/-- The part of a result in flight whose slices' windows have closed, and the part still in flight (R152, R153): lanes
slice by slice, the uniform register once any slice's window has closed. -/
def InFlight.split (f : InFlight) : Option InFlight × Option InFlight :=
  let open_ := f.left.filter fun e => decide (0 < e.2)
  if open_ = [] then (some f, none)
  else if open_.length = f.left.length then (none, some f)
  else (some { f with lanes := f.lanes &&& ~~~f.openLanes },
        some { f with lanes := f.lanes &&& f.openLanes, sdone := true, push := none, left := open_ })

/-- The results of a group before its gang issues: those that have arrived, and those still in flight. A result whose windows have
closed has arrived by the start of a run, and later in a run it may still be on its way; it then has no window (R27, R153). -/
def Group.results (grp : Group) (fresh : Nat) (start : Bool) : List InFlight × List InFlight :=
  let parts := grp.inflight.zipIdx.map fun (f, k) => (f.split, start || Config.freeBit fresh (12288 + k))
  (parts.filterMap fun (p, here) => if here then p.1 else none,
   parts.flatMap fun (p, here) => (if here then [] else (p.1.map fun f => { f with left := [] }).toList) ++ p.2.toList)

/-- The results whose windows have closed arrive, all of them at the start of a run (R27, R152, R153). -/
def State.arriveClosed (s : State) (g : GroupId) (start : Bool) : State :=
  match s.group? g with
  | none => s
  | some grp =>
    let (now, later) := grp.results s.fresh start
    let s1 := now.foldl (fun s f => State.arrivePush s g f) s
    s1.setGroup g { grp.arriveEach s.fresh now with inflight := later.map fun f => (racedAll s.fresh now).foldl (InFlight.raced s.fresh) f }

/-- No lane done and no value held. -/
def Progress.start (pc : Addr) (slices : BitVec 8) : Progress :=
  { pc := pc, slices := slices, done := 0, left := 0, vals := [], pops := [], popped := false, dropped := [], reserved := [],
    streams := [], turn := none, uft := none }

/-- The progress belongs to the word at the gang's program counter (R145, R440). -/
def Group.owns (grp : Group) (slices : BitVec 8) (p : Progress) : Bool :=
  p.pc == (grp.lead slices).pc && p.slices &&& slices != 0

/-- The progress of the word at a gang's program counter, if it has any. -/
def Group.progressOf (grp : Group) (slices : BitVec 8) : Progress :=
  (grp.progress.find? (grp.owns slices)).getD (Progress.start (grp.lead slices).pc slices)

/-- The progress of the word at a gang's program counter is dropped. -/
def Group.dropProgress (grp : Group) (slices : BitVec 8) : Group :=
  { grp with progress := grp.progress.filter fun p => !grp.owns slices p }

/-- The progress of the word at a gang's program counter, kept. -/
def Group.keepProgress (grp : Group) (slices : BitVec 8) (p : Progress) : Group :=
  { grp with progress := p :: grp.progress.filter fun p => !grp.owns slices p }

/-- A handler may be entered at this TBASE (R334). -/
def handlerAt (tbase : Addr) : Bool := tbase.getLsbD 47

/-- The trap registers that entry writes (R331, R334 steps 1 to 3). -/
def trapRegs (grp : Group) (slices : BitVec 8) (t : Trap) (f : Fetched) : TrapRegs :=
  { cause := t.cause f.berth
    pc := (grp.lead slices).pc
    mask := BitVec.ofNat 64 (t.lanes.toNat * 2 ^ 32 + (activeLanes slices grp).toNat)
    val := t.val
    prov := match f.sidecar with
      | some c => BitVec.ofNat 33 (2 ^ 32 + c.toNat)
      | none => 0
    word := BitVec.ofNat 64 ((if isLiteral f.word.toNat then f.word2.toNat else 0) * 2 ^ 32 + f.word.toNat)
    slices := slices
    inh := true
    skip := t.kind == .trap || t.kind == .bkpt
    cond := grp.u.c
    tsv := #v[grp.u.s[60], grp.u.s[61], grp.u.s[62], grp.u.s[63]] }

/-- A request is one of a gang: the slices that waited may have been joined by others since (R14). -/
def QWaiter.of (w : QWaiter) (g : GroupId) (slices : BitVec 8) : Bool := w.g == g && w.slices &&& slices != 0

/-- The requests of a gang leave a queue. -/
def HQueue.leave (q : HQueue) (g : GroupId) (slices : BitVec 8) : HQueue :=
  { q with waiters := q.waiters.filter fun w => !w.of g slices }

/-- The requests of a gang leave every queue of its cluster, since its word stalls no longer (R43). -/
def State.leaveQueues (s : State) (g : GroupId) (slices : BitVec 8) : State :=
  let c := s.cluster (clusterOf g)
  if c.queues.toList.all fun q => q.waiters.isEmpty then s
  else s.setCluster (clusterOf g) { c with queues := Vector.ofFn fun (q : Fin 32) => (c.queues[q]).leave g slices }

/-- The slices enter the handler: their stacks go into the opaque block and they continue at TBASE with empty stacks
(R334 steps 4 and 5). -/
def Group.enterHandler (grp : Group) (slices : BitVec 8) (tbase : Addr) : Group :=
  let saved := (List.finRange 8).filterMap fun (i : Fin 8) =>
    if maskHas slices i then
      let sl := grp.slices[i]
      some { slice := i, active := sl.active, loops := sl.loops, recon := sl.recon, region := sl.region, pinned := sl.pinned,
             issued := sl.issued : SavedSlice }
    else none
  let entered := grp.mapSlices slices fun sl =>
    { sl with pc := tbase, loops := [], recon := [], wait := .ready, pinned := false, issued := [], passBreak := false,
              why := if sl.dbg = .stop then 1 else if sl.dbg = .none then sl.why else 5, dbg := .none }
  { entered with
    saved := saved, savedProgress := grp.progress.filter (grp.owns slices)
    progress := grp.progress.filter fun p => !grp.owns slices p }

/-- A group trap (R334), a double fault (R336), or a trap with no handler to enter (R334). A trap of slices outside the
handler's own is not recorded while the handler runs: they execute their word again afterwards (R335). -/
def State.takeTrap (s : State) (g : GroupId) (slices : BitVec 8) (t : Trap) : State :=
  let s := (s.arriveGroup g).leaveQueues g slices
  match s.group? g with
  | none => s
  | some grp =>
    let ld := deviceOfGroup g
    let asn := s.asnOf grp.launch
    let tbase := (s.ctx ld asn).tbase
    let pc := (grp.lead slices).pc
    let record := fun (kind reason addr : Nat) =>
      { seq := none, type := 5, asn := asn, owner := .record, held := none,
        dwords := faultDwords 5 kind reason asn 0 addr t.lanes.toNat (grp.progressOf slices).done.toNat (agentOfGroup g slices) 0 pc
          s.fetched.word.toNat s.fetched.sidecar s.pack.time t.val : FaultRec }
    if grp.trap.inh && slices &&& grp.trap.slices == 0 then s.setGroup g (grp.wake slices)
    else if grp.trap.inh then
      let s := s.setGroup g { grp with dead := true }
      s.postFault ld (record Kind.double.code 0 (t.cause s.fetched.berth).toNat)
    else
      let regs := trapRegs grp slices t s.fetched
      if handlerAt tbase then s.setGroup g ({ grp with trap := regs }.enterHandler slices tbase)
      else
        let s := s.setGroup g { grp with trap := { regs with tsv := grp.trap.tsv }, dead := true }
        s.postFault ld (record t.kind.code t.reason 0)

/-- Every slice of a saved block back in its place (R338). -/
def Group.restoreSaved (grp : Group) : Group :=
  grp.saved.foldl (fun grp sv => { grp with
    slices := grp.slices.set sv.slice { grp.slices[sv.slice] with
      active := sv.active, loops := sv.loops, recon := sv.recon, region := sv.region, pc := grp.trap.pc
      pinned := sv.pinned || grp.slices[sv.slice].pinned, issued := grp.slices[sv.slice].issued ++ sv.issued } }) grp

/-- RETT (R338): the opaque block, c1 to c7 and s60 to s63 come back, the group returns to U, and it continues at the
trapped word, or after it when SKIP is 1. -/
def Group.returnFromTrap (grp : Group) (skipPair : Bool) : Group :=
  let t := grp.trap
  let grp := grp.restoreSaved
  let u := grp.u
  let s := (((u.s.set 60 t.tsv[0]).set 61 t.tsv[1]).set 62 t.tsv[2]).set 63 t.tsv[3]
  let grp := { grp with
    u := { s := s, c := t.cond }, trap := { t with inh := false }, saved := [],
    progress := (if t.skip then [] else grp.savedProgress) ++ grp.progress, savedProgress := [] }
  if t.skip then grp.advance t.slices skipPair else grp

/-! ### Long instructions -/

/-- The core's sequencer changed. -/
def State.mapSeqs (s : State) (g : GroupId) (f : List WideSeq → List WideSeq) : State :=
  let c := s.cluster (clusterOf g)
  s.setCluster (clusterOf g) { c with seqs := c.seqs.set (coreIndex (coreOf g)) (f c.seqs[coreIndex (coreOf g)]) }

/-- The vectors that a word read from its streams, given back: a word that has no effect advances no DONE (R237, R333). -/
def Group.unread (grp : Group) (ks : List (Fin 8)) : Group :=
  ks.foldl (fun (grp : Group) (k : Fin 8) => { grp with sd := grp.sd.set k { grp.sd[k] with done := grp.sd[k].done - 1 } }) grp

/-- What some of a group's stopped sequenced instructions hold is dropped, with the vectors that they read given back: the word at their
program counter issues from its start (R201, R237). -/
def State.dropSeqsOf (s : State) (g : GroupId) (p : WideSeq → Bool) : State :=
  let drop := fun (x : WideSeq) => x.g == g && x.stopped && p x
  let reads := (((s.cluster (clusterOf g)).seqs[coreIndex (coreOf g)]).filter drop).flatMap (·.reads)
  let s := s.mapSeqs g fun q => q.filter fun x => !drop x
  match s.group? g with
  | some grp => s.setGroup g (grp.unread reads)
  | none => s

/-- All that a group's stopped sequenced instructions hold is dropped: PIX was set to 0 (R201). -/
def State.dropSeqs (s : State) (g : GroupId) : State := s.dropSeqsOf g fun _ => true

/-- The groups of an entry. -/
def TabEntry.members (e : TabEntry) : List GroupId :=
  match e.work with
  | .joint _ ms => ms
  | .product _ => []

/-- The joint operation at which a group waits stands in the table, so that a stop waits for its end (R257, R350). -/
def State.jointBegun (s : State) (g : GroupId) : Bool :=
  let c := s.cluster (clusterOf g)
  (c.table.any fun e => e.members.contains g) || c.latches.any fun l => l.complete && l.arrived.contains g

/-! ### What a meaning answers -/

/-- Why a word does not complete: a trap, or a wait at the word. -/
inductive Stop
  | trap (t : Trap) (s : State)
  | wait (s : State)
  deriving Repr

/-- A trap with no lanes and TVAL 0. -/
def trapOf {α : Type} (s : State) (k : Kind) : Except Stop α := .error (.trap { kind := k } s)

/-- An ILLEGAL trap with the step of R158 that R439 gives it. -/
def illegal {α : Type} (s : State) (step : Nat) : Except Stop α := .error (.trap { kind := .illegal, reason := step } s)

/-- A test that traps when it fails. -/
def require (ok : Bool) (s : State) (t : Trap) : Except Stop Unit := if ok then .ok () else .error (.trap t s)

/-- An event of a context that ends the waits of its groups at IDLE (R332). -/
def State.rouse (s : State) (ld : Fin 4) (asn : Asn) : State :=
  s.mapGroups fun g grp =>
    if deviceOfGroup g = ld ∧ s.asnOf grp.launch = asn then
      grp.mapSlices 0xFF fun sl => match sl.wait with
        | .idle _ => { sl with wait := .idle 0 }
        | _ => sl
    else grp

/-- A level G fault of the word at an address (R347): the Pilot stops before the instruction takes effect, and a record of kind G is
posted. -/
def State.generatorFaultAt (s : State) (cl : ClusterId) (pc : Addr) (word : Word) (t : Trap) : State :=
  let c := s.cluster cl
  let p := c.pilot
  let ld := deviceOf cl
  let asn := s.asnOf p.launch
  let s := s.setPilot cl { p with fault := some (BitVec.ofNat 8 t.kind.code, 0), wait := .ready }
  (s.rouse ld asn).postFault ld
    { seq := none, type := 4, asn := asn, owner := .generator cl, held := none
      dwords := faultDwords 4 t.kind.code t.reason asn 0 0 0 0 (agentOfCluster cl) 9 pc word.toNat none s.pack.time t.val }

/-- A level G fault of the word in execution (R347). -/
def State.generatorFault (s : State) (cl : ClusterId) (t : Trap) : State :=
  s.generatorFaultAt cl (s.cluster cl).pilot.pc s.fetched.word t

/-- The outcome of a meaning: the state it leaves, or the trap taken, or the wait entered, each a next state. -/
def settle (r : Except Stop State) : Host.Outcome State Fault Refusal :=
  match r with
  | .ok s => .next s
  | .error (.wait s) => .next { s with runEnd := true }
  | .error (.trap t s) =>
    match s.cur with
    | some (.gang g slices) => .next { s.takeTrap g slices t with runEnd := true }
    | some (.pilot cl) => .next (s.generatorFault cl t)
    | none => .refused .noIssuer

/-- A word that waits has changed its group in nothing but its waiting slices and its progress; one that traps has advanced no
stream (R237, R333). -/
def keepGroup (g : GroupId) (grp : Group) (r : Except Stop State) : Except Stop State :=
  match r with
  | .error (.trap t s) =>
    match s.group? g with
    | some now => .error (.trap t (s.setGroup g { now with sd := grp.sd }))
    | none => .error (.trap t s)
  | .error (.wait s) =>
    match s.group? g with
    | some now => .error (.wait (s.setGroup g { grp with progress := now.progress, slices := now.slices }))
    | none => .error (.wait s)
  | r => r

/-- A word for groups alone: on a Pilot it is ILLEGAL at step 2 (R157, R158). -/
def onGang (s : State) (f : GroupId → Group → BitVec 8 → Except Stop State) : Host.Outcome State Fault Refusal :=
  match s.cur with
  | none => .refused .noIssuer
  | some (.pilot _) => settle (illegal s 2)
  | some (.gang g slices) =>
    match s.group? g with
    | none => .refused .noIssuer
    | some grp => settle (keepGroup g grp (f g grp slices))

/-- A word for Pilots alone: in a group it is ILLEGAL at step 2 (R157, R158). -/
def onPilot (s : State) (f : ClusterId → Pilot → Except Stop State) : Host.Outcome State Fault Refusal :=
  match s.cur with
  | none => .refused .noIssuer
  | some (.gang _ _) => settle (illegal s 2)
  | some (.pilot cl) => settle (f cl (s.cluster cl).pilot)

/-- The issuing slices have completed their word: its progress is dropped, and they move past it. -/
def State.advance (s : State) : State :=
  match s.cur with
  | some (.gang g slices) =>
    match s.group? g with
    | some grp => s.setGroup g ((grp.dropProgress slices).advance slices s.pair)
    | none => s
  | some (.pilot cl) => s.setPilot cl ((s.cluster cl).pilot.advance s.pair)
  | none => s

/-- The run ends after the word (R27). -/
def State.endRun (s : State) : State := { s with runEnd := true }

end Sys2Proof.Machine
end

