-- ==== Sys2Proof/Machine/Translate.lean ====
section
/-! DEFINITION. Translation at the home channel controller (R354 to R364, R372 to R374, R417), and the bytes of a virtual
access. -/

namespace Sys2Proof.Machine

open Sys2Proof

/-- Kinds of access that translation tells apart (R360). -/
inductive AccKind | load | store | atomic | fetch
  deriving DecidableEq, Repr

/-- The word that makes an access, as a record names it: the agent's fields of dword 3, the engine's code, the word and its address (R369). -/
structure Maker where
  agent : Nat
  engine : Nat
  pc : Addr
  word : Nat
  deriving DecidableEq, Repr

/-- Who makes an access, and how: for whom it is translated; the core whose L1 a store updates; of a weak access, whether it may
allocate, a load in that L1, which may serve it, and a store in the L2 and basin caches (R105, R227); the underflow threshold captured at
issue (R66), the writing word's provenance (R376), the group that issued it, and whether another package did, whose own context takes the
status of its writes to MX-stored pages (R97); the size code of the access, and the word that makes it, where one does (R369). -/
structure Req where
  ld : Fin 4
  asn : Asn
  priv : Priv
  kind : AccKind
  core : Option Nat := none
  l1 : Option Bool := none
  uft : Option Byte := none
  sidecar : Option Word := none
  g : Option GroupId := none
  foreign : Bool := false
  code : Nat := 0
  maker : Option Maker := none
  deriving DecidableEq, Repr

/-- A byte of a cacheable or pinned page: the tag that its line has in its home's caches, the tag that an importer's caches give it, the
L1 that the access looks in, whether the page is pinned, whether the access may fill lines, and the location behind them. -/
structure CacheRef where
  ld : Fin 4
  asn : Asn
  va : Nat
  imp : Option (Fin 4 × Asn × Nat)
  l1 : Option Nat
  pin : Bool
  fill : Bool
  loc : Nat
  deriving DecidableEq, Repr

/-- Where a byte of the virtual space stands: a location, a byte behind the caches, a byte of the view of an MX-stored page whose frame
starts at a location (R374), or a byte behind another package's token (R361). -/
inductive Place
  | byte (loc : Nat)
  | cached (c : CacheRef)
  | mx (mxf base off : Nat)
  | remote (token : DWord) (off : Nat)
  deriving DecidableEq, Repr

/-- Refusal reasons (R360, R417). -/
def reasonInvalid : Nat := 1
/-- BADPTE -/
def reasonBadPte : Nat := 2
/-- WALKERR -/
def reasonWalkErr : Nat := 3
/-- REACH -/
def reasonReach : Nat := 9

/-- Reasons a leaf entry is malformed (R359, R360): `level2` says that it stands at level 2. -/
def leafBad (leaf : Nat) (level2 : Bool) : Bool :=
  let place := bits leaf 60 2
  let tgt := bits leaf 55 2
  let mxf := bits leaf 51 3
  let ps := bit leaf 50
  let pub := bit leaf 54
  let pin := bits leaf 40 10
  bits leaf 0 16 != 0 || decide (2 ≤ tgt) || decide (5 ≤ mxf) || (ps && (mxf != 0 || pub)) || (mxf != 0 && pub) ||
    (decide (2 ≤ place) && tgt == 1) || (ps != level2) || (ps && bits leaf 16 9 != 0) ||
    (decide (place < 2) && pin != 0) || (place == 2 && bits leaf 46 3 != 0) || (place == 3 && bits leaf 48 2 != 0)

/-- The granules of a table that a walk reads hold poison or an uncorrectable error, or lie in a retired row (R360, R379). -/
def State.tableBad (s : State) (loc : Nat) : Bool := s.isBad loc

/-- A walk below a node: the leaf entry, with PS set for a 32 MiB page, or the reason of refusal; `ret` for a write-back or purge, which
translates retiring pages (R359, R360). A pointer outside the reach of profile 0 is refused with REACH (R356, R358, log entry 109). -/
def walkFrom (s : State) (ld : Fin 4) (ret : Bool) (va : Nat) (node : Nat) : List Nat → Except Nat Nat
  | [] => .error reasonInvalid
  | shift :: rest =>
    let at_ := node + 8 * (if shift = 43 then bits va 43 5 else bits va shift 9)
    match s.physical ld at_ with
    | none => .error reasonReach
    | some loc =>
      let e := s.physDword ld at_
      if s.tableBad loc then .error reasonWalkErr
      else if !bit e 63 then .error reasonInvalid
      else if rest = [] ∨ (shift = 25 ∧ bit e 50) then
        if bit e 62 && !ret then .error reasonInvalid
        else if leafBad e (shift = 25) then .error reasonBadPte
        else .ok e
      else if e % 2 ^ 63 / 2 ^ 40 != 0 || e % 2 ^ 12 != 0 then .error reasonBadPte
      else walkFrom s ld ret va (bits e 12 28 * 2 ^ 12) rest

/-- The index shifts of a table's levels (R359). -/
def tableShifts : List Nat := [43, 34, 25, 16]

/-- The walk of a context's table (R359). -/
def State.walk (s : State) (ld : Fin 4) (asn : Asn) (va : Nat) : Except Nat Nat :=
  walkFrom s ld false va (s.ctx ld asn).ptroot.toNat tableShifts

/-- The page number under which a controller keeps an entry. -/
def pageOf (va : Nat) : Nat := va / 2 ^ 16

/-- The profile that serves a virtual address of a context (R109, R362). -/
def State.profileFor (s : State) (ld : Fin 4) (asn : Asn) (va : Nat) : Profile :=
  let f := bits (s.ctx ld asn).regtab.toNat (2 * bits va 43 4) 2
  s.devices[ld].profiles.getD f ⟨Vector.replicate 9 0, false, false⟩

/-- The home channel controller of a virtual address, by its number: stack and channel as one (R109, R354). -/
def State.controllerOf (s : State) (ld : Fin 4) (asn : Asn) (va : Nat) : Nat := (s.profileFor ld asn va).hash va / 2

/-- The entry of a page that the address's controller keeps under a lease that has not expired, the latest if there are several
(R364, log entry 85). -/
def State.kept (s : State) (ld : Fin 4) (asn : Asn) (va : Nat) : Option Lease :=
  s.leases.find? fun l => l.ctl == s.controllerOf ld asn va && l.ld == ld && l.asn == asn && l.page == pageOf va &&
    decide (s.pack.time < l.expires)

/-- When a lease granted now to a context's page expires (R364). -/
def State.leaseEnd (s : State) (ld : Fin 4) (asn : Asn) : Nat := s.pack.time + (s.ctx ld asn).lease.toNat * 1000

/-- A lease granted to the controller that has walked this page; it ends only by expiring (R364). -/
def State.grantLease (s : State) (ld : Fin 4) (asn : Asn) (va leaf : Nat) : State :=
  let l : Lease := { ctl := s.controllerOf ld asn va, ld := ld, asn := asn, page := pageOf va, leaf := BitVec.ofNat 64 leaf
                     expires := s.leaseEnd ld asn }
  { s with leases := l :: s.leases.filter fun k => decide (s.pack.time < k.expires) }

/-- The publish buffer that covers a page (R372). -/
def State.pubFor (s : State) (ld : Fin 4) (asn : Asn) (va : Nat) : Option PubBuf :=
  s.devices[ld].pbuf.toList.find? fun b =>
    b.en && b.asn == asn && decide (b.page ≤ pageOf va ∧ pageOf va < b.page + b.count)

/-- A purge covers a page of a context. -/
def Purge.covers (p : Purge) (asn : Asn) (page : Nat) : Bool :=
  p.asn == asn && decide (p.first ≤ page ∧ page < p.first + p.pages)

/-- The page stands in the device's no-allocate filter (R366). -/
def State.filtered (s : State) (ld : Fin 4) (asn : Asn) (va : Nat) : Bool := s.devices[ld].purges.any fun p => p.covers asn (pageOf va)

/-- The page is served as UNCACHED whatever its placement: MX-stored, or of a publish buffer (R94, R108, R372). -/
def leafUncached (leaf : Nat) : Bool := bits leaf 51 3 != 0 || bit leaf 54

/-- The store that a pinned page names: PLACE and PIN. -/
def pinPlace (leaf : Nat) : DWord := BitVec.ofNat 64 (bits leaf 40 10 + 2 ^ 10 * bits leaf 60 2)

/-- The pin of a page of a context. -/
def State.pinAt (s : State) (ld : Fin 4) (asn : Asn) (va : Nat) : Option Pin :=
  s.pins.find? fun p => p.ld == ld && p.asn == asn && p.page == pageOf va

/-- The top of the space that a device's teams have taken in one core's local store (R103, R373). -/
def State.coreTop (s : State) (ld : Fin 4) (cluster : Nat) : Nat :=
  (s.teams.filter fun t => deviceOf t.cl == ld && clusterIndex t.cl == cluster).foldl (fun m t => max m (t.lsBase + t.lsSize)) 0

/-- The pages that a core's local store may hold: two, above every team's allocation (R373). -/
def State.coreRoom (s : State) (ld : Fin 4) (cluster : Nat) : Nat := min 2 ((2 ^ 18 - s.coreTop ld cluster) / 2 ^ 16)

/-- The named store can take one page more: a core's local store two at its top, an L2 slice eight, a basin bank 64, which the devices
share; a core of a cluster that is not there takes none (R373, log entry 127). -/
def State.pinRoom (s : State) (ld : Fin 4) (leaf : Nat) : Bool :=
  let basin := bits leaf 60 2 = 2 ∧ bit leaf 49
  let held := (s.pins.filter fun p => (p.ld == ld || decide basin) && p.place == pinPlace leaf).length
  let core := if bits leaf 42 6 < 40 then s.coreRoom ld (bits leaf 42 6) else 0
  decide (held < if bits leaf 60 2 = 3 then core else if bit leaf 49 then 64 else 8)

/-- The access goes to a page that is pinned, or that it pins (R108, R373). -/
def State.pinned (s : State) (ld : Fin 4) (asn : Asn) (va leaf : Nat) : Bool :=
  decide (2 ≤ bits leaf 60 2) && !leafUncached leaf && ((s.pinAt ld asn va).isSome || !s.filtered ld asn va)

/-- The host link that a context's host accesses use is up (R360, R423). -/
def State.hostUp (s : State) (ld : Fin 4) (asn : Asn) : Bool :=
  if (s.ctx ld asn).homelink then s.pack.hostUp2 != 0 else s.pack.hostUp0 != 0

/-- The access of a page of a publish buffer is served from copy 1: loads from copy SEL, stores from the other (R372). -/
def State.pubSecond (s : State) (r : Req) (va leaf : Nat) : Bool :=
  bit leaf 54 && match s.pubFor r.ld r.asn va with
    | some b => if r.kind = .store then !b.sel else b.sel
    | none => false

/-- The physical address of a byte under its leaf: of the frame of the copy that serves it (R359, R372). -/
def State.physOf (s : State) (r : Req) (va leaf : Nat) : Nat :=
  let size := if bit leaf 50 then 2 ^ 25 else 2 ^ 16
  bits leaf 16 24 * 2 ^ 16 + va % size + (if s.pubSecond r va leaf then 2 ^ 16 else 0)

/-- The reason a leaf refuses an access, in the order of R360 from USER on. -/
def State.leafRefuses (s : State) (r : Req) (va leaf : Nat) : Option Nat :=
  let f := s.profileFor r.ld r.asn va
  let pa := s.physOf r va leaf
  let host := bits leaf 55 2 == 1
  if r.priv = .user ∧ ¬ bit leaf 57 then some 4
  else if (r.kind = .store ∨ r.kind = .atomic) ∧ ¬ bit leaf 59 then some 5
  else if r.kind = .fetch ∧ ¬ bit leaf 58 then some 6
  else if ¬ f.en then some 7
  else if ¬ host ∧ f.hash pa ≠ f.hash va then some 8
  else if ¬ host ∧ (2 ^ 39 ≤ pa ∨ f.locate pa = none) then some reasonReach
  else if bit leaf 54 ∧ (s.pubFor r.ld r.asn va).isNone then some 10
  else if s.pinned r.ld r.asn va leaf ∧ (s.pinAt r.ld r.asn va).isNone ∧ ¬ s.pinRoom r.ld leaf then some 11
  else if host ∧ ¬ s.hostUp r.ld r.asn then some 12
  else if bits leaf 51 3 ≠ 0 ∧ f.masks.toList.any (fun m => bits m.toNat 8 8 != 0) then some 16
  else none

/-- The leaf that serves an access, and whether a walk of the table gave it: a controller uses the entry that it keeps while that permits
the access, and otherwise walks, since only a walk refuses (R360, R364, log entry 128). -/
def State.leafFor (s : State) (r : Req) (va : Nat) : Except Nat (Nat × Bool) :=
  match (s.kept r.ld r.asn va).filter fun l => (s.leafRefuses r va l.leaf.toNat).isNone with
  | some l => .ok (l.leaf.toNat, false)
  | none =>
    match s.walk r.ld r.asn va with
    | .error e => .error e
    | .ok leaf => match s.leafRefuses r va leaf with
      | some e => .error e
      | none => .ok (leaf, true)

/-- The location of a byte under its leaf (R357, R359). -/
def State.locOf (s : State) (r : Req) (va leaf : Nat) : Nat :=
  if bits leaf 55 2 = 1 then hostLoc (s.devices[r.ld].hbase.toNat + s.physOf r va leaf)
  else ((s.profileFor r.ld r.asn va).locate (s.physOf r va leaf)).getD 0

/-- The bytes `[va, va + n)` of one page, under its leaf; `imp` is an importer's tag for the first of them. -/
def State.pagePlaces (s : State) (r : Req) (imp : Option (Fin 4 × Asn × Nat)) (va n leaf : Nat) : List Place :=
  let place := bits leaf 60 2
  let pin := s.pinned r.ld r.asn va leaf
  let l1 := if place = 0 ∨ place = 2 then (if r.l1.isSome then r.core else none) else none
  (List.range n).map fun i =>
    if bits leaf 51 3 ≠ 0 then .mx (bits leaf 51 3) (s.locOf r (va / 2 ^ 16 * 2 ^ 16) leaf) ((va + i) % 2 ^ 16)
    else if (place = 0 ∧ ¬ leafUncached leaf) ∨ pin then
      .cached { ld := r.ld, asn := r.asn, va := va + i, imp := imp.map fun e => (e.1, e.2.1, e.2.2 + i), l1 := l1, pin := pin
                fill := !s.filtered r.ld r.asn va && decide (place ≠ 3), loc := s.locOf r (va + i) leaf }
    else .byte (s.locOf r (va + i) leaf)

/-! ### Memory errors (R375 to R379) -/

/-- The access field of a fault-buffer record (R369): W, A, F and the size code of R148. -/
def accessBits (k : AccKind) (code : Nat) : Nat :=
  (match k with
   | .load => 0
   | .store => 64
   | .atomic => 96
   | .fetch => 16) + code

/-- A memory-error record of a granule, with the access that met the error and the word that made it, where they are known (R369, R376,
R377). -/
def State.memoryError (s : State) (r : Req) (reason loc : Nat) : State :=
  let pa := s.devices[r.ld].profiles[0].address (granuleOf loc * 32)
  let m := r.maker.getD ⟨r.ld.val * 2 ^ 30, 0, 0, 0⟩
  let d := faultDwords 6 Kind.poison.code reason r.asn (accessBits r.kind r.code) pa 0 0 m.agent m.engine m.pc m.word r.sidecar s.pack.time
    (BitVec.ofNat 64 pa)
  s.postFault r.ld { seq := none, type := 6, asn := r.asn, owner := .record, dwords := d, held := none }

/-- The access of a unit that no word makes, for a device (R377). -/
def unitReq (ld : Fin 4) (k : AccKind) (engine : Nat) : Req :=
  { ld := ld, asn := 0, priv := .system, kind := k, maker := some ⟨ld.val * 2 ^ 30, engine, 0, 0⟩ }

/-- Granules whose uncorrectable error a read has met: each is recorded, and delivers poison from then on (R375, R377). -/
def State.meetGranules (s : State) (r : Req) (gs : List Nat) : State :=
  gs.foldl (fun s g => State.memoryError
    { s with poison := insertNat g s.poison, pack := { s.pack with latent := s.pack.latent.filter fun x => x ≠ g } } r 1 (g * 32)) s

/-- A unit's read at a physical address meets the uncorrectable errors that stand there (R375, R377). -/
def State.physMeet (s : State) (ld : Fin 4) (pa n : Nat) : State :=
  if s.pack.latent = [] then s
  else s.meetGranules (unitReq ld .load 0)
    ((((List.range n).filterMap fun i => s.physical ld (pa + i)).map granuleOf).eraseDups.filter s.pack.latent.contains)

/-- The first access to a pinned page pins it: its frame is read, and copied into the store with the poison that the read meets (R373,
R375). -/
def State.pinPage (s : State) (r : Req) (va leaf : Nat) : State :=
  if s.pinned r.ld r.asn va leaf ∧ (s.pinAt r.ld r.asn va).isNone then
    let at_ := fun (i : Nat) => s.locOf r (va / 2 ^ 16 * 2 ^ 16 + i) leaf
    let gs := List.range (2 ^ 11)
    let s1 : State := { s with pins := { ld := r.ld, asn := r.asn, page := pageOf va, place := pinPlace leaf, leaf := leaf
                                         bytes := (List.range (2 ^ 16)).map fun i => Memory.read s.mem (at_ i)
                                         poison := gs.filter fun g => s.isBad (at_ (32 * g)) } :: s.pins }
    if s.pack.latent = [] then s1
    else s1.meetGranules r ((gs.map fun g => granuleOf (at_ (32 * g))).filter s.pack.latent.contains)
  else s

/-- The granules of the table dwords that a walk of an address reads (R359). -/
def State.walkGranules (s : State) (ld : Fin 4) (va node : Nat) : List Nat → List Nat
  | [] => []
  | shift :: rest =>
    let at_ := node + 8 * (if shift = 43 then bits va 43 5 else bits va shift 9)
    match s.physical ld at_ with
    | none => []
    | some loc => granuleOf loc ::
        (if s.tableBad loc then [] else s.walkGranules ld va (bits (s.physDword ld at_) 12 28 * 2 ^ 12) rest)

/-- A walk that a table's uncorrectable error has refused has met that error (R360, R377). -/
def State.meetTable (s : State) (ld : Fin 4) (asn : Asn) (va reason : Nat) : State :=
  if reason = reasonWalkErr then
    s.meetGranules { ld := ld, asn := asn, priv := .system, kind := .load }
      ((s.walkGranules ld va (s.ctx ld asn).ptroot.toNat tableShifts).filter s.pack.latent.contains)
  else s

/-! ### The caches (R105, R370, R373) -/

/-- The line that a level holds under a tag. -/
def State.lineAt (s : State) (level : CacheLevel) (t : Fin 4 × Asn × Nat) : Option CacheLine :=
  s.lines.find? fun l => l.level == level && l.ld == t.1 && l.asn == t.2.1 && l.line == t.2.2 / 128

/-- The byte of a line at an address. -/
def CacheLine.byteAt (l : CacheLine) (va : Nat) : Byte := l.bytes.getD (va % 128) 0

/-- The tag under which the issuer's own caches hold a byte. -/
def CacheRef.tag (c : CacheRef) : Fin 4 × Asn × Nat := c.imp.getD (c.ld, c.asn, c.va)

/-- The line of the issuing core's L1, of its import caches, or of the home caches that serves a byte, first to last (R105, R370). -/
def State.holder (s : State) (c : CacheRef) : Option CacheLine :=
  let imported := if c.imp.isSome then (s.lineAt .l2 c.tag).or (s.lineAt .basin c.tag) else none
  let home := if c.pin then none else (s.lineAt .l2 (c.ld, c.asn, c.va)).or (s.lineAt .basin (c.ld, c.asn, c.va))
  ((c.l1.bind fun k => s.lineAt (.l1 k) c.tag).or imported).or home

/-- The byte as its home holds it: the pinned store, the home caches, or memory. -/
def State.homeByte (s : State) (c : CacheRef) : Byte :=
  if c.pin then ((s.pinAt c.ld c.asn c.va).map fun p => p.bytes.getD (c.va % 2 ^ 16) 0).getD (Memory.read s.mem c.loc)
  else (((s.lineAt .l2 (c.ld, c.asn, c.va)).or (s.lineAt .basin (c.ld, c.asn, c.va))).map fun l => l.byteAt c.va).getD
    (Memory.read s.mem c.loc)

/-- The byte that an access finds: its holder's, or its home's. -/
def State.servedByte (s : State) (c : CacheRef) : Byte := ((s.holder c).map fun l => l.byteAt c.va).getD (s.homeByte c)

/-- A byte at a step under writes of engine operations that are not all performed yet, the latest first: what it was before those that
are later than the last one performed (R128, R139). -/
def unlanded (t : Nat) : List Unseen → Byte → Byte
  | [], b => b
  | u :: rest, b => if u.lands ≤ t then b else unlanded t rest u.was

/-- A byte as an access sees it: what engine operations wrote whose completion their groups have not observed shows from the step on at
which it is performed (R139). -/
def State.seen (s : State) (loc : Nat) (b : Byte) : Byte :=
  if s.unseen.isEmpty then b else unlanded s.fresh (s.unseen.filter fun u => u.loc == loc) b

/-- The byte at a place. -/
def State.readPlace (s : State) : Place → Byte
  | .byte l => s.seen l (Memory.read s.mem l)
  | .cached c => match s.holder c with
    | some l => if l.imported || !(l.level == .l2 || l.level == .basin) then l.byteAt c.va else s.seen c.loc (l.byteAt c.va)
    | none => s.seen c.loc (s.homeByte c)
  | .mx mxf base off =>
    let x := (mxReadBlock s.mem mxf base (off / 64)).getD (off % 64 / 2) 0
    BitVec.ofNat 8 (x / 256 ^ (off % 2))
  | .remote token off => BitVec.ofNat 8 (Config.freeNat s.fresh (2 ^ 96 + token.toNat * 2 ^ 48 + off))

/-- The location behind a place, none for the views of R374 and for other packages. -/
def Place.loc? : Place → Option Nat
  | .byte l => some l
  | .cached c => some c.loc
  | .mx .. => none
  | .remote .. => none

/-- The locations a place is read from. -/
def Place.locs : Place → List Nat
  | .byte l => [l]
  | .cached c => [c.loc]
  | .mx mxf base off => let b := off / 64; [base + mxElemOffset mxf b, base + 0x8000 + b, base + 0x8400 + b]
  | .remote .. => []

/-- A read of the place goes to memory. -/
def State.fromMemory (s : State) (p : Place) : Bool :=
  match p with
  | .cached c => (s.holder c).isNone && !c.pin
  | _ => true

/-- A byte of a pinned page lies in a granule that its store holds as poison (R373, R375). -/
def State.pinPoison (s : State) (c : CacheRef) : Bool :=
  c.pin && (s.pinAt c.ld c.asn c.va).any fun p => p.poison.contains (c.va % 2 ^ 16 / 32)

/-- A place of a pinned page that reads as poison from its store. -/
def State.placePinned (s : State) : Place → Bool
  | .cached c => (s.holder c).isNone && s.pinPoison c
  | _ => false

/-- A place reads as poison (R373 to R375, R379). -/
def State.placePoison (s : State) (p : Place) : Bool := s.placePinned p || s.fromMemory p && p.locs.any s.isBad

/-- Nothing of the part holds poison or would deliver it. -/
def State.clean (s : State) : Bool :=
  s.poison.isEmpty && s.pack.retired.isEmpty && s.pack.latent.isEmpty && s.pins.all fun p => p.poison.isEmpty

/-- The first of some places that reads as poison. -/
def State.firstPoison (s : State) (ps : List Place) : Option Nat := if s.clean then none else ps.findIdx? s.placePoison

/-- The bytes at places, and the index of the first that reads as poison. -/
def State.readPlaces (s : State) (ps : List Place) : List Byte × Option Nat := (ps.map s.readPlace, s.firstPoison ps)

/-- The byte that an atomic finds at a place: the write just before its own, as the home holds it, whatever copies of the line stand
elsewhere (R128, R136). -/
def State.atomicByte (s : State) : Place → Byte
  | .cached c => s.homeByte c
  | .byte l => Memory.read s.mem l
  | p => s.readPlace p

/-- A place as its home holds it: no L1 and no importer's cache stands before it. -/
def Place.atHome : Place → Place
  | .cached c => .cached { c with imp := none, l1 := none }
  | p => p

/-- What an atomic finds at places, and the index of the first that reads as poison (R136, R376). -/
def State.readAtomic (s : State) (ps : List Place) : List Byte × Option Nat :=
  (ps.map s.atomicByte, s.firstPoison (ps.map Place.atHome))

/-- A read of places meets the uncorrectable errors that stand there (R375, R377). -/
def State.meetErrors (s : State) (r : Req) (ps : List Place) : State :=
  if s.pack.latent = [] ∨ r.kind = .store then s
  else s.meetGranules r ((((ps.filter s.fromMemory).flatMap Place.locs).map granuleOf).eraseDups.filter s.pack.latent.contains)

/-- The first byte of the line that a byte lies in. -/
def CacheRef.start (c : CacheRef) : CacheRef :=
  { c with va := c.va / 128 * 128, imp := c.imp.map fun e => (e.1, e.2.1, e.2.2 / 128 * 128), loc := c.loc - c.va % 128 }

/-- A later byte of a line. -/
def CacheRef.plus (c : CacheRef) (i : Nat) : CacheRef :=
  { c with va := c.va + i, imp := c.imp.map fun e => (e.1, e.2.1, e.2.2 + i), loc := c.loc + i }

/-- The number of a level, for its free choices. -/
def CacheLevel.index : CacheLevel → Nat
  | .l1 _ => 0
  | .l2 => 1
  | .basin => 2

/-- The lines of 128 bytes that a cache holds: 128 KiB in a core's L1, 64 MiB in a die's L2, 512 MiB in the basin cache (R8). -/
def CacheLevel.capacity : CacheLevel → Nat
  | .l1 _ => 2 ^ 10
  | .l2 => 2 ^ 19
  | .basin => 2 ^ 22

/-- A cache holds all the lines that it can (R8). -/
def State.levelFull (s : State) (level : CacheLevel) (ld : Fin 4) : Bool :=
  decide (level.capacity ≤ (s.lines.filter fun l => l.level == level && (level == .basin || l.ld == ld)).length)

/-- A level takes a copy of the line that a byte lies in, or takes none: the choice is free (R105, log entry 110), but a level that is
full takes none until it has given one up (R8). A line with a granule
that delivers poison is not taken, and in safe harbour the basin cache takes none (R431); a line that is read whole has every write to
it performed (R139). -/
def State.fillLevel (s : State) (level : CacheLevel) (t : Fin 4 × Asn × Nat) (imported : Bool) (c : CacheRef) : State :=
  let b := c.start
  let bytes := (List.range 128).map fun i => b.plus i
  let here := fun (l : Nat) => decide (b.loc ≤ l ∧ l < b.loc + 128)
  if (s.lineAt level t).isSome || (level == .basin && s.pack.safe) || s.levelFull level t.1 || !Config.freeBit s.fresh (2 ^ 70 + t.2.2 / 128 * 4 + level.index) ||
      bytes.any (fun x => s.placePoison (.cached x)) then s
  else { s with lines := { level := level, ld := t.1, asn := t.2.1, line := t.2.2 / 128, loc := b.loc
                           bytes := bytes.map s.servedByte, dirty := 0, imported := imported, parked := false } ::
                  s.lines
                unseen := if s.unseen.isEmpty then [] else s.unseen.filter fun u => !here u.loc }

/-- An import cache or an L1 fills with a line only once no dirty copy of it stands at its home: a line that is exported is written
through and clean (R370). -/
def State.lineAtHome (s : State) (c : CacheRef) : Bool :=
  s.lines.any fun l => l.ld == c.ld && l.asn == c.asn && l.line == c.va / 128 && l.dirty != 0

/-- The sharer that a level of a die is. -/
def sharerOf (ld : Fin 4) : CacheLevel → Fin 5
  | .basin => 4
  | _ => ⟨ld.val, by omega⟩

/-- A line enters its home's directory, with a sharer more; each controller's directory holds 4,096 lines, and the one least recently
filled gives up its place and its copies (R370). -/
def State.track (s : State) (line : Nat) (token : DWord) (home : Fin 4 × Asn × Nat) (d : Fin 5) : State :=
  let was := (s.peers.find? fun p => p.line == line).elim [] PeerLine.sharers
  let all := { line := line, token := token, ld := home.1, asn := home.2.1, page := pageOf home.2.2, sharers := if was.contains d then was else d :: was : PeerLine } ::
    s.peers.filter fun p => p.line ≠ line
  let out := ((all.filter fun p => p.line / 2 ^ 24 == line / 2 ^ 24).drop 4096).map PeerLine.line
  { s with peers := all.filter fun p => !out.contains p.line, lines := s.lines.filter fun l => !(l.imported && out.contains (l.loc / 128)) }

/-- An importing die's L2 or the basin cache takes a copy of a line read through a handle (R370). -/
def State.importLine (s : State) (token : DWord) (level : CacheLevel) (c : CacheRef) : State :=
  if c.imp.isNone || c.pin || s.lineAtHome c then s
  else
    let t := s.fillLevel level c.tag true c
    if t.lines.length = s.lines.length then s else t.track (c.start.loc / 128) token (c.ld, c.asn, c.va) (sharerOf c.tag.1 level)

/-- The lines that an access touches are filled at the levels that it may fill (R105). -/
def State.fillPlaces (s : State) (r : Req) (token : DWord) (ps : List Place) : State :=
  let firsts := ps.zipIdx.filterMap fun (p, i) => match p with
    | .cached c => if c.fill && (i == 0 || c.va % 128 == 0) then some c else none
    | _ => none
  firsts.foldl (fun s c =>
    let below : CacheRef := { c with l1 := none }
    let home : CacheRef := { below with imp := none }
    let s := if c.pin || r.kind = .fetch || r.kind = .atomic then s
      else
        if r.kind = .store ∧ r.l1 = some false then s
        else (s.fillLevel .basin (c.ld, c.asn, c.va) false home).fillLevel .l2 (c.ld, c.asn, c.va) false home
    let s := if r.kind = .load then (s.importLine token .basin below).importLine token .l2 below else s
    match c.l1, r.l1 with
    | some k, some true => if r.kind = .load then s.fillLevel (.l1 k) c.tag false below else s
    | _, _ => s) s

/-! ### Places of an access -/

/-- The bytes of an access within one granule of 256 bytes of a context's own space, which one controller serves (R109, R354); `imp`
names the importer's tag and the token of an access through the peer window. -/
def State.ownPlaces (s : State) (r : Req) (imp : Option (Fin 4 × Asn × Nat)) (token : DWord) (va n : Nat) :
    Except Nat (State × List Place) :=
  match s.leafFor r va with
  | .error e => .error e
  | .ok (leaf, walked) =>
    let s := (if walked then s.grantLease r.ld r.asn va leaf else s).pinPage r va leaf
    let ps := s.pagePlaces r imp va n leaf
    .ok ((s.meetErrors r ps).fillPlaces r token ps, ps)

/-- An address of the peer window (R100). -/
def inPeer (va : Nat) : Bool := decide (0x7F0000000000 ≤ va ∧ va < berthBase)

/-- The import that covers the bytes `[va, va + n)` (R417). -/
def State.importFor (s : State) (ld : Fin 4) (va n : Nat) : Option ImportEntry :=
  s.devices[ld].imports.find? fun e => decide (e.win.toNat ≤ va ∧ va + n ≤ e.win.toNat + e.size.toNat)

/-- The export that a token names on this package, while it is valid (R416). -/
def State.exportFor (s : State) (token : DWord) : Option (Fin 4 × ExportEntry) :=
  let ld : Fin 4 := ⟨bits token.toNat 54 2 % 4, by omega⟩
  (s.devices[ld].exports.find? fun e => e.token == token).map fun e => (ld, e)

/-- The rights an access needs: read, write, atomic (R417). -/
def rightsNeeded : AccKind → BitVec 3
  | .load | .fetch => 4
  | .store => 2
  | .atomic => 7

/-- What another package answers to an access through a token of its own (R361, R417): the access is performed there, or the reason of
its refusal. -/
def remoteAnswer (token : DWord) (n : Nat) : Option Nat :=
  match Config.fabricAccess token n with
  | 0 => none
  | 1 => some 13
  | 2 => some 14
  | _ => some 15

/-- The bytes of an access within one granule, of the peer window or the context's own space (R102, R361, R417). -/
def State.placesInPage (s : State) (r : Req) (va n : Nat) : Except Nat (State × List Place) :=
  if inPeer va then
    match s.importFor r.ld va n with
    | none => .error reasonInvalid
    | some imp =>
      let off := va - imp.win.toNat
      if bits imp.token.toNat 56 8 ≠ s.pack.pkgid.toNat then
        match remoteAnswer imp.token s.fresh with
        | some why => .error why
        | none => .ok (s, (List.range n).map fun i => .remote imp.token (off + i))
      else match s.exportFor imp.token with
        | none => .error 13
        | some (ld, e) =>
          if e.rights &&& rightsNeeded r.kind ≠ rightsNeeded r.kind then .error 14
          else if (s.ctx ld e.asn).state = .frozen then .error 15
          else s.ownPlaces { r with ld := ld, asn := e.asn } (some (r.ld, r.asn, va)) imp.token (e.base.toNat + off) n
  else s.ownPlaces r none 0 va n

/-- The bytes of an access, granule by granule (R354). -/
def State.placesFuel (s : State) (r : Req) (va n : Nat) : Nat → Except Nat (State × List Place)
  | 0 => .ok (s, [])
  | fuel + 1 =>
    if n = 0 then .ok (s, [])
    else
      let here := min n (2 ^ 8 - va % 2 ^ 8)
      match s.placesInPage r va here with
      | .error e => .error e
      | .ok (s, ps) =>
        match s.placesFuel r (va + here) (n - here) fuel with
        | .error e => .error e
        | .ok (s, rest) => .ok (s, ps ++ rest)

/-- Where the bytes `[va, va + n)` stand, or the reason of the refusal. -/
def State.places (s : State) (r : Req) (va n : Nat) : Except Nat (State × List Place) := s.placesFuel r va n (n / 2 ^ 8 + 2)

/-- The first byte of an access at which it is refused, granule by granule (R340, R369). -/
def State.refusedFuel (s : State) (r : Req) (va n : Nat) : Nat → Nat
  | 0 => va
  | fuel + 1 =>
    let here := min n (2 ^ 8 - va % 2 ^ 8)
    match s.placesInPage r va here with
    | .error _ => va
    | .ok _ => if n ≤ here then va else s.refusedFuel r (va + here) (n - here) fuel

/-- The lowest refused address of an access that is refused. -/
def State.refusedAt (s : State) (r : Req) (va n : Nat) : Nat := s.refusedFuel r va n (n / 2 ^ 8 + 2)

/-! ### The bytes of an interval (R113, R118, R127, R138) -/

/-- A byte as it stood at a past step: what the first write from then on replaced, or as it stands. -/
def State.placeAt (s : State) (t : Nat) (p : Place) : Byte :=
  match p.loc? with
  | some l => (((s.past.filter fun e => e.loc == l && decide (t ≤ e.at_)).getLast?).map PastByte.was).getD (s.readPlace p)
  | none => s.readPlace p

/-- The bytes at places as units of so many bytes may be read at any time since a step, and the first that reads as poison. -/
def State.readSince (s : State) (since unit : Nat) (ps : List Place) : List Byte × Option Nat :=
  if s.past.all fun e => decide (e.at_ < since) then s.readPlaces ps
  else
    (ps.map fun p =>
      s.placeAt (since + Config.freeNat s.fresh (2 ^ 72 + (p.loc?.getD 0) / unit) % (s.fresh + 2 - since)) p, (s.readPlaces ps).2)

/-! ### Writing -/

/-- Does a list of locations cover a whole granule? -/
def coversGranule (ls : List Nat) (g : Nat) : Bool := (List.range 32).all fun i => ls.contains (g * 32 + i)

/-- One byte written at a plain place: dropped where the granule is poison and not wholly written, or the row is retired
(R375, R376, R379). -/
def State.writeLoc (s : State) (whole : Bool) (l : Nat) (b : Byte) : State :=
  if s.isRetired l then s
  else if s.isPoison l && !whole then s
  else { s with mem := Memory.write s.mem l b }

/-- The offset in the block `(base, block)` of a byte of the view, none for other places. -/
def Place.inBlock (p : Place) (base block : Nat) : Option Nat :=
  match p with
  | .mx _ b off => if b = base ∧ off / 64 = block then some (off % 64) else none
  | _ => none

/-- A write of less than a granule is dropped at these locations: each granule receives the poison pattern and each is
recorded, as is a write to a retired row (R376, R379). -/
def State.dropWrites (s : State) (r : Req) (ls : List Nat) : State :=
  (ls.foldl (fun (acc : State × List Nat) l =>
    if acc.2.contains (granuleOf l) ∨ 2 ^ 39 ≤ l then acc
    else
      let g := granuleOf l
      let s := acc.1.memoryError r (if s.isRetired l then 6 else 2) l
      ({ s with poison := if s.isRetired l then s.poison else insertNat g s.poison
                pack := { s.pack with latent := s.pack.latent.filter fun x => x ≠ g } }, g :: acc.2)) (s, [])).1

/-- Bytes written at locations. A granule written whole replaces poison; a smaller write to poison is dropped and recorded
(R375, R376). -/
def State.writePlain (s : State) (r : Req) (cells : List (Nat × Byte)) : State :=
  if s.poison = [] ∧ s.pack.retired = [] ∧ s.pack.latent = [] then
    cells.foldl (fun (s : State) e => s.writeLoc false e.1 e.2) s
  else
    let ls := cells.map Prod.fst
    let touched := ls.filter s.isBad
    let wholeGs := (touched.map granuleOf).filter (coversGranule ls)
    let s' := cells.foldl (fun (s : State) e => s.writeLoc (wholeGs.contains (granuleOf e.1)) e.1 e.2) s
    let s' := { s' with poison := s'.poison.filter fun g => !wholeGs.contains g
                        pack := { s'.pack with latent := s'.pack.latent.filter fun g => !wholeGs.contains g } }
    s'.dropWrites r (touched.filter fun l => !wholeGs.contains (granuleOf l) || s.isRetired l)

/-- A write at the controller to tracked lines sends an invalidation to every sharer but the writing die (R370). -/
def State.invalidate (s : State) (r : Req) (ls : List Nat) : State :=
  if s.peers.isEmpty then s
  else
    let hit := s.peers.filter fun p => ls.any fun l => l / 128 == p.line
    { s with invals := s.invals ++ hit.flatMap fun p => (p.sharers.filter fun d => d.val ≠ r.ld.val).map fun d => ⟨p.line, d, r.g⟩ }

/-- Bytes written at their home channel controllers (R354, R370, R375, R376). -/
def State.writeHome (s : State) (r : Req) (cells : List (Nat × Byte)) : State :=
  (s.writePlain r cells).invalidate r (cells.map Prod.fst)

/-- Bytes that a unit writes at a physical address; those that the part has no location for are dropped (R357, R375, R376, log entry
109). -/
def State.physWrite (s : State) (ld : Fin 4) (pa : Nat) (bs : List Byte) : State :=
  s.writeHome (unitReq ld .store 0)
    (bs.zipIdx.filterMap fun (b, i) => (s.physical ld (pa + i)).map fun l => (l, b))

/-- The bytes written to one block of an MX-stored page, merged into its view, a byte of an element into the element's decoded value, and
re-encoded under the writing context's threshold and status; a context of another package keeps its own (R95 to R97, log entries 112, 129).
Less than the whole block is dropped where the block cannot be read (R374, R376). -/
def State.writeMxBlock (s : State) (r : Req) (pairs : List (Place × Byte)) (mxf base block : Nat) : State :=
  let mine := pairs.filterMap fun e => (e.1.inBlock base block).map fun o => (o, e.2)
  let old := (mxReadBlock s.mem mxf base block).flatMap (toBytes 2)
  let view := (List.range 64).map fun i =>
    ((mine.reverse.find? fun e => e.1 == i).map Prod.snd).getD (old.getD i 0)
  let whole := (List.range 64).all fun i => mine.any fun e => e.1 == i
  let bad := ((Place.mx mxf base (64 * block)).locs).filter s.isBad
  if !whole && !bad.isEmpty then s.dropWrites r bad
  else
    let c := s.ctx r.ld r.asn
    let (cells, uf, sat) := mxBlockBytes mxf (r.uft.getD c.uft).toNat base block view
    let s := s.writePlain r cells
    if r.foreign then s
    else s.setCtx r.ld r.asn { c with mfstat := c.mfstat ||| BitVec.ofNat 64 (bitNat uf + 2 * bitNat sat) }

/-- Bytes written in the view of MX-stored pages, one block at a time (R95). -/
def State.writeMx (s : State) (r : Req) (pairs : List (Place × Byte)) : State :=
  let blocks := pairs.filterMap fun e => match e.1 with
    | .mx mxf base off => some (mxf, base, off / 64)
    | _ => none
  blocks.eraseDups.foldl (fun s b => s.writeMxBlock r pairs b.1 b.2.1 b.2.2) s

/-- A line with a byte set. -/
def CacheLine.put (l : CacheLine) (va : Nat) (b : Byte) (dirty : Bool) : CacheLine :=
  { l with bytes := l.bytes.set (va % 128) b
           dirty := if dirty then l.dirty ||| BitVec.ofNat 128 (2 ^ (va % 128)) else l.dirty }

/-- Lines of a tag at some levels changed. -/
def State.mapLine (s : State) (t : Fin 4 × Asn × Nat) (p : CacheLevel → Bool) (f : CacheLine → CacheLine) : State :=
  { s with lines := s.lines.map fun l => if l.ld == t.1 && l.asn == t.2.1 && l.line == t.2.2 / 128 && p l.level then f l else l }

/-- The line is exported: its home holds it write-through and clean (R370). -/
def State.exported (s : State) (loc : Nat) : Bool := s.peers.any fun p => p.line == loc / 128

/-- The byte's write reaches memory: no home cache keeps it, or the line is exported (R105, R370). -/
def State.throughTo (s : State) (c : CacheRef) : Bool :=
  !c.pin && (s.exported c.loc || ((s.lineAt .l2 (c.ld, c.asn, c.va)).or (s.lineAt .basin (c.ld, c.asn, c.va))).isNone)

/-- A byte written in the caches that hold it (R105): the writer's own L1 takes a store and gives up the line of an atomic; an import
cache takes its own die's write; the home L2, or the basin cache without it, keeps the byte to write back, and the pinned store keeps
its own (R370, R373). -/
def State.writeHeld (s : State) (r : Req) (c : CacheRef) (b : Byte) : State :=
  let s : State := match r.core with
    | some k =>
      if r.kind = .atomic then { s with lines := s.lines.filter fun (l : CacheLine) => !(l.level == .l1 k && l.ld == c.tag.1 && l.asn == c.tag.2.1 &&
        l.line == c.tag.2.2 / 128) }
      else s.mapLine c.tag (fun (v : CacheLevel) => v == .l1 k) fun (l : CacheLine) => l.put c.va b false
    | none => s
  if c.pin then
    { s with pins := s.pins.map fun (p : Pin) =>
        if p.ld == c.ld && p.asn == c.asn && p.page == pageOf c.va then { p with bytes := p.bytes.set (c.va % 2 ^ 16) b } else p }
  else
    let home := (c.ld, c.asn, c.va)
    let low := fun (v : CacheLevel) => v == .l2 || v == .basin
    let s : State := if c.imp.isSome then s.mapLine c.tag low fun (l : CacheLine) => l.put c.va b false else s
    if s.exported c.loc then s.mapLine home low fun (l : CacheLine) => l.put c.va b false
    else if (s.lineAt .l2 home).isSome then s.mapLine home (fun (v : CacheLevel) => v == .l2) fun (l : CacheLine) => l.put c.va b true
    else s.mapLine home (fun (v : CacheLevel) => v == .basin) fun (l : CacheLine) => l.put c.va b true

/-- The pinned granules of some written places that hold poison and are not written whole: writes to them are dropped (R373, R376). -/
def State.lostPins (s : State) (pairs : List (Place × Byte)) : List CacheRef :=
  if s.pins.all fun p => p.poison.isEmpty then []
  else
    let bad := pairs.filterMap fun e => match e.1 with
      | .cached c => if s.pinPoison c then some c else none
      | _ => none
    bad.filter fun c => !coversGranule (bad.map CacheRef.va) (c.va / 32)

/-- The pinned granules of some written places hold data from now on (R375). -/
def State.healPins (s : State) (pairs : List (Place × Byte)) : State :=
  if s.pins.all fun p => p.poison.isEmpty then s
  else
    { s with pins := s.pins.map fun (p : Pin) => { p with poison := p.poison.filter fun g => !pairs.any fun e => match e.1 with
        | .cached c => c.pin && p.ld == c.ld && p.asn == c.asn && p.page == pageOf c.va && g == c.va % 2 ^ 16 / 32
        | _ => false } }

/-- Each granule of some dropped writes is recorded once (R376). -/
def State.recordDrops (s : State) (r : Req) (cs : List CacheRef) : State :=
  ((cs.map fun c => c.loc / 32).eraseDups).foldl (fun s g => s.memoryError r 2 (g * 32)) s

/-- The bytes that a write replaces are remembered, and what an unobserved engine operation wrote there is settled (R113, R127, R138,
R139). -/
def State.remember (s : State) (pairs : List (Place × Byte)) : State :=
  let cells := pairs.filterMap fun e => match e.1 with
    | .byte l => some (l, Memory.read s.mem l, e.2)
    | .cached c => some (c.loc, s.homeByte c, e.2)
    | _ => none
  { s with
    past := ((cells.filter fun e => e.2.1 != e.2.2).map fun e => ⟨s.fresh, e.1, e.2.1⟩) ++ s.past
    unseen := if s.unseen.isEmpty then [] else s.unseen.filter fun u => !cells.any fun e => e.1 == u.loc }

/-- Bytes sent to another package (R361, R422). -/
def State.sendRemote (s : State) (pairs : List (Place × Byte)) : State :=
  let out := pairs.filterMap fun e => match e.1 with
    | .remote token off => some (token, off, e.2)
    | _ => none
  if out.isEmpty then s else { s with pack := { s.pack with fabricOut := s.pack.fabricOut ++ out } }

/-- The places that a write reaches: those of pinned granules that it loses are not among them. -/
def State.reached (s : State) (pairs : List (Place × Byte)) : List (Place × Byte) :=
  match s.lostPins pairs with
  | [] => pairs
  | cs => pairs.filter fun e => match e.1 with
    | .cached c => !cs.contains c
    | _ => true

/-- Bytes written at places. -/
def State.writePlaces (s : State) (r : Req) (ps : List Place) (bs : List Byte) : State :=
  let all := ps.zip bs
  let pairs := s.reached all
  let s := (s.recordDrops r (s.lostPins all)).healPins pairs
  let plain := pairs.filterMap fun e => match e.1 with
    | .byte l => some (l, e.2)
    | .cached c => if s.throughTo c then some (c.loc, e.2) else none
    | _ => none
  let s := pairs.foldl (fun s e => match e.1 with
    | .cached c => s.writeHeld r c e.2
    | _ => s) (s.remember pairs)
  ((s.writeHome r plain).writeMx r pairs).sendRemote pairs

/-! ### Write-backs, acquires and releases of the caches (R105, R366, R370, R371, R424) -/

/-- The location to which a line is written back, as R360 translates it: by the entry that its controller keeps, or by a walk, which
translates retiring pages. A write-back is none of the accesses that cases 4 to 6 name. -/
def State.backTo (s : State) (l : CacheLine) : Except Nat Nat :=
  let va := l.line * 128
  let r : Req := { ld := l.ld, asn := l.asn, priv := .system, kind := .load }
  match (s.kept l.ld l.asn va).filter fun k => (s.leafRefuses r va k.leaf.toNat).isNone with
  | some k => .ok (s.locOf r va k.leaf.toNat)
  | none =>
    match walkFrom s l.ld true va (s.ctx l.ld l.asn).ptroot.toNat tableShifts with
    | .error e => .error e
    | .ok leaf => match s.leafRefuses r va leaf with
      | some e => .error e
      | none => .ok (s.locOf r va leaf)

/-- The record of a refused write-back (R360, R369). -/
def State.parkLine (s : State) (l : CacheLine) (why : Nat) : State :=
  let va := l.line * 128
  let s := { s with lines := { l with parked := true } :: s.lines }
  (s.meetTable l.ld l.asn va why).postFault l.ld
    { seq := none, type := 3, asn := l.asn, owner := .writeBack l.ld l.asn l.line, held := none
      dwords := faultDwords 3 Kind.xlate.code why l.asn (2 ^ 6 + 6) va 0 0 (l.ld.val * 2 ^ 30) 10 0 0 none s.pack.time
        (BitVec.ofNat 64 va) }

/-- A cache gives up a line: its dirty bytes go to the basin cache's copy, or else to memory, granule by granule; a write-back that
translation refuses is parked with its line (R105, R360, R366). -/
def State.evict (s : State) (l : CacheLine) : State :=
  let s := { s with lines := s.lines.filter fun x => x != l }
  if l.dirty = 0 ∨ l.imported then s
  else
    let t := (l.ld, l.asn, l.line * 128)
    let changed := (List.range 128).filter fun i => l.dirty.getLsbD i
    if l.level = .l2 ∧ (s.lineAt .basin t).isSome then
      s.mapLine t (fun v => v == .basin) fun b => changed.foldl (fun b i => b.put i (l.byteAt i) true) b
    else match s.backTo l with
      | .error why => s.parkLine l why
      | .ok loc =>
        let gs := (changed.map fun i => i / 32).eraseDups
        s.writeHome { unitReq l.ld .store 10 with asn := l.asn }
          (gs.flatMap fun g => (List.range 32).map fun i => (loc + g * 32 + i, l.byteAt (g * 32 + i)))

/-- Lines are written back and dropped, the L2 caches' before the basin cache's; an L1 line holds nothing to write back (R366). -/
def State.evictAll (s : State) (p : CacheLine → Bool) : State :=
  let drop := fun (s : State) (v : CacheLevel) => (s.lines.filter fun l => l.level == v && !l.parked && p l).foldl State.evict s
  let clean := fun (l : CacheLine) => l.dirty == 0 || !(l.level == .l2 || l.level == .basin)
  drop (drop { s with lines := s.lines.filter fun l => !(p l && clean l) } .l2) .basin

/-- A page is unpinned: its contents go back to its frame, poison as poison (R366, R373). -/
def State.unpin (s : State) (p : Pin) : State :=
  let r : Req := { unitReq p.ld .store 10 with asn := p.asn }
  let s := { s with pins := s.pins.filter fun x => !(x.ld == p.ld && x.asn == p.asn && x.page == p.page) }
  let at_ := fun (i : Nat) => s.locOf r (p.page * 2 ^ 16 + i) p.leaf
  let s1 := s.writeHome r (p.bytes.zipIdx.filterMap fun (b, i) => if p.poison.contains (i / 32) then none else some (at_ i, b))
  { s1 with poison := p.poison.foldl (fun l g => insertNat (granuleOf (at_ (32 * g))) l) s1.poison }

/-- The lines of a device's context leave every cache, and its pinned pages return to their frames. -/
def State.emptyCaches (s : State) (ld : Fin 4) (asn : Asn) : State :=
  let s := s.evictAll fun l => l.ld == ld && l.asn == asn
  (s.pins.filter fun p => p.ld == ld && p.asn == asn).foldl State.unpin s

/-- The copies of tracked lines in every importer's caches are dropped, and their entries given up (R366, R370, R418). -/
def State.dropPeers (s : State) (out : PeerLine → Bool) : State :=
  let gone := (s.peers.filter out).map PeerLine.line
  { s with
    peers := s.peers.filter fun p => !out p
    lines := s.lines.filter fun l => !(l.imported && gone.contains (l.loc / 128))
    invals := s.invals.filter fun i => !gone.contains i.line }

/-- An acquire of a group: its core's L1 keeps no line of its context, so that no later weak load of the group is served by a byte that
a write ordered before it has replaced (R105, R132). -/
def State.acquire (s : State) (g : GroupId) : State :=
  if s.lines.isEmpty then s
  else match s.group? g with
    | some grp => { s with lines := s.lines.filter fun l =>
        !(l.level == .l1 (coreOf g) && l.ld == deviceOfGroup g && l.asn == s.asnOf grp.launch) }
    | none => s

/-- A line of host memory. -/
def CacheLine.isHost (l : CacheLine) : Bool := decide (2 ^ 64 ≤ l.loc ∧ l.loc < 2 ^ 65)

/-- The release at system scope writes back the issuing die's dirty host lines (R424). -/
def State.releaseHost (s : State) (ld : Fin 4) : State := s.evictAll fun l => l.ld == ld && l.isHost && l.dirty != 0

/-- The acquire at system scope drops the host lines of the issuing die and of its device in the basin cache, once they are written
back (R424). -/
def State.acquireHost (s : State) (ld : Fin 4) : State := s.evictAll fun l => l.ld == ld && l.isHost

/-- Writes to exported or peer lines are not yet performed for other dies: a release at package or system scope waits for its issuer's own,
and for those that it may have observed (R131, R370, R371). -/
def State.unacknowledged (s : State) : Bool := !s.invals.isEmpty

/-- A line's copies in a sharer's cache are dropped, and the directory learns of it (R370). -/
def State.dropShared (s : State) (line : Nat) (d : Fin 5) : State :=
  let level : CacheLevel := if d = 4 then .basin else .l2
  let peers := s.peers.map fun (p : PeerLine) => if p.line = line then { p with sharers := p.sharers.filter fun x => x ≠ d } else p
  { s with
    lines := s.lines.filter fun l => !(l.imported && l.loc / 128 == line && l.level == level && (d == 4 || l.ld.val == d.val))
    peers := peers.filter fun p => !p.sharers.isEmpty
    invals := s.invals.filter fun i => !(i.line == line && i.sharer == d) }

/-- The copies that a die's L2 and the basin cache hold of lines under invalidation are dropped, and the invalidations acknowledged (R370,
R371). -/
def State.takeInvals (s : State) (ld : Fin 4) : State :=
  (s.invals.filter fun i => i.sharer.val == ld.val || i.sharer == 4).foldl (fun s i => s.dropShared i.line i.sharer) s

/-- What an access of a launch that starts on a cluster may find is no older than what happened before the launch: the L1s of its cores
keep no line of the context, and where the host or another launch may have written before it, the die keeps none of the host's lines and
none under invalidation (R127, R132, R144, R424). -/
def State.startAcquire (s : State) (l : Launch) (cl : ClusterId) : State :=
  let ld := deviceOf cl
  let asn := l.asn
  let s : State := { s with lines := s.lines.filter fun l => !(match l.level with
    | .l1 core => core / 4 == cl.val && l.ld == ld && l.asn == asn
    | _ => false) }
  if l.parent.isSome then s else (s.acquireHost ld).takeInvals ld

/-- A group has observed the completion of engine operations of its own: their writes precede whatever it does next (R139). -/
def State.observe (s : State) (g : GroupId) (p : Nat → Bool) : State :=
  ({ s with unseen := s.unseen.filter fun u => !(u.g == g && p u.op) }).acquire g

end Sys2Proof.Machine
end

