-- ==== Sys2Proof/Machine/Access.lean ====
section
/-! DEFINITION. Memory accesses of groups and Pilots: the checks made before an access (R101, R103, R224), the bytes, and
parking a refused access (R340, R369, R443). -/

namespace Sys2Proof.Machine

open Sys2Proof

/-- The trap that refuses a data access of `n` bytes at an address, if any (R101): BOUNDS past the 48-bit space or in the
berth window, PRIV in the system half at U. -/
def addrKind (p : Priv) (va n : Nat) : Option Kind :=
  let last := va + n - 1
  if 2 ^ 48 ≤ last then some .bounds
  else if berthBase ≤ last ∧ va < 2 ^ 47 then some .bounds
  else if p = .user ∧ 2 ^ 47 ≤ last then some .priv
  else none

/-- A local-store access of `n` bytes lies in an allocation of `size` bytes (R103, R224). -/
def localOk (size addr n : Nat) : Bool := decide (addr < 2 ^ 20 ∧ addr % 2 ^ 18 + n ≤ size)

/-- The location of a byte of a team's allocation (R103): bits [19:18] name the core. -/
def Team.localAt (t : Team) (addr : Nat) : Nat :=
  localLoc (t.cl.val * 4 + addr / 2 ^ 18 % 4) (t.lsBase + addr % 2 ^ 18)

/-- The places of `n` bytes of a team's allocation. -/
def Team.localPlaces (t : Team) (addr n : Nat) : List Place := (List.range n).map fun i => .byte (t.localAt (addr + i))

/-- The team of a group; a group always has one. -/
def State.teamOf (s : State) (grp : Group) : Team :=
  (s.team? grp.team).getD
    { id := 0, launch := 0, index := 0, cl := 0, released := true, start := 0, lsBase := 0, lsSize := 0, queues := [],
      members := [], retired := [], held := 0, spilled := [], homes := 0, backing := none, barriers := Vector.replicate 16 none }

/-- The underflow threshold under which a group's word writes: that of its issue, if it is replayed (R66). -/
def State.wordUft (s : State) (g : GroupId) (grp : Group) : Option Byte :=
  match s.cur with
  | some (.gang h slices) => if h = g then (grp.progressOf slices).uft else none
  | _ => none

/-- The size code of an access of so many bytes that has no sign (R148). -/
def codeOfBytes (n : Nat) : Nat := if n = 1 then 0 else if n = 2 then 2 else if n = 4 then 4 else if n = 8 then 5 else 6

/-- The size code of the memory accesses of a word (R148, R369): a stream's elements, and instruction words, have 32 bits. -/
def sizeCode : Instr → Nat
  | .ld o | .lds o | .ldi o => o.z.code
  | .st o | .sts o => o.z.code
  | .ldl o => o.z.code
  | .stl o => o.z.code
  | .atom64 _ | .sld _ | .sst _ | .slda _ | .sstr _ => 5
  | .satom o => if o.w64 then 5 else 4
  | .bxt _ | .gath _ | .mxmul _ | .nttFwd _ | .nttInv _ | .launch _ => 6
  | _ => 4

/-- The size code of the accesses of the word in execution. -/
def State.wordCode (s : State) : Nat :=
  match decodeWords s.fetched.word s.fetched.word2 with
  | .ok (i, _, _) => sizeCode i
  | .error _ => 4

/-- The word in execution of a group, as the record of its access names it (R369). -/
def State.groupMaker (s : State) (g : GroupId) (grp : Group) : Maker :=
  let slices := match s.cur with
    | some (.gang h slices) => if h = g then slices else 0
    | _ => 0
  ⟨agentOfGroup g slices, 0, (grp.lead slices).pc, s.fetched.word.toNat⟩

/-- An access that an engine makes (R369). -/
def Req.byEngine (r : Req) (code : Nat) : Req := { r with maker := r.maker.map fun m => { m with engine := code } }

/-- Who a group's accesses are translated for. -/
def State.groupReq (s : State) (g : GroupId) (grp : Group) (k : AccKind) : Req :=
  { uft := s.wordUft g grp, ld := deviceOfGroup g, asn := s.asnOf grp.launch, priv := grp.priv, kind := k, core := some (coreOf g).val,
    sidecar := s.fetched.sidecar, g := some g, code := s.wordCode, maker := some (s.groupMaker g grp) }

/-- A weak access of a group, which allocates in the caches unless it says otherwise (R105, R227). -/
def State.weakReq (s : State) (g : GroupId) (grp : Group) (k : AccKind) (allocate : Bool) : Req :=
  { s.groupReq g grp k with l1 := some allocate }

/-- The old bytes that a launch's instruction fetch still sees where its own store lands (R106). -/
def State.shadowStore (s : State) (launch : Nat) (ps : List Place) : State :=
  match s.launch? launch with
  | none => s
  | some l =>
    let sh := ps.foldl (fun (sh : List Host.Cell) p => match p with
      | .byte loc => if (getBy loc sh).isSome then sh else putBy loc (Memory.read s.mem loc) sh
      | .cached c => if (getBy c.loc sh).isSome then sh else putBy c.loc (s.homeByte c) sh
      | _ => sh) l.shadow
    s.setLaunch { l with shadow := sh }

/-- A store of a group to places of memory. -/
def State.groupStore (s : State) (r : Req) (launch : Nat) (ps : List Place) (bs : List Byte) : State :=
  (s.shadowStore launch ps).writePlaces r ps bs

/-- A group's access is refused: the slices wait, the progress is kept, and a record is posted, with the address of the lowest lane
that is not done (R339, R340, R369). -/
def State.parkGroup (s : State) (g : GroupId) (slices : BitVec 8) (engine : Nat) (k : AccKind) (code reason addr : Nat)
    (fmask dmask : LaneMask) (prog : Progress) : State :=
  match s.group? g with
  | none => s
  | some grp =>
    let asn := s.asnOf grp.launch
    let pc := (grp.lead slices).pc
    let grp := (grp.keepProgress slices { prog with
      left := if k = .atomic then prog.left else fmask, uft := some (prog.uft.getD (s.ctxOfGroup g grp).uft) }).setWait slices .parked s.fetched
    let d := faultDwords (if engine = 0 then 0 else 1) Kind.xlate.code reason asn (accessBits k code) addr fmask.toNat
      dmask.toNat (agentOfGroup g slices) engine pc s.fetched.word.toNat s.fetched.sidecar s.pack.time (BitVec.ofNat 64 addr)
    ((s.setGroup g grp).meetTable (deviceOfGroup g) asn addr reason).postFault (deviceOfGroup g)
      { seq := none, type := if engine = 0 then 0 else 1, asn := asn, owner := .group g slices, dwords := d, held := none }

/-- What kind of access a Pilot makes. -/
def PilotAct.kind : PilotAct → AccKind
  | .load _ => .load
  | .store _ => .store
  | .atomic .. => .atomic

/-- The size code of a uniform access (R148). -/
def PilotAct.code : PilotAct → Nat
  | .atomic _ false .. => 4
  | _ => 5

/-- The access acquires or releases: SLDA, SSTR, or an atomic (R126, R230). -/
def PilotAccess.strong (a : PilotAccess) : Bool :=
  match decodeWords a.word 0 with
  | .ok (.slda _, _, _) | .ok (.sstr _, _, _) | .ok (.satom _, _, _) => true
  | _ => false

/-- The bytes that an access touches. -/
def PilotAccess.size (a : PilotAccess) : Nat := if a.act.code = 4 then 4 else 8

/-- A Pilot's access is refused: it is kept with its word until it is answered (R340). -/
def State.parkPilot (s : State) (cl : ClusterId) (reason : Nat) (a : PilotAccess) : State :=
  let p := (s.cluster cl).pilot
  let asn := s.asnOf p.launch
  let d := faultDwords 2 Kind.xlate.code reason asn (accessBits a.act.kind a.act.code) a.addr.toNat 1 0 (agentOfCluster cl) 9 a.pc
    a.word.toNat none s.pack.time a.addr
  let kept := if p.accesses.any fun x => x.id == a.id then p.accesses.map fun x => if x.id == a.id then { a with state := .parked } else x
    else p.accesses ++ [{ a with state := .parked }]
  ((s.setPilot cl { p with accesses := kept }).meetTable (deviceOf cl) asn a.addr.toNat reason).postFault (deviceOf cl)
    { seq := none, type := 2, asn := asn, owner := .pilot cl a.id, dwords := d, held := none }

/-- The TVAL of a poisoned byte: the address of its 32-byte granule (R339, log entry 20). -/
def poisonVal (va : Nat) : DWord := BitVec.ofNat 64 (va / 32 * 32)

end Sys2Proof.Machine
end

