-- ==== Sys2Proof/Machine/Operands.lean ====
section
/-! DEFINITION. Operand forms: lane registers, spans and stream ports (R53 to R60, R236, R237), uniform registers and
queue ports (R40 to R43, R440, R441). -/

namespace Sys2Proof.Machine

open Sys2Proof

/-! ### Lane operands -/

/-- How a word names a lane operand. -/
structure VOp where
  r : Nat
  width : Nat
  write : Bool
  deriving DecidableEq, Repr

/-- A source operand of some registers. -/
def srcOp (r : Fin 64) (width : Nat := 1) : VOp := ⟨r.val, width, false⟩
/-- A destination operand. -/
def dstOp (r : Fin 64) (width : Nat := 1) : VOp := ⟨r.val, width, true⟩

/-- The stream that a register name delivers or takes while it is armed (R54). -/
def Group.streamOf (grp : Group) (r : Nat) : Option (Fin 8) :=
  if h : 40 ≤ r ∧ r < 48 then
    let k : Fin 8 := ⟨r - 40, by omega⟩
    if grp.sd[k].armed then some k else none
  else none

/-- The registers of an operand. -/
def VOp.names (o : VOp) : List Nat := (List.range o.width).map fun i => o.r + i

/-- Step 3 of R158 for one operand: aligned, within the allotment, and no read stream as a destination or write stream as
a source (R53, R150, R167, R237). -/
def Group.operandOk (grp : Group) (o : VOp) : Bool :=
  o.r % o.width == 0 &&
    o.names.all fun r => (decide (40 ≤ r) || decide (r < grp.allot)) &&
      match grp.streamOf r with
      | none => true
      | some k => grp.sd[k].dir == o.write

/-- Step 3 of R158 for the operands of a word. -/
def Group.operandsOk (grp : Group) (os : List VOp) : Bool := os.all grp.operandOk

/-- The places in the register file of an operand's registers, for the gang's loop depth (R38, R39). -/
def Group.placesOf (grp : Group) (slices : BitVec 8) (o : VOp) : List Nat :=
  o.names.map (vIndex (grp.lead slices).loops.length)

/-! ### Lookahead promises (R152) -/

/-- The word whose result is in flight and whose promise this use breaks. -/
def brokenPromise (inflight : List InFlight) (slices : BitVec 8) (vs : List Nat) (ss : List (Fin 64)) : Option InFlight :=
  inflight.find? fun f => f.openFor slices &&
    (vs.any (fun v => f.regs.any fun e => e.1 == v) || ss.any fun r => r != 0 && f.sreg.any fun e => e.1 == r)

/-- LACHK acts while no handler runs (R152, R335). -/
def Group.lachk (grp : Group) : Bool := maskHas grp.fctl 4 && !grp.trap.inh
/-- UCHK acts while no handler runs (R151, R335). -/
def Group.uchk (grp : Group) : Bool := maskHas grp.fctl 3 && !grp.trap.inh
/-- FCTL's enable bits act as 0 while a handler runs (R335). -/
def Group.enables (grp : Group) : BitVec 7 := if grp.trap.inh then 0 else BitVec.ofNat 7 (grp.fctl.toNat / 2 ^ 7)
/-- FCTL.FTZ (R65). -/
def Group.ftz (grp : Group) : Bool := maskHas grp.fctl 2
/-- FCTL.RM (R65). -/
def Group.rm (grp : Group) : Rm :=
  match grp.fctl.toNat % 4 with
  | 0 => .rne
  | 1 => .rtz
  | 2 => .rdn
  | _ => .rup

/-- The LAVIOL trap of a word that breaks a promise with LACHK = 1 (R152). -/
def checkPromise (s : State) (grp : Group) (slices : BitVec 8) (vs : List Nat) (ss : List (Fin 64)) : Except Stop Unit :=
  match brokenPromise grp.inflight slices vs ss with
  | some f => if grp.lachk then .error (.trap { kind := .laviol, val := f.pc.zeroExtend 64 } s) else .ok ()
  | none => .ok ()

/-- The lanes of a set of slices. -/
def gangLanes (slices : BitVec 8) : LaneMask := (maskList slices).foldl (fun m i => m ||| sliceLanes i 15) 0

/-- A source of a word is a result in flight to which no window of the gang is open (R153). -/
def awaited (inflight : List InFlight) (slices : BitVec 8) (vs : List Nat) (ss : List (Fin 64)) : Bool :=
  inflight.any fun f => !f.openFor slices &&
    (vs.any (fun v => f.writes v && f.lanesAt v &&& gangLanes slices != 0) || ss.any fun r => r != 0 && f.coming.any fun e => e.1 == r)

/-- A run break: the word reads a result beyond its window that has not arrived, and the run ends before it (R27, R153). -/
def checkArrived (s : State) (g : GroupId) (grp : Group) (slices : BitVec 8) (vs : List Nat) (ss : List (Fin 64)) : Except Stop Unit :=
  if awaited grp.inflight slices vs ss then .error (.wait (s.setGroup g (grp.setWait slices .result s.fetched))) else .ok ()

/-! ### Register poison (R70) -/

/-- The lanes of a place that hold poison. -/
def Group.poisonLanes (grp : Group) (i : Nat) : LaneMask :=
  grp.vpoison.foldl (fun m e => if e.1 = i then m ||| e.2 else m) 0

/-- The POISON trap of reading places in some lanes: the lanes, and the lowest register's number (R70, R202, R348). -/
def checkPoison (s : State) (grp : Group) (names : List (Nat × Nat)) (lanes : LaneMask) : Except Stop Unit :=
  let bad := names.filter fun e => grp.poisonLanes e.2 &&& lanes != 0
  match bad with
  | [] => .ok ()
  | e :: rest =>
    .error (.trap { kind := .poison, lanes := bad.foldl (fun m e => m ||| (grp.poisonLanes e.2 &&& lanes)) 0
                    val := BitVec.ofNat 64 (2 ^ 63 + rest.foldl (fun m e => min m e.1) e.1) } s)

/-! ### Streams (R236, R237) -/

/-- The product of a stream's extents: the elements of its walk. -/
def StreamDesc.count (d : StreamDesc) : Nat := d.extent.toList.foldl (fun t e => t * e.toNat) 1

/-- The vectors of a walk. -/
def StreamDesc.vectors (d : StreamDesc) : Nat := ceilDiv d.count 32

/-- The address of element `e` of a walk: dimension 0 is innermost. -/
def elementAddr (base : Int) : List (Word × Word) → Nat → Int
  | [], _ => base
  | (ext, stride) :: rest, e =>
    elementAddr (base + (e % ext.toNat : Nat) * signed 32 stride.toNat) rest (e / ext.toNat)

/-- The address of an element of a stream, as 64 bits. -/
def StreamDesc.addr (d : StreamDesc) (e : Nat) : Nat :=
  wrap 64 (elementAddr d.base.toNat (d.extent.toList.zip d.stride.toList) e)

/-- The elements of the next vector that stand in some lanes: lane and address (R237). -/
def StreamDesc.lanes (d : StreamDesc) (mask : LaneMask) : List (Nat × Nat) :=
  (maskList mask).filterMap fun l =>
    let e := 32 * d.done.toNat + l
    if e < d.count then some (l, d.addr e) else none

/-- The places of a stream element: global, or of the team's allocation when SPACE is 1. -/
def State.streamPlaces (s : State) (g : GroupId) (grp : Group) (d : StreamDesc) (k : AccKind) (addr : Nat) :
    Except Nat (State × List Place) :=
  if d.space then .ok (s, (s.teamOf grp).localPlaces addr 4)
  else s.places (({ s.weakReq g grp k true with code := 4 } : Req).byEngine 4) addr 4

/-- One pass over a stream's elements, reading: the state, the values, the lanes refused with the first reason and address,
and the lanes poisoned with the first address. -/
structure StreamRead where
  s : State
  vals : VReg
  refused : LaneMask
  reason : Nat
  at_ : Nat
  poison : LaneMask
  pat : Nat

/-- What a word has performed of a vector of a stream. -/
def Progress.part (p : Progress) (k : Fin 8) (vector : Word) : StreamPart :=
  (p.streams.find? fun x => x.stream == k && x.vector == vector).getD ⟨k, vector, 0, Vector.replicate 32 0⟩

/-- A word has performed some lanes of a vector of a stream (R145). -/
def Progress.setPart (p : Progress) (x : StreamPart) : Progress :=
  { p with streams := x :: p.streams.filter fun y => !(y.stream == x.stream && y.vector == x.vector) }

/-- The next vector of a read stream, with DONE advanced (R237), its elements as they stood at any time since the stream was armed
(R113); beyond the last vector it is a STREAM trap, a refusal
parks the group at the word (R443), and poison is a POISON trap. Lanes that the word has read are not read again (R145). -/
def readStream (s : State) (g : GroupId) (slices : BitVec 8) (k : Fin 8) : Except Stop (State × VReg) :=
  match s.group? g with
  | none => .error (.wait s)
  | some grp =>
    let d := grp.sd[k]
    if d.vectors ≤ d.done.toNat then .error (.trap { kind := .stream, val := BitVec.ofNat 64 k.val } s)
    else do
      let prog := grp.progressOf slices
      let part := prog.part k d.done
      let mask := lanesOf slices grp fun _ => 15
      let start : StreamRead := ⟨s, part.vals, 0, 0, 0, 0, 0⟩
      let r ← (d.lanes (mask &&& ~~~part.done)).foldlM (fun (r : StreamRead) e => do
        match r.s.streamPlaces g grp d .load e.2 with
        | .error reason => return { r with
            refused := r.refused ||| BitVec.ofNat 32 (2 ^ e.1)
            reason := if r.refused = 0 then reason else r.reason
            at_ := if r.refused = 0 then e.2 else r.at_ }
        | .ok (s, ps) =>
          let (bs, p) := s.readSince d.since 4 ps
          return { r with
            s := s
            vals := r.vals.setIfInBounds e.1 (BitVec.ofNat 32 (ofBytes bs))
            poison := if p.isSome then r.poison ||| BitVec.ofNat 32 (2 ^ e.1) else r.poison
            pat := if p.isSome ∧ r.poison = 0 then e.2 else r.pat }) start
      let got := prog.setPart { part with done := part.done ||| (mask &&& ~~~r.refused), vals := r.vals }
      if r.refused ≠ 0 then
        .error (.wait (r.s.parkGroup g slices 4 .load 4 r.reason r.at_ r.refused (part.done ||| (mask &&& ~~~r.refused)) got))
      else if r.poison ≠ 0 then .error (.trap { kind := .poison, lanes := r.poison, val := poisonVal r.pat } r.s)
      else
        return (r.s.setGroup g { grp.keepProgress slices got with sd := grp.sd.set k { d with done := d.done + 1 } }, r.vals)

/-- The streams that some operands name, in order (R237). -/
def Group.streamsOf (grp : Group) (os : List VOp) : List (Fin 8) := (os.flatMap VOp.names).filterMap grp.streamOf

/-- Of some namings of streams, the first that goes beyond its stream's last vector, when each takes one vector (R237). -/
def Group.pastEnd (grp : Group) (before : List (Fin 8)) : List (Fin 8) → Option (Fin 8)
  | [] => none
  | k :: rest => if grp.sd[k].vectors ≤ grp.sd[k].done.toNat + before.count k then some k else grp.pastEnd (k :: before) rest

/-- Every element that a word's namings of streams touch, in order: the stream, the lane and the address. A read takes every lane of
the gang, a write the lanes that act (R237). -/
def Group.elements (grp : Group) (gang acting : LaneMask) (before : List (Fin 8)) : List (Fin 8) → List (Fin 8 × Nat × Nat)
  | [] => []
  | k :: rest =>
    let d := grp.sd[k]
    (({ d with done := d.done + BitVec.ofNat 32 (before.count k) }.lanes (if d.dir then acting else gang)).map fun (e : Nat × Nat) => (k, e.1, e.2)) ++
      grp.elements gang acting (k :: before) rest

/-- The trap that refuses an element of a stream (R101, R103). -/
def Group.elementKind (grp : Group) (lsSize : Nat) (e : Fin 8 × Nat × Nat) : Option Kind :=
  if grp.sd[e.1].space then (if localOk lsSize e.2.2 4 then none else some .lsbound) else addrKind grp.priv e.2.2 4

/-- The trap of the elements of a word's streams that are refused with a kind. -/
def elementTrap (s : State) (grp : Group) (es : List (Fin 8 × Nat × Nat)) (k : Kind) : Except Stop Unit :=
  match es.filter fun e => grp.elementKind (s.teamOf grp).lsSize e == some k with
  | [] => .ok ()
  | e :: rest => .error (.trap { kind := k, lanes := maskOf 32 (e.2.1 :: rest.map fun x => x.2.1), val := BitVec.ofNat 64 e.2.2 } s)

/-- The traps of a word's streams, before any of them advances: STREAM for one named beyond its last vector, then BOUNDS, PRIV or
LSBOUND for an element (R101, R103, R237, R333). -/
def checkStreams (s : State) (grp : Group) (slices : BitVec 8) (os : List VOp) (acting : LaneMask) : Except Stop Unit :=
  match grp.pastEnd [] (grp.streamsOf os) with
  | some k => .error (.trap { kind := .stream, val := BitVec.ofNat 64 k.val } s)
  | none => do
    let es := grp.elements (lanesOf slices grp fun _ => 15) acting [] (grp.streamsOf os)
    elementTrap s grp es .bounds
    elementTrap s grp es .priv
    elementTrap s grp es .lsbound

/-- A source register's lanes: a stream's next vector, or the register (R54, R152). -/
def readLane (s : State) (g : GroupId) (slices : BitVec 8) (r : Nat) : Except Stop (State × VReg) :=
  match s.group? g with
  | none => .error (.wait s)
  | some grp =>
    match grp.streamOf r with
    | some k => readStream s g slices k
    | none => .ok (s, grp.readV s.fresh (vIndex (grp.lead slices).loops.length r))

/-- Source registers in order (R167, R237). -/
def readLanes (s : State) (g : GroupId) (slices : BitVec 8) : List Nat → Except Stop (State × List VReg)
  | [] => .ok (s, [])
  | r :: rest => do
    let (s, x) ← readLane s g slices r
    let (s, xs) ← readLanes s g slices rest
    return (s, x :: xs)

/-- The bytes of an access that no higher lane of its event has stored already: those are not stored again when a lower lane is
replayed (R121). -/
def freshBytes (as : List (Nat × Nat)) (done : LaneMask) (n : Nat) (e : Nat × Nat) : List Nat :=
  (List.range n).filter fun i =>
    !(as.any fun x => decide (e.1 < x.1) && maskHas done x.1 && decide (x.2 ≤ e.2 + i ∧ e.2 + i < x.2 + n))

/-- The stores that a word has made through its write streams of one space, by lane and address. -/
def Group.pushed (grp : Group) (prog : Progress) (space : Bool) : List (Nat × Nat) :=
  prog.streams.flatMap fun p =>
    let d := grp.sd[p.stream]
    if d.dir ∧ d.space = space then { d with done := p.vector }.lanes p.done else []

/-- A vector pushed to a write stream: the elements of some lanes are stored, and DONE advances (R237). Lanes that the word has
stored are not stored again (R145), and a byte that a higher lane of the word has stored, through whichever stream, stays (R121). -/
def pushStream (s : State) (g : GroupId) (slices : BitVec 8) (k : Fin 8) (lanes : LaneMask) (x : VReg) :
    Except Stop State :=
  match s.group? g with
  | none => .error (.wait s)
  | some grp =>
    let d := grp.sd[k]
    if d.vectors ≤ d.done.toNat then .error (.trap { kind := .stream, val := BitVec.ofNat 64 k.val } s)
    else do
      let prog := grp.progressOf slices
      let part := prog.part k d.done
      let (s', refused, reason, addr, done) ← (d.lanes lanes).foldlM
        (fun (acc : State × LaneMask × Nat × Nat × LaneMask) e => do
          let (s, refused, reason, addr, done) := acc
          if maskHas done e.1 then return acc
          match s.streamPlaces g grp d .store e.2 with
          | .error why =>
            return (s, refused ||| BitVec.ofNat 32 (2 ^ e.1), if refused = 0 then why else reason,
              if refused = 0 then e.2 else addr, done)
          | .ok (s, ps) =>
            let bs := toBytes 4 (x.getD e.1 0).toNat
            let is := (freshBytes (d.lanes lanes) done 4 e).filter (freshBytes (grp.pushed prog d.space) (BitVec.allOnes 32) 4 e).contains
            return (s.groupStore (({ s.groupReq g grp .store with code := 4 } : Req).byEngine 4) grp.launch (is.filterMap fun i => ps[i]?) (is.filterMap fun i => bs[i]?),
              refused, reason, addr, done ||| BitVec.ofNat 32 (2 ^ e.1))) (s, 0, 0, 0, part.done)
      let put := prog.setPart { part with done := done }
      if refused ≠ 0 then
        .error (.wait (s'.parkGroup g slices 4 .store 4 reason addr refused done put))
      else
        match s'.group? g with
        | none => return s'
        | some grp =>
          return s'.setGroup g { grp.keepProgress slices put with sd := grp.sd.set k { d with done := d.done + 1 } }

/-- A destination register's lanes written: pushed to a write stream, or written in the register (R54, R56, R59). -/
def writeLane (s : State) (g : GroupId) (slices : BitVec 8) (r : Nat) (lanes : LaneMask) (x : VReg) :
    Except Stop State :=
  match s.group? g with
  | none => .error (.wait s)
  | some grp =>
    match grp.streamOf r with
    | some k => pushStream s g slices k lanes x
    | none => .ok (s.setGroup g (grp.writeV (vIndex (grp.lead slices).loops.length r) lanes x))

/-- Destination registers in order. -/
def writeLanes (s : State) (g : GroupId) (slices : BitVec 8) (lanes : LaneMask) : List (Nat × VReg) → Except Stop State
  | [] => .ok s
  | (r, x) :: rest => do
    let s ← writeLane s g slices r lanes x
    writeLanes s g slices lanes rest

/-! ### Queue ports (R40 to R43, R65) -/

/-- The port that QMAP maps a register to, with its direction; none while a handler runs (R41, R335). -/
def Group.port (grp : Group) (r : Fin 64) : Option (Bool × Nat) :=
  if grp.trap.inh ∨ r.val < 56 then none
  else
    let b := bits grp.qmap.toNat (8 * (r.val - 56)) 8
    if bit b 7 then some (bit b 6, b % 32) else none

/-- The physical queue of a team-relative one (R40). -/
def State.queueOf (s : State) (grp : Group) (q : Nat) : Option (Fin 32) := (s.teamOf grp).queues[q]?

/-- The queue accesses of one word: the queues it pops, in order, and those it pushes (R42). -/
structure PortPlan where
  pops : List (Fin 32)
  pushes : List (Fin 32)
  deriving DecidableEq, Repr

/-- A register's port used in a direction, or the QPORT trap (R41). -/
def portUse (s : State) (grp : Group) (r : Fin 64) (push : Bool) : Except Stop (Option (Fin 32)) :=
  match grp.port r with
  | none => .ok none
  | some (dir, q) =>
    match s.queueOf grp q with
    | none => .error (.trap { kind := .qport, val := BitVec.ofNat 64 r.val } s)
    | some ph => if dir = push then .ok (some ph) else .error (.trap { kind := .qport, val := BitVec.ofNat 64 r.val } s)

/-- The ports of a word's source registers in order, and of its destinations. -/
def planPorts (s : State) (grp : Group) (srcs dsts : List (Fin 64)) : Except Stop PortPlan := do
  let pops ← srcs.mapM fun r => portUse s grp r false
  let pushes ← dsts.mapM fun r => portUse s grp r true
  return ⟨pops.filterMap id, pushes.filterMap id⟩

/-- The values at the head of a queue, as many as are filled without a gap (R441). -/
def HQueue.ready (q : HQueue) : List DWord := (q.entries.takeWhile fun e => e.2.isSome).filterMap Prod.snd

/-- A request may act on a queue in a direction: no older request of another gang waits there in that direction. Pushes are
ordered among pushes and pops among pops: a push overtakes no pop that waits for it (R40, R43, log entry 38). -/
def HQueue.first (q : HQueue) (g : GroupId) (slices : BitVec 8) (push : Bool) : Bool :=
  match q.waiters.find? fun w => w.push == push with
  | none => true
  | some w => w.of g slices

/-- Every pop and push of a plan can be made at once (R40, R42). -/
def Cluster.canServe (c : Cluster) (g : GroupId) (slices : BitVec 8) (p : PortPlan) : Bool :=
  (p.pops.all fun q => (c.queues[q]).first g slices false) && (p.pushes.all fun q => (c.queues[q]).first g slices true) &&
  (p.pops ++ p.pushes).all fun q =>
    let hq := c.queues[q]
    let pops := p.pops.count q
    decide (pops ≤ hq.ready.length) && decide (hq.entries.length - pops + p.pushes.count q ≤ 16)

/-- The values that a plan's pops deliver, in order: the entries read in place (R440). -/
def Cluster.peek (c : Cluster) (p : PortPlan) : List DWord :=
  (p.pops.foldl (fun (acc : List (Fin 32) × List DWord) q =>
    (q :: acc.1, acc.2 ++ [(c.queues[q].ready).getD (acc.1.count q) 0])) ([], [])).2

/-- A gang's request for some pops or pushes waits on a queue, in the place that an earlier request of its in that direction holds, if it
waits there already; one for none leaves (R43). -/
def HQueue.enqueue (q : HQueue) (w : QWaiter) : HQueue :=
  let mine := fun (x : QWaiter) => x.push == w.push && x.of w.g w.slices
  let others := fun (l : List QWaiter) => l.filter fun x => !mine x
  if w.count = 0 then { q with waiters := others q.waiters }
  else match q.waiters.findIdx? mine with
    | some i => { q with waiters := q.waiters.take i ++ w :: others (q.waiters.drop (i + 1)) }
    | none => { q with waiters := q.waiters ++ [w] }

/-- A queue of a cluster changed. -/
def Cluster.mapQueue (c : Cluster) (q : Fin 32) (f : HQueue → HQueue) : Cluster :=
  { c with queues := c.queues.set q (f c.queues[q]) }

/-- The gang stalls on its queues, keeping its place in each, and waits on no other (R40, R43). -/
def State.stallOn (s : State) (g : GroupId) (slices : BitVec 8) (p : PortPlan) : State :=
  let cl := clusterOf g
  let c := s.cluster cl
  let c : Cluster := { c with queues := Vector.ofFn fun (q : Fin 32) =>
    ((c.queues[q]).enqueue ⟨g, slices, false, p.pops.count q⟩).enqueue ⟨g, slices, true, p.pushes.count q⟩ }
  match s.group? g, p.pops ++ p.pushes with
  | some grp, q :: _ => (s.setCluster cl c).setGroup g (grp.setWait slices (.queue q) s.fetched)
  | _, _ => s

/-- The entries that a plan pops leave their queues, and the gang's requests with them (R42, R440); a pop is an acquire (R143). -/
def State.makePops (s : State) (g : GroupId) (slices : BitVec 8) (p : PortPlan) : State :=
  match p.pops ++ p.pushes with
  | [] => s
  | qs =>
    let cl := clusterOf g
    let c := p.pops.foldl (fun (c : Cluster) q => c.mapQueue q fun h => { h with entries := h.entries.drop 1 }) (s.cluster cl)
    let c := qs.foldl (fun (c : Cluster) q => c.mapQueue q (·.leave g slices)) c
    let s := s.setCluster cl c
    let s := if p.pops = [] then s else s.acquire g
    match s.group? g with
    | some grp => s.setGroup g (grp.pin slices)
    | none => s

/-- A value pushed at a queue's tail. -/
def HQueue.push (q : HQueue) (x : Option DWord) : HQueue :=
  { q with entries := q.entries ++ [(q.nextId, x)], nextId := q.nextId + 1 }

/-- A reserved entry released; the entries behind it move up (R441). -/
def HQueue.release (q : HQueue) (id : Nat) : HQueue := { q with entries := q.entries.filter fun e => e.1 ≠ id }

/-- A push made. -/
def State.pushQueue (s : State) (cl : ClusterId) (q : Fin 32) (x : Option DWord) : State :=
  s.setCluster cl ((s.cluster cl).mapQueue q (·.push x))

/-! ### Uniform operands, of a group or of a Pilot -/

/-- The condition field of a UR word names a true condition (R277). -/
def State.condHolds (s : State) : Bool :=
  match s.cur with
  | some (.gang g _) => (s.group? g).elim true fun grp => grp.u.cond s.issue.c
  | some (.pilot cl) => (s.cluster cl).pilot.u.cond s.issue.c
  | none => true

/-- The register that a Pilot's access writes. -/
def PilotAct.dest : PilotAct → Option (Fin 64)
  | .load sd => some sd
  | .store _ => none
  | .atomic _ _ _ _ sd => sd

/-- A Pilot's word waits for the access that its Pilot has parked (R340). -/
def State.awaitAccess (s : State) (cl : ClusterId) : State := s.setPilot cl { (s.cluster cl).pilot with wait := .parked }

/-- A word of a Pilot names a register that a parked access of its will write (R340). -/
def Pilot.awaits (p : Pilot) (rs : List (Fin 64)) : Bool :=
  p.accesses.any fun a => a.act.dest.any fun r => r != 0 && rs.contains r

/-- The values of a word's uniform sources, after POISON and QPORT (R277), the ports read in place; a word that cannot pop
and push waits (R42). `extra` are the word's own queue accesses. -/
def uniformSources (s : State) (srcs dsts : List (Fin 64)) (extra : PortPlan) : Except Stop (List DWord × PortPlan) :=
  match s.cur with
  | none => .error (.wait s)
  | some (.pilot cl) =>
    let p := (s.cluster cl).pilot
    if p.awaits (srcs ++ dsts) then .error (.wait (s.awaitAccess cl))
    else match srcs.find? fun r => p.spoison.contains r with
    | some r => .error (.trap { kind := .poison, val := BitVec.ofNat 64 (2 ^ 63 + r.val) } s)
    | none => .ok (srcs.map fun r => readSreg p.u p.inflight s.fresh r, ⟨[], []⟩)
  | some (.gang g slices) =>
    match s.group? g with
    | none => .error (.wait s)
    | some grp => do
      checkPromise s grp slices [] (srcs ++ dsts)
      checkArrived s g grp slices [] srcs
      match srcs.find? fun r => grp.spoison.contains r && (grp.port r).isNone with
      | some r => .error (.trap { kind := .poison, val := BitVec.ofNat 64 (2 ^ 63 + r.val) } s)
      | none =>
        let regs ← planPorts s grp srcs dsts
        let prog := grp.progressOf slices
        let plan : PortPlan := ⟨if prog.popped then [] else regs.pops ++ extra.pops, regs.pushes ++ extra.pushes⟩
        let c := s.cluster (clusterOf g)
        if c.canServe g slices plan then
          let (vals, _) := srcs.foldl (fun (acc : List DWord × List DWord) r =>
            if (grp.port r).isSome then (acc.1 ++ [acc.2.headD 0], acc.2.drop 1)
            else (acc.1 ++ [readSreg grp.u grp.inflight s.fresh r], acc.2)) ([], if prog.popped then prog.pops else c.peek plan)
          return (vals, plan)
        else .error (.wait (s.stallOn g slices plan))

/-- The values popped by a plan are removed, and kept as the word's own until it completes (R440). -/
def State.commitPops (s : State) (plan : PortPlan) : State :=
  match s.cur with
  | some (.gang g slices) =>
    match plan.pops with
    | [] => s.makePops g slices plan
    | _ =>
      let vals := (s.cluster (clusterOf g)).peek plan
      let s := s.makePops g slices plan
      match s.group? g with
      | some grp =>
        let prog := grp.progressOf slices
        s.setGroup g (grp.keepProgress slices { prog with pops := prog.pops ++ vals, popped := true })
      | none => s
  | _ => s

/-- A uniform destination written: pushed through its port, or the register (R41, R61). -/
def State.writeUniform (s : State) (r : Fin 64) (x : DWord) : State :=
  match s.cur with
  | some (.gang g slices) =>
    match s.group? g with
    | none => s
    | some grp =>
      match grp.port r with
      | some (_, q) =>
        match s.queueOf grp q with
        | some ph => (s.pushQueue (clusterOf g) ph (some x)).setGroup g (grp.pin slices)
        | none => s
      | none => s.setGroup g (grp.writeS r x)
  | some (.pilot cl) =>
    let p := (s.cluster cl).pilot
    s.setPilot cl { p with u := p.u.set r x, spoison := p.spoison.filter fun q => q ≠ r
                           inflight := p.inflight.map fun f => f.overtakenS r }
  | none => s

/-- A condition written (R62). -/
def State.writeCond (s : State) (k : Fin 8) (b : Bool) : State :=
  match s.cur with
  | some (.gang g _) =>
    match s.group? g with
    | some grp => s.setGroup g { grp with u := grp.u.setCond k b }
    | none => s
  | some (.pilot cl) =>
    let p := (s.cluster cl).pilot
    s.setPilot cl { p with u := p.u.setCond k b }
  | none => s

/-- A condition read. -/
def State.readCond (s : State) (k : Fin 8) : Bool :=
  match s.cur with
  | some (.gang g _) => (s.group? g).elim false fun grp => grp.u.cond k
  | some (.pilot cl) => (s.cluster cl).pilot.u.cond k
  | none => false

/-- A uniform register read as a port never is (a link, a stored value). -/
def State.readU (s : State) (r : Fin 64) : DWord :=
  match s.cur with
  | some (.gang g _) => (s.group? g).elim 0 fun grp => readSreg grp.u grp.inflight s.fresh r
  | some (.pilot cl) => let p := (s.cluster cl).pilot; readSreg p.u p.inflight s.fresh r
  | none => 0

end Sys2Proof.Machine
end

