-- ==== Sys2Proof/Machine/Flags.lean ====
section
/-! DEFINITION. Raising flags and taking flag traps (R67, R98, R99, R168, R203). -/

namespace Sys2Proof.Machine

open Sys2Proof

/-- The order in which a lane instruction reports enabled flags (R168). -/
def laneFlagOrder : List (BitVec 7 × Kind) :=
  [(flagIV, .iv), (flagDZ, .dz), (flagOF, .of), (flagUF, .uf), (flagSAT, .sat), (flagIX, .ix)]

/-- The order in which a wide instruction reports enabled flags (R203). -/
def wideFlagOrder : List (BitVec 7 × Kind) := [(flagIV, .iv), (flagDZ, .dz), (flagWOV, .wov)]

/-- The first flag of an order that was raised and is enabled. -/
def firstEnabled (order : List (BitVec 7 × Kind)) (raised enables : BitVec 7) : Option (BitVec 7 × Kind) :=
  order.find? fun e => raised &&& enables &&& e.1 != 0

/-- FLAGS with some bits set (R67). -/
def Group.raise (grp : Group) (fl : BitVec 7) : Group := { grp with flags := grp.flags ||| fl }

/-- The flags of the lanes given, together. -/
def unionFlags (lanes : LaneMask) (fl : Lanes (BitVec 7)) : BitVec 7 :=
  (List.finRange 32).foldl (fun acc (l : Fin 32) => if maskHas lanes l then acc ||| fl[l] else acc) 0

/-- The lanes among those given that raised a flag. -/
def lanesRaising (lanes : LaneMask) (fl : Lanes (BitVec 7)) (b : BitVec 7) : LaneMask :=
  maskOf 32 ((List.finRange 32).filterMap fun (l : Fin 32) => if maskHas lanes l && fl[l] &&& b != 0 then some l.val else none)

/-- Raises flags: every raised flag is set, and an enabled one traps on the state before the word, with nothing written
(R67, R99). -/
def raiseFlags (s0 s : State) (g : GroupId) (order : List (BitVec 7 × Kind)) (raised : BitVec 7)
    (lanes : BitVec 7 → LaneMask) : Except Stop State :=
  let set := fun (s : State) => match s.group? g with
    | some grp => s.setGroup g (grp.raise raised)
    | none => s
  let enables := (s.group? g).elim 0 Group.enables
  match firstEnabled order raised enables with
  | some (b, k) => .error (.trap { kind := k, lanes := lanes b } (set s0))
  | none => .ok (set s)

end Sys2Proof.Machine
end

