-- ==== Sys2Proof/Machine/Lane.lean ====
section
/-! DEFINITION. Lane instructions: the shared operation, then integer arithmetic, bits, comparison and modular
arithmetic (R166 to R178). -/

namespace Sys2Proof.Machine

open Sys2Proof

/-- The lowest lane of a mask, lane 0 of the empty mask. -/
def lowLane (m : LaneMask) : Fin 32 := ((List.finRange 32).find? fun (l : Fin 32) => maskHas m l).getD 0

/-- One lane of each register. -/
def column (xs : List VReg) (l : Fin 32) : List Word := xs.map fun x => x[l]

/-- An input by position. -/
def inp (x : List Word) (i : Nat) : Word := x.getD i 0

/-- A binary64 datum from an even pair of inputs (R167). -/
def inp64 (x : List Word) (i : Nat) : Nat := (inp x i).toNat + 2 ^ 32 * (inp x (i + 1)).toNat

/-- A binary64 datum as a register pair. -/
def pair64 (n : Nat) : List Word := [BitVec.ofNat 32 n, BitVec.ofNat 32 (n / 2 ^ 32)]

/-- The lanes in which an instruction with a guard acts (R166). -/
def Group.acting (grp : Group) (slices : BitVec 8) (guard : Fin 8) : LaneMask :=
  activeLanes slices grp &&& grp.pred guard

/-- The names and places of the source registers that are not streams. -/
def Group.ordinary (grp : Group) (slices : BitVec 8) (os : List VOp) : List (Nat × Nat) :=
  (os.flatMap VOp.names).filterMap fun r =>
    match grp.streamOf r with
    | some _ => none
    | none => some (r, vIndex (grp.lead slices).loops.length r)

/-- The checks before a lane instruction acts: operands, lookahead promises, results that it must wait for, poison, and streams
(R158, R152, R153, R168 steps 1 and 2, R237; the place of LAVIOL and STREAM: log entry 84). `reading` are the lanes it reads, `acting`
those in which it writes. -/
def laneChecks (s : State) (g : GroupId) (grp : Group) (slices : BitVec 8) (srcs dsts : List VOp) (reading acting : LaneMask) :
    Except Stop Unit := do
  require (grp.operandsOk (srcs ++ dsts)) s { kind := .illegal, reason := 3 }
  checkPromise s grp slices ((srcs ++ dsts).flatMap (grp.placesOf slices)) []
  checkArrived s g grp slices (srcs.flatMap (grp.placesOf slices)) []
  checkPoison s grp (grp.ordinary slices srcs) reading
  checkStreams s grp slices (srcs ++ dsts) acting

/-- The UNIF trap: U = 1, UCHK = 1 and sources that differ between active lanes (R151). It belongs to the whole instruction, so
that TMASK names no lane (R331, log entry 39). -/
def checkUnif (s : State) (grp : Group) (u : Bool) (active : LaneMask) (xs : List VReg) : Except Stop Unit :=
  let low := column xs (lowLane active)
  let differ := (List.finRange 32).any fun (l : Fin 32) => maskHas active l && column xs l != low
  if u && grp.uchk && differ then trapOf s .unif else .ok ()

/-- A function of each lane. -/
def lmap {α β : Type} (f : α → β) (x : Lanes α) : Lanes β := Vector.ofFn fun (l : Fin 32) => f x[l]

/-- What each lane computes: its own inputs, or with U = 1 those of the lowest active lane (R151). -/
def laneCompute {α : Type} (u : Bool) (active : LaneMask) (xs : List VReg) (f : List Word → α) : Lanes α :=
  if u then Vector.replicate 32 (f (column xs (lowLane active)))
  else Vector.ofFn fun (l : Fin 32) => f (column xs l)

/-- The lanes whose elements contribute (R98). -/
def contributing (u : Bool) (active : LaneMask) : LaneMask :=
  if u then (if active = 0 then 0 else BitVec.ofNat 32 (2 ^ (lowLane active).val)) else active

/-- The lanes to which a destination delivers a result: all of an ordinary register's, and of a write stream's those that have an
element (R98, R237). -/
def Group.delivered (grp : Group) (dst : VOp) : LaneMask :=
  match grp.streamsOf [dst] with
  | [] => BitVec.allOnes 32
  | ks => maskOf 32 ((grp.elements (BitVec.allOnes 32) (BitVec.allOnes 32) [] ks).map fun e => e.2.1)

/-- The lanes that may set flags: those that contribute and whose result is delivered; for a U instruction the lowest active lane,
when its result is delivered in any lane (R98). -/
def flagLanes (grp : Group) (u : Bool) (active : LaneMask) (dst : VOp) : LaneMask :=
  if u then (if active &&& grp.delivered dst = 0 then 0 else contributing u active) else active &&& grp.delivered dst

/-- A lane instruction with register destinations: `f` gives, from the lane's inputs, a word for each destination register
and the flags (R166 to R168). With U, poison in the source of any active lane traps (log entry 137). -/
def laneOp (s : State) (u : Bool) (guard : Fin 8) (srcs : List VOp) (dst : VOp)
    (f : Group → List Word → List Word × BitVec 7) : Host.Outcome State Fault Refusal :=
  onGang s fun g grp slices => do
    let active := grp.acting slices guard
    laneChecks s g grp slices srcs [dst] active active
    let (s1, xs) ← readLanes s g slices (srcs.flatMap VOp.names)
    checkUnif s grp u active xs
    let r := laneCompute u active xs (f grp)
    let on := flagLanes grp u active dst
    let fl := lmap Prod.snd r
    let s2 ← raiseFlags s s1 g laneFlagOrder (unionFlags on fl) (lanesRaising on fl)
    let s3 ← writeLanes s2 g slices active
      (dst.names.zipIdx.map fun (n, i) => (n, lmap (fun x => x.1.getD i 0) r))
    return s3.advance

/-- A lane instruction whose destination is a predicate (R166, R176). -/
def lanePredOp (s : State) (u : Bool) (guard k : Fin 8) (srcs : List VOp) (f : Group → List Word → Bool × BitVec 7) :
    Host.Outcome State Fault Refusal :=
  onGang s fun g grp slices => do
    let active := grp.acting slices guard
    laneChecks s g grp slices srcs [] active active
    let (s1, xs) ← readLanes s g slices (srcs.flatMap VOp.names)
    checkUnif s grp u active xs
    let r := laneCompute u active xs (f grp)
    let on := contributing u active
    let fl := lmap Prod.snd r
    let s2 ← raiseFlags s s1 g laneFlagOrder (unionFlags on fl) (lanesRaising on fl)
    let bitsOf := maskOfFn 32 fun l => if h : l < 32 then (r[l]).1 else false
    match s2.group? g with
    | some grp2 => return (s2.setGroup g (grp2.setPred k active bitsOf)).advance
    | none => return s2.advance

/-- Three lane registers, no flag. -/
def lane3 (o : LR3) (s : State) (f : Word → Word → Word) : Host.Outcome State Fault Refusal :=
  laneOp s o.u o.g [srcOp o.va, srcOp o.vb] (dstOp o.vd) fun _ x => ([f (inp x 0) (inp x 1)], 0)

/-- Three lane registers with the destination also read, no flag. -/
def lane3d (o : LR3) (s : State) (f : Group → Word → Word → Word → Word) : Host.Outcome State Fault Refusal :=
  laneOp s o.u o.g [srcOp o.va, srcOp o.vb, srcOp o.vd] (dstOp o.vd) fun grp x => ([f grp (inp x 0) (inp x 1) (inp x 2)], 0)

/-- Two lane registers, no flag. -/
def lane2 (o : LR2) (s : State) (f : Word → Word) : Host.Outcome State Fault Refusal :=
  laneOp s o.u o.g [srcOp o.va] (dstOp o.vd) fun _ x => ([f (inp x 0)], 0)

/-! ### Integer arithmetic (R170, R171) -/

/-- sat() to the i32 range (R74). -/
def satI32 (x : Int) : Word := BitVec.ofInt 32 (max (-2 ^ 31) (min (2 ^ 31 - 1) x))
/-- sat() to the n32 range (R74). -/
def satN32 (x : Int) : Word := BitVec.ofInt 32 (max 0 (min (2 ^ 32 - 1) x))

/-- IADD: a + b modulo 2^32 (R170). -/
def execIadd (o : LR3) (s : State) := lane3 o s fun a b => a + b
/-- IADD.sat.i32 (R170). -/
def execIaddSat (o : LR3) (s : State) := lane3 o s fun a b => satI32 (a.toInt + b.toInt)
/-- IADD.sat.n32 (R170). -/
def execIaddSatN32 (o : LR3) (s : State) := lane3 o s fun a b => satN32 (a.toNat + b.toNat)
/-- ISUB: a − b modulo 2^32 (R170). -/
def execIsub (o : LR3) (s : State) := lane3 o s fun a b => a - b
/-- ISUB.sat.i32 (R170). -/
def execIsubSat (o : LR3) (s : State) := lane3 o s fun a b => satI32 (a.toInt - b.toInt)
/-- ISUB.sat.n32: 0 when b > a (R170). -/
def execIsubSatN32 (o : LR3) (s : State) := lane3 o s fun a b => satN32 ((a.toNat : Int) - b.toNat)
/-- IMUL: the low 32 bits (R170). -/
def execImul (o : LR3) (s : State) := lane3 o s fun a b => a * b
/-- IMUL.hi.i32: bits [63:32] of the signed product (R170). -/
def execImulHi (o : LR3) (s : State) := lane3 o s fun a b => BitVec.ofInt 32 (a.toInt * b.toInt / 2 ^ 32)
/-- IMUL.hi.n32: bits [63:32] of the unsigned product (R170). -/
def execImulHiN32 (o : LR3) (s : State) := lane3 o s fun a b => BitVec.ofNat 32 (a.toNat * b.toNat / 2 ^ 32)
/-- IMAD: the low 32 bits of a × b + d (R170). -/
def execImad (o : LR3) (s : State) := lane3d o s fun _ a b d => a * b + d

/-- A division whose divisor may be zero: DZ, and the value R171 gives for it. -/
def laneDiv (o : LR3) (s : State) (zero : Word → Word) (f : Word → Word → Word) : Host.Outcome State Fault Refusal :=
  laneOp s o.u o.g [srcOp o.va, srcOp o.vb] (dstOp o.vd) fun _ x =>
    let a := inp x 0
    let b := inp x 1
    if b = 0 then ([zero a], flagDZ) else ([f a b], 0)

/-- IDIV.i32: the quotient rounded towards zero (R171). -/
def execIdivI32 (o : LR3) (s : State) := laneDiv o s (fun _ => 0xFFFFFFFF) fun a b => BitVec.ofInt 32 (a.toInt.tdiv b.toInt)
/-- IDIV.n32 (R171). -/
def execIdivN32 (o : LR3) (s : State) := laneDiv o s (fun _ => 0xFFFFFFFF) fun a b => a / b
/-- IREM.i32: the remainder takes the sign of a (R171). -/
def execIremI32 (o : LR3) (s : State) := laneDiv o s id fun a b => BitVec.ofInt 32 (a.toInt.tmod b.toInt)
/-- IREM.n32 (R171). -/
def execIremN32 (o : LR3) (s : State) := laneDiv o s id fun a b => a % b
/-- IMIN.i32 (R170). -/
def execIminI32 (o : LR3) (s : State) := lane3 o s fun a b => if a.toInt ≤ b.toInt then a else b
/-- IMIN.n32 (R170). -/
def execIminN32 (o : LR3) (s : State) := lane3 o s fun a b => if a.toNat ≤ b.toNat then a else b
/-- IMAX.i32 (R170). -/
def execImaxI32 (o : LR3) (s : State) := lane3 o s fun a b => if a.toInt ≤ b.toInt then b else a
/-- IMAX.n32 (R170). -/
def execImaxN32 (o : LR3) (s : State) := lane3 o s fun a b => if a.toNat ≤ b.toNat then b else a
/-- IADDI: a + sext(imm8) (R170). -/
def execIaddi (o : LImm) (s : State) : Host.Outcome State Fault Refusal :=
  laneOp s o.u o.g [srcOp o.va] (dstOp o.vd) fun _ x => ([inp x 0 + o.imm.signExtend 32], 0)
/-- IMOVI: sext(imm14); it reads no register (R170). -/
def execImovi (o : LMov) (s : State) : Host.Outcome State Fault Refusal :=
  laneOp s o.u o.g [] (dstOp o.vd) fun _ _ => ([o.imm.signExtend 32], 0)

/-! ### Bit operations (R172 to R175) -/

/-- AND (R172). -/
def execLand (o : LR3) (s : State) := lane3 o s fun a b => a &&& b
/-- OR (R172). -/
def execLor (o : LR3) (s : State) := lane3 o s fun a b => a ||| b
/-- XOR (R172). -/
def execLxor (o : LR3) (s : State) := lane3 o s fun a b => a ^^^ b
/-- ANDN: a AND NOT b (R172). -/
def execLandn (o : LR3) (s : State) := lane3 o s fun a b => a &&& ~~~b
/-- ISHL: 0 when the amount is 32 or more (R173). -/
def execIshl (o : LR3) (s : State) := lane3 o s fun a b => a <<< b.toNat
/-- ISHR (R173). -/
def execIshr (o : LR3) (s : State) := lane3 o s fun a b => a >>> b.toNat
/-- ISAR: copies of bit 31 (R173). -/
def execIsar (o : LR3) (s : State) := lane3 o s fun a b => a.sshiftRight b.toNat
/-- IROT: left by the amount mod 32 (R173). -/
def execIrot (o : LR3) (s : State) := lane3 o s fun a b => a.rotateLeft (b.toNat % 32)

/-- A shift by an immediate amount (R173). -/
def laneShift (o : LShift) (s : State) (f : Word → Nat → Word) : Host.Outcome State Fault Refusal :=
  laneOp s o.u o.g [srcOp o.va] (dstOp o.vd) fun _ x => ([f (inp x 0) o.amt.val], 0)
/-- ISHLI (R173). -/
def execIshli (o : LShift) (s : State) := laneShift o s fun a n => a <<< n
/-- ISHRI (R173). -/
def execIshri (o : LShift) (s : State) := laneShift o s fun a n => a >>> n
/-- ISARI (R173). -/
def execIsari (o : LShift) (s : State) := laneShift o s fun a n => a.sshiftRight n
/-- IROTI (R173). -/
def execIroti (o : LShift) (s : State) := laneShift o s fun a n => a.rotateLeft n

/-- The number of zero bits above the highest set bit of an `n`-bit value, `n` for 0. -/
def leadingZeros (n x : Nat) : Nat := if x = 0 then n else n - 1 - Nat.log2 x
/-- The number of zero bits below the lowest set bit of an `n`-bit value, `n` for 0. -/
def trailingZeros : Nat → Nat → Nat
  | 0, _ => 0
  | n + 1, x => if x % 2 = 1 then 0 else 1 + trailingZeros n (x / 2)

/-- POPC (R174). -/
def execPopc (o : LR2) (s : State) := lane2 o s fun a => BitVec.ofNat 32 (popCount 32 a.toNat)
/-- CLZ (R174). -/
def execClz (o : LR2) (s : State) := lane2 o s fun a => BitVec.ofNat 32 (leadingZeros 32 a.toNat)
/-- CTZ (R174). -/
def execCtz (o : LR2) (s : State) := lane2 o s fun a => BitVec.ofNat 32 (trailingZeros 32 a.toNat)
/-- BREV (R174). -/
def execBrev (o : LR2) (s : State) := lane2 o s fun a => a.reverse

/-- The position and width of a bit-field control (R175). -/
def bitField (b : Word) : Nat × Nat := let pos := bits b.toNat 0 5; (pos, min (bits b.toNat 8 6) (32 - pos))
/-- BFX.n32 (R175). -/
def execBfxN32 (o : LR3) (s : State) := lane3 o s fun a b =>
  BitVec.ofNat 32 (bits a.toNat (bitField b).1 (bitField b).2)
/-- BFX.i32: sign-extended from the field's top bit (R175). -/
def execBfxI32 (o : LR3) (s : State) := lane3 o s fun a b =>
  let (pos, w) := bitField b
  if w = 0 then 0 else BitVec.ofInt 32 (signed w (bits a.toNat pos w))
/-- BFI: the low bits of a replace a field of d (R175). -/
def execBfi (o : LR3) (s : State) := lane3d o s fun _ a b d =>
  let (pos, w) := bitField b
  let m := BitVec.ofNat 32 ((2 ^ w - 1) * 2 ^ pos)
  (d &&& ~~~m) ||| (a <<< pos &&& m)

/-! ### Compare and select (R155, R176, R177) -/

/-- The truth of a comparison of integers. -/
def cmpHolds (c : Cmp) (a b : Int) : Bool :=
  match c with
  | .eq => a == b
  | .ne => a != b
  | .lt => decide (a < b)
  | .le => decide (a ≤ b)
  | .gt => decide (b < a)
  | .ge => decide (b ≤ a)
  | .un => false

/-- A word that its code makes ill-formed is ILLEGAL at step 1 (R439). -/
def guardForm (ok : Bool) (s : State) (r : Host.Outcome State Fault Refusal) : Host.Outcome State Fault Refusal :=
  if ok then r else settle (illegal s 1)

/-- ICMP.i32 (R176). -/
def execIcmpI32 (o : LCmp) (s : State) : Host.Outcome State Fault Refusal :=
  guardForm (o.cc != .un) s <| lanePredOp s o.u o.g o.k [srcOp o.va, srcOp o.vb] fun _ x =>
    (cmpHolds o.cc (inp x 0).toInt (inp x 1).toInt, 0)
/-- ICMP.n32 (R176). -/
def execIcmpN32 (o : LCmp) (s : State) : Host.Outcome State Fault Refusal :=
  guardForm (o.cc != .un) s <| lanePredOp s o.u o.g o.k [srcOp o.va, srcOp o.vb] fun _ x =>
    (cmpHolds o.cc (inp x 0).toNat (inp x 1).toNat, 0)

/-- SEL: every active lane takes a where the guard is true and b elsewhere (R177). -/
def execSel (o : LR3) (s : State) : Host.Outcome State Fault Refusal :=
  onGang s fun g grp slices => do
    let active := grp.acting slices 0
    laneChecks s g grp slices [srcOp o.va, srcOp o.vb] [dstOp o.vd] active active
    let (s1, xs) ← readLanes s g slices [o.va.val, o.vb.val]
    let pick : List VReg := [Vector.ofFn fun (l : Fin 32) => if maskHas (grp.pred o.g) l then 1 else 0]
    checkUnif s grp o.u active (xs ++ pick)
    let r := laneCompute o.u active (xs ++ pick) fun x => if inp x 2 = 1 then inp x 0 else inp x 1
    let s2 ← writeLane s1 g slices o.vd active r
    return s2.advance

/-! ### Modular arithmetic (R178) -/

/-- ADDMOD (R178). -/
def execAddmod (o : LR3) (s : State) : Host.Outcome State Fault Refusal :=
  laneOp s o.u o.g [srcOp o.va, srcOp o.vb] (dstOp o.vd) fun grp x =>
    let n := grp.modn.toNat
    let t := (inp x 0).toNat + (inp x 1).toNat
    ([BitVec.ofNat 32 (if n ≤ t then t - n else t)], 0)
/-- SUBMOD (R178). -/
def execSubmod (o : LR3) (s : State) : Host.Outcome State Fault Refusal :=
  laneOp s o.u o.g [srcOp o.va, srcOp o.vb] (dstOp o.vd) fun grp x =>
    let t : Int := (inp x 0).toNat - (inp x 1).toNat
    ([BitVec.ofInt 32 (if t < 0 then t + grp.modn.toNat else t)], 0)
/-- MULMOD by Barrett's method with MODB (R178). -/
def execMulmod (o : LR3) (s : State) : Host.Outcome State Fault Refusal :=
  laneOp s o.u o.g [srcOp o.va, srcOp o.vb] (dstOp o.vd) fun grp x =>
    let n : Int := grp.modn.toNat
    let t := (inp x 0).toNat * (inp x 1).toNat
    let q : Nat := t * grp.modb.toNat / 2 ^ 64
    let r : Int := t - q * n
    let r := if n ≤ r then r - n else r
    let r := if n ≤ r then r - n else r
    ([BitVec.ofInt 32 r], 0)

end Sys2Proof.Machine
end

