-- ==== Sys2Proof/Machine/Real.lean ====
section
/-! DEFINITION. Roots, quotients, powers and logarithms to enough places for one correct rounding (R182; log entry 6). -/

namespace Sys2Proof.Machine

open Sys2Proof

/-- The integer square root, one bit at a time. -/
def isqrtFrom (n : Nat) : Nat → Nat → Nat
  | 0, r => r
  | k + 1, r => let t := r + 2 ^ k; isqrtFrom n k (if t * t ≤ n then t else r)

/-- The largest r with r × r ≤ n. -/
def isqrt (n : Nat) : Nat := isqrtFrom n (Nat.log2 n / 2 + 1) 0

/-- A positive value to be rounded: `mag × 2^exp`, and more below when `sticky`. -/
structure Approx where
  mag : Nat
  exp : Int
  sticky : Bool
  deriving DecidableEq, Repr

/-- 1 ÷ (mag × 2^exp) to more than 64 places beyond its first. -/
def recipApprox (mag : Nat) (exp : Int) : Approx :=
  let k := Nat.log2 mag + 130
  ⟨2 ^ k / mag, -(k : Int) - exp, 2 ^ k % mag != 0⟩

/-- A magnitude with its exponent made even. -/
def evenExp (mag : Nat) (exp : Int) : Nat × Int := if exp % 2 = 0 then (mag, exp) else (2 * mag, exp - 1)

/-- √(mag × 2^exp). -/
def sqrtApprox (mag : Nat) (exp : Int) : Approx :=
  let (m, e) := evenExp mag exp
  let m := m * 2 ^ 260
  let r := isqrt m
  ⟨r, e / 2 - 130, r * r != m⟩

/-- 1 ÷ √(mag × 2^exp). -/
def rsqrtApprox (mag : Nat) (exp : Int) : Approx :=
  let (m, e) := evenExp mag exp
  let k := Nat.log2 m + 130
  let r := isqrt (2 ^ (2 * k) / m)
  ⟨r, -(k : Int) - e / 2, r * r * m != 2 ^ (2 * k)⟩

/-- The places of the fixed-point series. -/
def seriesPlaces : Nat := 320

/-- Σ z^(2k+1) / (2k+1), the inverse hyperbolic tangent of a fixed-point z, over `n` terms. -/
def atanhSeries (z2 : Nat) : Nat → Nat → Nat → Nat
  | 0, _, _ => 0
  | n + 1, k, term => term / (2 * k + 1) + atanhSeries z2 n (k + 1) (term * z2 / 2 ^ seriesPlaces)

/-- ln of (num ÷ den), for 1 ≤ num ÷ den ≤ 2, in fixed point: 2 atanh((num − den) ÷ (num + den)). -/
def lnFixed (num den : Nat) : Nat :=
  let z := (num - den) * 2 ^ seriesPlaces / (num + den)
  2 * atanhSeries (z * z / 2 ^ seriesPlaces) 110 0 z

/-- ln 2 in fixed point. -/
def ln2Fixed : Nat := lnFixed 2 1

/-- Σ x^k / k! over `n` terms of a fixed-point x. -/
def expSeries (x : Nat) : Nat → Nat → Nat → Nat
  | 0, _, _ => 0
  | n + 1, k, term => term + expSeries x n (k + 1) (term * x / 2 ^ seriesPlaces / (k + 1))

/-- 2^(i + f ÷ 2^places): `f` the fixed-point fraction, not zero. -/
def exp2Approx (i : Int) (f : Nat) : Approx :=
  ⟨expSeries (f * ln2Fixed / 2 ^ seriesPlaces) 90 0 (2 ^ seriesPlaces), i - seriesPlaces, true⟩

/-- log2 of mag × 2^exp, not a power of two, as a sign and a magnitude. -/
def log2Approx (mag : Nat) (exp : Int) : Bool × Approx :=
  let l := Nat.log2 mag
  let frac : Int := (lnFixed mag (2 ^ l) * 2 ^ seriesPlaces / ln2Fixed : Nat)
  let v := (exp + l) * 2 ^ seriesPlaces + frac
  (decide (v < 0), ⟨v.natAbs, -(seriesPlaces : Int), true⟩)

end Sys2Proof.Machine
end

