-- ==== Sys2Proof/Machine/LaneFloat.lean ====
section
/-! DEFINITION. Lane binary32 and binary64 arithmetic, comparison and unary operations (R83, R84, R179 to R183). -/

namespace Sys2Proof.Machine

open Sys2Proof

/-- The value is a NaN. -/
def FVal.isNaN : FVal → Bool
  | .nan _ => true
  | _ => false
/-- The value is a signalling NaN. -/
def FVal.isSnan : FVal → Bool
  | .nan sig => sig
  | _ => false
/-- The sign of a value; of a NaN, false. -/
def FVal.neg? : FVal → Bool
  | .nan _ => false
  | .inf n => n
  | .fin n _ _ => n
/-- The value is a zero. -/
def FVal.isZero : FVal → Bool
  | .fin _ m _ => m == 0
  | _ => false
/-- The value is an infinity. -/
def FVal.isInf : FVal → Bool
  | .inf _ => true
  | _ => false
/-- A finite value as a dyadic number, 0 for others. -/
def FVal.dy : FVal → Dy
  | .fin n m e => dyOf n m e
  | _ => ⟨0, 0⟩
/-- The value with its sign inverted. -/
def FVal.negate : FVal → FVal
  | .nan s => .nan s
  | .inf n => .inf !n
  | .fin n m e => .fin (!n) m e

/-- IV for a signalling NaN among the operands (R83). -/
def snanFlag (vs : List FVal) : BitVec 7 := if vs.any FVal.isSnan then flagIV else 0

/-- The exact sum of two values rounded once (R179). -/
def fpAdd (f : Fmt) (rm : Rm) (ftz : Bool) (x y : FVal) : Nat × BitVec 7 :=
  if x.isNaN ∨ y.isNaN then (f.nan, snanFlag [x, y])
  else match x, y with
    | .inf a, .inf b => if a = b then (f.zero a + f.top, 0) else (f.nan, flagIV)
    | .inf a, _ => (f.zero a + f.top, 0)
    | _, .inf b => (f.zero b + f.top, 0)
    | x, y =>
      let zneg := if x.isZero && y.isZero && x.neg? == y.neg? then x.neg? else rm == .rdn
      f.roundDy rm ftz (x.dy.add y.dy) zneg

/-- The exact product of two values rounded once (R179). -/
def fpMul (f : Fmt) (rm : Rm) (ftz : Bool) (x y : FVal) : Nat × BitVec 7 :=
  let neg := x.neg? != y.neg?
  if x.isNaN ∨ y.isNaN then (f.nan, snanFlag [x, y])
  else if (x.isInf ∧ y.isZero) ∨ (x.isZero ∧ y.isInf) then (f.nan, flagIV)
  else if x.isInf ∨ y.isInf then (f.zero neg + f.top, 0)
  else f.roundDy rm ftz (x.dy.mul y.dy) neg

/-- The exact x × y + z rounded once (R179). -/
def fpFma (f : Fmt) (rm : Rm) (ftz : Bool) (x y z : FVal) : Nat × BitVec 7 :=
  let pneg := x.neg? != y.neg?
  let bad := (x.isInf && y.isZero) || (x.isZero && y.isInf)
  if bad then (f.nan, flagIV)
  else if x.isNaN ∨ y.isNaN ∨ z.isNaN then (f.nan, snanFlag [x, y, z])
  else if x.isInf ∨ y.isInf then (if z.isInf ∧ z.neg? ≠ pneg then (f.nan, flagIV) else (f.zero pneg + f.top, 0))
  else if z.isInf then (f.zero z.neg? + f.top, 0)
  else
    let p := x.dy.mul y.dy
    let zneg := if p.m = 0 ∧ z.isZero ∧ pneg = z.neg? then pneg else rm == .rdn
    f.roundDy rm ftz (p.add z.dy) zneg

/-- x × 2^k rounded once (R179, FSCL). -/
def fpScale (f : Fmt) (rm : Rm) (ftz : Bool) (x : FVal) (k : Int) : Nat × BitVec 7 :=
  match x with
  | .nan sig => (f.nan, if sig then flagIV else 0)
  | .inf n => (f.zero n + f.top, 0)
  | .fin n m e => f.round rm ftz n m (max (-4096) (min 4096 k) + e) false

/-- The order of two values, none when either is NaN; −0 equals +0 (R181). -/
def fpCompare (x y : FVal) : Option Ordering :=
  match x, y with
  | .nan _, _ => none
  | _, .nan _ => none
  | .inf a, .inf b => some (if a = b then .eq else if a then .lt else .gt)
  | .inf a, _ => some (if a then .lt else .gt)
  | _, .inf b => some (if b then .gt else .lt)
  | x, y =>
    let d := x.dy.add y.negate.dy
    some (if d.m < 0 then .lt else if d.m = 0 then .eq else .gt)

/-- The truth of a floating comparison (R181): .ne and .un are true and every other code false with a NaN. -/
def fpHolds (c : Cmp) (x y : FVal) : Bool :=
  match fpCompare x y with
  | none => c == .ne || c == .un
  | some o =>
    match c with
    | .eq => o == .eq
    | .ne => o != .eq
    | .lt => o == .lt
    | .le => o != .gt
    | .gt => o == .gt
    | .ge => o != .lt
    | .un => false

/-- FMIN and FMAX (R180): the datum of the lesser or greater, with −0 below +0. -/
def fpMinMax (f : Fmt) (ftz greater : Bool) (a b : Nat) : Nat × BitVec 7 :=
  let x := f.operand ftz a
  let y := f.operand ftz b
  let datum := fun (n : Nat) (v : FVal) => if v.isZero then f.zero v.neg? else n
  let fl := snanFlag [x, y]
  if x.isNaN then (if y.isNaN then f.nan else datum b y, fl)
  else if y.isNaN then (datum a x, fl)
  else
    let xLess := match fpCompare x y with
      | some .lt => true
      | some .gt => false
      | _ => x.neg?
    (if xLess != greater then datum a x else datum b y, fl)

/-- A root or reciprocal to be rounded. -/
def Approx.round (a : Approx) (f : Fmt) (rm : Rm) (ftz neg : Bool) : Nat × BitVec 7 := f.round rm ftz neg a.mag a.exp a.sticky

/-- FRCP (R182). -/
def fpRcp (f : Fmt) (rm : Rm) (ftz : Bool) : FVal → Nat × BitVec 7
  | .nan sig => (f.nan, if sig then flagIV else 0)
  | .inf n => (f.zero n, 0)
  | .fin n m e => if m = 0 then (f.zero n + f.top, flagDZ) else (recipApprox m e).round f rm ftz n

/-- FRSQ (R182). -/
def fpRsq (f : Fmt) (rm : Rm) (ftz : Bool) : FVal → Nat × BitVec 7
  | .nan sig => (f.nan, if sig then flagIV else 0)
  | .inf n => if n then (f.nan, flagIV) else (0, 0)
  | .fin n m e =>
    if m = 0 then (f.zero n + f.top, flagDZ) else if n then (f.nan, flagIV) else (rsqrtApprox m e).round f rm ftz false

/-- FSQRT (R182). -/
def fpSqrt (f : Fmt) (rm : Rm) (ftz : Bool) : FVal → Nat × BitVec 7
  | .nan sig => (f.nan, if sig then flagIV else 0)
  | .inf n => if n then (f.nan, flagIV) else (f.top, 0)
  | .fin n m e =>
    if m = 0 then (f.zero n, 0) else if n then (f.nan, flagIV) else (sqrtApprox m e).round f rm ftz false

/-- FEXP2 (R182). -/
def fpExp2 (f : Fmt) (rm : Rm) (ftz : Bool) : FVal → Nat × BitVec 7
  | .nan sig => (f.nan, if sig then flagIV else 0)
  | .inf n => if n then (0, 0) else (f.top, 0)
  | .fin n m e =>
    let d := dyOf n m e
    if 0 ≤ d.e then f.round rm ftz false 1 (max (-4096) (min 4096 (d.m * 2 ^ (min d.e 40).toNat))) false
    else
      let k := (-d.e).toNat
      let i := d.m / 2 ^ k
      let fr := (d.m % 2 ^ k).toNat
      let i' := max (-4096) (min 4096 i)
      if fr = 0 then f.round rm ftz false 1 i' false
      else (exp2Approx i' (fr * 2 ^ seriesPlaces / 2 ^ k)).round f rm ftz false

/-- FLOG2 (R182). -/
def fpLog2 (f : Fmt) (rm : Rm) (ftz : Bool) : FVal → Nat × BitVec 7
  | .nan sig => (f.nan, if sig then flagIV else 0)
  | .inf n => if n then (f.nan, flagIV) else (f.top, 0)
  | .fin n m e =>
    if m = 0 then (f.sign + f.top, flagDZ)
    else if n then (f.nan, flagIV)
    else if m = 2 ^ Nat.log2 m then f.roundDy rm ftz ⟨e + Nat.log2 m, 0⟩ false
    else let (neg, a) := log2Approx m e; a.round f rm ftz neg

/-- FRINT: integral by the mode, never IX (R182). -/
def fpRint (f : Fmt) (rm : Rm) (ftz : Bool) : FVal → Nat × BitVec 7
  | .nan sig => (f.nan, if sig then flagIV else 0)
  | .inf n => (f.zero n + f.top, 0)
  | .fin n m e =>
    let (i, _) := roundAt rm n m e false 0
    if i = 0 then (f.zero n, 0) else ((f.round rm ftz n i 0 false).1, 0)

/-- FCLASS (R182). -/
def fpClass (f : Fmt) (ftz : Bool) (x : Nat) : Nat :=
  match f.value x with
  | .nan sig => if sig then 2 ^ 8 else 2 ^ 9
  | .inf n => if n then 1 else 2 ^ 7
  | .fin n m _ =>
    if m = 0 ∨ (ftz ∧ f.subnormal x) then (if n then 2 ^ 3 else 2 ^ 4)
    else if f.subnormal x then (if n then 2 ^ 2 else 2 ^ 5)
    else if n then 2 ^ 1 else 2 ^ 6

/-- A binary32 result with its flags. -/
def out32 (r : Nat × BitVec 7) : List Word × BitVec 7 := ([BitVec.ofNat 32 r.1], r.2)
/-- A binary64 result with its flags. -/
def out64 (r : Nat × BitVec 7) : List Word × BitVec 7 := (pair64 r.1, r.2)
/-- A binary32 operand (R84). -/
def op32 (grp : Group) (x : Word) : FVal := Fmt.f32.operand grp.ftz x.toNat
/-- A binary64 operand (R84). -/
def op64 (grp : Group) (x : Nat) : FVal := Fmt.f64.operand grp.ftz x

/-- A binary32 instruction of two sources. -/
def float2 (o : LR3) (s : State) (f : Group → Word → Word → Nat × BitVec 7) : Host.Outcome State Fault Refusal :=
  laneOp s o.u o.g [srcOp o.va, srcOp o.vb] (dstOp o.vd) fun grp x => out32 (f grp (inp x 0) (inp x 1))

/-- A binary32 instruction of one source. -/
def float1 (o : LR2) (s : State) (f : Fmt → Rm → Bool → FVal → Nat × BitVec 7) : Host.Outcome State Fault Refusal :=
  laneOp s o.u o.g [srcOp o.va] (dstOp o.vd) fun grp x => out32 (f Fmt.f32 grp.rm grp.ftz (op32 grp (inp x 0)))

/-- FADD (R179). -/
def execFadd (o : LR3) (s : State) := float2 o s fun g a b => fpAdd Fmt.f32 g.rm g.ftz (op32 g a) (op32 g b)
/-- FSUB (R179). -/
def execFsub (o : LR3) (s : State) := float2 o s fun g a b => fpAdd Fmt.f32 g.rm g.ftz (op32 g a) (op32 g b).negate
/-- FMUL (R179). -/
def execFmul (o : LR3) (s : State) := float2 o s fun g a b => fpMul Fmt.f32 g.rm g.ftz (op32 g a) (op32 g b)
/-- FFMA: a × b + d (R179). -/
def execFfma (o : LR3) (s : State) : Host.Outcome State Fault Refusal :=
  laneOp s o.u o.g [srcOp o.va, srcOp o.vb, srcOp o.vd] (dstOp o.vd) fun g x =>
    out32 (fpFma Fmt.f32 g.rm g.ftz (op32 g (inp x 0)) (op32 g (inp x 1)) (op32 g (inp x 2)))
/-- FMIN (R180). -/
def execFmin (o : LR3) (s : State) := float2 o s fun g a b => fpMinMax Fmt.f32 g.ftz false a.toNat b.toNat
/-- FMAX (R180). -/
def execFmax (o : LR3) (s : State) := float2 o s fun g a b => fpMinMax Fmt.f32 g.ftz true a.toNat b.toNat
/-- FSCL: a × 2^b with b an i32 (R179). -/
def execFscl (o : LR3) (s : State) := float2 o s fun g a b => fpScale Fmt.f32 g.rm g.ftz (op32 g a) b.toInt
/-- FCMP: only a signalling NaN sets IV (R181). -/
def execFcmp (o : LCmp) (s : State) : Host.Outcome State Fault Refusal :=
  lanePredOp s o.u o.g o.k [srcOp o.va, srcOp o.vb] fun g x =>
    let a := op32 g (inp x 0)
    let b := op32 g (inp x 1)
    (fpHolds o.cc a b, snanFlag [a, b])

/-- FABS (R182). -/
def execFabs (o : LR2) (s : State) := float1 o s fun f _ _ v => match v with
  | .nan sig => (f.nan, if sig then flagIV else 0)
  | .inf _ => (f.top, 0)
  | .fin _ m e => f.round .rne false false m e false
/-- FNEG (R182). -/
def execFneg (o : LR2) (s : State) := float1 o s fun f _ _ v => match v with
  | .nan sig => (f.nan, if sig then flagIV else 0)
  | .inf n => (f.zero (!n) + f.top, 0)
  | .fin n m e => f.round .rne false (!n) m e false
/-- FRCP (R182). -/
def execFrcp (o : LR2) (s : State) := float1 o s fpRcp
/-- FRSQ (R182). -/
def execFrsq (o : LR2) (s : State) := float1 o s fpRsq
/-- FSQRT (R182). -/
def execFsqrt (o : LR2) (s : State) := float1 o s fpSqrt
/-- FEXP2 (R182). -/
def execFexp2 (o : LR2) (s : State) := float1 o s fpExp2
/-- FLOG2 (R182). -/
def execFlog2 (o : LR2) (s : State) := float1 o s fpLog2
/-- FCLASS: it sets no flag (R182). -/
def execFclass (o : LR2) (s : State) : Host.Outcome State Fault Refusal :=
  laneOp s o.u o.g [srcOp o.va] (dstOp o.vd) fun g x => ([BitVec.ofNat 32 (fpClass Fmt.f32 g.ftz (inp x 0).toNat)], 0)
/-- FRINT (R182). -/
def execFrint (o : LR2) (s : State) := float1 o s fpRint

/-- A binary64 instruction of two sources, all operands even pairs (R183). -/
def double2 (o : LR3) (s : State) (f : Group → FVal → FVal → Nat × BitVec 7) : Host.Outcome State Fault Refusal :=
  laneOp s o.u o.g [srcOp o.va 2, srcOp o.vb 2] (dstOp o.vd 2) fun g x =>
    out64 (f g (op64 g (inp64 x 0)) (op64 g (inp64 x 2)))
/-- DADD (R183). -/
def execDadd (o : LR3) (s : State) := double2 o s fun g a b => fpAdd Fmt.f64 g.rm g.ftz a b
/-- DSUB (R183). -/
def execDsub (o : LR3) (s : State) := double2 o s fun g a b => fpAdd Fmt.f64 g.rm g.ftz a b.negate
/-- DMUL (R183). -/
def execDmul (o : LR3) (s : State) := double2 o s fun g a b => fpMul Fmt.f64 g.rm g.ftz a b
/-- DFMA (R183). -/
def execDfma (o : LR3) (s : State) : Host.Outcome State Fault Refusal :=
  laneOp s o.u o.g [srcOp o.va 2, srcOp o.vb 2, srcOp o.vd 2] (dstOp o.vd 2) fun g x =>
    out64 (fpFma Fmt.f64 g.rm g.ftz (op64 g (inp64 x 0)) (op64 g (inp64 x 2)) (op64 g (inp64 x 4)))
/-- DCMP (R183). -/
def execDcmp (o : LCmp) (s : State) : Host.Outcome State Fault Refusal :=
  lanePredOp s o.u o.g o.k [srcOp o.va 2, srcOp o.vb 2] fun g x =>
    let a := op64 g (inp64 x 0)
    let b := op64 g (inp64 x 2)
    (fpHolds o.cc a b, snanFlag [a, b])

end Sys2Proof.Machine
end

