-- ==== Sys2Proof/Machine/Cross.lean ====
section
/-! DEFINITION. Cross-lane instructions and the predicate logic (R187 to R195). -/

namespace Sys2Proof.Machine

open Sys2Proof

/-- The GANG trap of a word issued by fewer than eight slices (R16). -/
def requireGang (s : State) (slices : BitVec 8) : Except Stop Unit := require (slices == 0xFF) s { kind := .gang }

/-- The lanes of a list of lane numbers. -/
def laneSet (ls : List Nat) : LaneMask := maskOf 32 ls

/-- One lane of a register by number. -/
def laneAt (x : VReg) (l : Nat) : Word := x.getD l 0

/-- A cross-lane instruction with lane destinations (R187): `need` gives the lanes read of the first source, the others
are read in active lanes; `f` gives the destination registers from the active lanes and the sources. -/
def crossOp (s : State) (guard : Fin 8) (srcs : List VOp) (dst : VOp) (need : Group → LaneMask → LaneMask)
    (f : LaneMask → List VReg → List VReg) : Host.Outcome State Fault Refusal :=
  onGang s fun g grp slices => do
    let active := grp.acting slices guard
    require (grp.operandsOk (srcs ++ [dst])) s { kind := .illegal, reason := 3 }
    requireGang s slices
    laneChecks s g grp slices srcs [dst] (need grp active) active
    let (s1, xs) ← readLanes s g slices (srcs.flatMap VOp.names)
    let s2 ← writeLanes s1 g slices active (dst.names.zip (f active xs))
    return s2.advance

/-- A reduction over active lanes: every active lane receives the combination (R187, R189). -/
def reduceOp (o : XR2) (s : State) (z : Word) (f : Word → Word → Word) : Host.Outcome State Fault Refusal :=
  crossOp s o.g [srcOp o.va] (dstOp o.vd) (fun _ a => a) fun active xs =>
    let x := xs.headD (Vector.replicate 32 0)
    [Vector.replicate 32 ((maskList active).foldl (fun acc l => f acc (laneAt x l)) z)]

/-- A scan: each active lane receives the combination of the active lanes below it, itself included unless `strict`
(R191). -/
def scanOp (o : XR2) (s : State) (z : Word) (strict : Bool) (f : Word → Word → Word) : Host.Outcome State Fault Refusal :=
  crossOp s o.g [srcOp o.va] (dstOp o.vd) (fun _ a => a) fun active xs =>
    let x := xs.headD (Vector.replicate 32 0)
    [Vector.ofFn fun (l : Fin 32) =>
      (maskList active).foldl (fun acc k => if k < l.val ∨ (k = l.val ∧ ¬ strict) then f acc (laneAt x k) else acc) z]

/-- The lesser as i32. -/
def minI (a b : Word) : Word := if b.toInt < a.toInt then b else a
/-- The greater as i32. -/
def maxI (a b : Word) : Word := if a.toInt < b.toInt then b else a
/-- The lesser as n32. -/
def minN (a b : Word) : Word := if b.toNat < a.toNat then b else a
/-- The greater as n32. -/
def maxN (a b : Word) : Word := if a.toNat < b.toNat then b else a

/-- The winner among the 32 candidates, with its lane: `better a b` says that value a wins over value b; a tie goes to an
active lane, then to the lower lane (R190). -/
def extreme (active : LaneMask) (x : VReg) (identity : Word) (better : Word → Word → Bool) : Word × Nat :=
  let offer := fun l => if maskHas active l then laneAt x l else identity
  let best := (List.range 32).foldl (fun b l =>
    if better (offer l) (offer b) then l
    else if offer l == offer b && maskHas active l && !maskHas active b then l
    else b) 0
  (offer best, best)

/-- MINX and MAXX: the extreme value in vd and its lane in vd+1 (R190). -/
def extremeOp (o : XR2) (s : State) (identity : Word) (better : Word → Word → Bool) : Host.Outcome State Fault Refusal :=
  crossOp s o.g [srcOp o.va] (dstOp o.vd 2) (fun _ a => a) fun active xs =>
    let (v, l) := extreme active (xs.headD (Vector.replicate 32 0)) identity better
    [Vector.replicate 32 v, Vector.replicate 32 (BitVec.ofNat 32 l)]

/-- SHFL: each active lane receives va of the lane that `src lane b` names (R188). -/
def shuffleOp (o : XR3) (s : State) (src : Nat → Nat → Nat) : Host.Outcome State Fault Refusal :=
  onGang s fun g grp slices => do
    let active := grp.acting slices o.g
    let srcs := [srcOp o.va, srcOp o.vb]
    require (grp.operandsOk (srcs ++ [dstOp o.vd])) s { kind := .illegal, reason := 3 }
    requireGang s slices
    laneChecks s g grp slices [srcOp o.vb] [dstOp o.vd] active active
    checkPromise s grp slices (grp.placesOf slices (srcOp o.va)) []
    checkArrived s g grp slices (grp.placesOf slices (srcOp o.va)) []
    checkStreams s grp slices (srcs ++ [dstOp o.vd]) active
    let from_ := fun (b : VReg) l => src l ((laneAt b l).toNat % 32)
    let (s1, xs) ← readLanes s g slices [o.va.val, o.vb.val]
    let a := xs.getD 0 (Vector.replicate 32 0)
    let b := xs.getD 1 (Vector.replicate 32 0)
    checkPoison s grp (grp.ordinary slices [srcOp o.va]) (laneSet ((maskList active).map (from_ b)))
    let s2 ← writeLanes s1 g slices active [(o.vd.val, Vector.ofFn fun (l : Fin 32) => laneAt a (from_ b l.val))]
    return s2.advance

/-- SHFL.idx: lane s (R188). -/
def execShflIdx (o : XR3) (s : State) := shuffleOp o s fun _ i => i
/-- SHFL.up: lane l − s, or lane l itself (R188). -/
def execShflUp (o : XR3) (s : State) := shuffleOp o s fun l i => if i ≤ l then l - i else l
/-- SHFL.down: lane l + s, or lane l itself (R188). -/
def execShflDown (o : XR3) (s : State) := shuffleOp o s fun l i => if l + i < 32 then l + i else l
/-- SHFL.xor: lane l XOR s (R188). -/
def execShflXor (o : XR3) (s : State) := shuffleOp o s fun l i => l ^^^ i

/-- REDADD (R189). -/
def execRedadd (o : XR2) (s : State) := reduceOp o s 0 fun a b => a + b
/-- REDMIN: as i32 (R189). -/
def execRedmin (o : XR2) (s : State) := reduceOp o s 0x7FFFFFFF minI
/-- REDMAX: as i32 (R189). -/
def execRedmax (o : XR2) (s : State) := reduceOp o s 0x80000000 maxI
/-- REDMINN: as n32 (R189). -/
def execRedminn (o : XR2) (s : State) := reduceOp o s 0xFFFFFFFF minN
/-- MINX.i32 (R190). -/
def execMinxI32 (o : XR2) (s : State) := extremeOp o s 0x7FFFFFFF fun a b => decide (a.toInt < b.toInt)
/-- MINX.n32 (R190). -/
def execMinxN32 (o : XR2) (s : State) := extremeOp o s 0xFFFFFFFF fun a b => decide (a.toNat < b.toNat)
/-- MAXX.i32 (R190). -/
def execMaxxI32 (o : XR2) (s : State) := extremeOp o s 0x80000000 fun a b => decide (b.toInt < a.toInt)
/-- MAXX.n32 (R190). -/
def execMaxxN32 (o : XR2) (s : State) := extremeOp o s 0 fun a b => decide (b.toNat < a.toNat)
/-- SCAN.add: active k ≤ l (R191). -/
def execScanAdd (o : XR2) (s : State) := scanOp o s 0 false fun a b => a + b
/-- SCAN.xadd: active k < l (R191). -/
def execScanXadd (o : XR2) (s : State) := scanOp o s 0 true fun a b => a + b
/-- SCAN.max: as i32 (R191). -/
def execScanMax (o : XR2) (s : State) := scanOp o s 0x80000000 false maxI
/-- SCAN.min: as i32 (R191). -/
def execScanMin (o : XR2) (s : State) := scanOp o s 0x7FFFFFFF false minI

/-- VOTE.ballot: the active lanes in which pk is true, in every active lane (R192). -/
def execVoteBallot (o : XBallot) (s : State) : Host.Outcome State Fault Refusal :=
  onGang s fun g grp slices => do
    let active := grp.acting slices o.g
    require (grp.operandsOk [dstOp o.vd]) s { kind := .illegal, reason := 3 }
    requireGang s slices
    laneChecks s g grp slices [] [dstOp o.vd] active active
    let s1 ← writeLanes s g slices active [(o.vd.val, Vector.replicate 32 (active &&& grp.pred o.k))]
    return s1.advance

/-- VOTE.any and VOTE.all: the predicate written in every active lane (R192). -/
def votePred (o : XVote) (s : State) (f : LaneMask → LaneMask → Bool) : Host.Outcome State Fault Refusal :=
  onGang s fun g grp slices => do
    requireGang s slices
    let active := grp.acting slices o.g
    let b := f active (active &&& grp.pred o.k)
    return (s.setGroup g (grp.setPred o.j active (if b then BitVec.allOnes 32 else 0))).advance

/-- VOTE.any (R192). -/
def execVoteAny (o : XVote) (s : State) := votePred o s fun _ t => t != 0
/-- VOTE.all (R192). -/
def execVoteAll (o : XVote) (s : State) := votePred o s fun a t => a == t

/-- BCAST: the low word of a uniform register in every active lane (R193); with no active lane it uses no port (R187,
R440). -/
def execBcast (o : XBcast) (s : State) : Host.Outcome State Fault Refusal :=
  onGang s fun g grp slices => do
    let active := grp.acting slices o.g
    require (grp.operandsOk [dstOp o.vd]) s { kind := .illegal, reason := 3 }
    requireGang s slices
    laneChecks s g grp slices [] [dstOp o.vd] active active
    if active = 0 then
      let s1 ← writeLanes s g slices active [(o.vd.val, Vector.replicate 32 0)]
      return s1.advance
    else
      let (vals, plan) ← uniformSources s [o.s] [] ⟨[], []⟩
      let s1 ← writeLanes (s.commitPops plan) g slices active
        [(o.vd.val, Vector.replicate 32 (BitVec.ofNat 32 (vals.headD 0).toNat))]
      return s1.advance

/-- VGET: one lane's word, zero-extended, into a uniform register (R193). A lane n that is not active is read all the same;
with no active lane nothing is written and no port is used (R187, R440). -/
def execVget (o : XGet) (s : State) : Host.Outcome State Fault Refusal :=
  onGang s fun g grp slices => do
    let active := grp.acting slices o.g
    require (grp.operandsOk [srcOp o.va]) s { kind := .illegal, reason := 3 }
    requireGang s slices
    laneChecks s g grp slices [srcOp o.va] [] (if active = 0 then 0 else laneSet [o.n.val]) active
    if active = 0 then return (← readLanes s g slices [o.va.val]).1.advance
    else
      let (_, plan) ← uniformSources s [] [o.s] ⟨[], []⟩
      let (s1, xs) ← readLanes s g slices [o.va.val]
      let x := laneAt (xs.headD (Vector.replicate 32 0)) o.n.val
      return ((s1.commitPops plan).writeUniform o.s (x.zeroExtend 64)).advance

/-- LIDX: each active lane's index; any gang may issue it (R193). -/
def execLidx (o : X1) (s : State) : Host.Outcome State Fault Refusal :=
  onGang s fun g grp slices => do
    let active := grp.acting slices o.g
    laneChecks s g grp slices [] [dstOp o.vd] active active
    let s1 ← writeLanes s g slices active [(o.vd.val, Vector.ofFn fun (l : Fin 32) => BitVec.ofNat 32 l.val)]
    return s1.advance

/-- Predicate logic in each active lane, by any gang (R194). -/
def predLogic (o : XPred) (s : State) (f : LaneMask → LaneMask → LaneMask) : Host.Outcome State Fault Refusal :=
  onGang s fun g grp slices =>
    .ok (s.setGroup g (grp.setPred o.pd (grp.acting slices o.g) (f (grp.pred o.pa) (grp.pred o.pb)))).advance

/-- PAND (R194). -/
def execPand (o : XPred) (s : State) := predLogic o s fun a b => a &&& b
/-- POR (R194). -/
def execPor (o : XPred) (s : State) := predLogic o s fun a b => a ||| b
/-- PXOR (R194). -/
def execPxor (o : XPred) (s : State) := predLogic o s fun a b => a ^^^ b
/-- PANDN: pa and not pb (R194). -/
def execPandn (o : XPred) (s : State) := predLogic o s fun a b => a &&& ~~~b

/-- VTRP: bit j of vd in lane i is bit i of va in lane j; va is read in all 32 lanes (R195). -/
def execVtrp (o : XR2) (s : State) : Host.Outcome State Fault Refusal :=
  crossOp s o.g [srcOp o.va] (dstOp o.vd) (fun _ a => if a = 0 then 0 else BitVec.allOnes 32) fun _ xs =>
    let x := xs.headD (Vector.replicate 32 0)
    [Vector.ofFn fun (i : Fin 32) => maskOfFn 32 fun j => maskHas (laneAt x j) i.val]

end Sys2Proof.Machine
end

