-- ==== Sys2Proof/Machine/Wide.lean ====
section
/-! DEFINITION. Wide-number instructions: spans, canonical form and tags (R57 to R60, R75 to R77, R196 to R199), the short
instructions (R205 to R215), the sequenced ones at their issue and at their completion (R200, R201, R211, R216 to R221). -/

namespace Sys2Proof.Machine

open Sys2Proof

/-- The registers of a span code (R150). -/
def spanLen : Span → Nat
  | .w1 => 1
  | .w2 => 2
  | .w4 => 4

/-! ### Values -/

/-- The 32 limbs of a register as one number. -/
def regNat (x : VReg) : Nat := (List.finRange 32).foldr (fun (l : Fin 32) acc => x[l].toNat + 2 ^ 32 * acc) 0

/-- The limbs of registers as one number, the first register lowest (R75). -/
def regsNat (xs : List VReg) : Nat := xs.foldr (fun x acc => regNat x + 2 ^ 1024 * acc) 0

/-- The limbs of a number as `n` registers. -/
def natRegs (n x : Nat) : List VReg :=
  (List.range n).map fun i => Vector.ofFn fun (l : Fin 32) => BitVec.ofNat 32 (x / 2 ^ (1024 * i + 32 * l.val))

/-- The value of a span from its tag and its limbs (R75, R197). -/
def wideValue (tag n x : Nat) : Int := if 1 ≤ tag ∧ tag ≤ 32 * n then signed (32 * tag) x else signed (1024 * n) x

/-- The extent of a value (R76). -/
def extent (x : Int) : Nat :=
  let m := if x < 0 then (-x - 1).toNat else x.toNat
  (if m = 0 then 0 else Nat.log2 m + 1) / 32 + 1

/-- A value as a span of `n` registers represents it (R77). -/
def truncWide (n : Nat) (x : Int) : Int := signed (1024 * n) (wrap (1024 * n) x)

/-- The pattern of a value in a span of `n` registers (R197). -/
def pattern (n : Nat) (x : Int) : Nat := wrap (1024 * n) x

/-! ### Operands -/

/-- A wide source: its first register, its halves (2 for a rational) and the registers of a half. -/
structure WSrc where
  r : Fin 64
  halves : Nat
  n : Nat
  deriving DecidableEq, Repr

/-- A wide operand as it is aligned. -/
def WSrc.op (w : WSrc) (write : Bool) : VOp := ⟨w.r.val, w.halves * w.n, write⟩

/-- Step 3 of R158 for a wide operand: aligned, within the allotment, and either no armed stream or armed streams of one
direction throughout (R60). -/
def Group.wideOk (grp : Group) (o : VOp) : Bool :=
  o.r % o.width == 0 && decide (o.r + o.width ≤ 64) &&
    o.names.all (fun r => decide (40 ≤ r) || decide (r < grp.allot)) &&
    (o.names.all (fun r => (grp.streamOf r).isNone) ||
      o.names.all fun r => match grp.streamOf r, grp.streamOf o.r with
        | some k, some j => grp.sd[k].dir == grp.sd[j].dir
        | _, _ => false)

/-- The operand is a span of armed streams. -/
def Group.armedSpan (grp : Group) (o : VOp) : Bool := (grp.streamOf o.r).isSome

/-- A span of armed streams of the wrong direction (R198). -/
def Group.wrongWay (grp : Group) (o : VOp) : Bool :=
  match grp.streamOf o.r with
  | some k => grp.sd[k].dir != o.write
  | none => false

/-- The checks of a wide word before it acts (R203 steps 1 to 3; the place of LAVIOL: log entry 84); `both` are the spans it reads
and writes. -/
def wideChecks (s : State) (g : GroupId) (grp : Group) (slices : BitVec 8) (srcs dsts both : List VOp) : Except Stop Unit := do
  require ((srcs ++ dsts ++ both).all grp.wideOk) s { kind := .illegal, reason := 3 }
  requireGang s slices
  require (!(srcs ++ dsts).any grp.wrongWay && !both.any grp.armedSpan) s { kind := .illegal, reason := 6 }
  checkPromise s grp slices ((srcs ++ dsts ++ both).flatMap (grp.placesOf slices)) []
  checkArrived s g grp slices ((srcs ++ both).flatMap (grp.placesOf slices)) []
  checkPoison s grp (grp.ordinary slices (srcs ++ both)) (BitVec.allOnes 32)
  checkStreams s grp slices (srcs ++ dsts) (BitVec.allOnes 32)

/-- A span read: raw from armed streams, else by its tag (R197). -/
def readSpan (s : State) (g : GroupId) (slices : BitVec 8) (r n : Nat) : Except Stop (State × Int) := do
  let (s1, xs) ← readLanes s g slices ((List.range n).map fun i => r + i)
  let x := regsNat xs
  match s.group? g with
  | none => return (s1, 0)
  | some grp =>
    let tag := (grp.tags.getD (vIndex (grp.lead slices).loops.length r) 0).toNat
    return (s1, wideValue (if (grp.streamOf r).isSome then 0 else tag) n x)

/-- Wide sources read in order, each half a value (R167). -/
def readWide (s : State) (g : GroupId) (slices : BitVec 8) : List (Nat × Nat) → Except Stop (State × List Int)
  | [] => .ok (s, [])
  | (r, n) :: rest => do
    let (s, x) ← readSpan s g slices r n
    let (s, xs) ← readWide s g slices rest
    return (s, x :: xs)

/-- The spans of a source's halves. -/
def WSrc.spans (w : WSrc) : List (Nat × Nat) := (List.range w.halves).map fun i => (w.r.val + i * w.n, w.n)

/-! ### Results -/

/-- What a wide instruction delivers: its spans (first register, registers, exact value), its flags apart from WOV, the
carry, a uniform register and a condition. -/
structure WideOut where
  writes : List (Nat × Nat × Int)
  flags : BitVec 7 := 0
  wcf : Option Bool := none
  sreg : Option (Fin 64 × DWord) := none
  cond : Option (Fin 8 × Bool) := none

/-- The flags of a wide result: WOV when a value does not fit its span (R77). -/
def WideOut.allFlags (w : WideOut) : BitVec 7 :=
  w.flags ||| (if w.writes.any fun e => truncWide e.2.1 e.2.2 != e.2.2 then flagWOV else 0)

/-- The tag of a span's first register set, unless the span is of armed streams (R58, R199). -/
def Group.setTag (grp : Group) (slices : BitVec 8) (r : Nat) (e : Nat) : Group :=
  if (grp.streamOf r).isSome then grp
  else { grp with tags := grp.tags.setIfInBounds (vIndex (grp.lead slices).loops.length r) (BitVec.ofNat 8 e) }

/-- Spans written together: every limb, then the tags of their first registers (R58, R199). -/
def writeWide (s : State) (g : GroupId) (slices : BitVec 8) (writes : List (Nat × Nat × Int)) : Except Stop State := do
  let s ← writeLanes s g slices (BitVec.allOnes 32)
    (writes.flatMap fun e => ((List.range e.2.1).map fun i => e.1 + i).zip (natRegs e.2.1 (pattern e.2.1 e.2.2)))
  match s.group? g with
  | none => return s
  | some grp =>
    return s.setGroup g
      (writes.foldl (fun grp e => Group.setTag grp slices e.1 (extent (truncWide e.2.1 e.2.2))) grp)

/-- A wide instruction ends: its flags are set, and an enabled one traps on the state before it; else its results are
written together (R67, R99, R199, R203). -/
def finishWide (s0 s : State) (g : GroupId) (slices : BitVec 8) (enables : BitVec 7) (out : WideOut) : Except Stop State := do
  let fl := out.allFlags
  let set := fun (s : State) => match s.group? g with
    | some grp => s.setGroup g (grp.raise fl)
    | none => s
  match firstEnabled wideFlagOrder fl enables with
  | some (_, k) => .error (.trap { kind := k } (set s0))
  | none =>
    let s ← writeWide (set s) g slices out.writes
    let s := match s.group? g, out.wcf with
      | some grp, some c => s.setGroup g { grp with wcf := c }
      | _, _ => s
    let s := match s.group? g, out.cond with
      | some grp, some (k, b) => s.setGroup g { grp with u := grp.u.setCond k b }
      | _, _ => s
    return match out.sreg with
      | some (r, x) => s.writeUniform r x
      | none => s

/-- A group's PIX set (R201). -/
def State.setPix (s : State) (g : GroupId) (n : Word) : State :=
  match s.group? g with
  | some grp => s.setGroup g { grp with pix := n }
  | none => s

/-- A short wide instruction: spans read and written, spans both read and written, uniform sources and destinations; `f`
computes from the group, the values read and the uniform values. The place of the uniform sources' LAVIOL, poison and QPORT: log
entry 84. -/
def wideShort (s : State) (srcs dsts both : List WSrc) (uses udst : List (Fin 64))
    (f : Group → List Int → List DWord → WideOut) : Host.Outcome State Fault Refusal :=
  onGang s fun g grp slices => do
    wideChecks s g grp slices (srcs.map fun w => w.op false) (dsts.map fun w => w.op true) (both.map fun w => w.op false)
    let (us, plan) ← uniformSources s uses udst ⟨[], []⟩
    let (s1, xs) ← readWide s g slices ((srcs ++ both).flatMap WSrc.spans)
    let s2 ← finishWide s (s1.commitPops plan) g slices grp.enables (f grp xs us)
    return (s2.setPix g 0).advance

/-- The value at a position. -/
def wv (xs : List Int) (i : Nat) : Int := xs.getD i 0

/-- Two spans to one. -/
def wide3 (o : W3) (s : State) (f : Nat → Bool → Int → Int → Int × Option Bool) : Host.Outcome State Fault Refusal :=
  let n := spanLen o.w
  wideShort s [⟨o.va, 1, n⟩, ⟨o.vb, 1, n⟩] [⟨o.vd, 1, n⟩] [] [] [] fun grp xs _ =>
    let r := f n grp.wcf (wv xs 0) (wv xs 1)
    { writes := [(o.vd.val, n, r.1)], wcf := r.2 }

/-- WADD: the exact sum; WCF takes the carry out of the patterns (R205). -/
def execWadd (o : W3) (s : State) := wide3 o s fun n _ a b =>
  (a + b, some (decide (2 ^ (1024 * n) ≤ pattern n a + pattern n b)))
/-- WADC: the sum of the patterns and WCF (R205). -/
def execWadc (o : W3) (s : State) := wide3 o s fun n c a b =>
  let t := pattern n a + pattern n b + bitNat c
  (signed (1024 * n) t, some (decide (2 ^ (1024 * n) ≤ t)))
/-- WSUB: the exact difference; WCF takes the borrow out of the patterns (R205). -/
def execWsub (o : W3) (s : State) := wide3 o s fun n _ a b => (a - b, some (decide (pattern n a < pattern n b)))
/-- WSBB: the difference of the patterns and WCF (R205). -/
def execWsbb (o : W3) (s : State) := wide3 o s fun n c a b =>
  let t : Int := (pattern n a : Int) - pattern n b - bitNat c
  (truncWide n t, some (decide (t < 0)))

/-- A bitwise operation on the patterns (R206). -/
def wideBits (o : W3) (s : State) (f : Nat → Nat → Nat) : Host.Outcome State Fault Refusal :=
  wide3 o s fun n _ a b => (signed (1024 * n) (f (pattern n a) (pattern n b)), none)

/-- WAND (R206). -/
def execWand (o : W3) (s : State) := wideBits o s fun a b => a &&& b
/-- WOR (R206). -/
def execWor (o : W3) (s : State) := wideBits o s fun a b => a ||| b
/-- WXOR (R206). -/
def execWxor (o : W3) (s : State) := wideBits o s fun a b => a ^^^ b
/-- WANDN: pa and not pb (R206). -/
def execWandn (o : W3) (s : State) := wideBits o s fun a b => a ^^^ (a &&& b)

/-- One span to one (R207). -/
def wide2 (o : W2) (s : State) (f : Nat → Int → Int) : Host.Outcome State Fault Refusal :=
  let n := spanLen o.w
  wideShort s [⟨o.va, 1, n⟩] [⟨o.vd, 1, n⟩] [] [] [] fun _ xs _ => { writes := [(o.vd.val, n, f n (wv xs 0))] }

/-- WNEG (R207). -/
def execWneg (o : W2) (s : State) := wide2 o s fun _ a => -a
/-- WNOT (R207). -/
def execWnot (o : W2) (s : State) := wide2 o s fun _ a => -a - 1
/-- WABS (R207). -/
def execWabs (o : W2) (s : State) := wide2 o s fun _ a => a.natAbs
/-- WNORM (R207). -/
def execWnorm (o : W2) (s : State) := wide2 o s fun _ a => a
/-- WCLZ: the leading zero bits of the pattern (R207). -/
def execWclz (o : W2) (s : State) := wide2 o s fun n a =>
  let p := pattern n a
  ((1024 * n - (if p = 0 then 0 else Nat.log2 p + 1) : Nat) : Int)
/-- WPOPC: the set bits of the pattern (R207). -/
def execWpopc (o : W2) (s : State) := wide2 o s fun n a => popCount (1024 * n) (pattern n a)

/-- A span and a uniform register to a span; a count of N or more acts as N does (R208). -/
def wideScalar (o : WS) (s : State) (addend : Bool) (f : Nat → Int → Int → Nat → Int) : Host.Outcome State Fault Refusal :=
  let n := spanLen o.w
  wideShort s [⟨o.va, 1, n⟩] [⟨o.vd, 1, n⟩] (if addend then [⟨o.vd, 1, n⟩] else []) [o.s] [] fun _ xs us =>
    { writes := [(o.vd.val, n, f n (wv xs 0) (wv xs 1) (us.headD 0).toNat)] }

/-- WSHL: A × 2^n; for n ≥ N it writes 0, with WOV unless A is 0 (R208). -/
def execWshl (o : WS) (s : State) := wideScalar o s false fun n a _ k => a * 2 ^ min k (1024 * n)
/-- WSHR: the pattern shifted (R208). -/
def execWshr (o : WS) (s : State) := wideScalar o s false fun n a _ k =>
  signed (1024 * n) (pattern n a / 2 ^ min k (1024 * n))
/-- WSAR: the floor of A ÷ 2^n (R208). -/
def execWsar (o : WS) (s : State) := wideScalar o s false fun n a _ k => a / 2 ^ min k (1024 * n)
/-- WMULS: A × s (R209). -/
def execWmuls (o : WS) (s : State) := wideScalar o s false fun _ a _ k => a * (k % 2 ^ 32 : Nat)
/-- WMADS: A × s + D (R209). -/
def execWmads (o : WS) (s : State) := wideScalar o s true fun _ a d k => a * (k % 2 ^ 32 : Nat) + d

/-- The register after one of an even pair. -/
def pairOf (r : Fin 64) : Fin 64 := ⟨(r.val + 1) % 64, by omega⟩

/-- WDIVS: the quotient by an n32 in an even register, and the remainder in the next register (R210). -/
def execWdivs (o : WS) (s : State) : Host.Outcome State Fault Refusal :=
  let n := spanLen o.w
  if o.s.val % 2 = 1 then onGang s fun _ _ _ => illegal s 3
  else wideShort s [⟨o.va, 1, n⟩] [⟨o.vd, 1, n⟩] [] [o.s] [pairOf o.s] fun _ xs us =>
    let d : Int := ((us.headD 0).toNat % 2 ^ 32 : Nat)
    let a := wv xs 0
    if d = 0 then { writes := [(o.vd.val, n, -1)], flags := flagDZ, sreg := some (pairOf o.s, 0) }
    else { writes := [(o.vd.val, n, a.tdiv d)], sreg := some (pairOf o.s, BitVec.ofInt 64 (a.tmod d)) }

/-- WCMP.i: the signed values (R212). -/
def execWcmpI (o : WCmp) (s : State) : Host.Outcome State Fault Refusal :=
  let n := spanLen o.w
  guardForm (o.cc != .un) s <| wideShort s [⟨o.va, 1, n⟩, ⟨o.vb, 1, n⟩] [] [] [] [] fun _ xs _ =>
    { writes := [], cond := some (o.k, cmpHolds o.cc (wv xs 0) (wv xs 1)) }
/-- WCMP.n: the patterns (R212). -/
def execWcmpN (o : WCmp) (s : State) : Host.Outcome State Fault Refusal :=
  let n := spanLen o.w
  guardForm (o.cc != .un) s <| wideShort s [⟨o.va, 1, n⟩, ⟨o.vb, 1, n⟩] [] [] [] [] fun _ xs _ =>
    { writes := [], cond := some (o.k, cmpHolds o.cc (pattern n (wv xs 0)) (pattern n (wv xs 1))) }

/-- WEXT.i: the value of a span of another length (R213). -/
def execWextI (o : WExt) (s : State) : Host.Outcome State Fault Refusal :=
  let n := spanLen o.w
  wideShort s [⟨o.va, 1, spanLen o.ws⟩] [⟨o.vd, 1, n⟩] [] [] [] fun _ xs _ => { writes := [(o.vd.val, n, wv xs 0)] }
/-- WEXT.n: the source pattern as a number that is not negative (R213). -/
def execWextN (o : WExt) (s : State) : Host.Outcome State Fault Refusal :=
  let n := spanLen o.w
  wideShort s [⟨o.va, 1, spanLen o.ws⟩] [⟨o.vd, 1, n⟩] [] [] [] fun _ xs _ =>
    { writes := [(o.vd.val, n, pattern (spanLen o.ws) (wv xs 0))] }

/-- The extent that a read of a span uses, 0 for raw (R57, R214). -/
def Group.readExtent (grp : Group) (r n : Nat) : Nat :=
  let tag := (grp.tags.getD (vIndex (grp.lead 0xFF).loops.length r) 0).toNat
  if (grp.streamOf r).isNone ∧ 1 ≤ tag ∧ tag ≤ 32 * n then tag else 0

/-- WGETL: limb n of the value read, or with n = 0xFF the extent that the read uses (R214). -/
def execWgetl (o : WGet) (s : State) : Host.Outcome State Fault Refusal :=
  let n := spanLen o.w
  guardForm (decide (o.n.toNat < 32 * n) || o.n == 0xFF) s <|
    wideShort s [⟨o.va, 1, n⟩] [] [] [] [o.s] fun grp xs _ =>
      let x := if o.n = 0xFF then grp.readExtent o.va.val n else pattern n (wv xs 0) / 2 ^ (32 * o.n.toNat) % 2 ^ 32
      { writes := [], sreg := some (o.s, BitVec.ofNat 64 x) }

/-- WSETL: one limb of a span replaced, the tags cleared as by a lane write of its register (R215). A span of armed streams
is ILLEGAL at step 6, since the span is read and written (R198, log entry 21). -/
def execWsetl (o : WSet) (s : State) : Host.Outcome State Fault Refusal :=
  let n := spanLen o.w
  guardForm (decide (o.n.toNat < 32 * n)) s <|
    onGang s fun g grp slices => do
      let op : VOp := ⟨o.vd.val, n, true⟩
      require (grp.wideOk op) s { kind := .illegal, reason := 3 }
      requireGang s slices
      require (!grp.armedSpan op) s { kind := .illegal, reason := 6 }
      checkPromise s grp slices (grp.placesOf slices op) []
      let (us, plan) ← uniformSources s [o.s] [] ⟨[], []⟩
      let s1 := s.commitPops plan
      let x : Word := BitVec.ofNat 32 (us.headD 0).toNat
      let s2 ← writeLane s1 g slices (o.vd.val + o.n.toNat / 32) (BitVec.ofNat 32 (2 ^ (o.n.toNat % 32)))
        (Vector.replicate 32 x)
      return (s2.setPix g 0).advance

/-! ### Sequenced instructions (R200, R201) -/

/-- The group's stopped sequenced instruction at a program counter, which continues from its steps with the sources that it captured
(R201). -/
def State.stoppedSeq (s : State) (g : GroupId) (pc : Addr) : Option WideSeq :=
  ((s.cluster (clusterOf g)).seqs[coreIndex (coreOf g)]).find? fun w => w.g == g && w.stopped && w.pc == pc

/-- A sequenced wide word leaves the lane pipe: its sources are captured and the gang waits (R200, R201). A word that was
stopped part-way continues with what it captured, and checks and reads nothing again. The order of its checks: log entry 84. -/
def wideSequenced (s : State) (i : Instr) (srcs dsts : List WSrc) (uses : List (Fin 64))
    (more : GroupId → Group → List DWord → Except Stop Unit) (total : List Int → List DWord → Nat) :
    Host.Outcome State Fault Refusal :=
  onGang s fun g grp slices => do
    let wait := fun (s : State) => match s.group? g with
      | some grp => (s.setGroup g (grp.setWait slices .sequencer s.fetched)).endRun
      | none => s
    match s.stoppedSeq g (grp.lead slices).pc with
    | some w => return wait (s.mapSeqs g fun q => q.filter (fun x => x != w) ++ [{ w with stopped := false }])
    | none =>
      wideChecks s g grp slices (srcs.map fun w => w.op false) (dsts.map fun w => w.op true) []
      let (us, plan) ← uniformSources s uses [] ⟨[], []⟩
      more g grp us
      let (s1, xs) ← readWide s g slices (srcs.flatMap WSrc.spans)
      let w : WideSeq := { g := g, pc := (grp.lead slices).pc, instr := i, vals := xs, s := us.headD 0, enables := grp.enables,
                           reads := grp.streamsOf (srcs.map fun w => w.op false), steps := 0, total := total xs us, stopped := false }
      return wait (((s1.commitPops plan).setPix g 0).mapSeqs g fun q => q ++ [w])

/-- No further check. -/
def noMore (_ : GroupId) (_ : Group) (_ : List DWord) : Except Stop Unit := .ok ()

/-- WDIV (R211): the steps are the quotient limbs formed (R200). -/
def execWdiv (o : W3) (s : State) : Host.Outcome State Fault Refusal :=
  let n := spanLen o.w
  wideSequenced s (.wdiv o) [⟨o.va, 1, n⟩, ⟨o.vb, 1, n⟩] [⟨o.vd, 2, n⟩] [] noMore fun xs _ =>
    max 1 (extent (wv xs 0) + 1 - extent (wv xs 1))

/-- A rational instruction at its issue (R219). -/
def rational (o : W3) (i : Instr) (s : State) (sum : Bool) : Host.Outcome State Fault Refusal :=
  let n := spanLen o.w
  wideSequenced s i [⟨o.va, 2, n⟩, ⟨o.vb, 2, n⟩] [⟨o.vd, 2, n⟩] [] noMore fun xs _ =>
    if sum then (if wv xs 1 = wv xs 3 then 1 else 96 * n) else 64 * n

/-- QADD (R219). -/
def execQadd (o : W3) (s : State) := rational o (.qadd o) s true
/-- QSUB (R219). -/
def execQsub (o : W3) (s : State) := rational o (.qsub o) s true
/-- QMUL (R219). -/
def execQmul (o : W3) (s : State) := rational o (.qmul o) s false
/-- QDIV (R219). -/
def execQdiv (o : W3) (s : State) := rational o (.qdiv o) s false
/-- QNORM (R220). -/
def execQnorm (o : W2) (s : State) : Host.Outcome State Fault Refusal :=
  let n := spanLen o.w
  wideSequenced s (.qnorm o) [⟨o.va, 2, n⟩] [⟨o.vd, 2, n⟩] [] noMore fun _ _ => 134 * n
/-- WGCD (R221). -/
def execWgcd (o : W3) (s : State) : Host.Outcome State Fault Refusal :=
  let n := spanLen o.w
  wideSequenced s (.wgcd o) [⟨o.va, 1, n⟩, ⟨o.vb, 1, n⟩] [⟨o.vd, 1, n⟩] [] noMore fun _ _ => 70 * n

/-! ### Accumulator slots (R260, R268) -/

/-- An accumulator's value. -/
def Acc.get (a : Acc) (i : Nat) : BitVec 96 := sget (fun _ => 0) i a.cells
/-- An accumulator set. -/
def Acc.put (a : Acc) (i : Nat) (x : BitVec 96) : Acc := { a with cells := sput (fun _ => 0) i x a.cells }

/-- The team holds the slot (R63). -/
def Team.holds (t : Team) (j : Fin 8) : Bool := maskHas t.held j.val

/-- A team's slot, whether or not it is spilled (R268). -/
def State.accOf (s : State) (t : Team) (j : Fin 8) : Acc :=
  match t.spilled.find? fun e => e.1 == j with
  | some e => e.2
  | none => (s.cluster t.cl).acc[j]

/-- A team's slot changed. -/
def State.setAcc (s : State) (t : Team) (j : Fin 8) (a : Acc) : State :=
  if t.spilled.any fun e => e.1 == j then
    s.setTeam { t with spilled := t.spilled.map fun e => if e.1 == j then (j, a) else e }
  else
    let c := s.cluster t.cl
    s.setCluster t.cl { c with acc := c.acc.set j a }

/-- BASE, COUNT and ZERO of CRES (R217). -/
def cresBase (c : DWord) : Nat := c.toNat % 2 ^ 12
/-- COUNT -/
def cresCount (c : DWord) : Nat := bits c.toNat 16 13
/-- ZERO -/
def cresZero (c : DWord) : Bool := bit c.toNat 32
/-- The control of CRES is valid (R217). -/
def cresOk (c : DWord) : Bool :=
  bits c.toNat 33 31 == 0 && bits c.toNat 29 3 == 0 && bits c.toNat 12 4 == 0 && cresCount c != 0 &&
    decide (cresBase c + cresCount c ≤ 4096)

/-- CRES at its issue: ACCOWN, ACCMODE, BOUNDS (R203, R218). -/
def execCres (o : WCres) (s : State) : Host.Outcome State Fault Refusal :=
  let n := spanLen o.w
  wideSequenced s (.cres o) [] [⟨o.vd, 1, n⟩] [o.s]
    (fun _ grp us => do
      let t := s.teamOf grp
      let c := us.headD 0
      require (t.holds o.j) s { kind := .accown, val := BitVec.ofNat 64 (2 ^ o.j.val) }
      require ((s.accOf t o.j).mode != .float) s { kind := .accmode, val := BitVec.ofNat 64 o.j.val }
      require (cresOk c) s { kind := .bounds, val := c })
    fun _ us => cresCount (us.headD 0)

/-- The number that a run of column sums makes (R218). -/
def resolve (a : Acc) (base : Nat) : Nat → Int
  | 0 => 0
  | k + 1 => resolve a base k + (a.get (base + k)).toInt * 2 ^ (32 * k)

/-- The operations of the table that CRES waits for: those on its slot in which its group took part (R218). -/
def State.cresWaits (s : State) (g : GroupId) (t : Team) (j : Fin 8) : Bool :=
  (t.spilled.any fun e => e.1 == j) ||
    (s.cluster t.cl).table.any fun e => e.team == t.id && e.slot == j && match e.work with
      | .joint _ members => members.contains g
      | .product _ => false

/-- QADD to QDIV (R219): the numerator, the denominator and the flags. -/
def rationalOf (sum : Option Bool) (div : Bool) (na da nb db : Int) : Int × Int × BitVec 7 :=
  if da = 0 ∨ db = 0 then (0, 0, flagIV)
  else if div ∧ nb = 0 then (0, 0, flagDZ)
  else
    let (n, d) := match sum with
      | some sub =>
        if da = db then (if sub then na - nb else na + nb, da)
        else (if sub then na * db - nb * da else na * db + nb * da, da * db)
      | none => if div then (na * db, da * nb) else (na * nb, da * db)
    let (n, d) := if d < 0 then (-n, -d) else (n, d)
    (n, if n = 0 ∧ 0 < d then 1 else d, 0)

/-- QNORM (R220). -/
def normOf (n d : Int) : Int × Int × BitVec 7 :=
  if d = 0 then (0, 0, flagIV)
  else
    let g : Int := gcdFuel (Nat.log2 (max n.natAbs d.natAbs) * 2 + 4) n.natAbs d.natAbs
    let n := n / g
    let d := d / g
    if d < 0 then (-n, -d, 0) else (n, d, 0)
where
  /-- Euclid's algorithm by fuel. -/
  gcdFuel : Nat → Nat → Nat → Nat
    | 0, a, _ => a
    | f + 1, a, b => if b = 0 then a else gcdFuel f b (a % b)

/-- The greatest common divisor, gcd(0, 0) = 0 (R221). -/
def gcdNat (a b : Nat) : Nat := normOf.gcdFuel (Nat.log2 (max a b) * 2 + 4) a b

/-- What a sequenced instruction delivers from its captured sources, CRES from the value that it resolved (R211, R218 to R221). -/
def sequencedOut (i : Instr) (xs : List Int) : WideOut :=
  let two := fun (vd n : Nat) (r : Int × Int × BitVec 7) =>
    { writes := [(vd, n, r.1), (vd + n, n, r.2.1)], flags := r.2.2 : WideOut }
  match i with
  | .wdiv o =>
    let a := wv xs 0
    let b := wv xs 1
    two o.vd.val (spanLen o.w) (if b = 0 then (-1, a, flagDZ) else (a.tdiv b, a.tmod b, 0))
  | .qadd o => two o.vd.val (spanLen o.w) (rationalOf (some false) false (wv xs 0) (wv xs 1) (wv xs 2) (wv xs 3))
  | .qsub o => two o.vd.val (spanLen o.w) (rationalOf (some true) false (wv xs 0) (wv xs 1) (wv xs 2) (wv xs 3))
  | .qmul o => two o.vd.val (spanLen o.w) (rationalOf none false (wv xs 0) (wv xs 1) (wv xs 2) (wv xs 3))
  | .qdiv o => two o.vd.val (spanLen o.w) (rationalOf none true (wv xs 0) (wv xs 1) (wv xs 2) (wv xs 3))
  | .qnorm o => two o.vd.val (spanLen o.w) (normOf (wv xs 0) (wv xs 1))
  | .wgcd o => { writes := [(o.vd.val, spanLen o.w, gcdNat (wv xs 0).natAbs (wv xs 1).natAbs)] }
  | .cres o => { writes := [(o.vd.val, spanLen o.w, wv xs 0)] }
  | _ => { writes := [] }

/-- A group's word is taken up again by an event: the gang is the one in execution, with the word it waits at. -/
def State.resumeAs (s : State) (g : GroupId) (slices : BitVec 8) : State :=
  match s.group? g with
  | some grp => { s with cur := some (.gang g slices), fetched := (grp.lead slices).waitWord }
  | none => s

/-- CRES resolves its slot's columns, with the columns read cleared when ZERO is 1 (R218). A poisoned column sum is POISON, and TVAL
names the slot and the lowest such column (R218, log entry 29). -/
def cresOut (s : State) (grp : Group) (o : WCres) (c : DWord) : Except Stop (State × Int) :=
  let t := s.teamOf grp
  let a := s.accOf t o.j
  let cols := (List.range (cresCount c)).map fun i => cresBase c + i
  match cols.find? a.poison.contains with
  | some i => .error (.trap { kind := .poison, val := Config.columnName o.j.val i } s)
  | none =>
    let s := if cresZero c then
        s.setAcc t o.j { a with cells := a.cells.filter fun e => !(decide (cresBase c ≤ e.1 ∧ e.1 < cresBase c + cresCount c)) }
      else s
    .ok (s, resolve a (cresBase c) (cresCount c))

/-- What a sequenced instruction has captured at its last step: CRES, the value that it resolves then, once (R201, R218). -/
def WideSeq.captured (w : WideSeq) (s : State) (grp : Group) : Except Stop (State × List Int) :=
  match w.instr, w.vals with
  | .cres o, [] => do
    let (s, x) ← cresOut s grp o w.s
    return (s, [x])
  | _, xs => .ok (s, xs)

/-- A sequenced instruction whose destination a memory access refused keeps what it captured: once the refusal is answered, it delivers
the vectors not yet stored (R145, R199, R443). One that traps has had no effect, so its streams' DONE are as before its issue (R237,
R333). -/
def keepSeq (w : WideSeq) (xs : List Int) (s0 : State) (r : Except Stop State) : Except Stop State :=
  match r with
  | .error (.wait s) => .error (.wait
      ((match s0.group? w.g with
        | some grp => match keepGroup w.g grp (.error (.wait s)) with
          | .error (.wait s) => s
          | _ => s
        | none => s).mapSeqs w.g fun q => q ++ [{ w with vals := xs, steps := w.total, stopped := true }]))
  | .error (.trap t s) => match s0.group? w.g with
    | some grp => keepGroup w.g (grp.unread w.reads) (.error (.trap t s))
    | none => .error (.trap t s)
  | r => r

/-- WIDE_SEQUENCED_COMPLETE: the instruction at the head of a core's sequencer has made its last step: it writes its
results or takes its trap, and the group continues (R199 to R203, R218). Subject: the core. -/
def execWideSequencedComplete (s : State) : Host.Outcome State Fault Refusal :=
  let cl := clusterOfCore s.arg.core
  match (s.cluster cl).seqs[coreIndex s.arg.core].filter (fun w => !w.stopped) with
  | [] => .next s
  | w :: _ =>
    match s.group? w.g with
    | none => .next (s.mapSeqs w.g fun q => q.filter fun x => !(x.g == w.g))
    | some grp =>
      let waits := match w.instr with
        | .cres o => s.cresWaits w.g (s.teamOf grp) o.j
        | _ => false
      if waits then .next s
      else
        let s0 := (s.mapSeqs w.g fun q => q.filter fun x => x != w).resumeAs w.g 0xFF
        settle do
          let (s1, xs) ← w.captured (s0.setPix w.g 0) grp
          let s2 ← keepSeq w xs s1 (finishWide (s0.setPix w.g 0) s1 w.g 0xFF w.enables (sequencedOut w.instr xs))
          match s2.group? w.g with
          | some grp => return (s2.setGroup w.g (grp.wake 0xFF)).advance
          | none => return s2

end Sys2Proof.Machine
end

