-- ==== Sys2Proof/Machine/LaneMem.lean ====
section
/-! DEFINITION. Lane loads and stores, local-store accesses and asynchronous copies (R222 to R229, R238), and the checks
that memory words share (R101, R223 to R226). -/

namespace Sys2Proof.Machine

open Sys2Proof

/-! ### Sizes and addresses -/

/-- The bytes of a size code (R148). -/
def sizeBytes : Size → Nat
  | .n8 | .i8 => 1
  | .n16 | .i16 => 2
  | .b32 => 4
  | .b64 => 8
  | .b128 => 16

/-- The lane registers of a size code (R227). -/
def sizeRegs : Size → Nat
  | .b64 => 2
  | .b128 => 4
  | _ => 1

/-- The words that a load's bytes make, extended as its type says (R74, R227). -/
def loadWords (z : Size) (bs : List Byte) : List Word :=
  let x := ofBytes bs
  match z with
  | .n8 | .n16 | .b32 => [BitVec.ofNat 32 x]
  | .i8 => [BitVec.ofInt 32 (signed 8 x)]
  | .i16 => [BitVec.ofInt 32 (signed 16 x)]
  | .b64 => [BitVec.ofNat 32 x, BitVec.ofNat 32 (x / 2 ^ 32)]
  | .b128 => (List.range 4).map fun i => BitVec.ofNat 32 (x / 2 ^ (32 * i))

/-- The address that a register pair holds in a lane (R222). -/
def pairAddr (xs : List VReg) (i l : Nat) : Nat :=
  (laneAt (xs.getD i (Vector.replicate 32 0)) l).toNat + 2 ^ 32 * (laneAt (xs.getD (i + 1) (Vector.replicate 32 0)) l).toNat

/-- A lane's access: its lane and its address. -/
abbrev LaneAddr := Nat × Nat

/-- The lanes of some accesses. -/
def lanesAt (as : List LaneAddr) : LaneMask := laneSet (as.map Prod.fst)

/-- A trap for the accesses that fail a test: all their lanes, and the lowest one's address (R225, R339). -/
def laneTrap (s : State) (k : Kind) (bad : List LaneAddr) : Except Stop Unit :=
  match bad with
  | [] => .ok ()
  | (_, a) :: _ => .error (.trap { kind := k, lanes := lanesAt bad, val := BitVec.ofNat 64 a } s)

/-- Step 4 of R225: BOUNDS, then PRIV (R101). -/
def checkAddrs (s : State) (p : Priv) (as : List LaneAddr) (n : Nat) : Except Stop Unit := do
  laneTrap s .bounds (as.filter fun e => addrKind p e.2 n == some .bounds)
  laneTrap s .priv (as.filter fun e => addrKind p e.2 n == some .priv)

/-- Step 5 of R225: ALIGN (R223). -/
def checkAlign (s : State) (as : List LaneAddr) (n : Nat) : Except Stop Unit :=
  laneTrap s .align (as.filter fun e => e.2 % n != 0)

/-- Step 6 of R225: LSBOUND (R103, R224). -/
def checkLocal (s : State) (size : Nat) (as : List LaneAddr) (n : Nat) : Except Stop Unit :=
  laneTrap s .lsbound (as.filter fun e => !localOk size e.2 n)

/-- The lanes that perform an access: with U = 1 the lowest active lane alone (R151). -/
def accessLanes (u : Bool) (active : LaneMask) : List Nat :=
  if u then (if active = 0 then [] else [(lowLane active).val]) else maskList active

/-! ### Performing the accesses of an event -/

/-- The accesses of one event so far: lanes done, the values they loaded, the lanes refused with the reason of the lowest,
and the lanes that read poison with the lowest one's granule. -/
structure Served where
  s : State
  done : LaneMask
  vals : List VReg
  refused : LaneMask
  reason : Nat
  poison : LaneMask
  pat : Nat

/-- A lane's value entered in each register of a list. -/
def setLane (vals : List VReg) (l : Nat) (ws : List Word) : List VReg :=
  vals.zipIdx.map fun (v, i) => v.setIfInBounds l (ws.getD i 0)

/-- Where the bytes of an access stand. -/
abbrev Locate := State → Nat → Except Nat (State × List Place)

/-- What the bytes at some places read as, and the first that reads as poison. -/
abbrev Look := State → List Place → List Byte × Option Nat

/-- One lane's load, skipped when it is done (R340). -/
def serveLoad (locate : Locate) (look : Look) (z : Size) (acc : Served) (e : LaneAddr) : Except Stop Served := do
  if maskHas acc.done e.1 then return acc
  match locate acc.s e.2 with
  | .error why =>
    return { acc with refused := acc.refused ||| laneSet [e.1], reason := if acc.refused = 0 then why else acc.reason }
  | .ok (s, ps) =>
    let (bs, p) := look s ps
    match p with
    | some i => return { acc with s := s, poison := acc.poison ||| laneSet [e.1]
                                  pat := if acc.poison = 0 then e.2 + i else acc.pat }
    | none => return { acc with s := s, done := acc.done ||| laneSet [e.1], vals := setLane acc.vals e.1 (loadWords z bs) }

/-- One lane's store among those of its event, skipped when it is done (R340); the bytes that a higher lane has stored already stay
(R121). -/
def serveStore (locate : Locate) (store : State → List Place → List Byte → State) (bytes : Nat → List Byte) (n : Nat)
    (as : List LaneAddr) (acc : Served) (e : LaneAddr) : Except Stop Served := do
  if maskHas acc.done e.1 then return acc
  match locate acc.s e.2 with
  | .error why =>
    return { acc with refused := acc.refused ||| laneSet [e.1], reason := if acc.refused = 0 then why else acc.reason }
  | .ok (s, ps) =>
    let is := freshBytes as acc.done n e
    let t := if is.length = n then store s ps (bytes e.1)
      else store s (is.filterMap fun i => ps[i]?) (is.filterMap fun i => (bytes e.1)[i]?)
    return { acc with s := t, done := acc.done ||| laneSet [e.1] }

/-- The address of the lowest lane that is not done (R369). -/
def lowestLeft (as : List LaneAddr) (done : LaneMask) : Nat :=
  ((as.find? fun e => !maskHas done e.1).map Prod.snd).getD 0

/-- A state with the memory errors that another has met (R377). -/
def State.noting (s t : State) : State := { s with devices := t.devices, poison := t.poison, pack := t.pack }

/-- The event's end: lanes refused park the group (R340), poison read traps (R226), else the event goes on. -/
def endServe (s : State) (g : GroupId) (slices : BitVec 8) (k : AccKind) (z : Size) (as : List LaneAddr)
    (acc : Served) : Except Stop State :=
  if acc.refused ≠ 0 then
    let prog := (acc.s.group? g).elim (Progress.start 0 slices) fun now => now.progressOf slices
    .error (.wait (acc.s.parkGroup g slices 0 k z.code acc.reason (lowestLeft as acc.done) acc.refused acc.done
      { prog with done := acc.done, vals := acc.vals.zipIdx.map fun (v, i) => (i, v) }))
  else if acc.poison ≠ 0 then .error (.trap { kind := .poison, lanes := acc.poison, val := poisonVal acc.pat } (s.noting acc.s))
  else .ok acc.s

/-! ### Delivering a loaded value -/

/-- The words left in the window of each slice of a gang (R152). -/
def windows (slices : BitVec 8) (la : Nat) : List (Nat × Nat) := (maskList slices).map fun i => (i, la)

/-- Registers written by a load: at once with LA = 0; else they arrive after the window, the extent tags being cleared and
a whole register's poison replaced at issue (R59, R70, R152, R228). A register whose write a forced debugger write dropped
is not written (R353), and an armed stream takes the value at once. -/
def deliver (s : State) (g : GroupId) (slices : BitVec 8) (lanes : LaneMask) (la : Nat) (dropped : List Nat)
    (dsts : List (Nat × VReg)) : Except Stop State :=
  match s.group? g with
  | none => .ok s
  | some grp =>
    let place := fun r => vIndex (grp.lead slices).loops.length r
    let dsts := dsts.filter fun e => !dropped.contains (place e.1)
    if la = 0 ∨ dsts.any fun e => (grp.streamOf e.1).isSome then writeLanes s g slices lanes dsts
    else
      let regs := dsts.map fun e => (place e.1, e.2)
      let grp := regs.foldl (fun (grp : Group) e => grp.writeV e.1 0 e.2) grp
      let f : InFlight := { pc := (grp.lead slices).pc, regs := regs, lanes := lanes, late := [], gone := []
                            sreg := none, sover := false, sdone := false, push := none, left := windows slices la }
      .ok (s.setGroup g { grp with
        inflight := (grp.inflight.map fun f => regs.foldl (fun (f : InFlight) e => f.overtaken e.1 lanes) f) ++ [f]
        vpoison := if lanes = BitVec.allOnes 32 then grp.vpoison.filter (fun e => !regs.any fun r => r.1 == e.1)
                   else grp.vpoison })

/-- The values of a load whose every lane is done and whose delivery to a stream is parked. -/
def Progress.loaded (p : Progress) : Option (List VReg) :=
  match p.vals.filter fun e => decide (100 ≤ e.1) with
  | [] => none
  | vs => some (vs.map Prod.snd)

/-- A load's values delivered, remembered while a stream that takes them is parked (R237, R443). -/
def deliverLoad (s : State) (g : GroupId) (slices : BitVec 8) (lanes : LaneMask) (la : Nat) (prog : Progress) (vd : Fin 64)
    (vals : List VReg) : Except Stop State :=
  let dsts := vals.zipIdx.map fun (v, i) => (vd.val + i, v)
  match s.group? g with
  | none => .ok s
  | some grp =>
    if dsts.any fun e => (grp.streamOf e.1).isSome then
      let p : Progress := { grp.progressOf slices with vals := vals.zipIdx.map (fun (v, i) => (100 + i, v)) }
      deliver (s.setGroup g (grp.keepProgress slices p)) g slices lanes la prog.dropped dsts
    else deliver s g slices lanes la prog.dropped dsts

/-- The values a word's progress holds, one register for each destination. -/
def Progress.values (p : Progress) (n : Nat) : List VReg :=
  (List.range n).map fun i => ((p.vals.find? fun e => e.1 == i).map Prod.snd).getD (Vector.replicate 32 0)

/-- A strong access or an atomic of a gang bars a rewind (R146). -/
def State.pinGroup (s : State) (g : GroupId) (slices : BitVec 8) : State :=
  match s.group? g with
  | some grp => s.setGroup g (grp.pin slices)
  | none => s

/-- A strong event with any lane done has been performed (R146, R342). -/
def Served.pinned (acc : Served) (strong : Bool) (g : GroupId) (slices : BitVec 8) : Served :=
  if strong ∧ acc.done ≠ 0 then { acc with s := acc.s.pinGroup g slices } else acc

/-- A lane load: the address pair read, the checks of R225, one access in each acting lane, and the value delivered (R227).
`width` counts the address registers and `addr` reads a lane's address; `check` makes steps 4 to 6; `acquire` marks an acquire load
(R126), and `look` reads the bytes. -/
def laneLoad (s : State) (u : Bool) (guard : Fin 8) (vd va : Fin 64) (z : Size) (la : Nat) (strong acquire : Bool) (width : Nat)
    (addr : List VReg → Nat → Nat) (check : Group → List LaneAddr → Except Stop Unit)
    (locate : GroupId → Group → Locate) (look : Group → Look) : Host.Outcome State Fault Refusal :=
  onGang s fun g grp slices => do
    let active := grp.acting slices guard
    laneChecks s g grp slices [srcOp va width] [dstOp vd (sizeRegs z)] active active
    let prog := grp.progressOf slices
    match prog.loaded with
    | some vals =>
      let (s1, _) ← readLanes s g slices (srcOp va width).names
      let s3 ← deliverLoad s1 g slices active la prog vd vals
      return (if acquire then s3.acquire g else s3).advance
    | none =>
      let (s1, xs) ← readLanes s g slices (srcOp va width).names
      checkUnif s grp u active xs
      let as := (accessLanes u active).map fun l => (l, addr xs l)
      check grp as
      let start : Served := ⟨s1, prog.done, prog.values (sizeRegs z), 0, 0, 0, 0⟩
      let acc ← as.foldlM (fun acc e => serveLoad (locate g grp) (look grp) z acc e) start
      let acc := acc.pinned strong g slices
      let s2 ← endServe s g slices .load z as acc
      let vals := if u then acc.vals.map fun v => Vector.replicate 32 (v[lowLane active]) else acc.vals
      let s3 ← deliverLoad s2 g slices active la prog vd vals
      return (if acquire then s3.acquire g else s3).advance

/-- Virtual addresses of a group's access; `l1` of a weak one says whether it allocates (R105, R227). -/
def virtualAt (k : AccKind) (l1 : Option Bool) (n : Nat) (g : GroupId) (grp : Group) : Locate :=
  fun s a => s.places { s.groupReq g grp k with l1 := l1 } a n

/-- Local-store addresses of a group's access. -/
def localAt (n : Nat) (_ : GroupId) (grp : Group) : Locate := fun s a => .ok (s, (s.teamOf grp).localPlaces a n)

/-- The bytes as they stand. -/
def lookNow (_ : Group) : Look := State.readPlaces

/-- Any bytes that the places have held since the grid started: with the promise kept, the one that they hold (R127). -/
def lookInvariant (grp : Group) : Look := fun s ps =>
  s.readSince ((s.launch? grp.launch).elim s.fresh Launch.began) 1 ps

/-- A load from memory. -/
def memLoad (o : MLd) (s : State) (strong : Bool) (look : Group → Look) : Host.Outcome State Fault Refusal :=
  let n := sizeBytes o.z
  laneLoad s o.u o.g o.vd o.va o.z o.la.val strong (strong && o.o) 2 (fun xs l => pairAddr xs 0 l)
    (fun grp as => do
      checkAddrs s grp.priv as n
      if strong then checkAlign s as n else .ok ())
    (virtualAt .load (if strong then none else some !o.o) n) look

/-- LD: a weak load (R227). -/
def execLd (o : MLd) (s : State) := memLoad o s false lookNow
/-- LDS: a strong load, an acquire when its order bit is set (R126, R227). -/
def execLds (o : MLd) (s : State) := memLoad o s true lookNow
/-- LDI: an invariant load: the value that the location has held since the grid started, or, once the promise is broken, any of them
(R127, R227). -/
def execLdi (o : MLd) (s : State) := memLoad o s false lookInvariant

/-- LDL: a weak load from the team's allocation (R229). -/
def execLdl (o : MLdl) (s : State) : Host.Outcome State Fault Refusal :=
  laneLoad s o.u o.g o.vd o.va o.z o.la.val false false 1 (fun xs l => (laneAt (xs.headD (Vector.replicate 32 0)) l).toNat)
    (fun grp as => checkLocal s (s.teamOf grp).lsSize as (sizeBytes o.z)) (localAt (sizeBytes o.z)) lookNow

/-- A lane store: data and address read, the checks, and one access in each active lane, in lane order, so that the
highest lane's bytes stay (R121, R227). -/
def laneStore (s : State) (guard : Fin 8) (vd va : Fin 64) (z : Size) (strong : Bool) (width : Nat)
    (addr : List VReg → Nat → Nat) (check : Group → List LaneAddr → Except Stop Unit)
    (locate : GroupId → Group → Locate) : Host.Outcome State Fault Refusal :=
  onGang s fun g grp slices => do
    let active := grp.acting slices guard
    let data : VOp := srcOp vd (sizeRegs z)
    laneChecks s g grp slices [data, srcOp va width] [] active active
    let prog := grp.progressOf slices
    let (s1, xs) ← readLanes s g slices (srcOp va width).names
    let (s1, ds) ← readLanes s1 g slices data.names
    let as := (maskList active).map fun l => (l, addr xs l)
    check grp as
    let bytes := fun l => (ds.flatMap fun d => toBytes 4 (laneAt d l).toNat).take (sizeBytes z)
    let start : Served := ⟨s1, prog.done, [], 0, 0, 0, 0⟩
    let acc ← as.foldlM (fun acc e => serveStore (locate g grp)
      (fun s ps bs => s.groupStore (s.groupReq g grp .store) grp.launch ps bs) bytes (sizeBytes z) as acc e) start
    let acc := acc.pinned strong g slices
    let s2 ← endServe s g slices .store z as acc
    return s2.advance

/-- A store to memory. -/
def memStore (o : MSt) (s : State) (strong : Bool) : Host.Outcome State Fault Refusal :=
  let n := sizeBytes o.z
  laneStore s o.g o.vd o.va o.z strong 2 (fun xs l => pairAddr xs 0 l)
    (fun grp as => do
      checkAddrs s grp.priv as n
      if strong then checkAlign s as n else .ok ())
    (virtualAt .store (if strong then none else some !o.o) n)

/-- ST: a weak store (R227). -/
def execSt (o : MSt) (s : State) := memStore o s false
/-- STS: a strong store, a release when its order bit is set (R126, R227). -/
def execSts (o : MSt) (s : State) := memStore o s true
/-- STL: a weak store to the team's allocation (R229). -/
def execStl (o : MStl) (s : State) : Host.Outcome State Fault Refusal :=
  laneStore s o.g o.vd o.va o.z false 1 (fun xs l => (laneAt (xs.headD (Vector.replicate 32 0)) l).toNat)
    (fun grp as => checkLocal s (s.teamOf grp).lsSize as (sizeBytes o.z)) (localAt (sizeBytes o.z))

/-- ACP: each active lane's copy joins the open batch, after the checks of both its ends (R101, R223 to R225, R238). The
copies are performed before their batch completes (BATCH_COMPLETE). -/
def execAcp (o : MAcp) (s : State) : Host.Outcome State Fault Refusal :=
  let n := sizeBytes o.z
  onGang s fun g grp slices => do
    let active := grp.acting slices o.g
    laneChecks s g grp slices [srcOp o.vd 2, srcOp o.va 2] [] active active
    let (s1, ds) ← readLanes s g slices (srcOp o.vd 2).names
    let (s1, xs) ← readLanes s1 g slices (srcOp o.va 2).names
    let ends := fun (regs : List VReg) => (maskList active).map fun l => (l, pairAddr regs 0 l)
    let dst := ends ds
    let src := ends xs
    let both := dst.zip src
    let glob := both.flatMap fun e => (if o.lsd then [] else [e.1]) ++ (if o.lss then [] else [e.2])
    let loc := both.flatMap fun e => (if o.lsd then [e.1] else []) ++ (if o.lss then [e.2] else [])
    checkAddrs s grp.priv glob n
    checkAlign s (both.flatMap fun e => [e.1, e.2]) n
    checkLocal s (s.teamOf grp).lsSize loc n
    let mk := fun (ls : Bool) a => if ls then CopyEnd.localStore (BitVec.ofNat 20 a) else CopyEnd.global (BitVec.ofNat 64 a)
    let copies := both.map fun e =>
      { dst := mk o.lsd e.1.2, src := mk o.lss e.2.2, size := n, priv := grp.priv, parked := none, abandoned := false
        lane := Fin.ofNat 32 e.1.1, issue := s.nextId, lanes := active, word := s.fetched.word, pc := (grp.lead slices).pc
        sidecar := s.fetched.sidecar, uft := (s.ctxOfGroup g grp).uft, since := s.fresh : Copy }
    match s1.group? g with
    | none => return s1
    | some grp =>
      return (State.setGroup { s1 with nextId := s1.nextId + 1 } g { grp with
        batches := { grp.batches with unsealed := grp.batches.unsealed ++ copies } }).advance

end Sys2Proof.Machine
end

