-- ==== Sys2Proof/Machine/Atomic.lean ====
section
/-! DEFINITION. Atomics: what each operation makes of the old value (R232), which targets support it (R136), and the lane
atomics (R231, R233). -/

namespace Sys2Proof.Machine

open Sys2Proof

/-- The value an atomic writes: `old` in memory, `x` the data or CAS's comparand, `new` CAS's replacement (R232). -/
def atomValue (op : AtomOp) (w64 : Bool) (old x new : Nat) : Nat :=
  let w := if w64 then 64 else 32
  match op with
  | .add => (old + x) % 2 ^ w
  | .sub => (old + 2 ^ w - x) % 2 ^ w
  | .minI => if signed w x < signed w old then x else old
  | .maxI => if signed w old < signed w x then x else old
  | .minN => min old x
  | .maxN => max old x
  | .land => old &&& x
  | .lor => old ||| x
  | .lxor => old ^^^ x
  | .swap => x
  | .cas => if old = x then new else old
  | .fadd =>
    let f := if w64 then Fmt.f64 else Fmt.f32
    (fpAdd f .rne false (f.operand false old) (f.operand false x)).1

/-- The context, device and address that an address of the peer window stands for on this package (R417). -/
def State.homeOf (s : State) (r : Req) (va : Nat) : Fin 4 × Asn × Nat :=
  if inPeer va then
    match s.importFor r.ld va 1 with
    | none => (r.ld, r.asn, va)
    | some imp =>
      match s.exportFor imp.token with
      | some (ld, e) => (ld, e.asn, e.base.toNat + (va - imp.win.toNat))
      | none => (r.ld, r.asn, va)
  else (r.ld, r.asn, va)

/-- The address lies in a page of a publish buffer (R136, R298). -/
def State.inPublished (s : State) (r : Req) (va : Nat) : Bool :=
  let (ld, asn, a) := s.homeOf r va
  match s.leafFor { r with ld := ld, asn := asn } a with
  | .ok (leaf, _) => bit leaf 54
  | _ => false

/-- The target completes the atomic UNSUP (R136). -/
def State.unsupported (s : State) (r : Req) (va : Nat) (op : AtomOp) (ps : List Place) : Bool :=
  let host := ps.any fun p => match p with
    | .byte l => decide (2 ^ 64 ≤ l ∧ l < 2 ^ 65)
    | .cached c => decide (2 ^ 64 ≤ c.loc ∧ c.loc < 2 ^ 65)
    | _ => false
  let mx := ps.any fun p => match p with
    | .mx .. => true
    | _ => false
  mx || s.inPublished r va || (host && (!(op == .add || op == .swap || op == .cas) || !Config.hostAtomics ps.length))

/-- A list put in an order that free numbers choose (R121, R233). -/
def freeOrder (fresh : Nat) : List LaneAddr → List LaneAddr
  | [] => []
  | e :: rest => ins e (freeOrder fresh rest)
where
  /-- Insertion by key. -/
  ins (e : LaneAddr) : List LaneAddr → List LaneAddr
    | [] => [e]
    | x :: xs => if Config.freeNat fresh e.1 ≤ Config.freeNat fresh x.1 then e :: x :: xs else x :: ins e xs

/-- The order in which an event's atomics are performed: open when two of them reach the same bytes (R233). -/
def atomicOrder (fresh : Nat) (places : List (Nat × List Place)) (as : List LaneAddr) : List LaneAddr :=
  if (places.flatMap fun e => e.2.flatMap Place.locs).Nodup then as else freeOrder fresh as

/-- The places of every lane's atomic, found before any is performed (R233): the lanes refused and the first reason, or the
places lane by lane. -/
structure Located where
  s : State
  places : List (Nat × List Place)
  refused : LaneMask
  reason : Nat

/-- One lane's translation. -/
def locateLane (locate : Locate) (acc : Located) (e : LaneAddr) : Except Stop Located := do
  match locate acc.s e.2 with
  | .error why =>
    return { acc with refused := acc.refused ||| laneSet [e.1], reason := if acc.refused = 0 then why else acc.reason }
  | .ok (s, ps) => return { acc with s := s, places := acc.places ++ [(e.1, ps)] }

/-- One lane's atomic performed: not where it reads poison (R226, R376). -/
def performAtomic (r : Req) (launch : Nat) (op : AtomOp) (n : Nat) (places : List (Nat × List Place))
    (data : Nat → Nat × Nat) (acc : Served) (e : LaneAddr) : Served :=
  match getBy e.1 places with
  | none => acc
  | some ps =>
    let (bs, p) := acc.s.readAtomic ps
    match p with
    | some i => { acc with poison := acc.poison ||| laneSet [e.1], pat := if acc.poison = 0 then e.2 + i else acc.pat }
    | none =>
      let old := ofBytes bs
      let (x, new) := data e.1
      { acc with
        s := acc.s.groupStore r launch ps (toBytes n (atomValue op (n == 8) old x new))
        done := acc.done ||| laneSet [e.1]
        vals := setLane acc.vals e.1 [BitVec.ofNat 32 old, BitVec.ofNat 32 (old / 2 ^ 32)] }

/-- ATOM and ATOM.64: no lane performs until every lane is translated and supported (R225, R233); a returning atomic's
first register or pair takes the old value. -/
def laneAtomic (o : MAtom) (s : State) (w64 : Bool) : Host.Outcome State Fault Refusal :=
  let n := if w64 then 8 else 4
  let regs := if w64 then 2 else 1
  let width := if o.op = .cas then 2 * regs else regs
  onGang s fun g grp slices => do
    let active := grp.acting slices o.g
    let data : VOp := srcOp o.vd width
    laneChecks s g grp slices [srcOp o.va 2, data] (if o.nr then [] else [dstOp o.vd regs]) active active
    let prog := grp.progressOf slices
    let (s1, xs) ← readLanes s g slices (srcOp o.va 2).names
    let (s1, ds) ← readLanes s1 g slices data.names
    let as := (maskList active).map fun l => (l, pairAddr xs 0 l)
    checkAddrs s grp.priv as n
    checkAlign s as n
    let req := s.groupReq g grp .atomic
    let left := as.filter fun e => !maskHas prog.done e.1
    let loc ← left.foldlM (fun acc e => locateLane (virtualAt .atomic none n g grp) acc e) ⟨s1, [], 0, 0⟩
    if loc.refused ≠ 0 then
      .error (.wait (loc.s.parkGroup g slices 0 .atomic (codeOfBytes n) loc.reason (lowestLeft as prog.done) loc.refused prog.done
        { (s1.group? g).elim prog (fun now => now.progressOf slices) with left := maskOf 32 (left.map Prod.fst) }))
    else
      laneTrap s .atomtype (left.filter fun e => s.unsupported req e.2 o.op ((getBy e.1 loc.places).getD []))
      let word := fun l i => (laneAt (ds.getD i (Vector.replicate 32 0)) l).toNat
      let num := fun l i => if w64 then word l i + 2 ^ 32 * word l (i + 1) else word l i
      let acc := (atomicOrder s.fresh loc.places left).foldl
        (performAtomic req grp.launch o.op n loc.places fun l => (num l 0, num l regs))
        ⟨loc.s, prog.done, prog.values regs, 0, 0, 0, 0⟩
      let acc := acc.pinned true g slices
      if acc.poison ≠ 0 then
        let s' := match acc.s.group? g with
          | some now => acc.s.setGroup g { grp with
              slices := now.slices
              progress := (now.keepProgress slices { now.progressOf slices with
                done := acc.done, vals := acc.vals.zipIdx.map fun (v, i) => (i, v) }).progress }
          | none => acc.s
        .error (.trap { kind := .poison, lanes := acc.poison, val := poisonVal acc.pat } s')
      else if o.nr then return acc.s.advance
      else
        return (← deliver acc.s g slices active o.la.val prog.dropped
          (acc.vals.zipIdx.map fun (v, i) => (o.vd.val + i, v))).advance

/-- ATOM: n32 data (R231). -/
def execAtom (o : MAtom) (s : State) := laneAtomic o s false
/-- ATOM.64: n64 data (R231). -/
def execAtom64 (o : MAtom) (s : State) := laneAtomic o s true

end Sys2Proof.Machine
end

