-- ==== Sys2Proof/Machine/Digest.lean ====
section
/-! DEFINITION. SHA-512 and the verification of an RSASSA-PSS signature, which the checks of a firmware image and of its measurements
are made of (R427, R428). -/

namespace Sys2Proof.Machine

open Sys2Proof

/-! ### SHA-512 -/

/-- The first 80 primes, from which the constants of SHA-512 come. -/
def shaPrimes : List Nat := ((List.range 410).filter fun n => 2 ≤ n && (List.range n).all fun d => d < 2 || n % d != 0)

/-- The integer cube root of a number below 2^204. -/
def cubeRoot (n : Nat) : Nat :=
  (List.range 68).foldl (fun r k => let x := r + 2 ^ (67 - k); if x * x * x ≤ n then x else r) 0

/-- The first 64 bits of the fraction of a prime's cube root: a round constant. -/
def shaRound (p : Nat) : DWord := BitVec.ofNat 64 (cubeRoot (p * 2 ^ 192))

/-- The first 64 bits of the fraction of a prime's square root: a word of the first hash value. -/
def shaStart (p : Nat) : DWord := BitVec.ofNat 64 (Nat.sqrt (p * 2 ^ 128))

/-- The exclusive or of three words. -/
def xor3 (a b c : DWord) : DWord := a ^^^ b ^^^ c

/-- The value of bytes, the first the most significant. -/
def bigEndian (bs : List Byte) : Nat := bs.foldl (fun n b => 256 * n + b.toNat) 0

/-- A number as so many bytes, the first the most significant. -/
def toBigEndian (n x : Nat) : List Byte := (List.range n).map fun i => BitVec.ofNat 8 (x / 256 ^ (n - 1 - i))

/-- A message padded to whole blocks of 128 bytes. -/
def shaPad (m : List Byte) : List Byte :=
  m ++ 0x80 :: List.replicate ((239 - m.length % 128) % 128) 0 ++ toBigEndian 16 (8 * m.length)

/-- The next word of a message schedule that is kept latest first. -/
def shaNext (w : List DWord) : DWord :=
  let x := w.getD 1 0
  let y := w.getD 14 0
  xor3 (x.rotateRight 19) (x.rotateRight 61) (x >>> 6) + w.getD 6 0 + xor3 (y.rotateRight 1) (y.rotateRight 8) (y >>> 7) + w.getD 15 0

/-- The 80 words of a block's message schedule. -/
def shaSchedule (block : List Byte) : List DWord :=
  let first := (List.range 16).map fun i => (BitVec.ofNat 64 (bigEndian ((block.drop (8 * i)).take 8)) : DWord)
  ((List.range 64).foldl (fun w _ => shaNext w :: w) first.reverse).reverse

/-- One round on the eight working words, with a schedule word and a round constant. -/
def shaStep (v : List DWord) (wk : DWord × DWord) : List DWord :=
  match v with
  | [a, b, c, d, e, f, g, h] =>
    let t1 := h + xor3 (e.rotateRight 14) (e.rotateRight 18) (e.rotateRight 41) + ((e &&& f) ^^^ (~~~e &&& g)) + wk.2 + wk.1
    let t2 := xor3 (a.rotateRight 28) (a.rotateRight 34) (a.rotateRight 39) + xor3 (a &&& b) (a &&& c) (b &&& c)
    [t1 + t2, a, b, c, d + t1, e, f, g]
  | _ => v

/-- One block taken into a hash value. -/
def shaBlock (h : List DWord) (block : List Byte) : List DWord :=
  List.zipWith (· + ·) h (((shaSchedule block).zip (shaPrimes.map shaRound)).foldl shaStep h)

/-- SHA-512, as R427 and R428 name it: 64 bytes. -/
def sha512 (m : List Byte) : List Byte :=
  let p := shaPad m
  let h := (List.range (p.length / 128)).foldl (fun h i => shaBlock h ((p.drop (128 * i)).take 128)) ((shaPrimes.take 8).map shaStart)
  h.flatMap fun x => toBigEndian 8 x.toNat

/-! ### RSASSA-PSS (RFC 8017) with RSA-4096, SHA-512, MGF1 with SHA-512 and a salt of 64 bytes -/

/-- The 65,537th power of a number under a modulus. -/
def rsaPower (n x : Nat) : Nat := (List.range 16).foldl (fun y _ => y * y % n) x * x % n

/-- A mask of so many bytes from a seed (MGF1). -/
def mgf1 (seed : List Byte) (n : Nat) : List Byte :=
  ((List.range ((n + 63) / 64)).flatMap fun i => sha512 (seed ++ toBigEndian 4 i)).take n

/-- The encoded message of 512 bytes fits a digest. -/
def pssFits (digest em : List Byte) : Bool :=
  let masked := em.take 447
  let h := (em.drop 447).take 64
  let db := List.zipWith (· ^^^ ·) masked (mgf1 h 447)
  let db := (db.headD 0 &&& 0x7F) :: db.drop 1
  (em.getD 511 0 == 0xBC) && decide ((masked.headD 0).toNat < 128) && (db.take 382).all (· == 0) && db.getD 382 0 == 1 &&
    sha512 (List.replicate 8 0 ++ digest ++ db.drop 383) == h

/-- A signature of a digest verifies under a modulus. -/
def pssVerifies (modulus signature digest : List Byte) : Bool :=
  let n := bigEndian modulus
  let x := bigEndian signature
  decide (x < n) && pssFits digest (toBigEndian 512 (rsaPower n x))

/-! ### The firmware image (R427) -/

/-- Code of a firmware image: at most 240 KiB. -/
def codeLimit : Nat := 240 * 1024

/-- A field of an image's header, of so many bytes; where it stands has no stated form. -/
def imageField (image : List Byte) (k : Fin 6) (n : Nat) : List Byte := (image.drop (Config.imageOffset k)).take n

/-- The length of an image's code. -/
def imageCodeLength (image : List Byte) : Nat := ofBytes (imageField image 2 4)

/-- The version in an image's header. -/
def imageVersion (image : List Byte) : DWord := BitVec.ofNat 64 (ofBytes (imageField image 1 8))

/-- What an image's digest covers: its header without the signature, and its code. -/
def imageSigned (image : List Byte) : List Byte :=
  let at_ := Config.imageOffset 5
  image.take at_ ++ ((image.take 2048).drop (at_ + 512)) ++ (image.drop 2048).take (imageCodeLength image)

/-- The SHA-512 digest of an image's header, without its signature field, and its code. -/
def imageDigest (image : List Byte) : List Byte := sha512 (imageSigned image)

/-- The ROM accepts an image: its magic and its code length are right, the digest of its modulus is the fused key digest, and its
signature verifies (R427; log entry 131). -/
def imageVerifies (image : List Byte) : Bool :=
  ofBytes (imageField image 0 4) == 0x51534657 && decide (imageCodeLength image ≤ codeLimit) &&
    sha512 (imageField image 4 512) == Config.keyDigest && pssVerifies (imageField image 4 512) (imageField image 5 512) (imageDigest image)

end Sys2Proof.Machine
end

