-- ==== Sys2Proof/Machine/Uniform.lean ====
section
/-! DEFINITION. Uniform arithmetic, conditions and special registers (R65, R66, R277 to R283). -/

namespace Sys2Proof.Machine

open Sys2Proof

/-- A word for groups and Pilots alike. -/
def onAny (s : State) (f : Except Stop State) : Host.Outcome State Fault Refusal :=
  match s.cur with
  | none => .refused .noIssuer
  | some (.pilot _) => settle f
  | some (.gang g _) =>
    match s.group? g with
    | none => .refused .noIssuer
    | some grp => settle (keepGroup g grp f)

/-- No queue access of the word's own. -/
def noPorts : PortPlan := ⟨[], []⟩

/-- A guarded uniform word: with a false condition it has no effect (R277); else its sources are read, `f` acts, and the
word completes. -/
def uniformOp (s : State) (srcs dsts : List (Fin 64)) (f : State → List DWord → Except Stop State) :
    Host.Outcome State Fault Refusal :=
  onAny s do
    if !s.condHolds then return s.advance
    let (vs, plan) ← uniformSources s srcs dsts noPorts
    return (← f (s.commitPops plan) vs).advance

/-- A uniform word that writes one register. -/
def scalarOp (s : State) (srcs : List (Fin 64)) (sd : Fin 64) (f : List DWord → DWord) : Host.Outcome State Fault Refusal :=
  uniformOp s srcs [sd] fun s vs => .ok (s.writeUniform sd (f vs))

/-- A value by position. -/
def uv (vs : List DWord) (i : Nat) : DWord := vs.getD i 0

/-- Two registers to one. -/
def scalar3 (o : UR3) (s : State) (f : DWord → DWord → DWord) : Host.Outcome State Fault Refusal :=
  scalarOp s [o.sa, o.sb] o.sd fun vs => f (uv vs 0) (uv vs 1)

/-- One register to one. -/
def scalar2 (o : UR2) (s : State) (f : DWord → DWord) : Host.Outcome State Fault Refusal :=
  scalarOp s [o.sa] o.sd fun vs => f (uv vs 0)

/-- SADD (R278). -/
def execSadd (o : UR3) (s : State) := scalar3 o s fun a b => a + b
/-- SSUB (R278). -/
def execSsub (o : UR3) (s : State) := scalar3 o s fun a b => a - b
/-- SMUL: the low 64 bits (R278). -/
def execSmul (o : UR3) (s : State) := scalar3 o s fun a b => a * b
/-- SMULH: bits [127:64] of the signed product (R278). -/
def execSmulh (o : UR3) (s : State) := scalar3 o s fun a b => BitVec.ofInt 64 (a.toInt * b.toInt / 2 ^ 64)
/-- SMULHN: bits [127:64] of the unsigned product (R278). -/
def execSmulhn (o : UR3) (s : State) := scalar3 o s fun a b => BitVec.ofNat 64 (a.toNat * b.toNat / 2 ^ 64)
/-- SDIV: signed, towards zero; b = 0 gives all ones (R278). -/
def execSdiv (o : UR3) (s : State) := scalar3 o s fun a b =>
  if b = 0 then BitVec.allOnes 64 else BitVec.ofInt 64 (a.toInt.tdiv b.toInt)
/-- SDIVN: unsigned; b = 0 gives all ones (R278). -/
def execSdivn (o : UR3) (s : State) := scalar3 o s fun a b => if b = 0 then BitVec.allOnes 64 else a / b
/-- SREM: a − q × b; b = 0 gives a (R278). -/
def execSrem (o : UR3) (s : State) := scalar3 o s fun a b => if b = 0 then a else BitVec.ofInt 64 (a.toInt.tmod b.toInt)
/-- SAND (R278). -/
def execSand (o : UR3) (s : State) := scalar3 o s fun a b => a &&& b
/-- SOR (R278). -/
def execSor (o : UR3) (s : State) := scalar3 o s fun a b => a ||| b
/-- SXOR (R278). -/
def execSxor (o : UR3) (s : State) := scalar3 o s fun a b => a ^^^ b
/-- SANDN: a and not b (R278). -/
def execSandn (o : UR3) (s : State) := scalar3 o s fun a b => a &&& ~~~b
/-- SSHL: by b as an n64 (R278). -/
def execSshl (o : UR3) (s : State) := scalar3 o s fun a b => if 64 ≤ b.toNat then 0 else a <<< b.toNat
/-- SSHR (R278). -/
def execSshr (o : UR3) (s : State) := scalar3 o s fun a b => if 64 ≤ b.toNat then 0 else a >>> b.toNat
/-- SSAR (R278). -/
def execSsar (o : UR3) (s : State) := scalar3 o s fun a b => a.sshiftRight (min b.toNat 64)
/-- SROT: left by b mod 64 (R278). -/
def execSrot (o : UR3) (s : State) := scalar3 o s fun a b => a.rotateLeft (b.toNat % 64)
/-- SMIN (R278). -/
def execSmin (o : UR3) (s : State) := scalar3 o s fun a b => if b.toInt < a.toInt then b else a
/-- SMAX (R278). -/
def execSmax (o : UR3) (s : State) := scalar3 o s fun a b => if a.toInt < b.toInt then b else a
/-- SMINN (R278). -/
def execSminn (o : UR3) (s : State) := scalar3 o s fun a b => if b.toNat < a.toNat then b else a
/-- SMAXN (R278). -/
def execSmaxn (o : UR3) (s : State) := scalar3 o s fun a b => if a.toNat < b.toNat then b else a
/-- SPOPC (R278). -/
def execSpopc (o : UR2) (s : State) := scalar2 o s fun a => BitVec.ofNat 64 (popCount 64 a.toNat)
/-- SCLZ: 64 for 0 (R278). -/
def execSclz (o : UR2) (s : State) := scalar2 o s fun a =>
  BitVec.ofNat 64 (if a = 0 then 64 else 63 - Nat.log2 a.toNat)
/-- SCTZ: 64 for 0 (R278). -/
def execSctz (o : UR2) (s : State) := scalar2 o s fun a =>
  BitVec.ofNat 64 (((List.range 64).find? fun i => maskHas a i).getD 64)
/-- SSEL: its condition field selects the operand; it always executes, and reads only the operand selected (R277, R278,
R440). -/
def execSsel (o : USel) (s : State) : Host.Outcome State Fault Refusal :=
  onAny s do
    let (vs, plan) ← uniformSources s [if s.readCond o.c then o.sa else o.sb] [o.sd] noPorts
    return ((s.commitPops plan).writeUniform o.sd (uv vs 0)).advance
/-- SCMP.i (R279). -/
def execScmpI (o : UCmp) (s : State) : Host.Outcome State Fault Refusal :=
  guardForm (o.cc != .un) s <| uniformOp s [o.sa, o.sb] [] fun s vs =>
    .ok (s.writeCond o.k (cmpHolds o.cc (uv vs 0).toInt (uv vs 1).toInt))
/-- SCMP.n (R279). -/
def execScmpN (o : UCmp) (s : State) : Host.Outcome State Fault Refusal :=
  guardForm (o.cc != .un) s <| uniformOp s [o.sa, o.sb] [] fun s vs =>
    .ok (s.writeCond o.k (cmpHolds o.cc (uv vs 0).toNat (uv vs 1).toNat))
/-- SADDI: sa + sext(imm12) (R280). -/
def execSaddi (o : UImm) (s : State) := scalarOp s [o.sa] o.sd fun vs => uv vs 0 + o.imm.signExtend 64
/-- SLUI: imm × 2^14 (R280). -/
def execSlui (o : ULui) (s : State) := scalarOp s [] o.sd fun _ => BitVec.ofNat 64 (o.imm.toNat * 2 ^ 14)
/-- SLIT: the data word, zero-extended (R280). -/
def execSlit (o : ULit) (s : State) := scalarOp s [] o.sd fun _ => o.data.zeroExtend 64
/-- SLITH: the data word above sd[31:0] (R280). -/
def execSlith (o : ULit) (s : State) := scalarOp s [o.sd] o.sd fun vs =>
  BitVec.ofNat 64 ((uv vs 0).toNat % 2 ^ 32 + o.data.toNat * 2 ^ 32)

/-- Position and width of a bit-field control (R281). -/
def fieldAt (c : DWord) : Nat × Nat := (c.toNat % 64, min (bits c.toNat 8 7) (64 - c.toNat % 64))

/-- SBFX (R281). -/
def execSbfx (o : UR3) (s : State) := scalar3 o s fun a b =>
  let (p, w) := fieldAt b
  BitVec.ofNat 64 (bits a.toNat p w)
/-- SBFXS (R281). -/
def execSbfxs (o : UR3) (s : State) := scalar3 o s fun a b =>
  let (p, w) := fieldAt b
  if w = 0 then 0 else BitVec.ofInt 64 (signed w (bits a.toNat p w))
/-- SBFI: sd is also a source (R281). -/
def execSbfi (o : UR3) (s : State) := scalarOp s [o.sa, o.sb, o.sd] o.sd fun vs =>
  let (p, w) := fieldAt (uv vs 1)
  let m : DWord := BitVec.ofNat 64 ((2 ^ w - 1) * 2 ^ p)
  (uv vs 2 &&& ~~~m) ||| ((uv vs 0 <<< p) &&& m)

/-- A logical operation on conditions (R282). -/
def condOp (o : UCond) (s : State) (f : Bool → Bool → Bool) : Host.Outcome State Fault Refusal :=
  uniformOp s [] [] fun s _ => .ok (s.writeCond o.cd (f (s.readCond o.ca) (s.readCond o.cb)))

/-- CAND (R282). -/
def execCand (o : UCond) (s : State) := condOp o s fun a b => a && b
/-- COR (R282). -/
def execCor (o : UCond) (s : State) := condOp o s fun a b => a || b
/-- CXOR (R282). -/
def execCxor (o : UCond) (s : State) := condOp o s fun a b => a != b
/-- CANDN: ca and not cb (R282). -/
def execCandn (o : UCond) (s : State) := condOp o s fun a b => a && !b

/-- SBCV: the gang's active lanes in which pk is true (R283). -/
def execSbcv (o : UPred) (s : State) : Host.Outcome State Fault Refusal :=
  onGang s fun _ grp slices => do
    if !s.condHolds then return s.advance
    let (_, plan) ← uniformSources s [] [o.sd] noPorts
    return ((s.commitPops plan).writeUniform o.sd ((activeLanes slices grp &&& grp.pred o.k).zeroExtend 64)).advance

/-! ### Special registers (R64 to R67) -/

/-- Dword `j` of a stream descriptor (R64). -/
def StreamDesc.dword (d : StreamDesc) (j : Nat) : DWord :=
  if j = 0 then BitVec.ofNat 64 (bitNat d.space * 2 ^ 48 + d.base.toNat)
  else if j ≤ 5 then BitVec.ofNat 64 ((d.extent.getD (j - 1) 0).toNat * 2 ^ 32 + (d.stride.getD (j - 1) 0).toNat)
  else if j = 6 then BitVec.ofNat 64 (bitNat d.dir * 2 ^ 33 + bitNat d.armed * 2 ^ 32 + d.done.toNat)
  else 0

/-- Dword `j` of a stream descriptor written, for j from 0 to 5 (R64). -/
def StreamDesc.write (d : StreamDesc) (j : Nat) (x : DWord) : StreamDesc :=
  if j = 0 then { d with space := bit x.toNat 48, base := BitVec.ofNat 48 x.toNat }
  else { d with extent := d.extent.setIfInBounds (j - 1) (BitVec.ofNat 32 (x.toNat / 2 ^ 32))
                stride := d.stride.setIfInBounds (j - 1) (BitVec.ofNat 32 x.toNat) }

/-- The groups of a team, both roles (R387). -/
def Packet.teamGroups (p : Packet) : Nat := p.cons.groups + p.prod.groups

/-- GRIDDIM of a launch (R66). -/
def State.gridDim (s : State) (launch : Nat) : DWord :=
  match s.launch? launch with
  | some l => BitVec.ofNat 64 (l.pkt.teamGroups * 2 ^ 32 + l.pkt.teams % 2 ^ 32)
  | none => 0

/-- A special register of a group as SRD reads it (R66). -/
def State.groupSpecial (s : State) (g : GroupId) (grp : Group) (slices : BitVec 8) (n : Nat) : DWord :=
  let t := s.teamOf grp
  if n = 0x001 then BitVec.ofNat 64 (grp.present.toNat * 2 ^ 8 + slices.toNat)
  else if n = 0x002 then
    BitVec.ofNat 64 (slotOf g * 2 ^ 20 + (coreIndex (coreOf g)).val * 2 ^ 16 + grp.inRole.val * 2 ^ 8 + grp.inTeam.val)
  else if n = 0x003 then BitVec.ofNat 64 (clusterIndex (clusterOf g) * 2 ^ 32 + t.index % 2 ^ 32)
  else if n = 0x004 then s.gridDim grp.launch
  else if n = 0x005 then BitVec.ofNat 64 (grp.allot / 8 % 8 * 2 ^ 3 + grp.cls.val * 2 + bitNat grp.producer)
  else if n = 0x006 then grp.pix.zeroExtend 64
  else if n = 0x007 then BitVec.ofNat 64 (bitNat grp.wcf)
  else if n = 0x008 then grp.flags.zeroExtend 64
  else if n = 0x009 then grp.fctl.zeroExtend 64
  else if n = 0x00A then BitVec.ofNat 64 s.pack.time
  else if n = 0x00B then grp.ntth.zeroExtend 64
  else if n = 0x00C then grp.modn.zeroExtend 64
  else if n = 0x00D then grp.modb
  else if n = 0x00E then BitVec.ofNat 64 (grp.lead slices).loops.length
  else if n = 0x00F then grp.gang.zeroExtend 64
  else if n = 0x010 then BitVec.ofNat 64 (grp.batches.sealed_.length * 2 ^ 32 + grp.batches.last.toNat)
  else if n = 0x011 then grp.qmap
  else if n = 0x012 then (s.ctxOfGroup g grp).uft.zeroExtend 64
  else if n = 0x013 then grp.region.zeroExtend 64
  else if 0x100 ≤ n ∧ n ≤ 0x13F then
    (grp.sd.getD ((n - 0x100) / 8) StreamDesc.empty).dword (n % 8)
  else 0

/-- The special registers that R66 marks yes for the Pilot. -/
def pilotHas (n : Nat) : Bool := n == 0x004 || n == 0x006 || n == 0x00A || n == 0x00E || n == 0x013

/-- A special register of a Pilot. -/
def State.pilotSpecial (s : State) (p : Pilot) (n : Nat) : DWord :=
  if n = 0x004 then s.gridDim p.launch
  else if n = 0x006 then p.pix.zeroExtend 64
  else if n = 0x00A then BitVec.ofNat 64 s.pack.time
  else if n = 0x00E then BitVec.ofNat 64 p.loops.length
  else p.region.zeroExtend 64

/-- SRD (R65, R66). -/
def execSrd (o : USrd) (s : State) : Host.Outcome State Fault Refusal :=
  onAny s do
    if !srdNumber o.n then illegal s 1
    match s.cur with
    | some (.pilot cl) =>
      let p := (s.cluster cl).pilot
      if !pilotHas o.n.toNat then illegal s 2
      let x := s.pilotSpecial p o.n.toNat
      let (_, _) ← uniformSources s [] [o.sd] noPorts
      return (s.writeUniform o.sd x).advance
    | some (.gang g slices) =>
      let (_, plan) ← uniformSources s [] [o.sd] noPorts
      match s.group? g with
      | none => return s
      | some grp =>
        return ((s.commitPops plan).writeUniform o.sd (s.groupSpecial g grp slices o.n.toNat)).advance
    | none => return s

/-- The reserved bits of QMAP's port bytes read as zero (R67). -/
def qmapMask : DWord := 0xDFDFDFDFDFDFDFDF

/-- A special register of a group written (R64 to R66, R343). -/
def State.writeSpecial (s : State) (g : GroupId) (grp : Group) (n : Nat) (x : DWord) : State :=
  let put := fun (grp : Group) => s.setGroup g grp
  if n = 0x006 then
    if BitVec.ofNat 32 x.toNat = 0 && !s.jointBegun g then (put { grp with pix := 0 }).dropSeqs g else s
  else if n = 0x007 then put { grp with wcf := bit x.toNat 0 }
  else if n = 0x008 then put { grp with flags := BitVec.ofNat 7 x.toNat }
  else if n = 0x009 then put { grp with fctl := BitVec.ofNat 14 x.toNat &&& 0x3F9F }
  else if n = 0x00B then put { grp with ntth := BitVec.ofNat 25 (clamp 64 (2 ^ 24) x.toNat) }
  else if n = 0x00C then put { grp with modn := BitVec.ofNat 32 x.toNat }
  else if n = 0x00D then put { grp with modb := x }
  else if n = 0x011 then put { grp with qmap := x &&& qmapMask }
  else if n = 0x012 then
    let ld := deviceOfGroup g
    let asn := s.asnOf grp.launch
    s.setCtx ld asn { s.ctx ld asn with uft := BitVec.ofNat 8 x.toNat }
  else if 0x100 ≤ n ∧ n ≤ 0x13F then
    let k : Fin 8 := ⟨(n - 0x100) / 8 % 8, by omega⟩
    put { grp with sd := grp.sd.set k (grp.sd[k].write (n % 8) x) }
  else s

/-- SWR: ILLEGAL and PRIV as R65 and R439 order them; a descriptor of an armed stream is ILLEGAL at step 6 (R64). -/
def execSwr (o : USwr) (s : State) : Host.Outcome State Fault Refusal :=
  let n := o.n.toNat
  let atS := n == 0x006 || n == 0x012
  onAny s do
    if !swrNumber o.n then illegal s 1
    match s.cur with
    | some (.pilot cl) =>
      let p := (s.cluster cl).pilot
      if !pilotHas n then illegal s 2
      require (p.priv == .system) s { kind := .priv }
      let (vs, _) ← uniformSources s [o.sa] [] noPorts
      let s1 := if BitVec.ofNat 32 (uv vs 0).toNat = 0 then s.setPilot cl { p with pix := 0 } else s
      return s1.advance
    | some (.gang g _) =>
      match s.group? g with
      | none => return s
      | some grp =>
        require (!atS || grp.priv == .system) s { kind := .priv }
        let (vs, plan) ← uniformSources s [o.sa] [] noPorts
        let armed := decide (0x100 ≤ n) && (grp.sd.getD ((n - 0x100) / 8)
          StreamDesc.empty).armed
        require (!armed) s { kind := .illegal, reason := 6 }
        let s1 := s.commitPops plan
        match s1.group? g with
        | none => return s1
        | some grp => return (s1.writeSpecial g grp n (uv vs 0)).advance
    | none => return s

end Sys2Proof.Machine
end

