-- ==== Sys2Proof/Machine/UniformMem.lean ====
section
/-! DEFINITION. Uniform loads, stores and atomics, of groups and Pilots (R222, R225, R230 to R232, R275, R441). -/

namespace Sys2Proof.Machine

open Sys2Proof

/-- Who makes a uniform access: privilege, device, context and launch, and of a group itself and its core. -/
structure Accessor where
  priv : Priv
  ld : Fin 4
  asn : Asn
  launch : Nat
  g : Option GroupId
  code : Nat
  maker : Option Maker
  sidecar : Option Word

/-- The accessor of the word in execution. -/
def State.accessor (s : State) : Accessor :=
  match s.cur with
  | some (.gang g _) =>
    match s.group? g with
    | some grp => ⟨grp.priv, deviceOfGroup g, s.asnOf grp.launch, grp.launch, some g, s.wordCode, some (s.groupMaker g grp), s.fetched.sidecar⟩
    | none => ⟨.user, 0, 0, 0, none, 0, none, none⟩
  | some (.pilot cl) => let p := (s.cluster cl).pilot; 
    ⟨p.priv, deviceOf cl, s.asnOf p.launch, p.launch, none, s.wordCode, some ⟨agentOfCluster cl, 9, p.pc, s.fetched.word.toNat⟩, none⟩
  | none => ⟨.user, 0, 0, 0, none, 0, none, none⟩

/-- The translation request of a uniform access. -/
def Accessor.req (a : Accessor) (k : AccKind) : Req :=
  { ld := a.ld, asn := a.asn, priv := a.priv, kind := k, core := a.g.map fun g => (coreOf g).val, g := a.g, code := a.code
    maker := a.maker, sidecar := a.sidecar }

/-- A Pilot's access lies in Pilot memory (R275). -/
def State.inPilotMemory (s : State) (a : Nat) : Option ClusterId :=
  match s.cur with
  | some (.pilot cl) => if a < 2 ^ 16 then some cl else none
  | _ => none

/-- Steps 4 and 5 of R225 for one uniform access; a Pilot's access across 0x1_0000 is BOUNDS (R275). -/
def checkUniform (s : State) (a n : Nat) (aligned : Bool) : Except Stop Unit := do
  let val := BitVec.ofNat 64 a
  match s.inPilotMemory a with
  | some _ => require (decide (a + n ≤ 2 ^ 16)) s { kind := .bounds, val := val }
  | none =>
    match addrKind s.accessor.priv a n with
    | some k => .error (.trap { kind := k, val := val } s)
    | none => .ok ()
  require (!aligned || a % n == 0) s { kind := .align, val := val }

/-- Where a uniform access's bytes stand, or the reason of its refusal; a weak one allocates in the caches (R105). -/
def State.uniformPlaces (s : State) (k : AccKind) (weak : Bool) (a n : Nat) : Except Nat (State × List Place) :=
  match s.inPilotMemory a with
  | some cl => .ok (s, (List.range n).map fun i => .byte (pilotLoc cl.val (a + i)))
  | none => s.places { s.accessor.req k with l1 := if weak then some true else none } a n

/-- An acquire of the word's issuer; a Pilot has no L1 (R105). -/
def State.acquireIssuer (s : State) : State :=
  match s.cur with
  | some (.gang g _) => s.acquire g
  | _ => s

/-- A uniform access is refused: a group is parked at its word; a Pilot's access is parked, and its generator goes on (R340, R443).
The one access is written as lane 0. -/
def State.parkUniform (s : State) (reason a : Nat) (act : PilotAct) : Except Stop State :=
  match s.cur with
  | some (.gang g slices) =>
    match s.group? g with
    | some grp => .error (.wait (s.parkGroup g slices 0 act.kind act.code reason a 1 0 { grp.progressOf slices with left := 1 }))
    | none => .error (.wait s)
  | some (.pilot cl) =>
    .ok ({ s with nextId := s.nextId + 1 }.parkPilot cl reason
      { id := s.nextId, pc := (s.cluster cl).pilot.pc, word := s.fetched.word, addr := BitVec.ofNat 64 a, act := act, state := .parked
        uft := (s.ctx (deviceOf cl) s.accessor.asn).uft }).advance
  | none => .error (.wait s)

/-- A memory access of `n` bytes follows a refused one in order: they touch a common byte, or one of them acquires or releases (R120,
R126, R128). -/
def PilotAccess.before (p : PilotAccess) (a n : Nat) (strong : Bool) : Bool :=
  strong || p.strong || decide (p.addr.toNat < a + n ∧ a < p.addr.toNat + p.size)

/-- A memory word of a Pilot waits for the refused accesses of the Pilot that go before its own; the generator runs on past others
(R340). -/
def checkAccess (s : State) (a n : Nat) (strong : Bool) : Except Stop Unit :=
  match s.cur with
  | some (.pilot cl) =>
    if (s.cluster cl).pilot.accesses.any fun p => p.before a n strong then .error (.wait (s.awaitAccess cl)) else .ok ()
  | _ => .ok ()

/-- A fence of a Pilot, and its end, wait for every refused access of the Pilot (R133, R340). -/
def checkQuiet (s : State) : Except Stop Unit :=
  match s.cur with
  | some (.pilot cl) => if (s.cluster cl).pilot.accesses.isEmpty then .ok () else .error (.wait (s.awaitAccess cl))
  | _ => .ok ()

/-- A strong uniform access of a group bars a rewind (R146). -/
def State.pinIssuer (s : State) : State :=
  match s.cur with
  | some (.gang g slices) => s.pinGroup g slices
  | _ => s

/-- The entry reserved by the word in execution, while it is parked (R441). -/
def State.reservation (s : State) : Option (Fin 32 × Nat) :=
  match s.cur with
  | some (.gang g slices) => (s.group? g).bind fun grp => (grp.progressOf slices).reserved.head?
  | _ => none

/-- The physical queue that a destination register pushes to (R41). -/
def State.pushPort (s : State) (r : Fin 64) : Option (Fin 32) :=
  match s.cur with
  | some (.gang g _) => (s.group? g).bind fun grp => (grp.port r).bind fun e => s.queueOf grp e.2
  | _ => none

/-- Reserves an entry at the tail of the destination's queue, unless the word holds one (R441). -/
def State.reserve (s : State) (r : Fin 64) : State :=
  match s.cur, s.pushPort r, s.reservation with
  | some (.gang g slices), some q, none =>
    let cl := clusterOf g
    let id := ((s.cluster cl).queues[q]).nextId
    let s := s.pushQueue cl q none
    match s.group? g with
    | some grp => s.setGroup g (grp.keepProgress slices { grp.progressOf slices with reserved := [(q, id)] })
    | none => s
  | _, _, _ => s

/-- The word's reservation is released (R441). -/
def State.unreserve (s : State) : State :=
  match s.cur, s.reservation with
  | some (.gang g slices), some (q, id) =>
    let cl := clusterOf g
    let s := s.setCluster cl ((s.cluster cl).mapQueue q (·.release id))
    match s.group? g with
    | some grp => s.setGroup g (grp.keepProgress slices { grp.progressOf slices with reserved := [] })
    | none => s
  | _, _ => s

/-- The windows of a uniform result in flight. -/
def State.uniformWindows (s : State) (la : Nat) : List (Nat × Nat) :=
  match s.cur with
  | some (.gang _ slices) => windows slices la
  | _ => [(0, la)]

/-- A uniform load's value, unless a forced debugger write has dropped it (R353): into its queue entry, its register, or the register after the window (R152, R230, R441). -/
def State.deliverUniform (s : State) (sd : Fin 64) (la : Nat) (x : DWord) : State :=
  match s.cur with
  | some (.gang g slices) =>
    match s.group? g with
    | none => s
    | some grp =>
      let pc := (grp.lead slices).pc
      if (grp.progressOf slices).dropped.contains (96 + sd.val) && s.reservation.isNone then s
      else
      let flight : InFlight := { pc := pc, regs := [], lanes := 0, late := [], gone := [], sreg := none, sover := false
                                 sdone := false, push := none, left := windows slices la }
      match s.reservation with
      | some (q, id) =>
        let grp := grp.pin slices
        if la = 0 then (s.setCluster (clusterOf g) ((s.cluster (clusterOf g)).mapQueue q (·.fill id x))).setGroup g grp
        else s.setGroup g { grp with inflight := grp.inflight ++ [{ flight with push := some (q, id), sreg := some (0, x) }] }
      | none =>
        if la = 0 ∨ sd = 0 ∨ (grp.port sd).isSome then s.writeUniform sd x
        else s.setGroup g { grp with
          inflight := (grp.inflight.map fun f => f.overtakenS sd) ++
            [{ flight with sreg := some (sd, x) }]
          spoison := grp.spoison.filter fun q => q ≠ sd }
  | some (.pilot cl) =>
    let p := (s.cluster cl).pilot
    if la = 0 ∨ sd = 0 then s.writeUniform sd x
    else s.setPilot cl { p with
      inflight := (p.inflight.map fun f => f.overtakenS sd) ++
        [{ pc := p.pc, regs := [], lanes := 0, late := [], gone := [], sreg := some (sd, x), sover := false, sdone := false,
           push := none, left := [(0, la)] }]
      spoison := p.spoison.filter fun q => q ≠ sd }
  | none => s

/-- The destinations whose queue room is still to be tested: none once the entry is reserved (R441). -/
def State.roomFor (s : State) (sd : Fin 64) : List (Fin 64) := if s.reservation.isSome then [] else [sd]

/-- The offset address of a UM word (R230). -/
def offAddr (a : DWord) (off : Fin 256) : Nat := (a.toNat + 8 * off.val) % 2 ^ 64

/-- SLD and SLDA (R230). -/
def uniformLoad (o : ULd) (s : State) (strong : Bool) : Host.Outcome State Fault Refusal :=
  onAny s do
    let (vs, plan) ← uniformSources s [o.sa] (s.roomFor o.sd) noPorts
    let a := offAddr (uv vs 0) o.off
    checkAccess s a 8 strong
    checkUniform s a 8 strong
    let s1 := (s.commitPops plan).reserve o.sd
    match s1.uniformPlaces .load (!strong) a 8 with
    | .error why => s1.parkUniform why a (.load o.sd)
    | .ok (s2, ps) =>
      let (bs, p) := s2.readPlaces ps
      match p with
      | some i => .error (.trap { kind := .poison, val := poisonVal (a + i) } s2.unreserve)
      | none =>
        let s3 := if strong then s2.pinIssuer.acquireIssuer else s2
        return (s3.deliverUniform o.sd o.la.val (BitVec.ofNat 64 (ofBytes bs))).advance

/-- SLD: weak (R230). -/
def execSld (o : ULd) (s : State) := uniformLoad o s false
/-- SLDA: an acquire load (R230). -/
def execSlda (o : ULd) (s : State) := uniformLoad o s true

/-- SST and SSTR (R230). -/
def uniformStore (o : USt) (s : State) (strong : Bool) : Host.Outcome State Fault Refusal :=
  onAny s do
    let (vs, plan) ← uniformSources s [o.sa, o.sd] [] noPorts
    let a := offAddr (uv vs 0) o.off
    checkAccess s a 8 strong
    checkUniform s a 8 strong
    let s1 := s.commitPops plan
    match s1.uniformPlaces .store (!strong) a 8 with
    | .error why => s1.parkUniform why a (.store (uv vs 1))
    | .ok (s2, ps) =>
      let s3 := if strong then s2.pinIssuer else s2
      return (s3.groupStore (s3.accessor.req .store) s3.accessor.launch ps (toBytes 8 (uv vs 1).toNat)).advance

/-- SST: weak (R230). -/
def execSst (o : USt) (s : State) := uniformStore o s false
/-- SSTR: a release store (R230). -/
def execSstr (o : USt) (s : State) := uniformStore o s true

/-- The register is a push port (R41). -/
def State.isPushPort (s : State) (r : Fin 64) : Bool :=
  match s.cur with
  | some (.gang g _) => (s.group? g).any fun grp => (grp.port r).any Prod.fst
  | _ => false

/-- SATOM: data in sd, and CAS's replacement in s(sd+1); the old value to sd unless no-return (R231, R232). A returning SATOM whose
sd is a push port takes its data from the register's stored contents and returns the old value through the port (R41, R441, log
entry 107). -/
def execSatom (o : UAtom) (s : State) : Host.Outcome State Fault Refusal :=
  let n := if o.w64 then 8 else 4
  onAny s do
    require (o.op != .cas || o.sd.val % 2 == 0) s { kind := .illegal, reason := 3 }
    let cas := o.op == .cas
    let stored := !o.nr && s.isPushPort o.sd
    let (vs, plan) ← uniformSources s (o.sa :: ((if stored then [] else [o.sd]) ++ (if cas then [pairOf o.sd] else [])))
      (if o.nr then [] else s.roomFor o.sd) noPorts
    let vs := if stored then uv vs 0 :: s.readU o.sd :: vs.drop 1 else vs
    let a := (uv vs 0).toNat
    checkAccess s a n true
    checkUniform s a n true
    let s1 := s.commitPops plan
    let s1 := if o.nr then s1 else s1.reserve o.sd
    match s1.uniformPlaces .atomic false a n with
    | .error why => s1.parkUniform why a (.atomic o.op o.w64 (uv vs 1) (uv vs 2) (if o.nr then none else some o.sd))
    | .ok (s2, ps) =>
      let req := s2.accessor.req .atomic
      if (s2.inPilotMemory a).isNone && s2.unsupported req a o.op ps then
        .error (.trap { kind := .atomtype, val := BitVec.ofNat 64 a } s1.unreserve)
      let (bs, p) := s2.readAtomic ps
      match p with
      | some i => .error (.trap { kind := .poison, val := poisonVal (a + i) } s2.unreserve)
      | none =>
        let old := ofBytes bs
        let cut := fun (x : DWord) => x.toNat % 2 ^ (8 * n)
        let s3 := s2.pinIssuer.groupStore req s2.accessor.launch ps
          (toBytes n (atomValue o.op o.w64 old (cut (uv vs 1)) (cut (uv vs 2))))
        return (if o.nr then s3 else s3.deliverUniform o.sd o.la.val (BitVec.ofNat 64 old)).advance

/-- A Pilot's refused access stops its Pilot (R347). -/
def State.faultAccess (s : State) (cl : ClusterId) (a : PilotAccess) : State :=
  let p := (s.cluster cl).pilot
  s.setPilot cl { p with accesses := p.accesses.map fun x => if x.id = a.id then { x with state := .faulted } else x }

/-- A Pilot's refused access made again after REPLAY: it is refused anew, or it is performed, and its register takes the value
(R340, R341); poison read is a level G fault (R348). -/
def State.retryAccess (s : State) (cl : ClusterId) (a : PilotAccess) : State :=
  let n := match a.act with
    | .atomic _ false .. => 4
    | _ => 8
  let s := { s with cur := some (.pilot cl), fetched := ⟨a.word, 0, none, false⟩ }
  let req := { s.accessor.req a.act.kind with uft := some a.uft, maker := some ⟨agentOfCluster cl, 9, a.pc, a.word.toNat⟩ }
  let ended := fun (s : State) =>
    let p := (s.cluster cl).pilot
    s.setPilot cl { p with
      accesses := p.accesses.filter fun x => x.id ≠ a.id, wait := if p.wait = .parked then .ready else p.wait }
  let give := fun (s : State) (r : Fin 64) (x : DWord) =>
    let p := (s.cluster cl).pilot
    s.setPilot cl { p with u := p.u.set r x, spoison := p.spoison.filter fun q => q ≠ r }
  match s.places req a.addr.toNat n with
  | .error why => s.parkPilot cl why a
  | .ok (s, ps) =>
    let (bs, p) := if a.act.kind = .atomic then s.readAtomic ps else s.readPlaces ps
    let old := ofBytes bs
    let fail := fun (s : State) (t : Trap) => (s.faultAccess cl a).generatorFaultAt cl a.pc a.word t
    match a.act with
    | .store x => ended (s.groupStore req s.accessor.launch ps (toBytes n x.toNat))
    | .load sd =>
      match p with
      | some i => fail s { kind := .poison, val := poisonVal (a.addr.toNat + i) }
      | none => ended (give s sd (BitVec.ofNat 64 old))
    | .atomic op w64 x new sd =>
      if s.unsupported req a.addr.toNat op ps then fail s { kind := .atomtype, val := a.addr }
      else match p with
      | some i => fail s { kind := .poison, val := poisonVal (a.addr.toNat + i) }
      | none =>
        let cut := fun (x : DWord) => x.toNat % 2 ^ (8 * n)
        let s := s.groupStore req s.accessor.launch ps (toBytes n (atomValue op w64 old (cut x) (cut new)))
        ended (match sd with
          | some r => give s r (BitVec.ofNat 64 old)
          | none => s)

end Sys2Proof.Machine
end

