-- ==== Sys2Proof/Machine/Team.lean ====
section
/-! DEFINITION. What a team shares: barriers (R23, R294), accumulator slots (R260, R267 to R269), rendezvous latches
(R256), and the end of groups and teams (R17, R240, R292, R396). -/

namespace Sys2Proof.Machine

open Sys2Proof

/-! ### The words that a slice has fetched from an emit stream (R46, R299, R322) -/

/-- The word offset of a berth address in its stream's window (R300). -/
def berthWord (a : Addr) : Nat := (a.toNat - berthBase) % 2 ^ 20 / 4

/-- The word and sidecar of a stream at a window offset, with its sequence number, while the stream holds it. -/
def EmitStream.at? (e : EmitStream) (off : Nat) : Option (Word × Word × Nat) :=
  let n := e.words.length
  let first := (e.count.toNat + 2 ^ 32 - n) % 2 ^ 18
  let i := (off + 2 ^ 18 - first) % 2 ^ 18
  match e.words[i]? with
  | some (w, c) => some (w, c, (e.count.toNat + 2 ^ 32 - n + i) % 2 ^ 32)
  | none => none

/-- The sequence number of the last word of the instruction at a window offset: of a UX pair, its data word's. -/
def EmitStream.lastSeq (e : EmitStream) (off : Nat) : Option Nat :=
  (e.at? off).map fun (w, _, n) => if isLiteral w.toNat then (n + 1) % 2 ^ 32 else n

/-- A slice has fetched a word of a stream: it is a consumer, and its last fetch is that word. -/
def Slice.fetchedWord (sl : Slice) (k : Fin 16) (seq : Nat) : Slice :=
  let m : TowMark := { stream := k, last := some (BitVec.ofNat 32 seq), entry := BitVec.ofNat 32 seq }
  { sl with tows := m :: sl.tows.filter fun x => x.stream ≠ k }

/-- A slice of a group that has fetched the instruction at an address: one outside the berth leaves its marks alone. -/
def State.fetchedAt (s : State) (g : GroupId) (pc : Addr) (sl : Slice) : Slice :=
  if inBerth pc then
    let k := berthStream pc
    match ((s.cluster (clusterOf g)).streams[k]).lastSeq (berthWord pc) with
    | some n => sl.fetchedWord k n
    | none => sl
  else sl

/-- Slices of a group have fetched the instruction at an address: they have issued it or taken a fault at it (R322). -/
def State.markFetched (s : State) (g : GroupId) (slices : BitVec 8) (pc : Addr) : State :=
  match s.group? g with
  | some grp => s.setGroup g (grp.mapSlices slices (s.fetchedAt g pc))
  | none => s

/-! ### Groups that continue, and groups trapped while they wait -/

/-- The waiting slices of a group complete the word they wait at, and are ready at the next; what others did before the wait's end
happens before their later accesses (R130). -/
def State.complete (s : State) (g : GroupId) (slices : BitVec 8) : State :=
  match s.group? g with
  | none => s
  | some grp =>
    let pair := isLiteral (grp.lead slices).waitWord.word.toNat
    let grp := grp.mapSlices slices (s.fetchedAt g (grp.lead slices).pc)
    (s.setGroup g (((grp.wake slices).dropProgress slices).advance slices pair)).acquire g

/-- A trap at the word at which slices of a group wait. -/
def State.trapWaiting (s : State) (g : GroupId) (slices : BitVec 8) (t : Trap) : State :=
  match s.group? g with
  | none => s
  | some grp =>
    let s1 := { s with fetched := (grp.lead slices).waitWord }.markFetched g slices (grp.lead slices).pc
    { s1.takeTrap g slices t with fetched := s.fetched }

/-- The slices of a group that wait in some way. -/
def Group.waiting (grp : Group) (w : Wait) : BitVec 8 :=
  maskOfFn 8 fun i => if h : i < 8 then grp.slices[i].wait == w && !grp.slices[i].exited else false

/-- A uniform register of a group written by an event, through its port if it has one, where its request has then been served (R41, R43,
R61). -/
def State.writeFor (s : State) (g : GroupId) (slices : BitVec 8) (r : Fin 64) (x : DWord) : State :=
  { ({ s.leaveQueues g slices with cur := some (.gang g slices) }.writeUniform r x) with cur := s.cur }

/-- The queue of the port that a group's register is, if it is one (R41). -/
def State.portQueue (s : State) (g : GroupId) (r : Fin 64) : Option (Fin 32) :=
  (s.group? g).bind fun grp => (grp.port r).bind fun p => s.queueOf grp p.2

/-- A register of a group can be written by an event: it is no push port, or its queue has room and no older push waits there (R41 to
R43). -/
def State.portRoom (s : State) (g : GroupId) (slices : BitVec 8) (r : Fin 64) : Bool :=
  (s.portQueue g r).all fun q =>
    let h := (s.cluster (clusterOf g)).queues[q]
    h.first g slices true && decide (h.entries.length < 16)

/-- The push of an event that has no room yet takes its place among the queue's requests (R43). -/
def State.awaitRoom (s : State) (g : GroupId) (slices : BitVec 8) (r : Fin 64) : State :=
  match s.portQueue g r with
  | some q =>
    let cl := clusterOf g
    s.setCluster cl ((s.cluster cl).mapQueue q (·.enqueue ⟨g, slices, true, 1⟩))
  | none => s

/-! ### Barriers (R294) -/

/-- Every arrival that a generation expects has been made. -/
def Generation.full (b : Generation) : Bool :=
  if b.kind = 3 then b.arrived.length == b.count else b.expected.all fun g => b.arrived.any fun e => e.1 == g

/-- A barrier whose generation is full is closed, and every group that waits at it continues. -/
def State.finishBarrier (s : State) (team : Nat) (n : Fin 16) : State :=
  match s.team? team with
  | none => s
  | some t =>
    match t.barriers[n] with
    | none => s
    | some b =>
      if b.full then
        b.arrived.foldl (fun s e => State.complete s e.1 e.2) (s.setTeam { t with barriers := t.barriers.set n none })
      else s

/-- A group that exits leaves the expectation of every open generation of kind 0, 1 or 2. -/
def State.leaveBarriers (s : State) (team : Nat) (g : GroupId) : State :=
  (List.finRange 16).foldl (fun s (n : Fin 16) =>
    match s.team? team with
    | none => s
    | some t =>
      let b := (t.barriers[n]).map fun (b : Generation) =>
        if b.kind = 3 then b else { b with expected := b.expected.filter fun x => x ≠ g }
      State.finishBarrier (s.setTeam { t with barriers := t.barriers.set n b }) team n) s

/-! ### Accumulator slots (R267 to R269) -/

/-- The slots that a team counts as holding for R267: 8 without a backing area (R392). -/
def Team.heldCount (t : Team) : Nat := if t.backing.isNone then 8 else popCount 8 t.held.toNat

/-- The free slots of a cluster, lowest first. -/
def Cluster.freeSlots (c : Cluster) : List (Fin 8) := (List.finRange 8).filter fun (j : Fin 8) => (c.owner[j]).isNone

/-- A physical slot given to a team, zero and CLEAR (R260, R267). -/
def Cluster.giveSlot (c : Cluster) (team : Nat) (j : Fin 8) : Cluster :=
  { c with owner := c.owner.set j (some team), acc := c.acc.set j Acc.zero }

/-- The mask of slots. -/
def slotMask (js : List (Fin 8)) : BitVec 8 := maskOf 8 (js.map Fin.val)

/-- A physical slot is released by its owner: the team spilled from it last gets it back with its contents, else it is
free (R268, R269). -/
def State.freeSlot (s : State) (cl : ClusterId) (j : Fin 8) : State :=
  let c := s.cluster cl
  match c.below[j] with
  | [] => s.setCluster cl { c with owner := c.owner.set j none, acc := c.acc.set j Acc.zero }
  | t :: rest =>
    match s.team? t with
    | none => s.setCluster cl { c with owner := c.owner.set j none, acc := c.acc.set j Acc.zero, below := c.below.set j rest }
    | some team =>
      let a := ((team.spilled.find? fun e => e.1 == j).map Prod.snd).getD Acc.zero
      let s := s.setCluster cl { c with owner := c.owner.set j (some t), acc := c.acc.set j a, below := c.below.set j rest }
      s.setTeam { team with spilled := team.spilled.filter fun e => e.1 ≠ j }

/-- A team gives up a slot that it holds, its spilled copy if it is spilled (R269). -/
def State.releaseSlot (s : State) (t : Team) (j : Fin 8) : State :=
  let s := s.setTeam { t with held := setBit t.held j false, spilled := t.spilled.filter fun e => e.1 ≠ j }
  if t.spilled.any fun e => e.1 == j then
    let c := s.cluster t.cl
    s.setCluster t.cl { c with below := c.below.set j ((c.below[j]).filter fun x => x ≠ t.id) }
  else s.freeSlot t.cl j

/-- A team gives up a set of slots. -/
def State.releaseSlots (s : State) (team : Nat) (m : BitVec 8) : State :=
  (List.finRange 8).foldl (fun s (j : Fin 8) =>
    if maskHas m j.val then
      match s.team? team with
      | some t => if t.holds j then s.releaseSlot t j else s
      | none => s
    else s) s

/-- What the tile path of an MXMUL holds of its cluster is given back: its request, its table entry and its slot (R271). -/
def State.dropProduct (s : State) (cl : ClusterId) (op : Nat) : State :=
  let c := s.cluster cl
  let mine := c.table.find? fun e => e.work == .product op
  let s := s.setCluster cl { c with table := c.table.filter (fun e => !(e.work == .product op))
                                    requests := c.requests.filter fun r => !(r.op == some op) }
  match mine with
  | none => s
  | some e =>
    match s.team? e.team with
    | none => s
    | some t =>
      if t.spilled.any fun x => x.1 == e.slot then
        let c := s.cluster cl
        (s.setTeam { t with spilled := t.spilled.filter fun x => x.1 ≠ e.slot }).setCluster cl
          { c with below := c.below.set e.slot ((c.below[e.slot]).filter fun x => x ≠ t.id) }
      else s.freeSlot cl e.slot

/-! ### Rendezvous latches (R256) -/

/-- The groups of a team that a GANG mask names. -/
def State.gangMembers (s : State) (t : Team) (gang : Word) : List GroupId :=
  t.members.filter fun g => match s.group? g with
    | some grp => grp.team == t.id && maskHas gang grp.inTeam.val
    | none => false

/-- A latch ends with a trap in every group that waits at it (R256). -/
def State.failLatch (s : State) (cl : ClusterId) (l : Latch) (t : Trap) : State :=
  let c := s.cluster cl
  let s := s.setCluster cl { c with latches := c.latches.filter fun x => x ≠ l }
  l.arrived.foldl (fun s g => State.trapWaiting s g 0xFF t) s

/-- A named group exits: GMISMATCH in every group waiting at a latch that names it (R256). -/
def State.breakLatches (s : State) (g : GroupId) (grp : Group) : State :=
  let cl := clusterOf g
  ((s.cluster cl).latches.filter fun l => !l.complete && l.team == grp.team && maskHas l.gang grp.inTeam.val).foldl
    (fun s l => State.failLatch s cl l { kind := .gmismatch, val := l.gang.zeroExtend 64 }) s

/-! ### Engine operations of a group (R134) -/

/-- The group has an engine operation that has not completed: an ACP copy, BXT, GATH, MXMUL, NTT, STOW or MACC. -/
def State.engineBusy (s : State) (g : GroupId) : Bool :=
  (match s.group? g with
     | some grp => !grp.batches.unsealed.isEmpty || !grp.batches.sealed_.isEmpty ||
         s.ops.any fun o => o.g == g && o.team == grp.team
     | none => false) ||
    (s.cluster (clusterOf g)).table.any fun e => match e.work with
      | .joint .load ms | .joint .store ms => ms.contains g
      | _ => false

/-! ### The end of a group and of a team -/

/-- A team whose last group has retired, and whose groups' engine operations have completed, leaves its cluster: its queues, local store
and register homes are free, and its lines leave the line buffers (R269, R292). -/
def State.reapTeam (s : State) (t : Team) : State :=
  if t.members.all t.retired.contains && !(s.ops.any fun o => o.team == t.id) && t.released then
    let c := s.cluster t.cl
    let mine := fun (q : Fin 32) => (c.queueOwner[q]) == some t.id
    let c : Cluster := { c with
      queues := Vector.ofFn fun (q : Fin 32) => if mine q then ⟨[], 0, []⟩ else c.queues[q]
      queueOwner := Vector.ofFn fun (q : Fin 32) => if mine q then none else c.queueOwner[q]
      requests := c.requests.filter fun r => r.team ≠ t.id
      latches := c.latches.filter fun l => l.team ≠ t.id
      lines := c.lines.filter fun l => !t.members.contains l.g }
    let s := s.setCluster t.cl c
    { s with teams := s.teams.filter fun u => u.id ≠ t.id }
  else s

/-- Every team that may leave its cluster does. -/
def State.reapTeams (s : State) : State := s.teams.foldl State.reapTeam s

/-- The operation that carries on the copies of a group that retires (R292). -/
def Batches.orphans (b : Batches) : List Copy := b.sealed_.flatMap Prod.snd ++ b.unsealed

/-- The mark of what the engine operations of a group that has retired have written: no event of a group observes it (R139). -/
def retiredMark : Nat := 2 ^ 43

/-- A group retires: its slot is free, its place in barriers, latches and queues is given up, its engine operations run on
and their statuses are discarded (R17, R240, R292, R294); with the last group of a team the team's slots are free (R269). -/
def State.retireGroup (s : State) (g : GroupId) : State :=
  match s.group? g with
  | none => s
  | some grp =>
    let s := s.breakLatches g grp
    let s := s.arriveGroup g
    let cl := clusterOf g
    let c := s.cluster cl
    let c : Cluster := { c with
      queues := Vector.ofFn fun (q : Fin 32) => { c.queues[q] with waiters := (c.queues[q]).waiters.filter fun w => w.g ≠ g }
      requests := c.requests.filter fun r => !(r.g == some g)
      lines := c.lines.filter fun l => l.g ≠ g
      seqs := Vector.ofFn fun (i : Fin 4) => (c.seqs[i]).filter fun w => w.g ≠ g }
    let s := s.setCluster cl c
    let copies := grp.batches.orphans
    let left : List EngineOp := if copies.isEmpty then [] else
      [{ id := s.nextId, kind := .acp copies, g := g, team := grp.team, launch := grp.launch, ld := deviceOfGroup g,
         asn := s.asnOf grp.launch, priv := grp.priv, cl := cl, record := 0, desc := [], word := 0, pc := 0, sidecar := none,
         uft := (s.ctxOfGroup g grp).uft, since := s.fresh, ticket := none, parked := false }]
    let s := { s with
      unseen := s.unseen.map fun (u : Unseen) => if u.g = g then { u with op := retiredMark } else u
      ops := (s.ops.map fun (o : EngineOp) => if o.g == g then { o with ticket := none } else o) ++ left
      nextId := s.nextId + 1 }
    let ld := deviceOfGroup g
    let s := s.setDev ld { s.devices[ld] with faults := s.devices[ld].faults.map fun r => match r.owner with
      | .copy h none n => if h = g then { r with owner := .copy h (some (s.nextId - 1)) n } else r
      | _ => r }
    let s := s.delGroup g
    match s.team? grp.team with
    | none => s
    | some t =>
      let t := { t with retired := g :: t.retired }
      let s := s.setTeam t
      let s := if t.members.all t.retired.contains then s.releaseSlots t.id 0xFF else s
      (s.leaveBarriers grp.team g).reapTeams

end Sys2Proof.Machine
end

