-- ==== Sys2Proof/Machine/Tow.lean ====
section
/-! DEFINITION. Emit streams as their consumers see them: sequence numbers and berth addresses, and the branch floor and
retention mark of a slice (R46, R47, R300, R322). -/

namespace Sys2Proof.Machine

open Sys2Proof

/-- The berth address of a sequence number (R300). -/
def berthAddr (k : Fin 16) (seq : Nat) : Addr := BitVec.ofNat 48 (berthBase + k.val * 2 ^ 20 + 4 * (seq % 2 ^ 18))

/-- The address lies in the window of stream `k`. -/
def inStream (k : Fin 16) (a : Addr) : Bool := inBerth a && berthStream a == k

/-- The place of a window offset relative to a sequence number: the nearest word with that offset, since a stream spans
fewer words than half the window (R300). -/
def relSeq (ref off : Nat) : Int :=
  let d : Nat := (off + 2 ^ 18 - ref % 2 ^ 18) % 2 ^ 18
  if d < 2 ^ 17 then (d : Int) else (d : Int) - 2 ^ 18

/-- The word after a slice's last fetch from the stream, or its entry word (R46). -/
def TowMark.ref (m : TowMark) : Nat :=
  match m.last with
  | some l => l.toNat + 1
  | none => m.entry.toNat

/-- What a trap has put aside of a slice that runs its handler. -/
def Group.aside (grp : Group) (i : Fin 8) : Option SavedSlice := grp.saved.find? fun sv => sv.slice == i

/-- The loop levels that a slice's marks rest on, innermost first: while it runs a handler, those at its trapping word, since it keeps
its marks (R322, R346). -/
def Group.markLoops (grp : Group) (i : Fin 8) : List LoopLevel :=
  match grp.aside i with
  | some sv => sv.loops
  | none => grp.slices[i].loops

/-- Addresses that lower both marks while they stand in the stream: resume addresses of path entries, put aside or not, the trapping
word until RETT, and the word at which a debugger or a pre-emption stops the slice (R46, R322; log entry 111). -/
def Group.lowering (grp : Group) (i : Fin 8) (halted : Bool) : List Addr :=
  let sl := grp.slices[i]
  ((sl.recon ++ (grp.aside i).elim [] SavedSlice.recon).filterMap fun e => match e with
    | .path _ _ r => some r
    | .opened .. => none) ++
  (if grp.trap.inh && maskHas grp.trap.slices i.val then [grp.trap.pc] else []) ++
  (if halted ∨ sl.why ≠ 0 then [sl.pc] else [])

/-- A mark: the start of a loop body in the stream, else the word after the last fetch; lowered as R46 says. Relative to
that word. -/
def Group.markFrom (grp : Group) (i : Fin 8) (halted : Bool) (m : TowMark) (body : Option LoopLevel) : Int :=
  let rel := fun (a : Addr) => relSeq m.ref (berthWord a)
  let base : Int := match body with
    | some l => if inStream m.stream l.start then rel l.start else 0
    | none => 0
  ((grp.lowering i halted).filter (inStream m.stream)).foldl (fun x a => min x (rel a)) base

/-- The branch floor, relative to the word after the last fetch: from the innermost active loop body (R46). -/
def Group.branchFloor (grp : Group) (i : Fin 8) (m : TowMark) : Int := grp.markFrom i false m (grp.markLoops i).head?

/-- How far a sequence count lies above a sequence number, which may be ahead of it: sequence numbers wrap at 2^32 (R46, R301). -/
def seqAbove (count : Word) (seq : Nat) : Int := (count - BitVec.ofNat 32 seq).toInt

/-- How many words of a stream of `count` words stand at or above a slice's retention mark, below zero while the mark is ahead of the
write position: from the outermost active loop body in the stream (R46). -/
def Group.retained (grp : Group) (i : Fin 8) (halted : Bool) (m : TowMark) (count : Word) : Int :=
  seqAbove count m.ref - grp.markFrom i halted m ((grp.markLoops i).reverse.find? fun l => inStream m.stream l.start)

/-- A transfer of a slice to a target breaks no branch floor of a tow stream; the word in execution has been fetched (R47, R322). -/
def State.towAllows (s : State) (g : GroupId) (grp : Group) (i : Fin 8) (target : Addr) : Bool :=
  if inBerth target then
    let k := berthStream target
    let st := ((s.cluster (clusterOf g)).streams[k]).state
    if st = .tow ∨ st = .ended then
      match (s.fetchedAt g (grp.slices[i].pc) grp.slices[i]).tows.find? fun m => m.stream == k with
      | some m => decide (grp.branchFloor i m ≤ relSeq m.ref (berthWord target))
      | none => true
    else true
  else true

/-- The TOWBR test of a transfer of some slices (R47). -/
def checkTow (s : State) (g : GroupId) (grp : Group) (slices : BitVec 8) (target : Addr) : Except Stop Unit :=
  require ((List.finRange 8).all fun (i : Fin 8) => !maskHas slices i.val || s.towAllows g grp i target) s
    { kind := .towbr, val := target.zeroExtend 64 }

/-- A group's context is being stopped to be saved (R46, R407). -/
def State.preempting (s : State) (g : GroupId) (grp : Group) : Bool := (s.ctxOfGroup g grp).state == .stopping

/-- The entry words, in a stream of a cluster, of the roles of teams that are placed there and not yet released: the launch has bound
their slices to the stream, and each holds both marks at its entry word (R46, R299). -/
def State.boundEntries (s : State) (cl : ClusterId) (k : Fin 16) : List Nat :=
  (s.teams.filter fun t => t.cl == cl && !t.released).flatMap fun t =>
    match s.launch? t.launch with
    | some l =>
      if l.pkt.version = 3 then
        ([l.pkt.cons, l.pkt.prod].filter fun r => r.named && r.stream == k).map fun r => r.offset.toNat
      else []
    | none => []

/-- The consumers of a stream of a cluster that run: groups, slices and marks (R46, R299). -/
def State.consumers (s : State) (cl : ClusterId) (k : Fin 16) : List (GroupId × Group × Fin 8 × TowMark) :=
  s.groups.flatMap fun (n, grp) =>
    let g := groupId n
    if clusterOf g = cl then
      (List.finRange 8).filterMap fun (i : Fin 8) =>
        if grp.slices[i].exited then none
        else ((grp.slices[i]).tows.find? fun m => m.stream == k).map fun m => (g, grp, i, m)
    else []

end Sys2Proof.Machine
end

