-- ==== Sys2Proof/Machine/Control.lean ====
section
/-! DEFINITION. Branches, calls, loops, divergence, regathering, regions, the end of lanes, the switch of role, and
breakpoints (R17 to R19, R22, R34 to R36, R47, R72, R284 to R293, R307). -/

namespace Sys2Proof.Machine

open Sys2Proof

/-! ### Transfers -/

/-- The address that a UJ offset names. -/
def jumpTarget (pc : Addr) (off : BitVec 20) : Addr := BitVec.ofInt 48 (pc.toNat + 4 * off.toInt)

/-- The program counter of the word in execution. -/
def State.pc (s : State) : Addr :=
  match s.cur with
  | some (.gang g slices) => (s.group? g).elim 0 fun grp => (grp.lead slices).pc
  | some (.pilot cl) => (s.cluster cl).pilot.pc
  | none => 0

/-- The innermost loop levels of the word in execution. -/
def State.loops (s : State) : List LoopLevel :=
  match s.cur with
  | some (.gang g slices) => (s.group? g).elim [] fun grp => (grp.lead slices).loops
  | some (.pilot cl) => (s.cluster cl).pilot.loops
  | none => []

/-- The issuing slices, or the Pilot, stand at an address with a loop stack; their word's progress is dropped. -/
def State.goto (s : State) (pc : Addr) (loops : List LoopLevel) : State :=
  match s.cur with
  | some (.gang g slices) =>
    match s.group? g with
    | some grp => s.setGroup g ((grp.dropProgress slices).mapSlices slices fun sl => { sl with pc := pc, loops := loops })
    | none => s
  | some (.pilot cl) => s.setPilot cl { (s.cluster cl).pilot with pc := pc, loops := loops }
  | none => s

/-- The tests of a transfer to a target: TOWBR in a group (R47), BOUNDS past Pilot memory (R275). -/
def checkTarget (s : State) (target : Addr) : Except Stop Unit :=
  match s.cur with
  | some (.gang g slices) =>
    match s.group? g with
    | some grp => checkTow s g grp slices target
    | none => .ok ()
  | some (.pilot _) => require (decide (target.toNat < 2 ^ 16)) s { kind := .bounds, val := target.zeroExtend 64 }
  | none => .ok ()

/-- A taken transfer: the loop test of R36 when `test`, and the end of the run (R27). -/
def jump (s : State) (target : Addr) (test : Bool) : Except Stop State := do
  checkTarget s target
  return (s.goto target (if test then popLeft target s.loops else s.loops)).endRun

/-- QPORT when the link register is mapped (R285); a Pilot waits for the parked access that will write it (R340). -/
def checkLink (s : State) : Except Stop Unit :=
  match s.cur with
  | some (.gang g _) => require ((s.group? g).elim true fun grp => (grp.port 63).isNone) s { kind := .qport, val := 63 }
  | some (.pilot cl) => if (s.cluster cl).pilot.awaits [63] then .error (.wait (s.awaitAccess cl)) else .ok ()
  | none => .ok ()

/-- A UJ word's condition: ck XOR negate (R284). -/
def UJ.taken (o : UJ) (s : State) : Bool := s.readCond o.k != o.x

/-- BRA (R284). -/
def execBra (o : UJ) (s : State) : Host.Outcome State Fault Refusal :=
  onAny s (if UJ.taken o s then jump s (jumpTarget s.pc o.off) true else .ok s.advance)

/-- CALL: when taken, the link goes to s63 (R284, R285). -/
def execCall (o : UJ) (s : State) : Host.Outcome State Fault Refusal :=
  onAny s do
    if UJ.taken o s then
      checkLink s
      let link := nextWord s.pc
      let s1 ← jump s (jumpTarget s.pc o.off) false
      return s1.writeUniform 63 (link.zeroExtend 64)
    else return s.advance

/-- A register jump: ALIGN for bits [1:0], BOUNDS for bits [63:48] (R100, R285). -/
def registerJump (o : UA) (s : State) (link test : Bool) (linkOp : Bool) : Host.Outcome State Fault Refusal :=
  onAny s do
    if !s.condHolds then return s.advance
    let (vs, plan) ← uniformSources s [o.sa] [] noPorts
    if linkOp then checkLink s
    let t := uv vs 0
    require (t.toNat % 4 == 0) s { kind := .align, val := t }
    require (decide (t.toNat < 2 ^ 48)) s { kind := .bounds, val := t }
    checkTarget s (BitVec.ofNat 48 t.toNat)
    let back := nextWord s.pc
    let s1 ← jump (s.commitPops plan) (BitVec.ofNat 48 t.toNat) test
    return if link then s1.writeUniform 63 (back.zeroExtend 64) else s1

/-- JMPR (R285). -/
def execJmpr (o : UA) (s : State) := registerJump o s false true false
/-- RET (R285). -/
def execRet (o : UA) (s : State) := registerJump o s false false true
/-- CALLR: sa is read before the link is written (R285). -/
def execCallr (o : UA) (s : State) := registerJump o s true false true

/-! ### Loops -/

/-- LOOP (R34, R286). -/
def execLoop (o : ULoop) (s : State) : Host.Outcome State Fault Refusal :=
  onAny s do
    let (vs, plan) ← uniformSources s [o.sa] [] noPorts
    let count : Word := BitVec.ofNat 32 (uv vs 0).toNat
    let start := s.pc + 4
    let last := start + BitVec.ofNat 48 (4 * o.imm.toNat)
    if count = 0 then
      match s.cur with
      | some (.pilot _) => checkTarget s (last + 4)
      | _ => pure ()
      return ((s.commitPops plan).goto (last + 4) s.loops).endRun
    else
      require (decide (s.loops.length < 4)) s { kind := .loopovf }
      return (s.commitPops plan).goto start (⟨start, last, count⟩ :: s.loops)

/-- LEXIT (R287). -/
def execLexit (s : State) : Host.Outcome State Fault Refusal :=
  onAny s do
    if !s.condHolds then return s.advance
    match s.loops with
    | [] => illegal s 6
    | l :: rest =>
      match s.cur with
      | some (.pilot _) => checkTarget s (l.last + 4)
      | _ => pure ()
      return (s.goto (l.last + 4) rest).endRun

/-- LCNT: the innermost count, 0 when the stack is empty (R287). -/
def execLcnt (o : UDc) (s : State) : Host.Outcome State Fault Refusal :=
  let n := match s.loops with
    | l :: _ => l.count
    | [] => 0
  scalarOp s [] o.sd fun _ => n.zeroExtend 64

/-! ### Divergence (R18, R288) -/

/-- A predicate's bits in one slice. -/
def sliceBits (m : LaneMask) (i : Nat) : BitVec 4 := BitVec.ofNat 4 (m.toNat / 2 ^ (4 * i))

/-- The join point of the innermost open entry. -/
def openJoin (r : List Rcon) : Option Addr :=
  r.findSome? fun e => match e with
    | .opened j _ => some j
    | .path .. => none

/-- The active lanes of a slice that take a BRP. -/
def brpTakes (grp : Group) (o : UJ) (i : Fin 8) : BitVec 4 :=
  let p := sliceBits (grp.pred o.k) i.val
  (if o.x then ~~~p else p) &&& grp.slices[i].active

/-- One slice at a BRP (R18, R36, R288). -/
def brpSlice (takes : BitVec 4) (target : Addr) (sl : Slice) : Slice :=
  if takes = 0 then
    let (pc, loops) := sequel false sl.pc sl.loops
    { sl with pc := pc, loops := loops }
  else if takes = sl.active then { sl with pc := target, loops := popLeft target sl.loops }
  else
    { sl with pc := target, active := takes
              recon := .path ((openJoin sl.recon).getD 0) (sl.active &&& ~~~takes) (nextWord sl.pc) :: sl.recon }

/-- BRP: DIVOVF and JOINERR before any effect, then TOWBR of the slices that take the branch (R18, R47, R288). -/
def execBrp (o : UJ) (s : State) : Host.Outcome State Fault Refusal :=
  onGang s fun g grp slices => do
    let target := jumpTarget (grp.lead slices).pc o.off
    let mine := (List.finRange 8).filter fun (i : Fin 8) => maskHas slices i.val
    let parts := mine.filter fun i => brpTakes grp o i != 0 && brpTakes grp o i != grp.slices[i].active
    require (parts.all fun i => decide (grp.slices[i].recon.length < 32)) s { kind := .divovf }
    require (parts.all fun i => (openJoin grp.slices[i].recon).isSome) s { kind := .joinerr }
    let taking := mine.filter fun i => brpTakes grp o i != 0
    checkTow s g grp (maskOf 8 (taking.map Fin.val)) target
    let grp' := mine.foldl (fun (grp' : Group) (i : Fin 8) =>
      { grp' with slices := grp'.slices.set i (brpSlice (brpTakes grp o i) target grp'.slices[i]) }) (grp.dropProgress slices)
    let s1 := s.setGroup g grp'
    return if taking = [] then s1 else s1.endRun

/-- RCV: an open entry in each slice of the gang (R288). -/
def execRcv (o : UOff) (s : State) : Host.Outcome State Fault Refusal :=
  onGang s fun g grp slices => do
    let mine := (List.finRange 8).filter fun (i : Fin 8) => maskHas slices i.val
    require (mine.all fun i => decide (grp.slices[i].recon.length < 32)) s { kind := .divovf }
    let j := jumpTarget (grp.lead slices).pc o.off
    return (s.setGroup g (grp.mapSlices slices fun sl => { sl with recon := .opened j sl.active :: sl.recon })).advance

/-- A slice with no active lane proceeds from entry to entry as if it had reached each join point, and leaves the group
when no lane is left (R17, R289). -/
def Slice.rejoin (sl : Slice) : List Rcon → Slice
  | [] => { sl with active := 0, recon := [], exited := true, tows := [], wait := .ready, why := 0, dbg := .none }
  | .path _ w r :: rest => if w = 0 then Slice.rejoin sl rest else { sl with active := w, pc := r, recon := rest }
  | .opened j m :: rest =>
    let (pc, loops) := sequel false j (popLeft j sl.loops)
    if m = 0 then Slice.rejoin { sl with loops := loops } rest else { sl with active := m, pc := pc, loops := loops, recon := rest }

/-- One slice at a JOIN whose innermost entry names it (R36, R288). -/
def Slice.join (sl : Slice) : Slice :=
  match sl.recon with
  | [] => sl
  | e :: rest => Slice.rejoin sl (e :: rest)

/-- The innermost entry of a slice names the JOIN at its program counter (R288). -/
def Slice.joins (sl : Slice) : Bool :=
  match sl.recon with
  | .opened j _ :: _ => j == sl.pc
  | .path j _ _ :: _ => j == sl.pc
  | [] => false

/-- The innermost entry of a slice is a path entry. -/
def Slice.onPath (sl : Slice) : Bool :=
  match sl.recon with
  | .path .. :: _ => true
  | _ => false

/-! ### Regathering (R19) -/

/-- The slices of a group that have not exited. -/
def Group.livingSlices (grp : Group) : List (Fin 8) := (List.finRange 8).filter fun (i : Fin 8) => !grp.slices[i].exited

/-- The lowest issue gang among some slices: those equal to the lowest in program counter and loop stack (R14). -/
def Group.lowestGang (grp : Group) (among : List (Fin 8)) : BitVec 8 :=
  match among with
  | [] => 0
  | i :: _ => maskOf 8 ((among.filter fun j => grp.slices[j].pc == grp.slices[i].pc && grp.slices[j].loops == grp.slices[i].loops).map
      Fin.val)

/-- Once every slice that has not exited stands at a REGANG: they continue together from one place, or each takes a GANG
trap, the lowest gang first and the others after its handler (R19, R335). -/
def State.evalRegang (s : State) (g : GroupId) : State :=
  match s.group? g with
  | none => s
  | some grp =>
    let live := grp.livingSlices
    if live.isEmpty || !(live.all fun i => grp.slices[i].wait == .regang) then s
    else
      let gang := grp.lowestGang live
      if gang = maskOf 8 (live.map Fin.val) then s.complete g gang
      else
        let grp' := grp.mapSlices (maskOf 8 (live.map Fin.val) &&& ~~~gang) fun sl => { sl with wait := .gangTrap }
        (s.setGroup g grp').trapWaiting g gang { kind := .gang }

/-- REGANG: a ganged group goes on at once; else the gang stops here (R19, R290). -/
def execRegang (s : State) : Host.Outcome State Fault Refusal :=
  onGang s fun g grp slices =>
    if !s.condHolds ∨ slices = 0xFF then .ok s.advance
    else .ok ((s.setGroup g (grp.setWait slices .regang s.fetched)).evalRegang g).endRun

/-! ### Regions, the end of lanes, and the switch of role -/

/-- A new region begins in some slices at their present state. What a slice has done in its region before a trap goes with the region
that the trap put aside, and what it did in its handler with the region that ends here (R258, R291, R346). -/
def Group.beginRegion (grp : Group) (slices : BitVec 8) : Group :=
  let into := fun (sv : SavedSlice) =>
    if maskHas slices sv.slice.val then
      { sv with pinned := sv.pinned || grp.slices[sv.slice].pinned, issued := grp.slices[sv.slice].issued ++ sv.issued }
    else sv
  { grp.mapSlices slices (fun sl =>
      { sl with region := ⟨sl.pc, sl.active, sl.loops, sl.recon⟩, pinned := false, issued := [] }) with
    saved := grp.saved.map into, region := grp.region + 1 }

/-- RGN: the region entry of each slice is its state after this word, and REGION counts (R291). -/
def execRgn (s : State) : Host.Outcome State Fault Refusal :=
  onAny s <|
    if !s.condHolds then .ok s.advance
    else match s.cur with
      | some (.gang g slices) =>
        match s.advance.group? g with
        | some grp =>
          .ok (s.advance.setGroup g (grp.beginRegion slices))
        | none => .ok s
      | some (.pilot cl) =>
        let p := (s.advance.cluster cl).pilot
        .ok (s.advance.setPilot cl { p with region := p.region + 1 })
      | none => .ok s

/-- A mask of a reconvergence stack without lanes that have ended. -/
def Rcon.without (ended : BitVec 4) : Rcon → Rcon
  | .opened j m => .opened j (m &&& ~~~ended)
  | .path j w r => .path j (w &&& ~~~ended) r

/-- Lanes of a slice end for good (R17, R289). -/
def Slice.end_ (sl : Slice) (lanes : BitVec 4) : Slice :=
  let sl := { sl with active := sl.active &&& ~~~lanes, ended := sl.ended ||| lanes, recon := sl.recon.map (Rcon.without lanes) }
  if sl.active = 0 then Slice.rejoin sl sl.recon else sl

/-- Slices of a group have ended lanes: the group retires with its last slice, and a REGANG that waited for them is
evaluated (R17, R19). -/
def State.afterEnd (s : State) (g : GroupId) : State :=
  match s.group? g with
  | none => s
  | some grp => if grp.livingSlices.isEmpty then s.retireGroup g else s.evalRegang g

/-- JOIN (R288); resuming waiting lanes ends the run (R27). -/
def execJoin (s : State) : Host.Outcome State Fault Refusal :=
  onGang s fun g grp slices => do
    let mine := (List.finRange 8).filter fun (i : Fin 8) => maskHas slices i.val
    require (mine.all fun i => grp.slices[i].joins) s { kind := .joinerr }
    let s1 := (s.setGroup g ((grp.dropProgress slices).mapSlices slices Slice.join)).afterEnd g
    return if mine.any fun i => grp.slices[i].onPath then s1.endRun else s1

/-- A generator ends: its open static streams are sealed and its open tow streams ended (R292, R302). -/
def State.endGenerator (s : State) (cl : ClusterId) : State :=
  let c := s.cluster cl
  let close := fun (e : EmitStream) => { e with state := match e.state with
    | .static => .sealed_
    | .tow => .ended
    | st => st }
  let s1 := s.setCluster cl { c with
    streams := Vector.ofFn fun (k : Fin 16) => close c.streams[k]
    pilot := { c.pilot with running := false, wait := .ready, inflight := [], accesses := [] } }
  match s1.launch? c.pilot.launch with
  | some l => s1.setLaunch { l with gens := l.gens.filter fun x => x ≠ cl, gensEnded := cl :: l.gensEnded }
  | none => s1

/-- EXIT: the active lanes end (R17, R289, R292); on a Pilot, the generator ends. -/
def execExitLanes (s : State) : Host.Outcome State Fault Refusal :=
  onAny s <|
    if !s.condHolds then .ok s.advance
    else match s.cur with
      | some (.gang g slices) =>
        match s.group? g with
        | none => .ok s
        | some grp =>
          let grp := (grp.dropProgress slices).mapSlices slices fun sl => sl.end_ sl.active
          let left := maskOf 8 (grp.livingSlices.map Fin.val)
          .ok ((s.setGroup g (grp.pin left)).afterEnd g).endRun
      | some (.pilot cl) => do
        checkQuiet s
        return (s.endGenerator cl).endRun
      | none => .ok s

/-- The entry point of a role (R387, R300). -/
def Packet.entryOf (p : Packet) (r : Role) : Addr := if p.version = 3 then berthAddr r.stream r.offset.toNat else r.entry

/-- ROLESW: the other role's allotment, class and entry point; plain registers between the old and a larger new allotment
read as zero (R22, R72, R293, R388). -/
def execRolesw (s : State) : Host.Outcome State Fault Refusal :=
  onGang s fun g grp slices => do
    requireGang s slices
    if !s.condHolds then return s.advance
    match s.launch? grp.launch with
    | none => illegal s 6
    | some l =>
      let r := if grp.producer then l.pkt.cons else l.pkt.prod
      require (l.pkt.version != 1 && r.named) s { kind := .illegal, reason := 6 }
      let fresh := fun i => decide (grp.allot ≤ i ∧ i < r.allot)
      let grp' := { (grp.dropProgress slices).pin slices with
        producer := !grp.producer, allot := r.allot, cls := r.cls
        v := Vector.ofFn fun (i : Fin 96) => if fresh i.val then Vector.replicate 32 0 else grp.v[i]
        tags := Vector.ofFn fun (i : Fin 96) => if fresh i.val then 0 else grp.tags[i]
        vpoison := grp.vpoison.filter fun e => !fresh e.1 }
      checkTow s g grp slices (l.pkt.entryOf r)
      return (s.setGroup g (grp'.mapSlices slices fun sl => { sl with pc := l.pkt.entryOf r })).endRun

/-- NOP (R307). -/
def execNop (s : State) : Host.Outcome State Fault Refusal := onAny s (.ok s.advance)

/-- BKPT: an attached debugger holds the group at the word with WHY 3; else a precise BKPT trap (R307, R352). -/
def execBkpt (o : UCode) (s : State) : Host.Outcome State Fault Refusal :=
  onAny s <|
    let t : Trap := { kind := .bkpt, val := BitVec.ofNat 64 o.code.toNat }
    match s.cur with
    | some (.gang g slices) =>
      match s.group? g with
      | none => .ok s
      | some grp =>
        if (s.ctxOfGroup g grp).attached then
          let grp := grp.mapSlices grp.present fun sl => { sl with why := 3 }
          .ok (s.setGroup g (grp.mapSlices slices fun sl => { sl with passBreak := true })).endRun
        else .error (.trap t s)
    | _ => .error (.trap t s)

/-- TRAP: a precise TRAP trap, whose handler returns to the next word (R307, R334). -/
def execTrap (o : UCode) (s : State) : Host.Outcome State Fault Refusal :=
  onAny s (.error (.trap { kind := .trap, val := BitVec.ofNat 64 o.code.toNat } s))

end Sys2Proof.Machine
end

