-- ==== Sys2Proof/Machine/Sync.lean ====
section
/-! DEFINITION. Barriers, supersteps, fences, queues, copy batches, ticket waits and stream arming (R26, R40 to R43, R114,
R133, R134, R234 to R236, R239, R241, R294, R295). -/

namespace Sys2Proof.Machine

open Sys2Proof

/-! ### Barriers -/

/-- The groups that a barrier of a kind expects when it opens (R23, R294). -/
def State.barrierExpects (s : State) (team : Nat) (kind : Fin 4) : List GroupId :=
  s.groups.filterMap fun (n, grp) =>
    if grp.team = team ∧ (kind = 0 ∨ (kind = 1 ∧ grp.producer) ∨ (kind = 2 ∧ ¬ grp.producer)) then some (groupId n) else none

/-- The generation that a group meets at a barrier: the open one, or the one its arrival opens. -/
def State.barrierAt (s : State) (t : Team) (kind : Fin 4) (count : Nat) (n : Fin 16) : Generation :=
  (t.barriers[n]).getD { kind := kind, count := count, arrived := []
                         expected := if kind = 3 then [] else s.barrierExpects t.id kind }

/-- BAR: a group arrives, or takes BARERR; the last arrival lets every group continue (R294). -/
def barrier (s : State) (kind : Fin 4) (n : Fin 16) (uses : List (Fin 64)) : Host.Outcome State Fault Refusal :=
  onGang s fun g grp slices => do
    requireGang s slices
    let (vs, plan) ← uniformSources s uses [] noPorts
    let t := s.teamOf grp
    let count := if kind = 3 then (uv vs 0).toNat % 64 else 0
    let b := s.barrierAt t kind count n
    let ok := b.kind == kind && (if kind = 3 then b.count == count && decide (1 ≤ count ∧ count ≤ 32) else b.expected.contains g)
    require ok s { kind := .barerr, val := BitVec.ofNat 64 n.val }
    let s1 := s.commitPops plan
    match s1.group? g with
    | none => return s1
    | some grp =>
      let s2 := s1.setGroup g ((grp.pin slices).setWait slices (.barrier n) s.fetched)
      let s3 := s2.setTeam { t with barriers := t.barriers.set n (some { b with arrived := b.arrived ++ [(g, slices)] }) }
      return (s3.finishBarrier t.id n).endRun

/-- BAR (R294). -/
def execBar (o : UBar) (s : State) := barrier s 0 o.n []
/-- BAR.prod (R294). -/
def execBarProd (o : UBar) (s : State) := barrier s 1 o.n []
/-- BAR.cons (R294). -/
def execBarCons (o : UBar) (s : State) := barrier s 2 o.n []
/-- BAR.cnt: sa[5:0] arrivals (R294). -/
def execBarCnt (o : UBarC) (s : State) := barrier s 3 o.n [o.sa]

/-- SSTEP: the group arrives at the boundary of its superstep grid; SSTEP_RELEASE lets the grid continue (R26, R295). -/
def execSstep (s : State) : Host.Outcome State Fault Refusal :=
  onGang s fun g grp slices => do
    requireGang s slices
    if !s.condHolds then return s.advance
    match s.launch? grp.launch with
    | none => illegal s 6
    | some l =>
      require l.pkt.superstep s { kind := .illegal, reason := 6 }
      let s1 := s.setLaunch { l with arrived := l.arrived ++ [g] }
      return (s1.setGroup g ((grp.pin slices).setWait slices .superstep s.fetched)).endRun

/-! ### Fences -/

/-- The lowest of some addresses, of refused copies. -/
def lowestOf (as : List DWord) : Option DWord :=
  as.foldl (fun b a => match b with
    | some x => some (if x.toNat ≤ a.toNat then x else a)
    | none => some a) none

/-- Refused copies, of the batches that an event observes, are forgotten, and the lowest refused address is given (R443). -/
def Batches.observe (b : Batches) (p : Option Word → Bool) : Batches × Option DWord :=
  ({ b with refused := b.refused.filter fun e => !p e.1 }, lowestOf ((b.refused.filter fun e => p e.1).map Prod.snd))

/-- The XLATE trap of refused copies, at the first event that observes their batch's completion (R443). -/
def checkRefusedCopy (s : State) (g : GroupId) (p : Option Word → Bool) : Except Stop Unit :=
  match s.group? g with
  | none => .ok ()
  | some grp =>
    match grp.batches.observe p with
    | (_, none) => .ok ()
    | (b, some a) => .error (.trap { kind := .xlate, val := a } (s.setGroup g { grp with batches := b }))

/-- The batches that AWAIT n observes: those sealed before the last n (R114, R139). -/
def Batches.awaited (b : Batches) (n : Nat) : Option Word → Bool
  | none => false
  | some m => decide (n ≤ (b.last - m).toNat)

/-- A gang waits at its word, which is issued again when the wait can end. -/
def waitAgain {α : Type} (s : State) (g : GroupId) (grp : Group) (slices : BitVec 8) (w : Wait) : Except Stop α :=
  .error (.wait (s.setGroup g (grp.setWait slices w s.fetched)))

/-- A scope that reaches other logical devices (R122). -/
def widerThanDevice (sc : Scope) : Bool := sc == .package || sc == .system

/-- What a release at a scope writes back, and what an acquire at a scope drops, in the caches of a die: at package and system scope the
invalidations that have reached the die, at system scope the host's lines (R371, R424). -/
def State.fenceCaches (s : State) (ld : Fin 4) (sc : Scope) (acq rel : Bool) : State :=
  let s := if acq && widerThanDevice sc then s.takeInvals ld else s
  if sc == .system then
    let s := if rel then s.releaseHost ld else s
    if acq then s.acquireHost ld else s
  else s

/-- FENCE: with .drain the group waits until its engine operations have completed, and observes them; a release at package or system
scope waits until the writes to exported and peer lines are acknowledged, its issuer's own and those it may have observed; an acquire leaves
nothing stale in the core's L1 (R131, R133, R134, R234, R371, R424). A Pilot has no engine operation and no L1; its fence waits for its
refused accesses (R340). -/
def fence (o : UFence) (s : State) (acq rel : Bool) : Host.Outcome State Fault Refusal :=
  onAny s <|
    match s.cur with
    | some (.gang g slices) =>
      match s.group? g with
      | none => .ok s
      | some grp =>
        if o.dr && s.engineBusy g then waitAgain s g grp slices .drain
        else if rel && widerThanDevice o.sc && s.unacknowledged then waitAgain s g grp slices .acks
        else do
          if o.dr then checkRefusedCopy s g fun _ => true
          let s := if o.dr then s.observe g fun _ => true else s
          let s := if acq then s.acquire g else s
          return (s.fenceCaches (deviceOfGroup g) o.sc acq rel).advance
    | some (.pilot cl) => do
      checkQuiet s
      if rel && widerThanDevice o.sc && s.unacknowledged then
        .error (.wait (s.setPilot cl { (s.cluster cl).pilot with wait := .acks }))
      else return (s.fenceCaches (deviceOf cl) o.sc acq rel).advance
    | none => .ok s.advance

/-- FENCE.acq (R133). -/
def execFenceAcq (o : UFence) (s : State) := fence o s true false
/-- FENCE.rel (R133). -/
def execFenceRel (o : UFence) (s : State) := fence o s false true
/-- FENCE.full (R133). -/
def execFenceFull (o : UFence) (s : State) := fence o s true true

/-! ### Queues -/

/-- The queue that a word names; one at or beyond the team's count is QPORT, after the traps of the word's registers (R225,
R235): no register is named, so TVAL is open. -/
def namedQueue (s : State) (grp : Group) (q : Fin 32) (srcs dsts : List (Fin 64)) : Except Stop (Fin 32) :=
  match s.queueOf grp q.val with
  | some ph => .ok ph
  | none =>
    match uniformSources s srcs dsts noPorts with
    | .error (.trap t w) => .error (.trap t w)
    | _ => .error (.trap { kind := .qport, val := BitVec.ofNat 64 (Config.freeNat s.fresh 12289) } s)

/-- The traps and the run break of a word's uniform registers in flight (R27, R152). -/
def checkResults (s : State) (srcs dsts : List (Fin 64)) : Except Stop Unit :=
  match s.cur with
  | some (.gang g slices) =>
    match s.group? g with
    | some grp => do
      checkPromise s grp slices [] (srcs ++ dsts)
      checkArrived s g grp slices [] srcs
    | none => .ok ()
  | _ => .ok ()

/-- A queue word's accesses, made if they can be at once: without .nb the gang stalls, with .nb false goes to its condition
and nothing is popped or pushed (R40). -/
def queueWord (s : State) (nb : Bool) (c : Fin 8) (srcs dsts : List (Fin 64)) (extra : PortPlan)
    (act : State → List DWord → List DWord → State) : Except Stop State := do
  checkResults s srcs dsts
  match uniformSources s srcs dsts extra with
  | .error (.wait w) => if nb then .ok (s.writeCond c false).advance else .error (.wait w)
  | .error e => .error e
  | .ok (vs, plan) =>
    let popped := match s.cur with
      | some (.gang g _) => (s.cluster (clusterOf g)).peek plan
      | _ => []
    let s1 := act (s.commitPops plan).pinIssuer vs popped
    .ok (if nb then s1.writeCond c true else s1).advance

/-- QPUT (R40, R42, R235). -/
def execQput (o : UQput) (s : State) : Host.Outcome State Fault Refusal :=
  onGang s fun g grp _ => do
    let ph ← namedQueue s grp o.q [o.sa] []
    queueWord s o.nb o.c [o.sa] [] ⟨[], [ph]⟩ fun s vs _ => s.pushQueue (clusterOf g) ph (some (uv vs 0))

/-- QGET: the queue is popped first, then the value goes to sd, through its port if it is one (R42, R235). -/
def execQget (o : UQget) (s : State) : Host.Outcome State Fault Refusal :=
  onGang s fun _ grp _ => do
    let ph ← namedQueue s grp o.q [] [o.sd]
    queueWord s o.nb o.c [] [o.sd] ⟨[ph], []⟩ fun s _ popped => s.writeUniform o.sd (popped.headD 0)

/-! ### Batches and tickets -/

/-- The mark of what a group's open batch has written, while its group has not observed it. -/
def openMark : Nat := 2 ^ 42
/-- The mark of what a sealed batch has written. -/
def batchMark (n : Word) : Nat := 2 ^ 40 + n.toNat
/-- The mark of what a ticket's operation has written. -/
def ticketMark (seq : Word) : Nat := 2 ^ 41 + seq.toNat
/-- The batch of a mark. -/
def markedBatch (k : Nat) : Option Word := if 2 ^ 40 ≤ k ∧ k < 2 ^ 41 then some (BitVec.ofNat 32 k) else none

/-- What a group's operation has written goes under another mark. -/
def State.remark (s : State) (g : GroupId) (old new : Nat) : State :=
  { s with unseen := s.unseen.map fun (u : Unseen) => if u.g == g && u.op == old then { u with op := new } else u }

/-- ASEAL: the open batch takes the next number, unless fifteen sealed batches are unfinished (R114, R239). -/
def execAseal (o : UDc) (s : State) : Host.Outcome State Fault Refusal :=
  onGang s fun g grp slices => do
    if !s.condHolds then return s.advance
    let (_, plan) ← uniformSources s [] [o.sd] noPorts
    if 15 ≤ grp.batches.sealed_.length then waitAgain s g grp slices (.batches 14)
    else
      let n := grp.batches.last + 1
      let b := { grp.batches with unsealed := [], sealed_ := grp.batches.sealed_ ++ [(n, grp.batches.unsealed)], last := n
                                  refused := grp.batches.refused.map fun e => (some (e.1.getD n), e.2) }
      let s1 := (s.setGroup g { grp.pin slices with batches := b }).remark g openMark (batchMark n)
      return ((s1.commitPops plan).writeUniform o.sd (n.zeroExtend 64)).advance

/-- AWAIT n (R114, R139, R239, R443). -/
def execAwait (o : UWait) (s : State) : Host.Outcome State Fault Refusal :=
  onGang s fun g grp slices =>
    if o.n.val < grp.batches.sealed_.length then waitAgain s g grp slices (.batches o.n.val)
    else do
      checkRefusedCopy s g (grp.batches.awaited o.n.val)
      return (s.observe g fun k => (markedBatch k).isSome && grp.batches.awaited o.n.val (markedBatch k)).advance

/-- A completion status (R241). -/
def statusWord (outcome kind deliv detail : Nat) : DWord :=
  BitVec.ofNat 64 (outcome * 2 ^ 62 + kind * 2 ^ 56 + deliv * 2 ^ 48 + detail % 2 ^ 48)

/-- AWAIT.t: the status of the ticket's operation, whose entry is then free; NOTICKET at once when no entry matches
(R240, R241). -/
def execAwaitT (o : UR2) (s : State) : Host.Outcome State Fault Refusal :=
  onGang s fun g grp slices => do
    let (vs, plan) ← uniformSources s [o.sa] [o.sd] noPorts
    let t := (uv vs 0).toNat
    let finish := fun (s : State) x => ((s.commitPops plan).writeUniform o.sd x).advance
    match grp.tickets.find? fun e => e.entry.val == bits t 32 4 && e.seq.toNat == t % 2 ^ 32 with
    | none => return finish s (statusWord 1 3 0 0)
    | some e =>
      match e.status with
      | some x =>
        let s := s.setGroup g { grp with tickets := grp.tickets.filter fun k => k.entry ≠ e.entry }
        return finish (s.observe g fun k => k == ticketMark e.seq) x
      | none => waitAgain s g grp slices (.ticket e.entry.val e.seq)

/-! ### Streams -/

/-- The lowest and the highest byte address of a walk (R236). -/
def StreamDesc.range (d : StreamDesc) : Int × Int :=
  (d.extent.toList.zip d.stride.toList).foldl (fun (r : Int × Int) e =>
    let span : Int := (e.1.toNat - 1 : Nat) * signed 32 e.2.toNat
    if span < 0 then (r.1 + span, r.2) else (r.1, r.2 + span)) (d.base.toNat, d.base.toNat + 3)

/-- The range check of SARM.arm: in memory the lowest and the highest byte of the walk, in local store every element (R113, R236).
An address beyond 64 bits wraps (log entry 140). -/
def checkWalk (s : State) (grp : Group) (d : StreamDesc) : Except Stop Unit :=
  if d.count = 0 then .ok ()
  else
    let (lo, hi) := d.range
    let bad := fun (x : Int) => wrap 64 x
    if d.space then
      let size := (s.teamOf grp).lsSize
      match (List.range d.count).find? fun e => !localOk size (d.addr e) 4 with
      | some e => .error (.trap { kind := .lsbound, val := BitVec.ofNat 64 (d.addr e) } s)
      | none => .ok ()
    else
      let one := fun (x : Int) => match addrKind grp.priv (bad x) 1 with
        | some k => Except.error (Stop.trap { kind := k, val := BitVec.ofNat 64 (bad x) } s)
        | none => .ok ()
      one lo *> one hi

/-- SARM.arm (R236). -/
def execSarmArm (o : UArm) (s : State) : Host.Outcome State Fault Refusal :=
  onGang s fun g grp _ => do
    let d := grp.sd[o.k]
    require (!d.armed) s { kind := .illegal, reason := 6 }
    require (d.base.toNat % 4 == 0) s { kind := .bounds, val := d.base.zeroExtend 64 }
    checkWalk s grp d
    return (s.setGroup g { grp with sd := grp.sd.set o.k { d with armed := true, dir := o.wr, done := 0, since := s.fresh } }).advance

/-- SARM.disarm (R236). -/
def execSarmDisarm (o : UStrm) (s : State) : Host.Outcome State Fault Refusal :=
  onGang s fun g grp _ =>
    .ok (s.setGroup g { grp with sd := grp.sd.set o.k { grp.sd[o.k] with armed := false } }).advance

end Sys2Proof.Machine
end

