-- ==== Sys2Proof/Machine/Engine.lean ====
section
/-! DEFINITION. What the engines share: reading a record at issue, tickets, engine accesses, and the end of an operation
(R138 to R140, R225, R240, R241, R443). -/

namespace Sys2Proof.Machine

open Sys2Proof

/-! ### At issue -/


/-- The dwords of a list of bytes (R2). -/
def dwordsOf (bs : List Byte) : List DWord :=
  (List.range (bs.length / 8)).map fun i => BitVec.ofNat 64 (ofBytes ((bs.drop (8 * i)).take 8))

/-- A dword of a record. -/
def dw (d : List DWord) (i : Nat) : Nat := (d.getD i 0).toNat

/-- The lowest free entry of the ticket table (R240). -/
def Group.freeTicket (grp : Group) : Option (Fin 16) :=
  (List.finRange 16).find? fun e => !grp.tickets.any fun t => t.entry == e

/-- TICKFULL when the table is full (R225 step 8, R240). -/
def checkTicket (s : State) (grp : Group) : Except Stop Unit := require grp.freeTicket.isSome s { kind := .tickfull }

/-- A record of `n` bytes read at issue: with a full ticket table TICKFULL comes before its refusal and its poison; the group is parked
while it is refused, and POISON is raised when it is poisoned. The word has not acted yet: its queue entries stay where they are (R101,
R223, R225, R440, R443). -/
def readRecord (s : State) (g : GroupId) (grp : Group) (slices : BitVec 8) (a n align : Nat) : Except Stop (State × List Byte) := do
  checkUniform s a n false
  require (a % align == 0) s { kind := .align, val := BitVec.ofNat 64 a }
  match s.places (s.groupReq g grp .load) a n with
  | .error why => do
    checkTicket s grp
    .error (.wait (s.parkGroup g slices 0 .load (codeOfBytes n) why (s.refusedAt (s.groupReq g grp .load) a n) 1 0
      (grp.progressOf slices)))
  | .ok (s, ps) =>
    let (bs, p) := s.readPlaces ps
    match p with
    | some i => do
      checkTicket s grp
      .error (.trap { kind := .poison, val := poisonVal (a + i) } s)
    | none => return (s, bs)

/-- A ticketed operation issued: the state with the lowest free entry held, the entry and its number, and the ticket (R240; which
free entry it is: log entry 138). -/
def issueTicket (s : State) (g : GroupId) (kind : Nat) : Except Stop (State × Fin 16 × Word × DWord) :=
  match s.group? g with
  | none => .error (.wait s)
  | some grp =>
    match grp.freeTicket with
    | none => trapOf s .tickfull
    | some e =>
      let seq := grp.ticketSeq + 1
      let t : Ticket := { entry := e, kind := kind, seq := seq, status := none }
      let mine := match s.cur with
        | some (.gang _ slices) => slices
        | _ => 0
      let grp := grp.mapSlices mine fun sl => { sl with issued := seq :: sl.issued }
      .ok (s.setGroup g { grp with tickets := grp.tickets ++ [t], ticketSeq := seq }, e, seq,
        BitVec.ofNat 64 (kind * 2 ^ 56 + e.val * 2 ^ 32 + seq.toNat))

/-- An engine operation of the word in execution. -/
def mkOp (s : State) (kind : OpKind) (g : GroupId) (grp : Group) (record : DWord) (desc : List DWord)
    (ticket : Option (Fin 16 × Word)) : EngineOp :=
  { id := s.nextId, kind := kind, g := g, team := grp.team, launch := grp.launch, ld := deviceOfGroup g,
    asn := s.asnOf grp.launch, priv := grp.priv, cl := clusterOf g, record := record, desc := desc,
    word := s.fetched.word, pc := (grp.slices[(0 : Fin 8)]).pc, sidecar := s.fetched.sidecar
    uft := (s.ctxOfGroup g grp).uft, since := s.fresh, ticket := ticket, parked := false }

/-- The mark of what an operation has written, while its group has not observed its completion (R139). -/
def EngineOp.mark (o : EngineOp) : Nat := o.ticket.elim o.id fun e => ticketMark e.2

/-- An operation joins those in progress. -/
def State.addOp (s : State) (o : EngineOp) : State := { s with ops := s.ops ++ [o], nextId := s.nextId + 1 }

/-- A ticketed operation starts: the word acts, and pops and reserves its queue entries, and its ticket goes to sd (R240, R440,
R441). -/
def startOp (s : State) (plan : PortPlan) (g : GroupId) (grp : Group) (slices : BitVec 8) (kind : OpKind) (code : Nat) (sd : Fin 64)
    (la : Nat) (record : DWord) (desc : List DWord) : Except Stop State := do
  checkTicket s grp
  let (s1, e, seq, ticket) ← issueTicket ((s.commitPops plan).reserve sd) g code
  match s1.group? g with
  | none => return s1
  | some grp =>
    let o := { mkOp s1 kind g grp record desc (some (e, seq)) with pc := (grp.lead slices).pc }
    return ((s1.addOp o).deliverUniform sd la ticket).advance

/-- The address ranges of an operation checked at issue, BOUNDS before PRIV, each with the first range refused (R101,
R225): nothing for an empty range. -/
def checkRanges (s : State) (p : Priv) (rs : List (Nat × Nat)) : Except Stop Unit := do
  let hit := fun (k : Kind) => rs.find? fun r => r.2 != 0 && addrKind p r.1 r.2 == some k
  match hit .bounds with
  | some r => .error (.trap { kind := .bounds, val := BitVec.ofNat 64 r.1 } s)
  | none => .ok ()
  match hit .priv with
  | some r => .error (.trap { kind := .priv, val := BitVec.ofNat 64 r.1 } s)
  | none => .ok ()

/-! ### Engine accesses -/

/-- Why an engine's access does not deliver. -/
inductive EngineStop
  | refused (k : AccKind) (code reason addr : Nat)
  | poison (addr : Nat) (s : State)

/-- The engine codes of dword 3 of a fault-buffer entry (R369). -/
def OpKind.code : OpKind → Nat
  | .acp _ => 1
  | .bxt => 2
  | .gath => 3
  | .mxmul _ => 6
  | .ntt .. => 7
  | .stow => 8

/-- The size code of an engine's access: that of its element or copy, and 32 bits for rows of limbs (R148, R369; log entry 130). -/
def engineCode (n : Nat) : Nat := if n = 1 ∨ n = 2 ∨ n = 8 ∨ n = 16 then codeOfBytes n else 4

/-- The translation request of an operation's access of so many bytes, with the underflow threshold of its issue (R66; log entry 112). -/
def EngineOp.req (o : EngineOp) (k : AccKind) (n : Nat) : Req :=
  { ld := o.ld, asn := o.asn, priv := o.priv, kind := k, uft := some o.uft, sidecar := o.sidecar, g := some o.g, code := engineCode n
    maker := some ⟨agentOfGroup o.g 0, o.kind.code, o.pc, o.word.toNat⟩ }

/-- What an engine reads, or that it meets poison. -/
def engineBytes (s : State) (a : Nat) (r : List Byte × Option Nat) : Except EngineStop (List Byte) :=
  match r with
  | (_, some i) => .error (.poison (a + i) s)
  | (bs, none) => .ok bs

/-- `n` bytes of virtual memory read by an operation, each unit of so many bytes at any time since the operation was issued (R118,
R138). -/
def engineReadUnits (s : State) (o : EngineOp) (unit a n : Nat) : Except EngineStop (State × List Byte) := do
  match s.places (o.req .load n) a n with
  | .error why => .error (.refused .load (engineCode n) why (s.refusedAt (o.req .load n) a n))
  | .ok (s, ps) => return (s, ← engineBytes s a (s.readSince o.since unit ps))

/-- `n` bytes of virtual memory read by an operation, byte by byte at any time since it was issued (R138). -/
def engineRead (s : State) (o : EngineOp) (a n : Nat) : Except EngineStop (State × List Byte) := engineReadUnits s o 1 a n

/-- `n` bytes of virtual memory as an operation that changes part of them finds them. -/
def engineReadNow (s : State) (o : EngineOp) (a n : Nat) : Except EngineStop (State × List Byte) := do
  match s.places (o.req .load n) a n with
  | .error why => .error (.refused .load (engineCode n) why (s.refusedAt (o.req .load n) a n))
  | .ok (s, ps) => return (s, ← engineBytes s a (s.readPlaces ps))

/-- Bytes written at places by an operation: until its group observes its completion each is performed at a step that is free (R139, log
entry 108). -/
def engineStore (s : State) (o : EngineOp) (mark : Nat) (ps : List Place) (bs : List Byte) : State :=
  let kept := ps.filterMap fun p => p.loc?.map fun l =>
    ({ g := o.g, launch := o.launch, op := mark, loc := l, was := s.atomicByte p
       lands := s.fresh + Config.freeNat s.fresh (2 ^ 80 + l) } : Unseen)
  let s := s.groupStore (o.req .store bs.length) o.launch ps bs
  { s with unseen := kept ++ s.unseen }

/-- Bytes written to virtual memory by an operation (R139). -/
def engineWriteAs (s : State) (o : EngineOp) (mark a : Nat) (bs : List Byte) : Except EngineStop State :=
  match s.places (o.req .store bs.length) a bs.length with
  | .error why => .error (.refused .store (engineCode bs.length) why (s.refusedAt (o.req .store bs.length) a bs.length))
  | .ok (s, ps) => .ok (engineStore s o mark ps bs)

/-- Bytes written to virtual memory by an operation under its own mark (R139). -/
def engineWrite (s : State) (o : EngineOp) (a : Nat) (bs : List Byte) : Except EngineStop State := engineWriteAs s o o.mark a bs

/-- The team whose local store an operation uses. -/
def State.opTeam (s : State) (o : EngineOp) : Option Team := s.team? o.team

/-- Bytes of a team's allocation read by an operation (R138). -/
def localRead (s : State) (o : EngineOp) (t : Team) (a n : Nat) : Except EngineStop (List Byte) :=
  engineBytes s a (s.readSince o.since 1 (t.localPlaces a n))

/-- Bytes written to a team's allocation by an operation (R139). -/
def localWrite (s : State) (o : EngineOp) (t : Team) (a : Nat) (bs : List Byte) : State :=
  engineStore s o o.mark (t.localPlaces a bs.length) bs

/-! ### The end of an operation -/

/-- An operation's access is refused: it is parked until REPLAY or REFUSE (R340, R369, R443). -/
def State.parkOp (s : State) (o : EngineOp) (k : AccKind) (code reason a : Nat) : State :=
  let d := faultDwords 1 Kind.xlate.code reason o.asn (accessBits k code) a 1 0 (agentOfGroup o.g 0) o.kind.code o.pc o.word.toNat
    o.sidecar s.pack.time (BitVec.ofNat 64 a)
  (({ s with ops := s.ops.map fun (x : EngineOp) => if x.id == o.id then { x with parked := true } else x }).meetTable o.ld o.asn a
      reason).postFault o.ld
    { seq := none, type := 1, asn := o.asn, owner := .engine o.id, dwords := d, held := none }

/-- The status reaches the ticket, if its group still holds it (R240, R241). -/
def State.setStatus (s : State) (g : GroupId) (team : Nat) (entry : Fin 16) (seq : Word) (x : DWord) : State :=
  match s.group? g with
  | none => s
  | some grp =>
    if grp.team = team then
      s.setGroup g { grp with tickets := grp.tickets.map fun t =>
        if t.entry == entry && t.seq == seq then { t with status := some x } else t }
    else s

/-- An operation completes with a status (R241). -/
def State.finishOp (s : State) (o : EngineOp) (x : DWord) : State :=
  let s := ({ s with ops := s.ops.filter fun p => p.id ≠ o.id }).dropProduct o.cl o.id
  let s := match o.ticket with
    | some (e, seq) => s.setStatus o.g o.team e seq x
    | none => s
  s.reapTeams

/-- An operation that is performed: it completes DONE with its status, is parked, or completes FAILED with kind POISON
(R241). What a refused transfer leaves: log entry 139. -/
def completeOp (s : State) (o : EngineOp) (r : Except EngineStop (State × DWord)) : Host.Outcome State Fault Refusal :=
  match r with
  | .ok (s, x) => .next (s.finishOp o x)
  | .error (.refused k n why a) => .next (s.parkOp o k n why a)
  | .error (.poison a s) => .next (s.finishOp o (statusWord 1 1 0 (a / 32 * 32)))

/-- The operation that an event completes: the one its number names, while it is not parked. -/
def State.eventOp (s : State) (p : OpKind → Bool) : Option EngineOp :=
  s.ops.find? fun o => o.id == s.arg.num && !o.parked && p o.kind

/-! ### Copies (R114, R115, R238) -/

/-- The place of a byte of an end: whether it is in local store, and its address. -/
def CopyEnd.place (e : CopyEnd) (k : Nat) : Bool × Nat :=
  match e with
  | .global a => (false, a.toNat + k)
  | .localStore a => (true, a.toNat + k)

/-- Two ends of so many bytes share a byte. -/
def CopyEnd.meets (a b : CopyEnd) (m n : Nat) : Bool :=
  (a.place 0).1 == (b.place 0).1 && decide ((a.place 0).2 < (b.place 0).2 + n ∧ (b.place 0).2 < (a.place 0).2 + m)

/-- A copy whose source has been read. -/
structure ReadCopy where
  copy : Copy
  bytes : List Byte

/-- The bytes that copies bring to a place. -/
def bytesFor (rs : List ReadCopy) (p : Bool × Nat) : List Byte :=
  rs.flatMap fun r =>
    let b := r.copy.dst.place 0
    if b.1 == p.1 && decide (b.2 ≤ p.2) then (r.bytes[p.2 - b.2]?).toList else []

/-- One of several bytes, by a free number. -/
def pickByte (bs : List Byte) (n k : Nat) (other : Byte) : Byte :=
  match bs with
  | [] => other
  | [b] => b
  | _ => bs.getD (Config.freeNat n k % bs.length) other

/-- Source bytes that the destination of another copy covers are read before or after they are overwritten, byte by byte
(R115). -/
def reread (n pass : Nat) (rs : List ReadCopy) : List ReadCopy :=
  rs.zipIdx.map fun (r, i) =>
    let others := (rs.zipIdx.filter fun e => e.2 != i).map Prod.fst
    let bytes := r.bytes.zipIdx.map fun (b, k) =>
        let c := 2 ^ 64 * (2 + (pass * rs.length + i) * 16 + k)
        match bytesFor others (r.copy.src.place k) with
        | [] => b
        | bs => if Config.freeBit n c then pickByte bs n c b else b
    ReadCopy.mk r.copy bytes

/-- The bytes that copies read, where they overlap (R115): one pass for each copy, since a byte may pass through them all. -/
def settleReads (n : Nat) (rs : List ReadCopy) : List ReadCopy :=
  let meet := rs.zipIdx.any fun (r, i) => rs.zipIdx.any fun (q, j) => i != j && r.copy.src.meets q.copy.dst r.copy.size q.copy.size
  if meet then (List.range rs.length).foldl (fun rs pass => reread n pass rs) rs else rs

/-- Each byte that several copies write is that of one of them, chosen byte by byte (R115). -/
def settleWrites (n : Nat) (rs : List ReadCopy) : List ReadCopy :=
  rs.map fun r => ReadCopy.mk r.copy (r.bytes.zipIdx.map fun (b, k) =>
    let p := r.copy.dst.place k
    pickByte (bytesFor rs p) n (2 * p.2 + bitNat p.1) b)

/-- The operation that makes a copy's accesses. -/
def EngineOp.forCopy (o : EngineOp) (c : Copy) : EngineOp := 
  { o with priv := c.priv, since := c.since, sidecar := c.sidecar, uft := c.uft, word := c.word, pc := c.pc }

/-- The source of a copy read. -/
def readCopy (s : State) (o : EngineOp) (c : Copy) : Except EngineStop (State × List Byte) :=
  match c.src, s.opTeam o with
  | .global a, _ => engineRead s (o.forCopy c) a.toNat c.size
  | .localStore a, some t => (localRead s (o.forCopy c) t a.toNat c.size).map fun bs => (s, bs)
  | .localStore _, none => .ok (s, [])

/-- The bytes of a copy written to its destination, under a mark. -/
def writeCopy (s : State) (o : EngineOp) (mark : Nat) (c : Copy) (bs : List Byte) : Except EngineStop State :=
  match c.dst, s.opTeam o with
  | .global a, _ => engineWriteAs s (o.forCopy c) mark a.toNat bs
  | .localStore a, some t => .ok (engineStore s (o.forCopy c) mark (t.localPlaces a.toNat bs.length) bs)
  | .localStore _, none => .ok s

/-- A copy whose access was refused, with the kind of access and the reason. -/
structure RefusedCopy where
  copy : Copy
  kind : AccKind
  reason : Nat
  at_ : Nat

/-- The sources of copies read: those read, those left, parked where they are refused, and those newly refused. A copy that
reads poison leaves its destination as it was (log entry 22). -/
def readCopies (s : State) (o : EngineOp) : List Copy → State × List ReadCopy × List Copy × List RefusedCopy
  | [] => (s, [], [], [])
  | c :: rest =>
    if c.parked.isSome then
      let (s, rs, left, r) := readCopies s o rest
      (s, rs, c :: left, r)
    else if c.abandoned then readCopies s o rest
    else
      match readCopy s o c with
      | .ok (s, bs) =>
        let (s, rs, left, r) := readCopies s o rest
        (s, ⟨c, bs⟩ :: rs, left, r)
      | .error (.poison _ s) => readCopies s o rest
      | .error (.refused k _ why a) =>
        let (s, rs, left, r) := readCopies s o rest
        (s, rs, { c with parked := some a } :: left, ⟨c, k, why, a⟩ :: r)

/-- The destinations of copies written: those left, parked where they are refused, and those newly refused. -/
def writeCopies (s : State) (o : EngineOp) (mark : Copy → Nat) : List ReadCopy → State × List Copy × List RefusedCopy
  | [] => (s, [], [])
  | c :: rest =>
    match writeCopy s o (mark c.copy) c.copy c.bytes with
    | .ok s => writeCopies s o mark rest
    | .error (.poison _ s) => writeCopies s o mark rest
    | .error (.refused k _ why a) =>
      let (s, left, r) := writeCopies s o mark rest
      (s, { c.copy with parked := some a } :: left, ⟨c.copy, k, why, a⟩ :: r)

/-- Copies performed in no set order (R115): those left, and those newly refused. -/
def performCopies (s : State) (o : EngineOp) (mark : Copy → Nat) (cs : List Copy) : State × List Copy × List RefusedCopy :=
  let n := s.fresh
  let (s, rs, left, r) := readCopies s o cs
  let (s, left2, r2) := writeCopies s o mark (settleWrites n (settleReads n rs))
  (s, left ++ left2, r ++ r2)

/-- The slices that some lanes lie in. -/
def slicesOf (lanes : LaneMask) : BitVec 8 := maskOfFn 8 fun i => lanes &&& sliceLanes i 15 != 0

/-- The record of the copies of one ACP that were refused, headed by that of the lowest lane; `left` are the copies not done
(R369, R443). -/
def State.postCopy (s : State) (o : EngineOp) (op : Option Nat) (left : List Copy) (r : RefusedCopy) (fmask : LaneMask) : State :=
  let undone := maskOf 32 ((left.filter fun c => c.issue == r.copy.issue).map fun c => c.lane.val)
  (s.meetTable o.ld o.asn r.at_ r.reason).postFault o.ld
    { seq := none, type := 1, asn := o.asn, owner := .copy o.g op r.copy.issue, held := none
      dwords := faultDwords 1 Kind.xlate.code r.reason o.asn (accessBits r.kind (codeOfBytes r.copy.size)) r.at_ fmask.toNat
        (r.copy.lanes &&& ~~~undone).toNat (agentOfGroup o.g (slicesOf r.copy.lanes)) 1 r.copy.pc r.copy.word.toNat r.copy.sidecar
        s.pack.time (BitVec.ofNat 64 r.at_) }

/-- A record for each ACP with copies newly refused, in the order of their lanes. -/
def State.postCopies (s : State) (o : EngineOp) (op : Option Nat) (left : List Copy) (rs : List RefusedCopy) : State :=
  (rs.map fun r => r.copy.issue).eraseDups.foldl (fun s n =>
    let mine := rs.filter fun r => r.copy.issue == n
    match mine with
    | [] => s
    | r :: rest =>
      let low := rest.foldl (fun b x => if x.copy.lane.val < b.copy.lane.val then x else b) r
      s.postCopy o op left low (maskOf 32 (mine.map fun r => r.copy.lane.val))) s

/-- Two copies are the same one: lane and ACP. -/
def Copy.same (a b : Copy) : Bool := a.issue == b.issue && a.lane == b.lane

/-- What is left of some copies of which those chosen have been performed. -/
def leftOf (chosen : Copy → Bool) (left cs : List Copy) : List Copy :=
  cs.filterMap fun c => if chosen c then left.find? c.same else some c

/-- The copies left of a group's batches. -/
def Batches.mapCopies (b : Batches) (f : List Copy → List Copy) : Batches :=
  { b with unsealed := f b.unsealed, sealed_ := b.sealed_.map fun e => (e.1, f e.2) }

/-- The mark of a copy of a group's batches. -/
def Batches.markOf (b : Batches) (c : Copy) : Nat :=
  ((b.sealed_.find? fun e => e.2.any c.same).map fun e => batchMark e.1).getD openMark

/-- Some copies of a group performed together, whatever their batches (R115). -/
def State.performBatch (s : State) (g : GroupId) (grp : Group) (chosen : Copy → Bool) : State :=
  let b := grp.batches
  let o := mkOp s (.acp []) g grp 0 [] none
  let (s, left, r) := performCopies s o b.markOf ((b.unsealed ++ b.sealed_.flatMap Prod.snd).filter chosen)
  let s := match s.group? g with
    | some grp => s.setGroup g { grp with batches := grp.batches.mapCopies (leftOf chosen left) }
    | none => s
  s.postCopies o none left r

/-- BATCH_COMPLETE: the copies of the oldest sealed batch of a group are performed, and the batch completes when none is
parked (R114); with the flag, some of its copies are performed, of any unfinished batches, and none of these completes (R115); with a
number, the copies left by a group that has retired are performed (R292). Subject: the group, or the operation's number. -/
def execBatchComplete (s : State) : Host.Outcome State Fault Refusal :=
  if s.arg.num ≠ 0 then
    match s.ops.find? fun o => o.id == s.arg.num with
    | some o =>
      match o.kind with
      | .acp cs =>
        let (s, left, r) := performCopies s o (fun _ => o.mark) cs
        let s := { s with ops := s.ops.map fun (x : EngineOp) => if x.id == o.id then { x with kind := .acp left } else x }
        .next (if left.isEmpty then s.finishOp o 0 else s.postCopies o (some o.id) left r)
      | _ => .next s
    | none => .next s
  else
    match s.group? s.arg.g with
    | none => .next s
    | some grp =>
      let g := s.arg.g
      if s.arg.flag then
        .next (s.performBatch g grp fun c => c.parked.isNone && Config.freeBit s.fresh (2 ^ 64 + 32 * c.issue + c.lane.val))
      else match grp.batches.sealed_ with
        | [] => .next s
        | (_, cs) :: _ =>
          let s := s.performBatch g grp fun c => cs.any c.same
          .next (match s.group? g with
            | some grp => s.setGroup g { grp with batches := { grp.batches with
                sealed_ := match grp.batches.sealed_ with
                  | (_, []) :: rest => rest
                  | bs => bs } }
            | none => s)

end Sys2Proof.Machine
end

