-- ==== Sys2Proof/Machine/Transfer.lean ====
section
/-! DEFINITION. Block transfers and gathers (R111, R112, R116 to R118, R242 to R248). -/

namespace Sys2Proof.Machine

open Sys2Proof

/-! ### Layout records (R242) -/

/-- One dimension of a layout record. -/
structure Dim where
  stride : Int
  extent : Nat
  box : Nat
  start : Int
  deriving DecidableEq, Repr

/-- A layout record; `dims` holds the dimensions below DIMS. -/
structure Layout where
  mbase : Nat
  dir : Bool
  dims : List Dim
  fmt : Nat
  edge : Nat
  mb : Bool
  plane : Bool
  lb : Bool
  pen : Bool
  partner : Nat
  mcast : Nat
  lsaddr : Nat
  scalebase : Nat
  srow : Nat
  deriving DecidableEq, Repr

/-- Dimension `j` of a record. -/
def dimOf (d : List DWord) (j : Nat) : Dim :=
  { stride := signed 32 (bits (dw d (1 + 2 * j)) 32 32), extent := bits (dw d (1 + 2 * j)) 0 32,
    box := bits (dw d (2 + 2 * j)) 32 16, start := signed 32 (bits (dw d (2 + 2 * j)) 0 32) }

/-- The fields of a record of 14 dwords. -/
def Layout.ofRecord (d : List DWord) : Layout :=
  let h := dw d 0
  { mbase := bits h 0 48, dir := bit h 48, dims := (List.range (bits h 49 3)).map (dimOf d), fmt := bits h 52 4,
    edge := bits h 56 2, mb := bit h 58, plane := bit h 59, lb := bit h 60, pen := bit h 61,
    partner := bits (dw d 11) 32 32, mcast := bits (dw d 11) 20 8, lsaddr := bits (dw d 11) 0 20,
    scalebase := bits (dw d 12) 0 48, srow := bits (dw d 13) 0 32 }

/-- Elements of four bits. -/
def Layout.nibbles (l : Layout) : Bool := l.fmt == 4 || l.fmt == 9

/-- The bits of an element (R242). -/
def Layout.width (l : Layout) : Nat :=
  match l.fmt with
  | 4 | 9 => 4
  | 0 | 5 | 6 | 7 | 10 => 8
  | 1 | 8 | 11 => 16
  | 3 => 64
  | _ => 32

/-- An MX format. -/
def Layout.isMx (l : Layout) : Bool := decide (4 ≤ l.fmt ∧ l.fmt ≤ 7)

/-- Reserved fields and dimensions at or above DIMS are zero (R242, R243). -/
def layoutReserved (d : List DWord) : Bool :=
  let n := bits (dw d 0) 49 3
  bits (dw d 0) 62 2 == 0 && (List.range 5).all (fun j => bits (dw d (2 + 2 * j)) 48 16 == 0) && bits (dw d 11) 28 4 == 0 &&
    bits (dw d 12) 48 16 == 0 && bits (dw d 13) 32 32 == 0 &&
    (List.range 5).all fun j => decide (j < n) || (dw d (1 + 2 * j) == 0 && dw d (2 + 2 * j) == 0)

/-- Positions of the box in dimensions 1 to 4. -/
def Layout.rows (l : Layout) : Nat := (l.dims.drop 1).foldl (fun n e => n * e.box) 1

/-- The first dimension. -/
def Layout.dim0 (l : Layout) : Dim := l.dims.headD ⟨0, 1, 1, 0⟩

/-- The record rules hold; else BADREC (R243 to R246). -/
def Layout.ok (l : Layout) (d : List DWord) : Bool :=
  let n := l.dims.length
  let d0 := l.dim0
  layoutReserved d && decide (1 ≤ n ∧ n ≤ 5) && decide (l.edge ≤ 1) && decide (l.fmt ≤ 12) &&
    l.dims.all (fun e => e.box != 0 && e.extent != 0) &&
    (!l.nibbles || (d0.stride == 0 && d0.start % 2 == 0 && d0.box % 2 == 0)) &&
    (!l.dir || (!l.plane && !l.lb && !l.pen && l.edge == 0 && l.mcast == 0)) && (!l.pen || l.mcast != 0) &&
    (!l.plane || (decide (2 ≤ n) && (l.dims.take 2).all (fun e => e.box == 64) && decide (4 ≤ l.fmt) &&
      (!l.isMx || (n == 2 && d0.start % 32 == 0)))) &&
    (l.mcast == 0 || decide (l.lsaddr < 2 ^ 18)) &&
    (!l.lb || (decide (d0.box * l.width ≤ 8 * 8192) && decide (l.rows ≤ 16)))

/-! ### Coordinates (R116, R243) -/

/-- The coordinate read for `x` in an extent of `n`, none where the position is filled with zero (R116). -/
def edgeMap (edge : Nat) (mb : Bool) (n : Nat) (x : Int) : Option Nat :=
  if 0 ≤ x ∧ x < n then some x.toNat
  else if edge = 0 then none
  else if mb then
    let y := (x % (2 * n : Int)).toNat
    some (if y < n then y else 2 * n - 1 - y)
  else if n = 1 then some 0
  else
    let y := (x % (2 * n - 2 : Int)).toNat
    some (if y < n then y else 2 * n - 2 - y)

/-- The coordinate read in a dimension. -/
def Layout.mapIn (l : Layout) (e : Dim) (x : Int) : Option Nat := edgeMap l.edge l.mb e.extent x

/-- The positions of a box, its first dimension fastest. -/
def boxPositions : List Dim → List (List Int)
  | [] => [[]]
  | e :: rest => (boxPositions rest).flatMap fun r => (List.range e.box).map fun (i : Nat) => (e.start + (i : Int)) :: r

/-- The coordinates read at a position, none where any dimension is filled with zero. -/
def mapAll (f : Dim → Int → Option Nat) : List Dim → List Int → Option (List Nat)
  | e :: es, x :: xs => match f e x, mapAll f es xs with
    | some y, some ys => some (y :: ys)
    | _, _ => none
  | _, _ => some []

/-- The rows of the box: its coordinates read in dimensions 1 to 4 in order, none for a row of zeros. -/
def Layout.rowCoords (l : Layout) : List (Option (List Nat)) :=
  (boxPositions (l.dims.drop 1)).map (mapAll l.mapIn (l.dims.drop 1))

/-- The coordinates read along a row. -/
def Layout.columns (l : Layout) : List (Option Nat) :=
  (List.range l.dim0.box).map fun (i : Nat) => l.mapIn l.dim0 (l.dim0.start + (i : Int))

/-- The address of the element at coordinate `x` of a row, wrapped to 64 bits (R243, log entry 140). -/
def Layout.address (l : Layout) (x : Nat) (row : List Nat) : Nat :=
  let outer : Int := ((l.dims.drop 1).zip row).foldl (fun (a : Int) e => a + e.1.stride * (e.2 : Int)) 0
  let inner : Int := if l.nibbles then (x / 2 : Nat) else l.dim0.stride * (x : Int)
  wrap 64 ((l.mbase : Int) + outer + inner)

/-- The bytes of an element in memory. -/
def Layout.elemBytes (l : Layout) : Nat := (l.width + 7) / 8

/-- Where the MX scales of a tile stand: for each row and each block of 32 columns, none where the scale is 0x7F (R244). -/
def Layout.scaleAddrs (l : Layout) : List (Option Nat) :=
  if l.plane && l.isMx then
    l.rowCoords.flatMap fun r => [0, 1].map fun (b : Nat) =>
      match r, l.mapIn l.dim0 (l.dim0.start + 32 * (b : Int)) with
      | some (y :: _), some x => some (l.scalebase + y * l.srow + x / 32)
      | _, _ => none
  else []

/-- Every access of a transfer to virtual memory, in box order (R101). -/
def Layout.accesses (l : Layout) : List (Nat × Nat) :=
  (l.rowCoords.flatMap fun r => match r with
    | none => []
    | some row => l.columns.filterMap fun c => c.map fun x => (l.address x row, l.elemBytes)) ++
  l.scaleAddrs.filterMap fun a => a.map fun a => (a, 1)

/-! ### Bit planes (R111, R112) -/

/-- Exponent and mantissa bits of a floating format of a record. -/
def floatBits (fmt : Nat) : Option (Nat × Nat) :=
  match fmt with
  | 4 => some (2, 1)
  | 5 => some (5, 2)
  | 6 => some (4, 3)
  | 8 => some (8, 7)
  | _ => none

/-- The planes of a format in tile order, each as the bit of an element that it holds (R111, R112). -/
def Layout.planes (l : Layout) : List (Nat → Bool) :=
  match floatBits l.fmt with
  | some (e, m) =>
    (List.range m).map (fun i x => bit x i) ++ [fun x => bits x m e != 0] ++ [fun x => bit x (e + m)] ++
      (List.range e).map fun i x => bit x (m + i)
  | none => (List.range l.width).map fun i x => bit x i

/-- A row of a plane (R111). -/
def planeRow (f : Nat → Bool) (row : List Nat) : List Byte :=
  toBytes 8 ((row.zipIdx.map fun e => if f e.1 then 2 ^ e.2 else 0).sum)

/-- The planes of a tile of 64 rows. -/
def Layout.tile (l : Layout) (rows : List (List Nat)) : List Byte := l.planes.flatMap fun f => rows.flatMap (planeRow f)

/-- The bytes of a tile, by format code (R111). -/
def tileBytes (fmt : Nat) : Nat :=
  match fmt with
  | 4 => 2688
  | 5 | 6 => 4736
  | 7 => 4224
  | 8 => 8704
  | 9 => 2048
  | 10 => 4096
  | 11 => 8192
  | _ => 16384

/-- The bytes of the box in local store. -/
def Layout.size (l : Layout) : Nat :=
  if l.plane then tileBytes l.fmt * (l.rows / 64) else l.dim0.box * l.width / 8 * l.rows

/-- Elements packed densely, four-bit ones two to a byte, low nibble first (R243). -/
def Layout.pack (l : Layout) (xs : List Nat) : List Byte :=
  if l.nibbles then (List.range (xs.length / 2)).map fun i => BitVec.ofNat 8 (xs.getD (2 * i) 0 % 16 + 16 * (xs.getD (2 * i + 1) 0 % 16))
  else xs.flatMap (toBytes l.elemBytes)

/-- Elements of packed bytes. -/
def Layout.unpack (l : Layout) (bs : List Byte) : List Nat :=
  if l.nibbles then bs.flatMap fun b => [b.toNat % 16, b.toNat / 16]
  else (List.range (bs.length / l.elemBytes)).map fun i => ofBytes ((bs.drop (l.elemBytes * i)).take l.elemBytes)

/-! ### Issue -/

/-- BXT: the record read, BADREC, MCAST, the address range and LSBOUND in that order, then a ticket (R225, R242). -/
def execBxt (o : UDAL) (s : State) : Host.Outcome State Fault Refusal :=
  onGang s fun g grp slices => do
    let (vs, plan) ← uniformSources s [o.sa] [o.sd] noPorts
    let a := (uv vs 0).toNat
    let (s2, bs) ← readRecord s g grp slices a 112 8
    let d := dwordsOf bs
    let l := Layout.ofRecord d
    require (l.ok d) s2 { kind := .badrec, val := BitVec.ofNat 64 a }
    require (decide (l.mcast < 16)) s2 { kind := .mcast, val := BitVec.ofNat 64 a }
    checkRanges s2 grp.priv l.accesses
    require (localOk (s.teamOf grp).lsSize l.lsaddr l.size) s2 { kind := .lsbound, val := BitVec.ofNat 64 l.lsaddr }
    startOp s2 plan g grp slices .bxt 1 o.sd o.la.val (BitVec.ofNat 64 a) d

/-! ### Performing a transfer -/

/-- A row read from memory, zero where a column is filled (R243). -/
def fetchRow (s : State) (o : EngineOp) (l : Layout) (row : List Nat) : List (Option Nat) → Except EngineStop (State × List Nat)
  | [] => .ok (s, [])
  | none :: cs => do
    let (s, xs) ← fetchRow s o l row cs
    return (s, 0 :: xs)
  | some x :: cs => do
    let (s, bs) ← engineRead s o (l.address x row) l.elemBytes
    let e := if l.nibbles then ofBytes bs / 16 ^ (x % 2) % 16 else ofBytes bs
    let (s, xs) ← fetchRow s o l row cs
    return (s, e :: xs)

/-- What identifies a walk: the record's address, and the record without the starts of dimensions 1 to 4 (R246). -/
def walkKey (o : EngineOp) : List DWord :=
  o.record :: o.desc.zipIdx.map fun (x, i) =>
    if i = 4 ∨ i = 6 ∨ i = 8 ∨ i = 10 then BitVec.ofNat 64 (x.toNat / 2 ^ 32 * 2 ^ 32) else x

/-- The rows of a transfer, those held in line buffers as they were fetched (R117, R246). -/
def fetchRows (s : State) (o : EngineOp) (l : Layout) (held : List LineBuf) :
    List (Option (List Nat)) → Except EngineStop (State × List (List Nat))
  | [] => .ok (s, [])
  | none :: rest => do
    let (s, rows) ← fetchRows s o l held rest
    return (s, List.replicate l.dim0.box 0 :: rows)
  | some c :: rest => do
    let (s, row) ← match held.find? fun b => b.coords == c with
      | some b => .ok (s, l.unpack b.bytes)
      | none => fetchRow s o l c l.columns
    let (s, rows) ← fetchRows s o l held rest
    return (s, row :: rows)

/-- The scales of a tile (R244). -/
def fetchScales (s : State) (o : EngineOp) : List (Option Nat) → Except EngineStop (State × List Byte)
  | [] => .ok (s, [])
  | none :: rest => do
    let (s, bs) ← fetchScales s o rest
    return (s, 0x7F :: bs)
  | some a :: rest => do
    let (s, b) ← engineRead s o a 1
    let (s, bs) ← fetchScales s o rest
    return (s, b ++ bs)

/-- A list cut into pieces of 64. -/
def pieces64 (xs : List (List Nat)) : List (List (List Nat)) :=
  (List.range (xs.length / 64)).map fun i => (xs.drop (64 * i)).take 64

/-- The partner team, if it is resident on the issuing cluster (R245). -/
def State.partnerTeam (s : State) (o : EngineOp) (index : Nat) : Option Team :=
  s.teams.find? fun t => t.launch == o.launch && t.index == index && t.cl == o.cl && t.released &&
    !t.members.all t.retired.contains

/-- A direction-0 transfer: the box written to its cores, with the mask delivered (R243 to R246). -/
def performBxtIn (s : State) (o : EngineOp) (l : Layout) : Except EngineStop (State × DWord) := do
  let c := s.cluster o.cl
  let key := walkKey o
  let held := if l.lb then c.lines.filter fun b => b.g == o.g && b.walk == key else []
  let coords := l.rowCoords
  let (s, rows) ← fetchRows s o l held coords
  let (s, scales) ← fetchScales s o l.scaleAddrs
  let s := if l.lb then
      let lines := (coords.zip rows).filterMap fun e => e.1.map fun k => (⟨o.g, key, k, l.pack e.2⟩ : LineBuf)
      let c := s.cluster o.cl
      s.setCluster o.cl { c with lines := lines }
    else s
  let data := if l.plane then (pieces64 rows).flatMap l.tile ++ scales else rows.flatMap l.pack
  let cores := (List.range 4).filter fun i => bit l.mcast i
  let write := fun (s : State) (t : Option Team) (a : Nat) => match t with
    | some t => localWrite s o t a data
    | none => s
  let own := s.opTeam o
  if l.mcast = 0 then return (write s own l.lsaddr, statusWord 0 0 (2 ^ (l.lsaddr / 2 ^ 18)) 0)
  let s := cores.foldl (fun s i => write s own (i * 2 ^ 18 + l.lsaddr)) s
  let partner := if l.pen then s.partnerTeam o l.partner else none
  let s := cores.foldl (fun s i => write s partner (i * 2 ^ 18 + l.lsaddr)) s
  return (s, statusWord 0 0 (l.mcast + if partner.isSome then 16 * l.mcast else 0) 0)

/-- A position of the box lies in the extents. -/
def inExtents : List Dim → List Int → Bool
  | e :: es, x :: xs => decide (0 ≤ x ∧ x < e.extent) && inExtents es xs
  | _, _ => true

/-- One element written to memory; a nibble keeps its byte's other half (R243). -/
def putElement (s : State) (o : EngineOp) (l : Layout) (x : Nat) (row : List Nat) (e : Nat) : Except EngineStop State := do
  let a := l.address x row
  if l.nibbles then
    let (s, bs) ← engineReadNow s o a 1
    let b := ofBytes bs
    engineWrite s o a [BitVec.ofNat 8 (if x % 2 = 0 then b / 16 * 16 + e % 16 else b % 16 + e % 16 * 16)]
  else engineWrite s o a (toBytes l.elemBytes e)

/-- Elements written at their positions, none outside the extents (R243). -/
def putElements (s : State) (o : EngineOp) (l : Layout) : List (List Int × Nat) → Except EngineStop State
  | [] => .ok s
  | (p, e) :: rest => do
    let s ← if inExtents l.dims p then putElement s o l (p.headD 0).toNat ((p.drop 1).map Int.toNat) e else .ok s
    putElements s o l rest

/-- A direction-1 transfer (R243). -/
def performBxtOut (s : State) (o : EngineOp) (l : Layout) : Except EngineStop (State × DWord) := do
  let bs ← match s.opTeam o with
    | some t => localRead s o t l.lsaddr l.size
    | none => .ok []
  let s ← putElements s o l ((boxPositions l.dims).zip (l.unpack bs))
  return (s, statusWord 0 0 0 0)

/-- BXT_COMPLETE: a transfer is performed and completes (R243 to R246). Subject: the operation's number. -/
def execBxtComplete (s : State) : Host.Outcome State Fault Refusal :=
  match s.eventOp fun k => k == .bxt with
  | none => .next s
  | some o =>
    let l := Layout.ofRecord o.desc
    completeOp s o (if l.dir then performBxtOut s o l else performBxtIn s o l)

/-! ### Gathers (R118, R247, R248) -/

/-- A gather descriptor. -/
structure Gather where
  list : Nat
  lsdst : Bool
  esize : Nat
  count : Nat
  table : Nat
  bound : Nat
  fill : Nat
  dest : Nat
  oormap : Nat
  deriving DecidableEq, Repr

/-- The fields of a descriptor of 8 dwords. -/
def Gather.ofRecord (d : List DWord) : Gather :=
  { list := bits (dw d 0) 0 48, lsdst := bit (dw d 1) 36, esize := bits (dw d 1) 32 4, count := bits (dw d 1) 0 32,
    table := bits (dw d 2) 0 48, bound := bits (dw d 3) 0 32, fill := dw d 4, dest := bits (dw d 5) 0 48,
    oormap := bits (dw d 6) 0 48 }

/-- The bytes of an element. -/
def Gather.size (q : Gather) : Nat := 2 ^ q.esize

/-- The descriptor rules hold; else BADREC (R248). -/
def Gather.ok (q : Gather) (d : List DWord) : Bool :=
  bits (dw d 0) 48 16 == 0 && bits (dw d 1) 37 27 == 0 && bits (dw d 2) 48 16 == 0 && bits (dw d 3) 32 32 == 0 &&
    bits (dw d 5) 48 16 == 0 && bits (dw d 6) 48 16 == 0 && dw d 7 == 0 && decide (q.esize ≤ 4) &&
    decide (1 ≤ q.count ∧ q.count ≤ 2 ^ 24) && q.list % 4 == 0 && q.table % q.size == 0 && q.dest % q.size == 0

/-- The bytes of the out-of-range map. -/
def Gather.mapBytes (q : Gather) : Nat := if q.oormap = 0 then 0 else ceilDiv q.count 8

/-- GATH: the descriptor read, BADREC, BOUNDS and LSBOUND, then a ticket (R247). -/
def execGath (o : UDAL) (s : State) : Host.Outcome State Fault Refusal :=
  onGang s fun g grp slices => do
    let (vs, plan) ← uniformSources s [o.sa] [o.sd] noPorts
    let a := (uv vs 0).toNat
    let (s2, bs) ← readRecord s g grp slices a 64 8
    let d := dwordsOf bs
    let q := Gather.ofRecord d
    require (q.ok d) s2 { kind := .badrec, val := BitVec.ofNat 64 a }
    checkRanges s2 grp.priv [(q.list, 4 * q.count), (q.table, q.bound * q.size),
      (q.dest, if q.lsdst then 0 else q.count * q.size), (q.oormap, q.mapBytes)]
    require (!q.lsdst || localOk (s.teamOf grp).lsSize q.dest (q.count * q.size)) s2
      { kind := .lsbound, val := BitVec.ofNat 64 q.dest }
    startOp s2 plan g grp slices .gath 2 o.sd o.la.val (BitVec.ofNat 64 a) d

/-- Bytes written to a gather's destination. -/
def Gather.put (q : Gather) (s : State) (o : EngineOp) (i : Nat) (bs : List Byte) : Except EngineStop State :=
  let a := q.dest + i * q.size
  if q.lsdst then
    match s.opTeam o with
    | some t => .ok (localWrite s o t a bs)
    | none => .ok s
  else engineWrite s o a bs

/-- Entry `i` handled: true when it is out of range (R118). -/
def Gather.entry (q : Gather) (s : State) (o : EngineOp) (i : Nat) : Except EngineStop (State × Bool) := do
  let (s, bs) ← engineReadUnits s o 4 (q.list + 4 * i) 4
  let e := ofBytes bs
  if 2 ^ 31 ≤ e then return (s, false)
  else if q.bound ≤ e then return (← q.put s o i (toBytes q.size q.fill), true)
  else
    let (s, x) ← engineRead s o (q.table + e * q.size) q.size
    return (← q.put s o i x, false)

/-- Entries from `i` on handled, with those out of range. -/
def Gather.entries (q : Gather) (s : State) (o : EngineOp) (i : Nat) : Nat → Except EngineStop (State × List Bool)
  | 0 => .ok (s, [])
  | n + 1 => do
    let (s, b) ← q.entry s o i
    let (s, bs) ← q.entries s o (i + 1) n
    return (s, b :: bs)

/-- The out-of-range map (R248). -/
def oorBytes (n : Nat) (bs : List Bool) : List Byte :=
  (List.range n).map fun i => BitVec.ofNat 8 (((List.range 8).map fun j => if bs.getD (8 * i + j) false then 2 ^ j else 0).sum)

/-- GATH_COMPLETE: a gather is performed and completes with its out-of-range count (R248). Subject: the operation's
number. -/
def execGathComplete (s : State) : Host.Outcome State Fault Refusal :=
  match s.eventOp fun k => k == .gath with
  | none => .next s
  | some o =>
    let q := Gather.ofRecord o.desc
    completeOp s o do
      let (s, bs) ← q.entries s o 0 q.count
      let s ← if q.oormap = 0 then .ok s else engineWrite s o q.oormap (oorBytes q.mapBytes bs)
      return (s, statusWord 0 0 0 (bs.filter id).length)

end Sys2Proof.Machine
end

