-- ==== Sys2Proof/Machine/Matrix.lean ====
section
/-! DEFINITION. The matrix engine: operand maps, gangs and latches, the reservation table, passes, MACC and the slot
allocator (R89 to R93, R249 to R269). -/

namespace Sys2Proof.Machine

open Sys2Proof

/-! ### Operand maps (R249 to R251) -/

/-- An operand map: where its record stands, and the record. -/
structure OpMap where
  at_ : Nat
  d0 : DWord
  d1 : DWord
  deriving DecidableEq, Repr

/-- TSTRIDE -/
def OpMap.tstride (m : OpMap) : Nat := bits m.d0.toNat 32 20
/-- EXTENT -/
def OpMap.extent (m : OpMap) : Nat := bits m.d0.toNat 24 8
/-- FMT -/
def OpMap.fmt (m : OpMap) : Nat := bits m.d0.toNat 20 4
/-- BASE -/
def OpMap.base (m : OpMap) : Nat := bits m.d0.toNat 0 20
/-- SGN -/
def OpMap.sgn (m : OpMap) : Bool := bit m.d1.toNat 6
/-- PLANES -/
def OpMap.planes (m : OpMap) : Nat := bits m.d1.toNat 0 6

/-- The significand planes of a format (R111). -/
def sigPlanes (fmt : Nat) : Nat :=
  match fmt with
  | 4 => 2
  | 5 => 3
  | 6 | 9 => 4
  | 7 | 8 | 10 => 8
  | 11 => 16
  | _ => 32

/-- Operands that accumulate in FLOAT mode (R89). -/
def OpMap.float (m : OpMap) : Bool := decide (m.fmt ≤ 8)

/-- A record's own condition of a reason from 2 to 9, the ranges of reason 6 among them (R250). -/
def OpMap.holds (m : OpMap) (mlt : Bool) (size reason : Nat) : Bool :=
  match reason with
  | 2 => bits m.d0.toNat 52 12 == 0 && bits m.d1.toNat 8 56 == 0
  | 3 => if mlt then m.fmt == 12 else decide (4 ≤ m.fmt ∧ m.fmt ≤ 12)
  | 4 => if m.fmt ≤ 8 then m.planes == sigPlanes m.fmt else decide (1 ≤ m.planes ∧ m.planes ≤ sigPlanes m.fmt)
  | 5 => if m.fmt = 7 then m.sgn else if m.fmt ≤ 8 ∨ m.fmt = 12 then !m.sgn else true
  | 6 => decide (1 ≤ m.extent ∧ m.extent ≤ if mlt then 64 else 255)
  | 8 => m.base % 128 == 0 && m.tstride % 128 == 0 && (!mlt || m.tstride == 0)
  | 9 => localOk size m.base ((m.extent - 1) * m.tstride + tileBytes m.fmt)
  | _ => true

/-- The first condition that fails: its reason, and whether it is map B's (R250). -/
def mapsFault (mlt : Bool) (size cb : Nat) (a b : OpMap) : Option (Nat × Bool) :=
  ((List.range 9).map (· + 2)).findSome? fun r =>
    if !a.holds mlt size r then some (r, false)
    else if !b.holds mlt size r then some (r, true)
    else if (r = 6 ∧ !mlt ∧ a.extent ≠ b.extent) ∨ (r = 7 ∧ a.float ≠ b.float) ∨
      (r = 10 ∧ mlt ∧ 4095 < cb + 32 * (a.extent + b.extent) - 2) then some (r, true)
    else none

/-- The trap of a map refused (R256, R339): TVAL names the map. -/
def mxref (reason addr : Nat) (b : Bool) : Trap :=
  { kind := .mxref, reason := reason, val := BitVec.ofNat 64 (4 * addr + bitNat b) }

/-- The two maps of an operation, read and checked, or the trap that its gang takes (R250, R262, R264). The unused bits of
each half of sa count with its own map. -/
def readMaps (s : State) (t : Team) (mlt : Bool) (sa : DWord) : Except Trap (OpMap × OpMap) := do
  let x := sa.toNat
  let a := bits x 0 20
  let b := bits x 32 20
  let ok1 := fun (addr : Nat) => addr % 16 == 0 && localOk t.lsSize addr 16
  if !(ok1 a && bits x 20 12 == 0) then .error (mxref 1 a false)
  if !(ok1 b && (mlt || bits x 52 12 == 0)) then .error (mxref 1 b true)
  let fetch := fun (addr : Nat) => match s.readPlaces (t.localPlaces addr 16) with
    | (_, some i) => Except.error { kind := .poison, val := poisonVal (addr + i) : Trap }
    | (bs, none) => let d := dwordsOf bs; .ok (OpMap.mk addr (d.getD 0 0) (d.getD 1 0))
  let ma ← fetch a
  let mb ← fetch b
  match mapsFault mlt t.lsSize (if mlt then bits x 52 12 else 0) ma mb with
  | some (r, isB) => .error (mxref r (if isB then b else a) isB)
  | none => return (ma, mb)

/-! ### Reading tiles (R112, R251, R252) -/

/-- The planes that a pass reads of a tile (R251). -/
def OpMap.planesRead (m : OpMap) : Nat :=
  match floatBits m.fmt with
  | some (e, k) => k + 1 + 1 + e
  | none => m.planes

/-- The places of the low `n` bytes of each of the first `rows` rows of each plane read, plane by plane, and of the scales of
those rows. -/
def OpMap.places (m : OpMap) (t : Team) (base rows n : Nat) : List Place × List Place :=
  ((List.range m.planesRead).flatMap fun p => (List.range rows).flatMap fun r => t.localPlaces (base + 512 * p + 8 * r) n,
   if m.fmt = 8 ∨ 9 ≤ m.fmt then []
   else t.localPlaces (base + tileBytes m.fmt - 128) (2 * rows))

/-- The bits of each element of a tile, low plane first: a list of rows of `8 n` elements. -/
def tileBits (planes rows n : Nat) (bs : List Byte) : List (List (List Bool)) :=
  let words := (List.range (planes * rows)).map fun i => ofBytes ((bs.drop (n * i)).take n)
  (List.range rows).map fun r =>
    let mine := (List.range planes).map fun p => words.getD (p * rows + r) 0
    (List.range (8 * n)).map fun k => mine.map fun w => bit w k

/-- The number that bits spell. -/
def ofBits (bs : List Bool) : Nat := bs.foldr (fun b n => bitNat b + 2 * n) 0

/-- An element of an integer or limb tile (R251). -/
def intElem (sgn : Bool) (bs : List Bool) : Int :=
  if sgn then signed bs.length (ofBits bs) else ofBits bs

/-- The exponent bias of a floating format of a record (R79). -/
def floatBias (fmt : Nat) : Int :=
  match fmt with
  | 4 => 1
  | 5 => 15
  | 6 => 7
  | _ => 127

/-- An element of a floating or MX tile: the value that its planes spell (R112). -/
def floatElem (fmt : Nat) (bs : List Bool) : FVal :=
  match floatBits fmt with
  | none => let i := signed 8 (ofBits bs); .fin (decide (i < 0)) i.natAbs (-6)
  | some (e, m) =>
    let sig := ofBits (bs.take (m + 1))
    let neg := (bs.drop (m + 1)).headD false
    let ex := ofBits (bs.drop (m + 2))
    let mant := sig % 2 ^ m
    if (fmt = 5 ∨ fmt = 8) ∧ ex = 2 ^ e - 1 then (if mant = 0 then .inf neg else .nan false)
    else if fmt = 6 ∧ ex = 15 ∧ mant = 7 then .nan false
    else .fin neg sig (((if ex = 0 then 1 else ex : Nat) : Int) - floatBias fmt - m)

/-! ### Accumulation (R90 to R93) -/

/-- A product of two elements as a term of a block sum, negated where complex arithmetic subtracts it (R93). -/
abbrev Term := FVal × FVal × Bool

/-- A value is a NaN. -/
def FVal.isNan : FVal → Bool
  | .nan _ => true
  | _ => false

/-- The product of a term: NaN for ∞ × 0. -/
def Term.product (t : Term) : FVal :=
  match t with
  | (.fin na ma ea, .fin nb mb eb, neg) => .fin ((na != nb) != neg) (ma * mb) (ea + eb)
  | (.inf na, .fin nb mb _, neg) | (.fin nb mb _, .inf na, neg) => if mb = 0 then .nan false else .inf ((na != nb) != neg)
  | (.inf na, .inf nb, neg) => .inf ((na != nb) != neg)
  | _ => .nan false

/-- An infinity of a sign. -/
def FVal.infOf (v : FVal) (neg : Bool) : Bool :=
  match v with
  | .inf n => n == neg
  | _ => false

/-- A value's sign. -/
def FVal.negative : FVal → Bool
  | .fin neg _ _ => neg
  | .inf neg => neg
  | .nan _ => false

/-- One block step of FLOAT mode: the new accumulator and the flags (R91, R92). -/
def blockStep (acc : Nat) (terms : List Term) (xa xb : Nat) : Nat × BitVec 7 :=
  let a := Fmt.f32.value acc
  let prods := terms.map Term.product
  let nanIn := terms.any fun t => t.1.isNan || t.2.1.isNan
  let zeroInf := terms.any fun t => !t.1.isNan && !t.2.1.isNan && t.product.isNan
  let pos := prods.any fun p => p.infOf false
  let neg := prods.any fun p => p.infOf true
  let sumInf := fun (n : Bool) => !nanIn && !zeroInf && (if n then neg && !pos else pos && !neg)
  let invalid := zeroInf || (pos && neg) || (sumInf false && a.infOf true) || (sumInf true && a.infOf false)
  if invalid then (Fmt.f32.nan, flagIV)
  else if nanIn || a.isNan || xa == 0xFF || xb == 0xFF then (Fmt.f32.nan, 0)
  else if pos || neg then (Fmt.f32.top + (if neg then Fmt.f32.sign else 0), 0)
  else if a.infOf true || a.infOf false then (acc, 0)
  else
    let sum := prods.foldl (fun (x : Dy) p => x.add p.dy) ⟨0, 0⟩
    let s : Dy := ⟨sum.m, sum.e + ((xa : Int) - 127) + ((xb : Int) - 127)⟩
    let zneg := prods.all FVal.negative
    if s.m = 0 ∧ a.dy.m ≠ 0 then (acc, 0)
    else Fmt.f32.roundDy .rne false (s.add a.dy) (s.m == 0 && a.dy.m == 0 && zneg && a.negative)

/-- The terms that a stretch of K gives an accumulator: every product, or in complex mode the real or the imaginary ones
(R93, R262). -/
def pairTerms {α : Type} (zero : α) (cx im : Bool) (a b : List α) : List (α × α × Bool) :=
  if !cx then (a.zip b).map fun e => (e.1, e.2, false)
  else (List.range (a.length / 2)).flatMap fun c =>
    let ar := a.getD (2 * c) zero
    let ai := a.getD (2 * c + 1) zero
    let br := b.getD (2 * c) zero
    let bi := b.getD (2 * c + 1) zero
    if im then [(ar, bi, false), (ai, br, false)] else [(ar, br, false), (ai, bi, true)]

/-- A tile as an operation reads it: integer rows, or value rows with their two scales. -/
structure Tile where
  ints : List (List Int)
  vals : List (List FVal)
  scales : List Nat

/-- A tile from the bytes of its planes and scales. -/
def OpMap.tile (m : OpMap) (rows n : Nat) (bs sc : List Byte) : Tile :=
  let elems := tileBits m.planesRead rows n bs
  if m.float then
    { ints := [], vals := elems.map fun r => r.map (floatElem m.fmt)
      scales := if m.fmt = 8 then [] else sc.map BitVec.toNat }
  else { ints := elems.map fun r => r.map (intElem m.sgn), vals := [], scales := [] }

/-- The new value of an accumulator after one pass of an MMA, with its flags (R90, R91, R262): in complex mode even `n` are
real parts and odd `n` imaginary ones of column n / 2. -/
def mmaCell (float cx : Bool) (a b : Tile) (m n : Nat) (acc : BitVec 96) : BitVec 96 × BitVec 7 :=
  let bn := if cx then n / 2 else n
  let im := n % 2 == 1
  if !float then
    let terms := pairTerms 0 cx im (a.ints.getD m []) (b.ints.getD bn [])
    (acc + BitVec.ofInt 96 ((terms.map fun (x : Int × Int × Bool) => if x.2.2 then -(x.1 * x.2.1) else x.1 * x.2.1).sum), 0)
  else
    let part := fun (rows : List (List FVal)) i blk => ((rows.getD i []).drop (32 * blk)).take 32
    let step := fun (blk : Nat) (x : Nat × BitVec 7) =>
      let r := blockStep x.1 (pairTerms (.fin false 0 0) cx im (part a.vals m blk) (part b.vals bn blk))
        (a.scales.getD (2 * m + blk) 127) (b.scales.getD (2 * bn + blk) 127)
      (r.1, x.2 ||| r.2)
    let r := step 1 (step 0 (acc.toNat, 0))
    (BitVec.ofNat 96 r.1, r.2)

/-- One pass of an MMA over a slot (R262). -/
def mmaPass (acc : Acc) (float cx : Bool) (a b : Tile) : Acc × BitVec 7 :=
  let out := (List.range 4096).map fun i => (i, mmaCell float cx a b (i / 64) (i % 64) (acc.get i))
  ({ acc with mode := if float then .float else .exact
              cells := out.filterMap fun e => if e.2.1 = 0 then none else some (e.1, e.2.1) },
   out.foldl (fun fl e => fl ||| e.2.2) 0)

/-- The limbs of an MLT operand: 32 of each block in turn (R264). -/
def Tile.limbs (t : Tile) : List Nat := t.ints.flatMap fun r => (r.take 32).map Int.toNat

/-- The column sums of one block pair, from the columns that its lowest limbs meet in (R264). -/
def blockPair (acc : Acc) (cb : Nat) (a b : List Nat) : Acc :=
  (List.range 63).foldl (fun (acc : Acc) c =>
    let sum := (a.zipIdx.map fun e => if e.2 ≤ c then e.1 * b.getD (c - e.2) 0 else 0).sum
    acc.put (cb + c) (acc.get (cb + c) + BitVec.ofNat 96 sum)) acc

/-- One pass of an MLT: 256 block pairs, in the order of A's blocks and of B's for each (R12, R264; log entry 113). -/
def mltPass (acc : Acc) (cb pass : Nat) (a b : List Nat) : Acc :=
  let ta := a.length / 32
  let tb := b.length / 32
  { ((List.range (ta * tb)).drop (256 * pass)).take 256 |>.foldl (fun (acc : Acc) p =>
      blockPair acc (cb + 32 * (p / tb + p % tb)) ((a.drop (32 * (p / tb))).take 32) ((b.drop (32 * (p % tb))).take 32)) acc with
    mode := .exact }

/-! ### Gangs and latches (R255, R256) -/

/-- MGANG: 1 to 6 groups, the issuing one among them, none at or above the team's count; else BADGANG (R255). -/
def execMgang (o : UA) (s : State) : Host.Outcome State Fault Refusal :=
  onGang s fun g grp slices => do
    requireGang s slices
    if !s.condHolds then return s.advance
    let (vs, plan) ← uniformSources s [o.sa] [] noPorts
    let m : Word := BitVec.ofNat 32 (uv vs 0).toNat
    let n := popCount 32 m.toNat
    let ok := decide (1 ≤ n ∧ n ≤ 6) && maskHas m grp.inTeam.val && decide (m.toNat < 2 ^ (s.teamOf grp).members.length)
    require ok s { kind := .badgang, val := m.zeroExtend 64 }
    let s1 := s.commitPops plan
    match s1.group? g with
    | none => return s1
    | some grp => return (s1.setGroup g { grp with gang := m }).advance

/-- Slices of a group that a joint operation holds: all of them (R16). -/
def wholeGroup : BitVec 8 := 0xFF

/-- A latch trap in every group waiting there, and the latch is gone. -/
def failLatches (s : State) (cl : ClusterId) (ls : List Latch) : State :=
  ls.foldl (fun s l => State.failLatch s cl l { kind := .gmismatch, val := l.gang.zeroExtend 64 }) s

/-- The passes of an operation (R262, R264, R265). -/
def passesOf (op : JointOp) (maps : List OpMap) : Nat :=
  match op, maps with
  | .mma _, a :: _ => a.extent
  | .mlt, [a, b] => ceilDiv (a.extent * b.extent) 256
  | _, _ => 0

/-- Steps 3 and 4 of R256 for a complete latch: the maps, or the trap of every member. -/
def checkLatch (s : State) (t : Team) (p : Priv) (l : Latch) : Except Trap (List OpMap) := do
  if !t.holds l.slot then .error { kind := .accown, val := BitVec.ofNat 64 (2 ^ l.slot.val) }
  match l.op with
  | .zero => return []
  | .load | .store =>
    match addrKind p l.sa.toNat 49280 with
    | some k => .error { kind := k, val := l.sa }
    | none => if l.sa.toNat % 128 = 0 then return [] else .error { kind := .align, val := l.sa }
  | .mma _ => let (a, b) ← readMaps s t false l.sa; return [a, b]
  | .mlt => let (a, b) ← readMaps s t true l.sa; return [a, b]

/-- A reservation-table entry for the members of a latch (R259), with the maps as they were checked. -/
def tableEntry (s : State) (cl : ClusterId) (l : Latch) : TabEntry :=
  let c := s.cluster cl
  let index : Fin 16 := ((List.finRange 16).find? fun i => !c.table.any fun e => e.index == i).getD 0
  let cls : Fin 4 := l.arrived.foldl (fun (m : Fin 4) g => match s.group? g with
    | some grp => if m < grp.cls then grp.cls else m
    | none => m) 0
  { index := index, team := l.team, slot := l.slot, word := l.word, sa := l.sa,
    maps := l.maps, work := .joint l.op l.arrived, passes := 0, total := l.total, entered := s.nextId, cls := cls, passed := 0,
    parked := false, limbsA := [], limbsB := [], uft := l.uft, since := s.fresh }

/-- The maps of an entry. -/
def TabEntry.opMaps (e : TabEntry) : List OpMap :=
  match e.maps with
  | [a0, a1, b0, b1] => [⟨bits e.sa.toNat 0 20, a0, a1⟩, ⟨bits e.sa.toNat 32 20, b0, b1⟩]
  | _ => []

/-- The latches that have completed and wait for an entry take one, in order (R256 step 5). Their checks were made when they
completed. -/
def State.admitLatches (s : State) (cl : ClusterId) : Nat → State
  | 0 => s
  | n + 1 =>
    let c := s.cluster cl
    match c.latches.find? Latch.complete with
    | none => s
    | some l =>
      if 16 ≤ c.table.length then s
      else
        let e := tableEntry s cl l
        let s := { s with nextId := s.nextId + 1 }.setCluster cl
          { c with latches := c.latches.filter (fun x => x ≠ l), table := c.table ++ [e] }
        let s := l.arrived.foldl (fun s g => match s.group? g with
          | some grp => s.setGroup g (grp.pin wholeGroup)
          | none => s) s
        State.admitLatches s cl n

/-- A latch in which every named group has arrived: its checks, and then its entry, with PIX at the 0 passes completed (R256 steps 3 to 5,
R257). -/
def State.completeLatch (s : State) (cl : ClusterId) (l : Latch) : State :=
  match s.team? l.team with
  | none => s
  | some t =>
    let p := match l.arrived with
      | g :: _ => (s.group? g).elim .user Group.priv
      | [] => .user
    match checkLatch s t p l with
    | .error tr => s.failLatch cl l tr
    | .ok maps =>
      let s := l.arrived.foldl (fun s g => match s.group? g with
        | some grp => s.setGroup g { grp with pix := 0 }
        | none => s) s
      let c := s.cluster cl
      let full := { l with complete := true, maps := maps.flatMap fun m => [m.d0, m.d1], total := passesOf l.op maps }
      (s.setCluster cl { c with latches := c.latches.filter (fun x => x ≠ l) ++ [full] }).admitLatches cl 1

/-- A joint operation issued: the group arrives at its latch, and waits (R256 steps 1 and 2; which arrivals are a mismatch: log entries 62
and 141). -/
def joint (s : State) (op : JointOp) (srcs : List (Fin 64)) : Host.Outcome State Fault Refusal :=
  onGang s fun g grp slices => do
    requireGang s slices
    let (vs, plan) ← uniformSources s srcs [] noPorts
    let sa := uv vs 0
    let t := s.teamOf grp
    let cl := clusterOf g
    let gang := grp.gang
    require (maskHas gang grp.inTeam.val && decide (gang.toNat < 2 ^ t.members.length)) s
      { kind := .badgang, val := gang.zeroExtend 64 }
    let s1 := s.commitPops plan
    let here := fun (l : Latch) => !l.complete && l.team == t.id &&
      (maskHas l.gang grp.inTeam.val || l.arrived.any fun h => match s.group? h with
        | some x => maskHas gang x.inTeam.val
        | none => false)
    let same := fun (l : Latch) => l.word == s.fetched.word && l.sa == sa && l.gang == gang
    let met := (s1.cluster cl).latches.filter here
    match met.find? fun l => !same l with
    | some l => .error (.trap { kind := .gmismatch, val := l.gang.zeroExtend 64 } (failLatches s1 cl met))
    | none => .ok ()
    require ((maskList gang).length == (s.gangMembers t gang).length) (failLatches s1 cl met)
      { kind := .gmismatch, val := gang.zeroExtend 64 }
    match s1.group? g with
    | none => return s1
    | some grp =>
      let s2 := s1.setGroup g (grp.setWait slices .latch s.fetched)
      let old := (met.head?).getD
        { team := t.id, op := op, slot := s.issue.j, word := s.fetched.word, sa := sa, gang := gang, arrived := [],
          complete := false, maps := [], total := 0, uft := (s.ctxOfGroup g grp).uft }
      let l := { old with arrived := old.arrived ++ [g] }
      let c := s2.cluster cl
      let s3 := s2.setCluster cl { c with latches := c.latches.filter (fun x => x ≠ old) ++ [l] }
      return (if l.arrived.length = (maskList gang).length then s3.completeLatch cl l else s3).endRun

/-- MMA (R262). -/
def execMma (o : UJoint) (s : State) : Host.Outcome State Fault Refusal := joint s (.mma false) [o.sa]
/-- MMA.cx (R262). -/
def execMmaCx (o : UJoint) (s : State) : Host.Outcome State Fault Refusal := joint s (.mma true) [o.sa]
/-- MLT (R264). -/
def execMlt (o : UJoint) (s : State) : Host.Outcome State Fault Refusal := joint s .mlt [o.sa]
/-- MACC.zero (R265). -/
def execMaccZero (s : State) : Host.Outcome State Fault Refusal := joint s .zero []
/-- MACC.load (R265, R266). -/
def execMaccLoad (o : UJoint) (s : State) : Host.Outcome State Fault Refusal := joint s .load [o.sa]
/-- MACC.store (R265, R266). -/
def execMaccStore (o : UJoint) (s : State) : Host.Outcome State Fault Refusal := joint s .store [o.sa]

/-! ### The reservation table (R257, R259) -/

/-- The entry's turn among those naming its slot has come, and its slot is not spilled (R259). -/
def State.turnOf (s : State) (c : Cluster) (e : TabEntry) : Bool :=
  !(c.table.any fun x => x.team == e.team && x.slot == e.slot && decide (x.entered < e.entered)) &&
    !(s.teams.any fun t => t.id == e.team && t.spilled.any fun x => x.1 == e.slot)

/-- An entry leaves the table, and a latch that waits for one takes it. -/
def State.freeEntry (s : State) (cl : ClusterId) (e : TabEntry) : State :=
  let c := s.cluster cl
  (s.setCluster cl { c with table := c.table.filter fun x => x.index ≠ e.index }).admitLatches cl 1

/-- The members of an entry with their PIX set (R257). -/
def State.setPixOf (s : State) (e : TabEntry) (n : Nat) (fl : BitVec 7) : State :=
  e.members.foldl (fun s g => match s.group? g with
    | some grp => s.setGroup g { grp with pix := BitVec.ofNat 32 n, flags := grp.flags ||| fl }
    | none => s) s

/-- A joint operation is over: every member continues at its next word, with PIX 0 (R257). -/
def State.finishJoint (s : State) (cl : ClusterId) (e : TabEntry) : State :=
  let s := (s.setPixOf e 0 0).freeEntry cl e
  e.members.foldl (fun s g => State.complete s g wholeGroup) s

/-- Every member of an entry takes a trap at its joint instruction, and the entry is free. -/
def State.trapJoint (s : State) (cl : ClusterId) (e : TabEntry) (t : Trap) : State :=
  let s := s.freeEntry cl e
  e.members.foldl (fun s g => State.trapWaiting s g wholeGroup t) s

/-- The mode that an operation's operands take, none for an operation that takes none (R89, R261). -/
def TabEntry.mode (e : TabEntry) : Option AccMode :=
  match e.work, e.opMaps with
  | .joint (.mma _) _, a :: _ => some (if a.float then .float else .exact)
  | .joint .mlt _, _ => some .exact
  | _, _ => none

/-- The accumulators of an entry's slot. -/
def State.entryAcc (s : State) (e : TabEntry) : Acc :=
  match s.team? e.team with
  | some t => s.accOf t e.slot
  | none => Acc.zero

/-- An entry whose turn has come finds the other mode in its slot (R256 step 6). -/
def State.modeClash (s : State) (c : Cluster) (e : TabEntry) : Bool :=
  e.passes == 0 && s.turnOf c e &&
    match e.mode with
    | some m => decide ((s.entryAcc e).mode ≠ .clear ∧ (s.entryAcc e).mode ≠ m)
    | none => false

/-- An entry that the engine may grant (R259). -/
def State.eligible (s : State) (c : Cluster) (e : TabEntry) : Bool := decide (e.passes < e.total) && s.turnOf c e

/-- One entry beats another (R259). -/
def TabEntry.beats (a b : TabEntry) : Bool :=
  let oa := decide (16 ≤ a.passed)
  let ob := decide (16 ≤ b.passed)
  if oa != ob then oa
  else if oa && a.passed != b.passed then decide (b.passed < a.passed)
  else if a.cls ≠ b.cls then decide (b.cls < a.cls)
  else if a.entered ≠ b.entered then decide (a.entered < b.entered)
  else decide (a.index ≤ b.index)

/-- The best of a list. -/
def bestEntry : List TabEntry → Option TabEntry
  | [] => none
  | e :: rest => match bestEntry rest with
    | some b => some (if e.beats b then e else b)
    | none => some e

/-- The engine may begin a pass: it has not been idle for 10 µs, or it holds a wake slot (R436). -/
def State.engineAwake (s : State) (c : Cluster) : Bool := c.awake || decide (s.pack.time < c.lastPass + 10000)

/-- A tile of a pass read from local store, each byte at any time since the operation began, or the address of the poison that it reads
(R263). -/
def readTile (s : State) (t : Team) (since : Nat) (m : OpMap) (base rows n : Nat) : Except Nat Tile :=
  let ps := m.places t base rows n
  let (bs, p) := s.readSince since 1 ps.1
  let (sc, q) := s.readSince since 1 ps.2
  let addr := fun (i : Nat) => base + 512 * (i / n / rows) + 8 * (i / n % rows) + i % n
  match p, q with
  | some i, _ => .error (addr i)
  | none, some i => .error (base + tileBytes m.fmt - 128 + i)
  | none, none => .ok (m.tile rows n bs sc)

/-- What one pass gives: the slot, the flags, and the operands' limbs that an MLT holds. -/
structure PassOut where
  acc : Acc
  flags : BitVec 7
  limbsA : List Nat
  limbsB : List Nat

/-- One pass of a joint operation (R262, R264): an MLT's tiles are fetched for its first pass. -/
def passOf (s : State) (t : Team) (e : TabEntry) (op : JointOp) (a b : OpMap) : Except Nat PassOut := do
  let acc := s.accOf t e.slot
  match op with
  | .mma cx =>
    let ta ← readTile s t e.since a (a.base + e.passes * a.tstride) 64 8
    let tb ← readTile s t e.since b (b.base + e.passes * b.tstride) (if cx then 32 else 64) 8
    let r := mmaPass acc a.float cx ta tb
    return ⟨r.1, r.2, [], []⟩
  | .mlt =>
    let (la, lb) ← if e.passes = 0 then do
        let ta ← readTile s t e.since a a.base a.extent 4
        let tb ← readTile s t e.since b b.base b.extent 4
        pure (ta.limbs, tb.limbs)
      else pure (e.limbsA, e.limbsB)
    return ⟨mltPass acc (bits e.sa.toNat 52 12) e.passes la lb, 0, la, lb⟩
  | _ => return ⟨acc, 0, [], []⟩

/-- MATRIX_PASS: an entry whose turn finds the other mode traps in every member; else the engine grants an eligible entry
and performs one pass (R252, R256 step 6, R259 to R264). Subject: the cluster. -/
def execMatrixPass (s : State) : Host.Outcome State Fault Refusal :=
  let cl := s.arg.cl
  let c := s.cluster cl
  match c.table.find? (s.modeClash c) with
  | some e => .next (s.trapJoint cl e { kind := .accmode, val := BitVec.ofNat 64 e.slot.val })
  | none =>
    if !s.engineAwake c then .next s
    else
      match bestEntry (c.table.filter (s.eligible c)) with
      | none => .next s
      | some e =>
        let count := fun (x : TabEntry) =>
          if x.index = e.index then { x with passed := 0, passes := x.passes + 1 }
          else if s.eligible c x then { x with passed := x.passed + 1 } else x
        let c := { c with table := c.table.map count, lastPass := s.pack.time, awake := false }
        match e.work, s.team? e.team, e.opMaps with
        | .joint op _, some t, [a, b] =>
          match passOf s t e op a b with
          | .error at_ =>
            .next (((s.setCluster cl c).setPixOf e e.passes 0).trapJoint cl e { kind := .poison, val := poisonVal at_ })
          | .ok r =>
            let c := { c with table := c.table.map fun x => if x.index = e.index then { x with limbsA := r.limbsA, limbsB := r.limbsB } else x }
            .next (((s.setCluster cl c).setAcc t e.slot r.acc).setPixOf e (e.passes + 1) r.flags)
        | _, _, _ => .next (s.setCluster cl c)

/-- The entry that an event names by its index. -/
def State.eventEntry (s : State) (p : TabEntry → Bool) : Option TabEntry :=
  let c := s.cluster s.arg.cl
  c.table.find? fun e => e.index.val == s.arg.num && !e.parked && s.turnOf c e && p e

/-- JOINT_OP_COMPLETE: an MMA or MLT whose passes are done, or a MACC.zero whose turn has come, is over (R257, R265).
Subject: the cluster and the table index. -/
def execJointOpComplete (s : State) : Host.Outcome State Fault Refusal :=
  let cl := s.arg.cl
  let ready := fun (e : TabEntry) => match e.work with
    | .joint (.mma _) _ | .joint .mlt _ => e.passes == e.total
    | .joint .zero _ => true
    | _ => false
  match s.eventEntry ready with
  | none => .next s
  | some e =>
    match e.work, s.team? e.team with
    | .joint .zero _, some t => .next ((s.setAcc t e.slot Acc.zero).finishJoint cl e)
    | _, _ => .next (s.finishJoint cl e)

/-! ### MACC load and store (R266) -/

/-- The code of a mode in an image. -/
def AccMode.code : AccMode → Nat
  | .clear => 0
  | .exact => 1
  | .float => 2

/-- The image of a slot. -/
def Acc.image (a : Acc) : List Byte :=
  ((List.range 4096).flatMap fun i =>
    toBytes 12 (if a.mode = .float then (a.get i).toNat % 2 ^ 32 else (a.get i).toNat)) ++
    toBytes 8 a.mode.code ++ List.replicate 120 0

/-- The slot that an image holds, none where a store could not have written it; `bad` are its poisoned accumulators. -/
def Acc.ofImage (bs : List Byte) (bad : List Nat) : Option Acc :=
  let mode := ofBytes ((bs.drop 49152).take 8)
  let tail := (bs.drop 49160).all fun b => b == 0
  let cells := (List.range 4096).map fun i => (i, ofBytes ((bs.drop (12 * i)).take 12))
  let sound := cells.all fun e => bad.contains e.1 || (if mode = 2 then decide (e.2 < 2 ^ 32) else if mode = 0 then e.2 == 0 else true)
  if mode ≤ 2 ∧ tail ∧ sound then
    some { mode := if mode = 0 then .clear else if mode = 1 then .exact else .float
           cells := cells.filterMap fun e => if e.2 = 0 then none else some (e.1, BitVec.ofNat 96 e.2)
           poison := bad }
  else none

/-- The request of a MACC's access of memory, for its lowest group (R66, R265, R369). -/
def State.maccReq (s : State) (g : GroupId) (grp : Group) (k : AccKind) (e : TabEntry) : Req :=
  let sl := grp.lead wholeGroup
  { s.groupReq g grp k with
    uft := some e.uft, sidecar := sl.waitWord.sidecar, code := 4, maker := some ⟨agentOfGroup g wholeGroup, 5, sl.pc, e.word.toNat⟩ }

/-- A MACC's access is refused: its entry is parked until REPLAY or REFUSE (R266, R340). -/
def State.parkMacc (s : State) (cl : ClusterId) (e : TabEntry) (k : AccKind) (reason a : Nat) : State :=
  match e.members with
  | [] => s
  | g :: _ =>
    match s.group? g with
    | none => s
    | some grp =>
      let asn := s.asnOf grp.launch
      let c := s.cluster cl
      let s := s.setCluster cl { c with table := c.table.map fun (x : TabEntry) =>
        if x.index = e.index then { x with parked := true } else x }
      (s.meetTable (deviceOf cl) asn a reason).postFault (deviceOf cl)
        { seq := none, type := 1, asn := asn, owner := .macc cl e.index, held := none
          dwords := faultDwords 1 Kind.xlate.code reason asn (accessBits k 4) a 1 0 (agentOfGroup g wholeGroup) 5
            (grp.lead wholeGroup).pc e.word.toNat (grp.lead wholeGroup).waitWord.sidecar s.pack.time (BitVec.ofNat 64 a) }

/-- MACC_COMPLETE: a MACC load or store whose turn has come transfers its image, and its members continue or trap (R266). The
record of POISON in a store names the granule of the first poisoned accumulator's place in the image (R348, log entry 135).
Subject: the cluster and the table index. -/
def execMaccComplete (s : State) : Host.Outcome State Fault Refusal :=
  let cl := s.arg.cl
  let pick := fun (e : TabEntry) => match e.work with
    | .joint .load _ | .joint .store _ => true
    | _ => false
  match s.eventEntry pick with
  | none => .next s
  | some e =>
    match s.team? e.team, e.members with
    | some t, g :: _ =>
      match s.group? g with
      | none => .next s
      | some grp =>
        let store := match e.work with
          | .joint .store _ => true
          | _ => false
        let k : AccKind := if store then .store else .load
        let a := e.sa.toNat
        let req := s.maccReq g grp k e
        match s.places req a 49280 with
        | .error why => .next (s.parkMacc cl e k why (s.refusedAt req a 49280))
        | .ok (s, ps) =>
          if store then
            let acc := s.accOf t e.slot
            let s := s.groupStore req grp.launch ps acc.image
            match acc.poison with
            | [] => .next (s.finishJoint cl e)
            | i :: _ =>
              let hit := acc.poison.flatMap fun i => (ps.drop (12 * i)).take 12 |>.flatMap Place.locs
              let s := { s with poison := hit.foldl (fun l x => insertNat (granuleOf x) l) s.poison }
              .next (s.trapJoint cl e { kind := .poison, val := poisonVal (a + 12 * i) })
          else
            let bs := (s.readSince e.since 1 ps).1
            let hits := (List.range 49280).filter fun i => s.placePoison (ps.getD i (.byte 0))
            let bad := ((hits.filter fun i => decide (i < 49152)).map fun i => i / 12).eraseDups
            let head := hits.any fun i => decide (49152 ≤ i)
            let poisonTrap : Trap := { kind := .poison, val := poisonVal (a + hits.headD 0) }
            if head then .next (s.trapJoint cl e poisonTrap)
            else match Acc.ofImage bs bad with
              | none => .next (s.trapJoint cl e { kind := .badrec, val := e.sa })
              | some acc =>
                let s := s.setAcc t e.slot acc
                .next (if bad = [] then s.finishJoint cl e else s.trapJoint cl e poisonTrap)
    | _, _ => .next s

/-! ### Slots (R267 to R269) -/

/-- MACQ: ACQLIM, or a request that waits its turn (R267). -/
def execMacq (o : UMacq) (s : State) : Host.Outcome State Fault Refusal :=
  onGang s fun g grp slices => do
    let (_, plan) ← uniformSources s [] [o.sd] noPorts
    let t := s.teamOf grp
    require (decide (o.n.val ≤ 8 - t.heldCount)) s { kind := .acqlim, val := BitVec.ofNat 64 t.heldCount }
    let s1 := s.commitPops plan
    match s1.group? g with
    | none => return s1
    | some grp =>
      let cl := clusterOf g
      let c := s1.cluster cl
      let s2 := s1.setCluster cl { c with requests := c.requests ++ [⟨t.id, some g, slices, o.n.val, none, grp.cls⟩] }
      return (s2.setGroup g (grp.setWait slices (.slots o.n.val) s.fetched)).endRun

/-- The free slots that a team may be given: those whose names it does not hold. -/
def State.slotsFor (s : State) (c : Cluster) (team : Nat) : List (Fin 8) :=
  match s.team? team with
  | none => []
  | some t => c.freeSlots.filter fun j => !t.holds j && !t.spilled.any fun e => e.1 == j

/-- The destination register of a MACQ word. -/
def macqDest (w : Word) : Fin 64 := ⟨bits w.toNat 18 6, Nat.mod_lt _ (by decide)⟩

/-- The register that takes the mask of a MACQ request. -/
def State.slotDest (s : State) (r : SlotReq) : Option (GroupId × Fin 64) :=
  match r.op, r.g with
  | none, some g => (s.group? g).map fun grp => (g, macqDest (grp.lead r.slices).waitWord.word)
  | _, _ => none

/-- There are slots for the oldest request, and a table entry for an MXMUL's. -/
def State.slotsFree (s : State) (c : Cluster) (r : SlotReq) : Bool :=
  decide (r.count ≤ (s.slotsFor c r.team).length) && (r.op.isNone || decide (c.table.length < 16))

/-- The oldest request can be granted. -/
def State.grantable (s : State) (c : Cluster) : Bool :=
  match c.requests with
  | [] => false
  | r :: _ => s.slotsFree c r && (s.slotDest r).all fun e => s.portRoom e.1 r.slices e.2

/-- The oldest request, when it lacks only room in the queue that takes its mask, takes its place there (R43). -/
def State.awaitGrant (s : State) (c : Cluster) : State :=
  match c.requests with
  | [] => s
  | r :: _ =>
    match s.slotDest r with
    | some (g, d) => if s.slotsFree c r && !s.portRoom g r.slices d then s.awaitRoom g r.slices d else s
    | none => s

/-- Slots given to a team and named by it. -/
def State.takeSlots (s : State) (cl : ClusterId) (team : Nat) (js : List (Fin 8)) (named : Bool) : State :=
  let c := s.cluster cl
  let s := s.setCluster cl (js.foldl (fun c j => Cluster.giveSlot c team j) c)
  match s.team? team with
  | some t => if named then s.setTeam { t with held := t.held ||| slotMask js } else s
  | none => s

/-- The fewest passes of an MXMUL's tile path (R271). -/
def productPasses (o : EngineOp) : Nat :=
  ceilDiv (ceilDiv (bits (dw o.desc 1) 0 32) 32 * ceilDiv (bits (dw o.desc 3) 0 32) 32) 256

/-- MACQ_GRANT: the oldest request receives the lowest-numbered free slots; the gang gets their mask and continues, or an
MXMUL's tile path takes its table entry (R267, R271). Subject: the cluster. -/
def execMacqGrant (s : State) : Host.Outcome State Fault Refusal :=
  let cl := s.arg.cl
  let c := s.cluster cl
  if !s.grantable c then .next (s.awaitGrant c)
  else match c.requests with
    | [] => .next s
    | r :: rest =>
      let js := (s.slotsFor c r.team).take r.count
      let s := s.setCluster cl { c with requests := rest }
      match r.op, r.g with
      | some op, _ =>
        let s := s.takeSlots cl r.team js false
        let c := s.cluster cl
        let index : Fin 16 := ((List.finRange 16).find? fun i => !c.table.any fun e => e.index == i).getD 0
        let e : TabEntry :=
          { index := index, team := r.team, slot := js.headD 0, word := 0, sa := 0, maps := [], work := .product op, passes := 0,
            total := (s.ops.find? fun o => o.id == op).elim 1 productPasses, entered := s.nextId, cls := r.cls, passed := 0,
            parked := false, limbsA := [], limbsB := [], uft := 0, since := s.fresh }
        .next ({ s with nextId := s.nextId + 1 }.setCluster cl { c with table := c.table ++ [e] })
      | none, some g =>
        let s := s.takeSlots cl r.team js true
        match s.group? g with
        | none => .next s
        | some grp =>
          let rd := macqDest (grp.lead r.slices).waitWord.word
          let s := (s.setGroup g (grp.pin r.slices)).writeFor g r.slices rd ((slotMask js).zeroExtend 64)
          .next (s.complete g r.slices)
      | none, none => .next s

/-- The teams that own a slot of a cluster. -/
def Cluster.owners (c : Cluster) : List Nat := (c.owner.toList.filterMap id).eraseDups

/-- The team and slot to spill next (R268): none unless the oldest request cannot be satisfied and every team that holds a
slot also has a request waiting. -/
def State.spillChoice (s : State) (c : Cluster) : Option (Team × Fin 8) :=
  match c.requests with
  | [] => none
  | r :: _ =>
    if r.count ≤ (s.slotsFor c r.team).length then none
    else if !c.owners.all (fun t => c.requests.any fun q => q.team == t) then none
    else
      let teams := (c.owners.filter (· ≠ r.team)).filterMap s.team?
      let youngest := teams.foldl (fun (best : Option Team) t => match best with
        | none => some t
        | some b => if b.start < t.start ∨ (b.start = t.start ∧ b.id < t.id) then some t else some b) none
      youngest.bind fun t => (((List.finRange 8).reverse.find? fun (j : Fin 8) => c.owner[j] == some t.id)).map fun j => (t, j)

/-- ACC_SPILL: the next slot goes to its team's backing area (R268, R392). Subject: the cluster. -/
def execAccSpill (s : State) : Host.Outcome State Fault Refusal :=
  let cl := s.arg.cl
  let c := s.cluster cl
  match s.spillChoice c with
  | none => .next s
  | some (t, j) =>
    let acc := c.acc[j]
    let s := s.setCluster cl { c with
      owner := c.owner.set j none, acc := c.acc.set j Acc.zero, below := c.below.set j (t.id :: c.below[j]) }
    let s := s.setTeam { t with spilled := (j, acc) :: t.spilled }
    match t.backing with
    | none => .next s
    | some a =>
      .next (s.physWrite (deviceOf cl) (a + 49280 * j.val) acc.image)

/-- Some operation that has not completed names one of the slots (R269). -/
def State.slotsBusy (s : State) (cl : ClusterId) (team : Nat) (m : BitVec 8) : Bool :=
  let c := s.cluster cl
  (c.table.any fun e => e.team == team && maskHas m e.slot.val && !e.members.isEmpty) ||
    c.latches.any fun l => l.complete && l.team == team && maskHas m l.slot.val

/-- MREL (R269). -/
def execMrel (o : UA) (s : State) : Host.Outcome State Fault Refusal :=
  onGang s fun g grp slices => do
    if !s.condHolds then return s.advance
    let (vs, plan) ← uniformSources s [o.sa] [] noPorts
    let x := uv vs 0
    require (decide (x.toNat < 256)) s { kind := .illegal, reason := 6 }
    let m : BitVec 8 := BitVec.ofNat 8 x.toNat
    let t := s.teamOf grp
    require (m &&& ~~~t.held == 0) s { kind := .accown, val := x }
    if s.slotsBusy (clusterOf g) t.id m then waitAgain s g grp slices (.entries m)
    else
      let s1 := s.commitPops plan
      match s1.group? g with
      | none => return s1
      | some grp => return ((s1.setGroup g (grp.pin slices)).releaseSlots t.id m).advance

end Sys2Proof.Machine
end

