-- ==== Sys2Proof/Machine/Product.lean ====
section
/-! DEFINITION. MXMUL and NTT (R270 to R274). -/

namespace Sys2Proof.Machine

open Sys2Proof

/-! ### MXMUL -/

/-- An MXMUL descriptor. -/
structure Mul where
  a : Nat
  la : Nat
  b : Nat
  lb : Nat
  d : Nat
  dcap : Nat
  uns : Bool
  deriving DecidableEq, Repr

/-- The fields of a descriptor of 8 dwords (R270). -/
def Mul.ofRecord (d : List DWord) : Mul :=
  { a := bits (dw d 0) 0 48, la := bits (dw d 1) 0 32, b := bits (dw d 2) 0 48, lb := bits (dw d 3) 0 32,
    d := bits (dw d 4) 0 48, dcap := bits (dw d 5) 0 32, uns := bit (dw d 6) 0 }

/-- The limbs of the product (R271). -/
def Mul.limbs (m : Mul) : Nat := m.la + m.lb

/-- The descriptor rules hold; else BADREC (R270). -/
def Mul.ok (m : Mul) (d : List DWord) : Bool :=
  bits (dw d 0) 48 16 == 0 && bits (dw d 1) 32 32 == 0 && bits (dw d 2) 48 16 == 0 && bits (dw d 3) 32 32 == 0 &&
    bits (dw d 4) 48 16 == 0 && bits (dw d 5) 32 32 == 0 && bits (dw d 6) 1 63 == 0 && dw d 7 == 0 &&
    m.la != 0 && m.lb != 0 && m.a % 4 == 0 && m.b % 4 == 0 && m.d % 4 == 0

/-- Two ranges of bytes overlap. -/
def overlap (a n b m : Nat) : Bool := decide (a < b + m ∧ b < a + n)

/-- The status of a product that is not formed (R271). -/
def Mul.refusal (m : Mul) (ntt backed : Bool) : Option DWord :=
  let l := m.limbs
  if 16777216 < l then some (statusWord 1 8 0 0)
  else if m.dcap < l then some (statusWord 1 9 0 l)
  else if overlap m.d (4 * l) m.a (4 * m.la) || overlap m.d (4 * l) m.b (4 * m.lb) then some (statusWord 1 10 0 0)
  else if !ntt && !backed then some (statusWord 1 11 0 0)
  else none

/-- The team of an operation has a backing area (R392). -/
def State.backed (s : State) (o : EngineOp) : Bool :=
  match s.opTeam o with
  | some t => t.backing.isSome
  | none => false

/-- MXMUL: the address ranges, BADREC, then a ticket; a product of fewer than NTTH limbs asks for a slot (R225, R270, R271). -/
def execMxmul (o : UDAL) (s : State) : Host.Outcome State Fault Refusal :=
  onGang s fun g grp slices => do
    let (vs, plan) ← uniformSources s [o.sa] [o.sd] noPorts
    let a := (uv vs 0).toNat
    let (s2, bs) ← readRecord s g grp slices a 64 8
    let d := dwordsOf bs
    let m := Mul.ofRecord d
    checkRanges s2 grp.priv [(m.a, 4 * m.la), (m.b, 4 * m.lb), (m.d, 4 * m.limbs)]
    require (m.ok d) s2 { kind := .badrec, val := BitVec.ofNat 64 a }
    let ntt := decide (grp.ntth.toNat ≤ m.limbs)
    let op := s2.nextId
    let s3 ← startOp s2 plan g grp slices (.mxmul ntt) 3 o.sd o.la.val (BitVec.ofNat 64 a) d
    if ntt || (m.refusal ntt (s.teamOf grp).backing.isSome).isSome then return s3
    let cl := clusterOf g
    let c := s3.cluster cl
    return s3.setCluster cl { c with requests := c.requests ++ [⟨grp.team, none, 0, 1, some op, grp.cls⟩] }

/-- The number that a limb array spells (R75). -/
def limbValue (uns : Bool) (bs : List Byte) : Int := if uns then ofBytes bs else signed (8 * bs.length) (ofBytes bs)

/-- The product of two limb arrays written (R271). -/
def performProduct (s : State) (o : EngineOp) (m : Mul) (ntt : Bool) : Except EngineStop (State × DWord) := do
  let (s, xa) ← engineRead s o m.a (4 * m.la)
  let (s, xb) ← engineRead s o m.b (4 * m.lb)
  let n := 4 * m.limbs
  let s ← engineWrite s o m.d (toBytes n (wrap (8 * n) (limbValue m.uns xa * limbValue m.uns xb)))
  return (s, statusWord 0 0 0 (bitNat ntt))

/-- The NTT unit of a cluster: one for each four clusters of a die. -/
def unitOf (cl : ClusterId) : Nat := (deviceOf cl).val * 10 + clusterIndex cl / 4

/-- An operation uses its NTT unit. -/
def OpKind.onUnit : OpKind → Bool
  | .mxmul u => u
  | .ntt .. => true
  | _ => false

/-- The operation is the oldest of its NTT unit (R272). -/
def State.unitTurn (s : State) (o : EngineOp) : Bool :=
  match s.ops.find? fun p => p.kind.onUnit && unitOf p.cl == unitOf o.cl with
  | some p => p.id == o.id
  | none => false

/-- The tile path of an operation has made its passes, and its slot is not spilled (R259, R271). -/
def State.passesDone (s : State) (o : EngineOp) : Bool :=
  let c := s.cluster o.cl
  c.table.any fun e => e.work == .product o.id && e.passes == e.total && s.turnOf c e

/-- MXMUL_COMPLETE: a product that is not formed completes FAILED; one whose unit's turn has come, or whose passes are done,
is written (R271). Subject: the operation's number. -/
def execMxmulComplete (s : State) : Host.Outcome State Fault Refusal :=
  match s.eventOp fun k => match k with
    | .mxmul _ => true
    | _ => false with
  | none => .next s
  | some o =>
    let ntt := o.kind.onUnit
    let m := Mul.ofRecord o.desc
    match m.refusal ntt (s.backed o) with
    | some x => .next (s.finishOp o x)
    | none =>
      if (if ntt then s.unitTurn o else s.passesDone o) then completeOp s o (performProduct s o m ntt) else .next s

/-! ### NTT -/

/-- The prime of a transform (R273). -/
def nttPrime (p : Fin 4) : Nat := if p = 0 then 2013265921 else if p = 1 then 469762049 else 754974721
/-- Its generator (R273). -/
def nttGenerator (p : Fin 4) : Nat := if p = 0 then 31 else if p = 1 then 3 else 11

/-- A power modulo a number, by the bits of the exponent from the top. -/
def powMod (b m : Nat) : Nat → Nat → Nat
  | 0, _ => 1 % m
  | k + 1, e =>
    let h := powMod b m k (e / 2)
    let sq := h * h % m
    if e % 2 = 1 then sq * b % m else sq

/-- `Σ x_j w^j mod m`. -/
def polyAt (m w : Nat) (xs : List Nat) : Nat := xs.foldr (fun x acc => (acc * w + x) % m) 0

/-- The transform of R273: `N` inputs, in natural order. -/
def transform (inverse : Bool) (p : Fin 4) (xs : List Nat) : List Nat :=
  let m := nttPrime p
  let n := xs.length
  let w := powMod (nttGenerator p) m 32 ((m - 1) / n)
  let w := if inverse then powMod w m 32 (m - 2) else w
  let ninv := if inverse then powMod n m 32 (m - 2) else 1
  (List.range n).map fun k => polyAt m (powMod w m 32 k) (xs.map (· % m)) * ninv % m

/-- NTT: the address ranges, BADREC, then a ticket (R225, R272). -/
def nttOp (o : UNtt) (s : State) (inverse : Bool) : Host.Outcome State Fault Refusal :=
  guardForm (o.p != 3) s <| onGang s fun g grp slices => do
    let (vs, plan) ← uniformSources s [o.sa] [o.sd] noPorts
    let a := (uv vs 0).toNat
    let (s2, bs) ← readRecord s g grp slices a 32 8
    let d := dwordsOf bs
    let src := bits (dw d 0) 0 48
    let dst := bits (dw d 1) 0 48
    let lg := bits (dw d 2) 0 5
    let good := decide (1 ≤ lg ∧ lg ≤ 24)
    let n := if good then 4 * 2 ^ lg else 0
    checkRanges s2 grp.priv [(src, n), (dst, n)]
    require (bits (dw d 0) 48 16 == 0 && bits (dw d 1) 48 16 == 0 && bits (dw d 2) 5 59 == 0 && dw d 3 == 0 && good &&
        src % 4 == 0 && dst % 4 == 0 && (src == dst || !overlap src n dst n)) s2
      { kind := .badrec, val := BitVec.ofNat 64 a }
    startOp s2 plan g grp slices (.ntt inverse o.p) 4 o.sd o.la.val (BitVec.ofNat 64 a) d

/-- NTT.fwd (R272). -/
def execNttFwd (o : UNtt) (s : State) : Host.Outcome State Fault Refusal := nttOp o s false
/-- NTT.inv (R272). -/
def execNttInv (o : UNtt) (s : State) : Host.Outcome State Fault Refusal := nttOp o s true

/-- A transform performed (R273). -/
def performNtt (s : State) (o : EngineOp) (inverse : Bool) (p : Fin 4) : Except EngineStop (State × DWord) := do
  let n := 2 ^ bits (dw o.desc 2) 0 5
  let (s, bs) ← engineRead s o (bits (dw o.desc 0) 0 48) (4 * n)
  let xs := (List.range n).map fun i => ofBytes ((bs.drop (4 * i)).take 4)
  let s ← engineWrite s o (bits (dw o.desc 1) 0 48) ((transform inverse p xs).flatMap (toBytes 4))
  return (s, statusWord 0 0 0 0)

/-- NTT_COMPLETE: a transform whose unit's turn has come (R272, R273). Subject: the operation's number. -/
def execNttComplete (s : State) : Host.Outcome State Fault Refusal :=
  match s.eventOp fun k => match k with
    | .ntt .. => true
    | _ => false with
  | none => .next s
  | some o =>
    match o.kind with
    | .ntt inverse p => if s.unitTurn o then completeOp s o (performNtt s o inverse p) else .next s
    | _ => .next s

end Sys2Proof.Machine
end

