-- ==== Sys2Proof/Machine/Stow.lean ====
section
/-! DEFINITION. The stowage engine and publish buffers (R141, R296 to R298, R372, R404). -/

namespace Sys2Proof.Machine

open Sys2Proof

/-! ### Stowage -/

/-- A pool serves the issuing context (R404). -/
def Pool.serves (p : Pool) (asn : Asn) : Bool := p.en && p.asn == asn

/-- The granules of a placement of `e` limbs (R296). -/
def granulesOf (e : Nat) : Nat := ceilDiv e 32

/-- A granule of a pool is free. -/
def Pool.isFree (p : Pool) (i : Nat) : Bool := !p.used.any fun u => decide (u.1 ≤ i ∧ i < u.1 + granulesOf u.2)

/-- The free granules of a pool. -/
def Pool.freeCount (p : Pool) : Nat := p.size.toNat - (p.used.map fun u => granulesOf u.2).sum

/-- The first granule of the lowest free run of `n` in a pool: where a run can begin is the pool's base or the end of a
placement. -/
def Pool.findRun (p : Pool) (n : Nat) : Option Nat :=
  let starts := 0 :: p.used.map fun u => u.1 + granulesOf u.2
  let fits := starts.filter fun a => decide (a + n ≤ p.size.toNat) &&
    p.used.all fun u => decide (a + n ≤ u.1 ∨ u.1 + granulesOf u.2 ≤ a)
  fits.foldl (fun (best : Option Nat) a => match best with
    | some b => some (min a b)
    | none => some a) none

/-- The extent of a value: the fewest limbs, from 1, that hold it in two's complement (R76). -/
def extentOf (x : Int) : Nat :=
  let m : Nat := if x < 0 then (-x - 1).toNat else x.toNat
  if m = 0 then 1 else (Nat.log2 m + 1) / 32 + 1

/-- A STOW request (R296): pool, local, limbs and address. -/
structure StowReq where
  pool : Fin 8
  space : Bool
  limbs : Nat
  addr : Nat
  deriving DecidableEq, Repr

/-- The fields of a request. -/
def StowReq.of (x : DWord) : StowReq :=
  let n := bits x.toNat 48 12
  { pool := ⟨bits x.toNat 61 3, Nat.mod_lt _ (by decide)⟩, space := bit x.toNat 60, limbs := if n = 0 then 4096 else n,
    addr := bits x.toNat 0 48 }

/-- STOW: the checks of R225 and STOWPOOL; the group then waits for its engine (R296). -/
def execStow (o : UR2) (s : State) : Host.Outcome State Fault Refusal :=
  onGang s fun g grp slices => do
    let (vs, plan) ← uniformSources s [o.sa] [o.sd] noPorts
    let x := uv vs 0
    let r := StowReq.of x
    if !r.space then checkRanges s grp.priv [(r.addr, 4 * r.limbs)]
    require (r.addr % 4 == 0) s { kind := .align, val := BitVec.ofNat 64 r.addr }
    require (!r.space || localOk (s.teamOf grp).lsSize r.addr (4 * r.limbs)) s { kind := .lsbound, val := BitVec.ofNat 64 r.addr }
    let ld := deviceOfGroup g
    require ((s.devices[ld].pools[r.pool]).serves (s.asnOf grp.launch)) s { kind := .stowpool, val := x }
    let s1 := s.commitPops plan
    match s1.group? g with
    | none => return s1
    | some grp =>
      let op := { mkOp s1 .stow g grp x [o.sd.val] none with pc := (grp.lead slices).pc }
      return ((s1.addOp op).setGroup g ((grp.pin slices).setWait slices .stow s.fetched)).endRun

/-- A slice waits at an UNSTOW whose number lies below another; one that a debugger holds keeps nothing waiting. -/
def Group.unstowBefore (grp : Group) (id : Nat) : Bool :=
  (List.finRange 8).any fun (i : Fin 8) => match (grp.slices[i]).wait with
    | .stowTurn n => decide (n < id) && grp.slices[i].why == 0
    | _ => false

/-- A STOW or an UNSTOW of a die's stowage engine is older than a number (R296). -/
def State.stowBefore (s : State) (ld : Fin 4) (n : Nat) : Bool :=
  s.ops.any (fun p => p.kind == .stow && p.ld == ld && decide (p.id < n)) ||
    s.groups.any fun e => deviceOfGroup (groupId e.1) == ld && e.2.unstowBefore n

/-- The stowage engine of a die serves an operation: no request there is older (R296). -/
def State.stowTurn (s : State) (o : EngineOp) : Bool := !s.stowBefore o.ld o.id

/-- The value placed, and the handle: 0 when no run is free (R296). -/
def performStow (s : State) (o : EngineOp) : Except EngineStop (State × DWord) := do
  let r := StowReq.of o.record
  let (s, bs) ← if r.space then
      match s.opTeam o with
      | some t => (localRead s o t r.addr (4 * r.limbs)).map fun bs => (s, bs)
      | none => .ok (s, [])
    else engineRead s o r.addr (4 * r.limbs)
  let x := signed (8 * bs.length) (ofBytes bs)
  let e := extentOf x
  let n := granulesOf e
  let p := s.devices[o.ld].pools[r.pool]
  match p.findRun n with
  | none => return (s, 0)
  | some i =>
    let at_ := p.base.toNat + 128 * i
    let s ← engineWrite s o at_ (toBytes (128 * n) (wrap (1024 * n) x))
    let d := s.devices[o.ld]
    let s := s.setDev o.ld { d with pools := d.pools.set r.pool { p with used := (i, e) :: p.used } }
    return (s, BitVec.ofNat 64 (r.pool.val * 2 ^ 61 + e * 2 ^ 48 + at_))

/-- The destination register of a STOW operation. -/
def EngineOp.stowDest (o : EngineOp) : Fin 64 := ⟨(dw o.desc 0) % 64, Nat.mod_lt _ (by decide)⟩

/-- STOW_COMPLETE: the engine places the value, the handle goes to sd and the group continues; a poisoned source traps there
(R225, R296). Subject: the operation's number. -/
def execStowComplete (s : State) : Host.Outcome State Fault Refusal :=
  match s.eventOp fun k => k == .stow with
  | none => .next s
  | some o =>
    if !s.stowTurn o then .next s
    else
      match s.group? o.g with
      | none => .next (s.finishOp o 0)
      | some grp =>
        let slices := grp.waiting .stow
        if !s.portRoom o.g slices o.stowDest then .next (s.awaitRoom o.g slices o.stowDest)
        else match performStow s o with
        | .ok (s, h) =>
          .next ((((s.finishOp o 0).observe o.g fun k => k == o.mark).writeFor o.g slices o.stowDest h).complete o.g slices)
        | .error (.refused k n why a) => .next (s.parkOp o k n why a)
        | .error (.poison a s) => .next ((s.finishOp o 0).trapWaiting o.g slices { kind := .poison, val := poisonVal a })

/-- UNSTOW: once the requests that reached the engine before it are served, STOWPOOL, STOWBAD, or the granules freed and the count of
free ones to sd (R296, R297, R404). -/
def execUnstow (o : UDAL) (s : State) : Host.Outcome State Fault Refusal :=
  onGang s fun g grp slices => do
    let (vs, plan) ← uniformSources s [o.sa] (s.roomFor o.sd) noPorts
    let h := uv vs 0
    let ld := deviceOfGroup g
    let prog := grp.progressOf slices
    let turn := prog.turn.getD s.nextId
    if s.stowBefore ld turn then
      waitAgain { s with nextId := max s.nextId (turn + 1) } g (grp.keepProgress slices { prog with turn := some turn }) slices (.stowTurn turn)
    let k : Fin 8 := ⟨bits h.toNat 61 3, Nat.mod_lt _ (by decide)⟩
    let p := s.devices[ld].pools[k]
    require (p.serves (s.asnOf grp.launch)) s { kind := .stowpool, val := h }
    let named := fun (u : Nat × Nat) => u.2 == bits h.toNat 48 13 && p.base.toNat + 128 * u.1 == bits h.toNat 0 48
    require (p.used.any named) s { kind := .stowbad, val := h }
    let p' := { p with used := p.used.filter fun u => !named u }
    let d := s.devices[ld]
    let s1 := ((s.commitPops plan).reserve o.sd).pinIssuer.setDev ld { d with pools := d.pools.set k p' }
    return (s1.deliverUniform o.sd o.la.val (BitVec.ofNat 64 p'.freeCount)).advance

/-! ### Publish buffers -/

/-- The buffer of a context that starts at a page (R372). -/
def State.pubAt (s : State) (ld : Fin 4) (asn : Asn) (page : Nat) : Option (Fin 64) :=
  (List.finRange 64).find? fun (i : Fin 64) =>
    let b := s.devices[ld].pbuf[i]
    b.en && b.asn == asn && b.page == page

/-- PUBL: BOUNDS unless sa is a buffer's first page; the gang then waits for the exchange (R298). -/
def execPubl (o : UA) (s : State) : Host.Outcome State Fault Refusal :=
  onGang s fun g grp slices => do
    if !s.condHolds then return s.advance
    let (vs, plan) ← uniformSources s [o.sa] [] noPorts
    let a := (uv vs 0).toNat
    let found := s.pubAt (deviceOfGroup g) (s.asnOf grp.launch) (a / 2 ^ 16)
    require (a % 2 ^ 16 == 0 && found.isSome) s { kind := .bounds, val := uv vs 0 }
    let s1 := s.commitPops plan
    match s1.group? g with
    | none => return s1
    | some grp =>
      return ({ s1 with nextId := s1.nextId + 1 }.setGroup g
        ((grp.pin slices).setWait slices (.publish (a / 2 ^ 16) s1.nextId) s.fetched)).endRun

/-- The ranges of virtual memory that an operation writes. -/
def EngineOp.writes (o : EngineOp) : List (Nat × Nat) :=
  match o.kind with
  | .acp cs => cs.filterMap fun c => match c.dst with
    | .global a => some (a.toNat, c.size)
    | .localStore _ => none
  | .bxt => let l := Layout.ofRecord o.desc; if l.dir then l.accesses else []
  | .gath =>
    let q := Gather.ofRecord o.desc
    [(q.dest, if q.lsdst then 0 else q.count * q.size), (q.oormap, q.mapBytes)]
  | .mxmul _ => let m := Mul.ofRecord o.desc; [(m.d, 4 * m.limbs)]
  | .ntt .. => [(bits (dw o.desc 1) 0 48, 4 * 2 ^ bits (dw o.desc 2) 0 5)]
  | .stow => []

/-- An engine operation of a group into a range has not completed (R141). -/
def State.writesPending (s : State) (g : GroupId) (grp : Group) (lo n : Nat) : Bool :=
  let hits := fun (rs : List (Nat × Nat)) => rs.any fun r => overlap r.1 r.2 lo n
  let copies := grp.batches.unsealed ++ grp.batches.sealed_.flatMap Prod.snd
  hits ({ mkOp s (.acp copies) g grp 0 [] none with pc := 0 }.writes) ||
    s.ops.any fun o => o.g == g && o.team == grp.team && hits o.writes

/-- A location lies in the hidden copy of a publish buffer. -/
def State.inHidden (s : State) (ld : Fin 4) (b : PubBuf) (loc : Nat) : Bool :=
  (List.range b.count).any fun i =>
    let va := (b.page + i) * 2 ^ 16
    let r : Req := { ld := ld, asn := b.asn, priv := .system, kind := .store }
    match s.leafFor r va with
    | .ok (leaf, _) => (List.range (2 ^ 16)).any fun k => s.locOf r (va + k) leaf == loc
    | .error _ => false

/-- PUBL_EXCHANGE: the copies of a buffer are exchanged, once the group's engine operations into it have completed and its earlier
stores have been performed, and the gang that waits for it continues, having observed those operations; what the new visible copy held
while it was hidden is never read (R134, R141, R298, R371, R372). Subject: the group. -/
def execPublExchange (s : State) : Host.Outcome State Fault Refusal :=
  let g := s.arg.g
  match s.group? g with
  | none => .next s
  | some grp =>
    let page := (List.finRange 8).findSome? fun (i : Fin 8) => match (grp.slices[i]).wait with
      | .publish p n => some (p, n)
      | _ => none
    match page with
    | none => .next s
    | some (page, n) =>
      let slices := grp.waiting (.publish page n)
      let ld := deviceOfGroup g
      match s.pubAt ld (s.asnOf grp.launch) page with
      | none => .next (s.complete g slices)
      | some i =>
        let d := s.devices[ld]
        let b := d.pbuf[i]
        if s.writesPending g grp (page * 2 ^ 16) (b.count * 2 ^ 16) || s.unacknowledged then .next s
        else
          let s := { s with unseen := s.unseen.filter (fun u => !(u.g == g && u.op != retiredMark && s.inHidden ld b u.loc))
                            past := s.past.filter fun e => !s.inHidden ld b e.loc }
          .next ((s.setDev ld { d with pbuf := d.pbuf.set i { b with sel := !b.sel } }).complete g slices)

end Sys2Proof.Machine
end

