-- ==== Sys2Proof/Machine/Pilot.lean ====
section
/-! DEFINITION. Emit streams as their generator sees them, and TIDE (R48, R119, R159, R299 to R305). -/

namespace Sys2Proof.Machine

open Sys2Proof

/-! ### Emit streams -/

/-- A stream of a cluster. -/
def State.stream (s : State) (cl : ClusterId) (k : Fin 16) : EmitStream := (s.cluster cl).streams[k]

/-- A stream changed. -/
def State.setStream (s : State) (cl : ClusterId) (k : Fin 16) (e : EmitStream) : State :=
  let c := s.cluster cl
  s.setCluster cl { c with streams := c.streams.set k e }

/-- The TVAL of an emit kind: the stream and its sequence count (R369). -/
def emitVal (k : Fin 16) (e : EmitStream) : DWord := BitVec.ofNat 64 (k.val * 2 ^ 32 + e.count.toNat)

/-- A trap of an emit kind. -/
def emitTrap (kind : Kind) (k : Fin 16) (e : EmitStream) : Trap := { kind := kind, val := emitVal k e }

/-- The sidecar of a word (R304). -/
def sidecarOf (k : Fin 16) (pc : Addr) (seq : Nat) : Word :=
  BitVec.ofNat 32 (k.val * 2 ^ 28 + pc.toNat / 4 % 2 ^ 20 * 2 ^ 8 + seq % 2 ^ 8)

/-- A word appended: the berth keeps as many words as the stream's capacity (R48, R300, R301). -/
def EmitStream.append (e : EmitStream) (k : Fin 16) (pc : Addr) (w : Word) : EmitStream :=
  let words := e.words ++ [(w, sidecarOf k pc e.count.toNat)]
  { e with count := e.count + 1, data := !e.data && isLiteral w.toNat, words := words.drop (words.length - e.capacity) }

/-- The words still retained below the write position: none when the stream has no consumer (R46, R48). -/
def State.retainedWords (s : State) (cl : ClusterId) (k : Fin 16) : Int :=
  let count := (s.stream cl k).count
  ((s.consumers cl k).map (fun c => c.2.1.retained c.2.2.1 (s.preempting c.1 c.2.1) c.2.2.2 count) ++
    (s.boundEntries cl k).map (seqAbove count)).foldl max 0

/-- Every consumer of a stream waits at its write position, for the word there or, with the first word of its literal fetched, for
the second, and there is one (R48). -/
def State.allAtWrite (s : State) (cl : ClusterId) (k : Fin 16) : Bool :=
  let cs := s.consumers cl k
  let e := s.stream cl k
  let here := berthAddr k e.count.toNat
  !cs.isEmpty && (s.boundEntries cl k).isEmpty && cs.all fun c =>
    let sl := c.2.1.slices[c.2.2.1]
    sl.wait == .emitted && (sl.pc == here || (e.data && nextWord sl.pc == here))

/-- Every consumer's last fetch has passed the write position (R48, R302). -/
def State.allFetched (s : State) (cl : ClusterId) (k : Fin 16) : Bool :=
  let count := (s.stream cl k).count
  ((s.consumers cl k).map (fun c => c.2.2.2.ref) ++ s.boundEntries cl k).all fun seq => decide (seqAbove count seq ≤ 0)

/-- The check of .chk: steps 1 and 4 of R158 for a word that is no data word (R159). -/
def checkEmitted (s : State) (p : Priv) (data : Bool) (w : Word) : Except Stop Unit :=
  if data then .ok ()
  else match decodeWords w 0 with
    | .error _ => illegal s 1
    | .ok _ => require (!(p == .user && w.toNat / 2 ^ 31 == 1 && w.toNat / 2 ^ 24 % 64 == 0x1F)) s { kind := .priv }

/-- EMIT (R48, R159, R301). -/
def execEmit (o : UEmit) (s : State) : Host.Outcome State Fault Refusal :=
  onPilot s fun cl p => do
    let (vs, _) ← uniformSources s [o.sa] [] noPorts
    let x := (uv vs 0).toNat
    let e := s.stream cl o.k
    require (e.state == .static || e.state == .tow) s (emitTrap .emitst o.k e)
    let words : List Word := BitVec.ofNat 32 x :: if o.pair then [BitVec.ofNat 32 (x / 2 ^ 32)] else []
    if o.chk then
      checkEmitted s p.priv e.data (BitVec.ofNat 32 x)
      if o.pair then checkEmitted s p.priv (!e.data && isLiteral (x % 2 ^ 32)) (BitVec.ofNat 32 (x / 2 ^ 32))
    let n := words.length
    let put := fun (s : State) => s.setStream cl o.k (words.foldl (fun e w => e.append o.k p.pc w) e)
    let done := fun (s : State) (b : Bool) => (if o.nb then s.writeCond 7 b else s).advance
    if e.state = .static then
      require (decide (e.count.toNat + n ≤ e.capacity)) s (emitTrap .berthfull o.k e)
      return done (put s) true
    else if s.retainedWords cl o.k + n ≤ e.capacity then return done (put s) true
    else if o.nb then return done s false
    else
      require (!s.allAtWrite cl o.k) s (emitTrap .towfull o.k e)
      return s.setPilot cl { p with wait := .emit }

/-- ESEAL (R302). -/
def execEseal (o : UEStrm) (s : State) : Host.Outcome State Fault Refusal :=
  onPilot s fun cl _ => do
    let e := s.stream cl o.k
    require (e.state == .static || e.state == .tow) s (emitTrap .emitst o.k e)
    return (s.setStream cl o.k { e with state := if e.state = .static then .sealed_ else .ended }).advance

/-- ESYNC (R48, R302). -/
def execEsync (o : UEStrm) (s : State) : Host.Outcome State Fault Refusal :=
  onPilot s fun cl p =>
    if (s.stream cl o.k).state = .closed ∨ s.allFetched cl o.k then .ok s.advance
    else .ok (s.setPilot cl { p with wait := .esync o.k })

/-- The consumers of a stream give up their marks (R300). -/
def State.dropMarks (s : State) (cl : ClusterId) (k : Fin 16) : State :=
  s.mapGroups fun g grp => if clusterOf g = cl then
    grp.mapSlices 0xFF fun sl => { sl with tows := sl.tows.filter fun m => m.stream ≠ k } else grp

/-- The words of the berth that a generator's other streams may fill (R300). -/
def State.otherCapacity (s : State) (cl : ClusterId) (k : Fin 16) : Nat :=
  ((List.finRange 16).map fun (i : Fin 16) =>
    if i = k ∨ (s.stream cl i).state = .closed then 0 else (s.stream cl i).capacity).sum

/-- EOPEN: a reopen first waits as ESYNC does, and then discards the words and the marks (R300); BERTHFULL is tested
before the wait (log entry 143). -/
def execEopen (o : UEopen) (s : State) : Host.Outcome State Fault Refusal :=
  onPilot s fun cl p => do
    let (vs, _) ← uniformSources s [o.sa] [] noPorts
    let n := (uv vs 0).toNat
    let e := s.stream cl o.k
    require (e.state != .static && e.state != .tow) s (emitTrap .emitst o.k e)
    require (n % 32 == 0 && decide (32 ≤ n ∧ n + s.otherCapacity cl o.k ≤ 65536)) s (emitTrap .berthfull o.k e)
    let fresh : EmitStream := { state := if o.tow then .tow else .static, priv := p.priv, capacity := n, count := 0, data := false,
                                words := [] }
    if e.state = .closed then return (s.setStream cl o.k fresh).advance
    else if s.allFetched cl o.k then return ((s.dropMarks cl o.k).setStream cl o.k fresh).advance
    else return s.setPilot cl { p with wait := .esync o.k }

/-- EPOS (R299, R303). -/
def execEpos (o : UEpos) (s : State) : Host.Outcome State Fault Refusal :=
  onPilot s fun cl _ => do
    let (_, _) ← uniformSources s [] [o.sd] noPorts
    let e := s.stream cl o.k
    let off := o.k.val * 2 ^ 20 + 4 * (e.count.toNat % 2 ^ 18)
    return (s.writeUniform o.sd (if e.state = .closed then 0 else BitVec.ofNat 64 (off * 2 ^ 32 + e.count.toNat))).advance

/-- The word at a Pilot's program counter, and the next, as fetched from Pilot memory (R275). -/
def State.pilotFetch (s : State) (cl : ClusterId) (pc : Addr) : Fetched :=
  let at_ := fun (a : Nat) => BitVec.ofNat 32 (ofBytes (Memory.readBytes s.mem (pilotLoc cl.val a) 4))
  { word := at_ pc.toNat, word2 := at_ (pc.toNat + 4), sidecar := none, berth := false }

/-- A fault of a Pilot that waits at its word. -/
def State.pilotTrap (s : State) (cl : ClusterId) (t : Trap) : State :=
  let f := s.pilotFetch cl (s.cluster cl).pilot.pc
  { ({ s with fetched := f }.generatorFault cl t) with fetched := s.fetched }

/-- The stream that a waiting EMIT names. -/
def State.emitStream (s : State) (cl : ClusterId) : Fin 16 :=
  ⟨(s.pilotFetch cl (s.cluster cl).pilot.pc).word.toNat % 16, Nat.mod_lt _ (by decide)⟩

/-- The words that a waiting EMIT would append. -/
def State.emitWords (s : State) (cl : ClusterId) : Nat :=
  if bit (s.pilotFetch cl (s.cluster cl).pilot.pc).word.toNat 4 then 2 else 1

/-- EMIT_RESUME: the Pilot stalled at an EMIT takes TOWFULL, or issues it again once its words fit (R48). Subject: the
cluster. -/
def execEmitResume (s : State) : Host.Outcome State Fault Refusal :=
  let cl := s.arg.cl
  let p := (s.cluster cl).pilot
  let k := s.emitStream cl
  let e := s.stream cl k
  if p.wait ≠ .emit then .next s
  else if s.retainedWords cl k + s.emitWords cl ≤ e.capacity then .next (s.setPilot cl { p with wait := .ready })
  else if s.allAtWrite cl k then .next (s.pilotTrap cl (emitTrap .towfull k e))
  else .next s

/-- ESYNC_COMPLETE: every consumer has fetched every word, and the Pilot issues its word again, which then completes (R300,
R302). Subject: the cluster. -/
def execEsyncComplete (s : State) : Host.Outcome State Fault Refusal :=
  let cl := s.arg.cl
  let p := (s.cluster cl).pilot
  match p.wait with
  | .esync k => .next (if s.allFetched cl k then s.setPilot cl { p with wait := .ready } else s)
  | _ => .next s

/-! ### Tides (R119, R305) -/

/-- The bundles of a link, by TIDE's code. -/
def linkBundles (l : Fin 4) : Nat := if l = 0 then 64 else if l = 3 then 16 else 32
/-- The floor each way. -/
def linkFloor (l : Fin 4) : Nat := linkBundles l / 8

/-- The context of the word in execution. -/
def State.issuerCtx (s : State) : Fin 4 × Asn := (s.accessor.ld, s.accessor.asn)

/-- TIDE (R305). -/
def execTide (o : UTide) (s : State) : Host.Outcome State Fault Refusal :=
  onAny s do
    let (vs, plan) ← uniformSources s [o.sa] [] noPorts
    let s1 := s.commitPops plan
    if s.pack.safe then return s1.advance
    let (ld, asn) := s.issuerCtx
    let n := (uv vs 0).toNat
    let c := s1.ctx ld asn
    let rest := c.tides.filter fun t => t.link ≠ o.l
    let tides := if n = 0 then rest else ⟨o.l, clamp (linkFloor o.l) (linkBundles o.l - linkFloor o.l) n⟩ :: rest
    return (s1.setCtx ld asn { c with tides := tides }).advance

end Sys2Proof.Machine
end

