-- ==== Sys2Proof/Machine/Launches.lean ====
section
/-! DEFINITION. Launch packets, placing and releasing teams, starting generators, LAUNCH, and the end of a launch (R24,
R25, R71, R306, R321, R384 to R396). -/

namespace Sys2Proof.Machine

open Sys2Proof

/-! ### Launch packets (R384, R387, R388) -/

/-- A role that is not named (R388). -/
def Role.unnamed : Role := { named := false, entry := 0, stream := 0, offset := 0, cls := 0, allot := 0, groups := 0 }

/-- A role dword of a version 3 packet, or of an earlier one; none when it is malformed (R387, R388). -/
def Role.parse (v3 : Bool) (x : Nat) : Option Role :=
  if x = 0 then some Role.unnamed
  else
    let entry := bits x 16 48
    let ok := bits x 14 2 == 0 && bits x 11 1 == 0 && bits x 6 2 == 0 && decide (bits x 0 6 ≤ 32) &&
      decide (1 ≤ bits x 8 3 ∧ bits x 8 3 ≤ 5) &&
      (if v3 then bits x 38 26 == 0 else entry % 4 == 0 && decide (entry < 2 ^ 47))
    if ok then
      some { named := true, entry := if v3 then 0 else BitVec.ofNat 48 entry, cls := Fin.ofNat 4 (bits x 12 2),
             stream := if v3 then Fin.ofNat 16 (bits x 16 4) else 0, offset := if v3 then BitVec.ofNat 18 (bits x 20 18) else 0,
             allot := 8 * bits x 8 3, groups := bits x 0 6 }
    else none

/-- The ranges and reserved bits of a packet outside its role dwords (R384, R387, R388). -/
def launchFieldsOk (d : List DWord) (dep : Bool) : Bool :=
  let h := dw d 0
  let d1 := dw d 1
  let d3 := dw d 3
  let d6 := dw d 6
  let d7 := dw d 7
  let v := bits h 12 4
  bits h 0 8 == 1 && bits h 8 4 == 2 && bits h 18 46 == 0 && decide (1 ≤ v ∧ v ≤ 3) && (dep || !bit h 17) &&
    bits d1 62 2 == 0 && bits d1 38 2 == 0 && decide (bits d1 40 8 ≤ 64) && decide (bits d1 32 6 ≤ 32) &&
    decide (1 ≤ bits d1 0 32) &&
    bits d3 63 1 == 0 && bits d3 44 4 == 0 && decide (bits d3 32 12 ≤ 4000) &&
    (bits d3 0 32 == 0 || bits d3 0 32 == 394240) &&
    (if bit h 17 then bits d6 63 1 == 0 && bits d6 48 8 == 0 else d6 == 0) &&
    (if v = 3 then decide (1 ≤ bits d3 48 15 ∧ bits d3 48 15 ≤ 16384) && bits d7 48 16 % 4 == 0 &&
        decide (bits d7 48 16 < 4 * bits d3 48 15) && bits d7 0 48 % 4 == 0
      else bits d3 48 15 == 0 && d7 == 0)

/-- The group counts and the lane count of a packet (R387, R388). -/
def launchRolesOk (v teams lanes : Nat) (c p : Role) : Bool :=
  let g := c.groups + p.groups
  (if v = 1 then !p.named && decide (1 ≤ c.groups) else decide (1 ≤ g ∧ g ≤ 32)) &&
    decide (1 ≤ lanes ∧ lanes ≤ teams * g * 32)

/-- A LAUNCH packet, none when it is malformed (R384, R387, R388); `dep` says that a dependency may be named. -/
def Packet.parse (d : List DWord) (dep : Bool) : Option Packet :=
  let h := dw d 0
  let v := bits h 12 4
  if launchFieldsOk d dep then
    match Role.parse (v == 3) (dw d 4), Role.parse (v == 3) (dw d 5) with
    | some c, some p =>
      if launchRolesOk v (bits (dw d 1) 0 32) (dw d 2) c p then
        some { version := v, superstep := bit h 16
               dep := if bit h 17 then some (Fin.ofNat 128 (bits (dw d 6) 56 7), bits (dw d 6) 0 48) else none
               fctl := BitVec.ofNat 14 (bits (dw d 1) 48 14), lstore := bits (dw d 1) 40 8, queues := bits (dw d 1) 32 6
               teams := bits (dw d 1) 0 32, lanes := d.getD 2 0, genwords := bits (dw d 3) 48 15
               stagger := bits (dw d 3) 32 12, accback := bits (dw d 3) 0 32, cons := c, prod := p
               genentry := BitVec.ofNat 16 (bits (dw d 7) 48 16), genaddr := BitVec.ofNat 48 (bits (dw d 7) 0 48)
               args := Vector.ofFn fun (i : Fin 8) => d.getD (8 + i.val) 0 }
      else none
    | _, _ => none
  else none

/-! ### What a team needs (R391) -/

/-- The larger allotment of the named roles (R68, R391). -/
def Packet.allotment (p : Packet) : Nat := max p.cons.allot p.prod.allot

/-- Bytes of register homes of one team (R68, R391). -/
def Packet.homeBytes (p : Packet) : Nat := p.teamGroups * ((p.allotment + 64) * 128 + 16384)

/-- Bytes of a pool register's pool (R399). -/
def poolBytes (x : DWord) : Nat := bits x.toNat 40 24 * 2 ^ 16

/-- The first byte of a pool (R399). -/
def poolBase (x : DWord) : Nat := bits x.toNat 16 24 * 2 ^ 16

/-- Bytes of one accumulator backing area (R392). -/
def backingBytes : Nat := 394240

/-- Teams of a packet that one empty cluster holds at once (R391). -/
def Packet.perCluster (p : Packet) : Nat :=
  min (16 / ((p.teamGroups + 3) / 4)) (min (if p.queues = 0 then 16 else 32 / p.queues) (if p.lstore = 0 then 16 else 64 / p.lstore))

/-- The clusters of a logical queue, lowest first. -/
def LQueue.clusters (q : LQueue) : List (Fin 40) := (List.finRange 40).filter fun (c : Fin 40) => maskHas q.clmask c.val

/-- A launch fits on empty clusters of its queue and in empty pools: one team, or every team of a superstep grid (R25,
R391). -/
def launchFits (d : Device) (q : LQueue) (p : Packet) : Bool :=
  let n := if p.superstep then p.teams else 1
  decide (n ≤ q.clusters.length * p.perCluster) && decide (n * p.homeBytes ≤ poolBytes d.rhPool) &&
    (p.accback == 0 || decide (n * backingBytes ≤ poolBytes d.abPool))

/-! ### Carving (R391) -/

/-- Teams of contexts that wait to be resumed: the dispatcher leaves their resources free (R407). -/
def State.awaited (s : State) (cl : ClusterId) : List Team :=
  s.ctxs.flatMap fun e => if e.2.resuming then (e.2.image.elim [] SavedCtx.teams).filter fun t => t.cl == cl else []

/-- A group slot is taken by a resident group, or by a team not yet released, or waits for a context to be resumed. -/
def State.slotTaken (s : State) (g : GroupId) : Bool :=
  (s.group? g).isSome || (s.teams.any fun t => !t.released && t.members.contains g) ||
    (s.awaited (clusterOf g)).any fun t => t.members.contains g && !t.retired.contains g

/-- The lowest free slot of a core for each of a team's groups, by team index; none when a core is full. -/
def State.carveSlots (s : State) (cl : ClusterId) (n : Nat) : Option (List GroupId) :=
  (List.range n).foldl (fun (acc : Option (List GroupId)) i =>
    acc.bind fun gs =>
      let core := cl.val * 4 + i % 4
      (((List.range 16).map fun k => groupId (core * 16 + k)).find? fun g => !s.slotTaken g && !gs.contains g).map fun g =>
        gs ++ [g]) (some [])

/-- Local store of a core above which PINCORE pages stand, the lowest of the cluster's four (R373). -/
def State.localTop (s : State) (cl : ClusterId) : Nat :=
  let pins := fun (c : Nat) => (s.pins.filter fun p => p.ld == deviceOf cl && p.place.toNat == 3 * 2 ^ 10 + clusterIndex cl * 4 + c).length
  2 ^ 18 - 2 ^ 16 * ((List.range 4).map pins).foldl max 0

/-- The lowest common base of an allocation, a multiple of 4 KiB (R103, R391). -/
def State.carveLocal (s : State) (cl : ClusterId) (size : Nat) : Option Nat :=
  let mine := (s.teams.filter fun t => t.cl == cl) ++ s.awaited cl
  ((List.range 65).map (· * 4096)).find? fun b =>
    decide (b + size ≤ s.localTop cl) && mine.all fun t => decide (b + size ≤ t.lsBase ∨ t.lsBase + t.lsSize ≤ b)

/-- The lowest free queues of a cluster. -/
def State.carveQueues (s : State) (cl : ClusterId) (n : Nat) : Option (List (Fin 32)) :=
  let free := (List.finRange 32).filter fun (q : Fin 32) =>
    ((s.cluster cl).queueOwner[q]).isNone && !(s.awaited cl).any fun t => t.queues.contains q
  if n ≤ free.length then some (free.take n) else none

/-- The teams of a device that hold pool memory: those placed, and those of contexts saved by PREEMPT. -/
def State.poolTeams (s : State) (ld : Fin 4) : List Team :=
  (s.teams.filter fun t => deviceOf t.cl == ld) ++
    s.ctxs.flatMap fun e => if e.1 / 4096 = ld.val then e.2.image.elim [] SavedCtx.teams else []

/-- The lowest free backing area of a device's pool: it begins at the pool's base or where another ends (R391, R392). -/
def State.carveBacking (s : State) (ld : Fin 4) : Option Nat :=
  let pool := s.devices[ld].abPool
  let used := (s.poolTeams ld).filterMap Team.backing
  let free := fun (a : Nat) => decide (poolBase pool ≤ a ∧ a + backingBytes ≤ poolBase pool + poolBytes pool) &&
    used.all fun u => decide (a + backingBytes ≤ u ∨ u + backingBytes ≤ a)
  ((poolBase pool :: used.map (· + backingBytes)).filter free).foldl (fun (best : Option Nat) a => some ((best.map (min a)).getD a)) none

/-- The launch of a team is a superstep launch. -/
def State.inSuperstep (s : State) (t : Team) : Bool := (s.launch? t.launch).any fun l => l.pkt.superstep

/-- Register-home bytes of a device that are in use, or kept for the teams of superstep grids that are placed and not yet released, since
such a grid is resident whole (R25, R391, R393); but for one team. -/
def State.homesHeld (s : State) (ld : Fin 4) (but : Nat) : Nat :=
  (((s.poolTeams ld).filter fun t => t.id != but && (t.released || s.inSuperstep t)).map Team.homes).sum

/-- Register homes for one more team of a superstep grid; other teams wait for theirs until their release (R25, R393). -/
def State.homesFit (s : State) (l : Launch) : Bool :=
  !l.pkt.superstep || decide (s.homesHeld l.ld s.nextId + l.pkt.homeBytes ≤ poolBytes s.devices[l.ld].rhPool)

/-- A context that waits to be resumed needs a cluster's Pilot (R407). -/
def State.pilotAwaited (s : State) (cl : ClusterId) : Bool :=
  s.ctxs.any fun e => e.2.resuming && e.2.image.any fun i => i.clusters.any fun c => c.1 == cl.val && c.2.pilot.launch != 0

/-- A cluster's Pilot can serve a team of a launch: it runs or will run this launch's generator, or it is idle and no other
launch's groups hold words of its streams (R391, R394). -/
def State.pilotServes (s : State) (l : Launch) (cl : ClusterId) : Bool :=
  if l.pkt.version ≠ 3 then true
  else if l.gensEnded.contains cl then false
  else if l.gens.contains cl ∨ l.genPending.contains cl then true
  else !(s.cluster cl).pilot.running && !s.pilotAwaited cl && !(s.launches.any fun m => m.ld == l.ld && m.genPending.contains cl) &&
    (List.finRange 16).all fun (k : Fin 16) => (s.consumers cl k).isEmpty && (s.boundEntries cl k).isEmpty

/-- The next team of a launch carved on one cluster, none when it does not fit there (R391). -/
def State.carveOn (s : State) (l : Launch) (cl : ClusterId) : Option State := do
  let p := l.pkt
  let members ← s.carveSlots cl p.teamGroups
  let base ← s.carveLocal cl (p.lstore * 4096)
  let queues ← s.carveQueues cl p.queues
  let backing ← if p.accback = 0 then some none else (s.carveBacking l.ld).map some
  if s.pilotServes l cl && s.homesFit l then
    let t : Team :=
      { id := s.nextId, launch := l.id, index := l.placed, cl := cl, released := false, start := 0, lsBase := base
        lsSize := p.lstore * 4096, queues := queues, members := members, retired := [], held := 0, spilled := []
        homes := p.homeBytes, backing := backing, barriers := Vector.replicate 16 none }
    let c := s.cluster cl
    let first := p.version = 3 ∧ ¬ l.gens.contains cl ∧ ¬ l.genPending.contains cl
    let c : Cluster := { c with
      queueOwner := Vector.ofFn fun (q : Fin 32) => if queues.contains q then some t.id else c.queueOwner[q]
      queues := Vector.ofFn fun (q : Fin 32) => if queues.contains q then ⟨[], 0, []⟩ else c.queues[q]
      streams := if first then Vector.replicate 16 EmitStream.closed else c.streams }
    let s := s.setCluster cl c
    let s := s.setLaunch { l with placed := l.placed + 1, genPending := if first then l.genPending ++ [cl] else l.genPending }
    some { s with teams := s.teams ++ [t], nextId := s.nextId + 1 }
  else none

/-- The next team of a launch, on the lowest cluster of its queue that meets every need (R391). -/
def State.placeTeam (s : State) (q : LQueue) (l : Launch) : Option State :=
  q.clusters.findSome? fun c => s.carveOn l (clusterAt l.ld c)

/-- So many teams of a launch placed, none when they do not all fit (R25). -/
def State.placeTeams (s : State) (q : LQueue) (id : Nat) : Nat → Option State
  | 0 => some s
  | n + 1 => do
    let l ← s.launch? id
    let s ← s.placeTeam q l
    s.placeTeams q id n

/-- What one placement makes: the next team, or every team of a superstep grid at once (R24, R25). -/
def State.placeNext (s : State) (q : LQueue) (l : Launch) : Option State :=
  s.placeTeams q l.id (if l.pkt.superstep then l.pkt.teams - l.placed else 1)

/-! ### Discarding teams -/

/-- A cluster without what the joint operations of a team hold. -/
def Cluster.dropTeam (c : Cluster) (team : Nat) : Cluster :=
  { c with
    latches := c.latches.filter fun l => l.team ≠ team
    requests := c.requests.filter fun r => r.team ≠ team
    table := c.table.filter fun e => match e.work with
      | .joint .. => e.team ≠ team
      | .product _ => true }

/-- The records of groups that are discarded become void (R342, R347). -/
def State.voidRecords (s : State) (ld : Fin 4) (drop : ParkOwner → Bool) : State :=
  s.setDev ld { s.devices[ld] with faults := s.devices[ld].faults.filter fun r => !drop r.owner }

/-- A team is discarded: its groups end at once, its engine operations run on, and its cluster's resources go free with the
last of them (R347, R394). -/
def State.discardTeam (s : State) (t : Team) : State :=
  let s := s.setCluster t.cl ((s.cluster t.cl).dropTeam t.id)
  let s := s.setTeam { t with barriers := Vector.replicate 16 none }
  let live := t.members.filter fun g => (s.group? g).any fun grp => grp.team == t.id
  let s := s.voidRecords (deviceOf t.cl) fun o => match o with
    | .group g _ => live.contains g
    | _ => false
  let s := live.foldl State.retireGroup s
  match s.team? t.id with
  | none => s
  | some t => (s.setTeam { t with released := true, retired := t.members }).reapTeams

/-- The teams of a launch, on one cluster when it is named, are discarded. -/
def State.discardTeams (s : State) (launch : Nat) (cl : Option ClusterId) : State :=
  (s.teams.filter fun t => t.launch == launch && cl.all fun c => c == t.cl).foldl State.discardTeam s

/-! ### Release (R71, R393) -/

/-- Bytes of a range of locations back at their value at reset. -/
def Memory.clearRange (m : List Host.Cell) (lo n : Nat) : List Host.Cell :=
  m.filter fun c => !decide (lo ≤ c.1 ∧ c.1 < lo + n)

/-- Memory with some ranges as at reset. -/
def Memory.clearRanges (m : List Host.Cell) (rs : List (Nat × Nat)) : List Host.Cell :=
  rs.foldl (fun m r => Memory.clearRange m r.1 r.2) m

/-- Ranges of locations that a team's local store takes. -/
def Team.ranges (t : Team) : List (Nat × Nat) := (List.range 4).map fun c => (localLoc (t.cl.val * 4 + c) t.lsBase, t.lsSize)

/-- A granule lies in one of some ranges of locations. -/
def granuleIn (rs : List (Nat × Nat)) (g : Nat) : Bool := rs.any fun r => decide (r.1 ≤ 32 * g ∧ 32 * g < r.1 + r.2)

/-- One slice at the start of its group (R15, R46, R71). -/
def Slice.atStart (p : Packet) (r : Role) : Slice :=
  let pc := p.entryOf r
  { pc := pc, active := 15, ended := 0, exited := false, loops := [], recon := [], region := ⟨pc, 15, [], []⟩, wait := .ready
    waitWord := ⟨0, 0, none, false⟩, passed := 0
    tows := if p.version = 3 then [⟨r.stream, none, r.offset.zeroExtend 32⟩] else []
    pinned := false, issued := [], why := 0, dbg := .none, passBreak := false }

/-- Trap registers of a group at start (R71). -/
def TrapRegs.zero : TrapRegs :=
  { cause := 0, pc := 0, mask := 0, val := 0, prov := 0, word := 0, slices := 0, inh := false, skip := false, cond := 0
    tsv := Vector.replicate 4 0 }

/-- p1 at group start: the lanes whose grid-wide index is below the lane count (R71). -/
def startLanes (p : Packet) (team g : Nat) : LaneMask :=
  maskOfFn 32 fun l => decide (32 * (team * p.teamGroups + g) + l < p.lanes.toNat)

/-- FCTL at group start: the packet's field, whose bits [6:5] are reserved and read as zero (R66, R71; log entry 114). -/
def Packet.startFctl (p : Packet) : BitVec 14 := p.fctl &&& ~~~(0x60 : BitVec 14)

/-- The state of a group at its start (R71). -/
def Group.atStart (l : Launch) (t : Team) (i : Nat) (time : Nat) : Group :=
  let p := l.pkt
  let producer := decide (i < p.prod.groups)
  let r := if producer then p.prod else p.cons
  let u : UFile :=
    { s := Vector.ofFn fun (k : Fin 64) => if 1 ≤ k.val ∧ k.val ≤ 8 then p.args.getD (k.val - 1) 0 else 0, c := 1 }
  { launch := l.id, team := t.id, inTeam := Fin.ofNat 32 i
    inRole := Fin.ofNat 32 (if producer then i else i - p.prod.groups), producer := producer, allot := r.allot, cls := r.cls
    start := time, v := Vector.replicate 96 (Vector.replicate 32 0), tags := Vector.replicate 96 0, vpoison := [], u := u
    spoison := [], p := (Vector.replicate 8 0).set 1 (startLanes p t.index i), pix := 0, wcf := false, flags := 0
    fctl := p.startFctl, ntth := 2048, modn := 0, modb := 0, gang := 0, qmap := 0, region := 0
    sd := Vector.replicate 8 StreamDesc.empty, batches := { unsealed := [], sealed_ := [], last := 0, refused := [] }
    tickets := [], ticketSeq := 0, slices := Vector.replicate 8 (Slice.atStart p r), inflight := [], progress := []
    trap := TrapRegs.zero, saved := [], savedProgress := [], dead := false }

/-- Nanoseconds from one release of a launch to the next: the packet's stagger, or STAGMIN where it is longer (R393,
R434). -/
def State.staggerNs (s : State) (l : Launch) : Nat := 8 * max l.pkt.stagger s.pack.stagmin.toNat

/-- The team of a launch that is next to be released, the lowest of those that wait, when its time has come and its register homes fit
(R393). -/
def State.releasable (s : State) (l : Launch) : Option Team :=
  let waiting := s.teams.filter fun t => t.launch == l.id && !t.released
  match waiting.find? fun t => waiting.all fun u => decide (t.index ≤ u.index) with
  | none => none
  | some t =>
    let due := l.lastRelease.all fun at_ => decide (at_ + s.staggerNs l ≤ s.pack.time)
    if due && decide (s.homesHeld l.ld t.id + t.homes ≤ poolBytes s.devices[l.ld].rhPool) then some t else none

/-- TEAM_RELEASE: the next team of a launch starts, its local store and register homes zeroed (R71, R393). Subject: the
launch. -/
def execTeamRelease (s : State) : Host.Outcome State Fault Refusal :=
  match s.launch? s.arg.num with
  | none => .next s
  | some l =>
    match s.releasable l with
    | none => .next s
    | some t =>
      let s := s.startAcquire l t.cl
      let s := { s with mem := Memory.clearRanges s.mem t.ranges, poison := s.poison.filter fun g => !granuleIn t.ranges g }
      let s := t.members.zipIdx.foldl (fun (s : State) e => s.setGroup e.1 (Group.atStart l t e.2 s.pack.time)) s
      let s := s.setTeam { t with released := true, start := s.pack.time }
      .next (s.setLaunch { l with
        released := l.released + 1, lastRelease := some s.pack.time, began := if l.released = 0 then s.fresh else l.began })

/-! ### Starting a generator (R321, R394) -/

/-- A generator image that could not be read: no generator starts, and the launch's groups there are discarded (R394). -/
def State.failImage (s : State) (id : Nat) (cl : ClusterId) (kind detail : Nat) : State :=
  match s.launch? id with
  | none => s
  | some l =>
    let s := s.setLaunch { l with
      genPending := l.genPending.filter fun c => c ≠ cl, gensEnded := cl :: l.gensEnded
      failed := some (l.failed.getD (kind, detail)) }
    s.discardTeams id (some cl)

/-- The image read of a launch for a cluster awaits an answer (R340, R394). -/
def State.imageParked (s : State) (ld : Fin 4) (id : Nat) (cl : ClusterId) : Bool :=
  s.devices[ld].faults.any fun r => r.owner == .image id cl

/-- The Pilot as a generator starts (R321). -/
def Pilot.atStart (l : Launch) : Pilot :=
  { Pilot.idle with
    running := true, launch := l.id, pc := l.pkt.genentry.zeroExtend 48
    u := { s := Vector.ofFn fun (k : Fin 64) => if 1 ≤ k.val ∧ k.val ≤ 8 then l.pkt.args.getD (k.val - 1) 0 else 0, c := 1 } }

/-- GENERATOR_START: the image is read at U into Pilot memory, the rest of which is zeroed, and the Pilot starts (R321,
R394). Subject: the launch and the cluster. -/
def execGeneratorStart (s : State) : Host.Outcome State Fault Refusal :=
  let cl := s.arg.cl
  match s.launch? s.arg.num with
  | none => .next s
  | some l =>
    if l.genPending.contains cl && !s.imageParked l.ld l.id cl then
      let s := s.startAcquire l cl
      let n := 4 * l.pkt.genwords
      let r : Req := { ld := l.ld, asn := l.asn, priv := .user, kind := .load }
      match s.places r l.pkt.genaddr.toNat n with
      | .error why =>
        let a := s.refusedAt r l.pkt.genaddr.toNat n
        .next ((s.meetTable l.ld l.asn a why).postFault l.ld
          { seq := none, type := 2, asn := l.asn, owner := .image l.id cl, held := none
            dwords := faultDwords 2 Kind.xlate.code why l.asn (accessBits .load 4) a 1 0 (agentOfCluster cl) 9
              (l.pkt.genentry.zeroExtend 48) 0 none s.pack.time (BitVec.ofNat 64 a) })
      | .ok (s, ps) =>
        match s.readPlaces ps with
        | (_, some i) => .next (s.failImage l.id cl 1 ((l.pkt.genaddr.toNat + i) / 32 * 32))
        | (bs, none) =>
          let mem := Memory.writeBytes (Memory.clearRange s.mem (pilotLoc cl.val 0) (2 ^ 16)) (pilotLoc cl.val 0) bs
          let c := s.cluster cl
          let s := { s with mem := mem }.setCluster cl { c with
            pilot := Pilot.atStart l, streams := Vector.replicate 16 EmitStream.closed }
          .next (s.setLaunch { l with genPending := l.genPending.filter fun c => c ≠ cl, gens := cl :: l.gens })
    else .next s

/-! ### LAUNCH (R50, R306) -/

/-- The launches of a context and device that are below another, or it. -/
def State.childOf (s : State) (id : Nat) : Bool := s.launches.any fun l => l.parent == some id

/-- A launch that is taken or issued, before admission. -/
def newLaunch (s : State) (ld : Fin 4) (asn : Asn) (queue : Fin 32) (src : Source) (parent : Option Nat) (depth : Nat)
    (p : Packet) (admitted : Bool) : Launch :=
  { id := s.nextId, ld := ld, asn := asn, queue := queue, src := src, parent := parent, depth := depth, pkt := p
    admitted := admitted, placed := 0, lastRelease := none, released := 0, step := 0, arrived := [], began := s.fresh, halted := false
    failed := none, cancelled := false, gens := [], gensEnded := [], genPending := [], shadow := [], thaw := none, depWide := false }

/-- A logical queue that has not been loaded (R380). -/
def LQueue.empty : LQueue :=
  { en := false, prio := 0, asn := 0, clmask := 0, cqBase := 0, cqLog := 4, ccount := 1, chold := 1, vec := 0, cqHead := 0
    consumed := 0, lastRing := 127, effective := 0, waitFrom := 0, aged := 0, paused := false, records := [], heldCount := 0
    heldFrom := 0, indirect := none }

/-- A logical queue of a device. -/
def State.queue (s : State) (ld : Fin 4) (q : Fin 32) : LQueue := (getBy q.val s.devices[ld].queues).getD LQueue.empty

/-- A logical queue changed. -/
def State.setQueue (s : State) (ld : Fin 4) (q : Fin 32) (x : LQueue) : State :=
  s.setDev ld { s.devices[ld] with queues := putBy q.val x s.devices[ld].queues }

/-- LAUNCH: the packet is read at issue; a child that is malformed, too deep or too large fails at once (R306, R388), too
deep before too large (log entry 142). -/
def execLaunch (o : UR2) (s : State) : Host.Outcome State Fault Refusal :=
  onGang s fun g grp slices => do
    if !s.condHolds then return s.advance
    let (vs, plan) ← uniformSources s [o.sa] [o.sd] noPorts
    let a := (uv vs 0).toNat
    let (s2, bs) ← readRecord s g grp slices a 128 64
    match s.launch? grp.launch with
    | none => return s2.advance
    | some parent =>
      checkTicket s2 grp
      match issueTicket ((s2.commitPops plan).reserve o.sd) g 5 with
      | .error e => .error e
      | .ok (s3, e, seq, ticket) =>
        let s4 := (s3.deliverUniform o.sd 0 ticket).pinIssuer
        let fail := fun (kind : Nat) => (s4.setStatus g grp.team e seq (statusWord 1 kind 0 0)).advance
        match Packet.parse (dwordsOf bs) false with
        | none => return fail 8
        | some p =>
          let ld := deviceOfGroup g
          if 8 ≤ parent.depth then return fail 10
          else if !launchFits s.devices[ld] (s.queue ld parent.queue) p then return fail 9
          else
            let l := newLaunch s4 ld parent.asn parent.queue (.ticket g grp.team e seq) (some parent.id) (parent.depth + 1) p true
            return { s4 with launches := s4.launches ++ [l], nextId := s4.nextId + 1 }.advance

/-! ### The end of a launch (R396) -/

/-- A launch that places no more teams. -/
def Launch.ended (l : Launch) : Bool := l.failed.isSome || l.cancelled || l.placed == l.pkt.teams

/-- Every team has been released and has left, every generator has ended, and no child or engine operation is left
(R396). -/
def State.launchDone (s : State) (l : Launch) : Bool :=
  l.admitted && l.ended && !(s.teams.any fun t => t.launch == l.id) && !(s.groups.any fun e => e.2.launch == l.id) &&
    !(s.ops.any fun o => o.launch == l.id) && l.gens.isEmpty && l.genPending.isEmpty && !s.childOf l.id

/-- The outcome, kind and detail of a launch (R306, R332, R347, R394, R396). -/
def Launch.result (l : Launch) : Nat × Nat × Nat :=
  match l.failed with
  | some (k, d) => (1, k, d)
  | none => if l.cancelled then (3, 0, 0) else if l.halted then (1, 11, 0) else (0, 0, 0)

/-- A completion record joins those of its queue (R397). -/
def State.pushRecord (s : State) (ld : Fin 4) (q : Fin 32) (r : List DWord) : State :=
  let x := s.queue ld q
  s.setQueue ld q { x with records := x.records ++ [⟨r⟩] }

/-- The dwords of a completion record (R397). -/
def recordDwords (outcome kind type ring pos : Nat) (ioff : Option Nat) (time : Nat) : List DWord :=
  [BitVec.ofNat 64 (outcome * 2 ^ 62 + kind * 2 ^ 56 + type * 2 ^ 48 + bitNat ioff.isSome * 2 ^ 47 + ring * 2 ^ 40),
   BitVec.ofNat 64 pos, BitVec.ofNat 64 (ioff.getD 0), BitVec.ofNat 64 time]

/-- A launch reports: to its ticket, or in a record (R306, R396, R397), which a launch that a THAW restored has written before
(R412). -/
def State.reportLaunch (s : State) (l : Launch) (outcome kind detail : Nat) : State :=
  match l.src with
  | .ring r pos ioff =>
    if l.thaw.isSome then s else s.pushRecord l.ld l.queue (recordDwords outcome kind 1 r.val pos ioff s.pack.time)
  | .ticket g team e seq => s.setStatus g team e seq (statusWord outcome kind 0 detail)

/-- The THAW that restored a launch learns its outcome (R414). -/
def FreezeJob.learn (j : FreezeJob) (outcome kind : Nat) : FreezeJob :=
  if outcome = 0 then j else { j with outcome := some (j.outcome.getD (BitVec.ofNat 64 (outcome * 2 ^ 62 + kind * 2 ^ 56))) }

/-- The writes of a launch that completes are performed before its record's: a host launch's have been, for whoever acquires then at system
scope; a child's are from now on among its parent's (R144, R424). -/
def State.writesDone (s : State) (l : Launch) : State :=
  match l.parent with
  | some p => { s with unseen := s.unseen.map fun (u : Unseen) => if u.launch == l.id then { u with launch := p } else u }
  | none => { s with unseen := s.unseen.filter fun u => u.launch != l.id }.releaseHost l.ld

/-- A launch ends with a status. -/
def State.endLaunch (s : State) (l : Launch) (outcome kind detail : Nat) : State :=
  let s := (s.writesDone l).reportLaunch l outcome kind detail
  { s with
    launches := s.launches.filter fun m => m.id ≠ l.id
    jobs := s.jobs.map fun (j : FreezeJob) => if l.thaw = some j.id then j.learn outcome kind else j }

/-- LAUNCH_COMPLETE: a host launch ends and its record is queued (R396, R397). Subject: the launch. -/
def execLaunchComplete (s : State) : Host.Outcome State Fault Refusal :=
  match s.launch? s.arg.num with
  | none => .next s
  | some l =>
    let (o, k, d) := l.result
    .next (if s.launchDone l && l.parent.isNone then s.endLaunch l o k d else s)

/-- CHILD_LAUNCH_COMPLETE: a child grid and its children have completed, and its ticket takes the status (R306). Subject: the
launch. -/
def execChildLaunchComplete (s : State) : Host.Outcome State Fault Refusal :=
  match s.launch? s.arg.num with
  | none => .next s
  | some l =>
    let (o, k, d) := l.result
    .next (if s.launchDone l && l.parent.isSome then s.endLaunch l o k d else s)

end Sys2Proof.Machine
end

