-- ==== Sys2Proof/Machine/Queues.lean ====
section
/-! DEFINITION. Rings, logical queues, the merge units, the dispatcher's choice, completion records and the coalescers
(R380 to R399). -/

namespace Sys2Proof.Machine

open Sys2Proof

/-- A logical device runs: in safe harbour only the first does (R8). -/
def State.deviceRuns (s : State) (ld : Fin 4) : Bool := !s.pack.safe || ld == 0

/-- A device's registers take commands: its function is presented, and no recovery service stands in its place (R8, R431, R432). -/
def State.serves (s : State) (ld : Fin 4) : Bool :=
  s.deviceRuns ld && (s.pack.stage == .rom || s.pack.stage == .running || s.pack.stage == .ready)

/-- A command to a device's registers: without effect where they take none. -/
def State.onDevice (s : State) (f : State → State) : Host.Outcome State Fault Refusal :=
  .next (if s.serves s.arg.ld then f s else s)

/-! ### Tables in host memory (R380) -/

/-- The dwords of a table entry in host memory. -/
def State.hostDwords (s : State) (addr n : Nat) : List DWord := dwordsOf (s.hostRead addr (8 * n))

/-- Bytes of a dword. -/
def dwordBytes (x : Nat) : List Byte := toBytes 8 x

/-- The host address of a ring's entry. -/
def State.ringEntry (s : State) (ld : Fin 4) (r : Nat) : Nat := s.devices[ld].rtBase.toNat + 32 * r

/-- The host address of a queue's entry. -/
def State.queueEntry (s : State) (ld : Fin 4) (q : Nat) : Nat := s.devices[ld].qtBase.toNat + 64 * q

/-- The entry of a ring is well formed (R380). -/
def ringEntryOk (d : List DWord) : Bool :=
  bits (dw d 0) 37 26 == 0 && decide (2 ≤ bits (dw d 0) 0 32 ∧ bits (dw d 0) 0 32 ≤ 2 ^ 24) && bits (dw d 1) 0 6 == 0 &&
    bits (dw d 2) 48 16 == 0 && bits (dw d 3) 48 16 == 0

/-- The entry of a queue is well formed (R380). -/
def queueEntryOk (d : List DWord) : Bool :=
  let d2 := dw d 2
  bits (dw d 0) 59 4 == 0 && bits (dw d 0) 40 4 == 0 && bits (dw d 1) 0 6 == 0 && bits d2 5 3 == 0 && bits d2 26 6 == 0 &&
    bits d2 43 21 == 0 && decide (4 ≤ bits d2 0 5 ∧ bits d2 0 5 ≤ 16) && decide (1 ≤ bits d2 8 8) &&
    decide (1 ≤ bits d2 16 10) && bits (dw d 3) 32 32 == 0 && (d.drop 4).all (· == 0)

/-- A ring of a device. -/
def State.ring (s : State) (ld : Fin 4) (r : Nat) : Option Ring := getBy r s.devices[ld].rings

/-- A ring changed. -/
def State.setRing (s : State) (ld : Fin 4) (r : Nat) (x : Ring) : State :=
  s.setDev ld { s.devices[ld] with rings := putBy r x s.devices[ld].rings }

/-- DSTAT.BADCMD (R399). -/
def State.badCmd (s : State) (ld : Fin 4) : State := s.setDev ld { s.devices[ld] with cmdBad := true }

/-- A ring's positions are written to its table entry (R380). -/
def State.writeRing (s : State) (ld : Fin 4) (r : Nat) (x : Ring) : State :=
  (s.setRing ld r x).hostWrite (s.ringEntry ld r + 16) (dwordBytes x.rpos ++ dwordBytes x.segStart)

/-- A ring as RLOAD leaves it: positions start at 0 when it is enabled; a new segment begins where the ring stands (R380,
R381, log entry 30). -/
def loadRing (old : Option Ring) (d : List DWord) : Ring :=
  let base := bits (dw d 1) 6 58 * 64
  let units := bits (dw d 0) 0 32
  let fresh : Ring := { en := bit (dw d 0) 63, queue := Fin.ofNat 32 (bits (dw d 0) 32 5), segUnits := units, segBase := base,
                        rpos := 0, segStart := 0, wpos := 0, barrier := false }
  match old with
  | some o =>
    if o.en then { fresh with rpos := o.rpos, wpos := o.wpos
                              segStart := if o.segBase = base ∧ o.segUnits = units then o.segStart else o.rpos }
    else fresh
  | none => fresh

/-- QCMD RLOAD (R380, R399). -/
def State.rload (s : State) (ld : Fin 4) (r : Fin 128) : State :=
  let d := s.hostDwords (s.ringEntry ld r.val) 4
  let old := s.ring ld r.val
  if ringEntryOk d && !(old.any fun o => decide (o.rpos < o.wpos)) then s.writeRing ld r.val (loadRing old d)
  else s.badCmd ld

/-- Every launch that has not completed, those of contexts saved by PREEMPT included. -/
def State.allLaunches (s : State) : List Launch := s.launches ++ s.ctxs.flatMap fun e => e.2.image.elim [] SavedCtx.launches

/-- A launch of a queue has not completed. -/
def State.queueBusy (s : State) (ld : Fin 4) (q : Fin 32) : Bool := s.allLaunches.any fun l => l.ld == ld && l.queue == q

/-- A queue as QLOAD leaves it: enabling it starts its ring of records anew, and the records and the INDIRECT that it has still go on
(R380, R386, R396, R397). -/
def loadQueue (old : LQueue) (d : List DWord) (time : Nat) : LQueue :=
  let prio : Fin 8 := Fin.ofNat 8 (bits (dw d 0) 56 3)
  let kept := if old.en then old else { LQueue.empty with
    waitFrom := time, records := old.records, indirect := old.indirect, heldCount := old.heldCount, heldFrom := old.heldFrom }
  { kept with
    en := bit (dw d 0) 63, prio := prio, asn := BitVec.ofNat 12 (bits (dw d 0) 44 12)
    clmask := BitVec.ofNat 40 (bits (dw d 0) 0 40), cqBase := bits (dw d 1) 6 58 * 64, cqLog := bits (dw d 2) 0 5
    ccount := bits (dw d 2) 8 8, chold := bits (dw d 2) 16 10, vec := bits (dw d 2) 32 11
    effective := if old.en ∧ old.prio = prio then old.effective else prio }

/-- QCMD QLOAD (R380, R399). -/
def State.qload (s : State) (ld : Fin 4) (q : Fin 32) : State :=
  let d := s.hostDwords (s.queueEntry ld q.val) 8
  let old := s.queue ld q
  let new := loadQueue old d s.pack.time
  if queueEntryOk d && !(s.queueBusy ld q && old.asn != new.asn) then
    (s.setQueue ld q new).hostWrite (s.queueEntry ld q.val + 24) (toBytes 4 new.cqHead.toNat)
  else s.badCmd ld

/-- RLOAD (R380). Subject: the device and the ring. -/
def execRload (s : State) : Host.Outcome State Fault Refusal := s.onDevice fun s => s.rload s.arg.ld s.arg.ring

/-- QLOAD (R380). Subject: the device and the queue. -/
def execQload (s : State) : Host.Outcome State Fault Refusal := s.onDevice fun s => s.qload s.arg.ld s.arg.queue

/-! ### Packets in a ring (R382, R384) -/

/-- What a packet is. -/
inductive Pkt
  | nop
  | launch (p : Packet)
  | link (ret : Bool) (base units : Nat)
  | barrier
  | indirect (addr units : Nat)
  | freeze (thaw : Bool) (d : List DWord)
  /-- completes FAILED with kind BADPKT -/
  | bad
  deriving DecidableEq, Repr

/-- Units that a packet's header gives it (R384). -/
def unitsOf (h : Nat) : Nat := max 1 (bits h 8 4)

/-- The fields of a FREEZE or THAW packet are in range (R384, R409). -/
def freezeOk (d : List DWord) : Bool :=
  bits (dw d 1) 12 49 == 0 && (d.drop 4).all (· == 0) &&
    (if bit (dw d 1) 61 then bits (dw d 3) 48 16 == 0 else bits (dw d 2) 0 12 == 0)

/-- A packet of whole units decoded (R384, R388): `dep` says that a LAUNCH may name a dependency. -/
def Pkt.parse (d : List DWord) (dep : Bool) : Pkt :=
  let h := dw d 0
  let plain := bits h 8 4 == 1 && h / 2 ^ 12 == 0
  let zeroFrom := fun (i : Nat) => (d.drop i).all (· == 0)
  match bits h 0 8 with
  | 0 => if plain && zeroFrom 1 then .nop else .bad
  | 1 => match Packet.parse d dep with
    | some p => .launch p
    | none => .bad
  | 2 =>
    let units := bits (dw d 2) 0 32
    if plain && bits (dw d 1) 0 6 == 0 && bits (dw d 2) 32 31 == 0 && decide (2 ≤ units ∧ units ≤ 2 ^ 24) && zeroFrom 3 then
      .link (bit (dw d 2) 63) (dw d 1) units
    else .bad
  | 3 => if plain && zeroFrom 1 then .barrier else .bad
  | 4 =>
    let units := bits (dw d 2) 0 32
    if plain && bits (dw d 1) 0 6 == 0 && bits (dw d 1) 48 16 == 0 && bits (dw d 2) 32 32 == 0 &&
        decide (1 ≤ units ∧ units ≤ 2 ^ 20) && zeroFrom 3 then .indirect (dw d 1) units
    else .bad
  | 6 => if plain && freezeOk d then .freeze false d else .bad
  | 7 => if plain && freezeOk d then .freeze true d else .bad
  | _ => .bad

/-- The host address of the unit at a ring's position (R382). -/
def Ring.unitAt (x : Ring) (p : Nat) : Nat := x.segBase + 64 * (p - x.segStart)

/-- The position at which a ring's segment ends. -/
def Ring.segEnd (x : Ring) : Nat := x.segStart + x.segUnits

/-- A ring moves to a position, and back to its segment's base at the segment's end (R382). -/
def Ring.moveTo (x : Ring) (p : Nat) : Ring :=
  if x.segEnd ≤ p then { x with rpos := x.segEnd, segStart := x.segEnd, barrier := false }
  else { x with rpos := p, barrier := false }

/-- The packet at a ring's head: its units, and what it is, malformed where it passes the segment's end; none while a unit of
it is not below WPOS (R381, R382, R384). A BARRIER that a visit has passed over has been read (R381). -/
def State.headPacket (s : State) (x : Ring) : Option (Nat × Nat × Pkt) :=
  if x.en && x.barrier then some (1, 3, .barrier)
  else if x.en && decide (x.rpos < x.wpos) then
    let h := s.hostDword (x.unitAt x.rpos)
    let n := unitsOf h
    if x.segEnd < x.rpos + n then (if x.segEnd ≤ x.wpos then some (x.segEnd - x.rpos, bits h 0 8, .bad) else none)
    else if x.rpos + n ≤ x.wpos then some (n, bits h 0 8, Pkt.parse (s.hostDwords (x.unitAt x.rpos) (8 * n)) true)
    else none
  else none

/-! ### The merge (R385) -/

/-- What a merge unit can do next. -/
inductive Offer
  | barriers
  | ring (r : Nat)
  | inner
  deriving DecidableEq, Repr

/-- The enabled rings of a queue, in visiting order: from the one after the last visited, wrapping (R385). -/
def State.ringsOf (s : State) (ld : Fin 4) (q : Fin 32) (last : Nat) : List (Nat × Ring) :=
  let mine := s.devices[ld].rings.filter fun e => e.2.en && e.2.queue == q
  (mine.filter fun e => decide (last < e.1)) ++ mine.filter fun e => decide (e.1 ≤ last)

/-- A ring's head is a well-formed BARRIER. -/
def State.atBarrier (s : State) (x : Ring) : Bool := (s.headPacket x).any fun h => h.2.2 == .barrier

/-- The read of a queue's INDIRECT buffer awaits an answer (R340, R395). -/
def State.indirectParked (s : State) (ld : Fin 4) (q : Fin 32) : Bool := s.devices[ld].faults.any fun r => r.owner == .indirect ld q

/-- What the merge unit of a queue offers (R385, R395). -/
def State.offer (s : State) (ld : Fin 4) (q : Fin 32) : Option Offer :=
  let x := s.queue ld q
  if x.indirect.isSome then (if s.indirectParked ld q then none else some .inner)
  else
    let rings := s.ringsOf ld q x.lastRing
    if !rings.isEmpty && rings.all fun e => s.atBarrier e.2 then some .barriers
    else (rings.find? fun e => (s.headPacket e.2).isSome && !s.atBarrier e.2).map fun e => .ring e.1

/-! ### Admission (R389, R390) -/

/-- A dependency names a ring that is disabled, or a position that is not yet taken (R390). -/
def State.depAhead (s : State) (ld : Fin 4) (dep : Option (Fin 128 × Nat)) : Bool :=
  dep.any fun (r, pos) => !(s.ring ld r.val).any fun x => x.en && decide (pos < x.rpos)

/-- The dependency of a launch is met: every launch at or below its position has ended, and those of the INDIRECT packets there; where it
was named ahead, every other command there too (R390). One that a THAW has restored ended when it was frozen (R412). -/
def State.depMet (s : State) (m : Launch) : Bool :=
  match m.pkt.dep with
  | none => true
  | some (r, pos) =>
    let ld := m.ld
    (s.ring ld r.val).any (fun x => decide (pos < x.rpos)) &&
      !(s.allLaunches.any fun l => l.ld == ld && l.thaw.isNone && match l.src with
        | .ring k p _ => k == r && decide (p ≤ pos)
        | .ticket .. => false) &&
      !(s.devices[ld].queues.any fun e => e.2.indirect.any fun i => i.ring == r && decide (i.pos ≤ pos)) &&
      !(m.depWide && s.jobs.any fun j => j.ld == ld && j.ring == r && decide (j.pos ≤ pos))

/-- The launch of a queue that is taken and not admitted. -/
def State.unadmitted (s : State) (ld : Fin 4) (q : Fin 32) : Option Launch :=
  s.launches.find? fun l => l.ld == ld && l.queue == q && !l.admitted

/-- The launch of a queue whose team is next to be placed: the first admitted with one left, else a superstep launch that
waits for its placement (R389). -/
def State.nextLaunch (s : State) (ld : Fin 4) (q : Fin 32) : Option Launch :=
  match s.launches.find? fun l => l.ld == ld && l.queue == q && l.admitted && !l.ended with
  | some l => some l
  | none => (s.unadmitted ld q).filter fun l => l.pkt.superstep && !l.ended && s.depMet l

/-! ### The dispatcher's choice (R386) -/

/-- A context whose groups may be placed: it is not being saved, saved or frozen (R407, R409). -/
def State.ctxServed (s : State) (ld : Fin 4) (asn : Asn) : Bool :=
  match (s.ctx ld asn).state with
  | .stopping | .saved | .frozen => false
  | _ => true

/-- A queue may be served: its device runs, it is enabled and not paused, and its context runs. -/
def State.queueOpen (s : State) (ld : Fin 4) (x : LQueue) : Bool := s.deviceRuns ld && x.en && !x.paused && s.ctxServed ld x.asn

/-- The state after the queue's next placement, none when it has none or it does not fit (R391). -/
def State.placement (s : State) (ld : Fin 4) (q : Fin 32) : Option State := do
  let l ← s.nextLaunch ld q
  s.placeNext (s.queue ld q) l

/-- The queue has a packet that it may take (R389). -/
def State.canTake (s : State) (ld : Fin 4) (q : Fin 32) : Bool := (s.unadmitted ld q).isNone && (s.offer ld q).isSome

/-- A queue is ready (R386). -/
def State.queueReady (s : State) (ld : Fin 4) (q : Fin 32) : Bool :=
  s.queueOpen ld (s.queue ld q) && ((s.offer ld q).isSome || (s.nextLaunch ld q).isSome)

/-- One queue is served before another (R386). -/
def servedBefore (a b : Nat × LQueue) : Bool :=
  if a.2.effective ≠ b.2.effective then decide (b.2.effective < a.2.effective)
  else if a.2.waitFrom ≠ b.2.waitFrom then decide (a.2.waitFrom < b.2.waitFrom)
  else decide (a.1 < b.1)

/-- The queue to be served, and whether by placing (R386). -/
def State.serveChoice (s : State) (ld : Fin 4) : Option (Fin 32 × Bool) :=
  let able := s.devices[ld].queues.filter fun e =>
    let q := Fin.ofNat 32 e.1
    s.queueOpen ld e.2 && ((s.placement ld q).isSome || s.canTake ld q)
  let best := able.foldl (fun (b : Option (Nat × LQueue)) e => match b with
    | none => some e
    | some b => if servedBefore e b then some e else some b) none
  best.map fun e => (Fin.ofNat 32 e.1, (s.placement ld (Fin.ofNat 32 e.1)).isSome)

/-- A queue has been served: its priority and its wait start again (R386). -/
def State.served (s : State) (ld : Fin 4) (q : Fin 32) : State :=
  let x := s.queue ld q
  s.setQueue ld q { x with effective := x.prio, waitFrom := s.pack.time, aged := 0 }

/-- An admitted launch of a device with a team still to place that would not fit even on empty clusters and in empty pools (R391). -/
def State.hopeless (s : State) (ld : Fin 4) : Option Launch :=
  s.launches.find? fun l => l.ld == ld && l.admitted && !l.ended && !launchFits s.devices[ld] (s.queue ld l.queue) l.pkt

/-- TEAM_PLACE: a launch whose next team can never fit fails with kind NOFIT, and ends with the teams that it has; else the queue to be
served places its next team, or the grid of a superstep child (R386, R391). Subject: the device. -/
def execTeamPlace (s : State) : Host.Outcome State Fault Refusal :=
  let ld := s.arg.ld
  match s.hopeless ld with
  | some l => .next (s.setLaunch { l with failed := some (9, 0) })
  | none =>
  match s.serveChoice ld with
  | some (q, true) =>
    match s.nextLaunch ld q, s.placement ld q with
    | some l, some t => .next (if l.admitted then t.served ld q else s)
    | _, _ => .next s
  | _ => .next s

/-- A launch takes its place among the admitted launches (R389). -/
def State.letIn (s : State) (id : Nat) : State :=
  match s.launch? id with
  | none => s
  | some l => { s with launches := s.launches.filter (fun m => m.id ≠ id) ++ [{ l with admitted := true }] }

/-- LAUNCH_ADMIT: a launch whose dependency is met is admitted; a superstep grid is placed whole at that moment; one that
cannot fit fails (R25, R389 to R391). Subject: the launch. -/
def execLaunchAdmit (s : State) : Host.Outcome State Fault Refusal :=
  match s.launch? s.arg.num with
  | none => .next s
  | some l =>
    if l.admitted || !s.depMet l then .next s
    else if !launchFits s.devices[l.ld] (s.queue l.ld l.queue) l.pkt then .next (s.endLaunch l 1 9 0)
    else if !l.pkt.superstep then .next (s.letIn l.id)
    else match s.serveChoice l.ld, s.nextLaunch l.ld l.queue, s.placement l.ld l.queue with
      | some (q, true), some m, some t => .next (if q = l.queue ∧ m.id = l.id then (t.served l.ld q).letIn l.id else s)
      | _, _, _ => .next s

/-! ### Taking packets -/

/-- FREEZE and THAW jobs of a queue. -/
def newJob (s : State) (ld : Fin 4) (queue : Fin 32) (ring : Fin 128) (pos : Nat) (ioff : Option Nat) (thaw : Bool)
    (d : List DWord) : FreezeJob :=
  { id := s.nextId, ld := ld, queue := queue, ring := ring, pos := pos, ioff := ioff, thaw := thaw, all := bit (dw d 1) 63
    rewind := bit (dw d 1) 62, fab := bit (dw d 1) 61, asn := BitVec.ofNat 12 (dw d 1), addr := d.getD 2 0, cap := d.getD 3 0
    restored := 0, outcome := none, started := false }

/-- What a packet is in a queue: a system queue, of ASN 0, carries no LAUNCH, and any other no FREEZE or THAW (R401). -/
def Pkt.onQueue (p : Pkt) (asn : Asn) : Pkt :=
  match p with
  | .launch _ => if asn = 0 then .bad else p
  | .freeze .. => if asn = 0 then p else .bad
  | _ => p

/-- A packet taken from a ring position, or from an INDIRECT buffer: its command begins, or its record is queued. -/
def State.takePacket (s : State) (ld : Fin 4) (q : Fin 32) (ring : Fin 128) (pos : Nat) (ioff : Option Nat) (type : Nat)
    (p : Pkt) : State :=
  match p.onQueue (s.queue ld q).asn with
  | .nop | .barrier | .link .. => s
  | .launch p =>
    let l := { newLaunch s ld (s.queue ld q).asn q (.ring ring pos ioff) none 0 p false with depWide := s.depAhead ld p.dep }
    { s with launches := s.launches ++ [l], nextId := s.nextId + 1 }
  | .indirect addr units =>
    let x := s.queue ld q
    s.setQueue ld q { x with indirect := some ⟨ring, pos, BitVec.ofNat 48 addr, units, 0⟩ }
  | .freeze thaw d => { s with jobs := s.jobs ++ [newJob s ld q ring pos ioff thaw d], nextId := s.nextId + 1 }
  | .bad => s.pushRecord ld q (recordDwords 1 8 type ring.val pos ioff s.pack.time)

/-- A ring after the packet at its head: a LINK continues with its new segment, and returns the old one (R383). -/
def State.passHead (s : State) (ld : Fin 4) (r : Nat) (x : Ring) (n : Nat) : Pkt → State
  | .link ret base units =>
    let s := s.writeRing ld r { x with rpos := x.rpos + n, segStart := x.rpos + n, segBase := base, segUnits := units, barrier := false }
    if ret then s.setDev ld { s.devices[ld] with segments := s.devices[ld].segments ++ [(x.segBase, x.segUnits)] } else s
  | _ => s.writeRing ld r (x.moveTo (x.rpos + n))

/-- The rings that a visit passes over before it takes a ring's packet: a BARRIER at their head has been read (R381, R385). -/
def State.passOver (s : State) (ld : Fin 4) (q : Fin 32) (r : Nat) : State :=
  let visited := (s.ringsOf ld q (s.queue ld q).lastRing).takeWhile fun e => e.1 != r
  visited.foldl (fun s e => if s.atBarrier e.2 then s.setRing ld e.1 { e.2 with barrier := true } else s) s

/-- The merge takes the packet at a ring's head. -/
def State.takeRing (s : State) (ld : Fin 4) (q : Fin 32) (r : Nat) : State :=
  match s.ring ld r with
  | none => s
  | some x =>
    match s.headPacket x with
    | none => s
    | some (n, type, p) =>
      let s := (s.passOver ld q r).passHead ld r x n p
      let s := s.setQueue ld q { s.queue ld q with lastRing := r }
      (s.takePacket ld q (Fin.ofNat 128 r) x.rpos none type p).served ld q

/-- Every ring of the queue passes the BARRIER at its head (R385). -/
def State.passBarriers (s : State) (ld : Fin 4) (q : Fin 32) : State :=
  (s.ringsOf ld q 127).foldl (fun s e => State.passHead s ld e.1 e.2 1 .barrier) s

/-- An INDIRECT ends with a status; a record of its refused read becomes void (R395). -/
def State.endIndirect (s : State) (ld : Fin 4) (q : Fin 32) (i : Indirect) (outcome kind : Nat) : State :=
  let s := s.voidRecords ld fun o => o == .indirect ld q
  let s := s.setQueue ld q { s.queue ld q with indirect := none }
  s.pushRecord ld q (recordDwords outcome kind 4 i.ring.val i.pos none s.pack.time)

/-- A refused read of an INDIRECT buffer is parked until it is answered (R340, R360, R395; log entry 31). -/
def State.parkIndirect (s : State) (ld : Fin 4) (q : Fin 32) (asn : Asn) (reason a : Nat) : State :=
  (s.meetTable ld asn a reason).postFault ld
    { seq := none, type := 1, asn := asn, owner := .indirect ld q, held := none
      dwords := faultDwords 1 Kind.xlate.code reason asn (accessBits .load 6) a 1 0 (ld.val * 2 ^ 30) 0 0 0 none s.pack.time
        (BitVec.ofNat 64 a) }

/-- The dwords of some units of an INDIRECT buffer, read in the queue's context, or the state in which the read has been refused, or has
met poison, which ends the INDIRECT FAILED with kind POISON (R395; log entry 31). -/
def State.indirectUnits (s : State) (ld : Fin 4) (q : Fin 32) (i : Indirect) (n : Nat) : Except State (State × List DWord) :=
  let asn := (s.queue ld q).asn
  let r : Req := { ld := ld, asn := asn, priv := .user, kind := .load }
  let a := (i.addr.toNat + 64 * i.next) % 2 ^ 48
  match s.places r a (64 * n) with
  | .error why => .error (s.parkIndirect ld q asn why (s.refusedAt r a (64 * n)))
  | .ok (s, ps) =>
    match s.readPlaces ps with
    | (_, some _) => .error (s.endIndirect ld q i 1 1)
    | (bs, none) => .ok (s, dwordsOf bs)

/-- What an inner packet is: LINK, BARRIER and INDIRECT are malformed there (R395). -/
def Pkt.inner : Pkt → Pkt
  | .link .. | .barrier | .indirect .. => .bad
  | p => p

/-- The merge takes the next packet of an INDIRECT buffer (R395). -/
def State.takeInner (s : State) (ld : Fin 4) (q : Fin 32) (i : Indirect) : State :=
  match s.indirectUnits ld q i 1 with
  | .error s => s
  | .ok (s, d) =>
    let h := dw d 0
    let n := unitsOf h
    let fits := decide (i.next + n ≤ i.units)
    match (if fits then s.indirectUnits ld q i n else .ok (s, d)) with
    | .error s => s
    | .ok (s, d) =>
      let p := if fits then (Pkt.parse d false).inner else .bad
      let next := if fits then i.next + n else i.units
      let s := s.takePacket ld q i.ring i.pos (some i.next) (bits h 0 8) p
      let s := if i.units ≤ next then s.endIndirect ld q i 0 0
        else s.setQueue ld q { s.queue ld q with indirect := some { i with next := next } }
      s.served ld q

/-! ### Doorbells, ageing, records, interrupts and returned segments -/

/-- DOORBELL: a position below the last is ignored (R381). Subject: the device, the ring and the position. -/
def execDoorbell (s : State) : Host.Outcome State Fault Refusal :=
  let ld := s.arg.ld
  match s.ring ld s.arg.ring.val with
  | none => .next s
  | some x =>
    if s.serves ld && x.en && decide (x.wpos ≤ s.arg.value.toNat) then
      .next (s.setRing ld s.arg.ring.val { x with wpos := s.arg.value.toNat })
    else .next s

/-- CQ_CONSUMED_WRITE (R397). Subject: the device, the queue and the count. -/
def execCqConsumedWrite (s : State) : Host.Outcome State Fault Refusal :=
  s.onDevice fun s => s.setQueue s.arg.ld s.arg.queue
    { s.queue s.arg.ld s.arg.queue with consumed := BitVec.ofNat 32 s.arg.value.toNat }

/-- Nanoseconds pass: a queue that is ready meanwhile and is not served ages by them, unless ageing is off (R386). -/
def State.ageQueues (s : State) (ns : Nat) : State :=
  (List.finRange 4).foldl (fun (s : State) (ld : Fin 4) =>
    let older := fun (e : Nat × LQueue) =>
      if s.devices[ld].ageUs ≠ 0 ∧ s.queueReady ld (Fin.ofNat 32 e.1) then (e.1, { e.2 with aged := e.2.aged + ns }) else e
    s.setDev ld { s.devices[ld] with queues := s.devices[ld].queues.map older }) s

/-- AGE_TICK: an interval of readiness without service has passed (R386). Subject: the device and the queue. -/
def execAgeTick (s : State) : Host.Outcome State Fault Refusal :=
  let ld := s.arg.ld
  let q := s.arg.queue
  let x := s.queue ld q
  let step := s.devices[ld].ageUs.toNat * 1000
  if step ≠ 0 ∧ step ≤ x.aged then
    .next (s.setQueue ld q { x with effective := if x.effective = 7 then 7 else x.effective + 1, aged := x.aged - step })
  else .next s

/-- A coalescer releases: its vector is sent, and it holds nothing (R398). -/
def State.releaseCoalescer (s : State) (ld : Fin 4) (q : Fin 32) : State :=
  let x := s.queue ld q
  let s := s.setQueue ld q { x with heldCount := 0 }
  s.setDev ld { s.devices[ld] with interrupts := s.devices[ld].interrupts ++ [x.vec] }

/-- The completion ring of a queue has room (R397). -/
def LQueue.room (x : LQueue) : Bool := decide ((x.cqHead - x.consumed).toNat < 2 ^ x.cqLog)

/-- COMPLETION_RECORD_WRITE (R397, R398). Subject: the device and the queue. -/
def execCompletionRecordWrite (s : State) : Host.Outcome State Fault Refusal :=
  let ld := s.arg.ld
  let q := s.arg.queue
  let x := s.queue ld q
  match x.records with
  | [] => .next s
  | r :: rest =>
    if x.room then
      let at_ := x.cqBase + 32 * (x.cqHead.toNat % 2 ^ x.cqLog)
      let s := s.hostWrite at_ (r.dwords.flatMap fun d => dwordBytes d.toNat)
      let y := { x with cqHead := x.cqHead + 1, records := rest, heldCount := x.heldCount + 1
                        heldFrom := if x.heldCount = 0 then s.pack.time else x.heldFrom }
      let s := (s.setQueue ld q y).hostWrite (s.queueEntry ld q.val + 24) (toBytes 4 y.cqHead.toNat)
      .next (if y.ccount ≤ y.heldCount then s.releaseCoalescer ld q else s)
    else .next s

/-- COALESCER_HOLD_EXPIRE (R398). Subject: the device and the queue. -/
def execCoalescerHoldExpire (s : State) : Host.Outcome State Fault Refusal :=
  let x := s.queue s.arg.ld s.arg.queue
  .next (if 0 < x.heldCount ∧ x.heldFrom + x.chold * 1000 ≤ s.pack.time then s.releaseCoalescer s.arg.ld s.arg.queue else s)

/-- SEGMENT_RETURN: the oldest finished segment goes to the free list once it has room (R383). Subject: the device. -/
def execSegmentReturn (s : State) : Host.Outcome State Fault Refusal :=
  let ld := s.arg.ld
  let d := s.devices[ld]
  match d.segments with
  | [] => .next s
  | (base, units) :: rest =>
    let size := 2 ^ d.flCfg.toNat
    if (d.flHead - d.flTail).toNat < size then
      let s := s.setDev ld { d with segments := rest, flHead := d.flHead + 1 }
      .next (s.hostWrite (d.flBase.toNat + 16 * (d.flHead.toNat % size)) (dwordBytes base ++ dwordBytes units))
    else .next s

/-! ### QCMD (R399) -/

/-- QUEUE_PAUSE (R399). Subject: the device and the queue. -/
def execQueuePause (s : State) : Host.Outcome State Fault Refusal :=
  s.onDevice fun s => s.setQueue s.arg.ld s.arg.queue { s.queue s.arg.ld s.arg.queue with paused := true }

/-- QUEUE_RESUME (R399). Subject: the device and the queue. -/
def execQueueResume (s : State) : Host.Outcome State Fault Refusal :=
  s.onDevice fun s => s.setQueue s.arg.ld s.arg.queue { s.queue s.arg.ld s.arg.queue with paused := false }

/-- The types that produce a record (R385, R397). -/
def Pkt.records (p : Pkt) : Bool :=
  match p with
  | .nop | .barrier | .link .. => false
  | _ => true

/-- Every packet of a ring below WPOS is cancelled, in order (R399). -/
def State.cancelRing (s : State) (ld : Fin 4) (q : Fin 32) (r : Nat) : Nat → State
  | 0 => s
  | fuel + 1 =>
    match s.ring ld r with
    | none => s
    | some x =>
      match s.headPacket x with
      | none => s
      | some (n, type, p) =>
        let s := s.passHead ld r x n p
        let s := if p.records then s.pushRecord ld q (recordDwords 3 0 type r x.rpos none s.pack.time) else s
        State.cancelRing s ld q r fuel

/-- QCMD CANCEL: what is taken and not admitted, then what is not yet taken, completes CANCELLED (R399). -/
def State.cancelQueue (s : State) (ld : Fin 4) (q : Fin 32) : State :=
  let s := match s.unadmitted ld q with
    | some l => s.endLaunch l 3 0 0
    | none => s
  let s := match (s.queue ld q).indirect with
    | some i => s.endIndirect ld q i 3 0
    | none => s
  (s.ringsOf ld q (s.queue ld q).lastRing).foldl (fun s e => State.cancelRing s ld q e.1 (e.2.wpos - e.2.rpos)) s

/-- QUEUE_CANCEL (R399). Subject: the device and the queue. -/
def execQueueCancel (s : State) : Host.Outcome State Fault Refusal := s.onDevice fun s => s.cancelQueue s.arg.ld s.arg.queue

/-- A write of QCMD (R399): OP codes from 5 on set BADCMD; a ring or queue number is taken as the operation's table is
long. -/
def State.qcmd (s : State) (ld : Fin 4) (x : DWord) : State :=
  let n := bits x.toNat 0 7
  let q : Fin 32 := Fin.ofNat 32 n
  let onQueue := fun (f : State → Host.Outcome State Fault Refusal) =>
    if n < 32 then
      match f { s with arg := { s.arg with ld := ld, queue := q } } with
      | .next t => { t with arg := s.arg }
      | _ => s
    else s.badCmd ld
  match bits x.toNat 60 4 with
  | 0 => onQueue execQueuePause
  | 1 => onQueue execQueueResume
  | 2 => onQueue execQueueCancel
  | 3 => s.rload ld (Fin.ofNat 128 n)
  | 4 => if n < 32 then s.qload ld q else s.badCmd ld
  | _ => s.badCmd ld

end Sys2Proof.Machine
end

