-- ==== Sys2Proof/Machine/Faults.lean ====
section
/-! DEFINITION. The fault buffer and its commands, generator faults, purges, leases, arriving accesses, and memory errors
(R340 to R347, R364 to R379, R424, R443). -/

namespace Sys2Proof.Machine

open Sys2Proof

/-! ### Writing entries (R369) -/

/-- The fault buffer has room (R369). -/
def Device.fbRoom (d : Device) : Bool := decide ((d.fbHead - d.fbTail).toNat < 2 ^ d.fbCfg.toNat)

/-- The records of a device, the first unwritten one replaced or removed. -/
def dropUnwritten (f : FaultRec → Option FaultRec) (pick : FaultRec → Bool) : List FaultRec → List FaultRec
  | [] => []
  | r :: rest => if pick r then (f r).toList ++ rest else r :: dropUnwritten f pick rest

/-- A level G entry names its sequence number to its Pilot (R406). -/
def State.noteEntry (s : State) (r : FaultRec) (seq : Word) : State :=
  match r.owner with
  | .generator cl =>
    let p := (s.cluster cl).pilot
    s.setPilot cl { p with fault := p.fault.map fun e => (e.1, seq) }
  | _ => s

/-- FAULT_ENTRY_WRITE: the oldest unwritten record is written while there is room; with none, an error record is counted in
ERRLOST and dropped, and every other record waits (R369). An entry of a context wakes its groups at IDLE (R332). Subject: the
device. -/
def execFaultEntryWrite (s : State) : Host.Outcome State Fault Refusal :=
  let ld := s.arg.ld
  let d := s.devices[ld]
  if d.fbRoom then
    match d.faults.find? fun r => r.seq.isNone with
    | none => .next s
    | some r =>
      let seq := d.fbHead
      let dwords := match r.dwords with
        | [] => []
        | x :: rest => BitVec.ofNat 64 (seq.toNat * 2 ^ 32 + x.toNat % 2 ^ 32) :: rest
      let keep := fun (r : FaultRec) =>
        if 5 ≤ r.type.val then none else some { r with seq := some seq, dwords := dwords }
      let s := s.physWrite ld (d.fbBase.toNat + 64 * (seq.toNat % 2 ^ d.fbCfg.toNat)) (dwords.flatMap fun x => dwordBytes x.toNat)
      let s := s.setDev ld { s.devices[ld] with
        fbHead := seq + 1, faults := dropUnwritten keep (fun r => r.seq.isNone) s.devices[ld].faults }
      .next ((s.noteEntry r seq).rouse ld r.asn)
  else
    let lost := fun (r : FaultRec) => r.seq.isNone && r.type == 6
    if d.faults.any lost then
      .next (s.setDev ld { d with errLost := d.errLost + 1, faults := dropUnwritten (fun _ => none) lost d.faults })
    else .next s

/-! ### Answers: REPLAY and REFUSE (R341, R443) -/

/-- The copies of an ACP in a list, answered where they are parked. -/
def answerCopies (issue : Nat) (abandon : Bool) (cs : List Copy) : List Copy :=
  cs.map fun c => if c.issue = issue ∧ c.parked.isSome then { c with parked := none, abandoned := abandon } else c

/-- The lowest refused address among the parked copies of an ACP (R443). -/
def lowestRefused (issue : Nat) (cs : List Copy) : Option Nat :=
  cs.foldl (fun b c => if c.issue = issue then (match b, c.parked with
    | some x, some y => some (min x y)
    | none, y => y
    | b, none => b) else b) none

/-- The lowest address at which the copies of an ACP that stand parked in a batch were refused, with the batch, none while it is open. -/
def refusedIn (issue : Nat) (batch : Option Word) (cs : List Copy) : List (Option Word × DWord) :=
  ((lowestRefused issue cs).map fun a => (batch, BitVec.ofNat 64 a)).toList

/-- The copies of an ACP answered in every batch of a group; after REFUSE each batch keeps their lowest refused address, until its
completion is observed (R114, R443). -/
def Batches.answer (b : Batches) (issue : Nat) (abandon : Bool) : Batches :=
  let low := refusedIn issue none b.unsealed ++ b.sealed_.flatMap fun e => refusedIn issue (some e.1) e.2
  { b with
    unsealed := answerCopies issue abandon b.unsealed
    sealed_ := b.sealed_.map fun e => (e.1, answerCopies issue abandon e.2)
    refused := if abandon then low ++ b.refused else b.refused }

/-- Copies that outlived their group, answered (R292). -/
def EngineOp.answer (o : EngineOp) (issue : Nat) (abandon : Bool) : EngineOp :=
  { o with kind := match o.kind with
    | .acp cs => .acp (answerCopies issue abandon cs)
    | k => k }

/-- The copies of an ACP answered, in their group or in the operation that carries them on. -/
def State.answerCopy (s : State) (g : GroupId) (op : Option Nat) (issue : Nat) (abandon : Bool) : State :=
  match op with
  | some id => { s with ops := s.ops.map fun (o : EngineOp) => if o.id = id then o.answer issue abandon else o }
  | none =>
    match s.group? g with
    | none => s
    | some grp => s.setGroup g { grp with batches := grp.batches.answer issue abandon }

/-- A table entry of a cluster, changed. -/
def State.mapEntry (s : State) (cl : ClusterId) (i : Fin 16) (f : TabEntry → TabEntry) : State :=
  let c := s.cluster cl
  s.setCluster cl { c with table := c.table.map fun (e : TabEntry) => if e.index = i then f e else e }

/-- A parked line of a cache is written back again, or dropped (R341, R366). -/
def State.retryLine (s : State) (ld : Fin 4) (asn : Asn) (line : Nat) (again : Bool) : State :=
  let p := fun (l : CacheLine) => l.parked && l.ld == ld && l.asn == asn && l.line == line
  if again then
    (s.lines.filter p).foldl (fun s l =>
      State.evict { s with lines := { l with parked := false } :: s.lines.filter fun x => x != l } { l with parked := false }) s
  else { s with lines := s.lines.filter fun l => !p l }

/-- A Pilot's refused access answered (R341). -/
def State.answerPilot (s : State) (cl : ClusterId) (id : Nat) (x : AccessState) : State :=
  let p := (s.cluster cl).pilot
  s.setPilot cl { p with accesses := p.accesses.map fun a => if a.id = id then { a with state := x } else a }

/-- REPLAY of a record: what waits for it is issued again; the reads of generator images and INDIRECT buffers, and a port's accesses, are
made again once no record of theirs stands (R341). -/
def State.replay (s : State) (r : FaultRec) : State :=
  match r.owner with
  | .group g slices =>
    match s.group? g with
    | none => s
    | some grp => s.setGroup g (grp.mapSlices slices fun sl => if sl.wait = .parked then { sl with wait := .replay slices } else sl)
  | .copy g op n => s.answerCopy g op n false
  | .engine id => { s with ops := s.ops.map fun (o : EngineOp) => if o.id = id then { o with parked := false } else o }
  | .macc cl i => s.mapEntry cl i fun e => { e with parked := false }
  | .pilot cl id => s.answerPilot cl id .again
  | .writeBack ld asn line => s.retryLine ld asn line true
  | .image .. | .generator _ | .indirect .. | .port .. | .record => s

/-- The address of a record. -/
def FaultRec.addr (r : FaultRec) : Nat := bits (dw r.dwords 1) 0 48

/-- The lanes of a refused lane word that are not done; none of a uniform word's (R341). -/
def refusedLanes (grp : Group) (slices : BitVec 8) : LaneMask :=
  if maskHas (grp.lead slices).waitWord.word 31 then 0 else (grp.progressOf slices).left

/-- A group gives up the queue entry that its parked word has reserved (R441). -/
def State.unreserveFor (s : State) (g : GroupId) (slices : BitVec 8) : State :=
  { ({ s with cur := some (.gang g slices) }.unreserve) with cur := s.cur }

/-- An engine operation refused: a STOW traps its group, and any other completes FAILED with kind XLATE (R341, R443). -/
def State.refuseOp (s : State) (o : EngineOp) (addr : Nat) : State :=
  match o.kind with
  | .stow =>
    match s.group? o.g with
    | none => s.finishOp o 0
    | some grp =>
      (s.finishOp o 0).trapWaiting o.g (grp.waiting .stow) { kind := .xlate, val := BitVec.ofNat 64 addr }
  | _ => s.finishOp o (statusWord 1 2 0 0)

/-- REFUSE of a record (R341, R394, R443). -/
def State.refuse (s : State) (r : FaultRec) : State :=
  let val : DWord := BitVec.ofNat 64 r.addr
  match r.owner with
  | .group g slices =>
    match s.group? g with
    | none => s
    | some grp => (s.unreserveFor g slices).trapWaiting g slices { kind := .xlate, lanes := refusedLanes grp slices, val := val }
  | .copy g op n => s.answerCopy g op n true
  | .engine id =>
    match s.ops.find? fun o => o.id == id with
    | some o => s.refuseOp o r.addr
    | none => s
  | .macc cl i =>
    match (s.cluster cl).table.find? fun e => e.index == i with
    | some e => s.trapJoint cl e { kind := .xlate, val := val }
    | none => s
  | .image id cl => s.failImage id cl 2 0
  | .pilot cl id => s.answerPilot cl id .refused
  | .indirect ld q =>
    match (s.queue ld q).indirect with
    | some i => s.endIndirect ld q i 1 2
    | none => s
  | .port p rx =>
    let e := s.pack.eth[p]
    { s with pack := { s.pack with eth := s.pack.eth.set p (if rx then { e with held := none } else { e with txHead := e.txHead + 1 }) } }
  | .writeBack ld asn line => s.retryLine ld asn line false
  | .generator _ | .record => s

/-! ### Generator faults (R347) -/

/-- A Pilot's generator ends at once: its streams become CLOSED (R347). -/
def State.stopPilot (s : State) (cl : ClusterId) : State :=
  let c := s.cluster cl
  s.setCluster cl { c with pilot := Pilot.idle, streams := Vector.replicate 16 EmitStream.closed }

/-- A run of a launch's groups is in progress on some core. -/
def State.inRun (s : State) (launch : Nat) : Bool :=
  s.clusters.any fun e => e.2.runs.toList.any fun r => r.any fun r => (s.group? r.g).any fun grp => grp.launch == launch

/-- The groups of cancelled launches are discarded once they stand at run boundaries (R347). -/
def State.sweep (s : State) : State :=
  s.launches.foldl (fun s l =>
    if l.cancelled && !s.inRun l.id && s.teams.any (fun t => t.launch == l.id && decide (t.retired.length < t.members.length)) then
      s.discardTeams l.id none
    else s) s

/-- A launch is cancelled: its generators end, the streams of those that have ended become CLOSED too, and its groups are discarded
(R347). -/
def State.cancelLaunch (s : State) (id : Nat) : State :=
  match s.launch? id with
  | none => s
  | some l =>
    let s := s.voidRecords l.ld fun o => match o with
      | .pilot cl _ | .generator cl => l.gens.contains cl
      | .image k _ => k == id
      | _ => false
    let s := (l.gens ++ l.gensEnded.filter fun cl => (s.cluster cl).pilot.launch == id).foldl State.stopPilot s
    (s.setLaunch { l with
      cancelled := true, gens := [], genPending := [], gensEnded := l.gens ++ l.genPending ++ l.gensEnded }).sweep

/-- GRESUME: the faulting instruction is executed again, or the refused access is made again (R347). -/
def State.gresume (s : State) (cl : ClusterId) : State :=
  let p := (s.cluster cl).pilot
  s.setPilot cl { p with
    fault := none, accesses := p.accesses.map fun a => if a.state = .faulted then { a with state := .again } else a }

/-- GSKIP: the generator continues after its faulting instruction, or without the refused access (R347). -/
def State.gskip (s : State) (cl : ClusterId) : State :=
  let p := (s.cluster cl).pilot
  if p.accesses.any fun a => a.state == .faulted then
    s.setPilot cl { p with fault := none, accesses := p.accesses.filter fun a => a.state ≠ .faulted }
  else s.setPilot cl { p.advance (isLiteral (s.pilotFetch cl p.pc).word.toNat) with fault := none }

/-! ### FBCMD (R341) -/

/-- A command acts on a record that it suits. -/
def State.answer (s : State) (op : Nat) (r : FaultRec) : State :=
  match op, r.owner with
  | 0, _ => s.replay r
  | 1, _ => s.refuse r
  | 2, .generator cl => s.gresume cl
  | 3, .generator cl => s.gskip cl
  | 4, .generator cl => s.cancelLaunch (s.cluster cl).pilot.launch
  | _, _ => s

/-- A command suits a type of record: REPLAY and REFUSE types 0 to 3, the others level G (R341, R369). -/
def suits (op : Nat) (r : FaultRec) : Bool :=
  if op ≤ 1 then decide (r.type.val ≤ 3) else decide (op ≤ 4) && r.type == 4

/-- A record with a command held for it (R341). -/
def holdCommand (seq : Word) (op : Nat) (rs : List FaultRec) : List FaultRec :=
  rs.map fun r => if r.seq = some seq ∧ suits op r then { r with held := some (Fin.ofNat 16 op) } else r

/-- The records of a context that is saved or frozen: those of its image, or those that it keeps. -/
def Ctx.kept (c : Ctx) : List FaultRec := (c.image.elim [] SavedCtx.faults) ++ c.records

/-- The context saved or frozen on a device whose record has a sequence number. -/
def State.savedRecord (s : State) (ld : Fin 4) (op : Nat) (seq : Word) : Option Nat :=
  (s.ctxs.find? fun e => e.1 / 4096 == ld.val && e.2.kept.any fun r => r.seq == some seq && suits op r).map Prod.fst

/-- A command is held for a record of a context that is saved or frozen (R341, R408). -/
def Ctx.hold (c : Ctx) (seq : Word) (op : Nat) : Ctx :=
  { c with image := c.image.map fun i => { i with faults := holdCommand seq op i.faults }, records := holdCommand seq op c.records }

/-- A write of FBCMD: the command acts, is held while the context is stopped, or sets BADCMD (R341). -/
def State.fbcmd (s : State) (ld : Fin 4) (op : Nat) (seq : Word) : State :=
  let d := s.devices[ld]
  match d.faults.find? fun r => r.seq == some seq && suits op r with
  | some r =>
    if (s.ctx ld r.asn).state = .stopping then s.setDev ld { d with faults := holdCommand seq op d.faults }
    else (s.setDev ld { d with faults := d.faults.filter fun x => x.seq ≠ some seq }).answer op r
  | none =>
    match s.savedRecord ld op seq with
    | some k => { s with ctxs := s.ctxs.map fun e => if e.1 = k then (e.1, e.2.hold seq op) else e }
    | none => s.setDev ld { d with fbBad := true }

/-- REPLAY (R341). Subject: the device and the entry. -/
def execReplay (s : State) : Host.Outcome State Fault Refusal := s.onDevice fun s => s.fbcmd s.arg.ld 0 (BitVec.ofNat 32 s.arg.num)
/-- REFUSE (R341). Subject: the device and the entry. -/
def execRefuse (s : State) : Host.Outcome State Fault Refusal := s.onDevice fun s => s.fbcmd s.arg.ld 1 (BitVec.ofNat 32 s.arg.num)
/-- GRESUME (R347). Subject: the device and the entry. -/
def execGresume (s : State) : Host.Outcome State Fault Refusal :=
  s.onDevice fun s => s.fbcmd s.arg.ld 2 (BitVec.ofNat 32 s.arg.num)
/-- GSKIP (R347). Subject: the device and the entry. -/
def execGskip (s : State) : Host.Outcome State Fault Refusal := s.onDevice fun s => s.fbcmd s.arg.ld 3 (BitVec.ofNat 32 s.arg.num)
/-- GCANCEL (R347). Subject: the device and the entry. -/
def execGcancel (s : State) : Host.Outcome State Fault Refusal :=
  s.onDevice fun s => s.fbcmd s.arg.ld 4 (BitVec.ofNat 32 s.arg.num)

/-! ### Purges and leases (R364, R366) -/

/-- A write of PGCMD by a context (R366): without GO, or with a page count outside 1 to 2^31, it has no effect. -/
def State.pgcmd (s : State) (ld : Fin 4) (by_ : Asn) (x : DWord) : State :=
  let d := s.devices[ld]
  let n := bits x.toNat 0 32
  if bit x.toNat 63 ∧ 1 ≤ n ∧ n ≤ 2 ^ 31 then
    if d.purges.length < 8 then
      s.setDev ld { d with pgFull := false
                           purges := d.purges ++ [⟨by_, BitVec.ofNat 12 (bits x.toNat 32 12), d.pgva.toNat / 2 ^ 16, n, true⟩] }
    else s.setDev ld { d with pgFull := true }
  else s

/-- PURGE (R366). Subject: the device, the value written to PGCMD, and the context that writes it. -/
def execPurge (s : State) : Host.Outcome State Fault Refusal :=
  s.onDevice fun s => s.pgcmd s.arg.ld (BitVec.ofNat 12 s.arg.num) s.arg.value

/-- A cache line lies in the range of a device's purge. -/
def Purge.holds (q : Purge) (ld : Fin 4) (l : CacheLine) : Bool := l.ld == ld && q.covers l.asn (l.line / 512)

/-- The lines of a purge's range are written back and dropped in every cache, those that other dies have imported are dropped through the
directory, and its pinned pages return to their frames (R366, R370, R373). -/
def State.purgeRange (s : State) (ld : Fin 4) (q : Purge) : State :=
  let s := (s.evictAll (q.holds ld)).dropPeers fun p => p.ld == ld && q.covers p.asn p.page
  (s.pins.filter fun p => p.ld == ld && q.covers p.asn p.page).foldl State.unpin s

/-- PURGE_COMPLETE: every cache works off the oldest purge in progress, which is finished unless a write-back of its range awaits an
answer (R366). Subject: the device. -/
def execPurgeComplete (s : State) : Host.Outcome State Fault Refusal :=
  let ld := s.arg.ld
  match s.devices[ld].purges.find? Purge.busy with
  | none => .next s
  | some q =>
    let s := s.purgeRange ld q
    let d := s.devices[ld]
    if s.lines.any (q.holds ld) then .next s
    else .next (s.setDev ld { d with purges := d.purges.map fun p => if p = q then { p with busy := false } else p })

/-- LEASE_EXPIRE: leases whose time has come end (R364). -/
def execLeaseExpire (s : State) : Host.Outcome State Fault Refusal :=
  .next { s with leases := s.leases.filter fun l => decide (s.pack.time < l.expires) }

/-! ### Arriving accesses and peer lines -/

/-- A cache gives up a line of its own accord: of a core's L1, of the L2, or of the basin cache (R105, R366, R424). -/
def State.giveUp (s : State) (level : CacheLevel) (ld : Fin 4) (asn : Asn) (va : Nat) : State :=
  match s.lineAt level (ld, asn, va) with
  | some l => if l.parked then s else s.evict l
  | none => s

/-- The cache that an event names: 0 the L2, 1 the basin cache, else the L1 of a core. -/
def cacheLevel (n : Nat) (core : Core) : CacheLevel := if n = 0 then .l2 else if n = 1 then .basin else .l1 core.val

/-- What an access of an agent outside the part does there: it reads or writes some bytes, or performs an atomic of four bytes, or eight,
whose operands are the bytes. -/
inductive OuterAct
  | load
  | store
  | atomic (op : AtomOp) (w64 : Bool)
  deriving DecidableEq, Repr

/-- The atomic operations by number, in the order of the operation field (R233). -/
def atomOps : List AtomOp := [.add, .sub, .minI, .maxI, .minN, .maxN, .land, .lor, .lxor, .swap, .cas, .fadd]

/-- The act that an event names: number 0 a load, or with the flag a store; from 1 on an atomic, of eight bytes with the flag. -/
def outerAct (n : Nat) (flag : Bool) : OuterAct :=
  if n = 0 then (if flag then .store else .load) else .atomic (atomOps.getD (n - 1) .add) flag

/-- The kind of access that translation sees. -/
def OuterAct.kind : OuterAct → AccKind
  | .load => .load
  | .store => .store
  | .atomic .. => .atomic

/-- The bytes that an act touches, with so many bytes given. -/
def OuterAct.size (a : OuterAct) (n : Nat) : Nat :=
  match a with
  | .atomic _ w64 => if w64 then 8 else 4
  | _ => n

/-- An act performed at its places: an atomic on poison, or one that its target does not support, has no effect (R136, R226, R376). -/
def State.performOuter (s : State) (r : Req) (va : Nat) (a : OuterAct) (ps : List Place) (bs : List Byte) : State :=
  match a with
  | .load => s
  | .store => s.writePlaces r ps bs
  | .atomic op w64 =>
    let n := a.size 0
    match s.readAtomic ps with
    | (_, some _) => s
    | (old, none) =>
      if va % n ≠ 0 ∨ s.unsupported r va op ps then s
      else s.writePlaces r ps (toBytes n (atomValue op w64 (ofBytes old) (ofBytes (bs.take n)) (ofBytes (bs.drop n))))

/-- An access of another package through a token of this one: it is translated under the export and performed, while the optics run (R102,
R361, R417, R422). Its bytes in an MX-stored page are encoded under its own context's threshold, which no register of this package holds
(R96). A refused one is the other package's to park. -/
def State.remoteAccess (s : State) (token : DWord) (offset : Nat) (a : OuterAct) (bs : List Byte) : State :=
  match s.exportFor token with
  | none => s
  | some (ld, e) =>
    let k := a.kind
    let n := a.size bs.length
    let va := e.base.toNat + offset
    let r : Req := { ld := ld, asn := e.asn, priv := .user, kind := k, foreign := true
                     uft := some (BitVec.ofNat 8 (Config.freeNat s.fresh (2 ^ 98))) }
    if s.pack.safe ∨ e.rights &&& rightsNeeded k ≠ rightsNeeded k ∨ (s.ctx ld e.asn).state = .frozen ∨ e.size.toNat < offset + n then s
    else match s.places r va n with
      | .error why => s.meetTable ld e.asn va why
      | .ok (s, ps) => s.performOuter r va a ps bs

/-- An access of the host to the frames of a device's CXL.mem range, at an offset there: performed at their home channel controllers, while
a link is trained as CXL (R424). -/
def State.hostMemAccess (s : State) (ld : Fin 4) (offset : Nat) (a : OuterAct) (bs : List Byte) : State :=
  let x := s.devices[ld].hdm.toNat
  let pa := bits x 16 24 * 2 ^ 16 + offset
  if !s.pack.cxl ∨ bits x 40 24 * 2 ^ 16 < offset + bs.length then s
  else match a with
    | .store => s.physWrite ld pa bs
    | .load => s.physMeet ld pa bs.length
    | .atomic .. => s

/-- CONTROLLER_ACCESS: an access that no group, engine or Pilot of the model makes arrives at its home controller: a cache gives up a
line (number below 4,096: the context; value: the address; queue 0, 1 or more: the device's L2, the basin cache, the core's L1), or an
access of another package, or with queue 31 of the host (value: the token; number: 4,096 and the offset; queue and flag: the act; and its
bytes) (R354, R366, R417, R424). Subject: those, and the device. -/
def execControllerAccess (s : State) : Host.Outcome State Fault Refusal :=
  if s.arg.num < 4096 then
    .next (s.giveUp (cacheLevel s.arg.queue.val s.arg.core) s.arg.ld (BitVec.ofNat 12 s.arg.num) (s.arg.value.toNat % 2 ^ 48))
  else
    let at_ := s.arg.num - 4096
    if s.arg.queue = 31 then .next (s.hostMemAccess s.arg.ld at_ (outerAct 0 s.arg.flag) s.arg.bytes)
    else .next (s.remoteAccess s.arg.value at_ (outerAct s.arg.queue.val s.arg.flag) s.arg.bytes)

/-- PEER_INVALIDATE: a sharer gives up its copy of a tracked line, and acknowledges the invalidations of it (R370, R371). Subject: the
line; the sharer's device, or with the flag the basin cache. -/
def execPeerInvalidate (s : State) : Host.Outcome State Fault Refusal :=
  .next (s.dropShared s.arg.num (if s.arg.flag then 4 else sharerOf s.arg.ld .l2))

/-- HOST_SNOOP: under CXL.cache the part gives up a host line that it holds, written back (R424). Subject: the host line's number. -/
def execHostSnoop (s : State) : Host.Outcome State Fault Refusal :=
  .next (if s.pack.cxl then s.evictAll fun l => l.isHost && l.loc / 128 == hostLoc (128 * s.arg.num) / 128 else s)

/-! ### Memory errors (R70, R375 to R379) -/

/-- The logical device whose quadrant holds a location's channel (R110, R377). -/
def homeDevice (loc : Nat) : Fin 4 := Fin.ofNat 4 (quadrant loc)

/-- The channel of a location. -/
def channelOf (loc : Nat) : Nat := loc / 2 ^ 31

/-- The rows of a range of locations are retired; one record names them (R379, log entry 115). -/
def State.retireRows (s : State) (lo hi : Nat) : State :=
  if s.pack.retired.contains (lo, hi) then s else
  let ld := homeDevice lo
  let pa := s.devices[ld].profiles[0].address (granuleOf lo * 32)
  ({ s with pack := { s.pack with retired := (lo, hi) :: s.pack.retired } }).postFault ld
    { seq := none, type := 6, asn := 0, owner := .record, held := none
      dwords := faultDwords 6 Kind.poison.code 5 0 0 pa 0 0 (ld.val * 2 ^ 30) 0 0 0 none s.pack.time (Config.rowsName lo hi) }

/-- At boot the entries of the row-remap tables are copied into the channels' shadows: an entry that cannot be corrected is taken from the
boot flash, or its rows are retired where no copy of it exists there (R378, log entry 115). -/
def State.loadShadows (s : State) : State :=
  let table := s.pack.remap.map fun (e : RemapEntry) => if e.bad && Config.flashHasEntry e.lo e.hi then { e with bad := false } else e
  (table.filter RemapEntry.bad).foldl (fun s e => State.retireRows s e.lo e.hi)
    { s with pack := { s.pack with remap := table, shadow := table, shadowed := [], retired := [] } }

/-- The entry of a row group can no longer be corrected; the first error of one tells that it is there (R379). -/
def damaged (lo hi : Nat) (l : List RemapEntry) : List RemapEntry :=
  if l.any fun e => e.lo == lo && e.hi == hi then l.map fun (e : RemapEntry) => if e.lo == lo && e.hi == hi then { e with bad := true } else e
  else l ++ [⟨lo, hi, l.length, true⟩]

/-- The row groups of a channel whose shadow entry is bad are retired (R379). -/
def State.retireShadowed (s : State) (ch : Nat) : State :=
  (s.pack.shadow.filter fun e => e.bad && channelOf e.lo == ch).foldl (fun s e => State.retireRows s e.lo e.hi) s

/-- An entry of a row-remap table, or of its shadow, is found to be bad: the channel switches to its shadow, and the rows of what is bad
there too are retired (R379; log entry 115). -/
def State.remapError (s : State) (lo hi : Nat) (shadow : Bool) : State :=
  let ch := channelOf lo
  let inUse := s.pack.shadowed.contains ch
  if shadow then
    let s := { s with pack := { s.pack with shadow := damaged lo hi s.pack.shadow } }
    if inUse then s.retireShadowed ch else s
  else
    let s := { s with pack := { s.pack with remap := damaged lo hi s.pack.remap } }
    if inUse then s
    else
      ({ s with pack := { s.pack with shadowed := ch :: s.pack.shadowed } }.memoryError (unitReq (homeDevice lo) .load 0) 4 lo).retireShadowed ch

/-- UNCORRECTABLE_ERROR: an error that cannot be corrected arises (R70, R263, R375, R379). Subject: the site. -/
def execUncorrectableError (s : State) : Host.Outcome State Fault Refusal :=
  match s.arg.site with
  | .hbm n =>
    .next (if s.poison.contains n ∨ 2 ^ 34 ≤ n then s else
      { s with pack := { s.pack with
          latent := insertNat n s.pack.latent
          suspects := (n, s.pack.time) :: s.pack.suspects.filter fun e => e.1 ≠ n && s.pack.latent.contains e.1 } })
  | .vreg g v lanes =>
    .next (match s.group? g with
      | some grp => s.setGroup g { grp with vpoison := (v.val, lanes) :: grp.vpoison }
      | none => s)
  | .sreg g r =>
    .next (match s.group? g with
      | some grp => s.setGroup g { grp with spoison := r :: grp.spoison }
      | none => s)
  | .acc cl j i =>
    let c := s.cluster cl
    let a := c.acc[j]
    .next (s.setCluster cl { c with acc := c.acc.set j { a with poison := insertNat i.val a.poison } })
  | .localStore c n => .next { s with poison := insertNat (granuleOf (localLoc c.val (32 * n.val))) s.poison }
  | .remap lo hi shadow => .next (s.remapError lo hi shadow)

/-- SCRUB_GRANULE: the scrubber gives an uncorrectable granule the poison pattern, and records it (R377). Subject: the
granule's number. -/
def execScrubGranule (s : State) : Host.Outcome State Fault Refusal :=
  let n := s.arg.num
  .next (if s.pack.latent.contains n then
      { s with poison := insertNat n s.poison
               pack := { s.pack with latent := s.pack.latent.filter fun x => x ≠ n } }.memoryError (unitReq (homeDevice (32 * n)) .load 11) 3 (32 * n)
    else s)

end Sys2Proof.Machine
end

