-- ==== Sys2Proof/Machine/Debug.lean ====
section
/-! DEFINITION. The debugger: its target, stopping, stepping and resuming, and registers of stopped targets (R349 to
R353). -/

namespace Sys2Proof.Machine

open Sys2Proof

/-! ### The target (R349) -/

/-- What DBGSEL names. -/
inductive Target
  | group (g : GroupId)
  | pilot (cl : ClusterId)
  | all
  deriving DecidableEq, Repr

/-- The context that DBGSEL names. -/
def Device.dbgAsn (d : Device) : Asn := BitVec.ofNat 12 (bits d.dbgSel.toNat 32 12)

/-- The groups of a context on a device. -/
def State.contextGroups (s : State) (ld : Fin 4) (asn : Asn) : List GroupId :=
  s.groups.filterMap fun (n, grp) =>
    if deviceOfGroup (groupId n) = ld ∧ s.asnOf grp.launch = asn then some (groupId n) else none

/-- The clusters of a device whose Pilot runs a generator of a context. -/
def State.contextPilots (s : State) (ld : Fin 4) (asn : Asn) : List ClusterId :=
  s.clusters.filterMap fun (n, c) =>
    let cl : ClusterId := Fin.ofNat 160 n
    if deviceOf cl = ld ∧ c.pilot.running ∧ s.asnOf c.pilot.launch = asn then some cl else none

/-- The target that DBGSEL names, none when nothing answers to it (R349). -/
def State.target (s : State) (ld : Fin 4) : Option Target :=
  let d := s.devices[ld]
  let x := d.dbgSel.toNat
  let asn := d.dbgAsn
  let cluster := bits x 24 6
  if bit x 22 then (if (s.ctx ld asn).state = .free then none else some .all)
  else if 40 ≤ cluster then none
  else
    let cl := clusterAt ld (Fin.ofNat 40 cluster)
    if bit x 23 then (if (s.contextPilots ld asn).contains cl then some (.pilot cl) else none)
    else
      let g := groupId ((cl.val * 4 + bits x 20 2) * 16 + bits x 16 4)
      (s.group? g).bind fun grp => if s.asnOf grp.launch = asn then some (.group g) else none

/-- The groups and Pilots of a target. -/
def State.targets (s : State) (ld : Fin 4) : Target → List GroupId × List ClusterId
  | .group g => ([g], [])
  | .pilot cl => ([], [cl])
  | .all => (s.contextGroups ld s.devices[ld].dbgAsn, s.contextPilots ld s.devices[ld].dbgAsn)

/-- Every slice of a set stands stopped. -/
def Group.stopped (grp : Group) (slices : BitVec 8) : Bool :=
  (List.finRange 8).all fun (i : Fin 8) => !maskHas slices i.val || grp.slices[i].exited || grp.slices[i].why != 0

/-- DBGSEL.SLICES, where 0 means every slice (R349). -/
def Device.dbgSlices (d : Device) : BitVec 8 :=
  let named : BitVec 8 := BitVec.ofNat 8 (bits d.dbgSel.toNat 8 8)
  if named = 0 then 0xFF else named

/-- Why each part of the target stands stopped, 0 for a part that runs: of the slices named, and of Pilots. -/
def State.dbgWhys (s : State) (ld : Fin 4) (t : Target) : List (Fin 8) :=
  let (gs, ps) := s.targets ld t
  let named := match t with
    | .all => 0xFF
    | _ => s.devices[ld].dbgSlices
  (gs.flatMap fun g => (s.group? g).elim [] fun grp =>
    (grp.livingSlices.filter fun i => maskHas named i.val).map fun i => grp.slices[i].why) ++
    ps.map fun cl => (s.cluster cl).pilot.why

/-- DBGSTAT.WHY: why the target stands stopped, 0 while some part of it runs; of parts that stopped for different reasons, the first's
(R349; log entry 116). -/
def State.dbgWhy (s : State) (ld : Fin 4) : Fin 8 :=
  match s.target ld with
  | some t =>
    let whys := s.dbgWhys ld t
    if whys.contains 0 then 0 else whys.headD 0
  | none => 0

/-- A command's result (R349). -/
def State.dbgAnswer (s : State) (ld : Fin 4) (r : Fin 4) : State := s.setDev ld { s.devices[ld] with dbgResult := r }

/-- OK -/
def dbgOk : Fin 4 := 0
/-- BUSY -/
def dbgBusy : Fin 4 := 1
/-- NOTSTOPPED -/
def dbgNotStopped : Fin 4 := 2
/-- BADSEL -/
def dbgBadSel : Fin 4 := 3

/-! ### Stopping and resuming (R201, R350) -/

/-- The sequencer has begun an instruction: it is at the head, and CRES no longer waits for its operations (R200, R218). -/
def State.seqBegun (s : State) (w : WideSeq) : Bool :=
  (((s.cluster (clusterOf w.g)).seqs[coreIndex (coreOf w.g)].find? fun x => !x.stopped) == some w) && match w.instr with
    | .cres o => match s.group? w.g with
      | some grp => !s.cresWaits w.g (s.teamOf grp) o.j
      | none => false
    | _ => true

/-- A sequenced instruction of a group stops at its next step boundary: PIX holds the steps made, a count that the spec does
not fix (R200, R201). -/
def State.stopSeq (s : State) (g : GroupId) : State :=
  match (s.cluster (clusterOf g)).seqs[coreIndex (coreOf g)].find? fun w => w.g == g && !w.stopped with
  | none => s
  | some w =>
    let n := if s.seqBegun w then w.steps + Config.freeNat s.fresh (20480 + g) % max 1 (w.total - w.steps) else w.steps
    let s := s.mapSeqs g fun q => q.map fun x => if x.g = g && !x.stopped then { x with stopped := true, steps := n } else x
    s.setPix g (BitVec.ofNat 32 n)

/-- A stopped sequenced instruction is issued again, from its steps or, where PIX was set to 0, from its start (R201). -/
def State.resumeSeq (s : State) (g : GroupId) : State :=
  match s.group? g with
  | some grp =>
    if ((s.cluster (clusterOf g)).seqs[coreIndex (coreOf g)].find? fun w => w.g == g && !w.stopped).isNone then
      s.setGroup g (grp.mapSlices 0xFF fun sl => if sl.wait = .sequencer then { sl with wait := .again 0xFF } else sl)
    else s
  | none => s

/-- The slices of a group that hold their core's issue slot. -/
def State.running (s : State) (g : GroupId) : BitVec 8 :=
  match (s.cluster (clusterOf g)).runs[coreIndex (coreOf g)] with
  | some r => if r.g = g then r.slices else 0
  | none => 0

/-- A wait at whose end the word is issued again, so that it has not been issued for a lookahead window (R152). -/
def Wait.reissued : Wait → Bool
  | .queue _ | .parked | .again _ | .replay _ | .result | .batches _ | .ticket .. | .drain | .acks | .entries _ | .emitted | .stowTurn _ | .gangTrap => true
  | _ => false

/-- A slice that stands at a boundary stops as the debugger has asked: told to stop, it keeps its place in a wait, but for a joint
operation that has begun; a step is over when its word's wait has ended (R350, R351). -/
def Slice.boundary (sl : Slice) (joint : Bool) : Slice :=
  if sl.exited ∨ sl.why ≠ 0 then sl
  else match sl.dbg with
    | .stop => if sl.wait = .latch ∧ joint then sl else { sl with why := 1, dbg := .none }
    | .stepped => if sl.wait = .ready then { sl with why := 2, dbg := .none } else sl
    | _ => sl

/-- The slices of a group that hold no issue slot, as the debugger's requests leave them. -/
def State.atBoundary (s : State) (g : GroupId) (grp : Group) : Group :=
  let busy := s.running g
  let joint := s.jointBegun g
  { grp with slices := Vector.ofFn fun (i : Fin 8) => if maskHas busy i.val then grp.slices[i] else grp.slices[i].boundary joint }

/-- The slices of a group that stand at a boundary stop as the debugger has asked: a sequenced instruction at its next step, and the
results in flight arrive (R153, R201, R350, R351). -/
def State.settleGroup (s : State) (g : GroupId) : State :=
  match s.group? g with
  | none => s
  | some grp =>
    let halts := (List.finRange 8).any fun (i : Fin 8) => (s.atBoundary g grp).slices[i].why != grp.slices[i].why
    let held := grp.livingSlices.any fun i => grp.slices[i].dbg == .stop && grp.slices[i].wait == .sequencer
    if halts then
      let s := (if held then s.stopSeq g else s).arriveGroup g
      match s.group? g with
      | some grp => s.setGroup g (s.atBoundary g grp)
      | none => s
    else s

/-- A group is told to stop (R350). -/
def State.stopGroup (s : State) (g : GroupId) : State :=
  match s.group? g with
  | none => s
  | some grp =>
    let ask := fun (sl : Slice) => if sl.why = 0 then { sl with dbg := .stop } else sl
    (s.setGroup g (grp.mapSlices grp.present ask)).settleGroup g

/-- A result of a Pilot arrives. -/
def Pilot.arrive (p : Pilot) (fresh : Nat) (f : InFlight) : Pilot :=
  match f.wroteS fresh with
  | none => p
  | some (r, x) => { p with u := p.u.set r x }

/-- Results of a Pilot arrive, one after the other (R152). -/
def Pilot.arriveEach (p : Pilot) (fresh : Nat) (fs : List InFlight) : Pilot :=
  (racedAll fresh fs).foldl (fun p f => p.arrive fresh f) p

/-- Every result in flight of a Pilot has arrived (R153). -/
def Pilot.arriveAll (p : Pilot) (fresh : Nat) : Pilot :=
  { p.arriveEach fresh p.inflight with inflight := [] }

/-- A Pilot is told to stop: it stands between instructions (R153, R350). -/
def State.stopPilotAt (s : State) (cl : ClusterId) : State :=
  let p := (s.cluster cl).pilot
  s.setPilot cl (if p.why = 0 then { p.arriveAll s.fresh with why := 1, dbg := DbgReq.none } else p)

/-- A slice that the debugger lets go on: past a BKPT word at which it stopped, or to a word that its comparator does not
match again (R352). -/
def Slice.release (sl : Slice) (req : DbgReq) : Slice :=
  let sl := if sl.why = 3 ∧ sl.passBreak then
      let (pc, loops) := sequel false sl.pc sl.loops
      { sl with pc := pc, loops := loops, passBreak := false }
    else if sl.why = 4 then { sl with passBreak := true } else sl
  { sl with why := 0, dbg := req }

/-- A slice after a STEP command: a BKPT word passed is the step itself, and so is a word that it waits at and has issued (R351). -/
def Slice.step (sl : Slice) (req : DbgReq) : Slice :=
  if sl.why = 3 ∧ sl.passBreak then { sl.release .none with why := 2 }
  else sl.release (if sl.wait = .ready ∨ sl.wait.reissued then req else .stepped)

/-- Slices of a group continue (R350). -/
def State.resumeGroup (s : State) (g : GroupId) : State :=
  match s.group? g with
  | none => s
  | some grp =>
    let grp := grp.mapSlices grp.present fun sl =>
      let sl := sl.release .none
      match sl.wait with
      | .idle _ => { sl with wait := .idle 0 }
      | _ => sl
    (s.setGroup g grp).resumeSeq g

/-- A Pilot continues. -/
def State.resumePilot (s : State) (cl : ClusterId) (req : DbgReq) : State :=
  s.setPilot cl { (s.cluster cl).pilot with why := 0, dbg := req }

/-- A command for every part of the target; BADSEL when there is none. -/
def onTarget (s : State) (ld : Fin 4) (f : State → GroupId → State) (p : State → ClusterId → State) : State :=
  match s.target ld with
  | none => s.dbgAnswer ld dbgBadSel
  | some t =>
    let (gs, ps) := s.targets ld t
    (ps.foldl p (gs.foldl f s)).dbgAnswer ld dbgOk

/-- DBGCMD STOP. -/
def State.dbgStopCmd (s : State) (ld : Fin 4) : State := onTarget s ld State.stopGroup State.stopPilotAt

/-- DBGCMD RESUME. -/
def State.dbgResumeCmd (s : State) (ld : Fin 4) : State :=
  onTarget s ld State.resumeGroup fun s cl => State.resumePilot s cl .none

/-- The slices named of a group take a step (R351). -/
def State.stepGroup (s : State) (named : BitVec 8) (req : DbgReq) (g : GroupId) : State :=
  match s.group? g with
  | none => s
  | some grp => (s.setGroup g (grp.mapSlices (named &&& grp.present) fun sl => sl.step req)).resumeSeq g

/-- DBGCMD STEPI and STEPR: the slices that DBGSEL names of every group of the target, and its Pilots, which stand stopped (R349, R351,
log entry 136). -/
def State.dbgStep (s : State) (ld : Fin 4) (req : DbgReq) : State :=
  match s.target ld with
  | none => s.dbgAnswer ld dbgBadSel
  | some t =>
    let named := s.devices[ld].dbgSlices
    let (gs, ps) := s.targets ld t
    let ok := fun (g : GroupId) => (s.group? g).any fun grp => named &&& grp.present != 0 && grp.stopped named
    if gs.all ok && ps.all fun cl => (s.cluster cl).pilot.why != 0 then
      (ps.foldl (fun s cl => State.resumePilot s cl req) (gs.foldl (fun s g => State.stepGroup s named req g) s)).dbgAnswer ld dbgOk
    else s.dbgAnswer ld dbgNotStopped

/-- DBGCMD ATTACH and DETACH: of the context that the selected target belongs to (R349, R352). -/
def State.dbgAttach (s : State) (ld : Fin 4) (on : Bool) : State :=
  match s.target ld with
  | none => s.dbgAnswer ld dbgBadSel
  | some _ =>
    let asn := s.devices[ld].dbgAsn
    (s.setCtx ld asn { s.ctx ld asn with attached := on }).dbgAnswer ld dbgOk

/-- Slices that have issued a word, as the debugger's requests see it: `last` when their run has ended, `begun` when the run had issued a
word before. A STEPR whose run ends before a word that reads a result stops there, and the word is not issued (R27, R351). A word that
is to be issued again passes its comparator then too (R352). -/
def Slice.afterWord (sl : Slice) (last begun : Bool) : Slice :=
  if sl.dbg = .stepR ∧ sl.wait = .result ∧ begun then { sl with wait := .ready, why := 2, dbg := .none } else
  { sl with
    passBreak := sl.passBreak && (sl.why == 3 || sl.wait.reissued)
    dbg := if sl.dbg = .stepI ∨ (sl.dbg = .stepR ∧ last) then .stepped else sl.dbg }

/-! ### Registers of a stopped target (R353) -/

/-- The registers that a slice's parked load or returning atomic will still write, be it parked or about to be issued again: places of
lane registers, and 96 and above for uniform registers; a write stream and a push port take the value, and no register is written (R41,
R54, R353). -/
def Group.pendingOf (grp : Group) (i : Fin 8) : List Nat :=
  let sl := grp.slices[i]
  let mine := BitVec.ofNat 8 (2 ^ i.val)
  let span := fun (r : Fin 64) (n : Nat) => ((List.range n).filter fun k => (grp.streamOf (r.val + k)).isNone).map fun k =>
    vIndex sl.loops.length (r.val + k)
  let one := fun (r : Fin 64) => if (grp.port r).isSome then [] else [96 + r.val]
  let waits := match sl.wait with
    | .parked => true
    | .replay _ => true
    | _ => false
  if !waits then []
  else match decodeWords sl.waitWord.word sl.waitWord.word2 with
    | .error _ => []
    | .ok (w, _, _) => match w with
      | .ld o | .lds o | .ldi o => span o.vd (sizeRegs o.z)
      | .ldl o => span o.vd (sizeRegs o.z)
      | .atom o => if o.nr then [] else span o.vd 1
      | .atom64 o => if o.nr then [] else span o.vd 2
      | .sld o | .slda o => one o.sd
      | .satom o => if o.nr then [] else one o.sd
      | _ => []

/-- The pending registers of a group (R353). -/
def Group.pending (grp : Group) : List Nat := grp.livingSlices.flatMap grp.pendingOf

/-- A register that DBGREG names: class, number and lane. -/
def Device.dbgName (d : Device) : Nat × Nat × Fin 32 :=
  let x := d.dbgReg.toNat
  (bits x 12 4, bits x 0 12, Fin.ofNat 32 (bits x 16 5))

/-- The place of a lane register as the slice of a lane names it. -/
def Group.placeFor (grp : Group) (r : Nat) (lane : Fin 32) : Nat :=
  vIndex (grp.slices[(⟨lane.val / 4, by omega⟩ : Fin 8)]).loops.length r

/-- A register of a group, none for a name that is no register (R349, R353). -/
def State.readReg (s : State) (g : GroupId) (grp : Group) (cls n : Nat) (lane : Fin 32) : Option DWord :=
  if cls = 0 ∧ n < 64 then some ((laneReg grp.v (grp.placeFor n lane))[lane].zeroExtend 64)
  else if cls = 1 ∧ n < 64 then some (grp.u.get (Fin.ofNat 64 n))
  else if cls = 2 ∧ n < 8 then some (BitVec.ofNat 64 (bitNat (maskHas (grp.pred (Fin.ofNat 8 n)) lane.val)))
  else if cls = 3 ∧ n < 8 then some (BitVec.ofNat 64 (bitNat (grp.u.cond (Fin.ofNat 8 n))))
  else if cls = 4 ∧ srdNumber (BitVec.ofNat 12 n) then some (s.groupSpecial g grp (s.devices[deviceOfGroup g].dbgSlices &&& grp.present) n)
  else none

/-- A register of a group written by the debugger. -/
def State.writeReg (s : State) (g : GroupId) (grp : Group) (cls n : Nat) (lane : Fin 32) (x : DWord) : Option State :=
  if cls = 0 ∧ n < 64 then
    some (s.setGroup g (grp.writeV (grp.placeFor n lane) (BitVec.ofNat 32 (2 ^ lane.val)) (Vector.replicate 32 (BitVec.ofNat 32 x.toNat))))
  else if cls = 1 ∧ n < 64 then some (s.setGroup g (grp.writeS (Fin.ofNat 64 n) x))
  else if cls = 2 ∧ n < 8 then
    some (s.setGroup g (grp.setPred (Fin.ofNat 8 n) (BitVec.ofNat 32 (2 ^ lane.val)) (if bit x.toNat 0 then BitVec.allOnes 32 else 0)))
  else if cls = 3 ∧ n < 8 then some (s.setGroup g { grp with u := grp.u.setCond (Fin.ofNat 8 n) (bit x.toNat 0) })
  else if cls = 4 ∧ swrNumber (BitVec.ofNat 12 n) then some (s.writeSpecial g grp n x)
  else none

/-- A register of a Pilot. -/
def State.readPilotReg (s : State) (cl : ClusterId) (cls n : Nat) : Option DWord :=
  let p := (s.cluster cl).pilot
  if cls = 1 ∧ n < 64 then some (p.u.get (Fin.ofNat 64 n))
  else if cls = 3 ∧ n < 8 then some (BitVec.ofNat 64 (bitNat (p.u.cond (Fin.ofNat 8 n))))
  else if cls = 4 ∧ pilotHas n then some (s.pilotSpecial p n)
  else none

/-- A register of a Pilot written by the debugger. -/
def State.writePilotReg (s : State) (cl : ClusterId) (cls n : Nat) (x : DWord) : Option State :=
  let p := (s.cluster cl).pilot
  if cls = 1 ∧ n < 64 then some (s.setPilot cl { p with u := p.u.set (Fin.ofNat 64 n) x })
  else if cls = 3 ∧ n < 8 then some (s.setPilot cl { p with u := p.u.setCond (Fin.ofNat 8 n) (bit x.toNat 0) })
  else if cls = 4 ∧ n = 0x006 then some (if BitVec.ofNat 32 x.toNat = 0 then s.setPilot cl { p with pix := 0 } else s)
  else none

/-- The forced-boundary count of the selected context, under the number that is its own where no register has it (R30; log entry 119). -/
def State.forcedCount (s : State) (ld : Fin 4) (cls n : Nat) : Option DWord :=
  if cls = 4 ∧ BitVec.ofNat 12 n = Config.forcedName then some (BitVec.ofNat 64 (s.ctx ld s.devices[ld].dbgAsn).forced) else none

/-- A value read goes to DBGDATA. -/
def State.dbgGive (s : State) (ld : Fin 4) (x : Option DWord) : State :=
  match x with
  | some x => (s.setDev ld { s.devices[ld] with dbgData := x }).dbgAnswer ld dbgOk
  | none => s.dbgAnswer ld dbgBadSel

/-- DBGCMD REGRD (R353). -/
def State.dbgRead (s : State) (ld : Fin 4) : State :=
  let (cls, n, lane) := s.devices[ld].dbgName
  match s.target ld with
  | some (.group g) =>
    match s.group? g with
    | none => s.dbgAnswer ld dbgBadSel
    | some grp =>
      if !grp.stopped grp.present then s.dbgAnswer ld dbgNotStopped
      else s.dbgGive ld ((s.readReg g grp cls n lane).or (s.forcedCount ld cls n))
  | some (.pilot cl) =>
    if (s.cluster cl).pilot.why = 0 then s.dbgAnswer ld dbgNotStopped
    else s.dbgGive ld ((s.readPilotReg cl cls n).or (s.forcedCount ld cls n))
  | _ => s.dbgAnswer ld dbgBadSel

/-- The key of a register among those pending. -/
def pendingKey (grp : Group) (cls n : Nat) (lane : Fin 32) : Option Nat :=
  if cls = 0 then some (grp.placeFor n lane) else if cls = 1 then some (96 + n) else none

/-- DBGCMD REGWR (R353). -/
def State.dbgWrite (s : State) (ld : Fin 4) (force : Bool) : State :=
  let (cls, n, lane) := s.devices[ld].dbgName
  let x := s.devices[ld].dbgData
  let finish := fun (r : Option State) => match r with
    | some t => t.dbgAnswer ld dbgOk
    | none => s.dbgAnswer ld dbgBadSel
  match s.target ld with
  | some (.group g) =>
    match s.group? g with
    | none => s.dbgAnswer ld dbgBadSel
    | some grp =>
      if !grp.stopped grp.present then s.dbgAnswer ld dbgNotStopped
      else match (pendingKey grp cls n lane).filter grp.pending.contains with
        | none => finish (s.writeReg g grp cls n lane x)
        | some k =>
          if !force then s.dbgAnswer ld dbgBusy
          else
            let grp := { grp with progress := grp.progress.map fun p => { p with dropped := k :: p.dropped } }
            finish (s.writeReg g grp cls n lane x)
  | some (.pilot cl) =>
    if (s.cluster cl).pilot.why = 0 then s.dbgAnswer ld dbgNotStopped
    else finish (s.writePilotReg cl cls n x)
  | _ => s.dbgAnswer ld dbgBadSel

/-! ### Commands (R349) -/

/-- A write of DBGCMD; reserved codes have no effect. -/
def State.dbgcmd (s : State) (ld : Fin 4) (x : DWord) : State :=
  match bits x.toNat 60 4 with
  | 0 => s.dbgAttach ld true
  | 1 => s.dbgAttach ld false
  | 2 => s.dbgStopCmd ld
  | 3 => s.dbgResumeCmd ld
  | 4 => s.dbgStep ld .stepI
  | 5 => s.dbgStep ld .stepR
  | 6 => s.dbgRead ld
  | 7 => s.dbgWrite ld (bit x.toNat 59)
  | _ => s

/-- ATTACH (R349). Subject: the device, as of every command here. -/
def execAttach (s : State) : Host.Outcome State Fault Refusal := s.onDevice fun s => s.dbgAttach s.arg.ld true
/-- DETACH (R349). -/
def execDetach (s : State) : Host.Outcome State Fault Refusal := s.onDevice fun s => s.dbgAttach s.arg.ld false
/-- DBG_STOP (R350). -/
def execDbgStop (s : State) : Host.Outcome State Fault Refusal := s.onDevice fun s => s.dbgStopCmd s.arg.ld
/-- DBG_RESUME (R350). -/
def execDbgResume (s : State) : Host.Outcome State Fault Refusal := s.onDevice fun s => s.dbgResumeCmd s.arg.ld
/-- STEPI (R351). -/
def execStepi (s : State) : Host.Outcome State Fault Refusal := s.onDevice fun s => s.dbgStep s.arg.ld .stepI
/-- STEPR (R351). -/
def execStepr (s : State) : Host.Outcome State Fault Refusal := s.onDevice fun s => s.dbgStep s.arg.ld .stepR
/-- DBG_REGRD (R353). -/
def execDbgRegrd (s : State) : Host.Outcome State Fault Refusal := s.onDevice fun s => s.dbgRead s.arg.ld
/-- DBG_REGWR (R353); the flag is FORCE. -/
def execDbgRegwr (s : State) : Host.Outcome State Fault Refusal := s.onDevice fun s => s.dbgWrite s.arg.ld s.arg.flag

end Sys2Proof.Machine
end

