-- ==== Sys2Proof/Machine/Images.lean ====
section
/-! DEFINITION. The bytes of context images: sections, their CRC-32C, the header, and the Pilot section (R405, R406). -/

namespace Sys2Proof.Machine

open Sys2Proof

/-- The cells of memory in some ranges. -/
def Memory.within (m : List Host.Cell) (rs : List (Nat × Nat)) : List Host.Cell :=
  m.filter fun c => rs.any fun r => decide (r.1 ≤ c.1 ∧ c.1 < r.1 + r.2)

/-- Cells written back. -/
def Memory.restore (m : List Host.Cell) (cells : List Host.Cell) : List Host.Cell :=
  cells.foldl (fun m c => Memory.write m c.1 c.2) m

/-! ### CRC-32C (R405) -/

/-- One bit of a reflected CRC-32C. -/
def crcStep (c : Nat) : Nat := if c % 2 = 1 then (c / 2) ^^^ 0x82F63B78 else c / 2

/-- One byte of it. -/
def crcByte (c : Nat) (b : Byte) : Nat := (List.range 8).foldl (fun c _ => crcStep c) (c ^^^ b.toNat)

/-- The CRC-32C of some bytes. -/
def crc32c (bs : List Byte) : Nat := bs.foldl crcByte 0xFFFFFFFF ^^^ 0xFFFFFFFF

/-- A section ends with the CRC of its other bytes (R405). -/
def withCrc (body : List Byte) : List Byte := body ++ toBytes 4 (crc32c body)

/-- A section's CRC is right. -/
def crcOk (bs : List Byte) : Bool := decide (4 ≤ bs.length) && bs == withCrc (bs.take (bs.length - 4))

/-! ### The Pilot section of an image (R405, R406) -/

/-- The code of an emit stream's state (R299, R406). -/
def EmitState.code : EmitState → Nat
  | .closed => 0
  | .static => 1
  | .sealed_ => 2
  | .tow => 3
  | .ended => 4

/-- The state of a code. -/
def EmitState.ofCode (n : Nat) : EmitState :=
  match n with
  | 1 => .static
  | 2 => .sealed_
  | 3 => .tow
  | 4 => .ended
  | _ => .closed

/-- The loop stack of an image: four levels, outermost first. -/
def loopBytes (ls : List LoopLevel) : List Byte :=
  let ls := ls.reverse
  (List.range 4).flatMap fun i => match ls[i]? with
    | some l => dwordBytes l.start.toNat ++ dwordBytes l.last.toNat ++ dwordBytes l.count.toNat
    | none => List.replicate 24 0

/-- The Pilot section: the fields that R406 lays out (log entry 34), then Pilot memory, the retained words of each stream and their
sidecars; the retained words begin at the stream's lowest retention mark. -/
def pilotSection (p : Pilot) (streams : Vector EmitStream 16) (memory : List Byte) : List Byte :=
  (p.u.s.toList.flatMap fun x => dwordBytes x.toNat) ++ dwordBytes (p.u.c.toNat / 2 * 2) ++ dwordBytes p.pc.toNat ++ loopBytes p.loops ++
    dwordBytes (p.region.toNat * 2 ^ 32 + p.loops.length) ++
    dwordBytes (match p.fault with
      | some (k, _) => k.toNat * 2 ^ 8 + 1
      | none => 0) ++
    (streams.toList.flatMap fun e =>
      dwordBytes (e.capacity * 2 ^ 32 + bitNat (e.priv == .user) * 8 + e.state.code) ++ dwordBytes e.count.toNat ++
        dwordBytes ((e.count.toNat + 2 ^ 32 - e.words.length) % 2 ^ 32) ++ dwordBytes e.words.length) ++
    memory ++
    (streams.toList.flatMap fun e => (e.words.flatMap fun w => toBytes 4 w.1.toNat) ++ e.words.flatMap fun w => toBytes 4 w.2.toNat)

/-- A cluster's streams with the words from their lowest retention mark on; a static region keeps every word (R46, R406). -/
def State.keptStreams (s : State) (cl : ClusterId) : Vector EmitStream 16 :=
  Vector.ofFn fun (k : Fin 16) =>
    let e := (s.cluster cl).streams[k]
    if e.state = .tow ∨ e.state = .ended then { e with words := e.words.drop (e.words.length - (s.retainedWords cl k).toNat) } else e

/-- A dword of a list of bytes at an offset. -/
def dwordAt (bs : List Byte) (i : Nat) : Nat := ofBytes ((bs.drop i).take 8)

/-- A Pilot's fields as a section spells them; what the section does not hold stays as it was saved. -/
def Pilot.ofSection (p : Pilot) (bs : List Byte) : Pilot :=
  let depth := min 4 (dwordAt bs 624 % 8)
  let level := fun (i : Nat) => (⟨BitVec.ofNat 48 (dwordAt bs (528 + 24 * i)), BitVec.ofNat 48 (dwordAt bs (536 + 24 * i)),
    BitVec.ofNat 32 (dwordAt bs (544 + 24 * i))⟩ : LoopLevel)
  { p with
    u := { s := Vector.ofFn fun (i : Fin 64) => BitVec.ofNat 64 (dwordAt bs (8 * i.val)), c := BitVec.ofNat 8 (dwordAt bs 512 / 2 * 2 + 1) }
    pc := BitVec.ofNat 48 (dwordAt bs 520), loops := ((List.range depth).map level).reverse
    region := BitVec.ofNat 32 (dwordAt bs 624 / 2 ^ 32)
    fault := if bit (dwordAt bs 632) 0 then some (BitVec.ofNat 8 (dwordAt bs 632 / 2 ^ 8), (p.fault.map Prod.snd).getD 0) else none }

/-- Pilot memory as a section spells it. -/
def sectionMemory (bs : List Byte) : List Byte := (bs.drop 1152).take 65536

/-- Words of four bytes from an offset on. -/
def wordsAt (bs : List Byte) (i n : Nat) : List Word := (List.range n).map fun k => BitVec.ofNat 32 (ofBytes ((bs.drop (i + 4 * k)).take 4))

/-- A stream as a section spells it, its words from an offset on. -/
def EmitStream.ofSection (e : EmitStream) (bs : List Byte) (k words : Nat) : EmitStream :=
  let x := dwordAt bs (640 + 32 * k)
  let n := dwordAt bs (664 + 32 * k)
  { e with
    state := EmitState.ofCode (x % 8), priv := if bit x 3 then .user else .system, capacity := x / 2 ^ 32
    count := BitVec.ofNat 32 (dwordAt bs (648 + 32 * k)), words := (wordsAt bs words n).zip (wordsAt bs (words + 4 * n) n) }

/-- A Pilot's streams as a section spells them. -/
def sectionStreams (streams : Vector EmitStream 16) (bs : List Byte) : Vector EmitStream 16 :=
  Vector.ofFn fun (k : Fin 16) =>
    streams[k].ofSection bs k.val (66688 + 8 * ((List.range k.val).map fun j => dwordAt bs (664 + 32 * j)).sum)

/-- The saved clusters of an image that hold a Pilot. -/
def SavedCtx.pilots (i : SavedCtx) : List (Nat × Cluster) := i.clusters.filter fun c => c.2.pilot.launch != 0

/-! ### Sections and the header (R405; log entry 81) -/

/-- A section of an image: its kind and its cluster and team as the header names them, and its bytes with their CRC. -/
structure ImageSection where
  kind : Nat
  tag : Nat
  bytes : List Byte
  deriving DecidableEq, Repr

/-- An opaque section of an image. -/
def SavedCtx.sealed_ (i : SavedCtx) (kind tag : Nat) : ImageSection := ⟨kind, tag, withCrc (Config.sectionBytes i.id kind tag)⟩

/-- The section of a cluster's Pilot. -/
def SavedCtx.pilotPart (i : SavedCtx) (e : Nat × Cluster) : ImageSection :=
  ⟨3, e.1 % 40, withCrc (pilotSection e.2.pilot e.2.streams (Memory.readBytes i.pilotMem (pilotLoc e.1 0) (2 ^ 16)))⟩

/-- The sections of an image, in the order of R405. -/
def SavedCtx.sections (i : SavedCtx) : List ImageSection :=
  i.sealed_ 1 0 :: (i.teams.map fun t => i.sealed_ 2 (clusterIndex t.cl + 2 ^ 16 * (t.index % 2 ^ 16))) ++ i.pilots.map i.pilotPart ++
    [i.sealed_ 4 0, i.sealed_ 5 0]

/-- Bytes rounded up to whole 4 KiB. -/
def wholePages (n : Nat) : Nat := (n + 4095) / 4096 * 4096

/-- Sections one after the other, each at a multiple of 4 KiB from an offset on (R405). -/
def placeSections (at_ : Nat) : List ImageSection → List (Nat × ImageSection)
  | [] => []
  | x :: rest => (at_, x) :: placeSections (at_ + wholePages x.bytes.length) rest

/-- The sections of an image with their offsets, after the header. -/
def SavedCtx.layout (i : SavedCtx) : List (Nat × ImageSection) := placeSections 4096 i.sections

/-- Bytes that an image takes. -/
def SavedCtx.length (i : SavedCtx) : Nat := 4096 + (i.sections.map fun x => wholePages x.bytes.length).sum

/-- The header of an image (R405): magic, version, ASN, device, package, section count and the section entries. -/
def SavedCtx.header (i : SavedCtx) (key : Nat) (pkgid : Byte) : List Byte :=
  let words := [0x51534349, 1, key % 4096, key / 4096, pkgid.toNat, i.sections.length, 0, 0] ++
    i.layout.flatMap fun (o, x) => [x.kind, x.tag, o, x.bytes.length]
  let body := words.flatMap (toBytes 4)
  withCrc (body.take 4092 ++ List.replicate (4092 - body.length) 0)

/-- What is written of an image, with the offsets: the header, then the sections. -/
def SavedCtx.pieces (i : SavedCtx) (key : Nat) (pkgid : Byte) : List (Nat × List Byte) :=
  (0, i.header key pkgid) :: i.layout.map fun e => (e.1, e.2.bytes)

/-- Bytes read at an offset of an image, wherever it stands. -/
abbrev ImageReader := Nat → Nat → List Byte

/-- The image stands where some bytes are read: its header, whatever package it names, and its opaque sections (R405). -/
def SavedCtx.standsAt (i : SavedCtx) (key : Nat) (rd : ImageReader) : Bool :=
  rd 0 4096 == i.header key (BitVec.ofNat 8 (ofBytes (rd 16 1))) &&
    i.layout.all fun (o, x) => x.kind == 3 || rd o x.bytes.length == x.bytes

/-- It stands there with the CRC of every section right (R405, R413). -/
def SavedCtx.spelt (i : SavedCtx) (key : Nat) (rd : ImageReader) : Bool :=
  i.standsAt key rd && i.layout.all fun (o, x) => x.kind != 3 || crcOk (rd o x.bytes.length)

/-- An image as its Pilot sections are spelt now (R405, R406). -/
def SavedCtx.reread (i : SavedCtx) (rd : ImageReader) : SavedCtx :=
  (i.pilots.zip (i.layout.filter fun e => e.2.kind == 3)).foldl (fun (i : SavedCtx) (e, o, x) =>
    let bs := rd o x.bytes.length
    let at_ := pilotLoc e.1 0
    { i with
      clusters := putBy e.1 { e.2 with pilot := e.2.pilot.ofSection bs, streams := sectionStreams e.2.streams bs } i.clusters
      pilotMem := Memory.writeBytes (Memory.clearRange i.pilotMem at_ (2 ^ 16)) at_ (sectionMemory bs) }) i

/-- An image is written to the save area at a physical address (R405). -/
def State.writeImage (s : State) (ld : Fin 4) (base key : Nat) (i : SavedCtx) : State :=
  (i.pieces key s.pack.pkgid).foldl (fun s e => State.physWrite s ld (base + e.1) e.2) s

/-- A save area, as an image is read from it. -/
def State.saveReader (s : State) (ld : Fin 4) (base : Nat) : ImageReader := fun o n => s.physRead ld (base + o) n

end Sys2Proof.Machine
end

