-- ==== Sys2Proof/Machine/Contexts.lean ====
section
/-! DEFINITION. Contexts: their commands, saving and restoring them, freeze and thaw, and the registers that set up pools,
publish buffers and profiles (R345, R363, R372, R401 to R414). -/

namespace Sys2Proof.Machine

open Sys2Proof

/-! ### Rewinding (R146, R258, R291, R342, R344, R345) -/

/-- A group may be rewound: no slice that is present has taken part, since its own region entry, in an event that bars it, none
has issued a ticket that is still held, and the group waits at no joint operation that has begun. -/
def State.rewindable (s : State) (g : GroupId) (grp : Group) : Bool :=
  !grp.trap.inh && !s.jointBegun g &&
    grp.livingSlices.all fun i => !grp.slices[i].pinned && !grp.slices[i].issued.any fun n => grp.tickets.any fun t => t.seq == n

/-- A group without its pending work: it leaves queues, latches, slot requests and its core's sequencer. -/
def Cluster.leave (c : Cluster) (core : Fin 4) (g : GroupId) : Cluster :=
  { c with
    queues := Vector.ofFn fun (q : Fin 32) => { c.queues[q] with waiters := (c.queues[q]).waiters.filter fun w => w.g ≠ g }
    latches := (c.latches.map fun l => if l.complete then l else { l with arrived := l.arrived.filter fun x => x ≠ g }).filter
      fun l => !l.arrived.isEmpty
    requests := c.requests.filter fun r => r.g ≠ some g
    seqs := c.seqs.set core (c.seqs[core].filter fun w => w.g ≠ g) }

/-- A group at its region entries: results in flight and progress are gone, and PIX is 0. -/
def Group.rewound (grp : Group) : Group :=
  let grp := grp.mapSlices grp.present fun sl =>
    { sl with pc := sl.region.pc, active := sl.region.active, loops := sl.region.loops, recon := sl.region.recon, wait := .ready }
  { grp with pix := 0, inflight := [], progress := [] }

/-- A rewind of a group; the entries of its parked accesses become void. -/
def State.rewind (s : State) (g : GroupId) : State :=
  match s.group? g with
  | none => s
  | some grp =>
    if s.rewindable g grp then
      let cl := clusterOf g
      let s := grp.livingSlices.foldl (fun s i => State.unreserveFor s g (BitVec.ofNat 8 (2 ^ i.val))) s
      let s := s.voidRecords (deviceOf cl) fun o => match o with
        | .group h _ => h == g
        | _ => false
      let s := s.setCluster cl ((s.cluster cl).leave (coreIndex (coreOf g)) g)
      match s.group? g with
      | some grp => s.setGroup g grp.rewound
      | none => s
    else s

/-! ### What belongs to a context -/

/-- The admitted launches of a context. -/
def State.contextLaunches (s : State) (ld : Fin 4) (asn : Asn) : List Launch :=
  s.launches.filter fun l => l.ld == ld && l.asn == asn && l.admitted

/-- The teams of a context. -/
def State.contextTeams (s : State) (ld : Fin 4) (asn : Asn) : List Team :=
  let ls := s.contextLaunches ld asn
  s.teams.filter fun t => ls.any fun l => l.id == t.launch

/-- The part of a cluster that belongs to some teams and groups, or the rest of it; `pilot` says that the Pilot and the streams
are theirs. Rows in line buffers are not saved (R117). -/
def Cluster.part (c : Cluster) (teams : List Nat) (groups : List GroupId) (pilot mine : Bool) : Cluster :=
  let of := fun (t : Nat) => teams.contains t == mine
  let ofG := fun (g : GroupId) => groups.contains g == mine
  { acc := Vector.ofFn fun (j : Fin 8) => if (c.owner[j]).any of then c.acc[j] else Acc.zero
    owner := Vector.ofFn fun (j : Fin 8) => (c.owner[j]).filter of
    below := Vector.ofFn fun (j : Fin 8) => (c.below[j]).filter of
    queues := Vector.ofFn fun (q : Fin 32) => if (c.queueOwner[q]).any of then c.queues[q] else ⟨[], 0, []⟩
    queueOwner := Vector.ofFn fun (q : Fin 32) => (c.queueOwner[q]).filter of
    latches := c.latches.filter fun l => of l.team
    table := c.table.filter fun e => of e.team
    requests := c.requests.filter fun r => of r.team
    streams := if pilot = mine then c.streams else Vector.replicate 16 EmitStream.closed
    pilot := if pilot = mine then c.pilot else Pilot.idle
    lines := if mine then [] else c.lines.filter fun l => ofG l.g
    runs := if mine then Vector.replicate 4 none else c.runs
    seqs := Vector.ofFn fun (i : Fin 4) => (c.seqs[i]).filter fun w => ofG w.g
    lastPass := c.lastPass, awake := c.awake }

/-- Two parts of a cluster together. -/
def Cluster.join (c p : Cluster) : Cluster :=
  let hasPilot := p.pilot.launch != 0
  { c with
    acc := Vector.ofFn fun (j : Fin 8) => if (p.owner[j]).isSome then p.acc[j] else c.acc[j]
    owner := Vector.ofFn fun (j : Fin 8) => if (p.owner[j]).isSome then p.owner[j] else c.owner[j]
    below := Vector.ofFn fun (j : Fin 8) => c.below[j] ++ p.below[j]
    queues := Vector.ofFn fun (q : Fin 32) => if (p.queueOwner[q]).isSome then p.queues[q] else c.queues[q]
    queueOwner := Vector.ofFn fun (q : Fin 32) => if (p.queueOwner[q]).isSome then p.queueOwner[q] else c.queueOwner[q]
    latches := c.latches ++ p.latches
    table := c.table ++ p.table
    requests := c.requests ++ p.requests
    streams := if hasPilot then p.streams else c.streams
    pilot := if hasPilot then p.pilot else c.pilot
    seqs := Vector.ofFn fun (i : Fin 4) => c.seqs[i] ++ p.seqs[i] }

/-! ### Saving and restoring (R405, R407) -/

/-- The context's clusters whose Pilot or streams are its own. -/
def State.ownPilots (s : State) (ld : Fin 4) (ls : List Launch) : List ClusterId :=
  s.clusters.filterMap fun (n, c) =>
    let cl : ClusterId := Fin.ofNat 160 n
    if deviceOf cl = ld ∧ ls.any fun l => l.id == c.pilot.launch then some cl else none

/-- No group of a context holds an issue slot: every one stands at a boundary (R407). -/
def State.quiet (s : State) (ld : Fin 4) (asn : Asn) : Bool :=
  (s.contextGroups ld asn).all fun g => s.running g == 0

/-- The image of a context. -/
def State.imageOf (s : State) (ld : Fin 4) (asn : Asn) : SavedCtx :=
  let ls := s.contextLaunches ld asn
  let teams := s.contextTeams ld asn
  let ids := teams.map Team.id
  let gs := s.contextGroups ld asn
  let pilots := s.ownPilots ld ls
  let d := s.devices[ld]
  { id := s.nextId
    groups := s.groups.filter fun e => gs.contains (groupId e.1)
    teams := teams, launches := ls
    ops := s.ops.filter fun o => o.ld == ld && o.asn == asn
    clusters := (s.clusters.filter fun e => deviceOf (Fin.ofNat 160 e.1) == ld).map fun e =>
      let cl : ClusterId := Fin.ofNat 160 e.1
      (e.1, { e.2 with streams := s.keptStreams cl }.part ids gs (pilots.contains cl) true)
    pilotMem := Memory.within s.mem (pilots.map fun cl => (pilotLoc cl.val 0, 2 ^ 16))
    localMem := Memory.within s.mem (teams.flatMap Team.ranges)
    localPoison := s.poison.filter (granuleIn (teams.flatMap Team.ranges))
    faults := d.faults.filter fun r => r.asn == asn && r.owner != .record
    pools := (List.finRange 8).filterMap fun (k : Fin 8) =>
      if d.pools[k].en ∧ d.pools[k].asn = asn then some (k.val, d.pools[k]) else none
    pubs := (List.finRange 64).filterMap fun (k : Fin 64) =>
      if d.pbuf[k].en ∧ d.pbuf[k].asn = asn then some (k.val, d.pbuf[k]) else none
    imports := d.imports.filter fun e => e.asn == asn }

/-- A context leaves its clusters, with everything that its image holds. -/
def State.dropContext (s : State) (ld : Fin 4) (asn : Asn) (i : SavedCtx) : State :=
  let ids := i.teams.map Team.id
  let gs := i.groups.map fun e => groupId e.1
  let pilots := s.ownPilots ld i.launches
  let d := s.devices[ld]
  let s : State := { s with
    groups := s.groups.filter fun e => !gs.contains (groupId e.1)
    teams := s.teams.filter fun t => !ids.contains t.id
    launches := s.launches.filter fun l => !i.launches.any fun m => m.id == l.id
    ops := s.ops.filter fun o => !(o.ld == ld && o.asn == asn)
    clusters := s.clusters.map fun e =>
      if deviceOf (Fin.ofNat 160 e.1) = ld then (e.1, e.2.part ids gs (pilots.contains (Fin.ofNat 160 e.1)) false) else e
    mem := Memory.clearRanges s.mem (i.teams.flatMap Team.ranges ++ pilots.map fun cl => (pilotLoc cl.val 0, 2 ^ 16))
    poison := s.poison.filter fun g => !granuleIn (i.teams.flatMap Team.ranges) g }
  let s := s.setDev ld { d with faults := d.faults.filter fun r => !(r.asn == asn && r.owner != .record) }
  -- a slot that the context held goes to the team spilled from it, if there is one (R268)
  i.clusters.foldl (fun s e => (List.finRange 8).foldl (fun s (j : Fin 8) =>
    if (e.2.owner[j]).isSome then State.freeSlot s (Fin.ofNat 160 e.1) j else s) s) s

/-- Every group and Pilot of a context is brought to its stop: groups rewound where the request permits, sequenced instructions at a step
boundary, and the results in flight arrived (R153, R345, R407). -/
def State.stopContext (s : State) (ld : Fin 4) (asn : Asn) (rewind : Bool) : State :=
  let s := (s.contextGroups ld asn).foldl (fun s g => ((if rewind then s.rewind g else s).stopSeq g).arriveGroup g) s
  (s.contextPilots ld asn).foldl (fun s cl => State.setPilot s cl ((State.cluster s cl).pilot.arriveAll s.fresh)) s

/-- The dirty lines of a context are written back, and its lines dropped (R407). -/
def State.flushContext (s : State) (ld : Fin 4) (asn : Asn) : State := s.evictAll fun l => l.ld == ld && l.asn == asn

/-- A context is saved: its dirty lines are written back, its image is taken, and its resources are free (R407). -/
def State.saveContext (s : State) (ld : Fin 4) (asn : Asn) : State :=
  let s := (s.stopContext ld asn (s.ctx ld asn).rewind).flushContext ld asn
  let i := s.imageOf ld asn
  let s := { s with nextId := s.nextId + 1 }.dropContext ld asn i
  s.setCtx ld asn { s.ctx ld asn with state := .saved, image := some i }

/-- A saved cluster's resources are free (R407). -/
def State.clusterFree (s : State) (cl : ClusterId) (p : Cluster) : Bool :=
  let c := s.cluster cl
  ((List.finRange 8).all fun (j : Fin 8) => (p.owner[j]).isNone || (c.owner[j]).isNone) &&
    ((List.finRange 32).all fun (q : Fin 32) => (p.queueOwner[q]).isNone || (c.queueOwner[q]).isNone) &&
    (p.table.all fun e => !c.table.any fun x => x.index == e.index) &&
    (p.pilot.launch == 0 || (!c.pilot.running && !(s.launches.any fun l => l.genPending.contains cl) &&
      (List.finRange 16).all fun (k : Fin 16) => (s.consumers cl k).isEmpty && (s.boundEntries cl k).isEmpty))

/-- The resources that an image names are free (R407). -/
def State.imageFree (s : State) (i : SavedCtx) : Bool :=
  (i.groups.all fun e => (s.group? (groupId e.1)).isNone && !s.teams.any fun t => !t.released && t.members.contains (groupId e.1)) &&
    (i.teams.all fun t => (t.released || t.members.all fun g => (s.group? g).isNone) &&
      decide (t.lsBase + t.lsSize ≤ s.localTop t.cl) &&
      s.teams.all fun u => u.cl != t.cl || decide (u.lsBase + u.lsSize ≤ t.lsBase ∨ t.lsBase + t.lsSize ≤ u.lsBase)) &&
    i.clusters.all fun e => s.clusterFree (Fin.ofNat 160 e.1) e.2

/-- A saved entry of a table, put back at its number. -/
def putVec {α : Type} {n : Nat} (v : Vector α n) (xs : List (Nat × α)) : Vector α n :=
  xs.foldl (fun v x => v.setIfInBounds x.1 x.2) v

/-- Commands held for a context's records act once it runs (R341). -/
def State.runHeld (s : State) (ld : Fin 4) (asn : Asn) : State :=
  (s.devices[ld].faults.filter fun r => r.asn == asn && r.held.isSome).foldl (fun s r =>
    (s.setDev ld { s.devices[ld] with faults := s.devices[ld].faults.filter fun x => x ≠ r }).answer ((r.held.map Fin.val).getD 0) r) s

/-- A saved pool or publish buffer goes back to its number, unless that now serves another context (R404, R405). -/
def putOwn {α : Type} {n : Nat} (v : Vector α n) (xs : List (Nat × α)) (taken : α → Bool) : Vector α n :=
  putVec v (xs.filter fun x => !(v.toList[x.1]?).any taken)

/-- An image goes back to its place, and the context runs (R407). -/
def State.restoreImage (s : State) (ld : Fin 4) (asn : Asn) (i : SavedCtx) : State :=
  let d := s.devices[ld]
  let s : State := { s with
    groups := i.groups.foldl (fun l e => putBy e.1 e.2 l) s.groups
    teams := s.teams ++ i.teams, launches := i.launches ++ s.launches, ops := s.ops ++ i.ops
    clusters := i.clusters.foldl (fun l e => putBy e.1 ((s.cluster (Fin.ofNat 160 e.1)).join e.2) l) s.clusters
    mem := Memory.restore (Memory.clearRanges s.mem (i.teams.flatMap Team.ranges ++ i.pilots.map fun e => (pilotLoc e.1 0, 2 ^ 16)))
      (i.localMem ++ i.pilotMem)
    poison := i.localPoison ++ s.poison.filter fun g => !granuleIn (i.teams.flatMap Team.ranges) g }
  let s := s.setDev ld { d with
    faults := d.faults ++ i.faults, pools := putOwn d.pools i.pools fun p => p.en && p.asn != asn
    pbuf := putOwn d.pbuf i.pubs fun b => b.en && b.asn != asn
    imports := i.imports ++ d.imports.filter fun e => e.asn ≠ asn }
  let s := i.clusters.foldl (fun s e => (List.finRange 8).foldl (fun s (j : Fin 8) =>
    let cl : ClusterId := Fin.ofNat 160 e.1
    let c := s.cluster cl
    if (c.owner[j]).isNone && !(c.below[j]).isEmpty then State.freeSlot s cl j else s) s) s
  let s := s.setCtx ld asn { s.ctx ld asn with state := .live, image := none, resuming := false, rewind := false }
  let s := i.groups.foldl (fun s e => State.resumeSeq s (groupId e.1)) s
  s.runHeld ld asn

/-! ### CTXCMD (R403, R407) -/

/-- CTXSTAT.BADCMD. -/
def State.ctxRefused (s : State) (ld : Fin 4) : State := s.setDev ld { s.devices[ld] with ctxBad := true }

/-- CTXSTAT.BUSY (R402, R403). -/
def State.ctxBusy (s : State) (ld : Fin 4) : Bool := (s.ctx ld s.devices[ld].ctxSel).state == .stopping

/-- A command is taken only while BUSY is 0, for a context number that names one (R401, R403). -/
def ctxCommand (s : State) (ld : Fin 4) (asn : Asn) (ok : Ctx → Bool) (f : State → State) : State :=
  if s.ctxBusy ld || asn == 0 || !ok (s.ctx ld asn) then s.ctxRefused ld else f s

/-- CREATE (R403). -/
def State.createCtx (s : State) (ld : Fin 4) (asn : Asn) : State :=
  ctxCommand s ld asn (fun c => c.state == .free) fun s => s.setCtx ld asn { Ctx.free with state := .live }

/-! ### The tables of handles in memory (R415, R417) -/

/-- The physical address of an export entry. -/
def Device.exportEntry (d : Device) (n : Fin 256) : Nat := d.exBase.toNat + 32 * n.val
/-- The physical address of an import entry. -/
def Device.importEntry (d : Device) (n : Fin 256) : Nat := d.imBase.toNat + 32 * n.val

/-- Four dwords of a table in memory. -/
def State.tableEntry (s : State) (ld : Fin 4) (pa : Nat) : List DWord := dwordsOf (s.physRead ld pa 32)

/-- A table entry read: what is read, and the state once the read has met the errors that stand there (R377). -/
def State.readEntry (s : State) (ld : Fin 4) (pa : Nat) : State × List DWord := (s.physMeet ld pa 32, s.tableEntry ld pa)

/-- GEN and EN as the part writes them into an export entry (R415, R418). -/
def State.writeExport (s : State) (ld : Fin 4) (n : Fin 256) (d0 : Nat) (en : Bool) (gen : Word) : State :=
  let pa := s.devices[ld].exportEntry n
  (s.physWrite ld pa (dwordBytes (bitNat en * 2 ^ 63 + d0 % 2 ^ 63))).physWrite ld (pa + 16) (toBytes 4 gen.toNat)

/-- Exports end: EN of their entries is cleared, and GEN raised by a reset, which revokes them (R403, R415, R418, R433). -/
def State.closeExports (s : State) (ld : Fin 4) (raise : Bool) (p : ExportEntry → Bool) : State :=
  (s.devices[ld].exports.filter p).foldl (fun s e =>
    let (s, d) := s.readEntry ld (s.devices[ld].exportEntry e.n)
    s.writeExport ld e.n (d.headD 0).toNat false (if raise then e.gen + 1 else e.gen)) s

/-- Imports end: EN of their entries is cleared (R403, R417). -/
def State.closeImports (s : State) (ld : Fin 4) (p : ImportEntry → Bool) : State :=
  (s.devices[ld].imports.filter p).foldl (fun s e =>
    let at_ := s.devices[ld].importEntry e.n
    let (s, d) := s.readEntry ld at_
    s.physWrite ld at_ (dwordBytes ((d.headD 0).toNat % 2 ^ 63))) s

/-- What ends with a context (R403). -/
def Device.endContext (d : Device) (asn : Asn) : Device :=
  { d with
    pools := d.pools.map fun p => if p.asn = asn then { p with en := false, used := [] } else p
    exports := d.exports.filter fun e => e.asn ≠ asn
    imports := d.imports.filter fun e => e.asn ≠ asn
    purges := d.purges.filter fun p => p.by_ ≠ asn }

/-- Launches that a saved image loses with its context complete CANCELLED (log entry 35). -/
def State.loseLaunches (s : State) (c : Ctx) : State :=
  match c.image with
  | none => s
  | some i => i.launches.foldl (fun s l => State.endLaunch s l 3 0 0) s

/-- DESTROY (R403). -/
def State.destroyCtx (s : State) (ld : Fin 4) (asn : Asn) : State :=
  let idle := !s.launches.any fun l => l.ld == ld && l.asn == asn
  ctxCommand s ld asn (fun c => (c.state == .live && idle) || c.state == .saved || c.state == .frozen) fun s =>
    let s := (s.loseLaunches (s.ctx ld asn)).closeExports ld false fun e => e.asn == asn
    let s := s.closeImports ld fun e => e.asn == asn
    { s.setDev ld (s.devices[ld].endContext asn) with ctxs := delBy (ctxKey ld asn) s.ctxs }

/-- PREEMPT (R407). -/
def State.preemptCtx (s : State) (ld : Fin 4) (asn : Asn) (rewind : Bool) : State :=
  ctxCommand s ld asn (fun c => c.state == .live) fun s => s.setCtx ld asn { s.ctx ld asn with state := .stopping, rewind := rewind }

/-- The restoration of a saved context whose resources are free, its Pilot sections as its save area now spells them (R405, R407). A
context that a THAW brings has been read from its freeze image, and a failed FREEZE has left none in the save area (R412, log entry 78). -/
def State.tryResume (s : State) (ld : Fin 4) (asn : Asn) : State :=
  let c := s.ctx ld asn
  match c.image with
  | none => s
  | some i =>
    if c.state = .saved ∧ c.resuming ∧ s.imageFree i then
      let rd := s.saveReader ld c.save.toNat
      let thawed := i.launches.any fun l => l.thaw.isSome
      (if thawed then s else s.physMeet ld c.save.toNat i.length).restoreImage ld asn
        (if !thawed && i.standsAt (ctxKey ld asn) rd then i.reread rd else i)
    else s

/-- RESUME (R407): the context waits for its former resources. -/
def State.resumeCtx (s : State) (ld : Fin 4) (asn : Asn) : State :=
  ctxCommand s ld asn (fun c => c.state == .saved && !c.resuming) fun s => s.setCtx ld asn { s.ctx ld asn with resuming := true }

/-- A write of CTXCMD (R402, R403). -/
def State.ctxcmd (s : State) (ld : Fin 4) (x : DWord) : State :=
  let asn : Asn := BitVec.ofNat 12 x.toNat
  match bits x.toNat 60 4 with
  | 0 => s.createCtx ld asn
  | 1 => s.destroyCtx ld asn
  | 2 => s.preemptCtx ld asn (bit x.toNat 59)
  | 3 => s.resumeCtx ld asn
  | _ => s.ctxRefused ld

/-- The context that an event names. -/
def Arg.asn (a : Arg) : Asn := BitVec.ofNat 12 a.num

/-- CREATE (R403). Subject: the device and the context number. -/
def execCreate (s : State) : Host.Outcome State Fault Refusal := s.onDevice fun s => s.createCtx s.arg.ld s.arg.asn
/-- DESTROY (R403). Subject: the device and the context number. -/
def execDestroy (s : State) : Host.Outcome State Fault Refusal := s.onDevice fun s => s.destroyCtx s.arg.ld s.arg.asn
/-- PREEMPT (R407). Subject: the device and the context number; the flag is REWIND. -/
def execPreempt (s : State) : Host.Outcome State Fault Refusal := s.onDevice fun s => s.preemptCtx s.arg.ld s.arg.asn s.arg.flag

/-- A FREEZE in progress names a context: with ALL those of every device that runs (R8, R409, R431). -/
def State.freezes (s : State) (j : FreezeJob) (ld : Fin 4) (asn : Asn) : Bool :=
  if j.all then s.deviceRuns ld else j.ld == ld && j.asn == asn

/-- PREEMPT_COMPLETE: every group stands at its stop: the image is written and the context reads SAVED (R407). Subject: the device
and the context number. -/
def execPreemptComplete (s : State) : Host.Outcome State Fault Refusal :=
  let ld := s.arg.ld
  let asn := s.arg.asn
  if (s.ctx ld asn).state = .stopping ∧ s.quiet ld asn ∧ ¬ s.jobs.any fun j => !j.thaw && s.freezes j ld asn then
    let s := s.saveContext ld asn
    let c := s.ctx ld asn
    .next (c.image.elim s fun i => s.writeImage ld c.save.toNat (ctxKey ld asn) i)
  else .next s

/-- CTX_RESUME: RESUME of a saved context, which is restored once its resources are free (R407). Subject: the device and the
context number. -/
def execCtxResume (s : State) : Host.Outcome State Fault Refusal :=
  let ld := s.arg.ld
  let asn := s.arg.asn
  .next ((if (s.ctx ld asn).resuming || !s.serves ld then s else s.resumeCtx ld asn).tryResume ld asn)

/-! ### Freeze (R409 to R412) -/

/-- The valid leaves of a context's table below a node, each with its virtual address, and the table's nodes (R359). -/
def tableLeaves (s : State) (ld : Fin 4) (va node : Nat) : List Nat → List (Nat × Nat) × List Nat
  | [] => ([], [])
  | shift :: rest =>
    let r := (List.range (if shift = 43 then 32 else 512)).foldl (fun (acc : List (Nat × Nat) × List Nat) i =>
      let e := s.physDword ld (node + 8 * i)
      let here := va + i * 2 ^ shift
      if !bit e 63 then acc
      else if rest = [] ∨ (shift = 25 ∧ bit e 50) then (acc.1 ++ [(here, e)], acc.2)
      else
        let (ls, ns) := tableLeaves s ld here (bits e 12 28 * 2 ^ 12) rest
        (acc.1 ++ ls, acc.2 ++ ns)) ([], [])
    (r.1, node :: r.2)

/-- The 64 KiB frames of a range of physical addresses. -/
def framesOf (pa n : Nat) : List Nat :=
  if n = 0 then [] else (List.range ((pa + n - 1) / 2 ^ 16 - pa / 2 ^ 16 + 1)).map fun i => (pa / 2 ^ 16 + i) * 2 ^ 16

/-- The frames of a leaf: both copies of a publish buffer, none for host memory (R409). -/
def leafFrames (leaf : Nat) : List Nat :=
  if bits leaf 55 2 ≠ 0 then []
  else framesOf (bits leaf 16 24 * 2 ^ 16) (if bit leaf 50 then 2 ^ 25 else if bit leaf 54 then 2 ^ 17 else 2 ^ 16)

/-- The resident pages of a context: the frames of its leaves, of its page table, and of its backing and save areas and its
device's register-home pool, with the profile that each is reached by (R409). -/
def State.residentPages (s : State) (ld : Fin 4) (asn : Asn) (i : SavedCtx) : List (Nat × Nat × Nat) :=
  let c := s.ctx ld asn
  let (leaves, nodes) := tableLeaves s ld 0 c.ptroot.toNat tableShifts
  let mapped := leaves.flatMap fun (va, leaf) => (leafFrames leaf).map fun p => (ld.val, bits c.regtab.toNat (2 * bits va 43 4) 2, p)
  let plain := (nodes.flatMap fun n => framesOf n 4096) ++ ((i.teams.filterMap Team.backing).flatMap fun a => framesOf a backingBytes) ++
    framesOf c.save.toNat i.length ++
    (if i.teams.isEmpty then [] else framesOf (poolBase s.devices[ld].rhPool) (poolBytes s.devices[ld].rhPool))
  (mapped ++ plain.map fun p => (ld.val, 0, p)).eraseDups

/-- The location of a byte of a resident page, if the part has it. -/
def State.pageLoc (s : State) (p : Nat × Nat × Nat) (i : Nat) : Option Nat :=
  ((s.devices[(Fin.ofNat 4 p.1)]).profiles.getD p.2.1 ⟨Vector.replicate 9 0, false, false⟩).locate (p.2.2 + i)

/-- The bytes of a resident page: any where it delivers poison (R375). -/
def State.pageBytes (s : State) (p : Nat × Nat × Nat) : List Byte :=
  (List.range (2 ^ 16)).map fun i => (s.pageLoc p i).elim 0 fun l =>
    if s.isBad l then BitVec.ofNat 8 (Config.freeNat s.fresh (2 ^ 90 + l)) else Memory.read s.mem l

/-- The read of a resident page meets the uncorrectable errors that stand there (R375, R377). -/
def State.pageMeet (s : State) (p : Nat × Nat × Nat) : State :=
  if s.pack.latent = [] then s
  else s.meetGranules (unitReq (Fin.ofNat 4 p.1) .load 0)
    (((List.range 2048).filterMap fun g => (s.pageLoc p (32 * g)).map granuleOf).filter s.pack.latent.contains)

/-- The contexts that a FREEZE names, among those in some states. -/
def State.frozenBy (s : State) (j : FreezeJob) (ok : CtxState → Bool) : List (Fin 4 × Asn) :=
  s.ctxs.filterMap fun (k, c) =>
    let ld : Fin 4 := Fin.ofNat 4 (k / 4096)
    let asn : Asn := BitVec.ofNat 12 (k % 4096)
    if s.freezes j ld asn && ok c.state then some (ld, asn) else none

/-- The queues of a context stop being served (R409). -/
def State.pauseQueues (s : State) (ld : Fin 4) (asn : Asn) : State :=
  s.setDev ld { s.devices[ld] with
    queues := s.devices[ld].queues.map fun e => if e.2.asn = asn then (e.1, { e.2 with paused := true }) else e }

/-- A FREEZE begins: the named contexts that are LIVE stop (R409). -/
def State.startFreeze (s : State) (j : FreezeJob) : State :=
  (s.frozenBy j (fun st => st == .live)).foldl (fun s (ld, asn) =>
    (s.setCtx ld asn { s.ctx ld asn with state := .stopping, rewind := j.rewind }).pauseQueues ld asn) s

/-- The record of a FREEZE or THAW, and the end of its job (R397, R409, R414). -/
def State.endJob (s : State) (j : FreezeJob) (outcome kind : Nat) : State :=
  let r := recordDwords outcome kind (if j.thaw then 7 else 6) j.ring.val j.pos j.ioff s.pack.time
  let r := if j.thaw then r.set 2 (BitVec.ofNat 64 j.restored) else r
  ({ s with jobs := s.jobs.filter fun x => x.id ≠ j.id }).pushRecord j.ld j.queue r

/-- The path that the image's writes take is whole: both host links, or the fabric (R411, R412). -/
def State.freezePath (s : State) (j : FreezeJob) : Bool :=
  if j.fab then !s.pack.safe && Config.fabricAnswer j.addr s.fresh == 0
  else s.pack.hostUp0 != 0 && s.pack.hostUp2 != 0

/-- Contexts frozen, their launches reported FROZEN, and the commands for their records held (R341, R411, R412). -/
def State.freezeContexts (s : State) (keys : List (Fin 4 × Asn)) : State :=
  keys.foldl (fun s (ld, asn) =>
    let c := s.ctx ld asn
    let hosts := c.image.elim [] fun i => i.launches.filter fun l => l.parent.isNone
    let s := hosts.foldl (fun s l => State.endLaunch s l 2 0 0) s
    s.setCtx ld asn { c with state := .frozen, image := none, resuming := false, records := c.image.elim [] SavedCtx.faults }) s

/-! ### The bytes of a freeze image (R409, R411, R413; log entry 81) -/

/-- What a FREEZE writes, with the offsets: each context image, then at a multiple of 4 KiB the page list, the number of pages first and
then for each page a dword that names it and its bytes. -/
def State.freezePieces (s : State) (x : FreezeImage) : List (Nat × List Byte) :=
  let (at_, pieces) := x.ctxs.foldl (fun (acc : Nat × List (Nat × List Byte)) e => match e.2.image with
    | some i => (acc.1 + i.length, acc.2 ++ (i.pieces e.1 s.pack.pkgid).map fun p => (acc.1 + p.1, p.2))
    | none => acc) (0, [])
  let name := fun (p : Nat × Nat × Nat) => dwordBytes (p.2.2 + p.2.1 * 2 ^ 48 + p.1 * 2 ^ 50)
  pieces ++ (at_, dwordBytes x.pages.length) ::
    x.pages.zipIdx.map fun (p, k) => (at_ + 8 + (8 + 2 ^ 16) * k, name p ++ s.pageBytes p)

/-- The bytes that a FREEZE needs. -/
def piecesEnd (ps : List (Nat × List Byte)) : Nat := ps.foldl (fun n p => max n (p.1 + p.2.length)) 0

/-- Bytes of a freeze image written to host memory, or through a handle; none where the path refuses them (R411, R412). -/
def State.putFreeze (s : State) (j : FreezeJob) (at_ : Nat) (bs : List Byte) : Option State :=
  if !j.fab then some (s.hostWrite (j.addr.toNat + at_) bs)
  else if bits j.addr.toNat 56 8 ≠ s.pack.pkgid.toNat then
    some (s.sendRemote (bs.zipIdx.map fun (b, i) => (.remote j.addr (at_ + i), b)))
  else match s.exportFor j.addr with
    | none => none
    | some (ld, e) =>
      let r : Req := { ld := ld, asn := e.asn, priv := .system, kind := .store }
      if e.rights &&& rightsNeeded .store ≠ rightsNeeded .store ∨ e.size.toNat < at_ + bs.length then none
      else match s.places r (e.base.toNat + at_) bs.length with
        | .error _ => none
        | .ok (s, ps) => some (s.writePlaces r ps bs)

/-- A freeze image, as a THAW reads it: of another package's memory, what this package has sent there, unless that has changed since. -/
def State.freezeReader (s : State) (j : FreezeJob) : ImageReader := fun at_ n =>
  if !j.fab then s.hostRead (j.addr.toNat + at_) n
  else if bits j.addr.toNat 56 8 ≠ s.pack.pkgid.toNat then
    (List.range n).map fun i =>
      let sent := s.pack.fabricOut.reverse.find? fun e => e.1 == j.addr && e.2.1 == at_ + i
      if Config.freeBit s.fresh (2 ^ 22) then BitVec.ofNat 8 (Config.freeNat s.fresh (2 ^ 97 + at_ + i)) else sent.elim 0 fun e => e.2.2
  else match s.exportFor j.addr with
    | none => []
    | some (ld, e) =>
      match s.places { ld := ld, asn := e.asn, priv := .system, kind := .load } (e.base.toNat + at_) n with
      | .error _ => []
      | .ok (s, ps) => (s.readPlaces ps).1

/-- The contexts of a freeze image with the offsets of their images. -/
def FreezeImage.placed (x : FreezeImage) : List (Nat × Nat × Ctx) :=
  (x.ctxs.foldl (fun (acc : Nat × List (Nat × Nat × Ctx)) e =>
    (acc.1 + e.2.image.elim 0 SavedCtx.length, acc.2 ++ [(acc.1, e)])) (0, [])).2

/-- An image's reader from an offset on. -/
def ImageReader.drop (rd : ImageReader) (k : Nat) : ImageReader := fun o n => rd (k + o) n

/-- The bytes spell a freeze image: there is a header, and every header and every section's CRC is right (R413). -/
def FreezeImage.spelt (x : FreezeImage) (rd : ImageReader) : Bool :=
  !x.ctxs.isEmpty && x.placed.all fun (o, key, c) => c.image.any fun i => i.spelt key (rd.drop o)

/-- The page list of a freeze image: each page with its bytes. -/
def FreezeImage.pageList (x : FreezeImage) (rd : ImageReader) : List ((Nat × Nat × Nat) × List Byte) :=
  let at_ := (x.ctxs.map fun e => e.2.image.elim 0 SavedCtx.length).sum
  (List.range (ofBytes (rd at_ 8))).map fun k =>
    let o := at_ + 8 + (8 + 2 ^ 16) * k
    let d := ofBytes (rd o 8)
    ((bits d 50 2, bits d 48 2, bits d 0 48), rd (o + 8) (2 ^ 16))

/-- A FREEZE whose contexts have all stopped: the image is written, or the FREEZE fails and leaves them stopped (R409, R412). -/
def State.finishFreeze (s : State) (j : FreezeJob) : State :=
  let s := (s.frozenBy j (fun st => st == .stopping)).foldl (fun s (ld, asn) => State.saveContext s ld asn) s
  let keys := s.frozenBy j fun st => st == .saved
  let s := keys.foldl (fun s (ld, asn) => State.emptyCaches s ld asn) s
  let pages := keys.flatMap fun (ld, asn) => (s.ctx ld asn).image.elim [] (s.residentPages ld asn)
  let s := pages.foldl State.pageMeet s
  let x : FreezeImage :=
    { ctxs := keys.map fun (ld, asn) => (ctxKey ld asn, s.ctx ld asn), pages := pages
      poison := pages.flatMap fun p => ((List.range 2048).filter fun g => (s.pageLoc p (32 * g)).any s.isBad).map fun g =>
        (p.1, p.2.1, p.2.2 + 32 * g) }
  let pieces := s.freezePieces x
  if !s.freezePath j then s.endJob j 1 13
  else if j.cap.toNat < piecesEnd pieces then s.endJob j 1 14
  else match pieces.foldl (fun (acc : Option State) p => acc.bind fun s => s.putFreeze j p.1 p.2) (some s) with
    | none => s.endJob j 1 13
    | some s => ({ s with images := x :: s.images }.freezeContexts keys).endJob j 0 0

/-- FREEZE_COMPLETE: once every named context stands stopped, the image is written and they are FROZEN (R409 to R412). Subject: the
job's number. -/
def execFreezeComplete (s : State) : Host.Outcome State Fault Refusal :=
  match s.jobs.find? fun j => j.id == s.arg.num && !j.thaw && j.started with
  | none => .next s
  | some j =>
    .next (if (s.frozenBy j fun st => st == .stopping).all fun (ld, asn) => s.quiet ld asn then s.finishFreeze j else s)

/-! ### Thaw (R413, R414) -/

/-- A record of a thawed context: a command held for it acts when the context runs; else a level G entry is written again, and every
other access is issued again (R341, R413). -/
def FaultRec.thawed (held : List FaultRec) (r : FaultRec) : FaultRec :=
  match (held.find? fun q => q.seq == r.seq && q.dwords == r.dwords).bind FaultRec.held with
  | some op => { r with held := some op }
  | none =>
    if r.held.isSome then r
    else if r.type = 4 then { r with seq := none } else { r with held := some 0 }

/-- A thawed context waits for its resources as a saved one does. -/
def Ctx.thawed (c : Ctx) (job : Nat) (held : List FaultRec) (rd : ImageReader) : Ctx :=
  { c with
    state := .saved, resuming := true, records := []
    image := c.image.map fun i =>
      let i := i.reread rd
      { i with faults := i.faults.map (FaultRec.thawed held), launches := i.launches.map fun l => { l with thaw := some job } } }

/-- The pages of a freeze image are written to their physical addresses (R413). -/
def State.writePages (s : State) (x : FreezeImage) (rd : ImageReader) : State :=
  let r : Req := { ld := 0, asn := 0, priv := .system, kind := .store }
  let s := (x.pageList rd).foldl (fun (s : State) p =>
    s.writePlain r (p.2.zipIdx.filterMap fun (b, i) => (s.pageLoc p.1 i).map fun l => (l, b))) s
  { s with poison := x.poison.foldl (fun l p => match s.pageLoc p 0 with
      | some a => insertNat (granuleOf a) l
      | none => l) s.poison }

/-- A THAW begins: it fails with BADIMG where no image stands that checks, or CTXBUSY; else the pages and the contexts are written
(R413; log entry 81). -/
def State.startThaw (s : State) (j : FreezeJob) : State :=
  let rd := s.freezeReader j
  match s.images.find? fun x => s.freezePath j && x.spelt rd with
  | none => s.endJob j 1 12
  | some x =>
    let busy := x.ctxs.any fun e => match (s.ctx (Fin.ofNat 4 (e.1 / 4096)) (BitVec.ofNat 12 (e.1 % 4096))).state with
      | .live | .stopping | .saved => true
      | .free | .frozen => false
    if busy then s.endJob j 1 15
    else
      let s := s.writePages x rd
      let put := fun (l : List (Nat × Ctx)) (o, key, c) =>
        putBy key (Ctx.thawed c j.id ((getBy key s.ctxs).elim [] Ctx.records) (rd.drop o)) l
      let n := (x.ctxs.map fun e => e.2.image.elim 0 fun i => i.launches.length).sum
      { s with ctxs := x.placed.foldl put s.ctxs
               jobs := s.jobs.map fun (k : FreezeJob) => if k.id = j.id then { k with started := true, restored := n } else k }

/-- The newest FREEZE or THAW packet begins. -/
def State.startJobs (s : State) : State :=
  (s.jobs.filter fun j => !j.started).foldl (fun s j =>
    if j.thaw then s.startThaw j
    else ({ s with jobs := s.jobs.map fun (k : FreezeJob) => if k.id = j.id then { k with started := true } else k }).startFreeze j) s

/-- MERGE_VISIT: the queue to be served takes a packet, or passes its barriers; a FREEZE or THAW begins
at once (R385, R386, R409, R413). Subject: the device. -/
def execMergeVisit (s : State) : Host.Outcome State Fault Refusal :=
  let ld := s.arg.ld
  match s.serveChoice ld with
  | some (q, false) =>
    match s.offer ld q with
    | some .barriers => .next (s.passBarriers ld q)
    | some (.ring r) => .next (s.takeRing ld q r).startJobs
    | some .inner =>
      match (s.queue ld q).indirect with
      | none => .next s
      | some i => .next (s.takeInner ld q i).startJobs
    | none => .next s
  | _ => .next s

/-- THAW_COMPLETE: every launch that the THAW restored has completed (R414). Subject: the job's number. -/
def execThawComplete (s : State) : Host.Outcome State Fault Refusal :=
  match s.jobs.find? fun j => j.id == s.arg.num && j.thaw && j.started with
  | none => .next s
  | some j =>
    let left := (s.launches.any fun l => l.thaw == some j.id) ||
      s.ctxs.any fun e => e.2.image.any fun i => i.launches.any fun l => l.thaw == some j.id
    if left then .next s
    else
      let x := (j.outcome.getD 0).toNat
      .next (s.endJob j (bits x 62 2) (bits x 56 6))

/-! ### Registers that set up pools, publish buffers and profiles -/

/-- A write of POOLn (R4, R402, R404): while EN is 1, only one that clears EN acts; what is written is stored, in its range or not (log entry
98). -/
def State.writePool (s : State) (ld : Fin 4) (n : Fin 8) (x : DWord) : State :=
  let d := s.devices[ld]
  let p := d.pools[n]
  let base := bits x.toNat 0 48
  let en := bit x.toNat 63
  if p.en && en then s
  else s.setDev ld { d with pools := d.pools.set n { p with
    en := en, asn := BitVec.ofNat 12 (bits x.toNat 48 12), base := BitVec.ofNat 48 base, used := if en then [] else p.used } }

/-- A write of POOLSZn: ignored while EN is 1 (R404); else what is written is stored, in its range or not (R4, R402, log entry 98). -/
def State.writePoolSize (s : State) (ld : Fin 4) (n : Fin 8) (x : DWord) : State :=
  let d := s.devices[ld]
  let p := d.pools[n]
  let size := bits x.toNat 0 25
  if p.en then s
  else s.setDev ld { d with pools := d.pools.set n { p with size := BitVec.ofNat 25 size } }

/-- A write of PBUFn (R372): while EN is 1, only one that clears EN acts, and it changes EN alone; enabling sets SEL to 0. -/
def State.writePubBuf (s : State) (ld : Fin 4) (n : Fin 64) (x : DWord) : State :=
  let d := s.devices[ld]
  let b := d.pbuf[n]
  let en := bit x.toNat 63
  if b.en && en then s
  else if b.en then s.setDev ld { d with pbuf := d.pbuf.set n { b with en := false } }
  else
    let b : PubBuf := { en := en, sel := if en then false else b.sel, asn := BitVec.ofNat 12 (bits x.toNat 48 12)
                        page := bits x.toNat 16 32, count := bits x.toNat 0 8 + 1 }
    s.setDev ld { d with pbuf := d.pbuf.set n b }

/-- A live context of a device has a region that names a profile (R363). -/
def State.profileNamed (s : State) (ld : Fin 4) (f : Nat) : Bool :=
  s.ctxs.any fun e => e.1 / 4096 == ld.val && e.2.state == .live && (List.range 16).any fun r => bits e.2.regtab.toNat (2 * r) 2 == f

/-- A write of PCTLf (R363): ERR is cleared by a 0; EN is set when the pivots of the nonzero masks are distinct, and cleared when no
live context names the profile; a write that fails either sets ERR. -/
def State.writeProfile (s : State) (ld : Fin 4) (f : Fin 4) (x : DWord) : State :=
  let d := s.devices[ld]
  let p := d.profiles[f]
  let err := p.err && bit x.toNat 1
  let masks := (p.masks.toList.filter fun m => m != 0).map fun m => Nat.log2 m.toNat
  let p := if bit x.toNat 0 then
      (if p.en then { p with err := err } else if masks.Nodup then { p with en := true, err := err } else { p with err := true })
    else if s.profileNamed ld f.val then { p with err := true }
    else { p with en := false, err := err }
  s.setDev ld { d with profiles := d.profiles.set f p }

/-- POOL_WRITE (R404). Subject: the device, the pool's number and the value. -/
def execPoolWrite (s : State) : Host.Outcome State Fault Refusal :=
  s.onDevice fun s => s.writePool s.arg.ld (Fin.ofNat 8 s.arg.num) s.arg.value
/-- PBUF_WRITE (R372). Subject: the device, the buffer's number and the value. -/
def execPbufWrite (s : State) : Host.Outcome State Fault Refusal :=
  s.onDevice fun s => s.writePubBuf s.arg.ld (Fin.ofNat 64 s.arg.num) s.arg.value
/-- PCTL_WRITE (R363). Subject: the device, the profile's number and the value. -/
def execPctlWrite (s : State) : Host.Outcome State Fault Refusal :=
  s.onDevice fun s => s.writeProfile s.arg.ld (Fin.ofNat 4 s.arg.num) s.arg.value

end Sys2Proof.Machine
end

