-- ==== Sys2Proof/Machine/Fabric.lean ====
section
/-! DEFINITION. Handles, tides and pinned links, and the Ethernet ports (R119, R415 to R425). -/

namespace Sys2Proof.Machine

open Sys2Proof

/-! ### Handles (R415 to R418) -/

/-- XSTAT.BADCMD. -/
def State.xBad (s : State) (ld : Fin 4) : State := s.setDev ld { s.devices[ld] with xBad := true }

/-- An export entry is whole (R415): what the part itself writes is not looked at. -/
def exportOk (d : List DWord) : Bool :=
  let base := bits (dw d 0) 0 48
  let size := dw d 1
  base % 2 ^ 16 == 0 && size % 2 ^ 16 == 0 && decide (2 ^ 16 ≤ size ∧ size < 2 ^ 48 ∧ base + size ≤ 2 ^ 48) && bits (dw d 2) 32 32 == 0 && dw d 3 == 0

/-- The token of an export entry (R416). -/
def tokenOf (pkgid : Byte) (ld : Fin 4) (n : Fin 256) (asn : Asn) (base size : Addr) (rights : BitVec 3) (gen : Word) : DWord :=
  BitVec.ofNat 64 (pkgid.toNat * 2 ^ 56 + ld.val * 2 ^ 54 + n.val * 2 ^ 46 +
    (Config.tokenCheck pkgid asn base size rights gen).toNat)

/-- GEN of an export entry: 0 before its first use. -/
def Device.gen (d : Device) (n : Fin 256) : Word := (getBy n.val d.gens).getD 0

/-- XCMD EXPORT (R415, R416). -/
def State.exportRange (s : State) (ld : Fin 4) (n : Fin 256) : State :=
  let (s, e) := s.readEntry ld (s.devices[ld].exportEntry n)
  let d := s.devices[ld]
  if d.xBusy || !exportOk e then s.xBad ld
  else
    let gen := d.gen n + 1
    let asn : Asn := BitVec.ofNat 12 (bits (dw e 0) 48 12)
    let base : Addr := BitVec.ofNat 48 (dw e 0)
    let size : Addr := BitVec.ofNat 48 (dw e 1)
    let rights : BitVec 3 := BitVec.ofNat 3 (bits (dw e 0) 60 3)
    let token := tokenOf s.pack.pkgid ld n asn base size rights gen
    let x : ExportEntry := { n := n, rights := rights, asn := asn, base := base, size := size, gen := gen, token := token }
    let s := s.setDev ld { d with
      exports := x :: d.exports.filter fun k => k.n ≠ n, gens := putBy n.val gen d.gens, xToken := token }
    s.writeExport ld n (dw e 0) true gen

/-- XCMD REVOKE: EN clears and GEN rises at once; BUSY stays 1 until REVOKE_COMPLETE (R418). -/
def State.revoke (s : State) (ld : Fin 4) (n : Fin 256) : State :=
  let d := s.devices[ld]
  if d.xBusy || !d.exports.any fun e => e.n == n then s.xBad ld
  else
    let gen := d.gen n + 1
    let (s, e) := s.readEntry ld (d.exportEntry n)
    let s := s.setDev ld { s.devices[ld] with exports := d.exports.filter fun k => k.n ≠ n, gens := putBy n.val gen d.gens, xBusy := true }
    s.writeExport ld n (dw e 0) false gen

/-- An import entry is well formed (R417): a nonzero reserved field, among them SIZE above 48 bits, makes it malformed, which the spec
does not settle (log entry 117). -/
def importOk (d : List DWord) : Bool :=
  let win := bits (dw d 0) 0 48
  bits (dw d 0) 48 15 == 0 && win % 2 ^ 16 == 0 && inPeer win && bits (dw d 1) 48 16 == 0 && dw d 3 == 0

/-- XCMD IMPORT: the token is sent (R417). -/
def State.importSend (s : State) (ld : Fin 4) (asn : Asn) (n : Fin 256) : State :=
  let (s, e) := s.readEntry ld (s.devices[ld].importEntry n)
  let d := s.devices[ld]
  if d.xBusy || !importOk e then s.xBad ld
  else s.setDev ld { d with xBusy := true, pendingImport := some ⟨n, asn, s.pack.time, none⟩ }

/-- XCMD UNIMPORT (R418). -/
def State.unimport (s : State) (ld : Fin 4) (n : Fin 256) : State :=
  let d := s.devices[ld]
  if d.xBusy || !d.imports.any fun e => e.n == n then s.xBad ld
  else
    let (s, e) := s.readEntry ld (d.importEntry n)
    let s := s.setDev ld { s.devices[ld] with imports := d.imports.filter fun k => k.n ≠ n }
    s.physWrite ld (d.importEntry n) (dwordBytes (dw e 0 % 2 ^ 63))

/-- A write of XCMD by, or for, a context (R402, R415 to R418). -/
def State.xcmd (s : State) (ld : Fin 4) (asn : Asn) (x : DWord) : State :=
  let n : Fin 256 := Fin.ofNat 256 (bits x.toNat 0 8)
  match bits x.toNat 60 4 with
  | 0 => s.exportRange ld n
  | 1 => s.revoke ld n
  | 2 => s.importSend ld asn n
  | 3 => s.unimport ld n
  | _ => s.xBad ld

/-- EXPORT (R415). Subject: the device and the entry, as of every command here. -/
def execExportHandle (s : State) : Host.Outcome State Fault Refusal :=
  s.onDevice fun s => s.exportRange s.arg.ld (Fin.ofNat 256 s.arg.num)
/-- REVOKE (R418). -/
def execRevokeHandle (s : State) : Host.Outcome State Fault Refusal :=
  s.onDevice fun s => s.revoke s.arg.ld (Fin.ofNat 256 s.arg.num)
/-- IMPORT (R417), for the context that CTXSEL names. -/
def execImportHandle (s : State) : Host.Outcome State Fault Refusal :=
  s.onDevice fun s => s.importSend s.arg.ld s.devices[s.arg.ld].ctxSel (Fin.ofNat 256 s.arg.num)
/-- UNIMPORT (R418). -/
def execUnimportHandle (s : State) : Host.Outcome State Fault Refusal :=
  s.onDevice fun s => s.unimport s.arg.ld (Fin.ofNat 256 s.arg.num)

/-- A device has a REVOKE in progress. -/
def Device.revoking (d : Device) : Bool := d.xBusy && d.pendingImport.isNone

/-- REVOKE_COMPLETE: accepted accesses are performed, and lines held under tokens that are no longer valid are invalidated (R370,
R418). Subject: the device. -/
def execRevokeComplete (s : State) : Host.Outcome State Fault Refusal :=
  let ld := s.arg.ld
  let d := s.devices[ld]
  if d.revoking then
    let s := s.setDev ld { d with xBusy := false }
    .next (s.dropPeers fun p => (s.exportFor p.token).isNone)
  else .next s

/-- The exporter's answer to a token: 0 OK, 1 HANDLE, 2 SIZE (R417). -/
def State.importAnswer (s : State) (token : DWord) (size : Nat) : Fin 4 :=
  match s.exportFor token with
  | none => 1
  | some (_, e) => if e.size.toNat < size then 2 else 0

/-- A token names this package. -/
def State.tokenHere (s : State) (token : DWord) : Bool := bits token.toNat 56 8 == s.pack.pkgid.toNat

/-- IMPORT_REQUEST_ARRIVAL: a token of this package reaches its exporter, which answers the device that sent it; a token from
another package is answered on the fabric, and changes nothing here (R417). Subject: the importing device. -/
def execImportRequestArrival (s : State) : Host.Outcome State Fault Refusal :=
  let ld := s.arg.ld
  let d := s.devices[ld]
  match d.pendingImport with
  | none => .next s
  | some w =>
    let e := s.tableEntry ld (d.importEntry w.n)
    let token := e.getD 2 0
    if s.tokenHere token ∧ w.answer.isNone then
      .next (s.setDev ld { d with pendingImport := some { w with answer := some (s.importAnswer token (dw e 1)) } })
    else .next s

/-- The answer that an import has by now, if any: NOPATH after 1 ms (R417). -/
def State.importResult (s : State) (w : ImportWait) (token : DWord) : Option (Fin 4) :=
  match w.answer with
  | some a => some a
  | none =>
    if w.since + 1000000 ≤ s.pack.time then some 3
    else if s.tokenHere token ∨ s.pack.safe then none
    else some (Config.fabricAnswer token s.fresh)

/-- IMPORT_RESPONSE: the answer, or the end of 1 ms, sets the result; OK sets EN (R417). Subject: the device. -/
def execImportResponse (s : State) : Host.Outcome State Fault Refusal :=
  let ld := s.arg.ld
  let d := s.devices[ld]
  match d.pendingImport with
  | none => .next s
  | some w =>
    let e := s.tableEntry ld (d.importEntry w.n)
    let token := e.getD 2 0
    match s.importResult w token with
    | none => .next s
    | some a =>
      let d := { d with xBusy := false, pendingImport := none, xResult := a }
      if a = 0 then
        let x : ImportEntry := { n := w.n, asn := w.asn, win := BitVec.ofNat 48 (dw e 0), size := BitVec.ofNat 48 (dw e 1), token := token }
        let s := s.setDev ld { d with imports := x :: d.imports.filter fun k => k.n ≠ w.n }
        .next (s.physWrite ld (d.importEntry w.n) (dwordBytes (2 ^ 63 + dw e 0 % 2 ^ 63)))
      else .next (s.setDev ld d)

/-! ### Tides (R119, R305, R419, R420) -/

/-- Bundles of a link: 0 to 3 basin links, 4 to 7 ring links (4 + k joins CDk and the next die), 8 to 11 pier links. -/
def bundlesOf (i : Fin 12) : Nat := if i.val < 4 then 64 else if i.val < 8 then 32 else 16

/-- The die at a link's reference end: the compute die, or the lower-numbered die of a ring link (R419). -/
def referenceDie (i : Fin 12) : Fin 4 :=
  if i.val < 4 then Fin.ofNat 4 i.val else if i.val = 7 then 0 else if i.val < 8 then Fin.ofNat 4 (i.val - 4) else Fin.ofNat 4 (i.val - 8)

/-- The link that a die names by a code of TIDE (R305). -/
def linkOf (die : Fin 4) (code : Fin 4) : Fin 12 :=
  if code = 0 then Fin.ofNat 12 die.val
  else if code = 1 then Fin.ofNat 12 (4 + die.val)
  else if code = 2 then Fin.ofNat 12 (4 + (die.val + 3) % 4)
  else Fin.ofNat 12 (8 + die.val)

/-- An inbound count of a die restated as the count facing the link's reference end (R419). -/
def restate (i : Fin 12) (die : Fin 4) (n : Nat) : Int :=
  if referenceDie i = die then n else (bundlesOf i : Int) - n

/-- A count held between a link's floors (R119). -/
def clampLink (i : Fin 12) (x : Int) : Nat :=
  let b := bundlesOf i
  clamp (b / 8) (b - b / 8) x.toNat

/-- The requests on a link: weight and restated count of each context that runs and asks (R419). -/
def State.linkRequests (s : State) (i : Fin 12) : List (Nat × Int) :=
  s.ctxs.flatMap fun (k, c) =>
    let die : Fin 4 := Fin.ofNat 4 (k / 4096)
    if c.state = .live ∨ c.state = .stopping then
      c.tides.filterMap fun t => if linkOf die t.link = i then some (c.tweight.toNat, restate i die t.inbound) else none
    else []

/-- The target of a link's requests (R419). -/
def linkTarget (i : Fin 12) (rs : List (Nat × Int)) : Nat :=
  let w : Nat := (rs.map Prod.fst).sum
  let x : Int := (rs.map fun r => (r.1 : Int) * r.2).sum
  if w = 0 then bundlesOf i / 2 else clampLink i ((2 * x + w) / (2 * w))

/-- The count at which a link is pinned: by its reference end, else, on a ring link, by its other end (R420). -/
def State.linkPin (s : State) (i : Fin 12) : Option Nat :=
  let pins := (List.finRange 4).flatMap fun (die : Fin 4) => (List.finRange 4).filterMap fun (code : Fin 4) =>
    let x := (s.devices[die]).lpin[code]
    if linkOf die code = i ∧ bit x.toNat 7 then some (die, clampLink i (restate i die (x.toNat % 128))) else none
  match pins.find? fun p => p.1 == referenceDie i with
  | some p => some p.2
  | none => pins.head?.map Prod.snd

/-- One link at an evaluation: its pin, half of its bundles at the evaluation after a pin was cleared, or its requests' target (R419,
R420). -/
def State.linkNext (s : State) (i : Fin 12) : Nat :=
  match s.linkPin i with
  | some n => n
  | none => if s.pack.linkPinned[i] then bundlesOf i / 2 else linkTarget i (s.linkRequests i)

/-- TIDE_EVALUATE: at each multiple of 2 µs of package time every link turns to its target (R119, R419, R420). -/
def execTideEvaluate (s : State) : Host.Outcome State Fault Refusal :=
  if s.pack.tideAt < s.pack.time / 2000 then
    .next { s with pack := { s.pack with
      tideAt := s.pack.time / 2000
      links := Vector.ofFn fun (i : Fin 12) => s.linkNext i
      linkPinned := Vector.ofFn fun (i : Fin 12) => (s.linkPin i).isSome } }
  else .next s

/-! ### Ethernet (R425) -/

/-- The port that an event names. -/
def Arg.port (a : Arg) : Fin 8 := Fin.ofNat 8 a.num

/-- A port changed. -/
def State.setPort (s : State) (p : Fin 8) (x : EthPort) : State := { s with pack := { s.pack with eth := s.pack.eth.set p x } }

/-- The translation request of a port's accesses: the owning context's. -/
def EthPort.req (x : EthPort) (k : AccKind) : Req :=
  { ld := Fin.ofNat 4 (bits x.cfg.toNat 40 2), asn := BitVec.ofNat 12 (bits x.cfg.toNat 44 12), priv := .user, kind := k }

/-- The address of a ring's descriptor (R425). -/
def descriptorAt (ring : DWord) (n : Word) : Nat :=
  bits ring.toNat 4 44 * 16 + 16 * (n.toNat % 2 ^ (min 15 (4 + ring.toNat % 16)))

/-- A port's access for a frame sent or received awaits an answer (R340). -/
def State.portParked (s : State) (p : Fin 8) (rx : Bool) : Bool :=
  (List.finRange 4).any fun (ld : Fin 4) => s.devices[ld].faults.any fun r => r.owner == .port p rx

/-- A port's refused access is parked until it is answered (R340, R360; log entry 36). -/
def State.parkPort (s : State) (p : Fin 8) (rx : Bool) (k : AccKind) (reason a : Nat) : State :=
  let r := s.pack.eth[p].req k
  (s.meetTable r.ld r.asn a reason).postFault r.ld
    { seq := none, type := 1, asn := r.asn, owner := .port p rx, held := none
      dwords := faultDwords 1 Kind.xlate.code reason r.asn (accessBits k 6) a 1 0 (r.ld.val * 2 ^ 30) 0 0 0 none s.pack.time
        (BitVec.ofNat 64 a) }

/-- Bytes read for a port, and whether they read as poison; or the state in which the access has been parked. -/
def portRead (s : State) (p : Fin 8) (rx : Bool) (a n : Nat) : Except State (State × List Byte × Bool) :=
  let r := s.pack.eth[p].req .load
  match s.places r a n with
  | .error why => .error (s.parkPort p rx .load why (s.refusedAt r a n))
  | .ok (s, ps) =>
    let (bs, bad) := s.readPlaces ps
    .ok (s, bs, bad.isSome)

/-- Bytes written for a port, or the state in which the access has been parked. -/
def portWrite (s : State) (p : Fin 8) (rx : Bool) (a : Nat) (bs : List Byte) : Except State State :=
  let r := s.pack.eth[p].req .store
  match s.places r a bs.length with
  | .error why => .error (s.parkPort p rx .store why (s.refusedAt r a bs.length))
  | .ok (s, ps) => .ok (s.writePlaces r ps bs)

/-- The state that an operation leaves, be it parked or not. -/
def eitherState (r : Except State State) : State :=
  match r with
  | .ok s => s
  | .error s => s

/-- A release at system scope of the part's own, on a port's device: what it has written before is visible to whoever acquires there (R131,
R371, R424, R425). -/
def State.releasePort (s : State) (p : Fin 8) : State :=
  (s.invals.foldl (fun s i => State.dropShared s i.line i.sharer) s).releaseHost (s.pack.eth[p].req .store).ld

/-- A descriptor's dword 1 when the part gives it back: length and status, OWN 0 (R425). -/
def descriptorDone (len : Nat) (bad : Bool) : List Byte := dwordBytes (bitNat bad * 2 ^ 56 + len % 2 ^ 14)

/-- A length that a frame may have (R425). -/
def frameLength (n : Nat) : Bool := decide (64 ≤ n ∧ n ≤ 9216)

/-- One frame sent from a port's transmit ring. -/
def sendFrame (s : State) (p : Fin 8) : Except State State := do
  let x := s.pack.eth[p]
  let at_ := descriptorAt x.tx x.txHead
  let (s1, bs, _) ← portRead s p false at_ 16
  let d := dwordsOf bs
  let len := bits (dw d 1) 0 14
  if !bit (dw d 1) 63 then return s1
  else
    let (s2, frame, bad) ← if frameLength len then portRead s1 p false (bits (dw d 0) 0 48) len else .ok (s1, [], true)
    let s3 ← portWrite (s2.releasePort p) p false (at_ + 8) (descriptorDone len bad)
    return s3.setPort p { x with txHead := x.txHead + 1, sent := if bad then x.sent else x.sent ++ [frame] }

/-- ETH_TRANSMIT_FRAME: the next entry handed to a port is sent in ring order, once no access for it awaits an answer (R425). Subject:
the port. -/
def execEthTransmitFrame (s : State) : Host.Outcome State Fault Refusal :=
  let p := s.arg.port
  let x := s.pack.eth[p]
  .next (if bit x.cfg.toNat 63 ∧ x.txHead ≠ x.txTail ∧ ¬ s.portParked p false then eitherState (sendFrame s p) else s)

/-- One frame received into a port's receive ring; without an entry that the part owns it is lost. -/
def takeFrame (s : State) (p : Fin 8) (frame : List Byte) (bad : Bool) : Except State State := do
  let x := s.pack.eth[p]
  let at_ := descriptorAt x.rx x.rxHead
  let (s1, bs, _) ← portRead s p true at_ 16
  let d := dwordsOf bs
  if !bit (dw d 1) 63 then return s1.setPort p { x with held := none }
  else
    let s2 ← portWrite s1 p true (bits (dw d 0) 0 48) frame
    let s3 ← portWrite (s2.releasePort p) p true (at_ + 8) (descriptorDone frame.length bad)
    return s3.setPort p { x with rxHead := x.rxHead + 1, held := none }

/-- A frame received, and kept while an access for it awaits an answer. -/
def State.receive (s : State) (p : Fin 8) (frame : List Byte) (bad : Bool) : State :=
  match takeFrame s p frame bad with
  | .ok s => s
  | .error s => s.setPort p { s.pack.eth[p] with held := some (frame, bad) }

/-- ETH_RECEIVE_FRAME: a frame goes into the next entry of the receive ring; without one, or while a frame that came before awaits an
answer, it is lost; a frame that has awaited its answer goes first (R425; log entry 36). Subject: the port, the frame's bytes, and
whether it is bad. -/
def execEthReceiveFrame (s : State) : Host.Outcome State Fault Refusal :=
  let p := s.arg.port
  let x := s.pack.eth[p]
  if s.portParked p true then .next s
  else match x.held with
    | some (frame, bad) => .next (s.receive p frame bad)
    | none =>
      .next (if bit x.cfg.toNat 63 ∧ x.rxHead ≠ x.rxTail ∧ frameLength s.arg.bytes.length then s.receive p s.arg.bytes s.arg.flag else s)

/-- TX_TAIL_WRITE (R425). Subject: the port and the value. -/
def execTxTailWrite (s : State) : Host.Outcome State Fault Refusal :=
  s.onDevice fun s => s.setPort s.arg.port { s.pack.eth[s.arg.port] with txTail := BitVec.ofNat 32 s.arg.value.toNat }
/-- RX_TAIL_WRITE (R425). Subject: the port and the value. -/
def execRxTailWrite (s : State) : Host.Outcome State Fault Refusal :=
  s.onDevice fun s => s.setPort s.arg.port { s.pack.eth[s.arg.port] with rxTail := BitVec.ofNat 32 s.arg.value.toNat }

/-- A write of ETHCFG: in safe harbour only ports 0 and 1 are enabled (R425, R431). -/
def State.writeEthCfg (s : State) (p : Fin 8) (x : DWord) : State :=
  let x := BitVec.ofNat 64 (x.toNat &&& 0xE0FFF30000000000)
  let x := if s.pack.safe ∧ 2 ≤ p.val then x &&& 0x7FFFFFFFFFFFFFFF else x
  s.setPort p { s.pack.eth[p] with cfg := x }

end Sys2Proof.Machine
end

