-- ==== Sys2Proof/Machine/Board.lean ====
section
/-! DEFINITION. The start of the part, its resets, power and heat, attestation and the boot flash (chapter 20, R426 to
R438). -/

namespace Sys2Proof.Machine

open Sys2Proof

/-! ### The boot flash and its counter sector (R429, R430) -/

/-- Location of a byte of the counter sector. -/
def counterLoc (i : Nat) : Nat := flashLoc (65536 * Config.counterSector.val + i)

/-- Flash programming can only clear bits. -/
def State.program (s : State) (loc : Nat) (b : Byte) : State :=
  { s with mem := Memory.write s.mem loc (Memory.read s.mem loc &&& b)
           pack := { s.pack with touched := some ⟨false, loc, s.pack.time⟩ } }

/-- A sector of flash erased: its bytes read 0xFF. -/
def State.eraseSector (s : State) (k : Nat) : State :=
  { s with mem := Memory.clearRange s.mem (flashLoc (65536 * k)) 65536
           pack := { s.pack with touched := some ⟨true, k, s.pack.time⟩ } }

/-- A byte that a loss of power has interrupted: any value, but not 0xFF where it was being programmed (R430). -/
def torn (fresh loc : Nat) (erase : Bool) : Byte :=
  let b := Config.freeNat fresh (2 ^ 99 + loc)
  BitVec.ofNat 8 (if erase then b else b % 255)

/-- What a loss of power leaves of the flash: a byte that was being programmed may hold any value other than 0xFF, and the first bytes of a
sector that was being erased any value (R429, R430; log entry 133). -/
def State.tornFlash (s : State) : List Host.Cell :=
  match s.pack.touched with
  | none => s.mem
  | some t =>
    if t.since + Config.flashTime t.erase ≤ s.pack.time then s.mem
    else if t.erase then
      (List.range 16).foldl (fun m i => let l := flashLoc (65536 * t.at_ + i); Memory.write m l (torn s.fresh l true)) s.mem
    else Memory.write s.mem t.at_ (torn s.fresh t.at_ false)

/-- The counter sector's first 16 bytes. -/
def State.counter (s : State) : List Byte := Memory.readBytes s.mem (counterLoc 0) 16

/-- The number of bytes before the first 0xFF byte. -/
def counted (bs : List Byte) : Nat := (bs.takeWhile fun b => b != 0xFF).length

/-- The reason that a counted byte holds. -/
def reasonOf (b : Byte) : Nat := if b.getLsbD 7 then 0 else 0x7F - b.toNat

/-- The reason of the last start counted, 0 when there is none. -/
def lastReason (bs : List Byte) : Nat :=
  match counted bs with
  | 0 => 0
  | n + 1 => reasonOf (bs.getD n 0)

/-- A reason programmed into a counter byte that reads 0x7F; any other byte is left. -/
def State.noteReason (s : State) (i r : Nat) : State :=
  if Memory.read s.mem (counterLoc i) = 0x7F then s.program (counterLoc i) (BitVec.ofNat 8 (0x7F - r)) else s

/-- A reason programmed for the last counted start; with none counted, into byte 0 (R430). -/
def State.noteLast (s : State) (r : Nat) : State :=
  match counted s.counter with
  | 0 => s.program (counterLoc 0) (BitVec.ofNat 8 (0x7F - r))
  | n + 1 => s.noteReason n r

/-- The reason THERMTRIP programmed for the present start: into its own byte, or into byte 0 once FWREADY has erased the sector, unless
there is a reason already (R435). -/
def State.noteTrip (s : State) : State :=
  if s.pack.stage = .ready ∧ ¬ s.pack.safe then
    (if Memory.read s.mem (counterLoc 0) = 0xFF then s.program (counterLoc 0) 0x77 else s.noteReason 0 8)
  else s.noteReason s.pack.attempts 8

/-- Step 1 of a start: the attempt is counted; answers `n` and the last reason (R429). -/
def State.countAttempt (s : State) : State × Nat × Nat :=
  let bs := s.counter
  let last := lastReason bs
  if counted bs = 16 then
    let s := s.eraseSector Config.counterSector.val
    let s := ((s.program (counterLoc 0) 0x7F).program (counterLoc 1) 0x7F).program (counterLoc 2) (BitVec.ofNat 8 (0x7F - last))
    (s.program (counterLoc 3) 0x7F, 3, last)
  else (s.program (counterLoc (counted bs)) 0x7F, counted bs, last)

/-- 10 s in nanoseconds. -/
def tenSeconds : Nat := 10000000000

/-! ### Resets (R433) -/

/-- The bytes that a loss of power leaves: the boot flash, and the host's own memory. -/
def keptCells (m : List Host.Cell) : List Host.Cell :=
  m.filter fun c => decide (2 ^ 64 ≤ c.1 ∧ c.1 < 2 ^ 66) || decide (2 ^ 68 ≤ c.1)

/-- HBM4 bytes become undefined: where something has been written, free bytes (log entry 37). -/
def undefinedCells (fresh : Nat) (where_ : Nat → Bool) (m : List Host.Cell) : List Host.Cell :=
  m.filterMap fun c =>
    if c.1 < 2 ^ 64 ∧ where_ c.1 then
      let b : Byte := BitVec.ofNat 8 (Config.freeWord fresh c.1).toNat
      if b = 0 then none else some (c.1, b)
    else some c

/-- The part as a reset leaves it, about to run the boot ROM; the host's memory, the freeze images in it, and the model's own
fields go on. -/
def State.restart (s : State) (mem : List Host.Cell) (stage : BootStage) (latch : Bool) : State :=
  { State.reset with
    inputs := s.inputs, turn := s.turn, arg := s.arg, fresh := s.fresh + 1, nextId := s.nextId, mem := mem, images := s.images
    pack := { Pack.reset with stage := stage, watchdogLatch := latch, remap := s.pack.remap } }

/-- A package reset: HBM4 contents are undefined; the flash and the reset-cause latch are kept (R430, R433). -/
def State.packageReset (s : State) (watchdog : Bool) : State :=
  let mem := s.mem.filter fun c => decide (c.1 < 2 ^ 66) || decide (2 ^ 68 ≤ c.1)
  s.restart (undefinedCells s.fresh (fun _ => true) mem) .rom watchdog

/-- The bytes of flash from page 0 that may hold a firmware image: a header of 2,048 bytes and 240 KiB of code (R427). -/
def State.image (s : State) : List Byte := Memory.readBytes s.mem (flashLoc 0) (2048 + 240 * 1024)

/-- The generation that a host link trains to: 5, 6 or 7, and 5 at most where it is limited (R423, R431). -/
def linkGeneration (limited : Bool) (n k : Nat) : Fin 8 := if limited then 5 else Fin.ofNat 8 (5 + Config.freeNat n k % 3)

/-- The failure reason of a start's steps 2 to 6, 0 when none fails (R426). -/
def startReason (image : List Byte) (n : Nat) : Nat :=
  let r := (Config.startFailure n).toNat
  if r = 2 then 2 else if !imageVerifies image then 1 else if r = 3 ∨ r = 4 ∨ r = 6 then r else 0

/-- The firmware extends MEAS1 to MEAS3, by digests and as often as it chooses (R428; log entry 134). -/
def firmwareExtends (fresh : Nat) (meas : Vector (List Byte) 4) : Vector (List Byte) 4 :=
  Vector.ofFn fun (k : Fin 4) =>
    if k = 0 then meas[k]
    else (List.range (Config.freeNat fresh (2 ^ 100 + k.val))).foldl (fun m i =>
      sha512 (m ++ (List.range 64).map fun j => BitVec.ofNat 8 (Config.freeNat fresh (2 ^ 101 + 2 ^ 20 * i + 2 ^ 10 * k.val + j)))) meas[k]

/-- A start (R378, R426 to R432): the ROM counts the attempt and checks the image; the firmware trains the part. A start that fails
causes a package reset, but for a bad image in safe harbour. -/
def State.bootStart (s : State) : State :=
  let s := if s.pack.watchdogLatch then s.noteLast 5 else s
  let (s, n, last) := s.countAttempt
  let safe := decide (3 ≤ n)
  let image := s.image
  let p := { s.pack with
    attempts := n, safe := safe, reason := BitVec.ofNat 8 last, startTime := s.pack.time, watchdogLatch := false }
  let s := { s with pack := p, fresh := s.fresh + 1 }
  match startReason image s.fresh with
  | 0 =>
    let gen0 := linkGeneration safe s.fresh 1
    let gen2 := if safe then 0 else linkGeneration false s.fresh 2
    let meas := p.meas.set 0 (sha512 (p.meas[0] ++ imageDigest image))
    { s with pack := { p with
        stage := .running, fwver := imageVersion image, meas := firmwareExtends s.fresh meas, trained := true, hostUp0 := gen0, hostUp2 := gen2
        cxl := decide (6 ≤ max gen0.val gen2.val) && Config.freeBit s.fresh 3 } }.loadShadows
  | r =>
    let s := s.noteReason n r
    if r = 1 ∧ safe then { s with pack := { s.pack with stage := .recovery } } else s.packageReset false

/-- POWER_ON_RESET: supplies are applied, and the boot ROM starts (R426, R433). -/
def execPowerOnReset (s : State) : Host.Outcome State Fault Refusal :=
  .next (if s.pack.stage = .off then (s.restart (keptCells s.mem) .rom false).bootStart else s)

/-- PACKAGE_RESET by PERST# of PD0's link (R433). -/
def execPackageReset (s : State) : Host.Outcome State Fault Refusal :=
  .next (if s.pack.stage = .off then s else (s.packageReset false).bootStart)

/-- START_TIMER_EXPIRE: FWREADY has not been written within 10 s of the start (R426, R430). -/
def execStartTimerExpire (s : State) : Host.Outcome State Fault Refusal :=
  .next (if s.pack.stage = .running ∧ s.pack.startTime + tenSeconds ≤ s.pack.time then (s.packageReset true).bootStart else s)

/-- FIRMWARE_WATCHDOG: the firmware's own watchdog expires (R430, R433). -/
def execFirmwareWatchdog (s : State) : Host.Outcome State Fault Refusal :=
  .next (if s.pack.stage = .running ∨ s.pack.stage = .ready then (s.packageReset true).bootStart else s)

/-- FWREADY written by the firmware within 10 s of the start: in a full start the counter sector is erased (R426, R429). -/
def State.fwready (s : State) : State :=
  if s.pack.stage = .running ∧ s.pack.time < s.pack.startTime + tenSeconds then
    let s := if s.pack.safe then s else s.eraseSector Config.counterSector.val
    { s with pack := { s.pack with stage := .ready, meas := firmwareExtends s.fresh s.pack.meas }, fresh := s.fresh + 1 }
  else s

/-- FWREADY (R429). -/
def execFwready (s : State) : Host.Outcome State Fault Refusal := .next s.fwready

/-- POWER_LOSS: everything but flash is lost, the reset-cause latch with it (R429, R430). -/
def execPowerLoss (s : State) : Host.Outcome State Fault Refusal := .next (s.restart (keptCells s.tornFlash) .off false)

/-! ### Function Level Reset (R433) -/

/-- The jobs and admitted launches of a queue end CANCELLED, then what the queue has not admitted or taken. -/
def State.endQueue (s : State) (ld : Fin 4) (q : Fin 32) : State :=
  let s := (s.launches.filter fun l => l.ld == ld && l.queue == q && l.admitted && l.parent.isNone).foldl
    (fun s l => State.reportLaunch s l 3 0 0) s
  let s := (s.jobs.filter fun j => j.ld == ld && j.queue == q).foldl (fun s j =>
    State.pushRecord s ld q (recordDwords 3 0 (if j.thaw then 7 else 6) j.ring.val j.pos j.ioff s.pack.time)) s
  s.cancelQueue ld q

/-- The records of a queue are written while its ring has room. -/
def State.flushRecords (s : State) (ld : Fin 4) (q : Fin 32) : Nat → State
  | 0 => s
  | n + 1 =>
    match execCompletionRecordWrite { s with arg := { s.arg with ld := ld, queue := q } } with
    | .next t => State.flushRecords t ld q n
    | _ => s

/-- A device after its reset: export generations have risen, and records that still wait for room keep their completion ring
(R418, R433). -/
def Device.afterReset (d : Device) : Device :=
  { Device.reset with
    gens := d.exports.foldl (fun l e => putBy e.n.val (e.gen + 1) l) d.gens
    interrupts := d.interrupts
    qtBase := d.qtBase
    queues := (d.queues.filter fun e => !e.2.records.isEmpty).map fun e => (e.1,
      { LQueue.empty with cqBase := e.2.cqBase, cqLog := e.2.cqLog, ccount := e.2.ccount, chold := e.2.chold, vec := e.2.vec
                          cqHead := e.2.cqHead, consumed := e.2.consumed, records := e.2.records } ) }

/-- Everything of a logical device leaves the part; its contexts are FREE (R433). -/
def State.clearDevice (s : State) (ld : Fin 4) : State :=
  let s := s.dropPeers fun p => p.ld == ld
  { s with
    groups := s.groups.filter fun e => deviceOfGroup (groupId e.1) ≠ ld
    teams := s.teams.filter fun t => deviceOf t.cl ≠ ld
    launches := s.launches.filter fun l => l.ld ≠ ld
    clusters := s.clusters.filter fun e => e.1 / 40 ≠ ld.val
    devices := s.devices.set ld s.devices[ld].afterReset
    ctxs := s.ctxs.filter fun e => e.1 / 4096 ≠ ld.val
    ops := s.ops.filter fun o => o.ld ≠ ld
    leases := s.leases.filter fun l => l.ld ≠ ld
    pins := s.pins.filter fun p => p.ld ≠ ld
    lines := s.lines.filter fun l => l.ld ≠ ld
    peers := (s.peers.map fun p => { p with sharers := p.sharers.filter fun d => d.val ≠ ld.val }).filter fun p => !p.sharers.isEmpty
    invals := s.invals.filter fun i => i.sharer.val ≠ ld.val && i.g.all fun g => deviceOfGroup g ≠ ld
    unseen := s.unseen.filter fun u => deviceOfGroup u.g ≠ ld
    jobs := s.jobs.filter fun j => j.ld ≠ ld
    mem := undefinedCells s.fresh (Config.deviceFrame ld) s.mem
    fresh := s.fresh + 1 }

/-- FUNCTION_LEVEL_RESET: every command of the device that has not ended completes CANCELLED, its contexts become FREE, and its
exports are revoked (R433). Subject: the device. -/
def execFunctionLevelReset (s : State) : Host.Outcome State Fault Refusal :=
  if !s.serves s.arg.ld then .next s else
  let ld := s.arg.ld
  let a := s.arg
  let s := (s.ctxs.filter fun e => e.1 / 4096 == ld.val).foldl (fun s e => State.loseLaunches s e.2) s
  let s := s.devices[ld].queues.foldl (fun s e => State.endQueue s ld (Fin.ofNat 32 e.1)) s
  let s := s.devices[ld].queues.foldl (fun s e => State.flushRecords s ld (Fin.ofNat 32 e.1) e.2.records.length) s
  let s := (s.closeExports ld true fun _ => true).closeImports ld fun _ => true
  .next { s.clearDevice ld with arg := a }

/-! ### Host links (R423, R432, R433) -/

/-- The host link of PD0, or of PD2, at a generation, 0 while it is down. -/
def State.setLink (s : State) (second : Bool) (gen : Fin 8) : State :=
  if second then { s with pack := { s.pack with hostUp2 := gen } } else { s with pack := { s.pack with hostUp0 := gen } }

/-- LINK_RESET: a hot reset takes one host link down; accesses that then reach it are refused with NOHOST (R360, R433).
Subject: `num` 0 for PD0's link, else PD2's. -/
def execLinkReset (s : State) : Host.Outcome State Fault Refusal :=
  let t := s.setLink (s.arg.num != 0) 0
  .next { t with pack := { t.pack with cxl := t.pack.cxl && decide (6 ≤ max t.pack.hostUp0.val t.pack.hostUp2.val) } }

/-- HOST_LINK_UP: a link has trained, at 5 at most in safe harbour, where PD2's link stays down (R423, R431 to R433). Subject: the
link, `value` its generation, `flag` whether it trained as CXL. -/
def execHostLinkUp (s : State) : Host.Outcome State Fault Refusal :=
  let second := s.arg.num != 0
  let gen := s.arg.value.toNat
  let fits := decide (5 ≤ gen ∧ gen ≤ (if s.pack.safe then 5 else 7)) && !(second && s.pack.safe)
  let up := s.pack.stage == .running || s.pack.stage == .ready || s.pack.stage == .recovery
  if fits && up then
    let t := s.setLink second (Fin.ofNat 8 gen)
    .next { t with pack := { t.pack with trained := t.pack.trained || !second, cxl := t.pack.cxl || (s.arg.flag && decide (6 ≤ gen)) } }
  else .next s

/-- RECOVERY_LINK_TIMEOUT: PD0's link has not trained within 10 s of the recovery service, and the ROM resets the package
(R432). -/
def execRecoveryLinkTimeout (s : State) : Host.Outcome State Fault Refusal :=
  .next (if s.pack.stage = .recovery ∧ ¬ s.pack.trained ∧ s.pack.startTime + tenSeconds ≤ s.pack.time then
    (s.packageReset false).bootStart else s)

/-! ### Power and heat (R434 to R436) -/

/-- A byte of TEMP. -/
def tempByte (t : BitVec 48) (i : Nat) : Nat := t.toNat / 2 ^ (8 * i) % 256

/-- Some compute die is at a temperature or above it. -/
def dieAt (t : BitVec 48) (c : Nat) : Bool := (List.range 4).any fun i => decide (c ≤ tempByte t i)

/-- Some compute die or HBM4 stack is at a temperature or above it. -/
def partAt (t : BitVec 48) (c : Nat) : Bool := dieAt t c || decide (c ≤ tempByte t 5)

/-- A FREEZE is running (R409, R435). -/
def State.freezing (s : State) : Bool := s.jobs.any fun j => j.started && !j.thaw

/-- The duty after an evaluation (R434, R435): how far it falls or rises is free. -/
def State.nextDuty (s : State) (heat above : Bool) : Nat :=
  let d := s.pack.duty
  if partAt s.pack.temp 105 then 32
  else if s.freezing && !heat then 256
  else if heat || above then (if d ≤ 32 then 32 else 32 + Config.freeNat s.fresh 0 % (d - 32))
  else if s.pack.hot + 10000000 ≤ s.pack.time then (if 256 ≤ d then 256 else d + 1 + Config.freeNat s.fresh 1 % (256 - d))
  else d

/-- POWER_EVALUATE: at each multiple of 100 µs the harbour master reads its sensors and sets the duty (R434, R435). Subject: `num`
is what PWRNOW reads, `value` what TEMP reads. -/
def execPowerEvaluate (s : State) : Host.Outcome State Fault Refusal :=
  if s.pack.powerAt < s.pack.time / 100000 then
    let pwr := BitVec.ofNat 64 (s.arg.num % 2 ^ 12 + s.arg.num / 2 ^ 16 % 2 ^ 12 * 2 ^ 16)
    let s := { s with pack := { s.pack with
      powerAt := s.pack.time / 100000, pwrnow := pwr, temp := BitVec.ofNat 48 s.arg.value.toNat } }
    let heat := partAt s.pack.temp 95
    let above := decide (s.pack.plimit.toNat < pwr.toNat % 2 ^ 12)
    .next { s with
      pack := { s.pack with
        duty := s.nextDuty heat above, hot := if heat || above then s.pack.time else s.pack.hot
        therm := s.pack.therm || heat, power := s.pack.power || above }
      fresh := s.fresh + 1 }
  else .next s

/-- THERMTRIP: a compute die has reached 110 °C; the reason is programmed, a freeze in progress ends, and the board is to remove
the supplies (R435). Subject: `value` is what TEMP reads. -/
def execThermtrip (s : State) : Host.Outcome State Fault Refusal :=
  let t := BitVec.ofNat 48 s.arg.value.toNat
  if dieAt t 110 ∧ s.pack.stage ≠ .off ∧ s.pack.stage ≠ .rom ∧ s.pack.stage ≠ .tripped then
    let s := s.noteTrip
    .next { s with jobs := s.jobs.filter fun j => j.thaw, pack := { s.pack with temp := t, stage := .tripped } }
  else .next s

/-- WAKE_SLOT_GRANT: a matrix engine that has been idle for 10 µs takes one of the at most 8 wake slots of its die in each 100 ns
(R436). Subject: the cluster. -/
def execWakeSlotGrant (s : State) : Host.Outcome State Fault Refusal :=
  let cl := s.arg.cl
  let c := s.cluster cl
  let die := (deviceOf cl).val
  let recent := s.pack.wakes.filter fun w => decide (s.pack.time < w.2 + 100)
  if !s.engineAwake c && decide ((recent.filter fun w => w.1 == die).length < 8) then
    .next { s.setCluster cl { c with awake := true } with pack := { s.pack with wakes := (die, s.pack.time) :: recent } }
  else .next s

/-! ### BOOTCTL (R437) -/

/-- An attestation or a flash operation is in progress: BOOTCTL and ATTCMD are ignored. -/
def State.boardBusy (s : State) : Bool := s.pack.attBusy.isSome || s.pack.flashOp.isSome

/-- BOOTCTL CLEAR: the counter sector is erased. -/
def State.bootClear (s : State) : State := if s.boardBusy then s else s.eraseSector Config.counterSector.val

/-- BOOTCTL SAFE: bytes are programmed until three are counted, so that the next start is in safe harbour. -/
def State.bootSafe (s : State) : State :=
  if s.boardBusy then s
  else (List.range 3).foldl (fun s i => if counted s.counter ≤ i then State.program s (counterLoc i) 0x7F else s) s

/-- BOOTCTL RESET: a package reset. -/
def State.bootReset (s : State) : State := if s.boardBusy then s else (s.packageReset false).bootStart

/-- A write of BOOTCTL (R437). -/
def State.bootctl (s : State) (x : DWord) : State :=
  match bits x.toNat 60 4 with
  | 0 => s.bootClear
  | 1 => s.bootSafe
  | 2 => s.bootReset
  | _ => s

/-- BOOTCTL CLEAR (R437). -/
def execBootClear (s : State) : Host.Outcome State Fault Refusal := .next s.bootClear
/-- BOOTCTL SAFE (R437). -/
def execBootSafe (s : State) : Host.Outcome State Fault Refusal := .next s.bootSafe
/-- BOOTCTL RESET (R433, R437). -/
def execBootReset (s : State) : Host.Outcome State Fault Refusal := .next s.bootReset

/-! ### Attestation (R428, R437) -/

/-- A write of ATTCMD: GO starts a quote. -/
def State.attest (s : State) (x : DWord) : State :=
  if s.boardBusy || !bit x.toNat 63 then s
  else { s with pack := { s.pack with attBusy := some (bits x.toNat 6 42 * 64), attErr := false } }

/-- ATTEST (R428). Subject: the device whose function is written, and `value`, what is written to ATTCMD. -/
def execAttest (s : State) : Host.Outcome State Fault Refusal := s.onDevice fun s => s.attest s.arg.value

/-- What a quote signs: the nonce, MEAS0 to MEAS3, FWVER and PKGID (R428). -/
def quoteBody (p : Pack) (nonce : List Byte) : List Byte :=
  nonce ++ p.meas.toList.flatten ++ dwordBytes p.fwver.toNat ++ [p.pkgid]

/-- Some host link carries traffic. -/
def Pack.hostLink (p : Pack) : Bool := p.hostUp0 != 0 || p.hostUp2 != 0

/-- ATTEST_COMPLETE: the quote is written after the nonce, or fails for want of a host link (R428, R437). -/
def execAttestComplete (s : State) : Host.Outcome State Fault Refusal :=
  match s.pack.attBusy with
  | none => .next s
  | some a =>
    if s.pack.hostLink then
      let body := quoteBody s.pack (s.hostRead a 64)
      let quote := body ++ Config.quoteSignature s.fresh (sha512 body)
      let s := s.hostWrite (a + 64) quote
      .next { s with pack := { s.pack with attBusy := none, attLen := BitVec.ofNat 16 quote.length }, fresh := s.fresh + 1 }
    else .next { s with pack := { s.pack with attBusy := none, attErr := true } }

/-! ### FLASHWIN (R437, R438) -/

/-- A write of FLASHWIN: ignored while an operation is in progress; with GO one starts. -/
def State.flashWrite (s : State) (x : DWord) : State :=
  if s.pack.flashOp.isSome then s
  else
    let s := { s with pack := { s.pack with flashwin := BitVec.ofNat 64 (x.toNat &&& 0x4FFFFFFFFFFFF000) } }
    if bit x.toNat 63 then
      { s with pack := { s.pack with
        flashErr := false, flashOp := some ⟨bit x.toNat 62, bits x.toNat 48 12, bits x.toNat 12 36 * 4096⟩ } }
    else s

/-- FLASH_ERASE: FLASHWIN written with GO and ERASE (R438). Subject: `num` is the page, and `value` the host address here and
below. -/
def execFlashErase (s : State) : Host.Outcome State Fault Refusal :=
  .next (s.flashWrite (BitVec.ofNat 64 (2 ^ 63 + 2 ^ 62 + s.arg.num % 2 ^ 12 * 2 ^ 48 + s.arg.value.toNat % 2 ^ 48)))

/-- FLASH_PROGRAM: FLASHWIN written with GO and without ERASE (R438). -/
def execFlashProgram (s : State) : Host.Outcome State Fault Refusal :=
  .next (s.flashWrite (BitVec.ofNat 64 (2 ^ 63 + s.arg.num % 2 ^ 12 * 2 ^ 48 + s.arg.value.toNat % 2 ^ 48)))

/-- A flash operation has ended, with or without an error. -/
def State.flashDone (s : State) (bad : Bool) : State := { s with pack := { s.pack with flashOp := none, flashErr := bad } }

/-- FLASH_OP_COMPLETE: the sector is erased, or the page, which must read erased, is programmed from host memory and read back; the
counter sector, with which the flash ends, is never changed (R438). Programming waits for a host link. -/
def execFlashOpComplete (s : State) : Host.Outcome State Fault Refusal :=
  match s.pack.flashOp with
  | none => .next s
  | some op =>
    if Config.counterSector.val ≤ op.page / 16 then .next (s.flashDone true)
    else if op.erase then .next ((s.eraseSector (op.page / 16)).flashDone false)
    else if !s.pack.hostLink then .next s
    else
      let at_ := flashLoc (4096 * op.page)
      if (Memory.readBytes s.mem at_ 4096).all fun b => b == 0xFF then
        let bs := s.hostRead op.addr 4096
        let t := { s with mem := Memory.writeBytes s.mem at_ bs }
        .next (t.flashDone (Memory.readBytes t.mem at_ 4096 != bs))
      else .next (s.flashDone true)

end Sys2Proof.Machine
end

