-- ==== Sys2Proof/Machine/Convert.lean ====
section
/-! DEFINITION. Conversion, packing and dot instructions (R86 to R88, R184 to R186). -/

namespace Sys2Proof.Machine

open Sys2Proof

/-- The conversion reads a binary64 pair (R156). -/
def cvtSrcWide : Cvt → Bool
  | .f32F64 | .i32F64 | .n32F64 => true
  | _ => false
/-- The conversion writes a binary64 pair (R156). -/
def cvtDstWide : Cvt → Bool
  | .f64F32 | .f64I32 | .f64N32 => true
  | _ => false

/-- An integer as a value. -/
def intVal (i : Int) : FVal := .fin (decide (i < 0)) i.natAbs 0

/-- A conversion to an integer type as a word. -/
def intOut (lo hi : Int) (rm : Rm) (v : FVal) : Nat × BitVec 7 :=
  let r := toInt lo hi rm v
  (wrap 32 r.1, r.2)

/-- CVT's result and flags, from the low 64 bits of the source (R86, R184). -/
def convert (c : Cvt) (rm : Rm) (ftz : Bool) (x : Nat) : Nat × BitVec 7 :=
  let w := x % 2 ^ 32
  let f32 := Fmt.f32.operand ftz w
  let f64 := Fmt.f64.operand ftz x
  match c with
  | .f32I32 => Fmt.f32.narrow rm ftz (intVal (signed 32 w))
  | .f32N32 => Fmt.f32.narrow rm ftz (intVal w)
  | .i32F32 => intOut (-2 ^ 31) (2 ^ 31 - 1) rm f32
  | .n32F32 => intOut 0 (2 ^ 32 - 1) rm f32
  | .f64F32 => Fmt.f64.narrow rm ftz f32
  | .f32F64 => Fmt.f32.narrow rm ftz f64
  | .f64I32 => Fmt.f64.narrow rm ftz (intVal (signed 32 w))
  | .f64N32 => Fmt.f64.narrow rm ftz (intVal w)
  | .i32F64 => intOut (-2 ^ 31) (2 ^ 31 - 1) rm f64
  | .n32F64 => intOut 0 (2 ^ 32 - 1) rm f64
  | .bf16F32 => Fmt.bf16.narrow rm ftz f32
  | .f32Bf16 => Fmt.f32.narrow rm ftz (Fmt.bf16.operand ftz (w % 2 ^ 16))
  | .e4m3F32 => Fmt.e4m3.saturate rm f32
  | .f32E4m3 => Fmt.f32.narrow rm ftz (Fmt.e4m3.value (w % 2 ^ 8))
  | .e5m2F32 => Fmt.e5m2.narrow rm false f32
  | .f32E5m2 => Fmt.f32.narrow rm ftz (Fmt.e5m2.value (w % 2 ^ 8))
  | .e2m1F32 => Fmt.e2m1.saturate rm f32
  | .f32E2m1 => Fmt.f32.narrow rm ftz (Fmt.e2m1.value (w % 2 ^ 4))
  | .e8m0F32 => toE8m0 rm f32
  | .f32E8m0 => Fmt.f32.narrow rm ftz (e8m0Value (w % 2 ^ 8))
  | .mxint8F32 => toMxint8 rm f32
  | .f32Mxint8 => Fmt.f32.narrow rm ftz (mxint8Value (w % 2 ^ 8))

/-- CVT (R184). -/
def execCvt (o : LCvt) (s : State) : Host.Outcome State Fault Refusal :=
  laneOp s o.u o.g [srcOp o.va (if cvtSrcWide o.code then 2 else 1)] (dstOp o.vd (if cvtDstWide o.code then 2 else 1))
    fun g x =>
      let r := convert o.code o.rm g.ftz (inp64 x 0)
      if cvtDstWide o.code then out64 r else out32 r

/-- A field of a word replaced. -/
def replaceField (d : Word) (pos w : Nat) (a : Word) : Word :=
  let m := BitVec.ofNat 32 ((2 ^ w - 1) * 2 ^ pos)
  (d &&& ~~~m) ||| (a <<< pos &&& m)

/-- PACK8: byte k of d replaced by a[7:0] (R185). -/
def execPack8 (o : LPack8) (s : State) : Host.Outcome State Fault Refusal :=
  laneOp s o.u o.g [srcOp o.va, srcOp o.vd] (dstOp o.vd) fun _ x => ([replaceField (inp x 1) (8 * o.k.val) 8 (inp x 0)], 0)
/-- PACK4: nibble k of d replaced by a[3:0] (R185). -/
def execPack4 (o : LPack4) (s : State) : Host.Outcome State Fault Refusal :=
  laneOp s o.u o.g [srcOp o.va, srcOp o.vd] (dstOp o.vd) fun _ x => ([replaceField (inp x 1) (4 * o.k.val) 4 (inp x 0)], 0)

/-- The elements of `w` bits in a register. -/
def elements (w n : Nat) (x : Word) : List Nat := (List.range n).map fun j => bits x.toNat (w * j) w

/-- The exact sum of products of a floating dot instruction with the accumulator, rounded once (R88). -/
def dotFloat (rm : Rm) (ftz : Bool) (as bs : List FVal) (d : FVal) : Nat × BitVec 7 :=
  let f := Fmt.f32
  let ps := as.zip bs
  let invalid := ps.any fun p => (p.1.isInf && p.2.isZero) || (p.1.isZero && p.2.isInf)
  let infs := ps.filterMap fun p => if p.1.isInf ∨ p.2.isInf then some (p.1.neg? != p.2.neg?) else none
  let infs := if d.isInf then d.neg? :: infs else infs
  if d.isNaN ∨ ps.any (fun p => p.1.isNaN || p.2.isNaN) ∨ invalid then (f.nan, flagIV)
  else if infs.contains true ∧ infs.contains false then (f.nan, flagIV)
  else match infs with
    | n :: _ => (f.zero n + f.top, 0)
    | [] =>
      let sum := ps.foldl (fun (acc : Dy) p => acc.add (p.1.dy.mul p.2.dy)) d.dy
      let allNegZero := d.isZero && d.neg? && ps.all fun p => (p.1.isZero || p.2.isZero) && p.1.neg? != p.2.neg?
      let allPosZero := d.isZero && !d.neg? && ps.all fun p => (p.1.isZero || p.2.isZero) && p.1.neg? == p.2.neg?
      f.roundDy rm ftz sum (allNegZero || (rm == .rdn && !allPosZero))

/-- A floating dot instruction (R88, R186). -/
def dotOp (o : LR3) (s : State) (w n : Nat) (val : Group → Nat → FVal) : Host.Outcome State Fault Refusal :=
  laneOp s o.u o.g [srcOp o.va, srcOp o.vb, srcOp o.vd] (dstOp o.vd) fun g x =>
    out32 (dotFloat g.rm g.ftz ((elements w n (inp x 0)).map (val g)) ((elements w n (inp x 1)).map (val g))
      (op32 g (inp x 2)))

/-- DPE5: four E5M2 products (R88). -/
def execDpe5 (o : LR3) (s : State) := dotOp o s 8 4 fun _ => Fmt.e5m2.value
/-- DPBF: two BF16 products; FTZ acts on the elements (R88). -/
def execDpbf (o : LR3) (s : State) := dotOp o s 16 2 fun g => Fmt.bf16.operand g.ftz
/-- DPF8: four E4M3 products (R88). -/
def execDpf8 (o : LR3) (s : State) := dotOp o s 8 4 fun _ => Fmt.e4m3.value
/-- DPF4: eight E2M1 products (R88). -/
def execDpf4 (o : LR3) (s : State) := dotOp o s 4 8 fun _ => Fmt.e2m1.value

/-- An integer dot instruction: the sum exact, the accumulation wrapping (R87). -/
def dotInt (o : LR3) (s : State) (w n : Nat) (val : Nat → Int) : Host.Outcome State Fault Refusal :=
  laneOp s o.u o.g [srcOp o.va, srcOp o.vb, srcOp o.vd] (dstOp o.vd) fun _ x =>
    let ps := ((elements w n (inp x 0)).map val).zip ((elements w n (inp x 1)).map val)
    ([inp x 2 + BitVec.ofInt 32 (ps.foldl (fun acc p => acc + p.1 * p.2) 0)], 0)

/-- DPI8.i8 (R87). -/
def execDpi8I8 (o : LR3) (s : State) := dotInt o s 8 4 (signed 8)
/-- DPI8.n8 (R87). -/
def execDpi8N8 (o : LR3) (s : State) := dotInt o s 8 4 fun x => x
/-- DPI4.i4 (R87). -/
def execDpi4I4 (o : LR3) (s : State) := dotInt o s 4 8 (signed 4)
/-- DPI4.n4 (R87). -/
def execDpi4N4 (o : LR3) (s : State) := dotInt o s 4 8 fun x => x

end Sys2Proof.Machine
end

