-- ==== Sys2Proof/Machine/System.lean ====
section
/-! DEFINITION. The system registers by number, the privileged instructions of major 0x1F, and the waits that they enter (R4, R5,
R331, R332, R338, R362, R367, R399, R402, R425, R437). -/

namespace Sys2Proof.Machine

open Sys2Proof

/-! ### Which registers there are -/

/-- Who may do what with a system register, as its table gives it at S. -/
inductive RegAccess | ro | wo | rw | mOnly
  deriving DecidableEq, Repr

/-- The registers of traps, faults and debug (R331). -/
def trapAccess (n : Nat) : Option RegAccess :=
  if n = 0x200 ∨ (0x207 ≤ n ∧ n ≤ 0x20B) ∨ n = 0x221 ∨ n = 0x240 ∨ n = 0x243 ∨ n = 0x244 ∨ (0x248 ≤ n ∧ n ≤ 0x24B) then some .rw
  else if (0x201 ≤ n ∧ n ≤ 0x206) ∨ n = 0x242 then some .ro
  else if n = 0x220 ∨ n = 0x241 then some .wo
  else none

/-- The registers of translation and memory (R362). -/
def memoryAccess (n : Nat) : Option RegAccess :=
  if (0x250 ≤ n ∧ n ≤ 0x255) ∨ n = 0x257 ∨ n = 0x258 ∨ n = 0x260 ∨ (0x2C0 ≤ n ∧ n ≤ 0x2FF) then some .rw
  else if 0x270 ≤ n ∧ n ≤ 0x29F then (if (n - 0x270) % 12 ≤ 9 then some .rw else none)
  else if n = 0x256 ∨ n = 0x25A ∨ n = 0x25F then some .ro
  else if n = 0x259 then some .wo
  else if n = 0x2A0 then some .mOnly
  else none

/-- The registers of queues and dispatch (R399). -/
def queueAccess (n : Nat) : Option RegAccess :=
  if (0x300 ≤ n ∧ n ≤ 0x304) ∨ n = 0x306 ∨ n = 0x308 ∨ n = 0x309 ∨ n = 0x30D then some .rw
  else if n = 0x305 ∨ n = 0x307 then some .ro
  else if n = 0x30C then some .wo
  else none

/-- The registers of contexts, handles and links (R402). -/
def contextAccess (n : Nat) : Option RegAccess :=
  if n = 0x320 ∨ n = 0x322 ∨ n = 0x323 ∨ (0x325 ≤ n ∧ n ≤ 0x328) ∨ (0x340 ≤ n ∧ n ≤ 0x351) ∨ n = 0x353 ∨
      (0x360 ≤ n ∧ n ≤ 0x363) then some .rw
  else if n = 0x324 ∨ n = 0x354 then some .ro
  else if n = 0x321 ∨ n = 0x352 then some .wo
  else none

/-- The registers of the Ethernet ports (R425), and of bring-up, power and management (R437). -/
def boardAccess (n : Nat) : Option RegAccess :=
  if 0x380 ≤ n ∧ n ≤ 0x3BF then
    (if n % 8 ≤ 4 then some .rw else if n % 8 ≤ 6 then some .ro else none)
  else if n = 0x3C4 ∨ n = 0x3C7 ∨ n = 0x3C8 ∨ n = 0x3CC then some .rw
  else if n = 0x3C0 ∨ n = 0x3C2 ∨ n = 0x3C3 ∨ n = 0x3C5 ∨ n = 0x3C6 ∨ n = 0x3CA ∨ (0x3E0 ≤ n ∧ n ≤ 0x3FF) then some .ro
  else if n = 0x3C1 ∨ n = 0x3C9 then some .wo
  else if n = 0x3CB then some .mOnly
  else none

/-- The access of the system register with a number, none outside the tables. -/
def regAccess (n : Nat) : Option RegAccess :=
  trapAccess n <|> memoryAccess n <|> queueAccess n <|> contextAccess n <|> boardAccess n

/-! ### Reading -/

/-- TSTATE (R331). -/
def TrapRegs.tstate (t : TrapRegs) : DWord :=
  BitVec.ofNat 64 (t.slices.toNat * 2 ^ 16 + bitNat t.inh * 2 ^ 9 + bitNat t.skip * 2 ^ 8 + t.cond.toNat / 2 * 2)

/-- The registers held per group (R331). -/
def TrapRegs.read (t : TrapRegs) (n : Nat) : DWord :=
  match n with
  | 0x201 => t.cause.zeroExtend 64
  | 0x202 => t.pc.zeroExtend 64
  | 0x203 => t.mask
  | 0x204 => t.val
  | 0x205 => t.prov.zeroExtend 64
  | 0x206 => t.word
  | 0x207 => t.tstate
  | 0x208 => t.tsv[0]
  | 0x209 => t.tsv[1]
  | 0x20A => t.tsv[2]
  | 0x20B => t.tsv[3]
  | _ => 0

/-- FBSTAT: entries that await FBCMD, and BADCMD (R331, R369). -/
def Device.fbstat (d : Device) : DWord :=
  BitVec.ofNat 64 (bitNat d.fbBad * 2 ^ 32 + (d.faults.filter fun r => r.seq.isSome).length)

/-- PGSTAT (R362). -/
def Device.pgstat (d : Device) : DWord :=
  BitVec.ofNat 64 ((8 - d.purges.length) * 2 ^ 4 + bitNat d.pgFull * 2 + bitNat (d.purges.any Purge.busy))

/-- XSTAT (R402). -/
def Device.xstat (d : Device) : DWord :=
  BitVec.ofNat 64 (bitNat d.xBad * 2 ^ 63 + bitNat d.xBusy * 2 ^ 62 + d.xResult.val * 2 ^ 60)

/-- POOLn (R402). -/
def Pool.reg (p : Pool) : DWord := BitVec.ofNat 64 (bitNat p.en * 2 ^ 63 + p.asn.toNat * 2 ^ 48 + p.base.toNat)

/-- PBUFn (R372). -/
def PubBuf.reg (b : PubBuf) : DWord :=
  BitVec.ofNat 64 (bitNat b.en * 2 ^ 63 + bitNat b.sel * 2 ^ 62 + b.asn.toNat * 2 ^ 48 + b.page * 2 ^ 16 + (b.count - 1))

/-- The code of a context's state in CTXSTAT (R402). -/
def CtxState.code : CtxState → Nat
  | .free => 0
  | .live => 1
  | .stopping => 2
  | .saved => 3
  | .frozen => 4

/-- CTXSTAT (R402). -/
def State.ctxstat (s : State) (ld : Fin 4) : DWord :=
  BitVec.ofNat 64 (bitNat s.devices[ld].ctxBad * 2 ^ 63 + bitNat (s.ctxBusy ld) * 2 ^ 62 +
    (s.ctx ld s.devices[ld].ctxSel).state.code)

/-- DBGSTAT (R349). -/
def State.dbgstat (s : State) (ld : Fin 4) : DWord :=
  BitVec.ofNat 64 (s.devices[ld].dbgResult.val * 2 ^ 62 + (s.dbgWhy ld).val * 2 ^ 48)

/-- DSTAT: teams placed and not yet released, and BADCMD (R399). -/
def State.dstat (s : State) (ld : Fin 4) : DWord :=
  BitVec.ofNat 64 (bitNat s.devices[ld].cmdBad * 2 ^ 63 +
    (s.teams.filter fun t => deviceOf t.cl == ld && !t.released).length)

/-- The registers held per context (R331, R362, R402). -/
def State.readCtxReg (s : State) (ld : Fin 4) (asn : Asn) (n : Nat) : DWord :=
  let c := s.ctx ld asn
  match n with
  | 0x200 => c.tbase.zeroExtend 64
  | 0x250 => c.ptroot.zeroExtend 64
  | 0x251 => c.lease.zeroExtend 64
  | 0x252 => c.regtab.zeroExtend 64
  | 0x260 => c.mfstat
  | 0x323 => c.save.zeroExtend 64
  | 0x324 => BitVec.ofNat 64 ((c.image.getD (s.imageOf ld asn)).length / 4096)
  | 0x325 => c.tweight.zeroExtend 64
  | 0x326 => BitVec.ofNat 64 (bitNat c.homelink)
  | _ => if 0x248 ≤ n ∧ n ≤ 0x24B then c.brk.getD (n - 0x248) 0 else 0

/-- The registers of a device's translation (R331, R362). -/
def Device.readMemory (d : Device) (n : Nat) : DWord :=
  match n with
  | 0x253 => d.hbase
  | 0x254 => d.fbBase.zeroExtend 64
  | 0x255 => d.fbCfg.zeroExtend 64
  | 0x256 => d.fbHead.zeroExtend 64
  | 0x257 => d.fbTail.zeroExtend 64
  | 0x258 => d.pgva.zeroExtend 64
  | 0x25A => d.pgstat
  | 0x25F => d.errLost.zeroExtend 64
  | _ =>
    if 0x270 ≤ n ∧ n ≤ 0x29F then
      let f := d.profiles.getD ((n - 0x270) / 12) ⟨Vector.replicate 9 0, false, false⟩
      if (n - 0x270) % 12 = 9 then BitVec.ofNat 64 (bitNat f.err * 2 + bitNat f.en)
      else (f.masks.getD ((n - 0x270) % 12) 0).zeroExtend 64
    else if 0x2C0 ≤ n ∧ n ≤ 0x2FF then (d.pbuf.getD (n - 0x2C0) ⟨false, false, 0, 0, 1⟩).reg
    else 0

/-- The registers of a device's queues, handles and links (R399, R402). -/
def Device.readQueue (d : Device) (n : Nat) : DWord :=
  match n with
  | 0x300 => d.rtBase
  | 0x301 => d.qtBase
  | 0x302 => d.ageUs.zeroExtend 64
  | 0x303 => d.flBase
  | 0x304 => d.flCfg.zeroExtend 64
  | 0x305 => d.flHead.zeroExtend 64
  | 0x306 => d.flTail.zeroExtend 64
  | 0x307 => (d.flHead - d.flTail).zeroExtend 64
  | 0x308 => d.rhPool
  | 0x309 => d.abPool
  | 0x320 => d.ctxSel.zeroExtend 64
  | 0x328 => d.hdm
  | 0x350 => d.exBase.zeroExtend 64
  | 0x351 => d.imBase.zeroExtend 64
  | 0x353 => d.xstat
  | 0x354 => d.xToken
  | _ =>
    if 0x340 ≤ n ∧ n ≤ 0x34F then
      let p := d.pools.getD ((n - 0x340) / 2) ⟨false, 0, 0, 0, []⟩
      if n % 2 = 0 then p.reg else p.size.zeroExtend 64
    else if 0x360 ≤ n ∧ n ≤ 0x363 then (d.lpin.getD (n - 0x360) 0).zeroExtend 64
    else 0

/-- CAPS (R431, R437): one bit for each logical device and each pier die that runs. -/
def Pack.caps (p : Pack) : DWord :=
  let dies := if p.safe then 1 else 15
  BitVec.ofNat 64 (dies + dies * 2 ^ 4 + bitNat (!p.safe) * 2 ^ 8 + bitNat (!p.safe) * 2 ^ 9 + p.hostUp0.val * 2 ^ 10 +
    (if p.safe then 64 else 100) * 2 ^ 16)

/-- BOOTWHY (R437). -/
def Pack.bootwhy (p : Pack) : DWord := BitVec.ofNat 64 (p.reason.toNat * 2 ^ 8 + p.attempts * 2 ^ 3 + bitNat p.safe * 2)

/-- FLASHWIN (R437, R438). -/
def Pack.flashReg (p : Pack) : DWord :=
  BitVec.ofNat 64 (p.flashwin.toNat + bitNat p.flashOp.isSome * 2 ^ 61 + bitNat p.flashErr * 2 ^ 60)

/-- The registers of a port (R425). -/
def EthPort.read (x : EthPort) (j : Nat) : DWord :=
  match j with
  | 0 => x.cfg
  | 1 => x.tx
  | 2 => x.rx
  | 3 => x.txTail.zeroExtend 64
  | 4 => x.rxTail.zeroExtend 64
  | 5 => x.txHead.zeroExtend 64
  | 6 => x.rxHead.zeroExtend 64
  | _ => 0

/-- The registers held per package (R362, R402, R425, R437). -/
def Pack.read (p : Pack) (n : Nat) : DWord :=
  match n with
  | 0x2A0 => p.scrubPer.zeroExtend 64
  | 0x327 => p.pkgid.zeroExtend 64
  | 0x3C0 => p.bootwhy
  | 0x3C2 => p.caps
  | 0x3C3 => p.fwver
  | 0x3C4 => p.plimit.zeroExtend 64
  | 0x3C5 => p.pwrnow
  | 0x3C6 => p.temp.zeroExtend 64
  | 0x3C7 => BitVec.ofNat 64 ((p.duty - 1) * 2 ^ 8 + bitNat p.therm * 2 + bitNat p.power)
  | 0x3C8 => p.stagmin.zeroExtend 64
  | 0x3CA => BitVec.ofNat 64 (bitNat p.attBusy.isSome * 2 ^ 63 + bitNat p.attErr * 2 ^ 62 + p.attLen.toNat)
  | 0x3CC => p.flashReg
  | _ =>
    if 0x380 ≤ n ∧ n ≤ 0x3BF then (p.eth.getD ((n - 0x380) / 8) ⟨0, 0, 0, 0, 0, 0, 0, [], none⟩).read (n % 8)
    else if 0x3E0 ≤ n ∧ n ≤ 0x3FF then
      BitVec.ofNat 64 (ofBytes (((p.meas.getD ((n - 0x3E0) / 8) []).drop (8 * (n % 8))).take 8))
    else 0

/-- The registers that the recovery service serves (R432). -/
def inRecovery (n : Nat) : Bool := n == 0x3C0 || n == 0x3C1 || n == 0x3CC

/-- A system register that is not held per group, as a read returns it; a WO register reads as zero (R4), and in the recovery service every
one that it does not serve (R432). -/
def State.readSys (s : State) (ld : Fin 4) (asn : Asn) (n : Nat) : DWord :=
  if s.pack.stage = .recovery ∧ ¬ inRecovery n then 0 else
  let d := s.devices[ld]
  match n with
  | 0x221 => d.fbstat
  | 0x240 => d.dbgSel
  | 0x242 => s.dbgstat ld
  | 0x243 => d.dbgData
  | 0x244 => d.dbgReg.zeroExtend 64
  | 0x30D => s.dstat ld
  | 0x322 => s.ctxstat ld
  | _ =>
    if n = 0x200 ∨ (0x248 ≤ n ∧ n ≤ 0x252) ∨ n = 0x260 ∨ (0x323 ≤ n ∧ n ≤ 0x326) then s.readCtxReg ld asn n
    else if n = 0x2A0 ∨ n = 0x327 ∨ 0x380 ≤ n then s.pack.read n
    else if n < 0x300 then d.readMemory n
    else d.readQueue n

/-! ### Writing -/

/-- A value with the bits of a field's place kept; reserved bits keep nothing that is written to them (R5). -/
def keep (x : DWord) (mask : Nat) : DWord := x &&& BitVec.ofNat 64 mask

/-- A breakpoint comparator's writable bits (R352). -/
def brkBits (x : DWord) : DWord := if bit x.toNat 62 then keep x 0xC00000000FFFFF00 else keep x 0x8000FFFFFFFFFFFC

/-- The registers held per context written (R331, R352, R362, R402). -/
def Ctx.write (c : Ctx) (n : Nat) (x : DWord) : Ctx :=
  match n with
  | 0x200 => { c with tbase := BitVec.ofNat 48 (keep x 0xFFFFFFFFFFC0).toNat }
  | 0x250 => { c with ptroot := BitVec.ofNat 40 (keep x 0xFFFFFFF000).toNat }
  | 0x251 => { c with lease := BitVec.ofNat 11 (clamp 1 1024 x.toNat) }
  | 0x252 => { c with regtab := BitVec.ofNat 32 x.toNat }
  | 0x260 => { c with mfstat := c.mfstat &&& ~~~x }
  | 0x323 => { c with save := BitVec.ofNat 40 (keep x 0xFFFFFFF000).toNat }
  | 0x325 => { c with tweight := BitVec.ofNat 4 x.toNat }
  | 0x326 => { c with homelink := bit x.toNat 0 }
  | _ => if 0x248 ≤ n ∧ n ≤ 0x24B then { c with brk := c.brk.setIfInBounds (n - 0x248) (brkBits x) } else c

/-- The registers of a device that only hold what is written, in the bits they have (R349, R362, R399, R402). -/
def Device.write (d : Device) (n : Nat) (x : DWord) : Device :=
  match n with
  | 0x221 => { d with fbBad := d.fbBad && !bit x.toNat 32 }
  | 0x240 => { d with dbgSel := keep x 0xFFF3FFFFF00 }
  | 0x243 => { d with dbgData := x }
  | 0x244 => { d with dbgReg := BitVec.ofNat 21 x.toNat }
  | 0x253 => { d with hbase := keep x 0xFFFFFFFFFFFF0000 }
  | 0x254 => { d with fbBase := BitVec.ofNat 40 (keep x 0xFFFFFFF000).toNat }
  | 0x255 => { d with fbCfg := BitVec.ofNat 4 x.toNat }
  | 0x257 => { d with fbTail := BitVec.ofNat 32 x.toNat }
  | 0x258 => { d with pgva := BitVec.ofNat 48 (keep x 0xFFFFFFFF0000).toNat }
  | 0x300 => { d with rtBase := keep x 0xFFFFFFFFFFFFF000 }
  | 0x301 => { d with qtBase := keep x 0xFFFFFFFFFFFFF000 }
  | 0x302 => { d with ageUs := BitVec.ofNat 16 x.toNat }
  | 0x303 => { d with flBase := keep x 0xFFFFFFFFFFFFF000 }
  | 0x304 => { d with flCfg := BitVec.ofNat 5 x.toNat }
  | 0x306 => { d with flTail := BitVec.ofNat 32 x.toNat }
  | 0x308 => { d with rhPool := keep x 0xFFFFFFFFFFFF0000 }
  | 0x309 => { d with abPool := keep x 0xFFFFFFFFFFFF0000 }
  | 0x30D => { d with cmdBad := d.cmdBad && !bit x.toNat 63 }
  | 0x320 => { d with ctxSel := BitVec.ofNat 12 x.toNat }
  | 0x322 => { d with ctxBad := d.ctxBad && !bit x.toNat 63 }
  | 0x328 => { d with hdm := keep x 0xFFFFFFFFFFFF0000 }
  | 0x350 => { d with exBase := BitVec.ofNat 40 (keep x 0xFFFFFFF000).toNat }
  | 0x351 => { d with imBase := BitVec.ofNat 40 (keep x 0xFFFFFFF000).toNat }
  | 0x353 => { d with xBad := d.xBad && !bit x.toNat 63 }
  | _ =>
    if 0x270 ≤ n ∧ n ≤ 0x29F then
      let k := (n - 0x270) / 12
      let f := d.profiles.getD k ⟨Vector.replicate 9 0, true, false⟩
      if f.en then d
      else { d with profiles := d.profiles.setIfInBounds k
                      { f with masks := f.masks.setIfInBounds ((n - 0x270) % 12) (BitVec.ofNat 48 (keep x 0xFFFFFFFFFF00).toNat) } }
    else if 0x360 ≤ n ∧ n ≤ 0x363 then { d with lpin := d.lpin.setIfInBounds (n - 0x360) (BitVec.ofNat 8 x.toNat) }
    else d

/-- The registers of the package that only hold what is written (R362, R402, R434, R437). -/
def Pack.write (p : Pack) (n : Nat) (x : DWord) : Pack :=
  match n with
  | 0x2A0 => { p with scrubPer := BitVec.ofNat 32 x.toNat }
  | 0x327 => { p with pkgid := BitVec.ofNat 8 x.toNat }
  | 0x3C4 => { p with plimit := BitVec.ofNat 12 (clamp 600 2200 x.toNat) }
  | 0x3C7 => { p with therm := p.therm && !bit x.toNat 1, power := p.power && !bit x.toNat 0 }
  | 0x3C8 => { p with stagmin := BitVec.ofNat 12 x.toNat }
  | _ => p

/-- A register of an Ethernet port written (R425). -/
def State.writePort (s : State) (p : Fin 8) (j : Nat) (x : DWord) : State :=
  let e := s.pack.eth[p]
  match j with
  | 0 => s.writeEthCfg p x
  | 1 => s.setPort p { e with tx := keep x 0xFFFFFFFFFFFF }
  | 2 => s.setPort p { e with rx := keep x 0xFFFFFFFFFFFF }
  | 3 => s.setPort p { e with txTail := BitVec.ofNat 32 x.toNat }
  | 4 => s.setPort p { e with rxTail := BitVec.ofNat 32 x.toNat }
  | _ => s

/-- A register whose write starts something (R331, R363, R366, R372, R399, R402, R404, R425, R437); none when it only holds what is
written. -/
def State.command (s : State) (ld : Fin 4) (asn : Asn) (n : Nat) (x : DWord) : Option State :=
  match n with
  | 0x220 => some (s.fbcmd ld (bits x.toNat 60 4) (BitVec.ofNat 32 x.toNat))
  | 0x241 => some (s.dbgcmd ld x)
  | 0x259 => some (s.pgcmd ld asn x)
  | 0x30C => some (s.qcmd ld x)
  | 0x321 => some (s.ctxcmd ld x)
  | 0x352 => some (s.xcmd ld asn x)
  | 0x3C1 => some (s.bootctl x)
  | 0x3C9 => some (s.attest x)
  | 0x3CB => some (if bit x.toNat 0 then s.fwready else s)
  | 0x3CC => some (s.flashWrite x)
  | _ =>
    if 0x270 ≤ n ∧ n ≤ 0x29F ∧ (n - 0x270) % 12 = 9 then some (s.writeProfile ld (Fin.ofNat 4 ((n - 0x270) / 12)) x)
    else if 0x2C0 ≤ n ∧ n ≤ 0x2FF then some (s.writePubBuf ld (Fin.ofNat 64 (n - 0x2C0)) x)
    else if 0x340 ≤ n ∧ n ≤ 0x34F then
      some (if n % 2 = 0 then s.writePool ld (Fin.ofNat 8 ((n - 0x340) / 2)) x
        else s.writePoolSize ld (Fin.ofNat 8 ((n - 0x340) / 2)) x)
    else if 0x380 ≤ n ∧ n ≤ 0x3BF then some (s.writePort (Fin.ofNat 8 ((n - 0x380) / 8)) (n % 8) x)
    else none

/-- After a write of a pin register: a link whose pin was cleared is marked, so that it turns to half of its bundles at the next
evaluation (R420). -/
def State.notePins (s t : State) : State :=
  { t with pack := { t.pack with
      linkPinned := Vector.ofFn fun (i : Fin 12) => t.pack.linkPinned[i] || ((s.linkPin i).isSome && (t.linkPin i).isNone) } }

/-- A system register that is not held per group, written in its writable bits (R4, R5). -/
def State.writeSys (s : State) (ld : Fin 4) (asn : Asn) (n : Nat) (x : DWord) : State :=
  match s.command ld asn n x with
  | some r => r
  | none =>
    if n = 0x2A0 ∨ n = 0x327 ∨ 0x3C0 ≤ n then { s with pack := s.pack.write n x }
    else if n = 0x200 ∨ (0x248 ≤ n ∧ n ≤ 0x252) ∨ n = 0x260 ∨ (0x323 ≤ n ∧ n ≤ 0x326) then
      s.setCtx ld asn ((s.ctx ld asn).write n x)
    else
      let t := s.setDev ld (s.devices[ld].write n x)
      if 0x360 ≤ n ∧ n ≤ 0x363 then s.notePins t else t

/-- The registers held per group that PWR writes: TSTATE's SKIP and COND, and TSV0 to TSV3 (R331). -/
def TrapRegs.write (t : TrapRegs) (n : Nat) (x : DWord) : TrapRegs :=
  match n with
  | 0x207 => { t with skip := bit x.toNat 8, cond := BitVec.ofNat 8 (bits x.toNat 1 7 * 2 + 1) }
  | _ => if 0x208 ≤ n ∧ n ≤ 0x20B then { t with tsv := t.tsv.setIfInBounds (n - 0x208) x } else t

/-- Held per group (R331). -/
def perGroup (n : Nat) : Bool := decide (0x201 ≤ n ∧ n ≤ 0x20B)

/-! ### The privileged instructions (R332) -/

/-- A privileged word: PRIV at U (R330, R338); with a false condition it has no effect. -/
def privileged (s : State) (f : GroupId → Group → BitVec 8 → Except Stop State) : Host.Outcome State Fault Refusal :=
  onGang s fun g grp slices => do
    require (grp.priv == .system) s { kind := .priv }
    if !s.condHolds then return s.advance
    f g grp slices

/-- The number that sb names and its access: ILLEGAL at step 6 outside the tables or for the wrong direction, PRIV for a register of
M alone (R331). -/
def sysNumber (s : State) (sb : DWord) (write : Bool) : Except Stop Nat :=
  if 2 ^ 12 ≤ sb.toNat then illegal s 6
  else match regAccess sb.toNat, write with
    | none, _ => illegal s 6
    | some .mOnly, _ => trapOf s .priv
    | some .ro, true => illegal s 6
    | some .wo, false => illegal s 6
    | some _, _ => .ok sb.toNat

/-- Once a handler has returned, the next of several GANG traps of one REGANG is entered (R335). -/
def State.nextGangTrap (s : State) (g : GroupId) : State :=
  match s.group? g with
  | none => s
  | some grp =>
    match grp.livingSlices.filter fun i => grp.slices[i].wait == .gangTrap with
    | [] => s
    | ws => s.trapWaiting g (grp.lowestGang ws) { kind := .gang }

/-- RETT (R27, R332, R335, R338). -/
def execRett (s : State) : Host.Outcome State Fault Refusal :=
  privileged s fun g grp _ =>
    let back := grp.returnFromTrap (isLiteral (grp.trap.word.toNat % 2 ^ 32))
    .ok ((((s.setGroup g back).dropSeqsOf g fun w => grp.trap.skip || w.pc != (back.lead grp.trap.slices).pc).nextGangTrap g).endRun)

/-- PRD (R331, R332). -/
def execPrd (o : UPrd) (s : State) : Host.Outcome State Fault Refusal :=
  privileged s fun g grp _ => do
    let (vs, plan) ← uniformSources s [o.sb] [o.sd] noPorts
    let n ← sysNumber s (uv vs 0) false
    let x := if perGroup n then grp.trap.read n else s.readSys (deviceOfGroup g) (s.asnOf grp.launch) n
    return ((s.commitPops plan).writeUniform o.sd x).advance

/-- PWR (R331, R332). -/
def execPwr (o : UPwr) (s : State) : Host.Outcome State Fault Refusal :=
  privileged s fun g grp _ => do
    let (vs, plan) ← uniformSources s [o.sb, o.sa] [] noPorts
    let n ← sysNumber s (uv vs 0) true
    let x := uv vs 1
    let s := s.commitPops plan
    if perGroup n then
      match s.group? g with
      | some grp => return (s.setGroup g { grp with trap := grp.trap.write n x }).advance
      | none => return s
    else
      return s.advance.writeSys (deviceOfGroup g) (s.asnOf grp.launch) n x

/-- IDLE: the gang waits for an S event, 1 ms at most (R332). -/
def execIdle (s : State) : Host.Outcome State Fault Refusal :=
  privileged s fun g grp slices =>
    .ok (s.setGroup g (grp.setWait slices (.idle (s.pack.time + 1000000)) s.fetched)).endRun

/-- The latest end of the leases of a context (R364, R367). -/
def State.leasesEnd (s : State) (ld : Fin 4) (asn : Asn) : Nat :=
  (s.leases.filter fun l => l.ld == ld && l.asn == asn).foldl (fun m l => max m l.expires) s.pack.time

/-- LEASEW: the gang waits for the context's purges, and for the leases granted so far to expire (R367). -/
def execLeasew (s : State) : Host.Outcome State Fault Refusal :=
  privileged s fun g grp slices =>
    .ok (s.setGroup g (grp.setWait slices (.lease (s.leasesEnd (deviceOfGroup g) (s.asnOf grp.launch))) s.fetched)).endRun

/-- HALT: every lane of every slice ends, and the launch is halted (R332). -/
def execHalt (s : State) : Host.Outcome State Fault Refusal :=
  privileged s fun g grp _ =>
    let grp := grp.mapSlices 0xFF fun sl => { sl with ended := 15, active := 0, recon := [], exited := true, tows := [], wait := .ready }
    let s := match s.launch? grp.launch with
      | some l => s.setLaunch { l with halted := true }
      | none => s
    .ok ((s.setGroup g grp).retireGroup g).endRun

/-! ### The ends of the waits -/

/-- Slices of a group that wait at IDLE and whose wait has ended. -/
def Group.idleDone (grp : Group) (time : Nat) : BitVec 8 :=
  maskOfFn 8 fun i => if h : i < 8 then
      (match grp.slices[i].wait with
        | .idle t => decide (t ≤ time) && !grp.slices[i].exited
        | _ => false)
    else false

/-- IDLE_WAKE: an S event, or 1 ms, ends a wait (R332). Subject: the group. -/
def execIdleWake (s : State) : Host.Outcome State Fault Refusal :=
  let g := s.arg.g
  match s.group? g with
  | none => .next s
  | some grp =>
    let m := grp.idleDone s.pack.time
    .next (if m = 0 then s else s.complete g (grp.lowestGang (((List.finRange 8).filter fun (i : Fin 8) => maskHas m i.val)) &&& m))

/-- Slices of a group that wait at LEASEW and whose leases have ended. -/
def Group.leaseDone (grp : Group) (time : Nat) : BitVec 8 :=
  maskOfFn 8 fun i => if h : i < 8 then
      (match grp.slices[i].wait with
        | .lease t => decide (t ≤ time) && !grp.slices[i].exited
        | _ => false)
    else false

/-- LEASEW_RETURN: the purges that the context has started have completed and the leases have expired; its filter slots are cleared (R367).
Subject: the group. -/
def execLeasewReturn (s : State) : Host.Outcome State Fault Refusal :=
  let g := s.arg.g
  match s.group? g with
  | none => .next s
  | some grp =>
    let ld := deviceOfGroup g
    let asn := s.asnOf grp.launch
    let d := s.devices[ld]
    let m := grp.leaseDone s.pack.time
    if m = 0 ∨ d.purges.any fun p => p.by_ == asn && p.busy then .next s
    else
      let s := s.setDev ld { d with purges := d.purges.filter fun p => p.by_ ≠ asn }
      .next (s.complete g (grp.lowestGang (((List.finRange 8).filter fun (i : Fin 8) => maskHas m i.val)) &&& m))

/-! ### Writes by the host and by M (R4, R399, R402, R432, R437) -/

/-- A write is taken: by its access code, in the recovery service only where it serves, and in safe harbour through LD0's function alone
(R4, R431, R432). -/
def State.takesWrite (s : State) (ld : Fin 4) (n : Nat) (m : Bool) : Bool :=
  (match regAccess n with
    | some .rw | some .wo => true
    | some .mOnly => m
    | _ => false) && !perGroup n && (m || s.deviceRuns ld) && (s.pack.stage != .recovery || inRecovery n)

/-- REGISTER_WRITE: a write by the host, or by the harbour master, of a register; those held per context are CTXSEL's (R4, R402).
Subject: the device, the number, the value, and whether M writes. -/
def execRegisterWrite (s : State) : Host.Outcome State Fault Refusal :=
  let ld := s.arg.ld
  if s.takesWrite ld s.arg.num s.arg.flag then .next (s.writeSys ld s.devices[ld].ctxSel s.arg.num s.arg.value)
  else .next s

end Sys2Proof.Machine
end

