-- ==== Sys2Proof/Machine/Issue.lean ====
section
/-! DEFINITION. Which word issues next: arbitration and runs (R13, R27 to R33), fetching (R44 to R46, R100, R106, R275, R299 to
R304, R322), results that arrive (R152, R153), queue requests served (R43), and supersteps released (R26). -/

namespace Sys2Proof.Machine

open Sys2Proof

/-! ### Results in flight (R152, R153) -/

/-- A word has been issued by some slices: their windows are one word shorter. -/
def InFlight.tick (slices : BitVec 8) (f : InFlight) : InFlight :=
  { f with left := f.left.map fun e => if maskHas slices e.1 then (e.1, e.2 - 1) else e }

/-- The results that were in flight before a word, one word later; those that the word itself started keep their windows. -/
def tickOld (slices : BitVec 8) (n : Nat) (fs : List InFlight) : List InFlight :=
  (fs.take n).map (InFlight.tick slices) ++ fs.drop n

/-- The results of a Pilot whose windows have closed arrive. -/
def Pilot.arriveClosed (p : Pilot) (fresh : Nat) : Pilot :=
  let closed := fun (f : InFlight) => f.left.all fun e => e.2 == 0
  let now := p.inflight.filter closed
  { p.arriveEach fresh now with inflight := (p.inflight.filter fun f => !closed f).map fun f => (racedAll fresh now).foldl (InFlight.raced fresh) f }

/-- A result is still to arrive. -/
def InFlight.awaitsArrival (f : InFlight) : Bool := f.lanes != 0 || f.coming.isSome

/-- The results in flight after one of them has arrived: its promise stays while a window is open (R152). -/
def afterArrival (fresh : Nat) (f : InFlight) (fs : List InFlight) : List InFlight :=
  fs.filterMap fun x => if x = f then (if f.closed then none else some f.arrived) else some (x.raced fresh f)

/-- LOAD_RESULT_ARRIVAL: the oldest result still to come arrives before its window has closed, as it may; what it has promised holds
until then (R152). Subject: the group, or the Pilot of the cluster when the flag is set. -/
def execLoadResultArrival (s : State) : Host.Outcome State Fault Refusal :=
  if s.arg.flag then
    let p := (s.cluster s.arg.cl).pilot
    match p.inflight.find? InFlight.awaitsArrival with
    | none => .next s
    | some f => .next (s.setPilot s.arg.cl { p.arrive s.fresh f with inflight := afterArrival s.fresh f p.inflight })
  else
    let g := s.arg.g
    match s.group? g with
    | none => .next s
    | some grp =>
      match grp.inflight.find? InFlight.awaitsArrival with
      | none => .next s
      | some f => .next ((s.arrivePush g f).setGroup g { grp.arrive s.fresh f with inflight := afterArrival s.fresh f grp.inflight })

/-! ### Queue requests (R40, R43) -/

/-- A queue can serve the requests of a gang that wait on it: as many values as it pops, and room for its pushes after its own pops
(R42, R43). -/
def HQueue.serves (q : HQueue) (g : GroupId) (slices : BitVec 8) : Bool :=
  let mine := q.waiters.filter fun w => w.of g slices
  let of := fun (push : Bool) => ((mine.filter fun w => w.push == push).map QWaiter.count).sum
  mine.all (fun w => q.first g slices w.push) && decide (of false ≤ q.ready.length) &&
    decide (q.entries.length - of false + of true ≤ 16)

/-- A request can be served by every queue that its gang waits on. -/
def Cluster.serves (c : Cluster) (w : QWaiter) : Bool := c.queues.toList.all fun q => q.serves w.g w.slices

/-- The word of a request waits to issue on its queues; the requests of STOW and MACQ are served by their own events (R267, R296). -/
def State.stalls (s : State) (w : QWaiter) : Bool :=
  (s.group? w.g).any fun grp => (List.finRange 8).any fun (i : Fin 8) => maskHas w.slices i.val && match grp.slices[i].wait with
    | .queue _ => true
    | _ => false

/-- QUEUE_REQUEST_SERVED: the oldest request of a queue that every queue it waits on can serve is served: its word is issued again, and
then pops and pushes (R42, R43). Subject: the cluster and the queue. -/
def execQueueRequestServed (s : State) : Host.Outcome State Fault Refusal :=
  let c := s.cluster s.arg.cl
  match (c.queues[s.arg.queue]).waiters.find? (fun w => c.serves w && s.stalls w) with
  | none => .next s
  | some w =>
    match s.group? w.g with
    | none => .next s
    | some grp => .next (s.setGroup w.g (grp.mapSlices w.slices fun sl => match sl.wait with
        | .queue _ => { sl with wait := .again w.slices }
        | _ => sl))

/-! ### Supersteps (R26, R295) -/

/-- Every group of a superstep grid has arrived or exited. -/
def State.gridArrived (s : State) (l : Launch) : Bool :=
  l.placed == l.pkt.teams && !l.arrived.isEmpty &&
    (s.teams.filter fun t => t.launch == l.id).all fun t => t.released && t.members.all fun g => l.arrived.contains g || t.retired.contains g

/-- Every engine operation of a grid has completed (R26). -/
def State.gridDrained (s : State) (l : Launch) : Bool :=
  !(s.ops.any fun o => o.launch == l.id) && (s.groups.all fun e => e.2.launch != l.id || !s.engineBusy (groupId e.1))

/-- A group of a grid whose refused copy the boundary observes (R443). -/
def State.gridRefused (s : State) (l : Launch) : Option GroupId :=
  l.arrived.find? fun g => (s.group? g).any fun grp => !grp.batches.refused.isEmpty

/-- A grid's step count rises, and its groups go on together; at the end of a communication step each has observed its engine operations
(R26, R139). -/
def State.releaseGrid (s : State) (l : Launch) : State :=
  l.arrived.foldl (fun s g => match State.group? s g with
    | some grp => (if l.step % 2 = 0 then s else s.observe g fun _ => true).complete g (grp.waiting .superstep)
    | none => s) (s.setLaunch { l with step := l.step + 1, arrived := [] })

/-- SSTEP_RELEASE: once every group has arrived, and at the end of a communication step every engine operation of the grid has
completed, the grid goes on (R26); a group whose refused copy is observed takes its trap first, and arrives anew (R443).
Subject: the launch. -/
def execSstepRelease (s : State) : Host.Outcome State Fault Refusal :=
  match s.launch? s.arg.num with
  | none => .next s
  | some l =>
    if !s.gridArrived l then .next s
    else if l.step % 2 = 0 then .next (s.releaseGrid l)
    else if !s.gridDrained l then .next s
    else match s.gridRefused l with
      | none => .next (s.releaseGrid l)
      | some g =>
        match s.group? g with
        | none => .next s
        | some grp =>
          let (b, a) := grp.batches.observe fun _ => true
          let s := s.setLaunch { l with arrived := l.arrived.filter fun x => x ≠ g }
          let s := (s.setGroup g { grp with batches := b }).observe g fun _ => true
          .next (s.trapWaiting g (grp.waiting .superstep) { kind := .xlate, val := a.getD 0 })

/-! ### Fetching from the berth (R44 to R46, R299 to R304) -/

/-- No word: a wait or a park that is over is then fetched anew. -/
def Fetched.none : Fetched := ⟨0, 0, Option.none, false⟩

/-- The generator of a group's launch has ended on its cluster (R302, R394). -/
def State.generatorEnded (s : State) (g : GroupId) (grp : Group) : Bool :=
  (s.launch? grp.launch).any fun l => l.gensEnded.contains (clusterOf g)

/-- What an emit stream has for a fetch at a window offset. -/
inductive BerthFetch
  /-- the word with its sidecar, and the word after it when it opens a UX pair -/
  | word (w : Word) (sidecar : Word) (data : Option Word)
  | wait
  | codeEnd
  deriving DecidableEq, Repr

/-- A fetch of a stream's consumer: CLOSED and unsealed streams make it wait, and so does a tow stream's write position; past the
last word of a sealed or ended stream is CODEEND (R44, R45, R302, R394). -/
def EmitStream.fetch (e : EmitStream) (off : Nat) (generatorEnded : Bool) : BerthFetch :=
  let beyond : BerthFetch := if e.state = .sealed_ ∨ e.state = .ended then .codeEnd else .wait
  match e.state with
  | .closed => if generatorEnded then .codeEnd else .wait
  | .static => .wait
  | _ =>
    match e.at? off with
    | none => beyond
    | some (w, c, _) =>
      if isLiteral w.toNat then
        match e.at? ((off + 1) % 2 ^ 18) with
        | some (d, _, _) => .word w c (some d)
        | none => beyond
      else .word w c none

/-- The fetch of a group at a berth address. -/
def State.berthFetch (s : State) (g : GroupId) (grp : Group) (pc : Addr) : BerthFetch :=
  ((s.cluster (clusterOf g)).streams[berthStream pc]).fetch (berthWord pc) (s.generatorEnded g grp)

/-- The sidecar of the last word that a slice has fetched from a stream, for CODEEND (R302, R346). -/
def State.lastSidecar (s : State) (g : GroupId) (sl : Slice) (k : Fin 16) : Option Word :=
  match sl.tows.find? fun m => m.stream == k with
  | none => none
  | some m => m.last.bind fun n =>
    (((s.cluster (clusterOf g)).streams[k]).at? (n.toNat % 2 ^ 18)).map fun e => e.2.1

/-- A major of privileged words (R157). -/
def privilegedWord (w : Word) : Bool := w.toNat / 2 ^ 31 == 1 && w.toNat / 2 ^ 24 % 64 == 0x1F

/-! ### Fetching plain code (R100, R106, R360) -/

/-- Bytes of code as a launch's fetch sees them: its own stores do not show (R106). -/
def State.codeBytes (s : State) (launch : Nat) (ps : List Place) : List Byte :=
  let shadow := (s.launch? launch).elim [] Launch.shadow
  ps.map fun p => (p.loc?.bind fun l => getBy l shadow).getD (s.readPlace p)

/-- A word of plain code: the state, the word, and the poisoned granule if there is one; or the reason of a refusal. -/
def State.codeWord (s : State) (g : GroupId) (grp : Group) (pc : Addr) : Except Nat (State × Word × Option Nat) := do
  let (s, ps) ← s.places (s.groupReq g grp .fetch) pc.toNat 4
  let poison := (s.readPlaces ps).2.map fun i => pc.toNat + i
  return (s, BitVec.ofNat 32 (ofBytes (s.codeBytes grp.launch ps)), poison)

/-- A fetch that is refused parks the gang; its word is fetched again when it is answered (R340). -/
def State.parkFetch (s : State) (g : GroupId) (grp : Group) (slices : BitVec 8) (pc : Addr) (reason : Nat) : State :=
  { s with fetched := Fetched.none }.parkGroup g slices 0 .fetch 4 reason pc.toNat (activeLanes slices grp) 0 (grp.progressOf slices)

/-- A poisoned word of code is POISON at its granule (R339). -/
def codeTrap (s : State) (a : Nat) : Stop := .trap { kind := .poison, val := poisonVal a } s

/-- One word of plain code for a gang. -/
def State.plainWord (s : State) (g : GroupId) (grp : Group) (slices : BitVec 8) (pc : Addr) : Except Stop (State × Word) := do
  match s.codeWord g grp pc with
  | .error reason => .error (.wait (s.parkFetch g grp slices pc reason))
  | .ok (s, _, some a) => .error (codeTrap s a)
  | .ok (s, w, none) => .ok (s, w)

/-- A gang fetches its next word, or UX pair. -/
def State.gangFetch (s : State) (g : GroupId) (grp : Group) (slices : BitVec 8) : Except Stop (State × Fetched) :=
  let sl := grp.lead slices
  let pc := sl.pc
  if inBerth pc then
    let k := berthStream pc
    match s.berthFetch g grp pc with
    | .wait => .error (.wait (s.setGroup g (grp.setWait slices .emitted Fetched.none)))
    | .codeEnd => .error (.trap { kind := .codeend } { s with fetched := ⟨0, 0, s.lastSidecar g sl k, true⟩ })
    | .word w c d => .ok (s, ⟨w, d.getD 0, some c, true⟩)
  else if grp.priv = .user ∧ 2 ^ 47 ≤ pc.toNat then .error (.trap { kind := .priv } s)
  else do
    let (s, w) ← s.plainWord g grp slices pc
    if isLiteral w.toNat then
      let (s, d) ← s.plainWord g grp slices (nextWord pc)
      return (s, ⟨w, d, none, false⟩)
    else return (s, ⟨w, 0, none, false⟩)

/-! ### What may issue (R31) -/

/-- The context of a launch runs, and so does its device (R435). -/
def State.contextRuns (s : State) (ld : Fin 4) (launch : Nat) : Bool :=
  match s.launch? launch with
  | some l => s.deviceRuns ld && (s.ctx ld l.asn).state == .live
  | none => false

/-- A launch has been cancelled (R347). -/
def State.launchCancelled (s : State) (launch : Nat) : Bool := (s.launch? launch).any Launch.cancelled

/-- A group may issue: it has not stopped for good, its context runs, its launch is not cancelled, and no slice of it is parked or waits
at STOW (R31, R336, R340, R347). -/
def State.groupRuns (s : State) (g : GroupId) (grp : Group) : Bool :=
  !grp.dead && s.contextRuns (deviceOfGroup g) grp.launch && !s.launchCancelled grp.launch &&
    (List.finRange 8).all fun (i : Fin 8) =>
      grp.slices[i].exited || (grp.slices[i].wait != .parked && grp.slices[i].wait != .stow)

/-- The wait of a slice is over, and its next word can issue. -/
def State.waitOver (s : State) (g : GroupId) (grp : Group) (sl : Slice) : Bool :=
  match sl.wait with
  | .ready | .again _ | .replay _ | .result => true
  | .batches n => decide (grp.batches.sealed_.length ≤ n)
  | .ticket e seq => !(grp.tickets.any fun t => t.entry.val == e && t.seq == seq && t.status.isNone)
  | .drain => !s.engineBusy g
  | .acks => !s.unacknowledged
  | .stowTurn n => !s.stowBefore (deviceOfGroup g) n
  | .entries m => !s.slotsBusy (clusterOf g) grp.team m
  | .emitted => s.berthFetch g grp sl.pc != .wait
  | _ => false

/-- The gang with which a slice replays its word. -/
def Slice.replayed (sl : Slice) : Option (BitVec 8) :=
  match sl.wait with
  | .replay gang => some gang
  | _ => none

/-- The slices of a group whose word is to be replayed: no other word of the group is issued before (R145). -/
def Group.replaying (grp : Group) : BitVec 8 :=
  maskOfFn 8 fun i => if h : i < 8 then !grp.slices[i].exited && grp.slices[i].replayed.isSome else false

/-- A slice may issue (R31, R145, R335, R349). -/
def State.sliceReady (s : State) (g : GroupId) (grp : Group) (i : Fin 8) : Bool :=
  let sl := grp.slices[i]
  !sl.exited && sl.why == 0 && (!grp.trap.inh || maskHas grp.trap.slices i.val) && s.waitOver g grp sl &&
    (grp.replaying == 0 || maskHas grp.replaying i.val)

/-- Slices that form one candidate: they stand alike. A slice whose wait is over stands as one that has not waited; one whose word is
replayed has issued that word, and stands with those that issued it with it (R14, R27, R145). -/
def Slice.alike (a b : Slice) : Bool := a.pc == b.pc && a.loops == b.loops && a.replayed == b.replayed

/-- The candidates among some slices, by lowest slice. -/
def Group.gangsOf (grp : Group) : Nat → List (Fin 8) → List (BitVec 8)
  | _, [] => []
  | 0, _ => []
  | n + 1, i :: rest =>
    let same := fun (j : Fin 8) => grp.slices[j].alike grp.slices[i]
    maskOf 8 (((i :: rest).filter same).map Fin.val) :: grp.gangsOf n (rest.filter fun j => !same j)

/-- The candidates of a group (R31). -/
def State.gangs (s : State) (g : GroupId) (grp : Group) : List (BitVec 8) :=
  if s.groupRuns g grp then grp.gangsOf 8 ((List.finRange 8).filter fun i => s.sliceReady g grp i) else []

/-! ### Arbitration (R32) -/

/-- A candidate, with what arbitration compares. -/
structure Candidate where
  g : GroupId
  slices : BitVec 8
  count : Nat
  cls : Nat
  start : Nat
  deriving DecidableEq, Repr

/-- The candidates of a core, by slot and lowest slice. -/
def State.candidates (s : State) (c : Core) : List Candidate :=
  s.groups.flatMap fun (n, grp) =>
    let g := groupId n
    if coreOf g = c then
      (s.gangs g grp).map fun m => { g := g, slices := m, count := (grp.lead m).passed, cls := grp.cls.val, start := grp.start }
    else []

/-- The first candidate wins against the second, which stands earlier in slot and slice (R32). -/
def Candidate.beats (a b : Candidate) : Bool :=
  let promoted := fun (x : Candidate) => decide (32 ≤ x.count)
  if promoted a != promoted b then promoted a
  else if promoted a && a.count != b.count then decide (b.count < a.count)
  else if a.cls ≠ b.cls then decide (b.cls < a.cls)
  else decide (a.start < b.start)

/-- The winner of an arbitration (R32). -/
def winner : List Candidate → Option Candidate
  | [] => none
  | x :: rest => some (rest.foldl (fun b a => if a.beats b then a else b) x)

/-- The passed-over count of a slice after an arbitration: one more when it was ready and not chosen, else 0 (R32). -/
def passedAfter (cands : List Candidate) (w : Option Candidate) (g : GroupId) (i : Fin 8) (n : Nat) : Nat :=
  let has := fun (x : Candidate) => x.g == g && maskHas x.slices i.val
  if w.any has then 0 else if cands.any has then n + 1 else 0

/-- The groups of a core changed alike. -/
def State.mapCore (s : State) (c : Core) (f : GroupId → Group → Group) : State :=
  s.mapGroups fun g grp => if coreOf g = c then f g grp else grp

/-- The run in progress on a core. -/
def State.run (s : State) (c : Core) : Option Run := (s.cluster (clusterOfCore c)).runs[coreIndex c]

/-- The run of a core set or cleared. -/
def State.setRun (s : State) (c : Core) (r : Option Run) : State :=
  let cl := clusterOfCore c
  s.setCluster cl { s.cluster cl with runs := (s.cluster cl).runs.set (coreIndex c) r }

/-- The groups of a core. -/
def State.coreGroups (s : State) (c : Core) : List GroupId := (s.groups.map fun e => groupId e.1).filter fun g => coreOf g = c

/-- Debugger stops of a core's groups that stand at a boundary are taken (R350, R351). -/
def State.settleStops (s : State) (c : Core) : State := (s.coreGroups c).foldl State.settleGroup s

/-- ISSUE_ARBITRATION: a free issue slot goes to the winner among the ready candidates (R31 to R33). Subject: the core. -/
def execIssueArbitration (s : State) : Host.Outcome State Fault Refusal :=
  let c := s.arg.core
  if (s.run c).isSome then .next s
  else
    let s := s.settleStops c
    let cands := s.candidates c
    let w := winner cands
    let s := s.mapCore c fun g grp => { grp with
      slices := Vector.ofFn fun (i : Fin 8) => { grp.slices[i] with passed := passedAfter cands w g i grp.slices[i].passed } }
    .next (match w with
      | some x => s.setRun c (some ⟨x.g, x.slices, 0⟩)
      | none => s)

/-! ### Issuing a word of a run (R27) -/

/-- What an agent does in its turn: a word is executed in a state, or something else has happened. -/
inductive Plan
  | exec (i : Instr) (s : State)
  | other (r : Host.Outcome State Fault Refusal)

/-- A comparator matches the word about to issue (R352). -/
def brkMatches (brk : Vector DWord 4) (pcs : List Addr) (sidecars : List Word) : Bool :=
  brk.toList.any fun b =>
    bit b.toNat 63 &&
      (if bit b.toNat 62 then sidecars.any fun c => bits c.toNat 8 20 == bits b.toNat 8 20
       else pcs.any fun pc => bits b.toNat 0 48 == pc.toNat)

/-- The comparators of a group's context match the word at an address, or the data word of its UX pair, which has an address and an EMIT
of its own (R156, R352). -/
def State.breakHere (s : State) (g : GroupId) (grp : Group) (pc : Addr) (f : Fetched) : Bool :=
  let second := if isLiteral f.word.toNat then [nextWord pc] else []
  let held := fun (a : Addr) => (((s.cluster (clusterOf g)).streams[berthStream a]).at? (berthWord a)).map fun e => e.2.1
  brkMatches (s.ctxOfGroup g grp).brk (pc :: second) (f.sidecar.toList ++ if f.berth then second.filterMap held else [])

/-- The word at which a gang waits, or its next one. -/
def State.nextFetch (s : State) (g : GroupId) (grp : Group) (slices : BitVec 8) : Except Stop (State × Fetched) :=
  let waited := (List.finRange 8).find? fun (i : Fin 8) =>
    maskHas slices i.val && grp.slices[i].wait != .ready && grp.slices[i].waitWord.word != 0
  match waited with
  | some i => .ok (s.setGroup g (grp.wake slices), grp.slices[i].waitWord)
  | none => (s.setGroup g (grp.wake slices)).gangFetch g (grp.wake slices) slices

/-- A word decoded for a gang: ILLEGAL at step 1, and PRIV for a privileged word of a stream opened at U (R158, R304). -/
def State.decoded (s : State) (g : GroupId) (pc : Addr) (f : Fetched) : Except Stop (Instr × State) :=
  let s := { s with fetched := f }
  match decodeWords f.word f.word2 with
  | .error _ => illegal s 1
  | .ok (i, q, _) =>
    if f.berth && privilegedWord f.word && ((s.cluster (clusterOf g)).streams[berthStream pc]).priv == .user then trapOf s .priv
    else .ok (i, { s with issue := q })

/-- A gang stops at a comparator before it issues its word, which it still waits to issue (R352). -/
def State.breakGang (s : State) (g : GroupId) (slices : BitVec 8) : State :=
  match s.group? g with
  | some grp => s.setGroup g (grp.mapSlices slices fun sl => { sl with why := 4, dbg := .none })
  | none => s

/-- The gang of a run is about to issue: results whose windows have closed arrive, and its word is fetched and decoded. -/
def State.planGang (s : State) (r : Run) : Plan :=
  let s := { s.arriveClosed r.g (r.count == 0) with cur := some (.gang r.g r.slices) }
  match s.group? r.g with
  | none => .other (.next s.endRun)
  | some grp =>
    match s.nextFetch r.g grp r.slices with
    | .error e => .other (settle (.error e))
    | .ok (s1, f) =>
      let pc := (grp.lead r.slices).pc
      if !(grp.lead r.slices).passBreak && s.breakHere r.g grp pc f then
        .other (.next (s.breakGang r.g r.slices).endRun)
      else
        match s1.decoded r.g pc f with
        | .error e => .other (settle (.error e))
        | .ok (i, s) => .exec i s

/-- Slices of a run part: they no longer stand at one place with one loop stack (R27). -/
def Group.parted (grp : Group) (slices : List (Fin 8)) : Bool :=
  match slices with
  | [] => true
  | i :: rest => !rest.all fun j => grp.slices[j].pc == grp.slices[i].pc && grp.slices[j].loops == grp.slices[i].loops

/-- A slice has issued the word that it stood at, or has taken a fault at it: it waits for no event that ends before the word, and an
access of the word that is parked has been issued (R27, R322, R341). -/
def Slice.hasFetched (sl : Slice) : Bool :=
  (sl.wait == .ready || sl.wait == .sequencer || (sl.wait == .parked && sl.waitWord.word != 0)) && sl.why != 4

/-- The slices of a run that have fetched the word at which they stood have it as their last (R322). -/
def State.markIssued (s : State) (r : Run) (pc : Addr) : State :=
  match s.group? r.g with
  | some grp => s.markFetched r.g (r.slices &&& maskOfFn 8 fun i => if h : i < 8 then grp.slices[i].hasFetched else false) pc
  | none => s

/-- The run of a core after a word at an address (R27 to R29): its slices have fetched it, the windows of older results shorten, the
debugger's requests are looked at, and the run goes on or ends; a boundary forced by the 24th word is counted. `old` is how many results
were in flight before the word. -/
def State.afterGang (s : State) (c : Core) (r : Run) (old : Nat) (pc : Addr) : State :=
  let s := s.markIssued r pc
  match s.group? r.g with
  | none => s.setRun c none
  | some grp =>
    let mine := (List.finRange 8).filter fun (i : Fin 8) => maskHas r.slices i.val && !grp.slices[i].exited
    let waits := mine.any fun i => grp.slices[i].wait != .ready
    let grp := if mine.any fun i => grp.slices[i].wait.reissued then grp
      else { grp with inflight := tickOld r.slices old grp.inflight }
    let ends := s.runEnd || s.issue.b || waits || grp.parted mine || grp.dead || mine.any fun i => grp.slices[i].why != 0
    let last := ends || decide (24 ≤ r.count + 1)
    let grp := grp.mapSlices (maskOf 8 (mine.map Fin.val)) fun sl => sl.afterWord last (r.count ≠ 0)
    let stops := mine.any fun i => grp.slices[i].why != 0
    let held := stops || mine.any fun i => grp.slices[i].dbg == .stepped && grp.slices[i].wait == .ready
    let s := s.setGroup r.g grp
    let ld := deviceOfGroup r.g
    let asn := s.asnOf grp.launch
    let s := if ends || !last then s else s.setCtx ld asn { s.ctx ld asn with forced := (s.ctx ld asn).forced + 1 }
    if last || held then ((if stops then s.arriveGroup r.g else s).setRun c none).settleGroup r.g
    else s.setRun c (some { r with count := r.count + 1 })

/-! ### Issuing a word of a Pilot (R275) -/

/-- The refused accesses of a Pilot that have been answered, or none is left: a word that waits for one may be tried again (R340,
R341). -/
def Pilot.answered (p : Pilot) : Bool := p.accesses.isEmpty || p.accesses.any fun a => a.state != .parked

/-- A Pilot may issue (R275, R340, R347, R349). -/
def State.pilotReady (s : State) (cl : ClusterId) : Bool :=
  let p := (s.cluster cl).pilot
  p.running && p.fault.isNone && (p.wait == .ready || (p.wait == .parked && p.answered) || (p.wait == .acks && !s.unacknowledged)) && p.why == 0 &&
    s.contextRuns (deviceOf cl) p.launch && !s.launchCancelled p.launch

/-- A Pilot's access answered since goes before its next word: it is made again after REPLAY, and is a level G XLATE fault at its word
after REFUSE (R341, R348). -/
def State.answeredAccess (s : State) (cl : ClusterId) : Option State :=
  ((s.cluster cl).pilot.accesses.find? fun a => a.state == .again || a.state == .refused).map fun a =>
    if a.state = .again then s.retryAccess cl a
    else (s.faultAccess cl a).generatorFaultAt cl a.pc a.word { kind := .xlate, val := a.addr }

/-- A Pilot is about to issue: results whose windows have closed arrive, and its word is fetched and decoded; one past Pilot memory is a
level G BOUNDS fault. -/
def State.planPilot (s : State) (cl : ClusterId) : Plan :=
  let p := ((s.cluster cl).pilot).arriveClosed s.fresh
  let s := { s.setPilot cl { p with wait := .ready } with cur := some (.pilot cl) }
  let pc := p.pc
  let past := fun (a : Nat) => Plan.other (settle (.error (.trap { kind := .bounds, val := BitVec.ofNat 64 a } s)))
  if 2 ^ 16 ≤ pc.toNat then past pc.toNat
  else
    let f := s.pilotFetch cl pc
    let s := { s with fetched := f }
    if isLiteral f.word.toNat && decide (2 ^ 16 ≤ pc.toNat + 4) then past (pc.toNat + 4)
    else
      match decodeWords f.word f.word2 with
      | .error _ => .other (settle (illegal s 1))
      | .ok (i, q, _) => .exec i { s with issue := q }

/-- A Pilot after a word: windows shorten, and a debugger's step is over (R152, R153, R351). -/
def State.afterPilot (s : State) (cl : ClusterId) (old : Nat) : State :=
  let p := (s.cluster cl).pilot
  let p := if p.wait = .ready then { p with inflight := tickOld 1 old p.inflight } else p
  let p := match p.dbg with
    | .stepI | .stepR | .stepped =>
      if p.wait = .ready then { p.arriveAll s.fresh with why := 2, dbg := DbgReq.none } else { p with dbg := .stepped }
    | _ => p
  s.setPilot cl p

/-! ### Turns -/

/-- The place of an agent in the order of turns. -/
def Agent.rank : Agent → Nat
  | .core c => c.val
  | .pilot cl => 640 + cl.val
  | .units => 800

/-- The agents that have something to do: cores with groups, Pilots that run, and the units. -/
def State.agents (s : State) : List Agent :=
  (s.groups.map fun e => Agent.core (coreOf (groupId e.1))) ++
    (s.clusters.filterMap fun e => if e.2.pilot.running then some (Agent.pilot (Fin.ofNat 160 e.1)) else none) ++ [.units]

/-- The agent whose turn is next. -/
def State.nextTurn (s : State) : State :=
  let later := s.agents.filter fun a => decide (s.turn.rank < a.rank)
  let least := fun (l : List Agent) => l.foldl (fun (b : Agent) a => if a.rank < b.rank then a else b) Agent.units
  { s with turn := least (if later.isEmpty then s.agents else later) }

/-- Slices that are not ready have no passed-over count (R32). -/
def State.dropCounts (s : State) : State :=
  s.mapGroups fun g grp =>
    let runs := s.groupRuns g grp
    { grp with slices := Vector.ofFn fun (i : Fin 8) =>
        if grp.slices[i].passed = 0 ∨ runs && s.sliceReady g grp i then grp.slices[i] else { grp.slices[i] with passed := 0 } }

/-- The latches of every cluster that have completed take the table entries that have become free (R256). -/
def State.admitAll (s : State) : State :=
  s.clusters.foldl (fun s e => State.admitLatches s (Fin.ofNat 160 e.1) e.2.latches.length) s

/-- What happens of itself after a step: complete latches take free entries, groups of cancelled launches leave at run boundaries, and
counts of candidates that are no longer ready are dropped (R32, R256, R347). -/
def State.follow (s : State) : State := s.admitAll.sweep.dropCounts

/-- A step is over: what follows of itself has happened, what served only within the step is as before, and the next step has free values
of its own. -/
def State.settled (s : State) : State :=
  { s.follow with
    cur := none, issue := ⟨false, 0, 0⟩, fetched := Fetched.none, runEnd := false, arg := Arg.zero, fresh := s.fresh + 1 }

/-- Time passes; queues that are ready meanwhile age (R386). -/
def State.elapse (s : State) (ns : Nat) : State :=
  let s := s.ageQueues ns
  { s with pack := { s.pack with time := s.pack.time + ns } }

end Sys2Proof.Machine
end

