-- ==== Sys2Proof/Machine/Dispatch.lean ====
section
/-! DEFINITION. One arm per constructor of Instr, each a direct call of that instruction's meaning. -/

namespace Sys2Proof.Machine

open Sys2Proof

/-- Executes one instruction, or one event, in a state. -/
def exec (i : Instr) (s : State) : Host.Outcome State Fault Refusal :=
  match i with
  | .iadd o => Sys2Proof.Machine.execIadd o s
  | .iaddSat o => Sys2Proof.Machine.execIaddSat o s
  | .iaddSatN32 o => Sys2Proof.Machine.execIaddSatN32 o s
  | .isub o => Sys2Proof.Machine.execIsub o s
  | .isubSat o => Sys2Proof.Machine.execIsubSat o s
  | .isubSatN32 o => Sys2Proof.Machine.execIsubSatN32 o s
  | .imul o => Sys2Proof.Machine.execImul o s
  | .imulHi o => Sys2Proof.Machine.execImulHi o s
  | .imulHiN32 o => Sys2Proof.Machine.execImulHiN32 o s
  | .imad o => Sys2Proof.Machine.execImad o s
  | .idivI32 o => Sys2Proof.Machine.execIdivI32 o s
  | .idivN32 o => Sys2Proof.Machine.execIdivN32 o s
  | .iremI32 o => Sys2Proof.Machine.execIremI32 o s
  | .iremN32 o => Sys2Proof.Machine.execIremN32 o s
  | .iminI32 o => Sys2Proof.Machine.execIminI32 o s
  | .iminN32 o => Sys2Proof.Machine.execIminN32 o s
  | .imaxI32 o => Sys2Proof.Machine.execImaxI32 o s
  | .imaxN32 o => Sys2Proof.Machine.execImaxN32 o s
  | .land o => Sys2Proof.Machine.execLand o s
  | .lor o => Sys2Proof.Machine.execLor o s
  | .lxor o => Sys2Proof.Machine.execLxor o s
  | .landn o => Sys2Proof.Machine.execLandn o s
  | .ishl o => Sys2Proof.Machine.execIshl o s
  | .ishr o => Sys2Proof.Machine.execIshr o s
  | .isar o => Sys2Proof.Machine.execIsar o s
  | .irot o => Sys2Proof.Machine.execIrot o s
  | .popc o => Sys2Proof.Machine.execPopc o s
  | .clz o => Sys2Proof.Machine.execClz o s
  | .ctz o => Sys2Proof.Machine.execCtz o s
  | .brev o => Sys2Proof.Machine.execBrev o s
  | .icmpI32 o => Sys2Proof.Machine.execIcmpI32 o s
  | .icmpN32 o => Sys2Proof.Machine.execIcmpN32 o s
  | .sel o => Sys2Proof.Machine.execSel o s
  | .bfxN32 o => Sys2Proof.Machine.execBfxN32 o s
  | .bfxI32 o => Sys2Proof.Machine.execBfxI32 o s
  | .bfi o => Sys2Proof.Machine.execBfi o s
  | .addmod o => Sys2Proof.Machine.execAddmod o s
  | .submod o => Sys2Proof.Machine.execSubmod o s
  | .mulmod o => Sys2Proof.Machine.execMulmod o s
  | .iaddi o => Sys2Proof.Machine.execIaddi o s
  | .ishli o => Sys2Proof.Machine.execIshli o s
  | .ishri o => Sys2Proof.Machine.execIshri o s
  | .isari o => Sys2Proof.Machine.execIsari o s
  | .iroti o => Sys2Proof.Machine.execIroti o s
  | .imovi o => Sys2Proof.Machine.execImovi o s
  | .fadd o => Sys2Proof.Machine.execFadd o s
  | .fsub o => Sys2Proof.Machine.execFsub o s
  | .fmul o => Sys2Proof.Machine.execFmul o s
  | .ffma o => Sys2Proof.Machine.execFfma o s
  | .fmin o => Sys2Proof.Machine.execFmin o s
  | .fmax o => Sys2Proof.Machine.execFmax o s
  | .fscl o => Sys2Proof.Machine.execFscl o s
  | .fcmp o => Sys2Proof.Machine.execFcmp o s
  | .fabs o => Sys2Proof.Machine.execFabs o s
  | .fneg o => Sys2Proof.Machine.execFneg o s
  | .frcp o => Sys2Proof.Machine.execFrcp o s
  | .frsq o => Sys2Proof.Machine.execFrsq o s
  | .fsqrt o => Sys2Proof.Machine.execFsqrt o s
  | .fexp2 o => Sys2Proof.Machine.execFexp2 o s
  | .flog2 o => Sys2Proof.Machine.execFlog2 o s
  | .fclass o => Sys2Proof.Machine.execFclass o s
  | .frint o => Sys2Proof.Machine.execFrint o s
  | .dpe5 o => Sys2Proof.Machine.execDpe5 o s
  | .dpbf o => Sys2Proof.Machine.execDpbf o s
  | .dpf8 o => Sys2Proof.Machine.execDpf8 o s
  | .dpf4 o => Sys2Proof.Machine.execDpf4 o s
  | .dadd o => Sys2Proof.Machine.execDadd o s
  | .dsub o => Sys2Proof.Machine.execDsub o s
  | .dmul o => Sys2Proof.Machine.execDmul o s
  | .dfma o => Sys2Proof.Machine.execDfma o s
  | .dcmp o => Sys2Proof.Machine.execDcmp o s
  | .cvt o => Sys2Proof.Machine.execCvt o s
  | .pack8 o => Sys2Proof.Machine.execPack8 o s
  | .pack4 o => Sys2Proof.Machine.execPack4 o s
  | .dpi8I8 o => Sys2Proof.Machine.execDpi8I8 o s
  | .dpi8N8 o => Sys2Proof.Machine.execDpi8N8 o s
  | .dpi4I4 o => Sys2Proof.Machine.execDpi4I4 o s
  | .dpi4N4 o => Sys2Proof.Machine.execDpi4N4 o s
  | .shflIdx o => Sys2Proof.Machine.execShflIdx o s
  | .shflUp o => Sys2Proof.Machine.execShflUp o s
  | .shflDown o => Sys2Proof.Machine.execShflDown o s
  | .shflXor o => Sys2Proof.Machine.execShflXor o s
  | .redadd o => Sys2Proof.Machine.execRedadd o s
  | .redmin o => Sys2Proof.Machine.execRedmin o s
  | .redmax o => Sys2Proof.Machine.execRedmax o s
  | .redminn o => Sys2Proof.Machine.execRedminn o s
  | .minxI32 o => Sys2Proof.Machine.execMinxI32 o s
  | .minxN32 o => Sys2Proof.Machine.execMinxN32 o s
  | .maxxI32 o => Sys2Proof.Machine.execMaxxI32 o s
  | .maxxN32 o => Sys2Proof.Machine.execMaxxN32 o s
  | .scanAdd o => Sys2Proof.Machine.execScanAdd o s
  | .scanXadd o => Sys2Proof.Machine.execScanXadd o s
  | .scanMax o => Sys2Proof.Machine.execScanMax o s
  | .scanMin o => Sys2Proof.Machine.execScanMin o s
  | .voteBallot o => Sys2Proof.Machine.execVoteBallot o s
  | .voteAny o => Sys2Proof.Machine.execVoteAny o s
  | .voteAll o => Sys2Proof.Machine.execVoteAll o s
  | .bcast o => Sys2Proof.Machine.execBcast o s
  | .vget o => Sys2Proof.Machine.execVget o s
  | .lidx o => Sys2Proof.Machine.execLidx o s
  | .pand o => Sys2Proof.Machine.execPand o s
  | .por o => Sys2Proof.Machine.execPor o s
  | .pxor o => Sys2Proof.Machine.execPxor o s
  | .pandn o => Sys2Proof.Machine.execPandn o s
  | .vtrp o => Sys2Proof.Machine.execVtrp o s
  | .wadd o => Sys2Proof.Machine.execWadd o s
  | .wadc o => Sys2Proof.Machine.execWadc o s
  | .wsub o => Sys2Proof.Machine.execWsub o s
  | .wsbb o => Sys2Proof.Machine.execWsbb o s
  | .wand o => Sys2Proof.Machine.execWand o s
  | .wor o => Sys2Proof.Machine.execWor o s
  | .wxor o => Sys2Proof.Machine.execWxor o s
  | .wandn o => Sys2Proof.Machine.execWandn o s
  | .wshl o => Sys2Proof.Machine.execWshl o s
  | .wshr o => Sys2Proof.Machine.execWshr o s
  | .wsar o => Sys2Proof.Machine.execWsar o s
  | .wmuls o => Sys2Proof.Machine.execWmuls o s
  | .wmads o => Sys2Proof.Machine.execWmads o s
  | .wdivs o => Sys2Proof.Machine.execWdivs o s
  | .wdiv o => Sys2Proof.Machine.execWdiv o s
  | .wcmpI o => Sys2Proof.Machine.execWcmpI o s
  | .wcmpN o => Sys2Proof.Machine.execWcmpN o s
  | .wneg o => Sys2Proof.Machine.execWneg o s
  | .wnot o => Sys2Proof.Machine.execWnot o s
  | .wabs o => Sys2Proof.Machine.execWabs o s
  | .wnorm o => Sys2Proof.Machine.execWnorm o s
  | .wclz o => Sys2Proof.Machine.execWclz o s
  | .wpopc o => Sys2Proof.Machine.execWpopc o s
  | .wextI o => Sys2Proof.Machine.execWextI o s
  | .wextN o => Sys2Proof.Machine.execWextN o s
  | .wgetl o => Sys2Proof.Machine.execWgetl o s
  | .wsetl o => Sys2Proof.Machine.execWsetl o s
  | .cres o => Sys2Proof.Machine.execCres o s
  | .qadd o => Sys2Proof.Machine.execQadd o s
  | .qsub o => Sys2Proof.Machine.execQsub o s
  | .qmul o => Sys2Proof.Machine.execQmul o s
  | .qdiv o => Sys2Proof.Machine.execQdiv o s
  | .qnorm o => Sys2Proof.Machine.execQnorm o s
  | .wgcd o => Sys2Proof.Machine.execWgcd o s
  | .acp o => Sys2Proof.Machine.execAcp o s
  | .ld o => Sys2Proof.Machine.execLd o s
  | .lds o => Sys2Proof.Machine.execLds o s
  | .ldi o => Sys2Proof.Machine.execLdi o s
  | .st o => Sys2Proof.Machine.execSt o s
  | .sts o => Sys2Proof.Machine.execSts o s
  | .ldl o => Sys2Proof.Machine.execLdl o s
  | .stl o => Sys2Proof.Machine.execStl o s
  | .atom o => Sys2Proof.Machine.execAtom o s
  | .atom64 o => Sys2Proof.Machine.execAtom64 o s
  | .sadd o => Sys2Proof.Machine.execSadd o s
  | .ssub o => Sys2Proof.Machine.execSsub o s
  | .smul o => Sys2Proof.Machine.execSmul o s
  | .smulh o => Sys2Proof.Machine.execSmulh o s
  | .smulhn o => Sys2Proof.Machine.execSmulhn o s
  | .sdiv o => Sys2Proof.Machine.execSdiv o s
  | .sdivn o => Sys2Proof.Machine.execSdivn o s
  | .srem o => Sys2Proof.Machine.execSrem o s
  | .sand o => Sys2Proof.Machine.execSand o s
  | .sor o => Sys2Proof.Machine.execSor o s
  | .sxor o => Sys2Proof.Machine.execSxor o s
  | .sandn o => Sys2Proof.Machine.execSandn o s
  | .sshl o => Sys2Proof.Machine.execSshl o s
  | .sshr o => Sys2Proof.Machine.execSshr o s
  | .ssar o => Sys2Proof.Machine.execSsar o s
  | .srot o => Sys2Proof.Machine.execSrot o s
  | .smin o => Sys2Proof.Machine.execSmin o s
  | .smax o => Sys2Proof.Machine.execSmax o s
  | .sminn o => Sys2Proof.Machine.execSminn o s
  | .smaxn o => Sys2Proof.Machine.execSmaxn o s
  | .spopc o => Sys2Proof.Machine.execSpopc o s
  | .sclz o => Sys2Proof.Machine.execSclz o s
  | .sctz o => Sys2Proof.Machine.execSctz o s
  | .ssel o => Sys2Proof.Machine.execSsel o s
  | .scmpI o => Sys2Proof.Machine.execScmpI o s
  | .scmpN o => Sys2Proof.Machine.execScmpN o s
  | .saddi o => Sys2Proof.Machine.execSaddi o s
  | .slui o => Sys2Proof.Machine.execSlui o s
  | .slit o => Sys2Proof.Machine.execSlit o s
  | .slith o => Sys2Proof.Machine.execSlith o s
  | .sbfx o => Sys2Proof.Machine.execSbfx o s
  | .sbfxs o => Sys2Proof.Machine.execSbfxs o s
  | .sbfi o => Sys2Proof.Machine.execSbfi o s
  | .cand o => Sys2Proof.Machine.execCand o s
  | .cor o => Sys2Proof.Machine.execCor o s
  | .cxor o => Sys2Proof.Machine.execCxor o s
  | .candn o => Sys2Proof.Machine.execCandn o s
  | .sbcv o => Sys2Proof.Machine.execSbcv o s
  | .srd o => Sys2Proof.Machine.execSrd o s
  | .swr o => Sys2Proof.Machine.execSwr o s
  | .bra o => Sys2Proof.Machine.execBra o s
  | .call o => Sys2Proof.Machine.execCall o s
  | .jmpr o => Sys2Proof.Machine.execJmpr o s
  | .ret o => Sys2Proof.Machine.execRet o s
  | .callr o => Sys2Proof.Machine.execCallr o s
  | .loop o => Sys2Proof.Machine.execLoop o s
  | .lcnt o => Sys2Proof.Machine.execLcnt o s
  | .brp o => Sys2Proof.Machine.execBrp o s
  | .rcv o => Sys2Proof.Machine.execRcv o s
  | .bkpt o => Sys2Proof.Machine.execBkpt o s
  | .trap o => Sys2Proof.Machine.execTrap o s
  | .prd o => Sys2Proof.Machine.execPrd o s
  | .pwr o => Sys2Proof.Machine.execPwr o s
  | .bar o => Sys2Proof.Machine.execBar o s
  | .barProd o => Sys2Proof.Machine.execBarProd o s
  | .barCons o => Sys2Proof.Machine.execBarCons o s
  | .barCnt o => Sys2Proof.Machine.execBarCnt o s
  | .fenceAcq o => Sys2Proof.Machine.execFenceAcq o s
  | .fenceRel o => Sys2Proof.Machine.execFenceRel o s
  | .fenceFull o => Sys2Proof.Machine.execFenceFull o s
  | .sld o => Sys2Proof.Machine.execSld o s
  | .sst o => Sys2Proof.Machine.execSst o s
  | .slda o => Sys2Proof.Machine.execSlda o s
  | .sstr o => Sys2Proof.Machine.execSstr o s
  | .satom o => Sys2Proof.Machine.execSatom o s
  | .qput o => Sys2Proof.Machine.execQput o s
  | .qget o => Sys2Proof.Machine.execQget o s
  | .aseal o => Sys2Proof.Machine.execAseal o s
  | .await o => Sys2Proof.Machine.execAwait o s
  | .awaitT o => Sys2Proof.Machine.execAwaitT o s
  | .bxt o => Sys2Proof.Machine.execBxt o s
  | .gath o => Sys2Proof.Machine.execGath o s
  | .sarmArm o => Sys2Proof.Machine.execSarmArm o s
  | .sarmDisarm o => Sys2Proof.Machine.execSarmDisarm o s
  | .mgang o => Sys2Proof.Machine.execMgang o s
  | .macq o => Sys2Proof.Machine.execMacq o s
  | .mrel o => Sys2Proof.Machine.execMrel o s
  | .mma o => Sys2Proof.Machine.execMma o s
  | .mmaCx o => Sys2Proof.Machine.execMmaCx o s
  | .mlt o => Sys2Proof.Machine.execMlt o s
  | .maccLoad o => Sys2Proof.Machine.execMaccLoad o s
  | .maccStore o => Sys2Proof.Machine.execMaccStore o s
  | .mxmul o => Sys2Proof.Machine.execMxmul o s
  | .nttFwd o => Sys2Proof.Machine.execNttFwd o s
  | .nttInv o => Sys2Proof.Machine.execNttInv o s
  | .stow o => Sys2Proof.Machine.execStow o s
  | .unstow o => Sys2Proof.Machine.execUnstow o s
  | .publ o => Sys2Proof.Machine.execPubl o s
  | .emit o => Sys2Proof.Machine.execEmit o s
  | .eseal o => Sys2Proof.Machine.execEseal o s
  | .esync o => Sys2Proof.Machine.execEsync o s
  | .eopen o => Sys2Proof.Machine.execEopen o s
  | .epos o => Sys2Proof.Machine.execEpos o s
  | .tide o => Sys2Proof.Machine.execTide o s
  | .launch o => Sys2Proof.Machine.execLaunch o s
  | .lexit => Sys2Proof.Machine.execLexit s
  | .join => Sys2Proof.Machine.execJoin s
  | .regang => Sys2Proof.Machine.execRegang s
  | .rgn => Sys2Proof.Machine.execRgn s
  | .exitLanes => Sys2Proof.Machine.execExitLanes s
  | .rolesw => Sys2Proof.Machine.execRolesw s
  | .nop => Sys2Proof.Machine.execNop s
  | .rett => Sys2Proof.Machine.execRett s
  | .idle => Sys2Proof.Machine.execIdle s
  | .leasew => Sys2Proof.Machine.execLeasew s
  | .halt => Sys2Proof.Machine.execHalt s
  | .sstep => Sys2Proof.Machine.execSstep s
  | .maccZero => Sys2Proof.Machine.execMaccZero s
  | .issueArbitration => Sys2Proof.Machine.execIssueArbitration s
  | .loadResultArrival => Sys2Proof.Machine.execLoadResultArrival s
  | .queueRequestServed => Sys2Proof.Machine.execQueueRequestServed s
  | .wideSequencedComplete => Sys2Proof.Machine.execWideSequencedComplete s
  | .batchComplete => Sys2Proof.Machine.execBatchComplete s
  | .bxtComplete => Sys2Proof.Machine.execBxtComplete s
  | .gathComplete => Sys2Proof.Machine.execGathComplete s
  | .mxmulComplete => Sys2Proof.Machine.execMxmulComplete s
  | .nttComplete => Sys2Proof.Machine.execNttComplete s
  | .stowComplete => Sys2Proof.Machine.execStowComplete s
  | .childLaunchComplete => Sys2Proof.Machine.execChildLaunchComplete s
  | .matrixPass => Sys2Proof.Machine.execMatrixPass s
  | .jointOpComplete => Sys2Proof.Machine.execJointOpComplete s
  | .maccComplete => Sys2Proof.Machine.execMaccComplete s
  | .macqGrant => Sys2Proof.Machine.execMacqGrant s
  | .accSpill => Sys2Proof.Machine.execAccSpill s
  | .publExchange => Sys2Proof.Machine.execPublExchange s
  | .sstepRelease => Sys2Proof.Machine.execSstepRelease s
  | .emitResume => Sys2Proof.Machine.execEmitResume s
  | .esyncComplete => Sys2Proof.Machine.execEsyncComplete s
  | .leasewReturn => Sys2Proof.Machine.execLeasewReturn s
  | .idleWake => Sys2Proof.Machine.execIdleWake s
  | .controllerAccess => Sys2Proof.Machine.execControllerAccess s
  | .peerInvalidate => Sys2Proof.Machine.execPeerInvalidate s
  | .leaseExpire => Sys2Proof.Machine.execLeaseExpire s
  | .faultEntryWrite => Sys2Proof.Machine.execFaultEntryWrite s
  | .scrubGranule => Sys2Proof.Machine.execScrubGranule s
  | .replay => Sys2Proof.Machine.execReplay s
  | .refuse => Sys2Proof.Machine.execRefuse s
  | .gresume => Sys2Proof.Machine.execGresume s
  | .gskip => Sys2Proof.Machine.execGskip s
  | .gcancel => Sys2Proof.Machine.execGcancel s
  | .purge => Sys2Proof.Machine.execPurge s
  | .purgeComplete => Sys2Proof.Machine.execPurgeComplete s
  | .attach => Sys2Proof.Machine.execAttach s
  | .detach => Sys2Proof.Machine.execDetach s
  | .dbgStop => Sys2Proof.Machine.execDbgStop s
  | .dbgResume => Sys2Proof.Machine.execDbgResume s
  | .stepi => Sys2Proof.Machine.execStepi s
  | .stepr => Sys2Proof.Machine.execStepr s
  | .dbgRegrd => Sys2Proof.Machine.execDbgRegrd s
  | .dbgRegwr => Sys2Proof.Machine.execDbgRegwr s
  | .doorbell => Sys2Proof.Machine.execDoorbell s
  | .cqConsumedWrite => Sys2Proof.Machine.execCqConsumedWrite s
  | .mergeVisit => Sys2Proof.Machine.execMergeVisit s
  | .freezeComplete => Sys2Proof.Machine.execFreezeComplete s
  | .thawComplete => Sys2Proof.Machine.execThawComplete s
  | .segmentReturn => Sys2Proof.Machine.execSegmentReturn s
  | .launchAdmit => Sys2Proof.Machine.execLaunchAdmit s
  | .teamPlace => Sys2Proof.Machine.execTeamPlace s
  | .teamRelease => Sys2Proof.Machine.execTeamRelease s
  | .generatorStart => Sys2Proof.Machine.execGeneratorStart s
  | .launchComplete => Sys2Proof.Machine.execLaunchComplete s
  | .completionRecordWrite => Sys2Proof.Machine.execCompletionRecordWrite s
  | .coalescerHoldExpire => Sys2Proof.Machine.execCoalescerHoldExpire s
  | .ageTick => Sys2Proof.Machine.execAgeTick s
  | .queuePause => Sys2Proof.Machine.execQueuePause s
  | .queueResume => Sys2Proof.Machine.execQueueResume s
  | .queueCancel => Sys2Proof.Machine.execQueueCancel s
  | .rload => Sys2Proof.Machine.execRload s
  | .qload => Sys2Proof.Machine.execQload s
  | .create => Sys2Proof.Machine.execCreate s
  | .destroy => Sys2Proof.Machine.execDestroy s
  | .preempt => Sys2Proof.Machine.execPreempt s
  | .preemptComplete => Sys2Proof.Machine.execPreemptComplete s
  | .ctxResume => Sys2Proof.Machine.execCtxResume s
  | .exportHandle => Sys2Proof.Machine.execExportHandle s
  | .revokeHandle => Sys2Proof.Machine.execRevokeHandle s
  | .revokeComplete => Sys2Proof.Machine.execRevokeComplete s
  | .importHandle => Sys2Proof.Machine.execImportHandle s
  | .importResponse => Sys2Proof.Machine.execImportResponse s
  | .unimportHandle => Sys2Proof.Machine.execUnimportHandle s
  | .poolWrite => Sys2Proof.Machine.execPoolWrite s
  | .pbufWrite => Sys2Proof.Machine.execPbufWrite s
  | .pctlWrite => Sys2Proof.Machine.execPctlWrite s
  | .registerWrite => Sys2Proof.Machine.execRegisterWrite s
  | .tideEvaluate => Sys2Proof.Machine.execTideEvaluate s
  | .ethTransmitFrame => Sys2Proof.Machine.execEthTransmitFrame s
  | .ethReceiveFrame => Sys2Proof.Machine.execEthReceiveFrame s
  | .txTailWrite => Sys2Proof.Machine.execTxTailWrite s
  | .rxTailWrite => Sys2Proof.Machine.execRxTailWrite s
  | .powerOnReset => Sys2Proof.Machine.execPowerOnReset s
  | .packageReset => Sys2Proof.Machine.execPackageReset s
  | .startTimerExpire => Sys2Proof.Machine.execStartTimerExpire s
  | .firmwareWatchdog => Sys2Proof.Machine.execFirmwareWatchdog s
  | .fwready => Sys2Proof.Machine.execFwready s
  | .powerLoss => Sys2Proof.Machine.execPowerLoss s
  | .functionLevelReset => Sys2Proof.Machine.execFunctionLevelReset s
  | .linkReset => Sys2Proof.Machine.execLinkReset s
  | .powerEvaluate => Sys2Proof.Machine.execPowerEvaluate s
  | .thermtrip => Sys2Proof.Machine.execThermtrip s
  | .wakeSlotGrant => Sys2Proof.Machine.execWakeSlotGrant s
  | .bootClear => Sys2Proof.Machine.execBootClear s
  | .bootSafe => Sys2Proof.Machine.execBootSafe s
  | .bootReset => Sys2Proof.Machine.execBootReset s
  | .attest => Sys2Proof.Machine.execAttest s
  | .flashErase => Sys2Proof.Machine.execFlashErase s
  | .flashProgram => Sys2Proof.Machine.execFlashProgram s
  | .flashOpComplete => Sys2Proof.Machine.execFlashOpComplete s
  | .uncorrectableError => Sys2Proof.Machine.execUncorrectableError s
  | .attestComplete => Sys2Proof.Machine.execAttestComplete s
  | .hostLinkUp => Sys2Proof.Machine.execHostLinkUp s
  | .hostSnoop => Sys2Proof.Machine.execHostSnoop s
  | .recoveryLinkTimeout => Sys2Proof.Machine.execRecoveryLinkTimeout s
  | .importRequestArrival => Sys2Proof.Machine.execImportRequestArrival s

end Sys2Proof.Machine
end

