-- ==== Sys2Proof/Machine/Sched.lean ====
section
/-! DEFINITION. The events that the part's own units raise, as the model's default order of turns tries them (log entry 1). An event
that its rule does not enable changes nothing, so that trying it is harmless. -/

namespace Sys2Proof.Machine

open Sys2Proof

/-- An event about a group. -/
def aboutGroup (g : GroupId) : Arg := { Arg.zero with g := g }
/-- An event about a cluster. -/
def aboutCluster (cl : ClusterId) (num : Nat) : Arg := { Arg.zero with cl := cl, num := num }
/-- An event about a device. -/
def aboutDevice (ld : Fin 4) : Arg := { Arg.zero with ld := ld }
/-- An event about a thing with a number. -/
def aboutNumber (n : Nat) : Arg := { Arg.zero with num := n }

/-- An event that may happen at any time happens now, or not: no rule says (log entry 118). -/
def State.mayHappen (s : State) (key : Nat) (e : Instr × Arg) : List (Instr × Arg) :=
  if Config.freeBit s.fresh (2 ^ 24 + key) then [e] else []

/-- Events of the groups. -/
def State.groupEvents (s : State) : List (Instr × Arg) :=
  s.groups.flatMap fun (n, grp) =>
    let a := aboutGroup (groupId n)
    [(.batchComplete, a), (.publExchange, a), (.idleWake, a), (.leasewReturn, a), (.batchComplete, { a with flag := true })] ++
      if !grp.inflight.any InFlight.awaitsArrival then [] else s.mayHappen n (.loadResultArrival, a)

/-- Events of the Pilots: a result of a load may arrive (R152). -/
def State.pilotEvents (s : State) : List (Instr × Arg) :=
  s.clusters.flatMap fun (n, c) =>
    if !c.pilot.inflight.any InFlight.awaitsArrival then []
    else s.mayHappen (2 ^ 20 + n) (.loadResultArrival, { aboutCluster (Fin.ofNat 160 n) 0 with flag := true })

/-- The core with a number in a cluster. -/
def coreAt (cl : ClusterId) (k : Fin 4) : Core := ⟨cl.val * 4 + k.val, by omega⟩

/-- Events of the clusters' engines and Pilots. -/
def State.clusterEvents (s : State) : List (Instr × Arg) :=
  s.clusters.flatMap fun (n, c) =>
    let cl : ClusterId := Fin.ofNat 160 n
    let a := aboutCluster cl 0
    (c.table.flatMap fun e =>
        [(.jointOpComplete, aboutCluster cl e.index.val), (.maccComplete, aboutCluster cl e.index.val)]) ++
      [(.wakeSlotGrant, a), (.matrixPass, a), (.macqGrant, a), (.accSpill, a), (.emitResume, a), (.esyncComplete, a)] ++
      (List.finRange 4).map fun (k : Fin 4) => (.wideSequencedComplete, { Arg.zero with core := coreAt cl k })

/-- The event that completes an engine operation. -/
def OpKind.event : OpKind → Instr
  | .bxt => .bxtComplete
  | .gath => .gathComplete
  | .mxmul _ => .mxmulComplete
  | .ntt .. => .nttComplete
  | .stow => .stowComplete
  | .acp _ => .batchComplete

/-- Events of engine operations and launches. -/
def State.launchEvents (s : State) : List (Instr × Arg) :=
  (s.ops.map fun o => (o.kind.event, aboutNumber o.id)) ++
    (s.launches.flatMap fun l =>
      let a := aboutNumber l.id
      [(.launchAdmit, a), (.teamRelease, a), (.sstepRelease, a), (.launchComplete, a), (.childLaunchComplete, a)] ++
        l.genPending.map fun cl => (.generatorStart, aboutCluster cl l.id)) ++
    s.jobs.flatMap fun j => [(.freezeComplete, aboutNumber j.id), (.thawComplete, aboutNumber j.id)]

/-- Events of a logical device's front end. -/
def State.deviceEvents (s : State) (ld : Fin 4) : List (Instr × Arg) :=
  let a := aboutDevice ld
  [(.faultEntryWrite, a), (.purgeComplete, a), (.teamPlace, a), (.mergeVisit, a), (.segmentReturn, a), (.revokeComplete, a),
   (.importRequestArrival, a), (.importResponse, a)] ++
    s.devices[ld].queues.flatMap fun e =>
      let b : Arg := { a with queue := Fin.ofNat 32 e.1 }
      [(.ageTick, b), (.completionRecordWrite, b), (.coalescerHoldExpire, b)]

/-- Events of the contexts of the part. -/
def State.ctxEvents (s : State) : List (Instr × Arg) :=
  s.ctxs.flatMap fun (k, c) =>
    let a : Arg := { Arg.zero with ld := Fin.ofNat 4 (k / 4096), num := k % 4096 }
    (if c.state = .stopping then [(.preemptComplete, a)] else []) ++ if c.resuming then [(.ctxResume, a)] else []

/-- The number and the core by which an event names a cache. -/
def CacheLevel.name : CacheLevel → Fin 32 × Core
  | .l2 => (0, 0)
  | .basin => (1, 0)
  | .l1 core => (2, Fin.ofNat 640 core)

/-- Events of the caches: a line may be given up (R105), and the invalidations on their way arrive (R371). -/
def State.cacheEvents (s : State) : List (Instr × Arg) :=
  (s.lines.zipIdx.flatMap fun (l, k) => s.mayHappen (2 ^ 21 + k) (.controllerAccess, { Arg.zero with
      ld := l.ld, queue := l.level.name.1, core := l.level.name.2, num := l.asn.toNat, value := BitVec.ofNat 64 (128 * l.line) })) ++
    s.invals.map fun i => (.peerInvalidate, { Arg.zero with num := i.line, ld := Fin.ofNat 4 i.sharer.val, flag := i.sharer == 4 })

/-- Events of a port: a frame is sent, and one that has been held goes on (R425). -/
def EthPort.events (x : EthPort) (p : Nat) : List (Instr × Arg) :=
  (if bit x.cfg.toNat 63 then [(.ethTransmitFrame, aboutNumber p)] else []) ++
    if x.held.isSome then [(.ethReceiveFrame, aboutNumber p)] else []

/-- Events of the package. -/
def State.boardEvents (s : State) : List (Instr × Arg) :=
  [(.leaseExpire, Arg.zero), (.tideEvaluate, Arg.zero), (.attestComplete, Arg.zero), (.flashOpComplete, Arg.zero),
   (.startTimerExpire, Arg.zero), (.recoveryLinkTimeout, Arg.zero)] ++
    (List.finRange 8).flatMap fun (p : Fin 8) => s.pack.eth[p].events p.val

/-- Events of the patrol scrubbers: a granule's error may be found at any time, and is within SCRUBPER seconds (R377). -/
def State.scrubEvents (s : State) : List (Instr × Arg) :=
  (s.pack.suspects.filter fun e => s.pack.latent.contains e.1).flatMap fun (n, since) =>
    if since + s.pack.scrubPer.toNat * 1000000000 ≤ s.pack.time then [(.scrubGranule, aboutNumber n)]
    else s.mayHappen (2 ^ 61 + n) (.scrubGranule, aboutNumber n)

/-- Queue requests that wait. -/
def State.queueEvents (s : State) : List (Instr × Arg) :=
  s.clusters.flatMap fun (n, c) => (List.finRange 32).filterMap fun (q : Fin 32) =>
    if (c.queues[q]).waiters.isEmpty then none
    else some (.queueRequestServed, { Arg.zero with cl := Fin.ofNat 160 n, queue := q })

/-- Every event that the part's units might raise next. -/
def State.events (s : State) : List (Instr × Arg) :=
  s.groupEvents ++ s.pilotEvents ++ s.cacheEvents ++ s.clusterEvents ++ (List.finRange 4).flatMap s.deviceEvents ++ s.launchEvents ++ s.ctxEvents ++
    s.boardEvents ++ s.scrubEvents ++ s.queueEvents

end Sys2Proof.Machine
end

