-- ==== Sys2Proof/Machine/Program.lean ====
section
/-! DEFINITION. A program placed from outside, so that a given word is the next to issue: what `State.withFetchWord` puts around it
(log entry 7). The part itself never starts so: its programs come from launch packets (R387 to R394). -/

namespace Sys2Proof.Machine

open Sys2Proof

/-- The packet of the placed program: one team of one group, with its entry at 0x10000. -/
def placedPacket : Packet :=
  { version := 2, superstep := false, dep := none, fctl := 0, lstore := 0, queues := 0, teams := 1, lanes := 32, genwords := 0
    stagger := 0, accback := 0
    cons := { named := true, entry := 0x10000, stream := 0, offset := 0, cls := 0, allot := 40, groups := 1 }
    prod := Role.unnamed, genentry := 0, genaddr := 0, args := Vector.replicate 8 0 }

/-- The launch of the placed program, on LD0 for context 1. -/
def placedLaunch (id : Nat) : Launch :=
  { id := id, ld := 0, asn := 1, queue := 0, src := .ring 0 0 none, parent := none, depth := 0, pkt := placedPacket, admitted := true
    placed := 1, lastRelease := some 0, released := 1, step := 0, arrived := [], halted := false, failed := none, cancelled := false
    gens := [], gensEnded := [], genPending := [], shadow := [], thaw := none, began := 0, depWide := false }

/-- The team of the placed program, on cluster 0 of LD0. -/
def placedTeam (id launch : Nat) : Team :=
  { id := id, launch := launch, index := 0, cl := 0, released := true, start := 0, lsBase := 0, lsSize := 0, queues := []
    members := [0], retired := [], held := 0, spilled := [], homes := 0, backing := none, barriers := Vector.replicate 16 none }

/-- The context of the placed program: its table's root at 0x1000. -/
def placedCtx : Ctx := { Ctx.free with state := .live, ptroot := 0x1000 }

/-- Its page table: two nodes, and a leaf that maps the first 32 MiB to themselves, UNCACHED, readable, writable and executable
at U (R359). -/
def placedTable : List (Nat × Nat) :=
  [(0x1000, 2 ^ 63 + 0x2000), (0x2000, 2 ^ 63 + 0x3000), (0x3000, 2 ^ 63 + 2 ^ 60 + 2 ^ 59 + 2 ^ 58 + 2 ^ 57 + 2 ^ 50)]

/-- Profile 0 enabled with zero masks: a physical address is a location (R357). -/
def placedProfile : Profile := ⟨Vector.replicate 9 0, true, false⟩

/-- The word is one of a generator: EMIT and the emit control of majors 0x3B and 0x3C, which Pilots alone run (R157). -/
def generatorWord (w : Nat) : Bool := w / 2 ^ 31 % 2 == 1 && (w / 2 ^ 24 % 64 == 0x3B || w / 2 ^ 24 % 64 == 0x3C)

/-- The group of the placed program; for a privileged word it runs its handler, at S. -/
def placedGroup (l : Launch) (t : Team) (w : Word) : Group :=
  let grp := Group.atStart l t 0 0
  if privilegedWord w then { grp with trap := { grp.trap with inh := true, slices := 0xFF } } else grp

/-- The part with a launch in place on cluster 0, ready to run. -/
def State.placed (s : State) : State :=
  let l := placedLaunch s.nextId
  { s with
    inputs := [], launches := l :: s.launches, teams := placedTeam (s.nextId + 1) l.id :: s.teams, nextId := s.nextId + 2
    devices := s.devices.set 0 { s.devices[0] with profiles := s.devices[0].profiles.set 0 placedProfile }
    ctxs := putBy (ctxKey 0 1) placedCtx s.ctxs, pack := { s.pack with stage := .ready } }

/-- A group in slot 0 of core 0 that is to issue the bytes at 0x10000 next. -/
def State.withGroupWord (s : State) (bs : List Byte) : State :=
  let l := placedLaunch s.nextId
  let t := placedTeam (s.nextId + 1) l.id
  let grp := placedGroup l t (BitVec.ofNat 32 (ofBytes (bs.take 4)))
  let mem := placedTable.foldl (fun m e => Memory.writeBytes m e.1 (toBytes 8 e.2)) s.mem
  let s := { s.placed with mem := Memory.writeBytes mem 0x10000 bs, turn := .core 0 }
  (s.setGroup 0 grp).setRun 0 (some ⟨0, 0xFF, 0⟩)

/-- A generator on the Pilot of cluster 0 that is to issue the bytes at 0 of Pilot memory next. -/
def State.withPilotWord (s : State) (bs : List Byte) : State :=
  let l := placedLaunch s.nextId
  let t := { s.placed with mem := Memory.writeBytes s.mem (pilotLoc 0 0) bs, turn := .pilot 0 }
  t.setPilot 0 { Pilot.idle with running := true, launch := l.id, u := UFile.zero }

end Sys2Proof.Machine
end

