-- ==== Sys2Proof/Machine/Step.lean ====
section
/-! DEFINITION. One step of the part: an input is taken, or the agent whose turn it is issues a word, or a unit of the part raises an
event. Everything that a rule says is in the definitions called from here. -/

namespace Sys2Proof.Machine

open Sys2Proof

/-- The next state of an outcome changed; a fault or a refusal stays. -/
def onNext (r : Host.Outcome State Fault Refusal) (f : State → State) : Host.Outcome State Fault Refusal :=
  match r with
  | .next s => .next (f s)
  | .fault e => .fault e
  | .refused e => .refused e

/-- What an agent has planned, done. -/
def runPlan (p : Plan) : Host.Outcome State Fault Refusal :=
  match p with
  | .exec i s => exec i s
  | .other r => r

/-- How many results of a run's group are in flight before its next word. -/
def State.oldResults (s : State) (r : Run) : Nat := (((s.arriveClosed r.g (r.count == 0)).group? r.g).elim [] Group.inflight).length

/-- Where the gang of a run stands. -/
def State.runPc (s : State) (r : Run) : Addr := (s.group? r.g).elim 0 fun grp => (grp.lead r.slices).pc

/-- A core after a word of its run: when the run has ended, the turn passes. -/
def State.finishGang (c : Core) (r : Run) (old : Nat) (pc : Addr) (s : State) : State :=
  let s := s.afterGang c r old pc
  (if (s.run c).isNone then s.nextTurn else s).settled

/-- A core issues a word of its run, or arbitrates for a new one, or passes. -/
def stepCore (s : State) (c : Core) : Host.Outcome State Fault Refusal :=
  match s.run c with
  | some r => onNext (runPlan (s.planGang r)) (State.finishGang c r (s.oldResults r) (s.runPc r))
  | none =>
    if ((s.settleStops c).candidates c).isEmpty then .next (s.settleStops c).nextTurn.settled
    else onNext (exec .issueArbitration { s with arg := { Arg.zero with core := c } }) State.settled

/-- A Pilot issues a word, or makes an access that has been answered, or passes. -/
def stepPilot (s : State) (cl : ClusterId) : Host.Outcome State Fault Refusal :=
  if s.pilotReady cl then
    match s.answeredAccess cl with
    | some t => .next t.nextTurn.settled
    | none =>
      let old := (((s.cluster cl).pilot).arriveClosed s.fresh).inflight.length
      onNext (runPlan (s.planPilot cl)) fun t => (t.afterPilot cl old).nextTurn.settled
  else .next s.nextTurn.settled

/-- The first of some events that changes anything, and those after it. -/
def State.firstActive (s : State) : List (Instr × Arg) → Option (Host.Outcome State Fault Refusal × List (Instr × Arg))
  | [] => none
  | e :: rest =>
    match exec e.1 { s with arg := e.2 } with
    | .next t => if t.settled = s.settled then s.firstActive rest else some (.next t, rest)
    | r => some (r, rest)

/-- The next event of the round in progress that changes anything; with none left a new round begins, so that no event that stays enabled
waits for ever (R26, R43, R52). -/
def State.nextEvent (s : State) : Option (Host.Outcome State Fault Refusal × List (Instr × Arg)) :=
  (s.firstActive s.due).orElse fun _ => s.firstActive s.events

/-- The units' turn: an event happens, and the turn passes. -/
def stepUnits (s : State) : Host.Outcome State Fault Refusal :=
  match s.nextEvent with
  | some (r, rest) => onNext r fun t => { t with due := rest }.nextTurn.settled
  | none => .next { s with due := [] }.nextTurn.settled

/-- The agent whose turn it is acts. -/
def stepAgent (s : State) : Host.Outcome State Fault Refusal :=
  match s.turn with
  | .core c => stepCore s c
  | .pilot cl => stepPilot s cl
  | .units => stepUnits s

/-- An input is taken: time passes, another agent gets the turn, or an event happens. -/
def stepInput (s : State) : Input → Host.Outcome State Fault Refusal
  | .elapse ns => .next (s.elapse ns).settled
  | .turn a => .next { s with turn := a }.settled
  | .event i a => if (encodeBits i).isNone then onNext (exec i { s with arg := a }) State.settled else .next s.settled

/-- One step. The boot ROM goes first (R426); then inputs, oldest first; then the agents take turns. Without supplies nothing moves,
and in the ROM's recovery service only the units do (R432). -/
def step (s : State) : Host.Outcome State Fault Refusal :=
  match s.pack.stage, s.inputs with
  | .rom, _ => .next s.bootStart.settled
  | _, x :: rest => stepInput { s with inputs := rest } x
  | .off, [] | .tripped, [] => .next s.settled
  | .recovery, [] => stepUnits s
  | .running, [] | .ready, [] => stepAgent s

/-- The state with an instruction, in the table's numbering of its bits, as the next to issue (log entry 7). -/
def State.withFetchWord (s : State) (nbits w : Nat) : State :=
  let bs := tableBytes nbits w
  if generatorWord (w % 2 ^ nbits) then s.withPilotWord bs else s.withGroupWord bs

end Sys2Proof.Machine
end

