-- ==== Sys2Proof/Safety.lean ====
section
/-! DEFINITION. What the statements call safe, and the words they are made of: the invariant of a step, a gang or a Pilot at a
word, the conditions under which a word has its own effect, and the states it then leaves. -/

namespace Sys2Proof.Machine

open Sys2Proof

/-- The outcome is a next state. -/
def isNext (r : Host.Outcome State Fault Refusal) : Bool :=
  match r with
  | .next _ => true
  | .fault _ | .refused _ => false

/-- Memory is in its canonical form, so that equal memories are equal data. -/
def State.Inv (s : State) : Prop := Memory.wf s.mem = true

/-- So many steps, none of which stops. -/
def SafeFor : Nat → State → Prop
  | 0, _ => True
  | n + 1, s => ∃ t, step s = .next t ∧ SafeFor n t

/-! ### Who executes -/

/-- The gang of these slices of the group in slot `g` executes a word (R14). -/
structure Issues (s : State) (g : GroupId) (slices : BitVec 8) (grp : Group) : Prop where
  cur : s.cur = some (.gang g slices)
  here : s.group? g = some grp

/-- The Pilot of a cluster executes a word (R275). -/
structure PilotIssues (s : State) (cl : ClusterId) (p : Pilot) : Prop where
  cur : s.cur = some (.pilot cl)
  here : (s.cluster cl).pilot = p

/-- The group after its word: the progress of the word is dropped, and the slices of the gang move past it (R35, R286). -/
def Group.done (grp : Group) (slices : BitVec 8) (pair : Bool) : Group := (grp.dropProgress slices).advance slices pair

/-- The state after a gang's word that changed nothing but its group. -/
def State.doneWith (s : State) (g : GroupId) (slices : BitVec 8) (grp : Group) : State :=
  s.setGroup g (grp.done slices s.pair)

/-! ### Lane words -/

/-- No operand of a word is an armed stream port, and every one is aligned and within the allotment (R53, R54). -/
def Group.plainOperands (grp : Group) (os : List VOp) : Prop :=
  grp.operandsOk os = true ∧ ∀ r ∈ os.flatMap VOp.names, grp.streamOf r = none

/-- No result in flight whose window is open is named, or LACHK does not act (R152). -/
def Group.promiseKept (grp : Group) (slices : BitVec 8) (places : List Nat) (ss : List (Fin 64)) : Prop :=
  brokenPromise grp.inflight slices places ss = none ∨ grp.lachk = false

/-- Every result in flight that the word reads beyond its window has arrived (R153). -/
def Group.hasArrived (grp : Group) (slices : BitVec 8) (places : List Nat) (ss : List (Fin 64)) : Prop :=
  awaited grp.inflight slices places ss = false

/-- The source registers hold no poison in the lanes that the word reads (R70). -/
def Group.clean (grp : Group) (slices : BitVec 8) (os : List VOp) (lanes : LaneMask) : Prop :=
  ∀ r ∈ os.flatMap VOp.names, grp.poisonLanes (vIndex (grp.lead slices).loops.length r) &&& lanes = 0

/-- The source registers as the gang reads them (R38, R152). -/
def State.inputs? (s : State) (grp : Group) (slices : BitVec 8) (os : List VOp) : List VReg :=
  (os.flatMap VOp.names).map fun r => grp.readV s.fresh (vIndex (grp.lead slices).loops.length r)

/-- With U = 1 and UCHK = 1 the sources agree in every active lane (R151). -/
def Group.alike (grp : Group) (u : Bool) (active : LaneMask) (xs : List VReg) : Prop :=
  u = true → grp.uchk = true → ∀ l : Fin 32, maskHas active l = true → column xs l = column xs (lowLane active)

/-- The operands of a lane word let it act: nothing of R158 step 3, R152, R153, R70 or R151 stops it. -/
structure LaneReady (s : State) (grp : Group) (slices : BitVec 8) (u : Bool) (srcs dsts : List VOp) (active : LaneMask) :
    Prop where
  plain : grp.plainOperands (srcs ++ dsts)
  kept : grp.promiseKept slices ((srcs ++ dsts).flatMap (grp.placesOf slices)) []
  arrived : grp.hasArrived slices (srcs.flatMap (grp.placesOf slices)) []
  clean : grp.clean slices srcs active
  alike : grp.alike u active (s.inputs? grp slices srcs)

/-- The flags that a lane word raises: those of its contributing lanes together (R98). -/
def raisedBy {α : Type} (u : Bool) (active : LaneMask) (r : Lanes (α × BitVec 7)) : BitVec 7 :=
  unionFlags (contributing u active) (lmap Prod.snd r)

/-- The group with registers written in some lanes, each under its name in the word (R38, R56, R59). -/
def Group.writeAll (grp : Group) (slices : BitVec 8) (lanes : LaneMask) (ws : List (Nat × VReg)) : Group :=
  ws.foldl (fun x w => x.writeV (vIndex (grp.lead slices).loops.length w.1) lanes w.2) grp

/-- What each lane of a lane word computes. -/
def State.laneValues {α : Type} (s : State) (grp : Group) (slices : BitVec 8) (u : Bool) (srcs : List VOp) (active : LaneMask)
    (f : List Word → α) : Lanes α :=
  laneCompute u active (s.inputs? grp slices srcs) f

/-- A lane word with lane destinations has its own effect: when its operands let it act and no flag it raises is enabled, every
active lane of the destination registers takes the word computed from its inputs (from those of the lowest active lane when U =
1), FLAGS gathers the flags raised, and the gang moves past the word; nothing else changes (R166 to R168, R67, R98). -/
def LaneGives (i : Instr) (u : Bool) (guard : Fin 8) (srcs : List VOp) (dst : VOp)
    (f : Group → List Word → List Word × BitVec 7) : Prop :=
  ∀ (s : State) (g : GroupId) (slices : BitVec 8) (grp : Group), Issues s g slices grp →
    let active := grp.acting slices guard
    let r := s.laneValues grp slices u srcs active (f grp)
    LaneReady s grp slices u srcs [dst] active → raisedBy u active r &&& grp.enables = 0 →
      exec i s = .next (s.doneWith g slices ((grp.raise (raisedBy u active r)).writeAll slices active
        (dst.names.zipIdx.map fun (n, j) => (n, lmap (fun x => x.1.getD j 0) r))))

/-- A lane word that writes a predicate has its own effect: every active lane of the predicate takes the truth computed (p0
stays true), FLAGS gathers the flags raised, and the gang moves past the word; nothing else changes (R62, R166, R176). -/
def LanePredGives (i : Instr) (u : Bool) (guard k : Fin 8) (srcs : List VOp) (f : Group → List Word → Bool × BitVec 7) : Prop :=
  ∀ (s : State) (g : GroupId) (slices : BitVec 8) (grp : Group), Issues s g slices grp →
    let active := grp.acting slices guard
    let r := s.laneValues grp slices u srcs active (f grp)
    LaneReady s grp slices u srcs [] active → raisedBy u active r &&& grp.enables = 0 →
      exec i s = .next (s.doneWith g slices ((grp.raise (raisedBy u active r)).setPred k active
        (maskOfFn 32 fun l => if h : l < 32 then (r[l]).1 else false)))

/-- SEL's third source: 1 in the lanes where the selecting predicate is true. -/
def Group.choice (grp : Group) (k : Fin 8) : VReg := Vector.ofFn fun (l : Fin 32) => if maskHas (grp.pred k) l then 1 else 0

/-! ### Cross-lane words -/

/-- The operands of a cross-lane word let it act: all eight slices issue it (R16), and nothing of R158 step 3, R152, R153 or R70 stops
it; `lanes` are the lanes it reads. -/
structure CrossReady (grp : Group) (slices : BitVec 8) (srcs dsts : List VOp) (lanes : LaneMask) : Prop where
  whole : slices = 0xFF
  plain : grp.plainOperands (srcs ++ dsts)
  kept : grp.promiseKept slices ((srcs ++ dsts).flatMap (grp.placesOf slices)) []
  arrived : grp.hasArrived slices (srcs.flatMap (grp.placesOf slices)) []
  clean : grp.clean slices srcs lanes

/-- A cross-lane word with lane destinations has its own effect: when its operands let it act, the active lanes of its
destination registers take what `f` gives from the active lanes and the sources, and the gang moves past the word; nothing else
changes (R187). -/
def CrossGives (i : Instr) (guard : Fin 8) (srcs : List VOp) (dst : VOp) (need : LaneMask → LaneMask)
    (f : LaneMask → List VReg → List VReg) : Prop :=
  ∀ (s : State) (g : GroupId) (slices : BitVec 8) (grp : Group), Issues s g slices grp →
    let active := grp.acting slices guard
    CrossReady grp slices srcs [dst] (need active) →
      exec i s = .next (s.doneWith g slices (grp.writeAll slices active (dst.names.zip (f active (s.inputs? grp slices srcs)))))

/-! ### Uniform words -/

/-- A gang with a group, or a Pilot, executes a word. -/
def State.issuing (s : State) : Prop := (∃ g slices grp, Issues s g slices grp) ∨ ∃ cl p, PilotIssues s cl p

/-- The uniform operands of a word let it act: no lookahead promise broken, every source arrived, no poison in a source, and no operand a
queue port (R152, R153, R70, R277, R41); on a Pilot, no operand that a parked access will write, and no poison in a source (R340). -/
def State.uniformReady (s : State) (srcs dsts : List (Fin 64)) : Prop :=
  (∃ g slices grp, Issues s g slices grp ∧ grp.promiseKept slices [] (srcs ++ dsts) ∧ grp.hasArrived slices [] srcs ∧
    (∀ r ∈ srcs, r ∉ grp.spoison) ∧ ∀ r ∈ srcs ++ dsts, grp.port r = none) ∨
  ∃ cl p, PilotIssues s cl p ∧ p.awaits (srcs ++ dsts) = false ∧ ∀ r ∈ srcs, r ∉ p.spoison

/-- A guarded uniform word: with its condition true, `t` is the state it leaves when its operands let it act; with its condition
false it only moves past the word (R277). -/
def UniformGives (i : Instr) (srcs dsts : List (Fin 64)) (t : State → List DWord → State) : Prop :=
  ∀ s : State, (s.condHolds = true → s.uniformReady srcs dsts → exec i s = .next (t s (srcs.map s.readU)).advance) ∧
    (s.condHolds = false → s.issuing → exec i s = .next s.advance)

/-- A uniform word that writes one register from its sources. -/
def ScalarGives (i : Instr) (srcs : List (Fin 64)) (sd : Fin 64) (f : List DWord → DWord) : Prop :=
  UniformGives i srcs [sd] fun s vs => s.writeUniform sd (f vs)

/-! ### Wide words -/

/-- The operands of a wide word let it act (R203 steps 1 to 3): all eight slices issue it, every span is aligned, within the
allotment and of no armed stream, no promise is broken, and no source register holds poison; `both` are the spans that it reads
and writes. -/
structure WideReady (grp : Group) (slices : BitVec 8) (srcs dsts both : List VOp) : Prop where
  whole : slices = 0xFF
  spans : ∀ o ∈ srcs ++ dsts ++ both, grp.wideOk o = true
  plain : ∀ r ∈ (srcs ++ dsts ++ both).flatMap VOp.names, grp.streamOf r = none
  kept : grp.promiseKept slices ((srcs ++ dsts ++ both).flatMap (grp.placesOf slices)) []
  arrived : grp.hasArrived slices ((srcs ++ both).flatMap (grp.placesOf slices)) []
  clean : grp.clean slices (srcs ++ both) (BitVec.allOnes 32)

/-- The value of a span as a wide word reads it: its registers' limbs, taken up to the extent of the first register's tag (R75,
R197). -/
def State.spanValue (s : State) (grp : Group) (slices : BitVec 8) (r n : Nat) : Int :=
  wideValue (grp.tags.getD (vIndex (grp.lead slices).loops.length r) 0).toNat n
    (regsNat ((List.range n).map fun i => grp.readV s.fresh (vIndex (grp.lead slices).loops.length (r + i))))

/-- The group with spans written: every limb in every lane, then the tags of their first registers (R58, R199). -/
def Group.putSpans (grp : Group) (slices : BitVec 8) (ws : List (Nat × Nat × Int)) : Group :=
  ws.foldl (fun x e => x.setTag slices e.1 (extent (truncWide e.2.1 e.2.2)))
    (grp.writeAll slices (BitVec.allOnes 32)
      (ws.flatMap fun e => ((List.range e.2.1).map fun i => e.1 + i).zip (natRegs e.2.1 (pattern e.2.1 e.2.2))))

/-- The group after a short wide word: flags gathered, spans, WCF, a condition and a uniform register written, and PIX 0 (R199,
R201, R203). -/
def Group.afterWide (grp : Group) (slices : BitVec 8) (out : WideOut) : Group :=
  let x := (grp.raise out.allFlags).putSpans slices out.writes
  let x := match out.wcf with
    | some c => { x with wcf := c }
    | none => x
  let x := match out.cond with
    | some (k, b) => { x with u := x.u.setCond k b }
    | none => x
  let x := match out.sreg with
    | some (r, v) => x.writeS r v
    | none => x
  { x with pix := 0 }

/-- A short wide word has its own effect: when its operands let it act and no flag it raises is enabled, the group takes the
results, computed from the values of its spans and uniform sources, and the gang moves past the word; nothing else changes. -/
def WideGives (i : Instr) (srcs dsts both : List WSrc) (uses udst : List (Fin 64)) (f : Group → List Int → List DWord → WideOut) :
    Prop :=
  ∀ (s : State) (g : GroupId) (slices : BitVec 8) (grp : Group), Issues s g slices grp →
    WideReady grp slices (srcs.map (·.op false)) (dsts.map (·.op true)) (both.map (·.op false)) → s.uniformReady uses udst →
    let out := f grp (((srcs ++ both).flatMap WSrc.spans).map fun e => s.spanValue grp slices e.1 e.2) (uses.map s.readU)
    (∀ r x, out.sreg = some (r, x) → r ∈ udst) → out.allFlags &&& grp.enables = 0 →
      exec i s = .next (s.doneWith g slices (grp.afterWide slices out))

/-- The sequencer of a core after a gang's sequenced word has issued: it holds the word's captured sources and values, the gang
waits, PIX is 0, and the run has ended (R200, R201). -/
def State.inSequencer (s : State) (g : GroupId) (slices : BitVec 8) (grp : Group) (q : List WideSeq → List WideSeq) : State :=
  ((s.mapSeqs g q).setGroup g (grp.setWait slices .sequencer s.fetched)).endRun

/-! ### Memory words -/

/-- The word in execution starts: nothing of it has been done (R340). -/
def Group.starts (grp : Group) (slices : BitVec 8) : Prop :=
  grp.progressOf slices = Progress.start (grp.lead slices).pc slices

/-- Every access of an issuing gang's word starts; a Pilot's always does. -/
def State.startsWord (s : State) : Prop := ∀ g slices grp, Issues s g slices grp → grp.starts slices

/-- A data access of `n` bytes that R101 allows: within 48 bits, outside the berth window, and in the user half at U. -/
def plainAddr (p : Priv) (a n : Nat) : Prop :=
  a + n ≤ 2 ^ 48 ∧ (a + n ≤ berthBase ∨ 2 ^ 47 ≤ a) ∧ (p = .user → a + n ≤ 2 ^ 47)

/-- The loads of a word's lanes in order, each translated and read: the state after them and the words each lane loads; none when
an access is refused or reads poison (R226, R227, R340). -/
def loadAll (locate : Locate) (look : Look) (z : Size) : State → List LaneAddr → Option (State × List (Nat × List Word))
  | s, [] => some (s, [])
  | s, e :: rest =>
    match locate s e.2 with
    | .ok (t, ps) =>
      if (look t ps).2 = none then
        (loadAll locate look z t rest).map fun r => (r.1, (e.1, loadWords z (look t ps).1) :: r.2)
      else none
    | .error _ => none

/-- The stores of a word's lanes in order, each translated and performed: the state after them and the places each lane wrote; none
when an access is refused (R121, R340). -/
def storeAll (locate : Locate) (store : State → List Place → List Byte → State) (bytes : Nat → List Byte) :
    State → List LaneAddr → Option (State × List (Nat × List Place))
  | s, [] => some (s, [])
  | s, e :: rest =>
    match locate s e.2 with
    | .ok (t, ps) => (storeAll locate store bytes (store t ps (bytes e.1)) rest).map fun r => (r.1, (e.1, ps) :: r.2)
    | .error _ => none

/-- Where the accesses of a word's lanes stand: the state after their translation and each lane's places. -/
def locateAll (locate : Locate) : State → List LaneAddr → Option (State × List (Nat × List Place))
  | s, [] => some (s, [])
  | s, e :: rest =>
    match locate s e.2 with
    | .ok (t, ps) => (locateAll locate t rest).map fun r => (r.1, (e.1, ps) :: r.2)
    | .error _ => none

/-- The atomics of a word's lanes in the order given: the state after them and the old value that each lane read where the location has its
home; none when one reads poison (R136, R226, R232, R233). -/
def atomAll (r : Req) (launch : Nat) (op : AtomOp) (n : Nat) (places : List (Nat × List Place)) (data : Nat → Nat × Nat) :
    State → List LaneAddr → Option (State × List (Nat × Nat))
  | s, [] => some (s, [])
  | s, e :: rest =>
    let ps := (getBy e.1 places).getD []
    if (s.readAtomic ps).2 = none then
      let old := ofBytes (ps.map s.atomicByte)
      let t := s.groupStore r launch ps (toBytes n (atomValue op (n == 8) old (data e.1).1 (data e.1).2))
      (atomAll r launch op n places data t rest).map fun x => (x.1, (e.1, old) :: x.2)
    else none

/-- A register of values lane by lane, 0 in the other lanes. -/
def gathered (got : List (Nat × Word)) : VReg :=
  Vector.ofFn fun (l : Fin 32) => ((got.find? fun e => e.1 == l.val).map Prod.snd).getD 0

/-- The registers of a load's destination: in each lane its own words, or with U = 1 those of the lowest active lane. -/
def loadedRegs (u : Bool) (active : LaneMask) (vd : Fin 64) (n : Nat) (got : List (Nat × List Word)) : List (Nat × VReg) :=
  (List.range n).map fun i =>
    let v := gathered (got.map fun e => (e.1, e.2.getD i 0))
    (vd.val + i, if u then Vector.replicate 32 v[lowLane active] else v)

/-- Loaded registers of a group: written at once with LA = 0; with more, the tags are cleared and a whole register's poison goes at
issue, and the values arrive when the window of LA words has closed; an older result in flight to the same register notes that the new
one has reached its lanes (R59, R70, R152). -/
def Group.takes (grp : Group) (slices : BitVec 8) (lanes : LaneMask) (la : Nat) (ws : List (Nat × VReg)) : Group :=
  if la = 0 then grp.writeAll slices lanes ws
  else
    let regs := ws.map fun e => (vIndex (grp.lead slices).loops.length e.1, e.2)
    let x := grp.writeAll slices 0 ws
    { x with
      inflight := (x.inflight.map fun f => regs.foldl (fun (f : InFlight) e => f.overtaken e.1 lanes) f) ++
        [{ pc := (grp.lead slices).pc, regs := regs, lanes := lanes, late := [], gone := [], sreg := none, sover := false
           sdone := false, push := none, left := windows slices la }]
      vpoison := if lanes = BitVec.allOnes 32 then x.vpoison.filter fun e => !regs.any fun r => r.1 == e.1 else x.vpoison }

/-- The group after a memory word's accesses: a strong word that performed any bars a rewind (R146). -/
def Group.strongly (grp : Group) (slices : BitVec 8) (strong : Bool) (as : List LaneAddr) : Group :=
  if strong ∧ as ≠ [] then grp.pin slices else grp

/-- After an acquire load of a group, its core's L1 keeps no line of its context (R105, R132). -/
def State.acquireIf (s : State) (b : Bool) (g : GroupId) : State := if b then s.acquire g else s

/-- A lane load has its own effect: when its operands let it act, every address passes `sound`, and every access is served, the
destination takes the loaded words, and the gang moves past the word; beyond that only what translation and the caches keep changes (R105,
R222 to R229). -/
def LoadGives (i : Instr) (u : Bool) (guard : Fin 8) (vd va : Fin 64) (z : Size) (la : Nat) (strong acquire : Bool) (width : Nat)
    (addr : List VReg → Nat → Nat) (sound : State → Group → Nat → Prop) (locate : GroupId → Group → Locate) (look : Group → Look) : Prop :=
  ∀ (s s' : State) (g : GroupId) (slices : BitVec 8) (grp : Group) (got : List (Nat × List Word)), Issues s g slices grp →
    let active := grp.acting slices guard
    let as := (accessLanes u active).map fun l => (l, addr (s.inputs? grp slices [srcOp va width]) l)
    LaneReady s grp slices u [srcOp va width] [dstOp vd (sizeRegs z)] active → grp.starts slices →
    (∀ e ∈ as, sound s grp e.2) → loadAll (locate g grp) (look grp) z s as = some (s', got) →
      exec i s = .next (((s'.setGroup g
        ((grp.strongly slices strong as).takes slices active la (loadedRegs u active vd (sizeRegs z) got))).acquireIf acquire
          g).advance)

/-- A lane store has its own effect: when its operands let it act, every address passes `sound`, and every access is served, the
bytes of each active lane are stored in lane order, and the gang moves past the word; no register changes (R121, R222 to R229). -/
def StoreGives (i : Instr) (guard : Fin 8) (vd va : Fin 64) (z : Size) (strong : Bool) (width : Nat)
    (addr : List VReg → Nat → Nat) (sound : State → Group → Nat → Prop) (locate : GroupId → Group → Locate) : Prop :=
  ∀ (s s' : State) (g : GroupId) (slices : BitVec 8) (grp : Group) (cells : List (Nat × List Place)), Issues s g slices grp →
    let active := grp.acting slices guard
    let as := (maskList active).map fun l => (l, addr (s.inputs? grp slices [srcOp va width]) l)
    let ds := s.inputs? grp slices [srcOp vd (sizeRegs z)]
    let bytes := fun l => (ds.flatMap fun d => toBytes 4 (laneAt d l).toNat).take (sizeBytes z)
    LaneReady s grp slices false [srcOp vd (sizeRegs z), srcOp va width] [] active → grp.starts slices →
    (∀ e ∈ as, sound s grp e.2) →
    storeAll (locate g grp) (fun t ps bs => t.groupStore (t.groupReq g grp .store) grp.launch ps bs) bytes s as = some (s', cells) →
      exec i s = .next (s'.doneWith g slices (grp.strongly slices strong as))

/-- The checks of a uniform access of `n` bytes (R101, R223, R275). -/
def State.uniformSound (s : State) (a n : Nat) (aligned : Bool) : Prop :=
  (match s.inPilotMemory a with
   | some _ => a + n ≤ 2 ^ 16
   | none => plainAddr s.accessor.priv a n) ∧ (aligned = true → a % n = 0)

/-- No refused access of the issuing Pilot goes before an access of `n` bytes: it touches none of its bytes, and neither of the two
acquires or releases; the generator runs on (R120, R126, R340). -/
def State.accessFree (s : State) (a n : Nat) (strong : Bool) : Prop :=
  ∀ cl p, PilotIssues s cl p → ∀ q ∈ p.accesses,
    strong = false ∧ q.strong = false ∧ (q.addr.toNat + q.size ≤ a ∨ a + n ≤ q.addr.toNat)

/-- A uniform load's value taken: the register written at once, or in flight until its window of LA words has closed; an older result in
flight to the same register notes it (R152, R230). -/
def State.takesUniform (s : State) (sd : Fin 64) (la : Nat) (x : DWord) : State :=
  if la = 0 ∨ sd = 0 then s.writeUniform sd x
  else match s.cur with
  | some (.gang g slices) =>
    match s.group? g with
    | some grp => s.setGroup g { grp with
        spoison := grp.spoison.filter fun q => q ≠ sd
        inflight := (grp.inflight.map fun f => f.overtakenS sd) ++
          [{ pc := (grp.lead slices).pc, regs := [], lanes := 0, late := [], gone := [], sreg := some (sd, x), sover := false
             sdone := false, push := none, left := windows slices la }] }
    | none => s
  | some (.pilot cl) =>
    let p := (s.cluster cl).pilot
    s.setPilot cl { p with
      spoison := p.spoison.filter fun q => q ≠ sd
      inflight := (p.inflight.map fun f => f.overtakenS sd) ++
        [{ pc := p.pc, regs := [], lanes := 0, late := [], gone := [], sreg := some (sd, x), sover := false, sdone := false
           push := none, left := [(0, la)] }] }
  | none => s

/-! ### Engines -/

/-- The state of a group that has issued a ticketed operation: its lowest free entry holds the operation's number, the next one (R240). -/
def Group.ticketed (grp : Group) (slices : BitVec 8) (e : Fin 16) (code : Nat) : Group :=
  { grp.mapSlices slices fun sl => { sl with issued := (grp.ticketSeq + 1) :: sl.issued } with
    tickets := grp.tickets ++ [{ entry := e, kind := code, seq := grp.ticketSeq + 1, status := none }], ticketSeq := grp.ticketSeq + 1 }

/-- The operation that an engine event is about: the one its number names, which is not parked. -/
def State.concerns (s : State) (o : EngineOp) : Prop :=
  o ∈ s.ops ∧ o.id = s.arg.num ∧ o.parked = false ∧ ∀ x ∈ s.ops, x.id = s.arg.num → x = o

/-! ### Transfers -/

/-- The word in execution may transfer to a target: no branch floor of a tow stream is broken in a group, and a Pilot stays in Pilot
memory (R47, R275). -/
def State.mayGoTo (s : State) (target : Addr) : Prop :=
  (∃ g slices grp, Issues s g slices grp ∧ ∀ i : Fin 8, maskHas slices i.val = true → s.towAllows g grp i target = true) ∨
  ∃ cl p, PilotIssues s cl p ∧ target.toNat < 2 ^ 16

/-- The link register is no queue port, and no parked access of a Pilot will write it (R285, R340). -/
def State.plainLink (s : State) : Prop :=
  (∀ g slices grp, Issues s g slices grp → grp.port 63 = none) ∧ ∀ cl p, PilotIssues s cl p → p.awaits [63] = false

end Sys2Proof.Machine
end

