-- ==== Sys2Proof/Certificates/Slice0/Obligations.lean ====
section
/-! DEFINITION. The statements for the provers. OBLIGATIONS.json lists each with the rules of the spec it rests on. -/

open Sys2Proof Sys2Proof.Machine

/-- Memory is in its canonical form at reset. -/
def Obligations.ResetInv : Prop := State.reset.Inv

/-! ### Lane arithmetic -/

/-- A number as a word, wrapped. -/
def wordOf (x : Int) : Word := BitVec.ofInt 32 x

/-- A lane word of two sources that raises no flag. -/
def Lane3Gives (mk : LR3 → Instr) (f : Word → Word → Word) : Prop :=
  ∀ o : LR3, LaneGives (mk o) o.u o.g [srcOp o.va, srcOp o.vb] (dstOp o.vd) fun _ x => ([f (inp x 0) (inp x 1)], 0)

/-- A lane word of two sources and its destination read, that raises no flag. -/
def Lane3dGives (mk : LR3 → Instr) (f : Word → Word → Word → Word) : Prop :=
  ∀ o : LR3, LaneGives (mk o) o.u o.g [srcOp o.va, srcOp o.vb, srcOp o.vd] (dstOp o.vd) fun _ x =>
    ([f (inp x 0) (inp x 1) (inp x 2)], 0)

/-- A lane word of one source that raises no flag. -/
def Lane2Gives (mk : LR2 → Instr) (f : Word → Word) : Prop :=
  ∀ o : LR2, LaneGives (mk o) o.u o.g [srcOp o.va] (dstOp o.vd) fun _ x => ([f (inp x 0)], 0)

/-- A lane shift by an immediate amount. -/
def LaneShiftGives (mk : LShift → Instr) (f : Word → Nat → Word) : Prop :=
  ∀ o : LShift, LaneGives (mk o) o.u o.g [srcOp o.va] (dstOp o.vd) fun _ x => ([f (inp x 0) o.amt.val], 0)

/-- Integer lane arithmetic: the exact result wrapped or saturated, and no flag (R74, R170). -/
def LaneIntegerResults : Prop :=
  Lane3Gives Instr.iadd (fun a b => wordOf (a.toInt + b.toInt)) ∧
  Lane3Gives Instr.iaddSat (fun a b => wordOf (max (-2 ^ 31) (min (2 ^ 31 - 1) (a.toInt + b.toInt)))) ∧
  Lane3Gives Instr.iaddSatN32 (fun a b => wordOf (min (2 ^ 32 - 1) (a.toNat + b.toNat : Nat))) ∧
  Lane3Gives Instr.isub (fun a b => wordOf (a.toInt - b.toInt)) ∧
  Lane3Gives Instr.isubSat (fun a b => wordOf (max (-2 ^ 31) (min (2 ^ 31 - 1) (a.toInt - b.toInt)))) ∧
  Lane3Gives Instr.isubSatN32 (fun a b => wordOf (a.toNat - b.toNat : Nat)) ∧
  Lane3Gives Instr.imul (fun a b => wordOf (a.toInt * b.toInt)) ∧
  Lane3Gives Instr.imulHi (fun a b => wordOf (a.toInt * b.toInt / 2 ^ 32)) ∧
  Lane3Gives Instr.imulHiN32 (fun a b => wordOf (a.toNat * b.toNat / 2 ^ 32 : Nat)) ∧
  Lane3dGives Instr.imad (fun a b d => wordOf (a.toInt * b.toInt + d.toInt)) ∧
  Lane3Gives Instr.iminI32 (fun a b => wordOf (min a.toInt b.toInt)) ∧
  Lane3Gives Instr.iminN32 (fun a b => wordOf (min a.toNat b.toNat : Nat)) ∧
  Lane3Gives Instr.imaxI32 (fun a b => wordOf (max a.toInt b.toInt)) ∧
  Lane3Gives Instr.imaxN32 (fun a b => wordOf (max a.toNat b.toNat : Nat)) ∧
  (∀ o : LImm, LaneGives (.iaddi o) o.u o.g [srcOp o.va] (dstOp o.vd) fun _ x =>
    ([wordOf ((inp x 0).toInt + o.imm.toInt)], 0)) ∧
  (∀ o : LMov, LaneGives (.imovi o) o.u o.g [] (dstOp o.vd) fun _ _ => ([wordOf o.imm.toInt], 0))

/-- A lane division: `zero` gives the result for a zero divisor, which raises DZ. -/
def DivisionGives (mk : LR3 → Instr) (zero : Word → Word) (f : Word → Word → Word) : Prop :=
  ∀ o : LR3, LaneGives (mk o) o.u o.g [srcOp o.va, srcOp o.vb] (dstOp o.vd) fun _ x =>
    if inp x 1 = 0 then ([zero (inp x 0)], flagDZ) else ([f (inp x 0) (inp x 1)], 0)

/-- Integer lane division: the quotient rounded towards zero and the remainder that goes with it; a zero divisor gives all ones,
or a, and raises DZ (R171). -/
def LaneDivisionResults : Prop :=
  DivisionGives Instr.idivI32 (fun _ => 0xFFFFFFFF) (fun a b => wordOf (a.toInt.tdiv b.toInt)) ∧
  DivisionGives Instr.idivN32 (fun _ => 0xFFFFFFFF) (fun a b => wordOf (a.toNat / b.toNat : Nat)) ∧
  DivisionGives Instr.iremI32 (fun a => a) (fun a b => wordOf (a.toInt - b.toInt * a.toInt.tdiv b.toInt)) ∧
  DivisionGives Instr.iremN32 (fun a => a) (fun a b => wordOf (a.toNat - b.toNat * (a.toNat / b.toNat) : Nat))

/-- Bit operations of the lanes (R172 to R175). -/
def LaneBitResults : Prop :=
  let shl := fun (a : Word) (n : Nat) => wordOf (a.toNat * 2 ^ n : Nat)
  let shr := fun (a : Word) (n : Nat) => wordOf (a.toNat / 2 ^ n : Nat)
  let sar := fun (a : Word) (n : Nat) => wordOf (a.toInt / 2 ^ n)
  let rot := fun (a : Word) (n : Nat) => wordOf (a.toNat * 2 ^ (n % 32) + a.toNat / 2 ^ (32 - n % 32) : Nat)
  let pos := fun (b : Word) => b.toNat % 32
  let width := fun (b : Word) => min (b.toNat / 2 ^ 8 % 64) (32 - b.toNat % 32)
  let field := fun (a b : Word) => a.toNat / 2 ^ pos b % 2 ^ width b
  Lane3Gives Instr.land (fun a b => a &&& b) ∧ Lane3Gives Instr.lor (fun a b => a ||| b) ∧
  Lane3Gives Instr.lxor (fun a b => a ^^^ b) ∧ Lane3Gives Instr.landn (fun a b => a &&& ~~~b) ∧
  Lane3Gives Instr.ishl (fun a b => shl a b.toNat) ∧ Lane3Gives Instr.ishr (fun a b => shr a b.toNat) ∧
  Lane3Gives Instr.isar (fun a b => sar a b.toNat) ∧ Lane3Gives Instr.irot (fun a b => rot a b.toNat) ∧
  LaneShiftGives Instr.ishli shl ∧ LaneShiftGives Instr.ishri shr ∧ LaneShiftGives Instr.isari sar ∧
  LaneShiftGives Instr.iroti rot ∧
  Lane2Gives Instr.popc (fun a => wordOf ((List.range 32).countP fun i => a.getLsbD i)) ∧
  Lane2Gives Instr.clz (fun a => wordOf (((List.range 32).find? fun i => a.getLsbD (31 - i)).getD 32)) ∧
  Lane2Gives Instr.ctz (fun a => wordOf (((List.range 32).find? fun i => a.getLsbD i).getD 32)) ∧
  Lane2Gives Instr.brev (fun a => a.reverse) ∧
  Lane3Gives Instr.bfxN32 (fun a b => wordOf (field a b)) ∧
  Lane3Gives Instr.bfxI32 (fun a b =>
    wordOf (if width b ≠ 0 ∧ 2 ^ (width b - 1) ≤ field a b then (field a b : Int) - 2 ^ width b else field a b)) ∧
  Lane3dGives Instr.bfi (fun a b d =>
    let m : Word := wordOf ((2 ^ width b - 1) * 2 ^ pos b)
    (d &&& ~~~m) ||| (a <<< pos b &&& m))

/-- The truth of a comparison of integers. -/
def truthOf (c : Cmp) (a b : Int) : Bool :=
  match c with
  | .eq => decide (a = b)
  | .ne => decide (a ≠ b)
  | .lt => decide (a < b)
  | .le => decide (a ≤ b)
  | .gt => decide (a > b)
  | .ge => decide (a ≥ b)
  | .un => false

/-- Comparison into a predicate and selection in the lanes (R155, R176, R177, R181, R183). -/
def LaneCompareResults : Prop :=
  (∀ o : LCmp, o.cc ≠ .un → LanePredGives (.icmpI32 o) o.u o.g o.k [srcOp o.va, srcOp o.vb] fun _ x =>
    (truthOf o.cc (inp x 0).toInt (inp x 1).toInt, 0)) ∧
  (∀ o : LCmp, o.cc ≠ .un → LanePredGives (.icmpN32 o) o.u o.g o.k [srcOp o.va, srcOp o.vb] fun _ x =>
    (truthOf o.cc (inp x 0).toNat (inp x 1).toNat, 0)) ∧
  (∀ o : LCmp, LanePredGives (.fcmp o) o.u o.g o.k [srcOp o.va, srcOp o.vb] fun grp x =>
    let a := op32 grp (inp x 0)
    let b := op32 grp (inp x 1)
    (fpHolds o.cc a b, if a.isSnan ∨ b.isSnan then flagIV else 0)) ∧
  (∀ o : LCmp, LanePredGives (.dcmp o) o.u o.g o.k [srcOp o.va 2, srcOp o.vb 2] fun grp x =>
    let a := op64 grp ((inp x 0).toNat + 2 ^ 32 * (inp x 1).toNat)
    let b := op64 grp ((inp x 2).toNat + 2 ^ 32 * (inp x 3).toNat)
    (fpHolds o.cc a b, if a.isSnan ∨ b.isSnan then flagIV else 0)) ∧
  (∀ (o : LR3) (s : State) (g : GroupId) (slices : BitVec 8) (grp : Group), Issues s g slices grp →
    let active := activeLanes slices grp
    let srcs := [srcOp o.va, srcOp o.vb]
    let xs := s.inputs? grp slices srcs
    grp.plainOperands (srcs ++ [dstOp o.vd]) →
    grp.promiseKept slices ((srcs ++ [dstOp o.vd]).flatMap (grp.placesOf slices)) [] →
    grp.hasArrived slices (srcs.flatMap (grp.placesOf slices)) [] → grp.clean slices srcs active →
    grp.alike o.u active (xs ++ [grp.choice o.g]) →
      exec (.sel o) s = .next (s.doneWith g slices (grp.writeAll slices active [(o.vd.val,
        Vector.ofFn fun (l : Fin 32) =>
          let l' := if o.u then lowLane active else l
          if maskHas (grp.pred o.g) l' then (column xs l').getD 0 0 else (column xs l').getD 1 0)])))

/-- A modular lane word: `f` computes from N, B and the two sources, exactly. -/
def ModularGives (mk : LR3 → Instr) (f : Int → Int → Int → Int → Int) : Prop :=
  ∀ o : LR3, LaneGives (mk o) o.u o.g [srcOp o.va, srcOp o.vb] (dstOp o.vd) fun grp x =>
    ([wordOf (f grp.modn.toNat grp.modb.toNat (inp x 0).toNat (inp x 1).toNat)], 0)

/-- Modular lane arithmetic, on exact intermediate values (R178). -/
def Obligations.LaneModularResults : Prop :=
  ModularGives Instr.addmod (fun n _ a b => if a + b ≥ n then a + b - n else a + b) ∧
  ModularGives Instr.submod (fun n _ a b => if a - b < 0 then a - b + n else a - b) ∧
  ModularGives Instr.mulmod (fun n m a b =>
    let x := a * b - a * b * m / 2 ^ 64 * n
    let y := if x ≥ n then x - n else x
    if y ≥ n then y - n else y)

/-- MULMOD gives the true residue when N ≥ 1, a and b are below N, and B = ⌊(2^64 − 1) ÷ N⌋ (R178): for a word whose operands
let it act, every active lane of its destination holds a × b mod N. -/
def Obligations.MulmodIsResidue : Prop :=
  ∀ (o : LR3) (s : State) (g : GroupId) (slices : BitVec 8) (grp : Group), Issues s g slices grp →
    let active := grp.acting slices o.g
    let srcs := [srcOp o.va, srcOp o.vb]
    LaneReady s grp slices o.u srcs [dstOp o.vd] active → (grp.lead slices).loops.length ≤ 4 →
    grp.modn ≠ 0 → grp.modb.toNat = (2 ^ 64 - 1) / grp.modn.toNat →
    (∀ l : Fin 32, maskHas active l = true → ∀ x ∈ column (s.inputs? grp slices srcs) l, x.toNat < grp.modn.toNat) →
      ∃ t grp', exec (.mulmod o) s = .next t ∧ t.group? g = some grp' ∧
        ∀ l : Fin 32, maskHas active l = true →
          let src := if o.u then lowLane active else l
          let a := (column (s.inputs? grp slices srcs) src).getD 0 0
          let b := (column (s.inputs? grp slices srcs) src).getD 1 0
          ((laneReg grp'.v (vIndex (grp.lead slices).loops.length o.vd))[l]).toNat = a.toNat * b.toNat % grp.modn.toNat

/-! ### Lane floating point, conversion and dot products -/

/-- A binary32 word of two sources: a datum and its flags. -/
def Float2Gives (mk : LR3 → Instr) (f : Group → Word → Word → Nat × BitVec 7) : Prop :=
  ∀ o : LR3, LaneGives (mk o) o.u o.g [srcOp o.va, srcOp o.vb] (dstOp o.vd) fun grp x =>
    ([BitVec.ofNat 32 (f grp (inp x 0) (inp x 1)).1], (f grp (inp x 0) (inp x 1)).2)

/-- A binary32 word of one source. -/
def Float1Gives (mk : LR2 → Instr) (f : Rm → Bool → FVal → Nat × BitVec 7) : Prop :=
  ∀ o : LR2, LaneGives (mk o) o.u o.g [srcOp o.va] (dstOp o.vd) fun grp x =>
    ([BitVec.ofNat 32 (f grp.rm grp.ftz (Fmt.f32.operand grp.ftz (inp x 0).toNat)).1],
      (f grp.rm grp.ftz (Fmt.f32.operand grp.ftz (inp x 0).toNat)).2)

/-- A word that reads a third source from its destination. -/
def Lane3FlagGives (mk : LR3 → Instr) (f : Group → Word → Word → Word → Nat × BitVec 7) : Prop :=
  ∀ o : LR3, LaneGives (mk o) o.u o.g [srcOp o.va, srcOp o.vb, srcOp o.vd] (dstOp o.vd) fun grp x =>
    ([BitVec.ofNat 32 (f grp (inp x 0) (inp x 1) (inp x 2)).1], (f grp (inp x 0) (inp x 1) (inp x 2)).2)

/-- Binary32 arithmetic of the lanes: the operands as FTZ has them, the exact result rounded once by FCTL.RM, and the flags raised
(R83, R84, R179, R180). -/
def LaneFloatResults : Prop :=
  let v := fun (grp : Group) (x : Word) => Fmt.f32.operand grp.ftz x.toNat
  Float2Gives Instr.fadd (fun grp a b => fpAdd Fmt.f32 grp.rm grp.ftz (v grp a) (v grp b)) ∧
  Float2Gives Instr.fsub (fun grp a b => fpAdd Fmt.f32 grp.rm grp.ftz (v grp a) (v grp b).negate) ∧
  Float2Gives Instr.fmul (fun grp a b => fpMul Fmt.f32 grp.rm grp.ftz (v grp a) (v grp b)) ∧
  Lane3FlagGives Instr.ffma (fun grp a b d => fpFma Fmt.f32 grp.rm grp.ftz (v grp a) (v grp b) (v grp d)) ∧
  Float2Gives Instr.fmin (fun grp a b => fpMinMax Fmt.f32 grp.ftz false a.toNat b.toNat) ∧
  Float2Gives Instr.fmax (fun grp a b => fpMinMax Fmt.f32 grp.ftz true a.toNat b.toNat) ∧
  Float2Gives Instr.fscl (fun grp a b => fpScale Fmt.f32 grp.rm grp.ftz (v grp a) b.toInt)

/-- Binary32 operations of one source (R182): FABS and FNEG change the sign alone, but for a NaN, which becomes the canonical one;
the others follow their own functions, and FCLASS gives one class bit and no flag. -/
def LaneUnaryFloatResults : Prop :=
  Float1Gives Instr.frcp (fun rm ftz x => fpRcp Fmt.f32 rm ftz x) ∧ Float1Gives Instr.frsq (fun rm ftz x => fpRsq Fmt.f32 rm ftz x) ∧
  Float1Gives Instr.fsqrt (fun rm ftz x => fpSqrt Fmt.f32 rm ftz x) ∧
  Float1Gives Instr.fexp2 (fun rm ftz x => fpExp2 Fmt.f32 rm ftz x) ∧
  Float1Gives Instr.flog2 (fun rm ftz x => fpLog2 Fmt.f32 rm ftz x) ∧
  Float1Gives Instr.frint (fun rm ftz x => fpRint Fmt.f32 rm ftz x) ∧
  (∀ o : LR2, LaneGives (.fclass o) o.u o.g [srcOp o.va] (dstOp o.vd) fun grp x =>
    ([BitVec.ofNat 32 (fpClass Fmt.f32 grp.ftz (inp x 0).toNat)], 0)) ∧
  Float1Gives Instr.fabs (fun _ _ x => match x with
    | .nan sig => (Fmt.f32.nan, if sig then flagIV else 0)
    | .inf _ => (Fmt.f32.top, 0)
    | .fin _ m e => Fmt.f32.round .rne false false m e false) ∧
  Float1Gives Instr.fneg (fun _ _ x => match x with
    | .nan sig => (Fmt.f32.nan, if sig then flagIV else 0)
    | .inf n => (Fmt.f32.zero (!n) + Fmt.f32.top, 0)
    | .fin n m e => Fmt.f32.round .rne false (!n) m e false)

/-- A binary64 operand: its low word at a position, its high word at the next. -/
def doubleAt (grp : Group) (x : List Word) (i : Nat) : FVal :=
  Fmt.f64.operand grp.ftz ((inp x i).toNat + 2 ^ 32 * (inp x (i + 1)).toNat)

/-- A binary64 result as its two words, with its flags. -/
def doubleOut (r : Nat × BitVec 7) : List Word × BitVec 7 := ([BitVec.ofNat 32 r.1, BitVec.ofNat 32 (r.1 / 2 ^ 32)], r.2)

/-- A binary64 word of two sources, all operands even pairs. -/
def DoubleGives (mk : LR3 → Instr) (f : Group → FVal → FVal → Nat × BitVec 7) : Prop :=
  ∀ o : LR3, LaneGives (mk o) o.u o.g [srcOp o.va 2, srcOp o.vb 2] (dstOp o.vd 2) fun grp x =>
    doubleOut (f grp (doubleAt grp x 0) (doubleAt grp x 2))

/-- Binary64 arithmetic of the lanes, on even register pairs (R167, R183). -/
def LaneDoubleResults : Prop :=
  DoubleGives Instr.dadd (fun grp a b => fpAdd Fmt.f64 grp.rm grp.ftz a b) ∧
  DoubleGives Instr.dsub (fun grp a b => fpAdd Fmt.f64 grp.rm grp.ftz a b.negate) ∧
  DoubleGives Instr.dmul (fun grp a b => fpMul Fmt.f64 grp.rm grp.ftz a b) ∧
  (∀ o : LR3, LaneGives (.dfma o) o.u o.g [srcOp o.va 2, srcOp o.vb 2, srcOp o.vd 2] (dstOp o.vd 2) fun grp x =>
    doubleOut (fpFma Fmt.f64 grp.rm grp.ftz (doubleAt grp x 0) (doubleAt grp x 2) (doubleAt grp x 4)))

/-- Conversion and packing (R86, R184, R185): CVT reads and writes a pair where its code says so, and PACK8 and PACK4 replace one
byte or nibble of the destination. -/
def LaneConvertResults : Prop :=
  (∀ o : LCvt, LaneGives (.cvt o) o.u o.g [srcOp o.va (if cvtSrcWide o.code then 2 else 1)]
    (dstOp o.vd (if cvtDstWide o.code then 2 else 1)) fun grp x =>
      let r := convert o.code o.rm grp.ftz ((inp x 0).toNat + 2 ^ 32 * (inp x 1).toNat)
      (if cvtDstWide o.code then [BitVec.ofNat 32 r.1, BitVec.ofNat 32 (r.1 / 2 ^ 32)] else [BitVec.ofNat 32 r.1], r.2)) ∧
  (∀ o : LPack8, LaneGives (.pack8 o) o.u o.g [srcOp o.va, srcOp o.vd] (dstOp o.vd) fun _ x =>
    let m := (0xFF : Word) <<< (8 * o.k.val)
    ([(inp x 1 &&& ~~~m) ||| (inp x 0 <<< (8 * o.k.val) &&& m)], 0)) ∧
  (∀ o : LPack4, LaneGives (.pack4 o) o.u o.g [srcOp o.va, srcOp o.vd] (dstOp o.vd) fun _ x =>
    let m := (0xF : Word) <<< (4 * o.k.val)
    ([(inp x 1 &&& ~~~m) ||| (inp x 0 <<< (4 * o.k.val) &&& m)], 0))

/-- Element `j` of `w` bits of a register. -/
def partOf (w : Nat) (x : Word) (j : Nat) : Nat := x.toNat / 2 ^ (w * j) % 2 ^ w

/-- An integer dot instruction on `n` elements of `w` bits. -/
def DotIntGives (mk : LR3 → Instr) (w n : Nat) (val : Nat → Int) : Prop :=
  Lane3dGives mk fun a b d => wordOf (d.toInt + ((List.range n).map fun j => val (partOf w a j) * val (partOf w b j)).sum)

/-- A floating dot instruction on `n` elements of `w` bits. -/
def DotFloatGives (mk : LR3 → Instr) (w n : Nat) (val : Group → Nat → FVal) : Prop :=
  Lane3FlagGives mk fun grp a b d => dotFloat grp.rm grp.ftz ((List.range n).map fun j => val grp (partOf w a j))
    ((List.range n).map fun j => val grp (partOf w b j)) (Fmt.f32.operand grp.ftz d.toNat)

/-- Dot instructions (R87, R88, R186): an integer one accumulates the exact sum of products wrapping, a floating one rounds the exact
sum of products and accumulator once. -/
def LaneDotResults : Prop :=
  DotIntGives Instr.dpi8I8 8 4 (fun x => if x < 128 then x else (x : Int) - 256) ∧ DotIntGives Instr.dpi8N8 8 4 (fun x => x) ∧
  DotIntGives Instr.dpi4I4 4 8 (fun x => if x < 8 then x else (x : Int) - 16) ∧ DotIntGives Instr.dpi4N4 4 8 (fun x => x) ∧
  DotFloatGives Instr.dpe5 8 4 (fun _ => Fmt.e5m2.value) ∧ DotFloatGives Instr.dpbf 16 2 (fun grp => Fmt.bf16.operand grp.ftz) ∧
  DotFloatGives Instr.dpf8 8 4 (fun _ => Fmt.e4m3.value) ∧ DotFloatGives Instr.dpf4 4 8 (fun _ => Fmt.e2m1.value)

/-! ### Cross-lane words -/

/-- Some lanes of a register combined in ascending order, from an identity. -/
def foldLanes (z : Word) (f : Word → Word → Word) (ls : List Nat) (x : VReg) : Word := ls.foldl (fun acc l => f acc (laneAt x l)) z

/-- A cross-lane word of one source whose every active lane receives one word. -/
def ReduceGives (mk : XR2 → Instr) (f : LaneMask → VReg → Word) : Prop :=
  ∀ o : XR2, CrossGives (mk o) o.g [srcOp o.va] (dstOp o.vd) (fun a => a) fun active xs =>
    [Vector.replicate 32 (f active (xs.headD (Vector.replicate 32 0)))]

/-- A scan: each active lane combines the active lanes below it, itself included unless `strict`. -/
def ScanGives (mk : XR2 → Instr) (strict : Bool) (z : Word) (f : Word → Word → Word) : Prop :=
  ∀ o : XR2, CrossGives (mk o) o.g [srcOp o.va] (dstOp o.vd) (fun a => a) fun active xs =>
    [Vector.ofFn fun (l : Fin 32) => foldLanes z f ((maskList active).filter fun k => decide (k < l.val) || (k == l.val && !strict))
      (xs.headD (Vector.replicate 32 0))]

/-- The lesser of two i32. -/
def lesserI (a b : Word) : Word := wordOf (min a.toInt b.toInt)
/-- The greater of two i32. -/
def greaterI (a b : Word) : Word := wordOf (max a.toInt b.toInt)
/-- The lesser of two n32. -/
def lesserN (a b : Word) : Word := wordOf (min a.toNat b.toNat : Nat)

/-- Reductions and scans over the active lanes (R187, R189, R191). -/
def ReduceResults : Prop :=
  ReduceGives Instr.redadd (fun active x => foldLanes 0 (fun a b => a + b) (maskList active) x) ∧
  ReduceGives Instr.redmin (fun active x => foldLanes 0x7FFFFFFF lesserI (maskList active) x) ∧
  ReduceGives Instr.redmax (fun active x => foldLanes 0x80000000 greaterI (maskList active) x) ∧
  ReduceGives Instr.redminn (fun active x => foldLanes 0xFFFFFFFF lesserN (maskList active) x) ∧
  ScanGives Instr.scanAdd false 0 (fun a b => a + b) ∧ ScanGives Instr.scanXadd true 0 (fun a b => a + b) ∧
  ScanGives Instr.scanMax false 0x80000000 greaterI ∧ ScanGives Instr.scanMin false 0x7FFFFFFF lesserI

/-- An extreme value and its lowest active lane, under an order. -/
def ExtremeGives (mk : XR2 → Instr) (le : Word → Word → Bool) : Prop :=
  ∀ (o : XR2) (s : State) (g : GroupId) (slices : BitVec 8) (grp : Group), Issues s g slices grp →
    let active := grp.acting slices o.g
    CrossReady grp slices [srcOp o.va] [dstOp o.vd 2] active →
      ∃ (best : Word) (lane : Nat),
        exec (mk o) s = .next (s.doneWith g slices (grp.writeAll slices active
          [(o.vd.val, Vector.replicate 32 best), (o.vd.val + 1, Vector.replicate 32 (BitVec.ofNat 32 lane))])) ∧
        (active ≠ 0 →
          let x := (s.inputs? grp slices [srcOp o.va]).headD (Vector.replicate 32 0)
          lane < 32 ∧ maskHas active lane = true ∧ laneAt x lane = best ∧
          ∀ l, l < 32 → maskHas active l = true → le best (laneAt x l) = true ∧ (laneAt x l = best → lane ≤ l))

/-- MINX and MAXX: every active lane of vd takes the extreme value over the active lanes, and of vd + 1 the lowest active lane that
holds it (R190). -/
def ExtremeResults : Prop :=
  ExtremeGives Instr.minxI32 (fun a b => decide (a.toInt ≤ b.toInt)) ∧ ExtremeGives Instr.minxN32 (fun a b => decide (a.toNat ≤ b.toNat)) ∧
  ExtremeGives Instr.maxxI32 (fun a b => decide (b.toInt ≤ a.toInt)) ∧ ExtremeGives Instr.maxxN32 (fun a b => decide (b.toNat ≤ a.toNat))

/-- A shuffle whose lane `l` reads lane `src l i`, with i the low five bits of its own lane of vb. -/
def ShuffleGives (mk : XR3 → Instr) (src : Nat → Nat → Nat) : Prop :=
  ∀ (o : XR3) (s : State) (g : GroupId) (slices : BitVec 8) (grp : Group), Issues s g slices grp →
    let active := grp.acting slices o.g
    let srcs := [srcOp o.va, srcOp o.vb]
    let xs := s.inputs? grp slices srcs
    let a := xs.getD 0 (Vector.replicate 32 0)
    let b := xs.getD 1 (Vector.replicate 32 0)
    let from_ := fun l => src l ((laneAt b l).toNat % 32)
    slices = 0xFF → grp.plainOperands (srcs ++ [dstOp o.vd]) →
    grp.promiseKept slices (([srcOp o.vb, dstOp o.vd]).flatMap (grp.placesOf slices)) [] →
    grp.promiseKept slices (grp.placesOf slices (srcOp o.va)) [] →
    grp.hasArrived slices (srcs.flatMap (grp.placesOf slices)) [] → grp.clean slices [srcOp o.vb] active →
    (∀ l : Fin 32, maskHas active l = true →
      grp.poisonLanes (vIndex (grp.lead slices).loops.length o.va) &&& BitVec.ofNat 32 (2 ^ from_ l.val) = 0) →
      exec (mk o) s = .next (s.doneWith g slices (grp.writeAll slices active
        [(o.vd.val, Vector.ofFn fun (l : Fin 32) => laneAt a (from_ l.val))]))

/-- SHFL: every active lane receives va of the lane that its vb names; va's poison counts only in the lanes it is read from (R187,
R188). -/
def ShuffleResults : Prop :=
  ShuffleGives Instr.shflIdx (fun _ i => i) ∧ ShuffleGives Instr.shflUp (fun l i => if l < i then l else l - i) ∧
  ShuffleGives Instr.shflDown (fun l i => if 32 ≤ l + i then l else l + i) ∧ ShuffleGives Instr.shflXor (fun l i => l ^^^ i)

/-- A logical operation on predicates, lane by lane. -/
def LogicGives (mk : XPred → Instr) (f : Bool → Bool → Bool) : Prop :=
  ∀ (o : XPred) (s : State) (g : GroupId) (slices : BitVec 8) (grp : Group), Issues s g slices grp →
    ∃ x : LaneMask, (∀ l, l < 32 → maskHas x l = f (maskHas (grp.pred o.pa) l) (maskHas (grp.pred o.pb) l)) ∧
      exec (mk o) s = .next (s.doneWith g slices (grp.setPred o.pd (grp.acting slices o.g) x))

/-- A vote of all eight slices into a predicate. -/
def VoteGives (mk : XVote → Instr) (f : LaneMask → LaneMask → Bool) : Prop :=
  ∀ (o : XVote) (s : State) (g : GroupId) (grp : Group), Issues s g 0xFF grp →
    let active := grp.acting 0xFF o.g
    exec (mk o) s = .next (s.doneWith g 0xFF (grp.setPred o.j active
      (if f active (grp.pred o.k) then BitVec.allOnes 32 else 0)))

/-- Votes, predicate logic and LIDX (R192 to R194). -/
def PredicateResults : Prop :=
  LogicGives Instr.pand (fun a b => a && b) ∧ LogicGives Instr.por (fun a b => a || b) ∧ LogicGives Instr.pxor (fun a b => a != b) ∧
  LogicGives Instr.pandn (fun a b => a && !b) ∧
  VoteGives Instr.voteAny (fun active p => decide (∃ l : Fin 32, maskHas active l = true ∧ maskHas p l = true)) ∧
  VoteGives Instr.voteAll (fun active p => decide (∀ l : Fin 32, maskHas active l = true → maskHas p l = true))

/-- Words between lanes, predicates and uniform registers (R187, R192, R193, R195): VOTE.ballot gives every active lane the active
lanes in which its predicate is true, VTRP the transposed bits of all 32 lanes, LIDX each lane its number; BCAST gives the
active lanes the low word of a uniform register, and VGET a uniform register one lane's word; with no active lane BCAST and VGET
write nothing and use no operand. -/
def LaneExchangeResults : Prop :=
  (∀ o : XBallot, ∀ (s : State) (g : GroupId) (slices : BitVec 8) (grp : Group), Issues s g slices grp →
    let active := grp.acting slices o.g
    CrossReady grp slices [] [dstOp o.vd] active →
      exec (.voteBallot o) s = .next (s.doneWith g slices (grp.writeAll slices active
        [(o.vd.val, Vector.replicate 32 (active &&& grp.pred o.k))]))) ∧
  (∀ o : XR2, CrossGives (.vtrp o) o.g [srcOp o.va] (dstOp o.vd) (fun a => if a = 0 then 0 else BitVec.allOnes 32) fun _ xs =>
    [Vector.ofFn fun (i : Fin 32) =>
      maskOfFn 32 fun j => (laneAt (xs.headD (Vector.replicate 32 0)) j).getLsbD i.val]) ∧
  (∀ (o : X1) (s : State) (g : GroupId) (slices : BitVec 8) (grp : Group), Issues s g slices grp →
    let active := grp.acting slices o.g
    grp.plainOperands [dstOp o.vd] → grp.promiseKept slices (grp.placesOf slices (dstOp o.vd)) [] →
      exec (.lidx o) s = .next (s.doneWith g slices (grp.writeAll slices active
        [(o.vd.val, Vector.ofFn fun (l : Fin 32) => BitVec.ofNat 32 l.val)]))) ∧
  (∀ (o : XBcast) (s : State) (g : GroupId) (slices : BitVec 8) (grp : Group), Issues s g slices grp →
    let active := grp.acting slices o.g
    CrossReady grp slices [] [dstOp o.vd] active → (active ≠ 0 → s.uniformReady [o.s] []) →
      exec (.bcast o) s = .next (s.doneWith g slices (grp.writeAll slices active
        [(o.vd.val, Vector.replicate 32 (if active = 0 then 0 else BitVec.ofNat 32 (s.readU o.s).toNat))]))) ∧
  (∀ (o : XGet) (s : State) (g : GroupId) (slices : BitVec 8) (grp : Group), Issues s g slices grp →
    let active := grp.acting slices o.g
    CrossReady grp slices [srcOp o.va] [] (if active = 0 then 0 else BitVec.ofNat 32 (2 ^ o.n.val)) →
    (active ≠ 0 → s.uniformReady [] [o.s]) →
      exec (.vget o) s = .next (s.doneWith g slices (if active = 0 then grp else
        grp.writeS o.s ((laneAt ((s.inputs? grp slices [srcOp o.va]).headD (Vector.replicate 32 0)) o.n.val).zeroExtend 64))))

/-! ### Wide numbers -/

/-- A value that does not carry its span: a number modulo 2^N, read as signed. -/
def signedMod (n : Nat) (x : Int) : Int := let m := 2 ^ (1024 * n); if 2 * (x % m) < m then x % m else x % m - m

/-- The N-bit pattern of a value. -/
def patternOf (n : Nat) (x : Int) : Nat := (x % 2 ^ (1024 * n)).toNat

/-- A wide word of two spans to one; `f` gives, from the span length, WCF and the two values, the result and the new WCF. -/
def Wide3Gives (mk : W3 → Instr) (f : Nat → Bool → Int → Int → Int × Option Bool) : Prop :=
  ∀ o : W3, let n := spanLen o.w
    WideGives (mk o) [⟨o.va, 1, n⟩, ⟨o.vb, 1, n⟩] [⟨o.vd, 1, n⟩] [] [] [] fun grp xs _ =>
      let r := f n grp.wcf (xs.getD 0 0) (xs.getD 1 0)
      { writes := [(o.vd.val, n, r.1)], wcf := r.2 }

/-- A wide word of one span to one. -/
def Wide2Gives (mk : W2 → Instr) (f : Nat → Int → Int) : Prop :=
  ∀ o : W2, let n := spanLen o.w
    WideGives (mk o) [⟨o.va, 1, n⟩] [⟨o.vd, 1, n⟩] [] [] [] fun _ xs _ => { writes := [(o.vd.val, n, f n (xs.getD 0 0))] }

/-- A wide word of a span and a uniform register to a span. -/
def WideScalarGives (mk : WS → Instr) (f : Nat → Int → Nat → Int) : Prop :=
  ∀ o : WS, let n := spanLen o.w
    WideGives (mk o) [⟨o.va, 1, n⟩] [⟨o.vd, 1, n⟩] [] [o.s] [] fun _ xs us =>
      { writes := [(o.vd.val, n, f n (xs.getD 0 0) (us.getD 0 0).toNat)] }

/-- Wide addition, subtraction and bitwise words: the exact result, written truncated with WOV where it does not fit, and WCF as
carry or borrow of the patterns for the first four (R205, R206). -/
def WideArithmeticResults : Prop :=
  Wide3Gives Instr.wadd (fun n _ a b => (a + b, some (decide (2 ^ (1024 * n) ≤ patternOf n a + patternOf n b)))) ∧
  Wide3Gives Instr.wadc (fun n c a b =>
    let t := patternOf n a + patternOf n b + c.toNat
    (signedMod n t, some (decide (2 ^ (1024 * n) ≤ t)))) ∧
  Wide3Gives Instr.wsub (fun n _ a b => (a - b, some (decide (patternOf n a < patternOf n b)))) ∧
  Wide3Gives Instr.wsbb (fun n c a b =>
    let t : Int := patternOf n a - patternOf n b - c.toNat
    (signedMod n t, some (decide (t < 0)))) ∧
  Wide3Gives Instr.wand (fun n _ a b => (signedMod n (patternOf n a &&& patternOf n b : Nat), none)) ∧
  Wide3Gives Instr.wor (fun n _ a b => (signedMod n (patternOf n a ||| patternOf n b : Nat), none)) ∧
  Wide3Gives Instr.wxor (fun n _ a b => (signedMod n (patternOf n a ^^^ patternOf n b : Nat), none)) ∧
  Wide3Gives Instr.wandn (fun n _ a b => (signedMod n (patternOf n a ^^^ (patternOf n a &&& patternOf n b) : Nat), none))

/-- Wide words of one span, and of a span with a uniform register (R207 to R210, R213). -/
def WideUnaryResults : Prop :=
  Wide2Gives Instr.wneg (fun _ a => -a) ∧ Wide2Gives Instr.wnot (fun _ a => -a - 1) ∧ Wide2Gives Instr.wabs (fun _ a => a.natAbs) ∧
  Wide2Gives Instr.wnorm (fun _ a => a) ∧
  Wide2Gives Instr.wclz (fun n a =>
    (((List.range (1024 * n)).find? fun i => (patternOf n a).testBit (1024 * n - 1 - i)).getD (1024 * n) : Nat)) ∧
  Wide2Gives Instr.wpopc (fun n a => ((List.range (1024 * n)).countP fun i => (patternOf n a).testBit i : Nat)) ∧
  WideScalarGives Instr.wshl (fun n a k => a * 2 ^ min k (1024 * n)) ∧
  WideScalarGives Instr.wshr (fun n a k => signedMod n (patternOf n a / 2 ^ min k (1024 * n) : Nat)) ∧
  WideScalarGives Instr.wsar (fun n a k => a / 2 ^ min k (1024 * n)) ∧
  WideScalarGives Instr.wmuls (fun _ a k => a * (k % 2 ^ 32 : Nat)) ∧
  (∀ o : WS, let n := spanLen o.w
    WideGives (.wmads o) [⟨o.va, 1, n⟩] [⟨o.vd, 1, n⟩] [⟨o.vd, 1, n⟩] [o.s] [] fun _ xs us =>
      { writes := [(o.vd.val, n, xs.getD 0 0 * ((us.getD 0 0).toNat % 2 ^ 32 : Nat) + xs.getD 1 0)] }) ∧
  (∀ o : WS, o.s.val % 2 = 0 → let n := spanLen o.w
    WideGives (.wdivs o) [⟨o.va, 1, n⟩] [⟨o.vd, 1, n⟩] [] [o.s] [pairOf o.s] fun _ xs us =>
      let d : Int := ((us.getD 0 0).toNat % 2 ^ 32 : Nat)
      let a := xs.getD 0 0
      if d = 0 then { writes := [(o.vd.val, n, -1)], flags := flagDZ, sreg := some (pairOf o.s, 0) }
      else { writes := [(o.vd.val, n, a.tdiv d)], sreg := some (pairOf o.s, BitVec.ofInt 64 (a - a.tdiv d * d)) }) ∧
  (∀ o : WExt, let n := spanLen o.w
    WideGives (.wextI o) [⟨o.va, 1, spanLen o.ws⟩] [⟨o.vd, 1, n⟩] [] [] [] fun _ xs _ =>
      { writes := [(o.vd.val, n, xs.getD 0 0)] }) ∧
  (∀ o : WExt, let n := spanLen o.w
    WideGives (.wextN o) [⟨o.va, 1, spanLen o.ws⟩] [⟨o.vd, 1, n⟩] [] [] [] fun _ xs _ =>
      { writes := [(o.vd.val, n, patternOf (spanLen o.ws) (xs.getD 0 0))] })

/-- Wide comparison into a condition, and limbs to and from uniform registers (R212, R214, R215). -/
def WideCompareResults : Prop :=
  (∀ o : WCmp, o.cc ≠ .un → let n := spanLen o.w
    WideGives (.wcmpI o) [⟨o.va, 1, n⟩, ⟨o.vb, 1, n⟩] [] [] [] [] fun _ xs _ =>
      { writes := [], cond := some (o.k, truthOf o.cc (xs.getD 0 0) (xs.getD 1 0)) }) ∧
  (∀ o : WCmp, o.cc ≠ .un → let n := spanLen o.w
    WideGives (.wcmpN o) [⟨o.va, 1, n⟩, ⟨o.vb, 1, n⟩] [] [] [] [] fun _ xs _ =>
      { writes := [], cond := some (o.k, truthOf o.cc (patternOf n (xs.getD 0 0)) (patternOf n (xs.getD 1 0))) }) ∧
  (∀ o : WGet, o.n.val < 32 * spanLen o.w → let n := spanLen o.w
    WideGives (.wgetl o) [⟨o.va, 1, n⟩] [] [] [] [o.s] fun _ xs _ =>
      { writes := [], sreg := some (o.s, BitVec.ofNat 64 (patternOf n (xs.getD 0 0) / 2 ^ (32 * o.n.val) % 2 ^ 32)) }) ∧
  (∀ o : WGet, o.n.val = 0xFF → let n := spanLen o.w
    WideGives (.wgetl o) [⟨o.va, 1, n⟩] [] [] [] [o.s] fun grp _ _ =>
      let tag := (grp.tags.getD (vIndex (grp.lead 0xFF).loops.length o.va) 0).toNat
      { writes := [], sreg := some (o.s, BitVec.ofNat 64 (if 1 ≤ tag ∧ tag ≤ 32 * n then tag else 0)) }) ∧
  (∀ (o : WSet) (s : State) (g : GroupId) (grp : Group), o.n.val < 32 * spanLen o.w → Issues s g 0xFF grp →
    grp.wideOk ⟨o.vd.val, spanLen o.w, true⟩ = true → (∀ i, i < spanLen o.w → grp.streamOf (o.vd.val + i) = none) →
    grp.promiseKept 0xFF (grp.placesOf 0xFF ⟨o.vd.val, spanLen o.w, true⟩) [] → s.uniformReady [o.s] [] →
      exec (.wsetl o) s = .next (s.doneWith g 0xFF { grp.writeAll 0xFF (BitVec.ofNat 32 (2 ^ (o.n.val % 32)))
        [(o.vd.val + o.n.val / 32, Vector.replicate 32 (BitVec.ofNat 32 (s.readU o.s).toNat))] with pix := 0 }))

/-- A wide result written to a span that names no stream reads back as the value truncated to the span (R58, R75 to R77, R197,
R199): the tag written is the extent of the value, and the limbs above it are its sign fill. -/
def Obligations.WideReadsBack : Prop :=
  ∀ (s : State) (grp : Group) (slices : BitVec 8) (w : Span) (r : Nat) (x : Int),
    grp.wideOk ⟨r, spanLen w, true⟩ = true → (∀ i, i < spanLen w → grp.streamOf (r + i) = none) → grp.inflight = [] →
    (grp.lead slices).loops.length ≤ 4 →
      s.spanValue (grp.putSpans slices [(r, spanLen w, x)]) slices r (spanLen w) = signedMod (spanLen w) x

/-- A sequenced wide word issues: from its start, when its operands let it act, it captures the values of its spans and its uniform
source, as `vals` and `s`, with the steps it is to take; one that was stopped part-way continues with what it captured, and checks
nothing again (R200, R201). -/
def SequencedGives (i : Instr) (srcs dsts : List WSrc) (uses : List (Fin 64)) (ok : State → Group → List DWord → Prop)
    (total : List Int → List DWord → Nat) : Prop :=
  ∀ (s : State) (g : GroupId) (slices : BitVec 8) (grp : Group), Issues s g slices grp →
    (WideReady grp slices (srcs.map (·.op false)) (dsts.map (·.op true)) [] → s.stoppedSeq g (grp.lead slices).pc = none →
      s.uniformReady uses [] → ok s grp (uses.map s.readU) →
      let vals := (srcs.flatMap WSrc.spans).map fun e => s.spanValue grp slices e.1 e.2
      let us := uses.map s.readU
      exec i s = .next (s.inSequencer g slices { grp with pix := 0 } fun q => q ++
        [{ g := g, pc := (grp.lead slices).pc, instr := i, vals := vals, s := us.headD 0, enables := grp.enables, reads := [], steps := 0, total := total vals us,
           stopped := false }])) ∧
    ∀ w, s.stoppedSeq g (grp.lead slices).pc = some w →
      exec i s = .next (s.inSequencer g slices grp fun q => q.filter (fun x => x != w) ++ [{ w with stopped := false }])

/-- Sequenced wide words at their issue (R200, R201, R211, R217 to R221). -/
def SequencedIssue : Prop :=
  (∀ o : W3, let n := spanLen o.w
    SequencedGives (.wdiv o) [⟨o.va, 1, n⟩, ⟨o.vb, 1, n⟩] [⟨o.vd, 2, n⟩] [] (fun _ _ _ => True) fun xs _ =>
      max 1 (extent (xs.getD 0 0) + 1 - extent (xs.getD 1 0))) ∧
  (∀ mk ∈ [Instr.qadd, Instr.qsub], ∀ o : W3, let n := spanLen o.w
    SequencedGives (mk o) [⟨o.va, 2, n⟩, ⟨o.vb, 2, n⟩] [⟨o.vd, 2, n⟩] [] (fun _ _ _ => True) fun xs _ =>
      if xs.getD 1 0 = xs.getD 3 0 then 1 else 96 * n) ∧
  (∀ mk ∈ [Instr.qmul, Instr.qdiv], ∀ o : W3, let n := spanLen o.w
    SequencedGives (mk o) [⟨o.va, 2, n⟩, ⟨o.vb, 2, n⟩] [⟨o.vd, 2, n⟩] [] (fun _ _ _ => True) fun _ _ => 64 * n) ∧
  (∀ o : W2, let n := spanLen o.w
    SequencedGives (.qnorm o) [⟨o.va, 2, n⟩] [⟨o.vd, 2, n⟩] [] (fun _ _ _ => True) fun _ _ => 134 * n) ∧
  (∀ o : W3, let n := spanLen o.w
    SequencedGives (.wgcd o) [⟨o.va, 1, n⟩, ⟨o.vb, 1, n⟩] [⟨o.vd, 1, n⟩] [] (fun _ _ _ => True) fun _ _ => 70 * n) ∧
  (∀ o : WCres, let n := spanLen o.w
    SequencedGives (.cres o) [] [⟨o.vd, 1, n⟩] [o.s]
      (fun s grp us => (s.teamOf grp).holds o.j = true ∧ (s.accOf (s.teamOf grp) o.j).mode ≠ .float ∧ cresOk (us.headD 0) = true)
      fun _ us => cresCount (us.headD 0))

/-- What a sequenced wide word delivers from its captured values: quotient and remainder, the rational sum, difference, product,
quotient, its lowest terms, and the greatest common divisor (R211, R219 to R221). -/
def SequencedValues : Prop :=
  (∀ (o : W3) (a b : Int), (sequencedOut (.wdiv o) [a, b]).writes =
    if b = 0 then [(o.vd.val, spanLen o.w, -1), (o.vd.val + spanLen o.w, spanLen o.w, a)]
    else [(o.vd.val, spanLen o.w, a.tdiv b), (o.vd.val + spanLen o.w, spanLen o.w, a - a.tdiv b * b)]) ∧
  (∀ (o : W3) (a b : Int), (sequencedOut (.wgcd o) [a, b]).writes = [(o.vd.val, spanLen o.w, (Int.gcd a b : Int))]) ∧
  (∀ (o : W2) (n d : Int), d ≠ 0 → ∃ n' d' : Int,
    sequencedOut (.qnorm o) [n, d] = { writes := [(o.vd.val, spanLen o.w, n'), (o.vd.val + spanLen o.w, spanLen o.w, d')] } ∧
      0 < d' ∧ n * d' = n' * d ∧ Int.gcd n' d' = 1) ∧
  (∀ (o : W3) (na da nb db : Int), da ≠ 0 → db ≠ 0 → ∃ n' d' : Int,
    sequencedOut (.qadd o) [na, da, nb, db] =
      { writes := [(o.vd.val, spanLen o.w, n'), (o.vd.val + spanLen o.w, spanLen o.w, d')] } ∧
      0 < d' ∧ n' * (da * db) = (na * db + nb * da) * d') ∧
  (∀ (o : W3) (na da nb db : Int), da ≠ 0 → db ≠ 0 → ∃ n' d' : Int,
    sequencedOut (.qsub o) [na, da, nb, db] =
      { writes := [(o.vd.val, spanLen o.w, n'), (o.vd.val + spanLen o.w, spanLen o.w, d')] } ∧
      0 < d' ∧ n' * (da * db) = (na * db - nb * da) * d') ∧
  (∀ (o : W3) (na da nb db : Int), da ≠ 0 → db ≠ 0 → ∃ n' d' : Int,
    sequencedOut (.qmul o) [na, da, nb, db] =
      { writes := [(o.vd.val, spanLen o.w, n'), (o.vd.val + spanLen o.w, spanLen o.w, d')] } ∧
      0 < d' ∧ n' * (da * db) = na * nb * d') ∧
  (∀ (o : W3) (na da nb db : Int), da ≠ 0 → db ≠ 0 → nb ≠ 0 → ∃ n' d' : Int,
    sequencedOut (.qdiv o) [na, da, nb, db] =
      { writes := [(o.vd.val, spanLen o.w, n'), (o.vd.val + spanLen o.w, spanLen o.w, d')] } ∧
      0 < d' ∧ n' * (da * nb) = na * db * d')

/-! ### Uniform words -/

/-- A number as a 64-bit word, wrapped. -/
def dwordOf (x : Int) : DWord := BitVec.ofInt 64 x

/-- A uniform word of two sources and a destination. -/
def Scalar3Gives (mk : UR3 → Instr) (f : DWord → DWord → DWord) : Prop :=
  ∀ o : UR3, ScalarGives (mk o) [o.sa, o.sb] o.sd fun x => f (uv x 0) (uv x 1)

/-- A uniform word of one source and a destination. -/
def Scalar2Gives (mk : UR2 → Instr) (f : DWord → DWord) : Prop := ∀ o : UR2, ScalarGives (mk o) [o.sa] o.sd fun x => f (uv x 0)

/-- Uniform arithmetic, exact and wrapped to 64 bits; division by zero gives all ones, and a remainder by zero the dividend (R278,
R280). -/
def Obligations.UniformArithmeticResults : Prop :=
  Scalar3Gives Instr.sadd (fun a b => dwordOf (a.toInt + b.toInt)) ∧
  Scalar3Gives Instr.ssub (fun a b => dwordOf (a.toInt - b.toInt)) ∧
  Scalar3Gives Instr.smul (fun a b => dwordOf (a.toInt * b.toInt)) ∧
  Scalar3Gives Instr.smulh (fun a b => dwordOf (a.toInt * b.toInt / 2 ^ 64)) ∧
  Scalar3Gives Instr.smulhn (fun a b => dwordOf (a.toNat * b.toNat / 2 ^ 64 : Nat)) ∧
  Scalar3Gives Instr.sdiv (fun a b => if b = 0 then dwordOf (-1) else dwordOf (a.toInt.tdiv b.toInt)) ∧
  Scalar3Gives Instr.sdivn (fun a b => if b = 0 then dwordOf (-1) else dwordOf (a.toNat / b.toNat : Nat)) ∧
  Scalar3Gives Instr.srem (fun a b => if b = 0 then a else dwordOf (a.toInt - a.toInt.tdiv b.toInt * b.toInt)) ∧
  Scalar3Gives Instr.smin (fun a b => dwordOf (min a.toInt b.toInt)) ∧
  Scalar3Gives Instr.smax (fun a b => dwordOf (max a.toInt b.toInt)) ∧
  Scalar3Gives Instr.sminn (fun a b => dwordOf (min a.toNat b.toNat : Nat)) ∧
  Scalar3Gives Instr.smaxn (fun a b => dwordOf (max a.toNat b.toNat : Nat)) ∧
  (∀ o : UImm, ScalarGives (.saddi o) [o.sa] o.sd fun x => dwordOf ((uv x 0).toInt + o.imm.toInt)) ∧
  (∀ o : ULui, ScalarGives (.slui o) [] o.sd fun _ => dwordOf (o.imm.toNat * 2 ^ 14 : Nat)) ∧
  (∀ o : ULit, ScalarGives (.slit o) [] o.sd fun _ => dwordOf (o.data.toNat : Nat)) ∧
  (∀ o : ULit, ScalarGives (.slith o) [o.sd] o.sd fun x =>
    dwordOf ((uv x 0).toNat % 2 ^ 32 + o.data.toNat * 2 ^ 32 : Nat))

/-- Uniform bit operations and bit fields (R278, R281). -/
def UniformBitResults : Prop :=
  let pos := fun (b : DWord) => b.toNat % 64
  let width := fun (b : DWord) => min (b.toNat / 2 ^ 8 % 128) (64 - b.toNat % 64)
  let field := fun (a b : DWord) => a.toNat / 2 ^ pos b % 2 ^ width b
  Scalar3Gives Instr.sand (fun a b => a &&& b) ∧ Scalar3Gives Instr.sor (fun a b => a ||| b) ∧
  Scalar3Gives Instr.sxor (fun a b => a ^^^ b) ∧ Scalar3Gives Instr.sandn (fun a b => a &&& ~~~b) ∧
  Scalar3Gives Instr.sshl (fun a b => if b.toNat < 64 then dwordOf (a.toNat * 2 ^ b.toNat : Nat) else 0) ∧
  Scalar3Gives Instr.sshr (fun a b => if b.toNat < 64 then dwordOf (a.toNat / 2 ^ b.toNat : Nat) else 0) ∧
  Scalar3Gives Instr.ssar (fun a b => if b.toNat < 64 then dwordOf (a.toInt / 2 ^ b.toNat) else dwordOf (a.toInt / 2 ^ 63)) ∧
  Scalar3Gives Instr.srot (fun a b =>
    dwordOf (a.toNat * 2 ^ (b.toNat % 64) + a.toNat / 2 ^ (64 - b.toNat % 64) : Nat)) ∧
  Scalar2Gives Instr.spopc (fun a => dwordOf ((List.range 64).countP fun i => a.getLsbD i : Nat)) ∧
  Scalar2Gives Instr.sclz (fun a => dwordOf (((List.range 64).find? fun i => a.getLsbD (63 - i)).getD 64 : Nat)) ∧
  Scalar2Gives Instr.sctz (fun a => dwordOf (((List.range 64).find? fun i => a.getLsbD i).getD 64 : Nat)) ∧
  Scalar3Gives Instr.sbfx (fun a b => dwordOf (field a b)) ∧
  Scalar3Gives Instr.sbfxs (fun a b =>
    dwordOf (if width b ≠ 0 ∧ 2 ^ (width b - 1) ≤ field a b then (field a b : Int) - 2 ^ width b else field a b)) ∧
  (∀ o : UR3, ScalarGives (.sbfi o) [o.sa, o.sb, o.sd] o.sd fun x =>
    let m : DWord := dwordOf ((2 ^ width (uv x 1) - 1) * 2 ^ pos (uv x 1))
    (uv x 2 &&& ~~~m) ||| (uv x 0 <<< pos (uv x 1) &&& m))

/-- Comparison into conditions, their logic, and selection: SSEL always executes and reads only the operand that its condition
selects; SBCV gives the active lanes of its predicate (R277, R279, R282, R283, R440). -/
def UniformConditionResults : Prop :=
  (∀ o : UCmp, o.cc ≠ .un → UniformGives (.scmpI o) [o.sa, o.sb] [] fun s x =>
    s.writeCond o.k (truthOf o.cc (uv x 0).toInt (uv x 1).toInt)) ∧
  (∀ o : UCmp, o.cc ≠ .un → UniformGives (.scmpN o) [o.sa, o.sb] [] fun s x =>
    s.writeCond o.k (truthOf o.cc (uv x 0).toNat (uv x 1).toNat)) ∧
  (∀ o : UCond, UniformGives (.cand o) [] [] fun s _ => s.writeCond o.cd (s.readCond o.ca && s.readCond o.cb)) ∧
  (∀ o : UCond, UniformGives (.cor o) [] [] fun s _ => s.writeCond o.cd (s.readCond o.ca || s.readCond o.cb)) ∧
  (∀ o : UCond, UniformGives (.cxor o) [] [] fun s _ => s.writeCond o.cd (xor (s.readCond o.ca) (s.readCond o.cb))) ∧
  (∀ o : UCond, UniformGives (.candn o) [] [] fun s _ => s.writeCond o.cd (s.readCond o.ca && !s.readCond o.cb)) ∧
  (∀ (o : USel) (s : State), let r := if s.readCond o.c then o.sa else o.sb
    s.uniformReady [r] [o.sd] → exec (.ssel o) s = .next (s.writeUniform o.sd (s.readU r)).advance) ∧
  (∀ (o : UPred) (s : State) (g : GroupId) (slices : BitVec 8) (grp : Group), Issues s g slices grp →
    (s.condHolds = true → s.uniformReady [] [o.sd] →
      exec (.sbcv o) s = .next (s.writeUniform o.sd
        (dwordOf ((activeLanes slices grp &&& grp.pred o.k).toNat : Nat))).advance) ∧
    (s.condHolds = false → exec (.sbcv o) s = .next s.advance))

/-- SRD of a group writes its destination with the register's value: R66's numbers, of which these are the group's own fields, the
package time, the figures of the team, of its grid and of its context, and the dwords of the stream descriptors (R64, R66). -/
def SpecialRegisterReads : Prop :=
  ∀ (o : USrd) (s : State) (g : GroupId) (slices : BitVec 8) (grp : Group), Issues s g slices grp → srdNumber o.n = true →
    s.uniformReady [] [o.sd] →
    let n := o.n.toNat
    exec (.srd o) s = .next (s.writeUniform o.sd (s.groupSpecial g grp slices n)).advance ∧
    (n = 0x001 → s.groupSpecial g grp slices n = dwordOf (grp.present.toNat * 2 ^ 8 + slices.toNat : Nat)) ∧
    (n = 0x002 → s.groupSpecial g grp slices n =
      dwordOf (g.val % 16 * 2 ^ 20 + g.val / 16 % 4 * 2 ^ 16 + grp.inRole.val * 2 ^ 8 + grp.inTeam.val : Nat)) ∧
    (n = 0x003 → s.groupSpecial g grp slices n =
      dwordOf ((g.val / 64 % 40) * 2 ^ 32 + (s.teamOf grp).index % 2 ^ 32 : Nat)) ∧
    (∀ l, n = 0x004 → s.launch? grp.launch = some l → s.groupSpecial g grp slices n =
      dwordOf (l.pkt.teamGroups * 2 ^ 32 + l.pkt.teams % 2 ^ 32 : Nat)) ∧
    (n = 0x010 → s.groupSpecial g grp slices n = dwordOf (grp.batches.sealed_.length * 2 ^ 32 + grp.batches.last.toNat : Nat)) ∧
    (n = 0x012 → s.groupSpecial g grp slices n = dwordOf (s.ctxOfGroup g grp).uft.toNat) ∧
    (n = 0x005 → s.groupSpecial g grp slices n =
      dwordOf (grp.allot / 8 % 8 * 2 ^ 3 + grp.cls.val * 2 + (if grp.producer then 1 else 0) : Nat)) ∧
    (n = 0x006 → s.groupSpecial g grp slices n = dwordOf grp.pix.toNat) ∧
    (n = 0x007 → s.groupSpecial g grp slices n = if grp.wcf then 1 else 0) ∧
    (n = 0x008 → s.groupSpecial g grp slices n = dwordOf grp.flags.toNat) ∧
    (n = 0x009 → s.groupSpecial g grp slices n = dwordOf grp.fctl.toNat) ∧
    (n = 0x00A → s.groupSpecial g grp slices n = dwordOf s.pack.time) ∧
    (n = 0x00B → s.groupSpecial g grp slices n = dwordOf grp.ntth.toNat) ∧
    (n = 0x00C → s.groupSpecial g grp slices n = dwordOf grp.modn.toNat) ∧
    (n = 0x00D → s.groupSpecial g grp slices n = grp.modb) ∧
    (n = 0x00E → s.groupSpecial g grp slices n = dwordOf (grp.lead slices).loops.length) ∧
    (n = 0x00F → s.groupSpecial g grp slices n = dwordOf grp.gang.toNat) ∧
    (n = 0x011 → s.groupSpecial g grp slices n = grp.qmap) ∧
    (n = 0x013 → s.groupSpecial g grp slices n = dwordOf grp.region.toNat) ∧
    ∀ (k : Fin 8) (j : Fin 8), n = 0x100 + 8 * k.val + j.val → s.groupSpecial g grp slices n =
      let d := grp.sd[k]
      if j = 0 then dwordOf ((if d.space then 2 ^ 48 else 0) + d.base.toNat : Nat)
      else if h : j.val ≤ 5 then dwordOf (d.extent[j.val - 1].toNat * 2 ^ 32 + d.stride[j.val - 1].toNat : Nat)
      else if j = 6 then
        dwordOf ((if d.dir then 2 ^ 33 else 0) + (if d.armed then 2 ^ 32 else 0) + d.done.toNat : Nat)
      else 0

/-- SWR of a group that may write the register writes its field and nothing else: PIX takes a zero where no joint operation of the group
has begun, and a word that the sequencer had stopped is then forgotten; FCTL's and QMAP's reserved bits stay zero, NTTH is clamped, and a dword of an unarmed stream's descriptor takes its fields; on a Pilot, SRD reads the registers
that R66 gives it (R64 to R66, R343). -/
def SpecialRegisterWrites : Prop :=
  (∀ (o : USwr) (s : State) (g : GroupId) (slices : BitVec 8) (grp : Group), Issues s g slices grp → swrNumber o.n = true →
    s.uniformReady [o.sa] [] →
    let n := o.n.toNat
    let x := s.readU o.sa
    let writes := fun (grp' : Group) => exec (.swr o) s = .next (s.setGroup g grp').advance
    (n = 0x006 → grp.priv = .system → x.toNat % 2 ^ 32 = 0 → s.jointBegun g = false →
      exec (.swr o) s = .next ((s.setGroup g { grp with pix := 0 }).dropSeqs g).advance) ∧
    (n = 0x007 → writes { grp with wcf := x.getLsbD 0 }) ∧
    (n = 0x008 → writes { grp with flags := BitVec.ofNat 7 x.toNat }) ∧
    (n = 0x009 → writes { grp with fctl := BitVec.ofNat 14 x.toNat &&& 0x3F9F }) ∧
    (n = 0x00B → writes { grp with ntth := BitVec.ofNat 25 (max 64 (min (2 ^ 24) x.toNat)) }) ∧
    (n = 0x00C → writes { grp with modn := BitVec.ofNat 32 x.toNat }) ∧
    (n = 0x00D → writes { grp with modb := x }) ∧
    (n = 0x011 → writes { grp with qmap := x &&& 0xDFDFDFDFDFDFDFDF }) ∧
    ∀ (k : Fin 8) (j : Fin 6), n = 0x100 + 8 * k.val + j.val → grp.sd[k].armed = false →
      let d := grp.sd[k]
      writes { grp with sd := grp.sd.set k (
        if h : j.val = 0 then { d with space := x.getLsbD 48, base := BitVec.ofNat 48 x.toNat }
        else { d with extent := d.extent.set (j.val - 1) (BitVec.ofNat 32 (x.toNat / 2 ^ 32))
                      stride := d.stride.set (j.val - 1) (BitVec.ofNat 32 x.toNat) }) }) ∧
  (∀ (o : USwr) (s : State) (g : GroupId) (slices : BitVec 8) (grp : Group), Issues s g slices grp → o.n.toNat = 0x012 →
    grp.priv = .system → s.uniformReady [o.sa] [] →
      let ctx := s.ctxOfGroup g grp
      exec (.swr o) s = .next (s.setCtx (deviceOfGroup g) (s.asnOf grp.launch)
        { ctx with uft := BitVec.ofNat 8 (s.readU o.sa).toNat }).advance) ∧
  (∀ (o : USrd) (s : State) (cl : ClusterId) (p : Pilot), PilotIssues s cl p → srdNumber o.n = true →
    p.awaits [o.sd] = false →
    let n := o.n.toNat
    let reads := fun (x : DWord) => exec (.srd o) s = .next (s.writeUniform o.sd x).advance
    (n = 0x004 → reads (s.gridDim p.launch)) ∧ (n = 0x006 → reads (dwordOf p.pix.toNat)) ∧
    (n = 0x00A → reads (dwordOf s.pack.time)) ∧ (n = 0x00E → reads (dwordOf p.loops.length)) ∧
    (n = 0x013 → reads (dwordOf p.region.toNat)))

/-! ### Memory words -/

/-- The number that a finite floating value is; 0 of the others. -/
def ratOf : FVal → ℚ
  | .fin neg mag exp => (if neg then -1 else 1) * (mag : ℚ) * (2 : ℚ) ^ exp
  | _ => 0

/-- Rounding to nearest at a place `q` is within half of a step, and a tie goes to an even multiple (R83). -/
def NearestEven : Prop :=
  ∀ (neg : Bool) (mag : Nat) (exp q : Int), exp < q →
    let step : Int := 2 ^ (q - exp).toNat
    let m : Int := (roundAt .rne neg mag exp false q).1
    2 * (m * step - mag).natAbs ≤ step.natAbs ∧ (2 * (m * step - mag).natAbs = step.natAbs → m % 2 = 0)

/-- What an FADD atomic makes of the old value: a binary32 sum, or a binary64 one of 64 bits, rounded once to nearest, with the default
NaN and the infinities of R83 (R179, R232). -/
def FaddValues : Prop :=
  ∀ (w64 : Bool) (old x new : Nat),
    let f := if w64 then Fmt.f64 else Fmt.f32
    let top := if w64 then 0x7FF0000000000000 else 0x7F800000
    let nan := if w64 then 0x7FF8000000000000 else 0x7FC00000
    let sign := fun (neg : Bool) => if neg then (if w64 then 2 ^ 63 else 2 ^ 31) else 0
    let r := atomValue .fadd w64 old x new
    ((∃ q, f.value old = .nan q ∨ f.value x = .nan q) → r = nan) ∧
    (∀ a b, f.value old = .inf a → f.value x = .inf b → r = if a = b then sign a + top else nan) ∧
    (∀ a n m e, (f.value old = .inf a ∧ f.value x = .fin n m e) ∨ (f.value old = .fin n m e ∧ f.value x = .inf a) → r = sign a + top) ∧
    (∀ na ma ea nb mb eb, f.value old = .fin na ma ea → f.value x = .fin nb mb eb →
      let total := ratOf (f.value old) + ratOf (f.value x)
      (total ≠ 0 → ∃ d : Dy, (d.m : ℚ) * (2 : ℚ) ^ d.e = total ∧ r = (f.roundDy .rne false d false).1) ∧
      (total = 0 → r = sign (na && nb && ma == 0)))

/-- What an atomic makes of the old value: sums wrap, minima and maxima compare as their letter says, CAS writes its replacement
where the comparand agrees, and FADD adds and rounds to nearest even (R83, R232). -/
def AtomicValues : Prop :=
  FaddValues ∧ NearestEven ∧
  ∀ (w64 : Bool) (old x new : Nat), let n := if w64 then 64 else 32
    old < 2 ^ n → x < 2 ^ n → new < 2 ^ n →
    atomValue .add w64 old x new = (old + x) % 2 ^ n ∧
    (atomValue .sub w64 old x new + x) % 2 ^ n = old ∧ atomValue .sub w64 old x new < 2 ^ n ∧
    signed n (atomValue .minI w64 old x new) = min (signed n old) (signed n x) ∧
    signed n (atomValue .maxI w64 old x new) = max (signed n old) (signed n x) ∧
    atomValue .minN w64 old x new = min old x ∧ atomValue .maxN w64 old x new = max old x ∧
    atomValue .land w64 old x new = old &&& x ∧ atomValue .lor w64 old x new = old ||| x ∧
    atomValue .lxor w64 old x new = old ^^^ x ∧ atomValue .swap w64 old x new = x ∧
    atomValue .cas w64 old x new = if old = x then new else old

/-- Lane loads: LDS with its order bit set is an acquire, LD with it clear may fill the L1, and LDI reads what the bytes have held since
the grid started (R101, R103, R105, R126, R127, R223 to R229). -/
def LaneLoadResults : Prop :=
  (∀ o : MLd, LoadGives (.ld o) o.u o.g o.vd o.va o.z o.la.val false false 2 (fun xs l => pairAddr xs 0 l)
    (fun _ grp a => plainAddr grp.priv a (sizeBytes o.z)) (virtualAt .load (some !o.o) (sizeBytes o.z)) fun _ => State.readPlaces) ∧
  (∀ o : MLd, LoadGives (.ldi o) o.u o.g o.vd o.va o.z o.la.val false false 2 (fun xs l => pairAddr xs 0 l)
    (fun _ grp a => plainAddr grp.priv a (sizeBytes o.z)) (virtualAt .load (some !o.o) (sizeBytes o.z))
    fun grp s => s.readSince ((s.launch? grp.launch).elim s.fresh Launch.began) 1) ∧
  (∀ o : MLd, LoadGives (.lds o) o.u o.g o.vd o.va o.z o.la.val true o.o 2 (fun xs l => pairAddr xs 0 l)
    (fun _ grp a => plainAddr grp.priv a (sizeBytes o.z) ∧ a % sizeBytes o.z = 0) (virtualAt .load none (sizeBytes o.z))
    fun _ => State.readPlaces) ∧
  (∀ o : MLdl, LoadGives (.ldl o) o.u o.g o.vd o.va o.z o.la.val false false 1
    (fun xs l => (laneAt (xs.headD (Vector.replicate 32 0)) l).toNat)
    (fun s grp a => a < 2 ^ 20 ∧ a % 2 ^ 18 + sizeBytes o.z ≤ (s.teamOf grp).lsSize) (localAt (sizeBytes o.z))
    fun _ => State.readPlaces)

/-- Lane stores (R101, R103, R121, R223 to R229). -/
def LaneStoreResults : Prop :=
  (∀ o : MSt, StoreGives (.st o) o.g o.vd o.va o.z false 2 (fun xs l => pairAddr xs 0 l)
    (fun _ grp a => plainAddr grp.priv a (sizeBytes o.z)) (virtualAt .store (some !o.o) (sizeBytes o.z))) ∧
  (∀ o : MSt, StoreGives (.sts o) o.g o.vd o.va o.z true 2 (fun xs l => pairAddr xs 0 l)
    (fun _ grp a => plainAddr grp.priv a (sizeBytes o.z) ∧ a % sizeBytes o.z = 0) (virtualAt .store none (sizeBytes o.z))) ∧
  (∀ o : MStl, StoreGives (.stl o) o.g o.vd o.va o.z false 1
    (fun xs l => (laneAt (xs.headD (Vector.replicate 32 0)) l).toNat)
    (fun s grp a => a < 2 ^ 20 ∧ a % 2 ^ 18 + sizeBytes o.z ≤ (s.teamOf grp).lsSize) (localAt (sizeBytes o.z)))

/-- Bytes written to plain locations one after another. -/
def writtenAt : List (Nat × Byte) → Nat → Byte → Byte
  | [], _, b => b
  | (l, x) :: rest, loc, b => writtenAt rest loc (if l = loc then x else b)

/-- What a lane word's stores leave in memory where every byte stands uncached or in a local store, while no byte of main memory is
poisoned, retired or in error: at each location the byte of the last lane that stored there, and every other byte as before (R121,
R222). -/
def Obligations.StoresInMemory : Prop :=
  ∀ (k : AccKind) (l1 : Option Bool) (n : Nat) (g : GroupId) (grp : Group) (bytes : Nat → List Byte) (s s' : State) (as : List LaneAddr)
    (cells : List (Nat × List Place)),
    Memory.wf s.mem = true → s.poison = [] → s.pack.retired = [] → s.pack.latent = [] →
    storeAll (virtualAt k l1 n g grp) (fun t ps bs => t.groupStore (t.groupReq g grp .store) grp.launch ps bs) bytes s as =
      some (s', cells) →
    (∀ c ∈ cells, ∀ p ∈ c.2, ∃ loc, p = .byte loc) →
    ∀ loc : Nat, Memory.read s'.mem loc =
      writtenAt (cells.flatMap fun c => (c.2.zip (bytes c.1)).filterMap fun e =>
        match e.1 with
        | .byte l => some (l, e.2)
        | _ => none) loc (Memory.read s.mem loc)

/-- Translating an access changes nothing but what translation and the caches keep: leases, pins, cache lines and the directory's
lines, and the records of the memory errors that it meets; memory, groups, clusters, contexts, launches and teams stay (R105, R364,
R370, R373, R377). -/
def Obligations.TranslationFrame : Prop :=
  ∀ (s t : State) (r : Req) (va n : Nat) (ps : List Place), s.places r va n = .ok (t, ps) →
    ps.length = n ∧ t.mem = s.mem ∧ t.groups = s.groups ∧ t.clusters = s.clusters ∧ t.ctxs = s.ctxs ∧ t.launches = s.launches ∧
      t.teams = s.teams ∧ t.cur = s.cur ∧ t.fetched = s.fetched ∧ (s.pack.latent = [] → t.devices = s.devices ∧ t.poison = s.poison)

/-- Lane atomics: every lane is translated before any performs; then each reads its old value and writes the new one, one lane after
another, in an order that is open where two reach the same bytes; a returning form's destination takes the old values (R225, R231 to
R233). -/
def AtomicGives (mk : MAtom → Instr) (w64 : Bool) : Prop :=
  ∀ (o : MAtom) (s s1 s' : State) (g : GroupId) (slices : BitVec 8) (grp : Group) (places : List (Nat × List Place))
    (got : List (Nat × Nat)), Issues s g slices grp →
    let n := if w64 then 8 else 4
    let regs := if w64 then 2 else 1
    let active := grp.acting slices o.g
    let data := srcOp o.vd (if o.op = .cas then 2 * regs else regs)
    let xs := s.inputs? grp slices [srcOp o.va 2]
    let ds := s.inputs? grp slices [data]
    let word := fun l i => (laneAt (ds.getD i (Vector.replicate 32 0)) l).toNat
    let num := fun l i => if w64 then word l i + 2 ^ 32 * word l (i + 1) else word l i
    let as := (maskList active).map fun l => (l, pairAddr xs 0 l)
    let req := s.groupReq g grp .atomic
    LaneReady s grp slices false [srcOp o.va 2, data] (if o.nr then [] else [dstOp o.vd regs]) active → grp.starts slices →
    (∀ e ∈ as, plainAddr grp.priv e.2 n ∧ e.2 % n = 0) →
    locateAll (virtualAt .atomic none n g grp) s as = some (s1, places) →
    (∀ e ∈ as, s.unsupported req e.2 o.op ((getBy e.1 places).getD []) = false) →
    atomAll req grp.launch o.op n places (fun l => (num l 0, num l regs)) s1 (atomicOrder s.fresh places as) = some (s', got) →
      exec (mk o) s = .next (s'.doneWith g slices (
        let x := grp.strongly slices true as
        if o.nr then x else x.takes slices active o.la.val
          (loadedRegs false active o.vd regs (got.map fun e => (e.1, [BitVec.ofNat 32 e.2, BitVec.ofNat 32 (e.2 / 2 ^ 32)])))))

/-- ATOM and ATOM.64. -/
def LaneAtomicResults : Prop := AtomicGives Instr.atom false ∧ AtomicGives Instr.atom64 true

/-- Uniform loads, stores and atomics of groups and Pilots; SLDA is an acquire, and an atomic reads where its location has its home; a
Pilot's access runs past a refused one that does not go before it; an FADD atomic adds as FaddValues says (R105, R136, R222, R230 to R232, R275, R340). -/
def Obligations.UniformMemoryResults : Prop :=
  FaddValues ∧
  (∀ (o : ULd) (s t : State) (ps : List Place), s.uniformReady [o.sa] [o.sd] → s.startsWord →
    let a := ((s.readU o.sa).toNat + 8 * o.off.val) % 2 ^ 64
    (t.readPlaces ps).2 = none →
      (s.accessFree a 8 false → s.uniformSound a 8 false → s.uniformPlaces .load true a 8 = .ok (t, ps) → exec (.sld o) s =
        .next (t.takesUniform o.sd o.la.val (BitVec.ofNat 64 (ofBytes (ps.map t.readPlace)))).advance) ∧
      (s.accessFree a 8 true → s.uniformSound a 8 true → s.uniformPlaces .load false a 8 = .ok (t, ps) → exec (.slda o) s =
        .next (t.pinIssuer.acquireIssuer.takesUniform o.sd o.la.val (BitVec.ofNat 64 (ofBytes (ps.map t.readPlace)))).advance)) ∧
  (∀ (o : USt) (s t : State) (ps : List Place), s.uniformReady [o.sa, o.sd] [] →
    let a := ((s.readU o.sa).toNat + 8 * o.off.val) % 2 ^ 64
    let bs := toBytes 8 (s.readU o.sd).toNat
    (s.accessFree a 8 false → s.uniformSound a 8 false → s.uniformPlaces .store true a 8 = .ok (t, ps) → exec (.sst o) s =
        .next (t.groupStore (t.accessor.req .store) t.accessor.launch ps bs).advance) ∧
    (s.accessFree a 8 true → s.uniformSound a 8 true → s.uniformPlaces .store false a 8 = .ok (t, ps) → exec (.sstr o) s =
        .next (t.pinIssuer.groupStore (t.accessor.req .store) t.accessor.launch ps bs).advance)) ∧
  (∀ (o : UAtom) (s t : State) (ps : List Place), (o.op = .cas → o.sd.val % 2 = 0) →
    s.uniformReady (o.sa :: o.sd :: (if o.op = .cas then [pairOf o.sd] else [])) (if o.nr then [] else [o.sd]) → s.startsWord →
    let n := if o.w64 then 8 else 4
    let a := (s.readU o.sa).toNat
    let cut := fun (x : DWord) => x.toNat % 2 ^ (8 * n)
    s.accessFree a n true → s.uniformSound a n true → s.uniformPlaces .atomic false a n = .ok (t, ps) → (t.readAtomic ps).2 = none →
    (s.inPilotMemory a = none → t.unsupported (t.accessor.req .atomic) a o.op ps = false) →
      let old := ofBytes (ps.map t.atomicByte)
      let new := atomValue o.op o.w64 old (cut (s.readU o.sd)) (if o.op = .cas then cut (s.readU (pairOf o.sd)) else 0)
      let t' := t.pinIssuer.groupStore (t.accessor.req .atomic) t.accessor.launch ps (toBytes n new)
      exec (.satom o) s = .next (if o.nr then t' else t'.takesUniform o.sd o.la.val (BitVec.ofNat 64 old)).advance)

/-! ### Copies, batches, tickets, queues and streams -/

/-- ACP adds one copy for each active lane to the group's open batch, in lane order; ASEAL seals it under the next number, which goes
to sd; AWAIT passes once at most `n` sealed batches are unfinished, and the group has then observed all batches but the last `n`; AWAIT.t
delivers the ticket's status, frees its entry and has observed its operation, or delivers NOTICKET (R114, R139, R223 to R225, R238 to
R241). -/
def CopyResults : Prop :=
  (∀ (o : MAcp) (s : State) (g : GroupId) (slices : BitVec 8) (grp : Group), Issues s g slices grp →
    let n := sizeBytes o.z
    let active := grp.acting slices o.g
    let dst := fun l => pairAddr (s.inputs? grp slices [srcOp o.vd 2]) 0 l
    let src := fun l => pairAddr (s.inputs? grp slices [srcOp o.va 2]) 0 l
    let sound := fun (ls : Bool) (a : Nat) => a % n = 0 ∧
      (if ls then a < 2 ^ 20 ∧ a % 2 ^ 18 + n ≤ (s.teamOf grp).lsSize else plainAddr grp.priv a n)
    let place := fun (ls : Bool) (a : Nat) => if ls then CopyEnd.localStore (BitVec.ofNat 20 a) else CopyEnd.global (BitVec.ofNat 64 a)
    LaneReady s grp slices false [srcOp o.vd 2, srcOp o.va 2] [] active →
    (∀ l ∈ maskList active, sound o.lsd (dst l) ∧ sound o.lss (src l)) →
      exec (.acp o) s = .next (({ s with nextId := s.nextId + 1 } : State).doneWith g slices { grp with
        batches := { grp.batches with unsealed := grp.batches.unsealed ++ (maskList active).map fun l =>
          { dst := place o.lsd (dst l), src := place o.lss (src l), size := n, priv := grp.priv, parked := none, abandoned := false,
            lane := Fin.ofNat 32 l, issue := s.nextId, lanes := active, word := s.fetched.word, pc := (grp.lead slices).pc
            sidecar := s.fetched.sidecar, uft := (s.ctx (deviceOfGroup g) (s.asnOf grp.launch)).uft, since := s.fresh } } })) ∧
  (∀ (o : UDc) (s : State) (g : GroupId) (slices : BitVec 8) (grp : Group), Issues s g slices grp →
    let n := grp.batches.last + 1
    (s.condHolds = true → s.uniformReady [] [o.sd] → grp.batches.sealed_.length < 15 →
      exec (.aseal o) s = .next (((s.setGroup g { grp.pin slices with
        batches := { unsealed := [], sealed_ := grp.batches.sealed_ ++ [(n, grp.batches.unsealed)], last := n
                     refused := grp.batches.refused.map fun e => (some (e.1.getD n), e.2) } }).remark g openMark (batchMark n)).writeUniform
          o.sd (dwordOf n.toNat)).advance) ∧
    (s.condHolds = false → exec (.aseal o) s = .next s.advance)) ∧
  (∀ (o : UWait) (s : State) (g : GroupId) (slices : BitVec 8) (grp : Group), Issues s g slices grp →
    grp.batches.sealed_.length ≤ o.n.val → (∀ e ∈ grp.batches.refused, grp.batches.awaited o.n.val e.1 = false) →
      exec (.await o) s = .next
        (s.observe g fun k => (markedBatch k).isSome && grp.batches.awaited o.n.val (markedBatch k)).advance) ∧
  (∀ (o : UR2) (s : State) (g : GroupId) (slices : BitVec 8) (grp : Group), Issues s g slices grp → s.uniformReady [o.sa] [o.sd] →
    let t := (s.readU o.sa).toNat
    let named := fun (e : Ticket) => e.entry.val = t / 2 ^ 32 % 16 ∧ e.seq.toNat = t % 2 ^ 32
    ((∀ e ∈ grp.tickets, ¬ named e) →
      exec (.awaitT o) s = .next (s.writeUniform o.sd (dwordOf (2 ^ 62 + 3 * 2 ^ 56))).advance) ∧
    (∀ e x, (grp.tickets.find? fun e => decide (named e)) = some e → e.status = some x →
      exec (.awaitT o) s = .next (((s.setGroup g { grp with
        tickets := grp.tickets.filter fun k => k.entry ≠ e.entry }).observe g fun k => k == ticketMark e.seq).writeUniform o.sd x).advance))

/-- BATCH_COMPLETE: when every copy of a group's oldest sealed batch is performed, the batch is finished; the copies
of unfinished batches may be performed before their batch completes, any of them together (R115); the copies that a retired group left
are performed as an operation, which then ends (R114, R115, R238, R292). Copies are told apart by their ACP and their lane. -/
def BatchCompletions : Prop :=
  (∀ (s t : State) (grp : Group), s.group? s.arg.g = some grp → s.arg.num = 0 →
    let g := s.arg.g
    let o := mkOp s (.acp []) g grp 0 [] none
    let all := grp.batches.unsealed ++ grp.batches.sealed_.flatMap Prod.snd
    (∀ n cs rest, s.arg.flag = false → grp.batches.sealed_ = (n, cs) :: rest →
      (∀ c ∈ grp.batches.unsealed ++ rest.flatMap Prod.snd, cs.any c.same = false) →
      performCopies s o grp.batches.markOf cs = (t, [], []) →
        exec .batchComplete s = .next (t.setGroup g { grp with batches := { grp.batches with sealed_ := rest } })) ∧
    (s.arg.flag = true →
      let now := fun (c : Copy) => c.parked.isNone && Config.freeBit s.fresh (2 ^ 64 + 32 * c.issue + c.lane.val)
      performCopies s o grp.batches.markOf (all.filter now) = (t, [], []) →
        exec .batchComplete s = .next (t.setGroup g { grp with batches := { grp.batches with
          unsealed := grp.batches.unsealed.filter fun c => !now c
          sealed_ := grp.batches.sealed_.map fun e => (e.1, e.2.filter fun c => !now c) } }))) ∧
  (∀ (s t : State) (o : EngineOp) (cs : List Copy), s.arg.num ≠ 0 → s.ops.find? (fun o => o.id == s.arg.num) = some o →
    o.kind = .acp cs → performCopies s o (fun _ => o.mark) cs = (t, [], []) →
      exec .batchComplete s = .next
        (({ t with ops := t.ops.map fun x => if x.id == o.id then { x with kind := .acp [] } else x } : State).finishOp o 0))

/-- The queue entry made by a push, and the queue without its popped entry; the gang's requests leave the queue, and a pop is an acquire
(R40, R42, R143). -/
def QueueWordsGive (s : State) (g : GroupId) (slices : BitVec 8) (grp : Group) (ph : Fin 32) : Prop :=
  let cl := clusterOf g
  let q := (s.cluster cl).queues[ph]
  let changed := fun (f : HQueue → HQueue) => (s.setCluster cl ((s.cluster cl).mapQueue ph f)).setGroup g (grp.pin slices)
  let conditioned := fun (nb : Bool) (c : Fin 8) (b : Bool) (t : State) => if nb then t.writeCond c b else t
  (∀ o : UQput, s.queueOf grp o.q.val = some ph → s.uniformReady [o.sa] [] →
    (q.first g slices true = true → q.entries.length < 16 →
      exec (.qput o) s = .next (conditioned o.nb o.c true (changed fun q =>
        { (q.leave g slices) with entries := q.entries ++ [(q.nextId, some (s.readU o.sa))], nextId := q.nextId + 1 })).advance) ∧
    (o.nb = true → (q.first g slices true = false ∨ 16 ≤ q.entries.length) →
      exec (.qput o) s = .next (s.writeCond o.c false).advance)) ∧
  (∀ o : UQget, s.queueOf grp o.q.val = some ph → s.uniformReady [] [o.sd] → q.entries.length ≤ 17 →
    (∀ x, q.first g slices false = true → q.ready.head? = some x →
      exec (.qget o) s = .next (conditioned o.nb o.c true (((changed fun q =>
        { (q.leave g slices) with entries := q.entries.drop 1 }).acquire g).writeUniform o.sd x)).advance) ∧
    (o.nb = true → (q.first g slices false = false ∨ q.ready = []) →
      exec (.qget o) s = .next (s.writeCond o.c false).advance))

/-- QPUT and QGET on a queue of the team: the value joins the tail or leaves the head; with .nb a queue that cannot serve leaves
everything as it was but the condition (R40, R42, R235). -/
def QueueWordResults : Prop :=
  ∀ (s : State) (g : GroupId) (slices : BitVec 8) (grp : Group) (ph : Fin 32), Issues s g slices grp → grp.starts slices →
    QueueWordsGive s g slices grp ph

/-- SARM.arm arms a stream whose base is aligned and whose walk lies in memory that it may reach, at element 0: in local store every
element is tested, in memory the lowest and the highest byte; SARM.disarm disarms it, and DONE stays (R113, R236). -/
def StreamArmResults : Prop :=
  (∀ (o : UArm) (s : State) (g : GroupId) (slices : BitVec 8) (grp : Group), Issues s g slices grp →
    let d := grp.sd[o.k]
    let sound := fun (x : Int) => 0 ≤ x ∧ plainAddr grp.priv x.toNat 1
    d.armed = false → d.base.toNat % 4 = 0 →
    (if d.space then ∀ e, e < d.count → d.addr e < 2 ^ 20 ∧ d.addr e % 2 ^ 18 + 4 ≤ (s.teamOf grp).lsSize
     else d.count = 0 ∨ (sound d.range.1 ∧ sound d.range.2)) →
      exec (.sarmArm o) s = .next (s.setGroup g { grp with
        sd := grp.sd.set o.k { d with armed := true, dir := o.wr, done := 0, since := s.fresh } }).advance) ∧
  (∀ (o : UStrm) (s : State) (g : GroupId) (slices : BitVec 8) (grp : Group), Issues s g slices grp →
    exec (.sarmDisarm o) s = .next (s.setGroup g { grp with
      sd := grp.sd.set o.k { grp.sd[o.k] with armed := false } }).advance)

/-! ### Control -/

/-- A jump to a register: taken when its condition holds, its address is aligned and within 48 bits, and the transfer is allowed; JMPR
pops the loop levels whose bodies it leaves, CALLR and RET pop none, and CALLR links (R36, R285). -/
def RegisterJumpGives (mk : UA → Instr) (pops link uses63 : Bool) : Prop :=
  ∀ (o : UA) (s : State), s.uniformReady [o.sa] [] → (uses63 = true → s.plainLink) →
    let t := s.readU o.sa
    let target : Addr := BitVec.ofNat 48 t.toNat
    let there := (s.goto target (if pops then popLeft target s.loops else s.loops)).endRun
    (s.condHolds = true → t.toNat % 4 = 0 → t.toNat < 2 ^ 48 → s.mayGoTo target →
      exec (mk o) s = .next (if link then there.writeUniform 63 ((nextWord s.pc).zeroExtend 64) else there)) ∧
    (s.condHolds = false → exec (mk o) s = .next s.advance)

/-- Branches and calls: ck XOR negate decides; a taken BRA pops the loop levels whose bodies it leaves, CALL and CALLR put the
address of the next word in s63 (R36, R284, R285). -/
def BranchResults : Prop :=
  (∀ (o : UJ) (s : State), s.issuing →
    let target : Addr := BitVec.ofInt 48 (s.pc.toNat + 4 * o.off.toInt)
    (s.readCond o.k ≠ o.x → s.mayGoTo target → exec (.bra o) s = .next (s.goto target (popLeft target s.loops)).endRun) ∧
    (s.readCond o.k = o.x → exec (.bra o) s = .next s.advance)) ∧
  (∀ (o : UJ) (s : State), s.issuing →
    let target : Addr := BitVec.ofInt 48 (s.pc.toNat + 4 * o.off.toInt)
    (s.readCond o.k ≠ o.x → s.mayGoTo target → s.plainLink →
      exec (.call o) s = .next ((s.goto target s.loops).endRun.writeUniform 63 ((nextWord s.pc).zeroExtend 64))) ∧
    (s.readCond o.k = o.x → exec (.call o) s = .next s.advance)) ∧
  RegisterJumpGives Instr.jmpr true false false ∧ RegisterJumpGives Instr.ret false false true ∧
  RegisterJumpGives Instr.callr false true true

/-- LOOP pushes a level, or with a count of 0 passes its body; NOP only moves on (R34, R286, R307). -/
def LoopResults : Prop :=
  (∀ (o : ULoop) (s : State), s.uniformReady [o.sa] [] →
    let count : Word := BitVec.ofNat 32 (s.readU o.sa).toNat
    let start := s.pc + 4
    let last := start + BitVec.ofNat 48 (4 * o.imm.toNat)
    (count ≠ 0 → s.loops.length < 4 → exec (.loop o) s = .next (s.goto start (⟨start, last, count⟩ :: s.loops))) ∧
    (count = 0 → (∀ cl p, PilotIssues s cl p → (last + 4).toNat < 2 ^ 16) →
      exec (.loop o) s = .next (s.goto (last + 4) s.loops).endRun)) ∧
  (∀ s : State, s.issuing → exec .nop s = .next s.advance)

/-- A slice at a BRP: no active lane takes it, all do, or the taking lanes go first and the others wait at the next word (R18, R36). -/
def brpLeaves (takes : BitVec 4) (target : Addr) (sl : Slice) : Slice :=
  if takes = 0 then { sl with pc := (sequel false sl.pc sl.loops).1, loops := (sequel false sl.pc sl.loops).2 }
  else if takes = sl.active then { sl with pc := target, loops := popLeft target sl.loops }
  else { sl with pc := target, active := takes
                 recon := .path ((openJoin sl.recon).getD 0) (sl.active &&& ~~~takes) (nextWord sl.pc) :: sl.recon }

/-- A slice at a JOIN that its innermost entry names: the waiting lanes of a path resume, or with an open entry the lanes that
entered go on past the join point (R36, R288). -/
def joinLeaves (sl : Slice) : Slice :=
  match sl.recon with
  | [] => sl
  | .path _ w r :: rest => { sl with active := w, pc := r, recon := rest }
  | .opened j m :: rest =>
    { sl with active := m, pc := (sequel false j (popLeft j sl.loops)).1, loops := (sequel false j (popLeft j sl.loops)).2, recon := rest }

/-- Divergence: RCV opens an entry in each slice; BRP divides the slices whose lanes disagree, when each has an open entry and room;
JOIN resumes what waits (R18, R288). -/
def Obligations.DivergenceResults : Prop :=
  (∀ (o : UOff) (s : State) (g : GroupId) (slices : BitVec 8) (grp : Group), Issues s g slices grp →
    (∀ i : Fin 8, maskHas slices i.val = true → grp.slices[i].recon.length < 32) →
    let j : Addr := BitVec.ofInt 48 ((grp.lead slices).pc.toNat + 4 * o.off.toInt)
    exec (.rcv o) s = .next (s.setGroup g (grp.mapSlices slices fun sl => { sl with recon := .opened j sl.active :: sl.recon })).advance) ∧
  (∀ (o : UJ) (s : State) (g : GroupId) (slices : BitVec 8) (grp : Group), Issues s g slices grp →
    let target : Addr := BitVec.ofInt 48 ((grp.lead slices).pc.toNat + 4 * o.off.toInt)
    let takes := fun (i : Fin 8) =>
      BitVec.ofNat 4 ((if o.x then ~~~(grp.pred o.k) else grp.pred o.k).toNat / 2 ^ (4 * i.val)) &&& grp.slices[i].active
    (∀ i : Fin 8, maskHas slices i.val = true → takes i ≠ 0 → s.towAllows g grp i target = true ∧
      (takes i ≠ grp.slices[i].active → grp.slices[i].recon.length < 32 ∧ (openJoin grp.slices[i].recon).isSome = true)) →
    let after := fun (i : Fin 8) => if maskHas slices i.val then brpLeaves (takes i) target grp.slices[i] else grp.slices[i]
    let t := s.setGroup g { grp.dropProgress slices with slices := Vector.ofFn after }
    ((∃ i : Fin 8, maskHas slices i.val = true ∧ takes i ≠ 0) → exec (.brp o) s = .next t.endRun) ∧
    ((∀ i : Fin 8, maskHas slices i.val = true → takes i = 0) → exec (.brp o) s = .next t)) ∧
  (∀ (s : State) (g : GroupId) (slices : BitVec 8) (grp : Group), Issues s g slices grp → slices ≠ 0 →
    (∀ i : Fin 8, maskHas slices i.val = true → let sl := grp.slices[i]
      sl.exited = false ∧ sl.wait = .ready ∧
      ((∃ w r rest, sl.recon = .path sl.pc w r :: rest ∧ w ≠ 0) ∨ ∃ m rest, sl.recon = .opened sl.pc m :: rest ∧ m ≠ 0)) →
    let t := s.setGroup g ((grp.dropProgress slices).mapSlices slices joinLeaves)
    ((∃ i : Fin 8, maskHas slices i.val = true ∧ grp.slices[i].onPath = true) → exec .join s = .next t.endRun) ∧
    ((∀ i : Fin 8, maskHas slices i.val = true → grp.slices[i].onPath = false) → exec .join s = .next t))

/-- The end of lanes, regathering, regions and the switch of role (R17, R19, R22, R72, R289 to R293). The model's choices: RGN records the
program counter and the loop stack that follow the word (log entry 42), and an EXIT pins the slices of its group that remain (log
entry 44). -/
def Obligations.LaneEndResults : Prop :=
  (∀ (s : State) (g : GroupId) (slices : BitVec 8) (grp : Group), Issues s g slices grp →
    (s.condHolds = true →
      let grp' := (grp.dropProgress slices).mapSlices slices fun sl => sl.end_ sl.active
      exec .exitLanes s = .next ((s.setGroup g (grp'.pin grp'.present)).afterEnd g).endRun) ∧
    (s.condHolds = false → exec .exitLanes s = .next s.advance)) ∧
  (∀ sl : Slice, sl.recon = [] → sl.end_ sl.active =
    { sl with active := 0, ended := sl.ended ||| sl.active, recon := [], exited := true, tows := [], wait := .ready, why := 0
              dbg := .none }) ∧
  (∀ (s : State) (cl : ClusterId) (p : Pilot), PilotIssues s cl p → s.condHolds = true → p.accesses = [] →
    exec .exitLanes s = .next (s.endGenerator cl).endRun) ∧
  (∀ (s : State) (g : GroupId) (slices : BitVec 8) (grp : Group), Issues s g slices grp →
    ((s.condHolds = false ∨ slices = 0xFF) → exec .regang s = .next s.advance) ∧
    (s.condHolds = true → slices ≠ 0xFF →
      exec .regang s = .next ((s.setGroup g (grp.setWait slices .regang s.fetched)).evalRegang g).endRun)) ∧
  (∀ (s : State) (g : GroupId) (slices : BitVec 8) (grp : Group), Issues s g slices grp → s.condHolds = true →
    let grp' := grp.done slices s.pair
    exec .rgn s = .next (s.setGroup g { grp'.mapSlices slices (fun sl =>
      { sl with region := ⟨sl.pc, sl.active, sl.loops, sl.recon⟩, pinned := false, issued := [] }) with
        region := grp.region + 1
        saved := grp.saved.map fun sv => if maskHas slices sv.slice.val then
            { sv with pinned := sv.pinned || grp.slices[sv.slice].pinned, issued := grp.slices[sv.slice].issued ++ sv.issued }
          else sv })) ∧
  (∀ (s : State) (cl : ClusterId) (p : Pilot), PilotIssues s cl p → s.condHolds = true →
    exec .rgn s = .next (s.setPilot cl { p.advance s.pair with region := p.region + 1 })) ∧
  (∀ (s : State) (g : GroupId) (grp : Group) (l : Launch), Issues s g 0xFF grp → s.condHolds = true →
    s.launch? grp.launch = some l → l.pkt.version ≠ 1 →
    let r := if grp.producer then l.pkt.cons else l.pkt.prod
    let gained := fun (i : Nat) => decide (grp.allot ≤ i ∧ i < r.allot)
    r.named = true → (∀ i : Fin 8, s.towAllows g grp i (l.pkt.entryOf r) = true) →
      exec .rolesw s = .next (s.setGroup g ({ (grp.dropProgress 0xFF).pin 0xFF with
        producer := !grp.producer, allot := r.allot, cls := r.cls
        v := Vector.ofFn fun (i : Fin 96) => if gained i.val then Vector.replicate 32 0 else grp.v[i]
        tags := Vector.ofFn fun (i : Fin 96) => if gained i.val then 0 else grp.tags[i]
        vpoison := grp.vpoison.filter fun e => !gained e.1 }.mapSlices 0xFF fun sl => { sl with pc := l.pkt.entryOf r })).endRun)

/-! ### Traps and privileged words -/

/-- The gang at its word takes a trap, which ends its run (R333, R334). -/
def Traps (i : Instr) (s : State) (g : GroupId) (slices : BitVec 8) (t : Trap) : Prop :=
  exec i s = .next { s.takeTrap g slices t with runEnd := true }

/-- The trap registers that entry writes (R331, R334 steps 1 to 3): cause, address, masks, value, provenance, word, and state. -/
def entryRegs (grp : Group) (slices : BitVec 8) (t : Trap) (f : Fetched) : TrapRegs :=
  { cause := BitVec.ofNat 18 (t.kind.code + t.reason * 2 ^ 8 + (if f.berth then 2 ^ 16 else 0) + (if t.kind = .poison then 2 ^ 17 else 0))
    pc := (grp.lead slices).pc
    mask := BitVec.ofNat 64 (t.lanes.toNat * 2 ^ 32 + (activeLanes slices grp).toNat)
    val := t.val
    prov := f.sidecar.elim 0 fun c => BitVec.ofNat 33 (2 ^ 32 + c.toNat)
    word := BitVec.ofNat 64 ((if isLiteral f.word.toNat then f.word2.toNat else 0) * 2 ^ 32 + f.word.toNat)
    slices := slices, inh := true, skip := decide (t.kind = .trap ∨ t.kind = .bkpt), cond := grp.u.c
    tsv := #v[grp.u.s[60], grp.u.s[61], grp.u.s[62], grp.u.s[63]] }

/-- Taking a trap outside a handler: every result in flight arrives, the gang's requests leave the queues that it stalls on, the trap registers are written, the trapping slices' stacks and
region entries go into the saved block with what their regions have done, and they continue at TBASE with empty stacks and the same
active lanes; the progress of the trapped word is kept aside; nothing else changes.
With bit 47 of TBASE clear no handler is entered: the group stops, and a record of type 5 is posted. A trap of the handler's own
slices while it runs is a double fault, and one of other slices waits until the handler has ended (R153, R331, R333 to R336). That the record
of a double fault has kind code 0x3F, and in ADDR the TCAUSE that the second trap would have had, is the model's choice (log entry 19). -/
def Obligations.TrapEntry : Prop :=
  ∀ (s : State) (g : GroupId) (slices : BitVec 8) (grp : Group) (t : Trap), (s.arriveGroup g).group? g = some grp →
    let s1 := (s.arriveGroup g).leaveQueues g slices
    let ld := deviceOfGroup g
    let asn := s1.asnOf grp.launch
    let tbase := (s1.ctx ld asn).tbase
    let regs := entryRegs grp slices t s.fetched
    let record := fun (kind reason addr : Nat) =>
      ({ seq := none, type := 5, asn := asn, owner := .record, held := none
         dwords := faultDwords 5 kind reason asn 0 addr t.lanes.toNat (grp.progressOf slices).done.toNat (agentOfGroup g slices) 0
           (grp.lead slices).pc s.fetched.word.toNat s.fetched.sidecar s.pack.time t.val } : FaultRec)
    (grp.trap.inh = false → tbase.getLsbD 47 = true → ∃ grp' : Group, s.takeTrap g slices t = s1.setGroup g grp' ∧ grp'.trap = regs ∧
      (∀ i : Fin 8, maskHas slices i.val = true →
        let sl := grp.slices[i]
        let sl' := grp'.slices[i]
        sl'.pc = tbase ∧ sl'.loops = [] ∧ sl'.recon = [] ∧ sl'.wait = .ready ∧ sl'.active = sl.active ∧ sl'.ended = sl.ended ∧
          sl'.exited = sl.exited ∧ sl'.tows = sl.tows ∧ sl'.region = sl.region ∧ sl'.pinned = false ∧ sl'.issued = [] ∧
          sl'.passBreak = false ∧
          { slice := i, active := sl.active, loops := sl.loops, recon := sl.recon, region := sl.region, pinned := sl.pinned,
            issued := sl.issued : SavedSlice } ∈ grp'.saved) ∧
      (∀ i : Fin 8, maskHas slices i.val = false → grp'.slices[i] = grp.slices[i]) ∧
      grp'.savedProgress = grp.progress.filter (grp.owns slices) ∧
      grp'.progress = grp.progress.filter (fun p => !grp.owns slices p) ∧
      grp = { grp' with trap := grp.trap, slices := grp.slices, saved := grp.saved, savedProgress := grp.savedProgress,
                        progress := grp.progress }) ∧
    (grp.trap.inh = false → tbase.getLsbD 47 = false →
      s.takeTrap g slices t = (s1.setGroup g { grp with trap := { regs with tsv := grp.trap.tsv }, dead := true }).postFault ld
        (record t.kind.code t.reason 0)) ∧
    (grp.trap.inh = true → slices &&& grp.trap.slices ≠ 0 →
      s.takeTrap g slices t = (s1.setGroup g { grp with dead := true }).postFault ld (record 0x3F 0 regs.cause.toNat)) ∧
    (grp.trap.inh = true → slices &&& grp.trap.slices = 0 → s.takeTrap g slices t = s1.setGroup g (grp.wake slices))

/-- TRAP raises its trap with its code as TVAL; so does BKPT unless a debugger is attached, which then holds the whole group at the
word, with WHY 3 (R307, R352). On a Pilot both are level G faults. -/
def TrapWords : Prop :=
  (∀ (o : UCode) (s : State) (g : GroupId) (slices : BitVec 8) (grp : Group), Issues s g slices grp →
    Traps (.trap o) s g slices { kind := .trap, val := BitVec.ofNat 64 o.code.toNat } ∧
    ((s.ctxOfGroup g grp).attached = false → Traps (.bkpt o) s g slices { kind := .bkpt, val := BitVec.ofNat 64 o.code.toNat }) ∧
    ((s.ctxOfGroup g grp).attached = true →
      exec (.bkpt o) s = .next (s.setGroup g { grp with
        slices := Vector.ofFn fun (i : Fin 8) => { grp.slices[i] with
          why := if grp.slices[i].exited then grp.slices[i].why else 3
          passBreak := grp.slices[i].passBreak || maskHas slices i.val } }).endRun)) ∧
  (∀ (o : UCode) (s : State) (cl : ClusterId) (p : Pilot), PilotIssues s cl p →
    exec (.trap o) s = .next (s.generatorFault cl { kind := .trap, val := BitVec.ofNat 64 o.code.toNat }) ∧
    exec (.bkpt o) s = .next (s.generatorFault cl { kind := .bkpt, val := BitVec.ofNat 64 o.code.toNat }))

/-- RETT in a handler: the saved stacks, active lanes and region entries come back to the slices that trapped, c1 to c7 and s60 to
s63 take what TSTATE.COND and TSV0 to TSV3 hold, and the group returns to U; those slices continue at TPC, or with SKIP = 1 where
they would after that word in sequence; a word that the sequencer had stopped goes on only where the group returns to it, and else the
vectors that it had read from streams are given back; nothing else changes (R201, R237, R338). -/
def HandlerReturn : Prop :=
  ∀ (s : State) (g : GroupId) (slices : BitVec 8) (grp : Group), Issues s g slices grp → grp.trap.inh = true → s.condHolds = true →
    (grp.saved.map SavedSlice.slice).Nodup →
    (∀ i : Fin 8, maskHas grp.trap.slices i.val = true ↔ i ∈ grp.saved.map SavedSlice.slice) →
    (∀ i : Fin 8, grp.slices[i].wait ≠ .gangTrap) →
    let pair := isLiteral (grp.trap.word.toNat % 2 ^ 32)
    ∃ grp' : Group, exec .rett s = .next ((s.setGroup g grp').dropSeqsOf g fun w =>
        grp.trap.skip || w.pc != (grp'.lead grp.trap.slices).pc).endRun ∧ grp'.trap = { grp.trap with inh := false } ∧
      grp'.u = { s := (((grp.u.s.set 60 grp.trap.tsv[0]).set 61 grp.trap.tsv[1]).set 62 grp.trap.tsv[2]).set 63 grp.trap.tsv[3]
                 c := grp.trap.cond } ∧
      grp'.saved = [] ∧ grp'.progress = (if grp.trap.skip then [] else grp.savedProgress) ++ grp.progress ∧ grp'.savedProgress = [] ∧
      (∀ sv ∈ grp.saved, grp'.slices[sv.slice] = { grp.slices[sv.slice] with
        active := sv.active, recon := sv.recon, region := sv.region
        pinned := sv.pinned || grp.slices[sv.slice].pinned, issued := grp.slices[sv.slice].issued ++ sv.issued
        pc := if grp.trap.skip then (sequel pair grp.trap.pc sv.loops).1 else grp.trap.pc
        loops := if grp.trap.skip then (sequel pair grp.trap.pc sv.loops).2 else sv.loops }) ∧
      (∀ i : Fin 8, i ∉ grp.saved.map SavedSlice.slice → grp'.slices[i] = grp.slices[i]) ∧
      grp = { grp' with trap := grp.trap, u := grp.u, saved := grp.saved, progress := grp.progress, slices := grp.slices,
                        savedProgress := grp.savedProgress }

/-- PRD at S of a register gives its value; PWR at S of a register leaves `put`. -/
def PrdGives (n : Nat) (x : State → GroupId → Group → DWord) : Prop :=
  ∀ (o : UPrd) (s : State) (g : GroupId) (slices : BitVec 8) (grp : Group), Issues s g slices grp → grp.trap.inh = true →
    s.condHolds = true → s.uniformReady [o.sb] [o.sd] → (s.readU o.sb).toNat = n →
      exec (.prd o) s = .next (s.writeUniform o.sd (x s g grp)).advance

/-- PWR at S of a register leaves the state that `put` gives of the value written, at the next word. -/
def PwrGives (n : Nat) (put : State → GroupId → Group → DWord → State) : Prop :=
  ∀ (o : UPwr) (s : State) (g : GroupId) (slices : BitVec 8) (grp : Group), Issues s g slices grp → grp.trap.inh = true →
    s.condHolds = true → s.uniformReady [o.sb, o.sa] [] → (s.readU o.sb).toNat = n →
      exec (.pwr o) s = .next (put s g grp (s.readU o.sa))

/-- PRD of registers of the group, its context and its device (R331, R332, R362, R399, R402). -/
def SystemRegisterReads : Prop :=
  let ofGroup := fun (f : TrapRegs → DWord) (_ : State) (_ : GroupId) (grp : Group) => f grp.trap
  let ofCtx := fun (f : Ctx → DWord) (s : State) (g : GroupId) (grp : Group) => f (s.ctx (deviceOfGroup g) (s.asnOf grp.launch))
  let ofDev := fun (f : Device → DWord) (s : State) (g : GroupId) (_ : Group) => f s.devices[deviceOfGroup g]
  let flag := fun (b : Bool) => if b then 1 else 0
  PrdGives 0x201 (ofGroup fun t => t.cause.zeroExtend 64) ∧ PrdGives 0x202 (ofGroup fun t => t.pc.zeroExtend 64) ∧
  PrdGives 0x203 (ofGroup fun t => t.mask) ∧ PrdGives 0x204 (ofGroup fun t => t.val) ∧
  PrdGives 0x205 (ofGroup fun t => t.prov.zeroExtend 64) ∧ PrdGives 0x206 (ofGroup fun t => t.word) ∧
  PrdGives 0x207 (ofGroup fun t => BitVec.ofNat 64 (t.slices.toNat * 2 ^ 16 + flag t.inh * 2 ^ 9 + flag t.skip * 2 ^ 8 +
    t.cond.toNat / 2 * 2)) ∧
  PrdGives 0x208 (ofGroup fun t => t.tsv[0]) ∧ PrdGives 0x209 (ofGroup fun t => t.tsv[1]) ∧
  PrdGives 0x20A (ofGroup fun t => t.tsv[2]) ∧ PrdGives 0x20B (ofGroup fun t => t.tsv[3]) ∧
  PrdGives 0x200 (ofCtx fun c => c.tbase.zeroExtend 64) ∧ PrdGives 0x250 (ofCtx fun c => c.ptroot.zeroExtend 64) ∧
  PrdGives 0x251 (ofCtx fun c => c.lease.zeroExtend 64) ∧ PrdGives 0x252 (ofCtx fun c => c.regtab.zeroExtend 64) ∧
  PrdGives 0x260 (ofCtx fun c => c.mfstat) ∧ PrdGives 0x325 (ofCtx fun c => c.tweight.zeroExtend 64) ∧
  (∀ k : Fin 4, PrdGives (0x248 + k.val) (ofCtx fun c => c.brk[k])) ∧
  PrdGives 0x253 (ofDev fun d => d.hbase) ∧ PrdGives 0x254 (ofDev fun d => d.fbBase.zeroExtend 64) ∧
  PrdGives 0x256 (ofDev fun d => d.fbHead.zeroExtend 64) ∧ PrdGives 0x257 (ofDev fun d => d.fbTail.zeroExtend 64) ∧
  PrdGives 0x25F (ofDev fun d => d.errLost.zeroExtend 64) ∧ PrdGives 0x300 (ofDev fun d => d.rtBase) ∧
  PrdGives 0x307 (ofDev fun d => (d.flHead - d.flTail).zeroExtend 64) ∧ PrdGives 0x320 (ofDev fun d => d.ctxSel.zeroExtend 64) ∧
  PrdGives 0x354 (ofDev fun d => d.xToken) ∧ PrdGives 0x3C3 (fun s _ _ => s.pack.fwver) ∧
  PrdGives 0x3C4 (fun s _ _ => s.pack.plimit.zeroExtend 64)

/-- PWR of registers of the group, its context and its device, in their writable bits and within their clamps; the privileged words
that wait or end the group; and their PRIV trap at U, and ILLEGAL at step 2 on a Pilot (R330 to R332, R362, R367, R437). -/
def PrivilegedResults : Prop :=
  let ofGroup := fun (f : TrapRegs → DWord → TrapRegs) (s : State) (g : GroupId) (grp : Group) (x : DWord) =>
    (s.setGroup g { grp with trap := f grp.trap x }).advance
  let ofCtx := fun (f : Ctx → DWord → Ctx) (s : State) (g : GroupId) (grp : Group) (x : DWord) =>
    let asn := s.asnOf grp.launch
    s.advance.setCtx (deviceOfGroup g) asn (f (s.ctx (deviceOfGroup g) asn) x)
  let ofDev := fun (f : Device → DWord → Device) (s : State) (g : GroupId) (_ : Group) (x : DWord) =>
    s.advance.setDev (deviceOfGroup g) (f s.devices[deviceOfGroup g] x)
  PwrGives 0x207 (ofGroup fun t x => { t with skip := x.getLsbD 8, cond := BitVec.ofNat 8 (x.toNat / 2 % 2 ^ 7 * 2 + 1) }) ∧
  PwrGives 0x208 (ofGroup fun t x => { t with tsv := t.tsv.set 0 x }) ∧
  PwrGives 0x20B (ofGroup fun t x => { t with tsv := t.tsv.set 3 x }) ∧
  PwrGives 0x200 (ofCtx fun c x => { c with tbase := BitVec.ofNat 48 (x.toNat / 2 ^ 6 % 2 ^ 42 * 2 ^ 6) }) ∧
  PwrGives 0x250 (ofCtx fun c x => { c with ptroot := BitVec.ofNat 40 (x.toNat / 2 ^ 12 % 2 ^ 28 * 2 ^ 12) }) ∧
  PwrGives 0x251 (ofCtx fun c x => { c with lease := BitVec.ofNat 11 (max 1 (min 1024 x.toNat)) }) ∧
  PwrGives 0x260 (ofCtx fun c x => { c with mfstat := c.mfstat &&& ~~~x }) ∧
  PwrGives 0x257 (ofDev fun d x => { d with fbTail := BitVec.ofNat 32 x.toNat }) ∧
  PwrGives 0x320 (ofDev fun d x => { d with ctxSel := BitVec.ofNat 12 x.toNat }) ∧
  PwrGives 0x3C4 (fun s _ _ x =>
    { s.advance with pack := { s.pack with plimit := BitVec.ofNat 12 (max 600 (min 2200 x.toNat)) } }) ∧
  (∀ (s : State) (g : GroupId) (slices : BitVec 8) (grp : Group), Issues s g slices grp → grp.trap.inh = true →
    s.condHolds = true →
    exec .idle s = .next (s.setGroup g (grp.setWait slices (.idle (s.pack.time + 1000000)) s.fetched)).endRun ∧
    (∃ until_, exec .leasew s = .next (s.setGroup g (grp.setWait slices (.lease until_) s.fetched)).endRun ∧ s.pack.time ≤ until_ ∧
      (∀ l ∈ s.leases, l.ld = deviceOfGroup g → l.asn = s.asnOf grp.launch → l.expires ≤ until_) ∧
      (until_ = s.pack.time ∨ ∃ l ∈ s.leases, l.ld = deviceOfGroup g ∧ l.asn = s.asnOf grp.launch ∧ l.expires = until_)) ∧
    (∀ l, s.launch? grp.launch = some l →
      exec .halt s = .next (((s.setLaunch { l with halted := true }).setGroup g { grp with
        slices := grp.slices.map fun sl =>
          { sl with ended := 15, active := 0, recon := [], exited := true, tows := [], wait := .ready } }).retireGroup g).endRun)) ∧
  (∀ (rd : UPrd) (wr : UPwr) (i : Instr) (s : State) (g : GroupId) (slices : BitVec 8) (grp : Group),
    i ∈ [Instr.rett, .prd rd, .pwr wr, .idle, .leasew, .halt] → Issues s g slices grp →
    (grp.trap.inh = false → Traps i s g slices { kind := .priv }) ∧
    (grp.trap.inh = true → s.condHolds = false → exec i s = .next s.advance)) ∧
  (∀ (rd : UPrd) (wr : UPwr) (i : Instr) (s : State) (cl : ClusterId) (p : Pilot),
    i ∈ [Instr.rett, .prd rd, .pwr wr, .idle, .leasew, .halt] → PilotIssues s cl p →
      exec i s = .next (s.generatorFault cl { kind := .illegal, reason := 2 }))

/-! ### Barriers, supersteps and fences -/

/-- A barrier word: a group that the generation expects arrives, and waits with the others; the last arrival closes the generation
and every group that waits at it moves past its word (R23, R294). -/
def BarrierGives (i : Instr) (kind : Fin 4) (n : Fin 16) (uses : List (Fin 64)) : Prop :=
  ∀ (s : State) (g : GroupId) (grp : Group) (t : Team), Issues s g 0xFF grp → s.team? grp.team = some t → s.uniformReady uses [] →
    let count := if kind = 3 then ((uses.map s.readU).headD 0).toNat % 64 else 0
    let b := s.barrierAt t kind count n
    let b' : Generation := { b with arrived := b.arrived ++ [(g, 0xFF)] }
    let waits := s.setGroup g ((grp.pin 0xFF).setWait 0xFF (.barrier n) s.fetched)
    let welcome := b.kind = kind ∧ (if kind = 3 then b.count = count ∧ 1 ≤ count ∧ count ≤ 32 else g ∈ b.expected)
    (welcome → b'.full = false →
      exec i s = .next (waits.setTeam { t with barriers := t.barriers.set n (some b') }).endRun) ∧
    (welcome → b'.full = true →
      exec i s = .next (b'.arrived.foldl (fun u e => u.complete e.1 e.2)
        (waits.setTeam { t with barriers := t.barriers.set n none })).endRun) ∧
    (¬ welcome → Traps i s g 0xFF { kind := .barerr, val := BitVec.ofNat 64 n.val })

/-- The barrier words, with a BARERR trap for a group that the open generation does not expect; SSTEP arrives at the boundary of its
superstep grid and is ILLEGAL, reason 6, in a launch that is no superstep launch; a fence moves on, with .drain only once the
group's engine operations are over and then observed, and a release at package or system scope only once the writes to exported and peer
lines are acknowledged; an acquire leaves the core's L1 no line of the context, at package and system scope the die takes the
invalidations that are on their way to it, and at system scope its caches act for the host; a Pilot's fence waits for its refused accesses
(R23, R26, R105, R131, R133, R134, R139, R234, R294, R295, R340, R370, R371, R424). -/
def SyncResults : Prop :=
  (∀ o : UBar, BarrierGives (.bar o) 0 o.n [] ∧ BarrierGives (.barProd o) 1 o.n [] ∧ BarrierGives (.barCons o) 2 o.n []) ∧
  (∀ o : UBarC, BarrierGives (.barCnt o) 3 o.n [o.sa]) ∧
  (∀ (s : State) (g : GroupId) (grp : Group) (l : Launch), Issues s g 0xFF grp → s.launch? grp.launch = some l →
    (s.condHolds = true → l.pkt.superstep = true → exec .sstep s = .next (((s.setLaunch { l with arrived := l.arrived ++ [g] }).setGroup g
      ((grp.pin 0xFF).setWait 0xFF .superstep s.fetched)).endRun)) ∧
    (s.condHolds = true → l.pkt.superstep = false → Traps .sstep s g 0xFF { kind := .illegal, reason := 6 }) ∧
    (s.condHolds = false → exec .sstep s = .next s.advance)) ∧
  (∀ (o : UFence) (i : Instr) (acq rel : Bool) (s : State),
    (i, acq, rel) ∈ [(Instr.fenceAcq o, true, false), (.fenceRel o, false, true), (.fenceFull o, true, true)] →
    let far := rel = true ∧ (o.sc = .package ∨ o.sc = .system)
    (∀ g slices grp, Issues s g slices grp →
      (o.dr = false ∨ (s.engineBusy g = false ∧ grp.batches.refused = []) → ¬ (far ∧ s.unacknowledged = true) →
        let seen := if o.dr then s.observe g fun _ => true else s
        exec i s = .next ((seen.acquireIf acq g).fenceCaches (deviceOfGroup g) o.sc acq rel).advance) ∧
      (o.dr = true → s.engineBusy g = true →
        exec i s = .next (s.setGroup g (grp.setWait slices .drain s.fetched)).endRun) ∧
      (o.dr = false ∨ s.engineBusy g = false → far → s.unacknowledged = true →
        exec i s = .next (s.setGroup g (grp.setWait slices .acks s.fetched)).endRun)) ∧
    ∀ cl p, PilotIssues s cl p →
      (p.accesses = [] → ¬ (far ∧ s.unacknowledged = true) → exec i s = .next (s.fenceCaches (deviceOf cl) o.sc acq rel).advance) ∧
      (p.accesses = [] → far → s.unacknowledged = true → exec i s = .next (s.setPilot cl { p with wait := .acks }).endRun) ∧
      (p.accesses ≠ [] → exec i s = .next (s.setPilot cl { p with wait := .parked }).endRun))

/-! ### Engine words -/

/-- The ticket of an operation (R240). -/
def ticketWord (grp : Group) (e : Fin 16) (code : Nat) : DWord :=
  BitVec.ofNat 64 (code * 2 ^ 56 + e.val * 2 ^ 32 + (grp.ticketSeq + 1).toNat)

/-- The ranges named, but for empty ones, lie where the group may reach (R101, R225). -/
def rangesSound (p : Priv) (rs : List (Nat × Nat)) : Prop := ∀ r ∈ rs, r.2 ≠ 0 → plainAddr p r.1 r.2

/-- An engine word whose record can be read: with a sound record and a free ticket entry the operation starts, its ticket goes to
sd, and the gang moves past the word; a record that breaks its rules is BADREC, and without a free entry the word is TICKFULL (R225,
R240, R440). -/
def EngineGives (i : Instr) (sa sd : Fin 64) (la bytes code : Nat) (ranges : List DWord → List (Nat × Nat)) (good : List DWord → Bool)
    (inside : State → Group → List DWord → Prop) (kind : Group → List DWord → OpKind)
    (after : State → State → State → GroupId → Group → List DWord → State) : Prop :=
  ∀ (s t : State) (g : GroupId) (slices : BitVec 8) (grp : Group) (ps : List Place), Issues s g slices grp →
    s.uniformReady [sa] [sd] → grp.starts slices →
    let a := (s.readU sa).toNat
    let d := dwordsOf (ps.map t.readPlace)
    s.uniformSound a bytes false → a % 8 = 0 → s.places (s.groupReq g grp .load) a bytes = .ok (t, ps) →
    (t.readPlaces ps).2 = none → rangesSound grp.priv (ranges d) →
    (∀ e, good d = true → inside s grp d → grp.freeTicket = some e →
      let t1 := t.setGroup g (grp.ticketed slices e code)
      let op : EngineOp :=
        { id := t.nextId, kind := kind grp d, g := g, team := grp.team, launch := grp.launch, ld := deviceOfGroup g
          asn := t.asnOf grp.launch, priv := grp.priv, cl := clusterOf g, record := BitVec.ofNat 64 a, desc := d
          word := t.fetched.word, pc := (grp.lead slices).pc, sidecar := t.fetched.sidecar, uft := (t.ctxOfGroup g grp).uft
          since := t.fresh, ticket := some (e, grp.ticketSeq + 1), parked := false }
      exec i s = .next (after s t (({ t1 with ops := t1.ops ++ [op], nextId := t.nextId + 1 } : State).takesUniform sd la
        (ticketWord grp e code)).advance g grp d)) ∧
    (good d = false → exec i s = .next { t.takeTrap g slices { kind := .badrec, val := BitVec.ofNat 64 a } with runEnd := true }) ∧
    (good d = true → inside s grp d → grp.freeTicket = none →
      exec i s = .next { t.takeTrap g slices { kind := .tickfull } with runEnd := true })

/-- The conditions on an NTT descriptor of 4 dwords (R272). -/
def nttSound (d : List DWord) : Bool :=
  let src := bits (dw d 0) 0 48
  let dst := bits (dw d 1) 0 48
  let lg := bits (dw d 2) 0 5
  decide (dw d 0 < 2 ^ 48 ∧ dw d 1 < 2 ^ 48 ∧ dw d 2 < 2 ^ 5 ∧ dw d 3 = 0 ∧ 1 ≤ lg ∧ lg ≤ 24 ∧ src % 4 = 0 ∧ dst % 4 = 0 ∧
    (src = dst ∨ dst + 4 * 2 ^ lg ≤ src ∨ src + 4 * 2 ^ lg ≤ dst))

/-- The issue of the engine words: BXT, GATH, MXMUL, and NTT with primes 0 to 2. A product of fewer than NTTH limbs that is to be
formed also asks for an accumulator slot (R225, R240, R242, R247, R270 to R272). -/
def Obligations.EngineIssue : Prop :=
  let same := fun (_ _ u : State) (_ : GroupId) (_ : Group) (_ : List DWord) => u
  (∀ o : UDAL, EngineGives (.bxt o) o.sa o.sd o.la.val 112 1 (fun d => (Layout.ofRecord d).accesses)
    (fun d => (Layout.ofRecord d).ok d)
    (fun s grp d => (Layout.ofRecord d).mcast < 16 ∧
      localOk (s.teamOf grp).lsSize (Layout.ofRecord d).lsaddr (Layout.ofRecord d).size = true) (fun _ _ => .bxt) same) ∧
  (∀ o : UDAL, EngineGives (.gath o) o.sa o.sd o.la.val 64 2
    (fun d => let q := Gather.ofRecord d
      [(q.list, 4 * q.count), (q.table, q.bound * q.size), (q.dest, if q.lsdst then 0 else q.count * q.size), (q.oormap, q.mapBytes)])
    (fun d => (Gather.ofRecord d).ok d)
    (fun s grp d => let q := Gather.ofRecord d
      q.lsdst = true → localOk (s.teamOf grp).lsSize q.dest (q.count * q.size) = true) (fun _ _ => .gath) same) ∧
  (∀ o : UDAL, EngineGives (.mxmul o) o.sa o.sd o.la.val 64 3
    (fun d => let m := Mul.ofRecord d
      [(m.a, 4 * m.la), (m.b, 4 * m.lb), (m.d, 4 * (m.la + m.lb))])
    (fun d => (Mul.ofRecord d).ok d) (fun _ _ _ => True)
    (fun grp d => .mxmul (decide (grp.ntth.toNat ≤ (Mul.ofRecord d).la + (Mul.ofRecord d).lb)))
    (fun s t u g grp d =>
      let m := Mul.ofRecord d
      let ntt := decide (grp.ntth.toNat ≤ m.la + m.lb)
      if ntt = true ∨ m.refusal ntt (s.teamOf grp).backing.isSome ≠ none then u
      else u.setCluster (clusterOf g) { u.cluster (clusterOf g) with
        requests := (u.cluster (clusterOf g)).requests ++ [⟨grp.team, none, 0, 1, some t.nextId, grp.cls⟩] })) ∧
  (∀ (o : UNtt) (inverse : Bool), o.p ≠ 3 →
    EngineGives (if inverse then .nttInv o else .nttFwd o) o.sa o.sd o.la.val 32 4
      (fun d => let lg := bits (dw d 2) 0 5
        let n := if 1 ≤ lg ∧ lg ≤ 24 then 4 * 2 ^ lg else 0
        [(bits (dw d 0) 0 48, n), (bits (dw d 1) 0 48, n)])
      nttSound (fun _ _ _ => True) (fun _ _ => .ntt inverse o.p) same)

/-- STOW waits for its engine as an operation of its own; UNSTOW waits while the die's stowage engine has an older request, then frees the
granules that a handle of its context names and reads how many are then free, or takes STOWPOOL or STOWBAD; PUBL waits for the exchange at a buffer's first page, and is BOUNDS anywhere else
(R225, R296 to R298, R404). -/
def StowageAndPublish : Prop :=
  (∀ (o : UR2) (s : State) (g : GroupId) (slices : BitVec 8) (grp : Group), Issues s g slices grp → s.uniformReady [o.sa] [o.sd] →
    let x := s.readU o.sa
    let r := StowReq.of x
    let pool := s.devices[deviceOfGroup g].pools[r.pool]
    (if r.space then localOk (s.teamOf grp).lsSize r.addr (4 * r.limbs) = true else plainAddr grp.priv r.addr (4 * r.limbs)) →
    r.addr % 4 = 0 →
    (pool.serves (s.asnOf grp.launch) = true → exec (.stow o) s = .next ((({ s with
      ops := s.ops ++ [{ id := s.nextId, kind := .stow, g := g, team := grp.team, launch := grp.launch, ld := deviceOfGroup g
                         asn := s.asnOf grp.launch, priv := grp.priv, cl := clusterOf g, record := x, desc := [dwordOf o.sd.val]
                         word := s.fetched.word, pc := (grp.lead slices).pc, sidecar := s.fetched.sidecar
                         uft := (s.ctxOfGroup g grp).uft, since := s.fresh, ticket := none, parked := false }]
      nextId := s.nextId + 1 } : State).setGroup g ((grp.pin slices).setWait slices .stow s.fetched)).endRun)) ∧
    (pool.serves (s.asnOf grp.launch) = false → Traps (.stow o) s g slices { kind := .stowpool, val := x })) ∧
  (∀ (o : UDAL) (s : State) (g : GroupId) (slices : BitVec 8) (grp : Group), Issues s g slices grp → s.uniformReady [o.sa] [o.sd] →
    grp.starts slices →
    let h := s.readU o.sa
    let ld := deviceOfGroup g
    let d := s.devices[ld]
    let k : Fin 8 := Fin.ofNat 8 (h.toNat / 2 ^ 61)
    let p := d.pools[k]
    let named := fun (u : Nat × Nat) => decide (u.2 = h.toNat / 2 ^ 48 % 2 ^ 13 ∧ p.base.toNat + 128 * u.1 = h.toNat % 2 ^ 48)
    let p' := { p with used := p.used.filter fun u => !named u }
    let older := (∃ x ∈ s.ops, x.kind = .stow ∧ x.ld = ld ∧ x.id < s.nextId) ∨
      ∃ e ∈ s.groups, deviceOfGroup (groupId e.1) = ld ∧ ∃ (i : Fin 8) (n : Nat), e.2.slices[i].wait = .stowTurn n ∧ n < s.nextId ∧
        e.2.slices[i].why = 0
    (older → exec (.unstow o) s = .next (({ s with nextId := s.nextId + 1 } : State).setGroup g ((grp.keepProgress slices
      { grp.progressOf slices with turn := some s.nextId }).setWait slices (.stowTurn s.nextId) s.fetched)).endRun) ∧
    (¬ older → p.serves (s.asnOf grp.launch) = true → p.used.any named = true →
      exec (.unstow o) s = .next (((s.setGroup g (grp.pin slices)).setDev ld { d with pools := d.pools.set k p' }).takesUniform
        o.sd o.la.val (dwordOf p'.freeCount)).advance) ∧
    (¬ older → p.serves (s.asnOf grp.launch) = false → Traps (.unstow o) s g slices { kind := .stowpool, val := h }) ∧
    (¬ older → p.serves (s.asnOf grp.launch) = true → p.used.any named = false → Traps (.unstow o) s g slices { kind := .stowbad, val := h })) ∧
  (∀ (o : UA) (s : State) (g : GroupId) (slices : BitVec 8) (grp : Group), Issues s g slices grp → s.uniformReady [o.sa] [] →
    let a := (s.readU o.sa).toNat
    let known := a % 2 ^ 16 = 0 ∧ s.pubAt (deviceOfGroup g) (s.asnOf grp.launch) (a / 2 ^ 16) ≠ none
    (s.condHolds = true → known →
      exec (.publ o) s = .next (({ s with nextId := s.nextId + 1 } : State).setGroup g
        ((grp.pin slices).setWait slices (.publish (a / 2 ^ 16) s.nextId) s.fetched)).endRun) ∧
    (s.condHolds = true → ¬ known → Traps (.publ o) s g slices { kind := .bounds, val := s.readU o.sa }) ∧
    (s.condHolds = false → exec (.publ o) s = .next s.advance))

/-- LAUNCH reads its packet, takes a ticket, and starts a child of its launch; a packet that is malformed, nested too deep or too
large fails its ticket at once, with kind 8, 10 or 9 (R306, R388, R391). -/
def LaunchIssue : Prop :=
  ∀ (o : UR2) (s t : State) (g : GroupId) (slices : BitVec 8) (grp : Group) (ps : List Place) (parent : Launch) (e : Fin 16),
    Issues s g slices grp → s.uniformReady [o.sa] [o.sd] → grp.starts slices →
    s.launch? grp.launch = some parent →
    let a := (s.readU o.sa).toNat
    let ld := deviceOfGroup g
    let t1 := (t.setGroup g ((grp.ticketed slices e 5).pin slices)).writeUniform o.sd (ticketWord grp e 5)
    let fails := fun (kind : Nat) =>
      exec (.launch o) s = .next (t1.setStatus g grp.team e (grp.ticketSeq + 1) (dwordOf (2 ^ 62 + kind * 2 ^ 56))).advance
    (s.condHolds = false → exec (.launch o) s = .next s.advance) ∧
    (s.condHolds = true → s.uniformSound a 128 false → a % 64 = 0 → s.places (s.groupReq g grp .load) a 128 = .ok (t, ps) →
      (t.readPlaces ps).2 = none →
      (grp.freeTicket = none → exec (.launch o) s = .next { t.takeTrap g slices { kind := .tickfull } with runEnd := true }) ∧
      (grp.freeTicket = some e → match Packet.parse (dwordsOf (ps.map t.readPlace)) false with
        | none => fails 8
        | some p =>
          if 8 ≤ parent.depth then fails 10
          else if launchFits s.devices[ld] (s.queue ld parent.queue) p = false then fails 9
          else exec (.launch o) s = .next ({ t1 with
            launches := t1.launches ++ [newLaunch t ld parent.asn parent.queue (.ticket g grp.team e (grp.ticketSeq + 1)) (some parent.id)
              (parent.depth + 1) p true]
            nextId := t.nextId + 1 } : State).advance))

/-! ### The matrix engine -/

/-- A joint word: every group that GANG names meets at one latch, where the word, its source and GANG must agree, and waits; the last
arrival completes the latch. A GANG that does not name the group or names more than the team has is BADGANG; a latch that does not
agree is GMISMATCH, there for every group that waits at it too (R255, R256). -/
def JointGives (i : Instr) (op : JointOp) (srcs : List (Fin 64)) : Prop :=
  ∀ (s : State) (g : GroupId) (grp : Group) (t : Team), Issues s g 0xFF grp → s.team? grp.team = some t → s.uniformReady srcs [] →
    let cl := clusterOf g
    let c := s.cluster cl
    let sa := (srcs.map s.readU).headD 0
    let gang := grp.gang
    let names := fun (m : Word) (x : Group) => maskHas m x.inTeam.val = true
    let named := names gang grp ∧ gang.toNat < 2 ^ t.members.length
    let size := (maskList gang).length
    let shares := fun (l : Latch) => l.complete = false ∧ l.team = t.id ∧
      (names l.gang grp ∨ ∃ h ∈ l.arrived, ∃ x, s.group? h = some x ∧ names gang x)
    let agrees := fun (l : Latch) => l.word = s.fetched.word ∧ l.sa = sa ∧ l.gang = gang
    let fresh : Latch :=
      { team := t.id, op := op, slot := s.issue.j, word := s.fetched.word, sa := sa, gang := gang, arrived := [], complete := false
        maps := [], total := 0, uft := (s.ctxOfGroup g grp).uft }
    let waits := s.setGroup g (grp.setWait 0xFF .latch s.fetched)
    let at_ := fun (others : List Latch) (l : Latch) => waits.setCluster cl { c with latches := others ++ [l] }
    (¬ named → Traps i s g 0xFF { kind := .badgang, val := gang.zeroExtend 64 }) ∧
    (named → (s.gangMembers t gang).length = size → (∀ l ∈ c.latches, ¬ shares l) →
      (1 < size → exec i s = .next (at_ c.latches { fresh with arrived := [g] }).endRun) ∧
      (size = 1 → exec i s = .next ((at_ c.latches { fresh with arrived := [g] }).completeLatch cl { fresh with arrived := [g] }).endRun)) ∧
    (∀ (l : Latch) (before after : List Latch), named → (s.gangMembers t gang).length = size → c.latches = before ++ l :: after →
      (∀ x ∈ before ++ after, ¬ shares x) → shares l → agrees l →
      let l' := { l with arrived := l.arrived ++ [g] }
      (l'.arrived.length < size → exec i s = .next (at_ (before ++ after) l').endRun) ∧
      (l'.arrived.length = size → exec i s = .next ((at_ (before ++ after) l').completeLatch cl l').endRun)) ∧
    (∀ (l : Latch) (before after : List Latch), named → c.latches = before ++ l :: after → (∀ x ∈ before ++ after, ¬ shares x) →
      shares l → ¬ agrees l → g ∉ l.arrived →
        let tr : Trap := { kind := .gmismatch, val := l.gang.zeroExtend 64 }
        exec i s = .next { (s.failLatch cl l tr).takeTrap g 0xFF tr with runEnd := true })

/-- The joint words meet at their latches; MGANG sets GANG to a mask of 1 to 6 groups of the team, its own among them; MACQ asks for
slots within the team's eight; MREL gives up slots that no operation names, and waits for those that one does (R255, R256, R262, R264 to
R269). An arrival whose mask shares a group with a latch of another word, operand or mask, where that group waits, is GMISMATCH for both (log
entries 62 and 141, the model's choice). -/
def Obligations.MatrixWords : Prop :=
  (∀ o : UJoint, JointGives (.mma o) (.mma false) [o.sa] ∧ JointGives (.mmaCx o) (.mma true) [o.sa] ∧ JointGives (.mlt o) .mlt [o.sa] ∧
    JointGives (.maccLoad o) .load [o.sa] ∧ JointGives (.maccStore o) .store [o.sa]) ∧
  JointGives .maccZero .zero [] ∧
  (∀ (o : UA) (s : State) (g : GroupId) (grp : Group), Issues s g 0xFF grp → s.uniformReady [o.sa] [] →
    let m : Word := BitVec.ofNat 32 (s.readU o.sa).toNat
    let n := (maskList m).length
    let good := 1 ≤ n ∧ n ≤ 6 ∧ maskHas m grp.inTeam.val = true ∧ m.toNat < 2 ^ (s.teamOf grp).members.length
    (s.condHolds = true → good → exec (.mgang o) s = .next (s.setGroup g { grp with gang := m }).advance) ∧
    (s.condHolds = true → ¬ good → Traps (.mgang o) s g 0xFF { kind := .badgang, val := m.zeroExtend 64 }) ∧
    (s.condHolds = false → exec (.mgang o) s = .next s.advance)) ∧
  (∀ (o : UMacq) (s : State) (g : GroupId) (slices : BitVec 8) (grp : Group), Issues s g slices grp → s.uniformReady [] [o.sd] →
    let t := s.teamOf grp
    let cl := clusterOf g
    let c := s.cluster cl
    (o.n.val ≤ 8 - t.heldCount → exec (.macq o) s = .next (((s.setCluster cl { c with
      requests := c.requests ++ [⟨t.id, some g, slices, o.n.val, none, grp.cls⟩] }).setGroup g
        (grp.setWait slices (.slots o.n.val) s.fetched)).endRun)) ∧
    (8 - t.heldCount < o.n.val → Traps (.macq o) s g slices { kind := .acqlim, val := dwordOf t.heldCount })) ∧
  (∀ (o : UA) (s : State) (g : GroupId) (slices : BitVec 8) (grp : Group), Issues s g slices grp → s.uniformReady [o.sa] [] →
    let x := s.readU o.sa
    let m : BitVec 8 := BitVec.ofNat 8 x.toNat
    let t := s.teamOf grp
    let busy := s.slotsBusy (clusterOf g) t.id m
    (s.condHolds = true → x.toNat < 256 → m &&& ~~~t.held = 0 → busy = false →
      exec (.mrel o) s = .next ((s.setGroup g (grp.pin slices)).releaseSlots t.id m).advance) ∧
    (s.condHolds = true → x.toNat < 256 → m &&& ~~~t.held = 0 → busy = true →
      exec (.mrel o) s = .next (s.setGroup g (grp.setWait slices (.entries m) s.fetched)).endRun) ∧
    (s.condHolds = true → x.toNat < 256 → m &&& ~~~t.held ≠ 0 → Traps (.mrel o) s g slices { kind := .accown, val := x }) ∧
    (s.condHolds = true → 256 ≤ x.toNat → Traps (.mrel o) s g slices { kind := .illegal, reason := 6 }) ∧
    (s.condHolds = false → exec (.mrel o) s = .next s.advance))

/-! ### The completion of engine operations -/

/-- An operation ends as its performance `r` says: DONE with its status; parked at the access that is refused; or FAILED with kind
POISON and the granule that it read (R241, R443). -/
def EngineEnds (i : Instr) (s : State) (o : EngineOp) (r : Except EngineStop (State × DWord)) : Prop :=
  (∀ t x, r = .ok (t, x) → exec i s = .next (t.finishOp o x)) ∧
  (∀ k code why a, r = .error (.refused k code why a) → exec i s = .next (s.parkOp o k code why a)) ∧
  (∀ a t, r = .error (.poison a t) → exec i s = .next (t.finishOp o (dwordOf (2 ^ 62 + 2 ^ 56 + (a / 32 * 32) % 2 ^ 48 : Nat))))

/-- What a transfer reads and writes (R116, R243). MIRROR repeats with a period of twice the extent, about the edges with MB and about the
last positions without, and reads what lies inside; ZERO reads nothing outside. The positions of a box run with dimension 0 innermost, and
an element stands at MBASE plus its coordinates times the strides. Into local store goes the dense box: for each position the element at its
mapped coordinates, or zero. Out of it each position inside the extents is written, in box order, and no other. -/
def BoxTransfers : Prop :=
  (∀ (mb : Bool) (n : Nat) (x : Int), 1 ≤ n →
    (0 ≤ x → x < n → ∀ edge, edgeMap edge mb n x = some x.toNat) ∧
    (x < 0 ∨ (n : Int) ≤ x → edgeMap 0 mb n x = none) ∧
    edgeMap 1 true n (x + 2 * n) = edgeMap 1 true n x ∧ edgeMap 1 true n (-1 - x) = edgeMap 1 true n x ∧
    edgeMap 1 false n (x + (2 * n - 2)) = edgeMap 1 false n x ∧ edgeMap 1 false n (-x) = edgeMap 1 false n x ∧
    ∃ y, y < n ∧ edgeMap 1 mb n x = some y) ∧
  (∀ (dims : List Dim) (k : Nat), k < (dims.map Dim.box).prod →
    (boxPositions dims).length = (dims.map Dim.box).prod ∧
    (boxPositions dims)[k]? = some (dims.zipIdx.map fun e => e.1.start + ((k / ((dims.take e.2).map Dim.box).prod % e.1.box : Nat) : Int))) ∧
  (∀ (l : Layout) (d : Dim) (rest : List Dim) (x : Nat) (row : List Nat), l.dims = d :: rest → row.length = rest.length →
    (BitVec.ofNat 64 (l.address x row) : DWord) = BitVec.ofInt 64 (l.mbase + ((rest.zip row).map fun e => e.1.stride * (e.2 : Int)).sum +
      (if l.nibbles then ((x / 2 : Nat) : Int) else d.stride * (x : Int)))) ∧
  (∀ (s t : State) (o : EngineOp) (l : Layout) (x : DWord), l.plane = false → l.lb = false → l.mcast = 0 → l.dims ≠ [] →
    (l.nibbles = true → l.dim0.box % 2 = 0) → performBxtIn s o l = .ok (t, x) →
    x = dwordOf (2 ^ (l.lsaddr / 2 ^ 18) * 2 ^ 48 : Nat) ∧
    ∃ (u : State) (elems : List Nat), elems.length = (boxPositions l.dims).length ∧
      t = (match u.team? o.team with
        | some team => localWrite u o team l.lsaddr (l.pack elems)
        | none => u) ∧
      ∀ (k : Nat) (p : List Int) (e : Nat), (boxPositions l.dims)[k]? = some p → elems[k]? = some e →
        match mapAll l.mapIn l.dims p with
        | some (c :: row) => ∃ (v w : State) (bs : List Byte), engineRead v o (l.address c row) l.elemBytes = .ok (w, bs) ∧
            e = if l.nibbles then ofBytes bs / 16 ^ (c % 2) % 16 else ofBytes bs
        | _ => e = 0) ∧
  (∀ (s t : State) (o : EngineOp) (l : Layout) (team : Team) (bs : List Byte) (x : DWord), s.team? o.team = some team → l.dims ≠ [] →
    (l.nibbles = true → l.dim0.box % 2 = 0) → localRead s o team l.lsaddr l.size = .ok bs → bs.length = (boxPositions l.dims).length * l.width / 8 →
    let inside := fun (p : List Int) => (l.dims.zip p).all fun e => decide (0 ≤ e.2 ∧ e.2 < e.1.extent)
    let at_ := fun (p : List Int) => l.address (p.headD 0).toNat ((p.drop 1).map Int.toNat)
    let one := fun (u : State) (e : List Int × Nat) =>
      if l.nibbles then do
        let (v, old) ← engineReadNow u o (at_ e.1) 1
        let half := (bs.getD (e.2 / 2) 0).toNat / 16 ^ (e.2 % 2) % 16
        let b := ofBytes old
        engineWrite v o (at_ e.1) [BitVec.ofNat 8 (if (e.1.headD 0).toNat % 2 = 0 then b / 16 * 16 + half else b % 16 + half * 16)]
      else engineWrite u o (at_ e.1) ((bs.drop (l.elemBytes * e.2)).take l.elemBytes)
    (((boxPositions l.dims).zipIdx.filter fun e => inside e.1).foldlM one s = .ok t ∧ x = 0 ↔ performBxtOut s o l = .ok (t, x)))

/-- BXT_COMPLETE, GATH_COMPLETE, MXMUL_COMPLETE, NTT_COMPLETE and STOW_COMPLETE: the operation that the event names is performed and
ends, once its NTT unit's turn has come, or its passes are done, or its stowage engine's turn has come, and while the queue that takes a
STOW's handle has no room the gang waits among the queue's pushes (R43); an MXMUL whose product is not
formed ends FAILED with the kind that says why (R241, R243 to R248, R271 to R273, R296). -/
def EngineCompletions : Prop :=
  BoxTransfers ∧
  (∀ (s : State) (o : EngineOp), s.concerns o → o.kind = .bxt →
    let l := Layout.ofRecord o.desc
    EngineEnds .bxtComplete s o (if l.dir then performBxtOut s o l else performBxtIn s o l)) ∧
  (∀ (s t u : State) (o : EngineOp) (outside : List Bool), s.concerns o → o.kind = .gath →
    let q := Gather.ofRecord o.desc
    q.entries s o 0 q.count = .ok (t, outside) →
    (if q.oormap = 0 then u = t else engineWrite t o q.oormap (oorBytes q.mapBytes outside) = .ok u) →
      exec .gathComplete s = .next (u.finishOp o (dwordOf ((outside.filter id).length % 2 ^ 48 : Nat)))) ∧
  (∀ (s : State) (o : EngineOp) (ntt : Bool), s.concerns o → o.kind = .mxmul ntt →
    let m := Mul.ofRecord o.desc
    (∀ x, m.refusal ntt (s.backed o) = some x → exec .mxmulComplete s = .next (s.finishOp o x)) ∧
    (m.refusal ntt (s.backed o) = none → (if ntt then s.unitTurn o else s.passesDone o) = true →
      EngineEnds .mxmulComplete s o (performProduct s o m ntt)) ∧
    (m.refusal ntt (s.backed o) = none → (if ntt then s.unitTurn o else s.passesDone o) = false →
      exec .mxmulComplete s = .next s)) ∧
  (∀ (s : State) (o : EngineOp) (inverse : Bool) (p : Fin 4), s.concerns o → o.kind = .ntt inverse p → s.unitTurn o = true →
    EngineEnds .nttComplete s o (performNtt s o inverse p)) ∧
  (∀ (s t : State) (o : EngineOp) (grp : Group) (h : DWord), s.concerns o → o.kind = .stow → s.stowTurn o = true →
    s.group? o.g = some grp →
    let gang := grp.waiting .stow
    (s.portRoom o.g gang o.stowDest = true → performStow s o = .ok (t, h) →
      exec .stowComplete s = .next ((((t.finishOp o 0).observe o.g fun k => k == o.mark).writeFor o.g gang o.stowDest
        h).complete o.g gang)) ∧
    (s.portRoom o.g gang o.stowDest = false → exec .stowComplete s = .next (s.awaitRoom o.g gang o.stowDest)))

/-- The product that an MXMUL writes is exact: its bytes spell the product of the two operands as numbers, and no limb is lost
(R75, R271). -/
def ProductIsExact : Prop :=
  ∀ (s sa sb t : State) (o : EngineOp) (m : Mul) (ntt : Bool) (xa xb : List Byte), 1 ≤ m.la → 1 ≤ m.lb →
    xa.length = 4 * m.la → xb.length = 4 * m.lb →
    engineRead s o m.a (4 * m.la) = .ok (sa, xa) → engineRead sa o m.b (4 * m.lb) = .ok (sb, xb) →
    ∃ bs : List Byte, bs.length = 4 * (m.la + m.lb) ∧
      (engineWrite sb o m.d bs = .ok t → performProduct s o m ntt = .ok (t, if ntt then 1 else 0)) ∧
      (m.uns = true → ofBytes bs = ofBytes xa * ofBytes xb) ∧
      (m.uns = false → signed (8 * bs.length) (ofBytes bs) = signed (8 * xa.length) (ofBytes xa) * signed (8 * xb.length) (ofBytes xb))

/-- Each output of a forward transform of `N` inputs is the sum of the inputs times powers of the root of unity `g^((p − 1) / N)`, modulo
the prime; `N` times an output of an inverse transform is the sum times the powers of the root's inverse, which is its power of `N − 1` (R273). -/
def TransformIsSum : Prop :=
  (∀ (p : Fin 4) (xs : List Nat) (lg j : Nat), 1 ≤ lg → lg ≤ 24 → xs.length = 2 ^ lg → j < 2 ^ lg →
    let m := nttPrime p
    let w := nttGenerator p ^ ((m - 1) / 2 ^ lg)
    ∃ y, (transform true p xs)[j]? = some y ∧ y < m ∧
      2 ^ lg * y % m = (((List.range (2 ^ lg)).map fun k => xs.getD k 0 * w ^ ((2 ^ lg - 1) * (j * k))).sum) % m) ∧
  ∀ (p : Fin 4) (xs : List Nat) (k : Nat), k < xs.length → xs.length < 2 ^ 32 →
    let m := nttPrime p
    let w := nttGenerator p ^ ((m - 1) / xs.length)
    (transform false p xs)[k]? = some ((((List.range xs.length).map fun j => xs.getD j 0 * w ^ (j * k)).sum) % m)

/-- One pass of an EXACT-mode MMA adds to each accumulator the sum of the 64 products of its two rows, modulo 2^96, and of its complex
form the real part in even columns and the imaginary part in odd ones (R90, R93, R262). -/
def ExactPassAdds : Prop :=
  ∀ (acc : Acc) (a b : Tile) (m n : Fin 64), (∀ r ∈ a.ints ++ b.ints, r.length = 64) → a.ints.length = 64 → b.ints.length = 64 →
    let x := fun (i j : Nat) => (a.ints.getD i []).getD j 0
    let y := fun (i j : Nat) => (b.ints.getD i []).getD j 0
    let total := fun (k : Nat) (f : Nat → Int) => ((List.range k).map f).sum
    ((mmaPass acc false false a b).1.get (64 * m.val + n.val) =
      acc.get (64 * m.val + n.val) + BitVec.ofInt 96 (total 64 fun k => x m.val k * y n.val k)) ∧
    ((mmaPass acc false true a b).1.get (64 * m.val + n.val) =
      acc.get (64 * m.val + n.val) + BitVec.ofInt 96 (total 32 fun k =>
        if n.val % 2 = 0 then x m.val (2 * k) * y (n.val / 2) (2 * k) - x m.val (2 * k + 1) * y (n.val / 2) (2 * k + 1)
        else x m.val (2 * k) * y (n.val / 2) (2 * k + 1) + x m.val (2 * k + 1) * y (n.val / 2) (2 * k))) ∧
    (mmaPass acc false false a b).1.mode = .exact ∧ (mmaPass acc false false a b).2 = 0

/-- One block step of FLOAT mode over finite values: what the products of a block add, their sum scaled, is added to the accumulator, and the
sum is rounded once to nearest; zeros as R91 says; a NaN among the elements, a NaN accumulator or a scale of 0xFF gives the default NaN (R91,
R92). Each term is two elements and whether their product is subtracted. -/
def BlockStepAdds (acc : Nat) (terms : List (FVal × FVal × Bool)) (xa xb r : Nat) : Prop :=
  let finite := fun (v : FVal) => ∃ n m e, v = .fin n m e
  let old := ratOf (Fmt.f32.value acc)
  let s : ℚ := (terms.map fun t => (if t.2.2 then -1 else 1) * ratOf t.1 * ratOf t.2.1).sum * (2 : ℚ) ^ ((xa : Int) + xb - 254)
  ((∀ t ∈ terms, finite t.1 ∧ finite t.2.1) → finite (Fmt.f32.value acc) → xa ≠ 0xFF → xb ≠ 0xFF → acc < 2 ^ 32 →
    (s = 0 → old ≠ 0 → r = acc) ∧
    (s ≠ 0 → old + s ≠ 0 → ∃ d : Dy, (d.m : ℚ) * (2 : ℚ) ^ d.e = old + s ∧ r = (Fmt.f32.roundDy .rne false d false).1) ∧
    (s ≠ 0 → old + s = 0 → r = 0) ∧
    (s = 0 → old = 0 → r = if acc = 2 ^ 31 ∧ ∀ t ∈ terms, ((t.1.negative != t.2.1.negative) != t.2.2) = true then 2 ^ 31 else 0)) ∧
  ((∃ t ∈ terms, ∃ q, t.1 = .nan q ∨ t.2.1 = .nan q) ∨ (∃ q, Fmt.f32.value acc = .nan q) ∨ xa = 0xFF ∨ xb = 0xFF → r = 0x7FC00000)

/-- One pass of a FLOAT-mode MMA: an accumulator takes the two block steps of its two rows in turn, of K 0 to 31 and of K 32 to 63, with
their scales, 127 where the format has none; in complex form the real part in even columns and the imaginary part in odd ones (R91, R93,
R262). -/
def FloatPassAdds : Prop :=
  ∀ (acc : Acc) (cx : Bool) (a b : Tile) (m n : Fin 64), (∀ r ∈ a.vals ++ b.vals, r.length = 64) → a.vals.length = 64 →
    b.vals.length = (if cx then 32 else 64) →
    let row := if cx then n.val / 2 else n.val
    let x := fun (k : Nat) => (a.vals.getD m.val []).getD k (.fin false 0 0)
    let y := fun (k : Nat) => (b.vals.getD row []).getD k (.fin false 0 0)
    let terms := fun (blk : Nat) =>
      if cx then (List.range 16).flatMap fun c =>
        let k := 32 * blk + 2 * c
        if n.val % 2 = 0 then [(x k, y k, false), (x (k + 1), y (k + 1), true)] else [(x k, y (k + 1), false), (x (k + 1), y k, false)]
      else (List.range 32).map fun c => (x (32 * blk + c), y (32 * blk + c), false)
    let xa := fun (blk : Nat) => a.scales.getD (2 * m.val + blk) 127
    let xb := fun (blk : Nat) => b.scales.getD (2 * row + blk) 127
    (mmaPass acc true cx a b).1.mode = .float ∧
    ∃ r1 r2 : Nat, BlockStepAdds (acc.get (64 * m.val + n.val)).toNat (terms 0) (xa 0) (xb 0) r1 ∧
      BlockStepAdds r1 (terms 1) (xa 1) (xb 1) r2 ∧ (mmaPass acc true cx a b).1.get (64 * m.val + n.val) = BitVec.ofNat 96 r2

/-- The passes of an MLT add to every column the products of the limbs that meet in it, modulo 2^96 (R90, R264). -/
def LimbPassesAdd : Prop :=
  ∀ (acc : Acc) (cb ta tb : Nat) (a b : List Nat) (c : Nat), a.length = 32 * ta → b.length = 32 * tb →
    sortedAbove (fun _ => 0) 0 acc.cells = true →
    let after := (List.range ((ta * tb + 255) / 256)).foldl (fun acc k => mltPass acc cb k a b) acc
    after.get c = acc.get c + BitVec.ofNat 96 ((List.range (32 * ta)).map fun x => ((List.range (32 * tb)).map fun y =>
      if c = cb + x + y then a.getD x 0 * b.getD y 0 else 0).sum).sum ∧
      sortedAbove (fun _ => 0) 0 after.cells = true

/-- What the passes of a matrix engine add: in EXACT mode, in FLOAT mode, and of limbs. -/
def Obligations.PassAddsProducts : Prop := ExactPassAdds ∧ FloatPassAdds ∧ LimbPassesAdd

/-- The engine events of a cluster's matrix engine and accumulator slots: a pass goes to the eligible entry that beats the others; an
entry whose turn finds the other mode is ACCMODE in every member; a joint operation whose passes are done is over; MACC moves its
image; the oldest request that can be granted takes the lowest free slots; and a spilled slot's contents go to its team's backing area
(R252, R256 to R269). The model's choices: the UFT that stands at issue is kept with the table entry (log entry 112), and a spilled slot is
restored from the copy that the team keeps beside the written image (log entry 55). -/
def Obligations.MatrixEvents : Prop :=
  (∀ (s : State) (e : TabEntry), (s.cluster s.arg.cl).table.find? (s.modeClash (s.cluster s.arg.cl)) = some e →
    exec .matrixPass s = .next (s.trapJoint s.arg.cl e { kind := .accmode, val := BitVec.ofNat 64 e.slot.val })) ∧
  (∀ (s : State) (e : TabEntry) (op : JointOp) (ms : List GroupId) (t : Team) (a b : OpMap) (r : PassOut),
    let cl := s.arg.cl
    let c := s.cluster cl
    (c.table.map TabEntry.index).Nodup → (∀ x ∈ c.table, s.modeClash c x = false) → s.engineAwake c = true → e ∈ c.table →
    s.eligible c e = true → (∀ x ∈ c.table, s.eligible c x = true → x ≠ e → e.beats x = true) → e.work = .joint op ms →
    s.team? e.team = some t → e.opMaps = [a, b] → passOf s t e op a b = .ok r →
      exec .matrixPass s = .next (((s.setCluster cl { c with
        table := c.table.map fun x =>
          if x.index = e.index then { x with passed := 0, passes := x.passes + 1, limbsA := r.limbsA, limbsB := r.limbsB }
          else if s.eligible c x then { x with passed := x.passed + 1 } else x
        lastPass := s.pack.time, awake := false }).setAcc t e.slot r.acc).setPixOf e (e.passes + 1) r.flags)) ∧
  (∀ (s : State) (e : TabEntry),
    let cl := s.arg.cl
    let c := s.cluster cl
    let request := fun (g : GroupId) (grp : Group) (k : AccKind) => s.maccReq g grp k e
    e ∈ c.table → e.index.val = s.arg.num → (∀ x ∈ c.table, x.index = e.index → x = e) → e.parked = false → s.turnOf c e = true →
    (∀ (op : JointOp) (ms : List GroupId), e.work = .joint op ms → op = .mlt ∨ op = .mma false ∨ op = .mma true →
      e.passes = e.total → exec .jointOpComplete s = .next (s.finishJoint cl e)) ∧
    (∀ (ms : List GroupId) (t : Team), e.work = .joint .zero ms → s.team? e.team = some t →
      exec .jointOpComplete s = .next ((s.setAcc t e.slot Acc.zero).finishJoint cl e)) ∧
    (∀ (t : Team) (g : GroupId) (ms : List GroupId) (grp : Group) (u : State) (ps : List Place),
      s.team? e.team = some t → s.group? g = some grp → e.work = .joint .store (g :: ms) →
      s.places (request g grp .store) e.sa.toNat 49280 = .ok (u, ps) → (u.accOf t e.slot).poison = [] →
        exec .maccComplete s =
          .next ((u.groupStore (request g grp .store) grp.launch ps (u.accOf t e.slot).image).finishJoint cl e)) ∧
    (∀ (t : Team) (g : GroupId) (ms : List GroupId) (grp : Group) (u : State) (ps : List Place),
      s.team? e.team = some t → s.group? g = some grp → e.work = .joint .load (g :: ms) →
      s.places (request g grp .load) e.sa.toNat 49280 = .ok (u, ps) → (∀ p ∈ ps, u.placePoison p = false) → ps.length = 49280 →
      (∀ acc, Acc.ofImage (u.readSince e.since 1 ps).1 [] = some acc →
        exec .maccComplete s = .next ((u.setAcc t e.slot acc).finishJoint cl e)) ∧
      (Acc.ofImage (u.readSince e.since 1 ps).1 [] = none →
        exec .maccComplete s = .next (u.trapJoint cl e { kind := .badrec, val := e.sa })))) ∧
  (∀ (s : State) (r : SlotReq) (rest : List SlotReq) (g : GroupId) (grp : Group),
    let cl := s.arg.cl
    let c := s.cluster cl
    c.requests = r :: rest → s.grantable c = true → r.op = none → r.g = some g → s.group? g = some grp →
    let js := (s.slotsFor c r.team).take r.count
    let given := (s.setCluster cl { c with requests := rest }).takeSlots cl r.team js true
    let rd := macqDest (grp.lead r.slices).waitWord.word
    exec .macqGrant s = .next (((given.setGroup g (grp.pin r.slices)).writeFor g r.slices rd ((slotMask js).zeroExtend 64)).complete
      g r.slices)) ∧
  (∀ (s : State) (t : Team) (j : Fin 8) (a : Nat),
    let cl := s.arg.cl
    let c := s.cluster cl
    let taken : Cluster :=
      { c with owner := c.owner.set j none, acc := c.acc.set j Acc.zero, below := c.below.set j (t.id :: c.below[j]) }
    let moved := (s.setCluster cl taken).setTeam { t with spilled := (j, c.acc[j]) :: t.spilled }
    s.spillChoice c = some (t, j) → t.backing = some a →
    exec .accSpill s = .next (moved.physWrite (deviceOf cl) (a + 49280 * j.val) (c.acc[j]).image))

/-! ### Generators -/

/-- The words that an EMIT appends. -/
def emittedWords (o : UEmit) (x : DWord) : List Word :=
  if o.pair then [BitVec.ofNat 32 x.toNat, BitVec.ofNat 32 (x.toNat / 2 ^ 32)] else [BitVec.ofNat 32 x.toNat]

/-- A word passes .chk: it is a data word, or it decodes, and at U is no privileged word (R159). -/
def PassesCheck (p : Priv) (data : Bool) (w : Word) : Prop :=
  data = true ∨ ((∃ i, decodeWords w 0 = .ok i) ∧ (p = .user → ¬ (2 ^ 31 ≤ w.toNat ∧ w.toNat / 2 ^ 24 % 64 = 0x1F)))

/-- EMIT appends its words to an open stream, each with its sidecar, where they fit; a static stream that is full is BERTHFULL, a tow
stream that is full makes .nb give up with c7 false, and else the Pilot wait, or take TOWFULL when every consumer waits at the write
position; a stream that is not open is EMITST (R48, R159, R300, R301, R304). -/
def EmitGives (o : UEmit) : Prop :=
  ∀ (s : State) (cl : ClusterId) (p : Pilot), PilotIssues s cl p → s.uniformReady [o.sa] [] →
    let x := s.readU o.sa
    let ws := emittedWords o x
    let e := s.stream cl o.k
    let isOpen := e.state = .static ∨ e.state = .tow
    let checked := o.chk = true → PassesCheck p.priv e.data (BitVec.ofNat 32 x.toNat) ∧
      (o.pair = true → PassesCheck p.priv (!e.data && isLiteral (x.toNat % 2 ^ 32)) (BitVec.ofNat 32 (x.toNat / 2 ^ 32)))
    let fits := if e.state = .static then e.count.toNat + ws.length ≤ e.capacity
      else s.retainedWords cl o.k + ws.length ≤ e.capacity
    let tells := fun (b : Bool) (t : State) => if o.nb then t.writeCond 7 b else t
    (isOpen → checked → fits →
      exec (.emit o) s = .next (tells true (s.setStream cl o.k (ws.foldl (fun e w => e.append o.k p.pc w) e))).advance) ∧
    (¬ isOpen → exec (.emit o) s = .next (s.generatorFault cl (emitTrap .emitst o.k e))) ∧
    (e.state = .static → checked → ¬ fits → exec (.emit o) s = .next (s.generatorFault cl (emitTrap .berthfull o.k e))) ∧
    (e.state = .tow → checked → ¬ fits → o.nb = true → exec (.emit o) s = .next (s.writeCond 7 false).advance) ∧
    (e.state = .tow → checked → ¬ fits → o.nb = false →
      (s.allAtWrite cl o.k = true → exec (.emit o) s = .next (s.generatorFault cl (emitTrap .towfull o.k e))) ∧
      (s.allAtWrite cl o.k = false → exec (.emit o) s = .next (s.setPilot cl { p with wait := .emit })))

/-- Generator words: EMIT; ESEAL closes an open stream to more words; ESYNC waits until every consumer has fetched every word; EOPEN
opens a stream with a capacity that fits the berth; EPOS reads where the next word stands; TIDE asks for bundles of a link, within its
floors. In a group all but TIDE are ILLEGAL, reason 2 (R48, R119, R157, R299 to R305). -/
def GeneratorResults : Prop :=
  (∀ o : UEmit, EmitGives o) ∧
  (∀ (o : UEStrm) (s : State) (cl : ClusterId) (p : Pilot), PilotIssues s cl p →
    let e := s.stream cl o.k
    (e.state = .static → exec (.eseal o) s = .next (s.setStream cl o.k { e with state := .sealed_ }).advance) ∧
    (e.state = .tow → exec (.eseal o) s = .next (s.setStream cl o.k { e with state := .ended }).advance) ∧
    (e.state ≠ .static → e.state ≠ .tow → exec (.eseal o) s = .next (s.generatorFault cl (emitTrap .emitst o.k e))) ∧
    (e.state = .closed ∨ s.allFetched cl o.k = true → exec (.esync o) s = .next s.advance) ∧
    (e.state ≠ .closed → s.allFetched cl o.k = false → exec (.esync o) s = .next (s.setPilot cl { p with wait := .esync o.k }))) ∧
  (∀ (o : UEopen) (s : State) (cl : ClusterId) (p : Pilot), PilotIssues s cl p → s.uniformReady [o.sa] [] →
    let n := (s.readU o.sa).toNat
    let e := s.stream cl o.k
    let roomy := n % 32 = 0 ∧ 32 ≤ n ∧ n + s.otherCapacity cl o.k ≤ 65536
    let fresh : EmitStream :=
      { state := if o.tow then .tow else .static, priv := p.priv, capacity := n, count := 0, data := false, words := [] }
    let shut := e.state ≠ .static ∧ e.state ≠ .tow
    (shut → roomy → e.state = .closed → exec (.eopen o) s = .next (s.setStream cl o.k fresh).advance) ∧
    (shut → roomy → e.state ≠ .closed → s.allFetched cl o.k = true →
      exec (.eopen o) s = .next ((s.dropMarks cl o.k).setStream cl o.k fresh).advance) ∧
    (shut → roomy → e.state ≠ .closed → s.allFetched cl o.k = false →
      exec (.eopen o) s = .next (s.setPilot cl { p with wait := .esync o.k })) ∧
    (shut → ¬ roomy → exec (.eopen o) s = .next (s.generatorFault cl (emitTrap .berthfull o.k e))) ∧
    (¬ shut → exec (.eopen o) s = .next (s.generatorFault cl (emitTrap .emitst o.k e)))) ∧
  (∀ (o : UEpos) (s : State) (cl : ClusterId) (p : Pilot), PilotIssues s cl p → p.awaits [o.sd] = false →
    let e := s.stream cl o.k
    exec (.epos o) s = .next (s.writeUniform o.sd (if e.state = .closed then 0
      else dwordOf ((o.k.val * 2 ^ 20 + 4 * (e.count.toNat % 2 ^ 18)) * 2 ^ 32 + e.count.toNat : Nat))).advance) ∧
  (∀ (o : UTide) (s : State), s.uniformReady [o.sa] [] →
    let n := (s.readU o.sa).toNat
    let all := if o.l = 0 then 64 else if o.l = 3 then 16 else 32
    let c := s.ctx s.accessor.ld s.accessor.asn
    let rest := c.tides.filter fun t => t.link ≠ o.l
    (s.pack.safe = true → exec (.tide o) s = .next s.advance) ∧
    (s.pack.safe = false → n = 0 →
      exec (.tide o) s = .next (s.setCtx s.accessor.ld s.accessor.asn { c with tides := rest }).advance) ∧
    (s.pack.safe = false → n ≠ 0 → exec (.tide o) s = .next (s.setCtx s.accessor.ld s.accessor.asn { c with
      tides := ⟨o.l, max (all / 8) (min (all - all / 8) n)⟩ :: rest }).advance)) ∧
  (∀ (em : UEmit) (st : UEStrm) (op : UEopen) (po : UEpos) (i : Instr) (s : State) (g : GroupId) (slices : BitVec 8) (grp : Group),
    i ∈ [Instr.emit em, .eseal st, .esync st, .eopen op, .epos po] → Issues s g slices grp →
      Traps i s g slices { kind := .illegal, reason := 2 })

/-- EMIT_RESUME wakes a Pilot whose words have come to fit, or faults it with TOWFULL; ESYNC_COMPLETE wakes one whose stream has been
fetched to its end (R48, R300, R302). -/
def GeneratorEvents : Prop :=
  (∀ (s : State) (p : Pilot), (s.cluster s.arg.cl).pilot = p → p.wait = .emit →
    let cl := s.arg.cl
    let k := s.emitStream cl
    let fits := s.retainedWords cl k + s.emitWords cl ≤ (s.stream cl k).capacity
    (fits → exec .emitResume s = .next (s.setPilot cl { p with wait := .ready })) ∧
    (¬ fits → s.allAtWrite cl k = true →
      exec .emitResume s = .next (s.pilotTrap cl (emitTrap .towfull k (s.stream cl k)))) ∧
    (¬ fits → s.allAtWrite cl k = false → exec .emitResume s = .next s)) ∧
  (∀ (s : State) (p : Pilot) (k : Fin 16), (s.cluster s.arg.cl).pilot = p → p.wait = .esync k →
    (s.allFetched s.arg.cl k = true → exec .esyncComplete s = .next (s.setPilot s.arg.cl { p with wait := .ready })) ∧
    (s.allFetched s.arg.cl k = false → exec .esyncComplete s = .next s))

/-! ### The ends of waits -/

/-- WIDE_SEQUENCED_COMPLETE: the oldest word in a core's sequencer that is not stopped leaves it, its results are written with its flags
when none of them is enabled, and its group continues past the word; CRES resolves its columns then, and clears them when ZERO is 1 (R199
to R203, R217, R218). -/
def SequencerCompletion : Prop :=
  ∀ (s : State) (w : WideSeq) (rest : List WideSeq) (grp : Group),
    ((s.cluster (clusterOfCore s.arg.core)).seqs[coreIndex s.arg.core]).filter (fun w => !w.stopped) = w :: rest →
    s.group? w.g = some grp →
    let s0 : State := { s.mapSeqs w.g (fun q => q.filter fun x => x != w) with
      cur := some (.gang w.g 0xFF), fetched := (grp.lead 0xFF).waitWord }
    let plain := fun (out : WideOut) => ∀ e ∈ out.writes, ∀ i, i < e.2.1 → grp.streamOf (e.1 + i) = none
    let done := fun (t : State) (out : WideOut) => t.doneWith w.g 0xFF ((grp.afterWide 0xFF out).wake 0xFF)
    ((∀ o, w.instr ≠ .cres o) → (sequencedOut w.instr w.vals).allFlags &&& w.enables = 0 → plain (sequencedOut w.instr w.vals) →
      exec .wideSequencedComplete s = .next (done s0 (sequencedOut w.instr w.vals))) ∧
    (∀ (o : WCres) (t : Team), w.instr = .cres o → w.vals = [] → s.team? grp.team = some t → s.cresWaits w.g t o.j = false →
      let a := s0.accOf t o.j
      let out : WideOut := { writes := [(o.vd.val, spanLen o.w, resolve a (cresBase w.s) (cresCount w.s))] }
      (∀ i, i < cresCount w.s → cresBase w.s + i ∉ a.poison) → plain out →
        exec .wideSequencedComplete s = .next (done (if cresZero w.s then s0.setAcc t o.j { a with
          cells := a.cells.filter fun e => !decide (cresBase w.s ≤ e.1 ∧ e.1 < cresBase w.s + cresCount w.s) } else s0) out))

/-- Waits that end: SSTEP_RELEASE lets a whole grid go on together, after an odd step once its engine operations are over and observed;
QUEUE_REQUEST_SERVED lets the oldest request that can be served issue its word again; PUBL_EXCHANGE swaps the copies of a buffer once
nothing of the group writes it and the stores to exported lines are acknowledged; LEASEW_RETURN and IDLE_WAKE complete their words;
LOAD_RESULT_ARRIVAL delivers the oldest result still to come (R26, R42, R43, R139, R141, R152, R295, R298, R332, R367). -/
def WaitEvents : Prop :=
  (∀ (s : State) (l : Launch), s.launch? s.arg.num = some l → s.gridArrived l = true →
    (l.step % 2 = 0 ∨ (s.gridDrained l = true ∧ s.gridRefused l = none) →
      exec .sstepRelease s = .next (l.arrived.foldl (fun t g => match t.group? g with
        | some grp => (if l.step % 2 = 0 then t else t.observe g fun _ => true).complete g (grp.waiting .superstep)
        | none => t) (s.setLaunch { l with step := l.step + 1, arrived := [] }))) ∧
    (l.step % 2 = 1 → s.gridDrained l = false → exec .sstepRelease s = .next s)) ∧
  (∀ (s : State) (w : QWaiter) (grp : Group),
    ((s.cluster s.arg.cl).queues[s.arg.queue]).waiters.find? (fun w => (s.cluster s.arg.cl).serves w && s.stalls w) = some w → s.group? w.g = some grp →
      exec .queueRequestServed s = .next (s.setGroup w.g { grp with
        slices := Vector.ofFn fun (i : Fin 8) =>
          if maskHas w.slices i.val = true ∧ (∃ q, grp.slices[i].wait = .queue q) then { grp.slices[i] with wait := .again w.slices }
          else grp.slices[i] })) ∧
  (∀ (s : State) (grp : Group) (page n : Nat) (i : Fin 64) (j : Fin 8), s.group? s.arg.g = some grp →
    grp.slices[j].wait = .publish page n → (∀ k : Fin 8, k < j → ∀ p m, grp.slices[k].wait ≠ .publish p m) →
    let ld := deviceOfGroup s.arg.g
    let b := s.devices[ld].pbuf[i]
    s.pubAt ld (s.asnOf grp.launch) page = some i → s.writesPending s.arg.g grp (page * 2 ^ 16) (b.count * 2 ^ 16) = false →
    s.unacknowledged = false →
      let seen : State := { s with
        unseen := s.unseen.filter fun u => !(u.g == s.arg.g && u.op != retiredMark && s.inHidden ld b u.loc)
        past := s.past.filter fun e => !s.inHidden ld b e.loc }
      exec .publExchange s = .next ((seen.setDev ld { s.devices[ld] with pbuf := s.devices[ld].pbuf.set i { b with sel := !b.sel } }).complete
        s.arg.g (grp.waiting (.publish page n)))) ∧
  (∀ (s : State) (grp : Group) (m : BitVec 8), s.group? s.arg.g = some grp → m ≠ 0 →
    let gang := grp.lowestGang ((List.finRange 8).filter fun i => maskHas m i.val) &&& m
    let ld := deviceOfGroup s.arg.g
    let asn := s.asnOf grp.launch
    (m = grp.idleDone s.pack.time → exec .idleWake s = .next (s.complete s.arg.g gang)) ∧
    (m = grp.leaseDone s.pack.time → (∀ p ∈ s.devices[ld].purges, p.by_ = asn → p.busy = false) →
      exec .leasewReturn s = .next ((s.setDev ld { s.devices[ld] with
        purges := s.devices[ld].purges.filter fun p => p.by_ ≠ asn }).complete s.arg.g gang))) ∧
  (∀ (s : State) (grp : Group) (f : InFlight), s.arg.flag = false → s.group? s.arg.g = some grp →
    grp.inflight.find? InFlight.awaitsArrival = some f →
      exec .loadResultArrival s = .next ((s.arrivePush s.arg.g f).setGroup s.arg.g
        { grp.arrive s.fresh f with inflight := afterArrival s.fresh f grp.inflight })) ∧
  (∀ (s : State) (p : Pilot) (f : InFlight), s.arg.flag = true → (s.cluster s.arg.cl).pilot = p →
    p.inflight.find? InFlight.awaitsArrival = some f →
      exec .loadResultArrival s = .next (s.setPilot s.arg.cl
        { p.arrive s.fresh f with inflight := afterArrival s.fresh f p.inflight }))

/-- ISSUE_ARBITRATION: a core whose slot is free chooses among its candidates the one that beats all before it in slot
order and that none after it beats: a candidate passed 32 times or more before the rest, the most often passed first, then the higher
class, then the older (R31 to R33). The slot is then its run's, and its pass count is 0. -/
def Obligations.IssueArbitration : Prop :=
  ∀ (s : State), s.run s.arg.core = none →
    let c := s.arg.core
    let t := s.settleStops c
    let counted := t.mapCore c fun g grp => { grp with
      slices := Vector.ofFn fun (i : Fin 8) => { grp.slices[i] with passed := passedAfter (t.candidates c) (winner (t.candidates c)) g i grp.slices[i].passed } }
    (t.candidates c = [] → exec .issueArbitration s = .next counted) ∧
    (∀ (x : Candidate) (before after : List Candidate), t.candidates c = before ++ x :: after →
      (∀ y ∈ before, x.beats y = true) → (∀ y ∈ after, y.beats x = false) →
      exec .issueArbitration s = .next (counted.setRun c (some ⟨x.g, x.slices, 0⟩)))

/-! ### Faults and their answers -/

/-- A command of FBCMD on a live record that it suits: the record is gone, and `after` is the rest; while the record's context is being
stopped the command is held; a command that no live, saved or frozen record suits sets BADCMD and changes nothing else; a function that is
not presented takes no command (R8, R341, R369, R408, R431, R432). -/
def FaultCommandGives (i : Instr) (op : Nat) (after : State → FaultRec → State) : Prop :=
  ∀ s : State,
    let ld := s.arg.ld
    let d := s.devices[ld]
    let seq : Word := BitVec.ofNat 32 s.arg.num
    (s.serves ld = false → exec i s = .next s) ∧ (s.serves ld = true →
    (∀ r, d.faults.find? (fun r => r.seq == some seq && suits op r) = some r → (s.ctx ld r.asn).state ≠ .stopping →
      exec i s = .next (after (s.setDev ld { d with faults := d.faults.filter fun x => x.seq ≠ some seq }) r)) ∧
    (∀ r, d.faults.find? (fun r => r.seq == some seq && suits op r) = some r → (s.ctx ld r.asn).state = .stopping →
      exec i s = .next (s.setDev ld { d with faults := holdCommand seq op d.faults })) ∧
    ((∀ r ∈ d.faults, ¬ (r.seq = some seq ∧ suits op r = true)) → s.savedRecord ld op seq = none →
      exec i s = .next (s.setDev ld { d with fbBad := true })))

/-- REPLAY lets what waits issue its access again: a parked gang, before any other word of its group, an engine operation, a MACC's entry, a Pilot's access. REFUSE makes a
parked gang take XLATE for the lanes that were not done when its word was parked, and completes an engine operation FAILED with kind
XLATE. GRESUME and GSKIP let a generator go on at its faulting word or after it, or with and without the access that was refused, GCANCEL
cancels its launch (R340, R341, R347, R443). -/
def Obligations.FaultAnswers : Prop :=
  FaultCommandGives .replay 0 (fun s r => s.replay r) ∧ FaultCommandGives .refuse 1 (fun s r => s.refuse r) ∧
  FaultCommandGives .gresume 2 (fun s r => s.answer 2 r) ∧ FaultCommandGives .gskip 3 (fun s r => s.answer 3 r) ∧
  FaultCommandGives .gcancel 4 (fun s r => s.answer 4 r) ∧
  (∀ (s : State) (r : FaultRec) (g : GroupId) (slices : BitVec 8) (grp : Group), r.owner = .group g slices → s.group? g = some grp →
    s.replay r = s.setGroup g { grp with
      slices := Vector.ofFn fun (i : Fin 8) =>
        if maskHas slices i.val = true ∧ grp.slices[i].wait = .parked then { grp.slices[i] with wait := .replay slices }
        else grp.slices[i] } ∧
    s.refuse r = (s.unreserveFor g slices).trapWaiting g slices
      { kind := .xlate
        lanes := if 2 ^ 31 ≤ (grp.lead slices).waitWord.word.toNat then 0
          else (grp.progressOf slices).left
        val := dwordOf ((dw r.dwords 1) % 2 ^ 48 : Nat) }) ∧
  (∀ (s : State) (r : FaultRec) (o : EngineOp), r.owner = .engine o.id → o ∈ s.ops → (∀ x ∈ s.ops, x.id = o.id → x = o) →
    s.replay r = { s with ops := s.ops.map fun x => if x = o then { o with parked := false } else x } ∧
    (o.kind ≠ .stow → s.refuse r = s.finishOp o (dwordOf (2 ^ 62 + 2 * 2 ^ 56)))) ∧
  (∀ (s : State) (r : FaultRec) (cl : ClusterId) (p : Pilot), (s.cluster cl).pilot = p →
    (∀ n, r.owner = .pilot cl n →
      let turned := fun (x : AccessState) => p.accesses.map fun (a : PilotAccess) => if a.id = n then { a with state := x } else a
      s.replay r = s.setPilot cl { p with accesses := turned .again } ∧ s.refuse r = s.setPilot cl { p with accesses := turned .refused }) ∧
    (r.owner = .generator cl →
      ((∃ a ∈ p.accesses, a.state = .faulted) →
        s.answer 2 r = s.setPilot cl { p with
          fault := none, accesses := p.accesses.map fun (a : PilotAccess) => if a.state = .faulted then { a with state := .again } else a } ∧
        s.answer 3 r = s.setPilot cl { p with fault := none, accesses := p.accesses.filter fun a => decide (a.state ≠ .faulted) }) ∧
      ((∀ a ∈ p.accesses, a.state ≠ .faulted) →
        s.answer 2 r = s.setPilot cl { p with fault := none } ∧
        s.answer 3 r = s.setPilot cl { p.advance (isLiteral (s.pilotFetch cl p.pc).word.toNat) with fault := none }) ∧
      s.answer 4 r = s.cancelLaunch p.launch))

/-- FAULT_ENTRY_WRITE writes the oldest unwritten record at the head while there is room, and with none drops an error record and counts
it; PURGE takes up a range of pages, at most eight at a time, and PURGE_COMPLETE empties the caches of the oldest range, and finishes it
unless a write-back of it awaits an answer; LEASE_EXPIRE ends the leases whose time has come; PEER_INVALIDATE takes a line's copies from
a sharer, which so acknowledges its invalidations; HOST_SNOOP makes the part give up a host line under CXL.cache; errors become latent or
poison, and SCRUB_GRANULE poisons a latent granule and records it, an event that is due once SCRUBPER seconds have gone by (R70, R364, R366, R369, R370, R375 to R379, R424). -/
def MemorySystemEvents : Prop :=
  (∀ (s : State) (r : FaultRec) (x : DWord) (xs : List DWord),
    let ld := s.arg.ld
    let d := s.devices[ld]
    let dwords := BitVec.ofNat 64 (d.fbHead.toNat * 2 ^ 32 + x.toNat % 2 ^ 32) :: xs
    d.fbRoom = true → d.faults.find? (fun r => r.seq.isNone) = some r → r.dwords = x :: xs →
    let t := s.physWrite ld (d.fbBase.toNat + 64 * (d.fbHead.toNat % 2 ^ d.fbCfg.toNat)) (dwords.flatMap fun x => toBytes 8 x.toNat)
    let keep := fun (r : FaultRec) => if 5 ≤ r.type.val then none else some { r with seq := some d.fbHead, dwords := dwords }
    exec .faultEntryWrite s = .next (((t.setDev ld { t.devices[ld] with
      fbHead := d.fbHead + 1, faults := dropUnwritten keep (fun r => r.seq.isNone) t.devices[ld].faults }).noteEntry r d.fbHead).rouse
        ld r.asn)) ∧
  (∀ s : State,
    let ld := s.arg.ld
    let d := s.devices[ld]
    d.fbRoom = false → (∃ r ∈ d.faults, r.seq = none ∧ r.type = 6) →
      exec .faultEntryWrite s = .next (s.setDev ld { d with
        errLost := d.errLost + 1, faults := dropUnwritten (fun _ => none) (fun r => r.seq.isNone && r.type == 6) d.faults })) ∧
  (∀ s : State,
    let ld := s.arg.ld
    let d := s.devices[ld]
    let x := s.arg.value.toNat
    let n := x % 2 ^ 32
    let go := s.serves ld = true ∧ 2 ^ 63 ≤ x ∧ 1 ≤ n ∧ n ≤ 2 ^ 31
    (go → d.purges.length < 8 → exec .purge s = .next (s.setDev ld { d with
      pgFull := false, purges := d.purges ++ [⟨BitVec.ofNat 12 s.arg.num, BitVec.ofNat 12 (x / 2 ^ 32), d.pgva.toNat / 2 ^ 16, n, true⟩] })) ∧
    (go → 8 ≤ d.purges.length → exec .purge s = .next (s.setDev ld { d with pgFull := true })) ∧ (¬ go → exec .purge s = .next s)) ∧
  (∀ (s : State) (before after : List Purge) (p : Purge),
    let ld := s.arg.ld
    let u := s.purgeRange ld p
    s.devices[ld].purges = before ++ p :: after → p.busy = true → (∀ q ∈ before, q.busy = false) → p ∉ after →
      u.pins = s.pins.filter (fun x => !(x.ld == ld && p.covers x.asn x.page)) ∧
      (∀ l ∈ u.lines, p.holds ld l = true → l.parked = true) ∧
      ((∀ l ∈ u.lines, p.holds ld l = false) → exec .purgeComplete s = .next (u.setDev ld { u.devices[ld] with
        purges := before ++ { p with busy := false } :: after })) ∧
      ((∃ l ∈ u.lines, p.holds ld l = true) → exec .purgeComplete s = .next u)) ∧
  (∀ s : State, exec .leaseExpire s = .next { s with leases := s.leases.filter fun l => decide (s.pack.time < l.expires) }) ∧
  (∀ s : State, let d : Fin 5 := if s.arg.flag then 4 else sharerOf s.arg.ld .l2
    ∃ t, exec .peerInvalidate s = .next t ∧ t = { s with peers := t.peers, lines := t.lines, invals := t.invals } ∧
    (∀ p : PeerLine, p ∈ t.peers ↔ p.sharers ≠ [] ∧ ∃ q ∈ s.peers,
      p = if q.line = s.arg.num then { q with sharers := q.sharers.filter fun x => x ≠ d } else q) ∧
    (∀ l : CacheLine, l ∈ t.lines ↔ l ∈ s.lines ∧ ¬ (l.imported = true ∧ l.loc / 128 = s.arg.num ∧
      (if d = 4 then l.level = .basin else l.level = .l2 ∧ l.ld.val = d.val))) ∧
    ∀ i : Invalidation, i ∈ t.invals ↔ i ∈ s.invals ∧ ¬ (i.line = s.arg.num ∧ i.sharer = d)) ∧
  (∀ s : State, (s.pack.cxl = false → exec .hostSnoop s = .next s) ∧ (s.pack.cxl = true → ∃ t, exec .hostSnoop s = .next t ∧
    t.groups = s.groups ∧ t.clusters = s.clusters ∧ t.ctxs = s.ctxs ∧
    ∀ l ∈ t.lines, l.isHost = true → l.loc / 128 = hostLoc (128 * s.arg.num) / 128 → l.parked = true)) ∧
  (∀ s : State, (s.arg.num ∈ s.pack.latent → ∃ t, exec .scrubGranule s = .next t ∧ s.arg.num ∈ t.poison ∧ s.arg.num ∉ t.pack.latent ∧
    t.mem = s.mem) ∧ (s.arg.num ∉ s.pack.latent → exec .scrubGranule s = .next s)) ∧
  (∀ (s : State) (n : Nat), s.arg.site = .hbm n → n < 2 ^ 34 → n ∉ s.poison →
    exec .uncorrectableError s = .next { s with pack := { s.pack with
      latent := insertNat n s.pack.latent
      suspects := (n, s.pack.time) :: s.pack.suspects.filter fun e => e.1 ≠ n && s.pack.latent.contains e.1 } }) ∧
  (∀ (s : State) (e : Nat × Nat), e ∈ s.pack.suspects → e.1 ∈ s.pack.latent →
    e.2 + s.pack.scrubPer.toNat * 1000000000 ≤ s.pack.time → (Instr.scrubGranule, aboutNumber e.1) ∈ s.scrubEvents) ∧
  (∀ (s : State) (g : GroupId) (grp : Group), s.group? g = some grp →
    (∀ (v : Fin 96) (lanes : LaneMask), s.arg.site = .vreg g v lanes →
      exec .uncorrectableError s = .next (s.setGroup g { grp with vpoison := (v.val, lanes) :: grp.vpoison })) ∧
    (∀ r : Fin 64, s.arg.site = .sreg g r →
      exec .uncorrectableError s = .next (s.setGroup g { grp with spoison := r :: grp.spoison })))

/-- CONTROLLER_ACCESS: a cache gives up a line of its own accord: a clean one is dropped, a changed one that no lower cache takes is
written back to memory by whole granules, and one whose write-back translation refuses is parked with a record of type 3; an access of
another package through a token with the right, within its export, is translated under it and performed, and in safe harbour not served;
under CXL.mem the host writes the frames of HDM's range (R102, R105, R136, R360, R361, R366, R369, R417, R422, R424). -/
def ArrivingAccesses : Prop :=
  (∀ s : State, s.arg.num < 4096 →
    let level := cacheLevel s.arg.queue.val s.arg.core
    let tag := (s.arg.ld, (BitVec.ofNat 12 s.arg.num : Asn), s.arg.value.toNat % 2 ^ 48)
    (s.lineAt level tag = none → exec .controllerAccess s = .next s) ∧
    (∀ l, s.lineAt level tag = some l → l.parked = true → exec .controllerAccess s = .next s) ∧
    (∀ l, s.lineAt level tag = some l → l.parked = false →
      let u : State := { s with lines := s.lines.filter fun x => x != l }
      (l.dirty = 0 ∨ l.imported = true → exec .controllerAccess s = .next u) ∧
      (l.dirty ≠ 0 → l.imported = false → (level = .l2 → u.lineAt .basin (l.ld, l.asn, 128 * l.line) = none) →
        (∀ why, u.backTo l = .error why → exec .controllerAccess s = .next (u.parkLine l why)) ∧
        (∀ loc, u.backTo l = .ok loc → Memory.wf s.mem = true → s.poison = [] → s.pack.retired = [] → s.pack.latent = [] →
          ∃ t, exec .controllerAccess s = .next t ∧ t.lines = u.lines ∧ t.groups = s.groups ∧
            ∀ a, Memory.read t.mem a =
              if loc ≤ a ∧ a < loc + 128 ∧ ∃ i, i < 128 ∧ i / 32 = (a - loc) / 32 ∧ l.dirty.getLsbD i = true then l.bytes.getD (a - loc) 0
              else Memory.read s.mem a)))) ∧
  (∀ (s t : State) (ld : Fin 4) (e : ExportEntry) (ps : List Place), 4096 ≤ s.arg.num → s.arg.queue ≠ 31 →
    s.exportFor s.arg.value = some (ld, e) →
    let a := outerAct s.arg.queue.val s.arg.flag
    let bs := s.arg.bytes
    let k := a.kind
    let n := a.size bs.length
    let r : Req := { ld := ld, asn := e.asn, priv := .user, kind := k, foreign := true
                     uft := some (BitVec.ofNat 8 (Config.freeNat s.fresh (2 ^ 98))) }
    let off := s.arg.num - 4096
    let va := e.base.toNat + off
    (s.pack.safe = true → exec .controllerAccess s = .next s) ∧
    (s.pack.safe = false → e.rights &&& rightsNeeded k = rightsNeeded k → (s.ctx ld e.asn).state ≠ .frozen → off + n ≤ e.size.toNat →
     s.places r va n = .ok (t, ps) →
      (a = .load → exec .controllerAccess s = .next t) ∧
      (a = .store → exec .controllerAccess s = .next (t.writePlaces r ps bs)) ∧
      ∀ op w64, a = .atomic op w64 → va % n = 0 → t.unsupported r va op ps = false → (t.readAtomic ps).2 = none →
        exec .controllerAccess s = .next (t.writePlaces r ps (toBytes n (atomValue op w64 (ofBytes (ps.map t.atomicByte))
          (ofBytes (bs.take n)) (ofBytes (bs.drop n))))))) ∧
  (∀ s : State, 4096 ≤ s.arg.num → s.arg.queue = 31 →
    let hdm := s.devices[s.arg.ld].hdm.toNat
    let off := s.arg.num - 4096
    (s.pack.cxl = false → exec .controllerAccess s = .next s) ∧
    (s.pack.cxl = true → s.arg.flag = true → off + s.arg.bytes.length ≤ hdm / 2 ^ 40 % 2 ^ 24 * 2 ^ 16 →
      exec .controllerAccess s = .next (s.physWrite s.arg.ld (hdm / 2 ^ 16 % 2 ^ 24 * 2 ^ 16 + off) s.arg.bytes)))

/-! ### The debugger -/

/-- Debugger commands, which a function that is presented takes. ATTACH and DETACH change the selected target's context; DBG_STOP stops slices between instructions or in a wait at
once, and those in a run or in a joint operation under way at their boundary; DBG_RESUME lets them go on; STEPI and STEPR need a stopped
target; DBG_REGRD and DBG_REGWR read and write a register of one, and a register that a parked access will still write is BUSY without
FORCE. A selection that names nothing is BADSEL (R8, R349 to R353, R431, R432). That STEPI and STEPR of a target that is not stopped answer
NOTSTOPPED is the model's choice (log entry 136), as is what a STEPR of a Pilot runs (log entry 76). -/
def Obligations.DebugCommands : Prop :=
  (∀ (s : State) (i : Instr), i ∈ [Instr.attach, .detach, .dbgStop, .dbgResume, .stepi, .stepr, .dbgRegrd, .dbgRegwr] →
    (s.serves s.arg.ld = false → exec i s = .next s) ∧
    (s.serves s.arg.ld = true → s.target s.arg.ld = none →
      exec i s = .next (s.setDev s.arg.ld { s.devices[s.arg.ld] with dbgResult := 3 }))) ∧
  (∀ (s : State) (t : Target), s.serves s.arg.ld = true → s.target s.arg.ld = some t →
    let ld := s.arg.ld
    let asn : Asn := BitVec.ofNat 12 (s.devices[ld].dbgSel.toNat / 2 ^ 32)
    let tells := fun (b : Bool) => (s.setCtx ld asn { s.ctx ld asn with attached := b }).setDev ld { s.devices[ld] with dbgResult := 0 }
    exec .attach s = .next (tells true) ∧ exec .detach s = .next (tells false)) ∧
  (∀ (s : State) (g : GroupId) (grp : Group),
    let ld := s.arg.ld
    let d := s.devices[ld]
    let ok := fun (t : State) => t.setDev ld { t.devices[ld] with dbgResult := 0 }
    let byte : BitVec 8 := BitVec.ofNat 8 (d.dbgSel.toNat / 2 ^ 8)
    let named := if byte = 0 then 0xFF else byte
    let ready := named &&& grp.present ≠ 0 ∧ ∀ i : Fin 8, maskHas named i.val = true → grp.slices[i].exited = true ∨ grp.slices[i].why ≠ 0
    s.serves ld = true → s.target ld = some (.group g) → s.group? g = some grp →
    (grp.inflight = [] → (∀ w ∈ (s.cluster (clusterOf g)).seqs[coreIndex (coreOf g)], w.g ≠ g) →
      exec .dbgStop s = .next (ok (s.setGroup g { grp with
        slices := Vector.ofFn fun (i : Fin 8) =>
          let sl := grp.slices[i]
          if sl.exited = true ∨ sl.why ≠ 0 then sl
          else if maskHas (s.running g) i.val = true ∨ (s.jointBegun g = true ∧ sl.wait = .latch) then { sl with dbg := .stop }
          else { sl with why := 1, dbg := .none } }))) ∧
    exec .dbgResume s = .next (ok (s.resumeGroup g)) ∧
    (ready →
      exec .stepi s = .next (ok ((s.setGroup g (grp.mapSlices (named &&& grp.present) fun sl => sl.step .stepI)).resumeSeq g)) ∧
      exec .stepr s = .next (ok ((s.setGroup g (grp.mapSlices (named &&& grp.present) fun sl => sl.step .stepR)).resumeSeq g))) ∧
    (¬ ready →
      exec .stepi s = .next (s.setDev ld { d with dbgResult := 2 }) ∧ exec .stepr s = .next (s.setDev ld { d with dbgResult := 2 })) ∧
    (grp.stopped grp.present = false →
      exec .dbgRegrd s = .next (s.setDev ld { d with dbgResult := 2 }) ∧ exec .dbgRegwr s = .next (s.setDev ld { d with dbgResult := 2 }))) ∧
  (∀ (s : State) (g : GroupId) (grp : Group),
    let ld := s.arg.ld
    let d := s.devices[ld]
    let x := d.dbgReg.toNat
    let cls := x / 2 ^ 12 % 2 ^ 4
    let n := x % 2 ^ 12
    let lane : Fin 32 := Fin.ofNat 32 (x / 2 ^ 16 % 2 ^ 5)
    let place := vIndex (grp.slices[(⟨lane.val / 4, by omega⟩ : Fin 8)]).loops.length n
    let gives := fun (v : DWord) => exec .dbgRegrd s = .next (s.setDev ld { d with dbgData := v, dbgResult := 0 })
    let takes := fun (grp' : Group) => exec .dbgRegwr s = .next ((s.setGroup g grp').setDev ld { d with dbgResult := 0 })
    let flag := fun (b : Bool) => if b then (1 : DWord) else 0
    let low := d.dbgData.getLsbD 0
    s.serves ld = true → s.target ld = some (.group g) → s.group? g = some grp → grp.stopped grp.present = true →
    (cls = 0 → n < 64 → place < 96 → gives ((laneReg grp.v place)[lane].zeroExtend 64) ∧
      (place ∉ grp.pending →
        takes (grp.writeV place (BitVec.ofNat 32 (2 ^ lane.val)) (Vector.replicate 32 (BitVec.ofNat 32 d.dbgData.toNat)))) ∧
      (place ∈ grp.pending → s.arg.flag = false → exec .dbgRegwr s = .next (s.setDev ld { d with dbgResult := 1 }))) ∧
    (∀ r : Fin 64, cls = 1 → n = r.val → gives (grp.u.get r) ∧ (96 + n ∉ grp.pending → takes (grp.writeS r d.dbgData))) ∧
    (∀ k : Fin 8, cls = 2 → n = k.val → gives (flag (maskHas (grp.pred k) lane.val)) ∧
      takes (grp.setPred k (BitVec.ofNat 32 (2 ^ lane.val)) (if low then BitVec.allOnes 32 else 0))) ∧
    (∀ k : Fin 8, cls = 3 → n = k.val → gives (flag (grp.u.cond k)) ∧ takes { grp with u := grp.u.setCond k low })) ∧
  (∀ (s : State) (cl : ClusterId) (p : Pilot),
    let ld := s.arg.ld
    let ok := fun (t : State) => t.setDev ld { t.devices[ld] with dbgResult := 0 }
    s.serves ld = true → s.target ld = some (.pilot cl) → (s.cluster cl).pilot = p →
    (p.why = 0 → exec .dbgStop s = .next (ok (s.setPilot cl { p.arriveAll s.fresh with why := 1, dbg := .none }))) ∧
    exec .dbgResume s = .next (ok (s.setPilot cl { p with why := 0, dbg := .none })) ∧
    (p.why ≠ 0 → exec .stepi s = .next (ok (s.setPilot cl { p with why := 0, dbg := .stepI })) ∧
      exec .stepr s = .next (ok (s.setPilot cl { p with why := 0, dbg := .stepR }))))

/-! ### Queues and dispatch -/

/-- Rings: a doorbell at or above WPOS moves it, and one below is ignored, as are a doorbell and an RLOAD of a function that is not
presented; RLOAD takes a well-formed entry of a ring with no unit left, and sets BADCMD otherwise (log entry 30); a finished segment goes
to the free list once it has room (R8, R380, R381, R383, R399, R431, R432). -/
def RingEvents : Prop :=
  (∀ (s : State) (x : Ring),
    let ld := s.arg.ld
    let r := s.arg.ring
    s.ring ld r.val = some x → x.en = true →
    (s.serves ld = true → x.wpos ≤ s.arg.value.toNat →
      exec .doorbell s = .next (s.setRing ld r.val { x with wpos := s.arg.value.toNat })) ∧
    (s.arg.value.toNat < x.wpos ∨ s.serves ld = false → exec .doorbell s = .next s)) ∧
  (∀ s : State, s.serves s.arg.ld = false → exec .rload s = .next s) ∧
  (∀ (s : State) (d0 d1 d2 d3 : DWord), s.serves s.arg.ld = true →
    let ld := s.arg.ld
    let r := s.arg.ring
    let at_ := s.devices[ld].rtBase.toNat + 32 * r.val
    let units := d0.toNat % 2 ^ 32
    let base := d1.toNat / 2 ^ 6 * 2 ^ 6
    let sound := d0.toNat / 2 ^ 37 % 2 ^ 26 = 0 ∧ 2 ≤ units ∧ units ≤ 2 ^ 24 ∧ d1.toNat % 2 ^ 6 = 0 ∧ d2.toNat < 2 ^ 48 ∧ d3.toNat < 2 ^ 48
    let fresh : Ring :=
      { en := decide (2 ^ 63 ≤ d0.toNat), queue := Fin.ofNat 32 (d0.toNat / 2 ^ 32 % 2 ^ 5), segUnits := units, segBase := base,
        rpos := 0, segStart := 0, wpos := 0, barrier := false }
    let took := fun (x : Ring) => (s.setRing ld r.val x).hostWrite (at_ + 16) (toBytes 8 x.rpos ++ toBytes 8 x.segStart)
    dwordsOf (s.hostRead at_ 32) = [d0, d1, d2, d3] →
    (sound → (s.ring ld r.val = none ∨ ∃ o, s.ring ld r.val = some o ∧ o.en = false ∧ o.wpos ≤ o.rpos) →
      exec .rload s = .next (took fresh)) ∧
    (∀ o, s.ring ld r.val = some o →
      (sound → o.en = true → o.wpos ≤ o.rpos → o.segBase = base → o.segUnits = units →
        exec .rload s = .next (took { fresh with rpos := o.rpos, wpos := o.wpos, segStart := o.segStart })) ∧
      (o.rpos < o.wpos → exec .rload s = .next (s.setDev ld { s.devices[ld] with cmdBad := true }))) ∧
    (¬ sound → exec .rload s = .next (s.setDev ld { s.devices[ld] with cmdBad := true }))) ∧
  (∀ (s : State) (base units : Nat) (rest : List (Nat × Nat)),
    let ld := s.arg.ld
    let d := s.devices[ld]
    let size := 2 ^ d.flCfg.toNat
    d.segments = (base, units) :: rest →
    ((d.flHead - d.flTail).toNat < size →
      exec .segmentReturn s = .next ((s.setDev ld { d with segments := rest, flHead := d.flHead + 1 }).hostWrite
        (d.flBase.toNat + 16 * (d.flHead.toNat % size)) (toBytes 8 base ++ toBytes 8 units))) ∧
    (size ≤ (d.flHead - d.flTail).toNat → exec .segmentReturn s = .next s))

/-- Queues: QLOAD takes a well-formed entry, and sets BADCMD for one that would change the ASN of a busy queue; PAUSE, RESUME, CANCEL; all of
a function that is presented; ageing, by the sum of the times for which a queue was ready and not served while ageing is on (log entry 68);
a completion record is written when its ring has room, its coalescer releasing at CCOUNT records or after CHOLD (R8, R380, R386, R397 to
R399, R431, R432). -/
def QueueEvents : Prop :=
  (∀ (s : State) (i : Instr), i ∈ [Instr.qload, .queuePause, .queueResume, .queueCancel, .cqConsumedWrite] → s.serves s.arg.ld = false →
    exec i s = .next s) ∧
  (∀ (s : State) (d0 d1 d2 d3 : DWord), s.serves s.arg.ld = true →
    let ld := s.arg.ld
    let q := s.arg.queue
    let old := s.queue ld q
    let at_ := s.devices[ld].qtBase.toNat + 64 * q.val
    let f := fun (x : DWord) (lo w : Nat) => x.toNat / 2 ^ lo % 2 ^ w
    let sound := f d0 59 4 = 0 ∧ f d0 40 4 = 0 ∧ f d1 0 6 = 0 ∧ f d2 5 3 = 0 ∧ f d2 26 6 = 0 ∧ f d2 43 21 = 0 ∧
      4 ≤ f d2 0 5 ∧ f d2 0 5 ≤ 16 ∧ 1 ≤ f d2 8 8 ∧ 1 ≤ f d2 16 10 ∧ d3.toNat < 2 ^ 32
    let asn : Asn := BitVec.ofNat 12 (f d0 44 12)
    let prio : Fin 8 := Fin.ofNat 8 (f d0 56 3)
    dwordsOf (s.hostRead at_ 64) = [d0, d1, d2, d3, 0, 0, 0, 0] →
    (sound → (s.queueBusy ld q = false ∨ old.asn = asn) → old.en = true →
      let new : LQueue := { old with
        en := decide (2 ^ 63 ≤ d0.toNat), prio := prio, asn := asn, clmask := BitVec.ofNat 40 d0.toNat, cqBase := d1.toNat,
        cqLog := f d2 0 5, ccount := f d2 8 8, chold := f d2 16 10, vec := f d2 32 11,
        effective := if old.prio = prio then old.effective else prio }
      exec .qload s = .next ((s.setQueue ld q new).hostWrite (at_ + 24) (toBytes 4 old.cqHead.toNat))) ∧
    ((¬ sound ∨ (s.queueBusy ld q = true ∧ old.asn ≠ asn)) →
      exec .qload s = .next (s.setDev ld { s.devices[ld] with cmdBad := true }))) ∧
  (∀ s : State,
    let ld := s.arg.ld
    let q := s.arg.queue
    let x := s.queue ld q
    (s.serves ld = true → exec .queuePause s = .next (s.setQueue ld q { x with paused := true }) ∧
      exec .queueResume s = .next (s.setQueue ld q { x with paused := false }) ∧
      exec .cqConsumedWrite s = .next (s.setQueue ld q { x with consumed := BitVec.ofNat 32 s.arg.value.toNat })) ∧
    (x.en = true → x.paused = true → s.queueReady ld q = false)) ∧
  (∀ s : State,
    let ld := s.arg.ld
    let q := s.arg.queue
    let x := s.queue ld q
    s.serves ld = true → (∀ r : Nat × Ring, r ∈ s.ringsOf ld q x.lastRing → r.2.wpos ≤ r.2.rpos) → x.indirect = none →
    (s.unadmitted ld q = none → exec .queueCancel s = .next s) ∧
    (∀ l, s.unadmitted ld q = some l → (∃ r p i, l.src = .ring r p i) →
      exec .queueCancel s = .next (s.endLaunch l 3 0 0))) ∧
  (∀ (s : State) (r n type : Nat) (x : Ring) (l : Packet),
    let ld := s.arg.ld
    let q := s.arg.queue
    s.serves ld = true → s.unadmitted ld q = none → (s.queue ld q).indirect = none → s.ringsOf ld q (s.queue ld q).lastRing = [(r, x)] →
    s.ring ld r = some x → x.barrier = false → x.rpos + n = x.wpos → 0 < n → x.wpos < x.segStart + x.segUnits → s.headPacket x = some (n, type, .launch l) →
    r < 128 →
      exec .queueCancel s =
        .next ((s.writeRing ld r { x with rpos := x.wpos }).pushRecord ld q (recordDwords 3 0 type r x.rpos none s.pack.time))) ∧
  (∀ s : State,
    let ld := s.arg.ld
    let q := s.arg.queue
    let x := s.queue ld q
    let step := s.devices[ld].ageUs.toNat * 1000
    (0 < step → step ≤ x.aged →
      exec .ageTick s = .next (s.setQueue ld q { x with
        effective := (⟨min 7 (x.effective.val + 1), by omega⟩ : Fin 8), aged := x.aged - step })) ∧
    ((step = 0 ∨ x.aged < step) → exec .ageTick s = .next s)) ∧
  (∀ (s : State) (ns : Nat) (ld : Fin 4) (q : Fin 32) (x : LQueue),
    s.devices[ld].queues = [(q.val, x)] → (∀ m : Fin 4, m ≠ ld → s.devices[m].queues = []) →
      (s.ageQueues ns).queue ld q = if s.devices[ld].ageUs ≠ 0 ∧ s.queueReady ld q = true then { x with aged := x.aged + ns } else x) ∧
  (∀ (s : State) (r : CqRecord) (rest : List CqRecord),
    let ld := s.arg.ld
    let q := s.arg.queue
    let x := s.queue ld q
    let k := x.cqHead.toNat
    let y : LQueue := { x with cqHead := x.cqHead + 1, records := rest, heldCount := x.heldCount + 1,
                               heldFrom := if x.heldCount = 0 then s.pack.time else x.heldFrom }
    let wrote := ((s.hostWrite (x.cqBase + 32 * (k % 2 ^ x.cqLog)) (r.dwords.flatMap fun d => toBytes 8 d.toNat)).setQueue ld q y).hostWrite
      (s.devices[ld].qtBase.toNat + 64 * q.val + 24) (toBytes 4 (x.cqHead + 1).toNat)
    x.records = r :: rest →
    ((x.cqHead - x.consumed).toNat < 2 ^ x.cqLog →
      (x.heldCount + 1 < x.ccount → exec .completionRecordWrite s = .next wrote) ∧
      (x.ccount ≤ x.heldCount + 1 → exec .completionRecordWrite s = .next (wrote.releaseCoalescer ld q))) ∧
    (2 ^ x.cqLog ≤ (x.cqHead - x.consumed).toNat → exec .completionRecordWrite s = .next s)) ∧
  (∀ s : State,
    let ld := s.arg.ld
    let q := s.arg.queue
    let x := s.queue ld q
    let sent := s.setQueue ld q { x with heldCount := 0 }
    (0 < x.heldCount → x.heldFrom + x.chold * 1000 ≤ s.pack.time →
      exec .coalescerHoldExpire s =
        .next (sent.setDev ld { sent.devices[ld] with interrupts := sent.devices[ld].interrupts ++ [x.vec] })) ∧
    ((x.heldCount = 0 ∨ s.pack.time < x.heldFrom + x.chold * 1000) → exec .coalescerHoldExpire s = .next s))

/-- MERGE_VISIT: when the dispatcher's choice is to take from a queue, all its rings pass the barriers at their heads together, or the
packet at the head of the next ring is taken: a LINK continues with its segment, a LAUNCH joins the launches, a malformed packet's record
is queued; an INDIRECT's next packet is read in the queue's context, and a refused read of it parks; and LAUNCH, FREEZE and THAW stand only on queues of the right kind (R340, R381 to R386, R390, R395,
R401). -/
def Obligations.MergeVisits : Prop :=
  (∀ (s : State) (q : Fin 32), s.serveChoice s.arg.ld = some (q, false) → s.offer s.arg.ld q = some .barriers →
    exec .mergeVisit s = .next ((s.ringsOf s.arg.ld q 127).foldl (fun t e => t.writeRing s.arg.ld e.1 (e.2.moveTo (e.2.rpos + 1))) s)) ∧
  (∀ (s : State) (ld : Fin 4) (q : Fin 32) (r k : Nat) (x : Ring), (s.devices[ld].rings.map Prod.fst).Nodup →
    (s.passOver ld q r).ring ld k = some x → s.ring ld k ≠ some x →
    ∃ o, s.ring ld k = some o ∧ k ≠ r ∧ s.headPacket o = some (1, 3, .barrier) ∧ x = { o with barrier := true }) ∧
  (∀ (s : State) (q : Fin 32) (r n type : Nat) (x : Ring) (p : Pkt),
    let ld := s.arg.ld
    let visited := fun (t : State) => t.setQueue ld q { t.queue ld q with lastRing := r }
    let passed := s.passOver ld q r
    let moved := visited (passed.writeRing ld r (x.moveTo (x.rpos + n)))
    let asn := (s.queue ld q).asn
    s.serveChoice ld = some (q, false) → s.offer ld q = some (.ring r) → s.ring ld r = some x → s.headPacket x = some (n, type, p) →
    s.jobs = [] →
    (p = .nop → exec .mergeVisit s = .next (moved.served ld q)) ∧
    (∀ base units, p = .link false base units →
      exec .mergeVisit s = .next ((visited (passed.writeRing ld r { x with
        rpos := x.rpos + n, segStart := x.rpos + n, segBase := base, segUnits := units, barrier := false })).served ld q)) ∧
    (∀ l, p = .launch l → asn ≠ 0 →
      exec .mergeVisit s = .next (({ moved with
        launches := moved.launches ++ [{ newLaunch moved ld asn q (.ring (Fin.ofNat 128 r) x.rpos none) none 0 l false with
          depWide := moved.depAhead ld l.dep }],
        nextId := moved.nextId + 1 }).served ld q)) ∧
    (∀ a units, p = .indirect a units →
      exec .mergeVisit s = .next ((moved.setQueue ld q { moved.queue ld q with
        indirect := some ⟨Fin.ofNat 128 r, x.rpos, BitVec.ofNat 48 a, units, 0⟩ }).served ld q)) ∧
    ((p = .bad ∨ (∃ l, p = .launch l ∧ asn = 0) ∨ (∃ t d, p = .freeze t d ∧ asn ≠ 0)) →
      exec .mergeVisit s =
        .next ((moved.pushRecord ld q (recordDwords 1 8 type (Fin.ofNat 128 r).val x.rpos none s.pack.time)).served ld q))) ∧
  (∀ (s : State) (q : Fin 32) (i : Indirect), s.serveChoice s.arg.ld = some (q, false) → s.offer s.arg.ld q = some .inner →
    (s.queue s.arg.ld q).indirect = some i → (s.takeInner s.arg.ld q i).jobs = [] →
      exec .mergeVisit s = .next (s.takeInner s.arg.ld q i)) ∧
  (∀ (s t u : State) (ld : Fin 4) (q : Fin 32) (i : Indirect) (h d : List DWord) (type : Nat) (p : Packet),
    let asn := (s.queue ld q).asn
    let l := { newLaunch u ld asn q (.ring i.ring i.pos (some i.next)) none 0 p false with depWide := u.depAhead ld p.dep }
    s.indirectUnits ld q i 1 = .ok (t, h) → unitsOf (dw h 0) = 2 → dw h 0 % 2 ^ 8 = type → i.next + 2 < i.units →
    t.indirectUnits ld q i 2 = .ok (u, d) → Pkt.parse d false = .launch p → (u.queue ld q).asn = asn → asn ≠ 0 →
      let w : State := { u with launches := u.launches ++ [l], nextId := u.nextId + 1 }
      s.takeInner ld q i = (w.setQueue ld q { w.queue ld q with indirect := some { i with next := i.next + 2 } }).served ld q) ∧
  (∀ (s : State) (ld : Fin 4) (q : Fin 32) (i : Indirect) (why : Nat),
    s.places { ld := ld, asn := (s.queue ld q).asn, priv := .user, kind := .load } ((i.addr.toNat + 64 * i.next) % 2 ^ 48) 64 =
      .error why →
      s.takeInner ld q i = s.parkIndirect ld q (s.queue ld q).asn why
        (s.refusedAt { ld := ld, asn := (s.queue ld q).asn, priv := .user, kind := .load } ((i.addr.toNat + 64 * i.next) % 2 ^ 48) 64)) ∧
  (∀ s : State, s.serveChoice s.arg.ld = none → exec .mergeVisit s = .next s)

/-- Launches: LAUNCH_ADMIT admits one whose dependency is met, fails one that could never fit, and places a superstep grid whole;
TEAM_PLACE places the next team on the lowest cluster where it fits, and fails an admitted launch that can never fit now; TEAM_RELEASE starts it no earlier than its stagger allows,
its local store zeroed and its poison gone (log entry 104), and the L1s of its cores keep no line of the context; GENERATOR_START loads the image,
which it reads at U, and which fails the launch where it reads poison (log entry 63); a launch is complete when all it owns has ended and
its writes are performed, and reports in a record or to its ticket (R71, R127, R132, R144, R306, R321, R375, R389 to R394, R396, R397). -/
def Obligations.LaunchEvents : Prop :=
  (∀ (s : State) (l : Launch), s.launch? s.arg.num = some l →
    let q := s.queue l.ld l.queue
    (l.admitted = false → s.depMet l = true →
      (launchFits s.devices[l.ld] q l.pkt = true → l.pkt.superstep = false →
        exec .launchAdmit s =
          .next { s with launches := s.launches.filter (fun m => m.id ≠ l.id) ++ [{ l with admitted := true }] }) ∧
      (launchFits s.devices[l.ld] q l.pkt = false → exec .launchAdmit s = .next (s.endLaunch l 1 9 0)) ∧
      (∀ t, launchFits s.devices[l.ld] q l.pkt = true → l.pkt.superstep = true → s.serveChoice l.ld = some (l.queue, true) →
        s.nextLaunch l.ld l.queue = some l → s.placement l.ld l.queue = some t →
          exec .launchAdmit s = .next ((t.served l.ld l.queue).letIn l.id))) ∧
    (s.depMet l = false → exec .launchAdmit s = .next s)) ∧
  (∀ (s : State) (l : Launch), s.hopeless s.arg.ld = some l →
    exec .teamPlace s = .next (s.setLaunch { l with failed := some (9, 0) })) ∧
  (∀ (s t : State) (q : Fin 32) (l : Launch), s.hopeless s.arg.ld = none → s.serveChoice s.arg.ld = some (q, true) → s.nextLaunch s.arg.ld q = some l →
    l.admitted = true → s.placement s.arg.ld q = some t → exec .teamPlace s = .next (t.served s.arg.ld q)) ∧
  (∀ (s t : State) (q : LQueue) (l : Launch), s.placeTeam q l = some t →
    ∃ (c : Fin 40) (team : Team), maskHas q.clmask c.val = true ∧ t.teams = s.teams ++ [team] ∧ team.cl = clusterAt l.ld c ∧
      team.index = l.placed ∧ team.released = false ∧ team.members.length = l.pkt.teamGroups ∧ team.queues.length = l.pkt.queues ∧
      (∀ g ∈ team.members, s.slotTaken g = false ∧ clusterOf g = team.cl) ∧
      (∀ b : Fin 40, b < c → maskHas q.clmask b.val = true → s.carveOn l (clusterAt l.ld b) = none) ∧ t.mem = s.mem) ∧
  (∀ (s : State) (l : Launch) (t : Team), s.launch? s.arg.num = some l → s.releasable l = some t → t.members.Nodup →
    let v := s.startAcquire l t.cl
    (∀ x ∈ v.lines, ∀ core, x.level = .l1 core → core / 4 = t.cl.val → x.ld = deviceOf t.cl → x.asn ≠ l.asn) ∧
    ∃ u, exec .teamRelease s = .next u ∧
      (∀ (i : Nat) (g : GroupId), t.members[i]? = some g → u.group? g = some (Group.atStart l t i s.pack.time)) ∧
      (∀ g : GroupId, g ∉ t.members → u.group? g = s.group? g) ∧
      (t.lsBase % 4096 = 0 → t.lsBase + t.lsSize ≤ 2 ^ 18 → ∀ c < 4, ∀ a, t.lsBase ≤ a → a < t.lsBase + t.lsSize →
        Memory.read u.mem (localLoc (t.cl.val * 4 + c) a) = 0 ∧ granuleOf (localLoc (t.cl.val * 4 + c) a) ∉ u.poison) ∧
      t ∈ s.teams ∧ t.launch = l.id ∧ t.released = false ∧
      (∀ o ∈ s.teams, o.launch = l.id → o.released = false → t.index ≤ o.index) ∧ (∀ at_, l.lastRelease = some at_ → at_ + 8 * max l.pkt.stagger s.pack.stagmin.toNat ≤ s.pack.time) ∧
      (∀ p ∈ u.poison, p ∈ v.poison) ∧ u.devices = v.devices ∧ u.lines = v.lines) ∧
  (∀ (s : State) (l : Launch), s.launch? s.arg.num = some l → s.releasable l = none → exec .teamRelease s = .next s) ∧
  (∀ (s u : State) (l : Launch) (ps : List Place),
    let cl := s.arg.cl
    s.launch? s.arg.num = some l → cl ∈ l.genPending → s.imageParked l.ld l.id cl = false →
    (s.startAcquire l cl).places { ld := l.ld, asn := l.asn, priv := .user, kind := .load } l.pkt.genaddr.toNat (4 * l.pkt.genwords) = .ok (u, ps) →
    (∀ bs, u.readPlaces ps = (bs, none) →
      let loaded : State := { u with
        mem := Memory.writeBytes (Memory.clearRange u.mem (pilotLoc cl.val 0) (2 ^ 16)) (pilotLoc cl.val 0) bs }
      exec .generatorStart s = .next ((loaded.setCluster cl { u.cluster cl with
        pilot := Pilot.atStart l, streams := Vector.replicate 16 EmitStream.closed }).setLaunch { l with
          genPending := l.genPending.filter fun c => c ≠ cl, gens := cl :: l.gens })) ∧
    (∀ bs i, u.readPlaces ps = (bs, some i) →
      exec .generatorStart s = .next (u.failImage l.id cl 1 ((l.pkt.genaddr.toNat + i) / 32 * 32)))) ∧
  (∀ (s : State) (l : Launch) (o k d : Nat), s.launch? s.arg.num = some l → s.launchDone l = true → l.result = (o, k, d) →
    l.thaw = none →
    (∀ r pos ioff, l.parent = none → l.src = .ring r pos ioff →
      let t := (s.writesDone l).pushRecord l.ld l.queue (recordDwords o k 1 r.val pos ioff s.pack.time)
      exec .launchComplete s = .next { t with launches := t.launches.filter fun m => m.id ≠ l.id }) ∧
    (∀ p g team e seq, l.parent = some p → l.src = .ticket g team e seq →
      let t := (s.writesDone l).setStatus g team e seq (statusWord o k 0 d)
      exec .childLaunchComplete s = .next { t with launches := t.launches.filter fun m => m.id ≠ l.id })) ∧
  (∀ (s : State) (l : Launch), s.launch? s.arg.num = some l → s.launchDone l = false →
    exec .launchComplete s = .next s ∧ exec .childLaunchComplete s = .next s)

/-! ### Contexts, handles and links -/

/-- Context commands: CREATE makes a FREE context live with the registers of reset, DESTROY frees one with nothing left to run, PREEMPT
begins to stop a live one, RESUME lets a saved one wait for its resources; a command for context 0, for a context in another state, or
while the selected one is stopping sets CTXSTAT.BADCMD (R401 to R403, R407). A stopped context's image is taken and written, with its header, sections and
CRCs, and its own resources restored when they are free; a FREEZE writes the contexts and their pages to host memory, or fails LINK or
CAPACITY (R405, R407, R409, R411, R412, R414). A device without registers takes no command (R8, R431). The model's choices: the layout of
the images and their sections (log entry 81), poison carried with the freeze image (log entry 77), and a failed FREEZE's contexts, left
SAVED with an image that stands in the machine alone (log entry 78). -/
def Obligations.ContextEvents : Prop :=
  (∀ s : State,
    let ld := s.arg.ld
    let asn : Asn := BitVec.ofNat 12 s.arg.num
    let c := s.ctx ld asn
    let d := s.devices[ld]
    let able := asn ≠ 0 ∧ (s.ctx ld d.ctxSel).state ≠ .stopping
    let refused := s.setDev ld { d with ctxBad := true }
    let closed := fun (u : State) =>
      let v := (u.closeExports ld false fun e => e.asn == asn).closeImports ld fun e => e.asn == asn
      { v.setDev ld (v.devices[ld].endContext asn) with ctxs := delBy (ctxKey ld asn) v.ctxs }
    (s.serves ld = false → exec .create s = .next s ∧ exec .destroy s = .next s ∧ exec .preempt s = .next s ∧
      exec .ctxResume s = .next (s.tryResume ld asn)) ∧
    (s.serves ld = true →
    (able → c.state = .free → exec .create s = .next (s.setCtx ld asn { Ctx.free with state := .live })) ∧
    (¬ (able ∧ c.state = .free) → exec .create s = .next refused) ∧
    (able → c.image = none → ((c.state = .live ∧ ∀ l ∈ s.launches, ¬ (l.ld = ld ∧ l.asn = asn)) ∨ c.state = .frozen) →
      exec .destroy s = .next (closed s)) ∧
    (∀ i, able → c.image = some i → c.state = .saved →
      exec .destroy s = .next (closed (i.launches.foldl (fun u l => State.endLaunch u l 3 0 0) s))) ∧
    ((¬ able ∨ c.state = .free ∨ c.state = .stopping ∨ (c.state = .live ∧ ∃ l ∈ s.launches, l.ld = ld ∧ l.asn = asn)) →
      exec .destroy s = .next refused) ∧
    (able → c.state = .live → exec .preempt s = .next (s.setCtx ld asn { c with state := .stopping, rewind := s.arg.flag })) ∧
    (¬ (able ∧ c.state = .live) → exec .preempt s = .next refused) ∧
    (∀ i, able → c.state = .saved → c.image = some i →
      let waits := s.setCtx ld asn { c with resuming := true }
      c.resuming = false →
        (waits.imageFree i = false → exec .ctxResume s = .next waits) ∧
        (waits.imageFree i = true → (∀ l ∈ i.launches, l.thaw = none) →
          (i.standsAt (ctxKey ld asn) fun o n => s.physRead ld (c.save.toNat + o) n) = true →
            exec .ctxResume s = .next ((waits.physMeet ld c.save.toNat i.length).restoreImage ld asn
              (i.reread fun o n => s.physRead ld (c.save.toNat + o) n))))) ∧
    (∀ i, c.state = .saved → c.image = some i → c.resuming = true →
      (s.imageFree i = false → exec .ctxResume s = .next s) ∧
      (s.imageFree i = true → (∀ l ∈ i.launches, l.thaw = none) →
        (i.standsAt (ctxKey ld asn) fun o n => s.physRead ld (c.save.toNat + o) n) = true →
          exec .ctxResume s = .next ((s.physMeet ld c.save.toNat i.length).restoreImage ld asn
            (i.reread fun o n => s.physRead ld (c.save.toNat + o) n))))) ∧
  (∀ (s : State) (i : SavedCtx),
    let ld := s.arg.ld
    let asn : Asn := BitVec.ofNat 12 s.arg.num
    let saved := s.saveContext ld asn
    (s.ctx ld asn).state = .stopping → (∀ j ∈ s.jobs, j.thaw = true ∨ s.freezes j ld asn = false) →
    (s.quiet ld asn = false → exec .preemptComplete s = .next s) ∧
    (s.quiet ld asn = true → (saved.ctx ld asn).image = some i →
      exec .preemptComplete s = .next ((i.pieces (ctxKey ld asn) saved.pack.pkgid).foldl
        (fun (u : State) e => u.physWrite ld ((saved.ctx ld asn).save.toNat + e.1) e.2) saved))) ∧
  (∀ (s : State) (j : FreezeJob), s.jobs.find? (fun j => j.id == s.arg.num && !j.thaw && j.started) = some j →
    let stopping := s.frozenBy j fun st => st == .stopping
    ((∃ k ∈ stopping, s.quiet k.1 k.2 = false) → exec .freezeComplete s = .next s) ∧
    ((∀ k ∈ stopping, s.quiet k.1 k.2 = true) → exec .freezeComplete s = .next (s.finishFreeze j))) ∧
  (∀ (s : State) (j : FreezeJob),
    let keys := s.frozenBy j fun st => st == .saved
    let emptied := keys.foldl (fun (u : State) k => u.emptyCaches k.1 k.2) s
    let pages := keys.flatMap fun k => (emptied.ctx k.1 k.2).image.elim [] (emptied.residentPages k.1 k.2)
    let e := pages.foldl State.pageMeet emptied
    let x : FreezeImage :=
      { ctxs := keys.map fun k => (ctxKey k.1 k.2, e.ctx k.1 k.2), pages := pages
        poison := pages.flatMap fun p => ((List.range 2048).filter fun g => (e.pageLoc p (32 * g)).any e.isBad).map fun g =>
          (p.1, p.2.1, p.2.2 + 32 * g) }
    let wrote := (e.freezePieces x).foldl (fun (u : State) p => u.hostWrite (j.addr.toNat + p.1) p.2) e
    (s.frozenBy j fun st => st == .stopping) = [] →
      (e.freezePath j = false → s.finishFreeze j = e.endJob j 1 13) ∧
      (e.freezePath j = true → j.cap.toNat < piecesEnd (e.freezePieces x) → s.finishFreeze j = e.endJob j 1 14) ∧
      (e.freezePath j = true → piecesEnd (e.freezePieces x) ≤ j.cap.toNat → j.fab = false →
        s.finishFreeze j = ({ wrote with images := x :: e.images }.freezeContexts keys).endJob j 0 0)) ∧
  (∀ (i : SavedCtx) (key : Nat) (pkgid : Byte), (i.header key pkgid).length = 4096 ∧ crcOk (i.header key pkgid) = true) ∧
  (∀ (s : State) (j : FreezeJob), s.jobs.find? (fun j => j.id == s.arg.num && j.thaw && j.started) = some j →
    ((∃ l ∈ s.launches, l.thaw = some j.id) → exec .thawComplete s = .next s) ∧
    ((∀ l ∈ s.launches, l.thaw ≠ some j.id) → (∀ e ∈ s.ctxs, ∀ i, e.2.image = some i → ∀ l ∈ i.launches, l.thaw ≠ some j.id) →
      (j.outcome = none → exec .thawComplete s = .next (s.endJob j 0 0)) ∧
      (∀ o k, o < 4 → k < 64 → j.outcome = some (BitVec.ofNat 64 (o * 2 ^ 62 + k * 2 ^ 56)) →
        exec .thawComplete s = .next (s.endJob j o k))))

/-- Pools, publish buffers and profiles: while EN is 1 only a write that clears it acts; a pool is enabled empty, with what was written
stored, in its range or not (log entry 98, the model's choice); enabling a publish buffer selects its first copy; a profile is enabled when its masks have distinct pivots, and not disabled while
a live context names it (R363, R372, R402, R404). -/
def ContextRegisterWrites : Prop :=
  ∀ s : State,
    let ld := s.arg.ld
    let d := s.devices[ld]
    let x := s.arg.value.toNat
    let en := 2 ^ 63 ≤ x
    let asn : Asn := BitVec.ofNat 12 (x / 2 ^ 48)
    (s.serves ld = false → exec .poolWrite s = .next s ∧ exec .pbufWrite s = .next s ∧ exec .pctlWrite s = .next s) ∧
    (s.serves ld = true →
    (let n : Fin 8 := Fin.ofNat 8 s.arg.num
     let p := d.pools[n]
     let base := x % 2 ^ 48
     (p.en = true → en → exec .poolWrite s = .next s) ∧
     (p.en = false → en → exec .poolWrite s = .next (s.setDev ld { d with
       pools := d.pools.set n { p with en := true, asn := asn, base := BitVec.ofNat 48 base, used := [] } })) ∧
     (¬ en → exec .poolWrite s = .next (s.setDev ld { d with
       pools := d.pools.set n { p with en := false, asn := asn, base := BitVec.ofNat 48 base } }))) ∧
    (let n : Fin 64 := Fin.ofNat 64 s.arg.num
     let b := d.pbuf[n]
     let page := x / 2 ^ 16 % 2 ^ 32
     (b.en = true → en → exec .pbufWrite s = .next s) ∧
     (b.en = false → en → exec .pbufWrite s = .next (s.setDev ld { d with
       pbuf := d.pbuf.set n { en := true, sel := false, asn := asn, page := page, count := x % 2 ^ 8 + 1 } })) ∧
     (b.en = true → ¬ en → exec .pbufWrite s = .next (s.setDev ld { d with pbuf := d.pbuf.set n { b with en := false } })) ∧
     (b.en = false → ¬ en → exec .pbufWrite s = .next (s.setDev ld { d with
       pbuf := d.pbuf.set n { en := false, sel := b.sel, asn := asn, page := page, count := x % 2 ^ 8 + 1 } }))) ∧
    (let f : Fin 4 := Fin.ofNat 4 s.arg.num
     let p := d.profiles[f]
     let on := x % 2 = 1
     let err := p.err && x.testBit 1
     let distinct := ((p.masks.toList.filter fun m => m != 0).map fun m => Nat.log2 m.toNat).Nodup
     let gives := fun (q : Profile) => exec .pctlWrite s = .next (s.setDev ld { d with profiles := d.profiles.set f q })
     (on → (p.en = true ∨ distinct) → gives { p with en := true, err := err }) ∧
     (on → p.en = false → ¬ distinct → gives { p with err := true }) ∧
     (¬ on → s.profileNamed ld f.val = true → gives { p with err := true }) ∧
     (¬ on → s.profileNamed ld f.val = false → gives { p with en := false, err := err })))

/-- Handles: EXPORT gives an entry the next generation and a token, REVOKE ends it and is BUSY until REVOKE_COMPLETE, IMPORT sends a token
and waits, for an answer or 1 ms, UNIMPORT ends an import; a command while BUSY, or for an entry that does not suit it, sets XSTAT.BADCMD
(R402, R415 to R418). A device without registers takes no command (R8, R431); a table entry is read as every read of memory, and meets the
errors that stand there (R377). The model's choices: a command while BUSY sets XSTAT.BADCMD (log entry 74), a nonzero reserved field of an
CTXSEL named when it was sent (log entry 80). -/
def Obligations.HandleEvents : Prop :=
  (∀ s : State, s.serves s.arg.ld = false → exec .exportHandle s = .next s ∧ exec .revokeHandle s = .next s ∧
    exec .importHandle s = .next s ∧ exec .unimportHandle s = .next s) ∧
  (∀ (s : State) (d0 d1 d2 d3 : DWord), s.serves s.arg.ld = true →
    let ld := s.arg.ld
    let d := s.devices[ld]
    let n : Fin 256 := Fin.ofNat 256 s.arg.num
    let met := s.physMeet ld (d.exBase.toNat + 32 * n.val) 32
    let m := met.devices[ld]
    s.physRead ld (d.exBase.toNat + 32 * n.val) 32 = toBytes 8 d0.toNat ++ toBytes 8 d1.toNat ++ toBytes 8 d2.toNat ++ toBytes 8 d3.toNat →
    let base := d0.toNat % 2 ^ 48
    let size := d1.toNat
    let sound := base % 2 ^ 16 = 0 ∧ size % 2 ^ 16 = 0 ∧ 2 ^ 16 ≤ size ∧ size < 2 ^ 48 ∧ base + size ≤ 2 ^ 48 ∧ d2.toNat < 2 ^ 32 ∧ d3 = 0
    let asn : Asn := BitVec.ofNat 12 (d0.toNat / 2 ^ 48)
    let rights : BitVec 3 := BitVec.ofNat 3 (d0.toNat / 2 ^ 60)
    let gen := m.gen n + 1
    let token := tokenOf s.pack.pkgid ld n asn (BitVec.ofNat 48 base) (BitVec.ofNat 48 size) rights gen
    let entry : ExportEntry := { n := n, rights := rights, asn := asn, base := BitVec.ofNat 48 base, size := BitVec.ofNat 48 size,
                                 gen := gen, token := token }
    (m.xBusy = false → sound →
      exec .exportHandle s = .next ((met.setDev ld { m with
        exports := entry :: m.exports.filter (fun k => k.n ≠ n), gens := putBy n.val gen m.gens, xToken := token }).writeExport
          ld n d0.toNat true gen)) ∧
    ((m.xBusy = true ∨ ¬ sound) → exec .exportHandle s = .next (met.setDev ld { m with xBad := true })) ∧
    (d.xBusy = false → (∃ e ∈ d.exports, e.n = n) →
      exec .revokeHandle s = .next ((met.setDev ld { m with
        exports := d.exports.filter (fun k => k.n ≠ n), gens := putBy n.val (d.gen n + 1) d.gens, xBusy := true }).writeExport
          ld n d0.toNat false (d.gen n + 1))) ∧
    ((d.xBusy = true ∨ ∀ e ∈ d.exports, e.n ≠ n) → exec .revokeHandle s = .next (s.setDev ld { d with xBad := true }))) ∧
  (∀ s : State,
    let ld := s.arg.ld
    let d := s.devices[ld]
    (d.xBusy = true → d.pendingImport = none → exec .revokeComplete s =
      .next ((s.setDev ld { d with xBusy := false }).dropPeers fun p => (s.exportFor p.token).isNone)) ∧
    ((d.xBusy = false ∨ d.pendingImport ≠ none) → exec .revokeComplete s = .next s)) ∧
  (∀ (s : State) (d0 d1 d2 d3 : DWord), s.serves s.arg.ld = true →
    let ld := s.arg.ld
    let d := s.devices[ld]
    let n : Fin 256 := Fin.ofNat 256 s.arg.num
    let met := s.physMeet ld (d.imBase.toNat + 32 * n.val) 32
    let m := met.devices[ld]
    let win := d0.toNat % 2 ^ 48
    let sound := d0.toNat / 2 ^ 48 % 2 ^ 15 = 0 ∧ win % 2 ^ 16 = 0 ∧ inPeer win = true ∧ d1.toNat < 2 ^ 48 ∧ d3 = 0
    s.physRead ld (d.imBase.toNat + 32 * n.val) 32 = toBytes 8 d0.toNat ++ toBytes 8 d1.toNat ++ toBytes 8 d2.toNat ++ toBytes 8 d3.toNat →
    (m.xBusy = false → sound →
      exec .importHandle s = .next (met.setDev ld { m with
        xBusy := true, pendingImport := some ⟨n, d.ctxSel, met.pack.time, none⟩ })) ∧
    ((m.xBusy = true ∨ ¬ sound) → exec .importHandle s = .next (met.setDev ld { m with xBad := true })) ∧
    (d.xBusy = false → (∃ e ∈ d.imports, e.n = n) →
      exec .unimportHandle s = .next ((met.setDev ld { m with imports := d.imports.filter fun k => k.n ≠ n }).physWrite ld
        (d.imBase.toNat + 32 * n.val) (toBytes 8 (d0.toNat % 2 ^ 63)))) ∧
    ((d.xBusy = true ∨ ∀ e ∈ d.imports, e.n ≠ n) → exec .unimportHandle s = .next (s.setDev ld { d with xBad := true }))) ∧
  (∀ (s : State) (w : ImportWait) (d0 d1 d2 d3 : DWord),
    let ld := s.arg.ld
    let d := s.devices[ld]
    let at_ := d.imBase.toNat + 32 * w.n.val
    let here := d2.toNat / 2 ^ 56 = s.pack.pkgid.toNat
    let ended := { d with xBusy := false, pendingImport := none }
    let taken : ImportEntry := { n := w.n, asn := w.asn, win := BitVec.ofNat 48 d0.toNat, size := BitVec.ofNat 48 d1.toNat, token := d2 }
    d.pendingImport = some w →
    s.physRead ld at_ 32 = toBytes 8 d0.toNat ++ toBytes 8 d1.toNat ++ toBytes 8 d2.toNat ++ toBytes 8 d3.toNat →
    (here → w.answer = none →
      exec .importRequestArrival s = .next (s.setDev ld { d with pendingImport := some { w with
        answer := some (match s.exportFor d2 with
          | none => 1
          | some (_, e) => if e.size.toNat < d1.toNat then 2 else 0) } })) ∧
    ((¬ here ∨ w.answer ≠ none) → exec .importRequestArrival s = .next s) ∧
    (∀ a : Fin 4, a ≠ 0 → w.answer = some a → exec .importResponse s = .next (s.setDev ld { ended with xResult := a })) ∧
    (w.answer = none → w.since + 1000000 ≤ s.pack.time →
      exec .importResponse s = .next (s.setDev ld { ended with xResult := 3 })) ∧
    (w.answer = none → s.pack.time < w.since + 1000000 → here → exec .importResponse s = .next s) ∧
    (w.answer = some 0 →
      exec .importResponse s = .next ((s.setDev ld { ended with
        xResult := 0, imports := taken :: d.imports.filter (fun k => k.n ≠ w.n) }).physWrite ld at_ (toBytes 8 (2 ^ 63 + d0.toNat % 2 ^ 63)))))

/-- Links and ports: at each multiple of 2 µs of package time every link turns to its pin or to the weighted mean of its requests, within its floors;
a frame is sent from, or received into, the next entry that a port's ring hands over, and a refused access of a port parks, the frame kept (R119, R340,
R360, R419, R420, R425). An entry is given back once its frame is visible at system scope (R131, R425); a device without registers takes no
tail (R8, R431). The model's choices: a frame of a length outside 64 to 9216 is neither sent nor received (log entry 82), and the frame that a
parked port holds goes first (log entry 36). -/
def Obligations.FabricEvents : Prop :=
  (∀ s : State,
    (s.pack.tideAt < s.pack.time / 2000 → ∃ t, exec .tideEvaluate s = .next t ∧ t = { s with pack := t.pack } ∧
      t.pack.tideAt = s.pack.time / 2000 ∧
      ∀ i : Fin 12,
        t.pack.linkPinned[i] = (s.linkPin i).isSome ∧
        (∀ n, s.linkPin i = some n → t.pack.links[i] = n) ∧
        (s.linkPin i = none → s.pack.linkPinned[i] = true → t.pack.links[i] = bundlesOf i / 2) ∧
        (s.linkPin i = none → s.pack.linkPinned[i] = false →
          let rs := s.linkRequests i
          let w : Nat := (rs.map Prod.fst).sum
          (w = 0 → t.pack.links[i] = bundlesOf i / 2) ∧
          (0 < w →
            let x : Int := (rs.map fun r => (r.1 : Int) * r.2).sum
            t.pack.links[i] = max (bundlesOf i / 8) (min (bundlesOf i - bundlesOf i / 8) ((2 * x + w) / (2 * w)).toNat)))) ∧
    (s.pack.time / 2000 ≤ s.pack.tideAt → exec .tideEvaluate s = .next s)) ∧
  (∀ s : State,
    let p : Fin 8 := Fin.ofNat 8 s.arg.num
    let x := s.pack.eth[p]
    (s.serves s.arg.ld = true → exec .txTailWrite s = .next (s.setPort p { x with txTail := BitVec.ofNat 32 s.arg.value.toNat }) ∧
      exec .rxTailWrite s = .next (s.setPort p { x with rxTail := BitVec.ofNat 32 s.arg.value.toNat })) ∧
    (s.serves s.arg.ld = false → exec .txTailWrite s = .next s ∧ exec .rxTailWrite s = .next s) ∧
    (x.cfg.toNat < 2 ^ 63 ∨ x.txHead = x.txTail → exec .ethTransmitFrame s = .next s) ∧
    (x.held = none → (x.cfg.toNat < 2 ^ 63 ∨ x.rxHead = x.rxTail) → exec .ethReceiveFrame s = .next s) ∧
    (s.portParked p false = true → exec .ethTransmitFrame s = .next s) ∧ (s.portParked p true = true → exec .ethReceiveFrame s = .next s)) ∧
  (∀ (s s1 s2 s3 : State) (p0 : List Place) (d0 d1 : DWord) (ps p3 : List Place),
    let p : Fin 8 := Fin.ofNat 8 s.arg.num
    let x := s.pack.eth[p]
    let r := fun (k : AccKind) => ({ ld := Fin.ofNat 4 (x.cfg.toNat / 2 ^ 40), asn := BitVec.ofNat 12 (x.cfg.toNat / 2 ^ 44), priv := .user,
                                     kind := k } : Req)
    2 ^ 63 ≤ x.cfg.toNat → 2 ^ 63 ≤ d1.toNat →
    (let at_ := descriptorAt x.tx x.txHead
     let len := d1.toNat % 2 ^ 14
     s.portParked p false = false → x.txHead ≠ x.txTail → 64 ≤ len → len ≤ 9216 →
     s.places (r .load) at_ 16 = .ok (s1, p0) → (s1.readPlaces p0).1 = toBytes 8 d0.toNat ++ toBytes 8 d1.toNat →
     s1.places (r .load) (d0.toNat % 2 ^ 48) len = .ok (s2, ps) → (s2.readPlaces ps).2 = none →
     (s2.releasePort p).places (r .store) (at_ + 8) 8 = .ok (s3, p3) →
       exec .ethTransmitFrame s = .next ((s3.writePlaces (r .store) p3 (toBytes 8 len)).setPort p { x with
         txHead := x.txHead + 1, sent := x.sent ++ [(s2.readPlaces ps).1] })) ∧
    (let at_ := descriptorAt x.rx x.rxHead
     let bs := s.arg.bytes
     s.portParked p true = false → x.held = none → x.rxHead ≠ x.rxTail → 64 ≤ bs.length → bs.length ≤ 9216 →
     s.places (r .load) at_ 16 = .ok (s1, p0) → (s1.readPlaces p0).1 = toBytes 8 d0.toNat ++ toBytes 8 d1.toNat →
     s1.places (r .store) (d0.toNat % 2 ^ 48) bs.length = .ok (s2, ps) →
     ((s2.writePlaces (r .store) ps bs).releasePort p).places (r .store) (at_ + 8) 8 = .ok (s3, p3) →
       exec .ethReceiveFrame s = .next ((s3.writePlaces (r .store) p3
         (toBytes 8 ((if s.arg.flag then 2 ^ 56 else 0) + bs.length))).setPort p { x with rxHead := x.rxHead + 1, held := none }))) ∧
  (∀ (s u : State) (why a : Nat),
    let p : Fin 8 := Fin.ofNat 8 s.arg.num
    let x := s.pack.eth[p]
    let at_ := descriptorAt x.rx x.rxHead
    2 ^ 63 ≤ x.cfg.toNat → s.portParked p true = false → x.held = none → x.rxHead ≠ x.rxTail → 64 ≤ s.arg.bytes.length →
    s.arg.bytes.length ≤ 9216 → s.places (x.req .load) at_ 16 = .error why → a = s.refusedAt (x.req .load) at_ 16 →
    u = s.parkPort p true .load why a →
      exec .ethReceiveFrame s = .next (u.setPort p { u.pack.eth[p] with held := some (s.arg.bytes, s.arg.flag) }))

/-! ### The board -/

/-- REGISTER_WRITE: a write from the host or from the harbour master acts on the register, those held per context being CTXSEL's; a
read-only register, one held per group, one of M alone, and any but BOOTWHY, BOOTCTL and FLASHWIN in the recovery service are left as they
are, as in safe harbour are those of every device but the first but for M's own writes (R4, R5, R8, R402, R432, R437). Pools and their sizes
hold what is written while EN is 0 (log entry 98, the model's choice). -/
def RegisterWriteEvents : Prop :=
  ∀ s : State,
    let ld := s.arg.ld
    let d := s.devices[ld]
    let n := s.arg.num
    let x := s.arg.value
    let c := s.ctx ld d.ctxSel
    let served := s.pack.stage ≠ .recovery ∧ (s.arg.flag = true ∨ s.pack.safe = false ∨ ld = 0)
    let holds := fun (d' : Device) => exec .registerWrite s = .next (s.setDev ld d')
    (s.takesWrite ld n s.arg.flag = true → exec .registerWrite s = .next (s.writeSys ld d.ctxSel n x)) ∧
    (s.arg.flag = false → s.pack.safe = true → ld ≠ 0 → exec .registerWrite s = .next s) ∧
    ((regAccess n = none ∨ regAccess n = some .ro ∨ (regAccess n = some .mOnly ∧ s.arg.flag = false) ∨ (0x201 ≤ n ∧ n ≤ 0x20B) ∨
        (s.pack.stage = .recovery ∧ n ≠ 0x3C0 ∧ n ≠ 0x3C1 ∧ n ≠ 0x3CC)) → exec .registerWrite s = .next s) ∧
    (served →
      (n = 0x254 → holds { d with fbBase := BitVec.ofNat 40 (x.toNat / 2 ^ 12 * 2 ^ 12) }) ∧
      (n = 0x257 → holds { d with fbTail := BitVec.ofNat 32 x.toNat }) ∧
      (n = 0x300 → holds { d with rtBase := BitVec.ofNat 64 (x.toNat / 2 ^ 12 * 2 ^ 12) }) ∧
      (n = 0x302 → holds { d with ageUs := BitVec.ofNat 16 x.toNat }) ∧
      (n = 0x306 → holds { d with flTail := BitVec.ofNat 32 x.toNat }) ∧
      (n = 0x320 → holds { d with ctxSel := BitVec.ofNat 12 x.toNat }) ∧
      (n = 0x30D → holds { d with cmdBad := d.cmdBad && !x.toNat.testBit 63 }) ∧
      (n = 0x250 → exec .registerWrite s =
        .next (s.setCtx ld d.ctxSel { c with ptroot := BitVec.ofNat 40 (x.toNat / 2 ^ 12 * 2 ^ 12) })) ∧
      (n = 0x251 → exec .registerWrite s =
        .next (s.setCtx ld d.ctxSel { c with lease := BitVec.ofNat 11 (max 1 (min 1024 x.toNat)) })) ∧
      (n = 0x260 → exec .registerWrite s = .next (s.setCtx ld d.ctxSel { c with mfstat := c.mfstat &&& ~~~x })) ∧
      (n = 0x3C4 → exec .registerWrite s =
        .next { s with pack := { s.pack with plimit := BitVec.ofNat 12 (max 600 (min 2200 x.toNat)) } }) ∧
      (n = 0x3C8 → exec .registerWrite s = .next { s with pack := { s.pack with stagmin := BitVec.ofNat 12 x.toNat } }) ∧
      (n = 0x327 → exec .registerWrite s = .next { s with pack := { s.pack with pkgid := BitVec.ofNat 8 x.toNat } }) ∧
      (∀ k : Fin 8, n = 0x341 + 2 * k.val →
        (d.pools[k].en = true → exec .registerWrite s = .next s) ∧
        (d.pools[k].en = false → holds { d with pools := d.pools.set k { d.pools[k] with size := BitVec.ofNat 25 x.toNat } })))

/-- A state with nothing of its devices left: what a reset of the package, or the loss of its supplies, leaves (R433). -/
def Emptied (s t : State) : Prop :=
  t.groups = [] ∧ t.teams = [] ∧ t.launches = [] ∧ t.clusters = [] ∧ t.ctxs = [] ∧ t.ops = [] ∧ t.leases = [] ∧ t.pins = [] ∧ t.peers = [] ∧
    t.lines = [] ∧ t.invals = [] ∧ t.past = [] ∧ t.unseen = [] ∧
    t.jobs = [] ∧ t.devices = Vector.replicate 4 Device.reset ∧ t.inputs = s.inputs ∧ t.turn = s.turn

/-- A start of an empty part leaves it empty but for the records of the rows it retires. Starts and resets: power on, PERST#, the start timer, the firmware's watchdog, BOOTCTL RESET and the recovery service's time-out
empty the package and start it again; a start counts its attempt in the counter sector and is in safe harbour from the third; loss of
power leaves flash but for what was being erased or programmed; FWREADY, within 10 s of the start, ends it and erases the counter sector
unless it is safe; BOOTCTL CLEAR and SAFE change the counters; a
Function Level Reset leaves nothing of a device that runs (R8, R378, R379, R426 to R433, R437). The model's choices: memory that nothing has
written since power was lost reads 0 (log entries 3 and 37), the registers for which the spec gives no reset value are 0 (log entry 4), the
watchdog's latch is cleared by every other reset (log entry 89), a Function Level Reset gives a device its registers of reset (log entry 94),
the counter sector is the last (log entry 132), what an interrupted flash operation leaves (log entry 133), and the firmware's own
extensions of MEAS1 to MEAS3 (log entry 134). -/
def Obligations.ResetEvents : Prop :=
  (∀ s t : State, s.bootStart = t → Emptied s s →
    ((∀ e ∈ s.pack.remap, e.bad = false) → Emptied s t) ∧
    Emptied s { t with devices := t.devices.map fun d => { d with faults := [] } } ∧
    ∀ ld : Fin 4, ∀ r ∈ t.devices[ld].faults, r.type = 6 ∧ r.owner = .record) ∧
  (∀ s : State,
    let bs := (List.range 16).map fun i => Memory.read s.mem (counterLoc i)
    let n := (bs.takeWhile fun b => b != 0xFF).length
    s.pack.watchdogLatch = false → n < 16 →
    let counted := { s with mem := Memory.write s.mem (counterLoc n) 0x7F }
    startReason counted.image (s.fresh + 1) = 0 → Memory.read s.mem (counterLoc n) = 0xFF →
      let t := s.bootStart
      t.pack.stage = .running ∧ t.pack.attempts = n ∧ t.pack.safe = decide (3 ≤ n) ∧ t.pack.startTime = s.pack.time ∧
        t.mem = counted.mem ∧ t.pack.fwver = imageVersion counted.image ∧
        t.pack.meas[(0 : Fin 4)] = sha512 (s.pack.meas[(0 : Fin 4)] ++ imageDigest counted.image) ∧ (t.pack.safe = true → t.pack.hostUp2 = 0)) ∧
  (∀ s : State,
    let afresh := fun (i : Instr) (t : State) => exec i s = .next t.bootStart ∧ Emptied s t ∧ t.pack.stage = .rom ∧
      (Memory.wf s.mem = true → ∀ a, 2 ^ 68 ≤ a → Memory.read t.mem a = Memory.read s.mem a)
    let stale := s.pack.startTime + 10000000000 ≤ s.pack.time
    (s.pack.stage = .off → ∃ t, afresh .powerOnReset t ∧ t.pack.watchdogLatch = false) ∧
    (s.pack.stage ≠ .off → exec .powerOnReset s = .next s ∧ ∃ t, afresh .packageReset t ∧ t.pack.watchdogLatch = false) ∧
    (s.pack.stage = .off → exec .packageReset s = .next s) ∧
    (s.pack.stage = .running → stale → ∃ t, afresh .startTimerExpire t ∧ t.pack.watchdogLatch = true) ∧
    ((s.pack.stage ≠ .running ∨ ¬ stale) → exec .startTimerExpire s = .next s) ∧
    (s.pack.stage = .running ∨ s.pack.stage = .ready → ∃ t, afresh .firmwareWatchdog t ∧ t.pack.watchdogLatch = true) ∧
    (s.boardBusy = false → ∃ t, afresh .bootReset t ∧ t.pack.watchdogLatch = false) ∧
    (s.pack.stage = .recovery → s.pack.trained = false → stale → ∃ t, afresh .recoveryLinkTimeout t ∧ t.pack.watchdogLatch = false) ∧
    ((s.pack.stage ≠ .recovery ∨ s.pack.trained = true ∨ ¬ stale) → exec .recoveryLinkTimeout s = .next s)) ∧
  (∀ s : State, ∃ t, exec .powerLoss s = .next t ∧ Emptied s t ∧ t.pack.stage = .off ∧
    (Memory.wf s.mem = true →
      ((∀ w, s.pack.touched = some w → w.since + Config.flashTime w.erase ≤ s.pack.time) →
        ∀ a, 2 ^ 68 ≤ a → Memory.read t.mem a = Memory.read s.mem a) ∧
      (∀ b since, s.pack.touched = some ⟨false, b, since⟩ → s.pack.time < since + Config.flashTime false → 2 ^ 68 ≤ b →
        Memory.read t.mem b ≠ 0xFF ∧ ∀ a, 2 ^ 68 ≤ a → a ≠ b → Memory.read t.mem a = Memory.read s.mem a) ∧
      (∀ k since, s.pack.touched = some ⟨true, k, since⟩ → ∀ a, 2 ^ 68 ≤ a →
        ¬ (flashLoc (65536 * k) ≤ a ∧ a < flashLoc (65536 * k) + 16) → Memory.read t.mem a = Memory.read s.mem a)) ∧
    (∀ a, a < 2 ^ 64 → Memory.read t.mem a = 0)) ∧
  (∀ s : State,
    let erased := { s with
      mem := Memory.clearRange s.mem (counterLoc 0) 65536
      pack := { s.pack with touched := some ⟨true, Config.counterSector.val, s.pack.time⟩ } }
    let ready := fun (t : State) => { t with
      pack := { t.pack with stage := .ready, meas := firmwareExtends s.fresh s.pack.meas }, fresh := s.fresh + 1 }
    let inTime := s.pack.time < s.pack.startTime + 10000000000
    (s.pack.stage = .running → inTime → s.pack.safe = false → exec .fwready s = .next (ready erased)) ∧
    (s.pack.stage = .running → inTime → s.pack.safe = true → exec .fwready s = .next (ready s)) ∧
    ((s.pack.stage ≠ .running ∨ ¬ inTime) → exec .fwready s = .next s) ∧
    (firmwareExtends s.fresh s.pack.meas)[(0 : Fin 4)] = s.pack.meas[(0 : Fin 4)] ∧
    (s.boardBusy = false → exec .bootClear s = .next erased) ∧
    (s.boardBusy = true → exec .bootClear s = .next s ∧ exec .bootSafe s = .next s ∧ exec .bootReset s = .next s) ∧
    (s.boardBusy = false → Memory.wf s.mem = true → ∃ t, exec .bootSafe s = .next t ∧ 3 ≤ counted t.counter ∧
      t = { s with mem := t.mem, pack := { s.pack with touched := t.pack.touched } } ∧
      ∀ a, a ≠ counterLoc 0 → a ≠ counterLoc 1 → a ≠ counterLoc 2 → Memory.read t.mem a = Memory.read s.mem a)) ∧
  (∀ s : State, s.serves s.arg.ld = false → exec .functionLevelReset s = .next s) ∧
  (∀ s : State, s.serves s.arg.ld = true → ∃ t, exec .functionLevelReset s = .next t ∧
    let ld := s.arg.ld
    (∀ e ∈ t.groups, deviceOfGroup (groupId e.1) ≠ ld) ∧ (∀ x ∈ t.teams, deviceOf x.cl ≠ ld) ∧ (∀ l ∈ t.launches, l.ld ≠ ld) ∧
      (∀ e ∈ t.ctxs, e.1 / 4096 ≠ ld.val) ∧ (∀ o ∈ t.ops, o.ld ≠ ld) ∧ (∀ l ∈ t.leases, l.ld ≠ ld) ∧ (∀ j ∈ t.jobs, j.ld ≠ ld) ∧
      t.devices[ld].exports = [] ∧ t.devices[ld].imports = [] ∧ t.devices[ld].rtBase = 0 ∧ t.devices[ld].faults = [] ∧ t.arg = s.arg)

/-- Links, power and heat: a link reset takes a host link down and a training brings it up, in safe harbour only PD0's at generation 5;
at each new multiple of 100 µs the duty follows the sensors; at 110 °C the part trips; at most eight matrix engines of a die wake in 100 ns
(R423, R431, R433 to R436). -/
def PowerEvents : Prop :=
  (∀ s : State,
    let first := s.arg.num = 0
    let gen := s.arg.value.toNat
    let up := s.pack.stage = .running ∨ s.pack.stage = .ready ∨ s.pack.stage = .recovery
    let most := if s.pack.safe then 5 else 7
    (∃ t, exec .linkReset s = .next t ∧ t = { s with pack := t.pack } ∧
      (first → t.pack.hostUp0 = 0 ∧ t.pack.hostUp2 = s.pack.hostUp2) ∧ (¬ first → t.pack.hostUp2 = 0 ∧ t.pack.hostUp0 = s.pack.hostUp0)) ∧
    (up → 5 ≤ gen → gen ≤ most → (first ∨ s.pack.safe = false) → ∃ t, exec .hostLinkUp s = .next t ∧ t = { s with pack := t.pack } ∧
      (first → t.pack.hostUp0.val = gen ∧ t.pack.hostUp2 = s.pack.hostUp2) ∧
      (¬ first → t.pack.hostUp2.val = gen ∧ t.pack.hostUp0 = s.pack.hostUp0)) ∧
    ((¬ up ∨ gen < 5 ∨ most < gen ∨ (¬ first ∧ s.pack.safe = true)) → exec .hostLinkUp s = .next s)) ∧
  (∀ s : State,
    let temp : BitVec 48 := BitVec.ofNat 48 s.arg.value.toNat
    let heat := partAt temp 95 = true
    let above := s.pack.plimit.toNat < s.arg.num % 2 ^ 12
    (s.pack.powerAt < s.pack.time / 100000 → ∃ t, exec .powerEvaluate s = .next t ∧
      t.pack.powerAt = s.pack.time / 100000 ∧ t.pack.temp = temp ∧ t.pack.pwrnow.toNat % 2 ^ 12 = s.arg.num % 2 ^ 12 ∧
      (partAt temp 105 = true → t.pack.duty = 32) ∧
      (partAt temp 105 = false → heat ∨ (above ∧ s.freezing = false) → 32 < s.pack.duty → 32 ≤ t.pack.duty ∧ t.pack.duty < s.pack.duty) ∧
      (¬ heat → s.freezing = true → t.pack.duty = 256) ∧
      (¬ heat → ¬ above → s.freezing = false → s.pack.time < s.pack.hot + 10000000 → t.pack.duty = s.pack.duty) ∧
      (¬ heat → ¬ above → s.freezing = false → s.pack.hot + 10000000 ≤ s.pack.time → s.pack.duty < 256 →
        s.pack.duty < t.pack.duty ∧ t.pack.duty ≤ 256) ∧
      (heat → t.pack.therm = true) ∧ (above → t.pack.power = true) ∧ t.groups = s.groups ∧ t.mem = s.mem) ∧
    (s.pack.time / 100000 ≤ s.pack.powerAt → exec .powerEvaluate s = .next s)) ∧
  (∀ s : State,
    let temp : BitVec 48 := BitVec.ofNat 48 s.arg.value.toNat
    let runs := s.pack.stage = .running ∨ s.pack.stage = .ready ∨ s.pack.stage = .recovery
    (dieAt temp 110 = true → runs → ∃ t, exec .thermtrip s = .next t ∧ t.pack.stage = .tripped ∧ t.pack.temp = temp ∧
      (Memory.wf s.mem = true →
        (s.pack.stage = .ready → s.pack.safe = false → Memory.read s.mem (counterLoc 0) = 0xFF → Memory.read t.mem (counterLoc 0) = 0x77) ∧
        ((s.pack.stage ≠ .ready ∨ s.pack.safe = true) → Memory.read s.mem (counterLoc s.pack.attempts) = 0x7F →
          Memory.read t.mem (counterLoc s.pack.attempts) = 0x77)) ∧
      (∀ j ∈ t.jobs, j.thaw = true) ∧ t.groups = s.groups) ∧
    ((dieAt temp 110 = false ∨ ¬ runs) → exec .thermtrip s = .next s)) ∧
  (∀ s : State,
    let cl := s.arg.cl
    let c := s.cluster cl
    let die := (deviceOf cl).val
    let recent := s.pack.wakes.filter fun w => decide (s.pack.time < w.2 + 100)
    let used := (recent.filter fun w => w.1 == die).length
    (s.engineAwake c = false → used < 8 → exec .wakeSlotGrant s = .next { s.setCluster cl { c with awake := true } with
      pack := { s.pack with wakes := (die, s.pack.time) :: recent } }) ∧
    ((s.engineAwake c = true ∨ 8 ≤ used) → exec .wakeSlotGrant s = .next s))

/-- Attestation and flash: ATTEST starts a quote, which is written after its nonce, or fails for want of a host link; a flash operation
starts unless one is under way; it erases a sector, or programs a page that reads erased from host memory and reads it back, and the
counter sector is never changed (R428, R437, R438). -/
def FlashEvents : Prop :=
  (∀ s : State,
    let x := s.arg.value.toNat
    (s.serves s.arg.ld = false → exec .attest s = .next s) ∧
    (s.serves s.arg.ld = true → s.boardBusy = false → 2 ^ 63 ≤ x → exec .attest s = .next { s with pack := { s.pack with
      attBusy := some (x % 2 ^ 48 / 2 ^ 6 * 2 ^ 6), attErr := false } }) ∧
    ((s.boardBusy = true ∨ x < 2 ^ 63) → exec .attest s = .next s)) ∧
  (∀ (s : State) (a : Nat), s.pack.attBusy = some a →
    ((s.pack.hostUp0 ≠ 0 ∨ s.pack.hostUp2 ≠ 0) →
      let body := s.hostRead a 64 ++ s.pack.meas.toList.flatten ++ toBytes 8 s.pack.fwver.toNat ++ [s.pack.pkgid]
      let quote := body ++ Config.quoteSignature s.fresh (sha512 body)
      let t := s.hostWrite (a + 64) quote
      exec .attestComplete s = .next { t with
        pack := { t.pack with attBusy := none, attLen := BitVec.ofNat 16 quote.length }, fresh := t.fresh + 1 }) ∧
    (s.pack.hostUp0 = 0 → s.pack.hostUp2 = 0 →
      exec .attestComplete s = .next { s with pack := { s.pack with attBusy := none, attErr := true } })) ∧
  (∀ s : State, s.pack.attBusy = none → exec .attestComplete s = .next s) ∧
  (∀ s : State,
    let page := s.arg.num % 2 ^ 12
    let host := s.arg.value.toNat % 2 ^ 48 / 2 ^ 12 * 2 ^ 12
    let starts := fun (erase : Bool) => { s with pack := { s.pack with
      flashwin := BitVec.ofNat 64 ((if erase then 2 ^ 62 else 0) + page * 2 ^ 48 + host), flashErr := false
      flashOp := some ⟨erase, page, host⟩ } }
    (s.pack.flashOp = none → exec .flashErase s = .next (starts true) ∧ exec .flashProgram s = .next (starts false)) ∧
    (s.pack.flashOp ≠ none → exec .flashErase s = .next s ∧ exec .flashProgram s = .next s)) ∧
  (∀ (s : State) (op : FlashOp), s.pack.flashOp = some op →
    let ended := fun (t : State) (bad : Bool) => { t with pack := { t.pack with flashOp := none, flashErr := bad } }
    let at_ := flashLoc (4096 * op.page)
    let linked := s.pack.hostUp0 ≠ 0 ∨ s.pack.hostUp2 ≠ 0
    let erased := ∀ i < 4096, Memory.read s.mem (at_ + i) = 0xFF
    (Config.counterSector.val ≤ op.page / 16 → exec .flashOpComplete s = .next (ended s true)) ∧
    (op.page / 16 < Config.counterSector.val →
      (op.erase = true → exec .flashOpComplete s =
        .next (ended { s with
          mem := Memory.clearRange s.mem (flashLoc (65536 * (op.page / 16))) 65536
          pack := { s.pack with touched := some ⟨true, op.page / 16, s.pack.time⟩ } } false)) ∧
      (op.erase = false → ¬ linked → exec .flashOpComplete s = .next s) ∧
      (op.erase = false → linked → ¬ erased → exec .flashOpComplete s = .next (ended s true)) ∧
      (op.erase = false → linked → erased → Memory.wf s.mem = true → ∃ t, exec .flashOpComplete s = .next t ∧ t.pack.flashOp = none ∧ t.pack.flashErr = false ∧
        (∀ i < 4096, Memory.read t.mem (at_ + i) = (s.hostRead op.addr 4096).getD i 0) ∧
        (∀ a, a < at_ ∨ at_ + 4096 ≤ a → Memory.read t.mem a = Memory.read s.mem a)))) ∧
  (∀ s : State, s.pack.flashOp = none → exec .flashOpComplete s = .next s)

/-! ### Extents, and LEXIT and LCNT -/

/-- The extent of a value, and the canonical form of a value in a span (R76): the extent is the least e from 1 upwards with
-2^(32e-1) ≤ x < 2^(32e-1); a span that a wide word has written holds x in limbs 0 to e-1 with sign fill above them, and carries e in the
tag of its first register. -/
def Obligations.ExtentIsLeast : Prop :=
  (∀ x : Int, 1 ≤ extent x ∧ -2 ^ (32 * extent x - 1) ≤ x ∧ x < 2 ^ (32 * extent x - 1) ∧
    ∀ e : Nat, 1 ≤ e → -2 ^ (32 * e - 1) ≤ x → x < 2 ^ (32 * e - 1) → extent x ≤ e) ∧
  (∀ (grp : Group) (slices : BitVec 8) (r n : Nat) (x : Int), (n = 1 ∨ n = 2 ∨ n = 4) → r % n = 0 → r + n ≤ 64 →
    (grp.lead slices).loops.length ≤ 4 → -2 ^ (1024 * n - 1) ≤ x → x < 2 ^ (1024 * n - 1) →
    let depth := (grp.lead slices).loops.length
    let t := grp.putSpans slices [(r, n, x)]
    (∀ k (_ : k < 32 * n), (laneReg t.v (vIndex depth (r + k / 32)))[k % 32]'(by omega) =
      if k < extent x then BitVec.ofInt 32 (x / 2 ^ (32 * k)) else if x < 0 then BitVec.allOnes 32 else 0) ∧
    (t.tags.getD (vIndex depth r) 0).toNat = extent x)

/-- LEXIT and LCNT (R287): uniform major 0x14, fn 0 and 1. LEXIT, guarded by its condition field, pops the innermost level and continues
at that level's last + 4, and ends the run; with an empty loop stack it raises a precise ILLEGAL trap, in a group and as a fault of a
generator. LCNT writes the innermost level's count, zero-extended, or 0 when the stack is empty: 3 in the first of three iterations. -/
def Obligations.LoopStackWords : Prop :=
  (∀ c : Fin 8, (decodeWords (BitVec.ofNat 32 (2 ^ 31 + 0x14 * 2 ^ 24 + c.val * 2 ^ 3)) 0).toOption = some (.lexit, ⟨false, c, 0⟩, 1)) ∧
  (∀ (c : Fin 8) (sd : Fin 64), (decodeWords (BitVec.ofNat 32 (2 ^ 31 + 0x14 * 2 ^ 24 + sd.val * 2 ^ 18 + c.val * 2 ^ 3 + 1)) 0).toOption =
    some (.lcnt ⟨sd⟩, ⟨false, c, 0⟩, 1)) ∧
  (∀ (s : State) (l : LoopLevel) (rest : List LoopLevel), s.issuing → s.condHolds = true → s.loops = l :: rest →
    (∀ cl p, PilotIssues s cl p → (l.last + 4).toNat < 2 ^ 16) → exec .lexit s = .next (s.goto (l.last + 4) rest).endRun) ∧
  (∀ s : State, s.issuing → s.condHolds = false → exec .lexit s = .next s.advance) ∧
  (∀ (s : State) (g : GroupId) (slices : BitVec 8) (grp : Group), Issues s g slices grp → s.condHolds = true → s.loops = [] →
    Traps .lexit s g slices { kind := .illegal, reason := 6 }) ∧
  (∀ (s : State) (cl : ClusterId) (p : Pilot), PilotIssues s cl p → s.condHolds = true → s.loops = [] →
    exec .lexit s = .next (s.generatorFault cl { kind := .illegal, reason := 6 })) ∧
  (∀ (o : UDc) (s : State), s.condHolds = true → s.uniformReady [] [o.sd] →
    (∀ (l : LoopLevel) (rest : List LoopLevel), s.loops = l :: rest →
      exec (.lcnt o) s = .next (s.writeUniform o.sd (l.count.zeroExtend 64)).advance) ∧
    (s.loops = [] → exec (.lcnt o) s = .next (s.writeUniform o.sd 0).advance)) ∧
  (∀ (o : ULoop) (s : State), s.uniformReady [o.sa] [] → s.readU o.sa = 3 → s.loops.length < 4 →
    exec (.loop o) s = .next (s.goto (s.pc + 4) (⟨s.pc + 4, s.pc + 4 + BitVec.ofNat 48 (4 * o.imm.toNat), 3⟩ :: s.loops))) ∧
  (∀ (o : UDc) (s : State), s.condHolds = false → s.issuing → exec (.lcnt o) s = .next s.advance)

/-! ### Frames -/

/-- What the lane words leave as it was: their next states, `s.doneWith g slices` of the group with flags raised and registers written,
keep memory, every other group, and all else of the state; and of the group every register place that is not written, every lane that is
not among those written, predicates, uniform registers and conditions, special registers but FLAGS, and the slices of other gangs (R56,
R59, R70, R98). Of the gang's own slices only the program counter and the loop stack change. -/
def LaneWordFrame : Prop :=
  ∀ (s : State) (g : GroupId) (slices : BitVec 8) (grp : Group) (fl : BitVec 7) (lanes : LaneMask) (ws : List (Nat × VReg)),
    s.group? g = some grp →
    let place := fun (e : Nat × VReg) => vIndex (grp.lead slices).loops.length e.1
    let t := s.doneWith g slices ((grp.raise fl).writeAll slices lanes ws)
    t = { s with groups := t.groups } ∧ (∀ a, Memory.read t.mem a = Memory.read s.mem a) ∧
      (∀ h : GroupId, h ≠ g → t.group? h = s.group? h) ∧
      ∃ grp' : Group, t.group? g = some grp' ∧
        grp = { grp' with v := grp.v, tags := grp.tags, vpoison := grp.vpoison, inflight := grp.inflight, flags := grp.flags,
                          slices := grp.slices, progress := grp.progress } ∧
        grp'.flags = grp.flags ||| fl ∧
        (∀ i : Fin 96, (∀ e ∈ ws, place e ≠ i.val) → grp'.v[i] = grp.v[i]) ∧
        (∀ (i : Fin 96) (l : Fin 32), maskHas lanes l.val = false → grp'.v[i][l] = grp.v[i][l]) ∧
        (∀ i : Fin 96, grp'.tags[i] = grp.tags[i] ∨
          (grp'.tags[i] = 0 ∧ ∃ e ∈ ws, i.val = place e ∨ i.val = place e - place e % 2 ∨ i.val = place e - place e % 4)) ∧
        (∀ i : Fin 8, maskHas slices i.val = false → grp'.slices[i] = grp.slices[i]) ∧
        (∀ i : Fin 8, grp.slices[i] = { grp'.slices[i] with pc := grp.slices[i].pc, loops := grp.slices[i].loops })

/-- What the uniform words leave as it was: their next states `(s.writeUniform sd x).advance`, with no queue port at sd, keep memory, every
other group, and all else of the state; of the issuing group every uniform register but sd, every lane register, predicate, condition and
special register, and the slices of other gangs; of an issuing Pilot every register but sd and everything of its cluster beside it (R61,
R62). -/
def UniformWordFrame : Prop :=
  (∀ (s : State) (g : GroupId) (slices : BitVec 8) (grp : Group) (sd : Fin 64) (x : DWord), Issues s g slices grp → grp.port sd = none →
    let t := (s.writeUniform sd x).advance
    t = { s with groups := t.groups } ∧ (∀ a, Memory.read t.mem a = Memory.read s.mem a) ∧
      (∀ h : GroupId, h ≠ g → t.group? h = s.group? h) ∧
      ∃ grp' : Group, t.group? g = some grp' ∧
        grp = { grp' with u := grp.u, spoison := grp.spoison, inflight := grp.inflight, slices := grp.slices, progress := grp.progress } ∧
        grp'.u.c = grp.u.c ∧ (∀ r : Fin 64, r ≠ sd → grp'.u.get r = grp.u.get r) ∧ grp'.u.get sd = (if sd = 0 then 0 else x) ∧
        (∀ i : Fin 8, maskHas slices i.val = false → grp'.slices[i] = grp.slices[i])) ∧
  (∀ (s : State) (cl : ClusterId) (p : Pilot) (sd : Fin 64) (x : DWord), PilotIssues s cl p →
    let t := (s.writeUniform sd x).advance
    t = { s with clusters := t.clusters } ∧ (∀ a, Memory.read t.mem a = Memory.read s.mem a) ∧
      (∀ b : ClusterId, b ≠ cl → t.cluster b = s.cluster b) ∧
      ∃ p' : Pilot, t.cluster cl = { s.cluster cl with pilot := p' } ∧
        p = { p' with u := p.u, spoison := p.spoison, inflight := p.inflight, pc := p.pc, loops := p.loops } ∧
        p'.u.c = p.u.c ∧ (∀ r : Fin 64, r ≠ sd → p'.u.get r = p.u.get r) ∧ p'.u.get sd = (if sd = 0 then 0 else x))

/-! ### Reset, hard-wired registers and the step -/

/-- What the spec gives for reset: the part is about to run the boot ROM, with no context, group, launch or lease; AGEUS is 50, SCRUBPER
86,400, PLIMIT 2,200, STAGMIN, PKGID and every LPIN 0, no profile is enabled, and every link has half of its bundles each way (R119, R362,
R399, R402, R426, R433, R437). The values of State.reset for which the spec gives none are the model's choice (log entry 4), and are not
stated here. -/
def Obligations.ResetState : Prop :=
  let s := State.reset
  s.groups = [] ∧ s.launches = [] ∧ s.teams = [] ∧ s.ctxs = [] ∧ s.leases = [] ∧ s.pack.stage = .rom ∧
    (∀ ld : Fin 4, s.devices[ld].ageUs = 50 ∧ (∀ k : Fin 4, s.devices[ld].lpin[k] = 0 ∧ s.devices[ld].profiles[k].en = false)) ∧
    s.pack.scrubPer = 86400 ∧ s.pack.plimit = 2200 ∧ s.pack.stagmin = 0 ∧ s.pack.pkgid = 0 ∧
    (∀ i : Fin 12, 2 * s.pack.links[i] = bundlesOf i)

/-- The hard-wired registers: s0 reads as zero and discards what is written to it; p0 and c0 read as true and discard what is written to
them; any other reads what was written last (R61, R62). -/
def Obligations.HardWiredRegisters : Prop :=
  (∀ (u : UFile) (r q : Fin 64) (x : DWord),
    u.get 0 = 0 ∧ u.set 0 x = u ∧ (r ≠ 0 → (u.set r x).get r = x) ∧ (q ≠ r → (u.set r x).get q = u.get q)) ∧
  (∀ (u : UFile) (k j : Fin 8) (b : Bool),
    u.cond 0 = true ∧ u.setCond 0 b = u ∧ (k ≠ 0 → (u.setCond k b).cond k = b) ∧ (j ≠ k → (u.setCond k b).cond j = u.cond j)) ∧
  (∀ (grp : Group) (k j : Fin 8) (lanes x : LaneMask) (l : Fin 32),
    grp.pred 0 = BitVec.allOnes 32 ∧ grp.setPred 0 lanes x = grp ∧
      (k ≠ 0 → maskHas ((grp.setPred k lanes x).pred k) l.val =
        if maskHas lanes l.val then maskHas x l.val else maskHas (grp.pred k) l.val) ∧
      (j ≠ k → (grp.setPred k lanes x).pred j = grp.pred j))

/-- A core in a run: when its gang fetches a word that decodes, and no comparator stops it, the step is that instruction's exec on the
state that issues it, with what ends every word of a run around it. -/
def GangStep : Prop :=
  ∀ (s t : State) (c : Core) (r : Run) (grp : Group) (f : Fetched) (i : Instr) (q : Issue) (n : Nat),
    (s.pack.stage = .running ∨ s.pack.stage = .ready) → s.inputs = [] → s.turn = .core c → s.run c = some r →
    let s0 : State := { s.arriveClosed r.g (r.count == 0) with cur := some (.gang r.g r.slices) }
    s0.group? r.g = some grp → s0.nextFetch r.g grp r.slices = .ok (t, f) → decodeWords f.word f.word2 = .ok (i, q, n) →
    ((grp.lead r.slices).passBreak = true ∨ s0.breakHere r.g grp (grp.lead r.slices).pc f = false) →
    (f.berth = true → privilegedWord f.word = true →
      ((t.cluster (clusterOf r.g)).streams[berthStream (grp.lead r.slices).pc]).priv = .system) →
      step s = onNext (exec i { t with fetched := f, issue := q }) (State.finishGang c r (s.oldResults r) (s.runPc r))

/-- What a gang fetches: the word, or the UX pair, whose bytes stand at its program counter in plain code that translates for it. -/
def PlainFetch : Prop :=
  ∀ (s t : State) (g : GroupId) (slices : BitVec 8) (grp : Group) (ps : List Place),
    s.group? g = some grp → (grp.lead slices).wait = .ready →
    let pc := (grp.lead slices).pc
    let s0 := s.setGroup g (grp.wake slices)
    inBerth pc = false → (grp.priv = .system ∨ pc.toNat < 2 ^ 47) →
    s0.places (s0.groupReq g (grp.wake slices) .fetch) pc.toNat 4 = .ok (t, ps) → (t.readPlaces ps).2 = none →
    let w : Word := BitVec.ofNat 32 (ofBytes (t.codeBytes grp.launch ps))
    (isLiteral w.toNat = false → s.nextFetch g grp slices = .ok (t, ⟨w, 0, none, false⟩)) ∧
    (∀ (u : State) (qs : List Place), isLiteral w.toNat = true →
      t.places (t.groupReq g (grp.wake slices) .fetch) (nextWord pc).toNat 4 = .ok (u, qs) → (u.readPlaces qs).2 = none →
        s.nextFetch g grp slices = .ok (u, ⟨w, BitVec.ofNat 32 (ofBytes (u.codeBytes grp.launch qs)), none, false⟩))

/-- A step runs the decoded instruction: a core's gang, from its program counter in plain code, and a Pilot, from its word in Pilot memory;
and an event that comes from outside the part is the exec of its row (R27, R100, R147, R275). -/
def Obligations.StepRunsDecoded : Prop :=
  GangStep ∧ PlainFetch ∧
  (∀ (s : State) (cl : ClusterId) (i : Instr) (q : Issue) (n : Nat),
    (s.pack.stage = .running ∨ s.pack.stage = .ready) → s.inputs = [] → s.turn = .pilot cl → s.pilotReady cl = true → s.answeredAccess cl = none →
    let p : Pilot := { ((s.cluster cl).pilot).arriveClosed s.fresh with wait := .ready }
    let t : State := { s.setPilot cl p with cur := some (.pilot cl) }
    let f := t.pilotFetch cl p.pc
    p.pc.toNat + 4 < 2 ^ 16 → decodeWords f.word f.word2 = .ok (i, q, n) →
      step s = onNext (exec i { t with fetched := f, issue := q }) fun u => (u.afterPilot cl p.inflight.length).nextTurn.settled) ∧
  (∀ (s : State) (x : Input) (rest : List Input) (i : Instr) (a : Arg), s.pack.stage ≠ .rom → s.inputs = x :: rest → x = .event i a →
    encodeBits i = none → step s = onNext (exec i { s with inputs := rest, arg := a }) State.settled)

/-! ### Encodings -/

/-- Words of each family written out from the encoding tables decode to the instructions that they stand for (R147 to R157). -/
def Obligations.DecodeWords : Prop :=
  let reads := fun (w : Nat) (data : Word) => (decodeWords (BitVec.ofNat 32 w) data).toOption
  -- IADD v3, v1, v2: major 0x01, vd [19:14], va [13:8], vb [7:2], fn 0
  reads (0x01 * 2 ^ 24 + 3 * 2 ^ 14 + 1 * 2 ^ 8 + 2 * 2 ^ 2) 0 =
    some (.iadd ⟨false, 0, 3, 1, 2⟩, ⟨false, 0, 0⟩, 1) ∧
  -- ICMP.i32 LT p5, v7, v9 under p2, with U and the run bit: cc [19:17] code 2, k [16:14]
  reads (2 ^ 30 + 0x0A * 2 ^ 24 + 2 ^ 23 + 2 * 2 ^ 20 + 2 * 2 ^ 17 + 5 * 2 ^ 14 + 7 * 2 ^ 8 + 9 * 2 ^ 2) 0 =
    some (.icmpI32 ⟨true, 2, .lt, 5, 7, 9⟩, ⟨true, 0, 0⟩, 1) ∧
  -- WADD.w2 v4, v6, v8: major 0x28, w [22:20] code 1
  reads (0x28 * 2 ^ 24 + 1 * 2 ^ 20 + 4 * 2 ^ 14 + 6 * 2 ^ 8 + 8 * 2 ^ 2) 0 =
    some (.wadd ⟨.w2, 4, 6, 8⟩, ⟨false, 0, 0⟩, 1) ∧
  -- LD.32 v5, [v10] with LA 3 under p1: major 0x38, la [7:4], z [3:1] code 4
  reads (0x38 * 2 ^ 24 + 1 * 2 ^ 20 + 5 * 2 ^ 14 + 10 * 2 ^ 8 + 3 * 2 ^ 4 + 4 * 2) 0 =
    some (.ld ⟨false, 1, 5, 10, 3, .b32, false⟩, ⟨false, 0, 0⟩, 1) ∧
  -- SADD s9, s8, s7 under c2: uniform major 0x00, sd [23:18], sa [17:12], sb [11:6], c [5:3]
  reads (2 ^ 31 + 9 * 2 ^ 18 + 8 * 2 ^ 12 + 7 * 2 ^ 6 + 2 * 2 ^ 3) 0 =
    some (.sadd ⟨9, 8, 7⟩, ⟨false, 2, 0⟩, 1) ∧
  -- SLIT s4, 0xDEADBEEF: uniform major 0x06, fn 0, then the data word
  reads (2 ^ 31 + 0x06 * 2 ^ 24 + 4 * 2 ^ 18) 0xDEADBEEF = some (.slit ⟨4, 0xDEADBEEF⟩, ⟨false, 0, 0⟩, 2) ∧
  -- BRA !c3, -2: major 0x10, k [23:21], negate [20], off [19:0]
  reads (2 ^ 31 + 0x10 * 2 ^ 24 + 3 * 2 ^ 21 + 2 ^ 20 + (2 ^ 20 - 2)) 0 =
    some (.bra ⟨3, true, -2⟩, ⟨false, 0, 0⟩, 1) ∧
  -- the words that are illegal for ever
  reads 0 0 = none ∧ reads (2 ^ 31 + 0x3F * 2 ^ 24) 0 = none ∧
  -- bytes lie in memory lowest first
  (decode [0x08, 0xC1, 0x00, 0x01]).toOption = some (.iadd ⟨false, 0, 3, 1, 2⟩, ⟨false, 0, 0⟩, [])

/-- Decoding and encoding agree: the words of every well-formed instruction, at every value of every operand, of the run bit and of the
fields that it carries beside its operands, decode to it (R147 to R157). -/
def Obligations.DecodeEncode : Prop :=
  ∀ (i : Instr) (q : Issue) (w : Word) (rest : List Word), i.wf = true → i.issueOk q = true → encode i q = some (w :: rest) →
    decodeWords w (rest.headD 0) = .ok (i, q, rest.length + 1)

/-- Every step keeps memory in its canonical form. -/
def Obligations.StepKeepsInv : Prop := ∀ s t : State, s.Inv → step s = .next t → t.Inv

/-! ### Statements over several families -/

/-- Lane integer arithmetic and division. -/
def Obligations.LaneIntegerWords : Prop := LaneIntegerResults ∧ LaneDivisionResults

/-- Lane bit operations, and comparison and selection. The model's choices: FCMP and DCMP raise IV with k = 0 also (log entry 124), and SEL with
U counts its predicate among the sources that must agree (log entry 26). -/
def Obligations.LaneLogicWords : Prop := LaneBitResults ∧ LaneCompareResults

/-- Lane binary32 words of two or three sources, and of one. -/
def Obligations.LaneFloatWords : Prop := LaneFloatResults ∧ LaneUnaryFloatResults

/-- Lane binary64 words, and conversions and packs. -/
def Obligations.LaneConversionWords : Prop := LaneDoubleResults ∧ LaneConvertResults

/-- Dot products, reductions over the active lanes, and their extremes. -/
def Obligations.LaneReductionWords : Prop := LaneDotResults ∧ ReduceResults ∧ ExtremeResults

/-- Shuffles, predicate words and votes, and exchanges between lanes and uniform registers. -/
def Obligations.CrossLaneWords : Prop := ShuffleResults ∧ PredicateResults ∧ LaneExchangeResults

/-- Short wide words: arithmetic, words of one source, comparison. -/
def Obligations.WideWords : Prop := WideArithmeticResults ∧ WideUnaryResults ∧ WideCompareResults

/-- Sequenced wide words: what issuing them leaves, and the values that the sequencer computes. R200 bounds the steps of QNORM and WGCD and
leaves their counts open; that the bounds are the counts is the model's choice (log entry 43). -/
def Obligations.SequencedWords : Prop := SequencedIssue ∧ SequencedValues

/-- Uniform bit operations, and comparison, conditions and selection. -/
def Obligations.UniformLogicWords : Prop := UniformBitResults ∧ UniformConditionResults

/-- Reads and writes of special registers. -/
def Obligations.SpecialRegisterWords : Prop := SpecialRegisterReads ∧ SpecialRegisterWrites

/-- Lane loads and lane stores. -/
def Obligations.LaneMemoryWords : Prop := LaneLoadResults ∧ LaneStoreResults

/-- Lane atomics: the values they compute, and what the words leave. -/
def Obligations.LaneAtomicWords : Prop := AtomicValues ∧ LaneAtomicResults

/-- Asynchronous copies and their batches, and the words of hardware queues. -/
def Obligations.CopyAndQueueWords : Prop := CopyResults ∧ QueueWordResults

/-- Engine operations and copy batches that complete. That copies of the open and of sealed batches may be performed early, copy by copy as a
free bit says, is the model's choice (log entries 13 and 100). -/
def Obligations.EngineCompletionEvents : Prop := BatchCompletions ∧ EngineCompletions

/-- Stream descriptors armed and disarmed, barriers, fences, supersteps and waits. -/
def Obligations.SynchronisingWords : Prop := StreamArmResults ∧ SyncResults

/-- TRAP, BKPT and RETT. -/
def Obligations.TrapAndReturnWords : Prop := TrapWords ∧ HandlerReturn

/-- STOW, UNSTOW, PUBL and LAUNCH at issue. The model's choices: UNSTOW of a handle whose extent field is not the stowed entry's is STOWBAD
(log entry 57), and a child launch both too deep and too large is DEPTH (log entry 142). -/
def Obligations.PlacementWords : Prop := StowageAndPublish ∧ LaunchIssue

/-- Generator words, and the ends of a generator's waits. The model's choices: EMITST is tested before .chk (log entry 58), a word that waited
for EMIT_RESUME or ESYNC_COMPLETE is issued again (log entry 59), and EOPEN takes BERTHFULL before it waits to reopen (log entry 143). -/
def Obligations.GeneratorWords : Prop := GeneratorResults ∧ GeneratorEvents

/-- The tile product is exact, and the transform is its sum. -/
def Obligations.EngineArithmetic : Prop := ProductIsExact ∧ TransformIsSum

/-- The sequencer's completions and the ends of waits. The model's choices: CRES reads its columns when it completes (log entry 46), and a
queue request that is served issues its word again (log entry 9). -/
def Obligations.WaitEnds : Prop := SequencerCompletion ∧ WaitEvents

/-- Arriving accesses, and the memory system's own events. The model's choices: a command on PGVA clears PGSTAT.FULL (log entry 72), errors
stay unseen until a read meets them (log entry 70), the records that a full error ring drops (log entry 69), and write-backs that park (log
entry 73). -/
def Obligations.MemoryEvents : Prop := ArrivingAccesses ∧ MemorySystemEvents

/-- Rings and queues. The model's choices: RLOAD of an enabled ring (log entry 30), and the ready time that a queue has summed since its last
service (log entry 68). -/
def Obligations.RingAndQueueEvents : Prop := RingEvents ∧ QueueEvents

/-- Writes of registers: those that only hold a value, and pools, publish buffers and profiles. The model's choices: what POOL, POOLSZ and PBUF
hold after writes that R404 and R372 do not settle (log entry 98), and the registers held per group, which the host does not reach (log
entry 99). -/
def Obligations.RegisterWrites : Prop := RegisterWriteEvents ∧ ContextRegisterWrites

/-- Links, power and heat, attestation and flash. The model's choices: ATTEST fails without a host link, and PKGID is one byte of the quote
(log entry 92), programming waits for a link (log entry 93), and how far the duty moves at an evaluation (log entry 96). -/
def Obligations.PowerAndFlashEvents : Prop := PowerEvents ∧ FlashEvents

/-- What lane words and uniform words leave as it was. -/
def Obligations.WordFrames : Prop := LaneWordFrame ∧ UniformWordFrame

/-- System registers as PRD reads them, and the privileged words. -/
def Obligations.PrivilegedWords : Prop := SystemRegisterReads ∧ PrivilegedResults

/-- Branches and calls, LOOP and NOP. -/
def Obligations.JumpAndLoopWords : Prop := BranchResults ∧ LoopResults

/-! ### Completion without enabled exceptions -/

/-- A lane word completes in every state in which its operands let it act and no exception is enabled: some values are written to its
destination in the active lanes, some flags are raised, and the gang moves past the word. -/
def LaneCompletes (i : Instr) (u : Bool) (guard : Fin 8) (srcs : List VOp) (dst : VOp) : Prop :=
  ∀ (s : State) (g : GroupId) (slices : BitVec 8) (grp : Group), Issues s g slices grp →
    LaneReady s grp slices u srcs [dst] (grp.acting slices guard) → grp.enables = 0 →
      ∃ (fl : BitVec 7) (xs : List VReg), xs.length = dst.names.length ∧
        exec i s = .next (s.doneWith g slices ((grp.raise fl).writeAll slices (grp.acting slices guard) (dst.names.zip xs)))

/-- A cross-lane word completes in every state in which its operands let it act. -/
def CrossCompletes (i : Instr) (guard : Fin 8) (srcs : List VOp) (dst : VOp) : Prop :=
  ∀ (s : State) (g : GroupId) (slices : BitVec 8) (grp : Group), Issues s g slices grp →
    CrossReady grp slices srcs [dst] (grp.acting slices guard) →
      ∃ xs : List VReg, xs.length = dst.names.length ∧
        exec i s = .next (s.doneWith g slices (grp.writeAll slices (grp.acting slices guard) (dst.names.zip xs)))

/-- Floating point words, conversions, dot products, reductions, scans and extremes complete: FADD, FSUB, FMUL, FFMA, FMIN, FMAX, FSCL,
FABS, FNEG, FRCP, FRSQ, FSQRT, FEXP2, FLOG2, FRINT, FCLASS, DADD, DSUB, DMUL, DFMA, CVT, the DP words, RED, SCAN, MINX and MAXX each answer
a next state whenever their operands let them act (R158, R166, R187) and no exception is enabled in FCTL (R67, R98). -/
def Obligations.FloatAndReductionWordsComplete : Prop :=
  (∀ o : LR3,
    let two := fun (i : Instr) => LaneCompletes i o.u o.g [srcOp o.va, srcOp o.vb] (dstOp o.vd)
    let three := fun (i : Instr) => LaneCompletes i o.u o.g [srcOp o.va, srcOp o.vb, srcOp o.vd] (dstOp o.vd)
    let pairs := fun (i : Instr) => LaneCompletes i o.u o.g [srcOp o.va 2, srcOp o.vb 2] (dstOp o.vd 2)
    two (.fadd o) ∧ two (.fsub o) ∧ two (.fmul o) ∧ three (.ffma o) ∧ two (.fmin o) ∧ two (.fmax o) ∧ two (.fscl o) ∧
      pairs (.dadd o) ∧ pairs (.dsub o) ∧ pairs (.dmul o) ∧
      LaneCompletes (.dfma o) o.u o.g [srcOp o.va 2, srcOp o.vb 2, srcOp o.vd 2] (dstOp o.vd 2) ∧
      three (.dpi8I8 o) ∧ three (.dpi8N8 o) ∧ three (.dpi4I4 o) ∧ three (.dpi4N4 o) ∧ three (.dpe5 o) ∧ three (.dpbf o) ∧
      three (.dpf8 o) ∧ three (.dpf4 o)) ∧
  (∀ o : LR2,
    let one := fun (i : Instr) => LaneCompletes i o.u o.g [srcOp o.va] (dstOp o.vd)
    one (.fabs o) ∧ one (.fneg o) ∧ one (.frcp o) ∧ one (.frsq o) ∧ one (.fsqrt o) ∧ one (.fexp2 o) ∧ one (.flog2 o) ∧ one (.frint o) ∧
      one (.fclass o)) ∧
  (∀ o : LCvt, LaneCompletes (.cvt o) o.u o.g [srcOp o.va (if cvtSrcWide o.code then 2 else 1)]
    (dstOp o.vd (if cvtDstWide o.code then 2 else 1))) ∧
  (∀ o : XR2,
    let one := fun (i : Instr) => CrossCompletes i o.g [srcOp o.va] (dstOp o.vd)
    let extreme := fun (i : Instr) => CrossCompletes i o.g [srcOp o.va] (dstOp o.vd 2)
    one (.redadd o) ∧ one (.redmin o) ∧ one (.redmax o) ∧ one (.redminn o) ∧ one (.scanAdd o) ∧ one (.scanXadd o) ∧ one (.scanMax o) ∧
      one (.scanMin o) ∧ extreme (.minxI32 o) ∧ extreme (.minxN32 o) ∧ extreme (.maxxI32 o) ∧ extreme (.maxxN32 o))
end

