-- ==== Sys2Proof/Laws/Lists.lean ====
section
/-! SUPPORT. Association lists and sparse maps: what a read gives after a write, and the canonical form kept. -/

namespace Sys2Proof.Machine

open Sys2Proof

variable {α : Type}

/-! ### Association lists -/

@[simp] theorem getBy_putBy_self (k : Nat) (v : α) (l : List (Nat × α)) : getBy k (putBy k v l) = some v := by
  induction l with
  | nil => simp [putBy, getBy]
  | cons e rest ih =>
    obtain ⟨x, a⟩ := e
    by_cases h1 : k < x
    · simp [putBy, getBy, h1]
    · by_cases h2 : k = x
      · simp [putBy, getBy, h2]
      · simp [putBy, getBy, h1, h2, ih, Ne.symm h2]

theorem getBy_putBy_ne {j k : Nat} (h : j ≠ k) (v : α) (l : List (Nat × α)) : getBy j (putBy k v l) = getBy j l := by
  induction l with
  | nil => simp [putBy, getBy, h.symm]
  | cons e rest ih =>
    obtain ⟨x, a⟩ := e
    by_cases h1 : k < x
    · simp [putBy, getBy, h1, h.symm]
    · by_cases h2 : k = x
      · subst h2; simp [putBy, getBy, h.symm]
      · simp [putBy, getBy, h1, h2, ih]

@[simp] theorem putBy_putBy_self (k : Nat) (v w : α) (l : List (Nat × α)) : putBy k w (putBy k v l) = putBy k w l := by
  induction l with
  | nil => simp [putBy]
  | cons e rest ih =>
    obtain ⟨x, a⟩ := e
    by_cases h1 : k < x
    · simp [putBy, h1]
    · by_cases h2 : k = x
      · simp [putBy, h2]
      · simp [putBy, h1, h2, ih]

/-! ### Sparse maps -/

variable [DecidableEq α] (d : Nat → α)

theorem sortedAbove_mono {m n : Nat} (h : m ≤ n) {l : List (Nat × α)} (hl : sortedAbove d n l = true) :
    sortedAbove d m l = true := by
  cases l with
  | nil => rfl
  | cons e rest =>
    obtain ⟨x, a⟩ := e
    simp only [sortedAbove, Bool.and_eq_true, decide_eq_true_eq] at hl ⊢
    exact ⟨⟨Nat.le_trans h hl.1.1, hl.1.2⟩, hl.2⟩

/-- Writing keeps the canonical form. -/
theorem sortedAbove_sput {n k : Nat} (hk : n ≤ k) (v : α) {l : List (Nat × α)} (hl : sortedAbove d n l = true) :
    sortedAbove d n (sput d k v l) = true := by
  induction l generalizing n with
  | nil =>
    by_cases hv : v = d k
    · simp [sput, hv, sortedAbove]
    · simp [sput, hv, sortedAbove, hk]
  | cons e rest ih =>
    obtain ⟨x, a⟩ := e
    simp only [sortedAbove, Bool.and_eq_true, decide_eq_true_eq] at hl
    obtain ⟨⟨hx, ha⟩, hr⟩ := hl
    by_cases h1 : k < x
    · by_cases hv : v = d k
      · simp [sput, h1, hv, sortedAbove, hx, ha, hr]
      · simp [sput, h1, hv, sortedAbove, hk, ha, hr] <;> omega
    · by_cases h2 : k = x
      · subst h2
        by_cases hv : v = d k
        · simp only [sput, Nat.lt_irrefl, if_false, hv, if_true]
          exact sortedAbove_mono d (by omega) hr
        · simp [sput, hv, sortedAbove, hk, hr]
      · have h3 : x + 1 ≤ k := by omega
        simp [sput, h1, h2, sortedAbove, hx, ha, ih h3 hr]

/-- A key below a canonical map reads as the default. -/
theorem sget_below {n k : Nat} (hk : k < n) {l : List (Nat × α)} (hl : sortedAbove d n l = true) : sget d k l = d k := by
  cases l with
  | nil => rfl
  | cons e rest =>
    obtain ⟨x, a⟩ := e
    simp only [sortedAbove, Bool.and_eq_true, decide_eq_true_eq] at hl
    have : k < x := by omega
    simp [sget, this]

/-- A read of the key just written gives the value. -/
theorem sget_sput_self {n k : Nat} (v : α) {l : List (Nat × α)} (hl : sortedAbove d n l = true) :
    sget d k (sput d k v l) = v := by
  induction l generalizing n with
  | nil =>
    by_cases hv : v = d k
    · simp [sput, hv, sget]
    · simp [sput, hv, sget]
  | cons e rest ih =>
    obtain ⟨x, a⟩ := e
    simp only [sortedAbove, Bool.and_eq_true, decide_eq_true_eq] at hl
    obtain ⟨⟨hx, ha⟩, hr⟩ := hl
    by_cases h1 : k < x
    · by_cases hv : v = d k
      · simp [sput, h1, hv, sget]
      · simp [sput, h1, hv, sget]
    · by_cases h2 : k = x
      · subst h2
        by_cases hv : v = d k
        · simp only [sput, Nat.lt_irrefl, if_false, hv, if_true]
          exact sget_below d (Nat.lt_succ_self k) hr
        · simp [sput, hv, sget]
      · simp [sput, h1, h2, sget, ih hr]

/-- A write leaves every other key alone. -/
theorem sget_sput_ne {n j k : Nat} (h : j ≠ k) (v : α) {l : List (Nat × α)} (hl : sortedAbove d n l = true) :
    sget d j (sput d k v l) = sget d j l := by
  induction l generalizing n with
  | nil =>
    by_cases hv : v = d k
    · simp [sput, hv]
    · rcases Nat.lt_or_gt_of_ne h with h1 | h1
      · simp [sput, hv, sget, h1]
      · have : ¬ j < k := by omega
        simp [sput, hv, sget, this, h]
  | cons e rest ih =>
    obtain ⟨x, a⟩ := e
    simp only [sortedAbove, Bool.and_eq_true, decide_eq_true_eq] at hl
    obtain ⟨⟨hx, ha⟩, hr⟩ := hl
    by_cases h1 : k < x
    · by_cases hv : v = d k
      · simp [sput, h1, hv]
      · rcases Nat.lt_or_gt_of_ne h with h2 | h2
        · have : j < x := by omega
          simp [sput, h1, hv, sget, h2, this]
        · have : ¬ j < k := by omega
          simp [sput, h1, hv, sget, this, h]
    · by_cases h2 : k = x
      · subst h2
        by_cases hv : v = d k
        · simp only [sput, Nat.lt_irrefl, if_false, hv, if_true, sget, h]
          rcases Nat.lt_or_gt_of_ne h with h3 | h3
          · simp only [h3, if_true]
            exact sget_below d (by omega) hr
          · have : ¬ j < k := by omega
            simp [this]
        · simp [sput, hv, sget, h]
      · by_cases h3 : j < x
        · simp [sput, h1, h2, sget, h3]
        · by_cases h4 : j = x
          · simp [sput, h1, h2, sget, h4]
          · simp [sput, h1, h2, sget, h3, h4, ih hr]

end Sys2Proof.Machine
end

