-- ==== Sys2Proof/Laws/State.lean ====
section
/-! SUPPORT. One lemma per field per update of the state and of a group, and what the accessors give after an update. -/

namespace Sys2Proof.Machine

open Sys2Proof

/-! ### The state -/

@[simp] theorem State.setGroup_inputs (s : State) (g : GroupId) (grp : Group) : (s.setGroup g grp).inputs = s.inputs := rfl
@[simp] theorem State.setGroup_turn (s : State) (g : GroupId) (grp : Group) : (s.setGroup g grp).turn = s.turn := rfl
@[simp] theorem State.setGroup_cur (s : State) (g : GroupId) (grp : Group) : (s.setGroup g grp).cur = s.cur := rfl
@[simp] theorem State.setGroup_issue (s : State) (g : GroupId) (grp : Group) : (s.setGroup g grp).issue = s.issue := rfl
@[simp] theorem State.setGroup_fetched (s : State) (g : GroupId) (grp : Group) : (s.setGroup g grp).fetched = s.fetched := rfl
@[simp] theorem State.setGroup_runEnd (s : State) (g : GroupId) (grp : Group) : (s.setGroup g grp).runEnd = s.runEnd := rfl
@[simp] theorem State.setGroup_arg (s : State) (g : GroupId) (grp : Group) : (s.setGroup g grp).arg = s.arg := rfl
@[simp] theorem State.setGroup_fresh (s : State) (g : GroupId) (grp : Group) : (s.setGroup g grp).fresh = s.fresh := rfl
@[simp] theorem State.setGroup_nextId (s : State) (g : GroupId) (grp : Group) : (s.setGroup g grp).nextId = s.nextId := rfl
@[simp] theorem State.setGroup_due (s : State) (g : GroupId) (grp : Group) : (s.setGroup g grp).due = s.due := rfl
@[simp] theorem State.setGroup_mem (s : State) (g : GroupId) (grp : Group) : (s.setGroup g grp).mem = s.mem := rfl
@[simp] theorem State.setGroup_poison (s : State) (g : GroupId) (grp : Group) : (s.setGroup g grp).poison = s.poison := rfl
@[simp] theorem State.setGroup_teams (s : State) (g : GroupId) (grp : Group) : (s.setGroup g grp).teams = s.teams := rfl
@[simp] theorem State.setGroup_launches (s : State) (g : GroupId) (grp : Group) : (s.setGroup g grp).launches = s.launches := rfl
@[simp] theorem State.setGroup_clusters (s : State) (g : GroupId) (grp : Group) : (s.setGroup g grp).clusters = s.clusters := rfl
@[simp] theorem State.setGroup_devices (s : State) (g : GroupId) (grp : Group) : (s.setGroup g grp).devices = s.devices := rfl
@[simp] theorem State.setGroup_ctxs (s : State) (g : GroupId) (grp : Group) : (s.setGroup g grp).ctxs = s.ctxs := rfl
@[simp] theorem State.setGroup_ops (s : State) (g : GroupId) (grp : Group) : (s.setGroup g grp).ops = s.ops := rfl
@[simp] theorem State.setGroup_leases (s : State) (g : GroupId) (grp : Group) : (s.setGroup g grp).leases = s.leases := rfl
@[simp] theorem State.setGroup_pins (s : State) (g : GroupId) (grp : Group) : (s.setGroup g grp).pins = s.pins := rfl
@[simp] theorem State.setGroup_peers (s : State) (g : GroupId) (grp : Group) : (s.setGroup g grp).peers = s.peers := rfl
@[simp] theorem State.setGroup_lines (s : State) (g : GroupId) (grp : Group) : (s.setGroup g grp).lines = s.lines := rfl
@[simp] theorem State.setGroup_invals (s : State) (g : GroupId) (grp : Group) : (s.setGroup g grp).invals = s.invals := rfl
@[simp] theorem State.setGroup_past (s : State) (g : GroupId) (grp : Group) : (s.setGroup g grp).past = s.past := rfl
@[simp] theorem State.setGroup_unseen (s : State) (g : GroupId) (grp : Group) : (s.setGroup g grp).unseen = s.unseen := rfl
@[simp] theorem State.setGroup_jobs (s : State) (g : GroupId) (grp : Group) : (s.setGroup g grp).jobs = s.jobs := rfl
@[simp] theorem State.setGroup_images (s : State) (g : GroupId) (grp : Group) : (s.setGroup g grp).images = s.images := rfl
@[simp] theorem State.setGroup_pack (s : State) (g : GroupId) (grp : Group) : (s.setGroup g grp).pack = s.pack := rfl

@[simp] theorem State.delGroup_inputs (s : State) (g : GroupId) : (s.delGroup g).inputs = s.inputs := rfl
@[simp] theorem State.delGroup_turn (s : State) (g : GroupId) : (s.delGroup g).turn = s.turn := rfl
@[simp] theorem State.delGroup_cur (s : State) (g : GroupId) : (s.delGroup g).cur = s.cur := rfl
@[simp] theorem State.delGroup_issue (s : State) (g : GroupId) : (s.delGroup g).issue = s.issue := rfl
@[simp] theorem State.delGroup_fetched (s : State) (g : GroupId) : (s.delGroup g).fetched = s.fetched := rfl
@[simp] theorem State.delGroup_runEnd (s : State) (g : GroupId) : (s.delGroup g).runEnd = s.runEnd := rfl
@[simp] theorem State.delGroup_arg (s : State) (g : GroupId) : (s.delGroup g).arg = s.arg := rfl
@[simp] theorem State.delGroup_fresh (s : State) (g : GroupId) : (s.delGroup g).fresh = s.fresh := rfl
@[simp] theorem State.delGroup_nextId (s : State) (g : GroupId) : (s.delGroup g).nextId = s.nextId := rfl
@[simp] theorem State.delGroup_due (s : State) (g : GroupId) : (s.delGroup g).due = s.due := rfl
@[simp] theorem State.delGroup_mem (s : State) (g : GroupId) : (s.delGroup g).mem = s.mem := rfl
@[simp] theorem State.delGroup_poison (s : State) (g : GroupId) : (s.delGroup g).poison = s.poison := rfl
@[simp] theorem State.delGroup_teams (s : State) (g : GroupId) : (s.delGroup g).teams = s.teams := rfl
@[simp] theorem State.delGroup_launches (s : State) (g : GroupId) : (s.delGroup g).launches = s.launches := rfl
@[simp] theorem State.delGroup_clusters (s : State) (g : GroupId) : (s.delGroup g).clusters = s.clusters := rfl
@[simp] theorem State.delGroup_devices (s : State) (g : GroupId) : (s.delGroup g).devices = s.devices := rfl
@[simp] theorem State.delGroup_ctxs (s : State) (g : GroupId) : (s.delGroup g).ctxs = s.ctxs := rfl
@[simp] theorem State.delGroup_ops (s : State) (g : GroupId) : (s.delGroup g).ops = s.ops := rfl
@[simp] theorem State.delGroup_leases (s : State) (g : GroupId) : (s.delGroup g).leases = s.leases := rfl
@[simp] theorem State.delGroup_pins (s : State) (g : GroupId) : (s.delGroup g).pins = s.pins := rfl
@[simp] theorem State.delGroup_peers (s : State) (g : GroupId) : (s.delGroup g).peers = s.peers := rfl
@[simp] theorem State.delGroup_lines (s : State) (g : GroupId) : (s.delGroup g).lines = s.lines := rfl
@[simp] theorem State.delGroup_invals (s : State) (g : GroupId) : (s.delGroup g).invals = s.invals := rfl
@[simp] theorem State.delGroup_past (s : State) (g : GroupId) : (s.delGroup g).past = s.past := rfl
@[simp] theorem State.delGroup_unseen (s : State) (g : GroupId) : (s.delGroup g).unseen = s.unseen := rfl
@[simp] theorem State.delGroup_jobs (s : State) (g : GroupId) : (s.delGroup g).jobs = s.jobs := rfl
@[simp] theorem State.delGroup_images (s : State) (g : GroupId) : (s.delGroup g).images = s.images := rfl
@[simp] theorem State.delGroup_pack (s : State) (g : GroupId) : (s.delGroup g).pack = s.pack := rfl

@[simp] theorem State.setCluster_inputs (s : State) (cl : ClusterId) (c : Cluster) : (s.setCluster cl c).inputs = s.inputs := rfl
@[simp] theorem State.setCluster_turn (s : State) (cl : ClusterId) (c : Cluster) : (s.setCluster cl c).turn = s.turn := rfl
@[simp] theorem State.setCluster_cur (s : State) (cl : ClusterId) (c : Cluster) : (s.setCluster cl c).cur = s.cur := rfl
@[simp] theorem State.setCluster_issue (s : State) (cl : ClusterId) (c : Cluster) : (s.setCluster cl c).issue = s.issue := rfl
@[simp] theorem State.setCluster_fetched (s : State) (cl : ClusterId) (c : Cluster) : (s.setCluster cl c).fetched = s.fetched := rfl
@[simp] theorem State.setCluster_runEnd (s : State) (cl : ClusterId) (c : Cluster) : (s.setCluster cl c).runEnd = s.runEnd := rfl
@[simp] theorem State.setCluster_arg (s : State) (cl : ClusterId) (c : Cluster) : (s.setCluster cl c).arg = s.arg := rfl
@[simp] theorem State.setCluster_fresh (s : State) (cl : ClusterId) (c : Cluster) : (s.setCluster cl c).fresh = s.fresh := rfl
@[simp] theorem State.setCluster_nextId (s : State) (cl : ClusterId) (c : Cluster) : (s.setCluster cl c).nextId = s.nextId := rfl
@[simp] theorem State.setCluster_due (s : State) (cl : ClusterId) (c : Cluster) : (s.setCluster cl c).due = s.due := rfl
@[simp] theorem State.setCluster_mem (s : State) (cl : ClusterId) (c : Cluster) : (s.setCluster cl c).mem = s.mem := rfl
@[simp] theorem State.setCluster_poison (s : State) (cl : ClusterId) (c : Cluster) : (s.setCluster cl c).poison = s.poison := rfl
@[simp] theorem State.setCluster_groups (s : State) (cl : ClusterId) (c : Cluster) : (s.setCluster cl c).groups = s.groups := rfl
@[simp] theorem State.setCluster_teams (s : State) (cl : ClusterId) (c : Cluster) : (s.setCluster cl c).teams = s.teams := rfl
@[simp] theorem State.setCluster_launches (s : State) (cl : ClusterId) (c : Cluster) : (s.setCluster cl c).launches = s.launches := rfl
@[simp] theorem State.setCluster_devices (s : State) (cl : ClusterId) (c : Cluster) : (s.setCluster cl c).devices = s.devices := rfl
@[simp] theorem State.setCluster_ctxs (s : State) (cl : ClusterId) (c : Cluster) : (s.setCluster cl c).ctxs = s.ctxs := rfl
@[simp] theorem State.setCluster_ops (s : State) (cl : ClusterId) (c : Cluster) : (s.setCluster cl c).ops = s.ops := rfl
@[simp] theorem State.setCluster_leases (s : State) (cl : ClusterId) (c : Cluster) : (s.setCluster cl c).leases = s.leases := rfl
@[simp] theorem State.setCluster_pins (s : State) (cl : ClusterId) (c : Cluster) : (s.setCluster cl c).pins = s.pins := rfl
@[simp] theorem State.setCluster_peers (s : State) (cl : ClusterId) (c : Cluster) : (s.setCluster cl c).peers = s.peers := rfl
@[simp] theorem State.setCluster_lines (s : State) (cl : ClusterId) (c : Cluster) : (s.setCluster cl c).lines = s.lines := rfl
@[simp] theorem State.setCluster_invals (s : State) (cl : ClusterId) (c : Cluster) : (s.setCluster cl c).invals = s.invals := rfl
@[simp] theorem State.setCluster_past (s : State) (cl : ClusterId) (c : Cluster) : (s.setCluster cl c).past = s.past := rfl
@[simp] theorem State.setCluster_unseen (s : State) (cl : ClusterId) (c : Cluster) : (s.setCluster cl c).unseen = s.unseen := rfl
@[simp] theorem State.setCluster_jobs (s : State) (cl : ClusterId) (c : Cluster) : (s.setCluster cl c).jobs = s.jobs := rfl
@[simp] theorem State.setCluster_images (s : State) (cl : ClusterId) (c : Cluster) : (s.setCluster cl c).images = s.images := rfl
@[simp] theorem State.setCluster_pack (s : State) (cl : ClusterId) (c : Cluster) : (s.setCluster cl c).pack = s.pack := rfl

@[simp] theorem State.setPilot_inputs (s : State) (cl : ClusterId) (p : Pilot) : (s.setPilot cl p).inputs = s.inputs := rfl
@[simp] theorem State.setPilot_turn (s : State) (cl : ClusterId) (p : Pilot) : (s.setPilot cl p).turn = s.turn := rfl
@[simp] theorem State.setPilot_cur (s : State) (cl : ClusterId) (p : Pilot) : (s.setPilot cl p).cur = s.cur := rfl
@[simp] theorem State.setPilot_issue (s : State) (cl : ClusterId) (p : Pilot) : (s.setPilot cl p).issue = s.issue := rfl
@[simp] theorem State.setPilot_fetched (s : State) (cl : ClusterId) (p : Pilot) : (s.setPilot cl p).fetched = s.fetched := rfl
@[simp] theorem State.setPilot_runEnd (s : State) (cl : ClusterId) (p : Pilot) : (s.setPilot cl p).runEnd = s.runEnd := rfl
@[simp] theorem State.setPilot_arg (s : State) (cl : ClusterId) (p : Pilot) : (s.setPilot cl p).arg = s.arg := rfl
@[simp] theorem State.setPilot_fresh (s : State) (cl : ClusterId) (p : Pilot) : (s.setPilot cl p).fresh = s.fresh := rfl
@[simp] theorem State.setPilot_nextId (s : State) (cl : ClusterId) (p : Pilot) : (s.setPilot cl p).nextId = s.nextId := rfl
@[simp] theorem State.setPilot_due (s : State) (cl : ClusterId) (p : Pilot) : (s.setPilot cl p).due = s.due := rfl
@[simp] theorem State.setPilot_mem (s : State) (cl : ClusterId) (p : Pilot) : (s.setPilot cl p).mem = s.mem := rfl
@[simp] theorem State.setPilot_poison (s : State) (cl : ClusterId) (p : Pilot) : (s.setPilot cl p).poison = s.poison := rfl
@[simp] theorem State.setPilot_groups (s : State) (cl : ClusterId) (p : Pilot) : (s.setPilot cl p).groups = s.groups := rfl
@[simp] theorem State.setPilot_teams (s : State) (cl : ClusterId) (p : Pilot) : (s.setPilot cl p).teams = s.teams := rfl
@[simp] theorem State.setPilot_launches (s : State) (cl : ClusterId) (p : Pilot) : (s.setPilot cl p).launches = s.launches := rfl
@[simp] theorem State.setPilot_devices (s : State) (cl : ClusterId) (p : Pilot) : (s.setPilot cl p).devices = s.devices := rfl
@[simp] theorem State.setPilot_ctxs (s : State) (cl : ClusterId) (p : Pilot) : (s.setPilot cl p).ctxs = s.ctxs := rfl
@[simp] theorem State.setPilot_ops (s : State) (cl : ClusterId) (p : Pilot) : (s.setPilot cl p).ops = s.ops := rfl
@[simp] theorem State.setPilot_leases (s : State) (cl : ClusterId) (p : Pilot) : (s.setPilot cl p).leases = s.leases := rfl
@[simp] theorem State.setPilot_pins (s : State) (cl : ClusterId) (p : Pilot) : (s.setPilot cl p).pins = s.pins := rfl
@[simp] theorem State.setPilot_peers (s : State) (cl : ClusterId) (p : Pilot) : (s.setPilot cl p).peers = s.peers := rfl
@[simp] theorem State.setPilot_lines (s : State) (cl : ClusterId) (p : Pilot) : (s.setPilot cl p).lines = s.lines := rfl
@[simp] theorem State.setPilot_invals (s : State) (cl : ClusterId) (p : Pilot) : (s.setPilot cl p).invals = s.invals := rfl
@[simp] theorem State.setPilot_past (s : State) (cl : ClusterId) (p : Pilot) : (s.setPilot cl p).past = s.past := rfl
@[simp] theorem State.setPilot_unseen (s : State) (cl : ClusterId) (p : Pilot) : (s.setPilot cl p).unseen = s.unseen := rfl
@[simp] theorem State.setPilot_jobs (s : State) (cl : ClusterId) (p : Pilot) : (s.setPilot cl p).jobs = s.jobs := rfl
@[simp] theorem State.setPilot_images (s : State) (cl : ClusterId) (p : Pilot) : (s.setPilot cl p).images = s.images := rfl
@[simp] theorem State.setPilot_pack (s : State) (cl : ClusterId) (p : Pilot) : (s.setPilot cl p).pack = s.pack := rfl

@[simp] theorem State.setDev_inputs (s : State) (ld : Fin 4) (d : Device) : (s.setDev ld d).inputs = s.inputs := rfl
@[simp] theorem State.setDev_turn (s : State) (ld : Fin 4) (d : Device) : (s.setDev ld d).turn = s.turn := rfl
@[simp] theorem State.setDev_cur (s : State) (ld : Fin 4) (d : Device) : (s.setDev ld d).cur = s.cur := rfl
@[simp] theorem State.setDev_issue (s : State) (ld : Fin 4) (d : Device) : (s.setDev ld d).issue = s.issue := rfl
@[simp] theorem State.setDev_fetched (s : State) (ld : Fin 4) (d : Device) : (s.setDev ld d).fetched = s.fetched := rfl
@[simp] theorem State.setDev_runEnd (s : State) (ld : Fin 4) (d : Device) : (s.setDev ld d).runEnd = s.runEnd := rfl
@[simp] theorem State.setDev_arg (s : State) (ld : Fin 4) (d : Device) : (s.setDev ld d).arg = s.arg := rfl
@[simp] theorem State.setDev_fresh (s : State) (ld : Fin 4) (d : Device) : (s.setDev ld d).fresh = s.fresh := rfl
@[simp] theorem State.setDev_nextId (s : State) (ld : Fin 4) (d : Device) : (s.setDev ld d).nextId = s.nextId := rfl
@[simp] theorem State.setDev_due (s : State) (ld : Fin 4) (d : Device) : (s.setDev ld d).due = s.due := rfl
@[simp] theorem State.setDev_mem (s : State) (ld : Fin 4) (d : Device) : (s.setDev ld d).mem = s.mem := rfl
@[simp] theorem State.setDev_poison (s : State) (ld : Fin 4) (d : Device) : (s.setDev ld d).poison = s.poison := rfl
@[simp] theorem State.setDev_groups (s : State) (ld : Fin 4) (d : Device) : (s.setDev ld d).groups = s.groups := rfl
@[simp] theorem State.setDev_teams (s : State) (ld : Fin 4) (d : Device) : (s.setDev ld d).teams = s.teams := rfl
@[simp] theorem State.setDev_launches (s : State) (ld : Fin 4) (d : Device) : (s.setDev ld d).launches = s.launches := rfl
@[simp] theorem State.setDev_clusters (s : State) (ld : Fin 4) (d : Device) : (s.setDev ld d).clusters = s.clusters := rfl
@[simp] theorem State.setDev_ctxs (s : State) (ld : Fin 4) (d : Device) : (s.setDev ld d).ctxs = s.ctxs := rfl
@[simp] theorem State.setDev_ops (s : State) (ld : Fin 4) (d : Device) : (s.setDev ld d).ops = s.ops := rfl
@[simp] theorem State.setDev_leases (s : State) (ld : Fin 4) (d : Device) : (s.setDev ld d).leases = s.leases := rfl
@[simp] theorem State.setDev_pins (s : State) (ld : Fin 4) (d : Device) : (s.setDev ld d).pins = s.pins := rfl
@[simp] theorem State.setDev_peers (s : State) (ld : Fin 4) (d : Device) : (s.setDev ld d).peers = s.peers := rfl
@[simp] theorem State.setDev_lines (s : State) (ld : Fin 4) (d : Device) : (s.setDev ld d).lines = s.lines := rfl
@[simp] theorem State.setDev_invals (s : State) (ld : Fin 4) (d : Device) : (s.setDev ld d).invals = s.invals := rfl
@[simp] theorem State.setDev_past (s : State) (ld : Fin 4) (d : Device) : (s.setDev ld d).past = s.past := rfl
@[simp] theorem State.setDev_unseen (s : State) (ld : Fin 4) (d : Device) : (s.setDev ld d).unseen = s.unseen := rfl
@[simp] theorem State.setDev_jobs (s : State) (ld : Fin 4) (d : Device) : (s.setDev ld d).jobs = s.jobs := rfl
@[simp] theorem State.setDev_images (s : State) (ld : Fin 4) (d : Device) : (s.setDev ld d).images = s.images := rfl
@[simp] theorem State.setDev_pack (s : State) (ld : Fin 4) (d : Device) : (s.setDev ld d).pack = s.pack := rfl

@[simp] theorem State.setCtx_inputs (s : State) (ld : Fin 4) (asn : Asn) (c : Ctx) : (s.setCtx ld asn c).inputs = s.inputs := rfl
@[simp] theorem State.setCtx_turn (s : State) (ld : Fin 4) (asn : Asn) (c : Ctx) : (s.setCtx ld asn c).turn = s.turn := rfl
@[simp] theorem State.setCtx_cur (s : State) (ld : Fin 4) (asn : Asn) (c : Ctx) : (s.setCtx ld asn c).cur = s.cur := rfl
@[simp] theorem State.setCtx_issue (s : State) (ld : Fin 4) (asn : Asn) (c : Ctx) : (s.setCtx ld asn c).issue = s.issue := rfl
@[simp] theorem State.setCtx_fetched (s : State) (ld : Fin 4) (asn : Asn) (c : Ctx) : (s.setCtx ld asn c).fetched = s.fetched := rfl
@[simp] theorem State.setCtx_runEnd (s : State) (ld : Fin 4) (asn : Asn) (c : Ctx) : (s.setCtx ld asn c).runEnd = s.runEnd := rfl
@[simp] theorem State.setCtx_arg (s : State) (ld : Fin 4) (asn : Asn) (c : Ctx) : (s.setCtx ld asn c).arg = s.arg := rfl
@[simp] theorem State.setCtx_fresh (s : State) (ld : Fin 4) (asn : Asn) (c : Ctx) : (s.setCtx ld asn c).fresh = s.fresh := rfl
@[simp] theorem State.setCtx_nextId (s : State) (ld : Fin 4) (asn : Asn) (c : Ctx) : (s.setCtx ld asn c).nextId = s.nextId := rfl
@[simp] theorem State.setCtx_due (s : State) (ld : Fin 4) (asn : Asn) (c : Ctx) : (s.setCtx ld asn c).due = s.due := rfl
@[simp] theorem State.setCtx_mem (s : State) (ld : Fin 4) (asn : Asn) (c : Ctx) : (s.setCtx ld asn c).mem = s.mem := rfl
@[simp] theorem State.setCtx_poison (s : State) (ld : Fin 4) (asn : Asn) (c : Ctx) : (s.setCtx ld asn c).poison = s.poison := rfl
@[simp] theorem State.setCtx_groups (s : State) (ld : Fin 4) (asn : Asn) (c : Ctx) : (s.setCtx ld asn c).groups = s.groups := rfl
@[simp] theorem State.setCtx_teams (s : State) (ld : Fin 4) (asn : Asn) (c : Ctx) : (s.setCtx ld asn c).teams = s.teams := rfl
@[simp] theorem State.setCtx_launches (s : State) (ld : Fin 4) (asn : Asn) (c : Ctx) : (s.setCtx ld asn c).launches = s.launches := rfl
@[simp] theorem State.setCtx_clusters (s : State) (ld : Fin 4) (asn : Asn) (c : Ctx) : (s.setCtx ld asn c).clusters = s.clusters := rfl
@[simp] theorem State.setCtx_devices (s : State) (ld : Fin 4) (asn : Asn) (c : Ctx) : (s.setCtx ld asn c).devices = s.devices := rfl
@[simp] theorem State.setCtx_ops (s : State) (ld : Fin 4) (asn : Asn) (c : Ctx) : (s.setCtx ld asn c).ops = s.ops := rfl
@[simp] theorem State.setCtx_leases (s : State) (ld : Fin 4) (asn : Asn) (c : Ctx) : (s.setCtx ld asn c).leases = s.leases := rfl
@[simp] theorem State.setCtx_pins (s : State) (ld : Fin 4) (asn : Asn) (c : Ctx) : (s.setCtx ld asn c).pins = s.pins := rfl
@[simp] theorem State.setCtx_peers (s : State) (ld : Fin 4) (asn : Asn) (c : Ctx) : (s.setCtx ld asn c).peers = s.peers := rfl
@[simp] theorem State.setCtx_lines (s : State) (ld : Fin 4) (asn : Asn) (c : Ctx) : (s.setCtx ld asn c).lines = s.lines := rfl
@[simp] theorem State.setCtx_invals (s : State) (ld : Fin 4) (asn : Asn) (c : Ctx) : (s.setCtx ld asn c).invals = s.invals := rfl
@[simp] theorem State.setCtx_past (s : State) (ld : Fin 4) (asn : Asn) (c : Ctx) : (s.setCtx ld asn c).past = s.past := rfl
@[simp] theorem State.setCtx_unseen (s : State) (ld : Fin 4) (asn : Asn) (c : Ctx) : (s.setCtx ld asn c).unseen = s.unseen := rfl
@[simp] theorem State.setCtx_jobs (s : State) (ld : Fin 4) (asn : Asn) (c : Ctx) : (s.setCtx ld asn c).jobs = s.jobs := rfl
@[simp] theorem State.setCtx_images (s : State) (ld : Fin 4) (asn : Asn) (c : Ctx) : (s.setCtx ld asn c).images = s.images := rfl
@[simp] theorem State.setCtx_pack (s : State) (ld : Fin 4) (asn : Asn) (c : Ctx) : (s.setCtx ld asn c).pack = s.pack := rfl

@[simp] theorem State.setTeam_inputs (s : State) (t : Team) : (s.setTeam t).inputs = s.inputs := rfl
@[simp] theorem State.setTeam_turn (s : State) (t : Team) : (s.setTeam t).turn = s.turn := rfl
@[simp] theorem State.setTeam_cur (s : State) (t : Team) : (s.setTeam t).cur = s.cur := rfl
@[simp] theorem State.setTeam_issue (s : State) (t : Team) : (s.setTeam t).issue = s.issue := rfl
@[simp] theorem State.setTeam_fetched (s : State) (t : Team) : (s.setTeam t).fetched = s.fetched := rfl
@[simp] theorem State.setTeam_runEnd (s : State) (t : Team) : (s.setTeam t).runEnd = s.runEnd := rfl
@[simp] theorem State.setTeam_arg (s : State) (t : Team) : (s.setTeam t).arg = s.arg := rfl
@[simp] theorem State.setTeam_fresh (s : State) (t : Team) : (s.setTeam t).fresh = s.fresh := rfl
@[simp] theorem State.setTeam_nextId (s : State) (t : Team) : (s.setTeam t).nextId = s.nextId := rfl
@[simp] theorem State.setTeam_due (s : State) (t : Team) : (s.setTeam t).due = s.due := rfl
@[simp] theorem State.setTeam_mem (s : State) (t : Team) : (s.setTeam t).mem = s.mem := rfl
@[simp] theorem State.setTeam_poison (s : State) (t : Team) : (s.setTeam t).poison = s.poison := rfl
@[simp] theorem State.setTeam_groups (s : State) (t : Team) : (s.setTeam t).groups = s.groups := rfl
@[simp] theorem State.setTeam_launches (s : State) (t : Team) : (s.setTeam t).launches = s.launches := rfl
@[simp] theorem State.setTeam_clusters (s : State) (t : Team) : (s.setTeam t).clusters = s.clusters := rfl
@[simp] theorem State.setTeam_devices (s : State) (t : Team) : (s.setTeam t).devices = s.devices := rfl
@[simp] theorem State.setTeam_ctxs (s : State) (t : Team) : (s.setTeam t).ctxs = s.ctxs := rfl
@[simp] theorem State.setTeam_ops (s : State) (t : Team) : (s.setTeam t).ops = s.ops := rfl
@[simp] theorem State.setTeam_leases (s : State) (t : Team) : (s.setTeam t).leases = s.leases := rfl
@[simp] theorem State.setTeam_pins (s : State) (t : Team) : (s.setTeam t).pins = s.pins := rfl
@[simp] theorem State.setTeam_peers (s : State) (t : Team) : (s.setTeam t).peers = s.peers := rfl
@[simp] theorem State.setTeam_lines (s : State) (t : Team) : (s.setTeam t).lines = s.lines := rfl
@[simp] theorem State.setTeam_invals (s : State) (t : Team) : (s.setTeam t).invals = s.invals := rfl
@[simp] theorem State.setTeam_past (s : State) (t : Team) : (s.setTeam t).past = s.past := rfl
@[simp] theorem State.setTeam_unseen (s : State) (t : Team) : (s.setTeam t).unseen = s.unseen := rfl
@[simp] theorem State.setTeam_jobs (s : State) (t : Team) : (s.setTeam t).jobs = s.jobs := rfl
@[simp] theorem State.setTeam_images (s : State) (t : Team) : (s.setTeam t).images = s.images := rfl
@[simp] theorem State.setTeam_pack (s : State) (t : Team) : (s.setTeam t).pack = s.pack := rfl

@[simp] theorem State.setLaunch_inputs (s : State) (l : Launch) : (s.setLaunch l).inputs = s.inputs := rfl
@[simp] theorem State.setLaunch_turn (s : State) (l : Launch) : (s.setLaunch l).turn = s.turn := rfl
@[simp] theorem State.setLaunch_cur (s : State) (l : Launch) : (s.setLaunch l).cur = s.cur := rfl
@[simp] theorem State.setLaunch_issue (s : State) (l : Launch) : (s.setLaunch l).issue = s.issue := rfl
@[simp] theorem State.setLaunch_fetched (s : State) (l : Launch) : (s.setLaunch l).fetched = s.fetched := rfl
@[simp] theorem State.setLaunch_runEnd (s : State) (l : Launch) : (s.setLaunch l).runEnd = s.runEnd := rfl
@[simp] theorem State.setLaunch_arg (s : State) (l : Launch) : (s.setLaunch l).arg = s.arg := rfl
@[simp] theorem State.setLaunch_fresh (s : State) (l : Launch) : (s.setLaunch l).fresh = s.fresh := rfl
@[simp] theorem State.setLaunch_nextId (s : State) (l : Launch) : (s.setLaunch l).nextId = s.nextId := rfl
@[simp] theorem State.setLaunch_due (s : State) (l : Launch) : (s.setLaunch l).due = s.due := rfl
@[simp] theorem State.setLaunch_mem (s : State) (l : Launch) : (s.setLaunch l).mem = s.mem := rfl
@[simp] theorem State.setLaunch_poison (s : State) (l : Launch) : (s.setLaunch l).poison = s.poison := rfl
@[simp] theorem State.setLaunch_groups (s : State) (l : Launch) : (s.setLaunch l).groups = s.groups := rfl
@[simp] theorem State.setLaunch_teams (s : State) (l : Launch) : (s.setLaunch l).teams = s.teams := rfl
@[simp] theorem State.setLaunch_clusters (s : State) (l : Launch) : (s.setLaunch l).clusters = s.clusters := rfl
@[simp] theorem State.setLaunch_devices (s : State) (l : Launch) : (s.setLaunch l).devices = s.devices := rfl
@[simp] theorem State.setLaunch_ctxs (s : State) (l : Launch) : (s.setLaunch l).ctxs = s.ctxs := rfl
@[simp] theorem State.setLaunch_ops (s : State) (l : Launch) : (s.setLaunch l).ops = s.ops := rfl
@[simp] theorem State.setLaunch_leases (s : State) (l : Launch) : (s.setLaunch l).leases = s.leases := rfl
@[simp] theorem State.setLaunch_pins (s : State) (l : Launch) : (s.setLaunch l).pins = s.pins := rfl
@[simp] theorem State.setLaunch_peers (s : State) (l : Launch) : (s.setLaunch l).peers = s.peers := rfl
@[simp] theorem State.setLaunch_lines (s : State) (l : Launch) : (s.setLaunch l).lines = s.lines := rfl
@[simp] theorem State.setLaunch_invals (s : State) (l : Launch) : (s.setLaunch l).invals = s.invals := rfl
@[simp] theorem State.setLaunch_past (s : State) (l : Launch) : (s.setLaunch l).past = s.past := rfl
@[simp] theorem State.setLaunch_unseen (s : State) (l : Launch) : (s.setLaunch l).unseen = s.unseen := rfl
@[simp] theorem State.setLaunch_jobs (s : State) (l : Launch) : (s.setLaunch l).jobs = s.jobs := rfl
@[simp] theorem State.setLaunch_images (s : State) (l : Launch) : (s.setLaunch l).images = s.images := rfl
@[simp] theorem State.setLaunch_pack (s : State) (l : Launch) : (s.setLaunch l).pack = s.pack := rfl

@[simp] theorem State.mapGroups_inputs (s : State) (f : GroupId → Group → Group) : (s.mapGroups f).inputs = s.inputs := rfl
@[simp] theorem State.mapGroups_turn (s : State) (f : GroupId → Group → Group) : (s.mapGroups f).turn = s.turn := rfl
@[simp] theorem State.mapGroups_cur (s : State) (f : GroupId → Group → Group) : (s.mapGroups f).cur = s.cur := rfl
@[simp] theorem State.mapGroups_issue (s : State) (f : GroupId → Group → Group) : (s.mapGroups f).issue = s.issue := rfl
@[simp] theorem State.mapGroups_fetched (s : State) (f : GroupId → Group → Group) : (s.mapGroups f).fetched = s.fetched := rfl
@[simp] theorem State.mapGroups_runEnd (s : State) (f : GroupId → Group → Group) : (s.mapGroups f).runEnd = s.runEnd := rfl
@[simp] theorem State.mapGroups_arg (s : State) (f : GroupId → Group → Group) : (s.mapGroups f).arg = s.arg := rfl
@[simp] theorem State.mapGroups_fresh (s : State) (f : GroupId → Group → Group) : (s.mapGroups f).fresh = s.fresh := rfl
@[simp] theorem State.mapGroups_nextId (s : State) (f : GroupId → Group → Group) : (s.mapGroups f).nextId = s.nextId := rfl
@[simp] theorem State.mapGroups_due (s : State) (f : GroupId → Group → Group) : (s.mapGroups f).due = s.due := rfl
@[simp] theorem State.mapGroups_mem (s : State) (f : GroupId → Group → Group) : (s.mapGroups f).mem = s.mem := rfl
@[simp] theorem State.mapGroups_poison (s : State) (f : GroupId → Group → Group) : (s.mapGroups f).poison = s.poison := rfl
@[simp] theorem State.mapGroups_teams (s : State) (f : GroupId → Group → Group) : (s.mapGroups f).teams = s.teams := rfl
@[simp] theorem State.mapGroups_launches (s : State) (f : GroupId → Group → Group) : (s.mapGroups f).launches = s.launches := rfl
@[simp] theorem State.mapGroups_clusters (s : State) (f : GroupId → Group → Group) : (s.mapGroups f).clusters = s.clusters := rfl
@[simp] theorem State.mapGroups_devices (s : State) (f : GroupId → Group → Group) : (s.mapGroups f).devices = s.devices := rfl
@[simp] theorem State.mapGroups_ctxs (s : State) (f : GroupId → Group → Group) : (s.mapGroups f).ctxs = s.ctxs := rfl
@[simp] theorem State.mapGroups_ops (s : State) (f : GroupId → Group → Group) : (s.mapGroups f).ops = s.ops := rfl
@[simp] theorem State.mapGroups_leases (s : State) (f : GroupId → Group → Group) : (s.mapGroups f).leases = s.leases := rfl
@[simp] theorem State.mapGroups_pins (s : State) (f : GroupId → Group → Group) : (s.mapGroups f).pins = s.pins := rfl
@[simp] theorem State.mapGroups_peers (s : State) (f : GroupId → Group → Group) : (s.mapGroups f).peers = s.peers := rfl
@[simp] theorem State.mapGroups_lines (s : State) (f : GroupId → Group → Group) : (s.mapGroups f).lines = s.lines := rfl
@[simp] theorem State.mapGroups_invals (s : State) (f : GroupId → Group → Group) : (s.mapGroups f).invals = s.invals := rfl
@[simp] theorem State.mapGroups_past (s : State) (f : GroupId → Group → Group) : (s.mapGroups f).past = s.past := rfl
@[simp] theorem State.mapGroups_unseen (s : State) (f : GroupId → Group → Group) : (s.mapGroups f).unseen = s.unseen := rfl
@[simp] theorem State.mapGroups_jobs (s : State) (f : GroupId → Group → Group) : (s.mapGroups f).jobs = s.jobs := rfl
@[simp] theorem State.mapGroups_images (s : State) (f : GroupId → Group → Group) : (s.mapGroups f).images = s.images := rfl
@[simp] theorem State.mapGroups_pack (s : State) (f : GroupId → Group → Group) : (s.mapGroups f).pack = s.pack := rfl

@[simp] theorem State.postFault_inputs (s : State) (ld : Fin 4) (r : FaultRec) : (s.postFault ld r).inputs = s.inputs := rfl
@[simp] theorem State.postFault_turn (s : State) (ld : Fin 4) (r : FaultRec) : (s.postFault ld r).turn = s.turn := rfl
@[simp] theorem State.postFault_cur (s : State) (ld : Fin 4) (r : FaultRec) : (s.postFault ld r).cur = s.cur := rfl
@[simp] theorem State.postFault_issue (s : State) (ld : Fin 4) (r : FaultRec) : (s.postFault ld r).issue = s.issue := rfl
@[simp] theorem State.postFault_fetched (s : State) (ld : Fin 4) (r : FaultRec) : (s.postFault ld r).fetched = s.fetched := rfl
@[simp] theorem State.postFault_runEnd (s : State) (ld : Fin 4) (r : FaultRec) : (s.postFault ld r).runEnd = s.runEnd := rfl
@[simp] theorem State.postFault_arg (s : State) (ld : Fin 4) (r : FaultRec) : (s.postFault ld r).arg = s.arg := rfl
@[simp] theorem State.postFault_fresh (s : State) (ld : Fin 4) (r : FaultRec) : (s.postFault ld r).fresh = s.fresh := rfl
@[simp] theorem State.postFault_nextId (s : State) (ld : Fin 4) (r : FaultRec) : (s.postFault ld r).nextId = s.nextId := rfl
@[simp] theorem State.postFault_due (s : State) (ld : Fin 4) (r : FaultRec) : (s.postFault ld r).due = s.due := rfl
@[simp] theorem State.postFault_mem (s : State) (ld : Fin 4) (r : FaultRec) : (s.postFault ld r).mem = s.mem := rfl
@[simp] theorem State.postFault_poison (s : State) (ld : Fin 4) (r : FaultRec) : (s.postFault ld r).poison = s.poison := rfl
@[simp] theorem State.postFault_groups (s : State) (ld : Fin 4) (r : FaultRec) : (s.postFault ld r).groups = s.groups := rfl
@[simp] theorem State.postFault_teams (s : State) (ld : Fin 4) (r : FaultRec) : (s.postFault ld r).teams = s.teams := rfl
@[simp] theorem State.postFault_launches (s : State) (ld : Fin 4) (r : FaultRec) : (s.postFault ld r).launches = s.launches := rfl
@[simp] theorem State.postFault_clusters (s : State) (ld : Fin 4) (r : FaultRec) : (s.postFault ld r).clusters = s.clusters := rfl
@[simp] theorem State.postFault_ctxs (s : State) (ld : Fin 4) (r : FaultRec) : (s.postFault ld r).ctxs = s.ctxs := rfl
@[simp] theorem State.postFault_ops (s : State) (ld : Fin 4) (r : FaultRec) : (s.postFault ld r).ops = s.ops := rfl
@[simp] theorem State.postFault_leases (s : State) (ld : Fin 4) (r : FaultRec) : (s.postFault ld r).leases = s.leases := rfl
@[simp] theorem State.postFault_pins (s : State) (ld : Fin 4) (r : FaultRec) : (s.postFault ld r).pins = s.pins := rfl
@[simp] theorem State.postFault_peers (s : State) (ld : Fin 4) (r : FaultRec) : (s.postFault ld r).peers = s.peers := rfl
@[simp] theorem State.postFault_lines (s : State) (ld : Fin 4) (r : FaultRec) : (s.postFault ld r).lines = s.lines := rfl
@[simp] theorem State.postFault_invals (s : State) (ld : Fin 4) (r : FaultRec) : (s.postFault ld r).invals = s.invals := rfl
@[simp] theorem State.postFault_past (s : State) (ld : Fin 4) (r : FaultRec) : (s.postFault ld r).past = s.past := rfl
@[simp] theorem State.postFault_unseen (s : State) (ld : Fin 4) (r : FaultRec) : (s.postFault ld r).unseen = s.unseen := rfl
@[simp] theorem State.postFault_jobs (s : State) (ld : Fin 4) (r : FaultRec) : (s.postFault ld r).jobs = s.jobs := rfl
@[simp] theorem State.postFault_images (s : State) (ld : Fin 4) (r : FaultRec) : (s.postFault ld r).images = s.images := rfl
@[simp] theorem State.postFault_pack (s : State) (ld : Fin 4) (r : FaultRec) : (s.postFault ld r).pack = s.pack := rfl

@[simp] theorem State.endRun_inputs (s : State)  : (s.endRun).inputs = s.inputs := rfl
@[simp] theorem State.endRun_turn (s : State)  : (s.endRun).turn = s.turn := rfl
@[simp] theorem State.endRun_cur (s : State)  : (s.endRun).cur = s.cur := rfl
@[simp] theorem State.endRun_issue (s : State)  : (s.endRun).issue = s.issue := rfl
@[simp] theorem State.endRun_fetched (s : State)  : (s.endRun).fetched = s.fetched := rfl
@[simp] theorem State.endRun_arg (s : State)  : (s.endRun).arg = s.arg := rfl
@[simp] theorem State.endRun_fresh (s : State)  : (s.endRun).fresh = s.fresh := rfl
@[simp] theorem State.endRun_nextId (s : State)  : (s.endRun).nextId = s.nextId := rfl
@[simp] theorem State.endRun_due (s : State)  : (s.endRun).due = s.due := rfl
@[simp] theorem State.endRun_mem (s : State)  : (s.endRun).mem = s.mem := rfl
@[simp] theorem State.endRun_poison (s : State)  : (s.endRun).poison = s.poison := rfl
@[simp] theorem State.endRun_groups (s : State)  : (s.endRun).groups = s.groups := rfl
@[simp] theorem State.endRun_teams (s : State)  : (s.endRun).teams = s.teams := rfl
@[simp] theorem State.endRun_launches (s : State)  : (s.endRun).launches = s.launches := rfl
@[simp] theorem State.endRun_clusters (s : State)  : (s.endRun).clusters = s.clusters := rfl
@[simp] theorem State.endRun_devices (s : State)  : (s.endRun).devices = s.devices := rfl
@[simp] theorem State.endRun_ctxs (s : State)  : (s.endRun).ctxs = s.ctxs := rfl
@[simp] theorem State.endRun_ops (s : State)  : (s.endRun).ops = s.ops := rfl
@[simp] theorem State.endRun_leases (s : State)  : (s.endRun).leases = s.leases := rfl
@[simp] theorem State.endRun_pins (s : State)  : (s.endRun).pins = s.pins := rfl
@[simp] theorem State.endRun_peers (s : State)  : (s.endRun).peers = s.peers := rfl
@[simp] theorem State.endRun_lines (s : State)  : (s.endRun).lines = s.lines := rfl
@[simp] theorem State.endRun_invals (s : State)  : (s.endRun).invals = s.invals := rfl
@[simp] theorem State.endRun_past (s : State)  : (s.endRun).past = s.past := rfl
@[simp] theorem State.endRun_unseen (s : State)  : (s.endRun).unseen = s.unseen := rfl
@[simp] theorem State.endRun_jobs (s : State)  : (s.endRun).jobs = s.jobs := rfl
@[simp] theorem State.endRun_images (s : State)  : (s.endRun).images = s.images := rfl
@[simp] theorem State.endRun_pack (s : State)  : (s.endRun).pack = s.pack := rfl

@[simp] theorem State.hostWrite_inputs (s : State) (addr : Nat) (bs : List Byte) : (s.hostWrite addr bs).inputs = s.inputs := rfl
@[simp] theorem State.hostWrite_turn (s : State) (addr : Nat) (bs : List Byte) : (s.hostWrite addr bs).turn = s.turn := rfl
@[simp] theorem State.hostWrite_cur (s : State) (addr : Nat) (bs : List Byte) : (s.hostWrite addr bs).cur = s.cur := rfl
@[simp] theorem State.hostWrite_issue (s : State) (addr : Nat) (bs : List Byte) : (s.hostWrite addr bs).issue = s.issue := rfl
@[simp] theorem State.hostWrite_fetched (s : State) (addr : Nat) (bs : List Byte) : (s.hostWrite addr bs).fetched = s.fetched := rfl
@[simp] theorem State.hostWrite_runEnd (s : State) (addr : Nat) (bs : List Byte) : (s.hostWrite addr bs).runEnd = s.runEnd := rfl
@[simp] theorem State.hostWrite_arg (s : State) (addr : Nat) (bs : List Byte) : (s.hostWrite addr bs).arg = s.arg := rfl
@[simp] theorem State.hostWrite_fresh (s : State) (addr : Nat) (bs : List Byte) : (s.hostWrite addr bs).fresh = s.fresh := rfl
@[simp] theorem State.hostWrite_nextId (s : State) (addr : Nat) (bs : List Byte) : (s.hostWrite addr bs).nextId = s.nextId := rfl
@[simp] theorem State.hostWrite_due (s : State) (addr : Nat) (bs : List Byte) : (s.hostWrite addr bs).due = s.due := rfl
@[simp] theorem State.hostWrite_poison (s : State) (addr : Nat) (bs : List Byte) : (s.hostWrite addr bs).poison = s.poison := rfl
@[simp] theorem State.hostWrite_groups (s : State) (addr : Nat) (bs : List Byte) : (s.hostWrite addr bs).groups = s.groups := rfl
@[simp] theorem State.hostWrite_teams (s : State) (addr : Nat) (bs : List Byte) : (s.hostWrite addr bs).teams = s.teams := rfl
@[simp] theorem State.hostWrite_launches (s : State) (addr : Nat) (bs : List Byte) : (s.hostWrite addr bs).launches = s.launches := rfl
@[simp] theorem State.hostWrite_clusters (s : State) (addr : Nat) (bs : List Byte) : (s.hostWrite addr bs).clusters = s.clusters := rfl
@[simp] theorem State.hostWrite_devices (s : State) (addr : Nat) (bs : List Byte) : (s.hostWrite addr bs).devices = s.devices := rfl
@[simp] theorem State.hostWrite_ctxs (s : State) (addr : Nat) (bs : List Byte) : (s.hostWrite addr bs).ctxs = s.ctxs := rfl
@[simp] theorem State.hostWrite_ops (s : State) (addr : Nat) (bs : List Byte) : (s.hostWrite addr bs).ops = s.ops := rfl
@[simp] theorem State.hostWrite_leases (s : State) (addr : Nat) (bs : List Byte) : (s.hostWrite addr bs).leases = s.leases := rfl
@[simp] theorem State.hostWrite_pins (s : State) (addr : Nat) (bs : List Byte) : (s.hostWrite addr bs).pins = s.pins := rfl
@[simp] theorem State.hostWrite_peers (s : State) (addr : Nat) (bs : List Byte) : (s.hostWrite addr bs).peers = s.peers := rfl
@[simp] theorem State.hostWrite_lines (s : State) (addr : Nat) (bs : List Byte) : (s.hostWrite addr bs).lines = s.lines := rfl
@[simp] theorem State.hostWrite_invals (s : State) (addr : Nat) (bs : List Byte) : (s.hostWrite addr bs).invals = s.invals := rfl
@[simp] theorem State.hostWrite_past (s : State) (addr : Nat) (bs : List Byte) : (s.hostWrite addr bs).past = s.past := rfl
@[simp] theorem State.hostWrite_unseen (s : State) (addr : Nat) (bs : List Byte) : (s.hostWrite addr bs).unseen = s.unseen := rfl
@[simp] theorem State.hostWrite_jobs (s : State) (addr : Nat) (bs : List Byte) : (s.hostWrite addr bs).jobs = s.jobs := rfl
@[simp] theorem State.hostWrite_images (s : State) (addr : Nat) (bs : List Byte) : (s.hostWrite addr bs).images = s.images := rfl
@[simp] theorem State.hostWrite_pack (s : State) (addr : Nat) (bs : List Byte) : (s.hostWrite addr bs).pack = s.pack := rfl

@[simp] theorem State.nextTurn_inputs (s : State)  : (s.nextTurn).inputs = s.inputs := rfl
@[simp] theorem State.nextTurn_cur (s : State)  : (s.nextTurn).cur = s.cur := rfl
@[simp] theorem State.nextTurn_issue (s : State)  : (s.nextTurn).issue = s.issue := rfl
@[simp] theorem State.nextTurn_fetched (s : State)  : (s.nextTurn).fetched = s.fetched := rfl
@[simp] theorem State.nextTurn_runEnd (s : State)  : (s.nextTurn).runEnd = s.runEnd := rfl
@[simp] theorem State.nextTurn_arg (s : State)  : (s.nextTurn).arg = s.arg := rfl
@[simp] theorem State.nextTurn_fresh (s : State)  : (s.nextTurn).fresh = s.fresh := rfl
@[simp] theorem State.nextTurn_nextId (s : State)  : (s.nextTurn).nextId = s.nextId := rfl
@[simp] theorem State.nextTurn_due (s : State)  : (s.nextTurn).due = s.due := rfl
@[simp] theorem State.nextTurn_mem (s : State)  : (s.nextTurn).mem = s.mem := rfl
@[simp] theorem State.nextTurn_poison (s : State)  : (s.nextTurn).poison = s.poison := rfl
@[simp] theorem State.nextTurn_groups (s : State)  : (s.nextTurn).groups = s.groups := rfl
@[simp] theorem State.nextTurn_teams (s : State)  : (s.nextTurn).teams = s.teams := rfl
@[simp] theorem State.nextTurn_launches (s : State)  : (s.nextTurn).launches = s.launches := rfl
@[simp] theorem State.nextTurn_clusters (s : State)  : (s.nextTurn).clusters = s.clusters := rfl
@[simp] theorem State.nextTurn_devices (s : State)  : (s.nextTurn).devices = s.devices := rfl
@[simp] theorem State.nextTurn_ctxs (s : State)  : (s.nextTurn).ctxs = s.ctxs := rfl
@[simp] theorem State.nextTurn_ops (s : State)  : (s.nextTurn).ops = s.ops := rfl
@[simp] theorem State.nextTurn_leases (s : State)  : (s.nextTurn).leases = s.leases := rfl
@[simp] theorem State.nextTurn_pins (s : State)  : (s.nextTurn).pins = s.pins := rfl
@[simp] theorem State.nextTurn_peers (s : State)  : (s.nextTurn).peers = s.peers := rfl
@[simp] theorem State.nextTurn_lines (s : State)  : (s.nextTurn).lines = s.lines := rfl
@[simp] theorem State.nextTurn_invals (s : State)  : (s.nextTurn).invals = s.invals := rfl
@[simp] theorem State.nextTurn_past (s : State)  : (s.nextTurn).past = s.past := rfl
@[simp] theorem State.nextTurn_unseen (s : State)  : (s.nextTurn).unseen = s.unseen := rfl
@[simp] theorem State.nextTurn_jobs (s : State)  : (s.nextTurn).jobs = s.jobs := rfl
@[simp] theorem State.nextTurn_images (s : State)  : (s.nextTurn).images = s.images := rfl
@[simp] theorem State.nextTurn_pack (s : State)  : (s.nextTurn).pack = s.pack := rfl

@[simp] theorem State.settled_cur (s : State) : s.settled.cur = none := rfl
@[simp] theorem State.settled_runEnd (s : State) : s.settled.runEnd = false := rfl
@[simp] theorem State.settled_arg (s : State) : s.settled.arg = Arg.zero := rfl
@[simp] theorem State.settled_fresh (s : State) : s.settled.fresh = s.fresh + 1 := rfl

/-! ### A group -/

@[simp] theorem Group.putV_launch (grp : Group) (i : Nat) (x : VReg) : (grp.putV i x).launch = grp.launch := rfl
@[simp] theorem Group.putV_team (grp : Group) (i : Nat) (x : VReg) : (grp.putV i x).team = grp.team := rfl
@[simp] theorem Group.putV_inTeam (grp : Group) (i : Nat) (x : VReg) : (grp.putV i x).inTeam = grp.inTeam := rfl
@[simp] theorem Group.putV_inRole (grp : Group) (i : Nat) (x : VReg) : (grp.putV i x).inRole = grp.inRole := rfl
@[simp] theorem Group.putV_producer (grp : Group) (i : Nat) (x : VReg) : (grp.putV i x).producer = grp.producer := rfl
@[simp] theorem Group.putV_allot (grp : Group) (i : Nat) (x : VReg) : (grp.putV i x).allot = grp.allot := rfl
@[simp] theorem Group.putV_cls (grp : Group) (i : Nat) (x : VReg) : (grp.putV i x).cls = grp.cls := rfl
@[simp] theorem Group.putV_start (grp : Group) (i : Nat) (x : VReg) : (grp.putV i x).start = grp.start := rfl
@[simp] theorem Group.putV_tags (grp : Group) (i : Nat) (x : VReg) : (grp.putV i x).tags = grp.tags := rfl
@[simp] theorem Group.putV_vpoison (grp : Group) (i : Nat) (x : VReg) : (grp.putV i x).vpoison = grp.vpoison := rfl
@[simp] theorem Group.putV_u (grp : Group) (i : Nat) (x : VReg) : (grp.putV i x).u = grp.u := rfl
@[simp] theorem Group.putV_spoison (grp : Group) (i : Nat) (x : VReg) : (grp.putV i x).spoison = grp.spoison := rfl
@[simp] theorem Group.putV_p (grp : Group) (i : Nat) (x : VReg) : (grp.putV i x).p = grp.p := rfl
@[simp] theorem Group.putV_pix (grp : Group) (i : Nat) (x : VReg) : (grp.putV i x).pix = grp.pix := rfl
@[simp] theorem Group.putV_wcf (grp : Group) (i : Nat) (x : VReg) : (grp.putV i x).wcf = grp.wcf := rfl
@[simp] theorem Group.putV_flags (grp : Group) (i : Nat) (x : VReg) : (grp.putV i x).flags = grp.flags := rfl
@[simp] theorem Group.putV_fctl (grp : Group) (i : Nat) (x : VReg) : (grp.putV i x).fctl = grp.fctl := rfl
@[simp] theorem Group.putV_ntth (grp : Group) (i : Nat) (x : VReg) : (grp.putV i x).ntth = grp.ntth := rfl
@[simp] theorem Group.putV_modn (grp : Group) (i : Nat) (x : VReg) : (grp.putV i x).modn = grp.modn := rfl
@[simp] theorem Group.putV_modb (grp : Group) (i : Nat) (x : VReg) : (grp.putV i x).modb = grp.modb := rfl
@[simp] theorem Group.putV_gang (grp : Group) (i : Nat) (x : VReg) : (grp.putV i x).gang = grp.gang := rfl
@[simp] theorem Group.putV_qmap (grp : Group) (i : Nat) (x : VReg) : (grp.putV i x).qmap = grp.qmap := rfl
@[simp] theorem Group.putV_region (grp : Group) (i : Nat) (x : VReg) : (grp.putV i x).region = grp.region := rfl
@[simp] theorem Group.putV_sd (grp : Group) (i : Nat) (x : VReg) : (grp.putV i x).sd = grp.sd := rfl
@[simp] theorem Group.putV_batches (grp : Group) (i : Nat) (x : VReg) : (grp.putV i x).batches = grp.batches := rfl
@[simp] theorem Group.putV_tickets (grp : Group) (i : Nat) (x : VReg) : (grp.putV i x).tickets = grp.tickets := rfl
@[simp] theorem Group.putV_ticketSeq (grp : Group) (i : Nat) (x : VReg) : (grp.putV i x).ticketSeq = grp.ticketSeq := rfl
@[simp] theorem Group.putV_slices (grp : Group) (i : Nat) (x : VReg) : (grp.putV i x).slices = grp.slices := rfl
@[simp] theorem Group.putV_inflight (grp : Group) (i : Nat) (x : VReg) : (grp.putV i x).inflight = grp.inflight := rfl
@[simp] theorem Group.putV_progress (grp : Group) (i : Nat) (x : VReg) : (grp.putV i x).progress = grp.progress := rfl
@[simp] theorem Group.putV_trap (grp : Group) (i : Nat) (x : VReg) : (grp.putV i x).trap = grp.trap := rfl
@[simp] theorem Group.putV_saved (grp : Group) (i : Nat) (x : VReg) : (grp.putV i x).saved = grp.saved := rfl
@[simp] theorem Group.putV_savedProgress (grp : Group) (i : Nat) (x : VReg) : (grp.putV i x).savedProgress = grp.savedProgress := rfl
@[simp] theorem Group.putV_dead (grp : Group) (i : Nat) (x : VReg) : (grp.putV i x).dead = grp.dead := rfl

@[simp] theorem Group.writeV_launch (grp : Group) (i : Nat) (lanes : LaneMask) (x : VReg) : (grp.writeV i lanes x).launch = grp.launch := rfl
@[simp] theorem Group.writeV_team (grp : Group) (i : Nat) (lanes : LaneMask) (x : VReg) : (grp.writeV i lanes x).team = grp.team := rfl
@[simp] theorem Group.writeV_inTeam (grp : Group) (i : Nat) (lanes : LaneMask) (x : VReg) : (grp.writeV i lanes x).inTeam = grp.inTeam := rfl
@[simp] theorem Group.writeV_inRole (grp : Group) (i : Nat) (lanes : LaneMask) (x : VReg) : (grp.writeV i lanes x).inRole = grp.inRole := rfl
@[simp] theorem Group.writeV_producer (grp : Group) (i : Nat) (lanes : LaneMask) (x : VReg) : (grp.writeV i lanes x).producer = grp.producer := rfl
@[simp] theorem Group.writeV_allot (grp : Group) (i : Nat) (lanes : LaneMask) (x : VReg) : (grp.writeV i lanes x).allot = grp.allot := rfl
@[simp] theorem Group.writeV_cls (grp : Group) (i : Nat) (lanes : LaneMask) (x : VReg) : (grp.writeV i lanes x).cls = grp.cls := rfl
@[simp] theorem Group.writeV_start (grp : Group) (i : Nat) (lanes : LaneMask) (x : VReg) : (grp.writeV i lanes x).start = grp.start := rfl
@[simp] theorem Group.writeV_u (grp : Group) (i : Nat) (lanes : LaneMask) (x : VReg) : (grp.writeV i lanes x).u = grp.u := rfl
@[simp] theorem Group.writeV_spoison (grp : Group) (i : Nat) (lanes : LaneMask) (x : VReg) : (grp.writeV i lanes x).spoison = grp.spoison := rfl
@[simp] theorem Group.writeV_p (grp : Group) (i : Nat) (lanes : LaneMask) (x : VReg) : (grp.writeV i lanes x).p = grp.p := rfl
@[simp] theorem Group.writeV_pix (grp : Group) (i : Nat) (lanes : LaneMask) (x : VReg) : (grp.writeV i lanes x).pix = grp.pix := rfl
@[simp] theorem Group.writeV_wcf (grp : Group) (i : Nat) (lanes : LaneMask) (x : VReg) : (grp.writeV i lanes x).wcf = grp.wcf := rfl
@[simp] theorem Group.writeV_flags (grp : Group) (i : Nat) (lanes : LaneMask) (x : VReg) : (grp.writeV i lanes x).flags = grp.flags := rfl
@[simp] theorem Group.writeV_fctl (grp : Group) (i : Nat) (lanes : LaneMask) (x : VReg) : (grp.writeV i lanes x).fctl = grp.fctl := rfl
@[simp] theorem Group.writeV_ntth (grp : Group) (i : Nat) (lanes : LaneMask) (x : VReg) : (grp.writeV i lanes x).ntth = grp.ntth := rfl
@[simp] theorem Group.writeV_modn (grp : Group) (i : Nat) (lanes : LaneMask) (x : VReg) : (grp.writeV i lanes x).modn = grp.modn := rfl
@[simp] theorem Group.writeV_modb (grp : Group) (i : Nat) (lanes : LaneMask) (x : VReg) : (grp.writeV i lanes x).modb = grp.modb := rfl
@[simp] theorem Group.writeV_gang (grp : Group) (i : Nat) (lanes : LaneMask) (x : VReg) : (grp.writeV i lanes x).gang = grp.gang := rfl
@[simp] theorem Group.writeV_qmap (grp : Group) (i : Nat) (lanes : LaneMask) (x : VReg) : (grp.writeV i lanes x).qmap = grp.qmap := rfl
@[simp] theorem Group.writeV_region (grp : Group) (i : Nat) (lanes : LaneMask) (x : VReg) : (grp.writeV i lanes x).region = grp.region := rfl
@[simp] theorem Group.writeV_sd (grp : Group) (i : Nat) (lanes : LaneMask) (x : VReg) : (grp.writeV i lanes x).sd = grp.sd := rfl
@[simp] theorem Group.writeV_batches (grp : Group) (i : Nat) (lanes : LaneMask) (x : VReg) : (grp.writeV i lanes x).batches = grp.batches := rfl
@[simp] theorem Group.writeV_tickets (grp : Group) (i : Nat) (lanes : LaneMask) (x : VReg) : (grp.writeV i lanes x).tickets = grp.tickets := rfl
@[simp] theorem Group.writeV_ticketSeq (grp : Group) (i : Nat) (lanes : LaneMask) (x : VReg) : (grp.writeV i lanes x).ticketSeq = grp.ticketSeq := rfl
@[simp] theorem Group.writeV_slices (grp : Group) (i : Nat) (lanes : LaneMask) (x : VReg) : (grp.writeV i lanes x).slices = grp.slices := rfl
@[simp] theorem Group.writeV_progress (grp : Group) (i : Nat) (lanes : LaneMask) (x : VReg) : (grp.writeV i lanes x).progress = grp.progress := rfl
@[simp] theorem Group.writeV_trap (grp : Group) (i : Nat) (lanes : LaneMask) (x : VReg) : (grp.writeV i lanes x).trap = grp.trap := rfl
@[simp] theorem Group.writeV_saved (grp : Group) (i : Nat) (lanes : LaneMask) (x : VReg) : (grp.writeV i lanes x).saved = grp.saved := rfl
@[simp] theorem Group.writeV_savedProgress (grp : Group) (i : Nat) (lanes : LaneMask) (x : VReg) : (grp.writeV i lanes x).savedProgress = grp.savedProgress := rfl
@[simp] theorem Group.writeV_dead (grp : Group) (i : Nat) (lanes : LaneMask) (x : VReg) : (grp.writeV i lanes x).dead = grp.dead := rfl

@[simp] theorem Group.writeS_launch (grp : Group) (r : Fin 64) (x : DWord) : (grp.writeS r x).launch = grp.launch := rfl
@[simp] theorem Group.writeS_team (grp : Group) (r : Fin 64) (x : DWord) : (grp.writeS r x).team = grp.team := rfl
@[simp] theorem Group.writeS_inTeam (grp : Group) (r : Fin 64) (x : DWord) : (grp.writeS r x).inTeam = grp.inTeam := rfl
@[simp] theorem Group.writeS_inRole (grp : Group) (r : Fin 64) (x : DWord) : (grp.writeS r x).inRole = grp.inRole := rfl
@[simp] theorem Group.writeS_producer (grp : Group) (r : Fin 64) (x : DWord) : (grp.writeS r x).producer = grp.producer := rfl
@[simp] theorem Group.writeS_allot (grp : Group) (r : Fin 64) (x : DWord) : (grp.writeS r x).allot = grp.allot := rfl
@[simp] theorem Group.writeS_cls (grp : Group) (r : Fin 64) (x : DWord) : (grp.writeS r x).cls = grp.cls := rfl
@[simp] theorem Group.writeS_start (grp : Group) (r : Fin 64) (x : DWord) : (grp.writeS r x).start = grp.start := rfl
@[simp] theorem Group.writeS_v (grp : Group) (r : Fin 64) (x : DWord) : (grp.writeS r x).v = grp.v := rfl
@[simp] theorem Group.writeS_tags (grp : Group) (r : Fin 64) (x : DWord) : (grp.writeS r x).tags = grp.tags := rfl
@[simp] theorem Group.writeS_vpoison (grp : Group) (r : Fin 64) (x : DWord) : (grp.writeS r x).vpoison = grp.vpoison := rfl
@[simp] theorem Group.writeS_p (grp : Group) (r : Fin 64) (x : DWord) : (grp.writeS r x).p = grp.p := rfl
@[simp] theorem Group.writeS_pix (grp : Group) (r : Fin 64) (x : DWord) : (grp.writeS r x).pix = grp.pix := rfl
@[simp] theorem Group.writeS_wcf (grp : Group) (r : Fin 64) (x : DWord) : (grp.writeS r x).wcf = grp.wcf := rfl
@[simp] theorem Group.writeS_flags (grp : Group) (r : Fin 64) (x : DWord) : (grp.writeS r x).flags = grp.flags := rfl
@[simp] theorem Group.writeS_fctl (grp : Group) (r : Fin 64) (x : DWord) : (grp.writeS r x).fctl = grp.fctl := rfl
@[simp] theorem Group.writeS_ntth (grp : Group) (r : Fin 64) (x : DWord) : (grp.writeS r x).ntth = grp.ntth := rfl
@[simp] theorem Group.writeS_modn (grp : Group) (r : Fin 64) (x : DWord) : (grp.writeS r x).modn = grp.modn := rfl
@[simp] theorem Group.writeS_modb (grp : Group) (r : Fin 64) (x : DWord) : (grp.writeS r x).modb = grp.modb := rfl
@[simp] theorem Group.writeS_gang (grp : Group) (r : Fin 64) (x : DWord) : (grp.writeS r x).gang = grp.gang := rfl
@[simp] theorem Group.writeS_qmap (grp : Group) (r : Fin 64) (x : DWord) : (grp.writeS r x).qmap = grp.qmap := rfl
@[simp] theorem Group.writeS_region (grp : Group) (r : Fin 64) (x : DWord) : (grp.writeS r x).region = grp.region := rfl
@[simp] theorem Group.writeS_sd (grp : Group) (r : Fin 64) (x : DWord) : (grp.writeS r x).sd = grp.sd := rfl
@[simp] theorem Group.writeS_batches (grp : Group) (r : Fin 64) (x : DWord) : (grp.writeS r x).batches = grp.batches := rfl
@[simp] theorem Group.writeS_tickets (grp : Group) (r : Fin 64) (x : DWord) : (grp.writeS r x).tickets = grp.tickets := rfl
@[simp] theorem Group.writeS_ticketSeq (grp : Group) (r : Fin 64) (x : DWord) : (grp.writeS r x).ticketSeq = grp.ticketSeq := rfl
@[simp] theorem Group.writeS_slices (grp : Group) (r : Fin 64) (x : DWord) : (grp.writeS r x).slices = grp.slices := rfl
@[simp] theorem Group.writeS_progress (grp : Group) (r : Fin 64) (x : DWord) : (grp.writeS r x).progress = grp.progress := rfl
@[simp] theorem Group.writeS_trap (grp : Group) (r : Fin 64) (x : DWord) : (grp.writeS r x).trap = grp.trap := rfl
@[simp] theorem Group.writeS_saved (grp : Group) (r : Fin 64) (x : DWord) : (grp.writeS r x).saved = grp.saved := rfl
@[simp] theorem Group.writeS_savedProgress (grp : Group) (r : Fin 64) (x : DWord) : (grp.writeS r x).savedProgress = grp.savedProgress := rfl
@[simp] theorem Group.writeS_dead (grp : Group) (r : Fin 64) (x : DWord) : (grp.writeS r x).dead = grp.dead := rfl

@[simp] theorem Group.raise_launch (grp : Group) (fl : BitVec 7) : (grp.raise fl).launch = grp.launch := rfl
@[simp] theorem Group.raise_team (grp : Group) (fl : BitVec 7) : (grp.raise fl).team = grp.team := rfl
@[simp] theorem Group.raise_inTeam (grp : Group) (fl : BitVec 7) : (grp.raise fl).inTeam = grp.inTeam := rfl
@[simp] theorem Group.raise_inRole (grp : Group) (fl : BitVec 7) : (grp.raise fl).inRole = grp.inRole := rfl
@[simp] theorem Group.raise_producer (grp : Group) (fl : BitVec 7) : (grp.raise fl).producer = grp.producer := rfl
@[simp] theorem Group.raise_allot (grp : Group) (fl : BitVec 7) : (grp.raise fl).allot = grp.allot := rfl
@[simp] theorem Group.raise_cls (grp : Group) (fl : BitVec 7) : (grp.raise fl).cls = grp.cls := rfl
@[simp] theorem Group.raise_start (grp : Group) (fl : BitVec 7) : (grp.raise fl).start = grp.start := rfl
@[simp] theorem Group.raise_v (grp : Group) (fl : BitVec 7) : (grp.raise fl).v = grp.v := rfl
@[simp] theorem Group.raise_tags (grp : Group) (fl : BitVec 7) : (grp.raise fl).tags = grp.tags := rfl
@[simp] theorem Group.raise_vpoison (grp : Group) (fl : BitVec 7) : (grp.raise fl).vpoison = grp.vpoison := rfl
@[simp] theorem Group.raise_u (grp : Group) (fl : BitVec 7) : (grp.raise fl).u = grp.u := rfl
@[simp] theorem Group.raise_spoison (grp : Group) (fl : BitVec 7) : (grp.raise fl).spoison = grp.spoison := rfl
@[simp] theorem Group.raise_p (grp : Group) (fl : BitVec 7) : (grp.raise fl).p = grp.p := rfl
@[simp] theorem Group.raise_pix (grp : Group) (fl : BitVec 7) : (grp.raise fl).pix = grp.pix := rfl
@[simp] theorem Group.raise_wcf (grp : Group) (fl : BitVec 7) : (grp.raise fl).wcf = grp.wcf := rfl
@[simp] theorem Group.raise_fctl (grp : Group) (fl : BitVec 7) : (grp.raise fl).fctl = grp.fctl := rfl
@[simp] theorem Group.raise_ntth (grp : Group) (fl : BitVec 7) : (grp.raise fl).ntth = grp.ntth := rfl
@[simp] theorem Group.raise_modn (grp : Group) (fl : BitVec 7) : (grp.raise fl).modn = grp.modn := rfl
@[simp] theorem Group.raise_modb (grp : Group) (fl : BitVec 7) : (grp.raise fl).modb = grp.modb := rfl
@[simp] theorem Group.raise_gang (grp : Group) (fl : BitVec 7) : (grp.raise fl).gang = grp.gang := rfl
@[simp] theorem Group.raise_qmap (grp : Group) (fl : BitVec 7) : (grp.raise fl).qmap = grp.qmap := rfl
@[simp] theorem Group.raise_region (grp : Group) (fl : BitVec 7) : (grp.raise fl).region = grp.region := rfl
@[simp] theorem Group.raise_sd (grp : Group) (fl : BitVec 7) : (grp.raise fl).sd = grp.sd := rfl
@[simp] theorem Group.raise_batches (grp : Group) (fl : BitVec 7) : (grp.raise fl).batches = grp.batches := rfl
@[simp] theorem Group.raise_tickets (grp : Group) (fl : BitVec 7) : (grp.raise fl).tickets = grp.tickets := rfl
@[simp] theorem Group.raise_ticketSeq (grp : Group) (fl : BitVec 7) : (grp.raise fl).ticketSeq = grp.ticketSeq := rfl
@[simp] theorem Group.raise_slices (grp : Group) (fl : BitVec 7) : (grp.raise fl).slices = grp.slices := rfl
@[simp] theorem Group.raise_inflight (grp : Group) (fl : BitVec 7) : (grp.raise fl).inflight = grp.inflight := rfl
@[simp] theorem Group.raise_progress (grp : Group) (fl : BitVec 7) : (grp.raise fl).progress = grp.progress := rfl
@[simp] theorem Group.raise_trap (grp : Group) (fl : BitVec 7) : (grp.raise fl).trap = grp.trap := rfl
@[simp] theorem Group.raise_saved (grp : Group) (fl : BitVec 7) : (grp.raise fl).saved = grp.saved := rfl
@[simp] theorem Group.raise_savedProgress (grp : Group) (fl : BitVec 7) : (grp.raise fl).savedProgress = grp.savedProgress := rfl
@[simp] theorem Group.raise_dead (grp : Group) (fl : BitVec 7) : (grp.raise fl).dead = grp.dead := rfl

@[simp] theorem Group.mapSlices_launch (grp : Group) (m : BitVec 8) (f : Slice → Slice) : (grp.mapSlices m f).launch = grp.launch := rfl
@[simp] theorem Group.mapSlices_team (grp : Group) (m : BitVec 8) (f : Slice → Slice) : (grp.mapSlices m f).team = grp.team := rfl
@[simp] theorem Group.mapSlices_inTeam (grp : Group) (m : BitVec 8) (f : Slice → Slice) : (grp.mapSlices m f).inTeam = grp.inTeam := rfl
@[simp] theorem Group.mapSlices_inRole (grp : Group) (m : BitVec 8) (f : Slice → Slice) : (grp.mapSlices m f).inRole = grp.inRole := rfl
@[simp] theorem Group.mapSlices_producer (grp : Group) (m : BitVec 8) (f : Slice → Slice) : (grp.mapSlices m f).producer = grp.producer := rfl
@[simp] theorem Group.mapSlices_allot (grp : Group) (m : BitVec 8) (f : Slice → Slice) : (grp.mapSlices m f).allot = grp.allot := rfl
@[simp] theorem Group.mapSlices_cls (grp : Group) (m : BitVec 8) (f : Slice → Slice) : (grp.mapSlices m f).cls = grp.cls := rfl
@[simp] theorem Group.mapSlices_start (grp : Group) (m : BitVec 8) (f : Slice → Slice) : (grp.mapSlices m f).start = grp.start := rfl
@[simp] theorem Group.mapSlices_v (grp : Group) (m : BitVec 8) (f : Slice → Slice) : (grp.mapSlices m f).v = grp.v := rfl
@[simp] theorem Group.mapSlices_tags (grp : Group) (m : BitVec 8) (f : Slice → Slice) : (grp.mapSlices m f).tags = grp.tags := rfl
@[simp] theorem Group.mapSlices_vpoison (grp : Group) (m : BitVec 8) (f : Slice → Slice) : (grp.mapSlices m f).vpoison = grp.vpoison := rfl
@[simp] theorem Group.mapSlices_u (grp : Group) (m : BitVec 8) (f : Slice → Slice) : (grp.mapSlices m f).u = grp.u := rfl
@[simp] theorem Group.mapSlices_spoison (grp : Group) (m : BitVec 8) (f : Slice → Slice) : (grp.mapSlices m f).spoison = grp.spoison := rfl
@[simp] theorem Group.mapSlices_p (grp : Group) (m : BitVec 8) (f : Slice → Slice) : (grp.mapSlices m f).p = grp.p := rfl
@[simp] theorem Group.mapSlices_pix (grp : Group) (m : BitVec 8) (f : Slice → Slice) : (grp.mapSlices m f).pix = grp.pix := rfl
@[simp] theorem Group.mapSlices_wcf (grp : Group) (m : BitVec 8) (f : Slice → Slice) : (grp.mapSlices m f).wcf = grp.wcf := rfl
@[simp] theorem Group.mapSlices_flags (grp : Group) (m : BitVec 8) (f : Slice → Slice) : (grp.mapSlices m f).flags = grp.flags := rfl
@[simp] theorem Group.mapSlices_fctl (grp : Group) (m : BitVec 8) (f : Slice → Slice) : (grp.mapSlices m f).fctl = grp.fctl := rfl
@[simp] theorem Group.mapSlices_ntth (grp : Group) (m : BitVec 8) (f : Slice → Slice) : (grp.mapSlices m f).ntth = grp.ntth := rfl
@[simp] theorem Group.mapSlices_modn (grp : Group) (m : BitVec 8) (f : Slice → Slice) : (grp.mapSlices m f).modn = grp.modn := rfl
@[simp] theorem Group.mapSlices_modb (grp : Group) (m : BitVec 8) (f : Slice → Slice) : (grp.mapSlices m f).modb = grp.modb := rfl
@[simp] theorem Group.mapSlices_gang (grp : Group) (m : BitVec 8) (f : Slice → Slice) : (grp.mapSlices m f).gang = grp.gang := rfl
@[simp] theorem Group.mapSlices_qmap (grp : Group) (m : BitVec 8) (f : Slice → Slice) : (grp.mapSlices m f).qmap = grp.qmap := rfl
@[simp] theorem Group.mapSlices_region (grp : Group) (m : BitVec 8) (f : Slice → Slice) : (grp.mapSlices m f).region = grp.region := rfl
@[simp] theorem Group.mapSlices_sd (grp : Group) (m : BitVec 8) (f : Slice → Slice) : (grp.mapSlices m f).sd = grp.sd := rfl
@[simp] theorem Group.mapSlices_batches (grp : Group) (m : BitVec 8) (f : Slice → Slice) : (grp.mapSlices m f).batches = grp.batches := rfl
@[simp] theorem Group.mapSlices_tickets (grp : Group) (m : BitVec 8) (f : Slice → Slice) : (grp.mapSlices m f).tickets = grp.tickets := rfl
@[simp] theorem Group.mapSlices_ticketSeq (grp : Group) (m : BitVec 8) (f : Slice → Slice) : (grp.mapSlices m f).ticketSeq = grp.ticketSeq := rfl
@[simp] theorem Group.mapSlices_inflight (grp : Group) (m : BitVec 8) (f : Slice → Slice) : (grp.mapSlices m f).inflight = grp.inflight := rfl
@[simp] theorem Group.mapSlices_progress (grp : Group) (m : BitVec 8) (f : Slice → Slice) : (grp.mapSlices m f).progress = grp.progress := rfl
@[simp] theorem Group.mapSlices_trap (grp : Group) (m : BitVec 8) (f : Slice → Slice) : (grp.mapSlices m f).trap = grp.trap := rfl
@[simp] theorem Group.mapSlices_saved (grp : Group) (m : BitVec 8) (f : Slice → Slice) : (grp.mapSlices m f).saved = grp.saved := rfl
@[simp] theorem Group.mapSlices_savedProgress (grp : Group) (m : BitVec 8) (f : Slice → Slice) : (grp.mapSlices m f).savedProgress = grp.savedProgress := rfl
@[simp] theorem Group.mapSlices_dead (grp : Group) (m : BitVec 8) (f : Slice → Slice) : (grp.mapSlices m f).dead = grp.dead := rfl

@[simp] theorem Group.setWait_launch (grp : Group) (m : BitVec 8) (w : Wait) (f : Fetched) : (grp.setWait m w f).launch = grp.launch := rfl
@[simp] theorem Group.setWait_team (grp : Group) (m : BitVec 8) (w : Wait) (f : Fetched) : (grp.setWait m w f).team = grp.team := rfl
@[simp] theorem Group.setWait_inTeam (grp : Group) (m : BitVec 8) (w : Wait) (f : Fetched) : (grp.setWait m w f).inTeam = grp.inTeam := rfl
@[simp] theorem Group.setWait_inRole (grp : Group) (m : BitVec 8) (w : Wait) (f : Fetched) : (grp.setWait m w f).inRole = grp.inRole := rfl
@[simp] theorem Group.setWait_producer (grp : Group) (m : BitVec 8) (w : Wait) (f : Fetched) : (grp.setWait m w f).producer = grp.producer := rfl
@[simp] theorem Group.setWait_allot (grp : Group) (m : BitVec 8) (w : Wait) (f : Fetched) : (grp.setWait m w f).allot = grp.allot := rfl
@[simp] theorem Group.setWait_cls (grp : Group) (m : BitVec 8) (w : Wait) (f : Fetched) : (grp.setWait m w f).cls = grp.cls := rfl
@[simp] theorem Group.setWait_start (grp : Group) (m : BitVec 8) (w : Wait) (f : Fetched) : (grp.setWait m w f).start = grp.start := rfl
@[simp] theorem Group.setWait_v (grp : Group) (m : BitVec 8) (w : Wait) (f : Fetched) : (grp.setWait m w f).v = grp.v := rfl
@[simp] theorem Group.setWait_tags (grp : Group) (m : BitVec 8) (w : Wait) (f : Fetched) : (grp.setWait m w f).tags = grp.tags := rfl
@[simp] theorem Group.setWait_vpoison (grp : Group) (m : BitVec 8) (w : Wait) (f : Fetched) : (grp.setWait m w f).vpoison = grp.vpoison := rfl
@[simp] theorem Group.setWait_u (grp : Group) (m : BitVec 8) (w : Wait) (f : Fetched) : (grp.setWait m w f).u = grp.u := rfl
@[simp] theorem Group.setWait_spoison (grp : Group) (m : BitVec 8) (w : Wait) (f : Fetched) : (grp.setWait m w f).spoison = grp.spoison := rfl
@[simp] theorem Group.setWait_p (grp : Group) (m : BitVec 8) (w : Wait) (f : Fetched) : (grp.setWait m w f).p = grp.p := rfl
@[simp] theorem Group.setWait_pix (grp : Group) (m : BitVec 8) (w : Wait) (f : Fetched) : (grp.setWait m w f).pix = grp.pix := rfl
@[simp] theorem Group.setWait_wcf (grp : Group) (m : BitVec 8) (w : Wait) (f : Fetched) : (grp.setWait m w f).wcf = grp.wcf := rfl
@[simp] theorem Group.setWait_flags (grp : Group) (m : BitVec 8) (w : Wait) (f : Fetched) : (grp.setWait m w f).flags = grp.flags := rfl
@[simp] theorem Group.setWait_fctl (grp : Group) (m : BitVec 8) (w : Wait) (f : Fetched) : (grp.setWait m w f).fctl = grp.fctl := rfl
@[simp] theorem Group.setWait_ntth (grp : Group) (m : BitVec 8) (w : Wait) (f : Fetched) : (grp.setWait m w f).ntth = grp.ntth := rfl
@[simp] theorem Group.setWait_modn (grp : Group) (m : BitVec 8) (w : Wait) (f : Fetched) : (grp.setWait m w f).modn = grp.modn := rfl
@[simp] theorem Group.setWait_modb (grp : Group) (m : BitVec 8) (w : Wait) (f : Fetched) : (grp.setWait m w f).modb = grp.modb := rfl
@[simp] theorem Group.setWait_gang (grp : Group) (m : BitVec 8) (w : Wait) (f : Fetched) : (grp.setWait m w f).gang = grp.gang := rfl
@[simp] theorem Group.setWait_qmap (grp : Group) (m : BitVec 8) (w : Wait) (f : Fetched) : (grp.setWait m w f).qmap = grp.qmap := rfl
@[simp] theorem Group.setWait_region (grp : Group) (m : BitVec 8) (w : Wait) (f : Fetched) : (grp.setWait m w f).region = grp.region := rfl
@[simp] theorem Group.setWait_sd (grp : Group) (m : BitVec 8) (w : Wait) (f : Fetched) : (grp.setWait m w f).sd = grp.sd := rfl
@[simp] theorem Group.setWait_batches (grp : Group) (m : BitVec 8) (w : Wait) (f : Fetched) : (grp.setWait m w f).batches = grp.batches := rfl
@[simp] theorem Group.setWait_tickets (grp : Group) (m : BitVec 8) (w : Wait) (f : Fetched) : (grp.setWait m w f).tickets = grp.tickets := rfl
@[simp] theorem Group.setWait_ticketSeq (grp : Group) (m : BitVec 8) (w : Wait) (f : Fetched) : (grp.setWait m w f).ticketSeq = grp.ticketSeq := rfl
@[simp] theorem Group.setWait_inflight (grp : Group) (m : BitVec 8) (w : Wait) (f : Fetched) : (grp.setWait m w f).inflight = grp.inflight := rfl
@[simp] theorem Group.setWait_progress (grp : Group) (m : BitVec 8) (w : Wait) (f : Fetched) : (grp.setWait m w f).progress = grp.progress := rfl
@[simp] theorem Group.setWait_trap (grp : Group) (m : BitVec 8) (w : Wait) (f : Fetched) : (grp.setWait m w f).trap = grp.trap := rfl
@[simp] theorem Group.setWait_saved (grp : Group) (m : BitVec 8) (w : Wait) (f : Fetched) : (grp.setWait m w f).saved = grp.saved := rfl
@[simp] theorem Group.setWait_savedProgress (grp : Group) (m : BitVec 8) (w : Wait) (f : Fetched) : (grp.setWait m w f).savedProgress = grp.savedProgress := rfl
@[simp] theorem Group.setWait_dead (grp : Group) (m : BitVec 8) (w : Wait) (f : Fetched) : (grp.setWait m w f).dead = grp.dead := rfl

@[simp] theorem Group.wake_launch (grp : Group) (m : BitVec 8) : (grp.wake m).launch = grp.launch := rfl
@[simp] theorem Group.wake_team (grp : Group) (m : BitVec 8) : (grp.wake m).team = grp.team := rfl
@[simp] theorem Group.wake_inTeam (grp : Group) (m : BitVec 8) : (grp.wake m).inTeam = grp.inTeam := rfl
@[simp] theorem Group.wake_inRole (grp : Group) (m : BitVec 8) : (grp.wake m).inRole = grp.inRole := rfl
@[simp] theorem Group.wake_producer (grp : Group) (m : BitVec 8) : (grp.wake m).producer = grp.producer := rfl
@[simp] theorem Group.wake_allot (grp : Group) (m : BitVec 8) : (grp.wake m).allot = grp.allot := rfl
@[simp] theorem Group.wake_cls (grp : Group) (m : BitVec 8) : (grp.wake m).cls = grp.cls := rfl
@[simp] theorem Group.wake_start (grp : Group) (m : BitVec 8) : (grp.wake m).start = grp.start := rfl
@[simp] theorem Group.wake_v (grp : Group) (m : BitVec 8) : (grp.wake m).v = grp.v := rfl
@[simp] theorem Group.wake_tags (grp : Group) (m : BitVec 8) : (grp.wake m).tags = grp.tags := rfl
@[simp] theorem Group.wake_vpoison (grp : Group) (m : BitVec 8) : (grp.wake m).vpoison = grp.vpoison := rfl
@[simp] theorem Group.wake_u (grp : Group) (m : BitVec 8) : (grp.wake m).u = grp.u := rfl
@[simp] theorem Group.wake_spoison (grp : Group) (m : BitVec 8) : (grp.wake m).spoison = grp.spoison := rfl
@[simp] theorem Group.wake_p (grp : Group) (m : BitVec 8) : (grp.wake m).p = grp.p := rfl
@[simp] theorem Group.wake_pix (grp : Group) (m : BitVec 8) : (grp.wake m).pix = grp.pix := rfl
@[simp] theorem Group.wake_wcf (grp : Group) (m : BitVec 8) : (grp.wake m).wcf = grp.wcf := rfl
@[simp] theorem Group.wake_flags (grp : Group) (m : BitVec 8) : (grp.wake m).flags = grp.flags := rfl
@[simp] theorem Group.wake_fctl (grp : Group) (m : BitVec 8) : (grp.wake m).fctl = grp.fctl := rfl
@[simp] theorem Group.wake_ntth (grp : Group) (m : BitVec 8) : (grp.wake m).ntth = grp.ntth := rfl
@[simp] theorem Group.wake_modn (grp : Group) (m : BitVec 8) : (grp.wake m).modn = grp.modn := rfl
@[simp] theorem Group.wake_modb (grp : Group) (m : BitVec 8) : (grp.wake m).modb = grp.modb := rfl
@[simp] theorem Group.wake_gang (grp : Group) (m : BitVec 8) : (grp.wake m).gang = grp.gang := rfl
@[simp] theorem Group.wake_qmap (grp : Group) (m : BitVec 8) : (grp.wake m).qmap = grp.qmap := rfl
@[simp] theorem Group.wake_region (grp : Group) (m : BitVec 8) : (grp.wake m).region = grp.region := rfl
@[simp] theorem Group.wake_sd (grp : Group) (m : BitVec 8) : (grp.wake m).sd = grp.sd := rfl
@[simp] theorem Group.wake_batches (grp : Group) (m : BitVec 8) : (grp.wake m).batches = grp.batches := rfl
@[simp] theorem Group.wake_tickets (grp : Group) (m : BitVec 8) : (grp.wake m).tickets = grp.tickets := rfl
@[simp] theorem Group.wake_ticketSeq (grp : Group) (m : BitVec 8) : (grp.wake m).ticketSeq = grp.ticketSeq := rfl
@[simp] theorem Group.wake_inflight (grp : Group) (m : BitVec 8) : (grp.wake m).inflight = grp.inflight := rfl
@[simp] theorem Group.wake_progress (grp : Group) (m : BitVec 8) : (grp.wake m).progress = grp.progress := rfl
@[simp] theorem Group.wake_trap (grp : Group) (m : BitVec 8) : (grp.wake m).trap = grp.trap := rfl
@[simp] theorem Group.wake_saved (grp : Group) (m : BitVec 8) : (grp.wake m).saved = grp.saved := rfl
@[simp] theorem Group.wake_savedProgress (grp : Group) (m : BitVec 8) : (grp.wake m).savedProgress = grp.savedProgress := rfl
@[simp] theorem Group.wake_dead (grp : Group) (m : BitVec 8) : (grp.wake m).dead = grp.dead := rfl

@[simp] theorem Group.pin_launch (grp : Group) (m : BitVec 8) : (grp.pin m).launch = grp.launch := rfl
@[simp] theorem Group.pin_team (grp : Group) (m : BitVec 8) : (grp.pin m).team = grp.team := rfl
@[simp] theorem Group.pin_inTeam (grp : Group) (m : BitVec 8) : (grp.pin m).inTeam = grp.inTeam := rfl
@[simp] theorem Group.pin_inRole (grp : Group) (m : BitVec 8) : (grp.pin m).inRole = grp.inRole := rfl
@[simp] theorem Group.pin_producer (grp : Group) (m : BitVec 8) : (grp.pin m).producer = grp.producer := rfl
@[simp] theorem Group.pin_allot (grp : Group) (m : BitVec 8) : (grp.pin m).allot = grp.allot := rfl
@[simp] theorem Group.pin_cls (grp : Group) (m : BitVec 8) : (grp.pin m).cls = grp.cls := rfl
@[simp] theorem Group.pin_start (grp : Group) (m : BitVec 8) : (grp.pin m).start = grp.start := rfl
@[simp] theorem Group.pin_v (grp : Group) (m : BitVec 8) : (grp.pin m).v = grp.v := rfl
@[simp] theorem Group.pin_tags (grp : Group) (m : BitVec 8) : (grp.pin m).tags = grp.tags := rfl
@[simp] theorem Group.pin_vpoison (grp : Group) (m : BitVec 8) : (grp.pin m).vpoison = grp.vpoison := rfl
@[simp] theorem Group.pin_u (grp : Group) (m : BitVec 8) : (grp.pin m).u = grp.u := rfl
@[simp] theorem Group.pin_spoison (grp : Group) (m : BitVec 8) : (grp.pin m).spoison = grp.spoison := rfl
@[simp] theorem Group.pin_p (grp : Group) (m : BitVec 8) : (grp.pin m).p = grp.p := rfl
@[simp] theorem Group.pin_pix (grp : Group) (m : BitVec 8) : (grp.pin m).pix = grp.pix := rfl
@[simp] theorem Group.pin_wcf (grp : Group) (m : BitVec 8) : (grp.pin m).wcf = grp.wcf := rfl
@[simp] theorem Group.pin_flags (grp : Group) (m : BitVec 8) : (grp.pin m).flags = grp.flags := rfl
@[simp] theorem Group.pin_fctl (grp : Group) (m : BitVec 8) : (grp.pin m).fctl = grp.fctl := rfl
@[simp] theorem Group.pin_ntth (grp : Group) (m : BitVec 8) : (grp.pin m).ntth = grp.ntth := rfl
@[simp] theorem Group.pin_modn (grp : Group) (m : BitVec 8) : (grp.pin m).modn = grp.modn := rfl
@[simp] theorem Group.pin_modb (grp : Group) (m : BitVec 8) : (grp.pin m).modb = grp.modb := rfl
@[simp] theorem Group.pin_gang (grp : Group) (m : BitVec 8) : (grp.pin m).gang = grp.gang := rfl
@[simp] theorem Group.pin_qmap (grp : Group) (m : BitVec 8) : (grp.pin m).qmap = grp.qmap := rfl
@[simp] theorem Group.pin_region (grp : Group) (m : BitVec 8) : (grp.pin m).region = grp.region := rfl
@[simp] theorem Group.pin_sd (grp : Group) (m : BitVec 8) : (grp.pin m).sd = grp.sd := rfl
@[simp] theorem Group.pin_batches (grp : Group) (m : BitVec 8) : (grp.pin m).batches = grp.batches := rfl
@[simp] theorem Group.pin_tickets (grp : Group) (m : BitVec 8) : (grp.pin m).tickets = grp.tickets := rfl
@[simp] theorem Group.pin_ticketSeq (grp : Group) (m : BitVec 8) : (grp.pin m).ticketSeq = grp.ticketSeq := rfl
@[simp] theorem Group.pin_inflight (grp : Group) (m : BitVec 8) : (grp.pin m).inflight = grp.inflight := rfl
@[simp] theorem Group.pin_progress (grp : Group) (m : BitVec 8) : (grp.pin m).progress = grp.progress := rfl
@[simp] theorem Group.pin_trap (grp : Group) (m : BitVec 8) : (grp.pin m).trap = grp.trap := rfl
@[simp] theorem Group.pin_saved (grp : Group) (m : BitVec 8) : (grp.pin m).saved = grp.saved := rfl
@[simp] theorem Group.pin_savedProgress (grp : Group) (m : BitVec 8) : (grp.pin m).savedProgress = grp.savedProgress := rfl
@[simp] theorem Group.pin_dead (grp : Group) (m : BitVec 8) : (grp.pin m).dead = grp.dead := rfl

@[simp] theorem Group.advance_launch (grp : Group) (m : BitVec 8) (pair : Bool) : (grp.advance m pair).launch = grp.launch := rfl
@[simp] theorem Group.advance_team (grp : Group) (m : BitVec 8) (pair : Bool) : (grp.advance m pair).team = grp.team := rfl
@[simp] theorem Group.advance_inTeam (grp : Group) (m : BitVec 8) (pair : Bool) : (grp.advance m pair).inTeam = grp.inTeam := rfl
@[simp] theorem Group.advance_inRole (grp : Group) (m : BitVec 8) (pair : Bool) : (grp.advance m pair).inRole = grp.inRole := rfl
@[simp] theorem Group.advance_producer (grp : Group) (m : BitVec 8) (pair : Bool) : (grp.advance m pair).producer = grp.producer := rfl
@[simp] theorem Group.advance_allot (grp : Group) (m : BitVec 8) (pair : Bool) : (grp.advance m pair).allot = grp.allot := rfl
@[simp] theorem Group.advance_cls (grp : Group) (m : BitVec 8) (pair : Bool) : (grp.advance m pair).cls = grp.cls := rfl
@[simp] theorem Group.advance_start (grp : Group) (m : BitVec 8) (pair : Bool) : (grp.advance m pair).start = grp.start := rfl
@[simp] theorem Group.advance_v (grp : Group) (m : BitVec 8) (pair : Bool) : (grp.advance m pair).v = grp.v := rfl
@[simp] theorem Group.advance_tags (grp : Group) (m : BitVec 8) (pair : Bool) : (grp.advance m pair).tags = grp.tags := rfl
@[simp] theorem Group.advance_vpoison (grp : Group) (m : BitVec 8) (pair : Bool) : (grp.advance m pair).vpoison = grp.vpoison := rfl
@[simp] theorem Group.advance_u (grp : Group) (m : BitVec 8) (pair : Bool) : (grp.advance m pair).u = grp.u := rfl
@[simp] theorem Group.advance_spoison (grp : Group) (m : BitVec 8) (pair : Bool) : (grp.advance m pair).spoison = grp.spoison := rfl
@[simp] theorem Group.advance_p (grp : Group) (m : BitVec 8) (pair : Bool) : (grp.advance m pair).p = grp.p := rfl
@[simp] theorem Group.advance_pix (grp : Group) (m : BitVec 8) (pair : Bool) : (grp.advance m pair).pix = grp.pix := rfl
@[simp] theorem Group.advance_wcf (grp : Group) (m : BitVec 8) (pair : Bool) : (grp.advance m pair).wcf = grp.wcf := rfl
@[simp] theorem Group.advance_flags (grp : Group) (m : BitVec 8) (pair : Bool) : (grp.advance m pair).flags = grp.flags := rfl
@[simp] theorem Group.advance_fctl (grp : Group) (m : BitVec 8) (pair : Bool) : (grp.advance m pair).fctl = grp.fctl := rfl
@[simp] theorem Group.advance_ntth (grp : Group) (m : BitVec 8) (pair : Bool) : (grp.advance m pair).ntth = grp.ntth := rfl
@[simp] theorem Group.advance_modn (grp : Group) (m : BitVec 8) (pair : Bool) : (grp.advance m pair).modn = grp.modn := rfl
@[simp] theorem Group.advance_modb (grp : Group) (m : BitVec 8) (pair : Bool) : (grp.advance m pair).modb = grp.modb := rfl
@[simp] theorem Group.advance_gang (grp : Group) (m : BitVec 8) (pair : Bool) : (grp.advance m pair).gang = grp.gang := rfl
@[simp] theorem Group.advance_qmap (grp : Group) (m : BitVec 8) (pair : Bool) : (grp.advance m pair).qmap = grp.qmap := rfl
@[simp] theorem Group.advance_region (grp : Group) (m : BitVec 8) (pair : Bool) : (grp.advance m pair).region = grp.region := rfl
@[simp] theorem Group.advance_sd (grp : Group) (m : BitVec 8) (pair : Bool) : (grp.advance m pair).sd = grp.sd := rfl
@[simp] theorem Group.advance_batches (grp : Group) (m : BitVec 8) (pair : Bool) : (grp.advance m pair).batches = grp.batches := rfl
@[simp] theorem Group.advance_tickets (grp : Group) (m : BitVec 8) (pair : Bool) : (grp.advance m pair).tickets = grp.tickets := rfl
@[simp] theorem Group.advance_ticketSeq (grp : Group) (m : BitVec 8) (pair : Bool) : (grp.advance m pair).ticketSeq = grp.ticketSeq := rfl
@[simp] theorem Group.advance_inflight (grp : Group) (m : BitVec 8) (pair : Bool) : (grp.advance m pair).inflight = grp.inflight := rfl
@[simp] theorem Group.advance_progress (grp : Group) (m : BitVec 8) (pair : Bool) : (grp.advance m pair).progress = grp.progress := rfl
@[simp] theorem Group.advance_trap (grp : Group) (m : BitVec 8) (pair : Bool) : (grp.advance m pair).trap = grp.trap := rfl
@[simp] theorem Group.advance_saved (grp : Group) (m : BitVec 8) (pair : Bool) : (grp.advance m pair).saved = grp.saved := rfl
@[simp] theorem Group.advance_savedProgress (grp : Group) (m : BitVec 8) (pair : Bool) : (grp.advance m pair).savedProgress = grp.savedProgress := rfl
@[simp] theorem Group.advance_dead (grp : Group) (m : BitVec 8) (pair : Bool) : (grp.advance m pair).dead = grp.dead := rfl

@[simp] theorem Group.enterHandler_launch (grp : Group) (m : BitVec 8) (tbase : Addr) : (grp.enterHandler m tbase).launch = grp.launch := rfl
@[simp] theorem Group.enterHandler_team (grp : Group) (m : BitVec 8) (tbase : Addr) : (grp.enterHandler m tbase).team = grp.team := rfl
@[simp] theorem Group.enterHandler_inTeam (grp : Group) (m : BitVec 8) (tbase : Addr) : (grp.enterHandler m tbase).inTeam = grp.inTeam := rfl
@[simp] theorem Group.enterHandler_inRole (grp : Group) (m : BitVec 8) (tbase : Addr) : (grp.enterHandler m tbase).inRole = grp.inRole := rfl
@[simp] theorem Group.enterHandler_producer (grp : Group) (m : BitVec 8) (tbase : Addr) : (grp.enterHandler m tbase).producer = grp.producer := rfl
@[simp] theorem Group.enterHandler_allot (grp : Group) (m : BitVec 8) (tbase : Addr) : (grp.enterHandler m tbase).allot = grp.allot := rfl
@[simp] theorem Group.enterHandler_cls (grp : Group) (m : BitVec 8) (tbase : Addr) : (grp.enterHandler m tbase).cls = grp.cls := rfl
@[simp] theorem Group.enterHandler_start (grp : Group) (m : BitVec 8) (tbase : Addr) : (grp.enterHandler m tbase).start = grp.start := rfl
@[simp] theorem Group.enterHandler_v (grp : Group) (m : BitVec 8) (tbase : Addr) : (grp.enterHandler m tbase).v = grp.v := rfl
@[simp] theorem Group.enterHandler_tags (grp : Group) (m : BitVec 8) (tbase : Addr) : (grp.enterHandler m tbase).tags = grp.tags := rfl
@[simp] theorem Group.enterHandler_vpoison (grp : Group) (m : BitVec 8) (tbase : Addr) : (grp.enterHandler m tbase).vpoison = grp.vpoison := rfl
@[simp] theorem Group.enterHandler_u (grp : Group) (m : BitVec 8) (tbase : Addr) : (grp.enterHandler m tbase).u = grp.u := rfl
@[simp] theorem Group.enterHandler_spoison (grp : Group) (m : BitVec 8) (tbase : Addr) : (grp.enterHandler m tbase).spoison = grp.spoison := rfl
@[simp] theorem Group.enterHandler_p (grp : Group) (m : BitVec 8) (tbase : Addr) : (grp.enterHandler m tbase).p = grp.p := rfl
@[simp] theorem Group.enterHandler_pix (grp : Group) (m : BitVec 8) (tbase : Addr) : (grp.enterHandler m tbase).pix = grp.pix := rfl
@[simp] theorem Group.enterHandler_wcf (grp : Group) (m : BitVec 8) (tbase : Addr) : (grp.enterHandler m tbase).wcf = grp.wcf := rfl
@[simp] theorem Group.enterHandler_flags (grp : Group) (m : BitVec 8) (tbase : Addr) : (grp.enterHandler m tbase).flags = grp.flags := rfl
@[simp] theorem Group.enterHandler_fctl (grp : Group) (m : BitVec 8) (tbase : Addr) : (grp.enterHandler m tbase).fctl = grp.fctl := rfl
@[simp] theorem Group.enterHandler_ntth (grp : Group) (m : BitVec 8) (tbase : Addr) : (grp.enterHandler m tbase).ntth = grp.ntth := rfl
@[simp] theorem Group.enterHandler_modn (grp : Group) (m : BitVec 8) (tbase : Addr) : (grp.enterHandler m tbase).modn = grp.modn := rfl
@[simp] theorem Group.enterHandler_modb (grp : Group) (m : BitVec 8) (tbase : Addr) : (grp.enterHandler m tbase).modb = grp.modb := rfl
@[simp] theorem Group.enterHandler_gang (grp : Group) (m : BitVec 8) (tbase : Addr) : (grp.enterHandler m tbase).gang = grp.gang := rfl
@[simp] theorem Group.enterHandler_qmap (grp : Group) (m : BitVec 8) (tbase : Addr) : (grp.enterHandler m tbase).qmap = grp.qmap := rfl
@[simp] theorem Group.enterHandler_region (grp : Group) (m : BitVec 8) (tbase : Addr) : (grp.enterHandler m tbase).region = grp.region := rfl
@[simp] theorem Group.enterHandler_sd (grp : Group) (m : BitVec 8) (tbase : Addr) : (grp.enterHandler m tbase).sd = grp.sd := rfl
@[simp] theorem Group.enterHandler_batches (grp : Group) (m : BitVec 8) (tbase : Addr) : (grp.enterHandler m tbase).batches = grp.batches := rfl
@[simp] theorem Group.enterHandler_tickets (grp : Group) (m : BitVec 8) (tbase : Addr) : (grp.enterHandler m tbase).tickets = grp.tickets := rfl
@[simp] theorem Group.enterHandler_ticketSeq (grp : Group) (m : BitVec 8) (tbase : Addr) : (grp.enterHandler m tbase).ticketSeq = grp.ticketSeq := rfl
@[simp] theorem Group.enterHandler_inflight (grp : Group) (m : BitVec 8) (tbase : Addr) : (grp.enterHandler m tbase).inflight = grp.inflight := rfl
@[simp] theorem Group.enterHandler_trap (grp : Group) (m : BitVec 8) (tbase : Addr) : (grp.enterHandler m tbase).trap = grp.trap := rfl
@[simp] theorem Group.enterHandler_dead (grp : Group) (m : BitVec 8) (tbase : Addr) : (grp.enterHandler m tbase).dead = grp.dead := rfl

/-! ### A group whose update is a case distinction -/

@[simp] theorem Group.setPred_launch (grp : Group) (k : Fin 8) (m x : LaneMask) : (grp.setPred k m x).launch = grp.launch := by
  unfold Group.setPred; split <;> rfl
@[simp] theorem Group.setPred_team (grp : Group) (k : Fin 8) (m x : LaneMask) : (grp.setPred k m x).team = grp.team := by
  unfold Group.setPred; split <;> rfl
@[simp] theorem Group.setPred_inTeam (grp : Group) (k : Fin 8) (m x : LaneMask) : (grp.setPred k m x).inTeam = grp.inTeam := by
  unfold Group.setPred; split <;> rfl
@[simp] theorem Group.setPred_inRole (grp : Group) (k : Fin 8) (m x : LaneMask) : (grp.setPred k m x).inRole = grp.inRole := by
  unfold Group.setPred; split <;> rfl
@[simp] theorem Group.setPred_producer (grp : Group) (k : Fin 8) (m x : LaneMask) : (grp.setPred k m x).producer = grp.producer := by
  unfold Group.setPred; split <;> rfl
@[simp] theorem Group.setPred_allot (grp : Group) (k : Fin 8) (m x : LaneMask) : (grp.setPred k m x).allot = grp.allot := by
  unfold Group.setPred; split <;> rfl
@[simp] theorem Group.setPred_cls (grp : Group) (k : Fin 8) (m x : LaneMask) : (grp.setPred k m x).cls = grp.cls := by
  unfold Group.setPred; split <;> rfl
@[simp] theorem Group.setPred_start (grp : Group) (k : Fin 8) (m x : LaneMask) : (grp.setPred k m x).start = grp.start := by
  unfold Group.setPred; split <;> rfl
@[simp] theorem Group.setPred_v (grp : Group) (k : Fin 8) (m x : LaneMask) : (grp.setPred k m x).v = grp.v := by
  unfold Group.setPred; split <;> rfl
@[simp] theorem Group.setPred_tags (grp : Group) (k : Fin 8) (m x : LaneMask) : (grp.setPred k m x).tags = grp.tags := by
  unfold Group.setPred; split <;> rfl
@[simp] theorem Group.setPred_vpoison (grp : Group) (k : Fin 8) (m x : LaneMask) : (grp.setPred k m x).vpoison = grp.vpoison := by
  unfold Group.setPred; split <;> rfl
@[simp] theorem Group.setPred_u (grp : Group) (k : Fin 8) (m x : LaneMask) : (grp.setPred k m x).u = grp.u := by
  unfold Group.setPred; split <;> rfl
@[simp] theorem Group.setPred_spoison (grp : Group) (k : Fin 8) (m x : LaneMask) : (grp.setPred k m x).spoison = grp.spoison := by
  unfold Group.setPred; split <;> rfl
@[simp] theorem Group.setPred_pix (grp : Group) (k : Fin 8) (m x : LaneMask) : (grp.setPred k m x).pix = grp.pix := by
  unfold Group.setPred; split <;> rfl
@[simp] theorem Group.setPred_wcf (grp : Group) (k : Fin 8) (m x : LaneMask) : (grp.setPred k m x).wcf = grp.wcf := by
  unfold Group.setPred; split <;> rfl
@[simp] theorem Group.setPred_flags (grp : Group) (k : Fin 8) (m x : LaneMask) : (grp.setPred k m x).flags = grp.flags := by
  unfold Group.setPred; split <;> rfl
@[simp] theorem Group.setPred_fctl (grp : Group) (k : Fin 8) (m x : LaneMask) : (grp.setPred k m x).fctl = grp.fctl := by
  unfold Group.setPred; split <;> rfl
@[simp] theorem Group.setPred_ntth (grp : Group) (k : Fin 8) (m x : LaneMask) : (grp.setPred k m x).ntth = grp.ntth := by
  unfold Group.setPred; split <;> rfl
@[simp] theorem Group.setPred_modn (grp : Group) (k : Fin 8) (m x : LaneMask) : (grp.setPred k m x).modn = grp.modn := by
  unfold Group.setPred; split <;> rfl
@[simp] theorem Group.setPred_modb (grp : Group) (k : Fin 8) (m x : LaneMask) : (grp.setPred k m x).modb = grp.modb := by
  unfold Group.setPred; split <;> rfl
@[simp] theorem Group.setPred_gang (grp : Group) (k : Fin 8) (m x : LaneMask) : (grp.setPred k m x).gang = grp.gang := by
  unfold Group.setPred; split <;> rfl
@[simp] theorem Group.setPred_qmap (grp : Group) (k : Fin 8) (m x : LaneMask) : (grp.setPred k m x).qmap = grp.qmap := by
  unfold Group.setPred; split <;> rfl
@[simp] theorem Group.setPred_region (grp : Group) (k : Fin 8) (m x : LaneMask) : (grp.setPred k m x).region = grp.region := by
  unfold Group.setPred; split <;> rfl
@[simp] theorem Group.setPred_sd (grp : Group) (k : Fin 8) (m x : LaneMask) : (grp.setPred k m x).sd = grp.sd := by
  unfold Group.setPred; split <;> rfl
@[simp] theorem Group.setPred_batches (grp : Group) (k : Fin 8) (m x : LaneMask) : (grp.setPred k m x).batches = grp.batches := by
  unfold Group.setPred; split <;> rfl
@[simp] theorem Group.setPred_tickets (grp : Group) (k : Fin 8) (m x : LaneMask) : (grp.setPred k m x).tickets = grp.tickets := by
  unfold Group.setPred; split <;> rfl
@[simp] theorem Group.setPred_ticketSeq (grp : Group) (k : Fin 8) (m x : LaneMask) : (grp.setPred k m x).ticketSeq = grp.ticketSeq := by
  unfold Group.setPred; split <;> rfl
@[simp] theorem Group.setPred_slices (grp : Group) (k : Fin 8) (m x : LaneMask) : (grp.setPred k m x).slices = grp.slices := by
  unfold Group.setPred; split <;> rfl
@[simp] theorem Group.setPred_inflight (grp : Group) (k : Fin 8) (m x : LaneMask) : (grp.setPred k m x).inflight = grp.inflight := by
  unfold Group.setPred; split <;> rfl
@[simp] theorem Group.setPred_progress (grp : Group) (k : Fin 8) (m x : LaneMask) : (grp.setPred k m x).progress = grp.progress := by
  unfold Group.setPred; split <;> rfl
@[simp] theorem Group.setPred_trap (grp : Group) (k : Fin 8) (m x : LaneMask) : (grp.setPred k m x).trap = grp.trap := by
  unfold Group.setPred; split <;> rfl
@[simp] theorem Group.setPred_saved (grp : Group) (k : Fin 8) (m x : LaneMask) : (grp.setPred k m x).saved = grp.saved := by
  unfold Group.setPred; split <;> rfl
@[simp] theorem Group.setPred_savedProgress (grp : Group) (k : Fin 8) (m x : LaneMask) : (grp.setPred k m x).savedProgress = grp.savedProgress := by
  unfold Group.setPred; split <;> rfl
@[simp] theorem Group.setPred_dead (grp : Group) (k : Fin 8) (m x : LaneMask) : (grp.setPred k m x).dead = grp.dead := by
  unfold Group.setPred; split <;> rfl

@[simp] theorem Group.dropProgress_launch (grp : Group) (m : BitVec 8) : (grp.dropProgress m).launch = grp.launch := by
  unfold Group.dropProgress; (repeat' split) <;> rfl
@[simp] theorem Group.dropProgress_team (grp : Group) (m : BitVec 8) : (grp.dropProgress m).team = grp.team := by
  unfold Group.dropProgress; (repeat' split) <;> rfl
@[simp] theorem Group.dropProgress_inTeam (grp : Group) (m : BitVec 8) : (grp.dropProgress m).inTeam = grp.inTeam := by
  unfold Group.dropProgress; (repeat' split) <;> rfl
@[simp] theorem Group.dropProgress_inRole (grp : Group) (m : BitVec 8) : (grp.dropProgress m).inRole = grp.inRole := by
  unfold Group.dropProgress; (repeat' split) <;> rfl
@[simp] theorem Group.dropProgress_producer (grp : Group) (m : BitVec 8) : (grp.dropProgress m).producer = grp.producer := by
  unfold Group.dropProgress; (repeat' split) <;> rfl
@[simp] theorem Group.dropProgress_allot (grp : Group) (m : BitVec 8) : (grp.dropProgress m).allot = grp.allot := by
  unfold Group.dropProgress; (repeat' split) <;> rfl
@[simp] theorem Group.dropProgress_cls (grp : Group) (m : BitVec 8) : (grp.dropProgress m).cls = grp.cls := by
  unfold Group.dropProgress; (repeat' split) <;> rfl
@[simp] theorem Group.dropProgress_start (grp : Group) (m : BitVec 8) : (grp.dropProgress m).start = grp.start := by
  unfold Group.dropProgress; (repeat' split) <;> rfl
@[simp] theorem Group.dropProgress_v (grp : Group) (m : BitVec 8) : (grp.dropProgress m).v = grp.v := by
  unfold Group.dropProgress; (repeat' split) <;> rfl
@[simp] theorem Group.dropProgress_tags (grp : Group) (m : BitVec 8) : (grp.dropProgress m).tags = grp.tags := by
  unfold Group.dropProgress; (repeat' split) <;> rfl
@[simp] theorem Group.dropProgress_vpoison (grp : Group) (m : BitVec 8) : (grp.dropProgress m).vpoison = grp.vpoison := by
  unfold Group.dropProgress; (repeat' split) <;> rfl
@[simp] theorem Group.dropProgress_u (grp : Group) (m : BitVec 8) : (grp.dropProgress m).u = grp.u := by
  unfold Group.dropProgress; (repeat' split) <;> rfl
@[simp] theorem Group.dropProgress_spoison (grp : Group) (m : BitVec 8) : (grp.dropProgress m).spoison = grp.spoison := by
  unfold Group.dropProgress; (repeat' split) <;> rfl
@[simp] theorem Group.dropProgress_p (grp : Group) (m : BitVec 8) : (grp.dropProgress m).p = grp.p := by
  unfold Group.dropProgress; (repeat' split) <;> rfl
@[simp] theorem Group.dropProgress_pix (grp : Group) (m : BitVec 8) : (grp.dropProgress m).pix = grp.pix := by
  unfold Group.dropProgress; (repeat' split) <;> rfl
@[simp] theorem Group.dropProgress_wcf (grp : Group) (m : BitVec 8) : (grp.dropProgress m).wcf = grp.wcf := by
  unfold Group.dropProgress; (repeat' split) <;> rfl
@[simp] theorem Group.dropProgress_flags (grp : Group) (m : BitVec 8) : (grp.dropProgress m).flags = grp.flags := by
  unfold Group.dropProgress; (repeat' split) <;> rfl
@[simp] theorem Group.dropProgress_fctl (grp : Group) (m : BitVec 8) : (grp.dropProgress m).fctl = grp.fctl := by
  unfold Group.dropProgress; (repeat' split) <;> rfl
@[simp] theorem Group.dropProgress_ntth (grp : Group) (m : BitVec 8) : (grp.dropProgress m).ntth = grp.ntth := by
  unfold Group.dropProgress; (repeat' split) <;> rfl
@[simp] theorem Group.dropProgress_modn (grp : Group) (m : BitVec 8) : (grp.dropProgress m).modn = grp.modn := by
  unfold Group.dropProgress; (repeat' split) <;> rfl
@[simp] theorem Group.dropProgress_modb (grp : Group) (m : BitVec 8) : (grp.dropProgress m).modb = grp.modb := by
  unfold Group.dropProgress; (repeat' split) <;> rfl
@[simp] theorem Group.dropProgress_gang (grp : Group) (m : BitVec 8) : (grp.dropProgress m).gang = grp.gang := by
  unfold Group.dropProgress; (repeat' split) <;> rfl
@[simp] theorem Group.dropProgress_qmap (grp : Group) (m : BitVec 8) : (grp.dropProgress m).qmap = grp.qmap := by
  unfold Group.dropProgress; (repeat' split) <;> rfl
@[simp] theorem Group.dropProgress_region (grp : Group) (m : BitVec 8) : (grp.dropProgress m).region = grp.region := by
  unfold Group.dropProgress; (repeat' split) <;> rfl
@[simp] theorem Group.dropProgress_sd (grp : Group) (m : BitVec 8) : (grp.dropProgress m).sd = grp.sd := by
  unfold Group.dropProgress; (repeat' split) <;> rfl
@[simp] theorem Group.dropProgress_batches (grp : Group) (m : BitVec 8) : (grp.dropProgress m).batches = grp.batches := by
  unfold Group.dropProgress; (repeat' split) <;> rfl
@[simp] theorem Group.dropProgress_tickets (grp : Group) (m : BitVec 8) : (grp.dropProgress m).tickets = grp.tickets := by
  unfold Group.dropProgress; (repeat' split) <;> rfl
@[simp] theorem Group.dropProgress_ticketSeq (grp : Group) (m : BitVec 8) : (grp.dropProgress m).ticketSeq = grp.ticketSeq := by
  unfold Group.dropProgress; (repeat' split) <;> rfl
@[simp] theorem Group.dropProgress_slices (grp : Group) (m : BitVec 8) : (grp.dropProgress m).slices = grp.slices := by
  unfold Group.dropProgress; (repeat' split) <;> rfl
@[simp] theorem Group.dropProgress_inflight (grp : Group) (m : BitVec 8) : (grp.dropProgress m).inflight = grp.inflight := by
  unfold Group.dropProgress; (repeat' split) <;> rfl
@[simp] theorem Group.dropProgress_trap (grp : Group) (m : BitVec 8) : (grp.dropProgress m).trap = grp.trap := by
  unfold Group.dropProgress; (repeat' split) <;> rfl
@[simp] theorem Group.dropProgress_saved (grp : Group) (m : BitVec 8) : (grp.dropProgress m).saved = grp.saved := by
  unfold Group.dropProgress; (repeat' split) <;> rfl
@[simp] theorem Group.dropProgress_savedProgress (grp : Group) (m : BitVec 8) : (grp.dropProgress m).savedProgress = grp.savedProgress := by
  unfold Group.dropProgress; (repeat' split) <;> rfl
@[simp] theorem Group.dropProgress_dead (grp : Group) (m : BitVec 8) : (grp.dropProgress m).dead = grp.dead := by
  unfold Group.dropProgress; (repeat' split) <;> rfl

/-! ### Reading after an update -/

@[simp] theorem State.group?_setGroup (s : State) (g : GroupId) (grp : Group) : (s.setGroup g grp).group? g = some grp := by
  simp [State.group?, State.setGroup]

theorem State.group?_setGroup_ne (s : State) {g h : GroupId} (hne : h ≠ g) (grp : Group) :
    (s.setGroup g grp).group? h = s.group? h := by
  have : h.val ≠ g.val := fun e => hne (Fin.ext e)
  simp [State.group?, State.setGroup, getBy_putBy_ne this]

@[simp] theorem State.setGroup_setGroup (s : State) (g : GroupId) (a b : Group) :
    (s.setGroup g a).setGroup g b = s.setGroup g b := by
  simp [State.setGroup]

@[simp] theorem State.cluster_setGroup (s : State) (g : GroupId) (grp : Group) (cl : ClusterId) :
    (s.setGroup g grp).cluster cl = s.cluster cl := rfl

@[simp] theorem State.ctx_setGroup (s : State) (g : GroupId) (grp : Group) (ld : Fin 4) (asn : Asn) :
    (s.setGroup g grp).ctx ld asn = s.ctx ld asn := rfl

@[simp] theorem State.team?_setGroup (s : State) (g : GroupId) (grp : Group) (id : Nat) :
    (s.setGroup g grp).team? id = s.team? id := rfl

@[simp] theorem State.launch?_setGroup (s : State) (g : GroupId) (grp : Group) (id : Nat) :
    (s.setGroup g grp).launch? id = s.launch? id := rfl

@[simp] theorem State.asnOf_setGroup (s : State) (g : GroupId) (grp : Group) (id : Nat) :
    (s.setGroup g grp).asnOf id = s.asnOf id := rfl

@[simp] theorem State.pair_setGroup (s : State) (g : GroupId) (grp : Group) : (s.setGroup g grp).pair = s.pair := rfl

@[simp] theorem State.cluster_setCluster (s : State) (cl : ClusterId) (c : Cluster) : (s.setCluster cl c).cluster cl = c := by
  simp [State.cluster, State.setCluster]

theorem State.cluster_setCluster_ne (s : State) {cl x : ClusterId} (hne : x ≠ cl) (c : Cluster) :
    (s.setCluster cl c).cluster x = s.cluster x := by
  have : x.val ≠ cl.val := fun e => hne (Fin.ext e)
  simp [State.cluster, State.setCluster, getBy_putBy_ne this]

@[simp] theorem State.setCluster_setCluster (s : State) (cl : ClusterId) (a b : Cluster) :
    (s.setCluster cl a).setCluster cl b = s.setCluster cl b := by
  simp [State.setCluster]

@[simp] theorem State.group?_setCluster (s : State) (cl : ClusterId) (c : Cluster) (g : GroupId) :
    (s.setCluster cl c).group? g = s.group? g := rfl

@[simp] theorem State.ctx_setCluster (s : State) (cl : ClusterId) (c : Cluster) (ld : Fin 4) (asn : Asn) :
    (s.setCluster cl c).ctx ld asn = s.ctx ld asn := rfl

@[simp] theorem State.pilot_setPilot (s : State) (cl : ClusterId) (p : Pilot) : ((s.setPilot cl p).cluster cl).pilot = p := by
  simp [State.setPilot]

@[simp] theorem State.setPilot_setPilot (s : State) (cl : ClusterId) (p q : Pilot) :
    (s.setPilot cl p).setPilot cl q = s.setPilot cl q := by
  simp [State.setPilot]

@[simp] theorem State.group?_setPilot (s : State) (cl : ClusterId) (p : Pilot) (g : GroupId) :
    (s.setPilot cl p).group? g = s.group? g := rfl

@[simp] theorem State.ctx_setCtx (s : State) (ld : Fin 4) (asn : Asn) (c : Ctx) : (s.setCtx ld asn c).ctx ld asn = c := by
  simp [State.ctx, State.setCtx]

@[simp] theorem State.devices_setDev (s : State) (ld : Fin 4) (d : Device) : (s.setDev ld d).devices[ld] = d := by
  simp [State.setDev]

/-! ### Uniform registers, conditions and predicates -/

@[simp] theorem UFile.get_zero (u : UFile) : u.get 0 = 0 := rfl

@[simp] theorem UFile.set_zero (u : UFile) (x : DWord) : u.set 0 x = u := rfl

@[simp] theorem UFile.get_set_self (u : UFile) {r : Fin 64} (h : r ≠ 0) (x : DWord) : (u.set r x).get r = x := by
  simp [UFile.get, UFile.set, h]

theorem UFile.get_set_ne (u : UFile) {r q : Fin 64} (h : q ≠ r) (x : DWord) : (u.set r x).get q = u.get q := by
  unfold UFile.get UFile.set
  split
  · rfl
  · split
    · rfl
    · simp [Vector.getElem_set, Fin.val_ne_of_ne h.symm]

@[simp] theorem UFile.cond_zero (u : UFile) : u.cond 0 = true := rfl

@[simp] theorem UFile.setCond_zero (u : UFile) (b : Bool) : u.setCond 0 b = u := rfl

@[simp] theorem UFile.set_c (u : UFile) (r : Fin 64) (x : DWord) : (u.set r x).c = u.c := by
  unfold UFile.set; split <;> rfl

@[simp] theorem UFile.setCond_s (u : UFile) (k : Fin 8) (b : Bool) : (u.setCond k b).s = u.s := by
  unfold UFile.setCond; split <;> rfl

@[simp] theorem Group.pred_zero (grp : Group) : grp.pred 0 = BitVec.allOnes 32 := rfl

@[simp] theorem Group.setPred_zero (grp : Group) (m x : LaneMask) : grp.setPred 0 m x = grp := rfl

@[simp] theorem Group.setPred_lead (grp : Group) (k : Fin 8) (m x : LaneMask) (sl : BitVec 8) :
    (grp.setPred k m x).lead sl = grp.lead sl := by simp [Group.lead]

@[simp] theorem Group.raise_lead (grp : Group) (fl : BitVec 7) (sl : BitVec 8) : (grp.raise fl).lead sl = grp.lead sl := rfl

@[simp] theorem Group.writeV_lead (grp : Group) (i : Nat) (m : LaneMask) (x : VReg) (sl : BitVec 8) :
    (grp.writeV i m x).lead sl = grp.lead sl := rfl

@[simp] theorem Group.raise_zero (grp : Group) : grp.raise 0 = grp := by simp [Group.raise]

@[simp] theorem Group.raise_streamOf (grp : Group) (fl : BitVec 7) (r : Nat) : (grp.raise fl).streamOf r = grp.streamOf r := rfl

@[simp] theorem Group.writeV_streamOf (grp : Group) (i : Nat) (m : LaneMask) (x : VReg) (r : Nat) :
    (grp.writeV i m x).streamOf r = grp.streamOf r := rfl

end Sys2Proof.Machine
end

