-- ==== Sys2Proof/Laws/Lane.lean ====
section
/-! SUPPORT. Lane words: what the checks, the reads and the writes answer, and the one lemma about each shared operation. -/

namespace Sys2Proof.Machine

open Sys2Proof

/-! ### Sequencing -/

@[simp] theorem Except.ok_bind' {ε α β : Type} (a : α) (f : α → Except ε β) : (Except.ok a >>= f) = f a := rfl

@[simp] theorem Except.error_bind' {ε α β : Type} (e : ε) (f : α → Except ε β) : (Except.error e >>= f) = Except.error e := rfl

@[simp] theorem Except.pure_ok {ε α : Type} (a : α) : (pure a : Except ε α) = .ok a := rfl

/-! ### Checks -/

@[simp] theorem require_true (s : State) (t : Trap) : require true s t = .ok () := rfl

@[simp] theorem require_false (s : State) (t : Trap) : require false s t = .error (.trap t s) := rfl

theorem checkPromise_ok {s : State} {grp : Group} {slices : BitVec 8} {vs : List Nat} {ss : List (Fin 64)}
    (h : grp.promiseKept slices vs ss) : checkPromise s grp slices vs ss = .ok () := by
  unfold checkPromise
  rcases h with h | h
  · simp [h]
  · split <;> simp [h]

theorem checkArrived_ok {s : State} {g : GroupId} {grp : Group} {slices : BitVec 8} {vs : List Nat} {ss : List (Fin 64)}
    (h : grp.hasArrived slices vs ss) : checkArrived s g grp slices vs ss = .ok () := by
  unfold Group.hasArrived at h
  simp [checkArrived, h]

theorem checkPoison_ok {s : State} {grp : Group} {names : List (Nat × Nat)} {lanes : LaneMask}
    (h : ∀ e ∈ names, grp.poisonLanes e.2 &&& lanes = 0) : checkPoison s grp names lanes = .ok () := by
  have : names.filter (fun e => grp.poisonLanes e.2 &&& lanes != 0) = [] := by
    simp only [List.filter_eq_nil_iff]
    intro e he
    simp [h e he]
  simp only [checkPoison]
  rw [this]

theorem streamsOf_plain {grp : Group} {os : List VOp} (h : ∀ r ∈ os.flatMap VOp.names, grp.streamOf r = none) :
    grp.streamsOf os = [] := by
  simp only [Group.streamsOf, List.filterMap_eq_nil_iff]
  exact h

theorem checkStreams_ok {s : State} {grp : Group} {slices : BitVec 8} {os : List VOp} {acting : LaneMask}
    (h : ∀ r ∈ os.flatMap VOp.names, grp.streamOf r = none) : checkStreams s grp slices os acting = .ok () := by
  simp [checkStreams, streamsOf_plain h, Group.pastEnd, Group.elements, elementTrap, bind, Except.bind]

theorem checkUnif_ok {s : State} {grp : Group} {u : Bool} {active : LaneMask} {xs : List VReg} (h : grp.alike u active xs) :
    checkUnif s grp u active xs = .ok () := by
  unfold checkUnif
  cases u with
  | false => simp
  | true =>
    cases hu : grp.uchk with
    | false => simp
    | true =>
      have := h rfl hu
      simp only [Bool.true_and]
      rw [if_neg]
      simp only [List.any_eq_true, not_exists, not_and]
      intro l _ hl
      simp only [Bool.and_eq_true, bne_iff_ne] at hl
      exact hl.2 (this l hl.1)

/-- A word's operands without armed streams are all ordinary. -/
theorem ordinary_plain {grp : Group} {slices : BitVec 8} {os : List VOp}
    (h : ∀ r ∈ os.flatMap VOp.names, grp.streamOf r = none) :
    grp.ordinary slices os = (os.flatMap VOp.names).map fun r => (r, vIndex (grp.lead slices).loops.length r) := by
  unfold Group.ordinary
  generalize os.flatMap VOp.names = rs at h
  induction rs with
  | nil => rfl
  | cons r rest ih =>
    rw [List.filterMap_cons, h r (by simp), ih fun q hq => h q (by simp [hq])]
    rfl

/-- The checks of a lane word pass. -/
theorem laneChecks_ok {s : State} {g : GroupId} {grp : Group} {slices : BitVec 8} {srcs dsts : List VOp} {active acting : LaneMask}
    (hp : grp.plainOperands (srcs ++ dsts))
    (hk : grp.promiseKept slices ((srcs ++ dsts).flatMap (grp.placesOf slices)) [])
    (ha : grp.hasArrived slices (srcs.flatMap (grp.placesOf slices)) []) (hc : grp.clean slices srcs active) :
    laneChecks s g grp slices srcs dsts active acting = .ok () := by
  have h1 : ∀ r ∈ srcs.flatMap VOp.names, grp.streamOf r = none :=
    fun r hr => hp.2 r (by simp only [List.flatMap_append, List.mem_append]; exact .inl hr)
  have h2 : checkPoison s grp (grp.ordinary slices srcs) active = .ok () := by
    apply checkPoison_ok
    rw [ordinary_plain h1]
    intro e he
    obtain ⟨r, hr, rfl⟩ := List.mem_map.mp he
    exact hc r hr
  simp only [laneChecks, hp.1, require_true, checkPromise_ok hk, checkArrived_ok ha, h2, checkStreams_ok hp.2]
  rfl

/-! ### Reading and writing registers -/

theorem readLane_plain {s : State} {g : GroupId} {grp : Group} (hg : s.group? g = some grp) (slices : BitVec 8) {r : Nat}
    (h : grp.streamOf r = none) :
    readLane s g slices r = .ok (s, grp.readV s.fresh (vIndex (grp.lead slices).loops.length r)) := by
  simp [readLane, hg, h]

theorem readLanes_plain {s : State} {g : GroupId} {grp : Group} (hg : s.group? g = some grp) (slices : BitVec 8) {rs : List Nat}
    (h : ∀ r ∈ rs, grp.streamOf r = none) :
    readLanes s g slices rs = .ok (s, rs.map fun r => grp.readV s.fresh (vIndex (grp.lead slices).loops.length r)) := by
  induction rs with
  | nil => rfl
  | cons r rest ih =>
    have h1 := readLane_plain hg slices (h r (by simp))
    have h2 := ih fun q hq => h q (by simp [hq])
    simp [readLanes, h1, h2]

@[simp] theorem Group.writeAll_nil (grp : Group) (slices : BitVec 8) (lanes : LaneMask) : grp.writeAll slices lanes [] = grp := rfl

theorem Group.writeAll_cons (grp : Group) (slices : BitVec 8) (lanes : LaneMask) (r : Nat) (x : VReg) (ws : List (Nat × VReg)) :
    grp.writeAll slices lanes ((r, x) :: ws) =
      (grp.writeV (vIndex (grp.lead slices).loops.length r) lanes x).writeAll slices lanes ws := rfl

@[simp] theorem Group.writeAll_slices (grp : Group) (slices : BitVec 8) (lanes : LaneMask) (ws : List (Nat × VReg)) :
    (grp.writeAll slices lanes ws).slices = grp.slices := by
  induction ws generalizing grp with
  | nil => rfl
  | cons w ws ih => rw [Group.writeAll_cons, ih]; rfl

/-- Writing registers that are no stream ports. -/
theorem writeLanes_plain {s : State} {g : GroupId} {grp : Group} (slices : BitVec 8) (lanes : LaneMask) {ws : List (Nat × VReg)}
    (h : ∀ w ∈ ws, grp.streamOf w.1 = none) :
    writeLanes (s.setGroup g grp) g slices lanes ws = .ok (s.setGroup g (grp.writeAll slices lanes ws)) := by
  induction ws generalizing grp with
  | nil => rfl
  | cons w ws ih =>
    obtain ⟨r, x⟩ := w
    have h1 : grp.streamOf r = none := h (r, x) (by simp)
    have h2 := @ih (grp.writeV (vIndex (grp.lead slices).loops.length r) lanes x) fun q hq => h q (by simp [hq])
    simp only [writeLanes, writeLane, State.group?_setGroup, h1, State.setGroup_setGroup, Group.writeAll_cons]
    exact h2

/-- With guard p0 every active lane acts. -/
@[simp] theorem Group.acting_zero (grp : Group) (slices : BitVec 8) : grp.acting slices 0 = activeLanes slices grp := by
  simp only [Group.acting, Group.pred_zero, BitVec.and_allOnes]

@[simp] theorem names_srcOp (r : Fin 64) : (srcOp r).names = [r.val] := by simp [VOp.names, srcOp]

@[simp] theorem names_dstOp (r : Fin 64) : (dstOp r).names = [r.val] := by simp [VOp.names, dstOp]

/-! ### Flags -/

theorem firstEnabled_none {order : List (BitVec 7 × Kind)} {raised enables : BitVec 7} (h : raised &&& enables = 0) :
    firstEnabled order raised enables = none := by
  simp [firstEnabled, h]

/-- Flags that are not enabled are only gathered. -/
theorem raiseFlags_quiet {s0 s : State} {g : GroupId} {grp : Group} (hg : s.group? g = some grp)
    (order : List (BitVec 7 × Kind)) {raised : BitVec 7} (lanes : BitVec 7 → LaneMask) (h : raised &&& grp.enables = 0) :
    raiseFlags s0 s g order raised lanes = .ok (s.setGroup g (grp.raise raised)) := by
  simp [raiseFlags, hg, firstEnabled_none h]

/-- The results of a destination that is no stream port reach every lane. -/
theorem delivered_plain {grp : Group} {dst : VOp} (h : ∀ r ∈ dst.names, grp.streamOf r = none) :
    grp.delivered dst = BitVec.allOnes 32 := by
  simp only [Group.delivered]
  rw [streamsOf_plain (os := [dst]) (by simpa using h)]

/-- Every contributing lane may set flags where the destination is no stream port. -/
theorem flagLanes_plain {grp : Group} {dst : VOp} (h : ∀ r ∈ dst.names, grp.streamOf r = none) (u : Bool) (active : LaneMask) :
    flagLanes grp u active dst = contributing u active := by
  simp only [flagLanes, delivered_plain h, BitVec.and_allOnes]
  cases u with
  | false => simp [contributing]
  | true =>
    simp only [if_true, contributing]
    split <;> rfl

/-! ### Moving on -/

theorem advance_gang {s : State} {g : GroupId} {slices : BitVec 8} (hc : s.cur = some (.gang g slices)) (grp : Group) :
    (s.setGroup g grp).advance = s.doneWith g slices grp := by
  simp [State.advance, hc, State.doneWith, Group.done]

theorem onGang_issues {s : State} {g : GroupId} {slices : BitVec 8} {grp : Group} (h : Issues s g slices grp)
    (f : GroupId → Group → BitVec 8 → Except Stop State) : onGang s f = settle (keepGroup g grp (f g grp slices)) := by
  simp [onGang, h.cur, h.here]

/-- A gang's word that completes. -/
theorem onGang_ok {s t : State} {g : GroupId} {slices : BitVec 8} {grp : Group} (h : Issues s g slices grp)
    {f : GroupId → Group → BitVec 8 → Except Stop State} (hf : f g grp slices = .ok t) : onGang s f = .next t := by
  simp [onGang_issues h, hf, keepGroup, settle]

/-! ### The shared operations -/

/-- The one lemma about `laneOp` on operands that let it act. -/
theorem laneOp_gives {s : State} {g : GroupId} {slices : BitVec 8} {grp : Group} (hi : Issues s g slices grp) {u : Bool}
    {guard : Fin 8} {srcs : List VOp} {dst : VOp} {f : Group → List Word → List Word × BitVec 7}
    (hr : LaneReady s grp slices u srcs [dst] (grp.acting slices guard))
    (hq : raisedBy u (grp.acting slices guard) (s.laneValues grp slices u srcs (grp.acting slices guard) (f grp)) &&& grp.enables = 0) :
    laneOp s u guard srcs dst f = .next (s.doneWith g slices
      ((grp.raise (raisedBy u (grp.acting slices guard) (s.laneValues grp slices u srcs (grp.acting slices guard) (f grp)))).writeAll
        slices (grp.acting slices guard)
        (dst.names.zipIdx.map fun (n, j) =>
          (n, lmap (fun x => x.1.getD j 0) (s.laneValues grp slices u srcs (grp.acting slices guard) (f grp)))))) := by
  have hs : ∀ r ∈ srcs.flatMap VOp.names, grp.streamOf r = none :=
    fun r hr' => hr.plain.2 r (by simp only [List.flatMap_append, List.mem_append]; exact .inl hr')
  have hd : ∀ r ∈ dst.names, grp.streamOf r = none :=
    fun r hr' => hr.plain.2 r (by simp only [List.flatMap_append, List.mem_append]; exact .inr (by simpa using hr'))
  refine onGang_ok hi ?_
  simp only [laneChecks_ok hr.plain hr.kept hr.arrived hr.clean, readLanes_plain hi.here slices hs]
  have ha := checkUnif_ok (s := s) hr.alike
  simp only [State.inputs?] at ha
  simp only [raisedBy, State.laneValues, State.inputs?] at hq ⊢
  simp only [bind, Except.bind, ha, flagLanes_plain hd, raiseFlags_quiet hi.here _ _ hq, pure, Except.pure]
  rw [writeLanes_plain]
  · simp only [advance_gang hi.cur]
  · intro w hw
    obtain ⟨⟨n, j⟩, hn, rfl⟩ := List.mem_map.mp hw
    exact hd n (List.fst_mem_of_mem_zipIdx hn)

/-- The one lemma about `lanePredOp` on operands that let it act. -/
theorem lanePredOp_gives {s : State} {g : GroupId} {slices : BitVec 8} {grp : Group} (hi : Issues s g slices grp) {u : Bool}
    {guard k : Fin 8} {srcs : List VOp} {f : Group → List Word → Bool × BitVec 7}
    (hr : LaneReady s grp slices u srcs [] (grp.acting slices guard))
    (hq : raisedBy u (grp.acting slices guard) (s.laneValues grp slices u srcs (grp.acting slices guard) (f grp)) &&& grp.enables = 0) :
    lanePredOp s u guard k srcs f = .next (s.doneWith g slices
      ((grp.raise (raisedBy u (grp.acting slices guard) (s.laneValues grp slices u srcs (grp.acting slices guard) (f grp)))).setPred
        k (grp.acting slices guard)
        (maskOfFn 32 fun l => if h : l < 32 then
          ((s.laneValues grp slices u srcs (grp.acting slices guard) (f grp))[l]).1 else false))) := by
  have hs : ∀ r ∈ srcs.flatMap VOp.names, grp.streamOf r = none :=
    fun r hr' => hr.plain.2 r (by simp only [List.flatMap_append, List.mem_append]; exact .inl hr')
  refine onGang_ok hi ?_
  simp only [laneChecks_ok hr.plain hr.kept hr.arrived hr.clean, readLanes_plain hi.here slices hs]
  have ha := checkUnif_ok (s := s) hr.alike
  simp only [State.inputs?] at ha
  simp only [raisedBy, State.laneValues, State.inputs?] at hq ⊢
  simp only [bind, Except.bind, ha, raiseFlags_quiet hi.here _ _ hq, pure, Except.pure]
  simp only [State.group?_setGroup, State.setGroup_setGroup, advance_gang hi.cur]

/-- A meaning that is `laneOp` of a function gives what the function computes. -/
theorem laneGives_of {i : Instr} {u : Bool} {guard : Fin 8} {srcs : List VOp} {dst : VOp}
    {f h : Group → List Word → List Word × BitVec 7} (he : ∀ s, exec i s = laneOp s u guard srcs dst h) (hf : f = h) :
    LaneGives i u guard srcs dst f := by
  subst hf
  intro s g slices grp hi active r hr hq
  rw [he]
  exact laneOp_gives hi hr hq

/-- A meaning that is `lanePredOp` of a function gives what the function computes. -/
theorem lanePredGives_of {i : Instr} {u : Bool} {guard k : Fin 8} {srcs : List VOp} {f h : Group → List Word → Bool × BitVec 7}
    (he : ∀ s, exec i s = lanePredOp s u guard k srcs h) (hf : f = h) : LanePredGives i u guard k srcs f := by
  subst hf
  intro s g slices grp hi active r hr hq
  rw [he]
  exact lanePredOp_gives hi hr hq

end Sys2Proof.Machine
end

