-- ==== Sys2Proof/Laws/Uniform.lean ====
section
/-! SUPPORT. Uniform words: what reading their operands answers, and the one lemma about each shared operation. -/

namespace Sys2Proof.Machine

open Sys2Proof

theorem issuing_of_ready {s : State} {srcs dsts : List (Fin 64)} (h : s.uniformReady srcs dsts) : s.issuing := by
  rcases h with ⟨g, slices, grp, hi, _⟩ | ⟨cl, p, hi, _⟩
  · exact .inl ⟨g, slices, grp, hi⟩
  · exact .inr ⟨cl, p, hi⟩

/-- A word for groups and Pilots alike that completes. -/
theorem onAny_ok {s t : State} (h : s.issuing) {f : Except Stop State} (hf : f = .ok t) : onAny s f = .next t := by
  subst hf
  rcases h with ⟨g, slices, grp, hi⟩ | ⟨cl, p, hi⟩
  · simp [onAny, hi.cur, hi.here, keepGroup, settle]
  · simp [onAny, hi.cur, settle]

theorem mapM_portUse_none {s : State} {grp : Group} {rs : List (Fin 64)} {push : Bool} (h : ∀ r ∈ rs, grp.port r = none) :
    rs.mapM (fun r => portUse s grp r push) = .ok (rs.map fun _ => none) := by
  induction rs with
  | nil => rfl
  | cons r rest ih =>
    have h1 : portUse s grp r push = .ok none := by simp [portUse, h r (by simp)]
    simp [List.mapM_cons, h1, ih fun q hq => h q (by simp [hq])]

theorem filterMap_none {α β : Type} (l : List α) : (l.map fun _ => (none : Option β)).filterMap id = [] := by
  induction l with
  | nil => rfl
  | cons a l ih => simp

theorem planPorts_none {s : State} {grp : Group} {srcs dsts : List (Fin 64)} (h : ∀ r ∈ srcs ++ dsts, grp.port r = none) :
    planPorts s grp srcs dsts = .ok ⟨[], []⟩ := by
  have h1 := mapM_portUse_none (s := s) (push := false) fun r hr => h r (List.mem_append_left dsts hr)
  have h2 := mapM_portUse_none (s := s) (push := true) fun r hr => h r (List.mem_append_right srcs hr)
  simp only [planPorts, h1, h2, Except.ok_bind', Except.pure_ok, filterMap_none]

theorem fold_plainSources {grp : Group} {v : Fin 64 → DWord} {srcs : List (Fin 64)} (h : ∀ r ∈ srcs, grp.port r = none)
    (acc pops : List DWord) :
    (srcs.foldl (fun (acc : List DWord × List DWord) r =>
      if (grp.port r).isSome then (acc.1 ++ [acc.2.headD 0], acc.2.drop 1) else (acc.1 ++ [v r], acc.2)) (acc, pops)) =
      (acc ++ srcs.map v, pops) := by
  induction srcs generalizing acc with
  | nil => simp
  | cons r rest ih =>
    have h1 : grp.port r = none := h r (by simp)
    simp only [List.foldl_cons, h1, Option.isSome_none, Bool.false_eq_true, if_false, List.map_cons]
    rw [ih fun q hq => h q (by simp [hq])]
    simp

/-- A word that makes no queue access stalls on none. -/
@[simp] theorem canServe_nil (c : Cluster) (g : GroupId) (slices : BitVec 8) : c.canServe g slices ⟨[], []⟩ = true := rfl

/-- The values of uniform operands that are no ports: the registers, and no queue is touched. -/
theorem uniformSources_plain {s : State} {srcs dsts : List (Fin 64)} (h : s.uniformReady srcs dsts) :
    uniformSources s srcs dsts ⟨[], []⟩ = .ok (srcs.map s.readU, ⟨[], []⟩) := by
  rcases h with ⟨g, slices, grp, hi, hk, ha, hp, hport⟩ | ⟨cl, p, hi, ha, hp⟩
  · have hr : ∀ r ∈ srcs, grp.port r = none := fun r hr => hport r (List.mem_append_left dsts hr)
    have hf : srcs.find? (fun r => grp.spoison.contains r && (grp.port r).isNone) = none := by
      simp only [List.find?_eq_none]
      intro r hr
      simp [hp r hr]
    have hu : s.readU = fun r => readSreg grp.u grp.inflight s.fresh r := by
      funext r
      simp [State.readU, hi.cur, hi.here]
    simp only [uniformSources, hi.cur, hi.here, checkPromise_ok hk, checkArrived_ok ha, Except.ok_bind', hf, planPorts_none hport,
      List.nil_append, ite_self, fold_plainSources hr, Except.pure_ok, canServe_nil, if_true, hu]
  · have hf : srcs.find? (fun r => p.spoison.contains r) = none := by
      simp only [List.find?_eq_none]
      intro r hr
      simp [hp r hr]
    have hu : s.readU = fun r => readSreg p.u p.inflight s.fresh r := by
      funext r
      simp [State.readU, hi.cur, hi.here]
    simp only [uniformSources, hi.cur, hi.here, ha, hf, hu, Bool.false_eq_true, if_false]

/-- Nothing popped, nothing to remove. -/
@[simp] theorem commitPops_nil (s : State) : s.commitPops ⟨[], []⟩ = s := by
  unfold State.commitPops
  split <;> simp [State.makePops]

/-- The one lemma about `uniformOp`. -/
theorem uniformOp_gives {s : State} {srcs dsts : List (Fin 64)} {f : State → List DWord → Except Stop State}
    {t : State → List DWord → State} (hf : f s (srcs.map s.readU) = .ok (t s (srcs.map s.readU))) :
    (s.condHolds = true → s.uniformReady srcs dsts → uniformOp s srcs dsts f = .next (t s (srcs.map s.readU)).advance) ∧
      (s.condHolds = false → s.issuing → uniformOp s srcs dsts f = .next s.advance) := by
  constructor
  · intro hc hr
    refine onAny_ok (issuing_of_ready hr) ?_
    simp [hc, noPorts, uniformSources_plain hr, hf]
  · intro hc hi
    exact onAny_ok hi (by simp [hc])

/-- The one lemma about `scalarOp`. -/
theorem scalarOp_gives {s : State} {srcs : List (Fin 64)} {sd : Fin 64} {f : List DWord → DWord} :
    (s.condHolds = true → s.uniformReady srcs [sd] →
      scalarOp s srcs sd f = .next (s.writeUniform sd (f (srcs.map s.readU))).advance) ∧
      (s.condHolds = false → s.issuing → scalarOp s srcs sd f = .next s.advance) :=
  uniformOp_gives (t := fun s vs => s.writeUniform sd (f vs)) rfl

end Sys2Proof.Machine
end

