-- ==== Sys2Proof/Laws/Cross.lean ====
section
/-! SUPPORT. Cross-lane words: the one lemma about each shared operation. -/

namespace Sys2Proof.Machine

open Sys2Proof

@[simp] theorem requireGang_whole (s : State) : requireGang s 0xFF = .ok () := rfl

theorem plain_left {grp : Group} {a b : List VOp} (h : grp.plainOperands (a ++ b)) :
    ∀ r ∈ a.flatMap VOp.names, grp.streamOf r = none :=
  fun r hr => h.2 r (by simp only [List.flatMap_append, List.mem_append]; exact .inl hr)

theorem plain_right {grp : Group} {a b : List VOp} (h : grp.plainOperands (a ++ b)) :
    ∀ r ∈ b.flatMap VOp.names, grp.streamOf r = none :=
  fun r hr => h.2 r (by simp only [List.flatMap_append, List.mem_append]; exact .inr hr)

theorem fst_mem_of_zip {α β : Type} {l : List α} {m : List β} {p : α × β} (h : p ∈ l.zip m) : p.1 ∈ l := by
  obtain ⟨a, b⟩ := p
  exact (List.of_mem_zip h).1

/-- Writing registers of the group as it stands. -/
theorem writeLanes_here {s : State} {g : GroupId} {grp : Group} (hg : s.group? g = some grp) (slices : BitVec 8)
    (lanes : LaneMask) {w : Nat × VReg} {ws : List (Nat × VReg)} (h : ∀ x ∈ w :: ws, grp.streamOf x.1 = none) :
    writeLanes s g slices lanes (w :: ws) = .ok (s.setGroup g (grp.writeAll slices lanes (w :: ws))) := by
  obtain ⟨r, x⟩ := w
  have h1 : grp.streamOf r = none := h (r, x) (by simp)
  have h2 := writeLanes_plain (s := s) (g := g) (grp := grp.writeV (vIndex (grp.lead slices).loops.length r) lanes x) slices lanes
    (ws := ws) fun q hq => h q (by simp [hq])
  simp only [writeLanes, writeLane, hg, h1, Except.ok_bind']
  exact h2

theorem setGroup_self_advance {s : State} {g : GroupId} {slices : BitVec 8} {grp : Group} (hi : Issues s g slices grp) :
    s.advance = s.doneWith g slices grp := by
  simp [State.advance, hi.cur, hi.here, State.doneWith, Group.done]

/-- The one lemma about `crossOp` on operands that let it act. -/
theorem crossOp_gives {s : State} {g : GroupId} {slices : BitVec 8} {grp : Group} (hi : Issues s g slices grp) {guard : Fin 8}
    {srcs : List VOp} {dst : VOp} {need : Group → LaneMask → LaneMask} {f : LaneMask → List VReg → List VReg}
    (hr : CrossReady grp slices srcs [dst] (need grp (grp.acting slices guard))) :
    crossOp s guard srcs dst need f = .next (s.doneWith g slices (grp.writeAll slices (grp.acting slices guard)
      (dst.names.zip (f (grp.acting slices guard) (s.inputs? grp slices srcs))))) := by
  have hs := plain_left hr.plain
  have hd : ∀ r ∈ dst.names, grp.streamOf r = none := fun r h => plain_right hr.plain r (by simpa using h)
  refine onGang_ok hi ?_
  have hgang : requireGang s slices = .ok () := by rw [hr.whole]; rfl
  simp only [hr.plain.1, require_true, hgang, Except.ok_bind', laneChecks_ok hr.plain hr.kept hr.arrived hr.clean,
    readLanes_plain hi.here slices hs, State.inputs?]
  generalize hz : dst.names.zip _ = ws
  have hw : ∀ w ∈ ws, grp.streamOf w.1 = none := by
    intro w hw
    subst hz
    exact hd _ (fst_mem_of_zip hw)
  cases ws with
  | nil => simp [writeLanes, setGroup_self_advance hi]
  | cons w ws => simp only [writeLanes_here hi.here slices _ hw, Except.ok_bind', Except.pure_ok, advance_gang hi.cur]

/-- Predicate logic completes whatever the gang. -/
theorem predLogic_gives {s : State} {g : GroupId} {slices : BitVec 8} {grp : Group} (hi : Issues s g slices grp) (o : XPred)
    (f : LaneMask → LaneMask → LaneMask) :
    predLogic o s f = .next (s.doneWith g slices
      (grp.setPred o.pd (grp.acting slices o.g) (f (grp.pred o.pa) (grp.pred o.pb)))) :=
  onGang_ok hi (by rw [advance_gang hi.cur])

/-- Votes into a predicate complete when all eight slices issue them. -/
theorem votePred_gives {s : State} {g : GroupId} {slices : BitVec 8} {grp : Group} (hi : Issues s g slices grp)
    (hw : slices = 0xFF) (o : XVote) (f : LaneMask → LaneMask → Bool) :
    votePred o s f = .next (s.doneWith g slices (grp.setPred o.j (grp.acting slices o.g)
      (if f (grp.acting slices o.g) (grp.acting slices o.g &&& grp.pred o.k) then BitVec.allOnes 32 else 0))) := by
  subst hw
  exact onGang_ok hi (by simp only [requireGang_whole, Except.ok_bind', advance_gang hi.cur, Except.pure_ok])

/-- SHFL on operands that let it act. -/
theorem shuffleOp_gives {s : State} {g : GroupId} {grp : Group} (hi : Issues s g 0xFF grp) {o : XR3} {src : Nat → Nat → Nat}
    {a b : VReg} (ha : a = grp.readV s.fresh (vIndex (grp.lead 0xFF).loops.length o.va))
    (hb : b = grp.readV s.fresh (vIndex (grp.lead 0xFF).loops.length o.vb))
    (hp : grp.plainOperands ([srcOp o.va, srcOp o.vb] ++ [dstOp o.vd]))
    (hk : grp.promiseKept 0xFF (([srcOp o.vb, dstOp o.vd]).flatMap (grp.placesOf 0xFF)) [])
    (hka : grp.promiseKept 0xFF (grp.placesOf 0xFF (srcOp o.va)) []) (har : grp.hasArrived 0xFF (grp.placesOf 0xFF (srcOp o.vb)) [])
    (haa : grp.hasArrived 0xFF (grp.placesOf 0xFF (srcOp o.va)) []) (hc : grp.clean 0xFF [srcOp o.vb] (grp.acting 0xFF o.g))
    (hca : grp.poisonLanes (vIndex (grp.lead 0xFF).loops.length o.va) &&&
      laneSet ((maskList (grp.acting 0xFF o.g)).map fun l => src l ((laneAt b l).toNat % 32)) = 0) :
    shuffleOp o s src = .next (s.doneWith g 0xFF (grp.writeAll 0xFF (grp.acting 0xFF o.g)
      [(o.vd.val, Vector.ofFn fun (l : Fin 32) => laneAt a (src l.val ((laneAt b l.val).toNat % 32)))])) := by
  have hs := plain_left hp
  have hd := plain_right hp
  have ha' : grp.streamOf o.va.val = none := hs _ (by simp)
  have hb' : grp.streamOf o.vb.val = none := hs _ (by simp)
  have hd' : grp.streamOf o.vd.val = none := hd _ (by simp)
  have hpb : grp.plainOperands ([srcOp o.vb] ++ [dstOp o.vd]) := by
    have h1 := hp.1
    simp only [Group.operandsOk, List.all_append, Bool.and_eq_true, List.all_cons, List.all_nil, Bool.and_true] at h1
    refine ⟨?_, ?_⟩
    · simp only [Group.operandsOk, List.all_append, Bool.and_eq_true, List.all_cons, List.all_nil, Bool.and_true]
      exact ⟨h1.1.2, h1.2⟩
    · intro r hr
      simp only [List.cons_append, List.nil_append, List.flatMap_cons, names_srcOp, names_dstOp, List.flatMap_nil,
        List.append_nil, List.mem_cons, List.not_mem_nil, or_false] at hr
      rcases hr with rfl | rfl <;> assumption
  have hl : laneChecks s g grp 0xFF [srcOp o.vb] [dstOp o.vd] (grp.acting 0xFF o.g) (grp.acting 0xFF o.g) = .ok () :=
    laneChecks_ok hpb hk (by simpa using har) hc
  have hst : checkStreams s grp 0xFF ([srcOp o.va, srcOp o.vb] ++ [dstOp o.vd]) (grp.acting 0xFF o.g) = .ok () := checkStreams_ok hp.2
  have hr : readLanes s g 0xFF [o.va.val, o.vb.val] = .ok (s, [a, b]) := by
    rw [readLanes_plain hi.here]
    · simp [ha, hb]
    · intro r hr
      simp only [List.mem_cons, List.not_mem_nil, or_false] at hr
      rcases hr with rfl | rfl <;> assumption
  have hpo : checkPoison s grp (grp.ordinary 0xFF [srcOp o.va])
      (laneSet ((maskList (grp.acting 0xFF o.g)).map fun l => src l ((laneAt b l).toNat % 32))) = .ok () := by
    apply checkPoison_ok
    rw [ordinary_plain fun r hr => by simp at hr; rw [hr]; exact ha']
    simpa using hca
  have hw : writeLanes s g 0xFF (grp.acting 0xFF o.g)
      [(o.vd.val, Vector.ofFn fun (l : Fin 32) => laneAt a (src l.val ((laneAt b l.val).toNat % 32)))] = _ :=
    writeLanes_here hi.here 0xFF (grp.acting 0xFF o.g) (by simpa using hd')
  refine onGang_ok hi ?_
  simp only [hp.1, require_true, requireGang_whole, Except.ok_bind', hl, hst, checkPromise_ok hka, checkArrived_ok haa, hr, List.getD_cons_zero,
    List.getD_cons_succ, hpo, hw, advance_gang hi.cur, Except.pure_ok]

/-- VOTE.ballot on a destination that lets it act. -/
theorem ballot_gives {s : State} {g : GroupId} {slices : BitVec 8} {grp : Group} (hi : Issues s g slices grp) (o : XBallot)
    (hr : CrossReady grp slices [] [dstOp o.vd] (grp.acting slices o.g)) :
    execVoteBallot o s = .next (s.doneWith g slices (grp.writeAll slices (grp.acting slices o.g)
      [(o.vd.val, Vector.replicate 32 (grp.acting slices o.g &&& grp.pred o.k))])) := by
  obtain ⟨rfl, hp, hk, ha, hc⟩ := hr
  have hd' : grp.streamOf o.vd.val = none := plain_right hp _ (by simp)
  have hl : laneChecks s g grp 0xFF [] [dstOp o.vd] (grp.acting 0xFF o.g) (grp.acting 0xFF o.g) = .ok () :=
    laneChecks_ok hp hk ha hc
  have h1 : grp.operandsOk [dstOp o.vd] = true := hp.1
  refine onGang_ok hi ?_
  simp only [h1, require_true, requireGang_whole, Except.ok_bind', hl]
  rw [writeLanes_here hi.here 0xFF _ (by simpa using hd')]
  simp only [Except.ok_bind', advance_gang hi.cur, Except.pure_ok]

/-- LIDX on a destination that lets it act. -/
theorem lidx_gives {s : State} {g : GroupId} {slices : BitVec 8} {grp : Group} (hi : Issues s g slices grp) (o : X1)
    (hp : grp.plainOperands [dstOp o.vd]) (hk : grp.promiseKept slices (grp.placesOf slices (dstOp o.vd)) []) :
    execLidx o s = .next (s.doneWith g slices (grp.writeAll slices (grp.acting slices o.g)
      [(o.vd.val, Vector.ofFn fun (l : Fin 32) => BitVec.ofNat 32 l.val)])) := by
  have hd' : grp.streamOf o.vd.val = none := hp.2 _ (by simp)
  have hl : laneChecks s g grp slices [] [dstOp o.vd] (grp.acting slices o.g) (grp.acting slices o.g) = .ok () :=
    laneChecks_ok hp (by simpa using hk) (by simp [Group.hasArrived, awaited]) (by intro r hr; simp at hr)
  refine onGang_ok hi ?_
  simp only [Except.ok_bind', hl]
  rw [writeLanes_here hi.here slices _ (by simpa using hd')]
  simp only [Except.ok_bind', advance_gang hi.cur, Except.pure_ok]

/-- Writing registers no lane of which is active: only what a write without lanes does. -/
theorem writeLanes_one {s : State} {g : GroupId} {grp : Group} (hg : s.group? g = some grp) (slices : BitVec 8)
    (lanes : LaneMask) {r : Nat} (hr : grp.streamOf r = none) (x : VReg) :
    writeLanes s g slices lanes [(r, x)] = .ok (s.setGroup g (grp.writeAll slices lanes [(r, x)])) :=
  writeLanes_here hg slices lanes (by simpa using hr)

/-- BCAST on operands that let it act. -/
theorem bcast_gives {s : State} {g : GroupId} {slices : BitVec 8} {grp : Group} (hi : Issues s g slices grp) (o : XBcast)
    (hr : CrossReady grp slices [] [dstOp o.vd] (grp.acting slices o.g))
    (hu : grp.acting slices o.g ≠ 0 → s.uniformReady [o.s] []) :
    execBcast o s = .next (s.doneWith g slices (grp.writeAll slices (grp.acting slices o.g)
      [(o.vd.val, Vector.replicate 32 (if grp.acting slices o.g = 0 then 0 else BitVec.ofNat 32 (s.readU o.s).toNat))])) := by
  obtain ⟨rfl, hp, hk, ha, hc⟩ := hr
  have hd' : grp.streamOf o.vd.val = none := plain_right hp _ (by simp)
  have hl : laneChecks s g grp 0xFF [] [dstOp o.vd] (grp.acting 0xFF o.g) (grp.acting 0xFF o.g) = .ok () :=
    laneChecks_ok hp hk ha hc
  have h1 : grp.operandsOk [dstOp o.vd] = true := hp.1
  refine onGang_ok hi ?_
  simp only [h1, require_true, requireGang_whole, Except.ok_bind', hl]
  by_cases h : grp.acting 0xFF o.g = 0
  · simp only [h, if_true, writeLanes_one hi.here 0xFF 0 hd', Except.ok_bind', advance_gang hi.cur, Except.pure_ok]
  · simp only [h, if_false, uniformSources_plain (hu h), Except.ok_bind', commitPops_nil, List.map_cons, List.map_nil,
      List.headD_cons, writeLanes_one hi.here 0xFF _ hd', advance_gang hi.cur, Except.pure_ok]

/-- A uniform register that is no port, written by a gang. -/
theorem writeUniform_gang {s : State} {g : GroupId} {slices : BitVec 8} {grp : Group} (hi : Issues s g slices grp) {r : Fin 64}
    (hp : grp.port r = none) (x : DWord) : s.writeUniform r x = s.setGroup g (grp.writeS r x) := by
  simp [State.writeUniform, hi.cur, hi.here, hp]

/-- The group that a gang's uniform word is ready in. -/
theorem uniformReady_gang {s : State} {g : GroupId} {slices : BitVec 8} {grp : Group} (hi : Issues s g slices grp)
    {srcs dsts : List (Fin 64)} (h : s.uniformReady srcs dsts) : ∀ r ∈ srcs ++ dsts, grp.port r = none := by
  rcases h with ⟨g', slices', grp', hi', _, _, _, hp⟩ | ⟨cl, p, hi', _⟩
  · have h1 := hi.cur.symm.trans hi'.cur
    injection h1 with h1
    injection h1 with h1 h2
    subst h1
    have h3 := hi.here.symm.trans hi'.here
    injection h3 with h3
    subst h3
    exact hp
  · have h1 := hi.cur.symm.trans hi'.cur
    injection h1 with h1
    injection h1

/-- VGET on operands that let it act. -/
theorem vget_gives {s : State} {g : GroupId} {slices : BitVec 8} {grp : Group} (hi : Issues s g slices grp) (o : XGet)
    (hr : CrossReady grp slices [srcOp o.va] [] (if grp.acting slices o.g = 0 then 0 else BitVec.ofNat 32 (2 ^ o.n.val)))
    (hu : grp.acting slices o.g ≠ 0 → s.uniformReady [] [o.s]) :
    execVget o s = .next (s.doneWith g slices (if grp.acting slices o.g = 0 then grp else
      grp.writeS o.s ((laneAt ((s.inputs? grp slices [srcOp o.va]).headD (Vector.replicate 32 0)) o.n.val).zeroExtend 64))) := by
  obtain ⟨rfl, hp, hk, ha, hc⟩ := hr
  have hs' : grp.streamOf o.va.val = none := plain_left hp _ (by simp)
  have hset : laneSet [o.n.val] = BitVec.ofNat 32 (2 ^ o.n.val) := by simp [laneSet, maskOf]
  have hl : laneChecks s g grp 0xFF [srcOp o.va] [] (if grp.acting 0xFF o.g = 0 then 0 else laneSet [o.n.val])
      (grp.acting 0xFF o.g) = .ok () := by
    rw [hset]; exact laneChecks_ok hp hk ha hc
  have h1 : grp.operandsOk [srcOp o.va] = true := hp.1
  refine onGang_ok hi ?_
  simp only [h1, require_true, requireGang_whole, Except.ok_bind', hl]
  have hr : readLanes s g 0xFF [o.va.val] = .ok (s, s.inputs? grp 0xFF [srcOp o.va]) := by
    rw [readLanes_plain hi.here]
    · simp [State.inputs?]
    · simpa using hs'
  by_cases h : grp.acting 0xFF o.g = 0
  · simp only [h, if_true, hr, Except.ok_bind', setGroup_self_advance hi, Except.pure_ok]
  · have hport : grp.port o.s = none := uniformReady_gang hi (hu h) o.s (by simp)
    simp only [h, if_false, uniformSources_plain (hu h), Except.ok_bind', hr, commitPops_nil, writeUniform_gang hi hport,
      advance_gang hi.cur, Except.pure_ok]

end Sys2Proof.Machine
end

