-- ==== Sys2Proof/Laws/Trap.lean ====
section
/-! SUPPORT. A gang's word that traps or waits: the trap is taken in the state before the word. -/

namespace Sys2Proof.Machine

open Sys2Proof

theorem arrivePush_setGroup (s : State) (g : GroupId) (grp : Group) (h : GroupId) (f : InFlight) :
    (s.setGroup g grp).arrivePush h f = (s.arrivePush h f).setGroup g grp := by
  unfold State.arrivePush
  split <;> rfl

theorem foldPush_setGroup (s : State) (g : GroupId) (grp : Group) (h : GroupId) (fs : List InFlight) :
    fs.foldl (fun s f => State.arrivePush s h f) (s.setGroup g grp) = (fs.foldl (fun s f => State.arrivePush s h f) s).setGroup g grp := by
  induction fs generalizing s with
  | nil => rfl
  | cons f fs ih => simp [arrivePush_setGroup, ih]

theorem foldPush_fetched (s : State) (h : GroupId) (fs : List InFlight) :
    (fs.foldl (fun s f => State.arrivePush s h f) s).fetched = s.fetched ∧ (fs.foldl (fun s f => State.arrivePush s h f) s).pack = s.pack
     := by
  induction fs generalizing s with
  | nil => exact ⟨rfl, rfl⟩
  | cons f fs ih =>
    simp only [List.foldl_cons]
    have : (s.arrivePush h f).fetched = s.fetched ∧ (s.arrivePush h f).pack = s.pack := by unfold State.arrivePush; split <;> exact ⟨rfl, rfl⟩
    exact ⟨(ih _).1.trans this.1, (ih _).2.trans this.2⟩

theorem arriveGroup_setGroup {s : State} {g : GroupId} {grp : Group} (h : s.group? g = some grp) :
    (s.setGroup g grp).arriveGroup g = s.arriveGroup g := by
  unfold State.arriveGroup
  simp [h, foldPush_setGroup, State.setGroup_setGroup]

theorem arriveGroup_fetched (s : State) (g : GroupId) : (s.arriveGroup g).fetched = s.fetched := by
  unfold State.arriveGroup; split
  · rfl
  · exact (foldPush_fetched _ _ _).1
theorem arriveGroup_pack (s : State) (g : GroupId) : (s.arriveGroup g).pack = s.pack := by
  unfold State.arriveGroup; split
  · rfl
  · exact (foldPush_fetched _ _ _).2

theorem takeTrap_setGroup {s : State} {g : GroupId} {grp : Group} (h : s.group? g = some grp) (slices : BitVec 8) (t : Trap) :
    (s.setGroup g grp).takeTrap g slices t = s.takeTrap g slices t := by
  unfold State.takeTrap
  rw [arriveGroup_setGroup h]

/-- A word of a gang that traps with nothing changed. -/
theorem onGang_trap {s : State} {g : GroupId} {slices : BitVec 8} {grp : Group} {t : Trap} (h : Issues s g slices grp)
    {f : GroupId → Group → BitVec 8 → Except Stop State} (hf : f g grp slices = .error (.trap t s)) :
    onGang s f = .next { s.takeTrap g slices t with runEnd := true } := by
  simp only [onGang, h.cur, h.here, hf, keepGroup, settle]
  simp only [State.setGroup_cur, h.cur]
  rw [takeTrap_setGroup h.here]

/-- A word for groups and Pilots alike that traps a gang with nothing changed. -/
theorem onAny_trap {s : State} {g : GroupId} {slices : BitVec 8} {grp : Group} {t : Trap} (h : Issues s g slices grp)
    {f : Except Stop State} (hf : f = .error (.trap t s)) :
    onAny s f = .next { s.takeTrap g slices t with runEnd := true } := by
  simp only [onAny, h.cur, h.here, hf, keepGroup, settle]
  simp only [State.setGroup_cur, h.cur]
  rw [takeTrap_setGroup h.here]

/-- A word of a gang that waits, having changed only its slices. -/
theorem onGang_wait {s : State} {g : GroupId} {slices : BitVec 8} {grp : Group} (h : Issues s g slices grp) {sls : Vector Slice 8}
    {f : GroupId → Group → BitVec 8 → Except Stop State}
    (hf : f g grp slices = .error (.wait (s.setGroup g { grp with slices := sls }))) :
    onGang s f = .next { s.setGroup g { grp with slices := sls } with runEnd := true } := by
  simp [onGang, h.cur, h.here, hf, keepGroup, settle]

/-- A word for groups and Pilots alike that waits, having changed only the gang's slices. -/
theorem onAny_wait {s : State} {g : GroupId} {slices : BitVec 8} {grp : Group} (h : Issues s g slices grp) {sls : Vector Slice 8}
    {f : Except Stop State} (hf : f = .error (.wait (s.setGroup g { grp with slices := sls }))) :
    onAny s f = .next { s.setGroup g { grp with slices := sls } with runEnd := true } := by
  simp [onAny, h.cur, h.here, hf, keepGroup, settle]

end Sys2Proof.Machine
end

