-- ==== Sys2Proof/Laws/Engine.lean ====
section
/-! SUPPORT. Engine words: the checks of a record's address and ranges, and the start of a ticketed operation. -/

namespace Sys2Proof.Machine

open Sys2Proof

/-- A data access that R101 allows. -/
theorem addrKind_plain {p : Priv} {a n : Nat} (h : plainAddr p a n) (hn : n ≠ 0) : addrKind p a n = none := by
  obtain ⟨h1, h2, h3⟩ := h
  unfold addrKind
  rw [if_neg (by omega), if_neg (by omega), if_neg (by intro ⟨hp, hq⟩; have := h3 hp; omega)]

/-- The checks of a gang's uniform access. -/
theorem checkUniform_ok {s : State} {a n : Nat} {g slices grp} (hs : Issues s g slices grp) (h : s.uniformSound a n false) (hn : n ≠ 0) : checkUniform s a n false = .ok () := by
  have h1 := h.1
  simp only [State.inPilotMemory, hs.cur] at h1
  simp only [checkUniform, State.inPilotMemory, hs.cur, addrKind_plain h1 hn, require]
  rfl

/-- Ranges that R101 allows. -/
theorem checkRanges_ok {s : State} {p rs} (h : ∀ r ∈ rs, r.2 ≠ 0 → plainAddr p r.1 r.2) : checkRanges s p rs = .ok () := by
  have (k : Kind) : rs.find? (fun r => r.2 != 0 && addrKind p r.1 r.2 == some k) = none := by
    simp only [List.find?_eq_none]
    intro r hr
    by_cases h0 : r.2 = 0
    · simp [h0]
    · simp [addrKind_plain (h r hr h0) h0]
  simp only [checkRanges, this]
  rfl

/-- A register that is no port reserves nothing. -/
theorem reserve_plain {s : State} {g slices grp r} (hs : Issues s g slices grp) (hp : grp.port r = none) : s.reserve r = s := by
  simp only [State.reserve, State.pushPort, hs.cur, hs.here, Option.bind_some, hp, Option.bind_none]

/-- Taking a ticket keeps a word at its start. -/
theorem starts_set {grp : Group} {slices} {f : Slice → Slice} (hf : ∀ x, (f x).pc = x.pc) (h : grp.starts slices) (tk) (sq) :
   ({grp.mapSlices slices f with tickets := tk, ticketSeq := sq} : Group).starts slices := by
  have : ∀ m, (({grp.mapSlices slices f with tickets := tk, ticketSeq := sq} : Group).lead m).pc = (grp.lead m).pc := by
    intro m
    simp [Group.lead, Group.mapSlices]
    split <;> simp [hf]
  have ho : ({grp.mapSlices slices f with tickets := tk, ticketSeq := sq} : Group).owns slices = grp.owns slices := by
    funext p
    simp only [Group.owns, this]
  simp only [Group.starts, Group.progressOf, ho, this] at *
  exact h

/-- A uniform value delivered by a word that has just started. -/
theorem deliver_takes {s : State} {g : GroupId} {slices : BitVec 8} {grp : Group} {sd : Fin 64} (hs : Issues s g slices grp) (h : grp.starts slices) (hp : grp.port sd = none) (la : Nat) (x) :
   s.deliverUniform sd la x = s.takesUniform sd la x := by
  have hr : s.reservation = none := by
    simp only [State.reservation, hs.cur, hs.here, Option.bind_some]
    rw [h]; rfl
  have hd : (grp.progressOf slices).dropped = [] := by rw [h]; rfl
  simp only [State.deliverUniform, State.takesUniform, hs.cur, hs.here, hd, hr, hp]
  simp

/-- A record read at issue. -/
theorem readRecord_ok {s t : State} {g slices grp a n align ps} (hs : Issues s g slices grp) (h : s.uniformSound a n false) (hn : n ≠ 0) (ha : a % align = 0)
   (hp : s.places (s.groupReq g grp .load) a n = .ok (t, ps)) (hq : (t.readPlaces ps).2 = none) :
   readRecord s g grp slices a n align = .ok (t, (t.readPlaces ps).1) := by
  simp only [readRecord, checkUniform_ok hs h hn, Except.ok_bind', ha, require, hp]
  rw [show (t.readPlaces ps) = ((t.readPlaces ps).1, none) from Prod.ext rfl hq]
  rfl

/-- A ticketed operation starts. -/
theorem startOp_ok {t : State} {g : GroupId} {slices : BitVec 8} {grp : Group} {sd : Fin 64} (hs : Issues t g slices grp) (h : grp.starts slices) (hp : grp.port sd = none) {e} (he : grp.freeTicket = some e) (kind code la record desc) :
  startOp t ⟨[], []⟩ g grp slices kind code sd la record desc = .ok (
      let t1 := t.setGroup g (grp.ticketed slices e code)
      let op : EngineOp :=
        { id := t.nextId, kind := kind, g := g, team := grp.team, launch := grp.launch, ld := deviceOfGroup g
          asn := t.asnOf grp.launch, priv := grp.priv, cl := clusterOf g, record := record, desc := desc
          word := t.fetched.word, pc := (grp.lead slices).pc, sidecar := t.fetched.sidecar, uft := (t.ctxOfGroup g grp).uft
          since := t.fresh, ticket := some (e, grp.ticketSeq + 1), parked := false }
      (({ t1 with ops := t1.ops ++ [op], nextId := t.nextId + 1 } : State).takesUniform sd la
        (BitVec.ofNat 64 (code * 2 ^ 56 + e.val * 2 ^ 32 + (grp.ticketSeq + 1).toNat))).advance) := by
  have hlead : ∀ m, (grp.ticketed slices e code).lead m = (let x := grp.lead m; if maskHas slices (lowSlice m).val then { x with issued := (grp.ticketSeq + 1) :: x.issued } else x) := by
    intro m; simp [Group.ticketed, Group.lead, Group.mapSlices]
  have hpc : ((grp.ticketed slices e code).lead slices).pc = (grp.lead slices).pc := by
    rw [hlead]; simp only; split <;> rfl
  simp only [startOp, checkTicket, he, require, Option.isSome_some, if_true, Except.ok_bind', commitPops_nil, reserve_plain hs hp, issueTicket, hs.here, hs.cur, State.group?_setGroup]
  show Except.ok _ = _
  congr 1
  simp only [State.addOp]
  have hs2 : Issues (({ (t.setGroup g (grp.ticketed slices e code)) with ops := (t.setGroup g (grp.ticketed slices e code)).ops ++ [{ id := t.nextId, kind := kind, g := g, team := grp.team, launch := grp.launch, ld := deviceOfGroup g, asn := t.asnOf grp.launch, priv := grp.priv, cl := clusterOf g, record := record, desc := desc, word := t.fetched.word, pc := (grp.lead slices).pc, sidecar := t.fetched.sidecar, uft := (t.ctxOfGroup g grp).uft, since := t.fresh, ticket := some (e, grp.ticketSeq + 1), parked := false }], nextId := t.nextId + 1 } : State)) g slices (grp.ticketed slices e code) := ⟨hs.cur, State.group?_setGroup _ _ _⟩
  rw [← deliver_takes hs2 (starts_set (by intro; rfl) h _ _) hp]
  rw [← hpc]
  rfl

end Sys2Proof.Machine
end

