-- ==== Sys2Proof/Laws/Exec.lean ====
section
/-! SUPPORT. `exec` of each constructor is its meaning: cite these rather than unfold `exec`. -/

namespace Sys2Proof.Machine

open Sys2Proof

theorem exec_iadd (o) (s : State) : exec (.iadd o) s = execIadd o s := rfl
theorem exec_iaddSat (o) (s : State) : exec (.iaddSat o) s = execIaddSat o s := rfl
theorem exec_iaddSatN32 (o) (s : State) : exec (.iaddSatN32 o) s = execIaddSatN32 o s := rfl
theorem exec_isub (o) (s : State) : exec (.isub o) s = execIsub o s := rfl
theorem exec_isubSat (o) (s : State) : exec (.isubSat o) s = execIsubSat o s := rfl
theorem exec_isubSatN32 (o) (s : State) : exec (.isubSatN32 o) s = execIsubSatN32 o s := rfl
theorem exec_imul (o) (s : State) : exec (.imul o) s = execImul o s := rfl
theorem exec_imulHi (o) (s : State) : exec (.imulHi o) s = execImulHi o s := rfl
theorem exec_imulHiN32 (o) (s : State) : exec (.imulHiN32 o) s = execImulHiN32 o s := rfl
theorem exec_imad (o) (s : State) : exec (.imad o) s = execImad o s := rfl
theorem exec_idivI32 (o) (s : State) : exec (.idivI32 o) s = execIdivI32 o s := rfl
theorem exec_idivN32 (o) (s : State) : exec (.idivN32 o) s = execIdivN32 o s := rfl
theorem exec_iremI32 (o) (s : State) : exec (.iremI32 o) s = execIremI32 o s := rfl
theorem exec_iremN32 (o) (s : State) : exec (.iremN32 o) s = execIremN32 o s := rfl
theorem exec_iminI32 (o) (s : State) : exec (.iminI32 o) s = execIminI32 o s := rfl
theorem exec_iminN32 (o) (s : State) : exec (.iminN32 o) s = execIminN32 o s := rfl
theorem exec_imaxI32 (o) (s : State) : exec (.imaxI32 o) s = execImaxI32 o s := rfl
theorem exec_imaxN32 (o) (s : State) : exec (.imaxN32 o) s = execImaxN32 o s := rfl
theorem exec_land (o) (s : State) : exec (.land o) s = execLand o s := rfl
theorem exec_lor (o) (s : State) : exec (.lor o) s = execLor o s := rfl
theorem exec_lxor (o) (s : State) : exec (.lxor o) s = execLxor o s := rfl
theorem exec_landn (o) (s : State) : exec (.landn o) s = execLandn o s := rfl
theorem exec_ishl (o) (s : State) : exec (.ishl o) s = execIshl o s := rfl
theorem exec_ishr (o) (s : State) : exec (.ishr o) s = execIshr o s := rfl
theorem exec_isar (o) (s : State) : exec (.isar o) s = execIsar o s := rfl
theorem exec_irot (o) (s : State) : exec (.irot o) s = execIrot o s := rfl
theorem exec_popc (o) (s : State) : exec (.popc o) s = execPopc o s := rfl
theorem exec_clz (o) (s : State) : exec (.clz o) s = execClz o s := rfl
theorem exec_ctz (o) (s : State) : exec (.ctz o) s = execCtz o s := rfl
theorem exec_brev (o) (s : State) : exec (.brev o) s = execBrev o s := rfl
theorem exec_icmpI32 (o) (s : State) : exec (.icmpI32 o) s = execIcmpI32 o s := rfl
theorem exec_icmpN32 (o) (s : State) : exec (.icmpN32 o) s = execIcmpN32 o s := rfl
theorem exec_sel (o) (s : State) : exec (.sel o) s = execSel o s := rfl
theorem exec_bfxN32 (o) (s : State) : exec (.bfxN32 o) s = execBfxN32 o s := rfl
theorem exec_bfxI32 (o) (s : State) : exec (.bfxI32 o) s = execBfxI32 o s := rfl
theorem exec_bfi (o) (s : State) : exec (.bfi o) s = execBfi o s := rfl
theorem exec_addmod (o) (s : State) : exec (.addmod o) s = execAddmod o s := rfl
theorem exec_submod (o) (s : State) : exec (.submod o) s = execSubmod o s := rfl
theorem exec_mulmod (o) (s : State) : exec (.mulmod o) s = execMulmod o s := rfl
theorem exec_iaddi (o) (s : State) : exec (.iaddi o) s = execIaddi o s := rfl
theorem exec_ishli (o) (s : State) : exec (.ishli o) s = execIshli o s := rfl
theorem exec_ishri (o) (s : State) : exec (.ishri o) s = execIshri o s := rfl
theorem exec_isari (o) (s : State) : exec (.isari o) s = execIsari o s := rfl
theorem exec_iroti (o) (s : State) : exec (.iroti o) s = execIroti o s := rfl
theorem exec_imovi (o) (s : State) : exec (.imovi o) s = execImovi o s := rfl
theorem exec_fadd (o) (s : State) : exec (.fadd o) s = execFadd o s := rfl
theorem exec_fsub (o) (s : State) : exec (.fsub o) s = execFsub o s := rfl
theorem exec_fmul (o) (s : State) : exec (.fmul o) s = execFmul o s := rfl
theorem exec_ffma (o) (s : State) : exec (.ffma o) s = execFfma o s := rfl
theorem exec_fmin (o) (s : State) : exec (.fmin o) s = execFmin o s := rfl
theorem exec_fmax (o) (s : State) : exec (.fmax o) s = execFmax o s := rfl
theorem exec_fscl (o) (s : State) : exec (.fscl o) s = execFscl o s := rfl
theorem exec_fcmp (o) (s : State) : exec (.fcmp o) s = execFcmp o s := rfl
theorem exec_fabs (o) (s : State) : exec (.fabs o) s = execFabs o s := rfl
theorem exec_fneg (o) (s : State) : exec (.fneg o) s = execFneg o s := rfl
theorem exec_frcp (o) (s : State) : exec (.frcp o) s = execFrcp o s := rfl
theorem exec_frsq (o) (s : State) : exec (.frsq o) s = execFrsq o s := rfl
theorem exec_fsqrt (o) (s : State) : exec (.fsqrt o) s = execFsqrt o s := rfl
theorem exec_fexp2 (o) (s : State) : exec (.fexp2 o) s = execFexp2 o s := rfl
theorem exec_flog2 (o) (s : State) : exec (.flog2 o) s = execFlog2 o s := rfl
theorem exec_fclass (o) (s : State) : exec (.fclass o) s = execFclass o s := rfl
theorem exec_frint (o) (s : State) : exec (.frint o) s = execFrint o s := rfl
theorem exec_dpe5 (o) (s : State) : exec (.dpe5 o) s = execDpe5 o s := rfl
theorem exec_dpbf (o) (s : State) : exec (.dpbf o) s = execDpbf o s := rfl
theorem exec_dpf8 (o) (s : State) : exec (.dpf8 o) s = execDpf8 o s := rfl
theorem exec_dpf4 (o) (s : State) : exec (.dpf4 o) s = execDpf4 o s := rfl
theorem exec_dadd (o) (s : State) : exec (.dadd o) s = execDadd o s := rfl
theorem exec_dsub (o) (s : State) : exec (.dsub o) s = execDsub o s := rfl
theorem exec_dmul (o) (s : State) : exec (.dmul o) s = execDmul o s := rfl
theorem exec_dfma (o) (s : State) : exec (.dfma o) s = execDfma o s := rfl
theorem exec_dcmp (o) (s : State) : exec (.dcmp o) s = execDcmp o s := rfl
theorem exec_cvt (o) (s : State) : exec (.cvt o) s = execCvt o s := rfl
theorem exec_pack8 (o) (s : State) : exec (.pack8 o) s = execPack8 o s := rfl
theorem exec_pack4 (o) (s : State) : exec (.pack4 o) s = execPack4 o s := rfl
theorem exec_dpi8I8 (o) (s : State) : exec (.dpi8I8 o) s = execDpi8I8 o s := rfl
theorem exec_dpi8N8 (o) (s : State) : exec (.dpi8N8 o) s = execDpi8N8 o s := rfl
theorem exec_dpi4I4 (o) (s : State) : exec (.dpi4I4 o) s = execDpi4I4 o s := rfl
theorem exec_dpi4N4 (o) (s : State) : exec (.dpi4N4 o) s = execDpi4N4 o s := rfl
theorem exec_shflIdx (o) (s : State) : exec (.shflIdx o) s = execShflIdx o s := rfl
theorem exec_shflUp (o) (s : State) : exec (.shflUp o) s = execShflUp o s := rfl
theorem exec_shflDown (o) (s : State) : exec (.shflDown o) s = execShflDown o s := rfl
theorem exec_shflXor (o) (s : State) : exec (.shflXor o) s = execShflXor o s := rfl
theorem exec_redadd (o) (s : State) : exec (.redadd o) s = execRedadd o s := rfl
theorem exec_redmin (o) (s : State) : exec (.redmin o) s = execRedmin o s := rfl
theorem exec_redmax (o) (s : State) : exec (.redmax o) s = execRedmax o s := rfl
theorem exec_redminn (o) (s : State) : exec (.redminn o) s = execRedminn o s := rfl
theorem exec_minxI32 (o) (s : State) : exec (.minxI32 o) s = execMinxI32 o s := rfl
theorem exec_minxN32 (o) (s : State) : exec (.minxN32 o) s = execMinxN32 o s := rfl
theorem exec_maxxI32 (o) (s : State) : exec (.maxxI32 o) s = execMaxxI32 o s := rfl
theorem exec_maxxN32 (o) (s : State) : exec (.maxxN32 o) s = execMaxxN32 o s := rfl
theorem exec_scanAdd (o) (s : State) : exec (.scanAdd o) s = execScanAdd o s := rfl
theorem exec_scanXadd (o) (s : State) : exec (.scanXadd o) s = execScanXadd o s := rfl
theorem exec_scanMax (o) (s : State) : exec (.scanMax o) s = execScanMax o s := rfl
theorem exec_scanMin (o) (s : State) : exec (.scanMin o) s = execScanMin o s := rfl
theorem exec_voteBallot (o) (s : State) : exec (.voteBallot o) s = execVoteBallot o s := rfl
theorem exec_voteAny (o) (s : State) : exec (.voteAny o) s = execVoteAny o s := rfl
theorem exec_voteAll (o) (s : State) : exec (.voteAll o) s = execVoteAll o s := rfl
theorem exec_bcast (o) (s : State) : exec (.bcast o) s = execBcast o s := rfl
theorem exec_vget (o) (s : State) : exec (.vget o) s = execVget o s := rfl
theorem exec_lidx (o) (s : State) : exec (.lidx o) s = execLidx o s := rfl
theorem exec_pand (o) (s : State) : exec (.pand o) s = execPand o s := rfl
theorem exec_por (o) (s : State) : exec (.por o) s = execPor o s := rfl
theorem exec_pxor (o) (s : State) : exec (.pxor o) s = execPxor o s := rfl
theorem exec_pandn (o) (s : State) : exec (.pandn o) s = execPandn o s := rfl
theorem exec_vtrp (o) (s : State) : exec (.vtrp o) s = execVtrp o s := rfl
theorem exec_wadd (o) (s : State) : exec (.wadd o) s = execWadd o s := rfl
theorem exec_wadc (o) (s : State) : exec (.wadc o) s = execWadc o s := rfl
theorem exec_wsub (o) (s : State) : exec (.wsub o) s = execWsub o s := rfl
theorem exec_wsbb (o) (s : State) : exec (.wsbb o) s = execWsbb o s := rfl
theorem exec_wand (o) (s : State) : exec (.wand o) s = execWand o s := rfl
theorem exec_wor (o) (s : State) : exec (.wor o) s = execWor o s := rfl
theorem exec_wxor (o) (s : State) : exec (.wxor o) s = execWxor o s := rfl
theorem exec_wandn (o) (s : State) : exec (.wandn o) s = execWandn o s := rfl
theorem exec_wshl (o) (s : State) : exec (.wshl o) s = execWshl o s := rfl
theorem exec_wshr (o) (s : State) : exec (.wshr o) s = execWshr o s := rfl
theorem exec_wsar (o) (s : State) : exec (.wsar o) s = execWsar o s := rfl
theorem exec_wmuls (o) (s : State) : exec (.wmuls o) s = execWmuls o s := rfl
theorem exec_wmads (o) (s : State) : exec (.wmads o) s = execWmads o s := rfl
theorem exec_wdivs (o) (s : State) : exec (.wdivs o) s = execWdivs o s := rfl
theorem exec_wdiv (o) (s : State) : exec (.wdiv o) s = execWdiv o s := rfl
theorem exec_wcmpI (o) (s : State) : exec (.wcmpI o) s = execWcmpI o s := rfl
theorem exec_wcmpN (o) (s : State) : exec (.wcmpN o) s = execWcmpN o s := rfl
theorem exec_wneg (o) (s : State) : exec (.wneg o) s = execWneg o s := rfl
theorem exec_wnot (o) (s : State) : exec (.wnot o) s = execWnot o s := rfl
theorem exec_wabs (o) (s : State) : exec (.wabs o) s = execWabs o s := rfl
theorem exec_wnorm (o) (s : State) : exec (.wnorm o) s = execWnorm o s := rfl
theorem exec_wclz (o) (s : State) : exec (.wclz o) s = execWclz o s := rfl
theorem exec_wpopc (o) (s : State) : exec (.wpopc o) s = execWpopc o s := rfl
theorem exec_wextI (o) (s : State) : exec (.wextI o) s = execWextI o s := rfl
theorem exec_wextN (o) (s : State) : exec (.wextN o) s = execWextN o s := rfl
theorem exec_wgetl (o) (s : State) : exec (.wgetl o) s = execWgetl o s := rfl
theorem exec_wsetl (o) (s : State) : exec (.wsetl o) s = execWsetl o s := rfl
theorem exec_cres (o) (s : State) : exec (.cres o) s = execCres o s := rfl
theorem exec_qadd (o) (s : State) : exec (.qadd o) s = execQadd o s := rfl
theorem exec_qsub (o) (s : State) : exec (.qsub o) s = execQsub o s := rfl
theorem exec_qmul (o) (s : State) : exec (.qmul o) s = execQmul o s := rfl
theorem exec_qdiv (o) (s : State) : exec (.qdiv o) s = execQdiv o s := rfl
theorem exec_qnorm (o) (s : State) : exec (.qnorm o) s = execQnorm o s := rfl
theorem exec_wgcd (o) (s : State) : exec (.wgcd o) s = execWgcd o s := rfl
theorem exec_acp (o) (s : State) : exec (.acp o) s = execAcp o s := rfl
theorem exec_ld (o) (s : State) : exec (.ld o) s = execLd o s := rfl
theorem exec_lds (o) (s : State) : exec (.lds o) s = execLds o s := rfl
theorem exec_ldi (o) (s : State) : exec (.ldi o) s = execLdi o s := rfl
theorem exec_st (o) (s : State) : exec (.st o) s = execSt o s := rfl
theorem exec_sts (o) (s : State) : exec (.sts o) s = execSts o s := rfl
theorem exec_ldl (o) (s : State) : exec (.ldl o) s = execLdl o s := rfl
theorem exec_stl (o) (s : State) : exec (.stl o) s = execStl o s := rfl
theorem exec_atom (o) (s : State) : exec (.atom o) s = execAtom o s := rfl
theorem exec_atom64 (o) (s : State) : exec (.atom64 o) s = execAtom64 o s := rfl
theorem exec_sadd (o) (s : State) : exec (.sadd o) s = execSadd o s := rfl
theorem exec_ssub (o) (s : State) : exec (.ssub o) s = execSsub o s := rfl
theorem exec_smul (o) (s : State) : exec (.smul o) s = execSmul o s := rfl
theorem exec_smulh (o) (s : State) : exec (.smulh o) s = execSmulh o s := rfl
theorem exec_smulhn (o) (s : State) : exec (.smulhn o) s = execSmulhn o s := rfl
theorem exec_sdiv (o) (s : State) : exec (.sdiv o) s = execSdiv o s := rfl
theorem exec_sdivn (o) (s : State) : exec (.sdivn o) s = execSdivn o s := rfl
theorem exec_srem (o) (s : State) : exec (.srem o) s = execSrem o s := rfl
theorem exec_sand (o) (s : State) : exec (.sand o) s = execSand o s := rfl
theorem exec_sor (o) (s : State) : exec (.sor o) s = execSor o s := rfl
theorem exec_sxor (o) (s : State) : exec (.sxor o) s = execSxor o s := rfl
theorem exec_sandn (o) (s : State) : exec (.sandn o) s = execSandn o s := rfl
theorem exec_sshl (o) (s : State) : exec (.sshl o) s = execSshl o s := rfl
theorem exec_sshr (o) (s : State) : exec (.sshr o) s = execSshr o s := rfl
theorem exec_ssar (o) (s : State) : exec (.ssar o) s = execSsar o s := rfl
theorem exec_srot (o) (s : State) : exec (.srot o) s = execSrot o s := rfl
theorem exec_smin (o) (s : State) : exec (.smin o) s = execSmin o s := rfl
theorem exec_smax (o) (s : State) : exec (.smax o) s = execSmax o s := rfl
theorem exec_sminn (o) (s : State) : exec (.sminn o) s = execSminn o s := rfl
theorem exec_smaxn (o) (s : State) : exec (.smaxn o) s = execSmaxn o s := rfl
theorem exec_spopc (o) (s : State) : exec (.spopc o) s = execSpopc o s := rfl
theorem exec_sclz (o) (s : State) : exec (.sclz o) s = execSclz o s := rfl
theorem exec_sctz (o) (s : State) : exec (.sctz o) s = execSctz o s := rfl
theorem exec_ssel (o) (s : State) : exec (.ssel o) s = execSsel o s := rfl
theorem exec_scmpI (o) (s : State) : exec (.scmpI o) s = execScmpI o s := rfl
theorem exec_scmpN (o) (s : State) : exec (.scmpN o) s = execScmpN o s := rfl
theorem exec_saddi (o) (s : State) : exec (.saddi o) s = execSaddi o s := rfl
theorem exec_slui (o) (s : State) : exec (.slui o) s = execSlui o s := rfl
theorem exec_slit (o) (s : State) : exec (.slit o) s = execSlit o s := rfl
theorem exec_slith (o) (s : State) : exec (.slith o) s = execSlith o s := rfl
theorem exec_sbfx (o) (s : State) : exec (.sbfx o) s = execSbfx o s := rfl
theorem exec_sbfxs (o) (s : State) : exec (.sbfxs o) s = execSbfxs o s := rfl
theorem exec_sbfi (o) (s : State) : exec (.sbfi o) s = execSbfi o s := rfl
theorem exec_cand (o) (s : State) : exec (.cand o) s = execCand o s := rfl
theorem exec_cor (o) (s : State) : exec (.cor o) s = execCor o s := rfl
theorem exec_cxor (o) (s : State) : exec (.cxor o) s = execCxor o s := rfl
theorem exec_candn (o) (s : State) : exec (.candn o) s = execCandn o s := rfl
theorem exec_sbcv (o) (s : State) : exec (.sbcv o) s = execSbcv o s := rfl
theorem exec_srd (o) (s : State) : exec (.srd o) s = execSrd o s := rfl
theorem exec_swr (o) (s : State) : exec (.swr o) s = execSwr o s := rfl
theorem exec_bra (o) (s : State) : exec (.bra o) s = execBra o s := rfl
theorem exec_call (o) (s : State) : exec (.call o) s = execCall o s := rfl
theorem exec_jmpr (o) (s : State) : exec (.jmpr o) s = execJmpr o s := rfl
theorem exec_ret (o) (s : State) : exec (.ret o) s = execRet o s := rfl
theorem exec_callr (o) (s : State) : exec (.callr o) s = execCallr o s := rfl
theorem exec_loop (o) (s : State) : exec (.loop o) s = execLoop o s := rfl
theorem exec_lcnt (o) (s : State) : exec (.lcnt o) s = execLcnt o s := rfl
theorem exec_brp (o) (s : State) : exec (.brp o) s = execBrp o s := rfl
theorem exec_rcv (o) (s : State) : exec (.rcv o) s = execRcv o s := rfl
theorem exec_bkpt (o) (s : State) : exec (.bkpt o) s = execBkpt o s := rfl
theorem exec_trap (o) (s : State) : exec (.trap o) s = execTrap o s := rfl
theorem exec_prd (o) (s : State) : exec (.prd o) s = execPrd o s := rfl
theorem exec_pwr (o) (s : State) : exec (.pwr o) s = execPwr o s := rfl
theorem exec_bar (o) (s : State) : exec (.bar o) s = execBar o s := rfl
theorem exec_barProd (o) (s : State) : exec (.barProd o) s = execBarProd o s := rfl
theorem exec_barCons (o) (s : State) : exec (.barCons o) s = execBarCons o s := rfl
theorem exec_barCnt (o) (s : State) : exec (.barCnt o) s = execBarCnt o s := rfl
theorem exec_fenceAcq (o) (s : State) : exec (.fenceAcq o) s = execFenceAcq o s := rfl
theorem exec_fenceRel (o) (s : State) : exec (.fenceRel o) s = execFenceRel o s := rfl
theorem exec_fenceFull (o) (s : State) : exec (.fenceFull o) s = execFenceFull o s := rfl
theorem exec_sld (o) (s : State) : exec (.sld o) s = execSld o s := rfl
theorem exec_sst (o) (s : State) : exec (.sst o) s = execSst o s := rfl
theorem exec_slda (o) (s : State) : exec (.slda o) s = execSlda o s := rfl
theorem exec_sstr (o) (s : State) : exec (.sstr o) s = execSstr o s := rfl
theorem exec_satom (o) (s : State) : exec (.satom o) s = execSatom o s := rfl
theorem exec_qput (o) (s : State) : exec (.qput o) s = execQput o s := rfl
theorem exec_qget (o) (s : State) : exec (.qget o) s = execQget o s := rfl
theorem exec_aseal (o) (s : State) : exec (.aseal o) s = execAseal o s := rfl
theorem exec_await (o) (s : State) : exec (.await o) s = execAwait o s := rfl
theorem exec_awaitT (o) (s : State) : exec (.awaitT o) s = execAwaitT o s := rfl
theorem exec_bxt (o) (s : State) : exec (.bxt o) s = execBxt o s := rfl
theorem exec_gath (o) (s : State) : exec (.gath o) s = execGath o s := rfl
theorem exec_sarmArm (o) (s : State) : exec (.sarmArm o) s = execSarmArm o s := rfl
theorem exec_sarmDisarm (o) (s : State) : exec (.sarmDisarm o) s = execSarmDisarm o s := rfl
theorem exec_mgang (o) (s : State) : exec (.mgang o) s = execMgang o s := rfl
theorem exec_macq (o) (s : State) : exec (.macq o) s = execMacq o s := rfl
theorem exec_mrel (o) (s : State) : exec (.mrel o) s = execMrel o s := rfl
theorem exec_mma (o) (s : State) : exec (.mma o) s = execMma o s := rfl
theorem exec_mmaCx (o) (s : State) : exec (.mmaCx o) s = execMmaCx o s := rfl
theorem exec_mlt (o) (s : State) : exec (.mlt o) s = execMlt o s := rfl
theorem exec_maccLoad (o) (s : State) : exec (.maccLoad o) s = execMaccLoad o s := rfl
theorem exec_maccStore (o) (s : State) : exec (.maccStore o) s = execMaccStore o s := rfl
theorem exec_mxmul (o) (s : State) : exec (.mxmul o) s = execMxmul o s := rfl
theorem exec_nttFwd (o) (s : State) : exec (.nttFwd o) s = execNttFwd o s := rfl
theorem exec_nttInv (o) (s : State) : exec (.nttInv o) s = execNttInv o s := rfl
theorem exec_stow (o) (s : State) : exec (.stow o) s = execStow o s := rfl
theorem exec_unstow (o) (s : State) : exec (.unstow o) s = execUnstow o s := rfl
theorem exec_publ (o) (s : State) : exec (.publ o) s = execPubl o s := rfl
theorem exec_emit (o) (s : State) : exec (.emit o) s = execEmit o s := rfl
theorem exec_eseal (o) (s : State) : exec (.eseal o) s = execEseal o s := rfl
theorem exec_esync (o) (s : State) : exec (.esync o) s = execEsync o s := rfl
theorem exec_eopen (o) (s : State) : exec (.eopen o) s = execEopen o s := rfl
theorem exec_epos (o) (s : State) : exec (.epos o) s = execEpos o s := rfl
theorem exec_tide (o) (s : State) : exec (.tide o) s = execTide o s := rfl
theorem exec_launch (o) (s : State) : exec (.launch o) s = execLaunch o s := rfl
theorem exec_lexit (s : State) : exec .lexit s = execLexit s := rfl
theorem exec_join (s : State) : exec .join s = execJoin s := rfl
theorem exec_regang (s : State) : exec .regang s = execRegang s := rfl
theorem exec_rgn (s : State) : exec .rgn s = execRgn s := rfl
theorem exec_exitLanes (s : State) : exec .exitLanes s = execExitLanes s := rfl
theorem exec_rolesw (s : State) : exec .rolesw s = execRolesw s := rfl
theorem exec_nop (s : State) : exec .nop s = execNop s := rfl
theorem exec_rett (s : State) : exec .rett s = execRett s := rfl
theorem exec_idle (s : State) : exec .idle s = execIdle s := rfl
theorem exec_leasew (s : State) : exec .leasew s = execLeasew s := rfl
theorem exec_halt (s : State) : exec .halt s = execHalt s := rfl
theorem exec_sstep (s : State) : exec .sstep s = execSstep s := rfl
theorem exec_maccZero (s : State) : exec .maccZero s = execMaccZero s := rfl
theorem exec_issueArbitration (s : State) : exec .issueArbitration s = execIssueArbitration s := rfl
theorem exec_loadResultArrival (s : State) : exec .loadResultArrival s = execLoadResultArrival s := rfl
theorem exec_queueRequestServed (s : State) : exec .queueRequestServed s = execQueueRequestServed s := rfl
theorem exec_wideSequencedComplete (s : State) : exec .wideSequencedComplete s = execWideSequencedComplete s := rfl
theorem exec_batchComplete (s : State) : exec .batchComplete s = execBatchComplete s := rfl
theorem exec_bxtComplete (s : State) : exec .bxtComplete s = execBxtComplete s := rfl
theorem exec_gathComplete (s : State) : exec .gathComplete s = execGathComplete s := rfl
theorem exec_mxmulComplete (s : State) : exec .mxmulComplete s = execMxmulComplete s := rfl
theorem exec_nttComplete (s : State) : exec .nttComplete s = execNttComplete s := rfl
theorem exec_stowComplete (s : State) : exec .stowComplete s = execStowComplete s := rfl
theorem exec_childLaunchComplete (s : State) : exec .childLaunchComplete s = execChildLaunchComplete s := rfl
theorem exec_matrixPass (s : State) : exec .matrixPass s = execMatrixPass s := rfl
theorem exec_jointOpComplete (s : State) : exec .jointOpComplete s = execJointOpComplete s := rfl
theorem exec_maccComplete (s : State) : exec .maccComplete s = execMaccComplete s := rfl
theorem exec_macqGrant (s : State) : exec .macqGrant s = execMacqGrant s := rfl
theorem exec_accSpill (s : State) : exec .accSpill s = execAccSpill s := rfl
theorem exec_publExchange (s : State) : exec .publExchange s = execPublExchange s := rfl
theorem exec_sstepRelease (s : State) : exec .sstepRelease s = execSstepRelease s := rfl
theorem exec_emitResume (s : State) : exec .emitResume s = execEmitResume s := rfl
theorem exec_esyncComplete (s : State) : exec .esyncComplete s = execEsyncComplete s := rfl
theorem exec_leasewReturn (s : State) : exec .leasewReturn s = execLeasewReturn s := rfl
theorem exec_idleWake (s : State) : exec .idleWake s = execIdleWake s := rfl
theorem exec_controllerAccess (s : State) : exec .controllerAccess s = execControllerAccess s := rfl
theorem exec_peerInvalidate (s : State) : exec .peerInvalidate s = execPeerInvalidate s := rfl
theorem exec_leaseExpire (s : State) : exec .leaseExpire s = execLeaseExpire s := rfl
theorem exec_faultEntryWrite (s : State) : exec .faultEntryWrite s = execFaultEntryWrite s := rfl
theorem exec_scrubGranule (s : State) : exec .scrubGranule s = execScrubGranule s := rfl
theorem exec_replay (s : State) : exec .replay s = execReplay s := rfl
theorem exec_refuse (s : State) : exec .refuse s = execRefuse s := rfl
theorem exec_gresume (s : State) : exec .gresume s = execGresume s := rfl
theorem exec_gskip (s : State) : exec .gskip s = execGskip s := rfl
theorem exec_gcancel (s : State) : exec .gcancel s = execGcancel s := rfl
theorem exec_purge (s : State) : exec .purge s = execPurge s := rfl
theorem exec_purgeComplete (s : State) : exec .purgeComplete s = execPurgeComplete s := rfl
theorem exec_attach (s : State) : exec .attach s = execAttach s := rfl
theorem exec_detach (s : State) : exec .detach s = execDetach s := rfl
theorem exec_dbgStop (s : State) : exec .dbgStop s = execDbgStop s := rfl
theorem exec_dbgResume (s : State) : exec .dbgResume s = execDbgResume s := rfl
theorem exec_stepi (s : State) : exec .stepi s = execStepi s := rfl
theorem exec_stepr (s : State) : exec .stepr s = execStepr s := rfl
theorem exec_dbgRegrd (s : State) : exec .dbgRegrd s = execDbgRegrd s := rfl
theorem exec_dbgRegwr (s : State) : exec .dbgRegwr s = execDbgRegwr s := rfl
theorem exec_doorbell (s : State) : exec .doorbell s = execDoorbell s := rfl
theorem exec_cqConsumedWrite (s : State) : exec .cqConsumedWrite s = execCqConsumedWrite s := rfl
theorem exec_mergeVisit (s : State) : exec .mergeVisit s = execMergeVisit s := rfl
theorem exec_freezeComplete (s : State) : exec .freezeComplete s = execFreezeComplete s := rfl
theorem exec_thawComplete (s : State) : exec .thawComplete s = execThawComplete s := rfl
theorem exec_segmentReturn (s : State) : exec .segmentReturn s = execSegmentReturn s := rfl
theorem exec_launchAdmit (s : State) : exec .launchAdmit s = execLaunchAdmit s := rfl
theorem exec_teamPlace (s : State) : exec .teamPlace s = execTeamPlace s := rfl
theorem exec_teamRelease (s : State) : exec .teamRelease s = execTeamRelease s := rfl
theorem exec_generatorStart (s : State) : exec .generatorStart s = execGeneratorStart s := rfl
theorem exec_launchComplete (s : State) : exec .launchComplete s = execLaunchComplete s := rfl
theorem exec_completionRecordWrite (s : State) : exec .completionRecordWrite s = execCompletionRecordWrite s := rfl
theorem exec_coalescerHoldExpire (s : State) : exec .coalescerHoldExpire s = execCoalescerHoldExpire s := rfl
theorem exec_ageTick (s : State) : exec .ageTick s = execAgeTick s := rfl
theorem exec_queuePause (s : State) : exec .queuePause s = execQueuePause s := rfl
theorem exec_queueResume (s : State) : exec .queueResume s = execQueueResume s := rfl
theorem exec_queueCancel (s : State) : exec .queueCancel s = execQueueCancel s := rfl
theorem exec_rload (s : State) : exec .rload s = execRload s := rfl
theorem exec_qload (s : State) : exec .qload s = execQload s := rfl
theorem exec_create (s : State) : exec .create s = execCreate s := rfl
theorem exec_destroy (s : State) : exec .destroy s = execDestroy s := rfl
theorem exec_preempt (s : State) : exec .preempt s = execPreempt s := rfl
theorem exec_preemptComplete (s : State) : exec .preemptComplete s = execPreemptComplete s := rfl
theorem exec_ctxResume (s : State) : exec .ctxResume s = execCtxResume s := rfl
theorem exec_exportHandle (s : State) : exec .exportHandle s = execExportHandle s := rfl
theorem exec_revokeHandle (s : State) : exec .revokeHandle s = execRevokeHandle s := rfl
theorem exec_revokeComplete (s : State) : exec .revokeComplete s = execRevokeComplete s := rfl
theorem exec_importHandle (s : State) : exec .importHandle s = execImportHandle s := rfl
theorem exec_importResponse (s : State) : exec .importResponse s = execImportResponse s := rfl
theorem exec_unimportHandle (s : State) : exec .unimportHandle s = execUnimportHandle s := rfl
theorem exec_poolWrite (s : State) : exec .poolWrite s = execPoolWrite s := rfl
theorem exec_pbufWrite (s : State) : exec .pbufWrite s = execPbufWrite s := rfl
theorem exec_pctlWrite (s : State) : exec .pctlWrite s = execPctlWrite s := rfl
theorem exec_registerWrite (s : State) : exec .registerWrite s = execRegisterWrite s := rfl
theorem exec_tideEvaluate (s : State) : exec .tideEvaluate s = execTideEvaluate s := rfl
theorem exec_ethTransmitFrame (s : State) : exec .ethTransmitFrame s = execEthTransmitFrame s := rfl
theorem exec_ethReceiveFrame (s : State) : exec .ethReceiveFrame s = execEthReceiveFrame s := rfl
theorem exec_txTailWrite (s : State) : exec .txTailWrite s = execTxTailWrite s := rfl
theorem exec_rxTailWrite (s : State) : exec .rxTailWrite s = execRxTailWrite s := rfl
theorem exec_powerOnReset (s : State) : exec .powerOnReset s = execPowerOnReset s := rfl
theorem exec_packageReset (s : State) : exec .packageReset s = execPackageReset s := rfl
theorem exec_startTimerExpire (s : State) : exec .startTimerExpire s = execStartTimerExpire s := rfl
theorem exec_firmwareWatchdog (s : State) : exec .firmwareWatchdog s = execFirmwareWatchdog s := rfl
theorem exec_fwready (s : State) : exec .fwready s = execFwready s := rfl
theorem exec_powerLoss (s : State) : exec .powerLoss s = execPowerLoss s := rfl
theorem exec_functionLevelReset (s : State) : exec .functionLevelReset s = execFunctionLevelReset s := rfl
theorem exec_linkReset (s : State) : exec .linkReset s = execLinkReset s := rfl
theorem exec_powerEvaluate (s : State) : exec .powerEvaluate s = execPowerEvaluate s := rfl
theorem exec_thermtrip (s : State) : exec .thermtrip s = execThermtrip s := rfl
theorem exec_wakeSlotGrant (s : State) : exec .wakeSlotGrant s = execWakeSlotGrant s := rfl
theorem exec_bootClear (s : State) : exec .bootClear s = execBootClear s := rfl
theorem exec_bootSafe (s : State) : exec .bootSafe s = execBootSafe s := rfl
theorem exec_bootReset (s : State) : exec .bootReset s = execBootReset s := rfl
theorem exec_attest (s : State) : exec .attest s = execAttest s := rfl
theorem exec_flashErase (s : State) : exec .flashErase s = execFlashErase s := rfl
theorem exec_flashProgram (s : State) : exec .flashProgram s = execFlashProgram s := rfl
theorem exec_flashOpComplete (s : State) : exec .flashOpComplete s = execFlashOpComplete s := rfl
theorem exec_uncorrectableError (s : State) : exec .uncorrectableError s = execUncorrectableError s := rfl
theorem exec_attestComplete (s : State) : exec .attestComplete s = execAttestComplete s := rfl
theorem exec_hostLinkUp (s : State) : exec .hostLinkUp s = execHostLinkUp s := rfl
theorem exec_hostSnoop (s : State) : exec .hostSnoop s = execHostSnoop s := rfl
theorem exec_recoveryLinkTimeout (s : State) : exec .recoveryLinkTimeout s = execRecoveryLinkTimeout s := rfl
theorem exec_importRequestArrival (s : State) : exec .importRequestArrival s = execImportRequestArrival s := rfl

end Sys2Proof.Machine
end

