-- ==== Sys2Proof/Laws/Memory.lean ====
section
/-! SUPPORT. Memory: what a read gives after a write, and that every operation that changes memory keeps its canonical form. -/

namespace Sys2Proof.Machine

open Sys2Proof

/-! ### Reads after writes -/

/-- A byte reads as it was last written. -/
theorem read_write_self {m : List Host.Cell} (h : Memory.wf m = true) (a : Nat) (b : Byte) :
    Memory.read (Memory.write m a b) a = b := sget_sput_self memDefault b h

/-- A write leaves every other byte. -/
theorem read_write_ne {m : List Host.Cell} (h : Memory.wf m = true) {a c : Nat} (hc : c ≠ a) (b : Byte) :
    Memory.read (Memory.write m a b) c = Memory.read m c := sget_sput_ne memDefault hc b h

/-- Writing a byte keeps the canonical form. -/
theorem wf_write {m : List Host.Cell} (h : Memory.wf m = true) (a : Nat) (b : Byte) : Memory.wf (Memory.write m a b) = true :=
  sortedAbove_sput memDefault (Nat.zero_le a) b h

/-- Writing bytes keeps the canonical form. -/
theorem wf_writeBytes {m : List Host.Cell} (h : Memory.wf m = true) (a : Nat) (bs : List Byte) :
    Memory.wf (Memory.writeBytes m a bs) = true := by
  induction bs generalizing m a with
  | nil => exact h
  | cons b bs ih => exact ih (wf_write h a b) (a + 1)

/-- Bytes outside those written stay. -/
theorem read_writeBytes_out {m : List Host.Cell} (h : Memory.wf m = true) {a c : Nat} {bs : List Byte} (hc : c < a ∨ a + bs.length ≤ c) :
    Memory.read (Memory.writeBytes m a bs) c = Memory.read m c := by
  induction bs generalizing m a with
  | nil => rfl
  | cons b bs ih =>
    simp only [List.length_cons] at hc
    simp only [Memory.writeBytes]
    rw [ih (wf_write h a b) (by omega), read_write_ne h (by omega)]

/-- The bytes written read as they were written. -/
theorem read_writeBytes_in {m : List Host.Cell} (h : Memory.wf m = true) {a : Nat} {bs : List Byte} {i : Nat} (hi : i < bs.length) :
    Memory.read (Memory.writeBytes m a bs) (a + i) = bs.getD i 0 := by
  induction bs generalizing m a i with
  | nil => simp at hi
  | cons b bs ih =>
    simp only [Memory.writeBytes]
    cases i with
    | zero =>
      rw [read_writeBytes_out (wf_write h a b) (by omega), Nat.add_zero, read_write_self h]
      rfl
    | succ i =>
      have := ih (wf_write h a b) (a := a + 1) (i := i) (by simpa using hi)
      rw [show a + (i + 1) = a + 1 + i by omega, this]
      rfl

/-! ### Canonical form -/

/-- Taking entries away keeps the canonical form. -/
theorem sortedAbove_filter {α : Type} [DecidableEq α] (d : Nat → α) (p : Nat × α → Bool) {n : Nat} {l : List (Nat × α)}
    (h : sortedAbove d n l = true) : sortedAbove d n (l.filter p) = true := by
  induction l generalizing n with
  | nil => exact h
  | cons e rest ih =>
    obtain ⟨x, a⟩ := e
    simp only [sortedAbove, Bool.and_eq_true, decide_eq_true_eq] at h
    by_cases hp : p (x, a) = true
    · simp [hp, sortedAbove, h.1.1, h.1.2, ih h.2]
    · simp only [hp, Bool.false_eq_true, not_false_eq_true, List.filter_cons_of_neg]
      exact sortedAbove_mono d (by omega) (ih h.2)

theorem wf_filter {m : List Host.Cell} (h : Memory.wf m = true) (p : Host.Cell → Bool) : Memory.wf (m.filter p) = true :=
  sortedAbove_filter memDefault p h

/-- Clearing a range keeps the canonical form. -/
theorem wf_clearRange {m : List Host.Cell} (h : Memory.wf m = true) (lo n : Nat) : Memory.wf (Memory.clearRange m lo n) = true :=
  wf_filter h _

/-- Clearing ranges keeps the canonical form. -/
theorem wf_clearRanges {m : List Host.Cell} (h : Memory.wf m = true) (rs : List (Nat × Nat)) :
    Memory.wf (Memory.clearRanges m rs) = true := by
  unfold Memory.clearRanges
  induction rs generalizing m with
  | nil => exact h
  | cons r rs ih => exact ih (wf_clearRange h r.1 r.2)

/-- Writing cells back keeps the canonical form. -/
theorem wf_restore {m : List Host.Cell} (h : Memory.wf m = true) (cells : List Host.Cell) :
    Memory.wf (Memory.restore m cells) = true := by
  unfold Memory.restore
  induction cells generalizing m with
  | nil => exact h
  | cons c cells ih => exact ih (wf_write h c.1 c.2)

/-- Bytes that become undefined keep the canonical form. -/
theorem wf_undefinedCells {m : List Host.Cell} (h : Memory.wf m = true) (fresh : Nat) (p : Nat → Bool) :
    Memory.wf (undefinedCells fresh p m) = true := by
  have key : ∀ (l : List Host.Cell) (n : Nat), sortedAbove memDefault n l = true →
      sortedAbove memDefault n (undefinedCells fresh p l) = true := by
    intro l
    induction l with
    | nil => intro n hn; exact hn
    | cons e rest ih =>
      intro n hn
      obtain ⟨x, a⟩ := e
      simp only [sortedAbove, Bool.and_eq_true, decide_eq_true_eq] at hn
      have hrest := ih (x + 1) hn.2
      simp only [undefinedCells, List.filterMap_cons]
      by_cases hc : x < 2 ^ 64 ∧ p x = true
      · by_cases hb : (BitVec.ofNat 8 (Config.freeWord fresh x).toNat : Byte) = 0
        · simp only [hc, and_self, if_true, hb]
          exact sortedAbove_mono memDefault (by omega) hrest
        · have hd : memDefault x = 0 := by
            unfold memDefault
            rw [if_neg]
            omega
          simp only [hc, and_self, if_true, hb, if_false, sortedAbove, hn.1.1, decide_true, hd, ne_eq, not_false_eq_true, Bool.and_self,
            Bool.true_and]
          exact hrest
      · have ha : decide (a ≠ memDefault x) = true := decide_eq_true hn.1.2
        simp only [hc, if_false, sortedAbove, hn.1.1, decide_true, ha, Bool.true_and]
        exact hrest
  exact key m 0 h

/-! ### The operations of the state -/

/-- Memory at reset is in its canonical form. -/
theorem wf_reset : Memory.wf State.reset.mem = true := rfl

/-- Bytes written to host memory. -/
theorem wf_hostWrite {s : State} (h : Memory.wf s.mem = true) (addr : Nat) (bs : List Byte) :
    Memory.wf (s.hostWrite addr bs).mem = true := wf_writeBytes h _ _

/-- One byte written at a plain place. -/
theorem wf_writeLoc {s : State} (h : Memory.wf s.mem = true) (whole : Bool) (l : Nat) (b : Byte) :
    Memory.wf (s.writeLoc whole l b).mem = true := by
  unfold State.writeLoc
  split
  · exact h
  · split
    · exact h
    · exact wf_write h l b

theorem foldl_wf {α : Type} {f : State → α → State} (hf : ∀ s x, Memory.wf s.mem = true → Memory.wf (f s x).mem = true) (l : List α)
    {s : State} (h : Memory.wf s.mem = true) : Memory.wf (l.foldl f s).mem = true := by
  induction l generalizing s with
  | nil => exact h
  | cons x l ih => exact ih (hf s x h)

/-- A flash byte programmed, and a sector erased. -/
theorem wf_program {s : State} (h : Memory.wf s.mem = true) (l : Nat) (b : Byte) : Memory.wf (s.program l b).mem = true := wf_write h _ _
theorem wf_eraseSector {s : State} (h : Memory.wf s.mem = true) (k : Nat) : Memory.wf (s.eraseSector k).mem = true := wf_clearRange h _ _

/-- A record posted, or a memory error reported, is no byte of memory. -/
@[simp] theorem memoryError_mem (s : State) (r : Req) (reason loc : Nat) : (s.memoryError r reason loc).mem = s.mem := by
  simp [State.memoryError, State.postFault]

/-- Dropped writes change no byte (R376). -/
@[simp] theorem dropWrites_mem (s : State) (r : Req) (ls : List Nat) : (s.dropWrites r ls).mem = s.mem := by
  have key : ∀ (ls : List Nat) (acc : State × List Nat), (ls.foldl (fun (acc : State × List Nat) l =>
      if acc.2.contains (granuleOf l) ∨ 2 ^ 39 ≤ l then acc
      else
        let g := granuleOf l
        let s := acc.1.memoryError r (if s.isRetired l then 6 else 2) l
        ({ s with poison := if s.isRetired l then s.poison else insertNat g s.poison
                  pack := { s.pack with latent := s.pack.latent.filter fun x => x ≠ g } }, g :: acc.2)) acc).1.mem = acc.1.mem := by
    intro ls
    induction ls with
    | nil => intro acc; rfl
    | cons x l ih =>
      intro acc
      refine (ih _).trans ?_
      by_cases hx : acc.2.contains (granuleOf x) ∨ 2 ^ 39 ≤ x
      · simp only [hx, if_true]
      · simp only [hx, if_false, memoryError_mem]
  exact key ls (s, [])

/-- Bytes written at locations, whatever stands there. -/
theorem wf_writePlain {s : State} (h : Memory.wf s.mem = true) (r : Req) (cells : List (Nat × Byte)) :
    Memory.wf (s.writePlain r cells).mem = true := by
  simp only [State.writePlain]
  split
  · exact foldl_wf (fun s e hs => wf_writeLoc hs _ _ _) _ h
  · rw [dropWrites_mem]
    exact foldl_wf (fun s e hs => wf_writeLoc hs _ _ _) _ h

@[simp] theorem invalidate_mem (s : State) (r : Req) (ls : List Nat) : (s.invalidate r ls).mem = s.mem := by
  unfold State.invalidate; split <;> rfl

/-- Bytes written at their home controllers. -/
theorem wf_writeHome {s : State} (h : Memory.wf s.mem = true) (r : Req) (cells : List (Nat × Byte)) :
    Memory.wf (s.writeHome r cells).mem = true := by
  rw [State.writeHome, invalidate_mem]
  exact wf_writePlain h _ _

/-- Bytes written at a physical address. -/
theorem wf_physWrite {s : State} (h : Memory.wf s.mem = true) (ld : Fin 4) (pa : Nat) (bs : List Byte) :
    Memory.wf (s.physWrite ld pa bs).mem = true := wf_writeHome h _ _

/-- One block of an MX-stored page written. -/
theorem wf_writeMxBlock {s : State} (h : Memory.wf s.mem = true) (r : Req) (pairs : List (Place × Byte)) (mxf base block : Nat) :
    Memory.wf (s.writeMxBlock r pairs mxf base block).mem = true := by
  simp only [State.writeMxBlock]
  split
  · rw [dropWrites_mem]; exact h
  · split <;> exact wf_writePlain h _ _

/-- Blocks of MX-stored pages written. -/
theorem wf_writeMx {s : State} (h : Memory.wf s.mem = true) (r : Req) (pairs : List (Place × Byte)) :
    Memory.wf (s.writeMx r pairs).mem = true := by
  simp only [State.writeMx]
  exact foldl_wf (fun s b hs => wf_writeMxBlock hs _ _ _ _ _) _ h

/-- What a byte's write leaves in the caches is no byte of memory. -/
@[simp] theorem writeHeld_mem (s : State) (r : Req) (c : CacheRef) (b : Byte) : (s.writeHeld r c b).mem = s.mem := by
  unfold State.writeHeld
  simp only [State.mapLine]
  repeat' split
  all_goals rfl

@[simp] theorem sendRemote_mem (s : State) (pairs : List (Place × Byte)) : (s.sendRemote pairs).mem = s.mem := by
  simp only [State.sendRemote]; split <;> rfl

@[simp] theorem recordDrops_mem (s : State) (r : Req) (cs : List CacheRef) : (s.recordDrops r cs).mem = s.mem := by
  have key : ∀ (gs : List Nat) (t : State), (gs.foldl (fun t g => t.memoryError r 2 (g * 32)) t).mem = t.mem := by
    intro gs
    induction gs with
    | nil => intro t; rfl
    | cons g gs ih => intro t; exact (ih _).trans (memoryError_mem ..)
  exact key _ s

@[simp] theorem healPins_mem (s : State) (pairs : List (Place × Byte)) : (s.healPins pairs).mem = s.mem := by
  unfold State.healPins; split <;> rfl

/-- Bytes written at places, whatever stands there. -/
theorem wf_writePlaces {s : State} (h : Memory.wf s.mem = true) (r : Req) (ps : List Place) (bs : List Byte) :
    Memory.wf (s.writePlaces r ps bs).mem = true := by
  have h1 : ∀ (pairs : List (Place × Byte)) (t : State), Memory.wf t.mem = true →
      Memory.wf (pairs.foldl (fun (s : State) e => match e.1 with
        | .cached c => s.writeHeld r c e.2
        | _ => s) t).mem = true :=
    fun pairs t ht => foldl_wf (fun s e hs => by
      split
      · rw [writeHeld_mem]; exact hs
      · exact hs) pairs ht
  simp only [State.writePlaces, sendRemote_mem]
  refine wf_writeMx (wf_writeHome (h1 _ _ ?_) _ _) _ _
  show Memory.wf (State.healPins _ _).mem = true
  rw [healPins_mem, recordDrops_mem]
  exact h

/-- Errors that a walk has met change no byte. -/
@[simp] theorem meetGranules_mem (s : State) (r : Req) (gs : List Nat) : (s.meetGranules r gs).mem = s.mem := by
  unfold State.meetGranules
  induction gs generalizing s with
  | nil => rfl
  | cons g gs ih => rw [List.foldl_cons, ih, memoryError_mem]

@[simp] theorem meetTable_mem (s : State) (ld : Fin 4) (asn : Asn) (va reason : Nat) : (s.meetTable ld asn va reason).mem = s.mem := by
  unfold State.meetTable; split <;> simp

@[simp] theorem parkLine_mem (s : State) (l : CacheLine) (why : Nat) : (s.parkLine l why).mem = s.mem := by
  simp [State.parkLine]

/-- A line given up writes its dirty bytes back. -/
theorem wf_evict {s : State} (h : Memory.wf s.mem = true) (l : CacheLine) : Memory.wf (s.evict l).mem = true := by
  simp only [State.evict, State.mapLine]
  repeat' split
  · exact h
  · exact h
  · rw [parkLine_mem]; exact h
  · apply wf_writeHome
    exact h

end Sys2Proof.Machine
end

