-- ==== Sys2Proof/Laws/Wide.lean ====
section
/-! SUPPORT. Wide words: what their checks, reads and writes answer, and the one lemma about the short ones. -/

namespace Sys2Proof.Machine

open Sys2Proof

theorem armedSpan_plain {grp : Group} {o : VOp} (h : grp.streamOf o.r = none) : grp.armedSpan o = false := by
  simp [Group.armedSpan, h]

theorem wrongWay_plain {grp : Group} {o : VOp} (h : grp.streamOf o.r = none) : grp.wrongWay o = false := by
  simp [Group.wrongWay, h]

/-- An operand's first register is among its registers. -/
theorem first_mem_names {o : VOp} (h : 0 < o.width) : o.r ∈ o.names := by
  simp only [VOp.names, List.mem_map, List.mem_range]
  exact ⟨0, h, rfl⟩

theorem spanLen_pos (w : Span) : 0 < spanLen w := by cases w <;> decide

/-- The checks of a wide word pass. -/
theorem wideChecks_ok {s : State} {g : GroupId} {grp : Group} {slices : BitVec 8} {srcs dsts both : List VOp}
    (h : WideReady grp slices srcs dsts both) (hw : ∀ o ∈ srcs ++ dsts ++ both, 0 < o.width) :
    wideChecks s g grp slices srcs dsts both = .ok () := by
  obtain ⟨rfl, h1, h2, h3, ha, h4⟩ := h
  have hf : ∀ o ∈ srcs ++ dsts ++ both, grp.streamOf o.r = none := fun o ho =>
    h2 _ (List.mem_flatMap.mpr ⟨o, ho, first_mem_names (hw o ho)⟩)
  have e1 : (srcs ++ dsts ++ both).all grp.wideOk = true := by simpa only [List.all_eq_true] using h1
  have e2 : (srcs ++ dsts).any grp.wrongWay = false := by
    simp only [List.any_eq_false]
    intro o ho
    simp [wrongWay_plain (hf o (List.mem_append_left _ ho))]
  have e3 : both.any grp.armedSpan = false := by
    simp only [List.any_eq_false]
    intro o ho
    simp [armedSpan_plain (hf o (List.mem_append_right _ ho))]
  have p1 : ∀ r ∈ (srcs ++ both).flatMap VOp.names, grp.streamOf r = none := by
    intro r hr
    obtain ⟨o, ho, hr⟩ := List.mem_flatMap.mp hr
    refine h2 r (List.mem_flatMap.mpr ⟨o, ?_, hr⟩)
    simp only [List.mem_append] at ho ⊢
    rcases ho with ho | ho
    · exact .inl (.inl ho)
    · exact .inr ho
  have p2 : ∀ r ∈ (srcs ++ dsts).flatMap VOp.names, grp.streamOf r = none := by
    intro r hr
    obtain ⟨o, ho, hr⟩ := List.mem_flatMap.mp hr
    exact h2 r (List.mem_flatMap.mpr ⟨o, List.mem_append_left _ ho, hr⟩)
  have e4 : checkPoison s grp (grp.ordinary 0xFF (srcs ++ both)) (BitVec.allOnes 32) = .ok () := by
    apply checkPoison_ok
    rw [ordinary_plain p1]
    intro e he
    obtain ⟨r, hr, rfl⟩ := List.mem_map.mp he
    exact h4 r hr
  simp only [wideChecks, e1, require_true, requireGang_whole, Except.ok_bind', e2, e3, Bool.not_false, Bool.and_self,
    checkPromise_ok h3, checkArrived_ok ha, e4, checkStreams_ok p2]

/-- A span of no armed stream read. -/
theorem readSpan_plain {s : State} {g : GroupId} {grp : Group} (hg : s.group? g = some grp) (slices : BitVec 8) {r n : Nat}
    (hn : 0 < n) (h : ∀ i, i < n → grp.streamOf (r + i) = none) :
    readSpan s g slices r n = .ok (s, s.spanValue grp slices r n) := by
  have h1 : ∀ q ∈ (List.range n).map (fun i => r + i), grp.streamOf q = none := by
    intro q hq
    obtain ⟨i, hi, rfl⟩ := List.mem_map.mp hq
    exact h i (List.mem_range.mp hi)
  have h0 : grp.streamOf r = none := by simpa using h 0 hn
  simp [readSpan, readLanes_plain hg slices h1, hg, h0, State.spanValue, List.map_map, Function.comp_def]

/-- Wide sources of no armed streams read. -/
theorem readWide_plain {s : State} {g : GroupId} {grp : Group} (hg : s.group? g = some grp) (slices : BitVec 8)
    {es : List (Nat × Nat)} (hn : ∀ e ∈ es, 0 < e.2) (h : ∀ e ∈ es, ∀ i, i < e.2 → grp.streamOf (e.1 + i) = none) :
    readWide s g slices es = .ok (s, es.map fun e => s.spanValue grp slices e.1 e.2) := by
  induction es with
  | nil => rfl
  | cons e rest ih =>
    obtain ⟨r, n⟩ := e
    have h1 := readSpan_plain hg slices (hn (r, n) (by simp)) (h (r, n) (by simp))
    have h2 := ih (fun e he => hn e (by simp [he])) fun e he => h e (by simp [he])
    simp [readWide, h1, h2]

@[simp] theorem Group.setTag_lead (grp : Group) (slices sl : BitVec 8) (r e : Nat) :
    (grp.setTag slices r e).lead sl = grp.lead sl := by
  unfold Group.setTag; split <;> rfl

/-- Spans of no armed streams written. -/
theorem writeWide_plain {s : State} {g : GroupId} {grp : Group} (slices : BitVec 8) {ws : List (Nat × Nat × Int)}
    (h : ∀ e ∈ ws, ∀ i, i < e.2.1 → grp.streamOf (e.1 + i) = none) :
    writeWide (s.setGroup g grp) g slices ws = .ok (s.setGroup g (grp.putSpans slices ws)) := by
  have h1 : ∀ w ∈ ws.flatMap (fun e => ((List.range e.2.1).map fun i => e.1 + i).zip (natRegs e.2.1 (pattern e.2.1 e.2.2))),
      grp.streamOf w.1 = none := by
    intro w hw
    obtain ⟨e, he, hw⟩ := List.mem_flatMap.mp hw
    obtain ⟨i, hi, hi'⟩ := List.mem_map.mp (fst_mem_of_zip hw)
    rw [← hi']
    exact h e he i (List.mem_range.mp hi)
  simp only [writeWide, writeLanes_plain slices _ h1, Except.ok_bind', State.group?_setGroup, State.setGroup_setGroup,
    Except.pure_ok]
  rfl

@[simp] theorem Group.putSpans_slices (grp : Group) (slices : BitVec 8) (ws : List (Nat × Nat × Int)) :
    (grp.putSpans slices ws).slices = grp.slices := by
  unfold Group.putSpans
  generalize hx : grp.writeAll slices (BitVec.allOnes 32) _ = x
  have h0 : x.slices = grp.slices := by rw [← hx, Group.writeAll_slices]
  rw [← h0]
  clear hx h0
  induction ws generalizing x with
  | nil => rfl
  | cons w ws ih =>
    rw [List.foldl_cons, ih]
    unfold Group.setTag; split <;> rfl

theorem Group.writeAll_port (grp : Group) (slices : BitVec 8) (lanes : LaneMask) (ws : List (Nat × VReg)) (r : Fin 64) :
    (grp.writeAll slices lanes ws).port r = grp.port r := by
  induction ws generalizing grp with
  | nil => rfl
  | cons w ws ih => rw [Group.writeAll_cons, ih]; rfl

theorem Group.putSpans_port (grp : Group) (slices : BitVec 8) (ws : List (Nat × Nat × Int)) (r : Fin 64) :
    (grp.putSpans slices ws).port r = grp.port r := by
  unfold Group.putSpans
  generalize hx : grp.writeAll slices (BitVec.allOnes 32) _ = x
  have h0 : x.port r = grp.port r := by rw [← hx, Group.writeAll_port]
  rw [← h0]
  clear hx h0
  induction ws generalizing x with
  | nil => rfl
  | cons w ws ih =>
    rw [List.foldl_cons, ih]
    unfold Group.setTag; split <;> rfl

/-- A wide word ends with no enabled flag raised: the group takes all its results but PIX. -/
theorem finishWide_plain {s0 s : State} {g : GroupId} {slices : BitVec 8} {grp : Group} (hi : Issues s g slices grp)
    {out : WideOut} (h : ∀ e ∈ out.writes, ∀ i, i < e.2.1 → grp.streamOf (e.1 + i) = none)
    (hs : ∀ r x, out.sreg = some (r, x) → grp.port r = none) (hq : out.allFlags &&& grp.enables = 0) :
    (do let s2 ← finishWide s0 s g slices grp.enables out; return (s2.setPix g 0).advance : Except Stop State) =
      .ok (s.doneWith g slices (grp.afterWide slices out)) := by
  have h' : ∀ e ∈ out.writes, ∀ i, i < e.2.1 → (grp.raise out.allFlags).streamOf (e.1 + i) = none := h
  simp only [finishWide, firstEnabled_none hq, hi.here, writeWide_plain slices h', Except.ok_bind', State.group?_setGroup]
  have hport : ∀ r x, out.sreg = some (r, x) → ((grp.raise out.allFlags).putSpans slices out.writes).port r = none := by
    intro r x hr
    rw [Group.putSpans_port]
    exact hs r x hr
  obtain ⟨writes, flags, wcf, sreg, cond⟩ := out
  rcases sreg with _ | ⟨r, x⟩
  · rcases wcf with _ | c <;> rcases cond with _ | ⟨k, b⟩ <;>
      simp only [State.group?_setGroup, State.setGroup_setGroup, Except.pure_ok, Except.ok_bind', State.setPix,
        advance_gang hi.cur, Group.afterWide]
  · have hp := hport r x rfl
    have hu : ∀ y : Group, y.port r = none → (s.setGroup g y).writeUniform r x = s.setGroup g (y.writeS r x) := by
      intro y hy
      simp [State.writeUniform, hi.cur, hy]
    rcases wcf with _ | c <;> rcases cond with _ | ⟨k, b⟩ <;>
      (simp only [State.group?_setGroup, State.setGroup_setGroup, Except.pure_ok, Except.ok_bind', Group.afterWide]
       rw [hu]
       · simp only [State.setPix, State.group?_setGroup, State.setGroup_setGroup, advance_gang hi.cur]
       · exact hp)

/-- The one lemma about `wideShort` on operands that let it act. -/
theorem wideShort_gives {s : State} {g : GroupId} {slices : BitVec 8} {grp : Group} (hi : Issues s g slices grp)
    {srcs dsts both : List WSrc} {uses udst : List (Fin 64)} {f : Group → List Int → List DWord → WideOut} {out : WideOut}
    (hf : f grp (((srcs ++ both).flatMap WSrc.spans).map fun e => s.spanValue grp slices e.1 e.2) (uses.map s.readU) = out)
    (hr : WideReady grp slices (srcs.map (·.op false)) (dsts.map (·.op true)) (both.map (·.op false)))
    (hu : s.uniformReady uses udst) (hw : ∀ w ∈ srcs ++ dsts ++ both, 0 < w.halves ∧ 0 < w.n)
    (hws : ∀ e ∈ out.writes, ∀ i, i < e.2.1 → grp.streamOf (e.1 + i) = none)
    (hs : ∀ r x, out.sreg = some (r, x) → r ∈ udst) (hq : out.allFlags &&& grp.enables = 0) :
    wideShort s srcs dsts both uses udst f = .next (s.doneWith g slices (grp.afterWide slices out)) := by
  have hpos : ∀ o ∈ srcs.map (·.op false) ++ dsts.map (·.op true) ++ both.map (·.op false), 0 < o.width := by
    intro o ho
    simp only [List.mem_append, List.mem_map] at ho
    rcases ho with (⟨w, hw', rfl⟩ | ⟨w, hw', rfl⟩) | ⟨w, hw', rfl⟩ <;>
      (have := hw w (by simp [hw']); exact Nat.mul_pos this.1 this.2)
  have hspan : ∀ e ∈ (srcs ++ both).flatMap WSrc.spans, 0 < e.2 ∧ ∀ i, i < e.2 → grp.streamOf (e.1 + i) = none := by
    intro e he
    obtain ⟨w, hw', he⟩ := List.mem_flatMap.mp he
    obtain ⟨j, hj, rfl⟩ := List.mem_map.mp he
    have hj := List.mem_range.mp hj
    have hpw := hw w (by simp only [List.mem_append] at hw' ⊢; rcases hw' with h | h <;> simp [h])
    refine ⟨hpw.2, fun i hi' => hr.plain _ (List.mem_flatMap.mpr ⟨w.op false, ?_, ?_⟩)⟩
    · simp only [List.mem_append, List.mem_map] at hw' ⊢
      rcases hw' with h | h
      · exact .inl (.inl ⟨w, h, rfl⟩)
      · exact .inr ⟨w, h, rfl⟩
    · simp only [VOp.names, WSrc.op, List.mem_map, List.mem_range]
      refine ⟨j * w.n + i, ?_, by omega⟩
      have : (j + 1) * w.n ≤ w.halves * w.n := Nat.mul_le_mul_right _ hj
      rw [Nat.add_mul] at this
      simp only at hi'
      omega
  have hp : ∀ r x, out.sreg = some (r, x) → grp.port r = none := fun r x h =>
    uniformReady_gang hi hu r (List.mem_append_right _ (hs r x h))
  refine onGang_ok hi ?_
  simp only [wideChecks_ok hr hpos, Except.ok_bind', uniformSources_plain hu, commitPops_nil,
    readWide_plain hi.here slices (fun e he => (hspan e he).1) (fun e he => (hspan e he).2), hf]
  exact finishWide_plain hi hws hp hq

/-! ### Sequenced words -/

@[simp] theorem State.group?_mapSeqs (s : State) (g : GroupId) (f : List WideSeq → List WideSeq) (h : GroupId) :
    (s.mapSeqs g f).group? h = s.group? h := rfl

@[simp] theorem State.fetched_mapSeqs (s : State) (g : GroupId) (f : List WideSeq → List WideSeq) :
    (s.mapSeqs g f).fetched = s.fetched := rfl

theorem State.setGroup_mapSeqs (s : State) (g : GroupId) (f : List WideSeq → List WideSeq) (x y : Group) :
    ((s.setGroup g x).mapSeqs g f).setGroup g y = (s.mapSeqs g f).setGroup g y := by
  simp [State.mapSeqs, State.setGroup, State.setCluster, State.cluster]

/-- The one lemma about `wideSequenced` on operands that let it act. -/
theorem wideSequenced_gives {s : State} {g : GroupId} {slices : BitVec 8} {grp : Group} (hi : Issues s g slices grp)
    {i : Instr} {srcs dsts : List WSrc} {uses : List (Fin 64)} {more : GroupId → Group → List DWord → Except Stop Unit}
    {total : List Int → List DWord → Nat}
    (hw : ∀ w ∈ srcs ++ dsts, 0 < w.halves ∧ 0 < w.n) :
    (WideReady grp slices (srcs.map (·.op false)) (dsts.map (·.op true)) [] → s.stoppedSeq g (grp.lead slices).pc = none → s.uniformReady uses [] → more g grp (uses.map s.readU) = .ok () →
      wideSequenced s i srcs dsts uses more total = .next (s.inSequencer g slices { grp with pix := 0 } fun q => q ++
        [{ g := g, pc := (grp.lead slices).pc, instr := i, vals := (srcs.flatMap WSrc.spans).map fun e => s.spanValue grp slices e.1 e.2,
           s := (uses.map s.readU).headD 0, enables := grp.enables, reads := [], steps := 0,
           total := total ((srcs.flatMap WSrc.spans).map fun e => s.spanValue grp slices e.1 e.2) (uses.map s.readU),
           stopped := false }])) ∧
    ∀ w, s.stoppedSeq g (grp.lead slices).pc = some w →
      wideSequenced s i srcs dsts uses more total =
        .next (s.inSequencer g slices grp fun q => q.filter (fun x => x != w) ++ [{ w with stopped := false }]) := by
  constructor
  · intro hr hn hu hm
    have hpos : ∀ o ∈ srcs.map (·.op false) ++ dsts.map (·.op true) ++ [], 0 < o.width := by
      intro o ho
      simp only [List.append_nil, List.mem_append, List.mem_map] at ho
      rcases ho with ⟨w, hw', rfl⟩ | ⟨w, hw', rfl⟩ <;>
        (have := hw w (by simp [hw']); exact Nat.mul_pos this.1 this.2)
    have hspan : ∀ e ∈ srcs.flatMap WSrc.spans, 0 < e.2 ∧ ∀ i, i < e.2 → grp.streamOf (e.1 + i) = none := by
      intro e he
      obtain ⟨w, hw', he⟩ := List.mem_flatMap.mp he
      obtain ⟨j, hj, rfl⟩ := List.mem_map.mp he
      have hj := List.mem_range.mp hj
      have hpw := hw w (by simp [hw'])
      refine ⟨hpw.2, fun i hi' => hr.plain _ (List.mem_flatMap.mpr ⟨w.op false, ?_, ?_⟩)⟩
      · simp only [List.append_nil, List.mem_append, List.mem_map]
        exact .inl ⟨w, hw', rfl⟩
      · simp only [VOp.names, WSrc.op, List.mem_map, List.mem_range]
        refine ⟨j * w.n + i, ?_, by omega⟩
        have : (j + 1) * w.n ≤ w.halves * w.n := Nat.mul_le_mul_right _ hj
        rw [Nat.add_mul] at this
        simp only at hi'
        omega
    have hst : grp.streamsOf (srcs.map fun w => w.op false) = [] := by
      simp only [Group.streamsOf, List.filterMap_eq_nil_iff]
      intro r hr'
      obtain ⟨o, ho, hnm⟩ := List.mem_flatMap.mp hr'
      exact hr.plain _ (List.mem_flatMap.mpr ⟨o, by simp only [List.append_nil, List.mem_append]; exact .inl ho, hnm⟩)
    refine onGang_ok hi ?_
    simp only [hn, hst, wideChecks_ok hr hpos, Except.ok_bind', uniformSources_plain hu, hm,
      readWide_plain hi.here slices (fun e he => (hspan e he).1) (fun e he => (hspan e he).2), commitPops_nil, State.setPix,
      hi.here, State.group?_mapSeqs, State.group?_setGroup, State.fetched_mapSeqs, State.setGroup_fetched, Except.pure_ok,
      State.setGroup_mapSeqs]
    rfl
  · intro w hw
    refine onGang_ok hi ?_
    simp only [hw, State.group?_mapSeqs, hi.here, State.fetched_mapSeqs, Except.pure_ok]
    rfl

end Sys2Proof.Machine
end

