-- ==== Sys2Proof/Tests/Slice0.lean ====
section
/-! SUPPORT. Tests of the model on fixed values and witnesses of the statements' hypotheses. Expected words are written from
the encoding tables of 07 and the fixed bits of spec/opcode_table.json; expected results are worked by hand from the rules. -/

namespace Sys2Proof.Tests

open Sys2Proof.Machine

set_option maxRecDepth 100000

/-! ### Decoding: a word of every word constructor -/

/-- A word, the literal data word after it, and the instruction and shared fields it stands for. -/
abbrev DecodeCase := Nat × Word × Instr × Issue

/-- The word decodes to the instruction, and the encoder gives the word back. -/
def DecodeCase.ok (x : DecodeCase) : Bool :=
  let w := BitVec.ofNat 32 x.1
  match decodeWords w x.2.1 with
  | .ok (i, q, n) => i == x.2.2.1 && q == x.2.2.2 && i.wf && (encode i q == some (if n = 2 then [w, x.2.1] else [w]))
  | .error _ => false

/-- Words of the lane families from the opcode table's fixed bits and fields, part 1. -/
def laneWords1 : List DecodeCase := [
  (0x01A6AA10, 0, .iadd ⟨true, 2, 26, 42, 4⟩, ⟨false, 0, 0⟩),
  (0x013984ED, 0, .iaddSat ⟨false, 3, 38, 4, 59⟩, ⟨false, 0, 0⟩),
  (0x01171B16, 0, .iaddSatN32 ⟨false, 1, 28, 27, 5⟩, ⟨false, 0, 0⟩),
  (0x025704D4, 0, .isub ⟨false, 5, 28, 4, 53⟩, ⟨false, 0, 0⟩),
  (0x026A66F5, 0, .isubSat ⟨false, 6, 41, 38, 61⟩, ⟨false, 0, 0⟩),
  (0x029FCF0E, 0, .isubSatN32 ⟨true, 1, 63, 15, 3⟩, ⟨false, 0, 0⟩),
  (0x43C2A320, 0, .imul ⟨true, 4, 10, 35, 8⟩, ⟨true, 0, 0⟩),
  (0x0319A5A5, 0, .imulHi ⟨false, 1, 38, 37, 41⟩, ⟨false, 0, 0⟩),
  (0x03992E16, 0, .imulHiN32 ⟨true, 1, 36, 46, 5⟩, ⟨false, 0, 0⟩),
  (0x444B2370, 0, .imad ⟨false, 4, 44, 35, 28⟩, ⟨true, 0, 0⟩),
  (0x45DF1E60, 0, .idivI32 ⟨true, 5, 60, 30, 24⟩, ⟨true, 0, 0⟩),
  (0x05732DC9, 0, .idivN32 ⟨false, 7, 12, 45, 50⟩, ⟨false, 0, 0⟩),
  (0x45552282, 0, .iremI32 ⟨false, 5, 20, 34, 32⟩, ⟨true, 0, 0⟩),
  (0x05B9FF17, 0, .iremN32 ⟨true, 3, 39, 63, 5⟩, ⟨false, 0, 0⟩),
  (0x46AC5628, 0, .iminI32 ⟨true, 2, 49, 22, 10⟩, ⟨true, 0, 0⟩),
  (0x469FAB15, 0, .iminN32 ⟨true, 1, 62, 43, 5⟩, ⟨true, 0, 0⟩),
  (0x46E5E782, 0, .imaxI32 ⟨true, 6, 23, 39, 32⟩, ⟨true, 0, 0⟩),
  (0x4671BD4B, 0, .imaxN32 ⟨false, 7, 6, 61, 18⟩, ⟨true, 0, 0⟩),
  (0x471BED50, 0, .land ⟨false, 1, 47, 45, 20⟩, ⟨true, 0, 0⟩),
  (0x47E679AD, 0, .lor ⟨true, 6, 25, 57, 43⟩, ⟨true, 0, 0⟩),
  (0x0745CBA2, 0, .lxor ⟨false, 4, 23, 11, 40⟩, ⟨false, 0, 0⟩),
  (0x0793B24F, 0, .landn ⟨true, 1, 14, 50, 19⟩, ⟨false, 0, 0⟩),
  (0x4846BBE0, 0, .ishl ⟨false, 4, 26, 59, 56⟩, ⟨true, 0, 0⟩),
  (0x48275A91, 0, .ishr ⟨false, 2, 29, 26, 36⟩, ⟨true, 0, 0⟩),
  (0x48773892, 0, .isar ⟨false, 7, 28, 56, 36⟩, ⟨true, 0, 0⟩),
  (0x08BB3967, 0, .irot ⟨true, 3, 44, 57, 25⟩, ⟨false, 0, 0⟩),
  (0x09130A00, 0, .popc ⟨false, 1, 12, 10⟩, ⟨false, 0, 0⟩),
  (0x09183601, 0, .clz ⟨false, 1, 32, 54⟩, ⟨false, 0, 0⟩),
  (0x49B04A02, 0, .ctz ⟨true, 3, 1, 10⟩, ⟨true, 0, 0⟩),
  (0x09D95503, 0, .brev ⟨true, 5, 37, 21⟩, ⟨false, 0, 0⟩)]

theorem test_decode_lane_1 : laneWords1.all DecodeCase.ok = true := by decide

/-- Words of the lane families from the opcode table's fixed bits and fields, part 2. -/
def laneWords2 : List DecodeCase := [
  (0x4A4B1A68, 0, .icmpI32 ⟨false, 4, .ge, 4, 26, 26⟩, ⟨true, 0, 0⟩),
  (0x0A484D15, 0, .icmpN32 ⟨false, 4, .gt, 1, 13, 5⟩, ⟨false, 0, 0⟩),
  (0x0BA2169C, 0, .sel ⟨true, 2, 8, 22, 39⟩, ⟨false, 0, 0⟩),
  (0x0C194A8C, 0, .bfxN32 ⟨false, 1, 37, 10, 35⟩, ⟨false, 0, 0⟩),
  (0x0CD085E1, 0, .bfxI32 ⟨true, 5, 2, 5, 56⟩, ⟨false, 0, 0⟩),
  (0x4CAA51FA, 0, .bfi ⟨true, 2, 41, 17, 62⟩, ⟨true, 0, 0⟩),
  (0x4DC208DC, 0, .addmod ⟨true, 4, 8, 8, 55⟩, ⟨true, 0, 0⟩),
  (0x0DC7D419, 0, .submod ⟨true, 4, 31, 20, 6⟩, ⟨false, 0, 0⟩),
  (0x4D65B046, 0, .mulmod ⟨false, 6, 22, 48, 17⟩, ⟨true, 0, 0⟩),
  (0x4E508EF4, 0, .iaddi ⟨false, 5, 2, 14, 0xf4⟩, ⟨true, 0, 0⟩),
  (0x4F68FB01, 0, .ishli ⟨false, 6, 35, 59, 1⟩, ⟨true, 0, 0⟩),
  (0x4F6DD151, 0, .ishri ⟨false, 6, 55, 17, 17⟩, ⟨true, 0, 0⟩),
  (0x4F3C8F92, 0, .isari ⟨false, 3, 50, 15, 18⟩, ⟨true, 0, 0⟩),
  (0x0F5D33D9, 0, .iroti ⟨false, 5, 52, 51, 25⟩, ⟨false, 0, 0⟩),
  (0x1076AF5B, 0, .imovi ⟨false, 7, 26, 0x2f5b⟩, ⟨false, 0, 0⟩),
  (0x115817BC, 0, .fadd ⟨false, 5, 32, 23, 47⟩, ⟨false, 0, 0⟩),
  (0x11749F45, 0, .fsub ⟨false, 7, 18, 31, 17⟩, ⟨false, 0, 0⟩),
  (0x52CD3CBC, 0, .fmul ⟨true, 4, 52, 60, 47⟩, ⟨true, 0, 0⟩),
  (0x5393C73C, 0, .ffma ⟨true, 1, 15, 7, 15⟩, ⟨true, 0, 0⟩),
  (0x14339FA0, 0, .fmin ⟨false, 3, 14, 31, 40⟩, ⟨false, 0, 0⟩),
  (0x14E5F4A9, 0, .fmax ⟨true, 6, 23, 52, 42⟩, ⟨false, 0, 0⟩),
  (0x144CEEC6, 0, .fscl ⟨false, 4, 51, 46, 49⟩, ⟨false, 0, 0⟩),
  (0x55ACC6D0, 0, .fcmp ⟨true, 2, .un, 3, 6, 52⟩, ⟨true, 0, 0⟩),
  (0x16CC3D00, 0, .fabs ⟨true, 4, 48, 61⟩, ⟨false, 0, 0⟩),
  (0x16224204, 0, .fneg ⟨false, 2, 9, 2⟩, ⟨false, 0, 0⟩),
  (0x56FA8A08, 0, .frcp ⟨true, 7, 42, 10⟩, ⟨true, 0, 0⟩),
  (0x16A9240C, 0, .frsq ⟨true, 2, 36, 36⟩, ⟨false, 0, 0⟩),
  (0x161D3F10, 0, .fsqrt ⟨false, 1, 52, 63⟩, ⟨false, 0, 0⟩),
  (0x164E0D14, 0, .fexp2 ⟨false, 4, 56, 13⟩, ⟨false, 0, 0⟩),
  (0x16339318, 0, .flog2 ⟨false, 3, 14, 19⟩, ⟨false, 0, 0⟩)]

theorem test_decode_lane_2 : laneWords2.all DecodeCase.ok = true := by decide

/-- Words of the lane families from the opcode table's fixed bits and fields, part 3. -/
def laneWords3 : List DecodeCase := [
  (0x16B8DB1C, 0, .fclass ⟨true, 3, 35, 27⟩, ⟨false, 0, 0⟩),
  (0x5665FA20, 0, .frint ⟨false, 6, 23, 58⟩, ⟨true, 0, 0⟩),
  (0x17FEF984, 0, .dpe5 ⟨true, 7, 59, 57, 33⟩, ⟨false, 0, 0⟩),
  (0x575842E1, 0, .dpbf ⟨false, 5, 33, 2, 56⟩, ⟨true, 0, 0⟩),
  (0x175072D2, 0, .dpf8 ⟨false, 5, 1, 50, 52⟩, ⟨false, 0, 0⟩),
  (0x1727E8BF, 0, .dpf4 ⟨false, 2, 31, 40, 47⟩, ⟨false, 0, 0⟩),
  (0x583B2288, 0, .dadd ⟨false, 3, 44, 34, 34⟩, ⟨true, 0, 0⟩),
  (0x58511035, 0, .dsub ⟨false, 5, 4, 16, 13⟩, ⟨true, 0, 0⟩),
  (0x1971E174, 0, .dmul ⟨false, 7, 7, 33, 29⟩, ⟨false, 0, 0⟩),
  (0x1A4568FC, 0, .dfma ⟨false, 4, 21, 40, 63⟩, ⟨false, 0, 0⟩),
  (0x1BCBDF84, 0, .dcmp ⟨true, 4, .ge, 7, 31, 33⟩, ⟨false, 0, 0⟩),
  (0x1CDEBD1B, 0, .cvt ⟨true, 5, 58, 61, .f64I32, .rup⟩, ⟨false, 0, 0⟩),
  (0x1D969D08, 0, .pack8 ⟨true, 1, 26, 29, 2⟩, ⟨false, 0, 0⟩),
  (0x5E414E18, 0, .pack4 ⟨false, 4, 5, 14, 6⟩, ⟨true, 0, 0⟩),
  (0x5F72BDB8, 0, .dpi8I8 ⟨false, 7, 10, 61, 46⟩, ⟨true, 0, 0⟩),
  (0x5F3E49F9, 0, .dpi8N8 ⟨false, 3, 57, 9, 62⟩, ⟨true, 0, 0⟩),
  (0x5F6F476A, 0, .dpi4I4 ⟨false, 6, 61, 7, 26⟩, ⟨true, 0, 0⟩),
  (0x5F6D8F2F, 0, .dpi4N4 ⟨false, 6, 54, 15, 11⟩, ⟨true, 0, 0⟩),
  (0x2056966C, 0, .shflIdx ⟨5, 26, 22, 27⟩, ⟨false, 0, 0⟩),
  (0x603546BD, 0, .shflUp ⟨3, 21, 6, 47⟩, ⟨true, 0, 0⟩),
  (0x6015A47A, 0, .shflDown ⟨1, 22, 36, 30⟩, ⟨true, 0, 0⟩),
  (0x6060995B, 0, .shflXor ⟨6, 2, 25, 22⟩, ⟨true, 0, 0⟩),
  (0x215F8500, 0, .redadd ⟨5, 62, 5⟩, ⟨false, 0, 0⟩),
  (0x2173FF01, 0, .redmin ⟨7, 15, 63⟩, ⟨false, 0, 0⟩),
  (0x21145202, 0, .redmax ⟨1, 17, 18⟩, ⟨false, 0, 0⟩),
  (0x21731203, 0, .redminn ⟨7, 12, 18⟩, ⟨false, 0, 0⟩),
  (0x62773700, 0, .minxI32 ⟨7, 28, 55⟩, ⟨true, 0, 0⟩),
  (0x6242A301, 0, .minxN32 ⟨4, 10, 35⟩, ⟨true, 0, 0⟩),
  (0x62654602, 0, .maxxI32 ⟨6, 21, 6⟩, ⟨true, 0, 0⟩),
  (0x221D2D03, 0, .maxxN32 ⟨1, 52, 45⟩, ⟨false, 0, 0⟩)]

theorem test_decode_lane_3 : laneWords3.all DecodeCase.ok = true := by decide

/-- Words of the lane families from the opcode table's fixed bits and fields, part 4. -/
def laneWords4 : List DecodeCase := [
  (0x634E8500, 0, .scanAdd ⟨4, 58, 5⟩, ⟨true, 0, 0⟩),
  (0x631A4601, 0, .scanXadd ⟨1, 41, 6⟩, ⟨true, 0, 0⟩),
  (0x2319F702, 0, .scanMax ⟨1, 39, 55⟩, ⟨false, 0, 0⟩),
  (0x23147803, 0, .scanMin ⟨1, 17, 56⟩, ⟨false, 0, 0⟩),
  (0x64404300, 0, .voteBallot ⟨4, 1, 3⟩, ⟨true, 0, 0⟩),
  (0x24314201, 0, .voteAny ⟨3, 5, 2⟩, ⟨false, 0, 0⟩),
  (0x24518202, 0, .voteAll ⟨5, 6, 2⟩, ⟨false, 0, 0⟩),
  (0x25244400, 0, .bcast ⟨2, 17, 4⟩, ⟨false, 0, 0⟩),
  (0x652F1455, 0, .vget ⟨2, 60, 20, 21⟩, ⟨true, 0, 0⟩),
  (0x255C4002, 0, .lidx ⟨5, 49⟩, ⟨false, 0, 0⟩),
  (0x26310518, 0, .pand ⟨3, 4, 5, 6⟩, ⟨false, 0, 0⟩),
  (0x6630C705, 0, .por ⟨3, 3, 7, 1⟩, ⟨true, 0, 0⟩),
  (0x2610411A, 0, .pxor ⟨1, 1, 1, 6⟩, ⟨false, 0, 0⟩),
  (0x26510213, 0, .pandn ⟨5, 4, 2, 4⟩, ⟨false, 0, 0⟩),
  (0x676D6A00, 0, .vtrp ⟨6, 53, 42⟩, ⟨true, 0, 0⟩)]

theorem test_decode_lane_4 : laneWords4.all DecodeCase.ok = true := by decide

/-- Words of the wide families from the opcode table's fixed bits and fields, part 1. -/
def wideWords1 : List DecodeCase := [
  (0x682823D8, 0, .wadd ⟨.w4, 32, 35, 54⟩, ⟨true, 0, 0⟩),
  (0x28252D39, 0, .wadc ⟨.w4, 20, 45, 14⟩, ⟨false, 0, 0⟩),
  (0x291376E4, 0, .wsub ⟨.w2, 13, 54, 57⟩, ⟨false, 0, 0⟩),
  (0x2915FF11, 0, .wsbb ⟨.w2, 23, 63, 4⟩, ⟨false, 0, 0⟩),
  (0x6A0169C0, 0, .wand ⟨.w1, 5, 41, 48⟩, ⟨true, 0, 0⟩),
  (0x6A12C419, 0, .wor ⟨.w2, 11, 4, 6⟩, ⟨true, 0, 0⟩),
  (0x2A2AFF4E, 0, .wxor ⟨.w4, 43, 63, 19⟩, ⟨false, 0, 0⟩),
  (0x2A24C37B, 0, .wandn ⟨.w4, 19, 3, 30⟩, ⟨false, 0, 0⟩),
  (0x6B049D04, 0, .wshl ⟨.w1, 18, 29, 1⟩, ⟨true, 0, 0⟩),
  (0x6B1F96FD, 0, .wshr ⟨.w2, 62, 22, 63⟩, ⟨true, 0, 0⟩),
  (0x6B00FEE6, 0, .wsar ⟨.w1, 3, 62, 57⟩, ⟨true, 0, 0⟩),
  (0x6C05CC04, 0, .wmuls ⟨.w1, 23, 12, 1⟩, ⟨true, 0, 0⟩),
  (0x2C119F49, 0, .wmads ⟨.w2, 6, 31, 18⟩, ⟨false, 0, 0⟩),
  (0x2D087204, 0, .wdivs ⟨.w1, 33, 50, 1⟩, ⟨false, 0, 0⟩),
  (0x6E1D4628, 0, .wdiv ⟨.w2, 53, 6, 10⟩, ⟨true, 0, 0⟩),
  (0x2F285450, 0, .wcmpI ⟨.w4, .gt, 1, 20, 20⟩, ⟨false, 0, 0⟩),
  (0x6F0BF129, 0, .wcmpN ⟨.w1, .ge, 7, 49, 10⟩, ⟨true, 0, 0⟩),
  (0x301BE000, 0, .wneg ⟨.w2, 47, 32⟩, ⟨false, 0, 0⟩),
  (0x301BE804, 0, .wnot ⟨.w2, 47, 40⟩, ⟨false, 0, 0⟩),
  (0x700D7608, 0, .wabs ⟨.w1, 53, 54⟩, ⟨true, 0, 0⟩),
  (0x302B740C, 0, .wnorm ⟨.w4, 45, 52⟩, ⟨false, 0, 0⟩),
  (0x302C6110, 0, .wclz ⟨.w4, 49, 33⟩, ⟨false, 0, 0⟩),
  (0x3029B414, 0, .wpopc ⟨.w4, 38, 52⟩, ⟨false, 0, 0⟩),
  (0x71008300, 0, .wextI ⟨.w1, 2, 3, .w1⟩, ⟨true, 0, 0⟩),
  (0x31067605, 0, .wextN ⟨.w1, 25, 54, .w2⟩, ⟨false, 0, 0⟩),
  (0x3220A91F, 0, .wgetl ⟨.w4, 2, 41, 31⟩, ⟨false, 0, 0⟩),
  (0x33144111, 0, .wsetl ⟨.w2, 17, 1, 17⟩, ⟨false, 0, 0⟩),
  (0x342F05E8, 0, .cres ⟨.w4, 60, 5, 58⟩, ⟨false, 0, 0⟩),
  (0x752885C0, 0, .qadd ⟨.w4, 34, 5, 48⟩, ⟨true, 0, 0⟩),
  (0x751D05DD, 0, .qsub ⟨.w2, 52, 5, 55⟩, ⟨true, 0, 0⟩)]

theorem test_decode_wide_1 : wideWords1.all DecodeCase.ok = true := by decide

/-- Words of the wide families from the opcode table's fixed bits and fields, part 2. -/
def wideWords2 : List DecodeCase := [
  (0x350BF13A, 0, .qmul ⟨.w1, 47, 49, 14⟩, ⟨false, 0, 0⟩),
  (0x752ABF7B, 0, .qdiv ⟨.w4, 42, 63, 30⟩, ⟨true, 0, 0⟩),
  (0x76115F00, 0, .qnorm ⟨.w2, 5, 31⟩, ⟨true, 0, 0⟩),
  (0x360A29A9, 0, .wgcd ⟨.w1, 40, 41, 42⟩, ⟨false, 0, 0⟩)]

theorem test_decode_wide_2 : wideWords2.all DecodeCase.ok = true := by decide

/-- Words of the memory families from the opcode table's fixed bits and fields, part 1. -/
def memoryWords1 : List DecodeCase := [
  (0x3719CACC, 0, .acp ⟨1, 39, 10, true, true, .b128⟩, ⟨false, 0, 0⟩),
  (0x3841205A, 0, .ld ⟨false, 4, 4, 32, 5, .b64, false⟩, ⟨false, 0, 0⟩),
  (0x79BBA257, 0, .lds ⟨true, 3, 46, 34, 5, .i16, true⟩, ⟨true, 0, 0⟩),
  (0x7A535426, 0, .ldi ⟨false, 5, 13, 20, 2, .i16, false⟩, ⟨true, 0, 0⟩),
  (0x7B417509, 0, .st ⟨4, 5, 53, .b32, true⟩, ⟨true, 0, 0⟩),
  (0x3C43BB02, 0, .sts ⟨4, 14, 59, .i8, false⟩, ⟨false, 0, 0⟩),
  (0x7D689162, 0, .ldl ⟨false, 6, 34, 17, 6, .i8⟩, ⟨true, 0, 0⟩),
  (0x7D1B9803, 0, .stl ⟨1, 46, 24, .i8⟩, ⟨true, 0, 0⟩),
  (0x7E468201, 0, .atom ⟨4, 26, 2, 0, .add, true⟩, ⟨true, 0, 0⟩),
  (0x7F452F0D, 0, .atom64 ⟨4, 20, 47, 0, .land, true⟩, ⟨true, 0, 0⟩),
  (0xE3A0CF3A, 0, .sld ⟨40, 12, 15, 58⟩, ⟨true, 0, 0⟩),
  (0xA46FB0AB, 0, .sst ⟨27, 59, 171⟩, ⟨false, 0, 0⟩),
  (0xE5F673ED, 0, .slda ⟨61, 39, 3, 237⟩, ⟨true, 0, 0⟩),
  (0xA610E007, 0, .sstr ⟨4, 14, 7⟩, ⟨false, 0, 0⟩),
  (0xE76C4004, 0, .satom ⟨27, 4, 0, .add, false, true⟩, ⟨true, 0, 0⟩),
  (0xA803A0F8, 0, .qput ⟨58, 3, true, 24⟩, ⟨false, 0, 0⟩),
  (0xA91801A7, 0, .qget ⟨6, 6, true, 7⟩, ⟨false, 0, 0⟩),
  (0xEBA80000, 0, .aseal ⟨42⟩, ⟨true, 0, 0⟩),
  (0xECD98800, 0, .awaitT ⟨54, 24⟩, ⟨true, 0, 0⟩),
  (0xAD74B200, 0, .bxt ⟨29, 11, 2⟩, ⟨false, 0, 0⟩),
  (0xEE192200, 0, .gath ⟨6, 18, 2⟩, ⟨true, 0, 0⟩),
  (0xAF000019, 0, .sarmArm ⟨true, 1⟩, ⟨false, 0, 0⟩),
  (0xEF000004, 0, .sarmDisarm ⟨4⟩, ⟨true, 0, 0⟩)]

theorem test_decode_memory_1 : memoryWords1.all DecodeCase.ok = true := by decide

/-- Words of the uniform families from the opcode table's fixed bits and fields, part 1. -/
def uniformWords1 : List DecodeCase := [
  (0xC0548D80, 0, .sadd ⟨21, 8, 54⟩, ⟨true, 0, 0⟩),
  (0xC0571589, 0, .ssub ⟨21, 49, 22⟩, ⟨true, 1, 0⟩),
  (0x80F7C362, 0, .smul ⟨61, 60, 13⟩, ⟨false, 4, 0⟩),
  (0xC0458173, 0, .smulh ⟨17, 24, 5⟩, ⟨true, 6, 0⟩),
  (0xC0E26174, 0, .smulhn ⟨56, 38, 5⟩, ⟨true, 6, 0⟩),
  (0x80C52DE5, 0, .sdiv ⟨49, 18, 55⟩, ⟨false, 4, 0⟩),
  (0xC01C4D96, 0, .sdivn ⟨7, 4, 54⟩, ⟨true, 2, 0⟩),
  (0xC043F4AF, 0, .srem ⟨16, 63, 18⟩, ⟨true, 5, 0⟩),
  (0xC1372600, 0, .sand ⟨13, 50, 24⟩, ⟨true, 0, 0⟩),
  (0xC1D31A59, 0, .sor ⟨52, 49, 41⟩, ⟨true, 3, 0⟩),
  (0xC1BC613A, 0, .sxor ⟨47, 6, 4⟩, ⟨true, 7, 0⟩),
  (0xC1A3127B, 0, .sandn ⟨40, 49, 9⟩, ⟨true, 7, 0⟩),
  (0x8113BF14, 0, .sshl ⟨4, 59, 60⟩, ⟨false, 2, 0⟩),
  (0xC17DB5A5, 0, .sshr ⟨31, 27, 22⟩, ⟨true, 4, 0⟩),
  (0xC1470C36, 0, .ssar ⟨17, 48, 48⟩, ⟨true, 6, 0⟩),
  (0xC1A90537, 0, .srot ⟨42, 16, 20⟩, ⟨true, 6, 0⟩),
  (0x8220BA88, 0, .smin ⟨8, 11, 42⟩, ⟨false, 1, 0⟩),
  (0xC23A1E99, 0, .smax ⟨14, 33, 58⟩, ⟨true, 3, 0⟩),
  (0xC277B5B2, 0, .sminn ⟨29, 59, 22⟩, ⟨true, 6, 0⟩),
  (0x8226434B, 0, .smaxn ⟨9, 36, 13⟩, ⟨false, 1, 0⟩),
  (0x8231602C, 0, .spopc ⟨12, 22⟩, ⟨false, 5, 0⟩),
  (0xC241801D, 0, .sclz ⟨16, 24⟩, ⟨true, 3, 0⟩),
  (0xC2E42036, 0, .sctz ⟨57, 2⟩, ⟨true, 6, 0⟩),
  (0xC26F0897, 0, .ssel ⟨27, 48, 34, 2⟩, ⟨true, 0, 0⟩),
  (0xC37C4828, 0, .scmpI ⟨.le, 7, 4, 32⟩, ⟨true, 5, 0⟩),
  (0x83B69CC9, 0, .scmpN ⟨.ge, 5, 41, 51⟩, ⟨false, 1, 0⟩),
  (0xC44BA3FA, 0, .saddi ⟨18, 58, 0x3fa⟩, ⟨true, 0, 0⟩),
  (0xC56A954B, 0, .slui ⟨26, 0x2954b⟩, ⟨true, 0, 0⟩),
  (0x86700000, 0xf435a573, .slit ⟨28, 0xf435a573⟩, ⟨false, 0, 0⟩),
  (0x86500001, 0xd9435541, .slith ⟨20, 0xd9435541⟩, ⟨false, 0, 0⟩)]

theorem test_decode_uniform_1 : uniformWords1.all DecodeCase.ok = true := by decide

/-- Words of the uniform families from the opcode table's fixed bits and fields, part 2. -/
def uniformWords2 : List DecodeCase := [
  (0x87D78F90, 0, .sbfx ⟨53, 56, 62⟩, ⟨false, 2, 0⟩),
  (0xC70DCBB9, 0, .sbfxs ⟨3, 28, 46⟩, ⟨true, 7, 0⟩),
  (0xC70456BA, 0, .sbfi ⟨1, 5, 26⟩, ⟨true, 7, 0⟩),
  (0x88087050, 0, .cand ⟨2, 7, 1⟩, ⟨false, 2, 0⟩),
  (0x880851B9, 0, .cor ⟨2, 5, 6⟩, ⟨false, 7, 0⟩),
  (0x880451C2, 0, .cxor ⟨1, 5, 7⟩, ⟨false, 0, 0⟩),
  (0x881C20A3, 0, .candn ⟨7, 2, 2⟩, ⟨false, 4, 0⟩),
  (0xC9F82030, 0, .sbcv ⟨62, 2⟩, ⟨true, 6, 0⟩),
  (0xD0A63596, 0, .bra ⟨5, false, 0x63596⟩, ⟨true, 0, 0⟩),
  (0xD1E02ADA, 0, .call ⟨7, false, 0x2ada⟩, ⟨true, 0, 0⟩),
  (0xD201E028, 0, .jmpr ⟨30⟩, ⟨true, 5, 0⟩),
  (0x9202A039, 0, .ret ⟨42⟩, ⟨false, 7, 0⟩),
  (0x9202201A, 0, .callr ⟨34⟩, ⟨false, 3, 0⟩),
  (0xD3002F5F, 0, .loop ⟨2, 0xf5f⟩, ⟨true, 0, 0⟩),
  (0xD4B80001, 0, .lcnt ⟨46⟩, ⟨true, 0, 0⟩),
  (0xD55E2857, 0, .brp ⟨2, true, 0xe2857⟩, ⟨true, 0, 0⟩),
  (0xD6014C28, 0, .rcv ⟨0x14c28⟩, ⟨true, 0, 0⟩),
  (0xDD0003A6, 0, .bkpt ⟨0x3a6⟩, ⟨true, 0, 0⟩),
  (0xDE000ECE, 0, .trap ⟨0xece⟩, ⟨true, 0, 0⟩),
  (0xA0000400, 0, .bar ⟨4⟩, ⟨false, 0, 0⟩),
  (0xE0000D40, 0, .barProd ⟨13⟩, ⟨true, 0, 0⟩),
  (0xA0000C80, 0, .barCons ⟨12⟩, ⟨false, 0, 0⟩),
  (0xA000E8C0, 0, .barCnt ⟨14, 8⟩, ⟨false, 0, 0⟩),
  (0xF8470000, 0, .stow ⟨17, 48⟩, ⟨true, 0, 0⟩),
  (0xB9F12500, 0, .unstow ⟨60, 18, 5⟩, ⟨false, 0, 0⟩),
  (0xBA02F000, 0, .publ ⟨47⟩, ⟨false, 0, 0⟩),
  (0xFB03501C, 0, .emit ⟨53, false, false, true, 12⟩, ⟨true, 0, 0⟩),
  (0xFC00000D, 0, .eseal ⟨13⟩, ⟨true, 0, 0⟩),
  (0xFC00001D, 0, .esync ⟨13⟩, ⟨true, 0, 0⟩),
  (0xFC03B06E, 0, .eopen ⟨59, true, 14⟩, ⟨true, 0, 0⟩)]

theorem test_decode_uniform_2 : uniformWords2.all DecodeCase.ok = true := by decide

/-- Words of the uniform families from the opcode table's fixed bits and fields, part 3. -/
def uniformWords3 : List DecodeCase := [
  (0xFC24003F, 0, .epos ⟨9, 15⟩, ⟨true, 0, 0⟩),
  (0xFD00C001, 0, .tide ⟨12, 1⟩, ⟨true, 0, 0⟩),
  (0xBED6D018, 0, .launch ⟨53, 45⟩, ⟨false, 3, 0⟩),
  (0xD4000028, 0, .lexit, ⟨true, 5, 0⟩),
  (0xD7000000, 0, .join, ⟨true, 0, 0⟩),
  (0x99000030, 0, .rgn, ⟨false, 6, 0⟩),
  (0x9A000018, 0, .exitLanes, ⟨false, 3, 0⟩),
  (0x9C000038, 0, .nop, ⟨false, 7, 0⟩)]

theorem test_decode_uniform_3 : uniformWords3.all DecodeCase.ok = true := by decide

/-- Words of the system families from the opcode table's fixed bits and fields, part 1. -/
def systemWords1 : List DecodeCase := [
  (0x8AB4010B, 0, .srd ⟨45, 0x10b⟩, ⟨false, 0, 0⟩),
  (0xCB007108, 0, .swr ⟨7, 0x108⟩, ⟨true, 0, 0⟩),
  (0x9F3C0829, 0, .prd ⟨15, 32⟩, ⟨false, 5, 0⟩),
  (0xDF02E6F2, 0, .pwr ⟨46, 27⟩, ⟨true, 6, 0⟩),
  (0xA2000400, 0, .fenceAcq ⟨.cluster, false⟩, ⟨false, 0, 0⟩),
  (0xE2000680, 0, .fenceRel ⟨.device, false⟩, ⟨true, 0, 0⟩),
  (0xE2000500, 0, .fenceFull ⟨.cluster, false⟩, ⟨true, 0, 0⟩),
  (0xEC000005, 0, .await ⟨5⟩, ⟨true, 0, 0⟩),
  (0xD8000008, 0, .regang, ⟨true, 1, 0⟩),
  (0xDB000008, 0, .rolesw, ⟨true, 1, 0⟩),
  (0xDF000010, 0, .rett, ⟨true, 2, 0⟩),
  (0xDF00000B, 0, .idle, ⟨true, 1, 0⟩),
  (0x9F000024, 0, .leasew, ⟨false, 4, 0⟩),
  (0x9F00001D, 0, .halt, ⟨false, 3, 0⟩),
  (0xA1000000, 0, .sstep, ⟨false, 0, 0⟩)]

theorem test_decode_system_1 : systemWords1.all DecodeCase.ok = true := by decide

/-- Words of the matrix families from the opcode table's fixed bits and fields, part 1. -/
def matrixWords1 : List DecodeCase := [
  (0xF0032030, 0, .mgang ⟨50⟩, ⟨true, 6, 0⟩),
  (0xF1180005, 0, .macq ⟨6, 5⟩, ⟨true, 0, 0⟩),
  (0xF200D038, 0, .mrel ⟨13⟩, ⟨true, 7, 0⟩),
  (0xF300D0A0, 0, .mma ⟨13⟩, ⟨true, 0, 5⟩),
  (0xF3030010, 0, .mmaCx ⟨48⟩, ⟨true, 0, 0⟩),
  (0xF4029060, 0, .mlt ⟨41⟩, ⟨true, 0, 3⟩),
  (0xF5034001, 0, .maccLoad ⟨52⟩, ⟨true, 0, 0⟩),
  (0xB50190E2, 0, .maccStore ⟨25⟩, ⟨false, 0, 7⟩),
  (0xB6174F00, 0, .mxmul ⟨5, 52, 15⟩, ⟨false, 0, 0⟩),
  (0xF744DC02, 0, .nttFwd ⟨17, 13, 12, 2⟩, ⟨true, 0, 0⟩),
  (0xB7612605, 0, .nttInv ⟨24, 18, 6, 1⟩, ⟨false, 0, 0⟩),
  (0xF50000E0, 0, .maccZero, ⟨true, 0, 7⟩)]

theorem test_decode_matrix_1 : matrixWords1.all DecodeCase.ok = true := by decide

/-! ### Words: one step of a small state -/

/-- The gang of slot 0 executes a word, with its group as `f` has changed it. -/
def gang (f : Group → Group := id) : State :=
  let s := State.reset.withGroupWord []
  { s.setGroup 0 (f (placedGroup (placedLaunch 1) (placedTeam 2 1) 0)) with cur := some (.gang 0 0xFF) }

/-- The group of `gang`. -/
def grp (f : Group → Group := id) : Group := f (placedGroup (placedLaunch 1) (placedTeam 2 1) 0)

/-- The Pilot of cluster 0 executes a word, as `f` has changed it. -/
def pilot (f : Pilot → Pilot := id) : State :=
  let s := State.reset.withPilotWord []
  { s.setPilot 0 (f (s.cluster 0).pilot) with cur := some (.pilot 0) }

/-- Lane registers with one word in every lane. -/
def lanes (xs : List (Fin 64 × Word)) (g : Group) : Group :=
  xs.foldl (fun g x => { g with v := g.v.set! x.1.val (Vector.replicate 32 x.2) }) g

/-- Uniform registers. -/
def unis (xs : List (Fin 64 × DWord)) (g : Group) : Group := xs.foldl (fun g x => { g with u := g.u.set x.1 x.2 }) g

/-- In a handler. -/
def handler (g : Group) : Group := { g with trap := { g.trap with inh := true, slices := 0xFF } }

/-- What is seen of the next state. -/
def after {α : Type} (i : Instr) (s : State) (f : State → Option α) : Option α :=
  match exec i s with
  | .next t => f t
  | .fault _ | .refused _ => none

/-- A lane of a lane register of the group after a word, with FLAGS. -/
def laneAfter (i : Instr) (s : State) (r : Nat) (l : Fin 32) : Option (Nat × Nat) :=
  after i s fun t => (t.group? 0).map fun g => ((laneReg g.v r)[l].toNat, g.flags.toNat)

/-- A uniform register of the group after a word. -/
def uniAfter (i : Instr) (s : State) (r : Fin 64) : Option Nat := after i s fun t => (t.group? 0).map fun g => (g.u.get r).toNat

/-- A predicate of the group after a word. -/
def predAfter (i : Instr) (s : State) (k : Fin 8) : Option Nat := after i s fun t => (t.group? 0).map fun g => (g.pred k).toNat

/-- The cause and value of the trap that a word takes. -/
def trapAfter (i : Instr) (s : State) : Option (Nat × Nat) :=
  after i s fun t => (t.group? 0).map fun g => (g.trap.cause.toNat, g.trap.val.toNat)

/-- The program counter of slice 0 after a word. -/
def pcAfter (i : Instr) (s : State) : Option Nat := after i s fun t => (t.group? 0).map fun g => (g.lead 0xFF).pc.toNat

-- integers: wrap and saturation (R74, R170)
theorem test_iadd_wraps : laneAfter (.iadd ⟨false, 0, 3, 1, 2⟩) (gang (lanes [(1, 0x7FFFFFFF), (2, 1)])) 3 31 = some (0x80000000, 0) := by
  decide
theorem test_iadd_sat : laneAfter (.iaddSat ⟨false, 0, 3, 1, 2⟩) (gang (lanes [(1, 0x7FFFFFFF), (2, 1)])) 3 0 = some (0x7FFFFFFF, 0) := by
  decide
theorem test_isub_sat_n32 : laneAfter (.isubSatN32 ⟨false, 0, 3, 1, 2⟩) (gang (lanes [(1, 1), (2, 2)])) 3 0 = some (0, 0) := by decide
-- -1 × 2: high half -1, low half -2
theorem test_imulhi : laneAfter (.imulHi ⟨false, 0, 3, 1, 2⟩) (gang (lanes [(1, 0xFFFFFFFF), (2, 2)])) 3 0 = some (0xFFFFFFFF, 0) := by decide
-- division by zero: all ones and DZ, bit 1 of FLAGS (R67, R171)
theorem test_idiv_zero : laneAfter (.idivI32 ⟨false, 0, 3, 1, 2⟩) (gang (lanes [(1, 5)])) 3 0 = some (0xFFFFFFFF, 2) := by decide
-- -7 ÷ 2 = -3 rest -1
theorem test_irem_sign : laneAfter (.iremI32 ⟨false, 0, 3, 1, 2⟩) (gang (lanes [(1, 0xFFFFFFF9), (2, 2)])) 3 0 = some (0xFFFFFFFF, 0) := by
  decide
-- a guard leaves the other lanes as they were (R150)
theorem test_guard : laneAfter (.iadd ⟨false, 3, 3, 1, 2⟩)
    (gang fun g => { lanes [(1, 4), (2, 5), (3, 77)] g with p := g.p.set! 3 0x2 }) 3 0 = some (77, 0) := by decide
theorem test_ishl_32 : laneAfter (.ishl ⟨false, 0, 3, 1, 2⟩) (gang (lanes [(1, 1), (2, 32)])) 3 0 = some (0, 0) := by decide
theorem test_isar_40 : laneAfter (.isar ⟨false, 0, 3, 1, 2⟩) (gang (lanes [(1, 0x80000000), (2, 40)])) 3 0 = some (0xFFFFFFFF, 0) := by
  decide
theorem test_irot : laneAfter (.irot ⟨false, 0, 3, 1, 2⟩) (gang (lanes [(1, 0x80000001), (2, 33)])) 3 0 = some (3, 0) := by decide
theorem test_clz_zero : laneAfter (.clz ⟨false, 0, 3, 1⟩) (gang) 3 0 = some (32, 0) := by decide
-- a field of 8 bits at 4, signed
theorem test_bfx_signed : laneAfter (.bfxI32 ⟨false, 0, 3, 1, 2⟩) (gang (lanes [(1, 0xF80), (2, 0x804)])) 3 0 = some (0xFFFFFFF8, 0) := by
  decide
theorem test_mulmod : laneAfter (.mulmod ⟨false, 0, 3, 1, 2⟩)
    (gang fun g => { lanes [(1, 100), (2, 100)] g with modn := 97, modb := 190172619316593315 }) 3 0 = some (9, 0) := by decide
theorem test_icmp : predAfter (.icmpI32 ⟨false, 0, .lt, 5, 1, 2⟩) (gang (lanes [(1, 0xFFFFFFFF)])) 5 = some 0xFFFFFFFF := by decide
-- p0 discards what is written to it (R62)
theorem test_icmp_p0 : predAfter (.icmpI32 ⟨false, 0, .gt, 0, 1, 2⟩) (gang (lanes [(1, 0xFFFFFFFF)])) 0 = some 0xFFFFFFFF := by decide

-- binary32: 1 + 2^-24 is a tie to even and inexact; 1 ÷ 0 is an infinity; −0 + +0 is +0 to nearest
theorem test_fadd_tie : laneAfter (.fadd ⟨false, 0, 3, 1, 2⟩) (gang (lanes [(1, 0x3F800000), (2, 0x33800000)])) 3 0 = some (0x3F800000, 16) := by
  decide
theorem test_fmul_overflow : laneAfter (.fmul ⟨false, 0, 3, 1, 2⟩) (gang (lanes [(1, 0x7F7FFFFF), (2, 0x40000000)])) 3 0 =
    some (0x7F800000, 20) := by decide
theorem test_frcp_zero : laneAfter (.frcp ⟨false, 0, 3, 1⟩) (gang) 3 0 = some (0x7F800000, 2) := by decide
theorem test_fsqrt : laneAfter (.fsqrt ⟨false, 0, 3, 1⟩) (gang (lanes [(1, 0x40800000)])) 3 0 = some (0x40000000, 0) := by decide
theorem test_fmin_zeros : laneAfter (.fmin ⟨false, 0, 3, 1, 2⟩) (gang (lanes [(1, 0), (2, 0x80000000)])) 3 0 = some (0x80000000, 0) := by decide
theorem test_fclass : laneAfter (.fclass ⟨false, 0, 3, 1⟩) (gang (lanes [(1, 0x7FC00000)])) 3 0 = some (512, 0) := by decide
-- 1.0 + 1.0 in binary64
theorem test_dadd : laneAfter (.dadd ⟨false, 0, 6, 2, 4⟩) (gang (lanes [(3, 0x3FF00000), (5, 0x3FF00000)])) 7 0 = some (0x40000000, 0) := by
  decide
theorem test_cvt : laneAfter (.cvt ⟨false, 0, 3, 1, .f32I32, .rne⟩) (gang (lanes [(1, 0xFFFFFFFF)])) 3 0 = some (0xBF800000, 0) := by decide
-- four products of −1 and 1
theorem test_dpi8 : laneAfter (.dpi8I8 ⟨false, 0, 3, 1, 2⟩) (gang (lanes [(1, 0xFFFFFFFF), (2, 0x01010101), (3, 10)])) 3 0 = some (6, 0) := by
  decide

-- cross-lane words (R187 to R194)
theorem test_redadd : laneAfter (.redadd ⟨0, 3, 1⟩) (gang (lanes [(1, 3)])) 3 9 = some (96, 0) := by decide
theorem test_scan_xadd : laneAfter (.scanXadd ⟨0, 3, 1⟩) (gang (lanes [(1, 3)])) 3 31 = some (93, 0) := by decide
theorem test_lidx : laneAfter (.lidx ⟨0, 3⟩) (gang) 3 17 = some (17, 0) := by decide
theorem test_ballot : laneAfter (.voteBallot ⟨0, 3, 2⟩) (gang fun g => { g with p := g.p.set! 2 0x10 }) 3 0 = some (16, 0) := by decide
theorem test_vget : uniAfter (.vget ⟨0, 5, 1, 31⟩) (gang (lanes [(1, 0xFFFFFFFF)])) 5 = some 0xFFFFFFFF := by decide

-- wide words: −1 (limb 0 all ones, extent 1) + 1 = 0 with WCF, extent 1 (R77, R205)
theorem test_wadd : (after (.wadd ⟨.w1, 3, 1, 2⟩)
    (gang fun g => { g with v := (g.v.set! 1 (Vector.replicate 32 0 |>.set! 0 0xFFFFFFFF)).set! 2 (Vector.replicate 32 0 |>.set! 0 1)
                            tags := (g.tags.set! 1 1).set! 2 1 })
    fun t => (t.group? 0).map fun g => ((laneReg g.v 3)[(0 : Fin 32)].toNat, g.tags[3].toNat, g.wcf)) = some (0, 1, true) := by decide
theorem test_wgetl_extent : uniAfter (.wgetl ⟨.w1, 5, 3, 255⟩) (gang fun g => { g with tags := g.tags.set! 3 7 }) 5 = some 7 := by decide
-- a span of two at an odd register is ILLEGAL, code 0x01, at step 3 of R158
theorem test_wide_span : trapAfter (.wadd ⟨.w2, 3, 2, 4⟩) (gang) = some (0x301, 0) := by decide

-- uniform words (R278 to R283)
theorem test_sadd : uniAfter (.sadd ⟨9, 8, 7⟩) (gang (unis [(8, 0xFFFFFFFFFFFFFFFF), (7, 2)])) 9 = some 1 := by decide
theorem test_s0 : uniAfter (.sadd ⟨0, 8, 7⟩) (gang (unis [(8, 1)])) 0 = some 0 := by decide
theorem test_sdiv_zero : uniAfter (.sdiv ⟨9, 8, 7⟩) (gang (unis [(8, 5)])) 9 = some 0xFFFFFFFFFFFFFFFF := by decide
theorem test_ssar_64 : uniAfter (.ssar ⟨9, 8, 7⟩) (gang (unis [(8, 0x8000000000000000), (7, 64)])) 9 = some 0xFFFFFFFFFFFFFFFF := by decide
theorem test_slui : uniAfter (.slui ⟨9, 0x3FFFF⟩) (gang) 9 = some 0xFFFFC000 := by decide
theorem test_slith : uniAfter (.slith ⟨9, 0x80000000⟩) (gang (unis [(9, 5)])) 9 = some 0x8000000000000005 := by decide
theorem test_srd_region : uniAfter (.srd ⟨9, 0x013⟩) (gang fun g => { g with region := 6 }) 9 = some 6 := by decide

-- control (R284 to R287)
theorem test_bra : pcAfter (.bra ⟨0, false, -2⟩) (gang) = some 0xFFF8 := by decide
theorem test_bra_not_taken : pcAfter (.bra ⟨1, false, -2⟩) (gang) = some 0x10004 := by decide
theorem test_loop_zero : pcAfter (.loop ⟨8, 3⟩) (gang) = some 0x10014 := by decide
theorem test_loop_pushes : (after (.loop ⟨8, 3⟩) (gang (unis [(8, 2)])) fun t => (t.group? 0).map fun g =>
    (g.lead 0xFF).loops.map fun l => (l.start.toNat, l.last.toNat, l.count.toNat)) = some [(0x10004, 0x10010, 2)] := by decide
theorem test_jmpr : (after (.jmpr ⟨8⟩) (gang (unis [(8, 0x20000)])) fun t => (t.group? 0).map fun g => (g.lead 0xFF).pc.toNat) =
    some 0x20000 := by decide
theorem test_callr_links : uniAfter (.callr ⟨8⟩) (gang (unis [(8, 0x20000)])) 63 = some 0x10004 := by decide

-- TRAP 5 is of kind 0x31 with the code as its value (R333); PRIV at U stops a group that has no handler (R334)
theorem test_trap : trapAfter (.trap ⟨5⟩) (gang) = some (0x31, 5) := by decide
theorem test_priv : (after .idle (gang) fun t => (t.group? 0).map fun g => g.dead) = some true := by decide
theorem test_prd : uniAfter (.prd ⟨9, 8⟩) (gang fun g => { handler (unis [(8, 0x204)] g) with trap := { (handler g).trap with val := 77 } }) 9 =
    some 77 := by decide
theorem test_pwr_lease : (after (.pwr ⟨7, 8⟩) (gang (handler ∘ unis [(8, 0x251), (7, 5000)])) fun t =>
    some (t.ctx 0 1).lease.toNat) = some 1024 := by decide

-- memory: a store of the local store and its load, one lane's address (R222, R229)
theorem test_stl : (after (.stl ⟨0, 3, 1, .b32⟩) { gang (fun g => { lanes [(3, 0xA1B2C3D4)] g with p := g.p }) with
    teams := [{ placedTeam 2 1 with lsSize := 4096 }] } fun t => some (Memory.read t.mem (localLoc 0 0)).toNat) = some 0xD4 := by decide
theorem test_sst : (after (.sst ⟨9, 8, 1⟩) (gang (unis [(8, 0x20000), (9, 0x1122334455667788)])) fun t =>
    some ((List.range 8).map fun i => (Memory.read t.mem (0x20008 + i)).toNat)) =
    some [0x88, 0x77, 0x66, 0x55, 0x44, 0x33, 0x22, 0x11] := by decide
theorem test_satom : (after (.satom ⟨9, 8, 0, .add, true, false⟩) (gang (unis [(8, 0x20000), (9, 3)])) fun t =>
    some (Memory.read t.mem 0x20000).toNat) = some 3 := by decide

-- a generator's words
theorem test_emit : (after (.emit ⟨8, false, false, false, 3⟩)
    (let s := pilot fun p => { p with u := p.u.set 8 0x01000000 }
     s.setStream 0 3 { s.stream 0 3 with state := .static, capacity := 64 }) fun t => some (t.stream 0 3).count.toNat) = some 1 := by decide

/-! ### Witnesses: the hypotheses of each statement are met together -/

theorem issues (f : Group → Group) : Issues (gang f) 0 0xFF (grp f) := ⟨rfl, rfl⟩

theorem pilotIssues (f : Pilot → Pilot) : PilotIssues (pilot f) 0 (f { Pilot.idle with running := true, launch := 1, u := UFile.zero }) :=
  ⟨rfl, rfl⟩

/-- LaneGives, Lane3Gives, LanePredGives: two sources and a destination, without and with U and UCHK, all lanes active, no flag enabled. -/
theorem witness_LaneGives : ∀ u : Bool, Issues (gang (lanes [(1, 5), (2, 7)])) 0 0xFF (grp (lanes [(1, 5), (2, 7)])) ∧
    LaneReady (gang (lanes [(1, 5), (2, 7)])) (grp (lanes [(1, 5), (2, 7)])) 0xFF u [srcOp 1, srcOp 2] [dstOp 3]
      ((grp (lanes [(1, 5), (2, 7)])).acting 0xFF 0) ∧
    (∀ fl : BitVec 7, fl &&& (grp (lanes [(1, 5), (2, 7)])).enables = 0) ∧ (grp (lanes [(1, 5), (2, 7)])).acting 0xFF 0 = BitVec.allOnes 32 := by
  intro u
  refine ⟨issues _, ⟨⟨by decide, by decide⟩, Or.inl (by decide), rfl, by unfold Group.clean; decide, ?_⟩, ?_, by decide⟩
  · intro _ _; decide
  · intro fl; rw [show (grp (lanes [(1, 5), (2, 7)])).enables = 0 by decide]; simp

/-- LaneGives on even pairs and with the destination read: DFMA. -/
theorem witness_LaneGives_pairs : LaneReady (gang) (grp) 0xFF false [srcOp 2 2, srcOp 4 2, srcOp 6 2] [dstOp 6 2] ((grp).acting 0xFF 0) :=
  ⟨⟨by decide, by decide⟩, Or.inl (by decide), rfl, by unfold Group.clean; decide, by unfold Group.alike; decide⟩

/-- Operands below the modulus 97, with its reciprocal. -/
def modular (g : Group) : Group := { lanes [(1, 96), (2, 96)] g with modn := 97, modb := 190172619316593315 }

/-- MulmodIsResidue: N = 97, B = ⌊(2^64 − 1) ÷ 97⌋, a = b = 96. -/
theorem witness_MulmodIsResidue : Issues (gang modular) 0 0xFF (grp modular) ∧
    LaneReady (gang modular) (grp modular) 0xFF false [srcOp 1, srcOp 2] [dstOp 3] ((grp modular).acting 0xFF 0) ∧
    ((grp modular).lead 0xFF).loops.length ≤ 4 ∧ (grp modular).modn ≠ 0 ∧
    (grp modular).modb.toNat = (2 ^ 64 - 1) / (grp modular).modn.toNat ∧
    ∀ l : Fin 32, ∀ x ∈ column ((gang modular).inputs? (grp modular) 0xFF [srcOp 1, srcOp 2]) l, x.toNat < (grp modular).modn.toNat := by
  refine ⟨issues _, ⟨⟨?_, ?_⟩, Or.inl ?_, rfl, ?_, ?_⟩, ?_, ?_, ?_, ?_⟩
  · decide
  · decide
  · decide
  · unfold Group.clean; decide
  · intro h; cases h
  · decide
  · decide
  · decide
  · have h : (gang modular).inputs? (grp modular) 0xFF [srcOp 1, srcOp 2] = [Vector.replicate 32 96, Vector.replicate 32 96] := by rfl
    rw [h]
    intro l x hx
    simp [column] at hx
    rw [hx]; decide

/-- CrossGives, ReduceGives, ScanGives, ExtremeGives, LaneExchangeResults: all eight slices, sources and a pair as destination. -/
theorem witness_CrossGives : CrossReady (grp) 0xFF [srcOp 1] [dstOp 4 2] (BitVec.allOnes 32) :=
  ⟨rfl, ⟨by decide, by decide⟩, Or.inl (by decide), rfl, by unfold Group.clean; decide⟩

/-- ShuffleGives: poison in the lanes of va that no lane reads does not count. -/
theorem witness_ShuffleGives : let f := fun g => { lanes [(2, 5)] g with vpoison := [(1, 0xFFFFFFDF)] }
    (grp f).plainOperands ([srcOp 1, srcOp 2] ++ [dstOp 3]) ∧ (grp f).clean 0xFF [srcOp 2] (BitVec.allOnes 32) ∧
    (∀ l : Fin 32, (grp f).poisonLanes (vIndex ((grp f).lead 0xFF).loops.length 1) &&&
      BitVec.ofNat 32 (2 ^ ((laneAt (((gang f).inputs? (grp f) 0xFF [srcOp 1, srcOp 2]).getD 1 (Vector.replicate 32 0)) l).toNat % 32)) = 0) :=
  ⟨⟨by decide, by decide⟩, by unfold Group.clean; decide, by decide⟩

/-- uniformReady of a group, and with poison in a register that is not read. -/
theorem ready (f : Group → Group) (srcs dsts : List (Fin 64)) (h : (grp f).inflight = []) (hp : ∀ r ∈ srcs, r ∉ (grp f).spoison)
    (hq : ∀ r, (grp f).port r = none) : (gang f).uniformReady srcs dsts :=
  Or.inl ⟨0, 0xFF, grp f, issues f, Or.inl (by simp [brokenPromise, h]), by simp [Group.hasArrived, awaited, h], hp, fun r _ => hq r⟩

/-- uniformReady of a Pilot. -/
theorem pilotReady (f : Pilot → Pilot) (srcs dsts : List (Fin 64))
    (hp : ∀ r ∈ srcs, r ∉ (f { Pilot.idle with running := true, launch := 1, u := UFile.zero }).spoison)
    (ha : (f { Pilot.idle with running := true, launch := 1, u := UFile.zero }).accesses = []) : (pilot f).uniformReady srcs dsts :=
  Or.inr ⟨0, _, pilotIssues f, by simp [Pilot.awaits, ha], hp⟩

/-- WideReadsBack: a span of four at v4, with the loop stack full. -/
theorem witness_WideReadsBack : (grp).wideOk ⟨4, spanLen .w4, true⟩ = true ∧ (∀ i, i < spanLen .w4 → (grp).streamOf (4 + i) = none) ∧
    (grp).inflight = [] ∧ ((grp).lead 0xFF).loops.length ≤ 4 := by decide

/-- WideGives, Wide3Gives: two spans of two to one; and WMADS, whose destination is read. -/
theorem witness_WideGives : WideReady (grp) 0xFF [⟨2, 2, false⟩, ⟨4, 2, false⟩] [⟨6, 2, true⟩] [⟨6, 2, false⟩] ∧ (gang).uniformReady [8] [9] :=
  ⟨⟨rfl, by decide, by decide, Or.inl (by decide), rfl, by unfold Group.clean; decide⟩, ready _ _ _ rfl (by decide) (by decide)⟩

/-- SequencedGives: a division that issues, with no word of the group stopped part-way. -/
theorem witness_SequencedGives : Issues (gang) 0 0xFF (grp) ∧
    WideReady (grp) 0xFF ([⟨2, 1, 2⟩, ⟨4, 1, 2⟩].map (WSrc.op · false)) ([⟨8, 2, 2⟩].map (WSrc.op · true)) [] ∧
    (gang).stoppedSeq 0 0x10000 = none ∧ (gang).uniformReady [] [] :=
  ⟨issues _, ⟨rfl, by decide, by decide, Or.inl (by decide), rfl, by unfold Group.clean; decide⟩, by decide, ready _ _ _ rfl (by decide) (by decide)⟩

/-- A gang whose word in the sequencer was stopped part-way. -/
def stoppedWide : State :=
  (gang fun g => { g with pix := 5 }).mapSeqs 0 fun q => q ++
    [{ g := 0, pc := 0x10000, instr := .wdiv ⟨.w2, 8, 2, 4⟩, vals := [9, 2], reads := [], s := 0, enables := 0, steps := 5, total := 9, stopped := true }]

/-- SequencedGives, its second clause: a word stopped part-way, with PIX 5. -/
theorem witness_SequencedGives_again : (stoppedWide.stoppedSeq 0 0x10000).isSome = true ∧ Issues stoppedWide 0 0xFF (grp fun g => { g with pix := 5 }) :=
  ⟨by decide, rfl, rfl⟩

/-- SequencedValues: 6 ÷ 4 and 1 ÷ 3 have nonzero denominators, and 1 ÷ 3 divides. -/
theorem witness_SequencedValues : ∃ na da nb db : Int, na = 6 ∧ da = 4 ∧ nb = 1 ∧ db = 3 ∧ da ≠ 0 ∧ db ≠ 0 ∧ nb ≠ 0 := ⟨6, 4, 1, 3, by decide⟩

/-- UniformGives and ScalarGives: a condition that holds with operands ready, and one that does not hold. -/
theorem witness_UniformGives : (gang).condHolds = true ∧ (gang).uniformReady [8, 7] [9] ∧
    ({ gang with issue := ⟨false, 3, 0⟩ } : State).condHolds = false ∧ (gang).issuing :=
  ⟨by decide, ready _ _ _ rfl (by decide) (by decide), by decide, Or.inl ⟨_, _, _, issues _⟩⟩

/-- UniformGives on a Pilot. -/
theorem witness_UniformGives_pilot : (pilot).condHolds = true ∧ (pilot).uniformReady [8, 7] [9] :=
  ⟨by decide, pilotReady _ _ _ (by decide) rfl⟩

/-- SpecialRegisterReads and SpecialRegisterWrites: the numbers at the ends of R66's ranges, and an unarmed stream. -/
theorem witness_SpecialRegisters : (∀ n ∈ [0x001, 0x013, 0x100, 0x13F], srdNumber (BitVec.ofNat 12 n) = true) ∧
    (∀ n ∈ [0x006, 0x00D, 0x011, 0x100, 0x13D], swrNumber (BitVec.ofNat 12 n) = true) ∧ ((grp).sd[(7 : Fin 8)]).armed = false ∧
    (grp handler).priv = .system := by decide

/-- AtomicValues: operands at the ends of 32 bits. -/
theorem witness_AtomicValues : (0xFFFFFFFF : Nat) < 2 ^ 32 ∧ (0x80000000 : Nat) < 2 ^ 32 ∧ (0 : Nat) < 2 ^ 32 := by decide

/-- One lane, with an address that it may reach. -/
def oneLane (g : Group) : Group := { lanes [(2, 0x20000), (4, 7), (5, 9)] g with p := g.p.set! 3 1 }

/-- LoadGives: LDS.64 of one lane from mapped memory. -/
theorem witness_LoadGives : (grp oneLane).acting 0xFF 3 = 1 ∧
    LaneReady (gang oneLane) (grp oneLane) 0xFF false [srcOp 2 2] [dstOp 6 2] ((grp oneLane).acting 0xFF 3) ∧ (grp oneLane).starts 0xFF ∧
    plainAddr (grp oneLane).priv 0x20000 8 ∧ (loadAll (virtualAt .load none 8 0 (grp oneLane)) State.readPlaces .b64 (gang oneLane) [(0, 0x20000)]).isSome = true :=
  ⟨by decide, ⟨⟨by decide, by decide⟩, Or.inl (by decide), rfl, by unfold Group.clean; decide, by intro h; cases h⟩, rfl,
    ⟨by decide, by decide, by decide⟩, by decide⟩

/-- StoreGives: STS.64 of one lane to mapped memory; StoresInMemory: its places are plain bytes, and memory is in canonical form with no
poison. -/
theorem witness_StoreGives : LaneReady (gang oneLane) (grp oneLane) 0xFF false [srcOp 4 2, srcOp 2 2] [] ((grp oneLane).acting 0xFF 3) ∧
    (storeAll (virtualAt .store none 8 0 (grp oneLane))
      (fun t ps bs => t.groupStore (t.groupReq 0 (grp oneLane) .store) (grp oneLane).launch ps bs) (fun _ => [1, 2, 3, 4, 5, 6, 7, 8])
      (gang oneLane) [(0, 0x20000)]).map (fun r => r.2) = some [(0, (List.range 8).map fun i => .byte (0x20000 + i))] ∧
    Memory.wf (gang oneLane).mem = true ∧ (gang oneLane).poison = [] ∧ (gang oneLane).pack.latent = [] ∧ (gang oneLane).pack.retired = [] :=
  ⟨⟨⟨by decide, by decide⟩, Or.inl (by decide), rfl, by unfold Group.clean; decide, by intro h; cases h⟩, by decide, by decide, by decide, by decide,
    by decide⟩

/-- The local store of the placed team. -/
def withLocal (s : State) : State := { s with teams := [{ placedTeam 2 1 with lsSize := 4096 }] }

/-- LoadGives and StoreGives of the local store, at its last word. -/
theorem witness_local : 4092 < 2 ^ 20 ∧ 4092 % 2 ^ 18 + 4 ≤ ((withLocal (gang)).teamOf (grp)).lsSize ∧
    (loadAll (localAt 4 0 (grp)) State.readPlaces .b32 (withLocal (gang)) [(0, 4092)]).isSome = true := by decide

/-- TranslationFrame: a translation that succeeds. -/
theorem witness_TranslationFrame :
    ((gang).places ((gang).groupReq 0 (grp) .load) 0x20000 8).toOption.map (fun x => x.2) =
      some ((List.range 8).map fun i => .byte (0x20000 + i)) ∧ (gang).pack.latent = [] := by decide

/-- AtomicGives: ATOM of one lane on mapped memory. -/
theorem witness_AtomicGives :
    let places := [(0, (List.range 4).map fun i => Place.byte (0x20000 + i))]
    LaneReady (gang oneLane) (grp oneLane) 0xFF false [srcOp 2 2, srcOp 4] [dstOp 4] ((grp oneLane).acting 0xFF 3) ∧ 0x20000 % 4 = 0 ∧
    (locateAll (virtualAt .atomic none 4 0 (grp oneLane)) (gang oneLane) [(0, 0x20000)]).map (fun r => r.2) = some places ∧
    (gang oneLane).unsupported ((gang oneLane).groupReq 0 (grp oneLane) .atomic) 0x20000 .add ((getBy 0 places).getD []) = false ∧
    (atomAll ((gang oneLane).groupReq 0 (grp oneLane) .atomic) 1 .add 4 places (fun _ => (7, 9)) (gang oneLane) [(0, 0x20000)]).isSome = true :=
  ⟨⟨⟨by decide, by decide⟩, Or.inl (by decide), rfl, by unfold Group.clean; decide, by intro h; cases h⟩, by decide, by decide, by decide, by decide⟩

/-- UniformMemoryResults: an aligned address in mapped memory, and one in Pilot memory. -/
theorem witness_UniformMemoryResults : (gang (unis [(8, 0x20000)])).uniformSound 0x20008 8 true ∧ (gang (unis [(8, 0x20000)])).startsWord ∧
    (pilot).uniformSound 0xFFF8 8 true := by
  refine ⟨⟨?_, fun _ => by decide⟩, ?_, ⟨?_, fun _ => by decide⟩⟩
  · exact ⟨by decide, by decide, by decide⟩
  · intro g slices grp' h
    have h1 := h.cur; have h2 := h.here
    cases h1
    cases h2
    rfl
  · show 0xFFF8 + 8 ≤ 2 ^ 16
    decide

/-- CopyResults: an ACP of one lane between aligned addresses; a batch that is within its count; a ticket that has completed. -/
theorem witness_CopyResults : LaneReady (gang oneLane) (grp oneLane) 0xFF false [srcOp 2 2, srcOp 2 2] [] ((grp oneLane).acting 0xFF 3) ∧
    0x20000 % 16 = 0 ∧ plainAddr (grp oneLane).priv 0x20000 16 ∧ (grp).batches.sealed_.length < 15 ∧ (grp).batches.refused = [] :=
  ⟨⟨⟨by decide, by decide⟩, Or.inl (by decide), rfl, by unfold Group.clean; decide, by intro h; cases h⟩, by decide, ⟨by decide, by decide, by decide⟩,
    by decide, by decide⟩

/-- A group with one completed operation. -/
def ticketed (g : Group) : Group := { unis [(8, 0x0100000300000001)] g with tickets := [⟨3, 1, 1, some 7⟩], ticketSeq := 1 }

theorem witness_CopyResults_ticket : (grp ticketed).tickets.find? (fun e => decide (e.entry.val = ((gang ticketed).readU 8).toNat / 2 ^ 32 % 16 ∧
    e.seq.toNat = ((gang ticketed).readU 8).toNat % 2 ^ 32)) = some ⟨3, 1, 1, some 7⟩ := by decide

/-- A team with one hardware queue. -/
def withQueue (entries : List (Nat × Option DWord)) : State :=
  let s : State := { gang with teams := [{ placedTeam 2 1 with queues := [4] }] }
  s.setCluster 0 ((s.cluster 0).mapQueue 4 fun q => { q with entries := entries })

/-- QueueWordsGive: a queue with room and a value, and one that is full. -/
theorem witness_QueueWordsGive : (withQueue [(0, some 5)]).queueOf (grp) 0 = some 4 ∧ Issues (withQueue [(0, some 5)]) 0 0xFF (grp) ∧
    (((withQueue [(0, some 5)]).cluster 0).queues[(4 : Fin 32)]).first 0 0xFF true = true ∧
    (((withQueue [(0, some 5)]).cluster 0).queues[(4 : Fin 32)]).ready.head? = some 5 ∧ (grp).starts 0xFF ∧
    16 ≤ (((withQueue ((List.range 16).map fun i => (i, some 0))).cluster 0).queues[(4 : Fin 32)]).entries.length :=
  ⟨by decide, ⟨rfl, rfl⟩, by decide, by decide, rfl, by decide⟩

/-- StreamArmResults: an empty walk, and one of two elements in mapped memory. -/
theorem witness_StreamArmResults :
    let d : StreamDesc := { ((grp).sd[(0 : Fin 8)]) with base := 0x20000, extent := #v[2, 1, 1, 1, 1], stride := #v[4, 0, 0, 0, 0] }
    d.armed = false ∧ d.base.toNat % 4 = 0 ∧ d.range.1 = 0x20000 ∧ d.range.2 = 0x20007 ∧ d.count ≠ 0 := by decide

/-- RegisterJumpGives and BranchResults: a target that is aligned and within 48 bits, and one that is not taken. -/
theorem witness_RegisterJumpGives : (gang (unis [(8, 0x20000)])).uniformReady [8] [] ∧ (gang (unis [(8, 0x20000)])).plainLink ∧
    ((gang (unis [(8, 0x20000)])).readU 8).toNat % 4 = 0 ∧ ((gang (unis [(8, 0x20000)])).readU 8).toNat < 2 ^ 48 ∧
    (gang (unis [(8, 0x20000)])).mayGoTo 0x20000 ∧ (gang).readCond 0 = true ∧ (gang).readCond 1 = false := by
  refine ⟨ready _ _ _ rfl (by decide) (by decide), ?_, by decide, by decide, Or.inl ⟨0, 0xFF, _, issues _, by decide⟩, by decide, by decide⟩
  refine ⟨fun g slices grp' h => ?_, fun cl p h => ?_⟩
  · have h1 := h.cur; have h2 := h.here
    cases h1
    cases h2
    decide
  · have h1 := h.cur
    cases h1

/-- BranchResults and LoopResults on a Pilot, whose targets stay in Pilot memory. -/
theorem witness_pilot_control : (pilot).issuing ∧ (pilot).mayGoTo 0xFFFC ∧ (∀ cl p, PilotIssues (pilot) cl p → (0xFFF8 + 4 : Addr).toNat < 2 ^ 16) :=
  ⟨Or.inr ⟨_, _, pilotIssues id⟩, Or.inr ⟨0, _, pilotIssues id, by decide⟩, fun _ _ _ => by decide⟩

/-- LoopResults: a count that is 0, and one that is not with three levels open. -/
theorem witness_LoopResults : (gang (unis [(8, 1)])).uniformReady [8] [] ∧ BitVec.ofNat 32 ((gang (unis [(8, 1)])).readU 8).toNat ≠ (0 : Word) ∧
    (gang fun g => g.mapSlices 0xFF fun sl => { sl with loops := [⟨0, 0, 1⟩, ⟨0, 0, 1⟩, ⟨0, 0, 1⟩] }).loops.length < 4 ∧
    BitVec.ofNat 32 ((gang).readU 8).toNat = (0 : Word) :=
  ⟨ready _ _ _ rfl (by decide) (by decide), by decide, by decide, by decide⟩

/-- Reconvergence entries in every slice. -/
def recons (r : List Rcon) (g : Group) : Group := g.mapSlices 0xFF fun sl => { sl with recon := r }

/-- DivergenceResults: RCV with 31 entries open; BRP that divides slices with an open entry and one that nothing takes; JOIN at an opened
entry and at a path. -/
theorem witness_DivergenceResults :
    (∀ i : Fin 8, ((grp (recons (List.replicate 31 (.opened 0 1)))).slices[i]).recon.length < 32) ∧
    (∀ i : Fin 8, ((grp (recons [.opened 0x10010 15])).slices[i]).recon.length < 32 ∧
      (openJoin ((grp (recons [.opened 0x10010 15])).slices[i]).recon).isSome = true ∧
      (gang (recons [.opened 0x10010 15])).towAllows 0 (grp (recons [.opened 0x10010 15])) i 0x10008 = true) ∧
    (∀ i : Fin 8, (((grp (recons [.opened 0x10000 15])).slices[i]).exited = false ∧ ((grp (recons [.opened 0x10000 15])).slices[i]).wait = .ready ∧
      ((grp (recons [.opened 0x10000 15])).slices[i]).recon = [.opened 0x10000 15])) ∧
    (∀ i : Fin 8, ((grp (recons [.path 0x10000 3 0x10008, .opened 0x10000 15])).slices[i]).onPath = true) := by decide

/-- LaneEndResults: a launch with a consumer role to which ROLESW switches, in a packet of version 2. -/
theorem witness_LaneEndResults : (gang).condHolds = true ∧ ({ gang with issue := ⟨false, 3, 0⟩ } : State).condHolds = false ∧
    ((gang).launch? (grp).launch).map (fun l => l.id) = some 1 ∧ placedPacket.version ≠ 1 ∧
    ({ placedPacket.cons with named := true } : Role).named = true ∧ (∀ i : Fin 8, ((grp).slices[i]).recon = []) := by decide

/-- The placed context with a handler at 0x8000_0000_0000. -/
def withHandler (s : State) : State := s.setCtx 0 1 { placedCtx with tbase := 0x800000000000 }

/-- TrapEntry: outside a handler with TBASE set and with it clear, and in a handler with slices of it and with none. -/
theorem witness_TrapEntry : (((withHandler (gang)).arriveGroup 0).group? 0) = some (grp) ∧ (grp).trap.inh = false ∧
    ((withHandler (gang)).ctx 0 1).tbase.getLsbD 47 = true ∧ ((gang).ctx 0 1).tbase.getLsbD 47 = false ∧ (grp handler).trap.inh = true ∧
    (0xFF : BitVec 8) &&& (grp handler).trap.slices ≠ 0 ∧
    (2 : BitVec 8) &&& (grp fun g => { handler g with trap := { (handler g).trap with slices := 1 } }).trap.slices = 0 := by decide

/-- TrapWords: a context without a debugger and one with. -/
theorem witness_TrapWords : ((gang).ctxOfGroup 0 (grp)).attached = false ∧
    (((gang).setCtx 0 1 { placedCtx with attached := true }).ctxOfGroup 0 (grp)).attached = true := by decide

/-- A handler entered by all eight slices. -/
def entered (g : Group) : Group :=
  { handler g with saved := (List.finRange 8).map fun i => ⟨i, 15, [], [], ⟨0x10000, 15, [], []⟩, false, []⟩ }

/-- HandlerReturn. -/
theorem witness_HandlerReturn : Issues (gang entered) 0 0xFF (grp entered) ∧ (grp entered).trap.inh = true ∧ (gang entered).condHolds = true ∧
    ((grp entered).saved.map SavedSlice.slice).Nodup ∧
    (∀ i : Fin 8, maskHas (grp entered).trap.slices i.val = true ↔ i ∈ (grp entered).saved.map SavedSlice.slice) ∧
    (∀ i : Fin 8, ((grp entered).slices[i]).wait ≠ .gangTrap) :=
  ⟨issues _, by decide, by decide, by decide, by decide, by decide⟩

/-- PrdGives and PwrGives: a number in sb at S. -/
theorem witness_PrdGives : let f := handler ∘ unis [(8, 0x201)]
    (grp f).trap.inh = true ∧ (gang f).condHolds = true ∧ (gang f).uniformReady [8] [9] ∧ ((gang f).readU 8).toNat = 0x201 := by
  refine ⟨by decide, by decide, ready _ _ _ rfl ?_ ?_, by decide⟩ <;> decide

/-- PrivilegedResults: at U, at S with a condition that holds, and at S with one that does not. -/
theorem witness_PrivilegedResults : (grp).trap.inh = false ∧ (grp handler).trap.inh = true ∧ (gang handler).condHolds = true ∧
    ({ gang handler with issue := ⟨false, 3, 0⟩ } : State).condHolds = false ∧ ((gang handler).launch? (grp handler).launch).isSome = true := by
  decide

/-- BarrierGives: a generation that its one group fills, one that it does not, and one that does not expect it. -/
theorem witness_BarrierGives :
    let t := placedTeam 2 1
    (gang).team? (grp).team = some t ∧ (gang).uniformReady [] [] ∧ 0 ∈ ((gang).barrierAt t 0 0 3).expected ∧
    ({ (gang).barrierAt t 0 0 3 with arrived := ((gang).barrierAt t 0 0 3).arrived ++ [(0, 0xFF)] } : Generation).full = true ∧
    ({ (gang).barrierAt t 3 2 3 with arrived := ((gang).barrierAt t 3 2 3).arrived ++ [(0, 0xFF)] } : Generation).full = false ∧
    (0 : GroupId) ∉ ((gang).barrierAt { t with barriers := t.barriers.set 3 (some ⟨0, 0, [5], []⟩) } 0 0 3).expected :=
  ⟨by decide, ready _ _ _ rfl (by decide) (by decide), by decide, by decide, by decide, by decide⟩

/-- SyncResults: a launch that is no superstep launch, and one that is; a drain with nothing to wait for, and one with an operation. -/
theorem witness_SyncResults : ((gang).launch? 1).map (fun l => l.pkt.superstep) = some false ∧
    ({ placedPacket with superstep := true } : Packet).superstep = true ∧ (gang).engineBusy 0 = false ∧ (grp).batches.refused = [] ∧
    (({ gang with ops := [mkOp (gang) .gath 0 (grp) 0 [] none] } : State)).engineBusy 0 = true := by decide

/-- Memory from 0x20000 on with dwords. -/
def withDwords (ds : List DWord) (s : State) : State :=
  { s with mem := Memory.writeBytes s.mem 0x20000 (ds.flatMap fun d => toBytes 8 d.toNat) }

/-- EngineGives: a record in mapped memory, its ranges in reach, a free ticket entry and none. -/
theorem witness_EngineGives : let f := unis [(8, 0x20000)]
    (gang f).uniformReady [8] [9] ∧ (grp f).starts 0xFF ∧ (gang f).uniformSound 0x20000 32 false ∧ 0x20000 % 8 = 0 ∧
    rangesSound (grp f).priv [(0x21000, 8), (0, 0), (0x22000, 8)] ∧ (grp f).freeTicket = some 0 ∧
    (grp fun g => { g with tickets := (List.finRange 16).map fun e => ⟨e, 1, 1, none⟩ }).freeTicket = none :=
  ⟨ready _ _ _ rfl (by decide) (by decide), rfl, ⟨⟨by decide, by decide, by decide⟩, fun h => by cases h⟩, by decide, by
    intro r hr hn
    simp only [List.mem_cons, List.not_mem_nil, or_false] at hr
    rcases hr with rfl | rfl | rfl
    · exact ⟨by decide, by decide, by decide⟩
    · exact absurd rfl hn
    · exact ⟨by decide, by decide, by decide⟩, by decide, by decide⟩

/-- The records of EngineIssue that hold their rules: a transform of two inputs, a gather of one element, a product of one limb by one, and
a box of one element; and one of each that does not. -/
theorem witness_EngineIssue_records :
    nttSound [0x21000, 0x22000, 1, 0] = true ∧ nttSound [0x21000, 0x21004, 1, 0] = false ∧
    (Gather.ofRecord [0x21000, 0x200000001, 0x22000, 1, 0, 0x23000, 0, 0]).ok [0x21000, 0x200000001, 0x22000, 1, 0, 0x23000, 0, 0] = true ∧
    (Gather.ofRecord [0, 0, 0, 0, 0, 0, 0, 0]).ok [0, 0, 0, 0, 0, 0, 0, 0] = false := by decide

/-- A stowage pool of context 1, with one handle of a granule. -/
def withPool (s : State) : State :=
  s.setDev 0 { s.devices[0] with pools := s.devices[0].pools.set 2 ⟨true, 1, 0x100000, 1024, [(0, 5)]⟩ }

/-- StowageAndPublish: a request and a handle of a pool that serves the context, a handle that is not there, and a buffer's first page. -/
theorem witness_StowageAndPublish :
    (((withPool (gang)).devices[(0 : Fin 4)]).pools[(2 : Fin 8)]).serves ((withPool (gang)).asnOf (grp).launch) = true ∧
    (((withPool (gang)).devices[(0 : Fin 4)]).pools[(3 : Fin 8)]).serves ((withPool (gang)).asnOf (grp).launch) = false ∧
    (StowReq.of (BitVec.ofNat 64 (2 * 2 ^ 61 + 4 * 2 ^ 48 + 0x20000))).addr % 4 = 0 ∧
    plainAddr (grp).priv (StowReq.of (BitVec.ofNat 64 (2 * 2 ^ 61 + 4 * 2 ^ 48 + 0x20000))).addr 16 ∧
    ((gang).setDev 0 { (gang).devices[(0 : Fin 4)] with
      pbuf := (gang).devices[(0 : Fin 4)].pbuf.set 5 ⟨true, false, 1, 3, 2⟩ }).pubAt 0 1 3 = some 5 ∧ (gang).pubAt 0 1 3 = none :=
  ⟨by decide, by decide, by decide, ⟨by decide, by decide, by decide⟩, by decide, by decide⟩

/-- LaunchIssue: a packet's place, a free ticket entry, and the parent launch. -/
theorem witness_LaunchIssue : (gang (unis [(8, 0x20000)])).uniformSound 0x20000 128 false ∧ 0x20000 % 64 = 0 ∧
    ((gang).launch? (grp).launch).isSome = true ∧ (grp).freeTicket = some 0 ∧
    ((gang).places ((gang).groupReq 0 (grp) .load) 0x20000 128).toOption.isSome = true :=
  ⟨⟨⟨by decide, by decide, by decide⟩, fun h => by cases h⟩, by decide, by decide, by decide, by decide⟩

/-- A gang that GANG names, and one that it does not. -/
def ganged (g : Group) : Group := { unis [(8, 1)] g with gang := 1 }

/-- JointGives: a latch of one group, no latch shared, and one shared that agrees or does not. -/
theorem witness_JointGives : (gang ganged).team? (grp ganged).team = some (placedTeam 2 1) ∧ (gang ganged).uniformReady [8] [] ∧
    maskHas (grp ganged).gang (grp ganged).inTeam.val = true ∧ (grp ganged).gang.toNat < 2 ^ (placedTeam 2 1).members.length ∧
    ((gang ganged).gangMembers (placedTeam 2 1) (grp ganged).gang).length = 1 ∧ ((gang ganged).cluster 0).latches = [] ∧
    ¬ (maskHas (2 : Word) (grp).inTeam.val = true ∧ (2 : Word).toNat < 2 ^ (placedTeam 2 1).members.length) :=
  ⟨by decide, ready _ _ _ rfl (by decide) (by decide), by decide, by decide, by decide, by decide, by decide⟩

/-- MatrixWords: MGANG with a mask that is good; MACQ of all eight slots and of one more than are free; MREL of slots that the team holds and
that nothing names. -/
theorem witness_MatrixWords : (gang (unis [(8, 1)])).uniformReady [8] [] ∧ 
    8 ≤ 8 - ({ placedTeam 2 1 with backing := some 0x100000 } : Team).heldCount ∧
    8 - ({ placedTeam 2 1 with held := 0x80, backing := some 0x100000 } : Team).heldCount < 8 ∧
    (0x80 : BitVec 8) &&& ~~~({ placedTeam 2 1 with held := 0x80 } : Team).held = 0 ∧ (gang).slotsBusy 0 2 0x80 = false :=
  ⟨ready _ _ _ rfl (by decide) (by decide), by decide, by decide, by decide, by decide⟩

/-- One engine operation of group 0, which an event is about. -/
def withOp (kind : OpKind) (record : DWord) (desc : List DWord) : State :=
  let s := withPool (gang)
  { s with ops := [mkOp s kind 0 (grp) record desc none], nextId := 4, arg := { Arg.zero with num := 3 } }

/-- The operation of `withOp`. -/
def theOp (kind : OpKind) (record : DWord) (desc : List DWord) : EngineOp := mkOp (gang) kind 0 (grp) record desc none

/-- An operation is concerned: the one of its number, not parked. -/
theorem concerned (kind : OpKind) (record : DWord) (desc : List DWord) :
    (withOp kind record desc).concerns (theOp kind record desc) :=
  ⟨List.mem_singleton.mpr rfl, rfl, rfl, fun _ hx _ => List.mem_singleton.mp hx⟩

/-- EngineCompletions and EngineEnds: a transform of two inputs, a product of one limb by one with its unit's turn, a gather of one element,
and a stowage with its engine's turn, each of which ends DONE. -/
theorem witness_EngineCompletions :
    (withOp (.ntt false 0) 0 [0x21000, 0x22000, 1, 0]).unitTurn (theOp (.ntt false 0) 0 [0x21000, 0x22000, 1, 0]) = true ∧
    (performNtt (withOp (.ntt false 0) 0 [0x21000, 0x22000, 1, 0]) (theOp (.ntt false 0) 0 [0x21000, 0x22000, 1, 0]) false 0).toOption.isSome =
      true ∧
    ((Gather.ofRecord [0x21000, 0x200000001, 0x22000, 1, 0, 0x23000, 0, 0]).entries
      (withOp .gath 0 [0x21000, 0x200000001, 0x22000, 1, 0, 0x23000, 0, 0])
      (theOp .gath 0 [0x21000, 0x200000001, 0x22000, 1, 0, 0x23000, 0, 0]) 0 1).toOption.isSome = true ∧
    (withOp .stow (BitVec.ofNat 64 (2 * 2 ^ 61 + 4 * 2 ^ 48 + 0x20000)) [9]).stowTurn
      (theOp .stow (BitVec.ofNat 64 (2 * 2 ^ 61 + 4 * 2 ^ 48 + 0x20000)) [9]) = true ∧
    (performStow (withOp .stow (BitVec.ofNat 64 (2 * 2 ^ 61 + 4 * 2 ^ 48 + 0x20000)) [9])
      (theOp .stow (BitVec.ofNat 64 (2 * 2 ^ 61 + 4 * 2 ^ 48 + 0x20000)) [9])).toOption.isSome = true := by decide

/-- EngineCompletions: a product of one limb by one that is formed, and one whose destination has too few limbs. -/
theorem witness_EngineCompletions_product : (Mul.ofRecord [0x21000, 1, 0x22000, 1, 0x23000, 2, 0, 0]).refusal true true = none ∧
    (Mul.ofRecord [0x21000, 1, 0x22000, 1, 0x23000, 1, 0, 0]).refusal true true ≠ none := by decide

/-- BatchCompletions: a sealed batch with nothing left to copy. -/
theorem witness_BatchCompletions : performCopies (gang) (theOp (.acp []) 0 []) (grp).batches.markOf [] = (gang, [], []) := rfl

/-- ProductIsExact: a limb of each operand that can be read. -/
theorem witness_ProductIsExact :
    (engineRead (withOp (.mxmul true) 0 []) (theOp (.mxmul true) 0 []) 0x21000 4).toOption.map (fun r => r.2) = some [0, 0, 0, 0] := by decide

/-- TransformIsSum and PassAddsProducts: two inputs; tiles of 64 rows of 64. -/
theorem witness_TransformIsSum : (1 : Nat) < [5, 7].length ∧ [5, 7].length < 2 ^ 32 := by decide
theorem witness_PassAddsProducts : (∀ r ∈ List.replicate 64 (List.replicate 64 (1 : Int)), r.length = 64) ∧
    (List.replicate 64 (List.replicate 64 (1 : Int))).length = 64 :=
  ⟨fun r hr => by rw [(List.mem_replicate.mp hr).2]; exact List.length_replicate .., List.length_replicate ..⟩

/-- A table entry of an MMA on slot 0 with operand maps of one exact tile of 1-byte elements, all passes to come. -/
def anEntry : TabEntry :=
  { index := 2, team := 2, slot := 0, word := 0, sa := 0, maps := [0, 0, 0, 0], work := .joint (.mma false) [0], passes := 0, total := 1, entered := 0
    cls := 0, passed := 0, parked := false, limbsA := [], limbsB := [], uft := 0, since := 0 }

/-- A cluster with that entry. -/
def withEntry (e : TabEntry) : State :=
  let s := gang
  { s.setCluster 0 { s.cluster 0 with table := [e], owner := (s.cluster 0).owner.set 0 (some 2), awake := true } with
    arg := { Arg.zero with num := 2 } }

/-- MatrixEvents: an entry that is eligible and wakes, in a table of distinct indexes; and one whose passes are done. -/
theorem witness_MatrixEvents :
    let c := (withEntry anEntry).cluster 0
    (c.table.map TabEntry.index).Nodup ∧ (∀ x ∈ c.table, (withEntry anEntry).modeClash c x = false) ∧
    (withEntry anEntry).engineAwake c = true ∧ (withEntry anEntry).eligible c anEntry = true ∧
    ((withEntry anEntry).team? anEntry.team).isSome = true ∧ anEntry.opMaps.length = 2 ∧
    (passOf (withEntry anEntry) (placedTeam 2 1) anEntry (.mma false) ⟨0, 0, 0⟩ ⟨0, 0, 0⟩).toOption.isSome = true ∧
    (withEntry { anEntry with passes := 1 }).turnOf ((withEntry { anEntry with passes := 1 }).cluster 0) { anEntry with passes := 1 } = true := by
  decide

/-- MatrixEvents: a request for one slot that can be granted, and one that cannot without a spill. -/
def asking (n : Nat) (owner : Option Nat) : State :=
  let s : State := { gang with teams := [{ placedTeam 2 1 with backing := some 0x100000 }, { placedTeam 5 1 with backing := some 0x200000 }] }
  s.setCluster 0 { s.cluster 0 with requests := [⟨2, some 0, 0xFF, n, none, 0⟩, ⟨5, none, 0, 1, some 9, 0⟩], owner := Vector.replicate 8 owner }

theorem witness_MatrixEvents_slots : (asking 1 none).grantable ((asking 1 none).cluster 0) = true ∧
    ((asking 1 (some 5)).spillChoice ((asking 1 (some 5)).cluster 0)).isSome = true := by decide

/-- A Pilot with an open stream 3 of some state and capacity. -/
def emitting (st : EmitState) (n : Nat) : State :=
  let s := pilot
  s.setStream 0 3 { s.stream 0 3 with state := st, capacity := n }

/-- EmitGives: a static stream with room, one without, a tow stream with room, and one that is closed. -/
theorem witness_EmitGives : ((emitting .static 64).stream 0 3).count.toNat + 1 ≤ ((emitting .static 64).stream 0 3).capacity ∧
    ¬ ((emitting .static 0).stream 0 3).count.toNat + 1 ≤ ((emitting .static 0).stream 0 3).capacity ∧
    (emitting .tow 64).retainedWords 0 3 + (1 : Nat) ≤ (((emitting .tow 64).stream 0 3).capacity : Nat) ∧
    ¬ ((emitting .tow 0).retainedWords 0 3 + (1 : Nat) ≤ (((emitting .tow 0).stream 0 3).capacity : Nat)) ∧
    (emitting .tow 0).allAtWrite 0 3 = false ∧ ((emitting .closed 0).stream 0 3).state = .closed := by decide

/-- GeneratorResults: an EOPEN that has room, on a stream closed, sealed and fetched; a TIDE outside safe harbour. -/
theorem witness_GeneratorResults : 32 + (emitting .closed 0).otherCapacity 0 3 ≤ 65536 ∧ (emitting .sealed_ 32).allFetched 0 3 = true ∧
    (pilot).pack.safe = false ∧ ({ pilot with pack := { (pilot).pack with safe := true } } : State).pack.safe = true := by decide

/-- GeneratorEvents: a Pilot whose emitted words fit. -/
theorem witness_GeneratorEvents :
    let s := (emitting .tow 64).setPilot 0 { ((emitting .tow 64).cluster 0).pilot with wait := .emit }
    ((s.cluster 0).pilot).wait = .emit ∧ s.retainedWords 0 (s.emitStream 0) + s.emitWords 0 ≤ ((s.stream 0 3).capacity : Nat) := by decide

/-- SequencerCompletion: a division of 9 by 2 at the head of the sequencer, with plain destinations and no flag raised. -/
theorem witness_SequencerCompletion :
    let w : WideSeq := { g := 0, pc := 0x10000, instr := .wdiv ⟨.w2, 8, 2, 4⟩, vals := [9, 2], reads := [], s := 0, enables := 0, steps := 5, total := 9, stopped := false }
    let s := (gang).mapSeqs 0 fun q => q ++ [w]
    ((s.cluster 0).seqs[(0 : Fin 4)]).filter (fun w => !w.stopped) = [w] ∧ (s.group? 0).isSome = true ∧
    (sequencedOut w.instr w.vals).allFlags &&& w.enables = 0 ∧
    (∀ e ∈ (sequencedOut w.instr w.vals).writes, ∀ i, i < e.2.1 → (grp).streamOf (e.1 + i) = none) := by decide

/-- WaitEvents: a grid that has arrived at an even step, a queue request that can be served, a publish that nothing delays, results in
flight, and waits that are over. -/
theorem witness_WaitEvents :
    let l := { placedLaunch 1 with placed := 0, pkt := { placedPacket with teams := 0, superstep := true }, arrived := [0] }
    ({ gang with teams := [] } : State).gridArrived l = true ∧ l.step % 2 = 0 ∧ (gang).gridDrained l = true ∧ (gang).gridRefused l = none ∧
    (grp fun g => g.setWait 0xFF (.idle 0) ⟨0, 0, none, false⟩).idleDone 0 = 0xFF ∧
    (grp fun g => g.setWait 0xFF (.lease 0) ⟨0, 0, none, false⟩).leaseDone 0 = 0xFF := by decide

/-- IssueArbitration: a core whose slot is free, with two candidates of which the first, promoted, beats the second. -/
theorem witness_IssueArbitration :
    let s := ((gang).setRun 0 none).setGroup 16 (grp)
    s.run 0 = none ∧ ((s.settleStops 0).candidates 0).length = 1 ∧ ((({ gang with groups := [] } : State).settleStops 0).candidates 0) = [] := by
  decide

/-- A live fault record of a parked gang. -/
def parkedRec : FaultRec :=
  { seq := some 9, type := 0, asn := 1, owner := .group 0 0xFF, held := none, dwords := List.replicate 8 0 }

/-- FaultAnswers: a record that REPLAY suits, in a live context; a number that no record has. -/
theorem witness_FaultAnswers :
    let d := { (gang).devices[(0 : Fin 4)] with faults := [parkedRec] }
    (d.faults.find? fun r => r.seq == some 9 && suits 0 r) = some parkedRec ∧ ((gang).ctx 0 parkedRec.asn).state ≠ .stopping ∧
    (∀ r ∈ d.faults, ¬ (r.seq = some (8 : Word) ∧ suits 0 r = true)) ∧ (gang).savedRecord 0 0 8 = none := by decide

/-- MemorySystemEvents: a record to be written while the buffer has room, and one of type 6 without; a purge of one page; an error of HBM. -/
theorem witness_MemorySystemEvents :
    let r : FaultRec := { parkedRec with seq := none }
    ({ (gang).devices[(0 : Fin 4)] with faults := [r] } : Device).fbRoom = true ∧
    ({ (gang).devices[(0 : Fin 4)] with fbHead := 64, faults := [{ r with type := 6 }] } : Device).fbRoom = false ∧
    (gang).unacknowledged = false ∧ (2 ^ 63 ≤ 2 ^ 63 + 1 ∧ 1 ≤ (2 ^ 63 + 1) % 2 ^ 32) ∧ 5 ∉ (gang).poison := by
  decide

/-- ArrivingAccesses: a write-back to a page that is mapped, which its leaf does not refuse, and one to a page that is not. -/
theorem witness_ArrivingAccesses :
    let go := fun va => walkFrom (gang) 0 true va ((gang).ctx 0 1).ptroot.toNat [43, 34, 25, 16]
    (go 0x20000).toOption.map (fun leaf => (gang).leafRefuses { ld := 0, asn := 1, priv := .system, kind := .store } 0x20000 leaf) = some none ∧
    (go 0x7FFF00000000).toOption.isNone = true := by decide

/-- DebugCommands: a selection that names a group, one that names nothing, and a group that stands stopped. -/
theorem witness_DebugCommands :
    let sel := fun (x : DWord) => (gang).setDev 0 { (gang).devices[(0 : Fin 4)] with dbgSel := x }
    (sel (BitVec.ofNat 64 (2 ^ 32 + 0xFF))).target 0 = some (.group 0) ∧ (sel (BitVec.ofNat 64 (2 ^ 32 + 63 * 2 ^ 24))).target 0 = none ∧
    (grp fun g => g.mapSlices 0xFF fun sl => { sl with why := 1 }).stopped 0xFF = true ∧ (grp).stopped 0xFF = false ∧ (0xFF : BitVec 8) ≠ 0 := by
  decide

/-- A part with an enabled ring 0 of queue 0. -/
def withRing (x : Ring) : State :=
  let s := (gang).setQueue 0 0 { LQueue.empty with en := true, asn := 1, cqLog := 4, ccount := 1, clmask := 1 }
  { s.setRing 0 0 x with arg := { Arg.zero with value := 1 } }

/-- A ring with one unit to take. -/
def oneUnit : Ring := { en := true, queue := 0, segUnits := 16, segBase := 0x4000, rpos := 0, segStart := 0, wpos := 1, barrier := false }

/-- RingEvents: a doorbell at WPOS and one below; an entry of host memory that is sound, for a ring that does not exist; segments to return with
room and without. -/
theorem witness_RingEvents : (withRing oneUnit).ring 0 0 = some oneUnit ∧ oneUnit.wpos ≤ (withRing oneUnit).arg.value.toNat ∧
    (withRing { oneUnit with wpos := 2 }).arg.value.toNat < ({ oneUnit with wpos := 2 } : Ring).wpos ∧
    (let s := (gang).hostWrite 0 (toBytes 8 (2 ^ 63 + 16) ++ toBytes 8 0x4000)
     dwordsOf (s.hostRead 0 32) = [0x8000000000000010, 0x4000, 0, 0] ∧ s.ring 0 0 = none) ∧
    ((gang).devices[(0 : Fin 4)].flHead - (gang).devices[(0 : Fin 4)].flTail).toNat < 2 ^ (gang).devices[(0 : Fin 4)].flCfg.toNat := by decide

/-- QueueEvents: a sound entry of host memory for a queue that is not busy and enabled; a ready queue whose ageing is due; a record with room; a
coalescer whose hold is over. -/
theorem witness_QueueEvents :
    (let s := ({ withRing { oneUnit with rpos := 1 } with launches := [] } : State).hostWrite 0 (toBytes 8 (2 ^ 63 + 2 ^ 44 + 1) ++ toBytes 8 0x8000 ++ toBytes 8 (4 + 2 ^ 8 + 2 ^ 16))
     dwordsOf (s.hostRead 0 64) = [0x8000100000000001, 0x8000, 0x10104, 0, 0, 0, 0, 0] ∧ (s.queue 0 0).en = true ∧ s.queueBusy 0 0 = false) ∧
    (withRing oneUnit).queueReady 0 0 = true ∧ 0 < (gang).devices[(0 : Fin 4)].ageUs.toNat * 1000 ∧
    (((withRing oneUnit).queue 0 0).cqHead - ((withRing oneUnit).queue 0 0).consumed).toNat < 2 ^ ((withRing oneUnit).queue 0 0).cqLog ∧
    (withRing { oneUnit with wpos := 0 }).unadmitted 0 0 = none ∧ ((withRing oneUnit).queue 0 0).indirect = none := by decide

/-- A ring whose next packet is a NOP, one with a BARRIER, and one whose next unit is no packet. -/
def packetAt (w : Nat) : State := (withRing oneUnit).hostWrite 0x4000 (toBytes 8 w)

/-- MergeVisits: the dispatcher's choice is ring 0 of queue 0, whose packet is a NOP; and there is no choice without a ring. -/
theorem witness_MergeVisits : ∃ w n : Nat, (packetAt w).serveChoice 0 = some (0, false) ∧ (packetAt w).offer 0 0 = some (.ring 0) ∧
    (packetAt w).headPacket oneUnit = some (n, 0, .nop) ∧ (packetAt w).jobs = [] ∧ (gang).serveChoice 0 = none :=
  ⟨0x100, 1, by decide⟩

/-- A launch of one team of one group that is not admitted, or is, in queue 0. -/
def launching (admitted : Bool) (placed : Nat) : Launch :=
  { placedLaunch 1 with admitted := admitted, placed := placed, pkt := { placedPacket with teams := 1, cons := { placedPacket.cons with named := true, groups := 1, allot := 48 } } }

/-- A part with that launch alone. -/
def withLaunch (l : Launch) : State :=
  let s := withRing { oneUnit with wpos := 0 }
  { s.setDev 0 { s.devices[0] with rhPool := 0x10000000000000 } with groups := [], teams := [], launches := [l], arg := { Arg.zero with num := 1 } }

/-- LaunchEvents: a launch to admit, one to place, a team to release, and one whose work is done. -/
theorem witness_LaunchEvents : (withLaunch (launching false 0)).depMet (launching false 0) = true ∧
    launchFits ((withLaunch (launching false 0)).devices[(0 : Fin 4)]) ((withLaunch (launching false 0)).queue 0 0) (launching false 0).pkt = true ∧
    (withLaunch (launching true 0)).serveChoice 0 = some (0, true) ∧
    ((withLaunch (launching true 0)).nextLaunch 0 0).isSome = true ∧ ((withLaunch (launching true 0)).placement 0 0).isSome = true ∧
    (withLaunch { launching true 1 with released := 1 }).launchDone { launching true 1 with released := 1 } = true := by decide

/-- LaunchEvents: a team placed and not released. -/
theorem witness_LaunchEvents_release :
    let s := { withLaunch { launching true 1 with released := 0 } with teams := [{ placedTeam 2 1 with released := false }] }
    ((s.releasable { launching true 1 with released := 0 }).map fun t => t.members) = some [0] ∧ [(0 : GroupId)].Nodup := by decide

/-- ContextEvents: a free context and a live one with no launch, and no context stopping. -/
theorem witness_ContextEvents : (5 : Asn) ≠ 0 ∧ ((gang).ctx 0 (gang).devices[(0 : Fin 4)].ctxSel).state ≠ .stopping ∧
    ((gang).ctx 0 5).state = .free ∧ ((gang).ctx 0 1).state = .live ∧ ((gang).ctx 0 1).image = none ∧
    (∀ l ∈ ({ gang with launches := [] } : State).launches, ¬ (l.ld = 0 ∧ l.asn = 1)) ∧
    (((gang).setCtx 0 1 { placedCtx with state := .stopping }).ctx 0 1).state = .stopping := by decide

/-- ContextRegisterWrites: values that enable and disable at the bounds of a pool's base. -/
theorem witness_ContextRegisterWrites : 2 ^ 63 ≤ (BitVec.ofNat 64 (2 ^ 63 + 128) : DWord).toNat ∧
    (BitVec.ofNat 64 (2 ^ 63 + 128) : DWord).toNat % 2 ^ 48 = 128 ∧ ¬ 2 ^ 63 ≤ (128 : DWord).toNat ∧
    ((gang).devices[(0 : Fin 4)].pools[(7 : Fin 8)]).en = false ∧ (gang).profileNamed 0 3 = false := by decide

/-- HandleEvents: a sound export entry of one granule, none busy; an import that waits. -/
theorem witness_HandleEvents :
    (let s := { gang with mem := Memory.writeBytes (gang).mem 0 (toBytes 8 0x1000000000000 ++ toBytes 8 0x10000) }
     s.physRead 0 0 32 = toBytes 8 0x1000000000000 ++ toBytes 8 0x10000 ++ toBytes 8 0 ++ toBytes 8 0) ∧
    ((gang).devices[(0 : Fin 4)]).xBusy = false ∧ 0x1000000000000 % 2 ^ 48 % 2 ^ 16 = 0 ∧ 0x10000 % 2 ^ 16 = 0 ∧
    ({ (gang).devices[(0 : Fin 4)] with pendingImport := some ⟨0, 1, 0, none⟩ } : Device).pendingImport ≠ none := by decide

/-- FabricEvents: a new multiple of 2 µs, with no pin and no request; a port that is off. -/
theorem witness_FabricEvents : ({ (gang).pack with time := 2000 } : Pack).tideAt < 2000 / 2000 ∧ (gang).linkPin 0 = none ∧
    (gang).linkRequests 0 = [] ∧ ((gang).pack.eth[(0 : Fin 8)]).cfg.toNat < 2 ^ 63 ∧
    2 ^ 63 ≤ (BitVec.ofNat 64 (2 ^ 63 + 2 ^ 44) : DWord).toNat ∧ 64 ≤ (List.replicate 64 (0 : Byte)).length := by
  exact ⟨by decide, by decide, by decide, by decide, by decide, Nat.le_of_eq List.length_replicate.symm⟩

/-- RegisterWriteEvents: a register that is taken, one that is read-only, one of M alone, and none. -/
theorem witness_RegisterWriteEvents : (gang).takesWrite 0 0x254 false = true ∧ regAccess 0x256 = some .ro ∧ (gang).pack.stage ≠ .recovery ∧
    regAccess 0x7FF = none ∧ ((gang).pack.safe = false) := by decide

/-- Flash at reset reads erased. -/
theorem flash_at_reset (a : Nat) : Memory.read State.reset.mem (flashLoc a) = 0xFF := by
  show memDefault (2 ^ 68 + a) = 0xFF
  unfold memDefault
  rw [if_pos (Nat.le_add_right _ _)]

/-- ResetEvents: the part at reset has no device's state; its counter sector reads erased; a start that is stale. -/
theorem witness_ResetEvents : Emptied State.reset State.reset ∧ State.reset.pack.watchdogLatch = false ∧
    (∀ i, Memory.read State.reset.mem (counterLoc i) = 0xFF) ∧
    Memory.wf State.reset.mem = true ∧ ({ State.reset.pack with stage := .running } : Pack).safe = false ∧ (gang).boardBusy = false ∧
    ({ State.reset.pack with time := 10000000000 } : Pack).startTime + 10000000000 ≤ 10000000000 :=
  ⟨by unfold Emptied; decide, by decide, fun _ => flash_at_reset _, by decide, by decide, by decide,
    by decide⟩

/-- PowerEvents: a temperature of 110 °C on each die, a new multiple of 100 µs, and no engine awake. -/
theorem witness_PowerEvents : partAt (BitVec.ofNat 48 0x6E6E6E6E6E6E) 105 = true ∧ dieAt (BitVec.ofNat 48 0x6E6E6E6E6E6E) 110 = true ∧
    partAt 0 95 = false ∧ dieAt 0 110 = false ∧ (gang).freezing = false ∧ (gang).pack.stage = .ready ∧ (gang).pack.powerAt < 100000 / 100000 ∧
    ({ (gang).cluster 0 with awake := true } : Cluster).awake = true := by decide

/-- FlashEvents: a quote with a host link; a flash operation of the counter sector and one of another. -/
theorem witness_FlashEvents : (gang).pack.flashOp = none ∧ (gang).pack.attBusy = none ∧ (gang).boardBusy = false ∧
    (∃ x : DWord, 2 ^ 63 ≤ x.toNat) ∧
    (∀ a, Memory.read State.reset.mem (flashLoc a) = 0xFF) :=
  ⟨by decide, by decide, by decide,
    ⟨BitVec.ofNat 64 (2 ^ 63), by decide⟩, flash_at_reset⟩

/-- ExtentIsLeast: a span of four at its ends, with the loop stack full, and a value at each end of its range. -/
theorem witness_ExtentIsLeast : 60 % 4 = 0 ∧ 60 + 4 ≤ 64 ∧
    ((grp fun g => g.mapSlices 0xFF fun sl => { sl with loops := List.replicate 4 ⟨0, 0, 1⟩ }).lead 0xFF).loops.length ≤ 4 ∧
    (-2 ^ (1024 * 1 - 1) : Int) ≤ -2 ^ 1023 ∧ (2 ^ 1023 - 1 : Int) < 2 ^ (1024 * 1 - 1) := by decide

/-- LoopStackWords: LEXIT and LCNT with a level open and with none, LOOP of 3, and on a Pilot. -/
theorem witness_LoopStackWords : (gang).issuing ∧ (gang).condHolds = true ∧ (gang).loops = [] ∧
    (gang fun g => g.mapSlices 0xFF fun sl => { sl with loops := [⟨0x10000, 0x10004, 3⟩] }).loops = [⟨0x10000, 0x10004, 3⟩] ∧
    (gang).uniformReady [] [9] ∧ (gang (unis [(8, 3)])).readU 8 = 3 ∧ (pilot).loops = [] ∧ (pilot).condHolds = true :=
  ⟨Or.inl ⟨_, _, _, issues id⟩, by decide, by decide, by decide, ready _ _ _ rfl (by decide) (by decide), by decide, by decide, by decide⟩

/-- LaneWordFrame and UniformWordFrame: a group that is there, whose s9 is no queue port. -/
theorem witness_WordFrames : (gang).group? 0 = some (grp) ∧ (grp).port 9 = none := by decide

/-- A word at the program counter, the part's next step. -/
def placedWord (w : Nat) : State := State.reset.withFetchWord 32 w

/-- GangStep and PlainFetch: IADDI v7, v7, −1 in mapped code, fetched and decoded, with no comparator attached. -/
theorem witness_GangStep : (placedWord 0x4E01C7FF).pack.stage = .ready ∧ (placedWord 0x4E01C7FF).inputs = [] ∧
    (placedWord 0x4E01C7FF).turn = .core 0 ∧ (placedWord 0x4E01C7FF).run 0 = some ⟨0, 0xFF, 0⟩ ∧
    ((placedWord 0x4E01C7FF).nextFetch 0 (grp) 0xFF).toOption.map (fun r => r.2) = some ⟨0x4E01C7FF, 0, none, false⟩ ∧
    (decodeWords 0x4E01C7FF 0).toOption = some (.iaddi ⟨false, 0, 7, 7, 0xFF⟩, ⟨true, 0, 0⟩, 1) ∧
    inBerth ((grp).lead 0xFF).pc = false ∧ ((grp).lead 0xFF).wait = .ready ∧ ((grp).lead 0xFF).pc.toNat < 2 ^ 47 := by decide

/-- StepRunsDecoded on a Pilot: SADD s9, s8, s7 in Pilot memory; and an input that is an event. -/
theorem witness_StepRunsDecoded_pilot :
    let s := State.reset.withPilotWord [0xC0, 0x81, 0x24, 0x80]
    s.inputs = [] ∧ s.turn = .pilot 0 ∧ s.pilotReady 0 = true ∧ (s.pilotFetch 0 0).word = 0x802481C0 ∧
    (decodeWords 0x802481C0 0).toOption = some (.sadd ⟨9, 8, 7⟩, ⟨false, 0, 0⟩, 1) ∧ encodeBits .ageTick = none := by decide

/-- DecodeEncode: an instruction that is well formed with its shared fields. -/
theorem witness_DecodeEncode : (Instr.sadd ⟨9, 8, 7⟩).wf = true ∧ (Instr.sadd ⟨9, 8, 7⟩).issueOk ⟨true, 2, 0⟩ = true ∧
    encode (.sadd ⟨9, 8, 7⟩) ⟨true, 2, 0⟩ = some [0xC02481D0] := by decide

/-- StepKeepsInv: the part at reset meets the invariant, and steps. -/
theorem witness_StepKeepsInv : State.reset.Inv ∧ ∃ t, step State.reset = .next t := ⟨by unfold State.Inv; decide, _, rfl⟩

/-! ### Whole steps -/

/-- One step fetches, decodes and executes: v7 of a lane falls from 0 to −1, and the program counter moves past the word. -/
theorem test_step_iaddi : (match step (placedWord 0x4E01C7FF) with
    | .next t => (t.group? 0).map fun g => ((laneReg g.v 7)[(5 : Fin 32)].toNat, (g.lead 0xFF).pc.toNat)
    | _ => none) = some (0xFFFFFFFF, 0x10004) := by decide

/-- A word that is illegal for ever traps, and without a handler the group stops (R158, R334). -/
theorem test_step_illegal : (match step (placedWord 0) with
    | .next t => (t.group? 0).map fun g => (g.dead, g.trap.word.toNat)
    | _ => none) = some (true, 0) := by decide

/-! ### Well-formedness: a term that each check refuses -/

theorem test_wf_comparisons : [Instr.icmpI32 ⟨false, 0, .un, 1, 2, 3⟩, .icmpN32 ⟨false, 0, .un, 1, 2, 3⟩, .wcmpI ⟨.w1, .un, 1, 2, 3⟩,
    .wcmpN ⟨.w1, .un, 1, 2, 3⟩, .scmpI ⟨.un, 1, 2, 3⟩, .scmpN ⟨.un, 1, 2, 3⟩].all (fun i => !i.wf) = true := by decide
theorem test_wf_limbs : [Instr.wgetl ⟨.w1, 1, 2, 32⟩, .wsetl ⟨.w2, 1, 2, 64⟩, .wsetl ⟨.w4, 1, 2, 255⟩].all (fun i => !i.wf) = true := by decide
theorem test_wf_acp : (Instr.acp ⟨0, 1, 2, false, true, .n16⟩).wf = false := by decide
theorem test_wf_atomics : [Instr.atom ⟨0, 1, 2, 1, .add, true⟩, .atom64 ⟨0, 1, 2, 1, .add, true⟩, .satom ⟨1, 2, 1, .add, false, true⟩].all
    (fun i => !i.wf) = true := by decide
theorem test_wf_special : [Instr.srd ⟨1, 0x000⟩, .srd ⟨1, 0x014⟩, .srd ⟨1, 0x140⟩, .swr ⟨1, 0x00A⟩, .swr ⟨1, 0x106⟩, .swr ⟨1, 0x013⟩].all
    (fun i => !i.wf) = true := by decide
theorem test_wf_branches : [Instr.bra ⟨0, true, 4⟩, .call ⟨0, true, 4⟩, .brp ⟨0, true, 4⟩].all (fun i => !i.wf) = true := by decide
theorem test_wf_queues : [Instr.qput ⟨1, 2, false, 3⟩, .qget ⟨1, 2, false, 3⟩].all (fun i => !i.wf) = true := by decide
theorem test_wf_macq : [Instr.macq ⟨1, 0⟩, .macq ⟨1, 9⟩].all (fun i => !i.wf) = true := by decide
theorem test_wf_ntt : [Instr.nttFwd ⟨1, 2, 0, 3⟩, .nttInv ⟨1, 2, 0, 3⟩].all (fun i => !i.wf) = true := by decide
theorem test_issue_fields : (Instr.iadd ⟨false, 0, 3, 1, 2⟩).issueOk ⟨false, 1, 0⟩ = false ∧
    (Instr.iadd ⟨false, 0, 3, 1, 2⟩).issueOk ⟨false, 0, 1⟩ = false := by decide

/-! ### Decoding refuses by name -/

/-- The decoder's reasons: short bytes, a word illegal for ever, a reserved major, a reserved code, a field that no row accepts. -/
theorem test_decode_errors :
    (match decode [1, 2, 3] with
      | .error e => some e
      | .ok _ => none) = some .short ∧
    [(0x00000000, DecodeError.illegalForEver), (0xBF000000, .illegalForEver), (0x0A0C0000, .badField)].all (fun x =>
      match decodeWords (BitVec.ofNat 32 x.1) 0 with
      | .error e => e == x.2
      | .ok _ => false) = true := by decide

/-! ### Further clauses of the statements -/

/-- FloatAndReductionWordsComplete: lanes with operands, and no exception enabled. -/
theorem witness_FloatAndReductionWordsComplete : (grp (lanes [(1, 5), (2, 7)])).enables = 0 ∧
    LaneReady (gang (lanes [(1, 5), (2, 7)])) (grp (lanes [(1, 5), (2, 7)])) 0xFF false [srcOp 1, srcOp 2, srcOp 3] [dstOp 3]
      ((grp (lanes [(1, 5), (2, 7)])).acting 0xFF 0) ∧ CrossReady (grp) 0xFF [srcOp 1] [dstOp 3] ((grp).acting 0xFF 0) :=
  ⟨by decide, ⟨⟨by decide, by decide⟩, Or.inl (by decide), rfl, by unfold Group.clean; decide, by intro h; cases h⟩,
    ⟨rfl, ⟨by decide, by decide⟩, Or.inl (by decide), rfl, by unfold Group.clean; decide⟩⟩

/-- A LAUNCH packet of version 1: one team of one group at 0x10000 with 40 registers, 32 lanes. -/
def launchDwords : List DWord := [0x1201, 1, 32, 0, 0x100000501, 0, 0, 0, 0, 0, 0, 0, 0, 0, 0, 0]

/-- QueueEvents: a ring whose one packet left is a LAUNCH; a queue that is due to age, and one that alone is ready. -/
theorem witness_QueueEvents_cancel :
    (let s := (withRing { oneUnit with wpos := 2 }).hostWrite 0x4000 (launchDwords.flatMap fun x => toBytes 8 x.toNat)
     (match s.headPacket { oneUnit with wpos := 2 } with
      | some (2, 1, .launch p) => p.teams == 1 && p.cons.allot == 40
      | _ => false) = true ∧ s.unadmitted 0 0 = none) ∧
    0 < 50000 ∧ (50000 : Nat) ≤ ({ LQueue.empty with aged := 50000 } : LQueue).aged ∧
    (withRing oneUnit).devices[(0 : Fin 4)].queues.length = 1 := by decide

/-- RingEvents and RegisterWriteEvents: in safe harbour, a device that is not the first. -/
theorem witness_RingEvents_safe : ({ withRing oneUnit with pack := { (gang).pack with safe := true } } : State).pack.safe = true ∧
    (1 : Fin 4) ≠ 0 ∧ ({ gang with pack := { (gang).pack with safe := true } } : State).takesWrite 1 0x302 false = false ∧
    ({ gang with pack := { (gang).pack with safe := true } } : State).takesWrite 0 0x302 false = true := by decide

/-- MergeVisits: a BARRIER at the head of ring 1 is read while ring 0 is visited. -/
theorem witness_MergeVisits_passOver :
    let s := (packetAt 0x100).setRing 0 1 { oneUnit with segBase := 0x8000 }
    let u := s.hostWrite 0x8000 (toBytes 8 0x103)
    let t := u.setQueue 0 0 { (u.queue 0 0) with lastRing := 0 }
    (t.devices[(0 : Fin 4)].rings.map Prod.fst).Nodup ∧
    ((t.passOver 0 0 0).ring 0 1).map (fun x => x.barrier) = some true ∧ (t.ring 0 1).map (fun x => x.barrier) = some false := by decide

/-- LaunchEvents: an admitted launch whose queue has lost its clusters can never fit. -/
theorem witness_LaunchEvents_hopeless :
    let s := (withLaunch (launching true 0)).setQueue 0 0 { ((withLaunch (launching true 0)).queue 0 0) with clmask := 0 }
    (s.hopeless 0).map (fun l => l.id) = some 1 ∧ ((withLaunch (launching true 0)).hopeless 0).isNone = true := by decide

/-- MemorySystemEvents: an enabled CXL host, a purge that covers a page of its space, and one that does not. -/
theorem witness_MemorySystemEvents_purge : ({ (gang).pack with cxl := true } : Pack).cxl = true ∧ (gang).pack.cxl = false ∧
    (⟨1, 1, 2, 3, true⟩ : Purge).covers 1 4 = true ∧ (⟨1, 1, 2, 3, true⟩ : Purge).covers 1 5 = false ∧
    (⟨1, 1, 2, 3, true⟩ : Purge).covers 2 4 = false := by decide

/-- FabricEvents: a new multiple of 2 µs, and 1 ns before it; a port that is not parked, whose frame is not held. -/
theorem witness_FabricEvents_due : (gang).pack.tideAt < ({ (gang).pack with time := 2000 } : Pack).time / 2000 ∧
    ({ (gang).pack with time := 1999 } : Pack).time / 2000 ≤ (gang).pack.tideAt ∧
    (gang).portParked 0 true = false ∧ ((gang).pack.eth[(0 : Fin 8)]).held = none := by decide

/-- PlainFetch: the four bytes at the program counter translate and hold no poison. -/
theorem witness_PlainFetch :
    let s := placedWord 0x4E01C7FF
    (s.places (s.groupReq 0 (grp) .fetch) 0x10000 4).toOption.map (fun r => (r.2.length, (r.1.readPlaces r.2).2)) = some (4, none) := by
  decide

-- the check value of CRC-32C, of the digits 1 to 9 in ASCII (R405, R425)
theorem test_crc32c : crc32c [0x31, 0x32, 0x33, 0x34, 0x35, 0x36, 0x37, 0x38, 0x39] = 0xE3069283 := by decide

/-- DebugCommands, ContextEvents, HandleEvents, FabricEvents, ResetEvents and ContextRegisterWrites: a device that serves, and one that does
not. -/
theorem witness_serves : (gang).serves 0 = true ∧ ({ gang with pack := { (gang).pack with safe := true } } : State).serves 1 = false := by decide

/-- PowerAndFlashEvents: page 0 lies below the counter sector, and a page of the last sector does not. -/
theorem witness_FlashEvents_pages : 0 / 16 < Config.counterSector.val ∧ Config.counterSector.val ≤ 4095 / 16 :=
  ⟨by unfold Config.counterSector; show 0 / 16 < 4 + _; omega, by have := Config.counterSector.isLt; omega⟩

/-- ResetEvents: FWREADY in time; a byte that was being programmed when the power went, a sector that was being erased, and a part at rest. -/
theorem witness_ResetEvents_flash : (0 : Nat) < 0 + 10000000000 ∧ State.reset.pack.touched = none ∧
    ({ State.reset.pack with touched := some ⟨false, flashLoc 5, 0⟩ } : Pack).touched = some ⟨false, 2 ^ 68 + 5, 0⟩ ∧ 2 ^ 68 ≤ flashLoc 5 ∧
    ({ State.reset.pack with touched := some ⟨true, 3, 0⟩ } : Pack).touched = some ⟨true, 3, 0⟩ ∧ (State.reset.pack.remap = []) := by decide

/-- MemorySystemEvents: a granule with an error that no read has met for SCRUBPER seconds. -/
theorem witness_MemorySystemEvents_patrol :
    let p := { State.reset.pack with latent := [7], suspects := [(7, 0)], time := 86400 * 1000000000 }
    (7, 0) ∈ p.suspects ∧ 7 ∈ p.latent ∧ 0 + p.scrubPer.toNat * 1000000000 ≤ p.time := by decide

/-- FaddValues: a NaN, infinities, a finite sum that is not zero and one that is; and NearestEven at a tie. -/
theorem witness_FaddValues : Fmt.f32.value 0x7FC00000 = .nan false ∧ Fmt.f32.value 0x7F800000 = .inf false ∧
    Fmt.f32.value 0x3F800000 = .fin false (2 ^ 23) (-23) ∧ Fmt.f32.value 0x80000000 = .fin true 0 (-149) ∧
    atomValue .fadd false 0x3F800000 0x3F800000 0 = 0x40000000 ∧ atomValue .fadd false 0x80000000 0x80000000 0 = 0x80000000 ∧
    atomValue .fadd true 0x3FF0000000000000 0xBFF0000000000000 0 = 0 ∧ (0 : Int) < 1 ∧ roundAt .rne false 5 0 false 1 = (2, true) := by decide

/-- FloatPassAdds, LimbPassesAdd: a tile of values, and one block of limbs each. -/
theorem witness_FloatPassAdds :
    let rows := List.replicate 64 (List.replicate 64 (FVal.fin false 1 0))
    (∀ r ∈ rows ++ rows, r.length = 64) ∧ rows.length = 64 ∧ Fmt.f32.value 0 = .fin false 0 (-149) ∧
    (List.replicate 32 7).length = 32 * 1 ∧ sortedAbove (fun _ => (0 : BitVec 96)) 0 Acc.zero.cells = true :=
  ⟨fun r hr => by
      rcases List.mem_append.mp hr with h | h <;> rw [(List.mem_replicate.mp h).2] <;> exact List.length_replicate ..,
    List.length_replicate .., by decide, List.length_replicate .., by decide⟩

/-- TransformIsSum: an inverse transform of two. -/
theorem witness_TransformIsSum_inverse : [8, 469762047].length = 2 ^ 1 ∧ (0 : Nat) < 2 ^ 1 ∧
    transform true 1 [8, 469762047] = [3, 5] ∧ transform false 1 [3, 5] = [8, 469762047] := by decide

/-- BoxTransfers: R116's table for n = 4, and a box of three by two whose element 4 stands at the second place of the second row. -/
theorem witness_BoxTransfers :
    ([-5, -3, -2, -1, 4, 5, 6, 9].map (edgeMap 1 true 4)) = [some 3, some 2, some 1, some 0, some 3, some 2, some 1, some 1] ∧
    ([-5, -3, -2, -1, 4, 5, 6, 9].map (edgeMap 1 false 4)) = [some 1, some 3, some 2, some 1, some 2, some 1, some 0, some 3] ∧
    (boxPositions [⟨1, 9, 3, 5⟩, ⟨100, 9, 2, 7⟩])[4]? = some [6, 8] := by decide

/-- BoxTransfers: a box of two bytes read from mapped memory, one of them beyond the extent; and one of two bytes written there. -/
theorem witness_BoxTransfers_performed :
    let l : Layout := ⟨0x21000, false, [⟨1, 1, 2, 0⟩], 0, 0, false, false, false, false, 0, 0, 0, 0, 0⟩
    (performBxtIn (withOp .bxt 0 []) (theOp .bxt 0 []) l).toOption.map Prod.snd = some (dwordOf (2 ^ 48)) ∧
    ((withOp .bxt 0 []).team? (theOp .bxt 0 []).team).isSome = true ∧ l.size = (boxPositions l.dims).length * l.width / 8 ∧
    (performBxtOut (withOp .bxt 0 []) (theOp .bxt 0 []) { l with dir := true }).toOption.map Prod.snd = some 0 := by decide

end Sys2Proof.Tests
end

section
/-! PROOFS. The registers written from outside: the fields that a written value has, which writes act, and what each stores (R4, R363, R372,
R402, R404). -/

namespace Sys2Proof.Machine

open Sys2Proof

/-! ### Fields of a written value -/

theorem bit_top_iff {x : DWord} : bit x.toNat 63 = true ↔ 2 ^ 63 ≤ x.toNat := by
  have hx := x.isLt
  rw [bit, Nat.testBit_eq_decide_div_mod_eq, decide_eq_true_iff]
  omega

theorem bit_top_eq_false {x : DWord} (h : ¬ 2 ^ 63 ≤ x.toNat) : bit x.toNat 63 = false := by
  rw [← Bool.not_eq_true, bit_top_iff]
  exact h

theorem bit_zero_iff {x : Nat} : bit x 0 = true ↔ x % 2 = 1 := by
  rw [bit, Nat.testBit_zero, decide_eq_true_iff]

theorem bits_low (x n : Nat) : bits x 0 n = x % 2 ^ n := by
  rw [bits, Nat.pow_zero, Nat.div_one]

theorem ofNat_bits (x lo n : Nat) : BitVec.ofNat n (bits x lo n) = BitVec.ofNat n (x / 2 ^ lo) := by
  apply BitVec.eq_of_toNat_eq
  simp [bits]

theorem ofNat_bits_low (x n : Nat) : BitVec.ofNat n (bits x 0 n) = BitVec.ofNat n x := by
  rw [ofNat_bits, Nat.pow_zero, Nat.div_one]

/-- A register of `w` bits that holds the address of a 4 KiB page: the mask drops the low 12 bits. -/
theorem ofNat_keep_page (w : Nat) (hw : 12 ≤ w) (hw' : w ≤ 64) (x : DWord) :
    BitVec.ofNat w (keep x ((2 ^ (w - 12) - 1) * 2 ^ 12)).toNat = BitVec.ofNat w (x.toNat / 2 ^ 12 * 2 ^ 12) := by
  apply BitVec.eq_of_getLsbD_eq
  intro i hi
  simp only [keep, BitVec.getLsbD_ofNat, BitVec.toNat_and, BitVec.toNat_ofNat, Nat.testBit_and, Nat.testBit_mod_two_pow,
    Nat.testBit_mul_two_pow, Nat.testBit_div_two_pow, Nat.testBit_two_pow_sub_one]
  by_cases hpage : 12 ≤ i
  · have hmask : i - 12 < w - 12 := by omega
    have hword : i < 64 := by omega
    simp [hi, hpage, hmask, hword]
  · simp [hpage]

/-! ### The writes that act -/

theorem onDevice_of_serves {s : State} (h : s.serves s.arg.ld = true) (f : State → State) : s.onDevice f = .next (f s) := by
  rw [State.onDevice, if_pos h]

theorem onDevice_of_not_serves {s : State} (h : s.serves s.arg.ld = false) (f : State → State) : s.onDevice f = .next s := by
  rw [State.onDevice, if_neg (by simp [h])]

theorem exec_registerWrite_of_taken {s : State} (h : s.takesWrite s.arg.ld s.arg.num s.arg.flag = true) :
    exec .registerWrite s = .next (s.writeSys s.arg.ld s.devices[s.arg.ld].ctxSel s.arg.num s.arg.value) := by
  rw [exec_registerWrite, execRegisterWrite, if_pos h]

theorem exec_registerWrite_of_not_taken {s : State} (h : s.takesWrite s.arg.ld s.arg.num s.arg.flag = false) :
    exec .registerWrite s = .next s := by
  rw [exec_registerWrite, execRegisterWrite, if_neg (by simp [h])]

/-- In safe harbour the host writes the registers of the first device alone (R431). -/
theorem takesWrite_of_safe {s : State} {ld : Fin 4} (hsafe : s.pack.safe = true) (hld : ld ≠ 0) (n : Nat) :
    s.takesWrite ld n false = false := by
  simp [State.takesWrite, State.deviceRuns, hsafe, hld]

theorem takesWrite_of_no_register {s : State} {n : Nat} (h : regAccess n = none) (ld : Fin 4) (m : Bool) :
    s.takesWrite ld n m = false := by
  simp [State.takesWrite, h]

theorem takesWrite_of_readOnly {s : State} {n : Nat} (h : regAccess n = some .ro) (ld : Fin 4) (m : Bool) :
    s.takesWrite ld n m = false := by
  simp [State.takesWrite, h]

theorem takesWrite_of_mOnly {s : State} {n : Nat} (h : regAccess n = some .mOnly) (ld : Fin 4) : s.takesWrite ld n false = false := by
  simp [State.takesWrite, h]

theorem takesWrite_of_perGroup {s : State} {n : Nat} (h : perGroup n = true) (ld : Fin 4) (m : Bool) : s.takesWrite ld n m = false := by
  simp [State.takesWrite, h]

theorem inRecovery_eq_false {n : Nat} (hwhy : n ≠ 0x3C0) (hctl : n ≠ 0x3C1) (hwin : n ≠ 0x3CC) : inRecovery n = false := by
  simp [inRecovery, hwhy, hctl, hwin]

theorem takesWrite_of_recovery {s : State} {n : Nat} (hstage : s.pack.stage = .recovery) (h : inRecovery n = false) (ld : Fin 4)
    (m : Bool) : s.takesWrite ld n m = false := by
  simp [State.takesWrite, hstage, h]

/-- A register that may be read and written, outside the recovery service, by M or in a device that runs. -/
theorem takesWrite_of_readWrite {s : State} {ld : Fin 4} {n : Nat} {m : Bool} (hrw : regAccess n = some .rw) (hgroup : perGroup n = false)
    (hstage : s.pack.stage ≠ .recovery) (hfrom : m = true ∨ s.pack.safe = false ∨ ld = 0) : s.takesWrite ld n m = true := by
  have hruns : (m || s.deviceRuns ld) = true := by
    rcases hfrom with h | h | h <;> simp [State.deviceRuns, h]
  simp [State.takesWrite, hrw, hgroup, hstage, hruns]

/-- What a write of a register of the class RW leaves, from what it does to the state. -/
theorem exec_registerWrite_of_readWrite {s t : State} {n : Nat} (hstage : s.pack.stage ≠ .recovery)
    (hfrom : s.arg.flag = true ∨ s.pack.safe = false ∨ s.arg.ld = 0) (hn : s.arg.num = n) (hrw : regAccess n = some .rw)
    (hgroup : perGroup n = false) (ht : s.writeSys s.arg.ld s.devices[s.arg.ld].ctxSel n s.arg.value = t) :
    exec .registerWrite s = .next t := by
  subst hn ht
  exact exec_registerWrite_of_taken (takesWrite_of_readWrite hrw hgroup hstage hfrom)

/-! ### What is written -/

theorem regAccess_poolSize (k : Fin 8) : regAccess (0x341 + 2 * k.val) = some .rw := by
  revert k; decide

theorem perGroup_poolSize (k : Fin 8) : perGroup (0x341 + 2 * k.val) = false := by
  revert k; decide

theorem command_poolSize (s : State) (ld : Fin 4) (asn : Asn) (k : Fin 8) (x : DWord) :
    s.command ld asn (0x341 + 2 * k.val) x = some (s.writePoolSize ld k x) := by
  have hk := k.isLt
  have hindex : Fin.ofNat 8 ((0x341 + 2 * k.val - 0x340) / 2) = k := Fin.ext (by simp; omega)
  have hodd : (0x341 + 2 * k.val) % 2 ≠ 0 := by omega
  have hprofile : ¬ (0x270 ≤ 0x341 + 2 * k.val ∧ 0x341 + 2 * k.val ≤ 0x29F ∧ (0x341 + 2 * k.val - 0x270) % 12 = 9) := by omega
  have hpbuf : ¬ (0x2C0 ≤ 0x341 + 2 * k.val ∧ 0x341 + 2 * k.val ≤ 0x2FF) := by omega
  have hpool : 0x340 ≤ 0x341 + 2 * k.val ∧ 0x341 + 2 * k.val ≤ 0x34F := by omega
  unfold State.command
  split
  case h_11 => rw [if_neg hprofile, if_neg hpbuf, if_pos hpool, if_neg hodd, hindex]
  all_goals omega

theorem writeSys_of_command {s t : State} {ld : Fin 4} {asn : Asn} {n : Nat} {x : DWord} (h : s.command ld asn n x = some t) :
    s.writeSys ld asn n x = t := by
  simp [State.writeSys, h]

theorem writeSys_fbBase (s : State) (ld : Fin 4) (asn : Asn) (x : DWord) : s.writeSys ld asn 0x254 x =
    s.setDev ld { s.devices[ld] with fbBase := BitVec.ofNat 40 (x.toNat / 2 ^ 12 * 2 ^ 12) } := by
  rw [← ofNat_keep_page 40 (by decide) (by decide)]
  rfl

theorem writeSys_ptroot (s : State) (ld : Fin 4) (asn : Asn) (x : DWord) : s.writeSys ld asn 0x250 x =
    s.setCtx ld asn { s.ctx ld asn with ptroot := BitVec.ofNat 40 (x.toNat / 2 ^ 12 * 2 ^ 12) } := by
  rw [← ofNat_keep_page 40 (by decide) (by decide)]
  rfl

theorem writeSys_rtBase (s : State) (ld : Fin 4) (asn : Asn) (x : DWord) : s.writeSys ld asn 0x300 x =
    s.setDev ld { s.devices[ld] with rtBase := BitVec.ofNat 64 (x.toNat / 2 ^ 12 * 2 ^ 12) } := by
  rw [← ofNat_keep_page 64 (by decide) (by decide), BitVec.ofNat_toNat, BitVec.setWidth_eq]
  rfl

theorem writePoolSize_of_enabled {s : State} {ld : Fin 4} {n : Fin 8} (h : s.devices[ld].pools[n].en = true) (x : DWord) :
    s.writePoolSize ld n x = s := by
  simp only [State.writePoolSize, h, if_true]

theorem writePoolSize_of_disabled {s : State} {ld : Fin 4} {n : Fin 8} (h : s.devices[ld].pools[n].en = false) (x : DWord) :
    s.writePoolSize ld n x = s.setDev ld { s.devices[ld] with
      pools := s.devices[ld].pools.set n { s.devices[ld].pools[n] with size := BitVec.ofNat 25 x.toNat } } := by
  simp only [State.writePoolSize, h, Bool.false_eq_true, if_false, ofNat_bits_low]

theorem writePool_of_enabled {s : State} {ld : Fin 4} {n : Fin 8} {x : DWord} (h : s.devices[ld].pools[n].en = true)
    (hx : 2 ^ 63 ≤ x.toNat) : s.writePool ld n x = s := by
  simp only [State.writePool, h, bit_top_iff.mpr hx, Bool.and_self, if_true]

/-- A pool that a write enables is empty (R404). -/
theorem writePool_enables {s : State} {ld : Fin 4} {n : Fin 8} {x : DWord} (h : s.devices[ld].pools[n].en = false)
    (hx : 2 ^ 63 ≤ x.toNat) : s.writePool ld n x = s.setDev ld { s.devices[ld] with
      pools := s.devices[ld].pools.set n { s.devices[ld].pools[n] with
        en := true, asn := BitVec.ofNat 12 (x.toNat / 2 ^ 48), base := BitVec.ofNat 48 (x.toNat % 2 ^ 48), used := [] } } := by
  simp only [State.writePool, h, bit_top_iff.mpr hx, Bool.false_and, Bool.false_eq_true, if_false, if_true, ofNat_bits, bits_low]

theorem writePool_disables {s : State} {ld : Fin 4} {n : Fin 8} {x : DWord} (hx : ¬ 2 ^ 63 ≤ x.toNat) :
    s.writePool ld n x = s.setDev ld { s.devices[ld] with
      pools := s.devices[ld].pools.set n { s.devices[ld].pools[n] with
        en := false, asn := BitVec.ofNat 12 (x.toNat / 2 ^ 48), base := BitVec.ofNat 48 (x.toNat % 2 ^ 48) } } := by
  simp only [State.writePool, bit_top_eq_false hx, Bool.and_false, Bool.false_eq_true, if_false, ofNat_bits, bits_low]

theorem writePubBuf_of_enabled {s : State} {ld : Fin 4} {n : Fin 64} {x : DWord} (h : s.devices[ld].pbuf[n].en = true)
    (hx : 2 ^ 63 ≤ x.toNat) : s.writePubBuf ld n x = s := by
  simp only [State.writePubBuf, h, bit_top_iff.mpr hx, Bool.and_self, if_true]

theorem writePubBuf_disables {s : State} {ld : Fin 4} {n : Fin 64} {x : DWord} (h : s.devices[ld].pbuf[n].en = true)
    (hx : ¬ 2 ^ 63 ≤ x.toNat) : s.writePubBuf ld n x = s.setDev ld { s.devices[ld] with
      pbuf := s.devices[ld].pbuf.set n { s.devices[ld].pbuf[n] with en := false } } := by
  simp only [State.writePubBuf, h, bit_top_eq_false hx, Bool.and_false, Bool.false_eq_true, if_false, if_true]

/-- A publish buffer that a write enables has its first copy selected (R372). -/
theorem writePubBuf_enables {s : State} {ld : Fin 4} {n : Fin 64} {x : DWord} (h : s.devices[ld].pbuf[n].en = false)
    (hx : 2 ^ 63 ≤ x.toNat) : s.writePubBuf ld n x = s.setDev ld { s.devices[ld] with
      pbuf := s.devices[ld].pbuf.set n { en := true, sel := false, asn := BitVec.ofNat 12 (x.toNat / 2 ^ 48)
                                         page := x.toNat / 2 ^ 16 % 2 ^ 32, count := x.toNat % 2 ^ 8 + 1 } } := by
  simp only [State.writePubBuf, h, bit_top_iff.mpr hx, Bool.false_and, Bool.false_eq_true, if_false, if_true, ofNat_bits, bits_low]
  rfl

theorem writePubBuf_stores {s : State} {ld : Fin 4} {n : Fin 64} {x : DWord} (h : s.devices[ld].pbuf[n].en = false)
    (hx : ¬ 2 ^ 63 ≤ x.toNat) : s.writePubBuf ld n x = s.setDev ld { s.devices[ld] with
      pbuf := s.devices[ld].pbuf.set n { en := false, sel := s.devices[ld].pbuf[n].sel, asn := BitVec.ofNat 12 (x.toNat / 2 ^ 48)
                                         page := x.toNat / 2 ^ 16 % 2 ^ 32, count := x.toNat % 2 ^ 8 + 1 } } := by
  simp only [State.writePubBuf, h, bit_top_eq_false hx, Bool.and_false, Bool.false_eq_true, if_false, ofNat_bits, bits_low]
  rfl

/-- The nonzero masks of a profile have distinct pivots (R363). -/
def Profile.DistinctPivots (p : Profile) : Prop := ((p.masks.toList.filter fun m => m != 0).map fun m => Nat.log2 m.toNat).Nodup

/-- What a write of PCTLf that does not fail stores: EN, and ERR cleared by a 0 (R363). -/
def Profile.stored (p : Profile) (x : DWord) (en : Bool) : Profile := { p with en := en, err := p.err && x.toNat.testBit 1 }

/-- A profile in its place. -/
def State.setProfile (s : State) (ld : Fin 4) (f : Fin 4) (p : Profile) : State :=
  s.setDev ld { s.devices[ld] with profiles := s.devices[ld].profiles.set f p }

theorem writeProfile_enables {s : State} {ld : Fin 4} {f : Fin 4} {x : DWord} (hx : x.toNat % 2 = 1)
    (h : s.devices[ld].profiles[f].en = true ∨ s.devices[ld].profiles[f].DistinctPivots) :
    s.writeProfile ld f x = s.setProfile ld f (s.devices[ld].profiles[f].stored x true) := by
  unfold State.writeProfile
  simp only [bit_zero_iff.mpr hx, if_true]
  by_cases hen : s.devices[ld].profiles[f].en = true
  · simp only [hen, if_true]
    rw [State.setProfile, Profile.stored, ← hen]
    rfl
  · have hmasks := h.resolve_left hen
    unfold Profile.DistinctPivots at hmasks
    rw [if_neg hen, if_pos hmasks]
    rfl

theorem writeProfile_of_shared_pivot {s : State} {ld : Fin 4} {f : Fin 4} {x : DWord} (hx : x.toNat % 2 = 1)
    (hen : s.devices[ld].profiles[f].en = false) (h : ¬ s.devices[ld].profiles[f].DistinctPivots) :
    s.writeProfile ld f x = s.setProfile ld f { s.devices[ld].profiles[f] with err := true } := by
  unfold Profile.DistinctPivots at h
  unfold State.writeProfile
  simp only [bit_zero_iff.mpr hx, if_true, hen, Bool.false_eq_true, if_false]
  rw [if_neg h]
  rfl

theorem writeProfile_of_named {s : State} {ld : Fin 4} {f : Fin 4} {x : DWord} (hx : ¬ x.toNat % 2 = 1)
    (h : s.profileNamed ld f.val = true) :
    s.writeProfile ld f x = s.setProfile ld f { s.devices[ld].profiles[f] with err := true } := by
  unfold State.writeProfile
  simp only [mt bit_zero_iff.mp hx, h, if_true]
  rfl

theorem writeProfile_disables {s : State} {ld : Fin 4} {f : Fin 4} {x : DWord} (hx : ¬ x.toNat % 2 = 1)
    (h : s.profileNamed ld f.val = false) :
    s.writeProfile ld f x = s.setProfile ld f (s.devices[ld].profiles[f].stored x false) := by
  unfold State.writeProfile
  simp only [mt bit_zero_iff.mp hx, if_false, h, Bool.false_eq_true]
  rfl

/-! ### The statement -/

theorem registerWriteEvents : RegisterWriteEvents := by
  intro s ld d n x c served holds
  refine ⟨exec_registerWrite_of_taken, ?_, ?_, ?_⟩
  · intro hhost hsafe hld
    refine exec_registerWrite_of_not_taken ?_
    rw [hhost]
    exact takesWrite_of_safe hsafe hld n
  · intro hno
    refine exec_registerWrite_of_not_taken ?_
    rcases hno with h | h | ⟨h, hhost⟩ | h | ⟨hstage, hwhy, hctl, hwin⟩
    · exact takesWrite_of_no_register h ..
    · exact takesWrite_of_readOnly h ..
    · rw [hhost]
      exact takesWrite_of_mOnly h _
    · exact takesWrite_of_perGroup (decide_eq_true h) ..
    · exact takesWrite_of_recovery hstage (inRecovery_eq_false hwhy hctl hwin) ..
  · rintro ⟨hstage, hfrom⟩
    have holding {n : Nat} {t : State} := exec_registerWrite_of_readWrite (s := s) (t := t) (n := n) hstage hfrom
    -- a register that holds all its bits is written by definition; one that holds a page's address drops the bits below it
    refine ⟨fun hn => holding hn rfl rfl (writeSys_fbBase ..), fun hn => holding hn rfl rfl rfl,
      fun hn => holding hn rfl rfl (writeSys_rtBase ..), fun hn => holding hn rfl rfl rfl, fun hn => holding hn rfl rfl rfl,
      fun hn => holding hn rfl rfl rfl, fun hn => holding hn rfl rfl rfl, fun hn => holding hn rfl rfl (writeSys_ptroot ..),
      fun hn => holding hn rfl rfl rfl, fun hn => holding hn rfl rfl rfl, fun hn => holding hn rfl rfl rfl,
      fun hn => holding hn rfl rfl rfl, fun hn => holding hn rfl rfl rfl, fun k hn => ?_⟩
    have hsize : s.writeSys ld d.ctxSel (0x341 + 2 * k.val) x = s.writePoolSize ld k x := writeSys_of_command (command_poolSize ..)
    have hwrite {t : State} (ht : s.writePoolSize ld k x = t) : exec .registerWrite s = .next t :=
      holding hn (regAccess_poolSize k) (perGroup_poolSize k) (hsize.trans ht)
    exact ⟨fun hen => hwrite (writePoolSize_of_enabled hen x), fun hen => hwrite (writePoolSize_of_disabled hen x)⟩

theorem contextRegisterWrites : ContextRegisterWrites := by
  intro s ld d x en asn
  refine ⟨fun hno => ?_, fun hserves => ⟨?_, ?_, ?_⟩⟩
  · exact ⟨(exec_poolWrite s).trans (onDevice_of_not_serves hno _), (exec_pbufWrite s).trans (onDevice_of_not_serves hno _),
      (exec_pctlWrite s).trans (onDevice_of_not_serves hno _)⟩
  · intro n p base
    have hwrite : exec .poolWrite s = .next (s.writePool ld n s.arg.value) :=
      (exec_poolWrite s).trans (onDevice_of_serves hserves _)
    rw [hwrite]
    exact ⟨fun hp hx => by rw [writePool_of_enabled hp hx], fun hp hx => by rw [writePool_enables hp hx],
      fun hx => by rw [writePool_disables hx]⟩
  · intro n b page
    have hwrite : exec .pbufWrite s = .next (s.writePubBuf ld n s.arg.value) :=
      (exec_pbufWrite s).trans (onDevice_of_serves hserves _)
    rw [hwrite]
    exact ⟨fun hb hx => by rw [writePubBuf_of_enabled hb hx], fun hb hx => by rw [writePubBuf_enables hb hx],
      fun hb hx => by rw [writePubBuf_disables hb hx], fun hb hx => by rw [writePubBuf_stores hb hx]⟩
  · intro f p on err distinct gives
    have hwrite : exec .pctlWrite s = .next (s.writeProfile ld f s.arg.value) :=
      (exec_pctlWrite s).trans (onDevice_of_serves hserves _)
    have hgives : ∀ q, s.writeProfile ld f s.arg.value = s.setProfile ld f q → gives q :=
      fun q h => hwrite.trans (congrArg _ h)
    exact ⟨fun hx h => hgives _ (writeProfile_enables hx h), fun hx hp h => hgives _ (writeProfile_of_shared_pivot hx hp h),
      fun hx h => hgives _ (writeProfile_of_named hx h), fun hx h => hgives _ (writeProfile_disables hx h)⟩

/-- Settles O55: takesWrite says which writes act, serves which devices take a command, and the lemmas above what each write stores. -/
theorem registerWrites : Obligations.RegisterWrites := ⟨registerWriteEvents, contextRegisterWrites⟩

end Sys2Proof.Machine
end

section
/-! PROOFS. Masks of slices and lanes, and what the slices of a group are after an update. -/

namespace Sys2Proof.Machine

open Sys2Proof

/-! ### Masks -/

theorem maskHas_foldl_or {n : Nat} (l : List Nat) (m : BitVec n) (i : Nat) :
    maskHas (l.foldl (fun m i => m ||| BitVec.ofNat n (2 ^ i)) m) i = (maskHas m i || (decide (i < n) && l.contains i)) := by
  induction l generalizing m with
  | nil => simp
  | cons k rest ih =>
    rw [List.foldl_cons, ih]
    have hbit : maskHas (m ||| BitVec.ofNat n (2 ^ k)) i = (maskHas m i || (decide (i < n) && (i == k))) := by
      simp only [maskHas, BitVec.getLsbD_or, BitVec.getLsbD_ofNat, Nat.testBit_two_pow, eq_comm (a := k), beq_eq_decide]
    rw [hbit, List.contains_cons, Bool.and_or_distrib_left, Bool.or_assoc]

@[simp] theorem maskHas_zero {n : Nat} (i : Nat) : maskHas (0 : BitVec n) i = false := BitVec.getLsbD_zero

theorem maskHas_maskOf {n : Nat} (l : List Nat) (i : Nat) : maskHas (maskOf n l) i = (decide (i < n) && l.contains i) := by
  rw [maskOf, maskHas_foldl_or, maskHas_zero, Bool.false_or]

theorem maskHas_maskOf_slices (l : List (Fin 8)) (i : Fin 8) : maskHas (maskOf 8 (l.map Fin.val)) i.val = l.contains i := by
  rw [maskHas_maskOf, decide_eq_true i.isLt, Bool.true_and, Bool.eq_iff_iff]
  simp only [List.contains_iff_mem]
  exact List.mem_map_of_injective Fin.val_injective

theorem maskHas_maskOfFn {n : Nat} (f : Nat → Bool) (i : Nat) : maskHas (maskOfFn n f) i = (decide (i < n) && f i) := by
  rw [maskOfFn, maskHas_maskOf, Bool.eq_iff_iff]
  simp

theorem eq_of_maskHas {n : Nat} {a b : BitVec n} (h : ∀ i : Fin n, maskHas a i.val = maskHas b i.val) : a = b :=
  BitVec.eq_of_getLsbD_eq fun i hi => h ⟨i, hi⟩

theorem exists_maskHas_of_ne_zero {n : Nat} {m : BitVec n} (h : m ≠ 0) : ∃ i : Fin n, maskHas m i.val = true := by
  by_contra hno
  exact h (eq_of_maskHas fun i => by rw [maskHas_zero, ← Bool.not_eq_true]; exact fun hi => hno ⟨i, hi⟩)

/-! ### Slices -/

theorem Group.mapSlices_get (grp : Group) (m : BitVec 8) (f : Slice → Slice) (i : Fin 8) :
    (grp.mapSlices m f).slices[i] = if maskHas m i.val then f grp.slices[i] else grp.slices[i] := by
  simp [Group.mapSlices]

theorem Group.mapSlices_get_in (grp : Group) {m : BitVec 8} {i : Fin 8} (h : maskHas m i.val = true) (f : Slice → Slice) :
    (grp.mapSlices m f).slices[i] = f grp.slices[i] := by
  rw [Group.mapSlices_get, if_pos h]

theorem Group.mapSlices_congr (grp : Group) {m : BitVec 8} {f h : Slice → Slice}
    (he : ∀ i : Fin 8, maskHas m i.val = true → f grp.slices[i] = h grp.slices[i]) : grp.mapSlices m f = grp.mapSlices m h := by
  simp only [Group.mapSlices]
  congr 1
  ext i hi
  simp only [Vector.getElem_ofFn]
  split
  case isTrue hm => exact he ⟨i, hi⟩ hm
  case isFalse => rfl

theorem Group.mem_livingSlices {grp : Group} {i : Fin 8} : i ∈ grp.livingSlices ↔ grp.slices[i].exited = false := by
  simp [Group.livingSlices]

theorem Group.livingSlices_isEmpty_eq_false {grp : Group} {i : Fin 8} (h : grp.slices[i].exited = false) :
    grp.livingSlices.isEmpty = false := by
  rw [List.isEmpty_eq_false_iff]
  exact List.ne_nil_of_mem (Group.mem_livingSlices.mpr h)

theorem Group.maskHas_present (grp : Group) (i : Fin 8) : maskHas grp.present i.val = !grp.slices[i].exited := by
  simp [Group.present, maskHas_maskOfFn]

theorem Group.maskOf_livingSlices (grp : Group) : maskOf 8 (grp.livingSlices.map Fin.val) = grp.present := by
  refine eq_of_maskHas fun i => ?_
  rw [maskHas_maskOf_slices, Group.maskHas_present, Bool.eq_iff_iff, List.contains_iff_mem, Group.mem_livingSlices, Bool.not_eq_true']

/-- A group with a slice that neither has exited nor waits at a REGANG goes on when lanes of it have ended. -/
theorem afterEnd_of_running {s : State} {g : GroupId} {grp : Group} (hg : s.group? g = some grp) {i : Fin 8}
    (hex : grp.slices[i].exited = false) (hw : grp.slices[i].wait ≠ .regang) : s.afterEnd g = s := by
  have hmem : i ∈ grp.livingSlices := Group.mem_livingSlices.mpr hex
  have hall : (grp.livingSlices.all fun i => grp.slices[i].wait == .regang) = false := by
    rw [List.all_eq_false]
    exact ⟨i, hmem, by simpa using hw⟩
  have hempty := Group.livingSlices_isEmpty_eq_false hex
  simp only [State.afterEnd, hg, hempty, Bool.false_eq_true, if_false, State.evalRegang, hall, Bool.not_false, Bool.or_true, if_true]

end Sys2Proof.Machine
end

section
/-! PROOFS. Transfers of control: the tests that a transfer passes, and what BRA, CALL, the register jumps, LOOP and NOP leave (R34, R36, R47,
R275, R284 to R286, R307). -/

namespace Sys2Proof.Machine

open Sys2Proof

/-! ### The tests of a transfer -/

theorem checkTow_ok {s : State} {g : GroupId} {grp : Group} {slices : BitVec 8} {target : Addr}
    (h : ∀ i : Fin 8, maskHas slices i.val = true → s.towAllows g grp i target = true) : checkTow s g grp slices target = .ok () := by
  have hall : ((List.finRange 8).all fun (i : Fin 8) => !maskHas slices i.val || s.towAllows g grp i target) = true := by
    simp only [List.all_eq_true, Bool.or_eq_true, Bool.not_eq_true']
    intro i _
    cases hi : maskHas slices i.val
    · exact .inl rfl
    · exact .inr (h i hi)
  rw [checkTow, hall, require_true]

theorem checkTarget_ok {s : State} {target : Addr} (h : s.mayGoTo target) : checkTarget s target = .ok () := by
  rcases h with ⟨g, slices, grp, hi, htow⟩ | ⟨cl, p, hi, hin⟩
  · simp only [checkTarget, hi.cur, hi.here, checkTow_ok htow]
  · simp only [checkTarget, hi.cur, hin, decide_true, require_true]

theorem jump_ok {s : State} {target : Addr} (h : s.mayGoTo target) (test : Bool) :
    jump s target test = .ok (s.goto target (if test then popLeft target s.loops else s.loops)).endRun := by
  simp only [jump, checkTarget_ok h, Except.ok_bind', Except.pure_ok]

theorem checkLink_ok {s : State} (hi : s.issuing) (h : s.plainLink) : checkLink s = .ok () := by
  obtain ⟨hgang, hpilot⟩ := h
  rcases hi with ⟨g, slices, grp, hi⟩ | ⟨cl, p, hi⟩
  · simp [checkLink, hi.cur, hi.here, hgang g slices grp hi]
  · simp [checkLink, hi.cur, hi.here, hpilot cl p hi]

theorem mayGoTo_issuing {s : State} {target : Addr} (h : s.mayGoTo target) : s.issuing := by
  rcases h with ⟨g, slices, grp, hi, _⟩ | ⟨cl, p, hi, _⟩
  · exact .inl ⟨g, slices, grp, hi⟩
  · exact .inr ⟨cl, p, hi⟩

theorem UJ.taken_iff {o : UJ} {s : State} : UJ.taken o s = true ↔ s.readCond o.k ≠ o.x := bne_iff_ne

theorem UJ.taken_eq_false {o : UJ} {s : State} (h : s.readCond o.k = o.x) : UJ.taken o s = false := by
  simp [UJ.taken, h]

/-- The one source of a word. -/
theorem uv_source (s : State) (r : Fin 64) : uv ([r].map s.readU) 0 = s.readU r := by
  simp [uv]

/-! ### The words -/

theorem exec_bra_taken {o : UJ} {s : State} (h : s.readCond o.k ≠ o.x) (hgo : s.mayGoTo (jumpTarget s.pc o.off)) :
    exec (.bra o) s = .next (s.goto (jumpTarget s.pc o.off) (popLeft (jumpTarget s.pc o.off) s.loops)).endRun := by
  refine onAny_ok (mayGoTo_issuing hgo) ?_
  rw [if_pos (UJ.taken_iff.mpr h), jump_ok hgo, if_pos rfl]

theorem exec_call_taken {o : UJ} {s : State} (h : s.readCond o.k ≠ o.x) (hgo : s.mayGoTo (jumpTarget s.pc o.off)) (hlink : s.plainLink) :
    exec (.call o) s =
      .next ((s.goto (jumpTarget s.pc o.off) s.loops).endRun.writeUniform 63 ((nextWord s.pc).zeroExtend 64)) := by
  refine onAny_ok (mayGoTo_issuing hgo) ?_
  rw [if_pos (UJ.taken_iff.mpr h), checkLink_ok (mayGoTo_issuing hgo) hlink, Except.ok_bind', jump_ok hgo]
  rfl

theorem exec_uj_not_taken {o : UJ} {s : State} (hi : s.issuing) (h : s.readCond o.k = o.x) :
    exec (.bra o) s = .next s.advance ∧ exec (.call o) s = .next s.advance := by
  constructor
  · exact onAny_ok hi (by rw [UJ.taken_eq_false h, if_neg Bool.false_ne_true])
  · exact onAny_ok hi (by rw [UJ.taken_eq_false h, if_neg Bool.false_ne_true, Except.pure_ok])

/-- The one lemma about the register jumps: `linkOp` are those that name s63, `link` the one that writes it. -/
theorem registerJump_taken {o : UA} {s : State} {link test linkOp : Bool} (hr : s.uniformReady [o.sa] [])
    (hlink : linkOp = true → s.plainLink) (hc : s.condHolds = true) (halign : (s.readU o.sa).toNat % 4 = 0)
    (hbound : (s.readU o.sa).toNat < 2 ^ 48) (hgo : s.mayGoTo (BitVec.ofNat 48 (s.readU o.sa).toNat)) :
    let target : Addr := BitVec.ofNat 48 (s.readU o.sa).toNat
    let there := (s.goto target (if test then popLeft target s.loops else s.loops)).endRun
    registerJump o s link test linkOp = .next (if link then there.writeUniform 63 ((nextWord s.pc).zeroExtend 64) else there) := by
  intro target there
  have hi := issuing_of_ready hr
  refine onAny_ok hi ?_
  simp only [hc, Bool.not_true, Bool.false_eq_true, if_false, noPorts, uniformSources_plain hr, Except.ok_bind', uv_source, halign, beq_self_eq_true,
    hbound, decide_true, require_true, checkTarget_ok hgo, commitPops_nil, jump_ok hgo, Except.pure_ok]
  cases linkOp
  · rfl
  · simp only [if_true, checkLink_ok hi (hlink rfl), Except.ok_bind']
    rfl

theorem registerJump_not_taken {o : UA} {s : State} {link test linkOp : Bool} (hi : s.issuing) (hc : s.condHolds = false) :
    registerJump o s link test linkOp = .next s.advance :=
  onAny_ok hi (by simp [hc])

theorem execLoop_pushes {o : ULoop} {s : State} (hr : s.uniformReady [o.sa] []) (hcount : BitVec.ofNat 32 (s.readU o.sa).toNat ≠ 0)
    (hroom : s.loops.length < 4) : execLoop o s = .next (s.goto (s.pc + 4)
      (⟨s.pc + 4, s.pc + 4 + BitVec.ofNat 48 (4 * o.imm.toNat), BitVec.ofNat 32 (s.readU o.sa).toNat⟩ :: s.loops)) := by
  refine onAny_ok (issuing_of_ready hr) ?_
  simp only [noPorts, uniformSources_plain hr, Except.ok_bind', uv_source, if_neg hcount, hroom, decide_true, require_true, commitPops_nil,
    Except.pure_ok]

theorem execLoop_passes {o : ULoop} {s : State} (hr : s.uniformReady [o.sa] []) (hcount : BitVec.ofNat 32 (s.readU o.sa).toNat = 0)
    (hin : ∀ cl p, PilotIssues s cl p → (s.pc + 4 + BitVec.ofNat 48 (4 * o.imm.toNat) + 4).toNat < 2 ^ 16) :
    execLoop o s = .next (s.goto (s.pc + 4 + BitVec.ofNat 48 (4 * o.imm.toNat) + 4) s.loops).endRun := by
  have hi := issuing_of_ready hr
  refine onAny_ok hi ?_
  simp only [noPorts, uniformSources_plain hr, Except.ok_bind', uv_source, if_pos hcount, commitPops_nil, Except.pure_ok]
  rcases hi with ⟨g, slices, grp, hi⟩ | ⟨cl, p, hi⟩
  · simp only [hi.cur]
  · simp only [hi.cur, checkTarget_ok (.inr ⟨cl, p, hi, hin cl p hi⟩), Except.ok_bind']

/-! ### The statement -/

theorem branchResults : BranchResults := by
  refine ⟨?_, ?_, ?_, ?_, ?_⟩
  · intro o s hi target
    exact ⟨exec_bra_taken, fun h => (exec_uj_not_taken hi h).1⟩
  · intro o s hi target
    exact ⟨exec_call_taken, fun h => (exec_uj_not_taken hi h).2⟩
  all_goals
    intro o s hr hlink t target there
    exact ⟨registerJump_taken hr hlink, registerJump_not_taken (issuing_of_ready hr)⟩

theorem loopResults : LoopResults :=
  ⟨fun _ _ hr => ⟨execLoop_pushes hr, execLoop_passes hr⟩, fun _ hi => onAny_ok hi rfl⟩

/-- Settles O59: each transfer passes its tests, and the words' meanings are then what the statement says. -/
theorem jumpAndLoopWords : Obligations.JumpAndLoopWords := ⟨branchResults, loopResults⟩

end Sys2Proof.Machine
end

section
/-! PROOFS. Divergence: what RCV, BRP and JOIN leave of the slices of a gang (R18, R36, R288). -/

namespace Sys2Proof.Machine

open Sys2Proof

/-- The slices of a mask, ascending. -/
def slicesIn (m : BitVec 8) : List (Fin 8) := (List.finRange 8).filter fun (i : Fin 8) => maskHas m i.val

theorem mem_slicesIn {m : BitVec 8} {i : Fin 8} : i ∈ slicesIn m ↔ maskHas m i.val = true := by
  simp [slicesIn]

theorem nodup_slicesIn (m : BitVec 8) : (slicesIn m).Nodup := (List.nodup_finRange 8).filter _

theorem all_slicesIn {m : BitVec 8} {p : Fin 8 → Bool} : (slicesIn m).all p = true ↔ ∀ i : Fin 8, maskHas m i.val = true → p i = true := by
  simp only [List.all_eq_true, mem_slicesIn]

theorem any_slicesIn {m : BitVec 8} {p : Fin 8 → Bool} : (slicesIn m).any p = true ↔ ∃ i : Fin 8, maskHas m i.val = true ∧ p i = true := by
  simp only [List.any_eq_true, mem_slicesIn]

/-! ### Slices set one after the other -/

/-- The slices of a list changed one after the other. -/
def setEach (l : List (Fin 8)) (f : Fin 8 → Slice → Slice) (v : Vector Slice 8) : Vector Slice 8 :=
  l.foldl (fun v (i : Fin 8) => v.set i (f i v[i])) v

theorem foldl_group_setEach (l : List (Fin 8)) (f : Fin 8 → Slice → Slice) (grp : Group) :
    l.foldl (fun (x : Group) (i : Fin 8) => { x with slices := x.slices.set i (f i x.slices[i]) }) grp =
      { grp with slices := setEach l f grp.slices } := by
  induction l generalizing grp with
  | nil => rfl
  | cons i rest ih => rw [List.foldl_cons, ih]; rfl

theorem setEach_get {l : List (Fin 8)} (hl : l.Nodup) (f : Fin 8 → Slice → Slice) (v : Vector Slice 8) (j : Fin 8) :
    (setEach l f v)[j] = if j ∈ l then f j v[j] else v[j] := by
  induction l generalizing v with
  | nil => simp [setEach]
  | cons i rest ih =>
    obtain ⟨hi, hrest⟩ := List.nodup_cons.mp hl
    rw [show setEach (i :: rest) f v = setEach rest f (v.set i (f i v[i])) from rfl, ih hrest]
    by_cases hj : j = i
    · subst hj
      simp [hi]
    · have hne : i.val ≠ j.val := fun h => hj (Fin.ext h.symm)
      simp [hj, Vector.getElem_set_ne, hne]

theorem setEach_slicesIn (m : BitVec 8) (f : Fin 8 → Slice → Slice) (v : Vector Slice 8) :
    setEach (slicesIn m) f v = Vector.ofFn fun (i : Fin 8) => if maskHas m i.val then f i v[i] else v[i] := by
  ext j hj
  have hget := setEach_get (nodup_slicesIn m) f v ⟨j, hj⟩
  simp only [mem_slicesIn] at hget
  simpa using hget

/-! ### RCV -/

theorem exec_rcv_opens {o : UOff} {s : State} {g : GroupId} {slices : BitVec 8} {grp : Group} (hi : Issues s g slices grp)
    (hroom : ∀ i : Fin 8, maskHas slices i.val = true → grp.slices[i].recon.length < 32) :
    exec (.rcv o) s = .next (s.setGroup g (grp.mapSlices slices fun sl =>
      { sl with recon := .opened (jumpTarget (grp.lead slices).pc o.off) sl.active :: sl.recon })).advance := by
  have hall : (slicesIn slices).all (fun i => decide (grp.slices[i].recon.length < 32)) = true :=
    all_slicesIn.mpr fun i him => decide_eq_true (hroom i him)
  refine onGang_ok hi ?_
  rw [slicesIn] at hall
  simp only [hall, require_true, Except.ok_bind', Except.pure_ok]

/-! ### BRP -/

theorem sliceBits_not (m : LaneMask) (i : Fin 8) : sliceBits (~~~m) i.val = ~~~sliceBits m i.val := by
  have hi := i.isLt
  apply BitVec.eq_of_getLsbD_eq
  intro k hk
  have hlane : 4 * i.val + k < 32 := by omega
  simp only [sliceBits, BitVec.getLsbD_ofNat, BitVec.getLsbD_not, Nat.testBit_div_two_pow, BitVec.testBit_toNat, hk,
    decide_true, Bool.true_and, Nat.add_comm k, hlane]

/-- The lanes of a slice that take a BRP, with the predicate negated before it is cut into slices. -/
theorem brpTakes_eq (grp : Group) (o : UJ) (i : Fin 8) : brpTakes grp o i =
    BitVec.ofNat 4 ((if o.x then ~~~(grp.pred o.k) else grp.pred o.k).toNat / 2 ^ (4 * i.val)) &&& grp.slices[i].active := by
  cases hx : o.x
  · simp only [brpTakes, hx, Bool.false_eq_true, if_false, sliceBits]
  · simp only [brpTakes, hx, if_true, ← sliceBits_not]
    rfl

/-- A group whose slices have gone their ways at a BRP. -/
def Group.afterBrp (grp : Group) (slices : BitVec 8) (takes : Fin 8 → BitVec 4) (target : Addr) : Group :=
  { grp.dropProgress slices with
    slices := Vector.ofFn fun (i : Fin 8) =>
      if maskHas slices i.val then brpLeaves (takes i) target grp.slices[i] else grp.slices[i] }

/-- BRP that passes its tests: each slice of the gang goes its way, and the run ends when any lane takes the branch. -/
theorem exec_brp_divides {o : UJ} {s : State} {g : GroupId} {slices : BitVec 8} {grp : Group} {target : Addr} (hi : Issues s g slices grp)
    (htarget : target = jumpTarget (grp.lead slices).pc o.off)
    (hok : ∀ i : Fin 8, maskHas slices i.val = true → brpTakes grp o i ≠ 0 → s.towAllows g grp i target = true ∧
      (brpTakes grp o i ≠ grp.slices[i].active → grp.slices[i].recon.length < 32 ∧ (openJoin grp.slices[i].recon).isSome = true)) :
    let t := s.setGroup g (grp.afterBrp slices (brpTakes grp o) target)
    exec (.brp o) s =
      .next (if ((slicesIn slices).filter fun i => brpTakes grp o i != 0) = [] then t else t.endRun) := by
  intro t
  have hparts : ∀ i ∈ (slicesIn slices).filter fun i => brpTakes grp o i != 0 && brpTakes grp o i != grp.slices[i].active,
      grp.slices[i].recon.length < 32 ∧ (openJoin grp.slices[i].recon).isSome = true := by
    intro i hi
    simp only [List.mem_filter, mem_slicesIn, Bool.and_eq_true, bne_iff_ne] at hi
    obtain ⟨him, htakes, hdiv⟩ := hi
    exact (hok i him htakes).2 hdiv
  have hroom := List.all_eq_true.mpr fun i hi => decide_eq_true (hparts i hi).1
  have hopen := List.all_eq_true.mpr fun i hi => (hparts i hi).2
  have htow : checkTow s g grp (maskOf 8 (((slicesIn slices).filter fun i => brpTakes grp o i != 0).map Fin.val)) target = .ok () := by
    refine checkTow_ok fun i hi => ?_
    rw [maskHas_maskOf_slices, List.contains_iff_mem, List.mem_filter, mem_slicesIn, bne_iff_ne] at hi
    exact (hok i hi.1 hi.2).1
  have hslices := foldl_group_setEach (slicesIn slices) (fun i => brpSlice (brpTakes grp o i) target) (grp.dropProgress slices)
  rw [setEach_slicesIn] at hslices
  subst htarget
  refine onGang_ok hi ?_
  simp only [slicesIn] at hroom hopen htow hslices
  simp only [hroom, hopen, htow, hslices, require_true, Except.ok_bind', Except.pure_ok]
  rfl

/-! ### JOIN -/

/-- The innermost entry of a slice names the word at its program counter and has lanes to resume. -/
def Slice.Resumes (sl : Slice) : Prop :=
  (∃ w r rest, sl.recon = .path sl.pc w r :: rest ∧ w ≠ 0) ∨ ∃ m rest, sl.recon = .opened sl.pc m :: rest ∧ m ≠ 0

theorem Slice.Resumes.joins {sl : Slice} (h : sl.Resumes) : sl.joins = true := by
  rcases h with ⟨w, r, rest, he, -⟩ | ⟨m, rest, he, -⟩ <;> simp [Slice.joins, he]

theorem Slice.Resumes.join {sl : Slice} (h : sl.Resumes) : sl.join = joinLeaves sl := by
  rcases h with ⟨w, r, rest, he, hw⟩ | ⟨m, rest, he, hm⟩
  · simp only [Slice.join, joinLeaves, he, Slice.rejoin, if_neg hw]
  · simp only [Slice.join, joinLeaves, he, Slice.rejoin, if_neg hm]

theorem joinLeaves_exited (sl : Slice) : (joinLeaves sl).exited = sl.exited := by
  unfold joinLeaves; split <;> rfl

theorem joinLeaves_wait (sl : Slice) : (joinLeaves sl).wait = sl.wait := by
  unfold joinLeaves; split <;> rfl

theorem exec_join_resumes {s : State} {g : GroupId} {slices : BitVec 8} {grp : Group} (hi : Issues s g slices grp) (hne : slices ≠ 0)
    (hok : ∀ i : Fin 8, maskHas slices i.val = true →
      grp.slices[i].exited = false ∧ grp.slices[i].wait = .ready ∧ grp.slices[i].Resumes) :
    let t := s.setGroup g ((grp.dropProgress slices).mapSlices slices joinLeaves)
    exec .join s = .next (if ((slicesIn slices).any fun i => grp.slices[i].onPath) = true then t.endRun else t) := by
  intro t
  have hjoins : (slicesIn slices).all (fun i => grp.slices[i].joins) = true := all_slicesIn.mpr fun i him => (hok i him).2.2.joins
  have hjoin : (grp.dropProgress slices).mapSlices slices Slice.join = (grp.dropProgress slices).mapSlices slices joinLeaves :=
    Group.mapSlices_congr _ fun i him => by simpa using (hok i him).2.2.join
  obtain ⟨i, him⟩ := exists_maskHas_of_ne_zero hne
  obtain ⟨hexited, hready, -⟩ := hok i him
  have hget : ((grp.dropProgress slices).mapSlices slices joinLeaves).slices[i] = joinLeaves grp.slices[i] := by
    rw [Group.mapSlices_get_in _ him, Group.dropProgress_slices]
  have hafter : t.afterEnd g = t := by
    refine afterEnd_of_running (State.group?_setGroup ..) (i := i) ?_ ?_
    · rw [hget, joinLeaves_exited, hexited]
    · rw [hget, joinLeaves_wait, hready]
      decide
  refine onGang_ok hi ?_
  simp only [slicesIn] at hjoins
  simp only [hjoins, require_true, Except.ok_bind', Except.pure_ok, hjoin]
  rw [show (s.setGroup g ((grp.dropProgress slices).mapSlices slices joinLeaves)).afterEnd g = t from hafter]
  rfl

/-! ### The statement -/

/-- Settles O9: the tests of each word pass, and the slices set one after the other are those that the statement names. -/
theorem divergenceResults : Obligations.DivergenceResults := by
  refine ⟨?_, ?_, ?_⟩
  · intro o s g slices grp hi hroom j
    exact exec_rcv_opens hi hroom
  · intro o s g slices grp hi target takes hok after t
    have htakes : takes = brpTakes grp o := funext fun i => (brpTakes_eq grp o i).symm
    have hexec := exec_brp_divides hi (rfl : target = _) (fun i him => by have := hok i him; rwa [htakes] at this)
    have ht : t = s.setGroup g (grp.afterBrp slices (brpTakes grp o) target) := by
      rw [← htakes]
      rfl
    rw [htakes]
    constructor
    · rintro ⟨i, him, hi0⟩
      have hmem : i ∈ (slicesIn slices).filter fun i => brpTakes grp o i != 0 :=
        List.mem_filter.mpr ⟨mem_slicesIn.mpr him, by simpa using hi0⟩
      rw [hexec, if_neg (List.ne_nil_of_mem hmem), ht]
    · intro hnone
      have hnil : ((slicesIn slices).filter fun i => brpTakes grp o i != 0) = [] :=
        List.filter_eq_nil_iff.mpr fun i hi => by simp [hnone i (mem_slicesIn.mp hi)]
      rw [hexec, if_pos hnil, ht]
  · intro s g slices grp hi hne hok t
    have hexec := exec_join_resumes hi hne hok
    constructor
    · intro hpath
      rw [hexec, if_pos (any_slicesIn.mpr hpath)]
    · intro hnone
      rw [hexec, if_neg]
      intro hany
      obtain ⟨i, him, hp⟩ := any_slicesIn.mp hany
      exact Bool.false_ne_true ((hnone i him).symm.trans hp)

end Sys2Proof.Machine
end

section
/-! PROOFS. The end of lanes, regathering, regions and the switch of role (R17, R19, R22, R72, R289 to R293). -/

namespace Sys2Proof.Machine

open Sys2Proof

/-! ### Who issues a word, and moves past it -/

theorem issuing_gang {s : State} {g : GroupId} {slices : BitVec 8} {grp : Group} (hi : Issues s g slices grp) : s.issuing :=
  .inl ⟨g, slices, grp, hi⟩

theorem issuing_pilot {s : State} {cl : ClusterId} {p : Pilot} (hi : PilotIssues s cl p) : s.issuing := .inr ⟨cl, p, hi⟩

theorem State.advance_gang {s : State} {g : GroupId} {slices : BitVec 8} {grp : Group} (hi : Issues s g slices grp) :
    s.advance = s.doneWith g slices grp := by
  simp [State.advance, hi.cur, hi.here, State.doneWith, Group.done]

theorem State.advance_pilot {s : State} {cl : ClusterId} {p : Pilot} (hi : PilotIssues s cl p) :
    s.advance = s.setPilot cl (p.advance s.pair) := by
  simp [State.advance, hi.cur, hi.here]

theorem checkQuiet_ok {s : State} {cl : ClusterId} {p : Pilot} (hi : PilotIssues s cl p) (hq : p.accesses = []) : checkQuiet s = .ok () := by
  simp only [checkQuiet, hi.cur, hi.here, hq, List.isEmpty_nil, if_true]

/-! ### EXIT -/

theorem exec_exit_ends {s : State} {g : GroupId} {slices : BitVec 8} {grp : Group} (hi : Issues s g slices grp) (hc : s.condHolds = true) :
    let grp' := (grp.dropProgress slices).mapSlices slices fun sl => sl.end_ sl.active
    exec .exitLanes s = .next ((s.setGroup g (grp'.pin grp'.present)).afterEnd g).endRun := by
  intro grp'
  refine onAny_ok (issuing_gang hi) ?_
  simp only [hc, Bool.not_true, Bool.false_eq_true, if_false, hi.cur, hi.here, Group.maskOf_livingSlices]
  rfl

/-- A slice whose active lanes end leaves the group when no entry waits. -/
theorem Slice.end_active_of_no_entry {sl : Slice} (h : sl.recon = []) : sl.end_ sl.active =
    { sl with active := 0, ended := sl.ended ||| sl.active, recon := [], exited := true, tows := [], wait := .ready, why := 0
              dbg := .none } := by
  have hnone : sl.active &&& ~~~sl.active = 0 := BitVec.and_not_self _
  simp only [Slice.end_, h, List.map_nil, hnone, if_true, Slice.rejoin]

theorem exec_exit_pilot {s : State} {cl : ClusterId} {p : Pilot} (hi : PilotIssues s cl p) (hc : s.condHolds = true) (hq : p.accesses = []) :
    exec .exitLanes s = .next (s.endGenerator cl).endRun := by
  refine onAny_ok (issuing_pilot hi) ?_
  simp only [hc, Bool.not_true, Bool.false_eq_true, if_false, hi.cur, checkQuiet_ok hi hq, Except.ok_bind', Except.pure_ok]

/-! ### REGANG -/

theorem exec_regang_passes {s : State} {g : GroupId} {slices : BitVec 8} {grp : Group} (hi : Issues s g slices grp)
    (h : s.condHolds = false ∨ slices = 0xFF) : exec .regang s = .next s.advance := by
  refine onGang_ok hi ?_
  rw [if_pos]
  exact h.imp (fun hc => by simp [hc]) id

theorem exec_regang_waits {s : State} {g : GroupId} {slices : BitVec 8} {grp : Group} (hi : Issues s g slices grp)
    (hc : s.condHolds = true) (hs : slices ≠ 0xFF) :
    exec .regang s = .next ((s.setGroup g (grp.setWait slices .regang s.fetched)).evalRegang g).endRun := by
  refine onGang_ok hi ?_
  rw [if_neg]
  exact fun h => h.elim (by simp [hc]) hs

/-! ### RGN -/

theorem exec_rgn_begins {s : State} {g : GroupId} {slices : BitVec 8} {grp : Group} (hi : Issues s g slices grp) (hc : s.condHolds = true) :
    exec .rgn s = .next (s.setGroup g ((grp.done slices s.pair).beginRegion slices)) := by
  refine onAny_ok (issuing_gang hi) ?_
  simp only [hc, Bool.not_true, Bool.false_eq_true, if_false, hi.cur, State.advance_gang hi, State.doneWith, State.group?_setGroup,
    State.setGroup_setGroup]

theorem exec_rgn_pilot {s : State} {cl : ClusterId} {p : Pilot} (hi : PilotIssues s cl p) (hc : s.condHolds = true) :
    exec .rgn s = .next (s.setPilot cl { p.advance s.pair with region := p.region + 1 }) := by
  refine onAny_ok (issuing_pilot hi) ?_
  simp only [hc, Bool.not_true, Bool.false_eq_true, if_false, hi.cur, State.advance_pilot hi, State.pilot_setPilot, State.setPilot_setPilot]
  rfl

/-- What a slice has done in its region is what it had done before its word. -/
theorem Group.done_pinned_issued (grp : Group) (slices : BitVec 8) (pair : Bool) (i : Fin 8) :
    (grp.done slices pair).slices[i].pinned = grp.slices[i].pinned ∧ (grp.done slices pair).slices[i].issued = grp.slices[i].issued := by
  rw [Group.done, Group.advance, Group.mapSlices_get, Group.dropProgress_slices]
  split <;> exact ⟨rfl, rfl⟩

/-! ### ROLESW -/

theorem exec_rolesw_switches {s : State} {g : GroupId} {grp : Group} {l : Launch} (hi : Issues s g 0xFF grp) (hc : s.condHolds = true)
    (hl : s.launch? grp.launch = some l) (hv : l.pkt.version ≠ 1) :
    let r := if grp.producer then l.pkt.cons else l.pkt.prod
    let gained := fun (i : Nat) => decide (grp.allot ≤ i ∧ i < r.allot)
    r.named = true → (∀ i : Fin 8, s.towAllows g grp i (l.pkt.entryOf r) = true) →
      exec .rolesw s = .next (s.setGroup g ({ (grp.dropProgress 0xFF).pin 0xFF with
        producer := !grp.producer, allot := r.allot, cls := r.cls
        v := Vector.ofFn fun (i : Fin 96) => if gained i.val then Vector.replicate 32 0 else grp.v[i]
        tags := Vector.ofFn fun (i : Fin 96) => if gained i.val then 0 else grp.tags[i]
        vpoison := grp.vpoison.filter fun e => !gained e.1 }.mapSlices 0xFF fun sl => { sl with pc := l.pkt.entryOf r })).endRun := by
  intro r gained hnamed htow
  have hrole : (l.pkt.version != 1 && r.named) = true := by
    rw [hnamed, Bool.and_true, bne_iff_ne]
    exact hv
  have hok : checkTow s g grp 0xFF (l.pkt.entryOf r) = .ok () := checkTow_ok fun i _ => htow i
  refine onGang_ok hi ?_
  simp only [requireGang, beq_self_eq_true, require_true, Except.ok_bind', hc, Bool.not_true, Bool.false_eq_true, if_false, hl, Except.pure_ok]
  rw [show (if grp.producer = true then l.pkt.cons else l.pkt.prod) = r from rfl]
  simp only [hrole, hok, require_true, Except.ok_bind']
  rfl

/-! ### The statement -/

/-- Settles O10: each word's branches, with the slices and the launch that the statement names. -/
theorem laneEndResults : Obligations.LaneEndResults := by
  refine ⟨?_, ?_, ?_, ?_, ?_, ?_, ?_⟩
  · intro s g slices grp hi
    exact ⟨exec_exit_ends hi, fun hc => onAny_ok (issuing_gang hi) (by rw [hc]; rfl)⟩
  · exact fun sl => Slice.end_active_of_no_entry
  · exact fun s cl p => exec_exit_pilot
  · intro s g slices grp hi
    exact ⟨exec_regang_passes hi, exec_regang_waits hi⟩
  · intro s g slices grp hi hc grp'
    rw [exec_rgn_begins hi hc, Group.beginRegion]
    simp only [(Group.done_pinned_issued grp slices s.pair _).1, (Group.done_pinned_issued grp slices s.pair _).2]
    rfl
  · exact fun s cl p => exec_rgn_pilot
  · exact fun s g grp l => exec_rolesw_switches

end Sys2Proof.Machine
end

section
/-! PROOFS. What a gang fetches when one of its slices ends a wait: the word at which that slice waits, which code written meanwhile may have
replaced at the program counter (R27, R100, R106). -/

namespace Sys2Proof.Machine

open Sys2Proof


/-- IADDI v7, v7, −1. -/
def iaddiWord : Word := 0x4E01C7FF

/-- AWAIT 0. -/
def awaitWord : Word := 0xAC000000

/-- A group whose slice 0 is ready and whose slice 1 waits for its batches at an AWAIT that it has fetched at the same address. -/
def halfWaiting : Group :=
  (placedGroup (placedLaunch 1) (placedTeam 2 1) iaddiWord).setWait 2 (.batches 0) ⟨awaitWord, 0, none, false⟩

/-- The placed program with such a group, where IADDI has been written over the AWAIT. -/
def halfWaitingState : State := (State.reset.withFetchWord 32 iaddiWord.toNat).setGroup 0 halfWaiting

/-- Where a fetch at the program counter finds its bytes, once the gang of slices 0 and 1 is ready. -/
def halfWaitingPlaces : Except Nat (State × List Place) :=
  let s := halfWaitingState.setGroup 0 (halfWaiting.wake 3)
  s.places (s.groupReq 0 (halfWaiting.wake 3) .fetch) (halfWaiting.lead 3).pc.toNat 4

/-- A witness that the state is one of the part's: the word at which slice 1 waits is AWAIT 0, its wait is over, and slices 0 and 1 then stand
as one candidate. -/
theorem witness_halfWaiting : (decodeWords awaitWord 0).toOption = some (.await ⟨0⟩, ⟨false, 0, 0⟩, 1) ∧
    halfWaitingState.waitOver 0 halfWaiting halfWaiting.slices[1] = true ∧
    halfWaiting.slices[1].alike halfWaiting.slices[0] = true := by decide

/-- The IADDI at the program counter translates and is not poisoned. -/
theorem halfWaiting_code : (match halfWaitingPlaces with
    | .ok (t, ps) => (t.readPlaces ps).2 == none && BitVec.ofNat 32 (ofBytes (t.codeBytes halfWaiting.launch ps)) == iaddiWord
    | .error _ => false) = true := by decide

/-- The gang issues the AWAIT. -/
theorem halfWaiting_nextFetch :
    (halfWaitingState.nextFetch 0 halfWaiting 3).toOption.map (fun r => r.2.word) = some awaitWord := by decide

theorem not_plainFetch : ¬ PlainFetch := by
  intro h
  have hcode := halfWaiting_code
  split at hcode
  case h_2 => exact absurd hcode Bool.false_ne_true
  case h_1 t ps hplaces =>
    rw [Bool.and_eq_true, beq_iff_eq, beq_iff_eq] at hcode
    obtain ⟨hclean, hword⟩ := hcode
    have hplain := (h halfWaitingState t 0 3 halfWaiting ps (State.group?_setGroup ..) (by decide) (by decide) (.inr (by decide))
      hplaces hclean).1
    rw [hword] at hplain
    have hnext := halfWaiting_nextFetch
    rw [hplain (by decide)] at hnext
    simp only [Except.toOption, Option.map_some, Option.some.injEq] at hnext
    exact absurd hnext (by decide)

/-- Refutes O29: PlainFetch asks only the lowest slice of the gang to be ready. A ready slice and one whose wait is over form one gang
(R14, R27), and it issues the word at which the slice waits: slices 0 and 1, of which slice 1 waited at an AWAIT since overwritten with
IADDI, fetch the AWAIT, while IADDI stands at their program counter. -/
theorem not_stepRunsDecoded : ¬ Obligations.StepRunsDecoded := by
  rintro ⟨_, hplain, _⟩
  exact not_plainFetch hplain

end Sys2Proof.Machine
end

section
/-! PROOFS. QGET of a gang without slices: the progress that keeps the popped value belongs to none of its slices, and stays when the word
completes (R42, R440). -/

namespace Sys2Proof.Machine

open Sys2Proof

/-- The group of the placed program. -/
def queueGroup : Group := placedGroup (placedLaunch 1) (placedTeam 2 1) 0

/-- A gang of no slices issues a word; its team's queue 0 holds the value 5. -/
def emptyGangState : State :=
  let s : State := { State.reset.withGroupWord [] with teams := [{ placedTeam 2 1 with queues := [4] }], cur := some (.gang 0 0) }
  s.setCluster 0 ((s.cluster 0).mapQueue 4 fun q => { q with entries := [(0, some 5)] })

theorem emptyGang_issues : Issues emptyGangState 0 0 queueGroup := ⟨rfl, rfl⟩

theorem emptyGang_ready : emptyGangState.uniformReady [] [9] :=
  .inl ⟨0, 0, queueGroup, emptyGang_issues, .inl (by decide), rfl, by decide, by decide⟩

/-- How many words of the group in slot 0 have progress after an outcome. -/
def progressAfter (r : Host.Outcome State Fault Refusal) : Option Nat :=
  match r with
  | .next t => (t.group? 0).map fun grp => grp.progress.length
  | .fault _ | .refused _ => none

/-- QGET s9 of the team's queue 0 leaves the progress of its word behind. -/
theorem emptyGang_keeps_progress : progressAfter (exec (.qget ⟨9, 0, false, 0⟩) emptyGangState) = some 1 := by decide

theorem not_queueWordResults : ¬ QueueWordResults := by
  intro h
  have hqget := (h emptyGangState 0 0 queueGroup 4 emptyGang_issues rfl).2 ⟨9, 0, false, 0⟩ (by decide) emptyGang_ready (by decide)
  have hnext := hqget.1 5 (by decide) (by decide)
  have hprogress := emptyGang_keeps_progress
  rw [hnext] at hprogress
  exact absurd hprogress (by decide)

/-- Refutes O45: QueueWordsGive does not ask that the gang has a slice. QGET keeps the popped value as progress of the gang's word, which
completing the word drops for every gang with a slice; of a gang without slices no progress is its own, so that the entry stays, and the
group is not the one stated. -/
theorem not_copyAndQueueWords : ¬ Obligations.CopyAndQueueWords := by
  rintro ⟨_, hqueue⟩
  exact not_queueWordResults hqueue

end Sys2Proof.Machine
end

section
/-! PROOFS. Streams armed and disarmed, barriers, SSTEP and fences (R23, R26, R113, R131, R133, R134, R234, R236, R294, R295, R340, R371). -/

namespace Sys2Proof.Machine

open Sys2Proof

/-! ### Streams -/

theorem wrap_of_lt {n : Nat} {x : Int} (h0 : 0 ≤ x) (h : x.toNat < 2 ^ n) : wrap n x = x.toNat := by
  rw [wrap, Int.emod_eq_of_lt h0]
  have := Int.toNat_of_nonneg h0
  calc x = (x.toNat : Int) := this.symm
    _ < ((2 ^ n : Nat) : Int) := Int.ofNat_lt.mpr h
    _ = 2 ^ n := by push_cast; rfl

/-- A byte of memory that R101 allows to a walk. -/
theorem addrKind_of_walk {p : Priv} {x : Int} (h0 : 0 ≤ x) (h : plainAddr p x.toNat 1) : addrKind p (wrap 64 x) 1 = none := by
  have hbound := h.1
  rw [wrap_of_lt h0 (by omega)]
  exact addrKind_plain h (by decide)

/-- Every element of a walk in local store lies in the allocation. -/
theorem checkWalk_local {s : State} {grp : Group} {d : StreamDesc} (hspace : d.space = true)
    (h : ∀ e, e < d.count → d.addr e < 2 ^ 20 ∧ d.addr e % 2 ^ 18 + 4 ≤ (s.teamOf grp).lsSize) : checkWalk s grp d = .ok () := by
  have hfind : (List.range d.count).find? (fun e => !localOk (s.teamOf grp).lsSize (d.addr e) 4) = none := by
    rw [List.find?_eq_none]
    intro e he
    simp only [localOk, h e (List.mem_range.mp he), and_self, decide_true, Bool.not_true, Bool.false_eq_true, not_false_iff]
  simp only [checkWalk, hspace, if_true, hfind, ite_self]

/-- A walk in memory is empty, or its lowest and its highest byte may be reached. -/
theorem checkWalk_memory {s : State} {grp : Group} {d : StreamDesc} (hspace : d.space = false)
    (h : d.count = 0 ∨ ((0 ≤ d.range.1 ∧ plainAddr grp.priv d.range.1.toNat 1) ∧ 0 ≤ d.range.2 ∧ plainAddr grp.priv d.range.2.toNat 1)) :
    checkWalk s grp d = .ok () := by
  rcases h with h | ⟨⟨hlo, hlo'⟩, hhi, hhi'⟩
  · rw [checkWalk, if_pos h]
  · simp only [checkWalk, hspace, Bool.false_eq_true, if_false, addrKind_of_walk hlo hlo', addrKind_of_walk hhi hhi']
    exact ite_self _

theorem streamArmResults : StreamArmResults := by
  refine ⟨?_, fun o s g slices grp hi => onGang_ok hi rfl⟩
  intro o s g slices grp hi d sound harmed halign hwalk
  have hok : checkWalk s grp d = .ok () := by
    cases hspace : d.space
    · rw [hspace] at hwalk
      exact checkWalk_memory hspace hwalk
    · rw [hspace] at hwalk
      exact checkWalk_local hspace hwalk
  refine onGang_ok hi ?_
  simp only [d] at harmed halign hok
  simp only [harmed, halign, hok, Bool.not_false, beq_self_eq_true, require_true, Except.ok_bind', Except.pure_ok]
  rfl

/-! ### Teams -/

theorem id_of_team? {s : State} {id : Nat} {t : Team} (h : s.team? id = some t) : t.id = id := by
  simpa using List.find?_some h

theorem teamOf_of_team? {s : State} {grp : Group} {t : Team} (h : s.team? grp.team = some t) : s.teamOf grp = t := by
  rw [State.teamOf, h, Option.getD_some]

/-- A team that is there, read after it has been changed. -/
theorem team?_setTeam {s : State} {t u : Team} (h : s.team? t.id = some t) (hu : u.id = t.id) : (s.setTeam u).team? t.id = some u := by
  have hfind : (fun x : Team => x.id == t.id) ∘ (fun x : Team => if (x.id == t.id) = true then u else x) = fun x : Team => x.id == t.id := by
    funext x
    by_cases hx : x.id = t.id <;> simp [hx, hu]
  rw [State.team?] at h
  simp only [State.team?, State.setTeam, hu, List.find?_map, hfind, h, Option.map_some, beq_self_eq_true, if_true]

theorem setTeam_setTeam {s : State} {t u : Team} (hu : u.id = t.id) : (s.setTeam t).setTeam u = s.setTeam u := by
  simp only [State.setTeam, List.map_map]
  congr 1
  apply List.map_congr_left
  intro x _
  by_cases hx : x.id = t.id
  · simp [hx, hu]
  · simp [hx, hu]

/-! ### Barriers -/

/-- A team with a barrier's generation, or without one. -/
def Team.setBarrier (t : Team) (n : Fin 16) (b : Option Generation) : Team := { t with barriers := t.barriers.set n b }

/-- A generation of a barrier after an arrival: it stays open until it is full, and then lets every group continue. -/
theorem finishBarrier_after {s : State} {t : Team} {n : Fin 16} (h : s.team? t.id = some t) (b : Generation) :
    (s.setTeam (t.setBarrier n (some b))).finishBarrier t.id n =
      if b.full then b.arrived.foldl (fun u e => u.complete e.1 e.2) (s.setTeam (t.setBarrier n none))
      else s.setTeam (t.setBarrier n (some b)) := by
  have hteam := team?_setTeam h (u := t.setBarrier n (some b)) rfl
  have hb : (t.setBarrier n (some b)).barriers[n] = some b := by simp [Team.setBarrier]
  have hnone : (t.setBarrier n (some b)).setBarrier n none = t.setBarrier n none := by simp [Team.setBarrier]
  have hclosed : (s.setTeam (t.setBarrier n (some b))).setTeam ((t.setBarrier n (some b)).setBarrier n none) = s.setTeam (t.setBarrier n none) := by
    rw [hnone]
    exact setTeam_setTeam rfl
  rw [← hclosed]
  simp only [State.finishBarrier, hteam, hb]
  rfl

theorem barrier_gives {i : Instr} {kind : Fin 4} {n : Fin 16} {uses : List (Fin 64)} (he : ∀ s, exec i s = barrier s kind n uses) :
    BarrierGives i kind n uses := by
  intro s g grp t hi hteam hready count b b' waits welcome
  have hid : t.id = grp.team := id_of_team? hteam
  have huv : uv (uses.map s.readU) 0 = (uses.map s.readU).headD 0 := by
    rw [uv]; cases uses <;> rfl
  have hwelcome : (b.kind == kind && (if kind = 3 then b.count == count && decide (1 ≤ count ∧ count ≤ 32) else b.expected.contains g)) =
      decide welcome := by
    rw [Bool.eq_iff_iff]
    simp only [welcome, Bool.and_eq_true, beq_iff_eq, decide_eq_true_eq]
    split <;> simp
  have hmet : (if kind = 3 then (uv (uses.map s.readU) 0).toNat % 64 else 0) = count := by rw [huv]
  have hrun : exec i s = onGang s fun _ _ _ => do
      require (decide welcome) s { kind := .barerr, val := BitVec.ofNat 64 n.val }
      return ((waits.setTeam (t.setBarrier n (some b'))).finishBarrier t.id n).endRun := by
    rw [he, barrier, onGang_issues hi, onGang_issues hi]
    simp only [requireGang, beq_self_eq_true, require_true, Except.ok_bind', noPorts, uniformSources_plain hready, teamOf_of_team? hteam,
      hmet, commitPops_nil, hi.here]
    rw [show s.barrierAt t kind count n = b from rfl, hwelcome]
    rfl
  have hteam' : waits.team? t.id = some t := by rw [hid]; exact hteam
  rw [finishBarrier_after hteam'] at hrun
  refine ⟨fun hw hfull => ?_, fun hw hfull => ?_, fun hw => ?_⟩
  · exact hrun.trans (onGang_ok hi (by rw [decide_eq_true hw, hfull]; rfl))
  · exact hrun.trans (onGang_ok hi (by rw [decide_eq_true hw, hfull]; rfl))
  · exact hrun.trans (onGang_trap hi (by rw [decide_eq_false hw]; rfl))

/-! ### SSTEP -/

theorem exec_sstep_arrives {s : State} {g : GroupId} {grp : Group} {l : Launch} (hi : Issues s g 0xFF grp)
    (hl : s.launch? grp.launch = some l) (hc : s.condHolds = true) (hsuper : l.pkt.superstep = true) :
    exec .sstep s = .next (((s.setLaunch { l with arrived := l.arrived ++ [g] }).setGroup g
      ((grp.pin 0xFF).setWait 0xFF .superstep s.fetched)).endRun) := by
  refine onGang_ok hi ?_
  simp only [requireGang, beq_self_eq_true, require_true, Except.ok_bind', hc, Bool.not_true, Bool.false_eq_true, if_false, hl, hsuper,
    Except.pure_ok]

theorem exec_sstep_traps {s : State} {g : GroupId} {grp : Group} {l : Launch} (hi : Issues s g 0xFF grp)
    (hl : s.launch? grp.launch = some l) (hc : s.condHolds = true) (hsuper : l.pkt.superstep = false) :
    Traps .sstep s g 0xFF { kind := .illegal, reason := 6 } := by
  refine onGang_trap hi ?_
  simp only [requireGang, beq_self_eq_true, require_true, Except.ok_bind', hc, Bool.not_true, Bool.false_eq_true, if_false, hl, hsuper,
    require_false, Except.error_bind']

theorem exec_sstep_guarded {s : State} {g : GroupId} {grp : Group} (hi : Issues s g 0xFF grp) (hc : s.condHolds = false) :
    exec .sstep s = .next s.advance := by
  refine onGang_ok hi ?_
  simp only [requireGang, beq_self_eq_true, require_true, Except.ok_bind', hc, Bool.not_false, if_true, Except.pure_ok]

/-! ### Fences -/

theorem widerThanDevice_iff {sc : Scope} : widerThanDevice sc = true ↔ sc = .package ∨ sc = .system := by
  simp [widerThanDevice]

/-- A release that waits for acknowledgements. -/
theorem farRelease_iff {s : State} {sc : Scope} {rel : Bool} : (rel && widerThanDevice sc && s.unacknowledged) = true ↔
    (rel = true ∧ (sc = .package ∨ sc = .system)) ∧ s.unacknowledged = true := by
  rw [Bool.and_eq_true, Bool.and_eq_true, widerThanDevice_iff]

theorem checkRefusedCopy_ok {s : State} {g : GroupId} {grp : Group} (hg : s.group? g = some grp) {p : Option Word → Bool}
    (h : ∀ e ∈ grp.batches.refused, p e.1 = false) : checkRefusedCopy s g p = .ok () := by
  have hnone : grp.batches.refused.filter (fun e => p e.1) = [] :=
    List.filter_eq_nil_iff.mpr fun e he => by simp [h e he]
  simp only [checkRefusedCopy, hg, Batches.observe, hnone]
  rfl

section Fence

variable {o : UFence} {s : State} {g : GroupId} {slices : BitVec 8} {grp : Group} {acq rel : Bool}

theorem fence_gang_passes (hi : Issues s g slices grp)
    (hdrain : o.dr = false ∨ (s.engineBusy g = false ∧ grp.batches.refused = []))
    (hfar : ¬ ((rel = true ∧ (o.sc = .package ∨ o.sc = .system)) ∧ s.unacknowledged = true)) :
    let seen := if o.dr then s.observe g fun _ => true else s
    fence o s acq rel = .next ((seen.acquireIf acq g).fenceCaches (deviceOfGroup g) o.sc acq rel).advance := by
  intro seen
  have hfar' : ¬ (rel && widerThanDevice o.sc && s.unacknowledged) = true := fun h => hfar (farRelease_iff.mp h)
  refine onAny_ok (issuing_gang hi) ?_
  simp only [hi.cur, hi.here]
  rcases hdrain with hdr | ⟨hbusy, hrefused⟩
  · have hseen : seen = s := by simp only [seen, hdr, Bool.false_eq_true, if_false]
    rw [hseen]
    simp only [hdr, Bool.false_and, Bool.false_eq_true, if_false, if_neg hfar']
    rfl
  · have hok : checkRefusedCopy s g (fun _ => true) = .ok () := checkRefusedCopy_ok hi.here (by simp [hrefused])
    simp only [hbusy, Bool.and_false, Bool.false_eq_true, if_false, if_neg hfar', hok, Except.ok_bind', Except.pure_ok, ite_self]
    rfl

theorem fence_gang_drains (hi : Issues s g slices grp) (hdr : o.dr = true) (hbusy : s.engineBusy g = true) :
    fence o s acq rel = .next (s.setGroup g (grp.setWait slices .drain s.fetched)).endRun := by
  refine onAny_wait hi ?_
  simp only [hi.cur, hi.here, hdr, hbusy, Bool.and_self, if_true]
  rfl

theorem fence_gang_awaits (hi : Issues s g slices grp) (hdrain : o.dr = false ∨ s.engineBusy g = false)
    (hfar : rel = true ∧ (o.sc = .package ∨ o.sc = .system)) (hacks : s.unacknowledged = true) :
    fence o s acq rel = .next (s.setGroup g (grp.setWait slices .acks s.fetched)).endRun := by
  have hdrain' : (o.dr && s.engineBusy g) = false := by
    rcases hdrain with h | h <;> simp [h]
  refine onAny_wait hi ?_
  simp only [hi.cur, hi.here, hdrain', Bool.false_eq_true, if_false, if_pos (farRelease_iff.mpr ⟨hfar, hacks⟩)]
  rfl

variable {cl : ClusterId} {p : Pilot}

theorem onAny_pilot (hi : PilotIssues s cl p) (f : Except Stop State) : onAny s f = settle f := by
  simp only [onAny, hi.cur]

theorem fence_pilot_passes (hi : PilotIssues s cl p) (hq : p.accesses = [])
    (hfar : ¬ ((rel = true ∧ (o.sc = .package ∨ o.sc = .system)) ∧ s.unacknowledged = true)) :
    fence o s acq rel = .next (s.fenceCaches (deviceOf cl) o.sc acq rel).advance := by
  have hfar' : ¬ (rel && widerThanDevice o.sc && s.unacknowledged) = true := fun h => hfar (farRelease_iff.mp h)
  refine onAny_ok (issuing_pilot hi) ?_
  simp only [hi.cur, checkQuiet_ok hi hq, Except.ok_bind', if_neg hfar', Except.pure_ok]

theorem fence_pilot_awaits (hi : PilotIssues s cl p) (hq : p.accesses = [])
    (hfar : rel = true ∧ (o.sc = .package ∨ o.sc = .system)) (hacks : s.unacknowledged = true) :
    fence o s acq rel = .next (s.setPilot cl { p with wait := .acks }).endRun := by
  rw [fence, onAny_pilot hi]
  simp only [hi.cur, checkQuiet_ok hi hq, Except.ok_bind', if_pos (farRelease_iff.mpr ⟨hfar, hacks⟩), hi.here]
  rfl

theorem fence_pilot_parks (hi : PilotIssues s cl p) (hq : p.accesses ≠ []) :
    fence o s acq rel = .next (s.setPilot cl { p with wait := .parked }).endRun := by
  have hempty : p.accesses.isEmpty = false := List.isEmpty_eq_false_iff.mpr hq
  rw [fence, onAny_pilot hi]
  simp only [hi.cur, checkQuiet, hi.here, hempty, Bool.false_eq_true, if_false, Except.error_bind', State.awaitAccess]
  rfl

end Fence

/-- The three fences differ in whether they acquire and release. -/
theorem exec_fence {o : UFence} {i : Instr} {acq rel : Bool} {s : State}
    (h : (i, acq, rel) ∈ [(Instr.fenceAcq o, true, false), (.fenceRel o, false, true), (.fenceFull o, true, true)]) :
    exec i s = fence o s acq rel := by
  simp only [List.mem_cons, Prod.mk.injEq, List.not_mem_nil, or_false] at h
  rcases h with ⟨rfl, rfl, rfl⟩ | ⟨rfl, rfl, rfl⟩ | ⟨rfl, rfl, rfl⟩ <;> rfl

/-! ### The statement -/

theorem syncResults : SyncResults := by
  refine ⟨fun o => ⟨barrier_gives fun _ => rfl, barrier_gives fun _ => rfl, barrier_gives fun _ => rfl⟩, fun o => barrier_gives fun _ => rfl,
    fun s g grp l hi hl => ⟨exec_sstep_arrives hi hl, exec_sstep_traps hi hl, exec_sstep_guarded hi⟩, ?_⟩
  intro o i acq rel s hfence far
  rw [exec_fence hfence]
  exact ⟨fun g slices grp hi => ⟨fence_gang_passes hi, fence_gang_drains hi, fence_gang_awaits hi⟩,
    fun cl p hi => ⟨fence_pilot_passes hi, fence_pilot_awaits hi, fence_pilot_parks hi⟩⟩

/-- Settles O47: a walk that is armed passes its checks, and each synchronising word takes the one branch that its case names. -/
theorem synchronisingWords : Obligations.SynchronisingWords := ⟨streamArmResults, syncResults⟩

end Sys2Proof.Machine
end

section
/-! PROOFS. The generator words and the ends of a generator's waits (R48, R119, R157, R159, R299 to R305). -/

namespace Sys2Proof.Machine

open Sys2Proof

/-! ### Words for Pilots alone -/

section Pilots

variable {s t : State} {cl : ClusterId} {p : Pilot}

theorem onPilot_issues (hi : PilotIssues s cl p) (f : ClusterId → Pilot → Except Stop State) : onPilot s f = settle (f cl p) := by
  simp only [onPilot, hi.cur, hi.here]

/-- A Pilot's word that completes. -/
theorem onPilot_ok (hi : PilotIssues s cl p) {f : ClusterId → Pilot → Except Stop State} (hf : f cl p = .ok t) : onPilot s f = .next t := by
  rw [onPilot_issues hi, hf]
  rfl

/-- A Pilot's word that faults. -/
theorem onPilot_trap (hi : PilotIssues s cl p) {f : ClusterId → Pilot → Except Stop State} {e : Trap} (hf : f cl p = .error (.trap e s)) :
    onPilot s f = .next (s.generatorFault cl e) := by
  rw [onPilot_issues hi, hf]
  simp only [settle, hi.cur]

end Pilots

/-- In a group a generator word is illegal at step 2. -/
theorem traps_of_onPilot {i : Instr} {s : State} {g : GroupId} {slices : BitVec 8} {grp : Group}
    {f : ClusterId → Pilot → Except Stop State} (he : exec i s = onPilot s f) (hi : Issues s g slices grp) :
    Traps i s g slices { kind := .illegal, reason := 2 } := by
  rw [Traps, he]
  simp only [onPilot, hi.cur, illegal, settle]

/-! ### EMIT -/

theorem checkEmitted_ok {s : State} {p : Priv} {data : Bool} {w : Word} (h : PassesCheck p data w) : checkEmitted s p data w = .ok () := by
  have hw := w.isLt
  have htop : w.toNat / 2 ^ 31 = 1 ↔ 2 ^ 31 ≤ w.toNat := by omega
  rcases h with hdata | ⟨⟨i, hdec⟩, hpriv⟩
  · rw [checkEmitted, if_pos hdata]
  · have hallowed : (p == .user && w.toNat / 2 ^ 31 == 1 && w.toNat / 2 ^ 24 % 64 == 0x1F) = false := by
      rw [← Bool.not_eq_true]
      simp only [Bool.and_eq_true, beq_iff_eq, htop, and_assoc]
      exact fun ⟨hp, hm⟩ => hpriv hp hm
    rw [checkEmitted, hdec]
    simp only [hallowed, Bool.not_false, require_true, ite_self]

/-- The words that an EMIT appends are those that its meaning lists. -/
theorem emittedWords_eq (o : UEmit) (x : DWord) :
    (BitVec.ofNat 32 x.toNat :: if o.pair then [BitVec.ofNat 32 (x.toNat / 2 ^ 32)] else [] : List Word) = emittedWords o x := by
  unfold emittedWords
  split <;> rfl

/-- EMIT once its source has been read and its stream is open: what is left of its meaning after .chk. -/
def emitPut (o : UEmit) (s : State) (cl : ClusterId) (p : Pilot) (ws : List Word) : Except Stop State :=
  let e := s.stream cl o.k
  let put := s.setStream cl o.k (ws.foldl (fun e w => e.append o.k p.pc w) e)
  let tells := fun (b : Bool) (t : State) => if o.nb then t.writeCond 7 b else t
  if e.state = .static then do
    require (decide (e.count.toNat + ws.length ≤ e.capacity)) s (emitTrap .berthfull o.k e)
    return (tells true put).advance
  else if s.retainedWords cl o.k + ws.length ≤ e.capacity then .ok (tells true put).advance
  else if o.nb then .ok (tells false s).advance
  else do
    require (!s.allAtWrite cl o.k) s (emitTrap .towfull o.k e)
    return s.setPilot cl { p with wait := .emit }

theorem exec_emit_open {o : UEmit} {s : State} {cl : ClusterId} {p : Pilot} (hi : PilotIssues s cl p) (hr : s.uniformReady [o.sa] [])
    (hopen : (s.stream cl o.k).state = .static ∨ (s.stream cl o.k).state = .tow)
    (hcheck : o.chk = true → PassesCheck p.priv (s.stream cl o.k).data (BitVec.ofNat 32 (s.readU o.sa).toNat) ∧
      (o.pair = true → PassesCheck p.priv (!(s.stream cl o.k).data && isLiteral ((s.readU o.sa).toNat % 2 ^ 32))
        (BitVec.ofNat 32 ((s.readU o.sa).toNat / 2 ^ 32)))) :
    exec (.emit o) s = onPilot s fun cl p => emitPut o s cl p (emittedWords o (s.readU o.sa)) := by
  have hopen' : ((s.stream cl o.k).state == .static || (s.stream cl o.k).state == .tow) = true := by
    simpa using hopen
  rw [exec_emit, execEmit, onPilot_issues hi, onPilot_issues hi]
  simp only [noPorts, uniformSources_plain hr, Except.ok_bind', uv_source, hopen', require_true, emittedWords_eq]
  congr 1
  cases hchk : o.chk
  · simp only [Bool.false_eq_true, if_false]
    rfl
  · obtain ⟨hfirst, hsecond⟩ := hcheck hchk
    cases hpair : o.pair
    · simp only [if_true, checkEmitted_ok hfirst, Except.ok_bind', Bool.false_eq_true, if_false]
      rfl
    · simp only [if_true, checkEmitted_ok hfirst, Except.ok_bind', checkEmitted_ok (hsecond hpair)]
      rfl

theorem exec_emit_closed {o : UEmit} {s : State} {cl : ClusterId} {p : Pilot} (hi : PilotIssues s cl p) (hr : s.uniformReady [o.sa] [])
    (hopen : ¬ ((s.stream cl o.k).state = .static ∨ (s.stream cl o.k).state = .tow)) :
    exec (.emit o) s = .next (s.generatorFault cl (emitTrap .emitst o.k (s.stream cl o.k))) := by
  have hopen' : ((s.stream cl o.k).state == .static || (s.stream cl o.k).state == .tow) = false := by
    simpa using hopen
  refine (exec_emit o s).trans (onPilot_trap hi ?_)
  simp only [noPorts, uniformSources_plain hr, Except.ok_bind', hopen', require_false, Except.error_bind']

/-- The words fit the berth. -/
def emitFits (o : UEmit) (s : State) (cl : ClusterId) (ws : List Word) : Prop :=
  if (s.stream cl o.k).state = .static then (s.stream cl o.k).count.toNat + ws.length ≤ (s.stream cl o.k).capacity
  else s.retainedWords cl o.k + ws.length ≤ (s.stream cl o.k).capacity

section Emit

variable {o : UEmit} {s : State} {cl : ClusterId} {p : Pilot} {ws : List Word}

theorem emitPut_fits (hf : emitFits o s cl ws) : emitPut o s cl p ws =
    .ok ((fun (b : Bool) (t : State) => if o.nb then t.writeCond 7 b else t) true
      (s.setStream cl o.k (ws.foldl (fun e w => e.append o.k p.pc w) (s.stream cl o.k)))).advance := by
  by_cases hs : (s.stream cl o.k).state = .static
  · rw [emitFits, if_pos hs] at hf
    simp only [emitPut, if_pos hs, hf, decide_true, require_true, Except.ok_bind', Except.pure_ok]
  · rw [emitFits, if_neg hs] at hf
    simp only [emitPut, if_neg hs, if_pos hf]

theorem emitPut_static_full (hs : (s.stream cl o.k).state = .static) (hf : ¬ emitFits o s cl ws) :
    emitPut o s cl p ws = .error (.trap (emitTrap .berthfull o.k (s.stream cl o.k)) s) := by
  rw [emitFits, if_pos hs] at hf
  simp only [emitPut, if_pos hs, hf, decide_false, require_false, Except.error_bind']

/-- A tow stream that is full. -/
theorem emitPut_tow_full (ht : (s.stream cl o.k).state = .tow) (hf : ¬ emitFits o s cl ws) : emitPut o s cl p ws =
    if o.nb then .ok (s.writeCond 7 false).advance
    else do
      require (!s.allAtWrite cl o.k) s (emitTrap .towfull o.k (s.stream cl o.k))
      return s.setPilot cl { p with wait := .emit } := by
  have hs : (s.stream cl o.k).state ≠ .static := by rw [ht]; decide
  rw [emitFits, if_neg hs] at hf
  simp only [emitPut, if_neg hs, if_neg hf]
  split <;> rfl

end Emit

theorem emitGives (o : UEmit) : EmitGives o := by
  intro s cl p hi hr x ws e isOpen checked fits tells
  refine ⟨fun ho hc hf => ?_, exec_emit_closed hi hr, fun hs hc hf => ?_, fun ht hc hf hnb => ?_,
    fun ht hc hf hnb => ⟨fun hall => ?_, fun hall => ?_⟩⟩
  · exact (exec_emit_open hi hr ho hc).trans (onPilot_ok hi (emitPut_fits hf))
  · exact (exec_emit_open hi hr (.inl hs) hc).trans (onPilot_trap hi (emitPut_static_full hs hf))
  · refine (exec_emit_open hi hr (.inr ht) hc).trans (onPilot_ok hi ?_)
    rw [emitPut_tow_full ht hf, if_pos hnb]
  · refine (exec_emit_open hi hr (.inr ht) hc).trans (onPilot_trap hi ?_)
    rw [emitPut_tow_full ht hf, hnb, hall]
    rfl
  · refine (exec_emit_open hi hr (.inr ht) hc).trans (onPilot_ok hi ?_)
    rw [emitPut_tow_full ht hf, hnb, hall]
    rfl

/-! ### ESEAL and ESYNC -/

section Streams

variable {o : UEStrm} {s : State} {cl : ClusterId} {p : Pilot}

theorem exec_eseal_open (hi : PilotIssues s cl p) (hopen : (s.stream cl o.k).state = .static ∨ (s.stream cl o.k).state = .tow) :
    exec (.eseal o) s = .next (s.setStream cl o.k
      { s.stream cl o.k with state := if (s.stream cl o.k).state = .static then .sealed_ else .ended }).advance := by
  have hopen' : ((s.stream cl o.k).state == .static || (s.stream cl o.k).state == .tow) = true := by simpa using hopen
  refine (exec_eseal o s).trans (onPilot_ok hi ?_)
  simp only [hopen', require_true, Except.ok_bind', Except.pure_ok]

theorem exec_eseal_traps (hi : PilotIssues s cl p) (hstatic : (s.stream cl o.k).state ≠ .static) (htow : (s.stream cl o.k).state ≠ .tow) :
    exec (.eseal o) s = .next (s.generatorFault cl (emitTrap .emitst o.k (s.stream cl o.k))) := by
  have hshut : ((s.stream cl o.k).state == .static || (s.stream cl o.k).state == .tow) = false := by simp [hstatic, htow]
  refine (exec_eseal o s).trans (onPilot_trap hi ?_)
  simp only [hshut, require_false, Except.error_bind']

theorem exec_esync_passes (hi : PilotIssues s cl p) (h : (s.stream cl o.k).state = .closed ∨ s.allFetched cl o.k = true) :
    exec (.esync o) s = .next s.advance :=
  (exec_esync o s).trans (onPilot_ok hi (if_pos h))

theorem exec_esync_waits (hi : PilotIssues s cl p) (hopen : (s.stream cl o.k).state ≠ .closed) (hf : s.allFetched cl o.k = false) :
    exec (.esync o) s = .next (s.setPilot cl { p with wait := .esync o.k }) :=
  (exec_esync o s).trans (onPilot_ok hi (if_neg fun h => h.elim hopen (by simp [hf])))

end Streams

/-! ### EOPEN and EPOS -/

/-- A stream as EOPEN opens it. -/
def openedStream (o : UEopen) (p : Pilot) (n : Nat) : EmitStream :=
  { state := if o.tow then .tow else .static, priv := p.priv, capacity := n, count := 0, data := false, words := [] }

section Eopen

variable {o : UEopen} {s : State} {cl : ClusterId} {p : Pilot}

/-- A capacity that EOPEN takes: whole lines of the berth, which has room for them beside the generator's other streams. -/
def eopenRoomy (o : UEopen) (s : State) (cl : ClusterId) : Prop :=
  (s.readU o.sa).toNat % 32 = 0 ∧ 32 ≤ (s.readU o.sa).toNat ∧ (s.readU o.sa).toNat + s.otherCapacity cl o.k ≤ 65536

theorem eopenRoomy_iff : ((s.readU o.sa).toNat % 32 == 0 &&
    decide (32 ≤ (s.readU o.sa).toNat ∧ (s.readU o.sa).toNat + s.otherCapacity cl o.k ≤ 65536)) = true ↔ eopenRoomy o s cl := by
  rw [Bool.and_eq_true, beq_iff_eq, decide_eq_true_eq, eopenRoomy]

theorem exec_eopen_roomy (hi : PilotIssues s cl p) (hr : s.uniformReady [o.sa] [])
    (hshut : (s.stream cl o.k).state ≠ .static ∧ (s.stream cl o.k).state ≠ .tow) (hroom : eopenRoomy o s cl) :
    exec (.eopen o) s = .next (
      if (s.stream cl o.k).state = .closed then (s.setStream cl o.k (openedStream o p (s.readU o.sa).toNat)).advance
      else if s.allFetched cl o.k then ((s.dropMarks cl o.k).setStream cl o.k (openedStream o p (s.readU o.sa).toNat)).advance
      else s.setPilot cl { p with wait := .esync o.k }) := by
  have hshut' : ((s.stream cl o.k).state != .static && (s.stream cl o.k).state != .tow) = true := by simpa using hshut
  refine (exec_eopen o s).trans (onPilot_ok hi ?_)
  simp only [noPorts, uniformSources_plain hr, Except.ok_bind', uv_source, hshut', require_true, eopenRoomy_iff.mpr hroom, Except.pure_ok]
  split
  case isTrue => rfl
  case isFalse => split <;> rfl

theorem exec_eopen_full (hi : PilotIssues s cl p) (hr : s.uniformReady [o.sa] [])
    (hshut : (s.stream cl o.k).state ≠ .static ∧ (s.stream cl o.k).state ≠ .tow) (hroom : ¬ eopenRoomy o s cl) :
    exec (.eopen o) s = .next (s.generatorFault cl (emitTrap .berthfull o.k (s.stream cl o.k))) := by
  have hshut' : ((s.stream cl o.k).state != .static && (s.stream cl o.k).state != .tow) = true := by simpa using hshut
  refine (exec_eopen o s).trans (onPilot_trap hi ?_)
  simp only [noPorts, uniformSources_plain hr, Except.ok_bind', uv_source, hshut', require_true,
    Bool.eq_false_iff.mpr (mt eopenRoomy_iff.mp hroom), require_false, Except.error_bind']

theorem exec_eopen_open (hi : PilotIssues s cl p) (hr : s.uniformReady [o.sa] [])
    (hopen : ¬ ((s.stream cl o.k).state ≠ .static ∧ (s.stream cl o.k).state ≠ .tow)) :
    exec (.eopen o) s = .next (s.generatorFault cl (emitTrap .emitst o.k (s.stream cl o.k))) := by
  have hopen' : ((s.stream cl o.k).state != .static && (s.stream cl o.k).state != .tow) = false := by
    rw [← Bool.not_eq_true]
    simpa using hopen
  refine (exec_eopen o s).trans (onPilot_trap hi ?_)
  simp only [noPorts, uniformSources_plain hr, Except.ok_bind', hopen', require_false, Except.error_bind']

end Eopen

theorem dwordOf_natCast (n : Nat) : dwordOf n = BitVec.ofNat 64 n := BitVec.ofInt_natCast ..

theorem exec_epos_reads {o : UEpos} {s : State} {cl : ClusterId} {p : Pilot} (hi : PilotIssues s cl p) (ha : p.awaits [o.sd] = false) :
    exec (.epos o) s = .next (s.writeUniform o.sd (if (s.stream cl o.k).state = .closed then 0
      else dwordOf ((o.k.val * 2 ^ 20 + 4 * ((s.stream cl o.k).count.toNat % 2 ^ 18)) * 2 ^ 32 + (s.stream cl o.k).count.toNat : Nat))).advance := by
  have hr : s.uniformReady [] [o.sd] := .inr ⟨cl, p, hi, ha, by simp⟩
  rw [dwordOf_natCast, exec_epos, execEpos]
  refine onPilot_ok hi ?_
  simp only [noPorts, uniformSources_plain hr, Except.ok_bind', Except.pure_ok]

/-! ### TIDE -/

theorem exec_tide_sets {o : UTide} {s : State} (hr : s.uniformReady [o.sa] []) : exec (.tide o) s = .next
    (if s.pack.safe then s.advance
     else (s.setCtx s.accessor.ld s.accessor.asn { s.ctx s.accessor.ld s.accessor.asn with
       tides := if (s.readU o.sa).toNat = 0 then (s.ctx s.accessor.ld s.accessor.asn).tides.filter fun t => t.link ≠ o.l
         else ⟨o.l, clamp (linkFloor o.l) (linkBundles o.l - linkFloor o.l) (s.readU o.sa).toNat⟩ ::
           (s.ctx s.accessor.ld s.accessor.asn).tides.filter fun t => t.link ≠ o.l }).advance) := by
  refine onAny_ok (issuing_of_ready hr) ?_
  simp only [noPorts, uniformSources_plain hr, Except.ok_bind', uv_source, commitPops_nil, Except.pure_ok, State.issuerCtx]
  split <;> rfl

/-! ### The statements -/

theorem generatorResults : GeneratorResults := by
  refine ⟨emitGives, ?_, ?_, ?_, ?_, ?_⟩
  · intro o s cl p hi e
    refine ⟨fun hs => ?_, fun ht => ?_, exec_eseal_traps hi, exec_esync_passes hi, exec_esync_waits hi⟩
    · rw [exec_eseal_open hi (.inl hs), if_pos hs]
    · rw [exec_eseal_open hi (.inr ht), if_neg (by rw [ht]; decide)]
  · intro o s cl p hi hr n e roomy fresh shut
    refine ⟨fun hs hroom hc => ?_, fun hs hroom hc hall => ?_, fun hs hroom hc hall => ?_, exec_eopen_full hi hr, exec_eopen_open hi hr⟩
    · rw [exec_eopen_roomy hi hr hs hroom, if_pos hc]
      rfl
    · rw [exec_eopen_roomy hi hr hs hroom, if_neg hc, if_pos hall]
      rfl
    · rw [exec_eopen_roomy hi hr hs hroom, if_neg hc, if_neg (by simp [hall])]
  · exact fun o s cl p hi ha => exec_epos_reads hi ha
  · intro o s hr n all c rest
    have hexec := exec_tide_sets (o := o) hr
    refine ⟨fun hsafe => ?_, fun hsafe hn => ?_, fun hsafe hn => ?_⟩
    · rw [hexec, if_pos hsafe]
    · rw [hexec, if_neg (by simp [hsafe]), if_pos hn]
    · rw [hexec, if_neg (by simp [hsafe]), if_neg hn]
      rfl
  · intro em st op po i s g slices grp hmem hi
    simp only [List.mem_cons, List.not_mem_nil, or_false] at hmem
    rcases hmem with rfl | rfl | rfl | rfl | rfl
    · exact traps_of_onPilot (exec_emit em s) hi
    · exact traps_of_onPilot (exec_eseal st s) hi
    · exact traps_of_onPilot (exec_esync st s) hi
    · exact traps_of_onPilot (exec_eopen op s) hi
    · exact traps_of_onPilot (exec_epos po s) hi

theorem generatorEvents : GeneratorEvents := by
  refine ⟨?_, ?_⟩
  · intro s p hp hw cl k fits
    have hexec : exec .emitResume s = if fits then .next (s.setPilot cl { p with wait := .ready })
        else if s.allAtWrite cl k then .next (s.pilotTrap cl (emitTrap .towfull k (s.stream cl k))) else .next s := by
      rw [exec_emitResume, execEmitResume, hp, if_neg (by simp [hw])]
    refine ⟨fun hf => ?_, fun hf hall => ?_, fun hf hall => ?_⟩
    · rw [hexec, if_pos hf]
    · rw [hexec, if_neg hf, if_pos hall]
    · rw [hexec, if_neg hf, if_neg (by simp [hall])]
  · intro s p k hp hw
    have hexec : exec .esyncComplete s =
        .next (if s.allFetched s.arg.cl k then s.setPilot s.arg.cl { p with wait := .ready } else s) := by
      simp only [exec_esyncComplete, execEsyncComplete, hp, hw]
    exact ⟨fun hall => by rw [hexec, if_pos hall], fun hall => by rw [hexec, if_neg (by simp [hall])]⟩

/-- Settles O50: the branches of each generator word in the order of its tests, and those of the two events. -/
theorem generatorWords : Obligations.GeneratorWords := ⟨generatorResults, generatorEvents⟩

end Sys2Proof.Machine
end

section
/-! PROOFS. CRES of a column sum that its span does not hold, with WOV enabled: the word traps at its completion (R77, R99, R203, R218). -/

namespace Sys2Proof.Machine

open Sys2Proof

/-- CRES v8 of slot 0 in a span of one register, controlled by s4. -/
def wideCres : WCres := ⟨.w1, 8, 0, 4⟩

/-- Columns 0 to 31 of the slot. -/
def wideControl : DWord := 32 * 2 ^ 16

/-- The CRES at its last step, issued with WOV enabled. -/
def wideCresSeq : WideSeq :=
  { g := 0, pc := 0x10000, instr := .cres wideCres, vals := [], s := wideControl, enables := flagWOV, reads := [], steps := 32, total := 32
    stopped := false }

/-- The team of the placed program, which holds slot 0. -/
def wideCresTeam : Team := { placedTeam 2 1 with held := 1 }

/-- The group of the placed program, which waits at the CRES with WOV enabled. -/
def wideCresGroup : Group :=
  { placedGroup (placedLaunch 1) (placedTeam 2 1) 0 with fctl := BitVec.ofNat _ (flagWOV.toNat * 2 ^ 7) }.setWait 0xFF .sequencer
    ⟨0x34020010, 0, none, false⟩

/-- The sequencer of core 0 holds the CRES, and column 31 of slot 0 is 2^32, so that the columns make 2^1024. -/
def wideCresState : State :=
  let s : State := { (State.reset.withGroupWord []).setGroup 0 wideCresGroup with teams := [wideCresTeam] }
  (s.setCluster 0 { s.cluster 0 with acc := (s.cluster 0).acc.set 0 { mode := .exact, cells := [(31, 2 ^ 32)], poison := [] } }).mapSeqs 0
    fun _ => [wideCresSeq]

/-- A witness that the state is one of the part's: the group waits at that CRES, for which WOV is enabled. -/
theorem witness_wideCres : (decodeWords 0x34020010 0).toOption.map (fun r => r.1) = some (.cres wideCres) ∧
    wideCresGroup.enables = flagWOV ∧ cresOk wideControl = true ∧ wideCresTeam.holds wideCres.j = true := by decide

/-- Whether a run ends with an outcome. -/
def runEndAfter (r : Host.Outcome State Fault Refusal) : Option Bool :=
  match r with
  | .next t => some t.runEnd
  | .fault _ | .refused _ => none

set_option maxRecDepth 20000 in
/-- 2^1024 does not fit a span of 1,024 bits: the CRES traps. -/
theorem wideCres_traps : runEndAfter (exec .wideSequencedComplete wideCresState) = some true := by decide

theorem not_sequencerCompletion : ¬ SequencerCompletion := by
  intro h
  have hnext := (h wideCresState wideCresSeq [] wideCresGroup (by decide) (by decide)).2 wideCres wideCresTeam rfl rfl (by decide)
    (by decide) (by decide) (by decide)
  have htrap := wideCres_traps
  rw [hnext] at htrap
  exact absurd htrap (by decide)

/-- Refutes O52: for CRES, SequencerCompletion does not ask that no flag raised is enabled, as it does for the other words. Columns that make
2^1024 do not fit a span of one register, which raises WOV; with WOV enabled the word traps and delivers nothing. -/
theorem not_waitEnds : ¬ Obligations.WaitEnds := by
  rintro ⟨hsequencer, _⟩
  exact not_sequencerCompletion hsequencer

end Sys2Proof.Machine
end

section
/-! PROOFS. Lane words without the state: what a word's meaning computes, as a statement spells it (R74, R170, R171). -/

namespace Sys2Proof.Machine

open Sys2Proof

/-! ### Numbers as words -/

@[simp] theorem wordOf_toInt (a : Word) : wordOf a.toInt = a := BitVec.ofInt_toInt

@[simp] theorem wordOf_natCast (n : Nat) : wordOf n = BitVec.ofNat 32 n := BitVec.ofInt_natCast 32 n

theorem wordOf_toNat (a : Word) : wordOf a.toNat = a := by
  rw [wordOf_natCast, BitVec.ofNat_toNat, BitVec.setWidth_eq]

theorem wordOf_add (x y : Int) : wordOf (x + y) = wordOf x + wordOf y := BitVec.ofInt_add x y

theorem wordOf_mul (x y : Int) : wordOf (x * y) = wordOf x * wordOf y := BitVec.ofInt_mul x y

theorem wordOf_sub (x y : Int) : wordOf (x - y) = wordOf x - wordOf y := by
  rw [eq_comm, BitVec.sub_eq_iff_eq_add, ← wordOf_add, Int.sub_add_cancel]

theorem wordOf_min_toInt (a b : Word) : wordOf (min a.toInt b.toInt) = if a.toInt ≤ b.toInt then a else b := by
  rw [min_def]
  split <;> rw [wordOf_toInt]

theorem wordOf_max_toInt (a b : Word) : wordOf (max a.toInt b.toInt) = if a.toInt ≤ b.toInt then b else a := by
  rw [max_def]
  split <;> rw [wordOf_toInt]

theorem wordOf_min_toNat (a b : Word) : wordOf (min a.toNat b.toNat : Nat) = if a.toNat ≤ b.toNat then a else b := by
  rw [min_def]
  split <;> rw [wordOf_toNat]

theorem wordOf_max_toNat (a b : Word) : wordOf (max a.toNat b.toNat : Nat) = if a.toNat ≤ b.toNat then b else a := by
  rw [max_def]
  split <;> rw [wordOf_toNat]

/-! ### Words that are their shared operation -/

theorem lane3Gives_of {mk : LR3 → Instr} {f h : Word → Word → Word} (he : ∀ o s, exec (mk o) s = lane3 o s h)
    (hf : ∀ a b, f a b = h a b) : Lane3Gives mk f := by
  obtain rfl : f = h := funext₂ hf
  exact fun o => laneGives_of (he o) rfl

theorem lane3dGives_of {mk : LR3 → Instr} {f h : Word → Word → Word → Word} (he : ∀ o s, exec (mk o) s = lane3d o s fun _ => h)
    (hf : ∀ a b d, f a b d = h a b d) : Lane3dGives mk f := by
  obtain rfl : f = h := funext₃ hf
  exact fun o => laneGives_of (he o) rfl

theorem divisionGives_of {mk : LR3 → Instr} {zero : Word → Word} {f h : Word → Word → Word}
    (he : ∀ o s, exec (mk o) s = laneDiv o s zero h) (hf : ∀ a b, f a b = h a b) : DivisionGives mk zero f := by
  obtain rfl : f = h := funext₂ hf
  exact fun o => laneGives_of (he o) rfl

/-! ### Integer arithmetic and division -/

/-- A sum of two n32 is never below the range, so that sat() only cuts it above. -/
theorem satN32_add (a b : Word) : wordOf (min (2 ^ 32 - 1) (a.toNat + b.toNat : Nat)) = satN32 (a.toNat + b.toNat) :=
  congrArg (BitVec.ofInt 32) (by omega)

/-- A difference of two n32 is never above the range, so that sat() only cuts it at 0. -/
theorem satN32_sub (a b : Word) : wordOf (a.toNat - b.toNat : Nat) = satN32 ((a.toNat : Int) - b.toNat) :=
  congrArg (BitVec.ofInt 32) (by omega)

theorem laneIntegerResults : LaneIntegerResults := by
  refine ⟨?iadd, ?iaddSat, ?iaddSatN, ?isub, ?isubSat, ?isubSatN, ?imul, ?imulHi, ?imulHiN, ?imad, ?imin, ?iminN, ?imax, ?imaxN, ?iaddi, ?imovi⟩
  case iadd => exact lane3Gives_of exec_iadd fun a b => by rw [wordOf_add, wordOf_toInt, wordOf_toInt]
  case iaddSat => exact lane3Gives_of exec_iaddSat fun _ _ => rfl
  case iaddSatN => exact lane3Gives_of exec_iaddSatN32 satN32_add
  case isub => exact lane3Gives_of exec_isub fun a b => by rw [wordOf_sub, wordOf_toInt, wordOf_toInt]
  case isubSat => exact lane3Gives_of exec_isubSat fun _ _ => rfl
  case isubSatN => exact lane3Gives_of exec_isubSatN32 satN32_sub
  case imul => exact lane3Gives_of exec_imul fun a b => by rw [wordOf_mul, wordOf_toInt, wordOf_toInt]
  case imulHi => exact lane3Gives_of exec_imulHi fun _ _ => rfl
  case imulHiN => exact lane3Gives_of exec_imulHiN32 fun _ _ => wordOf_natCast _
  case imad => exact lane3dGives_of exec_imad fun a b d => by rw [wordOf_add, wordOf_mul, wordOf_toInt, wordOf_toInt, wordOf_toInt]
  case imin => exact lane3Gives_of exec_iminI32 wordOf_min_toInt
  case iminN => exact lane3Gives_of exec_iminN32 wordOf_min_toNat
  case imax => exact lane3Gives_of exec_imaxI32 wordOf_max_toInt
  case imaxN => exact lane3Gives_of exec_imaxN32 wordOf_max_toNat
  case iaddi =>
    refine fun o => laneGives_of (exec_iaddi o) (funext₂ fun _ x => ?_)
    rw [wordOf_add, wordOf_toInt]
    rfl
  case imovi => exact fun o => laneGives_of (exec_imovi o) rfl

theorem laneDivisionResults : LaneDivisionResults := by
  refine ⟨?idiv, ?idivN, ?irem, ?iremN⟩
  case idiv => exact divisionGives_of exec_idivI32 fun _ _ => rfl
  case idivN =>
    refine divisionGives_of exec_idivN32 fun a b => ?_
    rw [← BitVec.toNat_udiv, wordOf_toNat]
  case irem =>
    refine divisionGives_of (zero := id) exec_iremI32 fun a b => ?_
    rw [← Int.tmod_def]
    rfl
  case iremN =>
    refine divisionGives_of (zero := id) exec_iremN32 fun a b => ?_
    rw [← Nat.mod_eq_sub_mul_div, ← BitVec.toNat_umod, wordOf_toNat]

/-- Settles O33: the exact integers of the statement, wrapped, are the words that the model computes. -/
theorem laneIntegerWords : Obligations.LaneIntegerWords := ⟨laneIntegerResults, laneDivisionResults⟩

end Sys2Proof.Machine
end

section
/-! PROOFS. Results of the lane binary64, conversion and packing words (R86, R167, R183 to R185). -/

namespace Sys2Proof.Machine

open Sys2Proof

/-- The two words of a pair are the datum's halves, and a pair of inputs the datum: what the model and the statement call differently. -/
theorem out64_eq_doubleOut : out64 = doubleOut := rfl

theorem op64_inp64 (grp : Group) (x : List Word) (i : Nat) : op64 grp (inp64 x i) = doubleAt grp x i := rfl

theorem doubleGives_of {mk : LR3 → Instr} {f : Group → FVal → FVal → Nat × BitVec 7} (he : ∀ o s, exec (mk o) s = double2 o s f) :
    DoubleGives mk f :=
  fun o => laneGives_of (he o) rfl

theorem laneDoubleResults : LaneDoubleResults := by
  refine ⟨doubleGives_of exec_dadd, doubleGives_of exec_dsub, doubleGives_of exec_dmul, fun o => laneGives_of (exec_dfma o) ?_⟩
  simp only [out64_eq_doubleOut, op64_inp64]

/-- The model's mask of the field is the shifted mask of its width. -/
theorem replaceField_eq (d a : Word) (pos w : Nat) {m : Word} (hm : m = BitVec.ofNat 32 (2 ^ w - 1)) :
    replaceField d pos w a = (d &&& ~~~(m <<< pos)) ||| (a <<< pos &&& (m <<< pos)) := by
  have hmask : BitVec.ofNat 32 ((2 ^ w - 1) * 2 ^ pos) = m <<< pos := by
    subst hm
    apply BitVec.eq_of_toNat_eq
    simp [BitVec.toNat_shiftLeft, Nat.shiftLeft_eq, Nat.mod_mul_mod]
  simp only [replaceField, hmask]

theorem laneConvertResults : LaneConvertResults := by
  refine ⟨fun o => laneGives_of (exec_cvt o) ?_, fun o => laneGives_of (exec_pack8 o) ?_, fun o => laneGives_of (exec_pack4 o) ?_⟩
  · funext grp x
    cases cvtDstWide o.code <;> rfl
  · simp only [replaceField_eq _ _ _ 8 (m := 0xFF) rfl]
  · simp only [replaceField_eq _ _ _ 4 (m := 0xF) rfl]

/-- Settles O36: the words are the shared lane operation on the functions that the statement names, the packing words with a mask that is
their field's. -/
theorem laneConversionWords : Obligations.LaneConversionWords := ⟨laneDoubleResults, laneConvertResults⟩

end Sys2Proof.Machine
end

section
/-! PROOFS. Results of dot products, reductions, scans and extremes (R87, R88, R186 to R191). -/

namespace Sys2Proof.Machine

open Sys2Proof

/-! ### Dot products -/

theorem foldl_add_mul_eq_sum (ps : List (Int × Int)) (z : Int) :
    ps.foldl (fun acc p => acc + p.1 * p.2) z = z + (ps.map fun p => p.1 * p.2).sum := by
  induction ps generalizing z with
  | nil => simp
  | cons p ps ih => rw [List.foldl_cons, ih, List.map_cons, List.sum_cons, Int.add_assoc]

/-- The elements of two registers side by side, each with its value. -/
theorem zip_map_elements {α : Type} (w n : Nat) (val : Nat → α) (a b : Word) :
    ((elements w n a).map val).zip ((elements w n b).map val) =
      (List.range n).map fun j => (val (partOf w a j), val (partOf w b j)) := by
  simp only [elements, List.map_map, List.zip_map', Function.comp_def]
  rfl

theorem partOf_lt (w : Nat) (x : Word) (j : Nat) : partOf w x j < 2 ^ w := Nat.mod_lt _ (Nat.two_pow_pos w)

/-- An integer dot word, whose elements may be valued in any way that agrees on `w` bits. -/
theorem dotIntGives_of {mk : LR3 → Instr} {w n : Nat} {val val' : Nat → Int} (he : ∀ o s, exec (mk o) s = dotInt o s w n val')
    (hv : ∀ x < 2 ^ w, val x = val' x) : DotIntGives mk w n val := by
  refine fun o => laneGives_of (he o) (funext₂ fun _ x => ?_)
  simp only [zip_map_elements, foldl_add_mul_eq_sum, List.map_map, Function.comp_def, wordOf_add, wordOf_toInt, hv _ (partOf_lt w _ _),
    Int.zero_add]
  rfl

theorem dotFloatGives_of {mk : LR3 → Instr} {w n : Nat} {val : Group → Nat → FVal} (he : ∀ o s, exec (mk o) s = dotOp o s w n val) :
    DotFloatGives mk w n val := by
  refine fun o => laneGives_of (he o) (funext₂ fun _ x => ?_)
  simp only [elements, List.map_map, Function.comp_def]
  rfl

theorem signed8_eq {x : Nat} (h : x < 2 ^ 8) : (if x < 128 then (x : Int) else x - 256) = signed 8 x := by
  simp only [signed]
  split <;> split <;> omega

theorem signed4_eq {x : Nat} (h : x < 2 ^ 4) : (if x < 8 then (x : Int) else x - 16) = signed 4 x := by
  simp only [signed]
  split <;> split <;> omega

theorem laneDotResults : LaneDotResults :=
  ⟨dotIntGives_of exec_dpi8I8 fun _ => signed8_eq, dotIntGives_of exec_dpi8N8 fun _ _ => rfl,
    dotIntGives_of exec_dpi4I4 fun _ => signed4_eq, dotIntGives_of exec_dpi4N4 fun _ _ => rfl,
    dotFloatGives_of exec_dpe5, dotFloatGives_of exec_dpbf, dotFloatGives_of exec_dpf8, dotFloatGives_of exec_dpf4⟩

/-! ### Reductions and scans -/

theorem crossGives_of {i : Instr} {guard : Fin 8} {srcs : List VOp} {dst : VOp} {need : LaneMask → LaneMask}
    {f h : LaneMask → List VReg → List VReg} (he : ∀ s, exec i s = crossOp s guard srcs dst (fun _ => need) h) (hf : f = h) :
    CrossGives i guard srcs dst need f := by
  subst hf
  intro s g slices grp hi active hr
  rw [he, crossOp_gives hi hr]

theorem reduceGives_of {mk : XR2 → Instr} {z : Word} {f h : Word → Word → Word} (he : ∀ o s, exec (mk o) s = reduceOp o s z h)
    (hf : ∀ a b, f a b = h a b) : ReduceGives mk fun active x => foldLanes z f (maskList active) x := by
  obtain rfl : f = h := funext₂ hf
  exact fun o => crossGives_of (he o) rfl

theorem scanGives_of {mk : XR2 → Instr} {strict : Bool} {z : Word} {f h : Word → Word → Word}
    (he : ∀ o s, exec (mk o) s = scanOp o s z strict h) (hf : ∀ a b, f a b = h a b) : ScanGives mk strict z f := by
  obtain rfl : f = h := funext₂ hf
  refine fun o => crossGives_of (he o) (funext₂ fun active xs => ?_)
  simp only [foldLanes, List.foldl_filter, Bool.or_eq_true, Bool.and_eq_true, decide_eq_true_eq, beq_iff_eq, Bool.not_eq_true',
    Bool.not_eq_true]

theorem lesserI_eq_minI (a b : Word) : lesserI a b = minI a b := by
  rw [lesserI, minI, min_comm, min_def_lt]
  split <;> rw [wordOf_toInt]

theorem greaterI_eq_maxI (a b : Word) : greaterI a b = maxI a b := by
  rw [greaterI, maxI, max_def_lt]
  split <;> rw [wordOf_toInt]

theorem lesserN_eq_minN (a b : Word) : lesserN a b = minN a b := by
  rw [lesserN, minN, min_comm, min_def_lt]
  split <;> rw [wordOf_toNat]

theorem reduceResults : ReduceResults :=
  ⟨reduceGives_of exec_redadd fun _ _ => rfl, reduceGives_of exec_redmin lesserI_eq_minI, reduceGives_of exec_redmax greaterI_eq_maxI,
    reduceGives_of exec_redminn lesserN_eq_minN, scanGives_of exec_scanAdd fun _ _ => rfl, scanGives_of exec_scanXadd fun _ _ => rfl,
    scanGives_of exec_scanMax greaterI_eq_maxI, scanGives_of exec_scanMin lesserI_eq_minI⟩

/-! ### Extremes -/

section Extreme

variable (active : LaneMask) (x : VReg) (identity : Word) (key : Word → Int)

/-- What a lane offers to the search for an extreme: its word, or the identity where it is not active. -/
def offered (l : Nat) : Word := if maskHas active l then laneAt x l else identity

/-- After a search of the lanes below `n`: its winner offers the least key, and an active lane that offers the same is not below the winner,
which is then active too. -/
structure WinsBelow (n w : Nat) : Prop where
  low : w = 0 ∨ w < n
  least : ∀ l < n, key (offered active x identity w) ≤ key (offered active x identity l)
  tie : ∀ l < n, maskHas active l = true → offered active x identity l = offered active x identity w → maskHas active w = true ∧ w ≤ l

/-- The winner when one more lane is looked at. -/
def nextWinner (better : Word → Word → Bool) (w l : Nat) : Nat :=
  if better (offered active x identity l) (offered active x identity w) then l
  else if offered active x identity l == offered active x identity w && maskHas active l && !maskHas active w then l
  else w

theorem extreme_eq (better : Word → Word → Bool) :
    extreme active x identity better = (offered active x identity ((List.range 32).foldl (nextWinner active x identity better) 0),
      (List.range 32).foldl (nextWinner active x identity better) 0) := rfl

variable {active x identity key}

theorem WinsBelow.next {better : Word → Word → Bool} (hb : ∀ a b, better a b = decide (key a < key b)) {n w : Nat}
    (h : WinsBelow active x identity key n w) : WinsBelow active x identity key (n + 1) (nextWinner active x identity better w n) := by
  obtain ⟨hlow, hleast, htie⟩ := h
  unfold nextWinner
  rw [hb]
  split
  case isTrue hlt =>
    have hlt := of_decide_eq_true hlt
    refine ⟨.inr (Nat.lt_succ_self n), fun l hl => ?_, fun l hl hact he => ?_⟩
    · rcases Nat.lt_succ_iff_lt_or_eq.mp hl with hl | rfl
      · exact hlt.le.trans (hleast l hl)
      · exact le_rfl
    · rcases Nat.lt_succ_iff_lt_or_eq.mp hl with hl | rfl
      · exact absurd (hleast l hl) (by rw [he]; exact hlt.not_ge)
      · exact ⟨hact, le_rfl⟩
  case isFalse hge =>
    have hge : key (offered active x identity w) ≤ key (offered active x identity n) := by simpa using hge
    have hw : w ≤ n := by omega
    split
    case isTrue hsame =>
      simp only [Bool.and_eq_true, beq_iff_eq, Bool.not_eq_true'] at hsame
      obtain ⟨⟨heq, hactn⟩, hinact⟩ := hsame
      refine ⟨.inr (Nat.lt_succ_self n), fun l hl => ?_, fun l hl hact he => ?_⟩
      · rcases Nat.lt_succ_iff_lt_or_eq.mp hl with hl | rfl
        · rw [heq]; exact hleast l hl
        · exact le_rfl
      · rcases Nat.lt_succ_iff_lt_or_eq.mp hl with hl | rfl
        · exact absurd (htie l hl hact (he.trans heq)).1 (by simp [hinact])
        · exact ⟨hact, le_rfl⟩
    case isFalse hother =>
      refine ⟨by omega, fun l hl => ?_, fun l hl hact he => ?_⟩
      · rcases Nat.lt_succ_iff_lt_or_eq.mp hl with hl | rfl
        · exact hleast l hl
        · exact hge
      · rcases Nat.lt_succ_iff_lt_or_eq.mp hl with hl | rfl
        · exact htie l hl hact he
        · refine ⟨?_, hw⟩
          simpa [he, hact] using hother

theorem winsBelow_foldl {better : Word → Word → Bool} (hb : ∀ a b, better a b = decide (key a < key b)) (n : Nat) :
    WinsBelow active x identity key n ((List.range n).foldl (nextWinner active x identity better) 0) := by
  induction n with
  | zero => exact ⟨.inl rfl, fun _ hl => absurd hl (Nat.not_lt_zero _), fun _ hl => absurd hl (Nat.not_lt_zero _)⟩
  | succ n ih =>
    rw [List.range_succ, List.foldl_append]
    exact ih.next hb

/-- Where a lane is active, an active lane wins: the identity is no better than any word. -/
theorem WinsBelow.active_of_exists (hk : Function.Injective key) (hid : ∀ a, key a ≤ key identity) {n w : Nat}
    (h : WinsBelow active x identity key n w) {l : Nat} (hl : l < n) (hact : maskHas active l = true) : maskHas active w = true := by
  by_contra hno
  have hw : offered active x identity w = identity := if_neg hno
  have he : offered active x identity l = offered active x identity w :=
    hk ((by rw [hw]; exact hid _ : key _ ≤ key _).antisymm (h.least l hl))
  exact hno (h.tie l hl hact he).1

end Extreme

/-- A word that gives the extreme under a key: its identity has the greatest key of all. -/
theorem extremeGives_of {mk : XR2 → Instr} {le better : Word → Word → Bool} {identity : Word} (key : Word → Int)
    (he : ∀ o s, exec (mk o) s = extremeOp o s identity better) (hk : Function.Injective key) (hid : ∀ a, key a ≤ key identity)
    (hb : ∀ a b, better a b = decide (key a < key b)) (hle : ∀ a b, le a b = decide (key a ≤ key b)) : ExtremeGives mk le := by
  intro o s g slices grp hi active hr
  generalize hx : (s.inputs? grp slices [srcOp o.va]).headD (Vector.replicate 32 0) = x
  generalize hw : (List.range 32).foldl (nextWinner active x identity better) 0 = w
  have h : WinsBelow active x identity key 32 w := hw ▸ winsBelow_foldl hb 32
  refine ⟨offered active x identity w, w, ?_, fun hne => ?_⟩
  · have hgives := crossOp_gives hi (f := fun active xs =>
      let (v, l) := extreme active (xs.headD (Vector.replicate 32 0)) identity better
      [Vector.replicate 32 v, Vector.replicate 32 (BitVec.ofNat 32 l)]) (need := fun _ a => a) hr
    rw [he, extremeOp, hgives]
    simp only [hx, extreme_eq]
    rw [show grp.acting slices o.g = active from rfl, hw]
    rfl
  · obtain ⟨l, hl⟩ := exists_maskHas_of_ne_zero hne
    have hact := h.active_of_exists hk hid l.isLt hl
    have hbest : offered active x identity w = laneAt x w := if_pos hact
    refine ⟨by have := h.low; omega, hact, hbest.symm, fun k hk32 hkact => ?_⟩
    have hoff : offered active x identity k = laneAt x k := if_pos hkact
    refine ⟨?_, fun hsame => (h.tie k hk32 hkact (hoff.trans hsame)).2⟩
    rw [hle, ← hoff]
    exact decide_eq_true (h.least k hk32)

theorem extremeResults : ExtremeResults := by
  refine ⟨?minI, ?minN, ?maxI, ?maxN⟩
  case minI =>
    refine extremeGives_of BitVec.toInt exec_minxI32 (fun _ _ => BitVec.eq_of_toInt_eq) (fun a => ?_) (fun _ _ => rfl) fun _ _ => rfl
    exact Int.le_of_lt_add_one (BitVec.toInt_lt (x := a))
  case minN =>
    refine extremeGives_of (fun a => a.toNat) exec_minxN32 (fun _ _ h => BitVec.eq_of_toNat_eq (Int.ofNat.inj h)) (fun a => ?_)
      (fun _ _ => ?_) fun _ _ => ?_
    · exact Int.ofNat_le.mpr (Nat.le_of_lt_succ a.isLt)
    · simp
    · simp
  case maxI =>
    refine extremeGives_of (fun a => -a.toInt) exec_maxxI32 (fun _ _ h => BitVec.eq_of_toInt_eq (neg_injective h)) (fun a => ?_)
      (fun _ _ => ?_) fun _ _ => ?_
    · exact neg_le_neg (BitVec.le_toInt (x := a))
    · simp
    · simp
  case maxN =>
    refine extremeGives_of (fun a => -a.toNat) exec_maxxN32 (fun _ _ h => BitVec.eq_of_toNat_eq (Int.ofNat.inj (neg_injective h)))
      (fun a => ?_) (fun _ _ => ?_) fun _ _ => ?_
    · exact neg_le_neg (Int.natCast_nonneg a.toNat)
    · simp
    · simp

/-- Settles O37: the model's folds are the statement's sums, and its search for an extreme keeps the lowest active lane of the best key. -/
theorem laneReductionWords : Obligations.LaneReductionWords := ⟨laneDotResults, reduceResults, extremeResults⟩

end Sys2Proof.Machine
end

section
/-! PROOFS. The canonical form of a written span (R58, R76, R199): the tag of an armed stream's port. -/

namespace Sys2Proof.Machine

open Sys2Proof

/-- The placed group with stream 0 armed: v40 is its port (R54). -/
def armedPortGroup : Group :=
  let grp := placedGroup (placedLaunch 1) (placedTeam 2 1) 0
  { grp with sd := grp.sd.set 0 { StreamDesc.empty with armed := true } }

/-- Writing an armed port's span sets no tag (R58, R199): the lane write has cleared it, and it stays clear. -/
theorem armedPortGroup_putSpans_tag : ((armedPortGroup.putSpans 0xFF [(40, 1, 0)]).tags.getD (vIndex 0 40) 0).toNat = 0 := by decide

/-- Refutes O25: the second clause does not ask that the span is of no armed stream, whose tag a write leaves clear. In a group with stream
0 armed, 0 written to v40 leaves the tag 0, while the extent of 0 is 1. -/
theorem not_extentIsLeast : ¬ Obligations.ExtentIsLeast := by
  rintro ⟨_, hspan⟩
  have htag := (hspan armedPortGroup 0xFF 40 1 0 (.inl rfl) (by decide) (by decide) (by decide) (neg_nonpos.mpr (by positivity)) (by positivity)).2
  exact absurd (htag.symm.trans armedPortGroup_putSpans_tag) (by decide)

end Sys2Proof.Machine
end

section
/-! PROOFS. The engine's product is exact (R75, R271) and its transform is the sum (R273). -/

namespace Sys2Proof.Machine

open Sys2Proof

/-! ### Bytes and two's complement (R2, R74, R75) -/

@[simp] theorem length_toBytes (n x : Nat) : (toBytes n x).length = n := by
  induction n generalizing x with
  | zero => rfl
  | succ n ih => rw [toBytes, List.length_cons, ih]

theorem ofBytes_toBytes (n x : Nat) : ofBytes (toBytes n x) = x % 2 ^ (8 * n) := by
  rw [pow_mul]
  induction n generalizing x with
  | zero => rw [pow_zero, Nat.mod_one]; rfl
  | succ n ih =>
    rw [toBytes, ofBytes, ih, BitVec.toNat_ofNat, pow_succ' (2 ^ 8), Nat.mod_mul]
    rfl

theorem ofBytes_lt (bs : List Byte) : ofBytes bs < 2 ^ (8 * bs.length) := by
  rw [pow_mul]
  induction bs with
  | nil => exact Nat.one_pos
  | cons b bs ih =>
    rw [ofBytes, List.length_cons, pow_succ']
    have := b.isLt
    omega

theorem signed_eq_bmod (n x : Nat) : signed n x = (x : Int).bmod (2 ^ n) := by
  have hcast : ((2 ^ n : Nat) : Int) = 2 ^ n := by push_cast; rfl
  have hmod := Int.natCast_mod x (2 ^ n)
  rw [signed, Int.bmod]
  split <;> split <;> omega

theorem wrap_cast (n : Nat) (y : Int) : (wrap n y : Int) = y % (2 ^ n : Nat) := by
  rw [wrap, Int.toNat_of_nonneg (Int.emod_nonneg _ (by positivity))]
  push_cast
  rfl

theorem two_pow_half {n : Nat} (hn : n ≠ 0) : 2 ^ n = 2 * 2 ^ (n - 1) := by
  rw [← pow_succ', Nat.sub_add_cancel (Nat.pos_of_ne_zero hn)]

/-- A number that `n` bits hold, wrapped and read again. -/
theorem signed_wrap {n : Nat} {y : Int} (hn : n ≠ 0) (hlow : -2 ^ (n - 1) ≤ y) (hhigh : y < 2 ^ (n - 1)) : signed n (wrap n y) = y := by
  have hn2 := two_pow_half hn
  have hcast : ((2 ^ (n - 1) : Nat) : Int) = 2 ^ (n - 1) := by push_cast; rfl
  rw [signed_eq_bmod, wrap_cast, Int.emod_bmod]
  apply Int.bmod_eq_of_le <;> omega

theorem abs_signed_le {n : Nat} (hn : n ≠ 0) (x : Nat) : |signed n x| ≤ 2 ^ (n - 1) := by
  have hn2 := two_pow_half hn
  have hcast : ((2 ^ (n - 1) : Nat) : Int) = 2 ^ (n - 1) := by push_cast; rfl
  have hpos := Nat.two_pow_pos (n - 1)
  have hle := Int.le_bmod (x := x) (m := 2 ^ n) (Nat.two_pow_pos n)
  have hlt := Int.bmod_lt (x := x) (m := 2 ^ n) (Nat.two_pow_pos n)
  rw [signed_eq_bmod, abs_le]
  constructor <;> omega

/-- The product of two signed numbers fits as many bits as both have. -/
theorem signed_mul_fits {p q : Nat} (hp : p ≠ 0) (hq : q ≠ 0) (x y : Nat) :
    -2 ^ (p + q - 1) ≤ signed p x * signed q y ∧ signed p x * signed q y < 2 ^ (p + q - 1) := by
  have habs : |signed p x * signed q y| ≤ 2 ^ (p - 1 + (q - 1)) := by
    rw [abs_mul, pow_add]
    exact mul_le_mul (abs_signed_le hp x) (abs_signed_le hq y) (abs_nonneg _) (by positivity)
  have hlt : (2 : Int) ^ (p - 1 + (q - 1)) < 2 ^ (p + q - 1) := pow_lt_pow_right₀ (by norm_num) (by omega)
  obtain ⟨hlow, hhigh⟩ := abs_le.mp habs
  constructor <;> omega

/-! ### The product -/

theorem performProduct_ok {s sa sb t : State} {o : EngineOp} {m : Mul} {ntt : Bool} {xa xb : List Byte}
    (ha : engineRead s o m.a (4 * m.la) = .ok (sa, xa)) (hb : engineRead sa o m.b (4 * m.lb) = .ok (sb, xb))
    (hw : engineWrite sb o m.d (toBytes (4 * m.limbs) (wrap (8 * (4 * m.limbs)) (limbValue m.uns xa * limbValue m.uns xb))) = .ok t) :
    performProduct s o m ntt = .ok (t, if ntt then 1 else 0) := by
  have hstatus : statusWord 0 0 0 (bitNat ntt) = if ntt then 1 else 0 := by cases ntt <;> rfl
  simp only [performProduct, ha, hb, hw, Except.ok_bind', Except.pure_ok, hstatus]

theorem productIsExact : ProductIsExact := by
  intro s sa sb t o m ntt xa xb hla hlb hlena hlenb hreada hreadb
  have hbits : 8 * (4 * m.limbs) = 8 * xa.length + 8 * xb.length := by rw [hlena, hlenb, Mul.limbs]; ring
  refine ⟨toBytes (4 * m.limbs) (wrap (8 * (4 * m.limbs)) (limbValue m.uns xa * limbValue m.uns xb)), ?_, ?_, ?_, ?_⟩
  · exact length_toBytes _ _
  · exact performProduct_ok hreada hreadb
  · intro huns
    have hprod : ofBytes xa * ofBytes xb < 2 ^ (8 * (4 * m.limbs)) := by
      rw [hbits, pow_add]
      exact Nat.mul_lt_mul'' (ofBytes_lt xa) (ofBytes_lt xb)
    have hcast : (ofBytes xa : Int) * ofBytes xb = (ofBytes xa * ofBytes xb : Nat) := (Int.natCast_mul _ _).symm
    rw [huns, limbValue, limbValue, if_pos rfl, if_pos rfl, ofBytes_toBytes, hcast, wrap_of_lt (Int.natCast_nonneg _) hprod]
    exact Nat.mod_eq_of_lt hprod
  · intro huns
    have hwrapped : wrap (8 * (4 * m.limbs)) (limbValue m.uns xa * limbValue m.uns xb) < 2 ^ (8 * (4 * m.limbs)) := by
      zify
      rw [wrap_cast]
      exact_mod_cast Int.emod_lt_of_pos _ (by positivity)
    obtain ⟨hlow, hhigh⟩ := signed_mul_fits (p := 8 * xa.length) (q := 8 * xb.length) (by omega) (by omega) (ofBytes xa) (ofBytes xb)
    rw [length_toBytes, ofBytes_toBytes, Nat.mod_eq_of_lt hwrapped, huns, limbValue, limbValue, if_neg Bool.false_ne_true,
      if_neg Bool.false_ne_true]
    rw [← hbits] at hlow hhigh
    exact signed_wrap (by omega) hlow hhigh

/-! ### Powers and sums modulo a prime -/

theorem powMod_modEq (b m : Nat) {k e : Nat} (he : e < 2 ^ k) : powMod b m k e ≡ b ^ e [MOD m] := by
  induction k generalizing e with
  | zero =>
    obtain rfl : e = 0 := by omega
    exact Nat.mod_modEq 1 m
  | succ k ih =>
    have hhalf : powMod b m k (e / 2) ≡ b ^ (e / 2) [MOD m] := ih (by rw [pow_succ] at he; omega)
    have hsq : powMod b m k (e / 2) * powMod b m k (e / 2) % m ≡ b ^ (e / 2 * 2) [MOD m] := by
      rw [pow_mul, sq]
      exact (Nat.mod_modEq _ m).trans (hhalf.mul hhalf)
    rw [powMod]
    split
    case isTrue hodd =>
      rw [show e = e / 2 * 2 + 1 by omega, pow_succ, show (e / 2 * 2 + 1) / 2 = e / 2 by omega]
      exact (Nat.mod_modEq _ m).trans (hsq.mul_right b)
    case isFalse heven =>
      rw [show e = e / 2 * 2 by omega, show e / 2 * 2 / 2 = e / 2 by omega]
      exact hsq

/-- Horner's rule, modulo m: the sum of the inputs times the powers of a number that the root of the evaluation is congruent to. -/
theorem polyAt_modEq {m w v : Nat} (h : w ≡ v [MOD m]) (xs : List Nat) :
    polyAt m w (xs.map (· % m)) ≡ ((List.range xs.length).map fun j => xs.getD j 0 * v ^ j).sum [MOD m] := by
  induction xs with
  | nil => exact rfl
  | cons x xs ih =>
    have hsum : ((List.range (x :: xs).length).map fun j => (x :: xs).getD j 0 * v ^ j).sum =
        ((List.range xs.length).map fun j => xs.getD j 0 * v ^ j).sum * v + x := by
      rw [List.length_cons, List.range_succ_eq_map, List.map_cons, List.sum_cons, List.map_map, ← List.sum_map_mul_right, Nat.add_comm]
      simp [Function.comp_def, pow_succ, Nat.mul_assoc]
    rw [hsum]
    exact (Nat.mod_modEq _ m).trans ((ih.mul h).add (Nat.mod_modEq x m))

theorem sum_mul_pow_pow (xs : List Nat) (n w k : Nat) :
    ((List.range n).map fun j => xs.getD j 0 * (w ^ k) ^ j).sum = ((List.range n).map fun j => xs.getD j 0 * w ^ (j * k)).sum := by
  simp only [← pow_mul, Nat.mul_comm k]

/-! ### The primes of R273 -/

theorem nttPrime_lt (p : Fin 4) : nttPrime p < 2 ^ 32 := by revert p; decide

theorem two_le_nttPrime (p : Fin 4) : 2 ≤ nttPrime p := by revert p; decide

theorem nttPrime_pos (p : Fin 4) : 0 < nttPrime p := Nat.zero_lt_of_lt (two_le_nttPrime p)

theorem two_pow_dvd_nttPrime_sub_one (p : Fin 4) {lg : Nat} (h : lg ≤ 24) : 2 ^ lg ∣ nttPrime p - 1 := by
  have hall : ∀ p : Fin 4, 2 ^ 24 ∣ nttPrime p - 1 := by decide
  exact (pow_dvd_pow 2 h).trans (hall p)

/-- Fermat's little theorem for the generators and for 2, by computing the power. -/
theorem powMod_nttPrime_sub_one (p : Fin 4) :
    powMod (nttGenerator p) (nttPrime p) 32 (nttPrime p - 1) = 1 ∧ powMod 2 (nttPrime p) 32 (nttPrime p - 1) = 1 := by
  revert p
  decide

theorem nttPrime_sub_one_lt (p : Fin 4) : nttPrime p - 1 < 2 ^ 32 := (Nat.sub_le _ _).trans_lt (nttPrime_lt p)

theorem nttGenerator_pow_modEq_one (p : Fin 4) : nttGenerator p ^ (nttPrime p - 1) ≡ 1 [MOD nttPrime p] := by
  simpa only [(powMod_nttPrime_sub_one p).1] using (powMod_modEq (nttGenerator p) (nttPrime p) (nttPrime_sub_one_lt p)).symm

theorem two_pow_modEq_one (p : Fin 4) : 2 ^ (nttPrime p - 1) ≡ 1 [MOD nttPrime p] := by
  simpa only [(powMod_nttPrime_sub_one p).2] using (powMod_modEq 2 (nttPrime p) (nttPrime_sub_one_lt p)).symm

/-- The root of unity that a transform computes. -/
theorem nttRoot_modEq (p : Fin 4) (n : Nat) :
    powMod (nttGenerator p) (nttPrime p) 32 ((nttPrime p - 1) / n) ≡ nttGenerator p ^ ((nttPrime p - 1) / n) [MOD nttPrime p] :=
  powMod_modEq _ _ ((Nat.div_le_self _ _).trans_lt (nttPrime_sub_one_lt p))

/-- The root's inverse: its power of m - 2 is its power of N - 1, since its power of N is 1. -/
theorem nttRoot_inverse_modEq (p : Fin 4) {n : Nat} (hn : n ∣ nttPrime p - 1) (hpos : 0 < n) :
    (nttGenerator p ^ ((nttPrime p - 1) / n)) ^ (nttPrime p - 2) ≡ (nttGenerator p ^ ((nttPrime p - 1) / n)) ^ (n - 1) [MOD nttPrime p] := by
  have hprime := two_le_nttPrime p
  obtain ⟨q, hq⟩ := hn
  have hq0 : 0 < q := Nat.pos_of_ne_zero fun h => by rw [h] at hq; omega
  have hroot : (nttGenerator p ^ ((nttPrime p - 1) / n)) ^ n ≡ 1 [MOD nttPrime p] := by
    rw [← pow_mul, Nat.div_mul_cancel ⟨q, hq⟩]
    exact nttGenerator_pow_modEq_one p
  have hexp : nttPrime p - 2 = n * (q - 1) + (n - 1) := by
    rw [Nat.mul_sub, Nat.mul_one, ← hq]
    have : n * 1 ≤ n * q := Nat.mul_le_mul_left n hq0
    omega
  rw [hexp, pow_add, pow_mul]
  simpa using (hroot.pow (q - 1)).mul_right _

/-- N times what the model takes as its inverse is 1. -/
theorem ninv_modEq (p : Fin 4) (lg : Nat) :
    2 ^ lg * powMod (2 ^ lg) (nttPrime p) 32 (nttPrime p - 2) ≡ 1 [MOD nttPrime p] := by
  have hprime := two_le_nttPrime p
  have hpow := powMod_modEq (2 ^ lg) (nttPrime p) (k := 32) (e := nttPrime p - 2) ((Nat.sub_le _ _).trans_lt (nttPrime_lt p))
  have hfermat : (2 ^ lg) ^ (nttPrime p - 1) ≡ 1 [MOD nttPrime p] := by
    rw [pow_right_comm]
    simpa using (two_pow_modEq_one p).pow lg
  calc 2 ^ lg * powMod (2 ^ lg) (nttPrime p) 32 (nttPrime p - 2)
      ≡ 2 ^ lg * (2 ^ lg) ^ (nttPrime p - 2) [MOD nttPrime p] := hpow.mul_left _
    _ = (2 ^ lg) ^ (nttPrime p - 1) := by rw [← pow_succ', show nttPrime p - 2 + 1 = nttPrime p - 1 by omega]
    _ ≡ 1 [MOD nttPrime p] := hfermat

/-! ### The transform -/

theorem transform_forward_getElem? (p : Fin 4) (xs : List Nat) {k : Nat} (hk : k < xs.length) :
    (transform false p xs)[k]? = some (polyAt (nttPrime p)
      (powMod (powMod (nttGenerator p) (nttPrime p) 32 ((nttPrime p - 1) / xs.length)) (nttPrime p) 32 k) (xs.map (· % nttPrime p)) %
        nttPrime p) := by
  simp [transform, hk]

theorem transform_inverse_getElem? (p : Fin 4) (xs : List Nat) {j : Nat} (hj : j < xs.length) :
    (transform true p xs)[j]? = some (polyAt (nttPrime p)
      (powMod (powMod (powMod (nttGenerator p) (nttPrime p) 32 ((nttPrime p - 1) / xs.length)) (nttPrime p) 32 (nttPrime p - 2))
        (nttPrime p) 32 j) (xs.map (· % nttPrime p)) * powMod xs.length (nttPrime p) 32 (nttPrime p - 2) % nttPrime p) := by
  simp [transform, hj]

theorem transformIsSum : TransformIsSum := by
  constructor
  · intro p xs lg j hlg hlg24 hlen hj m w
    have hj32 : j < 2 ^ 32 := hj.trans_le (Nat.pow_le_pow_right (by norm_num) (by omega))
    have hinv := (powMod_modEq _ m (k := 32) (e := nttPrime p - 2) ((Nat.sub_le _ _).trans_lt (nttPrime_lt p))).trans
      (((nttRoot_modEq p (2 ^ lg)).pow _).trans (nttRoot_inverse_modEq p (two_pow_dvd_nttPrime_sub_one p hlg24) (Nat.two_pow_pos lg)))
    have hsum := polyAt_modEq ((powMod_modEq _ m hj32).trans (hinv.pow j)) xs
    refine ⟨_, transform_inverse_getElem? p xs (hlen ▸ hj), Nat.mod_lt _ (nttPrime_pos p), ?_⟩
    rw [hlen] at hsum ⊢
    calc 2 ^ lg * (_ * powMod (2 ^ lg) m 32 (m - 2) % m)
        ≡ 2 ^ lg * (_ * powMod (2 ^ lg) m 32 (m - 2)) [MOD m] := (Nat.mod_modEq _ m).mul_left _
      _ = _ * (2 ^ lg * powMod (2 ^ lg) m 32 (m - 2)) := Nat.mul_left_comm _ _ _
      _ ≡ _ * 1 [MOD m] := (ninv_modEq p lg).mul_left _
      _ ≡ ((List.range (2 ^ lg)).map fun k => xs.getD k 0 * w ^ ((2 ^ lg - 1) * (j * k))).sum [MOD m] := by
        rw [Nat.mul_one]
        simpa only [w, m, ← pow_mul, Nat.mul_assoc] using hsum
  · intro p xs k hk hlen m w
    have hsum := polyAt_modEq ((powMod_modEq _ m (hk.trans hlen)).trans ((nttRoot_modEq p xs.length).pow k)) xs
    rw [sum_mul_pow_pow] at hsum
    rw [transform_forward_getElem? p xs hk]
    exact congrArg some hsum

/-- Settles O51: the product fits the limbs that are written, and the transform is Horner's rule at the powers of a root of unity. -/
theorem engineArithmetic : Obligations.EngineArithmetic := ⟨productIsExact, transformIsSum⟩

end Sys2Proof.Machine
end

section
/-! PROOFS. Dyadic numbers as rationals, rounding to nearest, and the values that atomics make (R83, R179, R232). -/

namespace Sys2Proof.Machine

open Sys2Proof

/-! ### Dyadic numbers -/

/-- The number that a dyadic datum is. -/
def Dy.rat (d : Dy) : ℚ := d.m * 2 ^ d.e

theorem Dy.lower_rat (d : Dy) {e : Int} (h : e ≤ d.e) : (d.lower e : ℚ) * 2 ^ e = d.rat := by
  have hsplit : (2 : ℚ) ^ d.e = 2 ^ (d.e - e).toNat * 2 ^ e := by
    rw [← zpow_natCast, ← zpow_add₀ two_ne_zero, Int.toNat_of_nonneg (by omega), Int.sub_add_cancel]
  rw [Dy.lower, Dy.rat, hsplit]
  push_cast
  ring

@[simp] theorem Dy.add_rat (x y : Dy) : (x.add y).rat = x.rat + y.rat := by
  rw [← x.lower_rat (min_le_left x.e y.e), ← y.lower_rat (min_le_right x.e y.e), ← add_mul]
  simp only [Dy.rat, Dy.add, Int.cast_add]

theorem Dy.rat_eq_zero {d : Dy} : d.rat = 0 ↔ d.m = 0 := by
  rw [Dy.rat, mul_eq_zero, Int.cast_eq_zero, or_iff_left (zpow_ne_zero _ two_ne_zero)]

/-- A finite value's dyadic datum is the number that it is; of others both are 0. -/
@[simp] theorem FVal.dy_rat (v : FVal) : v.dy.rat = ratOf v := by
  cases v with
  | nan q => simp [FVal.dy, Dy.rat, ratOf]
  | inf n => simp [FVal.dy, Dy.rat, ratOf]
  | fin n m e => cases n <;> simp [FVal.dy, dyOf, Dy.rat, ratOf]

/-- The sign of a zero matters to a rounding of nothing else. -/
theorem roundDy_of_ne_zero (f : Fmt) (rm : Rm) (ftz : Bool) {d : Dy} (h : d.m ≠ 0) (zneg : Bool) :
    f.roundDy rm ftz d zneg = f.roundDy rm ftz d false := by
  simp only [Fmt.roundDy, if_neg h]

theorem roundDy_of_zero (f : Fmt) (rm : Rm) (ftz : Bool) {d : Dy} (h : d.m = 0) (zneg : Bool) :
    f.roundDy rm ftz d zneg = (f.zero zneg, 0) := by
  simp only [Fmt.roundDy, if_pos h]

/-! ### Rounding to nearest (R83) -/

/-- A division by 2 h rounded to nearest, ties to even, is within h; at h itself it is even. -/
theorem nearest_of_div {mag half m rem : Nat} (hhalf : 0 < half) (hmag : mag = m * (2 * half) + rem) (hrem : rem < 2 * half)
    (n : Nat) (hn : n = if half < rem ∨ rem = half ∧ m % 2 = 1 then m + 1 else m) :
    2 * ((n : Int) * (2 * half : Nat) - mag).natAbs ≤ 2 * half ∧
      (2 * ((n : Int) * (2 * half : Nat) - mag).natAbs = 2 * half → n % 2 = 0) := by
  have hdiff : ((n : Int) * (2 * half : Nat) - mag) = (n - m : Int) * (2 * half : Nat) - rem := by
    rw [hmag]; push_cast; ring
  rw [hdiff]
  split at hn
  case isTrue hup =>
    rw [hn, Nat.cast_add, Nat.cast_one, add_sub_cancel_left, one_mul]
    omega
  case isFalse hdown =>
    rw [hn, sub_self, zero_mul, zero_sub]
    omega

theorem nearestEven : NearestEven := by
  intro neg mag exp q hlt step m
  obtain ⟨s, hs⟩ : ∃ s : Nat, (q - exp).toNat = s + 1 := ⟨(q - exp).toNat - 1, by omega⟩
  have hpow : 2 ^ (s + 1) = 2 * 2 ^ s := pow_succ' 2 s
  have hstep : step = (2 * 2 ^ s : Nat) := by
    simp only [step, hs]
    push_cast
    exact pow_succ' 2 s
  have hround : (roundAt .rne neg mag exp false q).1 = if 2 ^ s < mag % 2 ^ (s + 1) ∨ mag % 2 ^ (s + 1) = 2 ^ s ∧ mag / 2 ^ (s + 1) % 2 = 1
      then mag / 2 ^ (s + 1) + 1 else mag / 2 ^ (s + 1) := by
    simp [roundAt, roundsUp, hs, Int.not_le.mpr hlt]
  have hdiv : mag = mag / 2 ^ (s + 1) * (2 * 2 ^ s) + mag % 2 ^ (s + 1) := by
    rw [← hpow, Nat.div_add_mod']
  have hrem : mag % 2 ^ (s + 1) < 2 * 2 ^ s := hpow ▸ Nat.mod_lt _ (Nat.two_pow_pos _)
  obtain ⟨hnear, heven⟩ := nearest_of_div (Nat.two_pow_pos s) hdiv hrem _ hround
  rw [hstep, Int.natAbs_natCast]
  exact ⟨hnear, fun htie => (Int.natCast_mod _ 2).symm.trans (congrArg Nat.cast (heven htie))⟩

/-! ### The values -/

theorem operand_exact (f : Fmt) (x : Nat) : f.operand false x = f.value x := rfl

/-- The floating format of an FADD atomic. -/
def atomFmt (w64 : Bool) : Fmt := if w64 then Fmt.f64 else Fmt.f32

theorem atomValue_fadd (w64 : Bool) (old x new : Nat) :
    atomValue .fadd w64 old x new = (fpAdd (atomFmt w64) .rne false ((atomFmt w64).value old) ((atomFmt w64).value x)).1 := rfl

theorem atomFmt_codes (w64 : Bool) : (atomFmt w64).top = (if w64 then 0x7FF0000000000000 else 0x7F800000) ∧
    (atomFmt w64).nan = (if w64 then 0x7FF8000000000000 else 0x7FC00000) ∧ (atomFmt w64).sign = if w64 then 2 ^ 63 else 2 ^ 31 := by
  revert w64
  decide

theorem fpAdd_nan {x y : FVal} (h : ∃ q, x = .nan q ∨ y = .nan q) (f : Fmt) (rm : Rm) (ftz : Bool) : (fpAdd f rm ftz x y).1 = f.nan := by
  obtain ⟨q, rfl | rfl⟩ := h <;> simp [fpAdd, FVal.isNaN]

theorem fpAdd_inf_inf (f : Fmt) (rm : Rm) (ftz a b : Bool) :
    (fpAdd f rm ftz (.inf a) (.inf b)).1 = if a = b then f.zero a + f.top else f.nan := by
  by_cases h : a = b <;> simp [fpAdd, FVal.isNaN, h]

theorem fpAdd_inf_fin (f : Fmt) (rm : Rm) (ftz a n : Bool) (m : Nat) (e : Int) :
    (fpAdd f rm ftz (.inf a) (.fin n m e)).1 = f.zero a + f.top ∧ (fpAdd f rm ftz (.fin n m e) (.inf a)).1 = f.zero a + f.top := by
  simp [fpAdd, FVal.isNaN]

theorem fpAdd_fin (f : Fmt) (rm : Rm) (ftz na nb : Bool) (ma mb : Nat) (ea eb : Int) :
    fpAdd f rm ftz (.fin na ma ea) (.fin nb mb eb) =
      f.roundDy rm ftz ((dyOf na ma ea).add (dyOf nb mb eb)) (if ma == 0 && mb == 0 && na == nb then na else rm == .rdn) := by
  simp [fpAdd, FVal.isNaN, FVal.isZero, FVal.neg?, FVal.dy]

/-- Two magnitudes that cancel are both zero or neither is. -/
theorem ratOf_eq_zero_iff {n : Bool} {m : Nat} {e : Int} : ratOf (.fin n m e) = 0 ↔ m = 0 := by
  rw [← FVal.dy_rat, Dy.rat_eq_zero]
  cases n <;> simp [FVal.dy, dyOf]

theorem faddValues : FaddValues := by
  intro w64 old x new f top nan sign r
  obtain ⟨htop, hnan, hsign⟩ := atomFmt_codes w64
  have hzero : ∀ neg, (atomFmt w64).zero neg = sign neg := by
    intro neg
    cases neg
    · rfl
    · exact hsign
  have hr : r = (fpAdd (atomFmt w64) .rne false (f.value old) (f.value x)).1 := rfl
  refine ⟨fun h => ?_, fun a b ha hb => ?_, fun a n m e h => ?_, fun na ma ea nb mb eb ha hb => ?_⟩
  · rw [hr, fpAdd_nan h, hnan]
  · rw [hr, ha, hb, fpAdd_inf_inf, hzero, htop, hnan]
  · rw [hr]
    rcases h with ⟨ha, hb⟩ | ⟨ha, hb⟩
    · rw [ha, hb, (fpAdd_inf_fin _ _ _ a n m e).1, hzero, htop]
    · rw [ha, hb, (fpAdd_inf_fin _ _ _ a n m e).2, hzero, htop]
  · have hrat : ((dyOf na ma ea).add (dyOf nb mb eb)).rat = ratOf (f.value old) + ratOf (f.value x) := by
      rw [Dy.add_rat, ha, hb, ← FVal.dy_rat, ← FVal.dy_rat]
      rfl
    rw [hr, ha, hb, fpAdd_fin, ← ha, ← hb]
    refine ⟨fun hne => ⟨_, hrat, ?_⟩, fun heq => ?_⟩
    · rw [roundDy_of_ne_zero _ _ _ fun h0 => hne (hrat.symm.trans (Dy.rat_eq_zero.mpr h0))]
      rfl
    · rw [roundDy_of_zero _ _ _ (Dy.rat_eq_zero.mp (hrat.trans heq)), hzero]
      have hboth : ma = 0 ↔ mb = 0 := by
        rw [← ratOf_eq_zero_iff (n := na) (e := ea), ← ratOf_eq_zero_iff (n := nb) (e := eb), ← ha, ← hb]
        constructor <;> intro h0 <;> linarith
      by_cases hma : ma = 0
      · have hmb := hboth.mp hma
        subst hma hmb
        cases na <;> cases nb <;> rfl
      · rw [show (ma == 0) = false from beq_false_of_ne hma, Bool.and_false]
        rfl

theorem signed_ite_min (n a b : Nat) : signed n (if signed n b < signed n a then b else a) = min (signed n a) (signed n b) := by
  rw [min_comm, min_def_lt]
  split <;> rfl

theorem signed_ite_max (n a b : Nat) : signed n (if signed n a < signed n b then b else a) = max (signed n a) (signed n b) := by
  rw [max_def_lt]
  split <;> rfl

/-- A difference modulo a power of two, and what gives the minuend back. -/
theorem sub_mod_add_mod {n old x : Nat} (ho : old < n) (hx : x < n) :
    ((old + n - x) % n + x) % n = old ∧ (old + n - x) % n < n := by
  refine ⟨?_, Nat.mod_lt _ (by omega)⟩
  rw [Nat.mod_add_mod, show old + n - x + x = old + n by omega, Nat.add_mod_right, Nat.mod_eq_of_lt ho]

theorem atomicValues : AtomicValues := by
  refine ⟨faddValues, nearestEven, ?_⟩
  intro w64 old x new n ho hx _
  obtain ⟨hback, hlt⟩ := sub_mod_add_mod ho hx
  exact ⟨rfl, hback, hlt, signed_ite_min n old x, signed_ite_max n old x, rfl, rfl, rfl, rfl, rfl, rfl, rfl⟩

end Sys2Proof.Machine
end

section
/-! PROOFS. Translating an access and storing bytes leave every group, and the word in execution, as they are (R105, R354, R364, R370,
R373, R377). -/

namespace Sys2Proof.Machine

open Sys2Proof

/-- The groups of a state, and who executes a word. -/
def State.actors (s : State) : List (Nat × Group) × Option Issuer := (s.groups, s.cur)

theorem State.group?_of_actors {s t : State} (h : t.actors = s.actors) (g : GroupId) : t.group? g = s.group? g :=
  congrArg (fun a : List (Nat × Group) × Option Issuer => getBy g.val a.1) h

theorem State.cur_of_actors {s t : State} (h : t.actors = s.actors) : t.cur = s.cur := congrArg Prod.snd h

/-- What no step of a fold changes, the fold does not. -/
theorem foldl_keeps {σ α β : Type} {f : σ → α → σ} {p : σ → β} (h : ∀ s x, p (f s x) = p s) (l : List α) (s : σ) :
    p (l.foldl f s) = p s := by
  induction l generalizing s with
  | nil => rfl
  | cons x l ih => rw [List.foldl_cons, ih, h]

/-! ### Translation -/

@[simp] theorem actors_grantLease (s : State) (ld : Fin 4) (asn : Asn) (va leaf : Nat) : (s.grantLease ld asn va leaf).actors = s.actors := rfl

@[simp] theorem actors_memoryError (s : State) (r : Req) (reason loc : Nat) : (s.memoryError r reason loc).actors = s.actors := rfl

@[simp] theorem actors_meetGranules (s : State) (r : Req) (gs : List Nat) : (s.meetGranules r gs).actors = s.actors := by
  refine foldl_keeps (fun s g => ?_) gs s
  rfl

@[simp] theorem actors_pinPage (s : State) (r : Req) (va leaf : Nat) : (s.pinPage r va leaf).actors = s.actors := by
  simp only [State.pinPage]
  split
  · split
    · rfl
    · rw [actors_meetGranules]
      rfl
  · rfl

@[simp] theorem actors_meetErrors (s : State) (r : Req) (ps : List Place) : (s.meetErrors r ps).actors = s.actors := by
  unfold State.meetErrors
  split
  · rfl
  · exact actors_meetGranules ..

@[simp] theorem actors_fillLevel (s : State) (level : CacheLevel) (t : Fin 4 × Asn × Nat) (imported : Bool) (c : CacheRef) :
    (s.fillLevel level t imported c).actors = s.actors := by
  unfold State.fillLevel
  exact apply_ite State.actors _ _ _ |>.trans (ite_self _)

@[simp] theorem actors_track (s : State) (line : Nat) (token : DWord) (home : Fin 4 × Asn × Nat) (d : Fin 5) :
    (s.track line token home d).actors = s.actors := rfl

@[simp] theorem actors_importLine (s : State) (token : DWord) (level : CacheLevel) (c : CacheRef) :
    (s.importLine token level c).actors = s.actors := by
  simp only [State.importLine]
  split
  · rfl
  · split
    · rfl
    · rw [actors_track, actors_fillLevel]

@[simp] theorem actors_fillPlaces (s : State) (r : Req) (token : DWord) (ps : List Place) : (s.fillPlaces r token ps).actors = s.actors := by
  refine foldl_keeps (fun s c => ?_) _ s
  dsimp only
  split <;> simp only [apply_ite State.actors, actors_fillLevel, actors_importLine, ite_self]

theorem actors_ownPlaces {s t : State} {r : Req} {imp : Option (Fin 4 × Asn × Nat)} {token : DWord} {va n : Nat} {ps : List Place}
    (h : s.ownPlaces r imp token va n = .ok (t, ps)) : t.actors = s.actors := by
  unfold State.ownPlaces at h
  split at h
  case h_1 => cases h
  case h_2 leaf walked _ =>
    cases h
    rw [actors_fillPlaces, actors_meetErrors, actors_pinPage]
    split <;> rfl

theorem actors_placesInPage {s t : State} {r : Req} {va n : Nat} {ps : List Place} (h : s.placesInPage r va n = .ok (t, ps)) :
    t.actors = s.actors := by
  unfold State.placesInPage at h
  split at h
  case isFalse => exact actors_ownPlaces h
  case isTrue =>
    split at h
    case h_1 => cases h
    case h_2 imp _ =>
      dsimp only at h
      split at h
      case isTrue =>
        split at h
        · cases h
        · cases h
          rfl
      case isFalse =>
        split at h
        case h_1 => cases h
        case h_2 =>
          split at h
          · cases h
          · split at h
            · cases h
            · exact actors_ownPlaces h

theorem actors_placesFuel {s t : State} {r : Req} {va n fuel : Nat} {ps : List Place} (h : s.placesFuel r va n fuel = .ok (t, ps)) :
    t.actors = s.actors := by
  induction fuel generalizing s va n ps with
  | zero =>
    cases h
    rfl
  | succ fuel ih =>
    simp only [State.placesFuel] at h
    split at h
    · cases h
      rfl
    · split at h
      · cases h
      next s1 ps1 h1 =>
        split at h
        · cases h
        next s2 rest h2 =>
          cases h
          exact (ih h2).trans (actors_placesInPage h1)

theorem actors_virtualAt {k : AccKind} {l1 : Option Bool} {n : Nat} {g : GroupId} {grp : Group} {s t : State} {a : Nat} {ps : List Place}
    (h : virtualAt k l1 n g grp s a = .ok (t, ps)) : t.actors = s.actors := actors_placesFuel h

theorem actors_locateAll {locate : Locate} (hl : ∀ s a t ps, locate s a = .ok (t, ps) → t.actors = s.actors) {as : List LaneAddr} {s t : State}
    {places : List (Nat × List Place)} (h : locateAll locate s as = some (t, places)) : t.actors = s.actors := by
  induction as generalizing s places with
  | nil =>
    cases h
    rfl
  | cons e as ih =>
    simp only [locateAll] at h
    split at h
    next s1 ps h1 =>
      obtain ⟨⟨t1, rest⟩, h2, heq⟩ := Option.map_eq_some_iff.mp h
      cases heq
      exact (ih h2).trans (hl _ _ _ _ h1)
    next => cases h

/-! ### Stores -/

@[simp] theorem actors_writeLoc (s : State) (whole : Bool) (l : Nat) (b : Byte) : (s.writeLoc whole l b).actors = s.actors := by
  unfold State.writeLoc
  split
  · rfl
  · split <;> rfl

@[simp] theorem actors_dropWrites (s : State) (r : Req) (ls : List Nat) : (s.dropWrites r ls).actors = s.actors := by
  refine foldl_keeps (p := fun acc : State × List Nat => acc.1.actors) (fun acc l => ?_) ls (s, [])
  dsimp only
  split <;> rfl

@[simp] theorem actors_writePlain (s : State) (r : Req) (cells : List (Nat × Byte)) : (s.writePlain r cells).actors = s.actors := by
  simp only [State.writePlain]
  split
  · exact foldl_keeps (fun _ _ => actors_writeLoc ..) cells s
  · rw [actors_dropWrites]
    exact foldl_keeps (fun _ _ => actors_writeLoc ..) cells s

@[simp] theorem actors_invalidate (s : State) (r : Req) (ls : List Nat) : (s.invalidate r ls).actors = s.actors := by
  unfold State.invalidate
  split <;> rfl

@[simp] theorem actors_writeHome (s : State) (r : Req) (cells : List (Nat × Byte)) : (s.writeHome r cells).actors = s.actors := by
  rw [State.writeHome, actors_invalidate, actors_writePlain]

@[simp] theorem actors_setCtx (s : State) (ld : Fin 4) (asn : Asn) (c : Ctx) : (s.setCtx ld asn c).actors = s.actors := rfl

@[simp] theorem actors_writeMxBlock (s : State) (r : Req) (pairs : List (Place × Byte)) (mxf base block : Nat) :
    (s.writeMxBlock r pairs mxf base block).actors = s.actors := by
  simp only [State.writeMxBlock]
  split
  · exact actors_dropWrites ..
  · split
    · exact actors_writePlain ..
    · rw [actors_setCtx, actors_writePlain]

@[simp] theorem actors_writeMx (s : State) (r : Req) (pairs : List (Place × Byte)) : (s.writeMx r pairs).actors = s.actors :=
  foldl_keeps (fun _ _ => actors_writeMxBlock ..) _ s

@[simp] theorem actors_mapLine (s : State) (t : Fin 4 × Asn × Nat) (p : CacheLevel → Bool) (f : CacheLine → CacheLine) :
    (s.mapLine t p f).actors = s.actors := rfl

@[simp] theorem actors_writeHeld (s : State) (r : Req) (c : CacheRef) (b : Byte) : (s.writeHeld r c b).actors = s.actors := by
  unfold State.writeHeld
  simp only [State.mapLine]
  repeat' split
  all_goals rfl

@[simp] theorem actors_sendRemote (s : State) (pairs : List (Place × Byte)) : (s.sendRemote pairs).actors = s.actors := by
  simp only [State.sendRemote]
  split <;> rfl

@[simp] theorem actors_recordDrops (s : State) (r : Req) (cs : List CacheRef) : (s.recordDrops r cs).actors = s.actors :=
  foldl_keeps (fun _ _ => actors_memoryError ..) _ s

@[simp] theorem actors_healPins (s : State) (pairs : List (Place × Byte)) : (s.healPins pairs).actors = s.actors := by
  unfold State.healPins
  split <;> rfl

@[simp] theorem actors_remember (s : State) (pairs : List (Place × Byte)) : (s.remember pairs).actors = s.actors := rfl

@[simp] theorem actors_writePlaces (s : State) (r : Req) (ps : List Place) (bs : List Byte) : (s.writePlaces r ps bs).actors = s.actors := by
  simp only [State.writePlaces, actors_sendRemote, actors_writeMx, actors_writeHome]
  refine (foldl_keeps (fun s e => ?_) _ _).trans (by simp only [actors_remember, actors_healPins, actors_recordDrops])
  split
  · exact actors_writeHeld ..
  · rfl

@[simp] theorem actors_shadowStore (s : State) (launch : Nat) (ps : List Place) : (s.shadowStore launch ps).actors = s.actors := by
  unfold State.shadowStore
  split <;> rfl

@[simp] theorem actors_groupStore (s : State) (r : Req) (launch : Nat) (ps : List Place) (bs : List Byte) :
    (s.groupStore r launch ps bs).actors = s.actors := by
  rw [State.groupStore, actors_writePlaces, actors_shadowStore]

end Sys2Proof.Machine
end

section
/-! PROOFS. The lane atomics (R225, R231 to R233): the steps of the word, each as its statement's function gives it. -/

namespace Sys2Proof.Machine

open Sys2Proof

/-! ### The checks of addresses -/

theorem laneTrap_of_none {s : State} {k : Kind} {as : List LaneAddr} {bad : LaneAddr → Bool} (h : ∀ e ∈ as, bad e = false) :
    laneTrap s k (as.filter bad) = .ok () := by
  rw [List.filter_eq_nil_iff.mpr fun e he => by simp [h e he]]
  rfl

theorem checkAddrs_ok {s : State} {p : Priv} {as : List LaneAddr} {n : Nat} (hn : n ≠ 0) (h : ∀ e ∈ as, plainAddr p e.2 n) :
    checkAddrs s p as n = .ok () := by
  have hkind : ∀ e ∈ as, ∀ k, (addrKind p e.2 n == some k) = false := fun e he k => by rw [addrKind_plain (h e he) hn]; rfl
  rw [checkAddrs, laneTrap_of_none fun e he => hkind e he .bounds, Except.ok_bind', laneTrap_of_none fun e he => hkind e he .priv]

theorem checkAlign_ok {s : State} {as : List LaneAddr} {n : Nat} (h : ∀ e ∈ as, e.2 % n = 0) : checkAlign s as n = .ok () :=
  laneTrap_of_none fun e he => by rw [h e he]; rfl

/-! ### Where the accesses stand, and their order -/

theorem foldlM_locateLane {locate : Locate} {as : List LaneAddr} {s t : State} {places : List (Nat × List Place)}
    (h : locateAll locate s as = some (t, places)) (before : List (Nat × List Place)) :
    as.foldlM (fun acc e => locateLane locate acc e) ⟨s, before, 0, 0⟩ = .ok ⟨t, before ++ places, 0, 0⟩ := by
  induction as generalizing s places before with
  | nil =>
    cases h
    rw [List.append_nil]
    rfl
  | cons e as ih =>
    simp only [locateAll] at h
    split at h
    next s1 ps h1 =>
      obtain ⟨⟨t1, rest⟩, h2, heq⟩ := Option.map_eq_some_iff.mp h
      cases heq
      have hlane : locateLane locate ⟨s, before, 0, 0⟩ e = .ok ⟨s1, before ++ [(e.1, ps)], 0, 0⟩ := by
        simp only [locateLane, h1, Except.pure_ok]
      rw [List.foldlM_cons, hlane, Except.ok_bind', ih h2, List.append_assoc]
      rfl
    next => cases h

theorem locateAll_keys {locate : Locate} {as : List LaneAddr} {s t : State} {places : List (Nat × List Place)}
    (h : locateAll locate s as = some (t, places)) : places.map Prod.fst = as.map Prod.fst := by
  induction as generalizing s places with
  | nil =>
    cases h
    rfl
  | cons e as ih =>
    simp only [locateAll] at h
    split at h
    next s1 ps h1 =>
      obtain ⟨⟨t1, rest⟩, h2, heq⟩ := Option.map_eq_some_iff.mp h
      cases heq
      simp only [List.map_cons, ih h2]
    next => cases h

theorem exists_getBy_of_mem {α : Type} {k : Nat} {l : List (Nat × α)} (h : k ∈ l.map Prod.fst) : ∃ a, getBy k l = some a := by
  induction l with
  | nil => cases h
  | cons e l ih =>
    obtain ⟨x, a⟩ := e
    by_cases hx : x = k
    · exact ⟨a, if_pos hx⟩
    · obtain ⟨b, hb⟩ := ih ((List.mem_cons.mp h).resolve_left (Ne.symm hx))
      exact ⟨b, (if_neg hx).trans hb⟩

theorem freeOrder_ins_perm (fresh : Nat) (e : LaneAddr) (as : List LaneAddr) : (freeOrder.ins fresh e as).Perm (e :: as) := by
  induction as with
  | nil => exact .rfl
  | cons x as ih =>
    rw [freeOrder.ins]
    split
    · exact .rfl
    · exact (ih.cons x).trans (.swap e x as)

theorem freeOrder_perm (fresh : Nat) (as : List LaneAddr) : (freeOrder fresh as).Perm as := by
  induction as with
  | nil => exact .rfl
  | cons e as ih => exact (freeOrder_ins_perm fresh e _).trans (ih.cons e)

/-- The open order of atomics is an order of the same accesses (R233). -/
theorem atomicOrder_perm (fresh : Nat) (places : List (Nat × List Place)) (as : List LaneAddr) : (atomicOrder fresh places as).Perm as := by
  unfold atomicOrder
  split
  · exact .rfl
  · exact freeOrder_perm fresh as

/-! ### The atomics performed -/

/-- The two words of an old value. -/
def oldWords (old : Nat) : List Word := [BitVec.ofNat 32 old, BitVec.ofNat 32 (old / 2 ^ 32)]

theorem atomAll_keys {r : Req} {launch : Nat} {op : AtomOp} {n : Nat} {places : List (Nat × List Place)} {data : Nat → Nat × Nat}
    {as : List LaneAddr} {s t : State} {got : List (Nat × Nat)} (h : atomAll r launch op n places data s as = some (t, got)) :
    got.map Prod.fst = as.map Prod.fst := by
  induction as generalizing s got with
  | nil =>
    cases h
    rfl
  | cons e as ih =>
    simp only [atomAll] at h
    split at h
    · obtain ⟨⟨t1, rest⟩, h2, heq⟩ := Option.map_eq_some_iff.mp h
      cases heq
      simp only [List.map_cons, ih h2]
    · cases h

theorem actors_atomAll {r : Req} {launch : Nat} {op : AtomOp} {n : Nat} {places : List (Nat × List Place)} {data : Nat → Nat × Nat}
    {as : List LaneAddr} {s t : State} {got : List (Nat × Nat)} (h : atomAll r launch op n places data s as = some (t, got)) :
    t.actors = s.actors := by
  induction as generalizing s got with
  | nil =>
    cases h
    rfl
  | cons e as ih =>
    simp only [atomAll] at h
    split at h
    · obtain ⟨⟨t1, rest⟩, h2, heq⟩ := Option.map_eq_some_iff.mp h
      cases heq
      rw [ih h2, actors_groupStore]
    · cases h

/-- Performing the atomics one after another marks their lanes done and enters their old values, and changes the state as the statement's
function does; none reads poison. -/
theorem foldl_performAtomic {r : Req} {launch : Nat} {op : AtomOp} {n : Nat} {places : List (Nat × List Place)} {data : Nat → Nat × Nat}
    {as : List LaneAddr} {s t : State} {got : List (Nat × Nat)} (h : atomAll r launch op n places data s as = some (t, got))
    (hkeys : ∀ e ∈ as, ∃ ps, getBy e.1 places = some ps) (done refused poison : LaneMask) (vals : List VReg) (reason pat : Nat) :
    as.foldl (performAtomic r launch op n places data) ⟨s, done, vals, refused, reason, poison, pat⟩ =
      ⟨t, got.foldl (fun m e => m ||| laneSet [e.1]) done, got.foldl (fun vs e => setLane vs e.1 (oldWords e.2)) vals, refused, reason,
        poison, pat⟩ := by
  induction as generalizing s got done vals with
  | nil =>
    cases h
    rfl
  | cons e as ih =>
    obtain ⟨ps, hps⟩ := hkeys e (List.mem_cons_self ..)
    simp only [atomAll, hps, Option.getD_some] at h
    split at h
    next hclean =>
      obtain ⟨⟨t1, rest⟩, h2, heq⟩ := Option.map_eq_some_iff.mp h
      cases heq
      have hread : s.readAtomic ps = (ps.map s.atomicByte, none) := Prod.ext rfl hclean
      rw [List.foldl_cons, List.foldl_cons, List.foldl_cons]
      simp only [performAtomic, hps, hread]
      exact ih h2 (fun x hx => hkeys x (List.mem_cons_of_mem _ hx)) _ _
    next => cases h

/-! ### The lanes done and the values gathered -/

theorem foldl_or_laneSet (ls : List (Nat × Nat)) (m : LaneMask) (i : Nat) :
    maskHas (ls.foldl (fun m e => m ||| laneSet [e.1]) m) i = (maskHas m i || (decide (i < 32) && (ls.map Prod.fst).contains i)) := by
  have hone : ∀ l, laneSet [l] = BitVec.ofNat 32 (2 ^ l) := fun l => BitVec.zero_or
  simp only [hone]
  rw [← List.foldl_map (f := Prod.fst) (g := fun (m : LaneMask) l => m ||| BitVec.ofNat 32 (2 ^ l)), maskHas_foldl_or]

/-- Some lane is done exactly where some atomic was performed. -/
theorem done_ne_zero_iff {got : List (Nat × Nat)} (hlt : ∀ e ∈ got, e.1 < 32) :
    got.foldl (fun m e => m ||| laneSet [e.1]) (0 : LaneMask) ≠ 0 ↔ got ≠ [] := by
  constructor
  · rintro h rfl
    exact h rfl
  · intro hne hzero
    obtain ⟨e, rest, rfl⟩ := List.exists_cons_of_ne_nil hne
    have hbit := foldl_or_laneSet (e :: rest) 0 e.1
    rw [hzero, maskHas_zero] at hbit
    simp [hlt e (List.mem_cons_self ..)] at hbit

theorem setLane_map_range (n l : Nat) (v : Nat → VReg) (ws : List Word) :
    setLane ((List.range n).map v) l ws = (List.range n).map fun i => (v i).setIfInBounds l (ws.getD i 0) := by
  apply List.ext_getElem
  · simp [setLane]
  · intro i h1 h2
    simp [setLane]

/-- The values entered lane by lane, each register on its own. -/
theorem foldl_setLane_map_range (n : Nat) (got : List (Nat × Nat)) (v : Nat → VReg) :
    got.foldl (fun vs e => setLane vs e.1 (oldWords e.2)) ((List.range n).map v) =
      (List.range n).map fun i => got.foldl (fun x e => x.setIfInBounds e.1 ((oldWords e.2).getD i 0)) (v i) := by
  induction got generalizing v with
  | nil => rfl
  | cons e got ih => rw [List.foldl_cons, setLane_map_range, ih]; rfl

theorem foldl_setIfInBounds_getElem {got : List (Nat × Nat)} (hnd : (got.map Prod.fst).Nodup) (w : Nat × Nat → Word) (v : VReg) (l : Fin 32) :
    (got.foldl (fun x e => x.setIfInBounds e.1 (w e)) v)[l] =
      ((got.find? fun e => e.1 == l.val).map w).getD v[l] := by
  induction got generalizing v with
  | nil => rfl
  | cons e got ih =>
    rw [List.map_cons, List.nodup_cons] at hnd
    obtain ⟨hout, hnd⟩ := hnd
    rw [List.foldl_cons, ih hnd, List.find?_cons]
    by_cases he : e.1 = l.val
    · have hnone : (got.find? fun x => x.1 == l.val) = none := by
        rw [List.find?_eq_none]
        intro x hx hxl
        exact hout (he ▸ (beq_iff_eq.mp hxl) ▸ List.mem_map_of_mem hx)
      simp [he, hnone]
    · simp [he, beq_false_of_ne he, Vector.getElem_setIfInBounds_ne]

/-- The registers that the atomics fill are those that the statement gathers. -/
theorem foldl_setLane_eq_loadedRegs {got : List (Nat × Nat)} (hnd : (got.map Prod.fst).Nodup) (active : LaneMask) (vd : Fin 64) (n : Nat) :
    (got.foldl (fun vs e => setLane vs e.1 (oldWords e.2)) ((List.range n).map fun _ => Vector.replicate 32 0)).zipIdx.map
        (fun x => (vd.val + x.2, x.1)) =
      loadedRegs false active vd n (got.map fun e => (e.1, oldWords e.2)) := by
  rw [foldl_setLane_map_range]
  apply List.ext_getElem
  · simp [loadedRegs]
  · intro i h1 h2
    simp only [loadedRegs, List.getElem_map, List.getElem_zipIdx, List.getElem_range, Nat.zero_add, Bool.false_eq_true, if_false, Prod.mk.injEq,
      true_and]
    ext l hl
    have hget := foldl_setIfInBounds_getElem hnd (fun e => (oldWords e.2).getD i 0) (Vector.replicate 32 0) ⟨l, hl⟩
    simp only [Fin.getElem_fin] at hget
    rw [hget]
    simp [gathered, List.find?_map, Function.comp_def, Option.map_map]

/-! ### The end of the word -/

/-- A word in a state whose actors are those of another. -/
theorem Issues.of_actors {s t : State} {g : GroupId} {slices : BitVec 8} {grp : Group} (h : Issues s g slices grp)
    (hst : t.actors = s.actors) : Issues t g slices grp :=
  ⟨(State.cur_of_actors hst).trans h.cur, (State.group?_of_actors hst g).trans h.here⟩

/-- After the accesses of a strong word: its group bars a rewind if any was performed (R146), and the word ends as from there. -/
theorem pinned_issues {s : State} {g : GroupId} {slices : BitVec 8} {grp : Group} (h : Issues s g slices grp) {acc : Served} (hs : acc.s = s)
    {as : List LaneAddr} (hdone : acc.done ≠ 0 ↔ as ≠ []) :
    Issues (acc.pinned true g slices).s g slices (grp.strongly slices true as) ∧
      ∀ x, (acc.pinned true g slices).s.doneWith g slices x = s.doneWith g slices x := by
  subst hs
  by_cases hne : as = []
  · have hzero : ¬ (true = true ∧ acc.done ≠ 0) := fun hc => hdone.mp hc.2 hne
    rw [Served.pinned, if_neg hzero, Group.strongly, if_neg fun hc => hc.2 hne]
    exact ⟨h, fun _ => rfl⟩
  · have hpin : acc.s.pinGroup g slices = acc.s.setGroup g (grp.pin slices) := by rw [State.pinGroup, h.here]
    rw [Served.pinned, if_pos ⟨rfl, hdone.mpr hne⟩, Group.strongly, if_pos ⟨rfl, hne⟩, hpin]
    exact ⟨⟨h.cur, State.group?_setGroup ..⟩, fun x => State.setGroup_setGroup ..⟩

theorem pinned_fields (acc : Served) (strong : Bool) (g : GroupId) (slices : BitVec 8) :
    (acc.pinned strong g slices).vals = acc.vals ∧ (acc.pinned strong g slices).poison = acc.poison := by
  unfold Served.pinned
  split <;> exact ⟨rfl, rfl⟩

theorem Group.strongly_streamOf (grp : Group) (slices : BitVec 8) (strong : Bool) (as : List LaneAddr) (r : Nat) :
    (grp.strongly slices strong as).streamOf r = grp.streamOf r := by
  unfold Group.strongly
  split <;> rfl

theorem Group.writeAll_lead (grp : Group) (slices sl : BitVec 8) (lanes : LaneMask) (ws : List (Nat × VReg)) :
    (grp.writeAll slices lanes ws).lead sl = grp.lead sl := by
  unfold Group.lead
  rw [Group.writeAll_slices]

/-- Loaded registers that are no stream ports, delivered. -/
theorem deliver_registers {s : State} {g : GroupId} {grp : Group} (hg : s.group? g = some grp) (slices : BitVec 8) (lanes : LaneMask) (la : Nat)
    {ws : List (Nat × VReg)} (hne : ws ≠ []) (hp : ∀ w ∈ ws, grp.streamOf w.1 = none) :
    deliver s g slices lanes la [] ws = .ok (s.setGroup g (grp.takes slices lanes la ws)) := by
  have hkept : (ws.filter fun e => !([] : List Nat).contains (vIndex (grp.lead slices).loops.length e.1)) = ws := by
    simp
  have hany : (ws.any fun e => (grp.streamOf e.1).isSome) = false := by
    rw [List.any_eq_false]
    intro w hw
    simp [hp w hw]
  simp only [deliver, hg, hkept, hany, Bool.false_eq_true, or_false]
  by_cases hla : la = 0
  · obtain ⟨w, ws, rfl⟩ := List.exists_cons_of_ne_nil hne
    rw [if_pos hla, writeLanes_here hg slices lanes hp, Group.takes, if_pos hla]
  · have hwrite : (ws.map fun e => (vIndex (grp.lead slices).loops.length e.1, e.2)).foldl (fun (x : Group) e => x.writeV e.1 0 e.2) grp =
        grp.writeAll slices 0 ws := List.foldl_map
    rw [if_neg hla, Group.takes, if_neg hla]
    simp only [hwrite, Group.writeAll_lead]

/-- A word that ends by delivering the registers it has loaded, from a state in which it ends as from another. -/
theorem deliver_loadedRegs {s t : State} {g : GroupId} {slices : BitVec 8} {grp : Group} (hi : Issues t g slices grp)
    (hdone : ∀ x, t.doneWith g slices x = s.doneWith g slices x) {active : LaneMask} {la n : Nat} {vd : Fin 64} {got : List (Nat × List Word)}
    (hn : n ≠ 0) (hp : ∀ i < n, grp.streamOf (vd.val + i) = none) :
    (do return (← deliver t g slices active la [] (loadedRegs false active vd n got)).advance : Except Stop State) =
      .ok (s.doneWith g slices (grp.takes slices active la (loadedRegs false active vd n got))) := by
  have hports : ∀ w ∈ loadedRegs false active vd n got, grp.streamOf w.1 = none := by
    intro w hw
    obtain ⟨i, hi', rfl⟩ := List.mem_map.mp hw
    exact hp i (List.mem_range.mp hi')
  have hne : loadedRegs false active vd n got ≠ [] := by simpa [loadedRegs] using hn
  rw [deliver_registers hi.here slices _ _ hne hports, Except.ok_bind', advance_gang hi.cur, hdone, Except.pure_ok]

/-! ### The statement -/

@[simp] theorem Progress.start_done (pc : Addr) (slices : BitVec 8) : (Progress.start pc slices).done = 0 := rfl

@[simp] theorem Progress.start_dropped (pc : Addr) (slices : BitVec 8) : (Progress.start pc slices).dropped = [] := rfl

@[simp] theorem Progress.start_values (pc : Addr) (slices : BitVec 8) (n : Nat) :
    (Progress.start pc slices).values n = (List.range n).map fun _ => Vector.replicate 32 0 := rfl

/-- The one lemma about `laneAtomic` on operands that let it act. -/
theorem laneAtomic_gives {w64 : Bool} {mk : MAtom → Instr} (he : ∀ o s, exec (mk o) s = laneAtomic o s w64) : AtomicGives mk w64 := by
  intro o s s1 s' g slices grp places got hi
  dsimp only
  intro hr hstart hsound hlocate hsup hatoms
  have hn : (if w64 then 8 else 4) ≠ 0 := by split <;> decide
  have hregs : (if w64 then 2 else 1) ≠ 0 := by split <;> decide
  have hprog : grp.progressOf slices = Progress.start (grp.lead slices).pc slices := hstart
  have hread : ∀ op ∈ [srcOp o.va 2, srcOp o.vd (if o.op = .cas then 2 * (if w64 then 2 else 1) else if w64 then 2 else 1)],
      readLanes s g slices op.names = .ok (s, s.inputs? grp slices [op]) := by
    intro op hop
    rw [readLanes_plain hi.here slices fun r h => plain_left hr.plain r (List.mem_flatMap.mpr ⟨op, hop, h⟩)]
    simp [State.inputs?]
  have hxs := hread _ (List.mem_cons_self ..)
  have hds := hread _ (List.mem_cons_of_mem _ (List.mem_cons_self ..))
  have hperm := fun as => atomicOrder_perm s.fresh places as
  have hgotkeys : (got.map Prod.fst).Perm (maskList (grp.acting slices o.g)) := by
    rw [atomAll_keys hatoms]
    refine ((hperm _).map Prod.fst).trans (.of_eq ?_)
    simp [Function.comp_def]
  have hfold := foldl_performAtomic hatoms (fun e h => exists_getBy_of_mem (by
    rw [locateAll_keys hlocate]
    exact List.mem_map_of_mem ((hperm _).mem_iff.mp h))) 0 0 0 ((List.range (if w64 then 2 else 1)).map fun _ => Vector.replicate 32 0) 0 0
  have hleft : ∀ as : List LaneAddr, (as.filter fun e => !maskHas (0 : LaneMask) e.1) = as := fun as =>
    List.filter_eq_self.mpr fun e _ => by rw [maskHas_zero]; rfl
  have hissues := hi.of_actors ((actors_atomAll hatoms).trans (actors_locateAll (fun _ _ _ _ => actors_virtualAt) hlocate))
  have hlt : ∀ e ∈ got, e.1 < 32 := fun e h =>
    List.mem_range.mp (List.mem_of_mem_filter (hgotkeys.mem_iff.mp (List.mem_map_of_mem h)))
  have hempty : got ≠ [] ↔ ((maskList (grp.acting slices o.g)).map fun l => (l, pairAddr (s.inputs? grp slices [srcOp o.va 2]) 0 l)) ≠ [] := by
    have hlen := hgotkeys.length_eq
    simp only [ne_eq, ← List.length_eq_zero_iff, List.length_map] at hlen ⊢
    rw [hlen]
  have hnodup : (got.map Prod.fst).Nodup := hgotkeys.nodup_iff.mpr (List.nodup_range.filter _)
  rw [he]
  refine onGang_ok hi ?_
  simp only [laneChecks_ok hr.plain hr.kept hr.arrived hr.clean, hxs, hds, Except.ok_bind', hprog, Progress.start_done, Progress.start_values,
    Progress.start_dropped, hleft, checkAddrs_ok hn fun e h => (hsound e h).1, checkAlign_ok fun e h => (hsound e h).2,
    foldlM_locateLane hlocate [], List.nil_append, laneTrap_of_none hsup, ne_eq, not_true_eq_false, if_false, hfold, Except.pure_ok]
  obtain ⟨hpinned, hdone⟩ := pinned_issues hissues (acc := ⟨s', _, _, 0, 0, 0, 0⟩) rfl ((done_ne_zero_iff hlt).trans hempty)
  simp only [(pinned_fields _ _ _ _).1, (pinned_fields _ _ _ _).2, not_true_eq_false, if_false, foldl_setLane_eq_loadedRegs hnodup (grp.acting slices o.g)]
  by_cases hnr : o.nr = true
  · rw [if_pos hnr, if_pos hnr, setGroup_self_advance hpinned, hdone]
  · have hports : ∀ k < (if w64 then 2 else 1), grp.streamOf (o.vd.val + k) = none := fun k hk => by
      refine plain_right hr.plain _ ?_
      rw [if_neg hnr]
      exact List.mem_flatMap.mpr ⟨_, List.mem_singleton_self _, List.mem_map.mpr ⟨k, List.mem_range.mpr hk, rfl⟩⟩
    rw [if_neg hnr, if_neg hnr]
    exact deliver_loadedRegs hpinned hdone hregs fun k hk => (Group.strongly_streamOf ..).trans (hports k hk)

theorem laneAtomicResults : LaneAtomicResults := ⟨laneAtomic_gives exec_atom, laneAtomic_gives exec_atom64⟩

/-- Settles O44: the values are the statement's, and each step of the word is the statement's function of it; what is done to the state on the
way leaves the groups alone. -/
theorem laneAtomicWords : Obligations.LaneAtomicWords := ⟨atomicValues, laneAtomicResults⟩

end Sys2Proof.Machine
end

section
/-! PROOFS. What a pass of an MMA leaves in an accumulator, and the sums of EXACT mode (R90, R93, R262). -/

namespace Sys2Proof.Machine

open Sys2Proof

/-! ### The accumulators after a pass -/

/-- A sparse map listed from a function on a stretch of keys reads as the function there. -/
theorem sget_filterMap_range' {n : Nat} (f : Nat → BitVec n) (i start len : Nat) :
    sget (fun _ => 0) i ((List.range' start len).filterMap fun k => if f k = 0 then none else some (k, f k)) =
      if start ≤ i ∧ i < start + len then f i else 0 := by
  induction len generalizing start with
  | zero => rw [if_neg (by omega)]; rfl
  | succ len ih =>
    rw [List.range'_succ, List.filterMap_cons]
    rcases Nat.lt_trichotomy i start with hi | rfl | hi
    · split
      · rw [ih, if_neg (by omega), if_neg (by omega)]
      next heq =>
        have hkey : start = _ := congrArg Prod.fst (Option.some.inj ((if_neg fun h0 => by simp [h0] at heq).symm.trans heq))
        rw [sget, if_pos (hkey ▸ hi), if_neg (by omega)]
    · by_cases h0 : f i = 0
      · simp only [h0, if_true, ih, Nat.succ_le_iff, Nat.lt_irrefl, false_and, ite_self]
      · simp only [h0, if_false, sget, Nat.lt_irrefl, if_true]
        rw [if_pos (by omega)]
    · by_cases h0 : f start = 0
      · simp only [h0, if_true, ih]
        exact if_congr (by omega) rfl rfl
      · simp only [h0, if_false, sget, if_neg (Nat.not_lt.mpr hi.le), if_neg hi.ne', ih]
        exact if_congr (by omega) rfl rfl

theorem filterMap_map_range {n : Nat} (f : Nat → BitVec n × BitVec 7) (len : Nat) :
    (((List.range len).map fun i => (i, f i)).filterMap fun e => if e.2.1 = 0 then none else some (e.1, e.2.1)) =
      (List.range' 0 len).filterMap fun k => if (f k).1 = 0 then none else some (k, (f k).1) := by
  rw [List.filterMap_map, ← List.range_eq_range']
  rfl

theorem mmaPass_get (acc : Acc) (float cx : Bool) (a b : Tile) (m n : Fin 64) :
    (mmaPass acc float cx a b).1.get (64 * m.val + n.val) = (mmaCell float cx a b m n (acc.get (64 * m.val + n.val))).1 := by
  rw [mmaPass, Acc.get, filterMap_map_range, sget_filterMap_range', if_pos (by omega), show (64 * m.val + n.val) / 64 = m.val by omega,
    show (64 * m.val + n.val) % 64 = n.val by omega]

/-! ### The terms of an accumulator -/

theorem length_getD_of_forall {α : Type} {rows : List (List α)} {w i : Nat} (h : ∀ r ∈ rows, r.length = w) (hi : i < rows.length) :
    (rows.getD i []).length = w := by
  rw [List.getD_eq_getElem _ _ hi]
  exact h _ (List.getElem_mem hi)

theorem pairTerms_real {α : Type} (zero : α) (im : Bool) {a b : List α} {n : Nat} (ha : a.length = n) (hb : b.length = n) :
    pairTerms zero false im a b = (List.range n).map fun k => (a.getD k zero, b.getD k zero, false) := by
  apply List.ext_getElem
  · simp [pairTerms, ha, hb]
  · intro k h1 h2
    have hk : k < n := by simpa using h2
    simp [pairTerms, ha, hb, hk]

/-- The terms of a complex accumulator: of its real part or of its imaginary part. -/
theorem pairTerms_complex {α : Type} (zero : α) (j : Nat) (a b : List α) :
    pairTerms zero true (j % 2 == 1) a b = (List.range (a.length / 2)).flatMap fun c =>
      if j % 2 = 0 then [(a.getD (2 * c) zero, b.getD (2 * c) zero, false), (a.getD (2 * c + 1) zero, b.getD (2 * c + 1) zero, true)]
      else [(a.getD (2 * c) zero, b.getD (2 * c + 1) zero, false), (a.getD (2 * c + 1) zero, b.getD (2 * c) zero, false)] := by
  rcases Nat.mod_two_eq_zero_or_one j with h | h <;> simp [pairTerms, h]

theorem sum_map_flatMap {α β M : Type} [AddCommMonoid M] (l : List α) (f : α → List β) (g : β → M) :
    ((l.flatMap f).map g).sum = (l.map fun x => ((f x).map g).sum).sum := by
  induction l with
  | nil => rfl
  | cons x l ih => rw [List.flatMap_cons, List.map_append, List.sum_append, List.map_cons, List.sum_cons, ih]

/-! ### EXACT mode -/

/-- The contribution of a term of two integers. -/
def exactTerm (t : Int × Int × Bool) : Int := if t.2.2 then -(t.1 * t.2.1) else t.1 * t.2.1

theorem mmaCell_exact (cx : Bool) (a b : Tile) (m n : Nat) (acc : BitVec 96) :
    mmaCell false cx a b m n acc = (acc + BitVec.ofInt 96
      ((pairTerms 0 cx (n % 2 == 1) (a.ints.getD m []) (b.ints.getD (if cx then n / 2 else n) [])).map exactTerm).sum, 0) := rfl

theorem foldl_flags_zero {α : Type} (f : α → BitVec 7) (l : List α) (h : ∀ e, f e = 0) : l.foldl (fun fl e => fl ||| f e) 0 = 0 := by
  induction l with
  | nil => rfl
  | cons e l ih => rw [List.foldl_cons, h, show (0 ||| 0 : BitVec 7) = 0 from rfl, ih]

theorem mmaPass_exact_flags (acc : Acc) (cx : Bool) (a b : Tile) : (mmaPass acc false cx a b).2 = 0 := by
  rw [mmaPass]
  dsimp only
  rw [List.foldl_map]
  exact foldl_flags_zero _ _ fun i => congrArg Prod.snd (mmaCell_exact ..)

theorem exactPassAdds : ExactPassAdds := by
  intro acc a b m n hrows ha hb
  dsimp only
  have hrow : (a.ints.getD m.val []).length = 64 :=
    length_getD_of_forall (fun r h => hrows r (List.mem_append_left _ h)) (by rw [ha]; exact m.isLt)
  have hcol : ∀ j < 64, (b.ints.getD j []).length = 64 := fun j hj =>
    length_getD_of_forall (fun r h => hrows r (List.mem_append_right _ h)) (by rw [hb]; exact hj)
  refine ⟨?_, ?_, rfl, mmaPass_exact_flags ..⟩
  · rw [mmaPass_get, mmaCell_exact, if_neg Bool.false_ne_true, pairTerms_real 0 _ hrow (hcol _ n.isLt), List.map_map]
    rfl
  · rw [mmaPass_get, mmaCell_exact, if_pos rfl, pairTerms_complex, hrow, sum_map_flatMap]
    refine congrArg (fun f => acc.get _ + BitVec.ofInt 96 ((List.range 32).map f).sum) (funext fun c => ?_)
    split <;> simp [exactTerm, sub_eq_add_neg]

end Sys2Proof.Machine
end

section
/-! PROOFS. A block step of FLOAT mode, and the two steps of a pass of an MMA (R91 to R93, R262). -/

namespace Sys2Proof.Machine

open Sys2Proof

/-! ### Products of finite values -/

/-- A finite value. -/
def FVal.finite (v : FVal) : Prop := ∃ n m e, v = .fin n m e

/-- A term of two finite values. -/
def Term.finite (t : Term) : Prop := t.1.finite ∧ t.2.1.finite

/-- What a term adds to a block's sum. -/
def Term.rat (t : Term) : ℚ := (if t.2.2 then -1 else 1) * ratOf t.1 * ratOf t.2.1

theorem ratOf_fin_xor (n k : Bool) (m : Nat) (e : Int) : ratOf (.fin (n != k) m e) = (if k then -1 else 1) * ratOf (.fin n m e) := by
  cases n <;> cases k <;> simp [ratOf]

theorem ratOf_fin_mul (na nb : Bool) (ma mb : Nat) (ea eb : Int) :
    ratOf (.fin (na != nb) (ma * mb) (ea + eb)) = ratOf (.fin na ma ea) * ratOf (.fin nb mb eb) := by
  rw [ratOf_fin_xor]
  simp only [ratOf, Nat.cast_mul, zpow_add₀ (two_ne_zero (α := ℚ))]
  ring

/-- A product of finite values is finite: the number and the sign that it should be. -/
theorem Term.product_of_finite {t : Term} (h : t.finite) :
    t.product.finite ∧ ratOf t.product = t.rat ∧ t.product.negative = ((t.1.negative != t.2.1.negative) != t.2.2) := by
  obtain ⟨x, y, neg⟩ := t
  obtain ⟨⟨na, ma, ea, rfl⟩, nb, mb, eb, rfl⟩ := h
  refine ⟨⟨_, _, _, rfl⟩, ?_, rfl⟩
  rw [Term.product, ratOf_fin_xor, ratOf_fin_mul, Term.rat, mul_assoc]

theorem FVal.finite.not_nan {v : FVal} (h : v.finite) : v.isNan = false := by
  obtain ⟨n, m, e, rfl⟩ := h
  rfl

theorem FVal.finite.not_inf {v : FVal} (h : v.finite) (neg : Bool) : v.infOf neg = false := by
  obtain ⟨n, m, e, rfl⟩ := h
  rfl

/-! ### A block step -/

/-- The exact sum of a block's products, scaled (R91). -/
def blockSum (terms : List Term) (xa xb : Nat) : Dy :=
  let sum := (terms.map Term.product).foldl (fun (x : Dy) p => x.add p.dy) ⟨0, 0⟩
  ⟨sum.m, sum.e + ((xa : Int) - 127) + ((xb : Int) - 127)⟩

theorem foldl_add_rat (l : List FVal) (d : Dy) : (l.foldl (fun (x : Dy) p => x.add p.dy) d).rat = d.rat + (l.map ratOf).sum := by
  induction l generalizing d with
  | nil => simp
  | cons p l ih => rw [List.foldl_cons, ih, Dy.add_rat, FVal.dy_rat, List.map_cons, List.sum_cons, add_assoc]

theorem blockSum_rat {terms : List Term} (h : ∀ t ∈ terms, t.finite) (xa xb : Nat) :
    (blockSum terms xa xb).rat = (terms.map Term.rat).sum * 2 ^ ((xa : Int) + xb - 254) := by
  have hsum : (terms.map Term.rat).sum = ((terms.map Term.product).foldl (fun (x : Dy) p => x.add p.dy) ⟨0, 0⟩).rat := by
    rw [foldl_add_rat, List.map_map, Dy.rat, Int.cast_zero, zero_mul, zero_add]
    exact congrArg List.sum (List.map_congr_left fun t ht => (Term.product_of_finite (h t ht)).2.1.symm)
  rw [hsum, Dy.rat, Dy.rat, mul_assoc, ← zpow_add₀ two_ne_zero, blockSum]
  congr 2
  ring

theorem any_eq_false_of_forall {α : Type} {l : List α} {p : α → Bool} (h : ∀ x ∈ l, p x = false) : l.any p = false :=
  List.any_eq_false.mpr fun x hx => Bool.not_eq_true _ ▸ h x hx

/-- A block step over finite values: the accumulator when nothing is added to it, or the sum rounded (R91). -/
theorem blockStep_of_finite {acc : Nat} {terms : List Term} {xa xb : Nat} (hterms : ∀ t ∈ terms, t.finite)
    (hacc : (Fmt.f32.value acc).finite) (hxa : xa ≠ 0xFF) (hxb : xb ≠ 0xFF) :
    blockStep acc terms xa xb =
      if (blockSum terms xa xb).m = 0 ∧ (Fmt.f32.value acc).dy.m ≠ 0 then (acc, 0)
      else Fmt.f32.roundDy .rne false ((blockSum terms xa xb).add (Fmt.f32.value acc).dy)
        ((blockSum terms xa xb).m == 0 && (Fmt.f32.value acc).dy.m == 0 && (terms.map Term.product).all FVal.negative &&
          (Fmt.f32.value acc).negative) := by
  have hnan : (terms.any fun t => t.1.isNan || t.2.1.isNan) = false :=
    any_eq_false_of_forall fun t ht => by rw [(hterms t ht).1.not_nan, (hterms t ht).2.not_nan]; rfl
  have hzero : (terms.any fun t => !t.1.isNan && !t.2.1.isNan && t.product.isNan) = false :=
    any_eq_false_of_forall fun t ht => by rw [(Term.product_of_finite (hterms t ht)).1.not_nan, Bool.and_false]
  have hinf : ∀ neg, ((terms.map Term.product).any fun p => p.infOf neg) = false := fun neg =>
    any_eq_false_of_forall fun p hp => by
      obtain ⟨t, ht, rfl⟩ := List.mem_map.mp hp
      exact (Term.product_of_finite (hterms t ht)).1.not_inf neg
  simp only [blockStep, hnan, hzero, hinf, hacc.not_nan, hacc.not_inf, beq_false_of_ne hxa, beq_false_of_ne hxb, Bool.or_false,
    Bool.and_false, Bool.false_and, Bool.false_eq_true, if_false, ite_self]
  rfl

/-- A NaN that comes in, or a scale of 0xFF, gives the default NaN (R91). -/
theorem blockStep_of_nan {acc : Nat} {terms : List Term} {xa xb : Nat}
    (h : ((terms.any fun t => t.1.isNan || t.2.1.isNan) || (Fmt.f32.value acc).isNan || xa == 0xFF || xb == 0xFF) = true) :
    (blockStep acc terms xa xb).1 = Fmt.f32.nan := by
  rw [blockStep]
  dsimp only
  rw [if_pos h, apply_ite Prod.fst, ite_self]

/-- The only binary32 data that are zeros are those of the two signs. -/
theorem f32_negative_of_zero {x : Nat} (hx : x < 2 ^ 32) (hfin : (Fmt.f32.value x).finite) (h0 : ratOf (Fmt.f32.value x) = 0) :
    (Fmt.f32.value x).negative = decide (x = 2 ^ 31) := by
  obtain ⟨n, m, e, hv⟩ := hfin
  have hm : m = 0 := ratOf_eq_zero_iff.mp (hv ▸ h0)
  have hsign : Fmt.f32.sign = 2 ^ 31 := rfl
  have hmbits : Fmt.f32.mbits = 23 := rfl
  rw [hv]
  simp only [Fmt.value, hsign, hmbits] at hv
  split at hv
  · split at hv <;> cases hv
  · split at hv
    · obtain ⟨rfl, hmant, -⟩ := FVal.fin.inj hv
      exact decide_eq_decide.mpr (by omega)
    · obtain ⟨-, hmant, -⟩ := FVal.fin.inj hv
      omega

theorem blockStep_adds (acc : Nat) (terms : List Term) (xa xb : Nat) : BlockStepAdds acc terms xa xb (blockStep acc terms xa xb).1 := by
  refine ⟨fun hterms hacc hxa hxb hlt => ?_, fun h => ?_⟩
  · have hold : (Fmt.f32.value acc).dy.m = 0 ↔ ratOf (Fmt.f32.value acc) = 0 := by rw [← Dy.rat_eq_zero, FVal.dy_rat]
    have hrat := blockSum_rat hterms xa xb
    have hs : (blockSum terms xa xb).m = 0 ↔ (terms.map Term.rat).sum * 2 ^ ((xa : Int) + xb - 254) = 0 := by
      rw [← hrat, Dy.rat_eq_zero]
    have hsum : ((blockSum terms xa xb).add (Fmt.f32.value acc).dy).rat = ratOf (Fmt.f32.value acc) +
        (terms.map Term.rat).sum * 2 ^ ((xa : Int) + xb - 254) := by
      rw [Dy.add_rat, hrat, FVal.dy_rat, add_comm]
    rw [blockStep_of_finite hterms hacc hxa hxb]
    refine ⟨fun h0 hne => ?_, fun hne hsne => ⟨_, hsum, ?_⟩, fun hne hs0 => ?_, fun h0 hold0 => ?_⟩
    · rw [if_pos ⟨hs.mpr h0, mt hold.mp hne⟩]
    · rw [if_neg fun h => hne (hs.mp h.1), roundDy_of_ne_zero _ _ _ fun h0 => hsne (hsum.symm.trans (Dy.rat_eq_zero.mpr h0))]
    · rw [if_neg fun h => hne (hs.mp h.1), roundDy_of_zero _ _ _ (Dy.rat_eq_zero.mp (hsum.trans hs0)),
        beq_false_of_ne (mt hs.mp hne)]
      rfl
    · rw [if_neg fun h => h.2 (hold.mpr hold0), roundDy_of_zero _ _ _ (Dy.rat_eq_zero.mp (hsum.trans ((congrArg₂ _ hold0 h0).trans (add_zero 0)))),
        hs.mpr h0, hold.mpr hold0, f32_negative_of_zero hlt hacc hold0]
      have hneg : (terms.map Term.product).all FVal.negative = true ↔
          ∀ t ∈ terms, ((t.1.negative != t.2.1.negative) != t.2.2) = true := by
        rw [List.all_map, List.all_eq_true]
        exact forall₂_congr fun t ht => by rw [Function.comp_apply, (Term.product_of_finite (hterms t ht)).2.2]
      simp only [Fmt.zero, Bool.and_eq_true, beq_self_eq_true, true_and, hneg, decide_eq_true_eq, and_comm (b := acc = 2 ^ 31)]
      rfl
  · rw [blockStep_of_nan]
    · rfl
    rcases h with ⟨t, ht, q, hq⟩ | ⟨q, hq⟩ | hx | hx
    · have hany : (terms.any fun t => t.1.isNan || t.2.1.isNan) = true :=
        List.any_eq_true.mpr ⟨t, ht, by rcases hq with hq | hq <;> rw [hq] <;> simp [FVal.isNan]⟩
      rw [hany]
      rfl
    · rw [hq]
      simp [FVal.isNan]
    · simp [hx]
    · simp [hx]

/-! ### The two block steps of a pass -/

/-- A block of 32 elements of a row. -/
def block32 {α : Type} (row : List α) (blk : Nat) : List α := (row.drop (32 * blk)).take 32

theorem getD_block32 {α : Type} (row : List α) (blk : Nat) {k : Nat} (hk : k < 32) (d : α) :
    (block32 row blk).getD k d = row.getD (32 * blk + k) d := by
  simp only [block32, List.getD_eq_getElem?_getD, List.getElem?_take_of_lt hk, List.getElem?_drop]

theorem length_block32 {α : Type} {row : List α} {n blk : Nat} (h : row.length = 32 * n) (hblk : blk < n) :
    (block32 row blk).length = 32 := by
  rw [block32, List.length_take, List.length_drop, h]
  omega

/-- The terms that a block of a pass gives an accumulator. -/
def blockTerms (cx : Bool) (a b : Tile) (m n blk : Nat) : List Term :=
  pairTerms (.fin false 0 0) cx (n % 2 == 1) (block32 (a.vals.getD m []) blk) (block32 (b.vals.getD (if cx then n / 2 else n) []) blk)

theorem mmaCell_float (cx : Bool) (a b : Tile) (m n : Nat) (acc : BitVec 96) :
    (mmaCell true cx a b m n acc).1 = BitVec.ofNat 96
      (blockStep
        (blockStep acc.toNat (blockTerms cx a b m n 0) (a.scales.getD (2 * m + 0) 127) (b.scales.getD (2 * (if cx then n / 2 else n) + 0) 127)).1
        (blockTerms cx a b m n 1) (a.scales.getD (2 * m + 1) 127) (b.scales.getD (2 * (if cx then n / 2 else n) + 1) 127)).1 := rfl

theorem blockTerms_real {a b : Tile} {m n blk : Nat} (ha : (a.vals.getD m []).length = 64) (hb : (b.vals.getD n []).length = 64)
    (hblk : blk < 2) : blockTerms false a b m n blk = (List.range 32).map fun c =>
      ((a.vals.getD m []).getD (32 * blk + c) (.fin false 0 0), (b.vals.getD n []).getD (32 * blk + c) (.fin false 0 0), false) := by
  rw [blockTerms, if_neg Bool.false_ne_true, pairTerms_real _ _ (length_block32 ha hblk) (length_block32 hb hblk)]
  refine List.map_congr_left fun c hc => ?_
  rw [getD_block32 _ _ (List.mem_range.mp hc), getD_block32 _ _ (List.mem_range.mp hc)]

theorem blockTerms_complex {a b : Tile} {m n blk : Nat} (ha : (a.vals.getD m []).length = 64) (hblk : blk < 2) :
    blockTerms true a b m n blk = (List.range 16).flatMap fun c =>
      let x := fun k => (a.vals.getD m []).getD k (.fin false 0 0)
      let y := fun k => (b.vals.getD (n / 2) []).getD k (.fin false 0 0)
      let k := 32 * blk + 2 * c
      if n % 2 = 0 then [(x k, y k, false), (x (k + 1), y (k + 1), true)] else [(x k, y (k + 1), false), (x (k + 1), y k, false)] := by
  rw [blockTerms, if_pos rfl, pairTerms_complex, length_block32 ha hblk]
  refine List.flatMap_congr fun c hc => ?_
  have hlow : 2 * c < 32 := by have := List.mem_range.mp hc; omega
  have hhigh : 2 * c + 1 < 32 := by omega
  simp only [getD_block32 _ _ hlow, getD_block32 _ _ hhigh, Nat.add_assoc]

theorem floatPassAdds : FloatPassAdds := by
  intro acc cx a b m n hrows ha hb
  dsimp only
  have hrow : (a.vals.getD m.val []).length = 64 :=
    length_getD_of_forall (fun r h => hrows r (List.mem_append_left _ h)) (by rw [ha]; exact m.isLt)
  cases cx
  case false =>
    have hcol := length_getD_of_forall (fun r h => hrows r (List.mem_append_right _ h)) (by rw [hb]; exact n.isLt)
    refine ⟨rfl, _, _, blockStep_adds .., blockStep_adds .., (mmaPass_get ..).trans ((mmaCell_float ..).trans ?_)⟩
    rw [blockTerms_real hrow hcol Nat.zero_lt_two, blockTerms_real hrow hcol Nat.one_lt_two]
    rfl
  case true =>
    refine ⟨rfl, _, _, blockStep_adds .., blockStep_adds .., (mmaPass_get ..).trans ((mmaCell_float ..).trans ?_)⟩
    rw [blockTerms_complex hrow Nat.zero_lt_two, blockTerms_complex hrow Nat.one_lt_two]
    rfl

end Sys2Proof.Machine
end

section
/-! PROOFS. What the passes of an MLT add to the columns (R90, R264). -/

namespace Sys2Proof.Machine

open Sys2Proof

/-! ### Sums over stretches of numbers -/

theorem sum_map_range {M : Type} [AddCommMonoid M] (n : Nat) (f : Nat → M) : ((List.range n).map f).sum = ∑ i ∈ Finset.range n, f i := rfl

theorem sum_range_mul (n m : Nat) (f : Nat → Nat) :
    ∑ k ∈ Finset.range (n * m), f k = ∑ i ∈ Finset.range m, ∑ j ∈ Finset.range n, f (n * i + j) := by
  induction m with
  | zero => rfl
  | succ m ih => rw [Nat.mul_succ, Finset.sum_range_add, ih, Finset.sum_range_succ]

/-- A sum over the cells of a table, row by row. -/
theorem sum_range_div_mod (n m : Nat) (f : Nat → Nat → Nat) :
    ∑ k ∈ Finset.range (m * n), f (k / n) (k % n) = ∑ i ∈ Finset.range m, ∑ j ∈ Finset.range n, f i j := by
  rw [mul_comm, sum_range_mul]
  refine Finset.sum_congr rfl fun i _ => Finset.sum_congr rfl fun j hj => ?_
  have hlt : j < n := Finset.mem_range.mp hj
  rw [Nat.mul_add_div (by omega), Nat.div_eq_of_lt hlt, Nat.mul_add_mod, Nat.mod_eq_of_lt hlt, Nat.add_zero]

/-- The one term of a sum whose index is what a column lies above a base. -/
theorem sum_range_ite_eq_add (n c d : Nat) (f : Nat → Nat) :
    (∑ k ∈ Finset.range n, if c = d + k then f k else 0) = if d ≤ c ∧ c - d < n then f (c - d) else 0 := by
  by_cases h : d ≤ c
  · rw [Finset.sum_congr rfl fun k _ => if_congr (show c = d + k ↔ k = c - d by omega) rfl rfl, Finset.sum_ite_eq']
    simp only [Finset.mem_range, h, true_and]
  · rw [if_neg fun h' => h h'.1]
    exact Finset.sum_eq_zero fun k _ => if_neg (by omega)

theorem sum_map_zipIdx (l : List Nat) (f : Nat × Nat → Nat) :
    (l.zipIdx.map f).sum = ∑ x ∈ Finset.range l.length, f (l.getD x 0, x) := by
  rw [← sum_map_range]
  congr 1
  apply List.ext_getElem
  · simp
  · intro k h1 h2
    have hk : k < l.length := by simpa using h2
    simp [hk]

/-! ### Operations that add to the columns -/

/-- An operation on a slot in canonical form that adds a number to each column. -/
def Adds (f : Acc → Acc) (g : Nat → Nat) : Prop :=
  ∀ acc : Acc, sortedAbove (fun _ => 0) 0 acc.cells = true →
    sortedAbove (fun _ => 0) 0 (f acc).cells = true ∧ ∀ c, (f acc).get c = acc.get c + BitVec.ofNat 96 (g c)

theorem Adds.congr {f : Acc → Acc} {g g' : Nat → Nat} (h : Adds f g) (hg : ∀ c, g c = g' c) : Adds f g' :=
  funext hg ▸ h

theorem adds_put (i v : Nat) : Adds (fun acc => acc.put i (acc.get i + BitVec.ofNat 96 v)) fun c => if c = i then v else 0 := by
  intro acc h
  refine ⟨sortedAbove_sput _ (Nat.zero_le i) _ h, fun c => ?_⟩
  dsimp only
  by_cases hc : c = i
  · rw [hc, if_pos rfl]
    exact sget_sput_self _ _ h
  · rw [if_neg hc, BitVec.add_zero]
    exact sget_sput_ne _ hc _ h

theorem adds_foldl {α : Type} {F : Acc → α → Acc} {g : α → Nat → Nat} (l : List α) (h : ∀ x ∈ l, Adds (fun acc => F acc x) (g x)) :
    Adds (fun acc => l.foldl F acc) fun c => (l.map fun x => g x c).sum := by
  induction l with
  | nil => exact fun acc hs => ⟨hs, fun c => (BitVec.add_zero _).symm⟩
  | cons x l ih =>
    intro acc hs
    obtain ⟨hs1, hget1⟩ := h x (List.mem_cons_self ..) acc hs
    obtain ⟨hs2, hget2⟩ := ih (fun y hy => h y (List.mem_cons_of_mem _ hy)) (F acc x) hs1
    refine ⟨hs2, fun c => ?_⟩
    dsimp only at hget1 hget2 ⊢
    rw [List.foldl_cons, hget2 c, hget1 c, List.map_cons, List.sum_cons, BitVec.ofNat_add, BitVec.add_assoc]

/-! ### One block pair -/

/-- What two limbs of two operands add to a column, the lowest limbs in column `cb` (R264). -/
def limbProduct (a b : List Nat) (cb c x y : Nat) : Nat := if c = cb + x + y then a.getD x 0 * b.getD y 0 else 0

/-- The products of the limbs of two blocks that meet in a column, the lowest limbs in column `cb`. -/
def blockProducts (a b : List Nat) (cb c : Nat) : Nat :=
  ∑ x ∈ Finset.range 32, ∑ y ∈ Finset.range 32, limbProduct a b cb c x y

theorem adds_blockPair {a b : List Nat} (ha : a.length = 32) (hb : b.length = 32) (cb : Nat) :
    Adds (fun acc => blockPair acc cb a b) (blockProducts a b cb) := by
  refine (adds_foldl _ fun k _ => adds_put (cb + k) _).congr fun c => ?_
  simp only [sum_map_range, sum_map_zipIdx, ha, sum_range_ite_eq_add, blockProducts, limbProduct]
  split
  case isTrue h =>
    refine Finset.sum_congr rfl fun x _ => ?_
    rw [Nat.sub_sub]
    by_cases hlow : c - (cb + x) < 32
    · exact if_congr (by omega) rfl rfl
    · rw [List.getD_eq_default b _ (by omega), Nat.mul_zero, ite_self, ite_self]
  case isFalse h =>
    refine (Finset.sum_eq_zero fun x hx => ?_).symm
    have hlt : x < 32 := Finset.mem_range.mp hx
    rw [if_neg (by omega)]

/-! ### The passes -/

/-- What the block pair `p` of an MLT adds to a column: pairs go by A's blocks, and by B's for each (R264). -/
def pairProducts (a b : List Nat) (tb cb p c : Nat) : Nat :=
  blockProducts (block32 a (p / tb)) (block32 b (p % tb)) (cb + 32 * (p / tb + p % tb)) c

/-- The block pairs of a pass. -/
def passPairs (pairs pass : Nat) : List Nat := ((List.range pairs).drop (256 * pass)).take 256

theorem adds_mltPass {a b : List Nat} {ta tb : Nat} (ha : a.length = 32 * ta) (hb : b.length = 32 * tb) (cb pass : Nat) :
    Adds (fun acc => mltPass acc cb pass a b) fun c => ((passPairs (ta * tb) pass).map fun p => pairProducts a b tb cb p c).sum := by
  have hta : a.length / 32 = ta := by omega
  have htb : b.length / 32 = tb := by omega
  have hpairs : ∀ p ∈ passPairs (ta * tb) pass, Adds (fun acc =>
      blockPair acc (cb + 32 * (p / tb + p % tb)) (block32 a (p / tb)) (block32 b (p % tb))) (pairProducts a b tb cb p) := by
    intro p hp
    have hlt : p < ta * tb := List.mem_range.mp (List.mem_of_mem_drop (List.mem_of_mem_take hp))
    refine adds_blockPair (length_block32 ha ?_) (length_block32 hb ?_) _
    · exact Nat.div_lt_of_lt_mul (Nat.mul_comm ta tb ▸ hlt)
    · exact Nat.mod_lt _ (Nat.pos_of_mul_pos_left (Nat.zero_lt_of_lt hlt))
  intro acc hs
  simp only [mltPass, hta, htb]
  exact adds_foldl _ hpairs acc hs

theorem passPairs_flatten (pairs passes : Nat) : (List.range passes).flatMap (passPairs pairs) = (List.range pairs).take (256 * passes) := by
  induction passes with
  | zero => rfl
  | succ n ih => rw [List.range_succ, List.flatMap_append, ih, Nat.mul_succ, List.take_add, List.flatMap_singleton, passPairs]

/-- The pairs of blocks add what all pairs of limbs add. -/
theorem sum_pairProducts (a b : List Nat) (ta tb cb c : Nat) :
    ∑ p ∈ Finset.range (ta * tb), pairProducts a b tb cb p c = ∑ x ∈ Finset.range (32 * ta), ∑ y ∈ Finset.range (32 * tb),
      limbProduct a b cb c x y := by
  calc
    _ = ∑ i ∈ Finset.range ta, ∑ j ∈ Finset.range tb, blockProducts (block32 a i) (block32 b j) (cb + 32 * (i + j)) c :=
      sum_range_div_mod tb ta fun i j => blockProducts (block32 a i) (block32 b j) (cb + 32 * (i + j)) c
    _ = ∑ i ∈ Finset.range ta, ∑ x ∈ Finset.range 32, ∑ j ∈ Finset.range tb, ∑ y ∈ Finset.range 32,
        limbProduct a b cb c (32 * i + x) (32 * j + y) := by
      refine Finset.sum_congr rfl fun i _ => Finset.sum_comm.trans ?_
      refine Finset.sum_congr rfl fun x hx => Finset.sum_congr rfl fun j _ => Finset.sum_congr rfl fun y hy => ?_
      rw [limbProduct, limbProduct, getD_block32 _ _ (Finset.mem_range.mp hx), getD_block32 _ _ (Finset.mem_range.mp hy)]
      exact if_congr (by omega) rfl rfl
    _ = ∑ i ∈ Finset.range ta, ∑ x ∈ Finset.range 32, ∑ y ∈ Finset.range (32 * tb),
        limbProduct a b cb c (32 * i + x) y :=
      Finset.sum_congr rfl fun i _ => Finset.sum_congr rfl fun x _ => (sum_range_mul 32 tb _).symm
    _ = _ := (sum_range_mul 32 ta fun x => ∑ y ∈ Finset.range (32 * tb), limbProduct a b cb c x y).symm

theorem limbPassesAdd : LimbPassesAdd := by
  intro acc cb ta tb a b c ha hb hs
  have hpasses : (List.range ((ta * tb + 255) / 256)).flatMap (passPairs (ta * tb)) = List.range (ta * tb) := by
    rw [passPairs_flatten, List.take_of_length_le]
    rw [List.length_range]
    omega
  have hadds := adds_foldl (List.range ((ta * tb + 255) / 256)) fun k _ => adds_mltPass ha hb cb k
  obtain ⟨hsorted, hget⟩ := hadds acc hs
  refine ⟨(hget c).trans (congrArg (acc.get c + BitVec.ofNat 96 ·) ?_), hsorted⟩
  calc
    _ = (((List.range ((ta * tb + 255) / 256)).flatMap (passPairs (ta * tb))).map fun p => pairProducts a b tb cb p c).sum :=
      (sum_map_flatMap ..).symm
    _ = ∑ p ∈ Finset.range (ta * tb), pairProducts a b tb cb p c := by rw [hpasses, sum_map_range]
    _ = _ := sum_pairProducts a b ta tb cb c

/-- Settles O14: a pass computes each accumulator by itself; a block step is its exact sum rounded once, and the block pairs of all the
passes of an MLT are the pairs of all blocks, each adding the products of its limbs to the columns that they meet in. -/
theorem passAddsProducts : Obligations.PassAddsProducts :=
  ⟨exactPassAdds, floatPassAdds, limbPassesAdd⟩

end Sys2Proof.Machine
end

section
/-! PROOFS. The reset values that the spec gives (R119, R362, R399, R402, R426, R433, R437). -/

namespace Sys2Proof.Machine

open Sys2Proof

/-- At reset every link has half of its bundles each way (R119). -/
theorem links_reset (i : Fin 12) : 2 * State.reset.pack.links[i] = bundlesOf i := by
  revert i
  decide

/-- At reset AGEUS of a device is 50, none of its LPIN pins a link, and no profile of it is enabled (R362, R399, R402). -/
theorem device_reset (ld : Fin 4) : State.reset.devices[ld].ageUs = 50 ∧
    ∀ k : Fin 4, State.reset.devices[ld].lpin[k] = 0 ∧ State.reset.devices[ld].profiles[k].en = false := by
  revert ld
  decide

/-- Settles O27: the state at reset is a value, and its fields are read off. -/
theorem resetState : Obligations.ResetState :=
  ⟨rfl, rfl, rfl, rfl, rfl, rfl, device_reset, rfl, rfl, rfl, rfl, links_reset⟩

end Sys2Proof.Machine
end

section
/-! PROOFS. The lane loads and stores (R101, R103, R105, R121, R126, R127, R222 to R229): each lane's access, and the end of the word. -/

namespace Sys2Proof.Machine

open Sys2Proof

/-! ### The lanes that access -/

theorem sizeBytes_ne_zero (z : Size) : sizeBytes z ≠ 0 := by cases z <;> decide

theorem sizeRegs_ne_zero (z : Size) : sizeRegs z ≠ 0 := by cases z <;> decide

theorem maskList_lt {n i : Nat} {m : BitVec n} (h : i ∈ maskList m) : i < n := List.mem_range.mp (List.mem_of_mem_filter h)

/-- The lanes of a mask ascend. -/
theorem maskList_pairwise {n : Nat} (m : BitVec n) : (maskList m).Pairwise (· < ·) := List.pairwise_lt_range.filter _

theorem accessLanes_pairwise (u : Bool) (active : LaneMask) : (accessLanes u active).Pairwise (· < ·) := by
  unfold accessLanes
  split
  · split
    · exact .nil
    · exact List.pairwise_singleton ..
  · exact maskList_pairwise active

theorem accessLanes_lt {u : Bool} {active : LaneMask} {l : Nat} (h : l ∈ accessLanes u active) : l < 32 := by
  unfold accessLanes at h
  split at h
  · split at h
    · cases h
    · exact List.mem_singleton.mp h ▸ (lowLane active).isLt
  · exact maskList_lt h

/-- The mask of lanes done after one more access. -/
theorem maskHas_or_laneSet {m : LaneMask} {l i : Nat} (hm : maskHas m i = false) (h : i ≠ l) : maskHas (m ||| laneSet [l]) i = false := by
  have hbit := foldl_or_laneSet [(l, 0)] m i
  rw [List.foldl_cons, List.foldl_nil, hm] at hbit
  simp [hbit, h]

/-! ### The accesses performed -/

theorem actors_loadAll {locate : Locate} {look : Look} {z : Size} (hl : ∀ s a t ps, locate s a = .ok (t, ps) → t.actors = s.actors)
    {as : List LaneAddr} {s t : State} {got : List (Nat × List Word)} (h : loadAll locate look z s as = some (t, got)) :
    t.actors = s.actors := by
  induction as generalizing s got with
  | nil =>
    cases h
    rfl
  | cons e as ih =>
    simp only [loadAll] at h
    split at h
    next s1 ps h1 =>
      split at h
      · obtain ⟨⟨t1, rest⟩, h2, heq⟩ := Option.map_eq_some_iff.mp h
        cases heq
        exact (ih h2).trans (hl _ _ _ _ h1)
      · cases h
    next => cases h

theorem loadAll_keys {locate : Locate} {look : Look} {z : Size} {as : List LaneAddr} {s t : State} {got : List (Nat × List Word)}
    (h : loadAll locate look z s as = some (t, got)) : got.map Prod.fst = as.map Prod.fst := by
  induction as generalizing s got with
  | nil =>
    cases h
    rfl
  | cons e as ih =>
    simp only [loadAll] at h
    split at h
    next s1 ps h1 =>
      split at h
      · obtain ⟨⟨t1, rest⟩, h2, heq⟩ := Option.map_eq_some_iff.mp h
        cases heq
        simp only [List.map_cons, ih h2]
      · cases h
    next => cases h

/-- Loads one after another mark their lanes done and enter their words, and change the state as the statement's function does; none is
refused or reads poison. -/
theorem foldlM_serveLoad {locate : Locate} {look : Look} {z : Size} {as : List LaneAddr} {s t : State} {got : List (Nat × List Word)}
    (h : loadAll locate look z s as = some (t, got)) (hasc : as.Pairwise fun a b => a.1 < b.1) {done : LaneMask}
    (hdone : ∀ e ∈ as, maskHas done e.1 = false) (vals : List VReg) :
    as.foldlM (fun acc e => serveLoad locate look z acc e) ⟨s, done, vals, 0, 0, 0, 0⟩ =
      .ok ⟨t, as.foldl (fun m e => m ||| laneSet [e.1]) done, got.foldl (fun vs e => setLane vs e.1 e.2) vals, 0, 0, 0, 0⟩ := by
  induction as generalizing s got done vals with
  | nil =>
    cases h
    rfl
  | cons e as ih =>
    simp only [loadAll] at h
    split at h
    next s1 ps h1 =>
      split at h
      next hclean =>
        obtain ⟨⟨t1, rest⟩, h2, heq⟩ := Option.map_eq_some_iff.mp h
        cases heq
        obtain ⟨hlow, hasc⟩ := List.pairwise_cons.mp hasc
        have hone : serveLoad locate look z ⟨s, done, vals, 0, 0, 0, 0⟩ e =
            .ok ⟨s1, done ||| laneSet [e.1], setLane vals e.1 (loadWords z (look s1 ps).1), 0, 0, 0, 0⟩ := by
          simp only [serveLoad, hdone e (List.mem_cons_self ..), h1, hclean, Bool.false_eq_true, if_false, Except.pure_ok]
        rw [List.foldlM_cons, hone, Except.ok_bind']
        exact ih h2 hasc
          (fun x hx => maskHas_or_laneSet (hdone x (List.mem_cons_of_mem _ hx)) (Nat.ne_of_gt (hlow x hx))) _
      next => cases h
    next => cases h

/-- No lane done lies above an access: all of its bytes are stored (R121). -/
theorem freshBytes_of_below {as : List LaneAddr} {done : LaneMask} {n : Nat} {e : LaneAddr}
    (h : ∀ x ∈ as, e.1 < x.1 → maskHas done x.1 = false) : (freshBytes as done n e).length = n := by
  have hall : freshBytes as done n e = List.range n := List.filter_eq_self.mpr fun i _ => by
    rw [Bool.not_eq_true', List.any_eq_false]
    intro x hx
    by_cases hlt : e.1 < x.1
    · simp [h x hx hlt]
    · simp [hlt]
  rw [hall, List.length_range]

/-- Stores one after another mark their lanes done, and change the state as the statement's function does; none is refused. -/
theorem foldlM_serveStore {locate : Locate} {store : State → List Place → List Byte → State} {bytes : Nat → List Byte} {n : Nat}
    {all as : List LaneAddr} {s t : State} {cells : List (Nat × List Place)} (h : storeAll locate store bytes s as = some (t, cells))
    (hasc : as.Pairwise fun a b => a.1 < b.1) {done : LaneMask} (hdone : ∀ e ∈ as, maskHas done e.1 = false)
    (habove : ∀ e ∈ as, ∀ x ∈ all, e.1 < x.1 → maskHas done x.1 = false) :
    as.foldlM (fun acc e => serveStore locate store bytes n all acc e) ⟨s, done, [], 0, 0, 0, 0⟩ =
      .ok ⟨t, as.foldl (fun m e => m ||| laneSet [e.1]) done, [], 0, 0, 0, 0⟩ := by
  induction as generalizing s cells done with
  | nil =>
    cases h
    rfl
  | cons e as ih =>
    simp only [storeAll] at h
    split at h
    next s1 ps h1 =>
      obtain ⟨⟨t1, rest⟩, h2, heq⟩ := Option.map_eq_some_iff.mp h
      cases heq
      obtain ⟨hlow, hasc⟩ := List.pairwise_cons.mp hasc
      have hone : serveStore locate store bytes n all ⟨s, done, [], 0, 0, 0, 0⟩ e =
          .ok ⟨store s1 ps (bytes e.1), done ||| laneSet [e.1], [], 0, 0, 0, 0⟩ := by
        simp only [serveStore, hdone e (List.mem_cons_self ..), h1, freshBytes_of_below (habove e (List.mem_cons_self ..)),
          Bool.false_eq_true, if_false, if_true, Except.pure_ok]
      rw [List.foldlM_cons, hone, Except.ok_bind']
      refine ih h2 hasc (fun x hx => maskHas_or_laneSet (hdone x (List.mem_cons_of_mem _ hx)) (Nat.ne_of_gt (hlow x hx))) ?_
      intro a ha x hx hlt
      exact maskHas_or_laneSet (habove a (List.mem_cons_of_mem _ ha) x hx hlt)
        (Nat.ne_of_gt (Nat.lt_trans (hlow a ha) hlt))
    next => cases h

theorem actors_storeAll {locate : Locate} {store : State → List Place → List Byte → State} {bytes : Nat → List Byte}
    (hl : ∀ s a t ps, locate s a = .ok (t, ps) → t.actors = s.actors) (hst : ∀ s ps bs, (store s ps bs).actors = s.actors)
    {as : List LaneAddr} {s t : State} {cells : List (Nat × List Place)} (h : storeAll locate store bytes s as = some (t, cells)) :
    t.actors = s.actors := by
  induction as generalizing s cells with
  | nil =>
    cases h
    rfl
  | cons e as ih =>
    simp only [storeAll] at h
    split at h
    next s1 ps h1 =>
      obtain ⟨⟨t1, rest⟩, h2, heq⟩ := Option.map_eq_some_iff.mp h
      cases heq
      exact (ih h2).trans ((hst ..).trans (hl _ _ _ _ h1))
    next => cases h

/-! ### The values gathered -/

theorem foldl_setIfInBounds_eq_gathered {got : List (Nat × Word)} (hnd : (got.map Prod.fst).Nodup) :
    got.foldl (fun x e => x.setIfInBounds e.1 e.2) (Vector.replicate 32 0) = gathered got := by
  ext l hl
  have hmap : (got.map fun e => (e.1, e.2.toNat)).map Prod.fst = got.map Prod.fst := by simp
  have hget := foldl_setIfInBounds_getElem (got := got.map fun e => (e.1, e.2.toNat)) (hmap ▸ hnd) (fun e => BitVec.ofNat 32 e.2)
    (Vector.replicate 32 0) ⟨l, hl⟩
  simp only [List.foldl_map, Fin.getElem_fin, BitVec.ofNat_toNat, BitVec.setWidth_eq] at hget
  rw [hget]
  simp [gathered, List.find?_map, Function.comp_def, Option.map_map]

/-- The words entered lane by lane are those that the statement gathers, register by register. -/
theorem foldl_setLane_eq_gathered {got : List (Nat × List Word)} (hnd : (got.map Prod.fst).Nodup) (n : Nat) :
    got.foldl (fun vs e => setLane vs e.1 e.2) ((List.range n).map fun _ => Vector.replicate 32 0) =
      (List.range n).map fun i => gathered (got.map fun e => (e.1, e.2.getD i 0)) := by
  have hregs : ∀ v : Nat → VReg, got.foldl (fun vs e => setLane vs e.1 e.2) ((List.range n).map v) =
      (List.range n).map fun i => got.foldl (fun x e => x.setIfInBounds e.1 (e.2.getD i 0)) (v i) := by
    clear hnd
    induction got with
    | nil => exact fun _ => rfl
    | cons e got ih =>
      intro v
      rw [List.foldl_cons, setLane_map_range, ih]
      rfl
  rw [hregs]
  refine List.map_congr_left fun i _ => ?_
  rw [← foldl_setIfInBounds_eq_gathered (by simpa [Function.comp_def] using hnd), List.foldl_map]

theorem zipIdx_map_range (n : Nat) (f : Nat → VReg) (vd : Nat) :
    ((List.range n).map f).zipIdx.map (fun x => (vd + x.2, x.1)) = (List.range n).map fun i => (vd + i, f i) := by
  apply List.ext_getElem
  · simp
  · intro i h1 h2
    simp

/-- What a load delivers: with U = 1 every lane takes the lowest active lane's value (R151). -/
theorem delivered_eq_loadedRegs {got : List (Nat × List Word)} (hnd : (got.map Prod.fst).Nodup) (u : Bool) (active : LaneMask) (vd : Fin 64)
    (n : Nat) :
    let vals := got.foldl (fun vs e => setLane vs e.1 e.2) ((List.range n).map fun _ => Vector.replicate 32 0)
    (if u then vals.map fun v => Vector.replicate 32 v[lowLane active] else vals).zipIdx.map (fun x => (vd.val + x.2, x.1)) =
      loadedRegs u active vd n got := by
  simp only [foldl_setLane_eq_gathered hnd]
  cases u with
  | true =>
    rw [if_pos rfl, List.map_map, zipIdx_map_range]
    rfl
  | false =>
    rw [if_neg Bool.false_ne_true, zipIdx_map_range]
    rfl

/-! ### The end of the word -/

/-- After the accesses of a word, its group bars a rewind if the word is strong and any was performed (R146); a group set then is all that
is left of that. -/
theorem pinned_here {s : State} {g : GroupId} {slices : BitVec 8} {grp : Group} (h : Issues s g slices grp) (strong : Bool) {acc : Served}
    (hs : acc.s = s) {as : List LaneAddr} (hdone : acc.done ≠ 0 ↔ as ≠ []) :
    Issues (acc.pinned strong g slices).s g slices (grp.strongly slices strong as) ∧
      (∀ x, (acc.pinned strong g slices).s.setGroup g x = s.setGroup g x) ∧
      ∀ x, (acc.pinned strong g slices).s.doneWith g slices x = s.doneWith g slices x := by
  cases strong with
  | true =>
    obtain ⟨hissues, hend⟩ := pinned_issues h hs hdone
    refine ⟨hissues, fun x => ?_, hend⟩
    subst hs
    unfold Served.pinned
    split
    · rw [State.pinGroup, h.here]
      exact State.setGroup_setGroup ..
    · rfl
  | false =>
    subst hs
    rw [Served.pinned, if_neg (by simp), Group.strongly, if_neg (by simp)]
    exact ⟨h, fun _ => rfl, fun _ => rfl⟩

theorem pinned_refused (acc : Served) (strong : Bool) (g : GroupId) (slices : BitVec 8) :
    (acc.pinned strong g slices).refused = acc.refused := by
  unfold Served.pinned
  split <;> rfl

/-- With no access refused and no poison read, the word goes on. -/
theorem endServe_served (s : State) (g : GroupId) (slices : BitVec 8) (k : AccKind) (z : Size) (as : List LaneAddr) (strong : Bool)
    {acc : Served} (hr : acc.refused = 0) (hp : acc.poison = 0) :
    endServe s g slices k z as (acc.pinned strong g slices) = .ok (acc.pinned strong g slices).s := by
  rw [endServe, pinned_refused, (pinned_fields acc strong g slices).2, hr, hp, if_neg (by simp), if_neg (by simp)]

/-- Loaded values delivered to registers that are no stream ports. -/
theorem deliverLoad_registers {s : State} {g : GroupId} {grp : Group} (hg : s.group? g = some grp) (slices : BitVec 8) (lanes : LaneMask)
    (la : Nat) {prog : Progress} (hdropped : prog.dropped = []) (vd : Fin 64) {vals : List VReg} {ws : List (Nat × VReg)}
    (hws : (vals.zipIdx.map fun x => (vd.val + x.2, x.1)) = ws) (hne : ws ≠ []) (hp : ∀ w ∈ ws, grp.streamOf w.1 = none) :
    deliverLoad s g slices lanes la prog vd vals = .ok (s.setGroup g (grp.takes slices lanes la ws)) := by
  have hany : (ws.any fun e => (grp.streamOf e.1).isSome) = false := by
    rw [List.any_eq_false]
    intro w hw
    simp [hp w hw]
  simp only [deliverLoad, hg, hdropped]
  rw [hws, hany, if_neg Bool.false_ne_true]
  exact deliver_registers hg slices lanes la hne hp

@[simp] theorem Progress.start_loaded (pc : Addr) (slices : BitVec 8) : (Progress.start pc slices).loaded = none := rfl

/-! ### The statement -/

/-- The one lemma about `laneLoad` on operands that let it act. -/
theorem laneLoad_gives {i : Instr} {u : Bool} {guard : Fin 8} {vd va : Fin 64} {z : Size} {la : Nat} {strong acquire : Bool} {width : Nat}
    {addr : List VReg → Nat → Nat} {sound : State → Group → Nat → Prop} {check : State → Group → List LaneAddr → Except Stop Unit}
    {locate : GroupId → Group → Locate} {look : Group → Look}
    (he : ∀ s, exec i s = laneLoad s u guard vd va z la strong acquire width addr (check s) locate look)
    (hcheck : ∀ s grp as, (∀ e ∈ as, sound s grp e.2) → check s grp as = .ok ())
    (hl : ∀ g grp s a t ps, locate g grp s a = .ok (t, ps) → t.actors = s.actors) :
    LoadGives i u guard vd va z la strong acquire width addr sound locate look := by
  intro s s' g slices grp got hi
  dsimp only
  intro hr hstart hsound hload
  have hprog : grp.progressOf slices = Progress.start (grp.lead slices).pc slices := hstart
  have hread : readLanes s g slices (srcOp va width).names = .ok (s, s.inputs? grp slices [srcOp va width]) := by
    rw [readLanes_plain hi.here slices fun r h => plain_left hr.plain r (by simpa using h)]
    simp [State.inputs?]
  have hasc : ((accessLanes u (grp.acting slices guard)).map fun l => (l, addr (s.inputs? grp slices [srcOp va width]) l)).Pairwise
      fun a b => a.1 < b.1 := List.pairwise_map.mpr (accessLanes_pairwise ..)
  have hlanes : ∀ e ∈ (accessLanes u (grp.acting slices guard)).map fun l => (l, addr (s.inputs? grp slices [srcOp va width]) l),
      e.1 < 32 := List.forall_mem_map.mpr fun _ => accessLanes_lt
  have hnd : (got.map Prod.fst).Nodup := by
    rw [loadAll_keys hload]
    exact (List.pairwise_map.mpr hasc).imp Nat.ne_of_lt
  have hfold := foldlM_serveLoad hload hasc (done := 0) (fun _ _ => maskHas_zero _)
    ((List.range (sizeRegs z)).map fun _ => Vector.replicate 32 0)
  have hissues := hi.of_actors (actors_loadAll (hl g grp) hload)
  obtain ⟨hpinned, hset, -⟩ := pinned_here hissues strong (acc := ⟨s', _, _, 0, 0, 0, 0⟩) rfl
    (done_ne_zero_iff hlanes)
  have hports : ∀ w ∈ loadedRegs u (grp.acting slices guard) vd (sizeRegs z) got, grp.streamOf w.1 = none := by
    intro w hw
    obtain ⟨k, hk, rfl⟩ := List.mem_map.mp hw
    exact plain_right hr.plain _ (List.mem_flatMap.mpr ⟨_, List.mem_singleton_self _, List.mem_map.mpr ⟨k, hk, rfl⟩⟩)
  have hne : loadedRegs u (grp.acting slices guard) vd (sizeRegs z) got ≠ [] := by simpa [loadedRegs] using sizeRegs_ne_zero z
  rw [he]
  refine onGang_ok hi ?_
  simp only [laneChecks_ok hr.plain hr.kept hr.arrived hr.clean, Except.ok_bind', hprog, Progress.start_loaded, hread, checkUnif_ok hr.alike,
    hcheck s grp _ hsound, Progress.start_done, Progress.start_values, hfold,
    endServe_served s g slices .load z _ strong (acc := ⟨s', _, _, 0, 0, 0, 0⟩) rfl rfl,
    (pinned_fields _ _ _ _).1, Except.pure_ok]
  rw [deliverLoad_registers hpinned.here slices _ la (Progress.start_dropped ..) vd (delivered_eq_loadedRegs hnd u _ vd _) hne
    fun w hw => (Group.strongly_streamOf ..).trans (hports w hw), Except.ok_bind', hset]
  rfl

/-- The one lemma about `laneStore` on operands that let it act. -/
theorem laneStore_gives {i : Instr} {guard : Fin 8} {vd va : Fin 64} {z : Size} {strong : Bool} {width : Nat}
    {addr : List VReg → Nat → Nat} {sound : State → Group → Nat → Prop} {check : State → Group → List LaneAddr → Except Stop Unit}
    {locate : GroupId → Group → Locate}
    (he : ∀ s, exec i s = laneStore s guard vd va z strong width addr (check s) locate)
    (hcheck : ∀ s grp as, (∀ e ∈ as, sound s grp e.2) → check s grp as = .ok ())
    (hl : ∀ g grp s a t ps, locate g grp s a = .ok (t, ps) → t.actors = s.actors) :
    StoreGives i guard vd va z strong width addr sound locate := by
  intro s s' g slices grp cells hi
  dsimp only
  intro hr hstart hsound hstore
  have hprog : grp.progressOf slices = Progress.start (grp.lead slices).pc slices := hstart
  have hread : ∀ op ∈ [srcOp vd (sizeRegs z), srcOp va width], readLanes s g slices op.names = .ok (s, s.inputs? grp slices [op]) := by
    intro op hop
    rw [readLanes_plain hi.here slices fun r h => plain_left hr.plain r (List.mem_flatMap.mpr ⟨op, hop, h⟩)]
    simp [State.inputs?]
  have hasc : ((maskList (grp.acting slices guard)).map fun l => (l, addr (s.inputs? grp slices [srcOp va width]) l)).Pairwise
      fun a b => a.1 < b.1 := List.pairwise_map.mpr (maskList_pairwise _)
  have hlanes : ∀ e ∈ (maskList (grp.acting slices guard)).map fun l => (l, addr (s.inputs? grp slices [srcOp va width]) l),
      e.1 < 32 := List.forall_mem_map.mpr fun _ => maskList_lt
  have hfold := foldlM_serveStore (n := sizeBytes z) hstore hasc (done := 0) (fun _ _ => maskHas_zero _)
    (all := (maskList (grp.acting slices guard)).map fun l => (l, addr (s.inputs? grp slices [srcOp va width]) l))
    fun _ _ _ _ _ => maskHas_zero _
  have hissues := hi.of_actors (actors_storeAll (hl g grp) (fun _ _ _ => actors_groupStore ..) hstore)
  obtain ⟨hpinned, -, hend⟩ := pinned_here hissues strong (acc := ⟨s', _, [], 0, 0, 0, 0⟩) rfl
    (done_ne_zero_iff hlanes)
  rw [he]
  refine onGang_ok hi ?_
  simp only [laneChecks_ok hr.plain hr.kept hr.arrived hr.clean, Except.ok_bind', hprog, hread _ (List.mem_cons_self ..),
    hread _ (List.mem_cons_of_mem _ (List.mem_cons_self ..)), hcheck s grp _ hsound, Progress.start_done, hfold,
    endServe_served s g slices .store z _ strong (acc := ⟨s', _, [], 0, 0, 0, 0⟩) rfl rfl, Except.pure_ok]
  rw [setGroup_self_advance hpinned, hend]

theorem localAt_actors (n : Nat) (g : GroupId) (grp : Group) (s : State) (a : Nat) (t : State) (ps : List Place)
    (h : localAt n g grp s a = .ok (t, ps)) : t.actors = s.actors := by
  cases h
  rfl

theorem checkLocal_ok {s : State} {size : Nat} {as : List LaneAddr} {n : Nat} (h : ∀ e ∈ as, e.2 < 2 ^ 20 ∧ e.2 % 2 ^ 18 + n ≤ size) :
    checkLocal s size as n = .ok () :=
  laneTrap_of_none fun e he => by rw [localOk, decide_eq_true (h e he)]; rfl

/-- The checks of R225 of an access to memory: steps 4 and 5, alignment for a strong word alone (R223). -/
def memoryCheck (strong : Bool) (n : Nat) (s : State) (grp : Group) (as : List LaneAddr) : Except Stop Unit := do
  checkAddrs s grp.priv as n
  if strong then checkAlign s as n else .ok ()

theorem memoryCheck_weak {z : Size} {s : State} {grp : Group} {as : List LaneAddr} (h : ∀ e ∈ as, plainAddr grp.priv e.2 (sizeBytes z)) :
    memoryCheck false (sizeBytes z) s grp as = .ok () := by
  rw [memoryCheck, checkAddrs_ok (sizeBytes_ne_zero z) h, Except.ok_bind', if_neg Bool.false_ne_true]

theorem memoryCheck_strong {z : Size} {s : State} {grp : Group} {as : List LaneAddr}
    (h : ∀ e ∈ as, plainAddr grp.priv e.2 (sizeBytes z) ∧ e.2 % sizeBytes z = 0) : memoryCheck true (sizeBytes z) s grp as = .ok () := by
  rw [memoryCheck, checkAddrs_ok (sizeBytes_ne_zero z) fun e he => (h e he).1, Except.ok_bind', if_pos rfl,
    checkAlign_ok fun e he => (h e he).2]

theorem laneLoadResults : LaneLoadResults :=
  ⟨fun o => laneLoad_gives (check := memoryCheck false (sizeBytes o.z)) (exec_ld o) (fun _ _ _ => memoryCheck_weak)
      fun _ _ _ _ _ _ => actors_virtualAt,
    fun o => laneLoad_gives (check := memoryCheck false (sizeBytes o.z)) (exec_ldi o) (fun _ _ _ => memoryCheck_weak)
      fun _ _ _ _ _ _ => actors_virtualAt,
    fun o => laneLoad_gives (check := memoryCheck true (sizeBytes o.z)) (exec_lds o) (fun _ _ _ => memoryCheck_strong)
      fun _ _ _ _ _ _ => actors_virtualAt,
    fun o => laneLoad_gives (check := fun s grp as => checkLocal s (s.teamOf grp).lsSize as (sizeBytes o.z)) (exec_ldl o)
      (fun _ _ _ => checkLocal_ok) (localAt_actors _)⟩

theorem laneStoreResults : LaneStoreResults :=
  ⟨fun o => laneStore_gives (check := memoryCheck false (sizeBytes o.z)) (exec_st o) (fun _ _ _ => memoryCheck_weak)
      fun _ _ _ _ _ _ => actors_virtualAt,
    fun o => laneStore_gives (check := memoryCheck true (sizeBytes o.z)) (exec_sts o) (fun _ _ _ => memoryCheck_strong)
      fun _ _ _ _ _ _ => actors_virtualAt,
    fun o => laneStore_gives (check := fun s grp as => checkLocal s (s.teamOf grp).lsSize as (sizeBytes o.z)) (exec_stl o)
      (fun _ _ _ => checkLocal_ok) (localAt_actors _)⟩

/-- Settles O43: the accesses of a word, served one lane after another, are the statement's functions of its state, and the words loaded are
those that it gathers. -/
theorem laneMemoryWords : Obligations.LaneMemoryWords := ⟨laneLoadResults, laneStoreResults⟩

end Sys2Proof.Machine
end

section
/-! PROOFS. What translating an access, writing bytes and giving up cache lines leave as it is: everything but memory and its errors, the
devices' records, the contexts' status, leases, pins, caches and their directory, and what leaves the package (R105, R354, R364, R370,
R373, R377, R422). -/

namespace Sys2Proof.Machine

open Sys2Proof

/-- The state without what accesses and the caches may change. -/
def State.beyond (s : State) : State :=
  { s with mem := [], poison := [], devices := Vector.replicate 4 Device.reset, ctxs := [], leases := [], pins := [], peers := []
           lines := [], invals := [], past := [], unseen := [], pack := { s.pack with latent := [], fabricOut := [] } }

/-! ### Translation -/

@[simp] theorem beyond_grantLease (s : State) (ld : Fin 4) (asn : Asn) (va leaf : Nat) : (s.grantLease ld asn va leaf).beyond = s.beyond := rfl

@[simp] theorem beyond_memoryError (s : State) (r : Req) (reason loc : Nat) : (s.memoryError r reason loc).beyond = s.beyond := rfl

@[simp] theorem beyond_meetGranules (s : State) (r : Req) (gs : List Nat) : (s.meetGranules r gs).beyond = s.beyond := by
  refine foldl_keeps (fun s g => ?_) gs s
  rfl

@[simp] theorem beyond_meetTable (s : State) (ld : Fin 4) (asn : Asn) (va reason : Nat) : (s.meetTable ld asn va reason).beyond = s.beyond := by
  unfold State.meetTable
  split
  · exact beyond_meetGranules ..
  · rfl

@[simp] theorem beyond_pinPage (s : State) (r : Req) (va leaf : Nat) : (s.pinPage r va leaf).beyond = s.beyond := by
  simp only [State.pinPage]
  split
  · split
    · rfl
    · exact beyond_meetGranules ..
  · rfl

@[simp] theorem beyond_meetErrors (s : State) (r : Req) (ps : List Place) : (s.meetErrors r ps).beyond = s.beyond := by
  unfold State.meetErrors
  split
  · rfl
  · exact beyond_meetGranules ..

@[simp] theorem beyond_fillLevel (s : State) (level : CacheLevel) (t : Fin 4 × Asn × Nat) (imported : Bool) (c : CacheRef) :
    (s.fillLevel level t imported c).beyond = s.beyond := by
  unfold State.fillLevel
  exact apply_ite State.beyond _ _ _ |>.trans (ite_self _)

@[simp] theorem beyond_importLine (s : State) (token : DWord) (level : CacheLevel) (c : CacheRef) :
    (s.importLine token level c).beyond = s.beyond := by
  simp only [State.importLine]
  split
  · rfl
  · split
    · rfl
    · exact beyond_fillLevel ..

@[simp] theorem beyond_fillPlaces (s : State) (r : Req) (token : DWord) (ps : List Place) : (s.fillPlaces r token ps).beyond = s.beyond := by
  refine foldl_keeps (fun s c => ?_) _ s
  dsimp only
  split <;> simp only [apply_ite State.beyond, beyond_fillLevel, beyond_importLine, ite_self]

theorem beyond_ownPlaces {s t : State} {r : Req} {imp : Option (Fin 4 × Asn × Nat)} {token : DWord} {va n : Nat} {ps : List Place}
    (h : s.ownPlaces r imp token va n = .ok (t, ps)) : t.beyond = s.beyond := by
  unfold State.ownPlaces at h
  split at h
  case h_1 => cases h
  case h_2 leaf walked _ =>
    cases h
    rw [beyond_fillPlaces, beyond_meetErrors, beyond_pinPage]
    split <;> rfl

theorem beyond_placesInPage {s t : State} {r : Req} {va n : Nat} {ps : List Place} (h : s.placesInPage r va n = .ok (t, ps)) :
    t.beyond = s.beyond := by
  unfold State.placesInPage at h
  split at h
  case isFalse => exact beyond_ownPlaces h
  case isTrue =>
    split at h
    case h_1 => cases h
    case h_2 imp _ =>
      dsimp only at h
      split at h
      case isTrue =>
        split at h
        · cases h
        · cases h
          rfl
      case isFalse =>
        split at h
        case h_1 => cases h
        case h_2 =>
          split at h
          · cases h
          · split at h
            · cases h
            · exact beyond_ownPlaces h

theorem beyond_placesFuel {s t : State} {r : Req} {va n fuel : Nat} {ps : List Place} (h : s.placesFuel r va n fuel = .ok (t, ps)) :
    t.beyond = s.beyond := by
  induction fuel generalizing s va n ps with
  | zero =>
    cases h
    rfl
  | succ fuel ih =>
    simp only [State.placesFuel] at h
    split at h
    · cases h
      rfl
    · split at h
      · cases h
      next s1 ps1 h1 =>
        split at h
        · cases h
        next s2 rest h2 =>
          cases h
          exact (ih h2).trans (beyond_placesInPage h1)

theorem beyond_places {s t : State} {r : Req} {va n : Nat} {ps : List Place} (h : s.places r va n = .ok (t, ps)) : t.beyond = s.beyond :=
  beyond_placesFuel h

/-! ### Writes -/

@[simp] theorem beyond_writeLoc (s : State) (whole : Bool) (l : Nat) (b : Byte) : (s.writeLoc whole l b).beyond = s.beyond := by
  unfold State.writeLoc
  split
  · rfl
  · split <;> rfl

@[simp] theorem beyond_dropWrites (s : State) (r : Req) (ls : List Nat) : (s.dropWrites r ls).beyond = s.beyond := by
  refine foldl_keeps (p := fun acc : State × List Nat => acc.1.beyond) (fun acc l => ?_) ls (s, [])
  dsimp only
  split <;> rfl

@[simp] theorem beyond_writePlain (s : State) (r : Req) (cells : List (Nat × Byte)) : (s.writePlain r cells).beyond = s.beyond := by
  simp only [State.writePlain]
  split
  · exact foldl_keeps (fun _ _ => beyond_writeLoc ..) cells s
  · rw [beyond_dropWrites]
    exact foldl_keeps (fun _ _ => beyond_writeLoc ..) cells s

@[simp] theorem beyond_writeHome (s : State) (r : Req) (cells : List (Nat × Byte)) : (s.writeHome r cells).beyond = s.beyond := by
  rw [State.writeHome, State.invalidate]
  split <;> exact beyond_writePlain ..

@[simp] theorem beyond_writeMxBlock (s : State) (r : Req) (pairs : List (Place × Byte)) (mxf base block : Nat) :
    (s.writeMxBlock r pairs mxf base block).beyond = s.beyond := by
  simp only [State.writeMxBlock]
  split
  · exact beyond_dropWrites ..
  · split <;> exact beyond_writePlain ..

@[simp] theorem beyond_mapLine (s : State) (t : Fin 4 × Asn × Nat) (p : CacheLevel → Bool) (f : CacheLine → CacheLine) :
    (s.mapLine t p f).beyond = s.beyond := rfl

@[simp] theorem beyond_writeHeld (s : State) (r : Req) (c : CacheRef) (b : Byte) : (s.writeHeld r c b).beyond = s.beyond := by
  unfold State.writeHeld
  simp only [State.mapLine]
  repeat' split
  all_goals rfl

@[simp] theorem beyond_sendRemote (s : State) (pairs : List (Place × Byte)) : (s.sendRemote pairs).beyond = s.beyond := by
  simp only [State.sendRemote]
  split <;> rfl

@[simp] theorem beyond_healPins (s : State) (pairs : List (Place × Byte)) : (s.healPins pairs).beyond = s.beyond := by
  unfold State.healPins
  split <;> rfl

@[simp] theorem beyond_remember (s : State) (pairs : List (Place × Byte)) : (s.remember pairs).beyond = s.beyond := rfl

@[simp] theorem beyond_writePlaces (s : State) (r : Req) (ps : List Place) (bs : List Byte) : (s.writePlaces r ps bs).beyond = s.beyond := by
  simp only [State.writePlaces, beyond_sendRemote]
  rw [State.writeMx, foldl_keeps fun _ _ => beyond_writeMxBlock .., beyond_writeHome]
  refine (foldl_keeps (fun s e => ?_) _ _).trans ?_
  · split
    · exact beyond_writeHeld ..
    · rfl
  · rw [beyond_remember, beyond_healPins, State.recordDrops, foldl_keeps fun _ _ => beyond_memoryError ..]

/-! ### Cache lines given up -/

@[simp] theorem beyond_dropShared (s : State) (line : Nat) (d : Fin 5) : (s.dropShared line d).beyond = s.beyond := rfl

@[simp] theorem beyond_parkLine (s : State) (l : CacheLine) (why : Nat) : (s.parkLine l why).beyond = s.beyond :=
  beyond_meetTable ..

@[simp] theorem beyond_evict (s : State) (l : CacheLine) : (s.evict l).beyond = s.beyond := by
  simp only [State.evict]
  split
  · rfl
  · split
    · rfl
    · split
      · exact beyond_parkLine ..
      · exact beyond_writeHome ..

@[simp] theorem beyond_evictAll (s : State) (p : CacheLine → Bool) : (s.evictAll p).beyond = s.beyond := by
  simp only [State.evictAll]
  rw [foldl_keeps fun _ _ => beyond_evict .., foldl_keeps fun _ _ => beyond_evict ..]
  rfl

@[simp] theorem beyond_releasePort (s : State) (p : Fin 8) : (s.releasePort p).beyond = s.beyond := by
  rw [State.releasePort, State.releaseHost, beyond_evictAll]
  exact foldl_keeps (fun _ _ => beyond_dropShared ..) _ s

end Sys2Proof.Machine
end

section
/-! PROOFS. Links that turn to their targets, and the frames of the Ethernet ports (R119, R131, R340, R360, R419, R420, R425). -/

namespace Sys2Proof.Machine

open Sys2Proof

/-! ### Links -/

theorem linkNext_pinned {s : State} {i : Fin 12} {n : Nat} (h : s.linkPin i = some n) : s.linkNext i = n := by
  rw [State.linkNext, h]

theorem linkNext_unpinned {s : State} {i : Fin 12} (h : s.linkPin i = none) :
    s.linkNext i = if s.pack.linkPinned[i] then bundlesOf i / 2 else linkTarget i (s.linkRequests i) := by
  rw [State.linkNext, h]

/-- The evaluation at a multiple of 2 µs: each link's next count and pin (R419, R420). -/
theorem tideEvaluate_turns (s : State) :
    (s.pack.tideAt < s.pack.time / 2000 → exec .tideEvaluate s = .next { s with pack := { s.pack with
      tideAt := s.pack.time / 2000
      links := Vector.ofFn fun (i : Fin 12) => s.linkNext i
      linkPinned := Vector.ofFn fun (i : Fin 12) => (s.linkPin i).isSome } }) ∧
    (s.pack.time / 2000 ≤ s.pack.tideAt → exec .tideEvaluate s = .next s) := by
  rw [exec_tideEvaluate, execTideEvaluate]
  exact ⟨fun h => if_pos h, fun h => if_neg (Nat.not_lt.mpr h)⟩

/-! ### Words of memory -/

theorem ofBytes_dword (d : DWord) : BitVec.ofNat 64 (ofBytes (toBytes 8 d.toNat)) = d := by
  rw [ofBytes_toBytes, Nat.mod_eq_of_lt d.isLt, BitVec.ofNat_toNat, BitVec.setWidth_eq]

theorem dwordsOf_pair (d0 d1 : DWord) : dwordsOf (toBytes 8 d0.toNat ++ toBytes 8 d1.toNat) = [d0, d1] := by
  have h0 : (toBytes 8 d0.toNat).length = 8 := length_toBytes ..
  have h1 : (toBytes 8 d1.toNat).length = 8 := length_toBytes ..
  have hlen : (toBytes 8 d0.toNat ++ toBytes 8 d1.toNat).length / 8 = 2 := by rw [List.length_append, h0, h1]
  rw [dwordsOf, hlen]
  simp only [List.range_succ, List.range_zero, List.nil_append, List.cons_append, List.map_cons, List.map_nil, Nat.mul_zero, List.drop_zero,
    Nat.mul_one, List.take_left' h0, List.drop_left' h0, List.take_of_length_le h1.le, ofBytes_dword]

/-! ### A port's accesses -/

theorem EthPort.req_eq (x : EthPort) (k : AccKind) :
    x.req k = { ld := Fin.ofNat 4 (x.cfg.toNat / 2 ^ 40), asn := BitVec.ofNat 12 (x.cfg.toNat / 2 ^ 44), priv := .user, kind := k } := by
  have hld : Fin.ofNat 4 (bits x.cfg.toNat 40 2) = Fin.ofNat 4 (x.cfg.toNat / 2 ^ 40) := Fin.ext (Nat.mod_mod ..)
  rw [EthPort.req, hld, ofNat_bits]

theorem eth_of_beyond {s t : State} (h : t.beyond = s.beyond) : t.pack.eth = s.pack.eth := by
  change t.beyond.pack.eth = s.beyond.pack.eth
  rw [h]

theorem port_of_beyond {s t : State} {p : Fin 8} {x : EthPort} (hx : s.pack.eth[p] = x) (h : t.beyond = s.beyond) : t.pack.eth[p] = x := by
  rw [eth_of_beyond h, hx]

theorem portRead_served {s t : State} {p : Fin 8} {x : EthPort} (hx : s.pack.eth[p] = x) (rx : Bool) {a n : Nat} {ps : List Place}
    (h : s.places (x.req .load) a n = .ok (t, ps)) :
    portRead s p rx a n = .ok (t, (t.readPlaces ps).1, (t.readPlaces ps).2.isSome) := by
  simp only [portRead, hx, h]

theorem portWrite_served {s t : State} {p : Fin 8} {x : EthPort} (hx : s.pack.eth[p] = x) (rx : Bool) {a : Nat} {bs : List Byte}
    {ps : List Place} (h : s.places (x.req .store) a bs.length = .ok (t, ps)) :
    portWrite s p rx a bs = .ok (t.writePlaces (x.req .store) ps bs) := by
  simp only [portWrite, hx, h]

theorem descriptorDone_eq {len : Nat} (h : len ≤ 9216) (bad : Bool) :
    descriptorDone len bad = toBytes 8 ((if bad then 2 ^ 56 else 0) + len) := by
  rw [descriptorDone, Nat.mod_eq_of_lt (show len < 2 ^ 14 by omega)]
  cases bad <;> rfl

theorem length_descriptorDone (len : Nat) (bad : Bool) : (descriptorDone len bad).length = 8 := length_toBytes ..

theorem frameLength_of_bounds {n : Nat} (h1 : 64 ≤ n) (h2 : n ≤ 9216) : frameLength n = true := decide_eq_true ⟨h1, h2⟩

/-! ### A frame sent, and a frame received -/

section Frames

variable {s s1 s2 s3 : State} {p : Fin 8} {x : EthPort} {d0 d1 : DWord} {p0 ps p3 : List Place}
  (hx : s.pack.eth[p] = x) (hown : 2 ^ 63 ≤ d1.toNat)
include hx hown

/-- A frame of the entry that the ring hands over is read, and its entry given back (R425). -/
theorem sendFrame_served (hlo : 64 ≤ d1.toNat % 2 ^ 14) (hhi : d1.toNat % 2 ^ 14 ≤ 9216)
    (h1 : s.places (x.req .load) (descriptorAt x.tx x.txHead) 16 = .ok (s1, p0))
    (hd : (s1.readPlaces p0).1 = toBytes 8 d0.toNat ++ toBytes 8 d1.toNat)
    (h2 : s1.places (x.req .load) (d0.toNat % 2 ^ 48) (d1.toNat % 2 ^ 14) = .ok (s2, ps)) (hclean : (s2.readPlaces ps).2 = none)
    (h3 : (s2.releasePort p).places (x.req .store) (descriptorAt x.tx x.txHead + 8) 8 = .ok (s3, p3)) :
    sendFrame s p = .ok ((s3.writePlaces (x.req .store) p3 (toBytes 8 (d1.toNat % 2 ^ 14))).setPort p
      { x with txHead := x.txHead + 1, sent := x.sent ++ [(s2.readPlaces ps).1] }) := by
  have hx1 := port_of_beyond hx (beyond_places h1)
  have hx2 := port_of_beyond (port_of_beyond hx1 (beyond_places h2)) (beyond_releasePort s2 p)
  have hdone : descriptorDone (d1.toNat % 2 ^ 14) false = toBytes 8 (d1.toNat % 2 ^ 14) := by
    rw [descriptorDone_eq hhi, if_neg Bool.false_ne_true, Nat.zero_add]
  have hback := portWrite_served hx2 false (bs := descriptorDone (d1.toNat % 2 ^ 14) false)
    (by rw [length_descriptorDone]; exact h3)
  rw [hdone] at hback
  simp only [sendFrame, hx, portRead_served hx false h1, Except.ok_bind', hd, dwordsOf_pair, dw, List.getD_cons_zero, List.getD_cons_succ,
    bit_top_iff.mpr hown, bits_low, frameLength_of_bounds hlo hhi, portRead_served hx1 false h2, hclean, Option.isSome_none, hdone, hback,
    Bool.not_true, Bool.false_eq_true, if_false, if_true, Except.pure_ok]

/-- A frame goes to the buffer of the entry that the ring hands over, and the entry is given back once it is there (R131, R425). -/
theorem takeFrame_served {frame : List Byte} (hhi : frame.length ≤ 9216) (bad : Bool)
    (h1 : s.places (x.req .load) (descriptorAt x.rx x.rxHead) 16 = .ok (s1, p0))
    (hd : (s1.readPlaces p0).1 = toBytes 8 d0.toNat ++ toBytes 8 d1.toNat)
    (h2 : s1.places (x.req .store) (d0.toNat % 2 ^ 48) frame.length = .ok (s2, ps))
    (h3 : ((s2.writePlaces (x.req .store) ps frame).releasePort p).places (x.req .store) (descriptorAt x.rx x.rxHead + 8) 8 = .ok (s3, p3)) :
    takeFrame s p frame bad = .ok ((s3.writePlaces (x.req .store) p3 (toBytes 8 ((if bad then 2 ^ 56 else 0) + frame.length))).setPort p
      { x with rxHead := x.rxHead + 1, held := none }) := by
  have hx1 := port_of_beyond hx (beyond_places h1)
  have hx2 : ((s2.writePlaces (x.req .store) ps frame).releasePort p).pack.eth[p] = x :=
    port_of_beyond (port_of_beyond (port_of_beyond hx1 (beyond_places h2)) (beyond_writePlaces ..)) (beyond_releasePort ..)
  have hback := portWrite_served hx2 true (bs := descriptorDone frame.length bad) (by rw [length_descriptorDone]; exact h3)
  rw [descriptorDone_eq hhi] at hback
  simp only [takeFrame, hx, portRead_served hx true h1, Except.ok_bind', hd, dwordsOf_pair, dw, List.getD_cons_zero, List.getD_cons_succ,
    bit_top_iff.mpr hown, bits_low, portWrite_served hx1 true h2, descriptorDone_eq hhi, hback, Bool.not_true, Bool.false_eq_true, if_false,
    Except.pure_ok]

end Frames

/-- A refused read of the ring parks the port (R340, R360). -/
theorem takeFrame_parks {s : State} {p : Fin 8} {frame : List Byte} {why : Nat} (bad : Bool)
    (h : s.places (s.pack.eth[p].req .load) (descriptorAt s.pack.eth[p].rx s.pack.eth[p].rxHead) 16 = .error why) :
    takeFrame s p frame bad = .error (s.parkPort p true .load why
      (s.refusedAt (s.pack.eth[p].req .load) (descriptorAt s.pack.eth[p].rx s.pack.eth[p].rxHead) 16)) := by
  simp only [takeFrame, portRead, h, Except.error_bind']

theorem receive_taken {s t : State} {p : Fin 8} {frame : List Byte} {bad : Bool} (h : takeFrame s p frame bad = .ok t) :
    s.receive p frame bad = t := by
  rw [State.receive, h]

theorem receive_parked {s t : State} {p : Fin 8} {frame : List Byte} {bad : Bool} (h : takeFrame s p frame bad = .error t) :
    s.receive p frame bad = t.setPort p { t.pack.eth[p] with held := some (frame, bad) } := by
  rw [State.receive, h]

/-! ### The events of a port -/

/-- A port's next entry is sent, or nothing happens. -/
theorem ethTransmitFrame_cases (s : State) :
    let p := s.arg.port
    let x := s.pack.eth[p]
    (bit x.cfg.toNat 63 = true → x.txHead ≠ x.txTail → s.portParked p false = false →
      exec .ethTransmitFrame s = .next (eitherState (sendFrame s p))) ∧
    (bit x.cfg.toNat 63 = false ∨ x.txHead = x.txTail ∨ s.portParked p false = true → exec .ethTransmitFrame s = .next s) := by
  rw [exec_ethTransmitFrame, execEthTransmitFrame]
  refine ⟨fun hen hne hpark => ?_, fun h => ?_⟩
  · rw [if_pos ⟨hen, hne, by simp [hpark]⟩]
  · rw [if_neg]
    rintro ⟨hen, hne, hpark⟩
    rcases h with h | h | h
    · exact Bool.false_ne_true (h.symm.trans hen)
    · exact hne h
    · exact hpark h

/-- A frame is received, lost, or kept waiting behind the access that the port awaits. -/
theorem ethReceiveFrame_cases (s : State) :
    let p := s.arg.port
    let x := s.pack.eth[p]
    (s.portParked p true = false → x.held = none → bit x.cfg.toNat 63 = true → x.rxHead ≠ x.rxTail →
      frameLength s.arg.bytes.length = true → exec .ethReceiveFrame s = .next (s.receive p s.arg.bytes s.arg.flag)) ∧
    (x.held = none → bit x.cfg.toNat 63 = false ∨ x.rxHead = x.rxTail → exec .ethReceiveFrame s = .next s) ∧
    (s.portParked p true = true → exec .ethReceiveFrame s = .next s) := by
  rw [exec_ethReceiveFrame, execEthReceiveFrame]
  refine ⟨fun hpark hheld hen hne hlen => ?_, fun hheld h => ?_, fun hpark => if_pos hpark⟩
  · simp only [hpark, hheld]
    rw [if_neg Bool.false_ne_true, if_pos ⟨hen, hne, hlen⟩]
  · simp only [hheld]
    rw [if_neg (c := _ ∧ _) (fun hall => h.elim (fun h => Bool.false_ne_true (h.symm.trans hall.1)) hall.2.1), ite_self]

/-! ### The statement -/

theorem linksTurn (s : State) :
    (s.pack.tideAt < s.pack.time / 2000 → ∃ t, exec .tideEvaluate s = .next t ∧ t = { s with pack := t.pack } ∧
      t.pack.tideAt = s.pack.time / 2000 ∧
      ∀ i : Fin 12,
        t.pack.linkPinned[i] = (s.linkPin i).isSome ∧
        (∀ n, s.linkPin i = some n → t.pack.links[i] = n) ∧
        (s.linkPin i = none → s.pack.linkPinned[i] = true → t.pack.links[i] = bundlesOf i / 2) ∧
        (s.linkPin i = none → s.pack.linkPinned[i] = false →
          let rs := s.linkRequests i
          let w : Nat := (rs.map Prod.fst).sum
          (w = 0 → t.pack.links[i] = bundlesOf i / 2) ∧
          (0 < w →
            let x : Int := (rs.map fun r => (r.1 : Int) * r.2).sum
            t.pack.links[i] = max (bundlesOf i / 8) (min (bundlesOf i - bundlesOf i / 8) ((2 * x + w) / (2 * w)).toNat)))) := by
  intro h
  refine ⟨_, (tideEvaluate_turns s).1 h, rfl, rfl, fun i => ?_⟩
  simp only [Fin.getElem_fin, Vector.getElem_ofFn]
  refine ⟨trivial, fun n hn => linkNext_pinned hn, fun hn hwas => ?_, fun hn hwas => ⟨fun hw => ?_, fun hw => ?_⟩⟩
  · exact (linkNext_unpinned hn).trans (if_pos hwas)
  · rw [linkNext_unpinned hn, if_neg (by simpa using hwas)]
    exact if_pos hw
  · rw [linkNext_unpinned hn, if_neg (by simpa using hwas)]
    exact if_neg (Nat.ne_of_gt hw)

/-- Settles O23: each link's next count, and the accesses of a port's frame one after another, each as its statement's state gives it; no
access changes a port's registers. -/
theorem fabricEvents : Obligations.FabricEvents := by
  refine ⟨fun s => ⟨linksTurn s, (tideEvaluate_turns s).2⟩, fun s => ?_, fun s s1 s2 s3 p0 d0 d1 ps p3 => ?_, fun s u why a => ?_⟩
  case refine_1 =>
    obtain ⟨-, hsend⟩ := ethTransmitFrame_cases s
    obtain ⟨-, hlost, hwait⟩ := ethReceiveFrame_cases s
    have hoff : s.pack.eth[s.arg.port].cfg.toNat < 2 ^ 63 → bit s.pack.eth[s.arg.port].cfg.toNat 63 = false := fun h =>
      bit_top_eq_false (Nat.not_le.mpr h)
    rw [exec_txTailWrite, exec_rxTailWrite]
    exact ⟨fun h => ⟨onDevice_of_serves h _, onDevice_of_serves h _⟩, fun h => ⟨onDevice_of_not_serves h _, onDevice_of_not_serves h _⟩,
      fun h => hsend (h.imp hoff .inl), fun hheld h => hlost hheld (h.imp_left hoff), fun h => hsend (.inr (.inr h)), hwait⟩
  case refine_2 =>
    dsimp only
    intro hen hown
    refine ⟨fun hpark hne hlo hhi h1 hd h2 hclean h3 => ?_, fun hpark hheld hne hlo hhi h1 hd h2 h3 => ?_⟩
    · simp only [← EthPort.req_eq] at h1 h2 h3 ⊢
      exact ((ethTransmitFrame_cases s).1 (bit_top_iff.mpr hen) hne hpark).trans
        (congrArg (fun r => Host.Outcome.next (eitherState r)) (sendFrame_served rfl hown hlo hhi h1 hd h2 hclean h3))
    · simp only [← EthPort.req_eq] at h1 h2 h3 ⊢
      exact ((ethReceiveFrame_cases s).1 hpark hheld (bit_top_iff.mpr hen) hne (frameLength_of_bounds hlo hhi)).trans
        (congrArg _ (receive_taken (takeFrame_served rfl hown hhi s.arg.flag h1 hd h2 h3)))
  case refine_3 =>
    dsimp only
    rintro hen hpark hheld hne hlo hhi hrefused rfl rfl
    exact ((ethReceiveFrame_cases s).1 hpark hheld (bit_top_iff.mpr hen) hne (frameLength_of_bounds hlo hhi)).trans
      (congrArg _ (receive_parked (takeFrame_parks s.arg.flag hrefused)))

end Sys2Proof.Machine
end

section
/-! PROOFS. Copy batches and engine operations that complete: what an operation's accesses leave of the groups, the copies of a batch, and the
events of the engines (R43, R114, R115, R238, R241, R243 to R248, R271 to R273, R292, R296). -/

namespace Sys2Proof.Machine

open Sys2Proof

/-! ### What the accesses of an operation leave of the groups -/

theorem actors_places {s t : State} {r : Req} {va n : Nat} {ps : List Place} (h : s.places r va n = .ok (t, ps)) : t.actors = s.actors :=
  actors_placesFuel h

/-- The state in which an engine's access stands when it ends: the one that it delivers, or in which it read poison. -/
def engineLeaves {α : Type} : Except EngineStop (State × α) → Option State
  | .ok (t, _) => some t
  | .error (.poison _ t) => some t
  | .error (.refused ..) => none

theorem engineLeaves_engineBytes (s : State) (a : Nat) (r : List Byte × Option Nat) :
    engineLeaves ((engineBytes s a r).map fun bs => (s, bs)) = some s := by
  obtain ⟨bs, _ | i⟩ := r <;> rfl

theorem actors_engineReadUnits {s t : State} {o : EngineOp} {unit a n : Nat} (h : engineLeaves (engineReadUnits s o unit a n) = some t) :
    t.actors = s.actors := by
  unfold engineReadUnits at h
  split at h
  case h_1 => cases h
  case h_2 s1 ps h1 =>
    have hleaves : some s1 = some t := (engineLeaves_engineBytes ..).symm.trans h
    cases hleaves
    exact actors_places h1

theorem actors_readCopy {s t : State} {o : EngineOp} {c : Copy} (h : engineLeaves (readCopy s o c) = some t) : t.actors = s.actors := by
  unfold readCopy at h
  split at h
  case h_1 => exact actors_engineReadUnits h
  case h_2 =>
    have hleaves : some s = some t := (engineLeaves_engineBytes ..).symm.trans h
    cases hleaves
    rfl
  case h_3 =>
    cases h
    rfl

theorem actors_engineStore (s : State) (o : EngineOp) (mark : Nat) (ps : List Place) (bs : List Byte) :
    (engineStore s o mark ps bs).actors = s.actors := actors_groupStore ..

theorem actors_engineWriteAs {s t : State} {o : EngineOp} {mark a : Nat} {bs : List Byte} (h : engineWriteAs s o mark a bs = .ok t) :
    t.actors = s.actors := by
  unfold engineWriteAs at h
  split at h
  case h_1 => cases h
  case h_2 s1 ps h1 =>
    cases h
    rw [actors_engineStore, actors_places h1]

theorem engineWriteAs_ne_poison {s u : State} {o : EngineOp} {mark a b : Nat} {bs : List Byte} :
    engineWriteAs s o mark a bs ≠ .error (.poison b u) := by
  unfold engineWriteAs
  split <;> simp

theorem actors_writeCopy {s t : State} {o : EngineOp} {mark : Nat} {c : Copy} {bs : List Byte} (h : writeCopy s o mark c bs = .ok t) :
    t.actors = s.actors := by
  unfold writeCopy at h
  split at h
  case h_1 => exact actors_engineWriteAs h
  case h_2 =>
    cases h
    exact actors_engineStore ..
  case h_3 =>
    cases h
    rfl

theorem writeCopy_ne_poison {s u : State} {o : EngineOp} {mark b : Nat} {c : Copy} {bs : List Byte} :
    writeCopy s o mark c bs ≠ .error (.poison b u) := by
  unfold writeCopy
  split
  · exact engineWriteAs_ne_poison
  · simp
  · simp

/-! ### Copies -/

theorem actors_readCopies (s : State) (o : EngineOp) (cs : List Copy) : (readCopies s o cs).1.actors = s.actors := by
  induction cs generalizing s with
  | nil => rfl
  | cons c cs ih =>
    rw [readCopies]
    split
    · exact ih s
    · split
      · exact ih s
      · split
        case h_1 t bs h1 => exact (ih t).trans (actors_readCopy (by rw [h1]; rfl))
        case h_2 a t h1 => exact (ih t).trans (actors_readCopy (by rw [h1]; rfl))
        case h_3 => exact ih s

theorem actors_writeCopies (s : State) (o : EngineOp) (mark : Copy → Nat) (rs : List ReadCopy) :
    (writeCopies s o mark rs).1.actors = s.actors := by
  induction rs generalizing s with
  | nil => rfl
  | cons r rs ih =>
    rw [writeCopies]
    split
    case h_1 t h1 => exact (ih t).trans (actors_writeCopy h1)
    case h_2 a t h1 => exact absurd h1 writeCopy_ne_poison
    case h_3 => exact ih s

theorem actors_performCopies (s : State) (o : EngineOp) (mark : Copy → Nat) (cs : List Copy) :
    (performCopies s o mark cs).1.actors = s.actors :=
  (actors_writeCopies ..).trans (actors_readCopies ..)

/-! ### Batches -/

/-- When every chosen copy has been performed, those not chosen are left. -/
theorem leftOf_performed (chosen : Copy → Bool) (cs : List Copy) : leftOf chosen [] cs = cs.filter fun c => !chosen c := by
  induction cs with
  | nil => rfl
  | cons c cs ih =>
    rw [leftOf, List.filterMap_cons, ← leftOf, ih, List.filter_cons]
    cases chosen c <;> rfl

/-- Copies of a group that are all performed leave its batches, and nothing is recorded. -/
theorem performBatch_performed {s t : State} {g : GroupId} {grp : Group} (hg : s.group? g = some grp) {chosen : Copy → Bool}
    (h : performCopies s (mkOp s (.acp []) g grp 0 [] none) grp.batches.markOf
      ((grp.batches.unsealed ++ grp.batches.sealed_.flatMap Prod.snd).filter chosen) = (t, [], [])) :
    s.performBatch g grp chosen = t.setGroup g { grp with batches := grp.batches.mapCopies fun cs => cs.filter fun c => !chosen c } := by
  have hactors := actors_performCopies s (mkOp s (.acp []) g grp 0 [] none) grp.batches.markOf
    ((grp.batches.unsealed ++ grp.batches.sealed_.flatMap Prod.snd).filter chosen)
  rw [h] at hactors
  have hleft : leftOf chosen [] = fun cs => cs.filter fun c => !chosen c := funext (leftOf_performed chosen)
  simp only [State.performBatch, h, (State.group?_of_actors hactors g).trans hg, hleft]
  rfl

theorem Copy.same_self (c : Copy) : c.same c = true := by simp [Copy.same]

/-- The copies of a batch are among themselves. -/
theorem any_same_of_mem {c : Copy} {cs : List Copy} (h : c ∈ cs) : cs.any c.same = true := List.any_eq_true.mpr ⟨c, h, c.same_self⟩

/-- Of a group's copies, those of its oldest sealed batch, which no other batch shares. -/
theorem filter_oldest {open_ cs : List Copy} {n : Word} {rest : List (Word × List Copy)}
    (h : ∀ c ∈ open_ ++ rest.flatMap Prod.snd, cs.any c.same = false) :
    (open_ ++ ((n, cs) :: rest).flatMap Prod.snd).filter (fun c => cs.any c.same) = cs := by
  have hnone : ∀ l : List Copy, (∀ c ∈ l, cs.any c.same = false) → l.filter (fun c => cs.any c.same) = [] := fun l hl =>
    List.filter_eq_nil_iff.mpr fun c hc => by simp [hl c hc]
  rw [List.filter_append, List.flatMap_cons, List.filter_append, hnone open_ fun c hc => h c (List.mem_append_left _ hc),
    hnone _ fun c hc => h c (List.mem_append_right _ hc), List.filter_eq_self.mpr fun c hc => any_same_of_mem hc, List.nil_append,
    List.append_nil]

/-- Without them, the oldest batch is empty and the others are as they were. -/
theorem mapCopies_oldest {b : Batches} {cs : List Copy} {n : Word} {rest : List (Word × List Copy)} (hb : b.sealed_ = (n, cs) :: rest)
    (h : ∀ c ∈ b.unsealed ++ rest.flatMap Prod.snd, cs.any c.same = false) :
    b.mapCopies (fun l => l.filter fun c => !cs.any c.same) = { b with sealed_ := (n, []) :: rest } := by
  have hkept : ∀ l : List Copy, (∀ c ∈ l, cs.any c.same = false) → l.filter (fun c => !cs.any c.same) = l := fun l hl =>
    List.filter_eq_self.mpr fun c hc => by simp [hl c hc]
  have hrest : rest.map (fun e => (e.1, e.2.filter fun c => !cs.any c.same)) = rest.map id := List.map_congr_left fun e he =>
    Prod.ext rfl (hkept e.2 fun c hc => h c (List.mem_append_right _ (List.mem_flatMap.mpr ⟨e, he, hc⟩)))
  have hgone : cs.filter (fun c => !cs.any c.same) = [] := List.filter_eq_nil_iff.mpr fun c hc => by simp [any_same_of_mem hc]
  rw [Batches.mapCopies, hb, List.map_cons, hrest, List.map_id, hkept _ fun c hc => h c (List.mem_append_left _ hc), hgone]

theorem batchCompletions : BatchCompletions := by
  refine ⟨fun s t grp hg hnum => ⟨fun n cs rest hflag hsealed hothers hcopies => ?_, fun hflag hcopies => ?_⟩,
    fun s t o cs hnum hfind hkind hcopies => ?_⟩
  case refine_1 =>
    have hbatch := performBatch_performed hg (chosen := fun c => cs.any c.same) (t := t)
      (by rw [hsealed, filter_oldest hothers]; exact hcopies)
    rw [mapCopies_oldest hsealed hothers] at hbatch
    simp only [exec_batchComplete, execBatchComplete, hnum, hg, hflag, hsealed, hbatch, ne_eq, not_true_eq_false, Bool.false_eq_true, if_false,
      State.group?_setGroup, State.setGroup_setGroup]
  case refine_2 =>
    have hbatch := performBatch_performed hg hcopies
    simp only [exec_batchComplete, execBatchComplete, hnum, hg, hflag, ne_eq, not_true_eq_false, if_false, if_true]
    exact congrArg _ hbatch
  case refine_3 =>
    simp only [exec_batchComplete, execBatchComplete, hnum, hfind, hkind, hcopies, ne_eq, not_false_eq_true, if_true, List.isEmpty_nil]

/-! ### The engine events -/

/-- The operation that an event names is the one that it completes. -/
theorem eventOp_of_concerns {s : State} {o : EngineOp} (h : s.concerns o) {p : OpKind → Bool} (hp : p o.kind = true) :
    s.eventOp p = some o := by
  obtain ⟨hmem, hid, hparked, honly⟩ := h
  have hthis : (o.id == s.arg.num && !o.parked && p o.kind) = true := by simp [hid, hparked, hp]
  obtain ⟨x, hx⟩ := Option.isSome_iff_exists.mp
    (List.find?_isSome.mpr ⟨o, hmem, hthis⟩ : (s.ops.find? fun o => o.id == s.arg.num && !o.parked && p o.kind).isSome)
  have hprop := List.find?_some hx
  simp only [Bool.and_eq_true, beq_iff_eq] at hprop
  rw [State.eventOp, hx, honly x (List.mem_of_find?_eq_some hx) hprop.1.1]

theorem statusWord_eq (outcome kind deliv detail : Nat) :
    statusWord outcome kind deliv detail =
      dwordOf (outcome * 2 ^ 62 + kind * 2 ^ 56 + deliv * 2 ^ 48 + detail % 2 ^ 48 : Nat) := (BitVec.ofInt_natCast ..).symm

/-- The three ends of an operation that is performed (R241). -/
theorem engineEnds_of_completeOp {i : Instr} {s : State} {o : EngineOp} {r : Except EngineStop (State × DWord)}
    (h : exec i s = completeOp s o r) : EngineEnds i s o r := by
  refine ⟨fun t x hr => ?_, fun k code why a hr => ?_, fun a t hr => ?_⟩
  · rw [h, hr]
    rfl
  · rw [h, hr]
    rfl
  · rw [h, hr, completeOp, statusWord_eq, Nat.one_mul, Nat.one_mul, Nat.zero_mul, Nat.add_zero]

theorem bxtComplete_ends {s : State} {o : EngineOp} (h : s.concerns o) (hk : o.kind = .bxt) :
    EngineEnds .bxtComplete s o (if (Layout.ofRecord o.desc).dir then performBxtOut s o (Layout.ofRecord o.desc)
      else performBxtIn s o (Layout.ofRecord o.desc)) :=
  engineEnds_of_completeOp (by rw [exec_bxtComplete, execBxtComplete, eventOp_of_concerns h (by simp [hk])])

theorem gathComplete_ends {s t u : State} {o : EngineOp} {outside : List Bool} (h : s.concerns o) (hk : o.kind = .gath)
    (hentries : (Gather.ofRecord o.desc).entries s o 0 (Gather.ofRecord o.desc).count = .ok (t, outside))
    (hmap : if (Gather.ofRecord o.desc).oormap = 0 then u = t
      else engineWrite t o (Gather.ofRecord o.desc).oormap (oorBytes (Gather.ofRecord o.desc).mapBytes outside) = .ok u) :
    exec .gathComplete s = .next (u.finishOp o (dwordOf ((outside.filter id).length % 2 ^ 48 : Nat))) := by
  have hstatus : statusWord 0 0 0 (outside.filter id).length = dwordOf ((outside.filter id).length % 2 ^ 48 : Nat) := by
    rw [statusWord_eq, Nat.zero_mul, Nat.zero_mul, Nat.zero_mul, Nat.zero_add]
  rw [exec_gathComplete, execGathComplete, eventOp_of_concerns h (by simp [hk])]
  dsimp only
  rw [hentries, Except.ok_bind']
  split at hmap
  next hz =>
    rw [if_pos hz, ← hmap, ← hstatus]
    rfl
  next hz =>
    rw [if_neg hz, hmap, ← hstatus]
    rfl

theorem mxmulComplete_ends {s : State} {o : EngineOp} {ntt : Bool} (h : s.concerns o) (hk : o.kind = .mxmul ntt) :
    let m := Mul.ofRecord o.desc
    (∀ x, m.refusal ntt (s.backed o) = some x → exec .mxmulComplete s = .next (s.finishOp o x)) ∧
    (m.refusal ntt (s.backed o) = none → (if ntt then s.unitTurn o else s.passesDone o) = true →
      EngineEnds .mxmulComplete s o (performProduct s o m ntt)) ∧
    (m.refusal ntt (s.backed o) = none → (if ntt then s.unitTurn o else s.passesDone o) = false →
      exec .mxmulComplete s = .next s) := by
  have hunit : o.kind.onUnit = ntt := by rw [hk, OpKind.onUnit]
  refine ⟨fun x hx => ?_, fun hr hdone => engineEnds_of_completeOp ?_, fun hr hdone => ?_⟩
  all_goals rw [exec_mxmulComplete, execMxmulComplete, eventOp_of_concerns h (by simp [hk])]
  · simp only [hunit, hx]
  · simp only [hunit, hr, hdone, if_true]
  · simp only [hunit, hr, hdone, Bool.false_eq_true, if_false]

theorem nttComplete_ends {s : State} {o : EngineOp} {inverse : Bool} {p : Fin 4} (h : s.concerns o) (hk : o.kind = .ntt inverse p)
    (hturn : s.unitTurn o = true) : EngineEnds .nttComplete s o (performNtt s o inverse p) := by
  refine engineEnds_of_completeOp ?_
  rw [exec_nttComplete, execNttComplete, eventOp_of_concerns h (by simp [hk])]
  simp only [hk, hturn, if_true]

theorem stowComplete_ends {s : State} {o : EngineOp} {grp : Group} (h : s.concerns o) (hk : o.kind = .stow) (hturn : s.stowTurn o = true)
    (hg : s.group? o.g = some grp) :
    (∀ t x, s.portRoom o.g (grp.waiting .stow) o.stowDest = true → performStow s o = .ok (t, x) →
      exec .stowComplete s = .next ((((t.finishOp o 0).observe o.g fun k => k == o.mark).writeFor o.g (grp.waiting .stow) o.stowDest
        x).complete o.g (grp.waiting .stow))) ∧
    (s.portRoom o.g (grp.waiting .stow) o.stowDest = false →
      exec .stowComplete s = .next (s.awaitRoom o.g (grp.waiting .stow) o.stowDest)) := by
  rw [exec_stowComplete, execStowComplete, eventOp_of_concerns h (by simp [hk])]
  simp only [hturn, hg, Bool.not_true, Bool.false_eq_true, if_false]
  refine ⟨fun t x hroom hstow => ?_, fun hroom => ?_⟩
  · simp only [hroom, hstow, Bool.not_true, Bool.false_eq_true, if_false]
  · simp only [hroom, Bool.not_false, if_true]

end Sys2Proof.Machine
end

section
/-! PROOFS. The coordinates of a transfer: positions mapped at the edges, the order of a box, and an element's address (R116, R243). -/

namespace Sys2Proof.Machine

open Sys2Proof

/-! ### Edges -/

theorem edgeMap_inside {edge n : Nat} {mb : Bool} {x : Int} (h0 : 0 ≤ x) (h1 : x < n) : edgeMap edge mb n x = some x.toNat :=
  if_pos ⟨h0, h1⟩

theorem edgeMap_zero {n : Nat} {mb : Bool} {x : Int} (h : x < 0 ∨ (n : Int) ≤ x) : edgeMap 0 mb n x = none := by
  rw [edgeMap, if_neg (by omega), if_pos rfl]

/-- A coordinate folded back at `n` positions: what lies beyond them is counted back from `top`. -/
def foldBack (n : Nat) (top y : Int) : Nat := if y < n then y.toNat else (top - y).toNat

/-- MIRROR about the edges, with a period of twice the extent. -/
theorem edgeMap_aboutEdges {n : Nat} (hn : 1 ≤ n) (x : Int) : edgeMap 1 true n x = some (foldBack n (2 * n - 1) (x % (2 * n))) := by
  have hlow : 0 ≤ x % (2 * n : Int) := Int.emod_nonneg _ (by omega)
  by_cases hin : 0 ≤ x ∧ x < n
  · rw [edgeMap_inside hin.1 hin.2, Int.emod_eq_of_lt hin.1 (by omega), foldBack, if_pos hin.2]
  · rw [edgeMap, if_neg hin, if_neg (by decide), if_pos rfl, foldBack]
    refine congrArg some ?_
    split <;> split <;> omega

/-- MIRROR about the last positions, which repeat only at the period's ends. -/
theorem edgeMap_aboutPositions {n : Nat} (hn : 2 ≤ n) (x : Int) :
    edgeMap 1 false n x = some (foldBack n (2 * n - 2) (x % (2 * n - 2))) := by
  have hlow : 0 ≤ x % (2 * n - 2 : Int) := Int.emod_nonneg _ (by omega)
  by_cases hin : 0 ≤ x ∧ x < n
  · rw [edgeMap_inside hin.1 hin.2, Int.emod_eq_of_lt hin.1 (by omega), foldBack, if_pos hin.2]
  · rw [edgeMap, if_neg hin, if_neg (by decide), if_neg (by decide), if_neg (by omega), foldBack]
    refine congrArg some ?_
    split <;> split <;> omega

/-- An extent of one position is read everywhere. -/
theorem edgeMap_single (x : Int) : edgeMap 1 false 1 x = some 0 := by
  rw [edgeMap]
  split
  · congr 1
    omega
  · simp

theorem edgeMap_reflect_edges {n : Nat} (hn : 1 ≤ n) (x : Int) : edgeMap 1 true n (-1 - x) = edgeMap 1 true n x := by
  have hp : (0 : Int) < 2 * n := by omega
  have hlow := Int.emod_nonneg x hp.ne'
  have hhigh := Int.emod_lt_of_pos x hp
  have hy : (-1 - x) % (2 * n : Int) = 2 * n - 1 - x % (2 * n) := by
    rw [← Int.sub_emod_emod, ← Int.add_emod_right, Int.emod_eq_of_lt (by omega) (by omega)]
    omega
  rw [edgeMap_aboutEdges hn, edgeMap_aboutEdges hn, hy]
  unfold foldBack
  congr 1
  split <;> split <;> omega

theorem edgeMap_reflect_positions {n : Nat} (hn : 1 ≤ n) (x : Int) : edgeMap 1 false n (-x) = edgeMap 1 false n x := by
  obtain rfl | hn2 : n = 1 ∨ 2 ≤ n := by omega
  · rw [edgeMap_single, edgeMap_single]
  have hp : (0 : Int) < 2 * n - 2 := by omega
  have hlow := Int.emod_nonneg x hp.ne'
  have hhigh := Int.emod_lt_of_pos x hp
  rw [edgeMap_aboutPositions hn2, edgeMap_aboutPositions hn2, ← Int.zero_sub, ← Int.sub_emod_emod]
  unfold foldBack
  congr 1
  by_cases hz : x % (2 * n - 2 : Int) = 0
  · rw [hz]
    rfl
  · rw [← Int.add_emod_right, Int.emod_eq_of_lt (by omega) (by omega)]
    split <;> split <;> omega

theorem edgeMap_period_edges {n : Nat} (hn : 1 ≤ n) (x : Int) : edgeMap 1 true n (x + 2 * n) = edgeMap 1 true n x := by
  rw [edgeMap_aboutEdges hn, edgeMap_aboutEdges hn, Int.add_emod_right]

theorem edgeMap_period_positions {n : Nat} (hn : 1 ≤ n) (x : Int) : edgeMap 1 false n (x + (2 * n - 2)) = edgeMap 1 false n x := by
  obtain rfl | hn2 : n = 1 ∨ 2 ≤ n := by omega
  · rw [edgeMap_single, edgeMap_single]
  · rw [edgeMap_aboutPositions hn2, edgeMap_aboutPositions hn2, Int.add_emod_right]

theorem edgeMap_mirror_lt {n : Nat} (hn : 1 ≤ n) (mb : Bool) (x : Int) : ∃ y, y < n ∧ edgeMap 1 mb n x = some y := by
  cases mb with
  | true =>
    have hlow := Int.emod_nonneg x (show (2 * n : Int) ≠ 0 by omega)
    have hhigh := Int.emod_lt_of_pos x (show (0 : Int) < 2 * n by omega)
    refine ⟨_, ?_, edgeMap_aboutEdges hn x⟩
    unfold foldBack
    split <;> omega
  | false =>
    obtain rfl | hn2 : n = 1 ∨ 2 ≤ n := by omega
    · exact ⟨0, Nat.one_pos, edgeMap_single x⟩
    · have hlow := Int.emod_nonneg x (show (2 * n - 2 : Int) ≠ 0 by omega)
      have hhigh := Int.emod_lt_of_pos x (show (0 : Int) < 2 * n - 2 by omega)
      refine ⟨_, ?_, edgeMap_aboutPositions hn2 x⟩
      unfold foldBack
      split <;> omega

/-! ### The order of a box -/

/-- Every `n` elements of the list are made of one of another list. -/
theorem getElem?_flatMap_range {α β : Type} {n : Nat} (hn : 0 < n) (f : α → Nat → β) (l : List α) (k : Nat) :
    (l.flatMap fun r => (List.range n).map (f r))[k]? = l[k / n]?.map fun r => f r (k % n) := by
  induction l generalizing k with
  | nil => rfl
  | cons r l ih =>
    rw [List.flatMap_cons]
    by_cases hk : k < n
    · rw [List.getElem?_append_left (by simpa using hk), Nat.div_eq_of_lt hk, Nat.mod_eq_of_lt hk]
      simp [hk]
    · have hle : n ≤ k := Nat.le_of_not_lt hk
      obtain ⟨j, rfl⟩ := Nat.exists_eq_add_of_le' hle
      rw [List.getElem?_append_right (by simp), List.length_map, List.length_range, Nat.add_sub_cancel, ih, Nat.add_div_right _ hn,
        Nat.add_mod_right, List.getElem?_cons_succ]

theorem length_boxPositions (dims : List Dim) : (boxPositions dims).length = (dims.map Dim.box).prod := by
  induction dims with
  | nil => rfl
  | cons d dims ih => simp [boxPositions, List.length_flatMap, ih, Nat.mul_comm]

/-- Position `k` of a box: dimension 0 is innermost. -/
theorem getElem?_boxPositions {dims : List Dim} {k : Nat} (hk : k < (dims.map Dim.box).prod) :
    (boxPositions dims)[k]? =
      some (dims.zipIdx.map fun e => e.1.start + ((k / ((dims.take e.2).map Dim.box).prod % e.1.box : Nat) : Int)) := by
  induction dims generalizing k with
  | nil =>
    have hzero : k = 0 := by simpa using hk
    subst hzero
    rfl
  | cons d dims ih =>
    rw [List.map_cons, List.prod_cons] at hk
    have hbox : 0 < d.box := Nat.pos_of_mul_pos_right (Nat.zero_lt_of_lt hk)
    rw [boxPositions, getElem?_flatMap_range hbox (fun r i => (d.start + (i : Int)) :: r), ih (Nat.div_lt_of_lt_mul hk), Option.map_some,
      List.zipIdx_cons, List.map_cons, Nat.zero_add, List.zipIdx_succ, List.map_map]
    simp [Function.comp_def, Nat.div_div_eq_div_mul]

/-! ### Addresses -/

theorem ofNat_wrap (x : Int) : (BitVec.ofNat 64 (wrap 64 x) : DWord) = BitVec.ofInt 64 x := by
  rw [← BitVec.ofInt_natCast, wrap_cast]
  apply BitVec.eq_of_toInt_eq
  rw [BitVec.toInt_ofInt, BitVec.toInt_ofInt, Int.emod_bmod]

theorem foldl_add_eq_sum {α : Type} (f : α → Int) (l : List α) (a : Int) : l.foldl (fun a e => a + f e) a = a + (l.map f).sum := by
  induction l generalizing a with
  | nil => simp
  | cons e l ih => rw [List.foldl_cons, ih, List.map_cons, List.sum_cons, Int.add_assoc]

theorem Layout.address_eq {l : Layout} {d : Dim} {rest : List Dim} (hd : l.dims = d :: rest) (x : Nat) (row : List Nat) :
    (BitVec.ofNat 64 (l.address x row) : DWord) = BitVec.ofInt 64 (l.mbase + ((rest.zip row).map fun e => e.1.stride * (e.2 : Int)).sum +
      (if l.nibbles then ((x / 2 : Nat) : Int) else d.stride * (x : Int))) := by
  simp only [Layout.address, Layout.dim0, hd, List.drop_succ_cons, List.drop_zero, List.headD_cons, ofNat_wrap]
  rw [foldl_add_eq_sum (fun e : Dim × Nat => e.1.stride * (e.2 : Int)), Int.zero_add]

end Sys2Proof.Machine
end

section
/-! PROOFS. What a transfer reads into local store and writes out of it, element by element (R116, R243). -/

namespace Sys2Proof.Machine

open Sys2Proof

/-! ### Elements read -/

/-- What stands at a position of the box that is read at some coordinates: the element there, or zero where the position is filled. -/
def Layout.CellHolds (l : Layout) (o : EngineOp) : Option (List Nat) → Nat → Prop
  | some (c :: row), e => ∃ (v w : State) (bs : List Byte), engineRead v o (l.address c row) l.elemBytes = .ok (w, bs) ∧
      e = if l.nibbles then ofBytes bs / 16 ^ (c % 2) % 16 else ofBytes bs
  | some [], e => e = 0
  | none, e => e = 0

/-- The coordinates read at a position: those of its row after that of its column. -/
theorem mapAll_cons (f : Dim → Int → Option Nat) (d : Dim) (rest : List Dim) (x : Int) (p : List Int) :
    mapAll f (d :: rest) (x :: p) = (mapAll f rest p).bind fun row => (f d x).map (· :: row) := by
  rw [mapAll]
  cases f d x <;> cases mapAll f rest p <;> rfl

/-- What a sequence that delivers has delivered before. -/
theorem exists_of_bind_ok {ε α β : Type} {x : Except ε α} {f : α → Except ε β} {b : β} (h : (x >>= f) = .ok b) :
    ∃ a, x = .ok a ∧ f a = .ok b := by
  cases x with
  | error e => cases h
  | ok a => exact ⟨a, rfl, h⟩

theorem fetchRow_holds {s t : State} {o : EngineOp} {l : Layout} {row : List Nat} {cols : List (Option Nat)} {xs : List Nat}
    (h : fetchRow s o l row cols = .ok (t, xs)) : List.Forall₂ (fun c e => l.CellHolds o (c.map (· :: row)) e) cols xs := by
  induction cols generalizing s xs with
  | nil =>
    cases h
    exact .nil
  | cons c cols ih =>
    cases c with
    | none =>
      obtain ⟨⟨u, ys⟩, hrest, hend⟩ := exists_of_bind_ok h
      cases hend
      exact .cons rfl (ih hrest)
    | some x =>
      obtain ⟨⟨v, bs⟩, hread, hnext⟩ := exists_of_bind_ok h
      obtain ⟨⟨u, ys⟩, hrest, hend⟩ := exists_of_bind_ok hnext
      cases hend
      exact .cons ⟨s, v, bs, hread, rfl⟩ (ih hrest)

theorem length_columns (l : Layout) : l.columns.length = l.dim0.box := by rw [Layout.columns, List.length_map, List.length_range]

/-- The rows fetched without line buffers. -/
theorem fetchRows_holds {s t : State} {o : EngineOp} {l : Layout} {coords : List (Option (List Nat))} {rows : List (List Nat)}
    (h : fetchRows s o l [] coords = .ok (t, rows)) :
    List.Forall₂ (fun r xs => List.Forall₂ (fun c e => l.CellHolds o (r.bind fun row => c.map (· :: row)) e) l.columns xs) coords rows := by
  induction coords generalizing s rows with
  | nil =>
    cases h
    exact .nil
  | cons r coords ih =>
    cases r with
    | none =>
      obtain ⟨⟨u, rest⟩, hrest, hend⟩ := exists_of_bind_ok h
      cases hend
      refine .cons ?_ (ih hrest)
      rw [List.forall₂_iff_get]
      exact ⟨by rw [length_columns, List.length_replicate], fun i _ _ => List.getElem_replicate ..⟩
    | some row =>
      obtain ⟨⟨v, xs⟩, hrow, hnext⟩ := exists_of_bind_ok h
      obtain ⟨⟨u, rest⟩, hrest, hend⟩ := exists_of_bind_ok hnext
      cases hend
      exact .cons (fetchRow_holds hrow) (ih hrest)

/-- The rows of a box one after another are its elements in box order. -/
theorem flatten_holds {l : Layout} {o : EngineOp} {d : Dim} {rest : List Dim} (hd : l.dims = d :: rest) {rows : List (List Nat)}
    (h : List.Forall₂ (fun r xs => List.Forall₂ (fun c e => l.CellHolds o (r.bind fun row => c.map (· :: row)) e) l.columns xs)
      l.rowCoords rows) :
    List.Forall₂ (fun p e => l.CellHolds o (mapAll l.mapIn l.dims p) e) (boxPositions l.dims) rows.flatten := by
  simp only [Layout.rowCoords, Layout.columns, Layout.dim0, hd, List.drop_succ_cons, List.drop_zero, List.headD_cons,
    List.forall₂_map_left_iff] at h
  rw [hd, boxPositions, List.flatMap_def]
  refine List.rel_flatten (List.forall₂_map_left_iff.mpr (h.imp fun r xs hrow => List.forall₂_map_left_iff.mpr (hrow.imp fun i e he => ?_)))
  rw [mapAll_cons]
  exact he

/-! ### Elements packed -/

theorem Layout.pack_append {l : Layout} {xs : List Nat} (h : l.nibbles = true → xs.length % 2 = 0) (ys : List Nat) :
    l.pack (xs ++ ys) = l.pack xs ++ l.pack ys := by
  unfold Layout.pack
  split
  next hn =>
    obtain ⟨m, hm⟩ := Nat.dvd_of_mod_eq_zero (h hn)
    have hlen : (xs ++ ys).length / 2 = xs.length / 2 + ys.length / 2 := by rw [List.length_append]; omega
    rw [hlen, List.range_add, List.map_append, List.map_map]
    refine congrArg₂ (· ++ ·) (List.map_congr_left fun i hi => ?_) (List.map_congr_left fun i _ => ?_)
    · have hlt := List.mem_range.mp hi
      rw [List.getD_append _ _ _ _ (by omega), List.getD_append _ _ _ _ (by omega)]
    · simp only [Function.comp_apply]
      rw [List.getD_append_right _ _ _ _ (by omega), List.getD_append_right _ _ _ _ (by omega),
        show 2 * (xs.length / 2 + i) - xs.length = 2 * i by omega, show 2 * (xs.length / 2 + i) + 1 - xs.length = 2 * i + 1 by omega]
  next => exact List.flatMap_append

theorem Layout.pack_flatten {l : Layout} {rows : List (List Nat)} (h : l.nibbles = true → ∀ xs ∈ rows, xs.length % 2 = 0) :
    l.pack rows.flatten = rows.flatMap l.pack := by
  induction rows with
  | nil => cases hn : l.nibbles <;> simp [Layout.pack, hn]
  | cons xs rows ih =>
    rw [List.flatten_cons, Layout.pack_append fun hn => h hn xs (List.mem_cons_self ..),
      ih fun hn ys hy => h hn ys (List.mem_cons_of_mem _ hy), List.flatMap_cons]

/-- A transfer of one box into its own core, without planes and line buffers: its rows are fetched, packed and stored. -/
theorem performBxtIn_plain {s t : State} {o : EngineOp} {l : Layout} {x : DWord} (hplane : l.plane = false) (hlb : l.lb = false)
    (hmcast : l.mcast = 0) (h : performBxtIn s o l = .ok (t, x)) :
    ∃ u rows, fetchRows s o l [] l.rowCoords = .ok (u, rows) ∧ x = statusWord 0 0 (2 ^ (l.lsaddr / 2 ^ 18)) 0 ∧
      t = match u.opTeam o with
        | some team => localWrite u o team l.lsaddr (rows.flatMap l.pack)
        | none => u := by
  have hscales : l.scaleAddrs = [] := by rw [Layout.scaleAddrs, hplane]; rfl
  simp only [performBxtIn, hlb, hplane, hmcast, hscales, fetchScales, Bool.false_eq_true, if_false, if_true, Except.ok_bind'] at h
  obtain ⟨⟨u, rows⟩, hrows, hend⟩ := exists_of_bind_ok h
  cases hend
  exact ⟨u, rows, hrows, rfl, rfl⟩

theorem performBxtIn_holds {s t : State} {o : EngineOp} {l : Layout} {x : DWord} (hplane : l.plane = false) (hlb : l.lb = false)
    (hmcast : l.mcast = 0) (hdims : l.dims ≠ []) (heven : l.nibbles = true → l.dim0.box % 2 = 0) (h : performBxtIn s o l = .ok (t, x)) :
    x = dwordOf (2 ^ (l.lsaddr / 2 ^ 18) * 2 ^ 48 : Nat) ∧
    ∃ (u : State) (elems : List Nat), t = (match u.opTeam o with
        | some team => localWrite u o team l.lsaddr (l.pack elems)
        | none => u) ∧
      List.Forall₂ (fun p e => l.CellHolds o (mapAll l.mapIn l.dims p) e) (boxPositions l.dims) elems := by
  obtain ⟨d, rest, hd⟩ := List.exists_cons_of_ne_nil hdims
  obtain ⟨u, rows, hrows, hx, ht⟩ := performBxtIn_plain hplane hlb hmcast h
  have hholds := fetchRows_holds hrows
  have hlen : ∀ xs ∈ rows, xs.length = l.dim0.box := by
    intro xs hxs
    obtain ⟨i, hi, rfl⟩ := List.getElem_of_mem hxs
    have hrow := hholds.get (i := i) (by rw [hholds.length_eq]; exact hi) hi
    exact hrow.length_eq.symm.trans (length_columns l)
  refine ⟨?_, u, rows.flatten, ?_, flatten_holds hd hholds⟩
  · rw [hx, statusWord_eq]
    simp
  · rw [ht, Layout.pack_flatten fun hn xs hxs => by rw [hlen xs hxs]; exact heven hn]

/-! ### Elements written -/

theorem inExtents_eq_all (dims : List Dim) (p : List Int) :
    inExtents dims p = (dims.zip p).all fun e => decide (0 ≤ e.2 ∧ e.2 < e.1.extent) := by
  induction dims generalizing p with
  | nil => rfl
  | cons d dims ih =>
    cases p with
    | nil => rfl
    | cons x p => rw [inExtents, List.zip_cons_cons, List.all_cons, ih]

/-- The elements inside the extents are written in order, the others skipped. -/
theorem putElements_eq_foldlM (s : State) (o : EngineOp) (l : Layout) (es : List (List Int × Nat)) :
    putElements s o l es = (es.filter fun e => inExtents l.dims e.1).foldlM
      (fun s e => putElement s o l (e.1.headD 0).toNat ((e.1.drop 1).map Int.toNat) e.2) s := by
  induction es generalizing s with
  | nil => rfl
  | cons e es ih =>
    rw [putElements, List.filter_cons]
    split
    · rw [List.foldlM_cons]
      exact bind_congr fun t => ih t
    · exact ih s

theorem getD_flatMap_nibbles (bs : List Byte) (k : Nat) :
    (bs.flatMap fun b => [b.toNat % 16, b.toNat / 16]).getD k 0 = (bs.getD (k / 2) 0).toNat / 16 ^ (k % 2) % 16 := by
  induction bs generalizing k with
  | nil => simp
  | cons b bs ih =>
    rw [List.flatMap_cons]
    match k with
    | 0 => simp
    | 1 =>
      have hb := b.isLt
      simp
      omega
    | k + 2 =>
      rw [Nat.add_mod_right, Nat.add_div_right _ (by decide), List.getD_cons_succ, ← ih]
      rfl

theorem length_flatMap_nibbles (bs : List Byte) : (bs.flatMap fun b => [b.toNat % 16, b.toNat / 16]).length = 2 * bs.length := by
  rw [List.length_flatMap]
  simp [Nat.mul_comm]

/-- The bits of an element are a nibble or whole bytes. -/
theorem Layout.width_eq (l : Layout) : l.width = if l.nibbles then 4 else 8 * l.elemBytes := by
  unfold Layout.elemBytes Layout.nibbles Layout.width
  split <;> simp_all

theorem Layout.elemBytes_pos (l : Layout) : 0 < l.elemBytes := by
  unfold Layout.elemBytes Layout.width
  split <;> decide

/-- Element `k` of packed bytes. -/
def Layout.elemAt (l : Layout) (bs : List Byte) (k : Nat) : Nat :=
  if l.nibbles then (bs.getD (k / 2) 0).toNat / 16 ^ (k % 2) % 16 else ofBytes ((bs.drop (l.elemBytes * k)).take l.elemBytes)

/-- The bytes of so many elements. -/
theorem Layout.length_packed {l : Layout} {bs : List Byte} {n : Nat} (hlen : bs.length = n * l.width / 8)
    (heven : l.nibbles = true → n % 2 = 0) : if l.nibbles then n = 2 * bs.length else bs.length = l.elemBytes * n := by
  rw [l.width_eq] at hlen
  split
  next hn =>
    rw [if_pos hn] at hlen
    have := heven hn
    omega
  next hn =>
    rw [if_neg hn, ← Nat.mul_assoc, Nat.mul_comm n, Nat.mul_assoc, Nat.mul_div_cancel_left _ (by decide)] at hlen
    rw [hlen, Nat.mul_comm]

theorem Layout.unpack_eq {l : Layout} {bs : List Byte} {n : Nat} (hlen : bs.length = n * l.width / 8)
    (heven : l.nibbles = true → n % 2 = 0) : l.unpack bs = (List.range n).map (l.elemAt bs) := by
  have hpacked := l.length_packed hlen heven
  unfold Layout.unpack
  split at hpacked
  next hn =>
    rw [if_pos hn]
    apply List.ext_getElem
    · rw [length_flatMap_nibbles, List.length_map, List.length_range, hpacked]
    · intro k h1 h2
      rw [List.getElem_eq_getD 0, getD_flatMap_nibbles, List.getElem_map, List.getElem_range, Layout.elemAt, if_pos hn]
  next hn =>
    rw [if_neg hn, hpacked, Nat.mul_div_cancel_left _ l.elemBytes_pos]
    refine List.map_congr_left fun k _ => ?_
    rw [Layout.elemAt, if_neg hn]

theorem toBytes_ofBytes (bs : List Byte) : toBytes bs.length (ofBytes bs) = bs := by
  induction bs with
  | nil => rfl
  | cons b bs ih =>
    have hb := b.isLt
    rw [List.length_cons, toBytes, ofBytes, show (b.toNat + 256 * ofBytes bs) / 256 = ofBytes bs by omega, ih]
    refine congrArg (· :: bs) (BitVec.eq_of_toNat_eq ?_)
    rw [BitVec.toNat_ofNat]
    omega

/-- A whole element's bytes are those that it was packed from. -/
theorem Layout.toBytes_elemAt {l : Layout} {bs : List Byte} {n k : Nat} (hn : l.nibbles = false) (hlen : bs.length = l.elemBytes * n)
    (hk : k < n) : toBytes l.elemBytes (l.elemAt bs k) = (bs.drop (l.elemBytes * k)).take l.elemBytes := by
  have hfit : l.elemBytes * k + l.elemBytes ≤ bs.length := by
    rw [hlen, ← Nat.mul_succ]
    exact Nat.mul_le_mul_left _ hk
  have hchunk : ((bs.drop (l.elemBytes * k)).take l.elemBytes).length = l.elemBytes := by
    rw [List.length_take, List.length_drop]
    omega
  have hbytes := toBytes_ofBytes ((bs.drop (l.elemBytes * k)).take l.elemBytes)
  rw [hchunk] at hbytes
  rw [Layout.elemAt, hn, if_neg Bool.false_ne_true]
  exact hbytes

theorem foldlM_congr {ε σ α : Type} {f g : σ → α → Except ε σ} {l : List α} (h : ∀ s, ∀ a ∈ l, f s a = g s a) (s : σ) :
    l.foldlM f s = l.foldlM g s := by
  induction l generalizing s with
  | nil => rfl
  | cons a l ih =>
    rw [List.foldlM_cons, List.foldlM_cons, h s a (List.mem_cons_self ..)]
    exact bind_congr fun t => ih (fun u b hb => h u b (List.mem_cons_of_mem _ hb)) t

/-- A box of nibbles has an even number of elements (R243). -/
theorem even_boxPositions {l : Layout} (hdims : l.dims ≠ []) (heven : l.nibbles = true → l.dim0.box % 2 = 0) (hn : l.nibbles = true) :
    (boxPositions l.dims).length % 2 = 0 := by
  obtain ⟨d, rest, hd⟩ := List.exists_cons_of_ne_nil hdims
  have hbox := heven hn
  rw [Layout.dim0, hd, List.headD_cons] at hbox
  rw [hd, length_boxPositions, List.map_cons, List.prod_cons, Nat.mul_mod, hbox, Nat.zero_mul, Nat.zero_mod]

/-- A transfer out of local store writes each element of the dense box at its position (R243). -/
theorem performBxtOut_eq {s : State} {o : EngineOp} {l : Layout} {team : Team} {bs : List Byte} (ht : s.team? o.team = some team)
    (hcount : l.nibbles = true → (boxPositions l.dims).length % 2 = 0) (hread : localRead s o team l.lsaddr l.size = .ok bs)
    (hlen : bs.length = (boxPositions l.dims).length * l.width / 8) :
    performBxtOut s o l = (((boxPositions l.dims).zipIdx.filter fun e => inExtents l.dims e.1).foldlM
      (fun u e => putElement u o l (e.1.headD 0).toNat ((e.1.drop 1).map Int.toNat) (l.elemAt bs e.2)) s).map fun t => (t, 0) := by
  have hzip : (boxPositions l.dims).zip (l.unpack bs) = (boxPositions l.dims).zipIdx.map fun e => (e.1, l.elemAt bs e.2) := by
    rw [Layout.unpack_eq hlen hcount, List.zip_map_right, List.zipIdx_eq_zip_range', List.range_eq_range']
    rfl
  rw [performBxtOut, State.opTeam, ht]
  dsimp only
  rw [hread, Except.ok_bind', putElements_eq_foldlM, hzip, List.filter_map, List.foldlM_map]
  rfl

/-- An element of packed bytes written: a nibble beside its byte's other half, or the bytes themselves. -/
theorem putElement_elemAt {l : Layout} {bs : List Byte} {n k : Nat} (hlen : bs.length = n * l.width / 8)
    (heven : l.nibbles = true → n % 2 = 0) (hk : k < n) (u : State) (o : EngineOp) (x : Nat) (row : List Nat) :
    putElement u o l x row (l.elemAt bs k) =
      if l.nibbles then do
        let (v, old) ← engineReadNow u o (l.address x row) 1
        let half := (bs.getD (k / 2) 0).toNat / 16 ^ (k % 2) % 16
        let b := ofBytes old
        engineWrite v o (l.address x row) [BitVec.ofNat 8 (if x % 2 = 0 then b / 16 * 16 + half else b % 16 + half * 16)]
      else engineWrite u o (l.address x row) ((bs.drop (l.elemBytes * k)).take l.elemBytes) := by
  have hpacked := l.length_packed hlen heven
  cases hn : l.nibbles with
  | true =>
    simp only [putElement, Layout.elemAt, hn, if_true, Nat.mod_mod]
  | false =>
    rw [hn, if_neg Bool.false_ne_true] at hpacked
    simp only [putElement, hn, Bool.false_eq_true, if_false, Layout.toBytes_elemAt hn hpacked hk]

theorem ok_and_eq_iff {ε : Type} {r : Except ε State} {t : State} {x c : DWord} :
    r = .ok t ∧ x = c ↔ (r.map fun t => (t, c)) = .ok (t, x) := by
  constructor
  · rintro ⟨rfl, rfl⟩
    rfl
  · intro h
    cases r with
    | error e => cases h
    | ok u =>
      cases h
      exact ⟨rfl, rfl⟩

/-! ### The statement -/

theorem boxTransfers : BoxTransfers := by
  refine ⟨fun mb n x hn => ?_, fun dims k hk => ?_, fun l d rest x row hd _ => ?_, fun s t o l x hplane hlb hmcast hdims heven h => ?_,
    fun s t o l team bs x ht hdims heven hread hlen => ?_⟩
  case refine_1 =>
    exact ⟨fun h0 h1 _ => edgeMap_inside h0 h1, edgeMap_zero, edgeMap_period_edges hn x, edgeMap_reflect_edges hn x,
      edgeMap_period_positions hn x, edgeMap_reflect_positions hn x, edgeMap_mirror_lt hn mb x⟩
  case refine_2 => exact ⟨length_boxPositions dims, getElem?_boxPositions hk⟩
  case refine_3 => exact Layout.address_eq hd x row
  case refine_4 =>
    obtain ⟨hx, u, elems, ht, hholds⟩ := performBxtIn_holds hplane hlb hmcast hdims heven h
    refine ⟨hx, u, elems, hholds.length_eq.symm, ht, fun k p e hp he => ?_⟩
    obtain ⟨hkp, rfl⟩ := List.getElem?_eq_some_iff.mp hp
    obtain ⟨hke, rfl⟩ := List.getElem?_eq_some_iff.mp he
    have hcell := hholds.get hkp hke
    rw [List.get_eq_getElem, List.get_eq_getElem] at hcell
    revert hcell
    generalize mapAll l.mapIn l.dims (boxPositions l.dims)[k] = c
    intro hcell
    match c, hcell with
    | some (c :: row), hcell => exact hcell
    | some [], hcell => exact hcell
    | none, hcell => exact hcell
  case refine_5 =>
    have hcount := even_boxPositions hdims heven
    have hwrites := foldlM_congr (l := (boxPositions l.dims).zipIdx.filter fun e => inExtents l.dims e.1) (fun u e he =>
      putElement_elemAt (k := e.2) hlen hcount (List.snd_lt_of_mem_zipIdx (List.mem_of_mem_filter he)) u o (e.1.headD 0).toNat
        ((e.1.drop 1).map Int.toNat)) s
    dsimp only
    rw [performBxtOut_eq ht hcount hread hlen, hwrites]
    simp only [inExtents_eq_all]
    exact ok_and_eq_iff

theorem engineCompletions : EngineCompletions := by
  refine ⟨boxTransfers, fun s o h hk => bxtComplete_ends h hk, fun s t u o outside h hk => ?_, fun s o ntt h hk => mxmulComplete_ends h hk,
    fun s o inverse p h hk hturn => nttComplete_ends h hk hturn, fun s t o grp x h hk hturn hg => ?_⟩
  case refine_1 => exact gathComplete_ends h hk
  case refine_2 =>
    obtain ⟨hplaced, hroom⟩ := stowComplete_ends h hk hturn hg
    exact ⟨hplaced t x, hroom⟩

/-- Settles O46: copies that are all performed leave their batches; each engine event completes the operation that it names, and the elements
of a transfer are those of its box, one by one. -/
theorem engineCompletionEvents : Obligations.EngineCompletionEvents := ⟨batchCompletions, engineCompletions⟩

end Sys2Proof.Machine
end

section
/-! PROOFS. What a lane word's stores leave in memory, where every byte stands at a plain location and no write is dropped (R121, R222, R375,
R376, R379). -/

namespace Sys2Proof.Machine

open Sys2Proof

/-- Memory, and what makes a write to it drop: poison, retired rows, and errors that no read has met (R375, R376, R379). -/
def State.storage (s : State) : List Host.Cell × List Nat × List (Nat × Nat) × List Nat :=
  (s.mem, s.poison, s.pack.retired, s.pack.latent)

theorem State.storage_eq_iff {s : State} {m : List Host.Cell} {x z : List Nat} {y : List (Nat × Nat)} :
    s.storage = (m, x, y, z) ↔ s.mem = m ∧ s.poison = x ∧ s.pack.retired = y ∧ s.pack.latent = z := by
  simp only [State.storage, Prod.mk.injEq]

theorem State.latent_of_storage {s t : State} (h : t.storage = s.storage) : t.pack.latent = s.pack.latent :=
  congrArg (fun x : List Host.Cell × List Nat × List (Nat × Nat) × List Nat => x.2.2.2) h

/-! ### Translation, while no error stands unmet -/

/-- The first access to a pinned page copies its frame and writes nothing back. -/
theorem storage_pinPage {s : State} (h : s.pack.latent = []) (r : Req) (va leaf : Nat) : (s.pinPage r va leaf).storage = s.storage := by
  simp only [State.pinPage, h, if_true]
  split <;> rfl

theorem meetErrors_of_latent {s : State} (h : s.pack.latent = []) (r : Req) (ps : List Place) : s.meetErrors r ps = s :=
  if_pos (.inl h)

@[simp] theorem storage_fillLevel (s : State) (level : CacheLevel) (t : Fin 4 × Asn × Nat) (imported : Bool) (c : CacheRef) :
    (s.fillLevel level t imported c).storage = s.storage := by
  unfold State.fillLevel
  exact apply_ite State.storage _ _ _ |>.trans (ite_self _)

@[simp] theorem storage_importLine (s : State) (token : DWord) (level : CacheLevel) (c : CacheRef) :
    (s.importLine token level c).storage = s.storage := by
  simp only [State.importLine]
  split
  · rfl
  · split
    · rfl
    · exact storage_fillLevel ..

@[simp] theorem storage_fillPlaces (s : State) (r : Req) (token : DWord) (ps : List Place) :
    (s.fillPlaces r token ps).storage = s.storage := by
  refine foldl_keeps (fun s c => ?_) _ s
  dsimp only
  split <;> simp only [apply_ite State.storage, storage_fillLevel, storage_importLine, ite_self]

theorem storage_ownPlaces {s t : State} (hs : s.pack.latent = []) {r : Req} {imp : Option (Fin 4 × Asn × Nat)} {token : DWord} {va n : Nat}
    {ps : List Place} (h : s.ownPlaces r imp token va n = .ok (t, ps)) : t.storage = s.storage := by
  unfold State.ownPlaces at h
  split at h
  case h_1 => cases h
  case h_2 leaf walked _ =>
    cases h
    have hleased : (if walked then s.grantLease r.ld r.asn va leaf else s).storage = s.storage := by split <;> rfl
    have hpinned := (storage_pinPage ((State.latent_of_storage hleased).trans hs) r va leaf).trans hleased
    rw [storage_fillPlaces, meetErrors_of_latent ((State.latent_of_storage hpinned).trans hs), hpinned]

/-- An access within one granule is one to another package, which leaves the state, or one of a context of this package (R102, R361). -/
theorem placesInPage_ok {s t : State} {r : Req} {va n : Nat} {ps : List Place} (h : s.placesInPage r va n = .ok (t, ps)) :
    t = s ∨ ∃ r' imp token va', s.ownPlaces r' imp token va' n = .ok (t, ps) := by
  unfold State.placesInPage at h
  split at h
  case isFalse => exact .inr ⟨_, _, _, _, h⟩
  case isTrue =>
    split at h
    case h_1 => cases h
    case h_2 imp _ =>
      dsimp only at h
      split at h
      case isTrue =>
        split at h <;> cases h
        exact .inl rfl
      case isFalse =>
        split at h
        case h_1 => cases h
        case h_2 =>
          split_ifs at h
          exact .inr ⟨_, _, _, _, h⟩

theorem storage_placesInPage {s t : State} (hs : s.pack.latent = []) {r : Req} {va n : Nat} {ps : List Place}
    (h : s.placesInPage r va n = .ok (t, ps)) : t.storage = s.storage := by
  obtain rfl | ⟨_, _, _, _, hown⟩ := placesInPage_ok h
  · rfl
  · exact storage_ownPlaces hs hown

theorem storage_placesFuel {s t : State} (hs : s.pack.latent = []) {r : Req} {va n fuel : Nat} {ps : List Place}
    (h : s.placesFuel r va n fuel = .ok (t, ps)) : t.storage = s.storage := by
  induction fuel generalizing s va n ps with
  | zero =>
    cases h
    rfl
  | succ fuel ih =>
    simp only [State.placesFuel] at h
    split at h
    · cases h
      rfl
    · split at h
      · cases h
      next s1 ps1 h1 =>
        split at h
        · cases h
        next s2 rest h2 =>
          cases h
          have hfirst := storage_placesInPage hs h1
          exact (ih ((State.latent_of_storage hfirst).trans hs) h2).trans hfirst

theorem storage_virtualAt {k : AccKind} {l1 : Option Bool} {n : Nat} {g : GroupId} {grp : Group} {s t : State} (hs : s.pack.latent = [])
    {a : Nat} {ps : List Place} (h : virtualAt k l1 n g grp s a = .ok (t, ps)) : t.storage = s.storage := storage_placesFuel hs h

/-! ### Writes to plain locations -/

/-- Cells written one after another: a location reads as the last byte written there, or as before. -/
theorem read_restore {m : List Host.Cell} (h : Memory.wf m = true) (cells : List (Nat × Byte)) (loc : Nat) :
    Memory.read (Memory.restore m cells) loc = writtenAt cells loc (Memory.read m loc) := by
  induction cells generalizing m with
  | nil => rfl
  | cons e cells ih =>
    refine (ih (wf_write h e.1 e.2)).trans ?_
    rw [writtenAt]
    split
    next heq => rw [← heq, read_write_self h]
    next hne => rw [read_write_ne h (Ne.symm hne)]

theorem writtenAt_append (xs ys : List (Nat × Byte)) (loc : Nat) (b : Byte) :
    writtenAt (xs ++ ys) loc b = writtenAt ys loc (writtenAt xs loc b) := by
  induction xs generalizing b with
  | nil => rfl
  | cons e xs ih => exact ih _

/-- Where nothing is poisoned, retired or in error, no write is dropped (R375, R376, R379). -/
theorem storage_writePlain {s : State} {m : List Host.Cell} (h : s.storage = (m, [], [], [])) (r : Req) (cells : List (Nat × Byte)) :
    (s.writePlain r cells).storage = (Memory.restore m cells, [], [], []) := by
  obtain ⟨-, hpoison, hretired, hlatent⟩ := State.storage_eq_iff.mp h
  rw [State.writePlain, if_pos ⟨hpoison, hretired, hlatent⟩]
  clear hpoison hretired hlatent
  induction cells generalizing s m with
  | nil => exact h
  | cons e cells ih =>
    refine ih ?_
    obtain ⟨rfl, hpoison, hretired, hlatent⟩ := State.storage_eq_iff.mp h
    simp [State.writeLoc, State.isRetired, State.isPoison, State.storage, hpoison, hretired, hlatent]

@[simp] theorem storage_invalidate (s : State) (r : Req) (ls : List Nat) : (s.invalidate r ls).storage = s.storage := by
  unfold State.invalidate
  split <;> rfl

@[simp] theorem storage_healPins (s : State) (pairs : List (Place × Byte)) : (s.healPins pairs).storage = s.storage := by
  unfold State.healPins
  split <;> rfl

@[simp] theorem storage_shadowStore (s : State) (launch : Nat) (ps : List Place) : (s.shadowStore launch ps).storage = s.storage := by
  unfold State.shadowStore
  split <;> rfl

/-- A byte stored at a plain location, as writes take it. -/
def byteCell (e : Nat × Byte) : Place × Byte := (.byte e.1, e.2)

theorem zip_bytes (locs : List Nat) (bs : List Byte) : (locs.map Place.byte).zip bs = (locs.zip bs).map byteCell := List.zip_map_left ..

/-- What takes the bytes stored at plain locations takes them all. -/
theorem filterMap_byteCells {f : Place × Byte → Option (Nat × Byte)} (h : ∀ e, f (byteCell e) = some e) (cells : List (Nat × Byte)) :
    (cells.map byteCell).filterMap f = cells := by
  rw [List.filterMap_map, show f ∘ byteCell = some from funext h, List.filterMap_some]

/-- What takes no byte stored at a plain location takes none. -/
theorem filterMap_byteCells_none {β : Type} {f : Place × Byte → Option β} (h : ∀ e, f (byteCell e) = none) (cells : List (Nat × Byte)) :
    (cells.map byteCell).filterMap f = [] := List.filterMap_eq_nil_iff.mpr fun _ hx => by
  obtain ⟨e, -, rfl⟩ := List.mem_map.mp hx
  exact h e

/-- Plain locations lose no write to a pinned page's poison. -/
theorem lostPins_bytes (s : State) (cells : List (Nat × Byte)) : s.lostPins (cells.map byteCell) = [] := by
  rw [State.lostPins, filterMap_byteCells_none fun _ => rfl]
  exact ite_self _

theorem reached_bytes (s : State) (cells : List (Nat × Byte)) : s.reached (cells.map byteCell) = cells.map byteCell := by
  rw [State.reached, lostPins_bytes]

theorem writeMx_bytes (s : State) (r : Req) (cells : List (Nat × Byte)) : s.writeMx r (cells.map byteCell) = s := by
  rw [State.writeMx, filterMap_byteCells_none fun _ => rfl]
  rfl

theorem sendRemote_bytes (s : State) (cells : List (Nat × Byte)) : s.sendRemote (cells.map byteCell) = s := by
  rw [State.sendRemote, filterMap_byteCells_none fun _ => rfl]
  rfl

/-- Bytes written at plain locations reach memory, and nothing but memory takes them. -/
theorem storage_writePlaces_bytes {s : State} {m : List Host.Cell} (h : s.storage = (m, [], [], [])) (r : Req) (locs : List Nat)
    (bs : List Byte) : (s.writePlaces r (locs.map .byte) bs).storage = (Memory.restore m (locs.zip bs), [], [], []) := by
  simp only [State.writePlaces, zip_bytes, reached_bytes, lostPins_bytes, writeMx_bytes, sendRemote_bytes, State.writeHome, storage_invalidate]
  rw [filterMap_byteCells fun _ => rfl, List.foldl_map]
  refine storage_writePlain ((foldl_keeps (fun _ _ => rfl) _ _).trans ?_) r _
  exact (storage_healPins ..).trans h

theorem storage_groupStore_bytes {s : State} {m : List Host.Cell} (h : s.storage = (m, [], [], [])) (r : Req) (launch : Nat)
    (locs : List Nat) (bs : List Byte) :
    (s.groupStore r launch (locs.map .byte) bs).storage = (Memory.restore m (locs.zip bs), [], [], []) :=
  storage_writePlaces_bytes ((storage_shadowStore ..).trans h) ..

/-! ### The stores of a word -/

theorem exists_locs_of_bytes {ps : List Place} (h : ∀ p ∈ ps, ∃ loc, p = .byte loc) : ∃ locs : List Nat, ps = locs.map .byte := by
  have hrange : ps ∈ Set.range (List.map Place.byte) := by
    rw [Set.range_list_map]
    exact fun p hp => (h p hp).imp fun _ => Eq.symm
  exact hrange.imp fun _ => Eq.symm

/-- By induction on the lanes: each one's translation keeps the storage, its bytes are written where they stand, and the lanes after it
write over them. The statement's own match is the argument `cell`. -/
theorem read_storeAll {locate : Locate} (hl : ∀ s a t ps, s.pack.latent = [] → locate s a = .ok (t, ps) → t.storage = s.storage)
    {req : State → Req} {launch : Nat} {bytes : Nat → List Byte} {cell : Place × Byte → Option (Nat × Byte)}
    (hcell : ∀ e, cell (byteCell e) = some e) {as : List LaneAddr} {s s' : State} {m : List Host.Cell} {cells : List (Nat × List Place)}
    (hm : Memory.wf m = true) (hs : s.storage = (m, [], [], []))
    (h : storeAll locate (fun t ps bs => t.groupStore (req t) launch ps bs) bytes s as = some (s', cells))
    (hplain : ∀ c ∈ cells, ∀ p ∈ c.2, ∃ loc, p = .byte loc) (loc : Nat) :
    Memory.read s'.mem loc = writtenAt (cells.flatMap fun c => (c.2.zip (bytes c.1)).filterMap cell) loc (Memory.read m loc) := by
  induction as generalizing s m cells with
  | nil =>
    cases h
    obtain ⟨rfl, -⟩ := State.storage_eq_iff.mp hs
    rfl
  | cons e as ih =>
    simp only [storeAll] at h
    split at h
    next t ps hlocate =>
      obtain ⟨⟨u, rest⟩, hrest, heq⟩ := Option.map_eq_some_iff.mp h
      cases heq
      obtain ⟨locs, rfl⟩ := exists_locs_of_bytes (hplain _ (List.mem_cons_self ..))
      obtain ⟨-, -, -, hlatent⟩ := State.storage_eq_iff.mp hs
      have hstored := storage_groupStore_bytes ((hl _ _ _ _ hlatent hlocate).trans hs) (req t) launch locs (bytes e.1)
      rw [ih (wf_restore hm _) hstored hrest fun c hc => hplain c (List.mem_cons_of_mem _ hc), read_restore hm, List.flatMap_cons,
        writtenAt_append, zip_bytes, filterMap_byteCells hcell]
    next => cases h

/-- Settles O6: each lane's translation leaves memory, each of its bytes is written where it stands, and a later write to a location is the
one that is read there. -/
theorem storesInMemory : Obligations.StoresInMemory := fun _ _ _ _ _ _ _ _ _ _ hwf hpoison hretired hlatent h hplain =>
  read_storeAll (fun _ _ _ _ hs => storage_virtualAt hs) (fun _ => rfl) hwf
    (State.storage_eq_iff.mpr ⟨rfl, hpoison, hretired, hlatent⟩) h hplain

end Sys2Proof.Machine
end

section
/-! PROOFS. The decoder reads back what the encoder writes. -/

namespace Sys2Proof

/-! ### Numbers as sets of bits -/

/-- Numbers without a common bit add without a carry. -/
theorem add_eq_or {x y : Nat} (h : x &&& y = 0) : x + y = x ||| y := by
  have hw : x + y < 2 ^ (x + y) := Nat.lt_two_pow_self
  have hx : x < 2 ^ (x + y) := by omega
  have hy : y < 2 ^ (x + y) := by omega
  have hor := congrArg BitVec.toNat (BitVec.add_eq_or_of_and_eq_zero (BitVec.ofNat (x + y) x) (BitVec.ofNat (x + y) y)
    (by rw [← BitVec.ofNat_and, h]))
  simpa [Nat.mod_eq_of_lt, hw, hx, hy] using hor

/-- Every bit of the number is one of the mask's. -/
def Within (m x : Nat) : Prop := x &&& m = x

section
variable {m m' n x y d k w : Nat}

theorem Within.and_eq_zero (hx : Within m x) (h : n &&& m = 0) : n &&& x = 0 := by
  rw [← hx, Nat.and_left_comm, h, Nat.and_zero]

theorem Within.mask_and_eq_zero (hx : Within m x) (h : m &&& m' = 0) : x &&& m' = 0 := by
  rw [← hx, Nat.and_assoc, h, Nat.and_zero]

theorem Within.mono (hx : Within m x) (h : m &&& n = m) : Within n x := by
  rw [Within, ← hx, Nat.and_assoc, h]

/-- Numbers within masks that share no bit: their sum shows each of them under its mask. -/
theorem Within.add_and_left (hx : Within m x) (hy : Within m' y) (h : m &&& m' = 0) : (x + y) &&& m = x := by
  rw [add_eq_or (hy.and_eq_zero (hx.mask_and_eq_zero h)), Nat.and_or_distrib_right, hx, hy.mask_and_eq_zero (Nat.and_comm m m' ▸ h),
    Nat.or_zero]

theorem Within.add_and_right (hx : Within m x) (hy : Within m' y) (h : m &&& m' = 0) : (x + y) &&& m' = y := by
  rw [Nat.add_comm, hy.add_and_left hx (Nat.and_comm m m' ▸ h)]

theorem Within.add (hx : Within m x) (hy : Within m' y) (h : m &&& m' = 0) : Within (m ||| m') (x + y) := by
  rw [Within, Nat.and_or_distrib_left, hx.add_and_left hy h, hx.add_and_right hy h, add_eq_or (hy.and_eq_zero (hx.mask_and_eq_zero h))]

/-- A window that a mask covers shows of a number what it shows of the number's bits under the mask. -/
theorem window_of_and (h : w &&& m = x) (hd : 2 ^ d.log2 = d) (hk : 2 ^ k.log2 = k) (hm : m / d % k = k - 1) : w / d % k = x / d % k := by
  rw [← h, ← hd, ← hk, Nat.and_div_two_pow, Nat.and_mod_two_pow, hd, hk, hm, ← hk, Nat.and_two_pow_sub_one_eq_mod, Nat.mod_mod]

/-- A window that a mask leaves free shows nothing of a number within the mask. -/
theorem Within.window_add (hx : Within m x) (hn : n &&& m = 0) (hd : 2 ^ d.log2 = d) (hk : 2 ^ k.log2 = k) (hm : m / d % k = 0) :
    (n + x) / d % k = n / d % k := by
  have hx0 : x / d % k = 0 := by
    rw [← hx, ← hd, ← hk, Nat.and_div_two_pow, Nat.and_mod_two_pow, hd, hk, hm, Nat.and_zero]
  rw [add_eq_or (hx.and_eq_zero hn), ← hd, ← hk, Nat.or_div_two_pow, Nat.or_mod_two_pow, hd, hk, hx0, Nat.or_zero]

end

/-! ### Fields side by side -/

/-- A field's lowest bit, and how many values it has. -/
abbrev Slot := Nat × Nat

/-- The bits of a slot. -/
def Slot.mask (s : Slot) : Nat := (s.2 - 1) * 2 ^ s.1

/-- The bits of slots. -/
def slotsMask : List Slot → Nat
  | [] => 0
  | s :: ss => slotsMask ss ||| s.mask

/-- Each slot has a power of two of values, and no bit of another. -/
def apart : List Slot → Bool
  | [] => true
  | s :: ss => 2 ^ s.2.log2 == s.2 && slotsMask ss &&& s.mask == 0 && apart ss

/-- Values in slots, the first slot's added last. -/
def packed : List Slot → List Nat → Nat
  | [(lo, _)], [v] => v * 2 ^ lo
  | (lo, _) :: ss, v :: vs => packed ss vs + v * 2 ^ lo
  | _, _ => 0

theorem packed_cons (s : Slot) (ss : List Slot) (v : Nat) (vs : List Nat) : packed (s :: ss) (v :: vs) = packed ss vs + v * 2 ^ s.1 := by
  cases ss <;> cases vs <;> simp [packed]

/-- Each value is one of its slot's. -/
def Fits : List Slot → List Nat → Prop
  | [], [] => True
  | (_, k) :: ss, v :: vs => v < k ∧ Fits ss vs
  | _, _ => False

/-- A word has the values in the slots. -/
def Shows (w : Nat) : List Slot → List Nat → Prop
  | (lo, k) :: ss, v :: vs => w / 2 ^ lo % k = v ∧ Shows w ss vs
  | _, _ => True

theorem slot_within {s : Slot} {v : Nat} (hk : 2 ^ s.2.log2 = s.2) (hv : v < s.2) : Within s.mask (v * 2 ^ s.1) := by
  rw [Within, Slot.mask, ← Nat.shiftLeft_eq, ← Nat.shiftLeft_eq, ← Nat.shiftLeft_and_distrib, ← hk, Nat.and_two_pow_sub_one_eq_mod,
    Nat.mod_eq_of_lt (hk.symm ▸ hv)]

theorem apart_cons {s : Slot} {ss : List Slot} (h : apart (s :: ss) = true) :
    2 ^ s.2.log2 = s.2 ∧ slotsMask ss &&& s.mask = 0 ∧ apart ss = true := by
  simpa [apart, and_assoc] using h

theorem packed_within {ss : List Slot} {vs : List Nat} (h : apart ss = true) (hv : Fits ss vs) : Within (slotsMask ss) (packed ss vs) := by
  induction ss generalizing vs with
  | nil => cases vs <;> exact Nat.and_self 0
  | cons s ss ih =>
    cases vs with
    | nil => exact hv.elim
    | cons v vs =>
      obtain ⟨hk, hs, hss⟩ := apart_cons h
      rw [packed_cons]
      exact (ih hss hv.2).add (slot_within hk hv.1) hs

theorem shows_of_and {ss : List Slot} {vs : List Nat} {w : Nat} (h : apart ss = true) (hv : Fits ss vs)
    (hw : w &&& slotsMask ss = packed ss vs) : Shows w ss vs := by
  induction ss generalizing vs with
  | nil => trivial
  | cons s ss ih =>
    cases vs with
    | nil => trivial
    | cons v vs =>
      obtain ⟨hk, hs, hss⟩ := apart_cons h
      rw [packed_cons] at hw
      have hrest := packed_within hss hv.2
      have hslot := slot_within hk hv.1
      constructor
      · have hwin : w &&& s.mask = v * 2 ^ s.1 := by
          rw [← hrest.add_and_right hslot hs, ← hw, slotsMask, Nat.and_assoc,
            Nat.and_or_distrib_right, hs, Nat.and_self, Nat.zero_or]
        rw [window_of_and hwin (by rw [Nat.log2_two_pow]) hk (by
          rw [Slot.mask, Nat.mul_div_cancel _ (Nat.two_pow_pos _), Nat.mod_eq_of_lt (Nat.sub_lt (hk ▸ Nat.two_pow_pos _) Nat.one_pos)]),
          Nat.mul_div_cancel _ (Nat.two_pow_pos _), Nat.mod_eq_of_lt hv.1]
      · refine ih hss hv.2 ?_
        rw [← hrest.add_and_left hslot hs, ← hw, slotsMask, Nat.and_assoc,
            Nat.and_or_distrib_right, Nat.and_self, Nat.and_comm s.mask, hs, Nat.or_zero]

/-! ### Operand formats -/

/-- The bits of an operand format lie under its mask, and the format's parser reads them from every word that shows them there: it looks at no
other bit. -/
structure Format {α β : Type} (m : Nat) (bits : α → Nat) (parse : Nat → β) (out : α → β) : Prop where
  within : ∀ o, Within m (bits o)
  reads : ∀ o w, w &&& m = bits o → parse w = out o

/-- A format is a list of slots. -/
theorem Format.of_slots {α β : Type} {m : Nat} {bits : α → Nat} {parse : Nat → β} {out : α → β} (ss : List Slot) (vs : α → List Nat)
    (h : apart ss = true) (hm : slotsMask ss = m) (hbits : ∀ o, bits o = packed ss (vs o)) (fits : ∀ o, Fits ss (vs o))
    (reads : ∀ o w, Shows w ss (vs o) → parse w = out o) : Format m bits parse out where
  within o := by
    rw [← hm, hbits]
    exact packed_within h (fits o)
  reads o w hw := reads o w (shows_of_and h (fits o) (hm ▸ (hbits o ▸ hw)))

theorem bitNat_lt (b : Bool) : bitNat b < 2 := by cases b <;> decide

theorem field_eq {n lo w : Nat} {v : Fin n} {hn : 0 < n} (h : w / 2 ^ lo % n = v) : field n lo w hn = v := Fin.ext h

theorem flag_eq {lo w : Nat} {b : Bool} (h : w / 2 ^ lo % 2 = bitNat b) : flag lo w = b := by
  rw [flag, h]
  cases b <;> rfl

theorem imm_eq {n lo w : Nat} {v : BitVec n} (h : w / 2 ^ lo % 2 ^ n = v.toNat) : BitVec.ofNat n (w / 2 ^ lo) = v :=
  BitVec.eq_of_toNat_eq (by rw [BitVec.toNat_ofNat, h])

theorem Cmp.ofCode_code (c : Cmp) : Cmp.ofCode c.code = some c := by cases c <;> rfl

theorem Cmp.code_lt (c : Cmp) : c.code < 8 := by cases c <;> decide

theorem Size.ofCode_code (c : Size) : Size.ofCode c.code = some c := by cases c <;> rfl

theorem Size.code_lt (c : Size) : c.code < 8 := by cases c <;> decide

theorem AtomOp.ofCode_code (c : AtomOp) : AtomOp.ofCode c.code = some c := by cases c <;> rfl

theorem AtomOp.code_lt (c : AtomOp) : c.code < 16 := by cases c <;> decide

theorem Scope.ofCode_code (c : Scope) : Scope.ofCode c.code = some c := by cases c <;> rfl

theorem Scope.code_lt (c : Scope) : c.code < 8 := by cases c <;> decide

theorem Span.ofCode_code (c : Span) : Span.ofCode c.code = some c := by cases c <;> rfl

theorem Span.code_lt (c : Span) : c.code < 4 := by cases c <;> decide

theorem Rm.ofCode_code (c : Rm) : Rm.ofCode c.code = some c := by cases c <;> rfl

theorem Rm.code_lt (c : Rm) : c.code < 4 := by cases c <;> decide

theorem Cvt.ofCode_code (c : Cvt) : Cvt.ofCode c.code = some c := by cases c <;> rfl

theorem Cvt.code_lt (c : Cvt) : c.code < 64 := by cases c <;> decide

theorem Span.code_lt_eight (c : Span) : c.code < 8 := c.code_lt.trans (by decide)

theorem LR3.format : Format 0x00FFFFFC LR3.bits LR3.parse id := by
  refine .of_slots [(2, 64), (8, 64), (14, 64), (20, 8), (23, 2)] (fun o => [o.vb, o.va, o.vd, o.g, bitNat o.u]) rfl rfl (fun _ => rfl)
    (fun o => ⟨o.vb.isLt, o.va.isLt, o.vd.isLt, o.g.isLt, bitNat_lt o.u, trivial⟩) fun o w ⟨hvb, hva, hvd, hg, hu, _⟩ => ?_
  rw [LR3.parse, flag_eq hu, field_eq hg, field_eq hvd, field_eq hva, field_eq hvb, id]

theorem LR2.format : Format 0x00FFFF00 LR2.bits LR2.parse id := by
  refine .of_slots [(8, 64), (14, 64), (20, 8), (23, 2)] (fun o => [o.va, o.vd, o.g, bitNat o.u]) rfl rfl (fun _ => rfl)
    (fun o => ⟨o.va.isLt, o.vd.isLt, o.g.isLt, bitNat_lt o.u, trivial⟩) fun o w ⟨hva, hvd, hg, hu, _⟩ => ?_
  rw [LR2.parse, flag_eq hu, field_eq hg, field_eq hvd, field_eq hva, id]

theorem LCmp.format : Format 0x00FFFFFC LCmp.bits LCmp.parse some := by
  refine .of_slots [(2, 64), (8, 64), (14, 8), (17, 8), (20, 8), (23, 2)] (fun o => [o.vb, o.va, o.k, o.cc.code, o.g, bitNat o.u]) rfl rfl
    (fun _ => rfl)
    (fun o => ⟨o.vb.isLt, o.va.isLt, o.k.isLt, o.cc.code_lt, o.g.isLt, bitNat_lt o.u, trivial⟩) fun o w ⟨hvb, hva, hk, hcc, hg, hu, _⟩ => ?_
  rw [LCmp.parse, hcc, Cmp.ofCode_code, flag_eq hu, field_eq hg, field_eq hk, field_eq hva, field_eq hvb]

theorem LImm.format : Format 0x00FFFFFF LImm.bits LImm.parse id := by
  refine .of_slots [(0, 2 ^ 8), (8, 64), (14, 64), (20, 8), (23, 2)] (fun o => [o.imm.toNat, o.va, o.vd, o.g, bitNat o.u]) rfl rfl (fun _ => rfl)
    (fun o => ⟨o.imm.isLt, o.va.isLt, o.vd.isLt, o.g.isLt, bitNat_lt o.u, trivial⟩) fun o w ⟨himm, hva, hvd, hg, hu, _⟩ => ?_
  rw [LImm.parse, flag_eq hu, field_eq hg, field_eq hvd, field_eq hva, imm_eq himm, id]

theorem LShift.format : Format 0x00FFFF1F LShift.bits LShift.parse id := by
  refine .of_slots [(0, 32), (8, 64), (14, 64), (20, 8), (23, 2)] (fun o => [o.amt, o.va, o.vd, o.g, bitNat o.u]) rfl rfl (fun _ => rfl)
    (fun o => ⟨o.amt.isLt, o.va.isLt, o.vd.isLt, o.g.isLt, bitNat_lt o.u, trivial⟩) fun o w ⟨hamt, hva, hvd, hg, hu, _⟩ => ?_
  rw [LShift.parse, flag_eq hu, field_eq hg, field_eq hvd, field_eq hva, field_eq hamt, id]

theorem LMov.format : Format 0x00FFFFFF LMov.bits LMov.parse id := by
  refine .of_slots [(0, 2 ^ 14), (14, 64), (20, 8), (23, 2)] (fun o => [o.imm.toNat, o.vd, o.g, bitNat o.u]) rfl rfl (fun _ => rfl)
    (fun o => ⟨o.imm.isLt, o.vd.isLt, o.g.isLt, bitNat_lt o.u, trivial⟩) fun o w ⟨himm, hvd, hg, hu, _⟩ => ?_
  rw [LMov.parse, flag_eq hu, field_eq hg, field_eq hvd, imm_eq himm, id]

theorem LCvt.format : Format 0x00FFFFFF LCvt.bits LCvt.parse some := by
  refine .of_slots [(0, 4), (2, 64), (8, 64), (14, 64), (20, 8), (23, 2)] (fun o => [o.rm.code, o.code.code, o.va, o.vd, o.g, bitNat o.u]) rfl rfl
    (fun _ => rfl)
    (fun o => ⟨o.rm.code_lt, o.code.code_lt, o.va.isLt, o.vd.isLt, o.g.isLt, bitNat_lt o.u, trivial⟩) fun o w ⟨hrm, hcode, hva, hvd, hg, hu, _⟩ => ?_
  rw [LCvt.parse, hcode, Cvt.ofCode_code, hrm, Rm.ofCode_code, flag_eq hu, field_eq hg, field_eq hvd, field_eq hva]

theorem LPack8.format : Format 0x00FFFF0C LPack8.bits LPack8.parse id := by
  refine .of_slots [(2, 4), (8, 64), (14, 64), (20, 8), (23, 2)] (fun o => [o.k, o.va, o.vd, o.g, bitNat o.u]) rfl rfl (fun _ => rfl)
    (fun o => ⟨o.k.isLt, o.va.isLt, o.vd.isLt, o.g.isLt, bitNat_lt o.u, trivial⟩) fun o w ⟨hk, hva, hvd, hg, hu, _⟩ => ?_
  rw [LPack8.parse, flag_eq hu, field_eq hg, field_eq hvd, field_eq hva, field_eq hk, id]

theorem LPack4.format : Format 0x00FFFF1C LPack4.bits LPack4.parse id := by
  refine .of_slots [(2, 8), (8, 64), (14, 64), (20, 8), (23, 2)] (fun o => [o.k, o.va, o.vd, o.g, bitNat o.u]) rfl rfl (fun _ => rfl)
    (fun o => ⟨o.k.isLt, o.va.isLt, o.vd.isLt, o.g.isLt, bitNat_lt o.u, trivial⟩) fun o w ⟨hk, hva, hvd, hg, hu, _⟩ => ?_
  rw [LPack4.parse, flag_eq hu, field_eq hg, field_eq hvd, field_eq hva, field_eq hk, id]

theorem XR3.format : Format 0x007FFFFC XR3.bits XR3.parse id := by
  refine .of_slots [(2, 64), (8, 64), (14, 64), (20, 8)] (fun o => [o.vb, o.va, o.vd, o.g]) rfl rfl (fun _ => rfl)
    (fun o => ⟨o.vb.isLt, o.va.isLt, o.vd.isLt, o.g.isLt, trivial⟩) fun o w ⟨hvb, hva, hvd, hg, _⟩ => ?_
  rw [XR3.parse, field_eq hg, field_eq hvd, field_eq hva, field_eq hvb, id]

theorem XR2.format : Format 0x007FFF00 XR2.bits XR2.parse id := by
  refine .of_slots [(8, 64), (14, 64), (20, 8)] (fun o => [o.va, o.vd, o.g]) rfl rfl (fun _ => rfl)
    (fun o => ⟨o.va.isLt, o.vd.isLt, o.g.isLt, trivial⟩) fun o w ⟨hva, hvd, hg, _⟩ => ?_
  rw [XR2.parse, field_eq hg, field_eq hvd, field_eq hva, id]

theorem XBallot.format : Format 0x007FC700 XBallot.bits XBallot.parse id := by
  refine .of_slots [(8, 8), (14, 64), (20, 8)] (fun o => [o.k, o.vd, o.g]) rfl rfl (fun _ => rfl)
    (fun o => ⟨o.k.isLt, o.vd.isLt, o.g.isLt, trivial⟩) fun o w ⟨hk, hvd, hg, _⟩ => ?_
  rw [XBallot.parse, field_eq hg, field_eq hvd, field_eq hk, id]

theorem XVote.format : Format 0x0071C700 XVote.bits XVote.parse id := by
  refine .of_slots [(8, 8), (14, 8), (20, 8)] (fun o => [o.k, o.j, o.g]) rfl rfl (fun _ => rfl)
    (fun o => ⟨o.k.isLt, o.j.isLt, o.g.isLt, trivial⟩) fun o w ⟨hk, hj, hg, _⟩ => ?_
  rw [XVote.parse, field_eq hg, field_eq hj, field_eq hk, id]

theorem XBcast.format : Format 0x007FFF00 XBcast.bits XBcast.parse id := by
  refine .of_slots [(8, 64), (14, 64), (20, 8)] (fun o => [o.s, o.vd, o.g]) rfl rfl (fun _ => rfl)
    (fun o => ⟨o.s.isLt, o.vd.isLt, o.g.isLt, trivial⟩) fun o w ⟨hs, hvd, hg, _⟩ => ?_
  rw [XBcast.parse, field_eq hg, field_eq hvd, field_eq hs, id]

theorem XGet.format : Format 0x007FFF7C XGet.bits XGet.parse id := by
  refine .of_slots [(2, 32), (8, 64), (14, 64), (20, 8)] (fun o => [o.n, o.va, o.s, o.g]) rfl rfl (fun _ => rfl)
    (fun o => ⟨o.n.isLt, o.va.isLt, o.s.isLt, o.g.isLt, trivial⟩) fun o w ⟨hn, hva, hs, hg, _⟩ => ?_
  rw [XGet.parse, field_eq hg, field_eq hs, field_eq hva, field_eq hn, id]

theorem X1.format : Format 0x007FC000 X1.bits X1.parse id := by
  refine .of_slots [(14, 64), (20, 8)] (fun o => [o.vd, o.g]) rfl rfl (fun _ => rfl)
    (fun o => ⟨o.vd.isLt, o.g.isLt, trivial⟩) fun o w ⟨hvd, hg, _⟩ => ?_
  rw [X1.parse, field_eq hg, field_eq hvd, id]

theorem XPred.format : Format 0x0071C71C XPred.bits XPred.parse id := by
  refine .of_slots [(2, 8), (8, 8), (14, 8), (20, 8)] (fun o => [o.pb, o.pa, o.pd, o.g]) rfl rfl (fun _ => rfl)
    (fun o => ⟨o.pb.isLt, o.pa.isLt, o.pd.isLt, o.g.isLt, trivial⟩) fun o w ⟨hpb, hpa, hpd, hg, _⟩ => ?_
  rw [XPred.parse, field_eq hg, field_eq hpd, field_eq hpa, field_eq hpb, id]

theorem W3.format : Format 0x007FFFFC W3.bits W3.parse some := by
  refine .of_slots [(2, 64), (8, 64), (14, 64), (20, 8)] (fun o => [o.vb, o.va, o.vd, o.w.code]) rfl rfl (fun _ => rfl)
    (fun o => ⟨o.vb.isLt, o.va.isLt, o.vd.isLt, o.w.code_lt_eight, trivial⟩) fun o w ⟨hvb, hva, hvd, hw, _⟩ => ?_
  rw [W3.parse, hw, Span.ofCode_code, field_eq hvd, field_eq hva, field_eq hvb]

theorem WS.format : Format 0x007FFFFC WS.bits WS.parse some := by
  refine .of_slots [(2, 64), (8, 64), (14, 64), (20, 8)] (fun o => [o.s, o.va, o.vd, o.w.code]) rfl rfl (fun _ => rfl)
    (fun o => ⟨o.s.isLt, o.va.isLt, o.vd.isLt, o.w.code_lt_eight, trivial⟩) fun o w ⟨hs, hva, hvd, hw, _⟩ => ?_
  rw [WS.parse, hw, Span.ofCode_code, field_eq hvd, field_eq hva, field_eq hs]

theorem WCmp.format : Format 0x007FFFFC WCmp.bits WCmp.parse some := by
  refine .of_slots [(2, 64), (8, 64), (14, 8), (17, 8), (20, 8)] (fun o => [o.vb, o.va, o.k, o.cc.code, o.w.code]) rfl rfl (fun _ => rfl)
    (fun o => ⟨o.vb.isLt, o.va.isLt, o.k.isLt, o.cc.code_lt, o.w.code_lt_eight, trivial⟩) fun o w ⟨hvb, hva, hk, hcc, hw, _⟩ => ?_
  rw [WCmp.parse, hw, Span.ofCode_code, hcc, Cmp.ofCode_code, field_eq hk, field_eq hva, field_eq hvb]

theorem W2.format : Format 0x007FFF00 W2.bits W2.parse some := by
  refine .of_slots [(8, 64), (14, 64), (20, 8)] (fun o => [o.va, o.vd, o.w.code]) rfl rfl (fun _ => rfl)
    (fun o => ⟨o.va.isLt, o.vd.isLt, o.w.code_lt_eight, trivial⟩) fun o w ⟨hva, hvd, hw, _⟩ => ?_
  rw [W2.parse, hw, Span.ofCode_code, field_eq hvd, field_eq hva]

theorem WExt.format : Format 0x007FFF0C WExt.bits WExt.parse some := by
  refine .of_slots [(2, 4), (8, 64), (14, 64), (20, 8)] (fun o => [o.ws.code, o.va, o.vd, o.w.code]) rfl rfl (fun _ => rfl)
    (fun o => ⟨o.ws.code_lt, o.va.isLt, o.vd.isLt, o.w.code_lt_eight, trivial⟩) fun o w ⟨hws, hva, hvd, hw, _⟩ => ?_
  rw [WExt.parse, hw, Span.ofCode_code, hws, Span.ofCode_code, field_eq hvd, field_eq hva]

theorem WGet.format : Format 0x007FFFFF WGet.bits WGet.parse some := by
  refine .of_slots [(0, 256), (8, 64), (14, 64), (20, 8)] (fun o => [o.n, o.va, o.s, o.w.code]) rfl rfl (fun _ => rfl)
    (fun o => ⟨o.n.isLt, o.va.isLt, o.s.isLt, o.w.code_lt_eight, trivial⟩) fun o w ⟨hn, hva, hs, hw, _⟩ => ?_
  rw [WGet.parse, hw, Span.ofCode_code, field_eq hs, field_eq hva, field_eq hn]

theorem WSet.format : Format 0x007FFFFF WSet.bits WSet.parse some := by
  refine .of_slots [(0, 256), (8, 64), (14, 64), (20, 8)] (fun o => [o.n, o.s, o.vd, o.w.code]) rfl rfl (fun _ => rfl)
    (fun o => ⟨o.n.isLt, o.s.isLt, o.vd.isLt, o.w.code_lt_eight, trivial⟩) fun o w ⟨hn, hs, hvd, hw, _⟩ => ?_
  rw [WSet.parse, hw, Span.ofCode_code, field_eq hvd, field_eq hs, field_eq hn]

theorem WCres.format : Format 0x007FC7FC WCres.bits WCres.parse some := by
  refine .of_slots [(2, 64), (8, 8), (14, 64), (20, 8)] (fun o => [o.s, o.j, o.vd, o.w.code]) rfl rfl (fun _ => rfl)
    (fun o => ⟨o.s.isLt, o.j.isLt, o.vd.isLt, o.w.code_lt_eight, trivial⟩) fun o w ⟨hs, hj, hvd, hw, _⟩ => ?_
  rw [WCres.parse, hw, Span.ofCode_code, field_eq hvd, field_eq hj, field_eq hs]

theorem MAcp.format : Format 0x007FFFCE MAcp.bits MAcp.parse some := by
  refine .of_slots [(1, 8), (6, 2), (7, 2), (8, 64), (14, 64), (20, 8)] (fun o => [o.z.code, bitNat o.lss, bitNat o.lsd, o.va, o.vd, o.g]) rfl rfl
    (fun _ => rfl)
    (fun o => ⟨o.z.code_lt, bitNat_lt o.lss, bitNat_lt o.lsd, o.va.isLt, o.vd.isLt, o.g.isLt, trivial⟩)
    fun o w ⟨hz, hlss, hlsd, hva, hvd, hg, _⟩ => ?_
  rw [MAcp.parse, hz, Size.ofCode_code, field_eq hg, field_eq hvd, field_eq hva, flag_eq hlsd, flag_eq hlss]

theorem MLd.format : Format 0x00FFFFFF MLd.bits MLd.parse some := by
  refine .of_slots [(0, 2), (1, 8), (4, 16), (8, 64), (14, 64), (20, 8), (23, 2)] (fun o => [bitNat o.o, o.z.code, o.la, o.va, o.vd, o.g, bitNat
    o.u]) rfl rfl (fun _ => rfl)
    (fun o => ⟨bitNat_lt o.o, o.z.code_lt, o.la.isLt, o.va.isLt, o.vd.isLt, o.g.isLt, bitNat_lt o.u, trivial⟩)
    fun o w ⟨ho, hz, hla, hva, hvd, hg, hu, _⟩ => ?_
  rw [MLd.parse, hz, Size.ofCode_code, flag_eq hu, field_eq hg, field_eq hvd, field_eq hva, field_eq hla, flag_eq ho]

theorem MSt.format : Format 0x007FFF0F MSt.bits MSt.parse some := by
  refine .of_slots [(0, 2), (1, 8), (8, 64), (14, 64), (20, 8)] (fun o => [bitNat o.o, o.z.code, o.va, o.vd, o.g]) rfl rfl (fun _ => rfl)
    (fun o => ⟨bitNat_lt o.o, o.z.code_lt, o.va.isLt, o.vd.isLt, o.g.isLt, trivial⟩) fun o w ⟨ho, hz, hva, hvd, hg, _⟩ => ?_
  rw [MSt.parse, hz, Size.ofCode_code, field_eq hg, field_eq hvd, field_eq hva, flag_eq ho]

theorem MLdl.format : Format 0x00FFFFFE MLdl.bits MLdl.parse some := by
  refine .of_slots [(1, 8), (4, 16), (8, 64), (14, 64), (20, 8), (23, 2)] (fun o => [o.z.code, o.la, o.va, o.vd, o.g, bitNat o.u]) rfl rfl
    (fun _ => rfl)
    (fun o => ⟨o.z.code_lt, o.la.isLt, o.va.isLt, o.vd.isLt, o.g.isLt, bitNat_lt o.u, trivial⟩) fun o w ⟨hz, hla, hva, hvd, hg, hu, _⟩ => ?_
  rw [MLdl.parse, hz, Size.ofCode_code, flag_eq hu, field_eq hg, field_eq hvd, field_eq hva, field_eq hla]

theorem MStl.format : Format 0x007FFF0E MStl.bits MStl.parse some := by
  refine .of_slots [(1, 8), (8, 64), (14, 64), (20, 8)] (fun o => [o.z.code, o.va, o.vd, o.g]) rfl rfl (fun _ => rfl)
    (fun o => ⟨o.z.code_lt, o.va.isLt, o.vd.isLt, o.g.isLt, trivial⟩) fun o w ⟨hz, hva, hvd, hg, _⟩ => ?_
  rw [MStl.parse, hz, Size.ofCode_code, field_eq hg, field_eq hvd, field_eq hva]

theorem MAtom.format : Format 0x007FFFFF MAtom.bits MAtom.parse some := by
  refine .of_slots [(0, 2), (1, 16), (5, 8), (8, 64), (14, 64), (20, 8)] (fun o => [bitNat o.nr, o.op.code, o.la, o.va, o.vd, o.g]) rfl rfl
    (fun _ => rfl)
    (fun o => ⟨bitNat_lt o.nr, o.op.code_lt, o.la.isLt, o.va.isLt, o.vd.isLt, o.g.isLt, trivial⟩) fun o w ⟨hnr, hop, hla, hva, hvd, hg, _⟩ => ?_
  rw [MAtom.parse, hop, AtomOp.ofCode_code, field_eq hg, field_eq hvd, field_eq hva, field_eq hla, flag_eq hnr]

theorem UR3.format : Format 0x00FFFFC0 UR3.bits UR3.parse id := by
  refine .of_slots [(6, 64), (12, 64), (18, 64)] (fun o => [o.sb, o.sa, o.sd]) rfl rfl (fun _ => rfl)
    (fun o => ⟨o.sb.isLt, o.sa.isLt, o.sd.isLt, trivial⟩) fun o w ⟨hsb, hsa, hsd, _⟩ => ?_
  rw [UR3.parse, field_eq hsd, field_eq hsa, field_eq hsb, id]

theorem UR2.format : Format 0x00FFF000 UR2.bits UR2.parse id := by
  refine .of_slots [(12, 64), (18, 64)] (fun o => [o.sa, o.sd]) rfl rfl (fun _ => rfl)
    (fun o => ⟨o.sa.isLt, o.sd.isLt, trivial⟩) fun o w ⟨hsa, hsd, _⟩ => ?_
  rw [UR2.parse, field_eq hsd, field_eq hsa, id]

theorem USel.format : Format 0x00FFFFF8 USel.bits USel.parse id := by
  refine .of_slots [(3, 8), (6, 64), (12, 64), (18, 64)] (fun o => [o.c, o.sb, o.sa, o.sd]) rfl rfl (fun _ => rfl)
    (fun o => ⟨o.c.isLt, o.sb.isLt, o.sa.isLt, o.sd.isLt, trivial⟩) fun o w ⟨hc, hsb, hsa, hsd, _⟩ => ?_
  rw [USel.parse, field_eq hsd, field_eq hsa, field_eq hsb, field_eq hc, id]

theorem UCmp.format : Format 0x00FFFFC0 UCmp.bits UCmp.parse some := by
  refine .of_slots [(6, 64), (12, 64), (18, 8), (21, 8)] (fun o => [o.sb, o.sa, o.k, o.cc.code]) rfl rfl (fun _ => rfl)
    (fun o => ⟨o.sb.isLt, o.sa.isLt, o.k.isLt, o.cc.code_lt, trivial⟩) fun o w ⟨hsb, hsa, hk, hcc, _⟩ => ?_
  rw [UCmp.parse, hcc, Cmp.ofCode_code, field_eq hk, field_eq hsa, field_eq hsb]

theorem UImm.format : Format 0x00FFFFFF UImm.bits UImm.parse id := by
  refine .of_slots [(0, 2 ^ 12), (12, 64), (18, 64)] (fun o => [o.imm.toNat, o.sa, o.sd]) rfl rfl (fun _ => rfl)
    (fun o => ⟨o.imm.isLt, o.sa.isLt, o.sd.isLt, trivial⟩) fun o w ⟨himm, hsa, hsd, _⟩ => ?_
  rw [UImm.parse, field_eq hsd, field_eq hsa, imm_eq himm, id]

theorem ULui.format : Format 0x00FFFFFF ULui.bits ULui.parse id := by
  refine .of_slots [(0, 2 ^ 18), (18, 64)] (fun o => [o.imm.toNat, o.sd]) rfl rfl (fun _ => rfl)
    (fun o => ⟨o.imm.isLt, o.sd.isLt, trivial⟩) fun o w ⟨himm, hsd, _⟩ => ?_
  rw [ULui.parse, field_eq hsd, imm_eq himm, id]

theorem UCond.format : Format 0x001C71C0 UCond.bits UCond.parse id := by
  refine .of_slots [(6, 8), (12, 8), (18, 8)] (fun o => [o.cb, o.ca, o.cd]) rfl rfl (fun _ => rfl)
    (fun o => ⟨o.cb.isLt, o.ca.isLt, o.cd.isLt, trivial⟩) fun o w ⟨hcb, hca, hcd, _⟩ => ?_
  rw [UCond.parse, field_eq hcd, field_eq hca, field_eq hcb, id]

theorem UPred.format : Format 0x00FC7000 UPred.bits UPred.parse id := by
  refine .of_slots [(12, 8), (18, 64)] (fun o => [o.k, o.sd]) rfl rfl (fun _ => rfl)
    (fun o => ⟨o.k.isLt, o.sd.isLt, trivial⟩) fun o w ⟨hk, hsd, _⟩ => ?_
  rw [UPred.parse, field_eq hsd, field_eq hk, id]

theorem USrd.format : Format 0x00FC0FFF USrd.bits USrd.parse id := by
  refine .of_slots [(0, 2 ^ 12), (18, 64)] (fun o => [o.n.toNat, o.sd]) rfl rfl (fun _ => rfl)
    (fun o => ⟨o.n.isLt, o.sd.isLt, trivial⟩) fun o w ⟨hn, hsd, _⟩ => ?_
  rw [USrd.parse, field_eq hsd, imm_eq hn, id]

theorem USwr.format : Format 0x0003FFFF USwr.bits USwr.parse id := by
  refine .of_slots [(0, 2 ^ 12), (12, 64)] (fun o => [o.n.toNat, o.sa]) rfl rfl (fun _ => rfl)
    (fun o => ⟨o.n.isLt, o.sa.isLt, trivial⟩) fun o w ⟨hn, hsa, _⟩ => ?_
  rw [USwr.parse, field_eq hsa, imm_eq hn, id]

theorem UJ.format : Format 0x00FFFFFF UJ.bits UJ.parse id := by
  refine .of_slots [(0, 2 ^ 20), (20, 2), (21, 8)] (fun o => [o.off.toNat, bitNat o.x, o.k]) rfl rfl (fun _ => rfl)
    (fun o => ⟨o.off.isLt, bitNat_lt o.x, o.k.isLt, trivial⟩) fun o w ⟨hoff, hx, hk, _⟩ => ?_
  rw [UJ.parse, field_eq hk, flag_eq hx, imm_eq hoff, id]

theorem UA.format : Format 0x0003F000 UA.bits UA.parse id := by
  refine .of_slots [(12, 64)] (fun o => [o.sa]) rfl rfl (fun _ => rfl)
    (fun o => ⟨o.sa.isLt, trivial⟩) fun o w ⟨hsa, _⟩ => ?_
  rw [UA.parse, field_eq hsa, id]

theorem ULoop.format : Format 0x0003FFFF ULoop.bits ULoop.parse id := by
  refine .of_slots [(0, 2 ^ 12), (12, 64)] (fun o => [o.imm.toNat, o.sa]) rfl rfl (fun _ => rfl)
    (fun o => ⟨o.imm.isLt, o.sa.isLt, trivial⟩) fun o w ⟨himm, hsa, _⟩ => ?_
  rw [ULoop.parse, field_eq hsa, imm_eq himm, id]

theorem UDc.format : Format 0x00FC0000 UDc.bits UDc.parse id := by
  refine .of_slots [(18, 64)] (fun o => [o.sd]) rfl rfl (fun _ => rfl)
    (fun o => ⟨o.sd.isLt, trivial⟩) fun o w ⟨hsd, _⟩ => ?_
  rw [UDc.parse, field_eq hsd, id]

theorem UOff.format : Format 0x000FFFFF UOff.bits UOff.parse id := by
  refine .of_slots [(0, 2 ^ 20)] (fun o => [o.off.toNat]) rfl rfl (fun _ => rfl)
    (fun o => ⟨o.off.isLt, trivial⟩) fun o w ⟨hoff, _⟩ => ?_
  rw [UOff.parse, imm_eq hoff, id]

theorem UCode.format : Format 0x00000FFF UCode.bits UCode.parse id := by
  refine .of_slots [(0, 2 ^ 12)] (fun o => [o.code.toNat]) rfl rfl (fun _ => rfl)
    (fun o => ⟨o.code.isLt, trivial⟩) fun o w ⟨hcode, _⟩ => ?_
  rw [UCode.parse, imm_eq hcode, id]

theorem UPrd.format : Format 0x00FC0FC0 UPrd.bits UPrd.parse id := by
  refine .of_slots [(6, 64), (18, 64)] (fun o => [o.sb, o.sd]) rfl rfl (fun _ => rfl)
    (fun o => ⟨o.sb.isLt, o.sd.isLt, trivial⟩) fun o w ⟨hsb, hsd, _⟩ => ?_
  rw [UPrd.parse, field_eq hsd, field_eq hsb, id]

theorem UPwr.format : Format 0x0003FFC0 UPwr.bits UPwr.parse id := by
  refine .of_slots [(6, 64), (12, 64)] (fun o => [o.sb, o.sa]) rfl rfl (fun _ => rfl)
    (fun o => ⟨o.sb.isLt, o.sa.isLt, trivial⟩) fun o w ⟨hsb, hsa, _⟩ => ?_
  rw [UPwr.parse, field_eq hsa, field_eq hsb, id]

theorem UBar.format : Format 0x00000F00 UBar.bits UBar.parse id := by
  refine .of_slots [(8, 16)] (fun o => [o.n]) rfl rfl (fun _ => rfl)
    (fun o => ⟨o.n.isLt, trivial⟩) fun o w ⟨hn, _⟩ => ?_
  rw [UBar.parse, field_eq hn, id]

theorem UBarC.format : Format 0x0003FF00 UBarC.bits UBarC.parse id := by
  refine .of_slots [(8, 16), (12, 64)] (fun o => [o.n, o.sa]) rfl rfl (fun _ => rfl)
    (fun o => ⟨o.n.isLt, o.sa.isLt, trivial⟩) fun o w ⟨hn, hsa, _⟩ => ?_
  rw [UBarC.parse, field_eq hsa, field_eq hn, id]

theorem UFence.format : Format 0x00000E40 UFence.bits UFence.parse some := by
  refine .of_slots [(6, 2), (9, 8)] (fun o => [bitNat o.dr, o.sc.code]) rfl rfl (fun _ => rfl)
    (fun o => ⟨bitNat_lt o.dr, o.sc.code_lt, trivial⟩) fun o w ⟨hdr, hsc, _⟩ => ?_
  rw [UFence.parse, hsc, Scope.ofCode_code, flag_eq hdr]

theorem ULd.format : Format 0x00FFFFFF ULd.bits ULd.parse id := by
  refine .of_slots [(0, 256), (8, 16), (12, 64), (18, 64)] (fun o => [o.off, o.la, o.sa, o.sd]) rfl rfl (fun _ => rfl)
    (fun o => ⟨o.off.isLt, o.la.isLt, o.sa.isLt, o.sd.isLt, trivial⟩) fun o w ⟨hoff, hla, hsa, hsd, _⟩ => ?_
  rw [ULd.parse, field_eq hsd, field_eq hsa, field_eq hla, field_eq hoff, id]

theorem USt.format : Format 0x00FFF0FF USt.bits USt.parse id := by
  refine .of_slots [(0, 256), (12, 64), (18, 64)] (fun o => [o.off, o.sa, o.sd]) rfl rfl (fun _ => rfl)
    (fun o => ⟨o.off.isLt, o.sa.isLt, o.sd.isLt, trivial⟩) fun o w ⟨hoff, hsa, hsd, _⟩ => ?_
  rw [USt.parse, field_eq hsd, field_eq hsa, field_eq hoff, id]

theorem UAtom.format : Format 0x00FFFFFC UAtom.bits UAtom.parse some := by
  refine .of_slots [(2, 2), (3, 2), (4, 16), (8, 16), (12, 64), (18, 64)] (fun o => [bitNat o.nr, bitNat o.w64, o.op.code, o.la, o.sa, o.sd]) rfl
    rfl (fun _ => rfl)
    (fun o => ⟨bitNat_lt o.nr, bitNat_lt o.w64, o.op.code_lt, o.la.isLt, o.sa.isLt, o.sd.isLt, trivial⟩)
    fun o w ⟨hnr, hw64, hop, hla, hsa, hsd, _⟩ => ?_
  rw [UAtom.parse, hop, AtomOp.ofCode_code, field_eq hsd, field_eq hsa, field_eq hla, flag_eq hw64, flag_eq hnr]

theorem UQput.format : Format 0x0003F1FF UQput.bits UQput.parse id := by
  refine .of_slots [(0, 32), (5, 2), (6, 8), (12, 64)] (fun o => [o.q, bitNat o.nb, o.c, o.sa]) rfl rfl (fun _ => rfl)
    (fun o => ⟨o.q.isLt, bitNat_lt o.nb, o.c.isLt, o.sa.isLt, trivial⟩) fun o w ⟨hq, hnb, hc, hsa, _⟩ => ?_
  rw [UQput.parse, field_eq hsa, field_eq hc, flag_eq hnb, field_eq hq, id]

theorem UQget.format : Format 0x00FC01FF UQget.bits UQget.parse id := by
  refine .of_slots [(0, 32), (5, 2), (6, 8), (18, 64)] (fun o => [o.q, bitNat o.nb, o.c, o.sd]) rfl rfl (fun _ => rfl)
    (fun o => ⟨o.q.isLt, bitNat_lt o.nb, o.c.isLt, o.sd.isLt, trivial⟩) fun o w ⟨hq, hnb, hc, hsd, _⟩ => ?_
  rw [UQget.parse, field_eq hsd, field_eq hc, flag_eq hnb, field_eq hq, id]

theorem UWait.format : Format 0x0000000F UWait.bits UWait.parse id := by
  refine .of_slots [(0, 16)] (fun o => [o.n]) rfl rfl (fun _ => rfl)
    (fun o => ⟨o.n.isLt, trivial⟩) fun o w ⟨hn, _⟩ => ?_
  rw [UWait.parse, field_eq hn, id]

theorem UDAL.format : Format 0x00FFFF00 UDAL.bits UDAL.parse id := by
  refine .of_slots [(8, 16), (12, 64), (18, 64)] (fun o => [o.la, o.sa, o.sd]) rfl rfl (fun _ => rfl)
    (fun o => ⟨o.la.isLt, o.sa.isLt, o.sd.isLt, trivial⟩) fun o w ⟨hla, hsa, hsd, _⟩ => ?_
  rw [UDAL.parse, field_eq hsd, field_eq hsa, field_eq hla, id]

theorem UArm.format : Format 0x00000017 UArm.bits UArm.parse id := by
  refine .of_slots [(0, 8), (4, 2)] (fun o => [o.k, bitNat o.wr]) rfl rfl (fun _ => rfl)
    (fun o => ⟨o.k.isLt, bitNat_lt o.wr, trivial⟩) fun o w ⟨hk, hwr, _⟩ => ?_
  rw [UArm.parse, flag_eq hwr, field_eq hk, id]

theorem UStrm.format : Format 0x00000007 UStrm.bits UStrm.parse id := by
  refine .of_slots [(0, 8)] (fun o => [o.k]) rfl rfl (fun _ => rfl)
    (fun o => ⟨o.k.isLt, trivial⟩) fun o w ⟨hk, _⟩ => ?_
  rw [UStrm.parse, field_eq hk, id]

theorem UMacq.format : Format 0x00FC000F UMacq.bits UMacq.parse id := by
  refine .of_slots [(0, 16), (18, 64)] (fun o => [o.n, o.sd]) rfl rfl (fun _ => rfl)
    (fun o => ⟨o.n.isLt, o.sd.isLt, trivial⟩) fun o w ⟨hn, hsd, _⟩ => ?_
  rw [UMacq.parse, field_eq hsd, field_eq hn, id]

theorem UJoint.format : Format 0x0003F000 UJoint.bits UJoint.parse id := by
  refine .of_slots [(12, 64)] (fun o => [o.sa]) rfl rfl (fun _ => rfl)
    (fun o => ⟨o.sa.isLt, trivial⟩) fun o w ⟨hsa, _⟩ => ?_
  rw [UJoint.parse, field_eq hsa, id]

theorem UNtt.format : Format 0x00FFFF03 UNtt.bits UNtt.parse id := by
  refine .of_slots [(0, 4), (8, 16), (12, 64), (18, 64)] (fun o => [o.p, o.la, o.sa, o.sd]) rfl rfl (fun _ => rfl)
    (fun o => ⟨o.p.isLt, o.la.isLt, o.sa.isLt, o.sd.isLt, trivial⟩) fun o w ⟨hp, hla, hsa, hsd, _⟩ => ?_
  rw [UNtt.parse, field_eq hsd, field_eq hsa, field_eq hla, field_eq hp, id]

theorem UEmit.format : Format 0x0003F07F UEmit.bits UEmit.parse id := by
  refine .of_slots [(0, 16), (4, 2), (5, 2), (6, 2), (12, 64)] (fun o => [o.k, bitNat o.pair, bitNat o.chk, bitNat o.nb, o.sa]) rfl rfl (fun _ => rfl)
    (fun o => ⟨o.k.isLt, bitNat_lt o.pair, bitNat_lt o.chk, bitNat_lt o.nb, o.sa.isLt, trivial⟩) fun o w ⟨hk, hpair, hchk, hnb, hsa, _⟩ => ?_
  rw [UEmit.parse, field_eq hsa, flag_eq hnb, flag_eq hchk, flag_eq hpair, field_eq hk, id]

theorem UEStrm.format : Format 0x0000000F UEStrm.bits UEStrm.parse id := by
  refine .of_slots [(0, 16)] (fun o => [o.k]) rfl rfl (fun _ => rfl)
    (fun o => ⟨o.k.isLt, trivial⟩) fun o w ⟨hk, _⟩ => ?_
  rw [UEStrm.parse, field_eq hk, id]

theorem UEopen.format : Format 0x0003F04F UEopen.bits UEopen.parse id := by
  refine .of_slots [(0, 16), (6, 2), (12, 64)] (fun o => [o.k, bitNat o.tow, o.sa]) rfl rfl (fun _ => rfl)
    (fun o => ⟨o.k.isLt, bitNat_lt o.tow, o.sa.isLt, trivial⟩) fun o w ⟨hk, htow, hsa, _⟩ => ?_
  rw [UEopen.parse, field_eq hsa, flag_eq htow, field_eq hk, id]

theorem UEpos.format : Format 0x00FC000F UEpos.bits UEpos.parse id := by
  refine .of_slots [(0, 16), (18, 64)] (fun o => [o.k, o.sd]) rfl rfl (fun _ => rfl)
    (fun o => ⟨o.k.isLt, o.sd.isLt, trivial⟩) fun o w ⟨hk, hsd, _⟩ => ?_
  rw [UEpos.parse, field_eq hsd, field_eq hk, id]

theorem UTide.format : Format 0x0003F003 UTide.bits UTide.parse id := by
  refine .of_slots [(0, 4), (12, 64)] (fun o => [o.l, o.sa]) rfl rfl (fun _ => rfl)
    (fun o => ⟨o.l.isLt, o.sa.isLt, trivial⟩) fun o w ⟨hl, hsa, _⟩ => ?_
  rw [UTide.parse, field_eq hsa, field_eq hl, id]

/-! ### Words read through windows -/

section
variable {m m' n x y d k : Nat}

/-- Windows outside the operands and the fields beside them show the opcode alone. -/
theorem window_word (hx : Within m x) (hy : Within m' y) (hm : m &&& m' = 0) (hn : n &&& (m ||| m') = 0) (hd : 2 ^ d.log2 = d)
    (hk : 2 ^ k.log2 = k) (hw : (m ||| m') / d % k = 0) : (n + x + y) / d % k = n / d % k := by
  rw [Nat.add_assoc]
  exact (hx.add hy hm).window_add hn hd hk hw

theorem low_window_word (hx : Within m x) (hy : Within m' y) (hm : m &&& m' = 0) (hn : n &&& (m ||| m') = 0) (hk : 2 ^ k.log2 = k)
    (hw : (m ||| m') % k = 0) : (n + x + y) % k = n % k := by
  simpa using window_word hx hy hm hn (d := 1) rfl hk (by simpa using hw)

theorem within_opcode_add (hx : Within m x) (hn : n &&& m = 0) (h : (n ||| m) &&& k = n ||| m) : Within k (n + x) :=
  ((show Within n n from Nat.and_self n).add hx hn).mono h

/-- Under the mask of the operands a word shows them alone. -/
theorem word_and (hx : Within m x) (hy : Within m' y) (hm : m &&& m' = 0) (hn : n &&& (m ||| m') = 0) : (n + x + y) &&& m = x := by
  rw [Nat.and_or_distrib_left, Nat.or_eq_zero_iff] at hn
  obtain ⟨hnm, hnm'⟩ := hn
  have hny : Within (n ||| m') (n + y) := Within.add (Nat.and_self n) hy hnm'
  rw [Nat.add_right_comm, Nat.add_comm, hx.add_and_left hny (by rw [Nat.and_or_distrib_left, Nat.and_comm, hnm, hm, Nat.or_zero])]

end

/-- A word made of an opcode, an operand format and the fields beside it: the windows outside both show the opcode, the format reads its operands,
and the instruction's own bits lie under their mask. -/
theorem Format.word {α β : Type} {m m' y : Nat} {bits : α → Nat} {parse : Nat → β} {out : α → β} (F : Format m bits parse out) (o : α)
    (hy : Within m' y) :
    (∀ n d k, m &&& m' = 0 → n &&& (m ||| m') = 0 → 2 ^ d.log2 = d → 2 ^ k.log2 = k → (m ||| m') / d % k = 0 →
      (n + bits o + y) / d % k = n / d % k) ∧
    (∀ n k, m &&& m' = 0 → n &&& (m ||| m') = 0 → 2 ^ k.log2 = k → (m ||| m') % k = 0 → (n + bits o + y) % k = n % k) ∧
    (∀ n, m &&& m' = 0 → n &&& (m ||| m') = 0 → parse (n + bits o + y) = out o) ∧
    (∀ n k, n &&& m = 0 → (n ||| m) &&& k = n ||| m → Within k (n + bits o)) :=
  ⟨fun _ _ _ hm hn hd hk hw => window_word (F.within o) hy hm hn hd hk hw, fun _ _ hm hn hk hw => low_window_word (F.within o) hy hm hn hk hw,
    fun _ hm hn => F.reads o _ (word_and (F.within o) hy hm hn), fun _ _ hn h => within_opcode_add (F.within o) hn h⟩

/-- What `Format.word` says, for an instruction without operands. -/
theorem word_alone {m y : Nat} (hy : Within m y) :
    (∀ n d k, n &&& m = 0 → 2 ^ d.log2 = d → 2 ^ k.log2 = k → m / d % k = 0 → (n + y) / d % k = n / d % k) ∧
    (∀ n k, n &&& m = 0 → 2 ^ k.log2 = k → m % k = 0 → (n + y) % k = n % k) ∧ (∀ n k, n &&& k = n → Within k n) :=
  ⟨fun _ _ _ hn hd hk hw => hy.window_add hn hd hk hw,
    fun _ _ hn hk hw => by simpa using hy.window_add (d := 1) hn rfl hk (by simpa using hw), fun _ _ h => h⟩

/-! ### The words of each map

One case for each operand format of a major opcode: the windows by which the map tells its words apart show the opcode, whatever the operands and
the fields beside them are. -/

/-- The lane words of majors 0x01 to 0x1F. -/
def Instr.laneLow : Instr → Bool
  | .iadd _ | .iaddSat _ | .iaddSatN32 _ | .isub _ | .isubSat _ | .isubSatN32 _ | .imul _ | .imulHi _ | .imulHiN32 _ | .imad _ | .idivI32 _ |
  .idivN32 _ | .iremI32 _ | .iremN32 _ | .iminI32 _ | .iminN32 _ | .imaxI32 _ | .imaxN32 _ | .land _ | .lor _ | .lxor _ | .landn _ | .ishl _ |
  .ishr _ | .isar _ | .irot _ | .popc _ | .clz _ | .ctz _ | .brev _ | .icmpI32 _ | .icmpN32 _ | .sel _ | .bfxN32 _ | .bfxI32 _ | .bfi _ | .addmod _
  | .submod _ | .mulmod _ | .iaddi _ | .ishli _ | .ishri _ | .isari _ | .iroti _ | .imovi _ | .fadd _ | .fsub _ | .fmul _ | .ffma _ | .fmin _ |
  .fmax _ | .fscl _ | .fcmp _ | .fabs _ | .fneg _ | .frcp _ | .frsq _ | .fsqrt _ | .fexp2 _ | .flog2 _ | .fclass _ | .frint _ | .dpe5 _ | .dpbf _ |
  .dpf8 _ | .dpf4 _ | .dadd _ | .dsub _ | .dmul _ | .dfma _ | .dcmp _ | .cvt _ | .pack8 _ | .pack4 _ | .dpi8I8 _ | .dpi8N8 _ | .dpi4I4 _ | .dpi4N4 _
  => true
  | _ => false

/-- The lane words of majors 0x20 to 0x3F. -/
def Instr.laneHigh : Instr → Bool
  | .shflIdx _ | .shflUp _ | .shflDown _ | .shflXor _ | .redadd _ | .redmin _ | .redmax _ | .redminn _ | .minxI32 _ | .minxN32 _ | .maxxI32 _ |
  .maxxN32 _ | .scanAdd _ | .scanXadd _ | .scanMax _ | .scanMin _ | .voteBallot _ | .voteAny _ | .voteAll _ | .bcast _ | .vget _ | .lidx _ | .pand _
  | .por _ | .pxor _ | .pandn _ | .vtrp _ | .wadd _ | .wadc _ | .wsub _ | .wsbb _ | .wand _ | .wor _ | .wxor _ | .wandn _ | .wshl _ | .wshr _ |
  .wsar _ | .wmuls _ | .wmads _ | .wdivs _ | .wdiv _ | .wcmpI _ | .wcmpN _ | .wneg _ | .wnot _ | .wabs _ | .wnorm _ | .wclz _ | .wpopc _ | .wextI _
  | .wextN _ | .wgetl _ | .wsetl _ | .cres _ | .qadd _ | .qsub _ | .qmul _ | .qdiv _ | .qnorm _ | .wgcd _ | .acp _ | .ld _ | .lds _ | .ldi _ | .st _
  | .sts _ | .ldl _ | .stl _ | .atom _ | .atom64 _ => true
  | _ => false

theorem parse_lane_low_word {i : Instr} {n y : Nat} (hl : i.laneLow = true) (h : encodeBits i = some n) (hy : Within 0x40000000 y) :
    parse (n + y) = some i ∧ Within 0xBFFFFFFF n := by
  cases i with
  | iadd o | iaddSat o | iaddSatN32 o =>
    cases h
    simp -iota (disch := decide) [parse, parseLane, parseLane01, LR3.format.word o hy]
    rfl
  | isub o | isubSat o | isubSatN32 o =>
    cases h
    simp -iota (disch := decide) [parse, parseLane, parseLane02, LR3.format.word o hy]
    rfl
  | imul o | imulHi o | imulHiN32 o =>
    cases h
    simp -iota (disch := decide) [parse, parseLane, parseLane03, LR3.format.word o hy]
    rfl
  | imad o =>
    cases h
    simp -iota (disch := decide) [parse, parseLane, parseLane04, LR3.format.word o hy]
    rfl
  | idivI32 o | idivN32 o | iremI32 o | iremN32 o =>
    cases h
    simp -iota (disch := decide) [parse, parseLane, parseLane05, LR3.format.word o hy]
    rfl
  | iminI32 o | iminN32 o | imaxI32 o | imaxN32 o =>
    cases h
    simp -iota (disch := decide) [parse, parseLane, parseLane06, LR3.format.word o hy]
    rfl
  | land o | lor o | lxor o | landn o =>
    cases h
    simp -iota (disch := decide) [parse, parseLane, parseLane07, LR3.format.word o hy]
    rfl
  | ishl o | ishr o | isar o | irot o =>
    cases h
    simp -iota (disch := decide) [parse, parseLane, parseLane08, LR3.format.word o hy]
    rfl
  | popc o | clz o | ctz o | brev o =>
    cases h
    simp -iota (disch := decide) [parse, parseLane, parseLane09, LR2.format.word o hy]
    rfl
  | icmpI32 o | icmpN32 o =>
    cases h
    simp -iota (disch := decide) [parse, parseLane, parseLane0A, LCmp.format.word o hy]
    rfl
  | sel o =>
    cases h
    simp -iota (disch := decide) [parse, parseLane, parseLane0B, LR3.format.word o hy]
    rfl
  | bfxN32 o | bfxI32 o | bfi o =>
    cases h
    simp -iota (disch := decide) [parse, parseLane, parseLane0C, LR3.format.word o hy]
    rfl
  | addmod o | submod o | mulmod o =>
    cases h
    simp -iota (disch := decide) [parse, parseLane, parseLane0D, LR3.format.word o hy]
    rfl
  | iaddi o =>
    cases h
    simp -iota (disch := decide) [parse, parseLane, parseLane0E, LImm.format.word o hy]
    rfl
  | ishli o | ishri o | isari o | iroti o =>
    cases h
    simp -iota (disch := decide) [parse, parseLane, parseLane0F, LShift.format.word o hy]
    rfl
  | imovi o =>
    cases h
    simp -iota (disch := decide) [parse, parseLane, parseLane10, LMov.format.word o hy]
    rfl
  | fadd o | fsub o =>
    cases h
    simp -iota (disch := decide) [parse, parseLane, parseLane11, LR3.format.word o hy]
    rfl
  | fmul o =>
    cases h
    simp -iota (disch := decide) [parse, parseLane, parseLane12, LR3.format.word o hy]
    rfl
  | ffma o =>
    cases h
    simp -iota (disch := decide) [parse, parseLane, parseLane13, LR3.format.word o hy]
    rfl
  | fmin o | fmax o | fscl o =>
    cases h
    simp -iota (disch := decide) [parse, parseLane, parseLane14, LR3.format.word o hy]
    rfl
  | fcmp o =>
    cases h
    simp -iota (disch := decide) [parse, parseLane, parseLane15, LCmp.format.word o hy]
    rfl
  | fabs o | fneg o | frcp o | frsq o | fsqrt o | fexp2 o | flog2 o | fclass o | frint o =>
    cases h
    simp -iota (disch := decide) [parse, parseLane, parseLane16, LR2.format.word o hy]
    rfl
  | dpe5 o | dpbf o | dpf8 o | dpf4 o =>
    cases h
    simp -iota (disch := decide) [parse, parseLane, parseLane17, LR3.format.word o hy]
    rfl
  | dadd o | dsub o =>
    cases h
    simp -iota (disch := decide) [parse, parseLane, parseLane18, LR3.format.word o hy]
    rfl
  | dmul o =>
    cases h
    simp -iota (disch := decide) [parse, parseLane, parseLane19, LR3.format.word o hy]
    rfl
  | dfma o =>
    cases h
    simp -iota (disch := decide) [parse, parseLane, parseLane1A, LR3.format.word o hy]
    rfl
  | dcmp o =>
    cases h
    simp -iota (disch := decide) [parse, parseLane, parseLane1B, LCmp.format.word o hy]
    rfl
  | cvt o =>
    cases h
    simp -iota (disch := decide) [parse, parseLane, parseLane1C, LCvt.format.word o hy]
    rfl
  | pack8 o =>
    cases h
    simp -iota (disch := decide) [parse, parseLane, parseLane1D, LPack8.format.word o hy]
    rfl
  | pack4 o =>
    cases h
    simp -iota (disch := decide) [parse, parseLane, parseLane1E, LPack4.format.word o hy]
    rfl
  | dpi8I8 o | dpi8N8 o | dpi4I4 o | dpi4N4 o =>
    cases h
    simp -iota (disch := decide) [parse, parseLane, parseLane1F, LR3.format.word o hy]
    rfl
  | _ => cases hl

theorem parse_lane_high_word {i : Instr} {n y : Nat} (hl : i.laneHigh = true) (h : encodeBits i = some n) (hy : Within 0x40000000 y) :
    parse (n + y) = some i ∧ Within 0xBFFFFFFF n := by
  cases i with
  | shflIdx o | shflUp o | shflDown o | shflXor o =>
    cases h
    simp -iota (disch := decide) [parse, parseLane, parseLane20, XR3.format.word o hy]
    rfl
  | redadd o | redmin o | redmax o | redminn o =>
    cases h
    simp -iota (disch := decide) [parse, parseLane, parseLane21, XR2.format.word o hy]
    rfl
  | minxI32 o | minxN32 o | maxxI32 o | maxxN32 o =>
    cases h
    simp -iota (disch := decide) [parse, parseLane, parseLane22, XR2.format.word o hy]
    rfl
  | scanAdd o | scanXadd o | scanMax o | scanMin o =>
    cases h
    simp -iota (disch := decide) [parse, parseLane, parseLane23, XR2.format.word o hy]
    rfl
  | voteBallot o =>
    cases h
    simp -iota (disch := decide) [parse, parseLane, parseLane24, XBallot.format.word o hy]
    rfl
  | voteAny o | voteAll o =>
    cases h
    simp -iota (disch := decide) [parse, parseLane, parseLane24, XVote.format.word o hy]
    rfl
  | bcast o =>
    cases h
    simp -iota (disch := decide) [parse, parseLane, parseLane25, XBcast.format.word o hy]
    rfl
  | lidx o =>
    cases h
    simp -iota (disch := decide) [parse, parseLane, parseLane25, X1.format.word o hy]
    rfl
  | pand o | por o | pxor o | pandn o =>
    cases h
    simp -iota (disch := decide) [parse, parseLane, parseLane26, XPred.format.word o hy]
    rfl
  | vtrp o =>
    cases h
    simp -iota (disch := decide) [parse, parseLane, parseLane27, XR2.format.word o hy]
    rfl
  | wadd o | wadc o =>
    cases h
    simp -iota (disch := decide) [parse, parseLane, parseLane28, W3.format.word o hy]
    rfl
  | wsub o | wsbb o =>
    cases h
    simp -iota (disch := decide) [parse, parseLane, parseLane29, W3.format.word o hy]
    rfl
  | wand o | wor o | wxor o | wandn o =>
    cases h
    simp -iota (disch := decide) [parse, parseLane, parseLane2A, W3.format.word o hy]
    rfl
  | wshl o | wshr o | wsar o =>
    cases h
    simp -iota (disch := decide) [parse, parseLane, parseLane2B, WS.format.word o hy]
    rfl
  | wmuls o | wmads o =>
    cases h
    simp -iota (disch := decide) [parse, parseLane, parseLane2C, WS.format.word o hy]
    rfl
  | wdivs o =>
    cases h
    simp -iota (disch := decide) [parse, parseLane, parseLane2D, WS.format.word o hy]
    rfl
  | wdiv o =>
    cases h
    simp -iota (disch := decide) [parse, parseLane, parseLane2E, W3.format.word o hy]
    rfl
  | wcmpI o | wcmpN o =>
    cases h
    simp -iota (disch := decide) [parse, parseLane, parseLane2F, WCmp.format.word o hy]
    rfl
  | wneg o | wnot o | wabs o | wnorm o | wclz o | wpopc o =>
    cases h
    simp -iota (disch := decide) [parse, parseLane, parseLane30, W2.format.word o hy]
    rfl
  | wextI o | wextN o =>
    cases h
    simp -iota (disch := decide) [parse, parseLane, parseLane31, WExt.format.word o hy]
    rfl
  | wgetl o =>
    cases h
    simp -iota (disch := decide) [parse, parseLane, parseLane32, WGet.format.word o hy]
    rfl
  | wsetl o =>
    cases h
    simp -iota (disch := decide) [parse, parseLane, parseLane33, WSet.format.word o hy]
    rfl
  | cres o =>
    cases h
    simp -iota (disch := decide) [parse, parseLane, parseLane34, WCres.format.word o hy]
    rfl
  | qadd o | qsub o | qmul o | qdiv o =>
    cases h
    simp -iota (disch := decide) [parse, parseLane, parseLane35, W3.format.word o hy]
    rfl
  | qnorm o =>
    cases h
    simp -iota (disch := decide) [parse, parseLane, parseLane36, W2.format.word o hy]
    rfl
  | acp o =>
    cases h
    simp -iota (disch := decide) [parse, parseLane, parseLane37, MAcp.format.word o hy]
    rfl
  | ld o =>
    cases h
    simp -iota (disch := decide) [parse, parseLane, parseLane38, MLd.format.word o hy]
    rfl
  | lds o =>
    cases h
    simp -iota (disch := decide) [parse, parseLane, parseLane39, MLd.format.word o hy]
    rfl
  | ldi o =>
    cases h
    simp -iota (disch := decide) [parse, parseLane, parseLane3A, MLd.format.word o hy]
    rfl
  | st o =>
    cases h
    simp -iota (disch := decide) [parse, parseLane, parseLane3B, MSt.format.word o hy]
    rfl
  | sts o =>
    cases h
    simp -iota (disch := decide) [parse, parseLane, parseLane3C, MSt.format.word o hy]
    rfl
  | ldl o =>
    cases h
    simp -iota (disch := decide) [parse, parseLane, parseLane3D, MLdl.format.word o hy]
    rfl
  | stl o =>
    cases h
    simp -iota (disch := decide) [parse, parseLane, parseLane3D, MStl.format.word o hy]
    rfl
  | atom o =>
    cases h
    simp -iota (disch := decide) [parse, parseLane, parseLane3E, MAtom.format.word o hy]
    rfl
  | atom64 o =>
    cases h
    simp -iota (disch := decide) [parse, parseLane, parseLane3F, MAtom.format.word o hy]
    rfl
  | vget o =>
    cases h
    have hlow := (XGet.format.word o hy).2.1 0x25000001 4 rfl rfl rfl rfl
    have hne : (0x25000001 + o.bits + y) % 256 ≠ 0 := by omega
    simp -iota (disch := decide) [parse, parseLane, parseLane25, XGet.format.word o hy, hne]
    rfl
  | wgcd o =>
    cases h
    have hlow := (W3.format.word o hy).2.1 0x36000001 4 rfl rfl rfl rfl
    have hne : (0x36000001 + o.bits + y) % 256 ≠ 0 := by omega
    simp -iota (disch := decide) [parse, parseLane, parseLane36, W3.format.word o hy, hne]
    rfl
  | _ => cases hl

theorem parse_conditional_word {i : Instr} {n y : Nat} (hc : i.conditional = true) (h : encodeBits i = some n) (hy : Within 0x40000038 y) :
    parse (n + y) = some i ∧ Within 0xBFFFFFC7 n := by
  cases i with
  | sadd o | ssub o | smul o | smulh o | smulhn o | sdiv o | sdivn o | srem o =>
    cases h
    simp -iota (disch := decide) [parse, parseUniform, parseUniform00, UR3.format.word o hy]
    rfl
  | sand o | sor o | sxor o | sandn o | sshl o | sshr o | ssar o | srot o =>
    cases h
    simp -iota (disch := decide) [parse, parseUniform, parseUniform01, UR3.format.word o hy]
    rfl
  | smin o | smax o | sminn o | smaxn o =>
    cases h
    simp -iota (disch := decide) [parse, parseUniform, parseUniform02, UR3.format.word o hy]
    rfl
  | spopc o | sclz o | sctz o =>
    cases h
    simp -iota (disch := decide) [parse, parseUniform, parseUniform02, UR2.format.word o hy]
    rfl
  | scmpI o | scmpN o =>
    cases h
    simp -iota (disch := decide) [parse, parseUniform, parseUniform03, UCmp.format.word o hy]
    rfl
  | sbfx o | sbfxs o | sbfi o =>
    cases h
    simp -iota (disch := decide) [parse, parseUniform, parseUniform07, UR3.format.word o hy]
    rfl
  | cand o | cor o | cxor o | candn o =>
    cases h
    simp -iota (disch := decide) [parse, parseUniform, parseUniform08, UCond.format.word o hy]
    rfl
  | sbcv o =>
    cases h
    simp -iota (disch := decide) [parse, parseUniform, parseUniform09, UPred.format.word o hy]
    rfl
  | jmpr o | ret o | callr o =>
    cases h
    simp -iota (disch := decide) [parse, parseUniform, parseUniform12, UA.format.word o hy]
    rfl
  | lcnt o =>
    cases h
    simp -iota (disch := decide) [parse, parseUniform, parseUniform14, UDc.format.word o hy]
    rfl
  | lexit =>
    cases h
    simp -iota (disch := decide) [parse, parseUniform, parseUniform14, word_alone hy]
    rfl
  | prd o =>
    cases h
    simp -iota (disch := decide) [parse, parseUniform, parseUniform1F, UPrd.format.word o hy]
    rfl
  | pwr o =>
    cases h
    simp -iota (disch := decide) [parse, parseUniform, parseUniform1F, UPwr.format.word o hy]
    rfl
  | rett | idle | leasew | halt =>
    cases h
    simp -iota (disch := decide) [parse, parseUniform, parseUniform1F, word_alone hy]
    rfl
  | aseal o =>
    cases h
    simp -iota (disch := decide) [parse, parseUniform, parseUniform2B, UDc.format.word o hy]
    rfl
  | mgang o =>
    cases h
    simp -iota (disch := decide) [parse, parseUniform, parseUniform30, UA.format.word o hy]
    rfl
  | mrel o =>
    cases h
    simp -iota (disch := decide) [parse, parseUniform, parseUniform32, UA.format.word o hy]
    rfl
  | publ o =>
    cases h
    simp -iota (disch := decide) [parse, parseUniform, parseUniform3A, UA.format.word o hy]
    rfl
  | launch o =>
    cases h
    simp -iota (disch := decide) [parse, parseUniform, parseUniform3E, UR2.format.word o hy]
    rfl
  | regang =>
    cases h
    simp -iota (disch := decide) [parse, parseUniform, parseUniform18, word_alone hy]
    rfl
  | rgn =>
    cases h
    simp -iota (disch := decide) [parse, parseUniform, parseUniform19, word_alone hy]
    rfl
  | exitLanes =>
    cases h
    simp -iota (disch := decide) [parse, parseUniform, parseUniform1A, word_alone hy]
    rfl
  | rolesw =>
    cases h
    simp -iota (disch := decide) [parse, parseUniform, parseUniform1B, word_alone hy]
    rfl
  | nop =>
    cases h
    simp -iota (disch := decide) [parse, parseUniform, parseUniform1C, word_alone hy]
    rfl
  | _ => cases hc

theorem parse_joint_word {i : Instr} {n y : Nat} (hj : i.joint = true) (h : encodeBits i = some n) (hy : Within 0x400000E0 y) :
    parse (n + y) = some i ∧ Within 0xBFFFFF1F n := by
  cases i with
  | mma o | mmaCx o =>
    cases h
    simp -iota (disch := decide) [parse, parseUniform, parseUniform33, UJoint.format.word o hy]
    rfl
  | mlt o =>
    cases h
    simp -iota (disch := decide) [parse, parseUniform, parseUniform34, UJoint.format.word o hy]
    rfl
  | maccLoad o | maccStore o =>
    cases h
    simp -iota (disch := decide) [parse, parseUniform, parseUniform35, UJoint.format.word o hy]
    rfl
  | maccZero =>
    cases h
    simp -iota (disch := decide) [parse, parseUniform, parseUniform35, word_alone hy]
    rfl
  | _ => cases hj

theorem parse_uniform_word {i : Instr} {n y : Nat} (hi : (i.laneLow || i.laneHigh || i.conditional || i.joint || (literalData i).isSome) = false) (h
    : encodeBits i = some n) (hy : Within 0x40000000 y) :
    parse (n + y) = some i ∧ Within 0xBFFFFFFF n := by
  cases i with
  | ssel o =>
    cases h
    simp -iota (disch := decide) [parse, parseUniform, parseUniform02, USel.format.word o hy]
    rfl
  | saddi o =>
    cases h
    simp -iota (disch := decide) [parse, parseUniform, parseUniform04, UImm.format.word o hy]
    rfl
  | slui o =>
    cases h
    simp -iota (disch := decide) [parse, parseUniform, parseUniform05, ULui.format.word o hy]
    rfl
  | srd o =>
    cases h
    simp -iota (disch := decide) [parse, parseUniform, parseUniform0A, USrd.format.word o hy]
    rfl
  | swr o =>
    cases h
    simp -iota (disch := decide) [parse, parseUniform, parseUniform0B, USwr.format.word o hy]
    rfl
  | bra o =>
    cases h
    simp -iota (disch := decide) [parse, parseUniform, parseUniform10, UJ.format.word o hy]
    rfl
  | call o =>
    cases h
    simp -iota (disch := decide) [parse, parseUniform, parseUniform11, UJ.format.word o hy]
    rfl
  | loop o =>
    cases h
    simp -iota (disch := decide) [parse, parseUniform, parseUniform13, ULoop.format.word o hy]
    rfl
  | brp o =>
    cases h
    simp -iota (disch := decide) [parse, parseUniform, parseUniform15, UJ.format.word o hy]
    rfl
  | rcv o =>
    cases h
    simp -iota (disch := decide) [parse, parseUniform, parseUniform16, UOff.format.word o hy]
    rfl
  | bkpt o =>
    cases h
    simp -iota (disch := decide) [parse, parseUniform, parseUniform1D, UCode.format.word o hy]
    rfl
  | trap o =>
    cases h
    simp -iota (disch := decide) [parse, parseUniform, parseUniform1E, UCode.format.word o hy]
    rfl
  | bar o | barProd o | barCons o =>
    cases h
    simp -iota (disch := decide) [parse, parseUniform, parseUniform20, UBar.format.word o hy]
    rfl
  | barCnt o =>
    cases h
    simp -iota (disch := decide) [parse, parseUniform, parseUniform20, UBarC.format.word o hy]
    rfl
  | fenceAcq o | fenceRel o | fenceFull o =>
    cases h
    simp -iota (disch := decide) [parse, parseUniform, parseUniform22, UFence.format.word o hy]
    rfl
  | sld o =>
    cases h
    simp -iota (disch := decide) [parse, parseUniform, parseUniform23, ULd.format.word o hy]
    rfl
  | sst o =>
    cases h
    simp -iota (disch := decide) [parse, parseUniform, parseUniform24, USt.format.word o hy]
    rfl
  | slda o =>
    cases h
    simp -iota (disch := decide) [parse, parseUniform, parseUniform25, ULd.format.word o hy]
    rfl
  | sstr o =>
    cases h
    simp -iota (disch := decide) [parse, parseUniform, parseUniform26, USt.format.word o hy]
    rfl
  | satom o =>
    cases h
    simp -iota (disch := decide) [parse, parseUniform, parseUniform27, UAtom.format.word o hy]
    rfl
  | qput o =>
    cases h
    simp -iota (disch := decide) [parse, parseUniform, parseUniform28, UQput.format.word o hy]
    rfl
  | qget o =>
    cases h
    simp -iota (disch := decide) [parse, parseUniform, parseUniform29, UQget.format.word o hy]
    rfl
  | await o =>
    cases h
    simp -iota (disch := decide) [parse, parseUniform, parseUniform2C, UWait.format.word o hy]
    rfl
  | bxt o =>
    cases h
    simp -iota (disch := decide) [parse, parseUniform, parseUniform2D, UDAL.format.word o hy]
    rfl
  | gath o =>
    cases h
    simp -iota (disch := decide) [parse, parseUniform, parseUniform2E, UDAL.format.word o hy]
    rfl
  | sarmArm o =>
    cases h
    simp -iota (disch := decide) [parse, parseUniform, parseUniform2F, UArm.format.word o hy]
    rfl
  | sarmDisarm o =>
    cases h
    simp -iota (disch := decide) [parse, parseUniform, parseUniform2F, UStrm.format.word o hy]
    rfl
  | macq o =>
    cases h
    simp -iota (disch := decide) [parse, parseUniform, parseUniform31, UMacq.format.word o hy]
    rfl
  | mxmul o =>
    cases h
    simp -iota (disch := decide) [parse, parseUniform, parseUniform36, UDAL.format.word o hy]
    rfl
  | nttFwd o | nttInv o =>
    cases h
    simp -iota (disch := decide) [parse, parseUniform, parseUniform37, UNtt.format.word o hy]
    rfl
  | stow o =>
    cases h
    simp -iota (disch := decide) [parse, parseUniform, parseUniform38, UR2.format.word o hy]
    rfl
  | unstow o =>
    cases h
    simp -iota (disch := decide) [parse, parseUniform, parseUniform39, UDAL.format.word o hy]
    rfl
  | emit o =>
    cases h
    simp -iota (disch := decide) [parse, parseUniform, parseUniform3B, UEmit.format.word o hy]
    rfl
  | eseal o | esync o =>
    cases h
    simp -iota (disch := decide) [parse, parseUniform, parseUniform3C, UEStrm.format.word o hy]
    rfl
  | tide o =>
    cases h
    simp -iota (disch := decide) [parse, parseUniform, parseUniform3D, UTide.format.word o hy]
    rfl
  | join =>
    cases h
    simp -iota (disch := decide) [parse, parseUniform, parseUniform17, word_alone hy]
    rfl
  | sstep =>
    cases h
    simp -iota (disch := decide) [parse, parseUniform, parseUniform21, word_alone hy]
    rfl
  | awaitT o =>
    cases h
    have hlow := (UR2.format.word o hy).1 0xAC000800 16 256 rfl rfl rfl rfl rfl
    have hne : (0xAC000800 + o.bits + y) / 16 % 1048576 ≠ 0 := by omega
    simp -iota (disch := decide) [parse, parseUniform, parseUniform2C, UR2.format.word o hy, hne]
    rfl
  | eopen o =>
    cases h
    have hlow := (UEopen.format.word o hy).1 0xBC000020 16 4 rfl rfl rfl rfl rfl
    have hne0 : (0xBC000020 + o.bits + y) / 16 % 1048576 ≠ 0 := by omega
    have hne1 : (0xBC000020 + o.bits + y) / 16 % 1048576 ≠ 1 := by omega
    simp -iota (disch := decide) [parse, parseUniform, parseUniform3C, UEopen.format.word o hy, hne0, hne1]
    rfl
  | epos o =>
    cases h
    have hlow := (UEpos.format.word o hy).1 0xBC000030 16 4 rfl rfl rfl rfl rfl
    have hne0 : (0xBC000030 + o.bits + y) / 16 % 1048576 ≠ 0 := by omega
    have hne1 : (0xBC000030 + o.bits + y) / 16 % 1048576 ≠ 1 := by omega
    simp -iota (disch := decide) [parse, parseUniform, parseUniform3C, UEpos.format.word o hy, hne0, hne1]
    rfl
  | _ => cases hi <;> cases h

/-! ### The fields beside the operands -/

theorem runBit_format : Format 0x40000000 (fun b : Bool => bitNat b * 2 ^ 30) (flag 30) id :=
  .of_slots [(30, 2)] (fun b => [bitNat b]) rfl rfl (fun _ => rfl) (fun b => ⟨bitNat_lt b, trivial⟩) fun _ _ ⟨hb, _⟩ => flag_eq hb

theorem condition_format : Format 0x40000038 (fun o : Bool × Fin 8 => bitNat o.1 * 2 ^ 30 + o.2.val * 2 ^ 3)
    (fun w => (flag 30 w, field 8 3 w)) id :=
  .of_slots [(3, 8), (30, 2)] (fun o => [o.2, bitNat o.1]) rfl rfl (fun _ => rfl) (fun o => ⟨o.2.isLt, bitNat_lt o.1, trivial⟩)
    fun _ _ ⟨hc, hb, _⟩ => by rw [flag_eq hb, field_eq hc, id]

theorem jointSlot_format : Format 0x400000E0 (fun o : Bool × Fin 8 => bitNat o.1 * 2 ^ 30 + o.2.val * 2 ^ 5)
    (fun w => (flag 30 w, field 8 5 w)) id :=
  .of_slots [(5, 8), (30, 2)] (fun o => [o.2, bitNat o.1]) rfl rfl (fun _ => rfl) (fun o => ⟨o.2.isLt, bitNat_lt o.1, trivial⟩)
    fun _ _ ⟨hj, hb, _⟩ => by rw [flag_eq hb, field_eq hj, id]

/-- The bits of a word that carry its `Issue`. -/
def Instr.issueMask (i : Instr) : Nat := if i.conditional then 0x40000038 else if i.joint then 0x400000E0 else 0x40000000

theorem joint_of_conditional {i : Instr} (h : i.conditional = true) : i.joint = false := by
  cases i with
  | mma _ | mmaCx _ | mlt _ | maccLoad _ | maccStore _ | maccZero => cases h
  | _ => rfl

/-- An instruction's Issue lies under its mask, and is read back from a word that shows it there. -/
theorem issue_format {i : Instr} {q : Issue} (hq : i.issueOk q = true) :
    Within i.issueMask q.bits ∧ ∀ w, w &&& i.issueMask = q.bits → issueOf i w = q := by
  obtain ⟨b, c, j⟩ := q
  simp only [Instr.issueOk, Bool.and_eq_true, Bool.or_eq_true, beq_iff_eq] at hq
  obtain ⟨hcq, hjq⟩ := hq
  cases hc : i.conditional with
  | true =>
    have hj := joint_of_conditional hc
    obtain rfl : j = 0 := by simpa [hj] using hjq
    have hbits : Issue.bits ⟨b, c, 0⟩ = bitNat b * 2 ^ 30 + c.val * 2 ^ 3 := by simp [Issue.bits]
    simp only [Instr.issueMask, hc, if_true, hbits]
    refine ⟨condition_format.within (b, c), fun w hw => ?_⟩
    have h := condition_format.reads (b, c) w hw
    simp only [id, Prod.mk.injEq] at h
    simp [issueOf, hc, hj, h]
  | false =>
    obtain rfl : c = 0 := by simpa [hc] using hcq
    cases hj : i.joint with
    | true =>
      have hbits : Issue.bits ⟨b, 0, j⟩ = bitNat b * 2 ^ 30 + j.val * 2 ^ 5 := by simp [Issue.bits]
      simp only [Instr.issueMask, hc, hj, if_true, Bool.false_eq_true, if_false, hbits]
      refine ⟨jointSlot_format.within (b, j), fun w hw => ?_⟩
      have h := jointSlot_format.reads (b, j) w hw
      simp only [id, Prod.mk.injEq] at h
      simp [issueOf, hc, hj, h]
    | false =>
      obtain rfl : j = 0 := by simpa [hj] using hjq
      have hbits : Issue.bits ⟨b, 0, 0⟩ = bitNat b * 2 ^ 30 := by simp [Issue.bits]
      simp only [Instr.issueMask, hc, hj, Bool.false_eq_true, if_false, hbits]
      refine ⟨runBit_format.within b, fun w hw => ?_⟩
      simp [issueOf, hc, hj, runBit_format.reads b w hw]

/-! ### Whole words -/

/-- A word whose bits besides those of its Issue are the instruction's, and which the maps read as it. -/
theorem parse_word {i : Instr} {n y : Nat} (hd : literalData i = none) (h : encodeBits i = some n) (hy : Within i.issueMask y) :
    parse (n + y) = some i ∧ Within (0xFFFFFFFF - i.issueMask) n := by
  cases hc : i.conditional with
  | true =>
    simp only [Instr.issueMask, hc, if_true] at hy ⊢
    exact parse_conditional_word hc h hy
  | false =>
    cases hj : i.joint with
    | true =>
      simp only [Instr.issueMask, hc, hj, if_true] at hy ⊢
      exact parse_joint_word hj h hy
    | false =>
      simp only [Instr.issueMask, hc, hj] at hy ⊢
      cases hl : i.laneLow with
      | true => exact parse_lane_low_word hl h hy
      | false =>
        cases hm : i.laneHigh with
        | true => exact parse_lane_high_word hm h hy
        | false => exact parse_uniform_word (by rw [hl, hm, hc, hj, hd]; rfl) h hy

theorem isLiteral_of_parse {w : Nat} {i : Instr} (h : parse w = some i) : isLiteral w = false := by
  refine Bool.eq_false_iff.mpr fun hl => ?_
  simp only [isLiteral, Bool.and_eq_true, beq_iff_eq] at hl
  obtain ⟨⟨hset, hmajor⟩, -⟩ := hl
  rw [parse, hset, if_neg (by decide), parseUniform, hmajor] at h
  cases h

theorem issueMask_apart (i : Instr) : (0xFFFFFFFF - i.issueMask) &&& i.issueMask = 0 ∧ (0xFFFFFFFF - i.issueMask) ||| i.issueMask = 0xFFFFFFFF := by
  unfold Instr.issueMask
  split
  · decide
  · split <;> decide

theorem toNat_word {i : Instr} {n y : Nat} (hn : Within (0xFFFFFFFF - i.issueMask) n) (hy : Within i.issueMask y) :
    (BitVec.ofNat 32 (n + y)).toNat = n + y := by
  obtain ⟨hand, hor⟩ := issueMask_apart i
  have h := hn.add hy hand
  rw [hor] at h
  have hle : n + y ≤ 0xFFFFFFFF := h ▸ Nat.and_le_right
  exact Nat.mod_eq_of_lt (by omega)

theorem decodeWords_word {i : Instr} {q : Issue} {n : Nat} (hwf : i.wf = true) (hq : i.issueOk q = true) (hd : literalData i = none)
    (h : encodeBits i = some n) (data : Word) : decodeWords (BitVec.ofNat 32 (n + q.bits)) data = .ok (i, q, 1) := by
  obtain ⟨hy, hissue⟩ := issue_format hq
  obtain ⟨hp, hn⟩ := parse_word hd h hy
  rw [decodeWords, toNat_word hn hy, isLiteral_of_parse hp, hp]
  simp only [hwf, hissue _ (hn.add_and_right hy (issueMask_apart i).1)]
  rfl

theorem ULit.format (data : Word) : Format 0x00FC0000 ULit.bits (fun w => ULit.parse w data) fun o => ⟨o.sd, data⟩ :=
  .of_slots [(18, 64)] (fun o => [o.sd]) rfl rfl (fun _ => rfl) (fun o => ⟨o.sd.isLt, trivial⟩) fun _ _ ⟨hsd, _⟩ => by
    rw [ULit.parse, field_eq hsd]

/-- The first word of a UX pair. -/
theorem parse_literal_word {i : Instr} {n y : Nat} {data : Word} (hd : literalData i = some data) (h : encodeBits i = some n)
    (hy : Within 0x40000000 y) : isLiteral (n + y) = true ∧ parseLiteral (n + y) data = i ∧ Within 0xBFFFFFFF n := by
  cases i with
  | slit o | slith o =>
    cases h
    cases hd
    simp (disch := decide) [isLiteral, parseLiteral, (ULit.format o.data).word o hy]
  | _ => cases hd

theorem issueMask_literal {i : Instr} {data : Word} (hd : literalData i = some data) : i.issueMask = 0x40000000 := by
  cases i with
  | slit o | slith o => rfl
  | _ => cases hd

theorem decodeWords_literal {i : Instr} {q : Issue} {n : Nat} {data : Word} (hq : i.issueOk q = true) (hd : literalData i = some data)
    (h : encodeBits i = some n) : decodeWords (BitVec.ofNat 32 (n + q.bits)) data = .ok (i, q, 2) := by
  have hmask := issueMask_literal hd
  obtain ⟨hy, hissue⟩ := issue_format hq
  obtain ⟨hl, hp, hn⟩ := parse_literal_word hd h (hmask ▸ hy)
  have hn' : Within (0xFFFFFFFF - i.issueMask) n := hmask ▸ hn
  rw [decodeWords, toNat_word hn' hy, hl, if_pos rfl]
  simp only [hp, hissue _ (hn'.add_and_right hy (issueMask_apart i).1)]

/-- Settles O31: the words of an instruction are the sum of its own bits and of the fields beside its operands, which share no bit, so each map
of the decoder and each operand format sees only the bits that the encoder put there. -/
theorem decodeEncode : Obligations.DecodeEncode := by
  unfold Obligations.DecodeEncode
  intro i q w rest hwf hq h
  unfold encode at h
  cases hn : encodeBits i with
  | none => simp [hn] at h
  | some n =>
    simp only [hn, Option.some.injEq, List.cons.injEq] at h
    obtain ⟨rfl, rfl⟩ := h
    cases hd : literalData i with
    | none => exact decodeWords_word hwf hq hd hn 0
    | some data => exact decodeWords_literal hq hd hn

end Sys2Proof
end

section
/-! PROOFS. Words written out from the encoding tables. -/

namespace Sys2Proof

/-- What the decoder reads in a word alone is what the encoder writes there. -/
theorem decodeWords_of_encode_word {i : Instr} {q : Issue} {w : Word} (hwf : i.wf = true) (hq : i.issueOk q = true)
    (h : encode i q = some [w]) : (decodeWords w 0).toOption = some (i, q, 1) :=
  congrArg Except.toOption (decodeEncode i q w [] hwf hq h)

/-- The same for a word and the data word behind it. -/
theorem decodeWords_of_encode_pair {i : Instr} {q : Issue} {w data : Word} (hwf : i.wf = true) (hq : i.issueOk q = true)
    (h : encode i q = some [w, data]) : (decodeWords w data).toOption = some (i, q, 2) :=
  congrArg Except.toOption (decodeEncode i q w [data] hwf hq h)

/-- Settles O30: the encoder writes each of the words, and the decoder reads back what it writes; the two words that are illegal for ever lie
in no map. -/
theorem decodeWords_tables : Obligations.DecodeWords := by
  unfold Obligations.DecodeWords
  refine ⟨?iadd, ?icmp, ?wadd, ?ld, ?sadd, ?slit, ?bra, ?zero, ?last, ?bytes⟩
  case slit => exact decodeWords_of_encode_pair rfl rfl rfl
  case zero | last => decide
  case bytes => decide
  all_goals exact decodeWords_of_encode_word rfl rfl rfl

end Sys2Proof
end

section
/-! PROOFS. Lane bit operations, comparison and selection (R155, R172 to R177, R181, R183). -/

namespace Sys2Proof.Machine

open Sys2Proof

/-! ### Words that are their shared operation -/

theorem lane2Gives_of {mk : LR2 → Instr} {f h : Word → Word} (he : ∀ o s, exec (mk o) s = lane2 o s h) (hf : ∀ a, f a = h a) :
    Lane2Gives mk f := by
  obtain rfl : f = h := funext hf
  exact fun o => laneGives_of (he o) rfl

theorem laneShiftGives_of {mk : LShift → Instr} {f h : Word → Nat → Word} (he : ∀ o s, exec (mk o) s = laneShift o s h)
    (hf : ∀ a n, f a n = h a n) : LaneShiftGives mk f := by
  obtain rfl : f = h := funext₂ hf
  exact fun o => laneGives_of (he o) rfl

/-! ### Shifts (R173) -/

theorem wordOf_mul_two_pow (a : Word) (n : Nat) : wordOf (a.toNat * 2 ^ n : Nat) = a <<< n := by
  rw [wordOf_natCast]
  exact BitVec.eq_of_toNat_eq (by rw [BitVec.toNat_ofNat, BitVec.toNat_shiftLeft, Nat.shiftLeft_eq])

theorem wordOf_div_two_pow (a : Word) (n : Nat) : wordOf (a.toNat / 2 ^ n : Nat) = a >>> n := by
  rw [wordOf_natCast, ← Nat.shiftRight_eq_div_pow, ← BitVec.toNat_ushiftRight, BitVec.ofNat_toNat, BitVec.setWidth_eq]

theorem wordOf_toInt_div_two_pow (a : Word) (n : Nat) : wordOf (a.toInt / 2 ^ n) = a.sshiftRight n := by
  rw [wordOf, BitVec.sshiftRight, Int.shiftRight_eq_div_pow, Nat.cast_pow, Nat.cast_ofNat]

/-- The two parts of a rotated word share no bit, so that their sum is the rotation. -/
theorem wordOf_rotate (a : Word) (n : Nat) :
    wordOf (a.toNat * 2 ^ (n % 32) + a.toNat / 2 ^ (32 - n % 32) : Nat) = a.rotateLeft n := by
  have hapart : a <<< (n % 32) &&& a >>> (32 - n % 32) = 0#32 := by
    ext i hi
    simp only [BitVec.getElem_and, BitVec.getElem_shiftLeft, BitVec.getElem_ushiftRight, BitVec.getElem_zero]
    by_cases h : i < n % 32
    · simp [h]
    · rw [BitVec.getLsbD_of_ge a (32 - n % 32 + i) (by omega), Bool.and_false]
  rw [Nat.cast_add, wordOf_add, wordOf_mul_two_pow, wordOf_div_two_pow, BitVec.add_eq_or_of_and_eq_zero _ _ hapart]
  rfl

/-! ### Counts (R174) -/

theorem range_succ_countP (p : Nat → Bool) (n : Nat) :
    (List.range (n + 1)).countP p = (List.range n).countP (fun i => p (i + 1)) + if p 0 then 1 else 0 := by
  rw [List.range_succ_eq_map, List.countP_cons, List.countP_map]
  rfl

theorem popCount_eq_countP (n x : Nat) : popCount n x = (List.range n).countP x.testBit := by
  induction n generalizing x with
  | zero => rfl
  | succ n ih =>
    rw [popCount, ih, range_succ_countP, Nat.testBit_zero]
    simp only [← Nat.testBit_div_two]
    obtain h | h := Nat.mod_two_eq_zero_or_one x <;> simp [h, Nat.add_comm]

theorem trailingZeros_eq_find (n x : Nat) : trailingZeros n x = ((List.range n).find? x.testBit).getD n := by
  induction n generalizing x with
  | zero => rfl
  | succ n ih =>
    rw [trailingZeros, ih, List.range_succ_eq_map, List.find?_cons, Nat.testBit_zero, List.find?_map]
    obtain h | h := Nat.mod_two_eq_zero_or_one x
    · have hshift : x.testBit ∘ Nat.succ = (x / 2).testBit := funext fun i => Nat.testBit_succ x i
      rw [hshift]
      cases (List.range n).find? (x / 2).testBit <;> simp [h, Nat.add_comm]
    · simp [h]

theorem leadingZeros_eq_find {n x : Nat} (hx : x < 2 ^ n) :
    leadingZeros n x = ((List.range n).find? fun i => x.testBit (n - 1 - i)).getD n := by
  unfold leadingZeros
  split
  next h =>
    have hnone : ((List.range n).find? fun i => x.testBit (n - 1 - i)) = none := List.find?_eq_none.mpr (by simp [h])
    rw [hnone, Option.getD_none]
  next h =>
    have hlog : x.log2 < n := (Nat.log2_lt h).mpr hx
    have hfind : ((List.range n).find? fun i => x.testBit (n - 1 - i)) = some (n - 1 - x.log2) := by
      refine List.find?_range_eq_some.mpr ⟨?_, List.mem_range.mpr (by omega), fun j hj => ?_⟩
      · rw [show n - 1 - (n - 1 - x.log2) = x.log2 by omega]
        exact Nat.testBit_log2 h
      · rw [Nat.testBit_lt_two_pow ((Nat.log2_lt h).mp (by omega))]
        rfl
    rw [hfind, Option.getD_some]

/-! ### Bit fields (R175) -/

theorem bitField_eq (b : Word) : bitField b = (b.toNat % 32, min (b.toNat / 2 ^ 8 % 64) (32 - b.toNat % 32)) := by
  simp [bitField, bits]

/-- The two's-complement reading of a field that is not empty, by its top bit. -/
theorem signed_of_pos {w x : Nat} (hw : w ≠ 0) : signed w (x % 2 ^ w) =
    if 2 ^ (w - 1) ≤ x % 2 ^ w then ((x % 2 ^ w : Nat) : Int) - 2 ^ w else (x % 2 ^ w : Nat) := by
  have htop : 2 ^ w = 2 * 2 ^ (w - 1) := by rw [← Nat.pow_succ', Nat.succ_eq_add_one, Nat.sub_add_cancel (Nat.pos_of_ne_zero hw)]
  simp only [signed, Nat.mod_mod]
  by_cases h : 2 ^ (w - 1) ≤ x % 2 ^ w
  · rw [if_pos h, if_neg (by omega)]
  · rw [if_neg h, if_pos (by omega)]

theorem wordOf_signedField (x w : Nat) :
    wordOf (if w ≠ 0 ∧ 2 ^ (w - 1) ≤ x % 2 ^ w then ((x % 2 ^ w : Nat) : Int) - 2 ^ w else (x % 2 ^ w : Nat)) =
      if w = 0 then 0 else BitVec.ofInt 32 (signed w (x % 2 ^ w)) := by
  by_cases hw : w = 0
  · subst hw
    rw [if_neg (fun h => h.1 rfl), if_pos rfl, pow_zero, Nat.mod_one]
    rfl
  · simp only [hw, if_false, ne_eq, not_false_iff, true_and, signed_of_pos hw, wordOf]

theorem wordOf_fieldMask (w p : Nat) : wordOf ((2 ^ w - 1) * 2 ^ p) = BitVec.ofNat 32 ((2 ^ w - 1) * 2 ^ p) := by
  rw [← wordOf_natCast, Nat.cast_mul, Nat.cast_sub Nat.one_le_two_pow]
  push_cast
  rfl

theorem laneBitResults : LaneBitResults := by
  refine ⟨?land, ?lor, ?lxor, ?landn, ?ishl, ?ishr, ?isar, ?irot, ?ishli, ?ishri, ?isari, ?iroti, ?popc, ?clz, ?ctz, ?brev, ?bfxN, ?bfxI, ?bfi⟩
  case land => exact lane3Gives_of exec_land fun _ _ => rfl
  case lor => exact lane3Gives_of exec_lor fun _ _ => rfl
  case lxor => exact lane3Gives_of exec_lxor fun _ _ => rfl
  case landn => exact lane3Gives_of exec_landn fun _ _ => rfl
  case ishl => exact lane3Gives_of exec_ishl fun a b => wordOf_mul_two_pow a b.toNat
  case ishr => exact lane3Gives_of exec_ishr fun a b => wordOf_div_two_pow a b.toNat
  case isar => exact lane3Gives_of exec_isar fun a b => wordOf_toInt_div_two_pow a b.toNat
  case irot => exact lane3Gives_of exec_irot fun a b => (wordOf_rotate a b.toNat).trans (by rw [BitVec.rotateLeft_mod_eq_rotateLeft])
  case ishli => exact laneShiftGives_of exec_ishli wordOf_mul_two_pow
  case ishri => exact laneShiftGives_of exec_ishri wordOf_div_two_pow
  case isari => exact laneShiftGives_of exec_isari wordOf_toInt_div_two_pow
  case iroti => exact laneShiftGives_of exec_iroti wordOf_rotate
  case popc => exact lane2Gives_of exec_popc fun a => by rw [wordOf_natCast, popCount_eq_countP]; rfl
  case clz => exact lane2Gives_of exec_clz fun a => by rw [wordOf_natCast, leadingZeros_eq_find a.isLt]; rfl
  case ctz => exact lane2Gives_of exec_ctz fun a => by rw [wordOf_natCast, trailingZeros_eq_find]; rfl
  case brev => exact lane2Gives_of exec_brev fun _ => rfl
  case bfxN =>
    refine lane3Gives_of exec_bfxN32 fun a b => ?_
    rw [wordOf_natCast, bitField_eq, bits]
  case bfxI =>
    refine lane3Gives_of exec_bfxI32 fun a b => ?_
    rw [bitField_eq]
    exact wordOf_signedField _ _
  case bfi =>
    refine lane3dGives_of exec_bfi fun a b d => ?_
    rw [bitField_eq]
    simp only [wordOf_fieldMask]

/-! ### Comparison (R176, R181, R183) -/

theorem truthOf_eq_cmpHolds (c : Cmp) (a b : Int) : truthOf c a b = cmpHolds c a b := by
  cases c with
  | eq => exact (beq_eq_decide a b).symm
  | ne => simp only [truthOf, cmpHolds, bne, beq_eq_decide, decide_not, ne_eq]
  | lt | le | gt | ge | un => rfl

/-- A comparison whose code is not .un is well formed. -/
theorem guardForm_cmp {c : Cmp} (h : c ≠ .un) (s : State) (r : Host.Outcome State Fault Refusal) : guardForm (c != .un) s r = r :=
  if_pos (bne_iff_ne.mpr h)

theorem snanFlag_pair (a b : FVal) : snanFlag [a, b] = if a.isSnan ∨ b.isSnan then flagIV else 0 := by
  simp [snanFlag]

/-! ### Selection (R177) -/

theorem writeLane_plain {s : State} {g : GroupId} {grp : Group} (hg : s.group? g = some grp) (slices : BitVec 8) (lanes : LaneMask) {r : Nat}
    (h : grp.streamOf r = none) (x : VReg) : writeLane s g slices r lanes x = .ok (s.setGroup g (grp.writeAll slices lanes [(r, x)])) := by
  simp only [writeLane, hg, h]
  rfl

/-- What SEL computes: a where its guard is true, b elsewhere, with U in the lowest active lane for all. -/
theorem laneCompute_choice (grp : Group) (u : Bool) (active : LaneMask) (k : Fin 8) (a b : VReg) :
    (laneCompute u active ([a, b] ++ [grp.choice k]) fun x => if inp x 2 = 1 then inp x 0 else inp x 1) =
      Vector.ofFn fun (l : Fin 32) =>
        let l' := if u then lowLane active else l
        if maskHas (grp.pred k) l' then (column [a, b] l').getD 0 0 else (column [a, b] l').getD 1 0 := by
  have hpick (l : Fin 32) : (if inp (column ([a, b] ++ [grp.choice k]) l) 2 = 1 then inp (column ([a, b] ++ [grp.choice k]) l) 0
      else inp (column ([a, b] ++ [grp.choice k]) l) 1) =
      if maskHas (grp.pred k) l then (column [a, b] l).getD 0 0 else (column [a, b] l).getD 1 0 := by
    cases h : maskHas (grp.pred k) l <;> simp [column, inp, Group.choice, h]
  cases u with
  | false => simp only [laneCompute, hpick]; rfl
  | true =>
    simp only [laneCompute, hpick, if_true]
    exact Vector.ext fun i hi => by simp

theorem laneCompareResults : LaneCompareResults := by
  refine ⟨?icmp, ?icmpN, ?fcmp, ?dcmp, ?sel⟩
  case icmp =>
    refine fun o ho => lanePredGives_of (fun s => guardForm_cmp ho s _) (funext₂ fun _ x => ?_)
    rw [truthOf_eq_cmpHolds]
  case icmpN =>
    refine fun o ho => lanePredGives_of (fun s => guardForm_cmp ho s _) (funext₂ fun _ x => ?_)
    rw [truthOf_eq_cmpHolds]
  case fcmp => exact fun o => lanePredGives_of (exec_fcmp o) (funext₂ fun _ _ => Prod.ext rfl (snanFlag_pair _ _).symm)
  case dcmp => exact fun o => lanePredGives_of (exec_dcmp o) (funext₂ fun _ _ => Prod.ext rfl (snanFlag_pair _ _).symm)
  case sel =>
    intro o s g slices grp hi active srcs xs hplain hkept harrived hclean halike
    have hstream (r : Nat) (hr : r ∈ [o.va.val, o.vb.val, o.vd.val]) : grp.streamOf r = none := hplain.2 r (by simpa [srcs] using hr)
    have hchecks : laneChecks s g grp slices [srcOp o.va, srcOp o.vb] [dstOp o.vd] active active = .ok () :=
      laneChecks_ok hplain hkept harrived hclean
    have hread : readLanes s g slices [o.va.val, o.vb.val] = .ok (s, xs) :=
      readLanes_plain hi.here slices fun r hr => hstream r (List.mem_append_left [o.vd.val] hr)
    have hunif := checkUnif_ok (s := s) halike
    have hwrite := writeLane_plain hi.here slices active (hstream o.vd (by simp))
    refine onGang_ok hi ?_
    simp only [Group.choice, active] at hunif hwrite hchecks
    simp only [Group.acting_zero, hchecks, hread, Except.ok_bind', hunif, hwrite, advance_gang hi.cur]
    exact congrArg (fun x => Except.ok (s.doneWith g slices (grp.writeAll slices active [(o.vd.val, x)])))
      (laneCompute_choice grp o.u active o.g _ _)

/-- Settles O34: each word is its shared operation on a function of its sources, and that function is what the statement spells. -/
theorem laneLogicWords : Obligations.LaneLogicWords := ⟨laneBitResults, laneCompareResults⟩

end Sys2Proof.Machine
end

section
/-! PROOFS. Trap entry (R153, R331, R333 to R336). -/

namespace Sys2Proof.Machine

open Sys2Proof

/-! ### Leaving the queues -/

@[simp] theorem State.leaveQueues_group? (s : State) (g : GroupId) (slices : BitVec 8) (h : GroupId) :
    (s.leaveQueues g slices).group? h = s.group? h := by
  unfold State.leaveQueues
  dsimp only
  split
  · rfl
  · exact State.group?_setCluster _ _ _ _

@[simp] theorem State.leaveQueues_fetched (s : State) (g : GroupId) (slices : BitVec 8) : (s.leaveQueues g slices).fetched = s.fetched := by
  unfold State.leaveQueues
  dsimp only
  split <;> rfl

@[simp] theorem State.leaveQueues_pack (s : State) (g : GroupId) (slices : BitVec 8) : (s.leaveQueues g slices).pack = s.pack := by
  unfold State.leaveQueues
  dsimp only
  split <;> rfl

/-! ### The trap registers -/

theorem bitNat_eq_ite (b : Bool) : bitNat b = if b then 1 else 0 := by cases b <;> rfl

theorem Trap.cause_eq (t : Trap) (berth : Bool) : t.cause berth = BitVec.ofNat 18
    (t.kind.code + t.reason * 2 ^ 8 + (if berth then 2 ^ 16 else 0) + (if t.kind = .poison then 2 ^ 17 else 0)) := by
  simp only [Trap.cause, bitNat_eq_ite, Nat.mul_comm (2 ^ 8), mul_ite, Nat.mul_one, Nat.mul_zero, beq_iff_eq]

theorem trapRegs_eq_entryRegs (grp : Group) (slices : BitVec 8) (t : Trap) (f : Fetched) : trapRegs grp slices t f = entryRegs grp slices t f := by
  have hskip : (t.kind == .trap || t.kind == .bkpt) = decide (t.kind = .trap ∨ t.kind = .bkpt) := by
    rw [Bool.decide_or, beq_eq_decide, beq_eq_decide]
  unfold trapRegs entryRegs
  rw [Trap.cause_eq, hskip]
  simp only [TrapRegs.mk.injEq, and_true, true_and]
  cases f.sidecar <;> rfl

/-! ### Entering the handler -/

section
variable {grp : Group} {slices : BitVec 8} {i : Fin 8} (tbase : Addr)

/-- What is kept of a slice that enters a handler (R334 step 4). -/
def Slice.kept (sl : Slice) (i : Fin 8) : SavedSlice :=
  { slice := i, active := sl.active, loops := sl.loops, recon := sl.recon, region := sl.region, pinned := sl.pinned, issued := sl.issued }

theorem Group.enterHandler_saves (hi : maskHas slices i.val = true) : grp.slices[i].kept i ∈ (grp.enterHandler slices tbase).saved :=
  List.mem_filterMap.mpr ⟨i, List.mem_finRange i, by rw [if_pos hi]; rfl⟩

/-- A slice that continues in a handler (R334 step 5). -/
def Slice.entering (sl : Slice) : Slice :=
  { sl with
    pc := tbase, loops := [], recon := [], wait := .ready, pinned := false, issued := [], passBreak := false
    why := if sl.dbg = .stop then 1 else if sl.dbg = .none then sl.why else 5, dbg := .none }

theorem Group.enterHandler_slices : (grp.enterHandler slices tbase).slices = (grp.mapSlices slices (Slice.entering tbase)).slices := rfl

theorem Group.enterHandler_get (hi : maskHas slices i.val = true) :
    (grp.enterHandler slices tbase).slices[i] = grp.slices[i].entering tbase := by
  rw [Group.enterHandler_slices, Group.mapSlices_get_in _ hi]

theorem Group.enterHandler_get_out (hi : maskHas slices i.val = false) : (grp.enterHandler slices tbase).slices[i] = grp.slices[i] := by
  rw [Group.enterHandler_slices, Group.mapSlices_get, hi, if_neg Bool.false_ne_true]

end

/-! ### Taking the trap -/

/-- Settles O11: takeTrap makes the statement's four cases in turn, on the state in which the results have arrived and the gang has left the
queues. -/
theorem trapEntry : Obligations.TrapEntry := by
  unfold Obligations.TrapEntry
  intro s g slices grp t hg s1 ld asn tbase regs record
  have hgroup : ((s.arriveGroup g).leaveQueues g slices).group? g = some grp := by rw [State.leaveQueues_group?, hg]
  have hfetched : ((s.arriveGroup g).leaveQueues g slices).fetched = s.fetched := by rw [State.leaveQueues_fetched, arriveGroup_fetched]
  have hpack : ((s.arriveGroup g).leaveQueues g slices).pack = s.pack := by rw [State.leaveQueues_pack, arriveGroup_pack]
  have htake : s.takeTrap g slices t =
      if grp.trap.inh && slices &&& grp.trap.slices == 0 then s1.setGroup g (grp.wake slices)
      else if grp.trap.inh then (s1.setGroup g { grp with dead := true }).postFault ld (record 0x3F 0 regs.cause.toNat)
      else if handlerAt tbase then s1.setGroup g ({ grp with trap := regs }.enterHandler slices tbase)
      else (s1.setGroup g { grp with trap := { regs with tsv := grp.trap.tsv }, dead := true }).postFault ld
        (record t.kind.code t.reason 0) := by
    simp only [State.takeTrap, hgroup, State.setGroup_fetched, hfetched, hpack, trapRegs_eq_entryRegs, Trap.cause_eq]
    rfl
  refine ⟨fun hinh hbase => ⟨{ grp with trap := regs }.enterHandler slices tbase, ?enters, rfl, fun i hi => ?entered,
      fun i hi => Group.enterHandler_get_out tbase hi, rfl, rfl, rfl⟩,
    fun hinh hbase => ?stops, fun hinh hown => ?double, fun hinh hother => ?waits⟩
  case enters => simp only [htake, hinh, handlerAt, hbase, Bool.false_and, Bool.false_eq_true, if_false, if_true]
  case entered =>
    dsimp only
    rw [Group.enterHandler_get tbase hi]
    exact ⟨rfl, rfl, rfl, rfl, rfl, rfl, rfl, rfl, rfl, rfl, rfl, rfl, Group.enterHandler_saves tbase hi⟩
  case stops => simp only [htake, hinh, handlerAt, hbase, Bool.false_and, Bool.false_eq_true, if_false]
  case double => simp only [htake, hinh, beq_eq_false_iff_ne.mpr hown, Bool.and_false, Bool.false_eq_true, if_false, if_true]
  case waits => simp only [htake, hinh, beq_iff_eq.mpr hother, Bool.and_self, if_true]

end Sys2Proof.Machine
end

section
/-! PROOFS. The lane modular words, and MULMOD as the residue of the product (R178). -/

namespace Sys2Proof.Machine

open Sys2Proof

/-! ### The three words on exact integers -/

/-- What MULMOD computes from N, B and its sources: the product less an estimated multiple of N, corrected twice (R178). -/
def barrett (n m a b : Int) : Int :=
  let x := a * b - a * b * m / 2 ^ 64 * n
  let y := if x ≥ n then x - n else x
  if y ≥ n then y - n else y

theorem modularGives_addmod : ModularGives Instr.addmod fun n _ a b => if a + b ≥ n then a + b - n else a + b := by
  refine fun o => laneGives_of (exec_addmod o) (funext₂ fun grp x => congrArg (fun w => ([w], 0)) ?_)
  rw [← wordOf_natCast]
  refine congrArg wordOf ?_
  dsimp only
  split <;> split <;> omega

theorem modularGives_submod : ModularGives Instr.submod fun n _ a b => if a - b < 0 then a - b + n else a - b :=
  fun o => laneGives_of (exec_submod o) rfl

theorem modularGives_mulmod : ModularGives Instr.mulmod barrett := by
  refine fun o => laneGives_of (exec_mulmod o) (funext₂ fun grp x => ?_)
  simp only [barrett, wordOf, ge_iff_le, Nat.cast_mul, Int.natCast_ediv, Nat.cast_pow, Nat.cast_ofNat]

/-- Settles O2: each word is the shared lane operation on the statement's formula. -/
theorem laneModularResults : Obligations.LaneModularResults := ⟨modularGives_addmod, modularGives_submod, modularGives_mulmod⟩

/-! ### Barrett's estimate -/

/-- With B the rounded-down reciprocal of N, the estimated quotient of a number below 2^64 is never above the quotient, and at most one
below it. -/
theorem barrett_estimate {n m t : Nat} (hn : 0 < n) (hm : m = (2 ^ 64 - 1) / n) (ht : t < 2 ^ 64) :
    t * m / 2 ^ 64 * n ≤ t ∧ t < t * m / 2 ^ 64 * n + 2 * n := by
  have hmn : m * n ≤ 2 ^ 64 - 1 := hm ▸ Nat.div_mul_le_self _ n
  have hmn' : 2 ^ 64 ≤ m * n + n := by
    have h := Nat.lt_div_mul_add (a := 2 ^ 64 - 1) hn
    rw [← hm] at h
    omega
  generalize hq : t * m / 2 ^ 64 = q
  have hqlo : q * 2 ^ 64 ≤ t * m := hq ▸ Nat.div_mul_le_self _ _
  have hqhi : t * m < q * 2 ^ 64 + 2 ^ 64 := hq ▸ Nat.lt_div_mul_add (by decide)
  constructor
  · refine Nat.le_of_mul_le_mul_right (c := 2 ^ 64) ?_ (by decide)
    calc q * n * 2 ^ 64 = q * 2 ^ 64 * n := Nat.mul_right_comm ..
      _ ≤ t * m * n := Nat.mul_le_mul_right n hqlo
      _ = t * (m * n) := Nat.mul_assoc ..
      _ ≤ t * 2 ^ 64 := Nat.mul_le_mul_left t (by omega)
  · refine Nat.lt_of_mul_lt_mul_right (a := 2 ^ 64) ?_
    calc t * 2 ^ 64 ≤ t * (m * n + n) := Nat.mul_le_mul_left t hmn'
      _ = t * m * n + t * n := by ring
      _ < (q * 2 ^ 64 + 2 ^ 64) * n + 2 ^ 64 * n :=
        Nat.add_lt_add (Nat.mul_lt_mul_of_pos_right hqhi hn) (Nat.mul_lt_mul_of_pos_right ht hn)
      _ = (q * n + 2 * n) * 2 ^ 64 := by ring

/-- The two corrections of a remainder that is less than twice N: the first reaches the residue, and the second never acts. -/
theorem corrected_eq_mod {n r : Nat} (hr : r < 2 * n) :
    (let y : Int := if (r : Int) ≥ n then r - n else r
     if y ≥ n then y - n else y) = (r % n : Nat) := by
  by_cases h : n ≤ r
  · rw [Nat.mod_eq_sub_mod h, Nat.mod_eq_of_lt (by omega), if_pos (Int.ofNat_le.mpr h), if_neg (by omega), Nat.cast_sub h]
  · rw [Nat.mod_eq_of_lt (by omega), if_neg (by omega), if_neg (by omega)]

theorem barrett_eq_mod {n m a b : Nat} (hn : 0 < n) (hm : m = (2 ^ 64 - 1) / n) (hab : a * b < 2 ^ 64) :
    barrett n m a b = (a * b % n : Nat) := by
  obtain ⟨hle, hlt⟩ := barrett_estimate hn hm hab
  have hx : (a * b : Int) - a * b * m / 2 ^ 64 * n = (a * b - a * b * m / 2 ^ 64 * n : Nat) := by
    rw [Nat.cast_sub hle]
    push_cast
    rfl
  have hmod : a * b % n = (a * b - a * b * m / 2 ^ 64 * n) % n := by
    rw [Nat.mul_comm _ n] at hle ⊢
    exact (Nat.sub_mul_mod hle).symm
  simp only [barrett, hx, hmod]
  exact corrected_eq_mod (by omega)

/-! ### The register that a lane word leaves -/

theorem vIndex_lt {d : Nat} (hd : d ≤ 4) (r : Fin 64) : vIndex d r < 96 := by
  unfold vIndex
  split
  · omega
  · split
    · split <;> omega
    · omega

theorem laneReg_writeV (grp : Group) {i : Nat} (hi : i < 96) (lanes : LaneMask) (x : VReg) :
    laneReg (grp.writeV i lanes x).v i = mergeLanes lanes x (laneReg grp.v i) := by
  simp [laneReg, Group.writeV, Group.putV, Vector.getD, hi]

theorem mergeLanes_get_in {lanes : LaneMask} {l : Fin 32} (hl : maskHas lanes l = true) (x y : VReg) : (mergeLanes lanes x y)[l] = x[l] := by
  simp [mergeLanes, hl]

theorem laneCompute_get {α : Type} (u : Bool) (active : LaneMask) (xs : List VReg) (f : List Word → α) (l : Fin 32) :
    (laneCompute u active xs f)[l] = f (column xs (if u then lowLane active else l)) := by
  cases u <;> simp [laneCompute]

theorem lmap_get {α β : Type} (f : α → β) (x : Lanes α) (l : Fin 32) : (lmap f x)[l] = f x[l] := by
  simp [lmap]

theorem raisedBy_eq_zero {α : Type} (u : Bool) (active : LaneMask) {r : Lanes (α × BitVec 7)} (h : ∀ l : Fin 32, r[l].2 = 0) :
    raisedBy u active r = 0 := by
  have h' (l : Fin 32) : r[l.val].2 = 0#7 := h l
  simp [raisedBy, unionFlags, lmap, h']

/-- A lane word that raises no flag completes, and every active lane of its destination then holds what it computes. -/
theorem LaneGives.leaves {i : Instr} {u : Bool} {guard : Fin 8} {srcs : List VOp} {vd : Fin 64} {f : Group → List Word → Word}
    (h : LaneGives i u guard srcs (dstOp vd) fun grp x => ([f grp x], 0)) {s : State} {g : GroupId} {slices : BitVec 8} {grp : Group}
    (hi : Issues s g slices grp) (hr : LaneReady s grp slices u srcs [dstOp vd] (grp.acting slices guard))
    (hd : (grp.lead slices).loops.length ≤ 4) :
    ∃ t grp', exec i s = .next t ∧ t.group? g = some grp' ∧ ∀ l : Fin 32, maskHas (grp.acting slices guard) l = true →
      (laneReg grp'.v (vIndex (grp.lead slices).loops.length vd))[l] =
        f grp (column (s.inputs? grp slices srcs) (if u then lowLane (grp.acting slices guard) else l)) := by
  have hquiet : raisedBy u (grp.acting slices guard)
      (s.laneValues grp slices u srcs (grp.acting slices guard) fun x => ([f grp x], (0 : BitVec 7))) = 0 :=
    raisedBy_eq_zero u _ fun l => by rw [State.laneValues, laneCompute_get]
  refine ⟨_, _, h s g slices grp hi hr (by rw [hquiet]; exact BitVec.zero_and), State.group?_setGroup .., fun l hl => ?_⟩
  simp only [hquiet, Group.raise_zero, names_dstOp, List.zipIdx_cons, List.zipIdx_nil, List.map_cons, List.map_nil, Group.writeAll_cons,
    Group.writeAll_nil, Group.done, Group.advance_v, Group.dropProgress_v, laneReg_writeV _ (vIndex_lt hd vd), mergeLanes_get_in hl]
  rw [lmap_get, State.laneValues, laneCompute_get]
  rfl

/-- Settles O3: the product of two words is below 2^64, where Barrett's method gives the residue; that the words are below N is not
needed. -/
theorem mulmodIsResidue : Obligations.MulmodIsResidue := by
  unfold Obligations.MulmodIsResidue
  intro o s g slices grp hi active srcs hr hd hn hb _
  obtain ⟨t, grp', hexec, hgroup, hlanes⟩ := (modularGives_mulmod o).leaves hi hr hd
  refine ⟨t, grp', hexec, hgroup, fun l hl => ?_⟩
  intro src a b
  have hpos : 0 < grp.modn.toNat := Nat.pos_of_ne_zero fun h => hn (BitVec.eq_of_toNat_eq h)
  have hab : a.toNat * b.toNat < 2 ^ 64 := by
    calc a.toNat * b.toNat < 2 ^ 32 * 2 ^ 32 := Nat.mul_lt_mul'' a.isLt b.isLt
      _ = 2 ^ 64 := by norm_num
  rw [hlanes l hl]
  change (wordOf (barrett grp.modn.toNat grp.modb.toNat a.toNat b.toNat)).toNat = _
  rw [barrett_eq_mod hpos hb hab, wordOf_natCast, BitVec.toNat_ofNat]
  exact Nat.mod_eq_of_lt ((Nat.mod_lt _ hpos).trans grp.modn.isLt)

end Sys2Proof.Machine
end

section
/-! PROOFS. Shuffles, predicate logic and votes, and exchanges between lanes and uniform registers (R187, R188, R192 to R195). -/

namespace Sys2Proof.Machine

open Sys2Proof

/-! ### Shuffles (R188) -/

/-- Lanes that share nothing with each of a list share nothing with all of it. -/
theorem and_laneSet_eq_zero {m : LaneMask} {ls : List Nat} (h : ∀ k ∈ ls, m &&& BitVec.ofNat 32 (2 ^ k) = 0) : m &&& laneSet ls = 0 := by
  have hall (x : LaneMask) (hx : m &&& x = 0) : m &&& ls.foldl (fun m i => m ||| BitVec.ofNat 32 (2 ^ i)) x = 0 := by
    induction ls generalizing x with
    | nil => exact hx
    | cons k rest ih =>
      refine ih (fun j hj => h j (List.mem_cons_of_mem k hj)) _ ?_
      rw [BitVec.and_or_distrib_left, hx, h k List.mem_cons_self]
      rfl
  exact hall 0 BitVec.and_zero

/-- What no result in flight to some places holds up, none to fewer of them does. -/
theorem Group.hasArrived.mono {grp : Group} {slices : BitVec 8} {places fewer : List Nat} {ss : List (Fin 64)}
    (h : grp.hasArrived slices places ss) (hsub : fewer ⊆ places) : grp.hasArrived slices fewer ss := by
  simp only [Group.hasArrived, awaited, List.any_eq_false, Bool.and_eq_true, Bool.or_eq_true, List.any_eq_true, not_and, not_or] at h ⊢
  intro f hf hopen
  obtain ⟨hplaces, hss⟩ := h f hf hopen
  exact ⟨fun ⟨v, hv, hwrites⟩ => hplaces ⟨v, hsub hv, hwrites⟩, hss⟩

/-- A word that is the shared shuffle: the lanes that it reads of va are those that the active lanes name. -/
theorem shuffleGives_of {mk : XR3 → Instr} {src h : Nat → Nat → Nat} (he : ∀ o s, exec (mk o) s = shuffleOp o s h)
    (hsrc : ∀ l i, src l i = h l i) : ShuffleGives mk src := by
  obtain rfl : src = h := funext₂ hsrc
  intro o s g slices grp hi active srcs xs a b from_ hwhole hplain hkept hkeptA harrived hclean hpoison
  subst hwhole
  have harrivedOf (v : Fin 64) (hv : srcOp v ∈ srcs) : grp.hasArrived 0xFF (grp.placesOf 0xFF (srcOp v)) [] :=
    harrived.mono fun _ hplace => List.mem_flatMap.mpr ⟨srcOp v, hv, hplace⟩
  have hread : grp.poisonLanes (vIndex (grp.lead 0xFF).loops.length o.va) &&& laneSet ((maskList active).map fun l => from_ l) = 0 := by
    refine and_laneSet_eq_zero fun k hk => ?_
    obtain ⟨l, hl, rfl⟩ := List.mem_map.mp hk
    exact hpoison ⟨l, maskList_lt hl⟩ (List.mem_filter.mp hl).2
  rw [he]
  exact shuffleOp_gives hi (by simp [a, xs, srcs, State.inputs?]) (by simp [b, xs, srcs, State.inputs?]) hplain hkept hkeptA
    (harrivedOf o.vb (by simp [srcs])) (harrivedOf o.va (by simp [srcs])) hclean hread

theorem shuffleResults : ShuffleResults := by
  refine ⟨?idx, ?up, ?down, ?xor⟩
  case idx => exact shuffleGives_of exec_shflIdx fun _ _ => rfl
  case up => exact shuffleGives_of exec_shflUp fun l i => by split <;> split <;> omega
  case down => exact shuffleGives_of exec_shflDown fun l i => by split <;> split <;> omega
  case xor => exact shuffleGives_of exec_shflXor fun _ _ => rfl

/-! ### Predicate logic and votes (R192, R194) -/

/-- A word that is the shared predicate logic on an operation that works lane by lane. -/
theorem logicGives_of {mk : XPred → Instr} {f : Bool → Bool → Bool} {h : LaneMask → LaneMask → LaneMask}
    (he : ∀ o s, exec (mk o) s = predLogic o s h)
    (hf : ∀ a b l, l < 32 → maskHas (h a b) l = f (maskHas a l) (maskHas b l)) : LogicGives mk f := by
  intro o s g slices grp hi
  exact ⟨h (grp.pred o.pa) (grp.pred o.pb), hf _ _, by rw [he, predLogic_gives hi]⟩

/-- A word that is the shared vote on the active lanes and those among them in which the predicate is true. -/
theorem voteGives_of {mk : XVote → Instr} {f h : LaneMask → LaneMask → Bool} (he : ∀ o s, exec (mk o) s = votePred o s h)
    (hf : ∀ active p, f active p = h active (active &&& p)) : VoteGives mk f := by
  intro o s g grp hi active
  rw [he, votePred_gives hi rfl, hf]

theorem maskHas_and {n : Nat} (a b : BitVec n) (i : Nat) : maskHas (a &&& b) i = (maskHas a i && maskHas b i) := BitVec.getLsbD_and

theorem any_vote (active p : LaneMask) :
    decide (∃ l : Fin 32, maskHas active l = true ∧ maskHas p l = true) = (active &&& p != 0) := by
  rw [Bool.eq_iff_iff, decide_eq_true_iff, bne_iff_ne]
  constructor
  · rintro ⟨l, hl, hp⟩ hzero
    have hbit := maskHas_and active p l
    rw [hzero, maskHas_zero, hl, hp] at hbit
    cases hbit
  · intro hne
    obtain ⟨l, hl⟩ := exists_maskHas_of_ne_zero hne
    rw [maskHas_and, Bool.and_eq_true] at hl
    exact ⟨l, hl⟩

theorem all_vote (active p : LaneMask) :
    decide (∀ l : Fin 32, maskHas active l = true → maskHas p l = true) = (active == active &&& p) := by
  rw [Bool.eq_iff_iff, decide_eq_true_iff, beq_iff_eq]
  constructor
  · intro h
    refine eq_of_maskHas fun l => ?_
    rw [maskHas_and, Bool.eq_self_and]
    exact h l
  · intro h l hl
    rw [h, maskHas_and, Bool.and_eq_true] at hl
    exact hl.2

theorem predicateResults : PredicateResults := by
  refine ⟨?pand, ?por, ?pxor, ?pandn, ?any, ?all⟩
  case pand => exact logicGives_of exec_pand fun a b l _ => maskHas_and a b l
  case por => exact logicGives_of exec_por fun _ _ _ _ => BitVec.getLsbD_or
  case pxor => exact logicGives_of exec_pxor fun _ _ _ _ => BitVec.getLsbD_xor
  case pandn =>
    refine logicGives_of exec_pandn fun a b l hl => ?_
    have hnot : maskHas (~~~b) l = !maskHas b l := BitVec.getLsbD_not.trans (by rw [decide_eq_true hl, Bool.true_and, maskHas])
    rw [maskHas_and, hnot]
  case any => exact voteGives_of exec_voteAny any_vote
  case all => exact voteGives_of exec_voteAll all_vote

/-! ### Exchanges (R192, R193, R195) -/

theorem laneExchangeResults : LaneExchangeResults := by
  refine ⟨?ballot, ?vtrp, ?lidx, ?bcast, ?vget⟩
  case ballot => exact fun o _ _ _ _ hi hr => ballot_gives hi o hr
  case vtrp => exact fun o => crossGives_of (exec_vtrp o) rfl
  case lidx => exact fun o _ _ _ _ hi hplain hkept => lidx_gives hi o hplain hkept
  case bcast => exact fun o _ _ _ _ hi hr hu => bcast_gives hi o hr hu
  case vget => exact fun o _ _ _ _ hi hr hu => vget_gives hi o hr hu

/-- Settles O38: each word is its shared operation, whose one lemma gives the state that it leaves. -/
theorem crossLaneWords : Obligations.CrossLaneWords := ⟨shuffleResults, predicateResults, laneExchangeResults⟩

end Sys2Proof.Machine
end

section
/-! PROOFS. Sequenced wide words: their issue, and the quotients, rationals and greatest common divisors that they deliver (R200, R201, R211,
R217 to R221). -/

namespace Sys2Proof.Machine

open Sys2Proof

/-! ### Issue (R200, R201) -/

/-- A word that has no checks of its own, and whose meaning is `wideSequenced`, issues as such a word. -/
theorem sequencedGives_of {i : Instr} {srcs dsts : List WSrc} {uses : List (Fin 64)} {total : List Int → List DWord → Nat}
    (hexec : ∀ s, exec i s = wideSequenced s i srcs dsts uses noMore total) (hw : ∀ w ∈ srcs ++ dsts, 0 < w.halves ∧ 0 < w.n) :
    SequencedGives i srcs dsts uses (fun _ _ _ => True) total := by
  intro s g slices grp hi
  obtain ⟨hstart, hagain⟩ := wideSequenced_gives (more := noMore) (total := total) (i := i) (uses := uses) hi hw
  rw [hexec s]
  exact ⟨fun hr hnone hu _ => hstart hr hnone hu rfl, hagain⟩

/-- The operands of a word of two spans to one, of so many halves each, are not empty. -/
theorem operands_pos {va vb vd : Fin 64} {w : Span} {k m : Nat} (hk : 0 < k) (hm : 0 < m) :
    ∀ x ∈ [(⟨va, k, spanLen w⟩ : WSrc), ⟨vb, k, spanLen w⟩] ++ [⟨vd, m, spanLen w⟩], 0 < x.halves ∧ 0 < x.n := by
  simp [spanLen_pos, hk, hm]

/-- CRES checks its slot's owner, its mode and its control (R218). -/
theorem sequencedGives_cres (o : WCres) :
    SequencedGives (.cres o) [] [⟨o.vd, 1, spanLen o.w⟩] [o.s]
      (fun s grp us => (s.teamOf grp).holds o.j = true ∧ (s.accOf (s.teamOf grp) o.j).mode ≠ .float ∧ cresOk (us.headD 0) = true)
      fun _ us => cresCount (us.headD 0) := by
  intro s g slices grp hi
  rw [exec_cres, execCres]
  have hw : ∀ w ∈ [] ++ [(⟨o.vd, 1, spanLen o.w⟩ : WSrc)], 0 < w.halves ∧ 0 < w.n := by simp [spanLen_pos]
  refine ⟨fun hr hnone hu ⟨hholds, hmode, hok⟩ => (wideSequenced_gives hi hw).1 hr hnone hu ?_, (wideSequenced_gives hi hw).2⟩
  simp only [hholds, bne_iff_ne.mpr hmode, hok, require_true, Except.ok_bind']

theorem sequencedIssue : SequencedIssue := by
  refine ⟨?wdiv, ?sums, ?products, ?qnorm, ?wgcd, ?cres⟩
  case wdiv => exact fun o => sequencedGives_of (exec_wdiv o) (operands_pos one_pos two_pos)
  case sums =>
    intro mk hmk o
    simp only [List.mem_cons, List.not_mem_nil, or_false] at hmk
    obtain rfl | rfl := hmk
    · exact sequencedGives_of (exec_qadd o) (operands_pos two_pos two_pos)
    · exact sequencedGives_of (exec_qsub o) (operands_pos two_pos two_pos)
  case products =>
    intro mk hmk o
    simp only [List.mem_cons, List.not_mem_nil, or_false] at hmk
    obtain rfl | rfl := hmk
    · exact sequencedGives_of (exec_qmul o) (operands_pos two_pos two_pos)
    · exact sequencedGives_of (exec_qdiv o) (operands_pos two_pos two_pos)
  case qnorm => exact fun o => sequencedGives_of (exec_qnorm o) (by simp [spanLen_pos])
  case wgcd => exact fun o => sequencedGives_of (exec_wgcd o) (operands_pos one_pos one_pos)
  case cres => exact sequencedGives_cres

/-! ### The greatest common divisor (R221) -/

/-- A remainder by a number not above the dividend is below half of the dividend. -/
theorem two_mul_mod_lt {b r : Nat} (hr : 0 < r) (hrb : r ≤ b) : 2 * (b % r) < b := by
  have hlt := Nat.mod_lt b hr
  have hle : b % r + r ≤ b := by
    rw [Nat.mod_eq_sub_mod hrb]
    exact Nat.add_le_of_le_sub hrb (Nat.mod_le _ _)
  omega

/-- Two steps of Euclid's algorithm at least halve the smaller number, so that two steps for each of its bits and one more are enough. -/
theorem gcdFuel_eq {k f a b : Nat} (hb : b < 2 ^ k) (hf : 2 * k + 1 ≤ f) : normOf.gcdFuel f a b = Nat.gcd a b := by
  induction k generalizing f a b with
  | zero =>
    obtain ⟨f, rfl⟩ := Nat.exists_eq_add_of_le' hf
    obtain rfl : b = 0 := by omega
    rw [normOf.gcdFuel, if_pos rfl, Nat.gcd_zero_right]
  | succ k ih =>
    obtain ⟨f, rfl⟩ : ∃ e, f = e + 2 := ⟨f - 2, by omega⟩
    by_cases hb0 : b = 0
    · rw [normOf.gcdFuel, if_pos hb0, hb0, Nat.gcd_zero_right]
    by_cases hr0 : a % b = 0
    · rw [normOf.gcdFuel, if_neg hb0, normOf.gcdFuel, if_pos hr0, Nat.gcd_comm, Nat.gcd_rec, hr0, Nat.gcd_zero_left]
    have hrb : a % b < b := Nat.mod_lt a (Nat.pos_of_ne_zero hb0)
    have hhalf := two_mul_mod_lt (Nat.pos_of_ne_zero hr0) hrb.le
    calc normOf.gcdFuel (f + 2) a b
        = normOf.gcdFuel f (a % b) (b % (a % b)) := by rw [normOf.gcdFuel, if_neg hb0, normOf.gcdFuel, if_neg hr0]
      _ = Nat.gcd (a % b) (b % (a % b)) := ih (by omega) (by omega)
      _ = Nat.gcd a b := by rw [Nat.gcd_comm, ← Nat.gcd_rec, ← Nat.gcd_rec, Nat.gcd_comm]

/-- The fuel that QNORM and WGCD give Euclid's algorithm is enough. -/
theorem gcdFuel_log2 (a b : Nat) : normOf.gcdFuel (Nat.log2 (max a b) * 2 + 4) a b = Nat.gcd a b :=
  gcdFuel_eq (k := Nat.log2 (max a b) + 1) (lt_of_le_of_lt (le_max_right a b) Nat.lt_log2_self) (by omega)

theorem gcdNat_natAbs (a b : Int) : (gcdNat a.natAbs b.natAbs : Int) = Int.gcd a b := congrArg Nat.cast (gcdFuel_log2 _ _)

/-! ### Rationals (R219, R220) -/

/-- QNORM of a fraction: both parts divided by their greatest common divisor, with the sign in the numerator. -/
theorem normOf_spec {n d : Int} (hd : d ≠ 0) :
    ∃ n' d' : Int, normOf n d = (n', d', 0) ∧ 0 < d' ∧ n * d' = n' * d ∧ Int.gcd n' d' = 1 := by
  have hg : 0 < Int.gcd n d := Int.gcd_pos_of_ne_zero_right n hd
  have hfuel : normOf.gcdFuel (Nat.log2 (max n.natAbs d.natAbs) * 2 + 4) n.natAbs d.natAbs = Int.gcd n d := gcdFuel_log2 _ _
  have hcop : Int.gcd (n / Int.gcd n d) (d / Int.gcd n d) = 1 := Int.gcd_ediv_gcd_ediv_gcd hg
  have hn : n / Int.gcd n d * Int.gcd n d = n := Int.ediv_mul_cancel (Int.gcd_dvd_left ..)
  have hd' : d / Int.gcd n d * Int.gcd n d = d := Int.ediv_mul_cancel (Int.gcd_dvd_right ..)
  have hcross : n * (d / Int.gcd n d) = n / Int.gcd n d * d := by
    linear_combination (d / Int.gcd n d) * -hn + (n / Int.gcd n d) * hd'
  have hne : d / Int.gcd n d ≠ 0 := fun h => hd (by rw [← hd', h, zero_mul])
  simp only [normOf, if_neg hd, hfuel]
  by_cases hneg : d / Int.gcd n d < 0
  · exact ⟨_, _, if_pos hneg, by omega, by linear_combination -hcross, by rw [Int.gcd_neg, Int.neg_gcd, hcop]⟩
  · exact ⟨_, _, if_neg hneg, by omega, hcross, hcop⟩

/-- A fraction as the rational words deliver it: its sign in the numerator, and 0 over 1 (R219). -/
def deliveredFraction (n d : Int) : Int × Int × BitVec 7 :=
  let (n, d) := if d < 0 then (-n, -d) else (n, d)
  (n, if n = 0 ∧ 0 < d then 1 else d, 0)

theorem deliveredFraction_spec (n : Int) {d : Int} (hd : d ≠ 0) :
    ∃ n' d' : Int, deliveredFraction n d = (n', d', 0) ∧ 0 < d' ∧ n' * d = n * d' := by
  have hone (x y : Int) (hy : 0 < y) : 0 < (if x = 0 ∧ 0 < y then 1 else y) ∧ x * (if x = 0 ∧ 0 < y then 1 else y) = x * y := by
    split
    next h => rw [h.1]; simp
    next => exact ⟨hy, rfl⟩
  by_cases hneg : d < 0
  · obtain ⟨hpos, hmul⟩ := hone (-n) (-d) (by omega)
    exact ⟨-n, _, by rw [deliveredFraction, if_pos hneg], hpos, by linear_combination hmul⟩
  · obtain ⟨hpos, hmul⟩ := hone n d (by omega)
    exact ⟨n, _, by rw [deliveredFraction, if_neg hneg], hpos, by linear_combination -hmul⟩

section Rationals

variable {na da nb db : Int}

/-- A sum or difference keeps a denominator that both fractions have, and else takes the product of the two. -/
theorem rationalOf_sum (sub : Bool) (hda : da ≠ 0) (hdb : db ≠ 0) : rationalOf (some sub) false na da nb db =
    if da = db then deliveredFraction (if sub then na - nb else na + nb) da
    else deliveredFraction (if sub then na * db - nb * da else na * db + nb * da) (da * db) := by
  simp only [rationalOf, hda, hdb, or_self, if_false, Bool.false_eq_true, false_and]
  by_cases h : da = db
  · simp only [if_pos h]; rfl
  · simp only [if_neg h]; rfl

theorem rationalOf_product (hda : da ≠ 0) (hdb : db ≠ 0) :
    rationalOf none false na da nb db = deliveredFraction (na * nb) (da * db) := by
  simp only [rationalOf, hda, hdb, or_self, if_false, Bool.false_eq_true, false_and]
  rfl

theorem rationalOf_quotient (hda : da ≠ 0) (hdb : db ≠ 0) (hnb : nb ≠ 0) :
    rationalOf none true na da nb db = deliveredFraction (na * db) (da * nb) := by
  simp only [rationalOf, hda, hdb, hnb, or_self, if_false, and_false, if_true]
  rfl

theorem rationalOf_sum_spec (sub : Bool) (hda : da ≠ 0) (hdb : db ≠ 0) :
    ∃ n' d' : Int, rationalOf (some sub) false na da nb db = (n', d', 0) ∧ 0 < d' ∧
      n' * (da * db) = (if sub then na * db - nb * da else na * db + nb * da) * d' := by
  rw [rationalOf_sum sub hda hdb]
  by_cases heq : da = db
  · subst heq
    rw [if_pos rfl]
    obtain ⟨n', d', hout, hpos, hval⟩ := deliveredFraction_spec (if sub then na - nb else na + nb) hda
    refine ⟨n', d', hout, hpos, ?_⟩
    have hnum : (if sub then na * da - nb * da else na * da + nb * da) = (if sub then na - nb else na + nb) * da := by
      split <;> ring
    rw [hnum]
    linear_combination da * hval
  · rw [if_neg heq]
    exact deliveredFraction_spec _ (mul_ne_zero hda hdb)

end Rationals

/-- A word that delivers the two parts of `r` with its flags delivers what is known of `r`, with no flag where `r` has none. -/
theorem delivers_of_eq {i : Instr} {xs : List Int} {vd n : Nat} {r : Int × Int × BitVec 7} {P : Int → Int → Prop}
    (hout : sequencedOut i xs = { writes := [(vd, n, r.1), (vd + n, n, r.2.1)], flags := r.2.2 })
    (hr : ∃ n' d' : Int, r = (n', d', 0) ∧ P n' d') :
    ∃ n' d' : Int, sequencedOut i xs = { writes := [(vd, n, n'), (vd + n, n, d')] } ∧ P n' d' := by
  obtain ⟨n', d', rfl, hspec⟩ := hr
  exact ⟨n', d', hout, hspec⟩

theorem sequencedValues : SequencedValues := by
  refine ⟨?wdiv, ?wgcd, ?qnorm, ?qadd, ?qsub, ?qmul, ?qdiv⟩
  case wdiv =>
    intro o a b
    have hrem : a.tmod b = a - a.tdiv b * b := by rw [Int.tmod_def, mul_comm]
    by_cases hb : b = 0
    · simp [sequencedOut, wv, hb]
    · simp [sequencedOut, wv, hb, hrem]
  case wgcd => exact fun o a b => congrArg (fun x => [(o.vd.val, spanLen o.w, x)]) (gcdNat_natAbs a b)
  case qnorm => exact fun o n d hd => delivers_of_eq rfl (normOf_spec hd)
  case qadd => exact fun o na da nb db hda hdb => delivers_of_eq rfl (rationalOf_sum_spec false hda hdb)
  case qsub => exact fun o na da nb db hda hdb => delivers_of_eq rfl (rationalOf_sum_spec true hda hdb)
  case qmul =>
    intro o na da nb db hda hdb
    exact delivers_of_eq rfl (rationalOf_product hda hdb ▸ deliveredFraction_spec _ (mul_ne_zero hda hdb))
  case qdiv =>
    intro o na da nb db hda hdb hnb
    exact delivers_of_eq rfl (rationalOf_quotient hda hdb hnb ▸ deliveredFraction_spec _ (mul_ne_zero hda hnb))

/-- Settles O40: a word issues as `wideSequenced` leaves it; the fuel of Euclid's algorithm is enough for the divisors, and a rational's
value is that of the fraction that it delivers. -/
theorem sequencedWords : Obligations.SequencedWords := ⟨sequencedIssue, sequencedValues⟩

end Sys2Proof.Machine
end

section
/-! PROOFS. The short wide words: arithmetic, words of one source, comparison, and limbs to and from uniform registers (R205 to R210, R212 to
R215). -/

namespace Sys2Proof.Machine

open Sys2Proof

/-! ### The shared operation -/

/-- A word whose meaning is `wideShort` on `h` gives `f` where the two agree on operands that let the word act, and where `h` writes its
destinations alone. -/
theorem wideGives_of {i : Instr} {srcs dsts both : List WSrc} {uses udst : List (Fin 64)} {f h : Group → List Int → List DWord → WideOut}
    (hexec : ∀ s, exec i s = wideShort s srcs dsts both uses udst h) (hw : ∀ w ∈ srcs ++ dsts ++ both, 0 < w.halves ∧ 0 < w.n)
    (hf : ∀ grp slices xs us, WideReady grp slices (srcs.map (·.op false)) (dsts.map (·.op true)) (both.map (·.op false)) →
      h grp xs us = f grp xs us)
    (hwrites : ∀ grp xs us, ∀ e ∈ (f grp xs us).writes, ⟨e.1, e.2.1, true⟩ ∈ dsts.map (·.op true)) :
    WideGives i srcs dsts both uses udst f := by
  intro s g slices grp hi hr hu out hs hq
  refine (hexec s).trans (wideShort_gives hi (hf grp slices _ _ hr) hr hu hw (fun e he k hk => ?_) hs hq)
  refine hr.plain _ (List.mem_flatMap.mpr ⟨⟨e.1, e.2.1, true⟩, ?_, List.mem_map_of_mem (List.mem_range.mpr hk)⟩)
  exact List.mem_append_left _ (List.mem_append_right _ (hwrites grp _ _ e he))

/-- A word that writes one span, its destination. -/
theorem wideGives_span {i : Instr} {srcs both : List WSrc} {uses udst : List (Fin 64)} {vd : Fin 64} {n : Nat}
    {f : Group → List Int → List DWord → WideOut} (hexec : ∀ s, exec i s = wideShort s srcs [⟨vd, 1, n⟩] both uses udst f)
    (hw : ∀ w ∈ srcs ++ [⟨vd, 1, n⟩] ++ both, 0 < w.halves ∧ 0 < w.n)
    (hwrites : ∀ grp xs us, ∃ x, (f grp xs us).writes = [(vd.val, n, x)]) : WideGives i srcs [⟨vd, 1, n⟩] both uses udst f := by
  refine wideGives_of hexec hw (fun _ _ _ _ _ => rfl) fun grp xs us e he => ?_
  obtain ⟨x, hx⟩ := hwrites grp xs us
  obtain rfl : e = (vd.val, n, x) := by simpa [hx] using he
  simp [WSrc.op]

/-- A word that writes no span. -/
theorem wideGives_noSpan {i : Instr} {srcs : List WSrc} {uses udst : List (Fin 64)} {f h : Group → List Int → List DWord → WideOut}
    (hexec : ∀ s, exec i s = wideShort s srcs [] [] uses udst h) (hw : ∀ w ∈ srcs, 0 < w.halves ∧ 0 < w.n)
    (hf : ∀ grp slices xs us, WideReady grp slices (srcs.map (·.op false)) [] [] → h grp xs us = f grp xs us)
    (hwrites : ∀ grp xs us, (f grp xs us).writes = []) : WideGives i srcs [] [] uses udst f :=
  wideGives_of hexec (by simpa using hw) hf (by simp [hwrites])

theorem wide3Gives_of {mk : W3 → Instr} {f h : Nat → Bool → Int → Int → Int × Option Bool} (hexec : ∀ o s, exec (mk o) s = wide3 o s h)
    (hf : ∀ n c a b, f n c a b = h n c a b) : Wide3Gives mk f := by
  obtain rfl : f = h := funext fun n => funext₃ (hf n)
  exact fun o => wideGives_span (hexec o) (by simp [spanLen_pos]) fun _ _ _ => ⟨_, rfl⟩

theorem wide2Gives_of {mk : W2 → Instr} {f h : Nat → Int → Int} (hexec : ∀ o s, exec (mk o) s = wide2 o s h)
    (hf : ∀ n a, f n a = h n a) : Wide2Gives mk f := by
  obtain rfl : f = h := funext₂ hf
  exact fun o => wideGives_span (hexec o) (by simp [spanLen_pos]) fun _ _ _ => ⟨_, rfl⟩

/-- The first uniform source is the one at position 0. -/
theorem headD_eq_getD (us : List DWord) : us.headD 0 = us.getD 0 0 := by cases us <;> rfl

theorem wideScalar_eq (o : WS) (s : State) (addend : Bool) (f : Nat → Int → Int → Nat → Int) :
    wideScalar o s addend f =
      wideShort s [⟨o.va, 1, spanLen o.w⟩] [⟨o.vd, 1, spanLen o.w⟩] (if addend then [⟨o.vd, 1, spanLen o.w⟩] else []) [o.s] []
        fun _ xs us => { writes := [(o.vd.val, spanLen o.w, f (spanLen o.w) (xs.getD 0 0) (xs.getD 1 0) (us.getD 0 0).toNat)] } := by
  simp only [wideScalar, wv, headD_eq_getD]

theorem wideScalarGives_of {mk : WS → Instr} {f h : Nat → Int → Nat → Int}
    (hexec : ∀ o s, exec (mk o) s = wideScalar o s false fun n a _ k => h n a k) (hf : ∀ n a k, f n a k = h n a k) : WideScalarGives mk f := by
  obtain rfl : f = h := funext₃ hf
  exact fun o => wideGives_span (fun s => (hexec o s).trans (wideScalar_eq o s false _)) (by simp [spanLen_pos]) fun _ _ _ => ⟨_, rfl⟩

/-! ### Values (R75, R197) -/

/-- A pattern read as signed is the number modulo 2^N read as signed. -/
theorem signed_eq_signedMod (n x : Nat) : signed (1024 * n) x = signedMod n x := by
  have hcast : ((2 ^ (1024 * n) : Nat) : Int) = 2 ^ (1024 * n) := by push_cast; rfl
  have hmod := Int.natCast_mod x (2 ^ (1024 * n))
  rw [hcast] at hmod
  simp only [signed, signedMod]
  split <;> split <;> omega

theorem truncWide_eq_signedMod (n : Nat) (x : Int) : truncWide n x = signedMod n x := by
  rw [truncWide, signed_eq_signedMod, wrap_cast, signedMod, signedMod]
  push_cast
  simp only [Int.emod_emod]

theorem pattern_eq_patternOf (n : Nat) (x : Int) : pattern n x = patternOf n x := rfl

theorem patternOf_lt (n : Nat) (x : Int) : patternOf n x < 2 ^ (1024 * n) := by
  have hlt := Int.emod_lt_of_pos x (b := 2 ^ (1024 * n)) (by positivity)
  have hcast : ((2 ^ (1024 * n) : Nat) : Int) = 2 ^ (1024 * n) := by push_cast; rfl
  rw [patternOf]
  omega

theorem bitNat_eq_toNat (b : Bool) : bitNat b = b.toNat := by cases b <;> rfl

/-! ### Arithmetic (R205, R206) -/

/-- A bitwise word gives the operation on the patterns. -/
theorem wideBitsGives_of {mk : W3 → Instr} {f : Nat → Nat → Nat} (hexec : ∀ o s, exec (mk o) s = wideBits o s f) :
    Wide3Gives mk fun n _ a b => (signedMod n (f (patternOf n a) (patternOf n b) : Nat), none) :=
  wide3Gives_of hexec fun _ _ _ _ => by rw [signed_eq_signedMod]; rfl

theorem wideArithmeticResults : WideArithmeticResults := by
  refine ⟨?wadd, ?wadc, ?wsub, ?wsbb, ?wand, ?wor, ?wxor, ?wandn⟩
  case wadd => exact wide3Gives_of exec_wadd fun _ _ _ _ => rfl
  case wadc => exact wide3Gives_of exec_wadc fun n c a b => by simp only [bitNat_eq_toNat, signed_eq_signedMod, pattern_eq_patternOf]
  case wsub => exact wide3Gives_of exec_wsub fun _ _ _ _ => rfl
  case wsbb => exact wide3Gives_of exec_wsbb fun n c a b => by simp only [bitNat_eq_toNat, truncWide_eq_signedMod, pattern_eq_patternOf]
  case wand => exact wideBitsGives_of exec_wand
  case wor => exact wideBitsGives_of exec_wor
  case wxor => exact wideBitsGives_of exec_wxor
  case wandn => exact wideBitsGives_of (f := fun a b => a ^^^ (a &&& b)) exec_wandn

/-! ### One source, and a uniform register (R207 to R210, R213) -/

/-- The leading zeros of a pattern, counted from its highest set bit as WCLZ does, or by a search from the top. -/
theorem wclz_eq_find (n : Nat) (a : Int) :
    1024 * n - (if pattern n a = 0 then 0 else Nat.log2 (pattern n a) + 1) =
      ((List.range (1024 * n)).find? fun i => (patternOf n a).testBit (1024 * n - 1 - i)).getD (1024 * n) := by
  rw [← leadingZeros_eq_find (patternOf_lt n a), leadingZeros, pattern_eq_patternOf]
  split <;> omega

/-- WDIVS of an even register: the quotient, and the remainder in the next register (R210). -/
theorem wdivs_gives (o : WS) (heven : o.s.val % 2 = 0) :
    WideGives (.wdivs o) [⟨o.va, 1, spanLen o.w⟩] [⟨o.vd, 1, spanLen o.w⟩] [] [o.s] [pairOf o.s] fun _ xs us =>
      let d : Int := ((us.getD 0 0).toNat % 2 ^ 32 : Nat)
      let a := xs.getD 0 0
      if d = 0 then { writes := [(o.vd.val, spanLen o.w, -1)], flags := flagDZ, sreg := some (pairOf o.s, 0) }
      else { writes := [(o.vd.val, spanLen o.w, a.tdiv d)], sreg := some (pairOf o.s, BitVec.ofInt 64 (a - a.tdiv d * d)) } := by
  have hrem (a d : Int) : a.tmod d = a - a.tdiv d * d := by rw [Int.tmod_def, mul_comm]
  refine wideGives_span (fun s => ?_) (by simp [spanLen_pos]) fun grp xs us => ?_
  · rw [exec_wdivs, execWdivs, if_neg (by omega)]
    simp only [wv, headD_eq_getD, hrem]
  · dsimp only
    split
    · exact ⟨_, rfl⟩
    · exact ⟨_, rfl⟩

theorem wideUnaryResults : WideUnaryResults := by
  refine ⟨?wneg, ?wnot, ?wabs, ?wnorm, ?wclz, ?wpopc, ?wshl, ?wshr, ?wsar, ?wmuls, ?wmads, ?wdivs, ?wextI, ?wextN⟩
  case wneg => exact wide2Gives_of exec_wneg fun _ _ => rfl
  case wnot => exact wide2Gives_of exec_wnot fun _ _ => rfl
  case wabs => exact wide2Gives_of exec_wabs fun _ _ => rfl
  case wnorm => exact wide2Gives_of exec_wnorm fun _ _ => rfl
  case wclz => exact wide2Gives_of exec_wclz fun n a => congrArg Nat.cast (wclz_eq_find n a).symm
  case wpopc => exact wide2Gives_of exec_wpopc fun n a => congrArg Nat.cast (popCount_eq_countP _ _).symm
  case wshl => exact wideScalarGives_of exec_wshl fun _ _ _ => rfl
  case wshr => exact wideScalarGives_of exec_wshr fun n _ _ => (signed_eq_signedMod n _).symm
  case wsar => exact wideScalarGives_of exec_wsar fun _ _ _ => rfl
  case wmuls => exact wideScalarGives_of exec_wmuls fun _ _ _ => rfl
  case wmads =>
    exact fun o => wideGives_span (fun s => (exec_wmads o s).trans (wideScalar_eq o s true _)) (by simp [spanLen_pos]) fun _ _ _ => ⟨_, rfl⟩
  case wdivs => exact wdivs_gives
  case wextI => exact fun o => wideGives_span (exec_wextI o) (by simp [spanLen_pos]) fun _ _ _ => ⟨_, rfl⟩
  case wextN => exact fun o => wideGives_span (exec_wextN o) (by simp [spanLen_pos]) fun _ _ _ => ⟨_, rfl⟩

/-! ### Comparison, and limbs to and from uniform registers (R212, R214, R215) -/

/-- A limb number of the span is well formed, and is not the number that asks for the extent. -/
theorem limb_ne_extent {w : Span} {k : Fin 256} (hk : k.val < 32 * spanLen w) : k ≠ 0xFF := by
  rintro rfl
  cases w <;> simp [spanLen] at hk

/-- The extent that a read of a span of no armed stream uses is its tag's, where the tag is one of the span. -/
theorem readExtent_plain {grp : Group} {r n : Nat} (h : grp.streamOf r = none) :
    grp.readExtent r n =
      let tag := (grp.tags.getD (vIndex (grp.lead 0xFF).loops.length r) 0).toNat
      if 1 ≤ tag ∧ tag ≤ 32 * n then tag else 0 := by
  simp [Group.readExtent, h]

theorem wgetl_limb_gives (o : WGet) (hk : o.n.val < 32 * spanLen o.w) :
    WideGives (.wgetl o) [⟨o.va, 1, spanLen o.w⟩] [] [] [] [o.s] fun _ xs _ =>
      { writes := [], sreg := some (o.s, BitVec.ofNat 64 (patternOf (spanLen o.w) (xs.getD 0 0) / 2 ^ (32 * o.n.val) % 2 ^ 32)) } := by
  refine wideGives_noSpan (fun s => (exec_wgetl o s).trans (if_pos ?_)) (by simp [spanLen_pos]) (fun grp slices xs us _ => ?_) fun _ _ _ => rfl
  · simp [hk]
  · simp only [limb_ne_extent hk, if_false]
    rfl

theorem wgetl_extent_gives (o : WGet) (hk : o.n.val = 0xFF) :
    WideGives (.wgetl o) [⟨o.va, 1, spanLen o.w⟩] [] [] [] [o.s] fun grp _ _ =>
      let tag := (grp.tags.getD (vIndex (grp.lead 0xFF).loops.length o.va) 0).toNat
      { writes := [], sreg := some (o.s, BitVec.ofNat 64 (if 1 ≤ tag ∧ tag ≤ 32 * spanLen o.w then tag else 0)) } := by
  have hk' : o.n = 0xFF := Fin.ext hk
  refine wideGives_noSpan (fun s => (exec_wgetl o s).trans (if_pos ?_)) (by simp [spanLen_pos]) (fun grp slices xs us hr => ?_) fun _ _ _ => rfl
  · simp [hk']
  · have hplain : grp.streamOf o.va = none := hr.plain _ (by simp [VOp.names, WSrc.op, spanLen_pos])
    simp only [hk', if_true, readExtent_plain hplain]

/-- WSETL writes one limb's lane of one register of the span, as a lane word does (R215). -/
theorem wsetl_gives {o : WSet} {s : State} {g : GroupId} {grp : Group} (hk : o.n.val < 32 * spanLen o.w) (hi : Issues s g 0xFF grp)
    (hok : grp.wideOk ⟨o.vd.val, spanLen o.w, true⟩ = true) (hplain : ∀ i, i < spanLen o.w → grp.streamOf (o.vd.val + i) = none)
    (hkept : grp.promiseKept 0xFF (grp.placesOf 0xFF ⟨o.vd.val, spanLen o.w, true⟩) []) (hu : s.uniformReady [o.s] []) :
    exec (.wsetl o) s = .next (s.doneWith g 0xFF { grp.writeAll 0xFF (BitVec.ofNat 32 (2 ^ (o.n.val % 32)))
      [(o.vd.val + o.n.val / 32, Vector.replicate 32 (BitVec.ofNat 32 (s.readU o.s).toNat))] with pix := 0 }) := by
  have hform : decide (o.n.toNat < 32 * spanLen o.w) = true := decide_eq_true hk
  have harmed : grp.armedSpan ⟨o.vd.val, spanLen o.w, true⟩ = false := armedSpan_plain (hplain 0 (spanLen_pos o.w))
  have hwrite := writeLane_plain hi.here 0xFF (BitVec.ofNat 32 (2 ^ (o.n.val % 32))) (hplain (o.n.val / 32) (by omega))
    (Vector.replicate 32 (BitVec.ofNat 32 (s.readU o.s).toNat))
  rw [exec_wsetl, execWsetl, guardForm, if_pos hform]
  refine onGang_ok hi ?_
  simp only [hok, require_true, requireGang_whole, harmed, Bool.not_false, checkPromise_ok hkept, uniformSources_plain hu, commitPops_nil,
    Except.ok_bind', List.map_cons, List.map_nil, List.headD_cons, Fin.toNat_eq_val, hwrite, State.setPix, State.group?_setGroup,
    State.setGroup_setGroup, advance_gang hi.cur, Except.pure_ok]

theorem wideCompareResults : WideCompareResults := by
  refine ⟨?wcmpI, ?wcmpN, ?limb, ?extent, ?wsetl⟩
  case wcmpI =>
    refine fun o hcc => wideGives_noSpan (fun s => (exec_wcmpI o s).trans (guardForm_cmp hcc s _)) (by simp [spanLen_pos])
      (fun _ _ _ _ _ => ?_) fun _ _ _ => rfl
    simp only [truthOf_eq_cmpHolds, wv]
  case wcmpN =>
    refine fun o hcc => wideGives_noSpan (fun s => (exec_wcmpN o s).trans (guardForm_cmp hcc s _)) (by simp [spanLen_pos])
      (fun _ _ _ _ _ => ?_) fun _ _ _ => rfl
    simp only [truthOf_eq_cmpHolds, wv, pattern_eq_patternOf]
  case limb => exact wgetl_limb_gives
  case extent => exact wgetl_extent_gives
  case wsetl => exact fun _ _ _ _ hk hi hok hplain hkept hu => wsetl_gives hk hi hok hplain hkept hu

/-- Settles O39: each word is `wideShort` on a function of the values of its spans, and that function is what the statement spells. -/
theorem wideWords : Obligations.WideWords := ⟨wideArithmeticResults, wideUnaryResults, wideCompareResults⟩

end Sys2Proof.Machine
end

section
/-! PROOFS. Uniform loads, stores and atomics: their checks, the register that takes a value, and what the words leave (R105, R136, R222, R230 to
R232, R275, R340). -/

namespace Sys2Proof.Machine

open Sys2Proof

/-! ### Who issues an access -/

theorem actors_uniformPlaces {s t : State} {k : AccKind} {weak : Bool} {a n : Nat} {ps : List Place}
    (h : s.uniformPlaces k weak a n = .ok (t, ps)) : t.actors = s.actors := by
  unfold State.uniformPlaces at h
  split at h
  · cases h
    rfl
  · exact actors_places h

@[simp] theorem actors_acquire (s : State) (g : GroupId) : (s.acquire g).actors = s.actors := by
  unfold State.acquire
  split
  · rfl
  · split <;> rfl

@[simp] theorem actors_acquireIssuer (s : State) : s.acquireIssuer.actors = s.actors := by
  unfold State.acquireIssuer
  split
  · exact actors_acquire ..
  · rfl

theorem inPilotMemory_of_actors {s t : State} (h : t.actors = s.actors) (a : Nat) : t.inPilotMemory a = s.inPilotMemory a := by
  rw [State.inPilotMemory, State.cur_of_actors h, State.inPilotMemory]

theorem pinIssuer_of_issues {s : State} {g : GroupId} {slices : BitVec 8} {grp : Group} (h : Issues s g slices grp) :
    s.pinIssuer = s.setGroup g (grp.pin slices) := by
  simp only [State.pinIssuer, h.cur, State.pinGroup, h.here]

theorem Group.pin_lead_pc (grp : Group) (slices m : BitVec 8) : ((grp.pin slices).lead m).pc = (grp.lead m).pc := by
  rw [Group.lead, Group.pin, Group.mapSlices_get]
  split <;> rfl

theorem Group.starts.pin {grp : Group} {slices : BitVec 8} (h : grp.starts slices) : (grp.pin slices).starts slices :=
  starts_set (f := fun sl => { sl with pinned := true }) (fun _ => rfl) h grp.tickets grp.ticketSeq

/-- Barring a rewind changes nothing but the group of the word in execution, if it has one. -/
theorem pinIssuer_cases (s : State) : s.pinIssuer = s ∨
    ∃ g slices grp, Issues s g slices grp ∧ s.pinIssuer = s.setGroup g (grp.pin slices) := by
  unfold State.pinIssuer
  split
  case h_1 g slices hc =>
    cases hg : s.group? g with
    | none => exact .inl (by simp only [State.pinGroup, hg])
    | some grp => exact .inr ⟨g, slices, grp, ⟨hc, hg⟩, by simp only [State.pinGroup, hg]⟩
  case h_2 => exact .inl rfl

theorem accessor_pinIssuer (s : State) : s.pinIssuer.accessor = s.accessor := by
  rcases pinIssuer_cases s with h | ⟨g, slices, grp, hi, h⟩
  · rw [h]
  · rw [h]
    simp only [State.accessor, State.setGroup_cur, hi.cur, hi.here, State.group?_setGroup, State.groupMaker, Group.pin_lead_pc]
    rfl

/-! ### The register that takes a value -/

/-- A value goes to a register of the word in execution that is no queue port, and nothing of the word has been done. -/
def State.takesTo (s : State) (sd : Fin 64) : Prop :=
  ∀ g slices grp, Issues s g slices grp → grp.starts slices ∧ grp.port sd = none

namespace State.takesTo

variable {s t : State} {sd : Fin 64}

theorem of_ready {srcs dsts : List (Fin 64)} (h : s.uniformReady srcs dsts) (hs : s.startsWord) (hd : sd ∈ srcs ++ dsts) : s.takesTo sd :=
  fun _ _ _ hi => ⟨hs _ _ _ hi, uniformReady_gang hi h _ hd⟩

theorem of_gang {g : GroupId} {slices : BitVec 8} {grp : Group} (hi : Issues s g slices grp) (hstart : grp.starts slices)
    (hport : grp.port sd = none) : s.takesTo sd := by
  intro g' slices' grp' hi'
  cases hi.cur.symm.trans hi'.cur
  cases hi.here.symm.trans hi'.here
  exact ⟨hstart, hport⟩

theorem of_actors (h : s.takesTo sd) (hst : t.actors = s.actors) : t.takesTo sd :=
  fun _ _ _ hi => h _ _ _ (hi.of_actors hst.symm)

theorem pinIssuer (h : s.takesTo sd) : s.pinIssuer.takesTo sd := by
  rcases pinIssuer_cases s with hsame | ⟨g, slices, grp, hi, hpin⟩
  · rwa [hsame]
  · obtain ⟨hstart, hport⟩ := h _ _ _ hi
    rw [hpin]
    exact of_gang (grp := grp.pin slices) ⟨hi.cur, State.group?_setGroup ..⟩ hstart.pin hport

theorem reservation_eq_none (h : s.takesTo sd) : s.reservation = none := by
  unfold State.reservation
  split
  case h_1 g slices hc =>
    cases hg : s.group? g with
    | none => rfl
    | some grp =>
      rw [Option.bind_some, (h _ _ _ ⟨hc, hg⟩).1]
      rfl
  case h_2 => rfl

theorem roomFor_eq (h : s.takesTo sd) : s.roomFor sd = [sd] := by
  rw [State.roomFor, h.reservation_eq_none]
  rfl

theorem reserve_eq (h : s.takesTo sd) : s.reserve sd = s := by
  have hport : s.pushPort sd = none := by
    unfold State.pushPort
    split
    case h_1 g slices hc =>
      cases hg : s.group? g with
      | none => rfl
      | some grp =>
        rw [Option.bind_some, (h _ _ _ ⟨hc, hg⟩).2]
        rfl
    case h_2 => rfl
  rw [State.reserve, hport]
  split
  case h_1 hq _ => cases hq
  case h_2 => rfl

theorem isPushPort_eq_false (h : s.takesTo sd) : s.isPushPort sd = false := by
  unfold State.isPushPort
  split
  case h_1 g slices hc =>
    cases hg : s.group? g with
    | none => rfl
    | some grp =>
      rw [Option.any_some, (h _ _ _ ⟨hc, hg⟩).2]
      rfl
  case h_2 => rfl

theorem deliver_eq (h : s.takesTo sd) (la : Nat) (x : DWord) : s.deliverUniform sd la x = s.takesUniform sd la x := by
  cases hc : s.cur with
  | none => simp only [State.deliverUniform, State.takesUniform, hc, State.writeUniform, ite_self]
  | some i =>
    cases i with
    | pilot cl => simp only [State.deliverUniform, State.takesUniform, hc]
    | gang g slices =>
      cases hg : s.group? g with
      | none => simp only [State.deliverUniform, State.takesUniform, hc, hg, State.writeUniform, ite_self]
      | some grp => exact deliver_takes ⟨hc, hg⟩ (h _ _ _ ⟨hc, hg⟩).1 (h _ _ _ ⟨hc, hg⟩).2 la x

end State.takesTo

/-! ### The checks of an access -/

theorem PilotAccess.before_eq_false {p : PilotAccess} {a n : Nat} {strong : Bool}
    (h : strong = false ∧ p.strong = false ∧ (p.addr.toNat + p.size ≤ a ∨ a + n ≤ p.addr.toNat)) : p.before a n strong = false := by
  obtain ⟨rfl, hp, hapart⟩ := h
  rw [PilotAccess.before, hp, Bool.or_false, Bool.false_or, decide_eq_false_iff_not]
  omega

theorem checkAccess_ok {s : State} {a n : Nat} {strong : Bool} (h : s.accessFree a n strong) : checkAccess s a n strong = .ok () := by
  unfold checkAccess
  split
  case h_1 cl hc =>
    have hfree : ((s.cluster cl).pilot.accesses.any fun p => p.before a n strong) = false :=
      List.any_eq_false.mpr fun q hq => by simp [PilotAccess.before_eq_false (h cl _ ⟨hc, rfl⟩ q hq)]
    rw [hfree, if_neg Bool.false_ne_true]
  case h_2 => rfl

theorem checkUniform_sound {s : State} {a n : Nat} {aligned : Bool} (h : s.uniformSound a n aligned) (hn : n ≠ 0) :
    checkUniform s a n aligned = .ok () := by
  obtain ⟨hplace, halign⟩ := h
  have hal : (!aligned || a % n == 0) = true := by
    cases aligned with
    | false => rfl
    | true => simp [halign rfl]
  unfold checkUniform
  cases hp : s.inPilotMemory a with
  | none =>
    rw [hp] at hplace
    simp only [addrKind_plain hplace hn, hal, require_true, Except.ok_bind']
  | some cl =>
    rw [hp] at hplace
    simp only [decide_eq_true hplace, hal, require_true, Except.ok_bind']

/-! ### The words -/

/-- The one lemma about `uniformLoad` on operands and an access that let it act. -/
theorem uniformLoad_gives {o : ULd} {s t : State} {ps : List Place} {strong : Bool} (hr : s.uniformReady [o.sa] [o.sd])
    (hstart : s.startsWord) (hclean : (t.readPlaces ps).2 = none) (hfree : s.accessFree (offAddr (s.readU o.sa) o.off) 8 strong)
    (hsound : s.uniformSound (offAddr (s.readU o.sa) o.off) 8 strong)
    (hplaces : s.uniformPlaces .load (!strong) (offAddr (s.readU o.sa) o.off) 8 = .ok (t, ps)) :
    uniformLoad o s strong = .next ((if strong then t.pinIssuer.acquireIssuer else t).takesUniform o.sd o.la.val
      (BitVec.ofNat 64 (ofBytes (ps.map t.readPlace)))).advance := by
  have htakes : s.takesTo o.sd := .of_ready hr hstart (by simp)
  have hread : t.readPlaces ps = (ps.map t.readPlace, none) := Prod.ext rfl hclean
  have htakes' : (if strong then t.pinIssuer.acquireIssuer else t).takesTo o.sd := by
    have ht := htakes.of_actors (actors_uniformPlaces hplaces)
    split
    · exact ht.pinIssuer.of_actors (actors_acquireIssuer _)
    · exact ht
  refine onAny_ok (issuing_of_ready hr) ?_
  have hv : uv [s.readU o.sa] 0 = s.readU o.sa := rfl
  simp only [htakes.roomFor_eq, noPorts, uniformSources_plain hr, Except.ok_bind', List.map_cons, List.map_nil, hv, checkAccess_ok hfree,
    checkUniform_sound hsound (by decide), commitPops_nil, htakes.reserve_eq, hplaces, hread, Except.pure_ok, htakes'.deliver_eq]

/-- The one lemma about `uniformStore` on operands and an access that let it act. -/
theorem uniformStore_gives {o : USt} {s t : State} {ps : List Place} {strong : Bool} (hr : s.uniformReady [o.sa, o.sd] [])
    (hfree : s.accessFree (offAddr (s.readU o.sa) o.off) 8 strong) (hsound : s.uniformSound (offAddr (s.readU o.sa) o.off) 8 strong)
    (hplaces : s.uniformPlaces .store (!strong) (offAddr (s.readU o.sa) o.off) 8 = .ok (t, ps)) :
    uniformStore o s strong = .next ((if strong then t.pinIssuer else t).groupStore (t.accessor.req .store) t.accessor.launch ps
      (toBytes 8 (s.readU o.sd).toNat)).advance := by
  have hv : uv [s.readU o.sa, s.readU o.sd] 0 = s.readU o.sa ∧ uv [s.readU o.sa, s.readU o.sd] 1 = s.readU o.sd := ⟨rfl, rfl⟩
  have hacc : (if strong then t.pinIssuer else t).accessor = t.accessor := by
    split
    · exact accessor_pinIssuer t
    · rfl
  refine onAny_ok (issuing_of_ready hr) ?_
  simp only [noPorts, uniformSources_plain hr, Except.ok_bind', List.map_cons, List.map_nil, hv.1, hv.2, checkAccess_ok hfree,
    checkUniform_sound hsound (by decide), commitPops_nil, hplaces, hacc, Except.pure_ok]

/-- What SATOM reads and writes: its address, its data, and the replacement of CAS. -/
def satomSources (o : UAtom) : List (Fin 64) := o.sa :: o.sd :: (if o.op = .cas then [pairOf o.sd] else [])

theorem satomSources_values (o : UAtom) (v : Fin 64 → DWord) :
    uv ((satomSources o).map v) 0 = v o.sa ∧ uv ((satomSources o).map v) 1 = v o.sd ∧
      uv ((satomSources o).map v) 2 = if o.op = .cas then v (pairOf o.sd) else 0 := by
  refine ⟨rfl, rfl, ?_⟩
  unfold satomSources
  split <;> rfl

/-- SATOM on operands and an access that let it act. -/
theorem execSatom_gives {o : UAtom} {s t : State} {ps : List Place} (heven : o.op = .cas → o.sd.val % 2 = 0)
    (hr : s.uniformReady (satomSources o) (if o.nr then [] else [o.sd])) (hstart : s.startsWord)
    (hfree : s.accessFree (s.readU o.sa).toNat (if o.w64 then 8 else 4) true)
    (hsound : s.uniformSound (s.readU o.sa).toNat (if o.w64 then 8 else 4) true)
    (hplaces : s.uniformPlaces .atomic false (s.readU o.sa).toNat (if o.w64 then 8 else 4) = .ok (t, ps))
    (hclean : (t.readAtomic ps).2 = none)
    (hsup : s.inPilotMemory (s.readU o.sa).toNat = none →
      t.unsupported (t.accessor.req .atomic) (s.readU o.sa).toNat o.op ps = false) :
    let n := if o.w64 then 8 else 4
    let cut := fun (x : DWord) => x.toNat % 2 ^ (8 * n)
    let old := ofBytes (ps.map t.atomicByte)
    let new := atomValue o.op o.w64 old (cut (s.readU o.sd)) (if o.op = .cas then cut (s.readU (pairOf o.sd)) else 0)
    let t' := t.pinIssuer.groupStore (t.accessor.req .atomic) t.accessor.launch ps (toBytes n new)
    execSatom o s = .next (if o.nr then t' else t'.takesUniform o.sd o.la.val (BitVec.ofNat 64 old)).advance := by
  intro n cut old new t'
  have hn : n ≠ 0 := by
    show (if o.w64 then 8 else 4) ≠ 0
    split <;> decide
  have hop : (o.op != .cas || o.sd.val % 2 == 0) = true := by
    by_cases h : o.op = .cas
    · simp [heven h]
    · simp [h]
  have htakes : s.takesTo o.sd := .of_ready hr hstart (by simp [satomSources])
  have htakes' : t'.takesTo o.sd :=
    (htakes.of_actors (actors_uniformPlaces hplaces)).pinIssuer.of_actors (actors_groupStore ..)
  have hread : t.readAtomic ps = (ps.map t.atomicByte, none) := Prod.ext rfl hclean
  have hstored : (!o.nr && s.isPushPort o.sd) = false := by rw [htakes.isPushPort_eq_false, Bool.and_false]
  have hsrcs : o.sa :: ([o.sd] ++ if (o.op == .cas) = true then [pairOf o.sd] else []) = satomSources o := by
    simp only [beq_iff_eq, List.cons_append, List.nil_append, satomSources]
  have hreserve : (if o.nr then s else s.reserve o.sd) = s := by rw [htakes.reserve_eq, ite_self]
  have hpilot : ((t.inPilotMemory (s.readU o.sa).toNat).isNone && t.unsupported (t.accessor.req .atomic) (s.readU o.sa).toNat o.op ps) = false := by
    rw [inPilotMemory_of_actors (actors_uniformPlaces hplaces)]
    cases hm : s.inPilotMemory (s.readU o.sa).toNat with
    | none => rw [hsup hm, Bool.and_false]
    | some cl => rfl
  obtain ⟨hv0, hv1, hv2⟩ := satomSources_values o s.readU
  have hnew : (uv ((satomSources o).map s.readU) 2).toNat % 2 ^ (8 * if o.w64 then 8 else 4) =
      if o.op = .cas then cut (s.readU (pairOf o.sd)) else 0 := by
    rw [hv2]
    exact apply_ite cut ..
  refine onAny_ok (issuing_of_ready hr) ?_
  simp only [hop, require_true, Except.ok_bind', hstored, Bool.false_eq_true, if_false, hsrcs, htakes.roomFor_eq, noPorts,
    uniformSources_plain hr, hv0, hv1, hnew, checkAccess_ok hfree, checkUniform_sound hsound hn, commitPops_nil, hreserve, hplaces, hpilot,
    hread, Except.pure_ok]
  rw [← htakes'.deliver_eq]

/-- Settles O8: a word's checks pass, its access changes neither the groups nor who issues, so its value is taken where the word itself is. -/
theorem uniformMemoryResults : Obligations.UniformMemoryResults := by
  refine ⟨faddValues, ?_, ?_, ?_⟩
  · intro o s t ps hr hstart a hclean
    exact ⟨uniformLoad_gives (strong := false) hr hstart hclean, uniformLoad_gives (strong := true) hr hstart hclean⟩
  · intro o s t ps hr a bs
    exact ⟨uniformStore_gives (strong := false) hr, uniformStore_gives (strong := true) hr⟩
  · intro o s t ps heven hr hstart n a cut hfree hsound hplaces hclean hsup
    exact execSatom_gives heven hr hstart hfree hsound hplaces hclean hsup

end Sys2Proof.Machine
end

section
/-! PROOFS. The issue of the engine words BXT, GATH, MXMUL and NTT: a record that is read, its rules, and the ticket (R225, R240, R242, R247,
R270 to R272). -/

namespace Sys2Proof.Machine

open Sys2Proof

/-! ### Traps of a word that has read its record -/

/-- A word of a gang that traps after an access, which leaves the groups as they are. -/
theorem onGang_trap_after {s t : State} {g : GroupId} {slices : BitVec 8} {grp : Group} {tr : Trap} (hs : Issues s g slices grp)
    (ht : Issues t g slices grp) {f : GroupId → Group → BitVec 8 → Except Stop State} (hf : f g grp slices = .error (.trap tr t)) :
    onGang s f = .next { t.takeTrap g slices tr with runEnd := true } := by
  rw [onGang_issues hs, hf]
  simp only [keepGroup, ht.here, settle, State.setGroup_cur, ht.cur]
  rw [takeTrap_setGroup ht.here]

/-- Without a free ticket entry no operation starts (R240). -/
theorem startOp_tickfull {t : State} {plan : PortPlan} {g : GroupId} {grp : Group} {slices : BitVec 8} {kind : OpKind} {code : Nat}
    {sd : Fin 64} {la : Nat} {record : DWord} {desc : List DWord} (h : grp.freeTicket = none) :
    startOp t plan g grp slices kind code sd la record desc = .error (.trap { kind := .tickfull } t) := by
  rw [startOp, checkTicket, h]
  rfl

/-! ### The shared shape -/

/-- What the engine words share: with the record read, `rest` makes the word's checks, then starts its operation. -/
theorem engineGives_of {i : Instr} {sa sd : Fin 64} {la bytes code : Nat} {ranges : List DWord → List (Nat × Nat)}
    {good : List DWord → Bool} {inside : State → Group → List DWord → Prop} {kind : Group → List DWord → OpKind}
    {after : State → State → State → GroupId → Group → List DWord → State} (hbytes : bytes ≠ 0)
    {rest : State → GroupId → Group → BitVec 8 → List DWord × PortPlan → State × List Byte → Except Stop State}
    (he : ∀ s, exec i s = onGang s fun g grp slices => uniformSources s [sa] [sd] noPorts >>= fun r =>
      readRecord s g grp slices (uv r.1 0).toNat bytes 8 >>= fun q => rest s g grp slices r q)
    (hbad : ∀ s t g grp slices x bs, rangesSound grp.priv (ranges (dwordsOf bs)) → good (dwordsOf bs) = false →
      rest s g grp slices ([x], noPorts) (t, bs) = .error (.trap { kind := .badrec, val := BitVec.ofNat 64 x.toNat } t))
    (hgood : ∀ s t g grp slices x bs, rangesSound grp.priv (ranges (dwordsOf bs)) → good (dwordsOf bs) = true →
      inside s grp (dwordsOf bs) → rest s g grp slices ([x], noPorts) (t, bs) =
        startOp t noPorts g grp slices (kind grp (dwordsOf bs)) code sd la (BitVec.ofNat 64 x.toNat) (dwordsOf bs) >>= fun u =>
          .ok (after s t u g grp (dwordsOf bs))) :
    EngineGives i sa sd la bytes code ranges good inside kind after := by
  intro s t g slices grp ps hi hr hstart a d hsound halign hplaces hclean hranges
  have ht : Issues t g slices grp := hi.of_actors (actors_places hplaces)
  have hword : ∀ r, rest s g grp slices ([s.readU sa], noPorts) (t, ps.map t.readPlace) = r →
      (uniformSources s [sa] [sd] noPorts >>= fun r => readRecord s g grp slices (uv r.1 0).toNat bytes 8 >>= fun q =>
        rest s g grp slices r q) = r := by
    rintro _ rfl
    rw [noPorts, uniformSources_plain hr, Except.ok_bind']
    have hrecord : readRecord s g grp slices (s.readU sa).toNat bytes 8 = .ok (t, ps.map t.readPlace) :=
      readRecord_ok hi hsound hbytes halign hplaces hclean
    simp only [List.map_cons, List.map_nil, uv, List.getD_cons_zero, hrecord, Except.ok_bind']
  rw [he]
  refine ⟨fun e hg hin hfree => onGang_ok hi (hword _ ?_), fun hg => onGang_trap_after hi ht (hword _ ?_),
    fun hg hin hfree => onGang_trap_after hi ht (hword _ ?_)⟩
  · rw [hgood _ _ _ _ _ _ _ hranges hg hin, noPorts, startOp_ok ht hstart (uniformReady_gang hi hr _ (by simp)) hfree]
    rfl
  · exact hbad _ _ _ _ _ _ _ hranges hg
  · rw [hgood _ _ _ _ _ _ _ hranges hg hin, startOp_tickfull hfree]
    rfl

theorem bxtGives (o : UDAL) : EngineGives (.bxt o) o.sa o.sd o.la.val 112 1 (fun d => (Layout.ofRecord d).accesses)
    (fun d => (Layout.ofRecord d).ok d)
    (fun s grp d => (Layout.ofRecord d).mcast < 16 ∧
      localOk (s.teamOf grp).lsSize (Layout.ofRecord d).lsaddr (Layout.ofRecord d).size = true) (fun _ _ => .bxt)
    (fun _ _ u _ _ _ => u) := by
  refine engineGives_of (by decide) (fun s => rfl) ?_ ?_
  · intro s t g grp slices x bs hranges hg
    simp only [hg, require_false]
    rfl
  · rintro s t g grp slices x bs hranges hg ⟨hcast, hlocal⟩
    simp only [hg, decide_eq_true hcast, hlocal, checkRanges_ok hranges, require_true, Except.ok_bind']
    exact (bind_pure _).symm

theorem gathGives (o : UDAL) : EngineGives (.gath o) o.sa o.sd o.la.val 64 2
    (fun d => let q := Gather.ofRecord d
      [(q.list, 4 * q.count), (q.table, q.bound * q.size), (q.dest, if q.lsdst then 0 else q.count * q.size), (q.oormap, q.mapBytes)])
    (fun d => (Gather.ofRecord d).ok d)
    (fun s grp d => let q := Gather.ofRecord d
      q.lsdst = true → localOk (s.teamOf grp).lsSize q.dest (q.count * q.size) = true) (fun _ _ => .gath)
    (fun _ _ u _ _ _ => u) := by
  refine engineGives_of (by decide) (fun s => rfl) ?_ ?_
  · intro s t g grp slices x bs hranges hg
    simp only [hg, require_false]
    rfl
  · intro s t g grp slices x bs hranges hg hin
    have hlocal : (!(Gather.ofRecord (dwordsOf bs)).lsdst || localOk (s.teamOf grp).lsSize (Gather.ofRecord (dwordsOf bs)).dest
        ((Gather.ofRecord (dwordsOf bs)).count * (Gather.ofRecord (dwordsOf bs)).size)) = true := by
      rw [Bool.or_eq_true, Bool.not_eq_true']
      exact (Bool.eq_false_or_eq_true _).symm.imp_right hin
    simp only [hg, hlocal, checkRanges_ok hranges, require_true, Except.ok_bind']
    exact (bind_pure _).symm

/-- A product of fewer than NTTH limbs that is to be formed asks for an accumulator slot (R270, R271). -/
def afterMxmul (s t u : State) (g : GroupId) (grp : Group) (d : List DWord) : State :=
  let m := Mul.ofRecord d
  let ntt := decide (grp.ntth.toNat ≤ m.la + m.lb)
  if ntt = true ∨ m.refusal ntt (s.teamOf grp).backing.isSome ≠ none then u
  else u.setCluster (clusterOf g) { u.cluster (clusterOf g) with
    requests := (u.cluster (clusterOf g)).requests ++ [⟨grp.team, none, 0, 1, some t.nextId, grp.cls⟩] }

theorem mxmulGives (o : UDAL) : EngineGives (.mxmul o) o.sa o.sd o.la.val 64 3
    (fun d => let m := Mul.ofRecord d
      [(m.a, 4 * m.la), (m.b, 4 * m.lb), (m.d, 4 * (m.la + m.lb))])
    (fun d => (Mul.ofRecord d).ok d) (fun _ _ _ => True)
    (fun grp d => .mxmul (decide (grp.ntth.toNat ≤ (Mul.ofRecord d).la + (Mul.ofRecord d).lb))) afterMxmul := by
  refine engineGives_of (by decide) (fun s => rfl) ?_ ?_
  · intro s t g grp slices x bs hranges hg
    simp only [Mul.limbs, checkRanges_ok hranges, Except.ok_bind', hg, require_false]
    rfl
  · intro s t g grp slices x bs hranges hg _
    simp only [Mul.limbs, checkRanges_ok hranges, Except.ok_bind', hg, require_true]
    refine congrArg (startOp t noPorts g grp slices _ 3 o.sd o.la.val _ _ >>= ·) (funext fun u => ?_)
    simp only [Bool.or_eq_true, Option.isSome_iff_ne_none]
    exact (apply_ite Except.ok _ _ _).symm

/-- A field at the top of a dword is zero where the dword lies below it. -/
theorem bits_top_beq_zero (d : List DWord) (j : Nat) {i n : Nat} (h : i + n = 64) : (bits (dw d j) i n == 0) = decide (dw d j < 2 ^ i) := by
  have hlt : dw d j / 2 ^ i < 2 ^ n := Nat.div_lt_of_lt_mul (by rw [← Nat.pow_add, h]; exact BitVec.isLt _)
  rw [bits, Nat.mod_eq_of_lt hlt, Bool.eq_iff_iff, beq_iff_eq, decide_eq_true_eq, Nat.div_eq_zero_iff_lt (Nat.two_pow_pos i)]

theorem not_overlap (a n b m : Nat) : (!overlap a n b m) = decide (b + m ≤ a ∨ a + n ≤ b) := by
  rw [overlap, Bool.eq_iff_iff, Bool.not_eq_true', decide_eq_false_iff_not, decide_eq_true_eq]
  omega

/-- The rules of a transform's descriptor as the word tests them. -/
theorem nttSound_eq (d : List DWord) :
    let src := bits (dw d 0) 0 48
    let dst := bits (dw d 1) 0 48
    let lg := bits (dw d 2) 0 5
    let n := if 1 ≤ lg ∧ lg ≤ 24 then 4 * 2 ^ lg else 0
    (bits (dw d 0) 48 16 == 0 && bits (dw d 1) 48 16 == 0 && bits (dw d 2) 5 59 == 0 && dw d 3 == 0 && decide (1 ≤ lg ∧ lg ≤ 24) &&
      src % 4 == 0 && dst % 4 == 0 && (src == dst || !overlap src n dst n)) = nttSound d := by
  simp only [bits_top_beq_zero d 0 (i := 48) (n := 16) rfl, bits_top_beq_zero d 1 (i := 48) (n := 16) rfl,
    bits_top_beq_zero d 2 (i := 5) (n := 59) rfl, not_overlap]
  by_cases hlg : 1 ≤ bits (dw d 2) 0 5 ∧ bits (dw d 2) 0 5 ≤ 24
  · rw [if_pos hlg, decide_eq_true hlg, Bool.eq_iff_iff]
    simp [nttSound, hlg, and_assoc]
  · have hrefused : nttSound d = false := decide_eq_false fun ⟨_, _, _, _, hlow, hhigh, _⟩ => hlg ⟨hlow, hhigh⟩
    rw [hrefused, decide_eq_false hlg]
    simp

theorem guardForm_of {b : Bool} (h : b = true) (s : State) (r : Host.Outcome State Fault Refusal) : guardForm b s r = r := by
  rw [h]
  rfl

theorem nttGives (o : UNtt) (inverse : Bool) (hp : o.p ≠ 3) :
    EngineGives (if inverse then .nttInv o else .nttFwd o) o.sa o.sd o.la.val 32 4
      (fun d => let lg := bits (dw d 2) 0 5
        let n := if 1 ≤ lg ∧ lg ≤ 24 then 4 * 2 ^ lg else 0
        [(bits (dw d 0) 0 48, n), (bits (dw d 1) 0 48, n)])
      nttSound (fun _ _ _ => True) (fun _ _ => .ntt inverse o.p) (fun _ _ u _ _ _ => u) := by
  have hexec : ∀ s, exec (if inverse then .nttInv o else .nttFwd o) s = nttOp o s inverse := by
    intro s
    cases inverse <;> rfl
  have hform : (o.p != 3) = true := bne_iff_ne.mpr hp
  refine engineGives_of (by decide) (fun s => (hexec s).trans (guardForm_of hform s _)) ?_ ?_
  · intro s t g grp slices x bs hranges hg
    simp only [decide_eq_true_eq, checkRanges_ok hranges, Except.ok_bind', nttSound_eq, hg, require_false]
    rfl
  · intro s t g grp slices x bs hranges hg _
    simp only [decide_eq_true_eq, checkRanges_ok hranges, Except.ok_bind', nttSound_eq, hg, require_true]
    exact (bind_pure _).symm

/-- Settles O12: a record that is read at issue is tested by its word's rules, which are the statement's, and one `startOp` starts its operation. -/
theorem engineIssue : Obligations.EngineIssue := ⟨bxtGives, gathGives, mxmulGives, nttGives⟩

end Sys2Proof.Machine
end

section
/-! PROOFS. STOW, UNSTOW, PUBL and LAUNCH at issue (R225, R296 to R298, R306, R388, R391, R404). -/

namespace Sys2Proof.Machine

open Sys2Proof

/-! ### STOW -/

/-- A check that passes where it is made leaves what follows it. -/
theorem ite_bind_of_ok {ε α : Type} {c : Prop} [Decidable c] {e : Except ε Unit} {k : Unit → Except ε α} (h : c → e = .ok ()) :
    (if c then e >>= k else k ()) = k () := by
  split
  case isTrue hc => rw [h hc, Except.ok_bind']
  case isFalse => rfl

/-- With its ranges sound, STOW tests its pool, then waits for its engine. -/
theorem exec_stow_checked {o : UR2} {s : State} {g : GroupId} {slices : BitVec 8} {grp : Group} (hi : Issues s g slices grp)
    (hr : s.uniformReady [o.sa] [o.sd]) :
    let x := s.readU o.sa
    let r := StowReq.of x
    let pool := s.devices[deviceOfGroup g].pools[r.pool]
    (if r.space then localOk (s.teamOf grp).lsSize r.addr (4 * r.limbs) = true else plainAddr grp.priv r.addr (4 * r.limbs)) →
    r.addr % 4 = 0 →
    exec (.stow o) s = onGang s fun _ _ _ => do
      require (pool.serves (s.asnOf grp.launch)) s { kind := .stowpool, val := x }
      return ((s.addOp { mkOp s .stow g grp x [o.sd.val] none with pc := (grp.lead slices).pc }).setGroup g
        ((grp.pin slices).setWait slices .stow s.fetched)).endRun := by
  dsimp only
  intro hrange halign
  have hplain : (!(StowReq.of (s.readU o.sa)).space) = true →
      checkRanges s grp.priv [((StowReq.of (s.readU o.sa)).addr, 4 * (StowReq.of (s.readU o.sa)).limbs)] = .ok () := by
    intro hspace
    rw [if_neg (by simpa using hspace)] at hrange
    refine checkRanges_ok fun e he _ => ?_
    cases List.mem_singleton.mp he
    exact hrange
  have hlocal : (!(StowReq.of (s.readU o.sa)).space ||
      localOk (s.teamOf grp).lsSize (StowReq.of (s.readU o.sa)).addr (4 * (StowReq.of (s.readU o.sa)).limbs)) = true := by
    cases hspace : (StowReq.of (s.readU o.sa)).space with
    | false => rfl
    | true => rwa [if_pos hspace] at hrange
  rw [exec_stow, execStow, onGang_issues hi, onGang_issues hi]
  simp only [noPorts, uniformSources_plain hr, Except.ok_bind', List.map_cons, List.map_nil, uv, List.getD_cons_zero, commitPops_nil, hi.here]
  rw [ite_bind_of_ok hplain, halign]
  simp only [hlocal, beq_self_eq_true, require_true, Except.ok_bind']

/-! ### UNSTOW -/

theorem unstowBefore_iff {grp : Group} {n : Nat} : grp.unstowBefore n = true ↔
    ∃ (i : Fin 8) (m : Nat), grp.slices[i].wait = .stowTurn m ∧ m < n ∧ grp.slices[i].why = 0 := by
  rw [Group.unstowBefore, List.any_eq_true]
  refine ⟨fun ⟨i, _, h⟩ => ⟨i, ?_⟩, fun ⟨i, m, hw, hlt, hwhy⟩ => ⟨i, List.mem_finRange i, ?_⟩⟩
  · split at h
    case h_1 m hw =>
      rw [Bool.and_eq_true, decide_eq_true_eq, beq_iff_eq] at h
      exact ⟨m, hw, h⟩
    case h_2 => cases h
  · simp only [hw, hwhy, decide_eq_true hlt, beq_self_eq_true, Bool.and_self]

theorem stowBefore_iff {s : State} {ld : Fin 4} {n : Nat} : s.stowBefore ld n = true ↔
    (∃ x ∈ s.ops, x.kind = .stow ∧ x.ld = ld ∧ x.id < n) ∨
      ∃ e ∈ s.groups, deviceOfGroup (groupId e.1) = ld ∧ ∃ (i : Fin 8) (m : Nat),
        e.2.slices[i].wait = .stowTurn m ∧ m < n ∧ e.2.slices[i].why = 0 := by
  simp only [State.stowBefore, Bool.or_eq_true, List.any_eq_true, Bool.and_eq_true, beq_iff_eq, decide_eq_true_eq, unstowBefore_iff, and_assoc]

/-- A word of a gang that waits to be issued again, having changed its group in nothing but its slices and its progress. -/
theorem onGang_waitAgain {s u : State} {g : GroupId} {slices : BitVec 8} {grp grp' : Group} {w : Wait} (hi : Issues s g slices grp)
    {f : GroupId → Group → BitVec 8 → Except Stop State} (hf : f g grp slices = waitAgain u g grp' slices w)
    (hkeep : { grp with progress := grp'.progress, slices := grp'.slices } = grp') :
    onGang s f = .next (u.setGroup g (grp'.setWait slices w u.fetched)).endRun := by
  have hwait : { grp with progress := grp'.progress, slices := (grp'.setWait slices w u.fetched).slices } =
      grp'.setWait slices w u.fetched := congrArg (fun x : Group => x.setWait slices w u.fetched) hkeep
  rw [onGang_issues hi, hf]
  simp only [waitAgain, keepGroup, State.group?_setGroup, State.setGroup_setGroup, Group.setWait_progress, hwait]
  rfl

/-- The pool that a handle names. -/
def handlePool (h : DWord) : Fin 8 := Fin.ofNat 8 (h.toNat / 2 ^ 61)

/-- A placement of a pool is the one that a handle names. -/
def Pool.names (p : Pool) (h : DWord) (u : Nat × Nat) : Bool :=
  decide (u.2 = h.toNat / 2 ^ 48 % 2 ^ 13 ∧ p.base.toNat + 128 * u.1 = h.toNat % 2 ^ 48)

/-- The pool without the placement that a handle names. -/
def Pool.freed (p : Pool) (h : DWord) : Pool := { p with used := p.used.filter fun u => !p.names h u }

theorem Pool.names_eq (p : Pool) (h : DWord) (u : Nat × Nat) :
    (u.2 == bits h.toNat 48 13 && p.base.toNat + 128 * u.1 == bits h.toNat 0 48) = p.names h u := by
  rw [Bool.eq_iff_iff, Pool.names, bits_low, bits]
  simp only [Bool.and_eq_true, beq_iff_eq, decide_eq_true_eq]

section Unstow

variable {o : UDAL} {s : State} {g : GroupId} {slices : BitVec 8} {grp : Group}

theorem exec_unstow_waits (hi : Issues s g slices grp) (hr : s.uniformReady [o.sa] [o.sd]) (hstart : grp.starts slices)
    (hb : s.stowBefore (deviceOfGroup g) s.nextId = true) :
    exec (.unstow o) s = .next (({ s with nextId := s.nextId + 1 } : State).setGroup g ((grp.keepProgress slices
      { grp.progressOf slices with turn := some s.nextId }).setWait slices (.stowTurn s.nextId) s.fetched)).endRun := by
  have htakes : s.takesTo o.sd := .of_gang hi hstart (uniformReady_gang hi hr _ (by simp))
  have hturn : (grp.progressOf slices).turn = none := congrArg Progress.turn hstart
  have hnext : max s.nextId (s.nextId + 1) = s.nextId + 1 := by omega
  refine onGang_waitAgain (u := { s with nextId := s.nextId + 1 }) hi ?_ rfl
  simp only [htakes.roomFor_eq, noPorts, uniformSources_plain hr, Except.ok_bind', hturn, Option.getD_none, hb, if_true, hnext]
  rfl

/-- Without an older request at its engine, UNSTOW tests its pool and its handle, then frees the granules. -/
theorem exec_unstow_served (hi : Issues s g slices grp) (hr : s.uniformReady [o.sa] [o.sd]) (hstart : grp.starts slices)
    (hb : s.stowBefore (deviceOfGroup g) s.nextId = false) :
    let h := s.readU o.sa
    let d := s.devices[deviceOfGroup g]
    let p := d.pools[handlePool h]
    exec (.unstow o) s = onGang s fun _ _ _ => do
      require (p.serves (s.asnOf grp.launch)) s { kind := .stowpool, val := h }
      require (p.used.any (p.names h)) s { kind := .stowbad, val := h }
      return (((s.setGroup g (grp.pin slices)).setDev (deviceOfGroup g) { d with pools := d.pools.set (handlePool h) (p.freed h) }).takesUniform
        o.sd o.la.val (dwordOf (p.freed h).freeCount)).advance := by
  intro h d p
  have hport : grp.port o.sd = none := uniformReady_gang hi hr _ (by simp)
  have htakes : s.takesTo o.sd := .of_gang hi hstart hport
  have hturn : (grp.progressOf slices).turn = none := congrArg Progress.turn hstart
  have hpinned (d' : Device) : Issues ((s.setGroup g (grp.pin slices)).setDev (deviceOfGroup g) d') g slices (grp.pin slices) :=
    ⟨hi.cur, State.group?_setGroup ..⟩
  have hdeliver (d' : Device) (x : DWord) := (State.takesTo.of_gang (sd := o.sd) (hpinned d') hstart.pin hport).deliver_eq o.la.val x
  rw [exec_unstow, execUnstow, onGang_issues hi, onGang_issues hi]
  simp only [htakes.roomFor_eq, noPorts, uniformSources_plain hr, Except.ok_bind', List.map_cons, List.map_nil, uv, List.getD_cons_zero, hturn,
    Option.getD_none, hb, Bool.false_eq_true, if_false, commitPops_nil, htakes.reserve_eq, pinIssuer_of_issues hi, Pool.names_eq, hdeliver]
  rw [dwordOf_natCast]
  rfl

end Unstow

/-! ### PUBL -/

theorem exec_publ_acts {o : UA} {s : State} {g : GroupId} {slices : BitVec 8} {grp : Group} (hi : Issues s g slices grp)
    (hr : s.uniformReady [o.sa] []) (hc : s.condHolds = true) :
    let a := (s.readU o.sa).toNat
    exec (.publ o) s = onGang s fun _ _ _ => do
      require (decide (a % 2 ^ 16 = 0 ∧ s.pubAt (deviceOfGroup g) (s.asnOf grp.launch) (a / 2 ^ 16) ≠ none)) s
        { kind := .bounds, val := s.readU o.sa }
      return (({ s with nextId := s.nextId + 1 } : State).setGroup g
        ((grp.pin slices).setWait slices (.publish (a / 2 ^ 16) s.nextId) s.fetched)).endRun := by
  have hknown (a page : Nat) : (a % 2 ^ 16 == 0 && (s.pubAt (deviceOfGroup g) (s.asnOf grp.launch) page).isSome) =
      decide (a % 2 ^ 16 = 0 ∧ s.pubAt (deviceOfGroup g) (s.asnOf grp.launch) page ≠ none) := by
    rw [Bool.eq_iff_iff, Bool.and_eq_true, beq_iff_eq, decide_eq_true_eq, Option.isSome_iff_ne_none]
  dsimp only
  rw [exec_publ, execPubl, onGang_issues hi, onGang_issues hi]
  simp only [hc, Bool.not_true, Bool.false_eq_true, if_false, noPorts, uniformSources_plain hr, Except.ok_bind', List.map_cons, List.map_nil, uv,
    List.getD_cons_zero, commitPops_nil, hi.here, hknown]

/-! ### LAUNCH -/

theorem issueTicket_ok {s : State} {g : GroupId} {slices : BitVec 8} {grp : Group} {e : Fin 16} (hi : Issues s g slices grp)
    (he : grp.freeTicket = some e) (code : Nat) :
    issueTicket s g code = .ok (s.setGroup g (grp.ticketed slices e code), e, grp.ticketSeq + 1, ticketWord grp e code) := by
  simp only [issueTicket, hi.here, he, hi.cur]
  rfl

/-- A uniform register is written before or after the gang bars a rewind. -/
theorem writeUniform_pinIssuer {s : State} {g : GroupId} {slices : BitVec 8} {grp : Group} (hi : Issues s g slices grp) {r : Fin 64}
    (hp : grp.port r = none) (x : DWord) : (s.writeUniform r x).pinIssuer = (s.setGroup g (grp.pin slices)).writeUniform r x := by
  have hwritten : Issues (s.setGroup g (grp.writeS r x)) g slices (grp.writeS r x) := ⟨hi.cur, State.group?_setGroup ..⟩
  have hpinned : Issues (s.setGroup g (grp.pin slices)) g slices (grp.pin slices) := ⟨hi.cur, State.group?_setGroup ..⟩
  rw [writeUniform_gang hi hp, pinIssuer_of_issues hwritten, State.setGroup_setGroup, writeUniform_gang hpinned hp, State.setGroup_setGroup]
  rfl

theorem statusWord_failed (kind : Nat) : statusWord 1 kind 0 0 = dwordOf (2 ^ 62 + kind * 2 ^ 56) := by
  have hsum : 1 * 2 ^ 62 + kind * 2 ^ 56 + 0 * 2 ^ 48 + 0 % 2 ^ 48 = 2 ^ 62 + kind * 2 ^ 56 := by omega
  have hcast : (2 ^ 62 + kind * 2 ^ 56 : Int) = (2 ^ 62 + kind * 2 ^ 56 : Nat) := by omega
  rw [statusWord, hsum, hcast, dwordOf_natCast]

theorem Group.pin_port (grp : Group) (m : BitVec 8) (r : Fin 64) : (grp.pin m).port r = grp.port r := rfl

theorem Group.ticketed_port (grp : Group) (m : BitVec 8) (e : Fin 16) (code : Nat) (r : Fin 64) :
    (grp.ticketed m e code).port r = grp.port r := rfl

/-- What a LAUNCH that has taken its ticket leaves: a child of its launch, or its ticket failed at once (R306, R388, R391). -/
def launchOutcome (s t t1 : State) (g : GroupId) (grp : Group) (parent : Launch) (e : Fin 16) (d : List DWord) : State :=
  let ld := deviceOfGroup g
  let fails := fun (kind : Nat) => (t1.setStatus g grp.team e (grp.ticketSeq + 1) (dwordOf (2 ^ 62 + kind * 2 ^ 56))).advance
  match Packet.parse d false with
  | none => fails 8
  | some p =>
    if 8 ≤ parent.depth then fails 10
    else if launchFits s.devices[ld] (s.queue ld parent.queue) p = false then fails 9
    else ({ t1 with
      launches := t1.launches ++ [newLaunch t ld parent.asn parent.queue (.ticket g grp.team e (grp.ticketSeq + 1)) (some parent.id)
        (parent.depth + 1) p true]
      nextId := t.nextId + 1 } : State).advance

/-- A ticket issued and given to its register at once, with the gang barring a rewind, leaves the numbers that a launch takes (R240). -/
theorem ticket_given {t : State} {g : GroupId} {slices : BitVec 8} {grp : Group} {e : Fin 16} {sd : Fin 64} (ht : Issues t g slices grp)
    (hport : grp.port sd = none) (hstart : grp.starts slices) (code : Nat) :
    let t1 := (t.setGroup g ((grp.ticketed slices e code).pin slices)).writeUniform sd (ticketWord grp e code)
    ((t.setGroup g (grp.ticketed slices e code)).deliverUniform sd 0 (ticketWord grp e code)).pinIssuer = t1 ∧ t1.nextId = t.nextId ∧
      t1.fresh = t.fresh := by
  intro t1
  have hport' : (grp.ticketed slices e code).port sd = none := (Group.ticketed_port ..).trans hport
  have hticketed : Issues (t.setGroup g (grp.ticketed slices e code)) g slices (grp.ticketed slices e code) :=
    ⟨ht.cur, State.group?_setGroup ..⟩
  have hpinned : Issues (t.setGroup g ((grp.ticketed slices e code).pin slices)) g slices ((grp.ticketed slices e code).pin slices) :=
    ⟨ht.cur, State.group?_setGroup ..⟩
  have hstart' : (grp.ticketed slices e code).starts slices :=
    starts_set (f := fun sl => { sl with issued := (grp.ticketSeq + 1) :: sl.issued }) (fun _ => rfl) hstart _ _
  have htakes : (t.setGroup g (grp.ticketed slices e code)).takesTo sd := .of_gang hticketed hstart' hport'
  have ht1 : t1 = (t.setGroup g ((grp.ticketed slices e code).pin slices)).setGroup g
      (((grp.ticketed slices e code).pin slices).writeS sd (ticketWord grp e code)) :=
    writeUniform_gang hpinned ((Group.pin_port ..).trans hport') _
  refine ⟨?_, ht1 ▸ rfl, ht1 ▸ rfl⟩
  rw [htakes.deliver_eq, State.takesUniform, if_pos (.inl rfl), writeUniform_pinIssuer hticketed hport', State.setGroup_setGroup]

section Launch

variable {o : UR2} {s t : State} {g : GroupId} {slices : BitVec 8} {grp : Group} {ps : List Place} {parent : Launch}
  (hi : Issues s g slices grp) (hr : s.uniformReady [o.sa] [o.sd]) (hparent : s.launch? grp.launch = some parent)
  (hc : s.condHolds = true) (hrecord : readRecord s g grp slices (s.readU o.sa).toNat 128 64 = .ok (t, ps.map t.readPlace))
  (ht : Issues t g slices grp)

include hi hr hparent hc hrecord ht

theorem exec_launch_tickfull (he : grp.freeTicket = none) :
    exec (.launch o) s = .next { t.takeTrap g slices { kind := .tickfull } with runEnd := true } := by
  refine onGang_trap_after hi ht ?_
  simp only [hc, Bool.not_true, Bool.false_eq_true, if_false, noPorts, uniformSources_plain hr, Except.ok_bind', List.map_cons, List.map_nil, uv,
    List.getD_cons_zero, hrecord, hparent, checkTicket, he, Option.isSome_none, require_false]
  rfl

theorem exec_launch_ticketed {e : Fin 16} (he : grp.freeTicket = some e) (hstart : grp.starts slices) :
    exec (.launch o) s = .next (launchOutcome s t
      ((t.setGroup g ((grp.ticketed slices e 5).pin slices)).writeUniform o.sd (ticketWord grp e 5)) g grp parent e
      (dwordsOf (ps.map t.readPlace))) := by
  have hport : grp.port o.sd = none := uniformReady_gang hi hr _ (by simp)
  obtain ⟨hgiven, hid, hfresh⟩ := ticket_given ht hport hstart (e := e) 5
  generalize (t.setGroup g ((grp.ticketed slices e 5).pin slices)).writeUniform o.sd (ticketWord grp e 5) = t1 at hgiven hid hfresh ⊢
  refine onGang_ok hi ?_
  simp only [hc, Bool.not_true, Bool.false_eq_true, if_false, noPorts, uniformSources_plain hr, Except.ok_bind', List.map_cons, List.map_nil, uv,
    List.getD_cons_zero, hrecord, hparent, checkTicket, he, Option.isSome_some, require_true, commitPops_nil, reserve_plain ht hport,
    issueTicket_ok ht he, hgiven, statusWord_failed, Bool.not_eq_true', Except.pure_ok]
  unfold launchOutcome
  cases Packet.parse (dwordsOf (ps.map t.readPlace)) false with
  | none => rfl
  | some p => simp only [newLaunch, hid, hfresh, apply_ite (Except.ok (ε := Stop))]

end Launch

/-! ### The statements -/

theorem stowageAndPublish : StowageAndPublish := by
  refine ⟨?_, ?_, ?_⟩
  · intro o s g slices grp hi hr x r pool hrange halign
    have hexec := exec_stow_checked hi hr hrange halign
    refine ⟨fun hpool => hexec.trans (onGang_ok hi ?_), fun hpool => hexec.trans (onGang_trap hi ?_)⟩
    · rw [hpool, dwordOf_natCast]
      rfl
    · rw [hpool]
      rfl
  · intro o s g slices grp hi hr hstart h ld d k p named p' older
    have hb : s.stowBefore ld s.nextId = true ↔ older := stowBefore_iff
    have hexec := fun hold : ¬ older => exec_unstow_served hi hr hstart (Bool.eq_false_iff.mpr fun hbefore => hold (hb.mp hbefore))
    refine ⟨fun hold => exec_unstow_waits hi hr hstart (hb.mpr hold), fun hold hpool hnamed => (hexec hold).trans (onGang_ok hi ?_),
      fun hold hpool => (hexec hold).trans (onGang_trap hi ?_), fun hold hpool hnamed => (hexec hold).trans (onGang_trap hi ?_)⟩
    · have hserves : (d.pools[handlePool h]).serves (s.asnOf grp.launch) = true := hpool
      have hfound : (d.pools[handlePool h]).used.any ((d.pools[handlePool h]).names h) = true := hnamed
      rw [hserves, hfound]
      rfl
    · have hserves : (d.pools[handlePool h]).serves (s.asnOf grp.launch) = false := hpool
      rw [hserves]
      rfl
    · have hserves : (d.pools[handlePool h]).serves (s.asnOf grp.launch) = true := hpool
      have hfound : (d.pools[handlePool h]).used.any ((d.pools[handlePool h]).names h) = false := hnamed
      rw [hserves, hfound]
      rfl
  · intro o s g slices grp hi hr a known
    refine ⟨fun hc hknown => (exec_publ_acts hi hr hc).trans (onGang_ok hi ?_),
      fun hc hknown => (exec_publ_acts hi hr hc).trans (onGang_trap hi ?_), fun hc => onGang_ok hi ?_⟩
    · rw [decide_eq_true hknown]
      rfl
    · rw [decide_eq_false hknown]
      rfl
    · rw [hc]
      rfl

theorem launchIssue : LaunchIssue := by
  intro o s t g slices grp ps parent e hi hr hstart hparent a ld t1 fails
  refine ⟨fun hc => onGang_ok hi (by rw [hc]; rfl), fun hc hsound halign hplaces hclean => ?_⟩
  have ht : Issues t g slices grp := hi.of_actors (actors_places hplaces)
  have hrecord := readRecord_ok hi hsound (by decide) halign hplaces hclean
  refine ⟨exec_launch_tickfull hi hr hparent hc hrecord ht, fun he => ?_⟩
  have hexec := exec_launch_ticketed hi hr hparent hc hrecord ht he hstart
  unfold launchOutcome at hexec
  cases hp : Packet.parse (dwordsOf (ps.map t.readPlace)) false with
  | none =>
    rw [hp] at hexec
    exact hexec
  | some p =>
    rw [hp] at hexec
    dsimp only at hexec ⊢
    split_ifs at hexec ⊢ <;> exact hexec

/-- Settles O49: each word's checks, then what it leaves, with the requests that an UNSTOW waits for and the child of a LAUNCH spelled as the
statement does. -/
theorem placementWords : Obligations.PlacementWords := ⟨stowageAndPublish, launchIssue⟩

end Sys2Proof.Machine
end

section
/-! PROOFS. The joint words at their latches, MGANG, MACQ and MREL (R255, R256, R262, R264 to R269). -/

namespace Sys2Proof.Machine

open Sys2Proof

/-! ### A trap of another group leaves the issuing gang as it is -/

theorem actors_arrivePush (s : State) (g : GroupId) (f : InFlight) : (s.arrivePush g f).actors = s.actors := by
  unfold State.arrivePush
  split <;> rfl

theorem actors_leaveQueues (s : State) (g : GroupId) (slices : BitVec 8) : (s.leaveQueues g slices).actors = s.actors := by
  unfold State.leaveQueues
  dsimp only
  split <;> rfl

namespace Issues

variable {s : State} {g h : GroupId} {slices : BitVec 8} {grp : Group}

theorem setGroup_ne (hi : Issues s g slices grp) (hne : g ≠ h) (x : Group) : Issues (s.setGroup h x) g slices grp :=
  ⟨hi.cur, (State.group?_setGroup_ne s hne x).trans hi.here⟩

theorem arriveGroup_ne (hi : Issues s g slices grp) (hne : g ≠ h) : Issues (s.arriveGroup h) g slices grp := by
  unfold State.arriveGroup
  split
  case h_1 => exact hi
  case h_2 => exact (hi.of_actors (foldl_keeps (fun s f => actors_arrivePush s h f) _ s)).setGroup_ne hne _

theorem takeTrap_ne (hi : Issues s g slices grp) (hne : g ≠ h) (m : BitVec 8) (t : Trap) : Issues (s.takeTrap h m t) g slices grp := by
  have harrived : Issues ((s.arriveGroup h).leaveQueues h m) g slices grp := (hi.arriveGroup_ne hne).of_actors (actors_leaveQueues ..)
  unfold State.takeTrap
  dsimp only
  split
  case h_1 => exact harrived
  case h_2 => split_ifs <;> exact (harrived.setGroup_ne hne _).of_actors rfl

theorem markFetched_ne (hi : Issues s g slices grp) (hne : g ≠ h) (m : BitVec 8) (pc : Addr) :
    Issues (s.markFetched h m pc) g slices grp := by
  unfold State.markFetched
  split
  case h_1 => exact hi.setGroup_ne hne _
  case h_2 => exact hi

theorem trapWaiting_ne (hi : Issues s g slices grp) (hne : g ≠ h) (m : BitVec 8) (t : Trap) :
    Issues (s.trapWaiting h m t) g slices grp := by
  unfold State.trapWaiting
  split
  case h_1 => exact hi
  case h_2 waiting _ =>
    have hfetched : Issues { s with fetched := (waiting.lead m).waitWord } g slices grp := hi.of_actors rfl
    exact ((hfetched.markFetched_ne hne m _).takeTrap_ne hne m t).of_actors rfl

/-- The groups trapped where a latch ends are those that wait at it. -/
theorem failLatch_ne (hi : Issues s g slices grp) {cl : ClusterId} {l : Latch} (hg : g ∉ l.arrived) (t : Trap) :
    Issues (s.failLatch cl l t) g slices grp :=
  List.foldlRecOn (motive := fun u => Issues u g slices grp) l.arrived _ (hi.of_actors rfl)
    fun _ hu _ hx => hu.trapWaiting_ne (fun heq => hg (heq ▸ hx)) 0xFF t

end Issues

/-! ### Arrivals at a latch (R255, R256) -/

/-- An arrival of a group meets a latch: one of its team, not complete, that names it or where a group that its GANG names waits. -/
def State.meetsLatch (s : State) (grp : Group) (l : Latch) : Bool :=
  !l.complete && l.team == grp.team &&
    (maskHas l.gang grp.inTeam.val || l.arrived.any fun h => match s.group? h with
      | some x => maskHas grp.gang x.inTeam.val
      | none => false)

/-- The word in execution, its operand and the GANG of its group are those of a latch. -/
def State.agreesWithLatch (s : State) (grp : Group) (sa : DWord) (l : Latch) : Bool :=
  l.word == s.fetched.word && l.sa == sa && l.gang == grp.gang

/-- GANG names the group itself, and no position beyond the team's. -/
def Group.gangSound (grp : Group) (t : Team) : Bool := maskHas grp.gang grp.inTeam.val && decide (grp.gang.toNat < 2 ^ t.members.length)

/-- The latch that the first arrival of a gang opens, before it arrives. -/
def State.openedLatch (s : State) (g : GroupId) (grp : Group) (op : JointOp) (sa : DWord) : Latch :=
  { team := grp.team, op := op, slot := s.issue.j, word := s.fetched.word, sa := sa, gang := grp.gang, arrived := [], complete := false
    maps := [], total := 0, uft := (s.ctxOfGroup g grp).uft }

/-- A group waits at a latch that stands with some others in its cluster. -/
def State.waitAtLatch (s : State) (g : GroupId) (grp : Group) (others : List Latch) (l : Latch) : State :=
  (s.setGroup g (grp.setWait 0xFF .latch s.fetched)).setCluster (clusterOf g)
    { s.cluster (clusterOf g) with latches := others ++ [l] }

theorem meetsLatch_iff {s : State} {grp : Group} {l : Latch} : s.meetsLatch grp l = true ↔
    l.complete = false ∧ l.team = grp.team ∧ (maskHas l.gang grp.inTeam.val = true ∨
      ∃ h ∈ l.arrived, ∃ x, s.group? h = some x ∧ maskHas grp.gang x.inTeam.val = true) := by
  have hnamed (h : GroupId) : (match s.group? h with
      | some x => maskHas grp.gang x.inTeam.val
      | none => false) = true ↔ ∃ x, s.group? h = some x ∧ maskHas grp.gang x.inTeam.val = true := by
    cases s.group? h <;> simp
  simp only [State.meetsLatch, Bool.and_eq_true, Bool.or_eq_true, Bool.not_eq_true', beq_iff_eq, List.any_eq_true, hnamed, and_assoc]

theorem agreesWithLatch_iff {s : State} {grp : Group} {sa : DWord} {l : Latch} : s.agreesWithLatch grp sa l = true ↔
    l.word = s.fetched.word ∧ l.sa = sa ∧ l.gang = grp.gang := by
  simp only [State.agreesWithLatch, Bool.and_eq_true, beq_iff_eq, and_assoc]

theorem gangSound_iff {grp : Group} {t : Team} : grp.gangSound t = true ↔
    maskHas grp.gang grp.inTeam.val = true ∧ grp.gang.toNat < 2 ^ t.members.length := by
  simp only [Group.gangSound, Bool.and_eq_true, decide_eq_true_eq]

theorem meetsLatch_opened {s : State} {g : GroupId} {grp : Group} {op : JointOp} {sa : DWord}
    (hself : maskHas grp.gang grp.inTeam.val = true) : s.meetsLatch grp (s.openedLatch g grp op sa) = true :=
  meetsLatch_iff.mpr ⟨rfl, rfl, .inl hself⟩

/-- A joint word on plain operands: its GANG is tested, then what it meets, and the group waits at its latch, which may be complete. -/
def State.jointArrival (s : State) (g : GroupId) (grp : Group) (t : Team) (op : JointOp) (sa : DWord) : Except Stop State := do
  require (grp.gangSound t) s { kind := .badgang, val := grp.gang.zeroExtend 64 }
  let latches := (s.cluster (clusterOf g)).latches
  let met := latches.filter (s.meetsLatch grp)
  match met.find? fun l => !s.agreesWithLatch grp sa l with
  | some l => .error (.trap { kind := .gmismatch, val := l.gang.zeroExtend 64 } (failLatches s (clusterOf g) met))
  | none => .ok ()
  require ((maskList grp.gang).length == (s.gangMembers t grp.gang).length) (failLatches s (clusterOf g) met)
    { kind := .gmismatch, val := grp.gang.zeroExtend 64 }
  let old := met.head?.getD (s.openedLatch g grp op sa)
  let l := { old with arrived := old.arrived ++ [g] }
  let u := s.waitAtLatch g grp (latches.filter fun x => x ≠ old) l
  return (if l.arrived.length = (maskList grp.gang).length then u.completeLatch (clusterOf g) l else u).endRun

section Joint

variable {s : State} {g : GroupId} {grp : Group} {t : Team} {op : JointOp}

theorem joint_arrival {srcs : List (Fin 64)} (hi : Issues s g 0xFF grp) (hr : s.uniformReady srcs []) (ht : s.team? grp.team = some t) :
    joint s op srcs = onGang s fun _ _ _ => s.jointArrival g grp t op ((srcs.map s.readU).headD 0) := by
  have hid : t.id = grp.team := id_of_team? ht
  rw [joint, onGang_issues hi, onGang_issues hi, headD_eq_getD]
  simp only [requireGang_whole, noPorts, uniformSources_plain hr, Except.ok_bind', commitPops_nil, hi.here, teamOf_of_team? ht, hid]
  rfl

variable {sa : DWord}

theorem jointArrival_badgang (hsound : grp.gangSound t = false) :
    s.jointArrival g grp t op sa = .error (.trap { kind := .badgang, val := grp.gang.zeroExtend 64 } s) := by
  simp only [State.jointArrival, hsound, require_false, Except.error_bind']

/-- An arrival that meets one latch, and does not agree with it, ends it. -/
theorem jointArrival_mismatch (hsound : grp.gangSound t = true) {l : Latch}
    (hmet : (s.cluster (clusterOf g)).latches.filter (s.meetsLatch grp) = [l]) (hagree : s.agreesWithLatch grp sa l = false) :
    let tr : Trap := { kind := .gmismatch, val := l.gang.zeroExtend 64 }
    s.jointArrival g grp t op sa = .error (.trap tr (s.failLatch (clusterOf g) l tr)) := by
  simp [State.jointArrival, hsound, hmet, hagree, failLatches]

/-- An arrival that agrees with what it meets waits at that latch, or at the one that it opens. -/
theorem jointArrival_waits (hsound : grp.gangSound t = true) (hcount : (s.gangMembers t grp.gang).length = (maskList grp.gang).length)
    {met others : List Latch} {old : Latch} (hmet : (s.cluster (clusterOf g)).latches.filter (s.meetsLatch grp) = met)
    (hagree : ∀ l ∈ met, s.agreesWithLatch grp sa l = true) (hold : met.head?.getD (s.openedLatch g grp op sa) = old)
    (hothers : (s.cluster (clusterOf g)).latches.filter (fun x => x ≠ old) = others) :
    let l := { old with arrived := old.arrived ++ [g] }
    let u := s.waitAtLatch g grp others l
    (l.arrived.length ≠ (maskList grp.gang).length → s.jointArrival g grp t op sa = .ok u.endRun) ∧
      (l.arrived.length = (maskList grp.gang).length → s.jointArrival g grp t op sa = .ok (u.completeLatch (clusterOf g) l).endRun) := by
  have hfind : met.find? (fun l => !s.agreesWithLatch grp sa l) = none :=
    List.find?_eq_none.mpr fun l hl => by rw [hagree l hl]; decide
  simp only [State.jointArrival, hsound, hmet, hfind, hcount, hold, hothers, require_true, Except.ok_bind', beq_self_eq_true, Except.pure_ok]
  exact ⟨fun hfew => by rw [if_neg hfew], fun hall => by rw [if_pos hall]⟩

end Joint

/-- Where one latch alone is met, the filters give it and the others. -/
theorem filter_one_met {p : Latch → Bool} {l : Latch} {before after : List Latch} (hl : p l = true)
    (hothers : ∀ x ∈ before ++ after, ¬ p x = true) :
    (before ++ l :: after).filter p = [l] ∧ (before ++ l :: after).filter (fun x => x ≠ l) = before ++ after := by
  have hne : ∀ x ∈ before ++ after, decide (x ≠ l) = true := fun x hx => decide_eq_true fun heq => hothers x hx (heq ▸ hl)
  constructor
  · rw [List.filter_append, List.filter_cons_of_pos hl, List.filter_eq_nil_iff.mpr fun x hx => hothers x (List.mem_append_left _ hx),
      List.filter_eq_nil_iff.mpr fun x hx => hothers x (List.mem_append_right _ hx), List.nil_append]
  · rw [List.filter_append, List.filter_cons_of_neg (p := fun x => decide (x ≠ l)) (by simp), ← List.filter_append,
      List.filter_eq_self.mpr hne]

/-- A joint word meets at its latch as R255 and R256 say. -/
theorem jointGives_of {i : Instr} {op : JointOp} {srcs : List (Fin 64)} (hexec : ∀ s, exec i s = joint s op srcs) : JointGives i op srcs := by
  intro s g grp t hi ht hr cl c sa gang names named size shares agrees fresh waits at_
  have hid : t.id = grp.team := id_of_team? ht
  have hjoint : exec i s = onGang s fun _ _ _ => s.jointArrival g grp t op sa := (hexec s).trans (joint_arrival hi hr ht)
  have hsound : named → grp.gangSound t = true := gangSound_iff.mpr
  have hmeets (l : Latch) : s.meetsLatch grp l = true ↔ shares l := by
    rw [meetsLatch_iff, ← hid]
  have hagrees (l : Latch) : s.agreesWithLatch grp sa l = true ↔ agrees l := agreesWithLatch_iff
  have hfresh : s.openedLatch g grp op sa = fresh := by
    rw [State.openedLatch, ← hid]
  refine ⟨fun hn => ?_, fun hn hcount hnone => ?_, fun l before after hn hcount hlatches hothers hl hagree => ?_,
    fun l before after hn hlatches hothers hl hagree hg => ?_⟩
  · exact hjoint.trans (onGang_trap hi (jointArrival_badgang (Bool.eq_false_iff.mpr fun h => hn (gangSound_iff.mp h))))
  · have hmet : c.latches.filter (s.meetsLatch grp) = [] := List.filter_eq_nil_iff.mpr fun x hx h => hnone x hx ((hmeets x).mp h)
    have hothers : c.latches.filter (fun x => x ≠ fresh) = c.latches :=
      List.filter_eq_self.mpr fun x hx => decide_eq_true fun heq =>
        hnone x hx ((hmeets x).mp (heq ▸ hfresh ▸ meetsLatch_opened hn.1))
    obtain ⟨hwaits, hcompletes⟩ := jointArrival_waits (hsound hn) hcount hmet (fun l h => absurd h List.not_mem_nil) hfresh hothers
    exact ⟨fun hsize => hjoint.trans (onGang_ok hi (hwaits (Nat.ne_of_lt hsize))),
      fun hsize => hjoint.trans (onGang_ok hi (hcompletes hsize.symm))⟩
  · obtain ⟨hmet, hrest⟩ := filter_one_met ((hmeets l).mpr hl) fun x hx h => hothers x hx ((hmeets x).mp h)
    rw [← hlatches] at hmet hrest
    obtain ⟨hwaits, hcompletes⟩ := jointArrival_waits (op := op) (hsound hn) hcount hmet
      (fun x h => List.mem_singleton.mp h ▸ (hagrees l).mpr hagree) rfl hrest
    exact ⟨fun hsize => hjoint.trans (onGang_ok hi (hwaits (Nat.ne_of_lt hsize))),
      fun hsize => hjoint.trans (onGang_ok hi (hcompletes hsize))⟩
  · obtain ⟨hmet, _⟩ := filter_one_met ((hmeets l).mpr hl) fun x hx h => hothers x hx ((hmeets x).mp h)
    rw [← hlatches] at hmet
    exact hjoint.trans (onGang_trap_after hi (hi.failLatch_ne hg _)
      (jointArrival_mismatch (hsound hn) hmet (Bool.eq_false_iff.mpr fun h => hagree ((hagrees l).mp h))))

/-! ### MGANG, MACQ and MREL (R255, R267, R269) -/

theorem popCount_eq_maskList (m : Word) : popCount 32 m.toNat = (maskList m).length := by
  rw [popCount_eq_countP, List.countP_eq_length_filter]
  rfl

theorem exec_mgang_acts {o : UA} {s : State} {g : GroupId} {grp : Group} (hi : Issues s g 0xFF grp) (hr : s.uniformReady [o.sa] [])
    (hc : s.condHolds = true) :
    let m : Word := BitVec.ofNat 32 (s.readU o.sa).toNat
    exec (.mgang o) s = onGang s fun _ _ _ => do
      require (decide (1 ≤ (maskList m).length ∧ (maskList m).length ≤ 6 ∧ maskHas m grp.inTeam.val = true ∧
        m.toNat < 2 ^ (s.teamOf grp).members.length)) s { kind := .badgang, val := m.zeroExtend 64 }
      return (s.setGroup g { grp with gang := m }).advance := by
  intro m
  have hgood : (decide (1 ≤ (maskList m).length ∧ (maskList m).length ≤ 6) && maskHas m grp.inTeam.val &&
      decide (m.toNat < 2 ^ (s.teamOf grp).members.length)) = decide (1 ≤ (maskList m).length ∧ (maskList m).length ≤ 6 ∧
        maskHas m grp.inTeam.val = true ∧ m.toNat < 2 ^ (s.teamOf grp).members.length) := by
    rw [Bool.eq_iff_iff]
    simp only [Bool.and_eq_true, decide_eq_true_eq, and_assoc]
  rw [exec_mgang, execMgang, onGang_issues hi, onGang_issues hi, ← hgood]
  simp only [requireGang_whole, hc, Bool.not_true, Bool.false_eq_true, if_false, noPorts, uniformSources_plain hr, Except.ok_bind',
    commitPops_nil, hi.here, uv_source, popCount_eq_maskList]
  rfl

theorem exec_macq_asks {o : UMacq} {s : State} {g : GroupId} {slices : BitVec 8} {grp : Group} (hi : Issues s g slices grp)
    (hr : s.uniformReady [] [o.sd]) :
    let t := s.teamOf grp
    let c := s.cluster (clusterOf g)
    exec (.macq o) s = onGang s fun _ _ _ => do
      require (decide (o.n.val ≤ 8 - t.heldCount)) s { kind := .acqlim, val := dwordOf t.heldCount }
      return ((s.setCluster (clusterOf g) { c with requests := c.requests ++ [⟨t.id, some g, slices, o.n.val, none, grp.cls⟩] }).setGroup g
        (grp.setWait slices (.slots o.n.val) s.fetched)).endRun := by
  dsimp only
  rw [exec_macq, execMacq, onGang_issues hi, onGang_issues hi, dwordOf_natCast]
  simp only [noPorts, uniformSources_plain hr, Except.ok_bind', commitPops_nil, hi.here]

theorem exec_mrel_acts {o : UA} {s : State} {g : GroupId} {slices : BitVec 8} {grp : Group} (hi : Issues s g slices grp)
    (hr : s.uniformReady [o.sa] []) (hc : s.condHolds = true) :
    let x := s.readU o.sa
    let m : BitVec 8 := BitVec.ofNat 8 x.toNat
    let t := s.teamOf grp
    exec (.mrel o) s = onGang s fun _ _ _ => do
      require (decide (x.toNat < 256)) s { kind := .illegal, reason := 6 }
      require (m &&& ~~~t.held == 0) s { kind := .accown, val := x }
      if s.slotsBusy (clusterOf g) t.id m then waitAgain s g grp slices (.entries m)
      else return ((s.setGroup g (grp.pin slices)).releaseSlots t.id m).advance := by
  dsimp only
  rw [exec_mrel, execMrel, onGang_issues hi, onGang_issues hi]
  simp only [hc, Bool.not_true, Bool.false_eq_true, if_false, noPorts, uniformSources_plain hr, Except.ok_bind', commitPops_nil, hi.here,
    uv_source]

/-- Settles O13: a joint word is its one shared operation, and MGANG, MACQ and MREL are their tests and what these let them do. -/
theorem matrixWords : Obligations.MatrixWords := by
  refine ⟨fun o => ⟨jointGives_of (exec_mma o), jointGives_of (exec_mmaCx o), jointGives_of (exec_mlt o), jointGives_of (exec_maccLoad o),
    jointGives_of (exec_maccStore o)⟩, jointGives_of exec_maccZero, ?_, ?_, ?_⟩
  · intro o s g grp hi hr m n good
    refine ⟨fun hc hgood => (exec_mgang_acts hi hr hc).trans (onGang_ok hi ?_),
      fun hc hbad => (exec_mgang_acts hi hr hc).trans (onGang_trap hi ?_), fun hc => onGang_ok hi ?_⟩
    · rw [decide_eq_true hgood]
      rfl
    · rw [decide_eq_false hbad]
      rfl
    · rw [hc]
      rfl
  · intro o s g slices grp hi hr t cl c
    refine ⟨fun hn => (exec_macq_asks hi hr).trans (onGang_ok hi ?_), fun hn => (exec_macq_asks hi hr).trans (onGang_trap hi ?_)⟩
    · rw [decide_eq_true hn]
      rfl
    · rw [decide_eq_false (Nat.not_le.mpr hn)]
      rfl
  · intro o s g slices grp hi hr x m t busy
    have hexec := fun hc => exec_mrel_acts (o := o) hi hr hc
    refine ⟨fun hc hx hheld hfree => (hexec hc).trans (onGang_ok hi ?_),
      fun hc hx hheld hbusy => (hexec hc).trans (onGang_waitAgain (u := s) hi ?_ rfl),
      fun hc hx hheld => (hexec hc).trans (onGang_trap hi ?_), fun hc hx => (hexec hc).trans (onGang_trap hi ?_), fun hc => onGang_ok hi ?_⟩
    · rw [decide_eq_true hx, beq_iff_eq.mpr hheld]
      exact if_neg (Bool.eq_false_iff.mp hfree)
    · rw [decide_eq_true hx, beq_iff_eq.mpr hheld]
      exact if_pos hbusy
    · rw [decide_eq_true hx, beq_eq_false_iff_ne.mpr hheld]
      rfl
    · rw [decide_eq_false (Nat.not_lt.mpr hx)]
      rfl
    · rw [hc]
      rfl

end Sys2Proof.Machine
end

section
/-! PROOFS. The passes of a matrix engine, the ends of joint operations, and the slots granted and spilled (R252, R256 to R269). -/

namespace Sys2Proof.Machine

open Sys2Proof

/-! ### The entry that a pass goes to (R259) -/

/-- The order of entries ends with the index, so that two of different indexes do not beat each other. -/
theorem index_eq_of_beats {a b : TabEntry} (hab : a.beats b = true) (hba : b.beats a = true) : a.index = b.index := by
  unfold TabEntry.beats at hab hba
  grind

theorem bestEntry_mem {l : List TabEntry} {b : TabEntry} (h : bestEntry l = some b) : b ∈ l := by
  induction l generalizing b with
  | nil => cases h
  | cons y rest ih =>
    rw [bestEntry] at h
    cases hbest : bestEntry rest with
    | none =>
      rw [hbest] at h
      cases h
      exact List.mem_cons_self
    | some x =>
      rw [hbest] at h
      dsimp only at h
      split at h
      case isTrue =>
        cases h
        exact List.mem_cons_self
      case isFalse =>
        cases h
        exact List.mem_cons_of_mem y (ih hbest)

/-- The entry of a list that beats every other, and that none of them beats, is its best. -/
theorem bestEntry_of_beats {l : List TabEntry} {e : TabEntry} (he : e ∈ l)
    (hbeats : ∀ x ∈ l, x ≠ e → e.beats x = true ∧ ¬ x.beats e = true) : bestEntry l = some e := by
  induction l with
  | nil => cases he
  | cons y rest ih =>
    rw [bestEntry]
    by_cases hrest : e ∈ rest
    · rw [ih hrest fun x hx => hbeats x (List.mem_cons_of_mem y hx)]
      by_cases hy : y = e
      · simp only [hy, ite_self]
      · simp only [if_neg (hbeats y List.mem_cons_self hy).2]
    · obtain rfl : e = y := (List.mem_cons.mp he).resolve_right hrest
      cases hbest : bestEntry rest with
      | none => rfl
      | some b =>
        have hb := bestEntry_mem hbest
        exact congrArg some (if_pos (hbeats b (List.mem_cons_of_mem e hb) fun heq => hrest (heq ▸ hb)).1)

/-- In a table of distinct indexes, the eligible entry that beats the other ones is granted. -/
theorem bestEntry_eligible {s : State} {c : Cluster} {e : TabEntry} (hnodup : (c.table.map TabEntry.index).Nodup) (he : e ∈ c.table)
    (heligible : s.eligible c e = true) (hbeats : ∀ x ∈ c.table, s.eligible c x = true → x ≠ e → e.beats x = true) :
    bestEntry (c.table.filter (s.eligible c)) = some e := by
  refine bestEntry_of_beats (List.mem_filter.mpr ⟨he, heligible⟩) fun x hx hne => ?_
  obtain ⟨hmem, hx⟩ := List.mem_filter.mp hx
  have hbeat := hbeats x hmem hx hne
  exact ⟨hbeat, fun hback => hne (List.inj_on_of_nodup_map hnodup hmem he (index_eq_of_beats hback hbeat))⟩

/-! ### A pass (R256 step 6, R257, R262 to R264) -/

theorem exec_matrixPass_clash {s : State} {e : TabEntry}
    (h : (s.cluster s.arg.cl).table.find? (s.modeClash (s.cluster s.arg.cl)) = some e) :
    exec .matrixPass s = .next (s.trapJoint s.arg.cl e { kind := .accmode, val := BitVec.ofNat 64 e.slot.val }) := by
  rw [exec_matrixPass, execMatrixPass]
  simp only [h]

theorem exec_matrixPass_granted {s : State} {e : TabEntry} {op : JointOp} {ms : List GroupId} {t : Team} {a b : OpMap} {r : PassOut}
    (hclash : (s.cluster s.arg.cl).table.find? (s.modeClash (s.cluster s.arg.cl)) = none)
    (hawake : s.engineAwake (s.cluster s.arg.cl) = true)
    (hbest : bestEntry ((s.cluster s.arg.cl).table.filter (s.eligible (s.cluster s.arg.cl))) = some e) (hwork : e.work = .joint op ms)
    (hteam : s.team? e.team = some t) (hmaps : e.opMaps = [a, b]) (hpass : passOf s t e op a b = .ok r) :
    let c := s.cluster s.arg.cl
    exec .matrixPass s = .next (((s.setCluster s.arg.cl { c with
      table := c.table.map fun x =>
        if x.index = e.index then { x with passed := 0, passes := x.passes + 1, limbsA := r.limbsA, limbsB := r.limbsB }
        else if s.eligible c x then { x with passed := x.passed + 1 } else x
      lastPass := s.pack.time, awake := false }).setAcc t e.slot r.acc).setPixOf e (e.passes + 1) r.flags) := by
  rw [exec_matrixPass, execMatrixPass]
  simp only [hclash, hawake, Bool.not_true, Bool.false_eq_true, if_false, hbest, hwork, hteam, hmaps, hpass, List.map_map]
  congr 5
  refine List.map_congr_left fun x _ => ?_
  simp only [Function.comp_apply]
  by_cases hx : x.index = e.index
  · simp only [hx, if_true]
  · by_cases hcounted : s.eligible (s.cluster s.arg.cl) x = true <;> simp only [hx, hcounted, Bool.false_eq_true, if_true, if_false]

/-! ### The end of a joint operation (R257, R265, R266) -/

/-- The event names an entry of its cluster's table: it takes that entry, if it takes entries of its kind. -/
def State.eventNames (s : State) (e : TabEntry) : Prop := ∀ p : TabEntry → Bool, p e = true → s.eventEntry p = some e

/-- An entry whose turn has come, and whose index the event has and no other entry. -/
theorem eventNames_of_turn {s : State} {e : TabEntry} (he : e ∈ (s.cluster s.arg.cl).table) (hindex : e.index.val = s.arg.num)
    (hone : ∀ x ∈ (s.cluster s.arg.cl).table, x.index = e.index → x = e) (hparked : e.parked = false)
    (hturn : s.turnOf (s.cluster s.arg.cl) e = true) : s.eventNames e := by
  intro p hp
  have hpick : (e.index.val == s.arg.num && !e.parked && s.turnOf (s.cluster s.arg.cl) e && p e) = true := by
    rw [hindex, hparked, hturn, hp, beq_self_eq_true]
    rfl
  cases hfind : s.eventEntry p with
  | none => exact absurd hpick (List.find?_eq_none.mp hfind e he)
  | some x =>
    have hx := List.find?_some hfind
    simp only [Bool.and_eq_true, beq_iff_eq] at hx
    obtain ⟨⟨⟨hnum, _⟩, _⟩, _⟩ := hx
    exact congrArg some (hone x (List.mem_of_find?_eq_some hfind) (Fin.ext (hnum.trans hindex.symm)))

theorem members_of_work {e : TabEntry} {op : JointOp} {ms : List GroupId} (hwork : e.work = .joint op ms) : e.members = ms := by
  rw [TabEntry.members, hwork]

section Ends

variable {s : State} {e : TabEntry} {g : GroupId} {ms : List GroupId} {grp : Group} {t : Team} {u : State} {ps : List Place}
  (hevent : s.eventNames e)
include hevent

theorem exec_jointOpComplete_passes {op : JointOp} (hwork : e.work = .joint op ms) (hop : op = .mlt ∨ op = .mma false ∨ op = .mma true)
    (hpasses : e.passes = e.total) : exec .jointOpComplete s = .next (s.finishJoint s.arg.cl e) := by
  rw [exec_jointOpComplete, execJointOpComplete]
  obtain rfl | rfl | rfl := hop <;>
  · rw [hevent _ (by rw [hwork]; exact beq_iff_eq.mpr hpasses)]
    simp only [hwork]

theorem exec_jointOpComplete_zero (hwork : e.work = .joint .zero ms) (ht : s.team? e.team = some t) :
    exec .jointOpComplete s = .next ((s.setAcc t e.slot Acc.zero).finishJoint s.arg.cl e) := by
  rw [exec_jointOpComplete, execJointOpComplete]
  rw [hevent _ (by rw [hwork])]
  simp only [hwork, ht]

theorem exec_maccComplete_store (ht : s.team? e.team = some t) (hgrp : s.group? g = some grp) (hwork : e.work = .joint .store (g :: ms))
    (hplaces : s.places (s.maccReq g grp .store e) e.sa.toNat 49280 = .ok (u, ps)) (hpoison : (u.accOf t e.slot).poison = []) :
    exec .maccComplete s =
      .next ((u.groupStore (s.maccReq g grp .store e) grp.launch ps (u.accOf t e.slot).image).finishJoint s.arg.cl e) := by
  rw [exec_maccComplete, execMaccComplete]
  rw [hevent _ (by rw [hwork])]
  simp only [ht, members_of_work hwork, hgrp, hwork, if_true, hplaces, hpoison]

theorem exec_maccComplete_load (ht : s.team? e.team = some t) (hgrp : s.group? g = some grp) (hwork : e.work = .joint .load (g :: ms))
    (hplaces : s.places (s.maccReq g grp .load e) e.sa.toNat 49280 = .ok (u, ps)) (hclean : ∀ p ∈ ps, u.placePoison p = false)
    (hlength : ps.length = 49280) :
    (∀ acc, Acc.ofImage (u.readSince e.since 1 ps).1 [] = some acc →
        exec .maccComplete s = .next ((u.setAcc t e.slot acc).finishJoint s.arg.cl e)) ∧
      (Acc.ofImage (u.readSince e.since 1 ps).1 [] = none →
        exec .maccComplete s = .next (u.trapJoint s.arg.cl e { kind := .badrec, val := e.sa })) := by
  have hhits : (List.range 49280).filter (fun i => u.placePoison (ps.getD i (.byte 0))) = [] := by
    refine List.filter_eq_nil_iff.mpr fun i hi => ?_
    have hlt : i < ps.length := hlength ▸ List.mem_range.mp hi
    rw [List.getD_eq_getElem _ _ hlt, hclean _ (List.getElem_mem hlt)]
    exact Bool.false_ne_true
  rw [exec_maccComplete, execMaccComplete]
  rw [hevent _ (by rw [hwork])]
  simp only [ht, members_of_work hwork, hgrp, hwork, Bool.false_eq_true, if_false, hplaces, hhits, List.any_nil, List.filter_nil, List.map_nil,
    List.eraseDups_nil, if_true]
  exact ⟨fun acc hacc => by rw [hacc], fun hnone => by rw [hnone]⟩

end Ends

/-! ### Slots granted and spilled (R267, R268) -/

theorem takeSlots_group? (s : State) (cl : ClusterId) (team : Nat) (js : List (Fin 8)) (named : Bool) (g : GroupId) :
    (s.takeSlots cl team js named).group? g = s.group? g := by
  unfold State.takeSlots
  dsimp only
  split
  case h_1 => split <;> rfl
  case h_2 => rfl

theorem exec_macqGrant_gang {s : State} {r : SlotReq} {rest : List SlotReq} {g : GroupId} {grp : Group}
    (hrequests : (s.cluster s.arg.cl).requests = r :: rest) (hgrant : s.grantable (s.cluster s.arg.cl) = true) (hop : r.op = none)
    (hg : r.g = some g) (hgrp : s.group? g = some grp) :
    let c := s.cluster s.arg.cl
    let js := (s.slotsFor c r.team).take r.count
    let given := (s.setCluster s.arg.cl { c with requests := rest }).takeSlots s.arg.cl r.team js true
    exec .macqGrant s = .next (((given.setGroup g (grp.pin r.slices)).writeFor g r.slices (macqDest (grp.lead r.slices).waitWord.word)
      ((slotMask js).zeroExtend 64)).complete g r.slices) := by
  rw [exec_macqGrant, execMacqGrant]
  simp only [hgrant, Bool.not_true, Bool.false_eq_true, if_false, hrequests, hop, hg, takeSlots_group?, State.group?_setCluster, hgrp]

theorem exec_accSpill_chosen {s : State} {t : Team} {j : Fin 8} {a : Nat} (hchoice : s.spillChoice (s.cluster s.arg.cl) = some (t, j))
    (hbacking : t.backing = some a) :
    let c := s.cluster s.arg.cl
    let taken : Cluster :=
      { c with owner := c.owner.set j none, acc := c.acc.set j Acc.zero, below := c.below.set j (t.id :: c.below[j]) }
    exec .accSpill s = .next (((s.setCluster s.arg.cl taken).setTeam { t with spilled := (j, c.acc[j]) :: t.spilled }).physWrite
      (deviceOf s.arg.cl) (a + 49280 * j.val) (c.acc[j]).image) := by
  rw [exec_accSpill, execAccSpill]
  simp only [hchoice, hbacking]

/-- Settles O15: of the entries of one table the one that beats the others is its best, an event finds the entry that it names, and each event
then does with it what the statement says. -/
theorem matrixEvents : Obligations.MatrixEvents := by
  refine ⟨fun s e hclash => exec_matrixPass_clash hclash, ?_, ?_, ?_, ?_⟩
  · intro s e op ms t a b r cl c hnodup hclash hawake he heligible hbeats hwork hteam hmaps hpass
    exact exec_matrixPass_granted (List.find?_eq_none.mpr fun x hx => Bool.eq_false_iff.mp (hclash x hx)) hawake
      (bestEntry_eligible hnodup he heligible hbeats) hwork hteam hmaps hpass
  · intro s e cl c request he hindex hone hparked hturn
    have hevent := eventNames_of_turn he hindex hone hparked hturn
    exact ⟨fun op ms => exec_jointOpComplete_passes hevent, fun ms t => exec_jointOpComplete_zero hevent,
      fun t g ms grp u ps => exec_maccComplete_store hevent, fun t g ms grp u ps => exec_maccComplete_load hevent⟩
  · intro s r rest g grp cl c hrequests hgrant hop hg hgrp
    exact exec_macqGrant_gang hrequests hgrant hop hg hgrp
  · intro s t j a cl c taken moved hchoice hbacking
    exact exec_accSpill_chosen hchoice hbacking

end Sys2Proof.Machine
end

section
/-! PROOFS. Memory at reset. -/

namespace Sys2Proof.Machine

open Sys2Proof

/-- Settles O1: memory at reset lists no byte. -/
theorem resetInv : Obligations.ResetInv := wf_reset

end Sys2Proof.Machine
end


section
/-! PROOFS. Translating an access leaves memory and the contexts as they are, and while no error stands unmet the devices and the record of
poison too (R105, R364, R370, R373, R377). -/

namespace Sys2Proof.Machine

open Sys2Proof

/-- What a state holds of programs' data and of their contexts. -/
def State.held (s : State) : List Host.Cell × List (Nat × Ctx) := (s.mem, s.ctxs)

theorem State.mem_of_held {s t : State} (h : t.held = s.held) : t.mem = s.mem := congrArg Prod.fst h

/-- The state without what translation and the caches keep. -/
def State.uncached (s : State) : State := { s with leases := [], pins := [], peers := [], lines := [], unseen := [] }

/-- States with one view agree in what the view keeps. -/
theorem agree_of_view {β : Type} (v : State → State) (f : State → β) (hf : ∀ u, f (v u) = f u) {s t : State} (h : v t = v s) : f t = f s :=
  (hf t).symm.trans ((congrArg f h).trans (hf s))

theorem State.latent_of_uncached {s t : State} (h : t.uncached = s.uncached) : t.pack.latent = s.pack.latent :=
  agree_of_view State.uncached (fun x => x.pack.latent) (fun _ => rfl) h

/-! ### Errors met -/

@[simp] theorem held_meetGranules (s : State) (r : Req) (gs : List Nat) : (s.meetGranules r gs).held = s.held := by
  refine foldl_keeps (fun s g => ?_) gs s
  rfl

@[simp] theorem held_meetErrors (s : State) (r : Req) (ps : List Place) : (s.meetErrors r ps).held = s.held := by
  unfold State.meetErrors
  split
  · rfl
  · exact held_meetGranules ..

@[simp] theorem held_pinPage (s : State) (r : Req) (va leaf : Nat) : (s.pinPage r va leaf).held = s.held := by
  simp only [State.pinPage]
  split
  · split
    · rfl
    · exact held_meetGranules ..
  · rfl

theorem uncached_pinPage {s : State} (h : s.pack.latent = []) (r : Req) (va leaf : Nat) : (s.pinPage r va leaf).uncached = s.uncached := by
  simp only [State.pinPage, h, if_true]
  split <;> rfl

/-! ### Lines filled -/

@[simp] theorem uncached_fillLevel (s : State) (level : CacheLevel) (t : Fin 4 × Asn × Nat) (imported : Bool) (c : CacheRef) :
    (s.fillLevel level t imported c).uncached = s.uncached := by
  unfold State.fillLevel
  exact apply_ite State.uncached _ _ _ |>.trans (ite_self _)

@[simp] theorem uncached_importLine (s : State) (token : DWord) (level : CacheLevel) (c : CacheRef) :
    (s.importLine token level c).uncached = s.uncached := by
  simp only [State.importLine]
  split
  · rfl
  · split
    · rfl
    · exact uncached_fillLevel ..

@[simp] theorem uncached_fillPlaces (s : State) (r : Req) (token : DWord) (ps : List Place) :
    (s.fillPlaces r token ps).uncached = s.uncached := by
  refine foldl_keeps (fun s c => ?_) _ s
  dsimp only
  split <;> simp only [apply_ite State.uncached, uncached_fillLevel, uncached_importLine, ite_self]

@[simp] theorem held_fillPlaces (s : State) (r : Req) (token : DWord) (ps : List Place) : (s.fillPlaces r token ps).held = s.held :=
  agree_of_view State.uncached State.held (fun _ => rfl) (uncached_fillPlaces s r token ps)

/-! ### Places -/

theorem held_ownPlaces {s t : State} {r : Req} {imp : Option (Fin 4 × Asn × Nat)} {token : DWord} {va n : Nat} {ps : List Place}
    (h : s.ownPlaces r imp token va n = .ok (t, ps)) : t.held = s.held := by
  unfold State.ownPlaces at h
  split at h
  case h_1 => cases h
  case h_2 =>
    cases h
    rw [held_fillPlaces, held_meetErrors, held_pinPage]
    split <;> rfl

theorem uncached_ownPlaces {s t : State} (hs : s.pack.latent = []) {r : Req} {imp : Option (Fin 4 × Asn × Nat)} {token : DWord}
    {va n : Nat} {ps : List Place} (h : s.ownPlaces r imp token va n = .ok (t, ps)) : t.uncached = s.uncached := by
  unfold State.ownPlaces at h
  split at h
  case h_1 => cases h
  case h_2 leaf walked _ =>
    cases h
    have hleased : (if walked then s.grantLease r.ld r.asn va leaf else s).uncached = s.uncached := by split <;> rfl
    have hpinned := (uncached_pinPage ((State.latent_of_uncached hleased).trans hs) r va leaf).trans hleased
    rw [uncached_fillPlaces, meetErrors_of_latent ((State.latent_of_uncached hpinned).trans hs), hpinned]

theorem length_pagePlaces (s : State) (r : Req) (imp : Option (Fin 4 × Asn × Nat)) (va n leaf : Nat) :
    (s.pagePlaces r imp va n leaf).length = n := by
  rw [State.pagePlaces, List.length_map, List.length_range]

theorem length_ownPlaces {s t : State} {r : Req} {imp : Option (Fin 4 × Asn × Nat)} {token : DWord} {va n : Nat} {ps : List Place}
    (h : s.ownPlaces r imp token va n = .ok (t, ps)) : ps.length = n := by
  unfold State.ownPlaces at h
  split at h
  case h_1 => cases h
  case h_2 =>
    cases h
    exact length_pagePlaces ..

theorem length_placesInPage {s t : State} {r : Req} {va n : Nat} {ps : List Place} (h : s.placesInPage r va n = .ok (t, ps)) :
    ps.length = n := by
  unfold State.placesInPage at h
  split at h
  case isFalse => exact length_ownPlaces h
  case isTrue =>
    split at h
    case h_1 => cases h
    case h_2 =>
      dsimp only at h
      split at h
      case isTrue =>
        split at h <;> cases h
        rw [List.length_map, List.length_range]
      case isFalse =>
        split at h
        case h_1 => cases h
        case h_2 =>
          split_ifs at h
          exact length_ownPlaces h

/-- An access granule by granule: its first granule, then the others (R354). -/
theorem placesFuel_succ {s t : State} {r : Req} {va n fuel : Nat} {ps : List Place} (h : s.placesFuel r va n (fuel + 1) = .ok (t, ps)) :
    (n = 0 ∧ t = s ∧ ps = []) ∨ ∃ u first rest, s.placesInPage r va (min n (2 ^ 8 - va % 2 ^ 8)) = .ok (u, first) ∧
      u.placesFuel r (va + min n (2 ^ 8 - va % 2 ^ 8)) (n - min n (2 ^ 8 - va % 2 ^ 8)) fuel = .ok (t, rest) ∧ ps = first ++ rest := by
  simp only [State.placesFuel] at h
  split at h
  case isTrue hn =>
    cases h
    exact .inl ⟨hn, rfl, rfl⟩
  case isFalse =>
    split at h
    · cases h
    next u first hfirst =>
      split at h
      · cases h
      next v rest hrest =>
        cases h
        exact .inr ⟨u, first, rest, hfirst, hrest, rfl⟩

theorem held_placesFuel {s t : State} {r : Req} {va n fuel : Nat} {ps : List Place} (h : s.placesFuel r va n fuel = .ok (t, ps)) :
    t.held = s.held := by
  induction fuel generalizing s va n ps with
  | zero =>
    cases h
    rfl
  | succ fuel ih =>
    obtain ⟨-, rfl, -⟩ | ⟨u, first, rest, hfirst, hrest, -⟩ := placesFuel_succ h
    · rfl
    · obtain rfl | ⟨_, _, _, _, hown⟩ := placesInPage_ok hfirst
      · exact ih hrest
      · exact (ih hrest).trans (held_ownPlaces hown)

theorem uncached_placesFuel {s t : State} (hs : s.pack.latent = []) {r : Req} {va n fuel : Nat} {ps : List Place}
    (h : s.placesFuel r va n fuel = .ok (t, ps)) : t.uncached = s.uncached := by
  induction fuel generalizing s va n ps with
  | zero =>
    cases h
    rfl
  | succ fuel ih =>
    obtain ⟨-, rfl, -⟩ | ⟨u, first, rest, hfirst, hrest, -⟩ := placesFuel_succ h
    · rfl
    · obtain rfl | ⟨_, _, _, _, hown⟩ := placesInPage_ok hfirst
      · exact ih hs hrest
      · have hu := uncached_ownPlaces hs hown
        exact (ih ((State.latent_of_uncached hu).trans hs) hrest).trans hu

/-- With fuel for every granule that the bytes may touch, each byte has its place. -/
theorem length_placesFuel {s t : State} {r : Req} {va n fuel : Nat} {ps : List Place} (h : s.placesFuel r va n fuel = .ok (t, ps))
    (hfuel : n = 0 ∨ n + va % 2 ^ 8 ≤ 2 ^ 8 * fuel) : ps.length = n := by
  induction fuel generalizing s va n ps with
  | zero =>
    cases h
    rw [List.length_nil]
    omega
  | succ fuel ih =>
    obtain ⟨rfl, -, rfl⟩ | ⟨u, first, rest, hfirst, hrest, rfl⟩ := placesFuel_succ h
    · rfl
    · rw [List.length_append, length_placesInPage hfirst]
      generalize hhere : min n (2 ^ 8 - va % 2 ^ 8) = here at hrest
      rw [ih hrest (by omega)]
      omega

theorem held_places {s t : State} {r : Req} {va n : Nat} {ps : List Place} (h : s.places r va n = .ok (t, ps)) : t.held = s.held :=
  held_placesFuel h

/-- Settles O7: the frames of translation, granule by granule; errors are met only where some stand. -/
theorem translationFrame : Obligations.TranslationFrame := by
  intro s t r va n ps h
  have hmain := held_places h
  have hbeyond := beyond_places h
  refine ⟨length_placesFuel h (.inr (by omega)), congrArg Prod.fst hmain, agree_of_view State.beyond State.groups (fun _ => rfl) hbeyond,
    agree_of_view State.beyond State.clusters (fun _ => rfl) hbeyond, congrArg Prod.snd hmain, agree_of_view State.beyond State.launches (fun _ => rfl) hbeyond,
    agree_of_view State.beyond State.teams (fun _ => rfl) hbeyond, agree_of_view State.beyond State.cur (fun _ => rfl) hbeyond,
    agree_of_view State.beyond State.fetched (fun _ => rfl) hbeyond, fun hs => ?_⟩
  have hquiet := uncached_placesFuel hs h
  exact ⟨agree_of_view State.uncached State.devices (fun _ => rfl) hquiet, agree_of_view State.uncached State.poison (fun _ => rfl) hquiet⟩

end Sys2Proof.Machine
end

section
/-! PROOFS. Uniform arithmetic, bit and condition words: what each computes, as a statement spells it (R277 to R283). -/

namespace Sys2Proof.Machine

open Sys2Proof

/-! ### Numbers as dwords -/

theorem dwordOf_toInt (a : DWord) : dwordOf a.toInt = a := BitVec.ofInt_toInt

theorem dwordOf_toNat (a : DWord) : dwordOf a.toNat = a := by
  rw [dwordOf_natCast, BitVec.ofNat_toNat, BitVec.setWidth_eq]

theorem dwordOf_add (x y : Int) : dwordOf (x + y) = dwordOf x + dwordOf y := BitVec.ofInt_add x y

theorem dwordOf_mul (x y : Int) : dwordOf (x * y) = dwordOf x * dwordOf y := BitVec.ofInt_mul x y

theorem dwordOf_sub (x y : Int) : dwordOf (x - y) = dwordOf x - dwordOf y := by
  rw [eq_comm, BitVec.sub_eq_iff_eq_add, ← dwordOf_add, Int.sub_add_cancel]

theorem dwordOf_div (a b : DWord) : dwordOf (a.toNat / b.toNat : Nat) = a / b := by
  rw [dwordOf_natCast]
  exact BitVec.eq_of_toNat_eq (by rw [BitVec.toNat_ofNat, BitVec.toNat_udiv,
    Nat.mod_eq_of_lt ((Nat.div_le_self _ _).trans_lt a.isLt)])

theorem dwordOf_min_toInt (a b : DWord) : dwordOf (min a.toInt b.toInt) = if b.toInt < a.toInt then b else a := by
  rw [min_comm, min_def_lt]
  split <;> rw [dwordOf_toInt]

theorem dwordOf_max_toInt (a b : DWord) : dwordOf (max a.toInt b.toInt) = if a.toInt < b.toInt then b else a := by
  rw [max_def_lt]
  split <;> rw [dwordOf_toInt]

theorem dwordOf_min_toNat (a b : DWord) : dwordOf (min a.toNat b.toNat : Nat) = if b.toNat < a.toNat then b else a := by
  rw [min_comm, min_def_lt]
  split <;> rw [dwordOf_toNat]

theorem dwordOf_max_toNat (a b : DWord) : dwordOf (max a.toNat b.toNat : Nat) = if a.toNat < b.toNat then b else a := by
  rw [max_def_lt]
  split <;> rw [dwordOf_toNat]

/-! ### Words that are their shared operation -/

/-- A meaning that is `scalarOp` of a function gives what the function computes. -/
theorem scalarGives_of {i : Instr} {srcs : List (Fin 64)} {sd : Fin 64} {f h : List DWord → DWord}
    (he : ∀ s, exec i s = scalarOp s srcs sd h) (hf : ∀ x, f x = h x) : ScalarGives i srcs sd f := by
  obtain rfl : f = h := funext hf
  intro s
  rw [he]
  exact scalarOp_gives

theorem scalar3Gives_of {mk : UR3 → Instr} {f h : DWord → DWord → DWord} (he : ∀ o s, exec (mk o) s = scalar3 o s h)
    (hf : ∀ a b, f a b = h a b) : Scalar3Gives mk f :=
  fun o => scalarGives_of (he o) fun x => hf (uv x 0) (uv x 1)

theorem scalar2Gives_of {mk : UR2 → Instr} {f h : DWord → DWord} (he : ∀ o s, exec (mk o) s = scalar2 o s h)
    (hf : ∀ a, f a = h a) : Scalar2Gives mk f :=
  fun o => scalarGives_of (he o) fun x => hf (uv x 0)

/-! ### Arithmetic and literals (R278, R280) -/

/-- A quotient by zero is all ones on both sides; else the quotients agree. -/
theorem quotient_eq {b : DWord} {x y : DWord} (h : x = y) :
    (if b = 0 then dwordOf (-1) else x) = if b = 0 then BitVec.allOnes 64 else y := by
  rw [h]
  rfl

/-- Settles O5: each uniform arithmetic word is its shared operation, of a function equal to the one stated. -/
theorem uniformArithmeticResults : Obligations.UniformArithmeticResults := by
  refine ⟨?sadd, ?ssub, ?smul, ?smulh, ?smulhn, ?sdiv, ?sdivn, ?srem, ?smin, ?smax, ?sminn, ?smaxn, ?saddi, ?slui, ?slit, ?slith⟩
  case sadd => exact scalar3Gives_of exec_sadd fun a b => by rw [dwordOf_add, dwordOf_toInt, dwordOf_toInt]
  case ssub => exact scalar3Gives_of exec_ssub fun a b => by rw [dwordOf_sub, dwordOf_toInt, dwordOf_toInt]
  case smul => exact scalar3Gives_of exec_smul fun a b => by rw [dwordOf_mul, dwordOf_toInt, dwordOf_toInt]
  case smulh => exact scalar3Gives_of exec_smulh fun _ _ => rfl
  case smulhn => exact scalar3Gives_of exec_smulhn fun _ _ => dwordOf_natCast _
  case sdiv => exact scalar3Gives_of exec_sdiv fun _ _ => quotient_eq rfl
  case sdivn => exact scalar3Gives_of exec_sdivn fun a b => quotient_eq (dwordOf_div a b)
  case srem =>
    refine scalar3Gives_of exec_srem fun a b => ?_
    rw [Int.tmod_def, mul_comm b.toInt, dwordOf]
  case smin => exact scalar3Gives_of exec_smin dwordOf_min_toInt
  case smax => exact scalar3Gives_of exec_smax dwordOf_max_toInt
  case sminn => exact scalar3Gives_of exec_sminn dwordOf_min_toNat
  case smaxn => exact scalar3Gives_of exec_smaxn dwordOf_max_toNat
  case saddi => exact fun o => scalarGives_of (exec_saddi o) fun x => by rw [dwordOf_add, dwordOf_toInt]; rfl
  case slui => exact fun o => scalarGives_of (exec_slui o) fun _ => dwordOf_natCast _
  case slit => exact fun o => scalarGives_of (exec_slit o) fun _ => by rw [dwordOf_natCast, BitVec.ofNat_toNat]
  case slith => exact fun o => scalarGives_of (exec_slith o) fun _ => dwordOf_natCast _

/-! ### Shifts and counts (R278) -/

theorem dwordOf_shl (a : DWord) (n : Nat) : dwordOf (a.toNat * 2 ^ n : Nat) = a <<< n := by
  rw [dwordOf_natCast]
  exact BitVec.eq_of_toNat_eq (by rw [BitVec.toNat_ofNat, BitVec.toNat_shiftLeft, Nat.shiftLeft_eq])

theorem dwordOf_shr (a : DWord) (n : Nat) : dwordOf (a.toNat / 2 ^ n : Nat) = a >>> n := by
  rw [dwordOf_natCast, ← Nat.shiftRight_eq_div_pow, ← BitVec.toNat_ushiftRight, BitVec.ofNat_toNat, BitVec.setWidth_eq]

theorem dwordOf_sar (a : DWord) (n : Nat) : dwordOf (a.toInt / 2 ^ n) = a.sshiftRight n := by
  rw [dwordOf, BitVec.sshiftRight, Int.shiftRight_eq_div_pow, Nat.cast_pow, Nat.cast_ofNat]

/-- The two parts of a rotated dword share no bit, so that their sum is the rotation. -/
theorem dwordOf_rotate (a : DWord) (n : Nat) :
    dwordOf (a.toNat * 2 ^ (n % 64) + a.toNat / 2 ^ (64 - n % 64) : Nat) = a.rotateLeft (n % 64) := by
  have hapart : a <<< (n % 64) &&& a >>> (64 - n % 64) = 0#64 := by
    ext i hi
    simp only [BitVec.getElem_and, BitVec.getElem_shiftLeft, BitVec.getElem_ushiftRight, BitVec.getElem_zero]
    by_cases h : i < n % 64
    · simp [h]
    · rw [BitVec.getLsbD_of_ge a (64 - n % 64 + i) (by omega), Bool.and_false]
  rw [Nat.cast_add, dwordOf_add, dwordOf_shl, dwordOf_shr, BitVec.add_eq_or_of_and_eq_zero _ _ hapart,
    BitVec.rotateLeft_mod_eq_rotateLeft]
  rfl

/-- A shift of 64 or more gives 0. -/
theorem shift_ite {x y : DWord} (n : Nat) (h : x = y) : (if n < 64 then x else 0) = if 64 ≤ n then 0 else y := by
  rw [h, ← ite_not]
  simp only [not_lt]

/-- An arithmetic shift by 64 or more leaves copies of the sign, as one by 63 does. -/
theorem dwordOf_sar_min (a : DWord) (n : Nat) :
    (if n < 64 then dwordOf (a.toInt / 2 ^ n) else dwordOf (a.toInt / 2 ^ 63)) = a.sshiftRight (min n 64) := by
  split
  next h => rw [dwordOf_sar, Nat.min_eq_left h.le]
  next h =>
    rw [dwordOf_sar, Nat.min_eq_right (not_lt.mp h)]
    ext i hi
    simp only [BitVec.getElem_sshiftRight]
    grind

/-- The bits of a dword above its highest set one are clear. -/
theorem sclz_eq_find (a : DWord) :
    (if a = 0 then 64 else 63 - Nat.log2 a.toNat) = ((List.range 64).find? fun i => a.getLsbD (63 - i)).getD 64 := by
  refine Eq.trans ?_ (leadingZeros_eq_find a.isLt)
  have hzero : a = 0 ↔ a.toNat = 0 := by rw [BitVec.toNat_eq]; rfl
  simp only [leadingZeros, hzero]

/-! ### Bit fields (R281) -/

theorem fieldAt_eq (b : DWord) : fieldAt b = (b.toNat % 64, min (b.toNat / 2 ^ 8 % 128) (64 - b.toNat % 64)) := by
  simp [fieldAt, bits]

theorem dwordOf_signedField (x w : Nat) :
    dwordOf (if w ≠ 0 ∧ 2 ^ (w - 1) ≤ x % 2 ^ w then ((x % 2 ^ w : Nat) : Int) - 2 ^ w else (x % 2 ^ w : Nat)) =
      if w = 0 then 0 else BitVec.ofInt 64 (signed w (x % 2 ^ w)) := by
  by_cases hw : w = 0
  · subst hw
    rw [if_neg (fun h => h.1 rfl), if_pos rfl, pow_zero, Nat.mod_one]
    rfl
  · simp only [hw, if_false, ne_eq, not_false_iff, true_and, signed_of_pos hw, dwordOf]

theorem dwordOf_fieldMask (w p : Nat) : dwordOf ((2 ^ w - 1) * 2 ^ p) = BitVec.ofNat 64 ((2 ^ w - 1) * 2 ^ p) := by
  rw [← dwordOf_natCast, Nat.cast_mul, Nat.cast_sub Nat.one_le_two_pow]
  push_cast
  rfl

/-- The bit and field half of O41. -/
theorem uniformBitResults : UniformBitResults := by
  refine ⟨?sand, ?sor, ?sxor, ?sandn, ?sshl, ?sshr, ?ssar, ?srot, ?spopc, ?sclz, ?sctz, ?sbfx, ?sbfxs, ?sbfi⟩
  case sand => exact scalar3Gives_of exec_sand fun _ _ => rfl
  case sor => exact scalar3Gives_of exec_sor fun _ _ => rfl
  case sxor => exact scalar3Gives_of exec_sxor fun _ _ => rfl
  case sandn => exact scalar3Gives_of exec_sandn fun _ _ => rfl
  case sshl => exact scalar3Gives_of exec_sshl fun a b => shift_ite b.toNat (dwordOf_shl a b.toNat)
  case sshr => exact scalar3Gives_of exec_sshr fun a b => shift_ite b.toNat (dwordOf_shr a b.toNat)
  case ssar => exact scalar3Gives_of exec_ssar fun a b => dwordOf_sar_min a b.toNat
  case srot => exact scalar3Gives_of exec_srot fun a b => dwordOf_rotate a b.toNat
  case spopc => exact scalar2Gives_of exec_spopc fun a => by rw [dwordOf_natCast, popCount_eq_countP]; rfl
  case sclz => exact scalar2Gives_of exec_sclz fun a => by rw [dwordOf_natCast, sclz_eq_find]
  case sctz => exact scalar2Gives_of exec_sctz fun _ => dwordOf_natCast _
  case sbfx =>
    refine scalar3Gives_of exec_sbfx fun a b => ?_
    rw [fieldAt_eq]
    exact dwordOf_natCast _
  case sbfxs =>
    refine scalar3Gives_of exec_sbfxs fun a b => ?_
    rw [fieldAt_eq]
    exact dwordOf_signedField _ _
  case sbfi =>
    intro o
    refine scalarGives_of (exec_sbfi o) fun x => ?_
    rw [fieldAt_eq]
    simp only [dwordOf_fieldMask]

/-! ### Conditions and selection (R277, R279, R282, R283) -/

/-- A uniform word whose action always succeeds gives the state that the action leaves. -/
theorem uniformGives_of {i : Instr} {srcs dsts : List (Fin 64)} {t h : State → List DWord → State}
    (he : ∀ s, exec i s = uniformOp s srcs dsts fun s vs => .ok (h s vs)) (ht : ∀ s vs, t s vs = h s vs) :
    UniformGives i srcs dsts t := by
  obtain rfl : t = h := funext₂ ht
  intro s
  rw [he]
  exact uniformOp_gives rfl

/-- A comparison of uniform sources writes its condition. -/
theorem uniformCmp_gives {i : Instr} {o : UCmp} (hcc : o.cc ≠ .un) {num : DWord → Int}
    (he : ∀ s, exec i s = guardForm (o.cc != .un) s
      (uniformOp s [o.sa, o.sb] [] fun s vs => .ok (s.writeCond o.k (cmpHolds o.cc (num (uv vs 0)) (num (uv vs 1)))))) :
    UniformGives i [o.sa, o.sb] [] fun s x => s.writeCond o.k (truthOf o.cc (num (uv x 0)) (num (uv x 1))) :=
  uniformGives_of (fun s => (he s).trans (guardForm_cmp hcc s _)) fun _ _ => by rw [truthOf_eq_cmpHolds]

theorem condGives_of {i : Instr} {o : UCond} {f h : Bool → Bool → Bool} (he : ∀ s, exec i s = condOp o s h)
    (hf : ∀ a b, f a b = h a b) :
    UniformGives i [] [] fun s _ => s.writeCond o.cd (f (s.readCond o.ca) (s.readCond o.cb)) :=
  uniformGives_of he fun _ _ => by rw [hf]

theorem exec_ssel_gives {o : USel} {s : State} (hr : s.uniformReady [if s.readCond o.c then o.sa else o.sb] [o.sd]) :
    exec (.ssel o) s = .next (s.writeUniform o.sd (s.readU (if s.readCond o.c then o.sa else o.sb))).advance := by
  refine (exec_ssel o s).trans (onAny_ok (issuing_of_ready hr) ?_)
  simp only [noPorts, uniformSources_plain hr, Except.ok_bind', Except.pure_ok, commitPops_nil, uv, List.map_cons, List.getD_cons_zero]

theorem exec_sbcv_gives (o : UPred) {s : State} {g : GroupId} {slices : BitVec 8} {grp : Group} (hi : Issues s g slices grp) :
    (s.condHolds = true → s.uniformReady [] [o.sd] → exec (.sbcv o) s =
      .next (s.writeUniform o.sd (dwordOf ((activeLanes slices grp &&& grp.pred o.k).toNat : Nat))).advance) ∧
    (s.condHolds = false → exec (.sbcv o) s = .next s.advance) := by
  constructor
  · intro hc hr
    refine (exec_sbcv o s).trans (onGang_ok hi ?_)
    simp only [hc, noPorts, uniformSources_plain hr, Except.ok_bind', Except.pure_ok, commitPops_nil, dwordOf_natCast,
      BitVec.ofNat_toNat, Bool.not_true, Bool.false_eq_true, if_false]
  · intro hc
    exact (exec_sbcv o s).trans (onGang_ok hi (by simp [hc]))

theorem uniformConditionResults : UniformConditionResults := by
  refine ⟨?scmpI, ?scmpN, ?cand, ?cor, ?cxor, ?candn, ?ssel, ?sbcv⟩
  case scmpI => exact fun o hcc => uniformCmp_gives hcc (num := BitVec.toInt) (exec_scmpI o)
  case scmpN => exact fun o hcc => uniformCmp_gives hcc (num := fun x => (x.toNat : Int)) (exec_scmpN o)
  case cand => exact fun o => condGives_of (f := and) (exec_cand o) fun _ _ => rfl
  case cor => exact fun o => condGives_of (f := or) (exec_cor o) fun _ _ => rfl
  case cxor => exact fun o => condGives_of (f := xor) (exec_cxor o) fun _ _ => rfl
  case candn => exact fun o => condGives_of (f := fun a b => a && !b) (exec_candn o) fun _ _ => rfl
  case ssel => exact fun o s => exec_ssel_gives
  case sbcv => exact fun o s g slices grp => exec_sbcv_gives o

/-- Settles O41: each bit and condition word is its shared operation; SSEL reads the operand that its condition selects. -/
theorem uniformLogicWords : Obligations.UniformLogicWords := ⟨uniformBitResults, uniformConditionResults⟩

end Sys2Proof.Machine
end

section
/-! PROOFS. LEXIT and LCNT: their words, and what they do to the loop stack (R287). -/

namespace Sys2Proof.Machine

open Sys2Proof

/-! ### Their words -/

/-- LEXIT's encoding with the condition field in bits 5 to 3. -/
theorem decodeWords_lexit (c : Fin 8) :
    (decodeWords (BitVec.ofNat 32 (2 ^ 31 + 0x14 * 2 ^ 24 + c.val * 2 ^ 3)) 0).toOption = some (.lexit, ⟨false, c, 0⟩, 1) := by
  refine decodeWords_of_encode_word rfl rfl (congrArg (fun n => some [BitVec.ofNat 32 n]) ?_)
  simp only [Issue.bits, bitNat, Bool.false_eq_true, if_false]
  omega

theorem decodeWords_lcnt (c : Fin 8) (sd : Fin 64) :
    (decodeWords (BitVec.ofNat 32 (2 ^ 31 + 0x14 * 2 ^ 24 + sd.val * 2 ^ 18 + c.val * 2 ^ 3 + 1)) 0).toOption =
      some (.lcnt ⟨sd⟩, ⟨false, c, 0⟩, 1) := by
  refine decodeWords_of_encode_word rfl rfl (congrArg (fun n => some [BitVec.ofNat 32 n]) ?_)
  simp only [Issue.bits, bitNat, UDc.bits, Bool.false_eq_true, if_false]
  omega

/-! ### LEXIT -/

theorem exec_lexit_pops {s : State} {l : LoopLevel} {rest : List LoopLevel} (hi : s.issuing) (hc : s.condHolds = true)
    (hl : s.loops = l :: rest) (hin : ∀ cl p, PilotIssues s cl p → (l.last + 4).toNat < 2 ^ 16) :
    exec .lexit s = .next (s.goto (l.last + 4) rest).endRun := by
  refine (exec_lexit s).trans (onAny_ok hi ?_)
  simp only [hc, Bool.not_true, Bool.false_eq_true, if_false, hl]
  rcases hi with ⟨g, slices, grp, hi⟩ | ⟨cl, p, hi⟩
  · simp only [hi.cur]
    rfl
  · simp only [hi.cur, checkTarget_ok (.inr ⟨cl, p, hi, hin cl p hi⟩), Except.ok_bind']
    rfl

theorem exec_lexit_passes {s : State} (hi : s.issuing) (hc : s.condHolds = false) : exec .lexit s = .next s.advance :=
  (exec_lexit s).trans (onAny_ok hi (by simp only [hc, Bool.not_false, if_true, Except.pure_ok]))

/-- LEXIT with an empty stack is ILLEGAL at step 6, whoever executes it. -/
theorem exec_lexit_empty {s : State} (hc : s.condHolds = true) (hl : s.loops = []) :
    exec .lexit s = onAny s (illegal s 6) := by
  rw [exec_lexit, execLexit]
  simp only [hc, Bool.not_true, Bool.false_eq_true, if_false, hl]

/-! ### LCNT -/

theorem exec_lcnt_counts (o : UDc) {s : State} (hc : s.condHolds = true) (hr : s.uniformReady [] [o.sd]) :
    (∀ (l : LoopLevel) (rest : List LoopLevel), s.loops = l :: rest →
      exec (.lcnt o) s = .next (s.writeUniform o.sd (l.count.zeroExtend 64)).advance) ∧
    (s.loops = [] → exec (.lcnt o) s = .next (s.writeUniform o.sd 0).advance) := by
  constructor
  · intro l rest hl
    rw [exec_lcnt, execLcnt, hl]
    exact scalarOp_gives.1 hc hr
  · intro hl
    rw [exec_lcnt, execLcnt, hl]
    exact scalarOp_gives.1 hc hr

/-- LOOP of a count that is not 0: the count is the low half of its source. -/
theorem exec_loop_three {o : ULoop} {s : State} (hr : s.uniformReady [o.sa] []) (h : s.readU o.sa = 3) (hroom : s.loops.length < 4) :
    exec (.loop o) s = .next (s.goto (s.pc + 4) (⟨s.pc + 4, s.pc + 4 + BitVec.ofNat 48 (4 * o.imm.toNat), 3⟩ :: s.loops)) := by
  have hcount : BitVec.ofNat 32 (s.readU o.sa).toNat = 3 := by rw [h]; rfl
  rw [exec_loop, execLoop_pushes hr (by rw [hcount]; decide) hroom, hcount]

/-- Settles O26: both words decode to what the encoder wrote, and their meanings follow the loop stack. -/
theorem loopStackWords : Obligations.LoopStackWords := by
  refine ⟨decodeWords_lexit, decodeWords_lcnt, ?pops, ?passes, ?traps, ?faults, ?counts, ?three, ?skips⟩
  case pops => exact fun s l rest => exec_lexit_pops
  case passes => exact fun s => exec_lexit_passes
  case traps => exact fun s g slices grp hi hc hl => (exec_lexit_empty hc hl).trans (onAny_trap hi rfl)
  case faults =>
    intro s cl p hi hc hl
    rw [exec_lexit_empty hc hl, onAny_pilot hi, illegal, settle]
    simp only [hi.cur]
  case counts => exact fun o s => exec_lcnt_counts o
  case three => exact fun o s => exec_loop_three
  case skips => exact fun o s hc hi => (exec_lcnt o s).trans (scalarOp_gives.2 hc hi)

end Sys2Proof.Machine
end

section
/-! PROOFS. TRAP, BKPT and RETT: the trap that a word raises, and what a return from a handler brings back (R307, R338, R352). -/

namespace Sys2Proof.Machine

open Sys2Proof

/-! ### TRAP and BKPT -/

theorem exec_bkpt_traps (o : UCode) {s : State} {g : GroupId} {slices : BitVec 8} {grp : Group} (hi : Issues s g slices grp)
    (h : (s.ctxOfGroup g grp).attached = false) : Traps (.bkpt o) s g slices { kind := .bkpt, val := BitVec.ofNat 64 o.code.toNat } :=
  onAny_trap hi (by simp only [hi.cur, hi.here, h, Bool.false_eq_true, if_false])

/-- A gang at BKPT with a debugger attached: every living slice of the group is held, and its own pass the breakpoint later. -/
theorem bkpt_holds (grp : Group) (slices : BitVec 8) :
    (grp.mapSlices grp.present fun sl => { sl with why := 3 }).mapSlices slices (fun sl => { sl with passBreak := true }) =
      { grp with slices := Vector.ofFn fun (i : Fin 8) => { grp.slices[i] with
          why := if grp.slices[i].exited then grp.slices[i].why else 3
          passBreak := grp.slices[i].passBreak || maskHas slices i.val } } := by
  have hslices (i : Fin 8) :
      ((grp.mapSlices grp.present fun sl => { sl with why := 3 }).mapSlices slices fun sl => { sl with passBreak := true }).slices[i] =
        { grp.slices[i] with
          why := if grp.slices[i].exited then grp.slices[i].why else 3
          passBreak := grp.slices[i].passBreak || maskHas slices i.val } := by
    rw [Group.mapSlices_get, Group.mapSlices_get, Group.maskHas_present]
    generalize grp.slices[i] = sl
    cases h : sl.exited <;> cases maskHas slices i.val <;> simp [h] <;> rw [← h]
  refine congrArg (fun v => { grp with slices := v }) (Vector.ext fun i hi => ?_)
  exact (hslices ⟨i, hi⟩).trans (by rw [Vector.getElem_ofFn])

theorem exec_bkpt_holds (o : UCode) {s : State} {g : GroupId} {slices : BitVec 8} {grp : Group} (hi : Issues s g slices grp)
    (h : (s.ctxOfGroup g grp).attached = true) :
    exec (.bkpt o) s = .next (s.setGroup g { grp with
      slices := Vector.ofFn fun (i : Fin 8) => { grp.slices[i] with
        why := if grp.slices[i].exited then grp.slices[i].why else 3
        passBreak := grp.slices[i].passBreak || maskHas slices i.val } }).endRun := by
  refine (exec_bkpt o s).trans (onAny_ok (.inl ⟨g, slices, grp, hi⟩) ?_)
  simp only [hi.cur, hi.here, h, if_true, bkpt_holds]

/-- A word of a Pilot that raises a trap whatever its state. -/
theorem onAny_pilot_trap {s : State} {cl : ClusterId} {p : Pilot} (hi : PilotIssues s cl p) (t : Trap) :
    onAny s (.error (.trap t s)) = .next (s.generatorFault cl t) := by
  simp only [onAny_pilot hi, settle, hi.cur]

theorem exec_bkpt_faults (o : UCode) {s : State} {cl : ClusterId} {p : Pilot} (hi : PilotIssues s cl p) :
    exec (.bkpt o) s = .next (s.generatorFault cl { kind := .bkpt, val := BitVec.ofNat 64 o.code.toNat }) := by
  rw [exec_bkpt, execBkpt, ← onAny_pilot_trap hi]
  simp only [hi.cur]

theorem trapWords : TrapWords :=
  ⟨fun o _ _ _ _ hi => ⟨onAny_trap hi rfl, exec_bkpt_traps o hi, exec_bkpt_holds o hi⟩,
    fun o _ _ _ hi => ⟨onAny_pilot_trap hi _, exec_bkpt_faults o hi⟩⟩

/-! ### What RETT brings back -/

/-- A slice with its part of a saved block back in its place. -/
def SavedSlice.back (sv : SavedSlice) (pc : Addr) (sl : Slice) : Slice :=
  { sl with active := sv.active, loops := sv.loops, recon := sv.recon, region := sv.region, pc := pc
            pinned := sv.pinned || sl.pinned, issued := sl.issued ++ sv.issued }

/-- The slices of a group with a saved block back in its place. -/
def slicesBack (pc : Addr) (saved : List SavedSlice) (v : Vector Slice 8) : Vector Slice 8 :=
  saved.foldl (fun v sv => v.set sv.slice (sv.back pc v[sv.slice])) v

theorem Group.restoreSaved_eq (grp : Group) :
    grp.restoreSaved = { grp with slices := slicesBack grp.trap.pc grp.saved grp.slices } := by
  suffices h : ∀ (l : List SavedSlice) (v : Vector Slice 8),
      l.foldl (fun (x : Group) sv => { x with slices := x.slices.set sv.slice (sv.back x.trap.pc x.slices[sv.slice]) })
        { grp with slices := v } = { grp with slices := slicesBack grp.trap.pc l v } from h grp.saved grp.slices
  intro l
  induction l with
  | nil => exact fun _ => rfl
  | cons sv l ih => exact fun v => ih _

theorem slicesBack_get_out {pc : Addr} {saved : List SavedSlice} {i : Fin 8} (h : i ∉ saved.map SavedSlice.slice) (v : Vector Slice 8) :
    (slicesBack pc saved v)[i] = v[i] := by
  induction saved generalizing v with
  | nil => rfl
  | cons sv l ih =>
    obtain ⟨hhead, htail⟩ := not_or.mp (mt List.mem_cons.mpr h)
    refine (ih htail _).trans (Vector.getElem_set_ne _ _ fun he => hhead (Fin.ext he.symm))

/-- Each saved slice comes back once. -/
theorem slicesBack_get {pc : Addr} {saved : List SavedSlice} {sv : SavedSlice} (hone : (saved.map SavedSlice.slice).Nodup)
    (h : sv ∈ saved) (v : Vector Slice 8) : (slicesBack pc saved v)[sv.slice] = sv.back pc v[sv.slice] := by
  induction saved generalizing v with
  | nil => exact absurd h List.not_mem_nil
  | cons first l ih =>
    obtain ⟨hnot, htail⟩ := List.nodup_cons.mp hone
    rcases List.mem_cons.mp h with rfl | hl
    · exact (slicesBack_get_out hnot _).trans (Vector.getElem_set_self _)
    · have hne : first.slice.val ≠ sv.slice.val := fun he => hnot (Fin.ext he ▸ List.mem_map_of_mem hl)
      exact (ih htail hl _).trans (congrArg (sv.back pc) (Vector.getElem_set_ne _ _ hne))

/-- The group in its handler after all but the skip of RETT. -/
def Group.backAt (grp : Group) : Group :=
  { grp with
    slices := slicesBack grp.trap.pc grp.saved grp.slices
    u := { s := (((grp.u.s.set 60 grp.trap.tsv[0]).set 61 grp.trap.tsv[1]).set 62 grp.trap.tsv[2]).set 63 grp.trap.tsv[3]
           c := grp.trap.cond }
    trap := { grp.trap with inh := false }, saved := []
    progress := (if grp.trap.skip then [] else grp.savedProgress) ++ grp.progress, savedProgress := [] }

theorem Group.returnFromTrap_eq (grp : Group) (pair : Bool) :
    grp.returnFromTrap pair = if grp.trap.skip then grp.backAt.advance grp.trap.slices pair else grp.backAt := by
  rw [Group.returnFromTrap, Group.restoreSaved_eq]
  rfl

/-- RETT changes the slices, and of the rest of the group what the statement names. -/
theorem Group.returnFromTrap_rest (grp : Group) (pair : Bool) :
    grp.returnFromTrap pair = { grp.backAt with slices := (grp.returnFromTrap pair).slices } := by
  rw [Group.returnFromTrap_eq]
  split <;> rfl

/-- A saved slice continues at TPC, or with SKIP after the word there. -/
theorem Group.returnFromTrap_get {grp : Group} {sv : SavedSlice} (hone : (grp.saved.map SavedSlice.slice).Nodup) (h : sv ∈ grp.saved)
    (hin : maskHas grp.trap.slices sv.slice.val = true) (pair : Bool) :
    (grp.returnFromTrap pair).slices[sv.slice] = { grp.slices[sv.slice] with
      active := sv.active, recon := sv.recon, region := sv.region
      pinned := sv.pinned || grp.slices[sv.slice].pinned, issued := grp.slices[sv.slice].issued ++ sv.issued
      pc := if grp.trap.skip then (sequel pair grp.trap.pc sv.loops).1 else grp.trap.pc
      loops := if grp.trap.skip then (sequel pair grp.trap.pc sv.loops).2 else sv.loops } := by
  have hback : grp.backAt.slices[sv.slice] = sv.back grp.trap.pc grp.slices[sv.slice] := slicesBack_get hone h grp.slices
  rw [Group.returnFromTrap_eq]
  cases grp.trap.skip
  · exact hback
  · rw [if_pos rfl, Group.advance, Group.mapSlices_get_in _ hin, hback]
    rfl

theorem Group.returnFromTrap_get_out {grp : Group} {i : Fin 8} (h : i ∉ grp.saved.map SavedSlice.slice)
    (hout : maskHas grp.trap.slices i.val = false) (pair : Bool) : (grp.returnFromTrap pair).slices[i] = grp.slices[i] := by
  have hback : grp.backAt.slices[i] = grp.slices[i] := slicesBack_get_out h grp.slices
  rw [Group.returnFromTrap_eq]
  cases grp.trap.skip
  · exact hback
  · rw [if_pos rfl, Group.advance, Group.mapSlices_get, hout, hback]
    rfl

/-! ### The state after RETT -/

theorem Group.unread_slices (grp : Group) (ks : List (Fin 8)) : (grp.unread ks).slices = grp.slices := by
  rw [Group.unread]
  induction ks generalizing grp with
  | nil => rfl
  | cons k ks ih => exact ih _

/-- Giving vectors back leaves a group's slices. -/
theorem State.dropSeqsOf_group {s : State} {g : GroupId} {grp : Group} (h : s.group? g = some grp) (p : WideSeq → Bool) :
    ∃ grp' : Group, (s.dropSeqsOf g p).group? g = some grp' ∧ grp'.slices = grp.slices := by
  simp only [State.dropSeqsOf, State.group?_mapSeqs, h, State.group?_setGroup]
  exact ⟨_, rfl, Group.unread_slices grp _⟩

/-- With no slice that waits for its turn to trap, no further handler is entered. -/
theorem State.nextGangTrap_none {s : State} {g : GroupId} {grp : Group} (h : s.group? g = some grp)
    (hwait : ∀ i : Fin 8, grp.slices[i].wait ≠ .gangTrap) : s.nextGangTrap g = s := by
  have hnone : (grp.livingSlices.filter fun i => grp.slices[i].wait == .gangTrap) = [] :=
    List.filter_eq_nil_iff.mpr fun i _ => by simpa using hwait i
  simp only [State.nextGangTrap, h, hnone]

/-- A privileged word at S whose condition holds. -/
theorem privileged_ok {s t : State} {g : GroupId} {slices : BitVec 8} {grp : Group} (hi : Issues s g slices grp)
    (hinh : grp.trap.inh = true) (hc : s.condHolds = true) {f : GroupId → Group → BitVec 8 → Except Stop State}
    (hf : f g grp slices = .ok t) : privileged s f = .next t := by
  refine onGang_ok hi ?_
  simp only [Group.priv, hinh, if_true, beq_self_eq_true, require_true, Except.ok_bind', hc, Bool.not_true, Bool.false_eq_true,
    if_false, hf]

theorem handlerReturn : HandlerReturn := by
  intro s g slices grp hi hinh hc hone hsaved hwait pair
  let back := grp.returnFromTrap pair
  have hout (i : Fin 8) (h : i ∉ grp.saved.map SavedSlice.slice) : back.slices[i] = grp.slices[i] :=
    Group.returnFromTrap_get_out h (Bool.eq_false_iff.mpr (mt (hsaved i).mp h)) pair
  have hin (sv : SavedSlice) (h : sv ∈ grp.saved) :=
    Group.returnFromTrap_get hone h ((hsaved sv.slice).mpr (List.mem_map_of_mem h)) pair
  have hrest := grp.returnFromTrap_rest pair
  have hquiet (i : Fin 8) : back.slices[i].wait ≠ .gangTrap := by
    by_cases h : i ∈ grp.saved.map SavedSlice.slice
    · obtain ⟨sv, hsv, rfl⟩ := List.mem_map.mp h
      simpa only [back, hin sv hsv] using hwait sv.slice
    · rw [hout i h]
      exact hwait i
  refine ⟨back, ?_, ?_, ?_, ?_, ?_, ?_, hin, hout, ?_⟩
  · refine (exec_rett s).trans (privileged_ok hi hinh hc ?_)
    obtain ⟨after, hafter, hslices⟩ := State.dropSeqsOf_group (State.group?_setGroup s g back)
      fun w => grp.trap.skip || w.pc != (back.lead grp.trap.slices).pc
    exact congrArg (fun t => Except.ok t.endRun) (State.nextGangTrap_none hafter (by rw [hslices]; exact hquiet))
  all_goals
    simp only [back]
    rw [hrest]
    rfl

/-- Settles O48: TRAP and BKPT raise their trap in the state before the word, and RETT puts the saved block back. -/
theorem trapAndReturnWords : Obligations.TrapAndReturnWords := ⟨trapWords, handlerReturn⟩

end Sys2Proof.Machine
end

section
/-! PROOFS. FBCMD and what its commands do to what waits (R340, R341, R347, R443). -/

namespace Sys2Proof.Machine

open Sys2Proof

/-! ### The commands -/

/-- The one lemma about the writes of FBCMD: `after` is what the command does to the record that it suits. -/
theorem faultCommandGives_of {i : Instr} {op : Nat} {after : State → FaultRec → State}
    (he : ∀ s, exec i s = s.onDevice fun s => s.fbcmd s.arg.ld op (BitVec.ofNat 32 s.arg.num))
    (ha : ∀ s r, s.answer op r = after s r) : FaultCommandGives i op after := by
  intro s ld d seq
  refine ⟨fun h => (he s).trans (onDevice_of_not_serves h _), fun h => ?_⟩
  rw [he, onDevice_of_serves h]
  refine ⟨fun r hr hlive => ?acts, fun r hr hstop => ?held, fun hnone hsaved => ?bad⟩
  case acts => simp only [State.fbcmd, ← ha, ld, d, seq] at hr hlive ⊢; rw [hr]; simp only [hlive, if_false]
  case held => simp only [State.fbcmd, ld, d, seq] at hr hstop ⊢; rw [hr]; simp only [hstop, if_true]
  case bad =>
    have hfind : (d.faults.find? fun r => r.seq == some seq && suits op r) = none :=
      List.find?_eq_none.mpr fun r hr => by simpa using hnone r hr
    simp only [State.fbcmd, ld, d, seq] at hfind hsaved ⊢
    rw [hfind, hsaved]

/-! ### A parked gang -/

theorem replay_group {s : State} {r : FaultRec} {g : GroupId} {slices : BitVec 8} {grp : Group} (ho : r.owner = .group g slices)
    (hg : s.group? g = some grp) : s.replay r = s.setGroup g { grp with
      slices := Vector.ofFn fun (i : Fin 8) =>
        if maskHas slices i.val = true ∧ grp.slices[i].wait = .parked then { grp.slices[i] with wait := .replay slices }
        else grp.slices[i] } := by
  simp only [State.replay, ho, hg, Group.mapSlices]
  congr 3
  funext i
  by_cases h : maskHas slices i.val = true <;> simp [h]

theorem maskHas_top (w : Word) : maskHas w 31 = true ↔ 2 ^ 31 ≤ w.toNat := by
  rw [maskHas, ← BitVec.msb_eq_getLsbD_last, BitVec.msb_eq_decide, decide_eq_true_iff]

theorem refuse_group {s : State} {r : FaultRec} {g : GroupId} {slices : BitVec 8} {grp : Group} (ho : r.owner = .group g slices)
    (hg : s.group? g = some grp) : s.refuse r = (s.unreserveFor g slices).trapWaiting g slices
      { kind := .xlate
        lanes := if 2 ^ 31 ≤ (grp.lead slices).waitWord.word.toNat then 0 else (grp.progressOf slices).left
        val := dwordOf ((dw r.dwords 1) % 2 ^ 48 : Nat) } := by
  simp only [State.refuse, ho, hg, refusedLanes, maskHas_top, FaultRec.addr, bits, pow_zero, Nat.div_one, dwordOf_natCast]

/-! ### An engine operation -/

theorem replay_engine {s : State} {r : FaultRec} {o : EngineOp} (ho : r.owner = .engine o.id)
    (hone : ∀ x ∈ s.ops, x.id = o.id → x = o) :
    s.replay r = { s with ops := s.ops.map fun x => if x = o then { o with parked := false } else x } := by
  simp only [State.replay, ho]
  congr 1
  refine List.map_congr_left fun x hx => ?_
  by_cases h : x.id = o.id
  · rw [hone x hx h, if_pos rfl, if_pos rfl]
  · rw [if_neg h, if_neg fun he => h (congrArg EngineOp.id he)]

theorem refuse_engine {s : State} {r : FaultRec} {o : EngineOp} (ho : r.owner = .engine o.id) (hin : o ∈ s.ops)
    (hone : ∀ x ∈ s.ops, x.id = o.id → x = o) (hk : o.kind ≠ .stow) : s.refuse r = s.finishOp o (dwordOf (2 ^ 62 + 2 * 2 ^ 56)) := by
  have hsome : (s.ops.find? fun x => x.id == o.id).isSome := List.find?_isSome.mpr ⟨o, hin, beq_self_eq_true _⟩
  obtain ⟨x, hx⟩ := Option.isSome_iff_exists.mp hsome
  have hxo : x = o := hone x (List.mem_of_find?_eq_some hx) (by simpa using List.find?_some hx)
  have hstatus : statusWord 1 2 0 0 = dwordOf (2 ^ 62 + 2 * 2 ^ 56) := statusWord_failed 2
  simp only [State.refuse, ho, hx, hxo, State.refuseOp, hstatus]

/-! ### A Pilot and its generator -/

theorem gresume_refused {s : State} {cl : ClusterId} {p : Pilot} (hp : (s.cluster cl).pilot = p) : s.gresume cl = s.setPilot cl { p with
    fault := none, accesses := p.accesses.map fun (a : PilotAccess) => if a.state = .faulted then { a with state := .again } else a } := by
  rw [State.gresume, hp]

/-- With no access refused, GRESUME only ends the fault. -/
theorem gresume_word {s : State} {cl : ClusterId} {p : Pilot} (hp : (s.cluster cl).pilot = p)
    (h : ∀ a ∈ p.accesses, a.state ≠ .faulted) : s.gresume cl = s.setPilot cl { p with fault := none } := by
  have hsame : (p.accesses.map fun (a : PilotAccess) => if a.state = .faulted then { a with state := .again } else a) = p.accesses :=
    (List.map_congr_left fun a ha => if_neg (h a ha)).trans (List.map_id' _)
  rw [gresume_refused hp, hsame]

theorem gskip_refused {s : State} {cl : ClusterId} {p : Pilot} (hp : (s.cluster cl).pilot = p) (h : ∃ a ∈ p.accesses, a.state = .faulted) :
    s.gskip cl = s.setPilot cl { p with fault := none, accesses := p.accesses.filter fun a => decide (a.state ≠ .faulted) } := by
  have hany : (p.accesses.any fun a => a.state == .faulted) = true := by simpa using h
  simp only [State.gskip, hp, hany, if_true]

theorem gskip_word {s : State} {cl : ClusterId} {p : Pilot} (hp : (s.cluster cl).pilot = p) (h : ∀ a ∈ p.accesses, a.state ≠ .faulted) :
    s.gskip cl = s.setPilot cl { p.advance (isLiteral (s.pilotFetch cl p.pc).word.toNat) with fault := none } := by
  have hany : (p.accesses.any fun a => a.state == .faulted) = false := by simpa using h
  simp only [State.gskip, hp, hany, Bool.false_eq_true, if_false]

/-- Settles O17: each command is a write of FBCMD, and its effect depends on what owns the record. -/
theorem faultAnswers : Obligations.FaultAnswers := by
  refine ⟨?_, ?_, ?_, ?_, ?_, ?group, ?engine, ?pilot⟩
  · exact faultCommandGives_of exec_replay fun _ _ => rfl
  · exact faultCommandGives_of exec_refuse fun _ _ => rfl
  · exact faultCommandGives_of exec_gresume fun _ _ => rfl
  · exact faultCommandGives_of exec_gskip fun _ _ => rfl
  · exact faultCommandGives_of exec_gcancel fun _ _ => rfl
  case group => exact fun s r g slices grp ho hg => ⟨replay_group ho hg, refuse_group ho hg⟩
  case engine => exact fun s r o ho hin hone => ⟨replay_engine ho hone, refuse_engine ho hin hone⟩
  case pilot =>
    intro s r cl p hp
    constructor
    · intro n ho
      simp only [State.replay, State.refuse, ho, State.answerPilot, hp, and_self]
    · intro ho
      refine ⟨fun h => ?_, fun h => ?_, ?_⟩
      · simp only [State.answer, ho, gresume_refused hp, gskip_refused hp h, and_self]
      · simp only [State.answer, ho, gresume_word hp h, gskip_word hp h, and_self]
      · simp only [State.answer, ho, hp]

end Sys2Proof.Machine
end

section
/-! PROOFS. The debugger's commands: a command with no target, and what each does to a group or a Pilot that is one (R349 to R353). -/

namespace Sys2Proof.Machine

open Sys2Proof

/-! ### Answers -/

theorem State.setDev_dbgAnswer (s : State) (ld : Fin 4) (d : Device) (r : Fin 4) :
    (s.setDev ld d).dbgAnswer ld r = s.setDev ld { d with dbgResult := r } := by
  rw [State.dbgAnswer, State.devices_setDev]
  simp only [State.setDev, Vector.set_set]

section Target

variable {s : State} {ld : Fin 4}

theorem onTarget_none (h : s.target ld = none) (f : State → GroupId → State) (p : State → ClusterId → State) :
    onTarget s ld f p = s.dbgAnswer ld dbgBadSel := by
  rw [onTarget, h]

theorem onTarget_group {g : GroupId} (h : s.target ld = some (.group g)) (f : State → GroupId → State) (p : State → ClusterId → State) :
    onTarget s ld f p = (f s g).dbgAnswer ld dbgOk := by
  rw [onTarget, h]
  rfl

theorem onTarget_pilot {cl : ClusterId} (h : s.target ld = some (.pilot cl)) (f : State → GroupId → State)
    (p : State → ClusterId → State) : onTarget s ld f p = (p s cl).dbgAnswer ld dbgOk := by
  rw [onTarget, h]
  rfl

theorem dbgStep_none (h : s.target ld = none) (req : DbgReq) : s.dbgStep ld req = s.dbgAnswer ld dbgBadSel := by
  rw [State.dbgStep, h]

theorem dbgAttach_none (h : s.target ld = none) (on : Bool) : s.dbgAttach ld on = s.dbgAnswer ld dbgBadSel := by
  rw [State.dbgAttach, h]

theorem dbgRead_none (h : s.target ld = none) : s.dbgRead ld = s.dbgAnswer ld dbgBadSel := by
  rw [State.dbgRead, h]

theorem dbgWrite_none (h : s.target ld = none) (force : Bool) : s.dbgWrite ld force = s.dbgAnswer ld dbgBadSel := by
  rw [State.dbgWrite, h]

end Target

/-- A command whose selection names nothing is BADSEL, and one of a function that is not presented has no effect. -/
theorem debug_badSel (s : State) (i : Instr)
    (hi : i ∈ [Instr.attach, .detach, .dbgStop, .dbgResume, .stepi, .stepr, .dbgRegrd, .dbgRegwr]) :
    (s.serves s.arg.ld = false → exec i s = .next s) ∧
    (s.serves s.arg.ld = true → s.target s.arg.ld = none →
      exec i s = .next (s.setDev s.arg.ld { s.devices[s.arg.ld] with dbgResult := 3 })) := by
  suffices h : ∃ f : State → State, exec i s = s.onDevice f ∧ (s.target s.arg.ld = none → f s = s.dbgAnswer s.arg.ld dbgBadSel) by
    obtain ⟨f, he, hf⟩ := h
    refine ⟨fun hs => he.trans (onDevice_of_not_serves hs f), fun hs ht => ?_⟩
    rw [he, onDevice_of_serves hs, hf ht]
    rfl
  simp only [List.mem_cons, List.not_mem_nil, or_false] at hi
  rcases hi with rfl | rfl | rfl | rfl | rfl | rfl | rfl | rfl
  · exact ⟨_, exec_attach s, fun h => dbgAttach_none h _⟩
  · exact ⟨_, exec_detach s, fun h => dbgAttach_none h _⟩
  · exact ⟨_, exec_dbgStop s, fun h => onTarget_none h _ _⟩
  · exact ⟨_, exec_dbgResume s, fun h => onTarget_none h _ _⟩
  · exact ⟨_, exec_stepi s, fun h => dbgStep_none h _⟩
  · exact ⟨_, exec_stepr s, fun h => dbgStep_none h _⟩
  · exact ⟨_, exec_dbgRegrd s, fun h => dbgRead_none h⟩
  · exact ⟨_, exec_dbgRegwr s, fun h => dbgWrite_none h _⟩

/-! ### ATTACH and DETACH -/

theorem dbgAttach_some {s : State} {ld : Fin 4} {t : Target} (h : s.target ld = some t) (on : Bool) :
    let asn : Asn := BitVec.ofNat 12 (s.devices[ld].dbgSel.toNat / 2 ^ 32)
    s.dbgAttach ld on = (s.setCtx ld asn { s.ctx ld asn with attached := on }).setDev ld { s.devices[ld] with dbgResult := 0 } := by
  intro asn
  have hasn : s.devices[ld].dbgAsn = asn := ofNat_bits _ 32 12
  rw [State.dbgAttach, h, hasn]
  rfl

/-! ### A group stops -/

section Stop

variable {s : State} {g : GroupId} {grp : Group}

/-- A slice as a stop leaves it: told to stop where it holds the issue slot, or in a joint operation under way; else stopped. -/
def Slice.halted (sl : Slice) (busy : Bool) : Slice :=
  if sl.exited = true ∨ sl.why ≠ 0 then sl
  else if busy then { sl with dbg := .stop }
  else { sl with why := 1, dbg := .none }

/-- A group whose running slices have been told to stop. -/
def Group.asked (grp : Group) : Group := grp.mapSlices grp.present fun sl => if sl.why = 0 then { sl with dbg := .stop } else sl

/-- A slice that has been told to stop, unless it has exited or stands stopped. -/
def Slice.asked (sl : Slice) : Slice := if sl.exited = true ∨ sl.why ≠ 0 then sl else { sl with dbg := .stop }

/-- A stop that leaves a slice's reason as the request did leaves the slice as the request did. -/
theorem Slice.halted_of_same_why {sl : Slice} {busy : Bool} (h : (sl.halted busy).why = sl.asked.why) : sl.halted busy = sl.asked := by
  by_cases hoff : sl.exited = true ∨ sl.why ≠ 0
  · rw [Slice.halted, Slice.asked, if_pos hoff, if_pos hoff]
  · have hrun : sl.why = 0 := not_not.mp fun hwhy => hoff (.inr hwhy)
    simp only [Slice.halted, Slice.asked, hoff, if_false] at h ⊢
    cases busy
    · exact absurd (h.trans hrun) (show (1 : Fin 8) ≠ 0 by decide)
    · rfl

theorem Group.asked_get (grp : Group) (i : Fin 8) : grp.asked.slices[i] = grp.slices[i].asked := by
  rw [Group.asked, Group.mapSlices_get, Group.maskHas_present, Slice.asked]
  generalize grp.slices[i] = sl
  by_cases hexit : sl.exited = true <;> by_cases hwhy : sl.why = 0 <;> simp [hexit, hwhy]

/-- What the boundary makes of a slice that has been told to stop. -/
theorem Group.asked_boundary (grp : Group) (i : Fin 8) (busy joint : Bool) :
    (if busy then grp.asked.slices[i] else grp.asked.slices[i].boundary joint) =
      grp.slices[i].halted (busy || (joint && grp.slices[i].wait == .latch)) := by
  rw [Group.asked_get]
  generalize grp.slices[i] = sl
  by_cases hoff : sl.exited = true ∨ sl.why ≠ 0
  · have hstay : sl.boundary joint = sl := if_pos hoff
    simp only [Slice.asked, hoff, if_true, hstay, ite_self, Slice.halted]
  · have hstop : ({ sl with dbg := .stop } : Slice).boundary joint =
        if sl.wait = .latch ∧ joint = true then { sl with dbg := .stop } else { sl with why := 1, dbg := .none } := if_neg hoff
    simp only [Slice.asked, hoff, if_false, hstop, Slice.halted]
    cases busy <;> cases joint <;> by_cases hw : sl.wait = .latch <;> simp [hw]

/-- The group after DBG_STOP. -/
def State.haltedGroup (s : State) (g : GroupId) (grp : Group) : Group :=
  { grp with slices := Vector.ofFn fun (i : Fin 8) =>
      grp.slices[i].halted (maskHas (s.running g) i.val || (s.jointBegun g && grp.slices[i].wait == .latch)) }

theorem State.atBoundary_asked (s : State) (g : GroupId) (grp : Group) : s.atBoundary g grp.asked = s.haltedGroup g grp :=
  congrArg (fun v => { grp with slices := v }) (congrArg Vector.ofFn (funext fun i => grp.asked_boundary i _ _))

theorem State.haltedGroup_get (s : State) (g : GroupId) (grp : Group) (i : Fin 8) : (s.haltedGroup g grp).slices[i] =
    grp.slices[i].halted (maskHas (s.running g) i.val || (s.jointBegun g && grp.slices[i].wait == .latch)) :=
  Vector.getElem_ofFn i.isLt

/-- With no slice that stops now, all that stand told to stop do so already. -/
theorem State.haltedGroup_of_same (h : ∀ i : Fin 8, (s.haltedGroup g grp).slices[i].why = grp.asked.slices[i].why) :
    s.haltedGroup g grp = grp.asked := by
  refine congrArg (fun v => { grp with slices := v }) (Vector.ext fun i hi => ?_)
  have hget := s.haltedGroup_get g grp ⟨i, hi⟩
  have hask := grp.asked_get ⟨i, hi⟩
  have hwhy := h ⟨i, hi⟩
  rw [hget, hask] at hwhy
  refine hget.trans (Eq.trans ?_ hask.symm)
  exact Slice.halted_of_same_why hwhy

theorem arriveGroup_none (hg : s.group? g = some grp) (hf : grp.inflight = []) : s.arriveGroup g = s.setGroup g grp := by
  have hall : grp.arriveAll s.fresh = grp := by
    rw [Group.arriveAll, hf]
    exact congrArg (fun l => { grp with inflight := l }) hf.symm
  rw [State.arriveGroup, hg]
  simp only [hf, List.foldl_nil, hall]

theorem stopSeq_none (h : ∀ w ∈ (s.cluster (clusterOf g)).seqs[coreIndex (coreOf g)], w.g ≠ g) : s.stopSeq g = s := by
  have hfind : ((s.cluster (clusterOf g)).seqs[coreIndex (coreOf g)].find? fun w => w.g == g && !w.stopped) = none :=
    List.find?_eq_none.mpr fun w hw => by simp [h w hw]
  rw [State.stopSeq, hfind]

theorem stopGroup_quiet (hg : s.group? g = some grp) (hf : grp.inflight = [])
    (hq : ∀ w ∈ (s.cluster (clusterOf g)).seqs[coreIndex (coreOf g)], w.g ≠ g) :
    s.stopGroup g = s.setGroup g (s.haltedGroup g grp) := by
  have hasked : (s.setGroup g grp.asked).atBoundary g grp.asked = s.haltedGroup g grp := s.atBoundary_asked g grp
  have harrive : (s.setGroup g grp.asked).arriveGroup g = s.setGroup g grp.asked := by
    rw [arriveGroup_none (State.group?_setGroup s g grp.asked) hf, State.setGroup_setGroup]
  have hseq : (s.setGroup g grp.asked).stopSeq g = s.setGroup g grp.asked := stopSeq_none hq
  have hstep : s.stopGroup g = (s.setGroup g grp.asked).settleGroup g := by rw [State.stopGroup, hg]; rfl
  simp only [hstep, State.settleGroup, State.group?_setGroup, hseq, ite_self, harrive, hasked, State.setGroup_setGroup]
  split
  · rfl
  next h =>
    simp only [List.any_eq_true, not_exists, not_and, bne_iff_ne, ne_eq, not_not] at h
    rw [State.haltedGroup_of_same fun i => h i (List.mem_finRange i)]

end Stop

/-! ### Stepping a group -/

theorem Group.stopped_iff {grp : Group} {m : BitVec 8} :
    grp.stopped m = true ↔ ∀ i : Fin 8, maskHas m i.val = true → grp.slices[i].exited = true ∨ grp.slices[i].why ≠ 0 := by
  simp only [Group.stopped, List.all_eq_true, List.mem_finRange, true_imp_iff, Bool.or_eq_true, Bool.not_eq_true', bne_iff_ne, or_assoc]
  exact forall_congr' fun i => by cases maskHas m i.val <;> simp

section Step

variable {s : State} {ld : Fin 4} {g : GroupId} {grp : Group} (ht : s.target ld = some (.group g)) (hg : s.group? g = some grp)

include ht hg

theorem dbgStep_ready {m : BitVec 8} (hm : s.devices[ld].dbgSlices = m) (h0 : m &&& grp.present ≠ 0) (hs : grp.stopped m = true)
    (req : DbgReq) : s.dbgStep ld req =
      ((s.setGroup g (grp.mapSlices (m &&& grp.present) fun sl => sl.step req)).resumeSeq g).dbgAnswer ld dbgOk := by
  have h0' : (m &&& grp.present != 0) = true := bne_iff_ne.mpr h0
  simp only [State.dbgStep, ht, State.targets, hm, List.all_cons, List.all_nil, hg, Option.any_some, h0', hs, Bool.and_true, if_true,
    List.foldl_cons, List.foldl_nil, State.stepGroup]

theorem dbgStep_unready {m : BitVec 8} (hm : s.devices[ld].dbgSlices = m) (h : ¬ (m &&& grp.present ≠ 0 ∧ grp.stopped m = true))
    (req : DbgReq) : s.dbgStep ld req = s.dbgAnswer ld dbgNotStopped := by
  have h' : (m &&& grp.present != 0 && grp.stopped m) = false := by
    rw [← Bool.not_eq_true, Bool.and_eq_true, bne_iff_ne]
    exact h
  simp only [State.dbgStep, ht, State.targets, hm, List.all_cons, List.all_nil, hg, Option.any_some, h', Bool.and_true,
    Bool.false_eq_true, if_false]

end Step

/-! ### Registers of a stopped group -/

section Regs

variable {s : State} {ld : Fin 4} {g : GroupId} {grp : Group}

theorem dbgName_eq (d : Device) : d.dbgName =
    (d.dbgReg.toNat / 2 ^ 12 % 2 ^ 4, d.dbgReg.toNat % 2 ^ 12, Fin.ofNat 32 (d.dbgReg.toNat / 2 ^ 16 % 2 ^ 5)) := by
  simp only [Device.dbgName, bits, pow_zero, Nat.div_one]

theorem dbgRead_running (ht : s.target ld = some (.group g)) (hg : s.group? g = some grp) (hs : grp.stopped grp.present = false) :
    s.dbgRead ld = s.dbgAnswer ld dbgNotStopped := by
  simp only [State.dbgRead, ht, hg, hs, Bool.not_false, if_true]

theorem dbgWrite_running (ht : s.target ld = some (.group g)) (hg : s.group? g = some grp) (hs : grp.stopped grp.present = false)
    (force : Bool) : s.dbgWrite ld force = s.dbgAnswer ld dbgNotStopped := by
  simp only [State.dbgWrite, ht, hg, hs, Bool.not_false, if_true]

variable {cls n : Nat} {lane : Fin 32} (ht : s.target ld = some (.group g)) (hg : s.group? g = some grp)
  (hs : grp.stopped grp.present = true) (hn : s.devices[ld].dbgName = (cls, n, lane))

include ht hg hs hn

/-- A register read goes to DBGDATA. -/
theorem dbgRead_gives {x : DWord} (hr : s.readReg g grp cls n lane = some x) :
    s.dbgRead ld = s.setDev ld { s.devices[ld] with dbgData := x, dbgResult := 0 } := by
  simp only [State.dbgRead, hn, ht, hg, hs, Bool.not_true, Bool.false_eq_true, if_false, hr, Option.some_or, State.dbgGive,
    State.setDev_dbgAnswer, dbgOk]

/-- A register that nothing will still write takes DBGDATA. -/
theorem dbgWrite_takes {grp' : Group} (hp : ∀ k, pendingKey grp cls n lane = some k → k ∉ grp.pending)
    (hw : s.writeReg g grp cls n lane s.devices[ld].dbgData = some (s.setGroup g grp')) (force : Bool) :
    s.dbgWrite ld force = (s.setGroup g grp').setDev ld { s.devices[ld] with dbgResult := 0 } := by
  have hfree : (pendingKey grp cls n lane).filter grp.pending.contains = none := by
    rw [Option.filter_eq_none_iff]
    intro k hk
    simpa using hp k hk
  simp only [State.dbgWrite, hn, ht, hg, hs, Bool.not_true, Bool.false_eq_true, if_false, hfree, hw]
  rfl

theorem dbgWrite_busy {k : Nat} (hk : pendingKey grp cls n lane = some k) (hp : k ∈ grp.pending) :
    s.dbgWrite ld false = s.setDev ld { s.devices[ld] with dbgResult := 1 } := by
  have hkept : (pendingKey grp cls n lane).filter grp.pending.contains = some k := by
    rw [hk, Option.filter_some, if_pos (List.contains_iff_mem.mpr hp)]
  simp only [State.dbgWrite, hn, ht, hg, hs, Bool.not_true, Bool.false_eq_true, if_false, hkept, Bool.not_false, if_true]
  rfl

end Regs

/-! ### The commands of a group -/

/-- A command of the debugger on a function that is presented. -/
theorem exec_command {i : Instr} {s : State} {f : State → State} {t : State} (he : exec i s = s.onDevice f)
    (hs : s.serves s.arg.ld = true) (hf : f s = t) : exec i s = .next t := by
  rw [he, onDevice_of_serves hs, hf]

/-- The group after DBG_STOP, as the statement spells it. -/
theorem State.haltedGroup_eq (s : State) (g : GroupId) (grp : Group) : s.haltedGroup g grp = { grp with
    slices := Vector.ofFn fun (i : Fin 8) =>
      let sl := grp.slices[i]
      if sl.exited = true ∨ sl.why ≠ 0 then sl
      else if maskHas (s.running g) i.val = true ∨ (s.jointBegun g = true ∧ sl.wait = .latch) then { sl with dbg := .stop }
      else { sl with why := 1, dbg := .none } } := by
  simp only [State.haltedGroup, Slice.halted, Bool.or_eq_true, Bool.and_eq_true, beq_iff_eq]

/-- The slices that a step names, as the statement spells them. -/
theorem dbgSlices_eq (d : Device) : d.dbgSlices =
    if (BitVec.ofNat 8 (d.dbgSel.toNat / 2 ^ 8) : BitVec 8) = 0 then 0xFF else BitVec.ofNat 8 (d.dbgSel.toNat / 2 ^ 8) := by
  rw [Device.dbgSlices, ofNat_bits]

theorem debug_group (s : State) (g : GroupId) (grp : Group) :
    let ld := s.arg.ld
    let d := s.devices[ld]
    let ok := fun (t : State) => t.setDev ld { t.devices[ld] with dbgResult := 0 }
    let byte : BitVec 8 := BitVec.ofNat 8 (d.dbgSel.toNat / 2 ^ 8)
    let named := if byte = 0 then 0xFF else byte
    let ready := named &&& grp.present ≠ 0 ∧ ∀ i : Fin 8, maskHas named i.val = true → grp.slices[i].exited = true ∨ grp.slices[i].why ≠ 0
    s.serves ld = true → s.target ld = some (.group g) → s.group? g = some grp →
    (grp.inflight = [] → (∀ w ∈ (s.cluster (clusterOf g)).seqs[coreIndex (coreOf g)], w.g ≠ g) →
      exec .dbgStop s = .next (ok (s.setGroup g { grp with
        slices := Vector.ofFn fun (i : Fin 8) =>
          let sl := grp.slices[i]
          if sl.exited = true ∨ sl.why ≠ 0 then sl
          else if maskHas (s.running g) i.val = true ∨ (s.jointBegun g = true ∧ sl.wait = .latch) then { sl with dbg := .stop }
          else { sl with why := 1, dbg := .none } }))) ∧
    exec .dbgResume s = .next (ok (s.resumeGroup g)) ∧
    (ready →
      exec .stepi s = .next (ok ((s.setGroup g (grp.mapSlices (named &&& grp.present) fun sl => sl.step .stepI)).resumeSeq g)) ∧
      exec .stepr s = .next (ok ((s.setGroup g (grp.mapSlices (named &&& grp.present) fun sl => sl.step .stepR)).resumeSeq g))) ∧
    (¬ ready →
      exec .stepi s = .next (s.setDev ld { d with dbgResult := 2 }) ∧ exec .stepr s = .next (s.setDev ld { d with dbgResult := 2 })) ∧
    (grp.stopped grp.present = false →
      exec .dbgRegrd s = .next (s.setDev ld { d with dbgResult := 2 }) ∧ exec .dbgRegwr s = .next (s.setDev ld { d with dbgResult := 2 })) := by
  intro ld d ok byte named ready hs ht hg
  have hnamed : d.dbgSlices = named := dbgSlices_eq d
  refine ⟨fun hf hq => ?stop, ?resume, fun ⟨h0, hall⟩ => ?steps, fun hnot => ?refuses, fun hrun => ?regs⟩
  case stop =>
    refine exec_command (exec_dbgStop s) hs ((onTarget_group ht _ _).trans ?_)
    rw [stopGroup_quiet hg hf hq, State.haltedGroup_eq]
    rfl
  case resume => exact exec_command (exec_dbgResume s) hs (onTarget_group ht _ _)
  case steps =>
    have hstop := Group.stopped_iff.mpr hall
    exact ⟨exec_command (exec_stepi s) hs (dbgStep_ready ht hg hnamed h0 hstop .stepI),
      exec_command (exec_stepr s) hs (dbgStep_ready ht hg hnamed h0 hstop .stepR)⟩
  case refuses =>
    have hnot' := fun (h : named &&& grp.present ≠ 0 ∧ grp.stopped named = true) => hnot ⟨h.1, Group.stopped_iff.mp h.2⟩
    exact ⟨exec_command (exec_stepi s) hs (dbgStep_unready ht hg hnamed hnot' .stepI),
      exec_command (exec_stepr s) hs (dbgStep_unready ht hg hnamed hnot' .stepR)⟩
  case regs =>
    exact ⟨exec_command (exec_dbgRegrd s) hs (dbgRead_running ht hg hrun),
      exec_command (exec_dbgRegwr s) hs (dbgWrite_running ht hg hrun _)⟩

/-! ### The registers of a stopped group -/

section Names

variable {s : State} {g : GroupId} {grp : Group} {lane : Fin 32}

theorem readReg_lane {n : Nat} (h : n < 64) : s.readReg g grp 0 n lane =
    some ((laneReg grp.v (grp.placeFor n lane))[lane].zeroExtend 64) := if_pos ⟨rfl, h⟩

theorem writeReg_lane {n : Nat} (h : n < 64) (x : DWord) : s.writeReg g grp 0 n lane x = some (s.setGroup g (grp.writeV (grp.placeFor n lane)
    (BitVec.ofNat 32 (2 ^ lane.val)) (Vector.replicate 32 (BitVec.ofNat 32 x.toNat)))) := if_pos ⟨rfl, h⟩

theorem readReg_uniform (r : Fin 64) : s.readReg g grp 1 r.val lane = some (grp.u.get r) := by
  simp [State.readReg]

theorem writeReg_uniform (r : Fin 64) (x : DWord) : s.writeReg g grp 1 r.val lane x = some (s.setGroup g (grp.writeS r x)) := by
  simp [State.writeReg]

/-- A bit as a dword. -/
theorem ofNat_bitNat (b : Bool) : BitVec.ofNat 64 (bitNat b) = if b then (1 : DWord) else 0 := by
  cases b <;> rfl

theorem readReg_pred (k : Fin 8) : s.readReg g grp 2 k.val lane = some (if maskHas (grp.pred k) lane.val then (1 : DWord) else 0) := by
  simp [State.readReg, ofNat_bitNat]

theorem bit_zero (x : DWord) : bit x.toNat 0 = x.getLsbD 0 := by
  simp [bit, BitVec.getLsbD, Nat.testBit_zero]

theorem writeReg_pred (k : Fin 8) (x : DWord) : s.writeReg g grp 2 k.val lane x =
    some (s.setGroup g (grp.setPred k (BitVec.ofNat 32 (2 ^ lane.val)) (if x.getLsbD 0 then BitVec.allOnes 32 else 0))) := by
  simp [State.writeReg, bit_zero]

theorem readReg_cond (k : Fin 8) : s.readReg g grp 3 k.val lane = some (if grp.u.cond k then (1 : DWord) else 0) := by
  simp [State.readReg, ofNat_bitNat]

theorem writeReg_cond (k : Fin 8) (x : DWord) : s.writeReg g grp 3 k.val lane x =
    some (s.setGroup g { grp with u := grp.u.setCond k (x.getLsbD 0) }) := by
  simp [State.writeReg, bit_zero]

end Names

theorem debug_registers (s : State) (g : GroupId) (grp : Group) :
    let ld := s.arg.ld
    let d := s.devices[ld]
    let x := d.dbgReg.toNat
    let cls := x / 2 ^ 12 % 2 ^ 4
    let n := x % 2 ^ 12
    let lane : Fin 32 := Fin.ofNat 32 (x / 2 ^ 16 % 2 ^ 5)
    let place := vIndex (grp.slices[(⟨lane.val / 4, by omega⟩ : Fin 8)]).loops.length n
    let gives := fun (v : DWord) => exec .dbgRegrd s = .next (s.setDev ld { d with dbgData := v, dbgResult := 0 })
    let takes := fun (grp' : Group) => exec .dbgRegwr s = .next ((s.setGroup g grp').setDev ld { d with dbgResult := 0 })
    let flag := fun (b : Bool) => if b then (1 : DWord) else 0
    let low := d.dbgData.getLsbD 0
    s.serves ld = true → s.target ld = some (.group g) → s.group? g = some grp → grp.stopped grp.present = true →
    (cls = 0 → n < 64 → place < 96 → gives ((laneReg grp.v place)[lane].zeroExtend 64) ∧
      (place ∉ grp.pending →
        takes (grp.writeV place (BitVec.ofNat 32 (2 ^ lane.val)) (Vector.replicate 32 (BitVec.ofNat 32 d.dbgData.toNat)))) ∧
      (place ∈ grp.pending → s.arg.flag = false → exec .dbgRegwr s = .next (s.setDev ld { d with dbgResult := 1 }))) ∧
    (∀ r : Fin 64, cls = 1 → n = r.val → gives (grp.u.get r) ∧ (96 + n ∉ grp.pending → takes (grp.writeS r d.dbgData))) ∧
    (∀ k : Fin 8, cls = 2 → n = k.val → gives (flag (maskHas (grp.pred k) lane.val)) ∧
      takes (grp.setPred k (BitVec.ofNat 32 (2 ^ lane.val)) (if low then BitVec.allOnes 32 else 0))) ∧
    (∀ k : Fin 8, cls = 3 → n = k.val → gives (flag (grp.u.cond k)) ∧ takes { grp with u := grp.u.setCond k low }) := by
  intro ld d x cls n lane place gives takes flag low hs ht hg hstop
  have hname : d.dbgName = (cls, n, lane) := dbgName_eq d
  have hread {v : DWord} (hr : s.readReg g grp cls n lane = some v) : gives v :=
    exec_command (exec_dbgRegrd s) hs (dbgRead_gives ht hg hstop hname hr)
  have hwrite {grp' : Group} (hp : ∀ k, pendingKey grp cls n lane = some k → k ∉ grp.pending)
      (hw : s.writeReg g grp cls n lane d.dbgData = some (s.setGroup g grp')) : takes grp' :=
    exec_command (exec_dbgRegwr s) hs (dbgWrite_takes ht hg hstop hname hp hw _)
  refine ⟨fun hcls hn _ => ⟨?_, fun hp => ?_, fun hp hforce => ?_⟩, fun r hcls hn => ⟨?_, fun hp => ?_⟩, fun k hcls hn => ⟨?_, ?_⟩,
    fun k hcls hn => ⟨?_, ?_⟩⟩
  · exact hread (by rw [hcls]; exact readReg_lane hn)
  · refine hwrite (fun k hk => ?_) (by rw [hcls]; exact writeReg_lane hn _)
    rw [pendingKey, if_pos hcls, Option.some.injEq] at hk
    exact hk ▸ hp
  · have hkey : pendingKey grp cls n lane = some place := if_pos hcls
    refine exec_command (exec_dbgRegwr s) hs ?_
    rw [hforce]
    exact dbgWrite_busy ht hg hstop hname hkey hp
  · exact hread (by rw [hcls, hn]; exact readReg_uniform r)
  · refine hwrite (fun k hk => ?_) (by rw [hcls, hn]; exact writeReg_uniform r _)
    rw [pendingKey, hcls, if_neg (by decide), if_pos rfl, Option.some.injEq] at hk
    exact hk ▸ hp
  · exact hread (by rw [hcls, hn]; exact readReg_pred k)
  · refine hwrite (fun j hj => ?_) (by rw [hcls, hn]; exact writeReg_pred k _)
    rw [pendingKey, hcls, if_neg (by decide), if_neg (by decide)] at hj
    exact absurd hj (by simp)
  · exact hread (by rw [hcls, hn]; exact readReg_cond k)
  · refine hwrite (fun j hj => ?_) (by rw [hcls, hn]; exact writeReg_cond k _)
    rw [pendingKey, hcls, if_neg (by decide), if_neg (by decide)] at hj
    exact absurd hj (by simp)

/-! ### A Pilot -/

theorem dbgStep_pilot {s : State} {ld : Fin 4} {cl : ClusterId} (ht : s.target ld = some (.pilot cl)) (hw : (s.cluster cl).pilot.why ≠ 0)
    (req : DbgReq) : s.dbgStep ld req = (s.resumePilot cl req).dbgAnswer ld dbgOk := by
  have hw' : ((s.cluster cl).pilot.why != 0) = true := bne_iff_ne.mpr hw
  simp only [State.dbgStep, ht, State.targets, List.all_cons, List.all_nil, hw', Bool.and_true, if_true, List.foldl_cons, List.foldl_nil]

theorem stopPilotAt_running {s : State} {cl : ClusterId} {p : Pilot} (hp : (s.cluster cl).pilot = p) (hw : p.why = 0) :
    s.stopPilotAt cl = s.setPilot cl { p.arriveAll s.fresh with why := 1, dbg := .none } := by
  rw [State.stopPilotAt, hp, if_pos hw]

theorem debug_pilot (s : State) (cl : ClusterId) (p : Pilot) :
    let ld := s.arg.ld
    let ok := fun (t : State) => t.setDev ld { t.devices[ld] with dbgResult := 0 }
    s.serves ld = true → s.target ld = some (.pilot cl) → (s.cluster cl).pilot = p →
    (p.why = 0 → exec .dbgStop s = .next (ok (s.setPilot cl { p.arriveAll s.fresh with why := 1, dbg := .none }))) ∧
    exec .dbgResume s = .next (ok (s.setPilot cl { p with why := 0, dbg := .none })) ∧
    (p.why ≠ 0 → exec .stepi s = .next (ok (s.setPilot cl { p with why := 0, dbg := .stepI })) ∧
      exec .stepr s = .next (ok (s.setPilot cl { p with why := 0, dbg := .stepR }))) := by
  intro ld ok hs ht hp
  have hgo (req : DbgReq) : s.resumePilot cl req = s.setPilot cl { p with why := 0, dbg := req } := by rw [State.resumePilot, hp]
  refine ⟨fun hw => ?_, ?_, fun hw => ⟨?_, ?_⟩⟩
  · refine exec_command (exec_dbgStop s) hs ((onTarget_pilot ht _ _).trans ?_)
    rw [stopPilotAt_running hp hw]
    rfl
  · refine exec_command (exec_dbgResume s) hs ((onTarget_pilot ht _ _).trans ?_)
    rw [hgo]
    rfl
  · refine exec_command (exec_stepi s) hs ((dbgStep_pilot ht (hp ▸ hw) _).trans ?_)
    rw [hgo]
    rfl
  · refine exec_command (exec_stepr s) hs ((dbgStep_pilot ht (hp ▸ hw) _).trans ?_)
    rw [hgo]
    rfl

/-- Settles O18: a command acts on what the selection names, a group or a Pilot, and answers BADSEL when that is nothing. -/
theorem debugCommands : Obligations.DebugCommands := by
  refine ⟨debug_badSel, fun s t hs ht => ?attach, debug_group, debug_registers, debug_pilot⟩
  exact ⟨exec_command (exec_attach s) hs (dbgAttach_some ht true), exec_command (exec_detach s) hs (dbgAttach_some ht false)⟩

end Sys2Proof.Machine
end

section
/-! PROOFS. PRD in the recovery service: every system register but those it serves reads as zero (R432). -/

namespace Sys2Proof.Machine

open Sys2Proof

/-- The group of the placed program in its handler, with the number of PLIMIT in s8. -/
def limitReader : Group :=
  let grp := placedGroup (placedLaunch 1) (placedTeam 2 1) 0
  { grp with u := grp.u.set 8 0x3C4, trap := { grp.trap with inh := true, slices := 0xFF } }

/-- Its word issues while the part is in the recovery service. -/
def recoveringState : State :=
  let s : State := { State.reset.withGroupWord [] with cur := some (.gang 0 0xFF) }
  { s.setGroup 0 limitReader with pack := { s.pack with stage := .recovery } }

theorem recovering_issues : Issues recoveringState 0 0xFF limitReader := ⟨rfl, rfl⟩

theorem recovering_ready : recoveringState.uniformReady [8] [9] :=
  .inl ⟨0, 0xFF, limitReader, recovering_issues, .inl (by decide), rfl, by decide, by decide⟩

/-- The uniform register s9 of the group in slot 0 after an outcome. -/
def ninthAfter (r : Host.Outcome State Fault Refusal) : Option Nat :=
  match r with
  | .next t => (t.group? 0).map fun grp => (grp.u.get 9).toNat
  | .fault _ | .refused _ => none

/-- PRD s9 of PLIMIT gives 0, where PLIMIT holds 2200. -/
theorem recovering_reads_zero : ninthAfter (exec (.prd ⟨9, 8⟩) recoveringState) = some 0 := by decide

theorem recovering_limit : ninthAfter (.next (recoveringState.writeUniform 9 (recoveringState.pack.plimit.zeroExtend 64)).advance) = some 2200 := by
  decide

theorem not_systemRegisterReads : ¬ SystemRegisterReads := by
  rintro ⟨_, _, _, _, _, _, _, _, _, _, _, _, _, _, _, _, _, _, _, _, _, _, _, _, _, _, _, _, hlimit⟩
  have hprd := hlimit ⟨9, 8⟩ recoveringState 0 0xFF limitReader recovering_issues rfl (by decide) recovering_ready (by decide)
  have hzero := recovering_reads_zero
  rw [hprd, recovering_limit] at hzero
  exact absurd hzero (by decide)

/-- Refutes O58: SystemRegisterReads does not ask that the part is out of the recovery service, in which every system register but those that
it serves reads as zero (R432). PRD of PLIMIT then gives 0, and PLIMIT holds its 2200 of reset. -/
theorem not_privilegedWords : ¬ Obligations.PrivilegedWords := by
  rintro ⟨hreads, _⟩
  exact not_systemRegisterReads hreads

end Sys2Proof.Machine
end

section
/-! PROOFS. Rings, logical queues, completion records and the coalescers (R380 to R399). -/

namespace Sys2Proof.Machine

open Sys2Proof

/-! ### Rings and queues of a device after a change of the state -/

section Access

variable {s : State} {ld : Fin 4}

@[simp] theorem State.ring_setRing (r : Nat) (x : Ring) : (s.setRing ld r x).ring ld r = some x := by
  rw [State.ring, State.setRing, State.devices_setDev, getBy_putBy_self]

@[simp] theorem State.ring_setQueue (q : Fin 32) (x : LQueue) (r : Nat) : (s.setQueue ld q x).ring ld r = s.ring ld r := by
  rw [State.ring, State.setQueue, State.devices_setDev]
  rfl

@[simp] theorem State.ring_hostWrite (addr : Nat) (bs : List Byte) (r : Nat) : (s.hostWrite addr bs).ring ld r = s.ring ld r := rfl

@[simp] theorem State.ring_pushRecord (q : Fin 32) (d : List DWord) (r : Nat) : (s.pushRecord ld q d).ring ld r = s.ring ld r := by
  rw [State.pushRecord, State.ring_setQueue]

@[simp] theorem State.ring_writeRing (r : Nat) (x : Ring) : (s.writeRing ld r x).ring ld r = some x := by
  rw [State.writeRing, State.ring_hostWrite, State.ring_setRing]

@[simp] theorem State.queue_setQueue (q : Fin 32) (x : LQueue) : (s.setQueue ld q x).queue ld q = x := by
  rw [State.queue, State.setQueue, State.devices_setDev, getBy_putBy_self, Option.getD_some]

@[simp] theorem State.queue_hostWrite (addr : Nat) (bs : List Byte) (q : Fin 32) : (s.hostWrite addr bs).queue ld q = s.queue ld q := rfl

end Access

/-! ### RLOAD -/

/-- A ring's entry is sound (R380). -/
def ringSound (d0 d1 d2 d3 : DWord) : Prop :=
  d0.toNat / 2 ^ 37 % 2 ^ 26 = 0 ∧ 2 ≤ d0.toNat % 2 ^ 32 ∧ d0.toNat % 2 ^ 32 ≤ 2 ^ 24 ∧ d1.toNat % 2 ^ 6 = 0 ∧ d2.toNat < 2 ^ 48 ∧
    d3.toNat < 2 ^ 48

theorem ringEntryOk_iff (d0 d1 d2 d3 : DWord) : ringEntryOk [d0, d1, d2, d3] = true ↔ ringSound d0 d1 d2 d3 := by
  have htop2 := bits_top_beq_zero [d0, d1, d2, d3] 2 (i := 48) (n := 16) rfl
  have htop3 := bits_top_beq_zero [d0, d1, d2, d3] 3 (i := 48) (n := 16) rfl
  simp only [ringEntryOk, htop2, htop3, bits_low, Bool.and_eq_true, decide_eq_true_iff, ringSound, and_assoc]
  simp only [bits, beq_iff_eq, dw, List.getD_cons_zero, List.getD_cons_succ]

theorem bit_top (x : DWord) : bit x.toNat 63 = decide (2 ^ 63 ≤ x.toNat) := by
  have hmsb : x.toNat.testBit 63 = x.msb := (BitVec.msb_eq_getLsbD_last x).symm
  rw [bit, hmsb, BitVec.msb_eq_decide]

/-- A ring as an entry gives it. -/
def ringOfEntry (d0 d1 : DWord) : Ring :=
  { en := decide (2 ^ 63 ≤ d0.toNat), queue := Fin.ofNat 32 (d0.toNat / 2 ^ 32 % 2 ^ 5), segUnits := d0.toNat % 2 ^ 32
    segBase := d1.toNat / 2 ^ 6 * 2 ^ 6, rpos := 0, segStart := 0, wpos := 0, barrier := false }

/-- The bits of a dword from the sixth up. -/
theorem bits_from_six (x : DWord) : bits x.toNat 6 58 * 64 = x.toNat / 2 ^ 6 * 2 ^ 6 := by
  have hlt : x.toNat / 2 ^ 6 < 2 ^ 58 := by have := x.isLt; omega
  exact congrArg (· * 2 ^ 6) (Nat.mod_eq_of_lt hlt)

theorem loadRing_eq (old : Option Ring) (d0 d1 d2 d3 : DWord) : loadRing old [d0, d1, d2, d3] =
    match old with
    | some o =>
      if o.en then { ringOfEntry d0 d1 with
        rpos := o.rpos, wpos := o.wpos
        segStart := if o.segBase = d1.toNat / 2 ^ 6 * 2 ^ 6 ∧ o.segUnits = d0.toNat % 2 ^ 32 then o.segStart else o.rpos }
      else ringOfEntry d0 d1
    | none => ringOfEntry d0 d1 := by
  simp only [loadRing, dw, List.getD_cons_zero, List.getD_cons_succ, bits_from_six, bit_top, bits_low, ringOfEntry]
  cases old <;> rfl

theorem rload_takes {s : State} {ld : Fin 4} {r : Fin 128} {d0 d1 d2 d3 : DWord}
    (hd : dwordsOf (s.hostRead (s.ringEntry ld r.val) 32) = [d0, d1, d2, d3]) (hs : ringSound d0 d1 d2 d3)
    (hold : ∀ o, s.ring ld r.val = some o → o.wpos ≤ o.rpos) :
    s.rload ld r = s.writeRing ld r.val (loadRing (s.ring ld r.val) [d0, d1, d2, d3]) := by
  have hd' : s.hostDwords (s.ringEntry ld r.val) 4 = [d0, d1, d2, d3] := hd
  have hleft : ((s.ring ld r.val).any fun o => decide (o.rpos < o.wpos)) = false := by
    rw [Option.any_eq_false]
    intro o ho
    simpa using hold o ho
  rw [State.rload, hd', (ringEntryOk_iff ..).mpr hs, hleft]
  rfl

theorem rload_refuses {s : State} {ld : Fin 4} {r : Fin 128} {d0 d1 d2 d3 : DWord}
    (hd : dwordsOf (s.hostRead (s.ringEntry ld r.val) 32) = [d0, d1, d2, d3])
    (h : ¬ ringSound d0 d1 d2 d3 ∨ ∃ o, s.ring ld r.val = some o ∧ o.rpos < o.wpos) : s.rload ld r = s.badCmd ld := by
  have hd' : s.hostDwords (s.ringEntry ld r.val) 4 = [d0, d1, d2, d3] := hd
  rw [State.rload, hd']
  refine if_neg fun hok => ?_
  obtain ⟨hentry, hleft⟩ := Bool.and_eq_true_iff.mp hok
  rcases h with hs | ⟨o, ho, hlt⟩
  · exact hs ((ringEntryOk_iff ..).mp hentry)
  · rw [ho] at hleft
    simp [hlt] at hleft

/-! ### RINGS -/

theorem exec_doorbell_rings {s : State} {x : Ring} (hx : s.ring s.arg.ld s.arg.ring.val = some x) (hen : x.en = true)
    (hs : s.serves s.arg.ld = true) (hpos : x.wpos ≤ s.arg.value.toNat) :
    exec .doorbell s = .next (s.setRing s.arg.ld s.arg.ring.val { x with wpos := s.arg.value.toNat }) := by
  rw [exec_doorbell, execDoorbell]
  simp only [hx, hs, hen, hpos, decide_true, Bool.and_self, if_true]

theorem exec_doorbell_ignored {s : State} {x : Ring} (hx : s.ring s.arg.ld s.arg.ring.val = some x)
    (h : s.arg.value.toNat < x.wpos ∨ s.serves s.arg.ld = false) : exec .doorbell s = .next s := by
  rw [exec_doorbell, execDoorbell]
  simp only [hx]
  refine if_neg fun hall => ?_
  simp only [Bool.and_eq_true, decide_eq_true_iff] at hall
  obtain ⟨⟨hs, -⟩, hpos⟩ := hall
  rcases h with h | h
  · exact absurd hpos (Nat.not_le.mpr h)
  · exact absurd (hs.symm.trans h) Bool.true_eq_false.mp

theorem exec_segmentReturn_writes {s : State} {base units : Nat} {rest : List (Nat × Nat)} :
    let ld := s.arg.ld
    let d := s.devices[ld]
    let size := 2 ^ d.flCfg.toNat
    d.segments = (base, units) :: rest →
    ((d.flHead - d.flTail).toNat < size →
      exec .segmentReturn s = .next ((s.setDev ld { d with segments := rest, flHead := d.flHead + 1 }).hostWrite
        (d.flBase.toNat + 16 * (d.flHead.toNat % size)) (toBytes 8 base ++ toBytes 8 units))) ∧
    (size ≤ (d.flHead - d.flTail).toNat → exec .segmentReturn s = .next s) := by
  intro ld d size hseg
  rw [exec_segmentReturn, execSegmentReturn, hseg]
  exact ⟨fun h => if_pos h, fun h => if_neg (Nat.not_lt.mpr h)⟩

theorem ringEvents : RingEvents := by
  refine ⟨fun s x hx hen => ⟨exec_doorbell_rings hx hen, exec_doorbell_ignored hx⟩, fun s h => (exec_rload s).trans (onDevice_of_not_serves h _), ?rload,
    fun s base units rest => exec_segmentReturn_writes⟩
  case rload =>
    intro s d0 d1 d2 d3 hs ld r at_ units base sound fresh took hd
    have hexec : exec .rload s = .next (s.rload ld r) := (exec_rload s).trans (onDevice_of_serves hs _)
    have htakes (hsound : sound) (hold : ∀ o, s.ring ld r.val = some o → o.wpos ≤ o.rpos) {x : Ring}
        (hx : loadRing (s.ring ld r.val) [d0, d1, d2, d3] = x) : exec .rload s = .next (took x) := by
      rw [hexec, rload_takes hd hsound hold, hx]
      rfl
    refine ⟨fun hsound hold => ?_, fun o ho => ⟨fun hsound hen hpos hbase hunits => ?_, fun hlt => ?_⟩, fun hnot => ?_⟩
    · rcases hold with hnone | ⟨o, ho, hoff, hpos⟩
      · exact htakes hsound (by simp [hnone]) (by rw [hnone, loadRing_eq]; rfl)
      · refine htakes hsound (by simpa [ho] using hpos) ?_
        rw [ho, loadRing_eq]
        simp only [hoff, Bool.false_eq_true, if_false]
        rfl
    · refine htakes hsound (by simpa [ho] using hpos) ?_
      rw [ho, loadRing_eq]
      simp only [hen, hbase, hunits, if_true, base, units, and_self]
      rfl
    · rw [hexec, rload_refuses hd (.inr ⟨o, ho, hlt⟩)]
      rfl
    · rw [hexec, rload_refuses hd (.inl hnot)]
      rfl

end Sys2Proof.Machine
end

section
/-! PROOFS. Logical queues: what their commands do, ageing, completion records and the coalescers (R380, R386, R397 to R399). -/

namespace Sys2Proof.Machine

open Sys2Proof

/-! ### QLOAD -/

/-- A queue's entry is sound (R380). -/
def queueSound (d0 d1 d2 d3 : DWord) : Prop :=
  let f := fun (x : DWord) (lo w : Nat) => x.toNat / 2 ^ lo % 2 ^ w
  f d0 59 4 = 0 ∧ f d0 40 4 = 0 ∧ f d1 0 6 = 0 ∧ f d2 5 3 = 0 ∧ f d2 26 6 = 0 ∧ f d2 43 21 = 0 ∧
    4 ≤ f d2 0 5 ∧ f d2 0 5 ≤ 16 ∧ 1 ≤ f d2 8 8 ∧ 1 ≤ f d2 16 10 ∧ d3.toNat < 2 ^ 32

theorem queueEntryOk_iff (d0 d1 d2 d3 : DWord) : queueEntryOk [d0, d1, d2, d3, 0, 0, 0, 0] = true ↔ queueSound d0 d1 d2 d3 := by
  have htop := bits_top_beq_zero [d0, d1, d2, d3, 0, 0, 0, 0] 3 (i := 32) (n := 32) rfl
  have hrest : (([d0, d1, d2, d3, 0, 0, 0, 0] : List DWord).drop 4).all (· == 0) = true := rfl
  simp only [queueEntryOk, htop, hrest, Bool.and_eq_true, decide_eq_true_iff, queueSound, and_assoc, and_true]
  simp only [bits, beq_iff_eq, dw, List.getD_cons_zero, List.getD_cons_succ]

theorem loadQueue_asn (old : LQueue) (d0 : DWord) (ds : List DWord) (time : Nat) :
    (loadQueue old (d0 :: ds) time).asn = BitVec.ofNat 12 (d0.toNat / 2 ^ 44 % 2 ^ 12) := rfl

/-- An enabled queue keeps its ring of records. -/
theorem loadQueue_of_en {old : LQueue} (hen : old.en = true) {d0 d1 d2 d3 : DWord} (hbase : d1.toNat / 2 ^ 0 % 2 ^ 6 = 0) (time : Nat) :
    let f := fun (x : DWord) (lo w : Nat) => x.toNat / 2 ^ lo % 2 ^ w
    let prio : Fin 8 := Fin.ofNat 8 (f d0 56 3)
    loadQueue old [d0, d1, d2, d3, 0, 0, 0, 0] time = { old with
      en := decide (2 ^ 63 ≤ d0.toNat), prio := prio, asn := BitVec.ofNat 12 (f d0 44 12), clmask := BitVec.ofNat 40 d0.toNat
      cqBase := d1.toNat, cqLog := f d2 0 5, ccount := f d2 8 8, chold := f d2 16 10, vec := f d2 32 11
      effective := if old.prio = prio then old.effective else prio } := by
  have hb : bits d1.toNat 6 58 * 64 = d1.toNat := by rw [bits_from_six]; omega
  simp only [loadQueue, hen, if_true, true_and, dw, List.getD_cons_zero, List.getD_cons_succ, hb, bit_top, ofNat_bits_low]
  rfl

theorem exec_qload_of_entry {s : State} {d0 d1 d2 d3 : DWord} (hs : s.serves s.arg.ld = true)
    (hd : dwordsOf (s.hostRead (s.queueEntry s.arg.ld s.arg.queue.val) 64) = [d0, d1, d2, d3, 0, 0, 0, 0]) :
    exec .qload s = .next (if queueEntryOk [d0, d1, d2, d3, 0, 0, 0, 0] && !(s.queueBusy s.arg.ld s.arg.queue &&
        (s.queue s.arg.ld s.arg.queue).asn != BitVec.ofNat 12 (d0.toNat / 2 ^ 44 % 2 ^ 12)) then
      (s.setQueue s.arg.ld s.arg.queue (loadQueue (s.queue s.arg.ld s.arg.queue) [d0, d1, d2, d3, 0, 0, 0, 0] s.pack.time)).hostWrite
        (s.queueEntry s.arg.ld s.arg.queue.val + 24)
        (toBytes 4 (loadQueue (s.queue s.arg.ld s.arg.queue) [d0, d1, d2, d3, 0, 0, 0, 0] s.pack.time).cqHead.toNat)
      else s.badCmd s.arg.ld) := by
  have hd' : s.hostDwords (s.queueEntry s.arg.ld s.arg.queue.val) 8 = [d0, d1, d2, d3, 0, 0, 0, 0] := hd
  rw [exec_qload, execQload, onDevice_of_serves hs, State.qload, hd']
  rfl

theorem qload_results {s : State} {d0 d1 d2 d3 : DWord} (hs : s.serves s.arg.ld = true) :
    let ld := s.arg.ld
    let q := s.arg.queue
    let old := s.queue ld q
    let at_ := s.devices[ld].qtBase.toNat + 64 * q.val
    let f := fun (x : DWord) (lo w : Nat) => x.toNat / 2 ^ lo % 2 ^ w
    let sound := f d0 59 4 = 0 ∧ f d0 40 4 = 0 ∧ f d1 0 6 = 0 ∧ f d2 5 3 = 0 ∧ f d2 26 6 = 0 ∧ f d2 43 21 = 0 ∧
      4 ≤ f d2 0 5 ∧ f d2 0 5 ≤ 16 ∧ 1 ≤ f d2 8 8 ∧ 1 ≤ f d2 16 10 ∧ d3.toNat < 2 ^ 32
    let asn : Asn := BitVec.ofNat 12 (f d0 44 12)
    let prio : Fin 8 := Fin.ofNat 8 (f d0 56 3)
    dwordsOf (s.hostRead at_ 64) = [d0, d1, d2, d3, 0, 0, 0, 0] →
    (sound → (s.queueBusy ld q = false ∨ old.asn = asn) → old.en = true →
      let new : LQueue := { old with
        en := decide (2 ^ 63 ≤ d0.toNat), prio := prio, asn := asn, clmask := BitVec.ofNat 40 d0.toNat, cqBase := d1.toNat,
        cqLog := f d2 0 5, ccount := f d2 8 8, chold := f d2 16 10, vec := f d2 32 11,
        effective := if old.prio = prio then old.effective else prio }
      exec .qload s = .next ((s.setQueue ld q new).hostWrite (at_ + 24) (toBytes 4 old.cqHead.toNat))) ∧
    ((¬ sound ∨ (s.queueBusy ld q = true ∧ old.asn ≠ asn)) →
      exec .qload s = .next (s.setDev ld { s.devices[ld] with cmdBad := true })) := by
  intro ld q old at_ f sound asn prio hd
  have hexec := exec_qload_of_entry hs hd
  have hentry := queueEntryOk_iff d0 d1 d2 d3
  refine ⟨fun hsound hfree hen => ?takes, fun hbad => ?refuses⟩
  case takes =>
    have hkeeps : (s.queueBusy ld q && old.asn != asn) = false := by
      rcases hfree with h | h <;> simp [h]
    rw [hexec, hentry.mpr hsound, hkeeps, loadQueue_of_en hen hsound.2.2.1]
    rfl
  case refuses =>
    rw [hexec, if_neg]
    · rfl
    · intro hok
      obtain ⟨hok, hfree⟩ := Bool.and_eq_true_iff.mp hok
      rcases hbad with hnot | ⟨hbusy, hasn⟩
      · exact hnot (hentry.mp hok)
      · have hheld : (s.queueBusy ld q && old.asn != asn) = true := Bool.and_eq_true_iff.mpr ⟨hbusy, bne_iff_ne.mpr hasn⟩
        exact absurd (hfree : (!(s.queueBusy ld q && old.asn != asn)) = true) (by rw [hheld]; decide)

/-! ### PAUSE, RESUME and the count consumed -/

theorem queue_unserved {s : State} {i : Instr} (hi : i ∈ [Instr.qload, .queuePause, .queueResume, .queueCancel, .cqConsumedWrite])
    (hs : s.serves s.arg.ld = false) : exec i s = .next s := by
  simp only [List.mem_cons, List.not_mem_nil, or_false] at hi
  rcases hi with rfl | rfl | rfl | rfl | rfl
  · exact (exec_qload s).trans (onDevice_of_not_serves hs _)
  · exact (exec_queuePause s).trans (onDevice_of_not_serves hs _)
  · exact (exec_queueResume s).trans (onDevice_of_not_serves hs _)
  · exact (exec_queueCancel s).trans (onDevice_of_not_serves hs _)
  · exact (exec_cqConsumedWrite s).trans (onDevice_of_not_serves hs _)

theorem queueReady_paused {s : State} {ld : Fin 4} {q : Fin 32} (h : (s.queue ld q).paused = true) : s.queueReady ld q = false := by
  simp [State.queueReady, State.queueOpen, h]

/-! ### What the end of a launch keeps of rings and queues -/

/-- The rings of a device, and its queues. -/
def State.queueing (s : State) (ld : Fin 4) : List (Nat × Ring) × List (Nat × LQueue) := (s.devices[ld].rings, s.devices[ld].queues)

/-- A device changed in neither. -/
theorem queueing_setDev (s : State) (m : Fin 4) {d : Device} (hr : d.rings = s.devices[m].rings) (hq : d.queues = s.devices[m].queues)
    (ld : Fin 4) : (s.setDev m d).queueing ld = s.queueing ld := by
  have hget : (s.setDev m d).devices[ld] = if m = ld then d else s.devices[ld] := by
    simp [State.setDev, Vector.getElem_set, Fin.ext_iff]
  rw [State.queueing, hget, State.queueing]
  split
  next h => rw [hr, hq, h]
  · rfl

theorem queueing_postFault (s : State) (m : Fin 4) (r : FaultRec) (ld : Fin 4) : (s.postFault m r).queueing ld = s.queueing ld :=
  queueing_setDev s m (d := { s.devices[m] with faults := s.devices[m].faults ++ [r] }) rfl rfl ld

theorem queueing_memoryError (s : State) (r : Req) (reason loc : Nat) (ld : Fin 4) :
    (s.memoryError r reason loc).queueing ld = s.queueing ld := queueing_postFault ..

theorem queueing_meetTable (s : State) (m : Fin 4) (asn : Asn) (va reason : Nat) (ld : Fin 4) :
    (s.meetTable m asn va reason).queueing ld = s.queueing ld := by
  unfold State.meetTable
  split
  · rw [State.meetGranules]
    refine foldl_keeps (p := fun s : State => s.queueing ld) (fun s g => ?_) _ s
    exact (queueing_memoryError ..).trans rfl
  · rfl

theorem queueing_writeLoc (s : State) (whole : Bool) (l : Nat) (b : Byte) (ld : Fin 4) :
    (s.writeLoc whole l b).queueing ld = s.queueing ld := by
  unfold State.writeLoc
  split
  · rfl
  · split <;> rfl

theorem queueing_dropWrites (s : State) (r : Req) (ls : List Nat) (ld : Fin 4) : (s.dropWrites r ls).queueing ld = s.queueing ld := by
  refine foldl_keeps (p := fun acc : State × List Nat => acc.1.queueing ld) (fun acc l => ?_) ls (s, [])
  dsimp only
  split
  · rfl
  · exact queueing_memoryError ..

theorem queueing_writeHome (s : State) (r : Req) (cells : List (Nat × Byte)) (ld : Fin 4) :
    (s.writeHome r cells).queueing ld = s.queueing ld := by
  have hplain : (s.writePlain r cells).queueing ld = s.queueing ld := by
    simp only [State.writePlain]
    split
    · exact foldl_keeps (p := fun s : State => s.queueing ld) (fun _ _ => queueing_writeLoc ..) cells s
    · rw [queueing_dropWrites]
      exact foldl_keeps (p := fun s : State => s.queueing ld) (fun _ _ => queueing_writeLoc ..) cells s
  rw [State.writeHome, State.invalidate]
  split <;> exact hplain

theorem queueing_evict (s : State) (l : CacheLine) (ld : Fin 4) : (s.evict l).queueing ld = s.queueing ld := by
  simp only [State.evict]
  split
  · rfl
  · split
    · rfl
    · split
      · exact (queueing_postFault ..).trans (queueing_meetTable ..)
      · exact queueing_writeHome ..

theorem queueing_evictAll (s : State) (p : CacheLine → Bool) (ld : Fin 4) : (s.evictAll p).queueing ld = s.queueing ld := by
  simp only [State.evictAll]
  rw [foldl_keeps (p := fun s : State => s.queueing ld) fun _ _ => queueing_evict .., foldl_keeps (p := fun s : State => s.queueing ld)
    fun _ _ => queueing_evict ..]
  rfl

theorem queueing_writesDone (s : State) (l : Launch) (ld : Fin 4) : (s.writesDone l).queueing ld = s.queueing ld := by
  unfold State.writesDone
  split
  · rfl
  · exact queueing_evictAll ..

theorem queue_of_queueing {s t : State} {ld : Fin 4} (h : t.queueing ld = s.queueing ld) (q : Fin 32) :
    t.queue ld q = s.queue ld q := by
  rw [State.queue, State.queue, (Prod.mk.inj h).2]

theorem ringsOf_of_queueing {s t : State} {ld : Fin 4} (h : t.queueing ld = s.queueing ld) (q : Fin 32) (last : Nat) :
    t.ringsOf ld q last = s.ringsOf ld q last := by
  rw [State.ringsOf, State.ringsOf, (Prod.mk.inj h).1]

theorem ringsOf_setQueue (s : State) (ld : Fin 4) (q : Fin 32) (x : LQueue) (last : Nat) :
    (s.setQueue ld q x).ringsOf ld q last = s.ringsOf ld q last := by
  rw [State.ringsOf, State.ringsOf, State.setQueue, State.devices_setDev]

/-- A launch from a ring that ends changes of its queue the records alone. -/
theorem endLaunch_queue {s : State} {l : Launch} {r : Fin 128} {p : Nat} {i : Option Nat}
    (hsrc : l.src = .ring r p i) (outcome kind detail : Nat) :
    let t := s.endLaunch l outcome kind detail
    (∀ last, t.ringsOf l.ld l.queue last = s.ringsOf l.ld l.queue last) ∧
      (t.queue l.ld l.queue).indirect = (s.queue l.ld l.queue).indirect ∧
      (t.queue l.ld l.queue).lastRing = (s.queue l.ld l.queue).lastRing := by
  have hdone := queueing_writesDone s l l.ld
  have hqueue := queue_of_queueing hdone l.queue
  have hrings := ringsOf_of_queueing hdone l.queue
  intro t
  cases hthaw : l.thaw with
  | some j =>
    have ht : t.queueing l.ld = s.queueing l.ld := by
      simp only [t, State.endLaunch, State.reportLaunch, hsrc, hthaw, Option.isSome_some, if_true]
      exact hdone
    have hsame := queue_of_queueing ht l.queue
    exact ⟨ringsOf_of_queueing ht l.queue, by rw [hsame], by rw [hsame]⟩
  | none =>
    have ht : t.queueing l.ld = ((s.writesDone l).pushRecord l.ld l.queue (recordDwords outcome kind 1 r.val p i
        (s.writesDone l).pack.time)).queueing l.ld := by
      simp only [t, State.endLaunch, State.reportLaunch, hsrc, hthaw, Option.isSome_none, Bool.false_eq_true, if_false]
      rfl
    have hpush := queue_of_queueing ht l.queue
    rw [State.pushRecord, State.queue_setQueue, hqueue] at hpush
    refine ⟨fun last => ?_, by rw [hpush], by rw [hpush]⟩
    rw [ringsOf_of_queueing ht, State.pushRecord, ringsOf_setQueue, hrings]

/-! ### CANCEL -/

theorem cancelRings_empty {s : State} {ld : Fin 4} {q : Fin 32} {es : List (Nat × Ring)} (h : ∀ e ∈ es, e.2.wpos ≤ e.2.rpos) :
    es.foldl (fun s e => State.cancelRing s ld q e.1 (e.2.wpos - e.2.rpos)) s = s := by
  induction es generalizing s with
  | nil => rfl
  | cons e es ih =>
    have hzero : e.2.wpos - e.2.rpos = 0 := Nat.sub_eq_zero_of_le (h e List.mem_cons_self)
    rw [List.foldl_cons, hzero]
    exact ih fun x hx => h x (List.mem_cons_of_mem e hx)

section Cancel

variable {s : State} {ld : Fin 4} {q : Fin 32}

theorem cancelQueue_idle (hr : ∀ r ∈ s.ringsOf ld q (s.queue ld q).lastRing, r.2.wpos ≤ r.2.rpos)
    (hi : (s.queue ld q).indirect = none) (hl : s.unadmitted ld q = none) : s.cancelQueue ld q = s := by
  simp only [State.cancelQueue, hl, hi]
  exact cancelRings_empty hr

theorem unadmitted_mem {l : Launch} (hl : s.unadmitted ld q = some l) : l.ld = ld ∧ l.queue = q := by
  have hpick := List.find?_some hl
  simp only [Bool.and_eq_true, beq_iff_eq] at hpick
  exact hpick.1

theorem cancelQueue_launch (hr : ∀ r ∈ s.ringsOf ld q (s.queue ld q).lastRing, r.2.wpos ≤ r.2.rpos)
    (hi : (s.queue ld q).indirect = none) {l : Launch} (hl : s.unadmitted ld q = some l) {r : Fin 128} {p : Nat} {i : Option Nat}
    (hsrc : l.src = .ring r p i) : s.cancelQueue ld q = s.endLaunch l 3 0 0 := by
  obtain ⟨rfl, rfl⟩ := unadmitted_mem hl
  obtain ⟨hrings, hind, hlast⟩ := endLaunch_queue (s := s) hsrc 3 0 0
  simp only [State.cancelQueue, hl, hind, hi, hlast, hrings]
  exact cancelRings_empty hr

/-- A ring of which no unit is left has no packet at its head. -/
theorem headPacket_none {x : Ring} (hb : x.barrier = false) (h : x.wpos ≤ x.rpos) : s.headPacket x = none := by
  have hlt : decide (x.rpos < x.wpos) = false := decide_eq_false (Nat.not_lt.mpr h)
  simp only [State.headPacket, hb, hlt, Bool.and_false, Bool.false_eq_true, if_false]

theorem cancelRing_done {r : Nat} {x : Ring} (hx : s.ring ld r = some x) (hb : x.barrier = false) (h : x.wpos ≤ x.rpos) (fuel : Nat) :
    s.cancelRing ld q r fuel = s := by
  cases fuel with
  | zero => rfl
  | succ fuel => simp only [State.cancelRing, hx, headPacket_none hb h]

/-- A launch that is the last packet of its ring is cancelled. -/
theorem cancelRing_launch {r n type : Nat} {x : Ring} {l : Packet} (hx : s.ring ld r = some x) (hb : x.barrier = false)
    (hn : x.rpos + n = x.wpos) (hpos : 0 < n) (hseg : x.wpos < x.segStart + x.segUnits)
    (hh : s.headPacket x = some (n, type, .launch l)) :
    s.cancelRing ld q r (x.wpos - x.rpos) =
      (s.writeRing ld r { x with rpos := x.wpos }).pushRecord ld q (recordDwords 3 0 type r x.rpos none s.pack.time) := by
  have hfuel : x.wpos - x.rpos = n - 1 + 1 := by omega
  have hmove : x.moveTo (x.rpos + n) = { x with rpos := x.wpos } := by
    rw [hn, Ring.moveTo, if_neg (Nat.not_le.mpr (show x.wpos < x.segEnd from hseg))]
    exact congrArg (fun b => { x with rpos := x.wpos, barrier := b }) hb.symm
  rw [hfuel, State.cancelRing]
  simp only [hx, hh, State.passHead, hmove, Pkt.records, if_true]
  refine cancelRing_done (x := { x with rpos := x.wpos }) ?_ hb le_rfl _
  rw [State.ring_pushRecord, State.ring_writeRing]

theorem cancelQueue_ring {r n type : Nat} {x : Ring} {l : Packet} (hl : s.unadmitted ld q = none) (hi : (s.queue ld q).indirect = none)
    (hr : s.ringsOf ld q (s.queue ld q).lastRing = [(r, x)]) (hx : s.ring ld r = some x) (hb : x.barrier = false)
    (hn : x.rpos + n = x.wpos) (hpos : 0 < n) (hseg : x.wpos < x.segStart + x.segUnits)
    (hh : s.headPacket x = some (n, type, .launch l)) :
    s.cancelQueue ld q =
      (s.writeRing ld r { x with rpos := x.wpos }).pushRecord ld q (recordDwords 3 0 type r x.rpos none s.pack.time) := by
  simp only [State.cancelQueue, hl, hi, hr, List.foldl_cons, List.foldl_nil]
  exact cancelRing_launch hx hb hn hpos hseg hh

end Cancel

/-! ### Ageing -/

/-- A priority raised by one, up to 7. -/
theorem priority_up (e : Fin 8) : (if e = 7 then 7 else e + 1) = (⟨min 7 (e.val + 1), by omega⟩ : Fin 8) := by
  revert e
  decide

theorem exec_ageTick_results (s : State) :
    let ld := s.arg.ld
    let q := s.arg.queue
    let x := s.queue ld q
    let step := s.devices[ld].ageUs.toNat * 1000
    (0 < step → step ≤ x.aged →
      exec .ageTick s = .next (s.setQueue ld q { x with
        effective := (⟨min 7 (x.effective.val + 1), by omega⟩ : Fin 8), aged := x.aged - step })) ∧
    ((step = 0 ∨ x.aged < step) → exec .ageTick s = .next s) := by
  intro ld q x step
  have hup := priority_up x.effective
  rw [exec_ageTick, execAgeTick]
  refine ⟨fun h0 hle => ?_, fun h => ?_⟩
  · rw [← hup]
    exact if_pos ⟨h0.ne', hle⟩
  · exact if_neg fun hgo => h.elim hgo.1 fun hlt => absurd hgo.2 (Nat.not_le.mpr hlt)

/-- A queue's age after so many nanoseconds. -/
def State.olderQueue (s : State) (ld : Fin 4) (ns : Nat) (e : Nat × LQueue) : Nat × LQueue :=
  if s.devices[ld].ageUs ≠ 0 ∧ s.queueReady ld (Fin.ofNat 32 e.1) then (e.1, { e.2 with aged := e.2.aged + ns }) else e

/-- A device's queues aged. -/
def State.ageDevice (ns : Nat) (s : State) (ld : Fin 4) : State :=
  s.setDev ld { s.devices[ld] with queues := s.devices[ld].queues.map (s.olderQueue ld ns) }

theorem State.setDev_self (s : State) (ld : Fin 4) : s.setDev ld s.devices[ld] = s := by
  rw [State.setDev]
  exact congrArg (fun v => { s with devices := v }) (Vector.set_getElem_self ld.isLt)

theorem ageDevice_none {s : State} {ld : Fin 4} (h : s.devices[ld].queues = []) (ns : Nat) : State.ageDevice ns s ld = s := by
  have hsame : { s.devices[ld] with queues := s.devices[ld].queues.map (s.olderQueue ld ns) } = s.devices[ld] := by
    rw [h, List.map_nil, ← h]
  rw [State.ageDevice, hsame, State.setDev_self]

theorem ageDevice_other (ns : Nat) (s : State) {m ld : Fin 4} (h : m ≠ ld) :
    (State.ageDevice ns s ld).devices[m] = s.devices[m] := by
  rw [State.ageDevice, State.setDev]
  exact Vector.getElem_set_ne ld.isLt m.isLt fun he => h (Fin.ext he.symm)

/-- Of four devices of which only one has queues, that one's alone age. -/
theorem ageDevices_one {s : State} {ld : Fin 4} (h : ∀ m : Fin 4, m ≠ ld → s.devices[m].queues = []) (ns : Nat) {ms : List (Fin 4)}
    (hone : ms.Nodup) (hin : ld ∈ ms) : ms.foldl (State.ageDevice ns) s = State.ageDevice ns s ld := by
  induction ms with
  | nil => exact absurd hin List.not_mem_nil
  | cons m ms ih =>
    obtain ⟨hnot, hrest⟩ := List.nodup_cons.mp hone
    rw [List.foldl_cons]
    by_cases hm : m = ld
    · subst hm
      suffices hkeep : ∀ (ms : List (Fin 4)) (t : State), m ∉ ms → (∀ k : Fin 4, k ≠ m → t.devices[k].queues = []) →
          ms.foldl (State.ageDevice ns) t = t by
        exact hkeep ms _ hnot fun k hk => by rw [ageDevice_other ns s hk]; exact h k hk
      intro ms
      induction ms with
      | nil => exact fun _ _ _ => rfl
      | cons k ms ih =>
        intro t hm ht
        obtain ⟨hk, hms⟩ := not_or.mp (mt List.mem_cons.mpr hm)
        rw [List.foldl_cons, ageDevice_none (ht k fun he => hk he.symm)]
        exact ih t hms ht
    · rw [ageDevice_none (h m hm)]
      exact ih hrest (List.mem_of_ne_of_mem (fun he => hm he.symm) hin)

theorem ageQueues_one {s : State} {ns : Nat} {ld : Fin 4} {q : Fin 32} {x : LQueue} (hq : s.devices[ld].queues = [(q.val, x)])
    (h : ∀ m : Fin 4, m ≠ ld → s.devices[m].queues = []) :
    (s.ageQueues ns).queue ld q = if s.devices[ld].ageUs ≠ 0 ∧ s.queueReady ld q = true then { x with aged := x.aged + ns } else x := by
  have hfold : s.ageQueues ns = State.ageDevice ns s ld := ageDevices_one h ns (List.nodup_finRange 4) (List.mem_finRange ld)
  rw [hfold, State.queue, State.ageDevice, State.devices_setDev, hq]
  simp only [List.map_cons, List.map_nil, State.olderQueue, Fin.ofNat_val_eq_self]
  split <;> simp [getBy]

/-! ### Records and coalescers -/

theorem exec_completionRecordWrite_results (s : State) (r : CqRecord) (rest : List CqRecord) :
    let ld := s.arg.ld
    let q := s.arg.queue
    let x := s.queue ld q
    let k := x.cqHead.toNat
    let y : LQueue := { x with cqHead := x.cqHead + 1, records := rest, heldCount := x.heldCount + 1,
                               heldFrom := if x.heldCount = 0 then s.pack.time else x.heldFrom }
    let wrote := ((s.hostWrite (x.cqBase + 32 * (k % 2 ^ x.cqLog)) (r.dwords.flatMap fun d => toBytes 8 d.toNat)).setQueue ld q y).hostWrite
      (s.devices[ld].qtBase.toNat + 64 * q.val + 24) (toBytes 4 (x.cqHead + 1).toNat)
    x.records = r :: rest →
    ((x.cqHead - x.consumed).toNat < 2 ^ x.cqLog →
      (x.heldCount + 1 < x.ccount → exec .completionRecordWrite s = .next wrote) ∧
      (x.ccount ≤ x.heldCount + 1 → exec .completionRecordWrite s = .next (wrote.releaseCoalescer ld q))) ∧
    (2 ^ x.cqLog ≤ (x.cqHead - x.consumed).toNat → exec .completionRecordWrite s = .next s) := by
  intro ld q x k y wrote hrec
  have hexec : exec .completionRecordWrite s =
      if x.room then .next (if x.ccount ≤ x.heldCount + 1 then wrote.releaseCoalescer ld q else wrote) else .next s := by
    simp only [exec_completionRecordWrite, execCompletionRecordWrite, x, ld, q] at hrec ⊢
    rw [hrec]
    rfl
  rw [hexec]
  refine ⟨fun hroom => ?_, fun hfull => ?_⟩
  · rw [if_pos (show x.room = true from decide_eq_true hroom)]
    exact ⟨fun h => by rw [if_neg (Nat.not_le.mpr h)], fun h => by rw [if_pos h]⟩
  · exact if_neg (by simpa [LQueue.room] using hfull)

theorem exec_coalescerHoldExpire_results (s : State) :
    let ld := s.arg.ld
    let q := s.arg.queue
    let x := s.queue ld q
    let sent := s.setQueue ld q { x with heldCount := 0 }
    (0 < x.heldCount → x.heldFrom + x.chold * 1000 ≤ s.pack.time →
      exec .coalescerHoldExpire s =
        .next (sent.setDev ld { sent.devices[ld] with interrupts := sent.devices[ld].interrupts ++ [x.vec] })) ∧
    ((x.heldCount = 0 ∨ s.pack.time < x.heldFrom + x.chold * 1000) → exec .coalescerHoldExpire s = .next s) := by
  intro ld q x sent
  rw [exec_coalescerHoldExpire, execCoalescerHoldExpire]
  refine ⟨fun h0 ht => ?_, fun h => ?_⟩
  · exact congrArg Host.Outcome.next (if_pos ⟨h0, ht⟩)
  · refine congrArg Host.Outcome.next (if_neg fun hgo => ?_)
    exact h.elim (fun h0 => absurd hgo.1 (by rw [h0]; exact Nat.lt_irrefl 0)) fun ht => absurd hgo.2 (Nat.not_le.mpr ht)

theorem queueEvents : QueueEvents := by
  refine ⟨fun s i hi hs => queue_unserved hi hs, fun s d0 d1 d2 d3 hs => qload_results hs, ?states, ?cancel, ?cancelRing,
    exec_ageTick_results, fun s ns ld q x hq h => ageQueues_one hq h, exec_completionRecordWrite_results, exec_coalescerHoldExpire_results⟩
  case states =>
    intro s ld q x
    refine ⟨fun hs => ⟨?_, ?_, ?_⟩, fun _ hp => queueReady_paused hp⟩
    · exact (exec_queuePause s).trans (onDevice_of_serves hs _)
    · exact (exec_queueResume s).trans (onDevice_of_serves hs _)
    · exact (exec_cqConsumedWrite s).trans (onDevice_of_serves hs _)
  case cancel =>
    intro s ld q x hs hr hi
    have hexec : exec .queueCancel s = .next (s.cancelQueue ld q) := (exec_queueCancel s).trans (onDevice_of_serves hs _)
    refine ⟨fun hl => ?_, fun l hl ⟨r, p, i, hsrc⟩ => ?_⟩
    · rw [hexec, cancelQueue_idle hr hi hl]
    · rw [hexec, cancelQueue_launch hr hi hl hsrc]
  case cancelRing =>
    intro s r n type x l ld q hs hl hi hr hx hb hn hpos hseg hh _
    have hexec : exec .queueCancel s = .next (s.cancelQueue ld q) := (exec_queueCancel s).trans (onDevice_of_serves hs _)
    rw [hexec, cancelQueue_ring hl hi hr hx hb hn hpos hseg hh]

/-- Settles O54: rings and queues change as their tables and commands say, and records and interrupts follow. -/
theorem ringAndQueueEvents : Obligations.RingAndQueueEvents := ⟨ringEvents, queueEvents⟩

end Sys2Proof.Machine
end

section
/-! PROOFS. The merge units: barriers, the packet at a ring's head, and the packets of an INDIRECT buffer (R381 to R386, R395, R401). -/

namespace Sys2Proof.Machine

open Sys2Proof

/-! ### A BARRIER at a ring's head -/

/-- The first dword of a range in host memory. -/
theorem dw_hostDwords (s : State) (addr : Nat) {n : Nat} (hn : 1 ≤ n) : dw (s.hostDwords addr n) 0 = s.hostDword addr := by
  have hlen : (s.hostRead addr (8 * n)).length = 8 * n := by simp [State.hostRead, Memory.readBytes]
  have htake : (s.hostRead addr (8 * n)).take 8 = s.hostRead addr 8 := by
    simp only [State.hostRead, Memory.readBytes, ← List.map_take, List.take_range]
    rw [Nat.min_eq_left (by omega)]
  have hlt : ofBytes (s.hostRead addr 8) < 2 ^ 64 := by
    simpa [State.hostRead, Memory.readBytes] using ofBytes_lt (s.hostRead addr 8)
  have hfirst : (s.hostDwords addr n)[0]? = some (BitVec.ofNat 64 (ofBytes (s.hostRead addr 8))) := by
    rw [State.hostDwords, dwordsOf, hlen, Nat.mul_div_cancel_left n (by omega), List.getElem?_map, List.getElem?_range hn, Option.map_some,
      Nat.mul_zero, List.drop_zero, htake]
  rw [dw, List.getD_eq_getElem?_getD, hfirst, Option.getD_some, BitVec.toNat_ofNat, Nat.mod_eq_of_lt hlt, State.hostDword]

/-- A packet that decodes to a BARRIER is of type 3 and one unit. -/
theorem parse_barrier {d : List DWord} {dep : Bool} (h : Pkt.parse d dep = .barrier) :
    bits (dw d 0) 0 8 = 3 ∧ bits (dw d 0) 8 4 = 1 := by
  unfold Pkt.parse at h
  simp only at h
  split at h
  case h_4 htype =>
    refine ⟨htype, ?_⟩
    split at h
    next hplain =>
      simp only [Bool.and_eq_true, beq_iff_eq] at hplain
      exact hplain.1.1
    · cases h
  case h_8 => cases h
  all_goals (split at h <;> cases h)

theorem headPacket_of_atBarrier {s : State} {x : Ring} (h : s.atBarrier x = true) : s.headPacket x = some (1, 3, .barrier) := by
  obtain ⟨⟨n, type, p⟩, hp, hb⟩ := (Option.any_eq_true _ _).mp h
  obtain rfl : p = .barrier := eq_of_beq hb
  rw [hp]
  unfold State.headPacket at hp
  simp only at hp
  split at hp
  · exact hp.symm
  · split at hp
    · split at hp
      · split at hp <;> cases hp
      · split at hp
        · simp only [Option.some.injEq, Prod.mk.injEq] at hp
          obtain ⟨hn, htype, hparse⟩ := hp
          obtain ⟨h3, h1⟩ := parse_barrier hparse
          have hunits : 1 ≤ 8 * unitsOf (s.hostDword (x.unitAt x.rpos)) := by
            have := Nat.le_max_left 1 (bits (s.hostDword (x.unitAt x.rpos)) 8 4)
            simp only [unitsOf]
            omega
          rw [dw_hostDwords _ _ hunits] at h3 h1
          rw [← hn, ← htype, h3, unitsOf, h1]
          rfl
        · cases hp
    · cases hp

/-! ### Rings passed over -/

theorem headPacket_setRing (s : State) (ld : Fin 4) (r : Nat) (y x : Ring) : (s.setRing ld r y).headPacket x = s.headPacket x := rfl

/-- A ring of a device whose rings have each a number of their own, found by its number. -/
theorem getBy_of_mem {α : Type} {l : List (Nat × α)} (hone : (l.map Prod.fst).Nodup) {e : Nat × α} (h : e ∈ l) : getBy e.1 l = some e.2 := by
  induction l with
  | nil => exact absurd h List.not_mem_nil
  | cons first l ih =>
    obtain ⟨hnot, hrest⟩ := List.nodup_cons.mp hone
    rcases List.mem_cons.mp h with rfl | hl
    · exact if_pos rfl
    · have hne : first.1 ≠ e.1 := fun he => hnot (he ▸ List.mem_map_of_mem hl)
      exact (if_neg hne).trans (ih hrest hl)

theorem ringsOf_mem {s : State} {ld : Fin 4} {q : Fin 32} {last : Nat} {e : Nat × Ring} (h : e ∈ s.ringsOf ld q last) :
    e ∈ s.devices[ld].rings := by
  rcases List.mem_append.mp h with h | h <;> exact List.mem_of_mem_filter (List.mem_of_mem_filter h)

/-- A visit over rings marks those that stand at a BARRIER. -/
def State.markBarrier (ld : Fin 4) (s : State) (e : Nat × Ring) : State :=
  if s.atBarrier e.2 then s.setRing ld e.1 { e.2 with barrier := true } else s

theorem markBarriers_ring {s : State} {ld : Fin 4} {k : Nat} {x : Ring} (es : List (Nat × Ring))
    (h : (es.foldl (State.markBarrier ld) s).ring ld k = some x) (hne : s.ring ld k ≠ some x) :
    ∃ e ∈ es, e.1 = k ∧ s.headPacket e.2 = some (1, 3, .barrier) ∧ x = { e.2 with barrier := true } := by
  induction es generalizing s with
  | nil => exact absurd h hne
  | cons e es ih =>
    by_cases hb : s.atBarrier e.2 = true
    · have hmark : State.markBarrier ld s e = s.setRing ld e.1 { e.2 with barrier := true } := if_pos hb
      rw [List.foldl_cons, hmark] at h
      by_cases hx : (s.setRing ld e.1 { e.2 with barrier := true }).ring ld k = some x
      · by_cases hk : k = e.1
        · subst hk
          rw [State.ring_setRing, Option.some.injEq] at hx
          exact ⟨e, List.mem_cons_self, rfl, headPacket_of_atBarrier hb, hx.symm⟩
        · rw [State.ring, State.setRing, State.devices_setDev, getBy_putBy_ne hk] at hx
          exact absurd hx hne
      · obtain ⟨f, hf, hk, hh, hfx⟩ := ih h hx
        exact ⟨f, List.mem_cons_of_mem e hf, hk, hh, hfx⟩
    · have hmark : State.markBarrier ld s e = s := if_neg hb
      rw [List.foldl_cons, hmark] at h
      obtain ⟨f, hf, hk, hh, hfx⟩ := ih h hne
      exact ⟨f, List.mem_cons_of_mem e hf, hk, hh, hfx⟩

theorem passOver_ring {s : State} {ld : Fin 4} {q : Fin 32} {r k : Nat} {x : Ring} (hone : (s.devices[ld].rings.map Prod.fst).Nodup)
    (h : (s.passOver ld q r).ring ld k = some x) (hne : s.ring ld k ≠ some x) :
    ∃ o, s.ring ld k = some o ∧ k ≠ r ∧ s.headPacket o = some (1, 3, .barrier) ∧ x = { o with barrier := true } := by
  obtain ⟨e, he, hk, hh, hx⟩ := markBarriers_ring _ h hne
  have hmem := ringsOf_mem ((List.takeWhile_sublist _).mem he)
  have hstop : (e.1 != r) = true := List.mem_takeWhile_imp (p := fun e : Nat × Ring => e.1 != r) he
  exact ⟨e.2, hk ▸ getBy_of_mem hone hmem, hk ▸ bne_iff_ne.mp hstop, hh, hx⟩

/-! ### What a visit leaves of the rest -/

section Passed

variable {s : State} {ld : Fin 4} {q : Fin 32}

theorem passOver_keeps {α : Type} {f : State → α} (hf : ∀ (s : State) (r : Nat) (x : Ring), f (s.setRing ld r x) = f s) (r : Nat) :
    f (s.passOver ld q r) = f s :=
  foldl_keeps (fun s e => by split <;> [exact hf ..; rfl]) _ s

theorem queue_setRing (r : Nat) (x : Ring) : (s.setRing ld r x).queue ld q = s.queue ld q := by
  rw [State.queue, State.setRing, State.devices_setDev, State.queue]

theorem served_jobs : (s.served ld q).jobs = s.jobs := by
  rw [State.served, State.setQueue, State.setDev_jobs]

/-- The state after the packet at a ring's head has been passed and its ring visited. -/
def State.visited (s : State) (ld : Fin 4) (q : Fin 32) (r : Nat) : State := s.setQueue ld q { s.queue ld q with lastRing := r }

theorem visited_asn (r : Nat) : ((s.visited ld q r).queue ld q).asn = (s.queue ld q).asn := by
  rw [State.visited, State.queue_setQueue]

theorem writeRing_asn (r k : Nat) (x : Ring) :
    ((((s.passOver ld q r).writeRing ld k x).visited ld q r).queue ld q).asn = (s.queue ld q).asn := by
  rw [visited_asn, State.writeRing, State.queue_hostWrite, queue_setRing]
  exact passOver_keeps (f := fun s => (s.queue ld q).asn) (fun s r x => congrArg LQueue.asn (queue_setRing ..)) r

/-- With no job before a visit and none begun by it, none is started. -/
theorem startJobs_none (h : s.jobs = []) : s.startJobs = s := by
  rw [State.startJobs, h]
  rfl

theorem passOver_jobs (r : Nat) : (s.passOver ld q r).jobs = s.jobs := passOver_keeps (fun _ _ _ => rfl) r

theorem passOver_pack (r : Nat) : (s.passOver ld q r).pack = s.pack := passOver_keeps (fun _ _ _ => rfl) r

/-- Passing the packet at a ring's head begins no job. -/
theorem visited_jobs (r k : Nat) (x : Ring) : (((s.passOver ld q r).writeRing ld k x).visited ld q r).jobs = s.jobs := by
  rw [State.visited, State.setQueue, State.setDev_jobs, State.writeRing, State.hostWrite_jobs, State.setRing, State.setDev_jobs, passOver_jobs]

theorem visited_pack (r k : Nat) (x : Ring) : (((s.passOver ld q r).writeRing ld k x).visited ld q r).pack = s.pack := by
  rw [State.visited, State.setQueue, State.setDev_pack, State.writeRing, State.hostWrite_pack, State.setRing, State.setDev_pack, passOver_pack]

end Passed

/-! ### MERGE_VISIT -/

section Visit

variable {s : State} {q : Fin 32} {r n type : Nat} {x : Ring} {p : Pkt} (hc : s.serveChoice s.arg.ld = some (q, false))

include hc

theorem exec_mergeVisit_barriers (ho : s.offer s.arg.ld q = some .barriers) :
    exec .mergeVisit s =
      .next ((s.ringsOf s.arg.ld q 127).foldl (fun t e => t.writeRing s.arg.ld e.1 (e.2.moveTo (e.2.rpos + 1))) s) := by
  rw [exec_mergeVisit, execMergeVisit]
  simp only [hc, ho]
  rfl

theorem exec_mergeVisit_inner {i : Indirect} (ho : s.offer s.arg.ld q = some .inner) (hi : (s.queue s.arg.ld q).indirect = some i)
    (hj : (s.takeInner s.arg.ld q i).jobs = []) : exec .mergeVisit s = .next (s.takeInner s.arg.ld q i) := by
  rw [exec_mergeVisit, execMergeVisit]
  simp only [hc, ho, hi, startJobs_none hj]

variable (ho : s.offer s.arg.ld q = some (.ring r)) (hx : s.ring s.arg.ld r = some x) (hh : s.headPacket x = some (n, type, p))

include ho hx hh

/-- A visit that takes the packet at a ring's head. -/
theorem exec_mergeVisit_ring : exec .mergeVisit s =
    .next ((((((s.passOver s.arg.ld q r).passHead s.arg.ld r x n p).visited s.arg.ld q r).takePacket s.arg.ld q (Fin.ofNat 128 r) x.rpos none
      type p).served s.arg.ld q).startJobs) := by
  rw [exec_mergeVisit, execMergeVisit]
  simp only [hc, ho, State.takeRing, hx, hh]
  rfl

/-- The same of a packet that is no LINK: `t` is the state in which its command has begun. -/
theorem exec_mergeVisit_taken {t : State} (hp : ∀ ret base units, p ≠ .link ret base units)
    (ht : (((s.passOver s.arg.ld q r).writeRing s.arg.ld r (x.moveTo (x.rpos + n))).visited s.arg.ld q r).takePacket s.arg.ld q (Fin.ofNat 128 r)
      x.rpos none type p = t) (hj : t.jobs = []) : exec .mergeVisit s = .next (t.served s.arg.ld q) := by
  have hpass : (s.passOver s.arg.ld q r).passHead s.arg.ld r x n p =
      (s.passOver s.arg.ld q r).writeRing s.arg.ld r (x.moveTo (x.rpos + n)) := by
    cases p with
    | link ret base units => exact absurd rfl (hp ret base units)
    | nop | launch | barrier | indirect | freeze | bad => rfl
  rw [exec_mergeVisit_ring hc ho hx hh, hpass, ht, startJobs_none (served_jobs.trans hj)]

end Visit

theorem exec_mergeVisit_link {s : State} {q : Fin 32} {r n type base units : Nat} {x : Ring}
    (hc : s.serveChoice s.arg.ld = some (q, false)) (ho : s.offer s.arg.ld q = some (.ring r)) (hx : s.ring s.arg.ld r = some x)
    (hh : s.headPacket x = some (n, type, .link false base units)) (hj : s.jobs = []) :
    exec .mergeVisit s = .next ((((s.passOver s.arg.ld q r).writeRing s.arg.ld r { x with
      rpos := x.rpos + n, segStart := x.rpos + n, segBase := base, segUnits := units, barrier := false }).visited s.arg.ld q r).served
        s.arg.ld q) := by
  have htake (t : State) : t.takePacket s.arg.ld q (Fin.ofNat 128 r) x.rpos none type (.link false base units) = t := rfl
  rw [exec_mergeVisit_ring hc ho hx hh, htake, State.passHead]
  exact congrArg Host.Outcome.next (startJobs_none (served_jobs.trans ((visited_jobs r r _).trans hj)))

/-- What a packet is in a queue of a context, and in the system queue. -/
theorem onQueue_launch {asn : Asn} (h : asn ≠ 0) (l : Packet) : (Pkt.launch l).onQueue asn = .launch l := if_neg h

theorem takePacket_bad {s : State} {ld : Fin 4} {q : Fin 32} {asn : Asn} (hq : (s.queue ld q).asn = asn) {p : Pkt}
    (h : p = .bad ∨ (∃ l, p = .launch l ∧ asn = 0) ∨ ∃ t d, p = .freeze t d ∧ asn ≠ 0) (ring : Fin 128) (pos : Nat) (ioff : Option Nat)
    (type : Nat) :
    s.takePacket ld q ring pos ioff type p = s.pushRecord ld q (recordDwords 1 8 type ring.val pos ioff s.pack.time) := by
  have hbad : p.onQueue asn = .bad := by
    rcases h with rfl | ⟨l, rfl, h0⟩ | ⟨t, d, rfl, h0⟩
    · rfl
    · exact if_pos h0
    · exact if_neg h0
  rw [State.takePacket, hq, hbad]

theorem setQueue_jobs (s : State) (ld : Fin 4) (q : Fin 32) (x : LQueue) : (s.setQueue ld q x).jobs = s.jobs := by
  rw [State.setQueue, State.setDev_jobs]

/-- The state after a visit has passed the packet at a ring's head. -/
def State.passed (s : State) (ld : Fin 4) (q : Fin 32) (r n : Nat) (x : Ring) : State :=
  ((s.passOver ld q r).writeRing ld r (x.moveTo (x.rpos + n))).visited ld q r

section Head

variable {s : State} {q : Fin 32} {r n type : Nat} {x : Ring} (hc : s.serveChoice s.arg.ld = some (q, false))
  (ho : s.offer s.arg.ld q = some (.ring r)) (hx : s.ring s.arg.ld r = some x)

include hc ho hx

theorem exec_mergeVisit_nop (hh : s.headPacket x = some (n, type, .nop)) (hj : s.jobs = []) :
    exec .mergeVisit s = .next ((s.passed s.arg.ld q r n x).served s.arg.ld q) :=
  exec_mergeVisit_taken hc ho hx hh (by simp) rfl ((visited_jobs r r _).trans hj)

theorem exec_mergeVisit_launch {l : Packet} (hh : s.headPacket x = some (n, type, .launch l)) (hj : s.jobs = [])
    (h0 : (s.queue s.arg.ld q).asn ≠ 0) :
    let t := s.passed s.arg.ld q r n x
    exec .mergeVisit s = .next (({ t with
      launches := t.launches ++ [{ newLaunch t s.arg.ld (s.queue s.arg.ld q).asn q (.ring (Fin.ofNat 128 r) x.rpos none) none 0 l false with
        depWide := t.depAhead s.arg.ld l.dep }],
      nextId := t.nextId + 1 }).served s.arg.ld q) := by
  intro t
  have hasn : (t.queue s.arg.ld q).asn = (s.queue s.arg.ld q).asn := writeRing_asn r r _
  have hjobs : t.jobs = [] := (visited_jobs r r _).trans hj
  refine exec_mergeVisit_taken (t := { t with
    launches := t.launches ++ [{ newLaunch t s.arg.ld (s.queue s.arg.ld q).asn q (.ring (Fin.ofNat 128 r) x.rpos none) none 0 l false with
      depWide := t.depAhead s.arg.ld l.dep }],
    nextId := t.nextId + 1 }) hc ho hx hh (by simp) ?_ hjobs
  change t.takePacket s.arg.ld q (Fin.ofNat 128 r) x.rpos none type (.launch l) = _
  rw [State.takePacket, hasn, onQueue_launch h0]

theorem exec_mergeVisit_indirect {a units : Nat} (hh : s.headPacket x = some (n, type, .indirect a units)) (hj : s.jobs = []) :
    let t := s.passed s.arg.ld q r n x
    exec .mergeVisit s = .next ((t.setQueue s.arg.ld q { t.queue s.arg.ld q with
      indirect := some ⟨Fin.ofNat 128 r, x.rpos, BitVec.ofNat 48 a, units, 0⟩ }).served s.arg.ld q) :=
  exec_mergeVisit_taken hc ho hx hh (by simp) rfl ((setQueue_jobs ..).trans ((visited_jobs r r _).trans hj))

theorem exec_mergeVisit_bad {p : Pkt} (hh : s.headPacket x = some (n, type, p)) (hj : s.jobs = [])
    (h : p = .bad ∨ (∃ l, p = .launch l ∧ (s.queue s.arg.ld q).asn = 0) ∨ ∃ t d, p = .freeze t d ∧ (s.queue s.arg.ld q).asn ≠ 0) :
    exec .mergeVisit s = .next (((s.passed s.arg.ld q r n x).pushRecord s.arg.ld q
      (recordDwords 1 8 type (Fin.ofNat 128 r).val x.rpos none s.pack.time)).served s.arg.ld q) := by
  have hlink (ret : Bool) (base units : Nat) : p ≠ .link ret base units := by
    rcases h with rfl | ⟨l, rfl, -⟩ | ⟨t, d, rfl, -⟩ <;> simp
  have htime : (s.passed s.arg.ld q r n x).pack.time = s.pack.time := congrArg Pack.time (visited_pack r r _)
  refine exec_mergeVisit_taken hc ho hx hh hlink ?_ ((setQueue_jobs ..).trans ((visited_jobs r r _).trans hj))
  rw [← htime]
  exact takePacket_bad (writeRing_asn r r _) h ..

end Head

theorem mergeVisit_rings (s : State) (q : Fin 32) (r n type : Nat) (x : Ring) (p : Pkt) :
    let ld := s.arg.ld
    let visited := fun (t : State) => t.setQueue ld q { t.queue ld q with lastRing := r }
    let passed := s.passOver ld q r
    let moved := visited (passed.writeRing ld r (x.moveTo (x.rpos + n)))
    let asn := (s.queue ld q).asn
    s.serveChoice ld = some (q, false) → s.offer ld q = some (.ring r) → s.ring ld r = some x → s.headPacket x = some (n, type, p) →
    s.jobs = [] →
    (p = .nop → exec .mergeVisit s = .next (moved.served ld q)) ∧
    (∀ base units, p = .link false base units →
      exec .mergeVisit s = .next ((visited (passed.writeRing ld r { x with
        rpos := x.rpos + n, segStart := x.rpos + n, segBase := base, segUnits := units, barrier := false })).served ld q)) ∧
    (∀ l, p = .launch l → asn ≠ 0 →
      exec .mergeVisit s = .next (({ moved with
        launches := moved.launches ++ [{ newLaunch moved ld asn q (.ring (Fin.ofNat 128 r) x.rpos none) none 0 l false with
          depWide := moved.depAhead ld l.dep }],
        nextId := moved.nextId + 1 }).served ld q)) ∧
    (∀ a units, p = .indirect a units →
      exec .mergeVisit s = .next ((moved.setQueue ld q { moved.queue ld q with
        indirect := some ⟨Fin.ofNat 128 r, x.rpos, BitVec.ofNat 48 a, units, 0⟩ }).served ld q)) ∧
    ((p = .bad ∨ (∃ l, p = .launch l ∧ asn = 0) ∨ (∃ t d, p = .freeze t d ∧ asn ≠ 0)) →
      exec .mergeVisit s =
        .next ((moved.pushRecord ld q (recordDwords 1 8 type (Fin.ofNat 128 r).val x.rpos none s.pack.time)).served ld q)) := by
  intro ld visited passed moved asn hc ho hx hh hj
  refine ⟨?_, ?_, ?_, ?_, fun h => ?_⟩
  · rintro rfl
    exact exec_mergeVisit_nop hc ho hx hh hj
  · rintro base units rfl
    exact exec_mergeVisit_link hc ho hx hh hj
  · rintro l rfl h0
    exact exec_mergeVisit_launch hc ho hx hh hj h0
  · rintro a units rfl
    exact exec_mergeVisit_indirect hc ho hx hh hj
  · exact exec_mergeVisit_bad hc ho hx hh hj h

/-! ### INDIRECT -/

theorem takeInner_launch {s t u : State} {ld : Fin 4} {q : Fin 32} {i : Indirect} {h d : List DWord} {p : Packet}
    (h1 : s.indirectUnits ld q i 1 = .ok (t, h)) (hunits : unitsOf (dw h 0) = 2) (hfit : i.next + 2 < i.units) (h2 : t.indirectUnits ld q i 2 = .ok (u, d)) (hp : Pkt.parse d false = .launch p)
    (hasn : (u.queue ld q).asn = (s.queue ld q).asn) (h0 : (s.queue ld q).asn ≠ 0) :
    let l := { newLaunch u ld (s.queue ld q).asn q (.ring i.ring i.pos (some i.next)) none 0 p false with depWide := u.depAhead ld p.dep }
    let w : State := { u with launches := u.launches ++ [l], nextId := u.nextId + 1 }
    s.takeInner ld q i = (w.setQueue ld q { w.queue ld q with indirect := some { i with next := i.next + 2 } }).served ld q := by
  intro l w
  have htake : u.takePacket ld q i.ring i.pos (some i.next) (bits (dw h 0) 0 8) (.launch p) = w := by
    rw [State.takePacket, hasn, onQueue_launch h0]
  have hfits : decide (i.next + 2 ≤ i.units) = true := decide_eq_true hfit.le
  have hmore : ¬ i.units ≤ i.next + 2 := Nat.not_le.mpr hfit
  simp only [State.takeInner, h1, hunits, hfits, if_true, h2, hp, Pkt.inner, htake, hmore, if_false]

theorem takeInner_refused {s : State} {ld : Fin 4} {q : Fin 32} {i : Indirect} {why : Nat}
    (h : s.places { ld := ld, asn := (s.queue ld q).asn, priv := .user, kind := .load } ((i.addr.toNat + 64 * i.next) % 2 ^ 48) 64 =
      .error why) :
    s.takeInner ld q i = s.parkIndirect ld q (s.queue ld q).asn why
      (s.refusedAt { ld := ld, asn := (s.queue ld q).asn, priv := .user, kind := .load } ((i.addr.toNat + 64 * i.next) % 2 ^ 48) 64) := by
  have hunits : s.indirectUnits ld q i 1 = .error (s.parkIndirect ld q (s.queue ld q).asn why
      (s.refusedAt { ld := ld, asn := (s.queue ld q).asn, priv := .user, kind := .load } ((i.addr.toNat + 64 * i.next) % 2 ^ 48) 64)) := by
    simp only [State.indirectUnits, Nat.mul_one, h]
  simp only [State.takeInner, hunits]

/-- Settles O19: a visit does what the dispatcher's choice and the queue's offer say. -/
theorem mergeVisits : Obligations.MergeVisits := by
  refine ⟨fun s q hc ho => exec_mergeVisit_barriers hc ho, fun s ld q r k x hone h hne => passOver_ring hone h hne, mergeVisit_rings,
    fun s q i hc ho hi hj => exec_mergeVisit_inner hc ho hi hj, ?inner, fun s ld q i why h => takeInner_refused h, fun s hc => ?none⟩
  case inner => exact fun s t u ld q i h d type p h1 hunits _ hfit h2 hp hasn h0 => takeInner_launch h1 hunits hfit h2 hp hasn h0
  case none =>
    rw [exec_mergeVisit, execMergeVisit]
    simp only [hc]

end Sys2Proof.Machine
end

section
/-! PROOFS. Handles: exports, revocation and imports (R402, R415 to R418). -/

namespace Sys2Proof.Machine

open Sys2Proof

/-! ### Table entries -/

theorem dwordsOf_append_dword (d : DWord) (bs : List Byte) : dwordsOf (toBytes 8 d.toNat ++ bs) = d :: dwordsOf bs := by
  have hd : (toBytes 8 d.toNat).length = 8 := length_toBytes ..
  have hlen : (toBytes 8 d.toNat ++ bs).length / 8 = bs.length / 8 + 1 := by rw [List.length_append, hd]; omega
  have hdrop (i : Nat) : (toBytes 8 d.toNat ++ bs).drop (8 * (i + 1)) = bs.drop (8 * i) := by
    rw [Nat.mul_add, Nat.mul_one, Nat.add_comm, ← List.drop_drop, List.drop_left' hd]
  rw [dwordsOf, dwordsOf, hlen, List.range_succ_eq_map, List.map_cons, List.map_map, Nat.mul_zero, List.drop_zero, List.take_left' hd,
    ofBytes_dword]
  exact congrArg (d :: ·) (List.map_congr_left fun i _ => by simp only [Function.comp, Nat.succ_eq_add_one, hdrop])

/-- A table entry of four dwords, as it stands in memory. -/
theorem tableEntry_of_bytes {s : State} {ld : Fin 4} {pa : Nat} {d0 d1 d2 d3 : DWord}
    (h : s.physRead ld pa 32 = toBytes 8 d0.toNat ++ toBytes 8 d1.toNat ++ toBytes 8 d2.toNat ++ toBytes 8 d3.toNat) :
    s.tableEntry ld pa = [d0, d1, d2, d3] := by
  have hlast : dwordsOf (toBytes 8 d3.toNat) = [d3] := by
    rw [← List.append_nil (toBytes 8 d3.toNat), dwordsOf_append_dword]
    rfl
  rw [State.tableEntry, h, List.append_assoc, List.append_assoc, dwordsOf_append_dword, dwordsOf_append_dword, dwordsOf_append_dword, hlast]

theorem readEntry_of_bytes {s : State} {ld : Fin 4} {pa : Nat} {d0 d1 d2 d3 : DWord}
    (h : s.physRead ld pa 32 = toBytes 8 d0.toNat ++ toBytes 8 d1.toNat ++ toBytes 8 d2.toNat ++ toBytes 8 d3.toNat) :
    s.readEntry ld pa = (s.physMeet ld pa 32, [d0, d1, d2, d3]) := by
  rw [State.readEntry, tableEntry_of_bytes h]

theorem beyond_physMeet (s : State) (ld : Fin 4) (pa n : Nat) : (s.physMeet ld pa n).beyond = s.beyond := by
  unfold State.physMeet
  split
  · rfl
  · exact beyond_meetGranules ..

theorem pkgid_physMeet (s : State) (ld : Fin 4) (pa n : Nat) : (s.physMeet ld pa n).pack.pkgid = s.pack.pkgid := by
  change (s.physMeet ld pa n).beyond.pack.pkgid = s.beyond.pack.pkgid
  rw [beyond_physMeet]

theorem top_dword (x : DWord) (n : Nat) (h : 64 = n + 8) : x.toNat / 2 ^ n % 2 ^ 8 = x.toNat / 2 ^ n := by
  refine Nat.mod_eq_of_lt (Nat.div_lt_of_lt_mul ?_)
  rw [← Nat.pow_add, ← h]
  exact x.isLt

/-- A dword is zero where its number is. -/
theorem toNat_beq_zero (x : DWord) : (x.toNat == 0) = decide (x = 0) := by
  rw [beq_eq_decide]
  exact decide_eq_decide.mpr ⟨fun h => BitVec.eq_of_toNat_eq h, fun h => by rw [h]; rfl⟩

/-! ### EXPORT and REVOKE -/

/-- An export entry is sound (R415). -/
def exportSound (d0 d1 d2 d3 : DWord) : Prop :=
  let base := d0.toNat % 2 ^ 48
  let size := d1.toNat
  base % 2 ^ 16 = 0 ∧ size % 2 ^ 16 = 0 ∧ 2 ^ 16 ≤ size ∧ size < 2 ^ 48 ∧ base + size ≤ 2 ^ 48 ∧ d2.toNat < 2 ^ 32 ∧ d3 = 0

theorem exportOk_iff (d0 d1 d2 d3 : DWord) : exportOk [d0, d1, d2, d3] = true ↔ exportSound d0 d1 d2 d3 := by
  have htop := bits_top_beq_zero [d0, d1, d2, d3] 2 (i := 32) (n := 32) rfl
  simp only [exportOk, htop, bits_low]
  simp only [dw, List.getD_cons_zero, List.getD_cons_succ, toNat_beq_zero, Bool.and_eq_true, beq_iff_eq,
    decide_eq_true_iff, exportSound, and_assoc]

/-- The entry that an EXPORT makes of a sound table entry. -/
def exportOf (pkgid : Byte) (ld : Fin 4) (n : Fin 256) (d0 d1 : DWord) (gen : Word) : ExportEntry :=
  let asn : Asn := BitVec.ofNat 12 (d0.toNat / 2 ^ 48)
  let rights : BitVec 3 := BitVec.ofNat 3 (d0.toNat / 2 ^ 60)
  let base : Addr := BitVec.ofNat 48 (d0.toNat % 2 ^ 48)
  let size : Addr := BitVec.ofNat 48 d1.toNat
  { n := n, rights := rights, asn := asn, base := base, size := size, gen := gen, token := tokenOf pkgid ld n asn base size rights gen }

section Export

variable {s : State} {ld : Fin 4} {n : Fin 256} {d0 d1 d2 d3 : DWord}
  (hb : s.physRead ld (s.devices[ld].exportEntry n) 32 =
    toBytes 8 d0.toNat ++ toBytes 8 d1.toNat ++ toBytes 8 d2.toNat ++ toBytes 8 d3.toNat)

include hb

theorem exportRange_gives {met : State} {m : Device} (hmet : s.physMeet ld (s.devices[ld].exportEntry n) 32 = met)
    (hm : met.devices[ld] = m) (hbusy : m.xBusy = false) (hs : exportSound d0 d1 d2 d3) :
    s.exportRange ld n =
      let x := exportOf s.pack.pkgid ld n d0 d1 (m.gen n + 1)
      (met.setDev ld { m with
        exports := x :: m.exports.filter (fun k => k.n ≠ n), gens := putBy n.val (m.gen n + 1) m.gens, xToken := x.token }).writeExport
          ld n d0.toNat true (m.gen n + 1) := by
  have hbase : BitVec.ofNat 48 (d0.toNat % 2 ^ 48) = BitVec.ofNat 48 d0.toNat := by rw [← bits_low, ofNat_bits_low]
  have hpkg : met.pack.pkgid = s.pack.pkgid := by rw [← hmet, pkgid_physMeet]
  simp only [State.exportRange, readEntry_of_bytes hb, hmet, hm, hbusy, (exportOk_iff ..).mpr hs, Bool.not_true, Bool.or_self,
    Bool.false_eq_true, if_false, dw, List.getD_cons_zero, List.getD_cons_succ, ofNat_bits, hpkg, exportOf, hbase]

theorem exportRange_refuses {met : State} {m : Device} (hmet : s.physMeet ld (s.devices[ld].exportEntry n) 32 = met)
    (hm : met.devices[ld] = m) (h : m.xBusy = true ∨ ¬ exportSound d0 d1 d2 d3) :
    s.exportRange ld n = met.setDev ld { m with xBad := true } := by
  have hbad : (m.xBusy || !exportOk [d0, d1, d2, d3]) = true := by
    rcases h with h | h
    · rw [h, Bool.true_or]
    · rw [Bool.eq_false_iff.mpr (mt (exportOk_iff ..).mp h), Bool.not_false, Bool.or_true]
  simp only [State.exportRange, readEntry_of_bytes hb, hmet, hm, hbad, if_true, State.xBad]

theorem revoke_gives {met : State} {m : Device} (hmet : s.physMeet ld (s.devices[ld].exportEntry n) 32 = met)
    (hm : met.devices[ld] = m) (hbusy : s.devices[ld].xBusy = false) (he : ∃ e ∈ s.devices[ld].exports, e.n = n) :
    s.revoke ld n =
      let d := s.devices[ld]
      (met.setDev ld { m with
        exports := d.exports.filter (fun k => k.n ≠ n), gens := putBy n.val (d.gen n + 1) d.gens, xBusy := true }).writeExport
          ld n d0.toNat false (d.gen n + 1) := by
  have hany : (s.devices[ld].exports.any fun e => e.n == n) = true := by simpa using he
  simp only [State.revoke, hbusy, hany, Bool.not_true, Bool.or_self, Bool.false_eq_true, if_false, readEntry_of_bytes hb, hmet, hm, dw,
    List.getD_cons_zero]

end Export

theorem revoke_refuses {s : State} {ld : Fin 4} {n : Fin 256} (h : s.devices[ld].xBusy = true ∨ ∀ e ∈ s.devices[ld].exports, e.n ≠ n) :
    s.revoke ld n = s.setDev ld { s.devices[ld] with xBad := true } := by
  have hbad : (s.devices[ld].xBusy || !s.devices[ld].exports.any fun e => e.n == n) = true := by
    rcases h with h | h
    · rw [h, Bool.true_or]
    · have hany : (s.devices[ld].exports.any fun e => e.n == n) = false := by simpa using h
      rw [hany, Bool.not_false, Bool.or_true]
  rw [State.revoke, if_pos hbad]
  rfl

/-- A change of a device that keeps its exports keeps the entries that tokens name. -/
theorem exportFor_setDev {s : State} {ld : Fin 4} {d : Device} (h : d.exports = s.devices[ld].exports) (token : DWord) :
    (s.setDev ld d).exportFor token = s.exportFor token := by
  have hget (m : Fin 4) : (s.setDev ld d).devices[m].exports = s.devices[m].exports := by
    simp only [State.setDev, Fin.getElem_fin, Vector.getElem_set]
    split
    next he => rw [h]; exact congrArg (fun k : Fin 4 => s.devices[k].exports) (Fin.ext he)
    · rfl
  simp only [State.exportFor, hget]

theorem exec_revokeComplete_ends {s : State} (hbusy : s.devices[s.arg.ld].xBusy = true)
    (hpending : s.devices[s.arg.ld].pendingImport = none) : exec .revokeComplete s =
      .next ((s.setDev s.arg.ld { s.devices[s.arg.ld] with xBusy := false }).dropPeers fun p => (s.exportFor p.token).isNone) := by
  have hrev : s.devices[s.arg.ld].revoking = true := by rw [Device.revoking, hbusy, hpending]; rfl
  have hkeep : (s.setDev s.arg.ld { s.devices[s.arg.ld] with xBusy := false }).exportFor = s.exportFor :=
    funext (exportFor_setDev (d := { s.devices[s.arg.ld] with xBusy := false }) rfl)
  rw [exec_revokeComplete, execRevokeComplete, if_pos hrev]
  simp only [hkeep]

theorem exec_revokeComplete_waits {s : State} (h : s.devices[s.arg.ld].xBusy = false ∨ s.devices[s.arg.ld].pendingImport ≠ none) :
    exec .revokeComplete s = .next s := by
  have hrev : ¬ s.devices[s.arg.ld].revoking = true := by
    rw [Device.revoking, Bool.and_eq_true, Option.isNone_iff_eq_none]
    rintro ⟨hbusy, hnone⟩
    exact h.elim (fun hb => absurd (hbusy.symm.trans hb) (by decide)) fun hp => hp hnone
  rw [exec_revokeComplete, execRevokeComplete, if_neg hrev]

/-! ### IMPORT and UNIMPORT -/

/-- An import entry is sound (R417; log entry 117). -/
def importSound (d0 d1 d3 : DWord) : Prop :=
  let win := d0.toNat % 2 ^ 48
  d0.toNat / 2 ^ 48 % 2 ^ 15 = 0 ∧ win % 2 ^ 16 = 0 ∧ inPeer win = true ∧ d1.toNat < 2 ^ 48 ∧ d3 = 0

theorem importOk_iff (d0 d1 d2 d3 : DWord) : importOk [d0, d1, d2, d3] = true ↔ importSound d0 d1 d3 := by
  have htop := bits_top_beq_zero [d0, d1, d2, d3] 1 (i := 48) (n := 16) rfl
  simp only [importOk, htop, bits_low]
  simp only [bits, dw, List.getD_cons_zero, List.getD_cons_succ, toNat_beq_zero, Bool.and_eq_true, beq_iff_eq,
    decide_eq_true_iff, importSound, and_assoc]

section Import

variable {s : State} {ld : Fin 4} {n : Fin 256} {d0 d1 d2 d3 : DWord}
  (hb : s.physRead ld (s.devices[ld].importEntry n) 32 =
    toBytes 8 d0.toNat ++ toBytes 8 d1.toNat ++ toBytes 8 d2.toNat ++ toBytes 8 d3.toNat)

include hb

theorem importSend_sends {met : State} {m : Device} (hmet : s.physMeet ld (s.devices[ld].importEntry n) 32 = met)
    (hm : met.devices[ld] = m) (hbusy : m.xBusy = false) (hs : importSound d0 d1 d3) (asn : Asn) :
    s.importSend ld asn n = met.setDev ld { m with xBusy := true, pendingImport := some ⟨n, asn, met.pack.time, none⟩ } := by
  simp only [State.importSend, readEntry_of_bytes hb, hmet, hm, hbusy, (importOk_iff ..).mpr hs, Bool.not_true, Bool.or_self,
    Bool.false_eq_true, if_false]

theorem importSend_refuses {met : State} {m : Device} (hmet : s.physMeet ld (s.devices[ld].importEntry n) 32 = met)
    (hm : met.devices[ld] = m) (h : m.xBusy = true ∨ ¬ importSound d0 d1 d3) (asn : Asn) :
    s.importSend ld asn n = met.setDev ld { m with xBad := true } := by
  have hbad : (m.xBusy || !importOk [d0, d1, d2, d3]) = true := by
    rcases h with h | h
    · rw [h, Bool.true_or]
    · rw [Bool.eq_false_iff.mpr (mt (importOk_iff ..).mp h), Bool.not_false, Bool.or_true]
  simp only [State.importSend, readEntry_of_bytes hb, hmet, hm, hbad, if_true, State.xBad]

theorem unimport_ends {met : State} {m : Device} (hmet : s.physMeet ld (s.devices[ld].importEntry n) 32 = met)
    (hm : met.devices[ld] = m) (hbusy : s.devices[ld].xBusy = false) (he : ∃ e ∈ s.devices[ld].imports, e.n = n) :
    s.unimport ld n = (met.setDev ld { m with imports := s.devices[ld].imports.filter fun k => k.n ≠ n }).physWrite ld
      (s.devices[ld].importEntry n) (toBytes 8 (d0.toNat % 2 ^ 63)) := by
  have hany : (s.devices[ld].imports.any fun e => e.n == n) = true := by simpa using he
  simp only [State.unimport, hbusy, hany, Bool.not_true, Bool.or_self, Bool.false_eq_true, if_false, readEntry_of_bytes hb, hmet, hm, dw,
    List.getD_cons_zero, dwordBytes]

end Import

theorem unimport_refuses {s : State} {ld : Fin 4} {n : Fin 256} (h : s.devices[ld].xBusy = true ∨ ∀ e ∈ s.devices[ld].imports, e.n ≠ n) :
    s.unimport ld n = s.setDev ld { s.devices[ld] with xBad := true } := by
  have hbad : (s.devices[ld].xBusy || !s.devices[ld].imports.any fun e => e.n == n) = true := by
    rcases h with h | h
    · rw [h, Bool.true_or]
    · have hany : (s.devices[ld].imports.any fun e => e.n == n) = false := by simpa using h
      rw [hany, Bool.not_false, Bool.or_true]
  rw [State.unimport, if_pos hbad]
  rfl

/-! ### The answer to an import -/

theorem tokenHere_iff {s : State} {token : DWord} : s.tokenHere token = true ↔ token.toNat / 2 ^ 56 = s.pack.pkgid.toNat := by
  rw [State.tokenHere, beq_iff_eq, bits, top_dword token 56 rfl]

section Answer

variable {s : State} {w : ImportWait} {d0 d1 d2 d3 : DWord} (hw : s.devices[s.arg.ld].pendingImport = some w)
  (hb : s.physRead s.arg.ld (s.devices[s.arg.ld].importEntry w.n) 32 =
    toBytes 8 d0.toNat ++ toBytes 8 d1.toNat ++ toBytes 8 d2.toNat ++ toBytes 8 d3.toNat)

include hw hb

theorem exec_importRequestArrival_answers (hhere : d2.toNat / 2 ^ 56 = s.pack.pkgid.toNat) (hnone : w.answer = none) :
    exec .importRequestArrival s = .next (s.setDev s.arg.ld { s.devices[s.arg.ld] with
      pendingImport := some { w with answer := some (s.importAnswer d2 d1.toNat) } }) := by
  have hgo : s.tokenHere d2 = true ∧ w.answer.isNone = true := ⟨tokenHere_iff.mpr hhere, by rw [hnone]; rfl⟩
  rw [exec_importRequestArrival, execImportRequestArrival]
  simp only [hw, tableEntry_of_bytes hb, List.getD_cons_zero, List.getD_cons_succ, dw]
  exact if_pos hgo

theorem exec_importRequestArrival_ignored (h : ¬ d2.toNat / 2 ^ 56 = s.pack.pkgid.toNat ∨ w.answer ≠ none) :
    exec .importRequestArrival s = .next s := by
  rw [exec_importRequestArrival, execImportRequestArrival]
  simp only [hw, tableEntry_of_bytes hb, List.getD_cons_zero, List.getD_cons_succ, dw]
  refine if_neg fun hgo => ?_
  exact h.elim (fun hfar => hfar (tokenHere_iff.mp hgo.1)) fun hdone => hdone (Option.isNone_iff_eq_none.mp hgo.2)

theorem exec_importResponse_fails {a : Fin 4} (ha : s.importResult w d2 = some a) (h0 : a ≠ 0) :
    exec .importResponse s = .next (s.setDev s.arg.ld { s.devices[s.arg.ld] with xBusy := false, pendingImport := none, xResult := a }) := by
  rw [exec_importResponse, execImportResponse]
  simp only [hw, tableEntry_of_bytes hb, List.getD_cons_zero, List.getD_cons_succ, ha, h0, if_false]

theorem exec_importResponse_waits (ha : s.importResult w d2 = none) : exec .importResponse s = .next s := by
  rw [exec_importResponse, execImportResponse]
  simp only [hw, tableEntry_of_bytes hb, List.getD_cons_zero, List.getD_cons_succ, ha]

theorem exec_importResponse_takes (ha : s.importResult w d2 = some 0) :
    exec .importResponse s = .next ((s.setDev s.arg.ld { s.devices[s.arg.ld] with
      xBusy := false, pendingImport := none, xResult := 0
      imports := { n := w.n, asn := w.asn, win := BitVec.ofNat 48 d0.toNat, size := BitVec.ofNat 48 d1.toNat, token := d2 } ::
        s.devices[s.arg.ld].imports.filter fun k => k.n ≠ w.n }).physWrite s.arg.ld (s.devices[s.arg.ld].importEntry w.n)
          (toBytes 8 (2 ^ 63 + d0.toNat % 2 ^ 63))) := by
  rw [exec_importResponse, execImportResponse]
  simp only [hw, tableEntry_of_bytes hb, List.getD_cons_zero, List.getD_cons_succ, ha, if_true, dw]
  rfl

end Answer

theorem importResult_answered {s : State} {w : ImportWait} {a : Fin 4} (h : w.answer = some a) (token : DWord) :
    s.importResult w token = some a := by
  rw [State.importResult, h]

theorem importResult_late {s : State} {w : ImportWait} (h : w.answer = none) (ht : w.since + 1000000 ≤ s.pack.time) (token : DWord) :
    s.importResult w token = some 3 := by
  rw [State.importResult, h]
  exact if_pos ht

theorem importResult_waits {s : State} {w : ImportWait} {token : DWord} (h : w.answer = none) (ht : s.pack.time < w.since + 1000000)
    (hhere : token.toNat / 2 ^ 56 = s.pack.pkgid.toNat) : s.importResult w token = none := by
  rw [State.importResult, h]
  simp only [Nat.not_le.mpr ht, if_false, tokenHere_iff.mpr hhere, true_or, if_true]

/-! ### The statement -/

/-- Settles O22: each command reads its table entry, and what it does depends on BUSY and on the entry alone. -/
theorem handleEvents : Obligations.HandleEvents := by
  refine ⟨fun s hs => ⟨?_, ?_, ?_, ?_⟩, ?exports, fun s => ⟨exec_revokeComplete_ends, exec_revokeComplete_waits⟩, ?imports, ?answers⟩
  · exact (exec_exportHandle s).trans (onDevice_of_not_serves hs _)
  · exact (exec_revokeHandle s).trans (onDevice_of_not_serves hs _)
  · exact (exec_importHandle s).trans (onDevice_of_not_serves hs _)
  · exact (exec_unimportHandle s).trans (onDevice_of_not_serves hs _)
  case exports =>
    intro s d0 d1 d2 d3 hs ld d n met m hb
    refine ⟨fun hbusy hsound => ?_, fun h => ?_, fun hbusy he => ?_, fun h => ?_⟩
    · exact exec_command (exec_exportHandle s) hs (exportRange_gives hb rfl rfl hbusy hsound)
    · exact exec_command (exec_exportHandle s) hs (exportRange_refuses hb rfl rfl h)
    · exact exec_command (exec_revokeHandle s) hs (revoke_gives hb rfl rfl hbusy he)
    · exact exec_command (exec_revokeHandle s) hs (revoke_refuses h)
  case imports =>
    intro s d0 d1 d2 d3 hs ld d n met m win sound hb
    refine ⟨fun hbusy hsound => ?_, fun h => ?_, fun hbusy he => ?_, fun h => ?_⟩
    · exact exec_command (exec_importHandle s) hs (importSend_sends hb rfl rfl hbusy hsound _)
    · exact exec_command (exec_importHandle s) hs (importSend_refuses hb rfl rfl h _)
    · exact exec_command (exec_unimportHandle s) hs (unimport_ends hb rfl rfl hbusy he)
    · exact exec_command (exec_unimportHandle s) hs (unimport_refuses h)
  case answers =>
    intro s w d0 d1 d2 d3 ld d at_ here ended taken hw hb
    refine ⟨fun hhere hnone => ?_, fun h => ?_, fun a h0 ha => ?_, fun hnone ht => ?_, fun hnone ht hhere => ?_, fun ha => ?_⟩
    · exact exec_importRequestArrival_answers hw hb hhere hnone
    · exact exec_importRequestArrival_ignored hw hb h
    · exact exec_importResponse_fails hw hb (importResult_answered ha d2) h0
    · exact exec_importResponse_fails hw hb (importResult_late hnone ht d2) (by decide)
    · exact exec_importResponse_waits hw hb (importResult_waits hnone ht hhere)
    · exact exec_importResponse_takes hw hb (importResult_answered ha d2)

end Sys2Proof.Machine
end

section
/-! PROOFS. Contexts: their commands, the image of a stopped one, and the ends of FREEZE and THAW (R401 to R414). -/

namespace Sys2Proof.Machine

open Sys2Proof

/-! ### Commands (R403, R407) -/

theorem ctx_setCtx_self (s : State) (ld : Fin 4) (asn : Asn) (c : Ctx) : (s.setCtx ld asn c).ctx ld asn = c := by
  simp only [State.ctx, State.setCtx, getBy_putBy_self, Option.getD_some]

/-- A context number names a context, and no command is under way (R401, R403). -/
def State.ctxAble (s : State) (ld : Fin 4) (asn : Asn) : Prop := asn ≠ 0 ∧ (s.ctx ld s.devices[ld].ctxSel).state ≠ .stopping

section
variable {s : State} {ld : Fin 4} {asn : Asn} {ok : Ctx → Bool} {f : State → State}

theorem ctxCommand_taken (h : s.ctxAble ld asn) (hok : ok (s.ctx ld asn) = true) : ctxCommand s ld asn ok f = f s := by
  obtain ⟨h0, hsel⟩ := h
  have hbusy : s.ctxBusy ld = false := beq_eq_false_iff_ne.mpr hsel
  have hnum : (asn == 0) = false := beq_eq_false_iff_ne.mpr h0
  rw [ctxCommand, hbusy, hnum, hok]
  rfl

theorem ctxCommand_refused (h : s.ctxAble ld asn → ok (s.ctx ld asn) = false) : ctxCommand s ld asn ok f = s.ctxRefused ld := by
  unfold ctxCommand
  refine if_pos ?_
  by_cases ha : s.ctxAble ld asn
  · simp [h ha]
  · simp only [State.ctxAble, not_and_or, ne_eq, not_not] at ha
    rcases ha with ha | ha
    · simp [ha]
    · have hbusy : s.ctxBusy ld = true := beq_iff_eq.mpr ha
      simp [hbusy]

end

theorem loseLaunches_none {s : State} {c : Ctx} (h : c.image = none) : s.loseLaunches c = s := by
  simp [State.loseLaunches, h]

theorem loseLaunches_some {s : State} {c : Ctx} {i : SavedCtx} (h : c.image = some i) :
    s.loseLaunches c = i.launches.foldl (fun s l => State.endLaunch s l 3 0 0) s := by
  simp [State.loseLaunches, h]

/-- A context ends: its exports and imports, what its device keeps of it, and its registers (R403). -/
def State.endCtx (s : State) (ld : Fin 4) (asn : Asn) : State :=
  let v := (s.closeExports ld false fun e => e.asn == asn).closeImports ld fun e => e.asn == asn
  { v.setDev ld (v.devices[ld].endContext asn) with ctxs := delBy (ctxKey ld asn) v.ctxs }

section
variable {s : State} {ld : Fin 4} {asn : Asn}

theorem destroyCtx_idle (ha : s.ctxAble ld asn) (hi : (s.ctx ld asn).image = none)
    (h : ((s.ctx ld asn).state = .live ∧ ∀ l ∈ s.launches, ¬ (l.ld = ld ∧ l.asn = asn)) ∨ (s.ctx ld asn).state = .frozen) :
    s.destroyCtx ld asn = s.endCtx ld asn := by
  rw [State.destroyCtx, ctxCommand_taken ha, loseLaunches_none hi]
  · rfl
  · rcases h with ⟨hl, hno⟩ | hf
    · simpa [hl] using hno
    · simp [hf]

theorem destroyCtx_saved {i : SavedCtx} (ha : s.ctxAble ld asn) (hi : (s.ctx ld asn).image = some i)
    (hs : (s.ctx ld asn).state = .saved) :
    s.destroyCtx ld asn = (i.launches.foldl (fun u l => State.endLaunch u l 3 0 0) s).endCtx ld asn := by
  rw [State.destroyCtx, ctxCommand_taken ha (by simp [hs]), loseLaunches_some hi]
  rfl

theorem destroyCtx_refused (h : ¬ s.ctxAble ld asn ∨ (s.ctx ld asn).state = .free ∨ (s.ctx ld asn).state = .stopping ∨
      ((s.ctx ld asn).state = .live ∧ ∃ l ∈ s.launches, l.ld = ld ∧ l.asn = asn)) :
    s.destroyCtx ld asn = s.ctxRefused ld := by
  unfold State.destroyCtx
  refine ctxCommand_refused fun ha => ?_
  rcases h with h | h | h | ⟨h, hl⟩
  · exact absurd ha h
  · simp [h]
  · simp [h]
  · simpa [h] using hl

/-! ### RESUME (R407) -/

theorem tryResume_waits {i : SavedCtx} (hi : (s.ctx ld asn).image = some i) (hf : s.imageFree i = false) : s.tryResume ld asn = s := by
  simp [State.tryResume, hi, hf]

theorem tryResume_restores {i : SavedCtx} (hs : (s.ctx ld asn).state = .saved) (hi : (s.ctx ld asn).image = some i)
    (hr : (s.ctx ld asn).resuming = true) (hf : s.imageFree i = true) (ht : ∀ l ∈ i.launches, l.thaw = none)
    (hst : (i.standsAt (ctxKey ld asn) (s.saveReader ld (s.ctx ld asn).save.toNat)) = true) :
    s.tryResume ld asn = (s.physMeet ld (s.ctx ld asn).save.toNat i.length).restoreImage ld asn
      (i.reread (s.saveReader ld (s.ctx ld asn).save.toNat)) := by
  have hno : (i.launches.any fun l => l.thaw.isSome) = false := by
    rw [List.any_eq_false]
    intro l hl
    simp [ht l hl]
  simp only [State.tryResume, hi, hs, hr, hf, hno, hst, and_self, if_true, Bool.not_false, Bool.true_and, Bool.false_eq_true, if_false]

theorem resumeCtx_waits (ha : s.ctxAble ld asn) (hs : (s.ctx ld asn).state = .saved) (hr : (s.ctx ld asn).resuming = false) :
    s.resumeCtx ld asn = s.setCtx ld asn { s.ctx ld asn with resuming := true } :=
  ctxCommand_taken ha (by simp [hs, hr])

/-- A context's registers do not change what memory reads. -/
theorem saveReader_setCtx (c : Ctx) (base : Nat) : (s.setCtx ld asn c).saveReader ld base = s.saveReader ld base := rfl

end

section
variable {s : State}

theorem exec_ctxResume_again (h : (s.ctx s.arg.ld s.arg.asn).resuming = true ∨ s.serves s.arg.ld = false) :
    exec .ctxResume s = .next (s.tryResume s.arg.ld s.arg.asn) := by
  rw [exec_ctxResume, execCtxResume, if_pos (by rcases h with h | h <;> simp [h])]

theorem exec_ctxResume_first (hr : (s.ctx s.arg.ld s.arg.asn).resuming = false) (h : s.serves s.arg.ld = true) :
    exec .ctxResume s = .next ((s.resumeCtx s.arg.ld s.arg.asn).tryResume s.arg.ld s.arg.asn) := by
  rw [exec_ctxResume, execCtxResume, if_neg (by simp [h, hr])]

end

theorem contextCommands (s : State) :
    let ld := s.arg.ld
    let asn : Asn := BitVec.ofNat 12 s.arg.num
    let c := s.ctx ld asn
    let d := s.devices[ld]
    let able := asn ≠ 0 ∧ (s.ctx ld d.ctxSel).state ≠ .stopping
    let refused := s.setDev ld { d with ctxBad := true }
    let closed := fun (u : State) =>
      let v := (u.closeExports ld false fun e => e.asn == asn).closeImports ld fun e => e.asn == asn
      { v.setDev ld (v.devices[ld].endContext asn) with ctxs := delBy (ctxKey ld asn) v.ctxs }
    s.serves ld = true →
    (able → c.state = .free → exec .create s = .next (s.setCtx ld asn { Ctx.free with state := .live })) ∧
    (¬ (able ∧ c.state = .free) → exec .create s = .next refused) ∧
    (able → c.image = none → ((c.state = .live ∧ ∀ l ∈ s.launches, ¬ (l.ld = ld ∧ l.asn = asn)) ∨ c.state = .frozen) →
      exec .destroy s = .next (closed s)) ∧
    (∀ i, able → c.image = some i → c.state = .saved →
      exec .destroy s = .next (closed (i.launches.foldl (fun u l => State.endLaunch u l 3 0 0) s))) ∧
    ((¬ able ∨ c.state = .free ∨ c.state = .stopping ∨ (c.state = .live ∧ ∃ l ∈ s.launches, l.ld = ld ∧ l.asn = asn)) →
      exec .destroy s = .next refused) ∧
    (able → c.state = .live → exec .preempt s = .next (s.setCtx ld asn { c with state := .stopping, rewind := s.arg.flag })) ∧
    (¬ (able ∧ c.state = .live) → exec .preempt s = .next refused) := by
  intro ld asn c d able refused closed hserves
  have hcreate : exec .create s = .next (s.createCtx ld asn) := onDevice_of_serves hserves fun s => s.createCtx s.arg.ld s.arg.asn
  have hdestroy : exec .destroy s = .next (s.destroyCtx ld asn) := onDevice_of_serves hserves fun s => s.destroyCtx s.arg.ld s.arg.asn
  have hpreempt : exec .preempt s = .next (s.preemptCtx ld asn s.arg.flag) :=
    onDevice_of_serves hserves fun s => s.preemptCtx s.arg.ld s.arg.asn s.arg.flag
  rw [hcreate, hdestroy, hpreempt]
  refine ⟨fun ha hc => congrArg _ (ctxCommand_taken ha (by simpa using hc)),
    fun h => congrArg _ (ctxCommand_refused fun ha => by simpa using fun hc => h ⟨ha, hc⟩),
    fun ha hi h => congrArg _ (destroyCtx_idle ha hi h), fun i ha hi hs => congrArg _ (destroyCtx_saved ha hi hs),
    fun h => congrArg _ (destroyCtx_refused h), fun ha hc => congrArg _ (ctxCommand_taken ha (by simpa using hc)),
    fun h => congrArg _ (ctxCommand_refused fun ha => by simpa using fun hc => h ⟨ha, hc⟩)⟩

theorem contextResume (s : State) :
    let ld := s.arg.ld
    let asn : Asn := BitVec.ofNat 12 s.arg.num
    let c := s.ctx ld asn
    let able := asn ≠ 0 ∧ (s.ctx ld s.devices[ld].ctxSel).state ≠ .stopping
    s.serves ld = true → ∀ i, able → c.state = .saved → c.image = some i →
      let waits := s.setCtx ld asn { c with resuming := true }
      c.resuming = false →
        (waits.imageFree i = false → exec .ctxResume s = .next waits) ∧
        (waits.imageFree i = true → (∀ l ∈ i.launches, l.thaw = none) →
          (i.standsAt (ctxKey ld asn) fun o n => s.physRead ld (c.save.toNat + o) n) = true →
            exec .ctxResume s = .next ((waits.physMeet ld c.save.toNat i.length).restoreImage ld asn
              (i.reread fun o n => s.physRead ld (c.save.toNat + o) n))) := by
  intro ld asn c able hserves i ha hs hi waits hr
  have hexec : exec .ctxResume s = .next (waits.tryResume ld asn) := by
    rw [exec_ctxResume_first hr hserves]
    exact congrArg (fun (u : State) => Host.Outcome.next (u.tryResume ld asn)) (resumeCtx_waits ha hs hr)
  have hc : waits.ctx ld asn = { c with resuming := true } := ctx_setCtx_self ..
  have hs' : (waits.ctx ld asn).state = .saved := by rw [hc]; exact hs
  have hi' : (waits.ctx ld asn).image = some i := by rw [hc]; exact hi
  have hr' : (waits.ctx ld asn).resuming = true := by rw [hc]
  have hsave : (waits.ctx ld asn).save = c.save := by rw [hc]
  rw [hexec]
  refine ⟨fun hf => congrArg _ (tryResume_waits hi' hf), fun hf ht hst => congrArg _ ?_⟩
  rw [tryResume_restores hs' hi' hr' hf ht, hsave, saveReader_setCtx]
  · rfl
  · rw [hsave, saveReader_setCtx]
    exact hst

/-! ### The image of a stopped context, and FREEZE (R405, R407, R409 to R412) -/

theorem exec_preemptComplete_waits {s : State} (hq : s.quiet s.arg.ld s.arg.asn = false) : exec .preemptComplete s = .next s := by
  simp only [exec_preemptComplete, execPreemptComplete]
  exact if_neg (by simp [hq])

theorem exec_preemptComplete_saves {s : State} {i : SavedCtx} (hs : (s.ctx s.arg.ld s.arg.asn).state = .stopping)
    (hj : ∀ j ∈ s.jobs, j.thaw = true ∨ s.freezes j s.arg.ld s.arg.asn = false) (hq : s.quiet s.arg.ld s.arg.asn = true)
    (hi : ((s.saveContext s.arg.ld s.arg.asn).ctx s.arg.ld s.arg.asn).image = some i) :
    exec .preemptComplete s = .next ((s.saveContext s.arg.ld s.arg.asn).writeImage s.arg.ld
      ((s.saveContext s.arg.ld s.arg.asn).ctx s.arg.ld s.arg.asn).save.toNat (ctxKey s.arg.ld s.arg.asn) i) := by
  have hno : ¬ (s.jobs.any fun j => !j.thaw && s.freezes j s.arg.ld s.arg.asn) = true := by
    simpa using fun j hm ht => (hj j hm).resolve_left (by simp [ht])
  rw [exec_preemptComplete]
  refine (if_pos ⟨hs, hq, hno⟩).trans (congrArg _ ?_)
  generalize s.saveContext s.arg.ld s.arg.asn = t at hi ⊢
  rw [hi, Option.elim_some]

theorem exec_freezeComplete_of_find {s : State} {j : FreezeJob}
    (h : s.jobs.find? (fun j => j.id == s.arg.num && !j.thaw && j.started) = some j) :
    exec .freezeComplete s = .next
      (if (s.frozenBy j fun st => st == .stopping).all fun k => s.quiet k.1 k.2 then s.finishFreeze j else s) := by
  rw [exec_freezeComplete, execFreezeComplete, h]

/-- Written to host memory, every piece of an image stands (R411). -/
theorem putFreeze_host {j : FreezeJob} (h : j.fab = false) (ps : List (Nat × List Byte)) (s : State) :
    ps.foldl (fun (acc : Option State) p => acc.bind fun s => s.putFreeze j p.1 p.2) (some s) =
      some (ps.foldl (fun (u : State) p => u.hostWrite (j.addr.toNat + p.1) p.2) s) := by
  induction ps generalizing s with
  | nil => rfl
  | cons p ps ih =>
    rw [List.foldl_cons, List.foldl_cons, ← ih]
    simp [State.putFreeze, h]

/-- The contexts that a FREEZE has stopped, without their rows in caches. -/
def State.emptiedFor (s : State) (j : FreezeJob) : State :=
  (s.frozenBy j fun st => st == .saved).foldl (fun (u : State) k => u.emptyCaches k.1 k.2) s

/-- The pages that a FREEZE writes (R409). -/
def State.frozenPages (s : State) (j : FreezeJob) : List (Nat × Nat × Nat) :=
  (s.frozenBy j fun st => st == .saved).flatMap fun k =>
    ((s.emptiedFor j).ctx k.1 k.2).image.elim [] ((s.emptiedFor j).residentPages k.1 k.2)

/-- The state once the reads of those pages have met the errors that stand there (R377). -/
def State.readyToFreeze (s : State) (j : FreezeJob) : State := (s.frozenPages j).foldl State.pageMeet (s.emptiedFor j)

/-- The image that a FREEZE writes (R409). -/
def State.freezeImage (s : State) (j : FreezeJob) : FreezeImage :=
  { ctxs := (s.frozenBy j fun st => st == .saved).map fun k => (ctxKey k.1 k.2, (s.readyToFreeze j).ctx k.1 k.2)
    pages := s.frozenPages j
    poison := (s.frozenPages j).flatMap fun p =>
      ((List.range 2048).filter fun g => ((s.readyToFreeze j).pageLoc p (32 * g)).any (s.readyToFreeze j).isBad).map fun g =>
        (p.1, p.2.1, p.2.2 + 32 * g) }

theorem finishFreeze_of_stopped {s : State} {j : FreezeJob} (h : s.frozenBy j (fun st => st == .stopping) = []) :
    s.finishFreeze j =
      if !(s.readyToFreeze j).freezePath j then (s.readyToFreeze j).endJob j 1 13
      else if j.cap.toNat < piecesEnd ((s.readyToFreeze j).freezePieces (s.freezeImage j)) then (s.readyToFreeze j).endJob j 1 14
      else match ((s.readyToFreeze j).freezePieces (s.freezeImage j)).foldl
          (fun (acc : Option State) p => acc.bind fun s => s.putFreeze j p.1 p.2) (some (s.readyToFreeze j)) with
        | none => (s.readyToFreeze j).endJob j 1 13
        | some t => (State.freezeContexts { t with images := s.freezeImage j :: t.images }
            (s.frozenBy j fun st => st == CtxState.saved)).endJob j 0 0 := by
  rw [State.finishFreeze, h]
  rfl

theorem finishFreeze_without_path {s : State} {j : FreezeJob} (h : s.frozenBy j (fun st => st == .stopping) = [])
    (hp : (s.readyToFreeze j).freezePath j = false) : s.finishFreeze j = (s.readyToFreeze j).endJob j 1 13 := by
  rw [finishFreeze_of_stopped h, if_pos (by simp [hp])]

theorem finishFreeze_beyond_capacity {s : State} {j : FreezeJob} (h : s.frozenBy j (fun st => st == .stopping) = [])
    (hp : (s.readyToFreeze j).freezePath j = true)
    (hcap : j.cap.toNat < piecesEnd ((s.readyToFreeze j).freezePieces (s.freezeImage j))) :
    s.finishFreeze j = (s.readyToFreeze j).endJob j 1 14 := by
  rw [finishFreeze_of_stopped h, if_neg (by simp [hp]), if_pos hcap]

/-- What a FREEZE to host memory writes. -/
def State.frozenToHost (s : State) (j : FreezeJob) : State :=
  ((s.readyToFreeze j).freezePieces (s.freezeImage j)).foldl (fun (u : State) p => u.hostWrite (j.addr.toNat + p.1) p.2)
    (s.readyToFreeze j)

theorem hostWrites_images (ps : List (Nat × List Byte)) (a : Nat) (s : State) :
    (ps.foldl (fun (u : State) p => u.hostWrite (a + p.1) p.2) s).images = s.images := by
  induction ps generalizing s with
  | nil => rfl
  | cons p ps ih => rw [List.foldl_cons, ih]; rfl

theorem finishFreeze_to_host {s : State} {j : FreezeJob} (h : s.frozenBy j (fun st => st == .stopping) = [])
    (hp : (s.readyToFreeze j).freezePath j = true)
    (hcap : piecesEnd ((s.readyToFreeze j).freezePieces (s.freezeImage j)) ≤ j.cap.toNat) (hfab : j.fab = false) :
    s.finishFreeze j =
      (State.freezeContexts { s.frozenToHost j with images := s.freezeImage j :: (s.readyToFreeze j).images }
        (s.frozenBy j fun st => st == .saved)).endJob j 0 0 := by
  rw [finishFreeze_of_stopped h, if_neg (by simp [hp]), if_neg (Nat.not_lt.mpr hcap), putFreeze_host hfab]
  simp only [State.frozenToHost, hostWrites_images]

/-! ### The header's CRC, and THAW (R405, R414) -/

theorem length_withCrc (b : List Byte) : (withCrc b).length = b.length + 4 := by
  simp [withCrc]

theorem crcOk_withCrc (b : List Byte) : crcOk (withCrc b) = true := by
  have htake : (withCrc b).take ((withCrc b).length - 4) = b := by
    rw [length_withCrc, Nat.add_sub_cancel, withCrc, List.take_left]
  rw [crcOk, htake]
  simp [length_withCrc]

theorem header_length (i : SavedCtx) (key : Nat) (pkgid : Byte) : (i.header key pkgid).length = 4096 := by
  simp only [SavedCtx.header, length_withCrc, List.length_append, List.length_take, List.length_replicate]
  omega

theorem exec_thawComplete_waits {s : State} {j : FreezeJob}
    (h : s.jobs.find? (fun j => j.id == s.arg.num && j.thaw && j.started) = some j) (hl : ∃ l ∈ s.launches, l.thaw = some j.id) :
    exec .thawComplete s = .next s := by
  have hleft : (s.launches.any fun l => l.thaw == some j.id) = true := by simpa using hl
  simp only [exec_thawComplete, execThawComplete, h]
  exact if_pos (by simp [hleft])

theorem exec_thawComplete_ends {s : State} {j : FreezeJob}
    (h : s.jobs.find? (fun j => j.id == s.arg.num && j.thaw && j.started) = some j) (hl : ∀ l ∈ s.launches, l.thaw ≠ some j.id)
    (hi : ∀ e ∈ s.ctxs, ∀ i, e.2.image = some i → ∀ l ∈ i.launches, l.thaw ≠ some j.id) :
    exec .thawComplete s = .next (s.endJob j (bits (j.outcome.getD 0).toNat 62 2) (bits (j.outcome.getD 0).toNat 56 6)) := by
  have hlaunches : (s.launches.any fun l => l.thaw == some j.id) = false := by simpa using hl
  have himages : (s.ctxs.any fun e => e.2.image.any fun i => i.launches.any fun l => l.thaw == some j.id) = false := by
    rw [List.any_eq_false]
    intro e he
    cases hc : e.2.image with
    | none => simp
    | some i => simpa using hi e he i hc
  simp only [exec_thawComplete, execThawComplete, h]
  exact if_neg (by simp [hlaunches, himages])

/-- A record's outcome and kind, as the dword that keeps them holds them (R397). -/
theorem outcome_bits {o k : Nat} (ho : o < 4) (hk : k < 64) :
    bits (BitVec.ofNat 64 (o * 2 ^ 62 + k * 2 ^ 56)).toNat 62 2 = o ∧ bits (BitVec.ofNat 64 (o * 2 ^ 62 + k * 2 ^ 56)).toNat 56 6 = k := by
  have hx : (BitVec.ofNat 64 (o * 2 ^ 62 + k * 2 ^ 56)).toNat = o * 2 ^ 62 + k * 2 ^ 56 := by
    rw [BitVec.toNat_ofNat, Nat.mod_eq_of_lt (by omega)]
  rw [hx]
  simp only [bits]
  omega

/-- Settles O21. -/
theorem contextEvents : Obligations.ContextEvents := by
  unfold Obligations.ContextEvents
  refine ⟨fun s => ⟨fun h => ⟨(exec_create s).trans (onDevice_of_not_serves h _),
      (exec_destroy s).trans (onDevice_of_not_serves h _), (exec_preempt s).trans (onDevice_of_not_serves h _),
      exec_ctxResume_again (.inr h)⟩, fun h => ?_, fun i hs hi hr => ?_⟩, fun s i => ?_, fun s j h => ?_, fun s j => ?_,
    fun i key pkgid => ⟨header_length i key pkgid, crcOk_withCrc _⟩, fun s j h => ⟨exec_thawComplete_waits h, fun hl hi => ?_⟩⟩
  · obtain ⟨h1, h2, h3, h4, h5, h6, h7⟩ := contextCommands s h
    exact ⟨h1, h2, h3, h4, h5, h6, h7, contextResume s h⟩
  · rw [exec_ctxResume_again (.inl hr)]
    exact ⟨fun hf => congrArg _ (tryResume_waits hi hf), fun hf ht hst => congrArg _ (tryResume_restores hs hi hr hf ht hst)⟩
  · intro ld asn saved hs hj
    exact ⟨exec_preemptComplete_waits, fun hq hi => exec_preemptComplete_saves hs hj hq hi⟩
  · intro stopping
    rw [exec_freezeComplete_of_find h]
    refine ⟨fun ⟨k, hk, hq⟩ => congrArg _ (if_neg ?_), fun hq => congrArg _ (if_pos (by simpa using fun a b => hq (a, b)))⟩
    simpa using ⟨k.1, k.2, hk, hq⟩
  · intro keys emptied pages e x wrote h
    exact ⟨finishFreeze_without_path h, finishFreeze_beyond_capacity h, finishFreeze_to_host h⟩
  · refine ⟨fun ho => ?_, fun o k ho hk hout => ?_⟩
    · rw [exec_thawComplete_ends h hl hi, ho]
      rfl
    · rw [exec_thawComplete_ends h hl hi, hout, Option.getD_some, (outcome_bits ho hk).1, (outcome_bits ho hk).2]

end Sys2Proof.Machine
end

section
/-! PROOFS. Starts, resets and the counter sector (R378, R426 to R433). -/

namespace Sys2Proof.Machine

open Sys2Proof

/-! ### What is read of memory after some of it is lost or cleared -/

/-- Entries changed or taken away leave what is read of every key that keeps its own. -/
theorem sget_filterMap_kept {α : Type} [DecidableEq α] {d : Nat → α} {f : Nat × α → Option (Nat × α)} {k n : Nat}
    (hf : ∀ e, f e = none ∨ ∃ v, f e = some (e.1, v)) (hk : ∀ v, f (k, v) = some (k, v)) {l : List (Nat × α)}
    (h : sortedAbove d n l = true) : sget d k (l.filterMap f) = sget d k l := by
  induction l generalizing n with
  | nil => rfl
  | cons e rest ih =>
    obtain ⟨x, a⟩ := e
    simp only [sortedAbove, Bool.and_eq_true, decide_eq_true_eq] at h
    obtain ⟨-, hr⟩ := h
    by_cases hx : k = x
    · subst hx
      simp only [List.filterMap_cons, hk, sget, if_true]
    · rcases hf (x, a) with hnone | ⟨v, hsome⟩
      · rw [List.filterMap_cons_none hnone, ih hr, sget, if_neg hx]
        split
        · exact sget_below d (by omega) hr
        · rfl
      · simp only [List.filterMap_cons, hsome, sget, hx, if_false, ih hr]

/-- A key of which no entry is left reads as the default. -/
theorem sget_absent {α : Type} {d : Nat → α} {k : Nat} {l : List (Nat × α)} (h : ∀ e ∈ l, e.1 ≠ k) : sget d k l = d k := by
  induction l with
  | nil => rfl
  | cons e rest ih =>
    rw [List.forall_mem_cons] at h
    simp only [sget, if_neg (Ne.symm h.1), ih h.2, ite_self]

theorem read_filter_kept {m : List Host.Cell} (h : Memory.wf m = true) {p : Host.Cell → Bool} {a : Nat} (hp : ∀ b, p (a, b) = true) :
    Memory.read (m.filter p) a = Memory.read m a := by
  rw [← List.filterMap_eq_filter]
  refine sget_filterMap_kept (fun e => ?_) (fun b => by simp [Option.guard, hp]) h
  by_cases he : p e = true
  · exact .inr ⟨e.2, by simp [Option.guard, he]⟩
  · exact .inl (by simp [Option.guard, he])

theorem read_clearRange_out {m : List Host.Cell} (h : Memory.wf m = true) {lo n a : Nat} (ha : ¬ (lo ≤ a ∧ a < lo + n)) :
    Memory.read (Memory.clearRange m lo n) a = Memory.read m a := read_filter_kept h fun _ => by simp [ha]

/-- What becomes undefined is HBM4 alone. -/
theorem read_undefinedCells_beyond {m : List Host.Cell} (h : Memory.wf m = true) (fresh : Nat) (p : Nat → Bool) {a : Nat} (ha : 2 ^ 64 ≤ a) :
    Memory.read (undefinedCells fresh p m) a = Memory.read m a := by
  refine sget_filterMap_kept (fun e => ?_) (fun b => if_neg fun hc => absurd hc.1 (by omega)) h
  by_cases hc : e.1 < 2 ^ 64 ∧ p e.1 = true
  · by_cases hb : (BitVec.ofNat 8 (Config.freeWord fresh e.1).toNat : Byte) = 0
    · exact .inl (by simp only [hc, and_self, if_true, hb])
    · exact .inr ⟨BitVec.ofNat 8 (Config.freeWord fresh e.1).toNat, by simp only [hc, and_self, if_true, hb, if_false]⟩
  · exact .inr ⟨e.2, by simp only [hc, if_false]⟩

theorem read_keptCells {m : List Host.Cell} (h : Memory.wf m = true) {a : Nat} (ha : 2 ^ 68 ≤ a) :
    Memory.read (keptCells m) a = Memory.read m a :=
  read_filter_kept h fun _ => by rw [decide_eq_true ha, Bool.or_true]

/-- Of HBM4 nothing is left. -/
theorem read_keptCells_hbm (m : List Host.Cell) {a : Nat} (ha : a < 2 ^ 64) : Memory.read (keptCells m) a = 0 := by
  have habsent : ∀ e ∈ keptCells m, e.1 ≠ a := by
    intro e he
    simp only [keptCells, List.mem_filter, Bool.or_eq_true, decide_eq_true_eq] at he
    omega
  rw [Memory.read, sget_absent habsent, memDefault, if_neg (by omega)]

/-! ### The counter sector (R429, R430) -/

theorem counterLoc_eq (i : Nat) : counterLoc i = counterLoc 0 + i := by
  simp only [counterLoc, flashLoc]
  omega

theorem flash_counterLoc (i : Nat) : 2 ^ 68 ≤ counterLoc i := by
  simp only [counterLoc, flashLoc]
  omega

theorem counterLoc_ne {i j : Nat} (h : i ≠ j) : counterLoc i ≠ counterLoc j := by
  rw [counterLoc_eq i, counterLoc_eq j]
  omega

theorem counter_eq (s : State) : s.counter = (List.range 16).map fun i => Memory.read s.mem (counterLoc i) :=
  List.map_congr_left fun i _ => by rw [counterLoc_eq i]

/-- Enough bytes other than 0xFF in front are counted. -/
theorem le_counted {bs : List Byte} {n : Nat} (hn : n ≤ bs.length) (h : ∀ i (hi : i < bs.length), i < n → bs[i] ≠ 0xFF) : n ≤ counted bs := by
  induction bs generalizing n with
  | nil => exact Nat.le_trans hn (Nat.zero_le _)
  | cons b bs ih =>
    cases n with
    | zero => exact Nat.zero_le _
    | succ n =>
      have hb : b ≠ 0xFF := h 0 (by simp) (by omega)
      have htail : n ≤ counted bs :=
        ih (by simpa using hn) fun i hi hin => h (i + 1) (by simpa using hi) (by omega)
      rw [counted, List.takeWhile_cons, if_pos (by simpa using hb), List.length_cons]
      exact Nat.succ_le_succ htail

/-- Where a number of bytes is counted, those are other than 0xFF. -/
theorem ne_of_lt_counted {bs : List Byte} {i : Nat} (hi : i < bs.length) (h : i < counted bs) : bs[i] ≠ 0xFF := by
  induction bs generalizing i with
  | nil => simp at hi
  | cons b bs ih =>
    by_cases hb : b = 0xFF
    · simp [counted, hb] at h
    · cases i with
      | zero => exact hb
      | succ i =>
        rw [counted, List.takeWhile_cons, if_pos (by simpa using hb), List.length_cons] at h
        exact ih (by simpa using hi) (Nat.lt_of_succ_lt_succ h)

theorem le_counted_counter {s : State} {n : Nat} (hn : n ≤ 16) :
    n ≤ counted s.counter ↔ ∀ i < n, Memory.read s.mem (counterLoc i) ≠ 0xFF := by
  have hlen : s.counter.length = 16 := by simp [counter_eq]
  have hget : ∀ i (hi : i < s.counter.length), s.counter[i] = Memory.read s.mem (counterLoc i) := by
    intro i hi
    simp only [counter_eq, List.getElem_map, List.getElem_range]
  constructor
  · intro h i hi
    rw [← hget i (by omega)]
    exact ne_of_lt_counted _ (by omega)
  · intro h
    refine le_counted (by omega) fun i hi hin => ?_
    rw [hget i hi]
    exact h i hin

theorem program_clears (x : Byte) : x &&& 0x7F ≠ 0xFF := by
  revert x
  decide

/-- One step of BOOTCTL SAFE: a byte is programmed unless more are counted. -/
def State.countTo (s : State) (i : Nat) : State := if counted s.counter ≤ i then s.program (counterLoc i) 0x7F else s

/-- Only bytes of flash, and which of them is being changed. -/
def State.FlashOnly (s t : State) : Prop := t = { s with mem := t.mem, pack := { s.pack with touched := t.pack.touched } }

theorem State.FlashOnly.refl (s : State) : s.FlashOnly s := rfl

theorem State.FlashOnly.trans {s t u : State} (h : s.FlashOnly t) (h' : t.FlashOnly u) : s.FlashOnly u := by
  unfold State.FlashOnly at h h' ⊢
  rw [h']
  rw [h]

theorem program_flashOnly (s : State) (l : Nat) (b : Byte) : s.FlashOnly (s.program l b) := rfl

theorem countTo_flashOnly (s : State) (i : Nat) : s.FlashOnly (s.countTo i) := by
  unfold State.countTo
  split
  · exact program_flashOnly s _ _
  · exact .refl s

theorem wf_countTo {s : State} (h : Memory.wf s.mem = true) (i : Nat) : Memory.wf (s.countTo i).mem = true := by
  unfold State.countTo
  split
  · exact wf_program h _ _
  · exact h

theorem read_countTo {s : State} (h : Memory.wf s.mem = true) {i a : Nat} (ha : a ≠ counterLoc i) :
    Memory.read (s.countTo i).mem a = Memory.read s.mem a := by
  unfold State.countTo
  split
  · exact read_write_ne h ha _
  · rfl

theorem counted_countTo {s : State} (h : Memory.wf s.mem = true) {i : Nat} (hi : i < 16) (hc : i ≤ counted s.counter) :
    i + 1 ≤ counted (s.countTo i).counter := by
  unfold State.countTo
  split
  · rw [le_counted_counter (by omega)] at hc ⊢
    intro k hk
    rcases Nat.lt_succ_iff_lt_or_eq.mp hk with hlt | rfl
    · rw [State.program, read_write_ne h (counterLoc_ne (by omega))]
      exact hc k hlt
    · rw [State.program, read_write_self h]
      exact program_clears _
  · omega

theorem bootSafe_of_free {s : State} (h : s.boardBusy = false) : s.bootSafe = ((s.countTo 0).countTo 1).countTo 2 := by
  have hfold : s.bootSafe = (List.range 3).foldl State.countTo s := by
    rw [State.bootSafe, h, if_neg Bool.false_ne_true]
    rfl
  have hrange : List.range 3 = [0, 1, 2] := by decide
  rw [hfold, hrange, List.foldl_cons, List.foldl_cons, List.foldl_cons, List.foldl_nil]

/-- BOOTCTL SAFE counts three bytes and changes no other (R437). -/
theorem bootSafe_counts {s : State} (hb : s.boardBusy = false) (h : Memory.wf s.mem = true) : ∃ t, exec .bootSafe s = .next t ∧ 3 ≤ counted t.counter ∧
      t = { s with mem := t.mem, pack := { s.pack with touched := t.pack.touched } } ∧
      ∀ a, a ≠ counterLoc 0 → a ≠ counterLoc 1 → a ≠ counterLoc 2 → Memory.read t.mem a = Memory.read s.mem a := by
  have h0 := wf_countTo h 0
  have h1 := wf_countTo h0 1
  have hcount : 3 ≤ counted (((s.countTo 0).countTo 1).countTo 2).counter :=
    counted_countTo h1 (by omega) (counted_countTo h0 (by omega) (counted_countTo h (by omega) (Nat.zero_le _)))
  refine ⟨_, congrArg Host.Outcome.next (bootSafe_of_free hb), hcount, ?_, fun a ha0 ha1 ha2 => ?_⟩
  · exact ((countTo_flashOnly s 0).trans (countTo_flashOnly _ 1)).trans (countTo_flashOnly _ 2)
  · rw [read_countTo h1 ha2, read_countTo h0 ha1, read_countTo h ha0]

/-! ### Starts (R426, R429) -/

theorem State.devices_setDev_other {s : State} {m ld : Fin 4} (h : m ≠ ld) (d : Device) : (s.setDev ld d).devices[m] = s.devices[m] :=
  Vector.getElem_set_ne ld.isLt m.isLt fun he => h (Fin.ext he.symm)

/-- The device's own fields but for its records of faults. -/
def Device.noFaults (d : Device) : Device := { d with faults := [] }

/-- Rows are retired between two states: what changes is the list of them, and the records that devices have of them (R378). -/
def State.Retires (s t : State) : Prop :=
  t = { s with devices := t.devices, pack := { s.pack with retired := t.pack.retired } } ∧
    ∀ ld : Fin 4, t.devices[ld].noFaults = s.devices[ld].noFaults ∧
      ∀ r ∈ t.devices[ld].faults, r ∈ s.devices[ld].faults ∨ (r.type = 6 ∧ r.owner = .record)

theorem State.Retires.refl (s : State) : s.Retires s := ⟨rfl, fun _ => ⟨rfl, fun _ hr => .inl hr⟩⟩

theorem State.Retires.trans {s t u : State} (h : s.Retires t) (h' : t.Retires u) : s.Retires u := by
  obtain ⟨hs, hd⟩ := h
  obtain ⟨hs', hd'⟩ := h'
  refine ⟨?_, fun ld => ⟨(hd' ld).1.trans (hd ld).1, fun r hr => ?_⟩⟩
  · rw [hs', hs]
  · rcases (hd' ld).2 r hr with h | h
    · exact (hd ld).2 r h
    · exact .inr h

theorem retireRows_retires (s : State) (lo hi : Nat) : s.Retires (s.retireRows lo hi) := by
  unfold State.retireRows
  split
  · exact .refl s
  · refine ⟨rfl, fun ld => ?_⟩
    by_cases hld : ld = homeDevice lo
    · subst hld
      rw [State.postFault, State.devices_setDev]
      refine ⟨rfl, fun r hr => ?_⟩
      rcases List.mem_append.mp hr with h | h
      · exact .inl h
      · rw [List.mem_singleton] at h
        exact .inr (by rw [h]; exact ⟨rfl, rfl⟩)
    · rw [State.postFault, State.devices_setDev_other hld]
      exact ⟨rfl, fun _ hr => .inl hr⟩

/-- A start's shadow of the remap table (R378). -/
def State.shadowing (s : State) : State :=
  let table := s.pack.remap.map fun (e : RemapEntry) => if e.bad && Config.flashHasEntry e.lo e.hi then { e with bad := false } else e
  { s with pack := { s.pack with remap := table, shadow := table, shadowed := [], retired := [] } }

/-- The rows of bad entries of the remap table are retired. -/
def State.retireBad (s : State) : State := (s.pack.remap.filter RemapEntry.bad).foldl (fun s e => State.retireRows s e.lo e.hi) s

theorem loadShadows_eq (s : State) : s.loadShadows = s.shadowing.retireBad := rfl

theorem retireBad_retires (s : State) : s.Retires s.retireBad := by
  have hfold : ∀ (l : List RemapEntry) (u : State), u.Retires (l.foldl (fun s e => State.retireRows s e.lo e.hi) u) := by
    intro l
    induction l with
    | nil => exact fun u => .refl u
    | cons e l ih => exact fun u => (retireRows_retires u e.lo e.hi).trans (ih _)
  exact hfold _ s

theorem retireBad_of_good {s : State} (h : ∀ e ∈ s.pack.remap, e.bad = false) : s.retireBad = s := by
  have hnone : s.pack.remap.filter RemapEntry.bad = [] := List.filter_eq_nil_iff.mpr fun e he => by simp [h e he]
  rw [State.retireBad, hnone, List.foldl_nil]

theorem shadowing_good {s : State} (h : ∀ e ∈ s.pack.remap, e.bad = false) : ∀ e ∈ s.shadowing.pack.remap, e.bad = false := by
  intro e he
  obtain ⟨e', he', rfl⟩ := List.mem_map.mp he
  simp [h e' he']

/-- What a start does before its image is checked: the reason of the watchdog's reset, and the attempt counted (R429). -/
def State.attempted (s : State) : State × Nat × Nat := (if s.pack.watchdogLatch then s.noteLast 5 else s).countAttempt

/-- The state of a start whose attempt has been counted. -/
def State.starting (s : State) : State :=
  let u := s.attempted.1
  { u with
    pack := { u.pack with
      attempts := s.attempted.2.1, safe := decide (3 ≤ s.attempted.2.1), reason := BitVec.ofNat 8 s.attempted.2.2
      startTime := u.pack.time, watchdogLatch := false }
    fresh := u.fresh + 1 }

/-- The state of a start whose image has passed. -/
def State.trained (s : State) : State :=
  let u := s.starting
  let safe := decide (3 ≤ s.attempted.2.1)
  let gen0 := linkGeneration safe u.fresh 1
  let gen2 := if safe then 0 else linkGeneration false u.fresh 2
  { u with pack := { u.pack with
      stage := .running, fwver := imageVersion s.attempted.1.image
      meas := firmwareExtends u.fresh (u.pack.meas.set 0 (sha512 (u.pack.meas[0] ++ imageDigest s.attempted.1.image)))
      trained := true, hostUp0 := gen0, hostUp2 := gen2
      cxl := decide (6 ≤ max gen0.val gen2.val) && Config.freeBit u.fresh 3 } }

theorem bootStart_passes {s : State} (h : startReason s.attempted.1.image s.starting.fresh = 0) : s.bootStart = s.trained.loadShadows := by
  simp only [State.starting, State.attempted] at h
  unfold State.bootStart
  simp only [h]
  rfl

/-- A start that has failed for a reason: the recovery service, or a package reset (R426, R432). -/
def State.failed (s : State) (r : Nat) : State :=
  let u := s.starting.noteReason s.attempted.2.1 r
  if r = 1 ∧ decide (3 ≤ s.attempted.2.1) = true then { u with pack := { u.pack with stage := .recovery } } else u.packageReset false

theorem bootStart_fails {s : State} (h : startReason s.attempted.1.image s.starting.fresh ≠ 0) :
    ∃ r, s.bootStart = s.failed r := by
  refine ⟨startReason s.attempted.1.image s.starting.fresh, ?_⟩
  unfold State.bootStart
  dsimp only
  split
  case h_1 heq => exact absurd heq h
  case h_2 => rfl

/-! ### What a start leaves (R433) -/

theorem eraseSector_flashOnly (s : State) (k : Nat) : s.FlashOnly (s.eraseSector k) := rfl

theorem noteReason_flashOnly (s : State) (i r : Nat) : s.FlashOnly (s.noteReason i r) := by
  unfold State.noteReason
  split
  · exact program_flashOnly s _ _
  · exact .refl s

theorem noteLast_flashOnly (s : State) (r : Nat) : s.FlashOnly (s.noteLast r) := by
  unfold State.noteLast
  split
  · exact program_flashOnly s _ _
  · exact noteReason_flashOnly s _ r

theorem countAttempt_flashOnly (s : State) : s.FlashOnly s.countAttempt.1 := by
  unfold State.countAttempt
  dsimp only
  split
  · exact ((((eraseSector_flashOnly s _).trans (program_flashOnly _ _ _)).trans (program_flashOnly _ _ _)).trans
      (program_flashOnly _ _ _)).trans (program_flashOnly _ _ _)
  · exact program_flashOnly s _ _

theorem attempted_flashOnly (s : State) : s.FlashOnly s.attempted.1 := by
  unfold State.attempted
  split
  · exact (noteLast_flashOnly s 5).trans (countAttempt_flashOnly _)
  · exact countAttempt_flashOnly s

/-- Only memory, the package's own state and the free values differ. -/
def State.SameParts (s t : State) : Prop := t = { s with mem := t.mem, pack := t.pack, fresh := t.fresh }

theorem State.FlashOnly.sameParts {s t : State} (h : s.FlashOnly t) : s.SameParts t := by
  unfold State.FlashOnly at h
  rw [h]
  rfl

theorem State.SameParts.trans {s t u : State} (h : s.SameParts t) (h' : t.SameParts u) : s.SameParts u := by
  unfold State.SameParts at h h' ⊢
  rw [h', h]

theorem starting_sameParts (s : State) : s.SameParts s.starting := (attempted_flashOnly s).sameParts.trans rfl

theorem trained_sameParts (s : State) : s.SameParts s.trained := (starting_sameParts s).trans rfl

theorem emptied_of_sameParts {s t u : State} (h : t.SameParts u) (he : Emptied s t) : Emptied s u := by
  unfold State.SameParts at h
  rw [h]
  exact he

theorem emptied_restart (s : State) (mem : List Host.Cell) (stage : BootStage) (latch : Bool) : Emptied s (s.restart mem stage latch) :=
  ⟨rfl, rfl, rfl, rfl, rfl, rfl, rfl, rfl, rfl, rfl, rfl, rfl, rfl, rfl, rfl, rfl, rfl⟩

theorem emptied_packageReset (s : State) (latch : Bool) : Emptied s (s.packageReset latch) := emptied_restart s _ _ _

theorem emptied_failed {s : State} (he : Emptied s s) (r : Nat) : Emptied s (s.failed r) := by
  have hnoted : s.SameParts (s.starting.noteReason s.attempted.2.1 r) :=
    (starting_sameParts s).trans (noteReason_flashOnly _ _ _).sameParts
  unfold State.failed
  dsimp only
  split
  · exact emptied_of_sameParts (hnoted.trans rfl) he
  · have hreset := emptied_packageReset (s.starting.noteReason s.attempted.2.1 r) false
    unfold State.SameParts at hnoted
    rw [hnoted] at hreset ⊢
    exact hreset

theorem noFaults_reset : Device.reset.noFaults = Device.reset := rfl

theorem devices_of_emptied {s t : State} (h : Emptied s t) : t.devices = Vector.replicate 4 Device.reset := by
  obtain ⟨-, -, -, -, -, -, -, -, -, -, -, -, -, -, hd, -⟩ := h
  exact hd

theorem device_of_emptied {s t : State} (h : Emptied s t) (ld : Fin 4) : t.devices[ld] = Device.reset := by
  rw [devices_of_emptied h]
  exact Vector.getElem_replicate _

/-- An empty part whose rows are retired is empty but for the records of them. -/
theorem emptied_of_retires {s t u : State} (h : t.Retires u) (he : Emptied s t) :
    Emptied s { u with devices := u.devices.map Device.noFaults } ∧ ∀ ld : Fin 4, ∀ r ∈ u.devices[ld].faults, r.type = 6 ∧ r.owner = .record := by
  obtain ⟨hu, hd⟩ := h
  have hdevices : u.devices.map Device.noFaults = t.devices := by
    refine Vector.ext fun i hi => ?_
    have hnone : u.devices[i].noFaults = t.devices[i].noFaults := (hd ⟨i, hi⟩).1
    have hreset : t.devices[i] = Device.reset := device_of_emptied he ⟨i, hi⟩
    rw [Vector.getElem_map, hnone, hreset, noFaults_reset]
  refine ⟨?_, fun ld r hr => ?_⟩
  · rw [hdevices, hu]
    exact he
  · refine ((hd ld).2 r hr).resolve_left fun hin => ?_
    rw [device_of_emptied he ld] at hin
    exact absurd hin (List.not_mem_nil)

theorem remap_trained (s : State) : s.trained.pack.remap = s.pack.remap := by
  have h := attempted_flashOnly s
  unfold State.FlashOnly at h
  rw [State.trained, State.starting, h]

theorem startLeavesEmpty (s : State) (he : Emptied s s) :
    ((∀ e ∈ s.pack.remap, e.bad = false) → Emptied s s.bootStart) ∧
    Emptied s { s.bootStart with devices := s.bootStart.devices.map Device.noFaults } ∧
    ∀ ld : Fin 4, ∀ r ∈ s.bootStart.devices[ld].faults, r.type = 6 ∧ r.owner = .record := by
  by_cases h : startReason s.attempted.1.image s.starting.fresh = 0
  · have hshadow : Emptied s s.trained.shadowing := emptied_of_sameParts ((trained_sameParts s).trans rfl) he
    rw [bootStart_passes h, loadShadows_eq]
    refine ⟨fun hgood => ?_, emptied_of_retires (retireBad_retires _) hshadow⟩
    rw [retireBad_of_good (shadowing_good (by rwa [remap_trained]))]
    exact hshadow
  · obtain ⟨r, hr⟩ := bootStart_fails h
    have hfail := emptied_failed he r
    rw [hr]
    exact ⟨fun _ => hfail, emptied_of_retires (.refl _) hfail⟩

theorem retireBad_pack (s : State) : s.retireBad.pack = { s.pack with retired := s.retireBad.pack.retired } :=
  congrArg State.pack (retireBad_retires s).1

theorem retireBad_mem (s : State) : s.retireBad.mem = s.mem :=
  (congrArg State.mem (retireBad_retires s).1).trans rfl

theorem attempted_pack (s : State) : s.attempted.1.pack = { s.pack with touched := s.attempted.1.pack.touched } :=
  congrArg State.pack (attempted_flashOnly s)

theorem firmwareExtends_first (fresh : Nat) (meas : Vector (List Byte) 4) : (firmwareExtends fresh meas)[(0 : Fin 4)] = meas[(0 : Fin 4)] := by
  rw [firmwareExtends]
  exact (Vector.getElem_ofFn _).trans (if_pos rfl)

theorem shadowing_mem (s : State) : s.shadowing.mem = s.mem := by rw [State.shadowing]

theorem trained_mem (s : State) : s.trained.mem = s.starting.mem := by rw [State.trained]

theorem starting_mem (s : State) : s.starting.mem = s.attempted.1.mem := by rw [State.starting]

section
variable {s : State} (h : startReason s.attempted.1.image s.starting.fresh = 0)
include h

theorem bootStart_mem : s.bootStart.mem = s.attempted.1.mem := by
  rw [bootStart_passes h, loadShadows_eq, retireBad_mem, shadowing_mem, trained_mem, starting_mem]

theorem bootStart_pack : s.bootStart.pack = { s.trained.shadowing.pack with retired := s.bootStart.pack.retired } := by
  rw [bootStart_passes h, loadShadows_eq]
  exact retireBad_pack _

theorem bootStart_stage : s.bootStart.pack.stage = .running := by rw [bootStart_pack h]; rfl

theorem bootStart_attempts : s.bootStart.pack.attempts = s.attempted.2.1 := by rw [bootStart_pack h]; rfl

theorem bootStart_safe : s.bootStart.pack.safe = decide (3 ≤ s.attempted.2.1) := by rw [bootStart_pack h]; rfl

theorem bootStart_fwver : s.bootStart.pack.fwver = imageVersion s.attempted.1.image := by rw [bootStart_pack h]; rfl

theorem bootStart_startTime : s.bootStart.pack.startTime = s.pack.time := by
  have htime : s.attempted.1.pack.time = s.pack.time := by rw [attempted_pack]
  rw [bootStart_pack h]
  exact htime

theorem bootStart_meas :
    s.bootStart.pack.meas[(0 : Fin 4)] = sha512 (s.pack.meas[(0 : Fin 4)] ++ imageDigest s.attempted.1.image) := by
  have hmeas : s.attempted.1.pack.meas = s.pack.meas := by rw [attempted_pack]
  rw [bootStart_pack h]
  refine (firmwareExtends_first _ _).trans ((Vector.getElem_set_self (by decide)).trans ?_)
  rw [← hmeas]
  rfl

theorem bootStart_hostUp2 (hs : s.bootStart.pack.safe = true) : s.bootStart.pack.hostUp2 = 0 := by
  rw [bootStart_safe h] at hs
  rw [bootStart_pack h]
  exact if_pos hs

end

theorem program_blank {s : State} {l : Nat} (h : Memory.read s.mem l = 0xFF) (b : Byte) :
    (s.program l b).mem = Memory.write s.mem l b := by
  have hand : (0xFF : Byte) &&& b = b := BitVec.allOnes_and
  rw [State.program, h, hand]

theorem attempted_counts {s : State} {n : Nat} (hw : s.pack.watchdogLatch = false) (hn : counted s.counter = n) (hlt : n < 16) :
    s.attempted = (s.program (counterLoc n) 0x7F, n, lastReason s.counter) := by
  rw [State.attempted, hw, if_neg Bool.false_ne_true, State.countAttempt, hn, if_neg (by omega)]

theorem startCounts (s : State) :
    let bs := (List.range 16).map fun i => Memory.read s.mem (counterLoc i)
    let n := (bs.takeWhile fun b => b != 0xFF).length
    s.pack.watchdogLatch = false → n < 16 →
    let counted := { s with mem := Memory.write s.mem (counterLoc n) 0x7F }
    startReason counted.image (s.fresh + 1) = 0 → Memory.read s.mem (counterLoc n) = 0xFF →
      let t := s.bootStart
      t.pack.stage = .running ∧ t.pack.attempts = n ∧ t.pack.safe = decide (3 ≤ n) ∧ t.pack.startTime = s.pack.time ∧
        t.mem = counted.mem ∧ t.pack.fwver = imageVersion counted.image ∧
        t.pack.meas[(0 : Fin 4)] = sha512 (s.pack.meas[(0 : Fin 4)] ++ imageDigest counted.image) ∧ (t.pack.safe = true → t.pack.hostUp2 = 0) := by
  intro bs n hw hlt cs hreason hblank
  have hn : counted s.counter = n := by rw [counter_eq]; rfl
  have hatt := attempted_counts hw hn hlt
  have hmem : s.attempted.1.mem = cs.mem := by rw [hatt]; exact program_blank hblank 0x7F
  have himage : s.attempted.1.image = cs.image := by rw [State.image, hmem]; rfl
  have hnum : s.attempted.2.1 = n := by rw [hatt]
  have hfresh : s.starting.fresh = s.fresh + 1 := by rw [State.starting, hatt]; rfl
  have hpass : startReason s.attempted.1.image s.starting.fresh = 0 := by rw [himage, hfresh]; exact hreason
  rw [← hmem, ← himage, ← hnum]
  exact ⟨bootStart_stage hpass, bootStart_attempts hpass, bootStart_safe hpass, bootStart_startTime hpass, bootStart_mem hpass,
    bootStart_fwver hpass, bootStart_meas hpass, bootStart_hostUp2 hpass⟩

/-! ### Resets and the loss of power (R430, R433) -/

theorem read_packageReset {s : State} (h : Memory.wf s.mem = true) (latch : Bool) {a : Nat} (ha : 2 ^ 68 ≤ a) :
    Memory.read (s.packageReset latch).mem a = Memory.read s.mem a := by
  have hkept : ∀ b, (fun c : Host.Cell => decide (c.1 < 2 ^ 66) || decide (2 ^ 68 ≤ c.1)) (a, b) = true := fun b => by
    simp only [decide_eq_true ha, Bool.or_true]
  calc Memory.read (s.packageReset latch).mem a
      = Memory.read (undefinedCells s.fresh (fun _ => true)
          (s.mem.filter fun c => decide (c.1 < 2 ^ 66) || decide (2 ^ 68 ≤ c.1))) a := rfl
    _ = Memory.read (s.mem.filter fun c => decide (c.1 < 2 ^ 66) || decide (2 ^ 68 ≤ c.1)) a :=
        read_undefinedCells_beyond (wf_filter h _) _ _ (by omega)
    _ = Memory.read s.mem a := read_filter_kept h hkept

/-- A reset after which the part starts afresh (R433). -/
def StartsAfresh (s : State) (i : Instr) (t : State) : Prop :=
  exec i s = .next t.bootStart ∧ Emptied s t ∧ t.pack.stage = .rom ∧
    (Memory.wf s.mem = true → ∀ a, 2 ^ 68 ≤ a → Memory.read t.mem a = Memory.read s.mem a)

theorem packageReset_startsAfresh {s : State} {i : Instr} {latch : Bool} (h : exec i s = .next (s.packageReset latch).bootStart) :
    ∃ t, StartsAfresh s i t ∧ t.pack.watchdogLatch = latch :=
  ⟨s.packageReset latch, ⟨h, emptied_packageReset s latch, rfl, fun hwf _ ha => read_packageReset hwf latch ha⟩, rfl⟩

theorem powerOn_startsAfresh {s : State} (h : s.pack.stage = .off) :
    ∃ t, StartsAfresh s .powerOnReset t ∧ t.pack.watchdogLatch = false :=
  ⟨s.restart (keptCells s.mem) .rom false, ⟨congrArg _ (if_pos h), emptied_restart s _ _ _, rfl, fun hwf _ ha => read_keptCells hwf ha⟩, rfl⟩

theorem resetEvents_afresh (s : State) :
    let afresh := fun (i : Instr) (t : State) => exec i s = .next t.bootStart ∧ Emptied s t ∧ t.pack.stage = .rom ∧
      (Memory.wf s.mem = true → ∀ a, 2 ^ 68 ≤ a → Memory.read t.mem a = Memory.read s.mem a)
    let stale := s.pack.startTime + 10000000000 ≤ s.pack.time
    (s.pack.stage = .off → ∃ t, afresh .powerOnReset t ∧ t.pack.watchdogLatch = false) ∧
    (s.pack.stage ≠ .off → exec .powerOnReset s = .next s ∧ ∃ t, afresh .packageReset t ∧ t.pack.watchdogLatch = false) ∧
    (s.pack.stage = .off → exec .packageReset s = .next s) ∧
    (s.pack.stage = .running → stale → ∃ t, afresh .startTimerExpire t ∧ t.pack.watchdogLatch = true) ∧
    ((s.pack.stage ≠ .running ∨ ¬ stale) → exec .startTimerExpire s = .next s) ∧
    (s.pack.stage = .running ∨ s.pack.stage = .ready → ∃ t, afresh .firmwareWatchdog t ∧ t.pack.watchdogLatch = true) ∧
    (s.boardBusy = false → ∃ t, afresh .bootReset t ∧ t.pack.watchdogLatch = false) ∧
    (s.pack.stage = .recovery → s.pack.trained = false → stale → ∃ t, afresh .recoveryLinkTimeout t ∧ t.pack.watchdogLatch = false) ∧
    ((s.pack.stage ≠ .recovery ∨ s.pack.trained = true ∨ ¬ stale) → exec .recoveryLinkTimeout s = .next s) := by
  intro afresh stale
  refine ⟨powerOn_startsAfresh, fun h => ⟨congrArg _ (if_neg h), packageReset_startsAfresh (congrArg _ (if_neg h))⟩,
    fun h => congrArg _ (if_pos h), fun h hs => packageReset_startsAfresh (congrArg _ (if_pos ⟨h, hs⟩)),
    fun h => congrArg _ (if_neg fun hc => ?_), fun h => packageReset_startsAfresh (congrArg _ (if_pos h)),
    fun h => packageReset_startsAfresh (congrArg _ (if_neg (by simp [h]))),
    fun h ht hs => packageReset_startsAfresh (congrArg _ (if_pos ⟨h, by simp [ht], hs⟩)), fun h => congrArg _ (if_neg fun hc => ?_)⟩
  · exact h.elim (fun h => h hc.1) fun h => h hc.2
  · obtain ⟨hstage, htrained, hstale⟩ := hc
    rcases h with h | h | h
    · exact h hstage
    · exact htrained h
    · exact h hstale

/-! ### What a loss of power leaves of the flash (R429, R430) -/

theorem tornFlash_done {s : State} (h : ∀ w, s.pack.touched = some w → w.since + Config.flashTime w.erase ≤ s.pack.time) :
    s.tornFlash = s.mem := by
  unfold State.tornFlash
  cases hw : s.pack.touched with
  | none => rfl
  | some w => exact if_pos (h w hw)

theorem wf_writes {f : Nat → Nat × Byte} {l : List Nat} {m : List Host.Cell} (h : Memory.wf m = true) :
    Memory.wf (l.foldl (fun m i => Memory.write m (f i).1 (f i).2) m) = true := by
  induction l generalizing m with
  | nil => exact h
  | cons i l ih => exact ih (wf_write h _ _)

theorem read_writes_out {f : Nat → Nat × Byte} {l : List Nat} {m : List Host.Cell} (h : Memory.wf m = true) {a : Nat}
    (ha : ∀ i ∈ l, a ≠ (f i).1) : Memory.read (l.foldl (fun m i => Memory.write m (f i).1 (f i).2) m) a = Memory.read m a := by
  induction l generalizing m with
  | nil => rfl
  | cons i l ih =>
    rw [List.forall_mem_cons] at ha
    rw [List.foldl_cons, ih (wf_write h _ _) ha.2, read_write_ne h ha.1]

/-- The bytes that an interrupted erase leaves. -/
def tornErase (fresh k i : Nat) : Nat × Byte := (flashLoc (65536 * k + i), torn fresh (flashLoc (65536 * k + i)) true)

theorem tornFlash_erase {s : State} {k since : Nat} (h : s.pack.touched = some ⟨true, k, since⟩)
    (ht : ¬ since + Config.flashTime true ≤ s.pack.time) :
    s.tornFlash = (List.range 16).foldl (fun m i => Memory.write m (tornErase s.fresh k i).1 (tornErase s.fresh k i).2) s.mem := by
  unfold State.tornFlash
  rw [h]
  exact (if_neg ht).trans (if_pos rfl)

theorem tornFlash_program {s : State} {l since : Nat} (h : s.pack.touched = some ⟨false, l, since⟩)
    (ht : ¬ since + Config.flashTime false ≤ s.pack.time) : s.tornFlash = Memory.write s.mem l (torn s.fresh l false) := by
  unfold State.tornFlash
  rw [h]
  exact (if_neg ht).trans (if_neg Bool.false_ne_true)

theorem wf_tornFlash {s : State} (h : Memory.wf s.mem = true) : Memory.wf s.tornFlash = true := by
  unfold State.tornFlash
  split
  · exact h
  · split
    · exact h
    · split
      · exact wf_writes (f := tornErase s.fresh _) h
      · exact wf_write h _ _

theorem torn_program_ne (fresh l : Nat) : torn fresh l false ≠ 0xFF := by
  intro h
  have hval : (Config.freeNat fresh (2 ^ 99 + l) % 255) % 256 = 255 := congrArg BitVec.toNat h
  omega

theorem powerLossLeaves (s : State) : ∃ t, exec .powerLoss s = .next t ∧ Emptied s t ∧ t.pack.stage = .off ∧
    (Memory.wf s.mem = true →
      ((∀ w, s.pack.touched = some w → w.since + Config.flashTime w.erase ≤ s.pack.time) →
        ∀ a, 2 ^ 68 ≤ a → Memory.read t.mem a = Memory.read s.mem a) ∧
      (∀ b since, s.pack.touched = some ⟨false, b, since⟩ → s.pack.time < since + Config.flashTime false → 2 ^ 68 ≤ b →
        Memory.read t.mem b ≠ 0xFF ∧ ∀ a, 2 ^ 68 ≤ a → a ≠ b → Memory.read t.mem a = Memory.read s.mem a) ∧
      (∀ k since, s.pack.touched = some ⟨true, k, since⟩ → ∀ a, 2 ^ 68 ≤ a →
        ¬ (flashLoc (65536 * k) ≤ a ∧ a < flashLoc (65536 * k) + 16) → Memory.read t.mem a = Memory.read s.mem a)) ∧
    (∀ a, a < 2 ^ 64 → Memory.read t.mem a = 0) := by
  refine ⟨s.restart (keptCells s.tornFlash) .off false, rfl, emptied_restart s _ _ _, rfl, fun hwf => ?_,
    fun a ha => read_keptCells_hbm _ ha⟩
  have hread : ∀ a, 2 ^ 68 ≤ a →
      Memory.read (s.restart (keptCells s.tornFlash) .off false).mem a = Memory.read s.tornFlash a :=
    fun a ha => read_keptCells (wf_tornFlash hwf) ha
  refine ⟨fun hdone a ha => ?_, fun b since hb ht hflash => ⟨?_, fun a ha hne => ?_⟩, fun k since hk a ha hout => ?_⟩
  · rw [hread a ha, tornFlash_done hdone]
  · rw [hread b hflash, tornFlash_program hb (Nat.not_le.mpr ht), read_write_self hwf]
    exact torn_program_ne _ _
  · rw [hread a ha, tornFlash_program hb (Nat.not_le.mpr ht), read_write_ne hwf hne]
  · rw [hread a ha]
    by_cases ht : since + Config.flashTime true ≤ s.pack.time
    · rw [tornFlash_done fun w hw => by rw [hk] at hw; cases hw; exact ht]
    · rw [tornFlash_erase hk ht, read_writes_out hwf]
      intro i hi
      have hi16 : i < 16 := List.mem_range.mp hi
      simp only [tornErase, flashLoc] at hout ⊢
      omega

/-! ### FWREADY and BOOTCTL (R429, R437) -/

theorem bootCommands (s : State) :
    let erased := { s with
      mem := Memory.clearRange s.mem (counterLoc 0) 65536
      pack := { s.pack with touched := some ⟨true, Config.counterSector.val, s.pack.time⟩ } }
    let ready := fun (t : State) => { t with
      pack := { t.pack with stage := .ready, meas := firmwareExtends s.fresh s.pack.meas }, fresh := s.fresh + 1 }
    let inTime := s.pack.time < s.pack.startTime + 10000000000
    (s.pack.stage = .running → inTime → s.pack.safe = false → exec .fwready s = .next (ready erased)) ∧
    (s.pack.stage = .running → inTime → s.pack.safe = true → exec .fwready s = .next (ready s)) ∧
    ((s.pack.stage ≠ .running ∨ ¬ inTime) → exec .fwready s = .next s) ∧
    (firmwareExtends s.fresh s.pack.meas)[(0 : Fin 4)] = s.pack.meas[(0 : Fin 4)] ∧
    (s.boardBusy = false → exec .bootClear s = .next erased) ∧
    (s.boardBusy = true → exec .bootClear s = .next s ∧ exec .bootSafe s = .next s ∧ exec .bootReset s = .next s) ∧
    (s.boardBusy = false → Memory.wf s.mem = true → ∃ t, exec .bootSafe s = .next t ∧ 3 ≤ counted t.counter ∧
      t = { s with mem := t.mem, pack := { s.pack with touched := t.pack.touched } } ∧
      ∀ a, a ≠ counterLoc 0 → a ≠ counterLoc 1 → a ≠ counterLoc 2 → Memory.read t.mem a = Memory.read s.mem a) := by
  intro erased ready inTime
  refine ⟨fun hst ht hs => ?_, fun hst ht hs => ?_, fun h => congrArg _ (if_neg fun hc => ?_), firmwareExtends_first _ _,
    fun h => congrArg _ (if_neg (by simp [h])),
    fun h => ⟨congrArg _ (if_pos h), congrArg _ (if_pos h), congrArg _ (if_pos h)⟩, bootSafe_counts⟩
  · rw [exec_fwready, execFwready, State.fwready, if_pos ⟨hst, ht⟩, hs]
    rfl
  · rw [exec_fwready, execFwready, State.fwready, if_pos ⟨hst, ht⟩, hs]
    rfl
  · exact h.elim (fun h => h hc.1) fun h => h hc.2

/-! ### Function Level Reset (R433) -/

/-- A device's commands, records and exports have ended, before everything of it leaves the part (R433). -/
def State.endDevice (s : State) (ld : Fin 4) : State :=
  let s := (s.ctxs.filter fun e => e.1 / 4096 == ld.val).foldl (fun s e => State.loseLaunches s e.2) s
  let s := s.devices[ld].queues.foldl (fun s e => State.endQueue s ld (Fin.ofNat 32 e.1)) s
  let s := s.devices[ld].queues.foldl (fun s e => State.flushRecords s ld (Fin.ofNat 32 e.1) e.2.records.length) s
  (s.closeExports ld true fun _ => true).closeImports ld fun _ => true

theorem exec_functionLevelReset_of_serves {s : State} (h : s.serves s.arg.ld = true) :
    exec .functionLevelReset s = .next { (s.endDevice s.arg.ld).clearDevice s.arg.ld with arg := s.arg } :=
  if_neg (by simp [h])

theorem mem_of_mem_filter_ne {α β : Type} [DecidableEq β] {f : α → β} {b : β} {l : List α} :
    ∀ e ∈ l.filter fun e => f e ≠ b, f e ≠ b := fun _ he => by simpa using (List.mem_filter.mp he).2

theorem clearDevice_clears (s : State) (ld : Fin 4) :
    let t := s.clearDevice ld
    (∀ e ∈ t.groups, deviceOfGroup (groupId e.1) ≠ ld) ∧ (∀ x ∈ t.teams, deviceOf x.cl ≠ ld) ∧ (∀ l ∈ t.launches, l.ld ≠ ld) ∧
      (∀ e ∈ t.ctxs, e.1 / 4096 ≠ ld.val) ∧ (∀ o ∈ t.ops, o.ld ≠ ld) ∧ (∀ l ∈ t.leases, l.ld ≠ ld) ∧ (∀ j ∈ t.jobs, j.ld ≠ ld) :=
  ⟨mem_of_mem_filter_ne, mem_of_mem_filter_ne, mem_of_mem_filter_ne, mem_of_mem_filter_ne, mem_of_mem_filter_ne, mem_of_mem_filter_ne,
    mem_of_mem_filter_ne⟩

theorem clearDevice_device (s : State) (ld : Fin 4) :
    (s.clearDevice ld).devices[ld] = (s.dropPeers fun p => p.ld == ld).devices[ld].afterReset := Vector.getElem_set_self ld.isLt

theorem functionLevelResetClears (s : State) (h : s.serves s.arg.ld = true) : ∃ t, exec .functionLevelReset s = .next t ∧
    let ld := s.arg.ld
    (∀ e ∈ t.groups, deviceOfGroup (groupId e.1) ≠ ld) ∧ (∀ x ∈ t.teams, deviceOf x.cl ≠ ld) ∧ (∀ l ∈ t.launches, l.ld ≠ ld) ∧
      (∀ e ∈ t.ctxs, e.1 / 4096 ≠ ld.val) ∧ (∀ o ∈ t.ops, o.ld ≠ ld) ∧ (∀ l ∈ t.leases, l.ld ≠ ld) ∧ (∀ j ∈ t.jobs, j.ld ≠ ld) ∧
      t.devices[ld].exports = [] ∧ t.devices[ld].imports = [] ∧ t.devices[ld].rtBase = 0 ∧ t.devices[ld].faults = [] ∧ t.arg = s.arg := by
  refine ⟨_, exec_functionLevelReset_of_serves h, ?_⟩
  generalize s.endDevice s.arg.ld = u
  obtain ⟨hgroups, hteams, hlaunches, hctxs, hops, hleases, hjobs⟩ := clearDevice_clears u s.arg.ld
  have hdev := clearDevice_device u s.arg.ld
  refine ⟨hgroups, hteams, hlaunches, hctxs, hops, hleases, hjobs, ?_, ?_, ?_, ?_, rfl⟩
  · exact (congrArg Device.exports hdev).trans rfl
  · exact (congrArg Device.imports hdev).trans rfl
  · exact (congrArg Device.rtBase hdev).trans rfl
  · exact (congrArg Device.faults hdev).trans rfl

/-- Settles O24. -/
theorem resetEvents : Obligations.ResetEvents :=
  ⟨fun s _ ht he => ht ▸ startLeavesEmpty s he, startCounts, resetEvents_afresh, powerLossLeaves, bootCommands,
    fun _ h => if_pos (by simp [h]), functionLevelResetClears⟩

end Sys2Proof.Machine
end

section
/-! PROOFS. Links, power and heat, attestation and the boot flash (R423, R428, R431, R433 to R438). -/

namespace Sys2Proof.Machine

open Sys2Proof

/-! ### Host links (R423, R431 to R433) -/

/-- The stages in which the part's links run. -/
def BootStage.Links (g : BootStage) : Prop := g = .running ∨ g = .ready ∨ g = .recovery

theorem exec_hostLinkUp_trains {s : State} (hup : s.pack.stage.Links) (h5 : 5 ≤ s.arg.value.toNat)
    (hmost : s.arg.value.toNat ≤ if s.pack.safe then 5 else 7) (hsecond : s.arg.num = 0 ∨ s.pack.safe = false) :
    exec .hostLinkUp s = .next { s.setLink (s.arg.num != 0) (Fin.ofNat 8 s.arg.value.toNat) with
      pack := { (s.setLink (s.arg.num != 0) (Fin.ofNat 8 s.arg.value.toNat)).pack with
        trained := (s.setLink (s.arg.num != 0) (Fin.ofNat 8 s.arg.value.toNat)).pack.trained || !(s.arg.num != 0)
        cxl := (s.setLink (s.arg.num != 0) (Fin.ofNat 8 s.arg.value.toNat)).pack.cxl ||
          (s.arg.flag && decide (6 ≤ s.arg.value.toNat)) } } := by
  have hfits : (decide (5 ≤ s.arg.value.toNat ∧ s.arg.value.toNat ≤ (if s.pack.safe then 5 else 7)) &&
      !(s.arg.num != 0 && s.pack.safe)) = true := by
    rcases hsecond with h | h <;> simp [h5, hmost, h]
    simpa [h] using hmost
  have hstage : (s.pack.stage == .running || s.pack.stage == .ready || s.pack.stage == .recovery) = true := by
    rcases hup with h | h | h <;> simp [h]
  exact if_pos (by rw [hfits, hstage]; rfl)

theorem exec_hostLinkUp_ignored {s : State} (h : ¬ s.pack.stage.Links ∨ s.arg.value.toNat < 5 ∨
    (if s.pack.safe then 5 else 7) < s.arg.value.toNat ∨ (¬ s.arg.num = 0 ∧ s.pack.safe = true)) : exec .hostLinkUp s = .next s := by
  refine if_neg fun hc => ?_
  simp only [Bool.and_eq_true, decide_eq_true_eq, Bool.not_eq_true', Bool.and_eq_false_iff, Bool.or_eq_true, beq_iff_eq, bne_eq_false_iff_eq,
    Bool.or_assoc] at hc
  obtain ⟨⟨⟨h5, hmost⟩, hsecond⟩, hstage⟩ := hc
  rcases h with h | h | h | ⟨h, hsafe⟩
  · exact h hstage
  · omega
  · omega
  · rcases hsecond with h0 | h0
    · exact h h0
    · simp [hsafe] at h0

theorem linkEvents (s : State) :
    let first := s.arg.num = 0
    let gen := s.arg.value.toNat
    let up := s.pack.stage = .running ∨ s.pack.stage = .ready ∨ s.pack.stage = .recovery
    let most := if s.pack.safe then 5 else 7
    (∃ t, exec .linkReset s = .next t ∧ t = { s with pack := t.pack } ∧
      (first → t.pack.hostUp0 = 0 ∧ t.pack.hostUp2 = s.pack.hostUp2) ∧ (¬ first → t.pack.hostUp2 = 0 ∧ t.pack.hostUp0 = s.pack.hostUp0)) ∧
    (up → 5 ≤ gen → gen ≤ most → (first ∨ s.pack.safe = false) → ∃ t, exec .hostLinkUp s = .next t ∧ t = { s with pack := t.pack } ∧
      (first → t.pack.hostUp0.val = gen ∧ t.pack.hostUp2 = s.pack.hostUp2) ∧
      (¬ first → t.pack.hostUp2.val = gen ∧ t.pack.hostUp0 = s.pack.hostUp0)) ∧
    ((¬ up ∨ gen < 5 ∨ most < gen ∨ (¬ first ∧ s.pack.safe = true)) → exec .hostLinkUp s = .next s) := by
  intro first gen up most
  have hlink : ∀ n : Fin 8, s.setLink (s.arg.num != 0) n = { s with pack := (s.setLink (s.arg.num != 0) n).pack } ∧
      (first → (s.setLink (s.arg.num != 0) n).pack.hostUp0 = n ∧ (s.setLink (s.arg.num != 0) n).pack.hostUp2 = s.pack.hostUp2) ∧
      (¬ first → (s.setLink (s.arg.num != 0) n).pack.hostUp2 = n ∧ (s.setLink (s.arg.num != 0) n).pack.hostUp0 = s.pack.hostUp0) := by
    intro n
    by_cases h : s.arg.num = 0
    · simp [State.setLink, h, first]
    · simp [State.setLink, h, first]
  refine ⟨?_, fun hup h5 hmost hsecond => ?_, exec_hostLinkUp_ignored⟩
  · obtain ⟨hframe, hfirst, hsecond⟩ := hlink 0
    refine ⟨_, rfl, ?_, hfirst, hsecond⟩
    rw [hframe]
  · obtain ⟨hframe, hfirst, hsec⟩ := hlink (Fin.ofNat 8 s.arg.value.toNat)
    have hval : (Fin.ofNat 8 s.arg.value.toNat).val = gen := by
      have hle : gen ≤ 7 := hmost.trans (by unfold most; split <;> omega)
      exact Nat.mod_eq_of_lt (by omega)
    refine ⟨_, exec_hostLinkUp_trains hup h5 hmost hsecond, ?_, fun h => ⟨?_, (hfirst h).2⟩, fun h => ⟨?_, (hsec h).2⟩⟩
    · rw [hframe]
    · exact (congrArg Fin.val (hfirst h).1).trans hval
    · exact (congrArg Fin.val (hsec h).1).trans hval

/-! ### Power and heat (R434, R435) -/

theorem partAt_of_le {t : BitVec 48} {c d : Nat} (h : c ≤ d) (hd : partAt t d = true) : partAt t c = true := by
  simp only [partAt, dieAt, Bool.or_eq_true, List.any_eq_true, decide_eq_true_eq] at hd ⊢
  rcases hd with ⟨i, hi, hdi⟩ | hd
  · exact .inl ⟨i, hi, h.trans hdi⟩
  · exact .inr (h.trans hd)

section
variable {s : State} {heat above : Bool}

theorem nextDuty_hottest (h : partAt s.pack.temp 105 = true) : s.nextDuty heat above = 32 := by
  rw [State.nextDuty, if_pos h]

theorem nextDuty_freezing (h : partAt s.pack.temp 105 = false) (hf : s.freezing = true) : s.nextDuty false above = 256 := by
  simp [State.nextDuty, h, hf]

theorem nextDuty_falls (h : partAt s.pack.temp 105 = false) (hf : heat = true ∨ (above = true ∧ s.freezing = false)) (hd : 32 < s.pack.duty) :
    32 ≤ s.nextDuty heat above ∧ s.nextDuty heat above < s.pack.duty := by
  have hval : s.nextDuty heat above = 32 + Config.freeNat s.fresh 0 % (s.pack.duty - 32) := by
    have hle : ¬ s.pack.duty ≤ 32 := by omega
    rcases hf with hh | ⟨ha, hno⟩
    · simp [State.nextDuty, h, hh, hle]
    · simp [State.nextDuty, h, ha, hno, hle]
  have hmod : Config.freeNat s.fresh 0 % (s.pack.duty - 32) < s.pack.duty - 32 := Nat.mod_lt _ (by omega)
  omega

theorem nextDuty_stays (h : partAt s.pack.temp 105 = false) (hf : s.freezing = false) (ht : s.pack.time < s.pack.hot + 10000000) :
    s.nextDuty false false = s.pack.duty := by
  have hle : ¬ s.pack.hot + 10000000 ≤ s.pack.time := by omega
  simp [State.nextDuty, h, hf, hle]

theorem nextDuty_rises (h : partAt s.pack.temp 105 = false) (hf : s.freezing = false) (ht : s.pack.hot + 10000000 ≤ s.pack.time)
    (hd : s.pack.duty < 256) : s.pack.duty < s.nextDuty false false ∧ s.nextDuty false false ≤ 256 := by
  have hval : s.nextDuty false false = s.pack.duty + 1 + Config.freeNat s.fresh 1 % (256 - s.pack.duty) := by
    have hle : ¬ 256 ≤ s.pack.duty := by omega
    simp [State.nextDuty, h, hf, ht, hle]
  have hmod : Config.freeNat s.fresh 1 % (256 - s.pack.duty) < 256 - s.pack.duty := Nat.mod_lt _ (by omega)
  omega

end

/-- The sensors as an evaluation reads them (R434). -/
def State.sensed (s : State) : State :=
  { s with pack := { s.pack with
      powerAt := s.pack.time / 100000
      pwrnow := BitVec.ofNat 64 (s.arg.num % 2 ^ 12 + s.arg.num / 2 ^ 16 % 2 ^ 12 * 2 ^ 16), temp := BitVec.ofNat 48 s.arg.value.toNat } }

/-- The state after an evaluation of heat and power (R434, R435). -/
def State.evaluated (s : State) (heat above : Bool) : State :=
  { s with
    pack := { s.pack with
      duty := s.nextDuty heat above, hot := if heat || above then s.pack.time else s.pack.hot
      therm := s.pack.therm || heat, power := s.pack.power || above }
    fresh := s.fresh + 1 }

theorem pwrnow_low (n : Nat) : (BitVec.ofNat 64 (n % 2 ^ 12 + n / 2 ^ 16 % 2 ^ 12 * 2 ^ 16)).toNat % 2 ^ 12 = n % 2 ^ 12 := by
  rw [BitVec.toNat_ofNat, Nat.mod_mod_of_dvd _ (pow_dvd_pow 2 (by decide))]
  omega

theorem exec_powerEvaluate_due {s : State} (h : s.pack.powerAt < s.pack.time / 100000) :
    exec .powerEvaluate s = .next (s.sensed.evaluated (partAt (BitVec.ofNat 48 s.arg.value.toNat) 95)
      (decide (s.pack.plimit.toNat < s.arg.num % 2 ^ 12))) := by
  have hexec : exec .powerEvaluate s = .next (s.sensed.evaluated (partAt (BitVec.ofNat 48 s.arg.value.toNat) 95)
      (decide (s.pack.plimit.toNat < s.sensed.pack.pwrnow.toNat % 2 ^ 12))) := if_pos h
  have hlow : s.sensed.pack.pwrnow.toNat % 2 ^ 12 = s.arg.num % 2 ^ 12 := pwrnow_low _
  rw [hexec, hlow]

theorem evaluationEvents (s : State) :
    let temp : BitVec 48 := BitVec.ofNat 48 s.arg.value.toNat
    let heat := partAt temp 95 = true
    let above := s.pack.plimit.toNat < s.arg.num % 2 ^ 12
    (s.pack.powerAt < s.pack.time / 100000 → ∃ t, exec .powerEvaluate s = .next t ∧
      t.pack.powerAt = s.pack.time / 100000 ∧ t.pack.temp = temp ∧ t.pack.pwrnow.toNat % 2 ^ 12 = s.arg.num % 2 ^ 12 ∧
      (partAt temp 105 = true → t.pack.duty = 32) ∧
      (partAt temp 105 = false → heat ∨ (above ∧ s.freezing = false) → 32 < s.pack.duty → 32 ≤ t.pack.duty ∧ t.pack.duty < s.pack.duty) ∧
      (¬ heat → s.freezing = true → t.pack.duty = 256) ∧
      (¬ heat → ¬ above → s.freezing = false → s.pack.time < s.pack.hot + 10000000 → t.pack.duty = s.pack.duty) ∧
      (¬ heat → ¬ above → s.freezing = false → s.pack.hot + 10000000 ≤ s.pack.time → s.pack.duty < 256 →
        s.pack.duty < t.pack.duty ∧ t.pack.duty ≤ 256) ∧
      (heat → t.pack.therm = true) ∧ (above → t.pack.power = true) ∧ t.groups = s.groups ∧ t.mem = s.mem) ∧
    (s.pack.time / 100000 ≤ s.pack.powerAt → exec .powerEvaluate s = .next s) := by
  intro temp heat above
  have cool : ¬ heat → partAt temp 105 = false := fun hc => Bool.eq_false_iff.mpr fun h => hc (partAt_of_le (by decide) h)
  refine ⟨fun hdue => ⟨_, exec_powerEvaluate_due hdue, rfl, rfl, pwrnow_low _, fun h => nextDuty_hottest (s := s.sensed) h,
      fun h hw hd => nextDuty_falls (s := s.sensed) h ?_ hd, fun hc hf => ?_, fun hc ha hf ht => ?_, fun hc ha hf ht hd => ?_,
      fun h => ?_, fun h => ?_, rfl, rfl⟩, fun h => if_neg (Nat.not_lt.mpr h)⟩
  · exact hw.imp id fun ⟨ha, hf⟩ => ⟨decide_eq_true ha, hf⟩
  · have h105 := cool hc
    show s.sensed.nextDuty (partAt temp 95) _ = 256
    rw [Bool.eq_false_of_not_eq_true hc]
    exact nextDuty_freezing (s := s.sensed) h105 hf
  · show s.sensed.nextDuty (partAt temp 95) (decide above) = s.pack.duty
    rw [Bool.eq_false_of_not_eq_true hc, decide_eq_false ha]
    exact nextDuty_stays (s := s.sensed) (cool hc) hf ht
  · show s.pack.duty < s.sensed.nextDuty (partAt temp 95) (decide above) ∧ s.sensed.nextDuty (partAt temp 95) (decide above) ≤ 256
    rw [Bool.eq_false_of_not_eq_true hc, decide_eq_false ha]
    exact nextDuty_rises (s := s.sensed) (cool hc) hf ht hd
  · show (s.pack.therm || partAt temp 95) = true
    rw [h, Bool.or_true]
  · show (s.pack.power || decide above) = true
    rw [decide_eq_true h, Bool.or_true]

/-! ### THERMTRIP# and wake slots (R435, R436) -/

theorem noteTrip_flashOnly (s : State) : s.FlashOnly s.noteTrip := by
  unfold State.noteTrip
  split
  · split
    · exact program_flashOnly s _ _
    · exact noteReason_flashOnly s _ _
  · exact noteReason_flashOnly s _ _

theorem noteTrip_ready {s : State} (hst : s.pack.stage = .ready) (hs : s.pack.safe = false) (h : Memory.wf s.mem = true)
    (hb : Memory.read s.mem (counterLoc 0) = 0xFF) : Memory.read s.noteTrip.mem (counterLoc 0) = 0x77 := by
  rw [State.noteTrip, if_pos ⟨hst, by simp [hs]⟩, if_pos hb, program_blank hb, read_write_self h]

theorem noteTrip_starting {s : State} (hst : s.pack.stage ≠ .ready ∨ s.pack.safe = true) (h : Memory.wf s.mem = true)
    (hb : Memory.read s.mem (counterLoc s.pack.attempts) = 0x7F) : Memory.read s.noteTrip.mem (counterLoc s.pack.attempts) = 0x77 := by
  have hno : ¬ (s.pack.stage = .ready ∧ ¬ s.pack.safe) := fun hc => hst.elim (fun h => h hc.1) fun h => hc.2 h
  rw [State.noteTrip, if_neg hno, State.noteReason, if_pos hb, State.program, read_write_self h, hb]
  decide

theorem noteTrip_groups (s : State) : s.noteTrip.groups = s.groups := by
  have h := noteTrip_flashOnly s
  unfold State.FlashOnly at h
  rw [h]

/-- THERMTRIP# is asserted at some temperatures (R435). -/
def State.tripped (s : State) (temp : BitVec 48) : State :=
  { s.noteTrip with
    jobs := s.noteTrip.jobs.filter fun j => j.thaw, pack := { s.noteTrip.pack with temp := temp, stage := .tripped } }

theorem tripEvents (s : State) :
    let temp : BitVec 48 := BitVec.ofNat 48 s.arg.value.toNat
    let runs := s.pack.stage = .running ∨ s.pack.stage = .ready ∨ s.pack.stage = .recovery
    (dieAt temp 110 = true → runs → ∃ t, exec .thermtrip s = .next t ∧ t.pack.stage = .tripped ∧ t.pack.temp = temp ∧
      (Memory.wf s.mem = true →
        (s.pack.stage = .ready → s.pack.safe = false → Memory.read s.mem (counterLoc 0) = 0xFF → Memory.read t.mem (counterLoc 0) = 0x77) ∧
        ((s.pack.stage ≠ .ready ∨ s.pack.safe = true) → Memory.read s.mem (counterLoc s.pack.attempts) = 0x7F →
          Memory.read t.mem (counterLoc s.pack.attempts) = 0x77)) ∧
      (∀ j ∈ t.jobs, j.thaw = true) ∧ t.groups = s.groups) ∧
    ((dieAt temp 110 = false ∨ ¬ runs) → exec .thermtrip s = .next s) := by
  intro temp runs
  have hruns : runs ↔ s.pack.stage ≠ .off ∧ s.pack.stage ≠ .rom ∧ s.pack.stage ≠ .tripped := by
    unfold runs
    cases s.pack.stage <;> decide
  refine ⟨fun h hr => ⟨s.tripped temp, if_pos ⟨h, hruns.mp hr⟩, rfl, rfl,
      fun hwf => ⟨fun hst hs => noteTrip_ready hst hs hwf, fun hst => noteTrip_starting hst hwf⟩,
      fun j hj => (List.mem_filter.mp hj).2, noteTrip_groups s⟩, fun h => if_neg fun hc => ?_⟩
  rcases h with h | h
  · exact absurd (h.symm.trans hc.1) Bool.false_ne_true
  · exact h (hruns.mpr hc.2)

theorem wakeEvents (s : State) :
    let cl := s.arg.cl
    let c := s.cluster cl
    let die := (deviceOf cl).val
    let recent := s.pack.wakes.filter fun w => decide (s.pack.time < w.2 + 100)
    let used := (recent.filter fun w => w.1 == die).length
    (s.engineAwake c = false → used < 8 → exec .wakeSlotGrant s = .next { s.setCluster cl { c with awake := true } with
      pack := { s.pack with wakes := (die, s.pack.time) :: recent } }) ∧
    ((s.engineAwake c = true ∨ 8 ≤ used) → exec .wakeSlotGrant s = .next s) := by
  intro cl c die recent used
  refine ⟨fun ha hu => if_pos ?_, fun h => if_neg ?_⟩
  · rw [show s.engineAwake (s.cluster s.arg.cl) = false from ha]
    exact decide_eq_true hu
  · rcases h with h | h
    · rw [show s.engineAwake (s.cluster s.arg.cl) = true from h]
      simp
    · have hno : decide (used < 8) = false := decide_eq_false (Nat.not_lt.mpr h)
      rw [show decide (_ < 8) = false from hno, Bool.and_false]
      exact Bool.false_ne_true

theorem powerEvents : PowerEvents := ⟨linkEvents, evaluationEvents, tripEvents, wakeEvents⟩

/-! ### Attestation (R428, R437) -/

theorem exec_attest_ignored {s : State} (h : s.boardBusy = true ∨ s.arg.value.toNat < 2 ^ 63) : exec .attest s = .next s := by
  have hsame : s.attest s.arg.value = s := by
    refine if_pos ?_
    rcases h with h | h
    · rw [h, Bool.true_or]
    · rw [bit_top, decide_eq_false (by omega)]
      simp
  cases hs : s.serves s.arg.ld with
  | false => exact (exec_attest s).trans (onDevice_of_not_serves hs _)
  | true => exact ((exec_attest s).trans (onDevice_of_serves hs _)).trans (congrArg _ hsame)

theorem attest_starts {s : State} {x : DWord} (hb : s.boardBusy = false) (hx : 2 ^ 63 ≤ x.toNat) :
    s.attest x = { s with pack := { s.pack with attBusy := some (x.toNat % 2 ^ 48 / 2 ^ 6 * 2 ^ 6), attErr := false } } := by
  have haddr : bits x.toNat 6 42 * 64 = x.toNat % 2 ^ 48 / 2 ^ 6 * 2 ^ 6 := by
    simp only [bits]
    omega
  rw [State.attest, hb, bit_top, decide_eq_true hx, haddr]
  rfl

theorem attestEvents (s : State) :
    let x := s.arg.value.toNat
    (s.serves s.arg.ld = false → exec .attest s = .next s) ∧
    (s.serves s.arg.ld = true → s.boardBusy = false → 2 ^ 63 ≤ x → exec .attest s = .next { s with pack := { s.pack with
      attBusy := some (x % 2 ^ 48 / 2 ^ 6 * 2 ^ 6), attErr := false } }) ∧
    ((s.boardBusy = true ∨ x < 2 ^ 63) → exec .attest s = .next s) :=
  ⟨fun h => (exec_attest s).trans (onDevice_of_not_serves h _),
    fun h hb hx => ((exec_attest s).trans (onDevice_of_serves h _)).trans (congrArg _ (attest_starts hb hx)), exec_attest_ignored⟩

theorem hostLink_iff (p : Pack) : p.hostLink = true ↔ p.hostUp0 ≠ 0 ∨ p.hostUp2 ≠ 0 := by
  simp [Pack.hostLink]

theorem exec_attestComplete_signs {s : State} {a : Nat} (h : s.pack.attBusy = some a) (hl : s.pack.hostLink = true) :
    let body := quoteBody s.pack (s.hostRead a 64)
    let quote := body ++ Config.quoteSignature s.fresh (sha512 body)
    let t := s.hostWrite (a + 64) quote
    exec .attestComplete s = .next { t with
      pack := { t.pack with attBusy := none, attLen := BitVec.ofNat 16 quote.length }, fresh := t.fresh + 1 } := by
  intro body quote t
  rw [exec_attestComplete, execAttestComplete, h]
  exact if_pos hl

theorem exec_attestComplete_fails {s : State} {a : Nat} (h : s.pack.attBusy = some a) (hl : s.pack.hostLink = false) :
    exec .attestComplete s = .next { s with pack := { s.pack with attBusy := none, attErr := true } } := by
  rw [exec_attestComplete, execAttestComplete, h]
  exact if_neg (by simp [hl])

/-! ### The boot flash (R437, R438) -/

/-- What FLASHWIN is written with to start an operation (R437). -/
def flashValue (erase : Bool) (page host : Nat) : Nat := 2 ^ 63 + (if erase then 2 ^ 62 else 0) + page * 2 ^ 48 + host

section
variable {page host : Nat} (erase : Bool) (hp : page < 2 ^ 12) (hh : host < 2 ^ 48)
include hp hh

theorem flashValue_lt : flashValue erase page host < 2 ^ 64 := by
  unfold flashValue
  split <;> omega

theorem flashValue_bits : bit (flashValue erase page host) 63 = true ∧ bit (flashValue erase page host) 62 = erase ∧
    bits (flashValue erase page host) 48 12 = page ∧ bits (flashValue erase page host) 12 36 * 4096 = host / 2 ^ 12 * 2 ^ 12 := by
  simp only [bit, bits, Nat.testBit_eq_decide_div_mod_eq, decide_eq_true_eq, flashValue]
  cases erase
  · simp only [Bool.false_eq_true, if_false, decide_eq_false_iff_not]
    omega
  · simp only [if_true, decide_eq_true_eq]
    omega

/-- FLASHWIN keeps ERASE, the page and the host address. -/
theorem flashValue_kept :
    flashValue erase page host &&& 0x4FFFFFFFFFFFF000 = (if erase then 2 ^ 62 else 0) + page * 2 ^ 48 + host / 2 ^ 12 * 2 ^ 12 := by
  have htop : (flashValue erase page host &&& 0x4FFFFFFFFFFFF000) / 2 ^ 60 = flashValue erase page host / 2 ^ 60 &&& 4 := Nat.and_div_two_pow
  have hmid : (flashValue erase page host &&& 0x4FFFFFFFFFFFF000) / 2 ^ 12 % 2 ^ 48 = flashValue erase page host / 2 ^ 12 % 2 ^ 48 := by
    have hmask : 0x4FFFFFFFFFFFF000 / 2 ^ 12 % 2 ^ 48 = 2 ^ 48 - 1 := by decide
    rw [Nat.and_div_two_pow, Nat.and_mod_two_pow, hmask, Nat.and_two_pow_sub_one_eq_mod, Nat.mod_mod]
  have hlow : (flashValue erase page host &&& 0x4FFFFFFFFFFFF000) % 2 ^ 12 = 0 := by
    have hmask : 0x4FFFFFFFFFFFF000 % 2 ^ 12 = 0 := by decide
    rw [Nat.and_mod_two_pow, hmask, Nat.and_zero]
  generalize flashValue erase page host &&& 0x4FFFFFFFFFFFF000 = z at htop hmid hlow ⊢
  cases erase
  · have h8 : flashValue false page host / 2 ^ 60 = 8 := by simp only [flashValue, Bool.false_eq_true, if_false]; omega
    rw [h8, show 8 &&& 4 = 0 by decide] at htop
    simp only [flashValue, Bool.false_eq_true, if_false] at hmid ⊢
    omega
  · have h12 : flashValue true page host / 2 ^ 60 = 12 := by simp only [flashValue, if_true]; omega
    rw [h12, show 12 &&& 4 = 4 by decide] at htop
    simp only [flashValue, if_true] at hmid ⊢
    omega

end

theorem toNat_flashValue {page host : Nat} (erase : Bool) (hp : page < 2 ^ 12) (hh : host < 2 ^ 48) :
    (BitVec.ofNat 64 (flashValue erase page host)).toNat = flashValue erase page host := by
  rw [BitVec.toNat_ofNat, Nat.mod_eq_of_lt (flashValue_lt erase hp hh)]

/-- What a write of FLASHWIN with GO does, by the fields of what is written (R437). -/
theorem flashWrite_of_fields {s : State} {v kept page addr : Nat} {erase : Bool} {x : DWord} (h : s.pack.flashOp = none) (hx : x.toNat = v)
    (hgo : bit v 63 = true) (herase : bit v 62 = erase) (hpage : bits v 48 12 = page) (haddr : bits v 12 36 * 4096 = addr)
    (hkept : v &&& 0x4FFFFFFFFFFFF000 = kept) :
    s.flashWrite x = { s with pack := { s.pack with
      flashwin := BitVec.ofNat 64 kept, flashErr := false, flashOp := some ⟨erase, page, addr⟩ } } := by
  have hfree : ¬ s.pack.flashOp.isSome = true := by simp [h]
  rw [State.flashWrite, if_neg hfree, hx, hkept]
  dsimp only
  rw [if_pos hgo, herase, hpage, haddr]

/-- An operation of the boot flash starts unless one is under way (R437). -/
theorem flashWrite_starts {s : State} {page host : Nat} (erase : Bool) (hp : page < 2 ^ 12) (hh : host < 2 ^ 48) (h : s.pack.flashOp = none) :
    s.flashWrite (BitVec.ofNat 64 (flashValue erase page host)) = { s with pack := { s.pack with
      flashwin := BitVec.ofNat 64 ((if erase then 2 ^ 62 else 0) + page * 2 ^ 48 + host / 2 ^ 12 * 2 ^ 12), flashErr := false
      flashOp := some ⟨erase, page, host / 2 ^ 12 * 2 ^ 12⟩ } } := by
  obtain ⟨hgo, herase, hpage, haddr⟩ := flashValue_bits erase hp hh
  exact flashWrite_of_fields h (toNat_flashValue erase hp hh) hgo herase hpage haddr (flashValue_kept erase hp hh)

theorem flashStartEvents (s : State) :
    let page := s.arg.num % 2 ^ 12
    let host := s.arg.value.toNat % 2 ^ 48 / 2 ^ 12 * 2 ^ 12
    let starts := fun (erase : Bool) => { s with pack := { s.pack with
      flashwin := BitVec.ofNat 64 ((if erase then 2 ^ 62 else 0) + page * 2 ^ 48 + host), flashErr := false
      flashOp := some ⟨erase, page, host⟩ } }
    (s.pack.flashOp = none → exec .flashErase s = .next (starts true) ∧ exec .flashProgram s = .next (starts false)) ∧
    (s.pack.flashOp ≠ none → exec .flashErase s = .next s ∧ exec .flashProgram s = .next s) := by
  intro page host starts
  have hp : page < 2 ^ 12 := Nat.mod_lt _ (by decide)
  have hh : s.arg.value.toNat % 2 ^ 48 < 2 ^ 48 := Nat.mod_lt _ (by decide)
  refine ⟨fun h => ⟨congrArg _ (flashWrite_starts true hp hh h), congrArg _ (flashWrite_starts false hp hh h)⟩, fun h => ?_⟩
  have hbusy : s.pack.flashOp.isSome = true := Option.isSome_iff_ne_none.mpr h
  exact ⟨congrArg _ (if_pos hbusy), congrArg _ (if_pos hbusy)⟩

section
variable {s : State} {op : FlashOp} (h : s.pack.flashOp = some op)
include h

theorem exec_flashOpComplete_counter (hc : Config.counterSector.val ≤ op.page / 16) : exec .flashOpComplete s = .next (s.flashDone true) := by
  rw [exec_flashOpComplete, execFlashOpComplete, h]
  exact if_pos hc

theorem exec_flashOpComplete_erases (hc : op.page / 16 < Config.counterSector.val) (he : op.erase = true) :
    exec .flashOpComplete s = .next ((s.eraseSector (op.page / 16)).flashDone false) := by
  rw [exec_flashOpComplete, execFlashOpComplete, h]
  exact (if_neg (Nat.not_le.mpr hc)).trans (if_pos he)

theorem exec_flashOpComplete_programs (hc : op.page / 16 < Config.counterSector.val) (he : op.erase = false) :
    exec .flashOpComplete s =
      if !s.pack.hostLink then .next s
      else if (Memory.readBytes s.mem (flashLoc (4096 * op.page)) 4096).all fun b => b == 0xFF then
        .next (State.flashDone { s with mem := Memory.writeBytes s.mem (flashLoc (4096 * op.page)) (s.hostRead op.addr 4096) }
          (Memory.readBytes (Memory.writeBytes s.mem (flashLoc (4096 * op.page)) (s.hostRead op.addr 4096)) (flashLoc (4096 * op.page)) 4096
            != s.hostRead op.addr 4096))
      else .next (s.flashDone true) := by
  rw [exec_flashOpComplete, execFlashOpComplete, h]
  dsimp only
  rw [if_neg (Nat.not_le.mpr hc), he, if_neg Bool.false_ne_true]

end

theorem length_readBytes (m : List Host.Cell) (a n : Nat) : (Memory.readBytes m a n).length = n := by
  rw [Memory.readBytes, List.length_map, List.length_range]

/-- Bytes just written read back (R438). -/
theorem readBytes_writeBytes {m : List Host.Cell} (h : Memory.wf m = true) (a : Nat) {bs : List Byte} {n : Nat} (hn : bs.length = n) :
    Memory.readBytes (Memory.writeBytes m a bs) a n = bs := by
  subst hn
  refine List.ext_getElem (length_readBytes _ _ _) fun i hi hi' => ?_
  simp only [Memory.readBytes, List.getElem_map, List.getElem_range]
  rw [read_writeBytes_in h hi', List.getD_eq_getElem _ _ hi']

theorem all_erased_iff (m : List Host.Cell) (a n : Nat) :
    ((Memory.readBytes m a n).all fun b => b == 0xFF) = true ↔ ∀ i < n, Memory.read m (a + i) = 0xFF := by
  simp [Memory.readBytes]

theorem flashEndEvents (s : State) (op : FlashOp) (hop : s.pack.flashOp = some op) :
    let ended := fun (t : State) (bad : Bool) => { t with pack := { t.pack with flashOp := none, flashErr := bad } }
    let at_ := flashLoc (4096 * op.page)
    let linked := s.pack.hostUp0 ≠ 0 ∨ s.pack.hostUp2 ≠ 0
    let erased := ∀ i < 4096, Memory.read s.mem (at_ + i) = 0xFF
    (Config.counterSector.val ≤ op.page / 16 → exec .flashOpComplete s = .next (ended s true)) ∧
    (op.page / 16 < Config.counterSector.val →
      (op.erase = true → exec .flashOpComplete s =
        .next (ended { s with
          mem := Memory.clearRange s.mem (flashLoc (65536 * (op.page / 16))) 65536
          pack := { s.pack with touched := some ⟨true, op.page / 16, s.pack.time⟩ } } false)) ∧
      (op.erase = false → ¬ linked → exec .flashOpComplete s = .next s) ∧
      (op.erase = false → linked → ¬ erased → exec .flashOpComplete s = .next (ended s true)) ∧
      (op.erase = false → linked → erased → Memory.wf s.mem = true → ∃ t, exec .flashOpComplete s = .next t ∧ t.pack.flashOp = none ∧ t.pack.flashErr = false ∧
        (∀ i < 4096, Memory.read t.mem (at_ + i) = (s.hostRead op.addr 4096).getD i 0) ∧
        (∀ a, a < at_ ∨ at_ + 4096 ≤ a → Memory.read t.mem a = Memory.read s.mem a))) := by
  intro ended at_ linked erased
  have hlinked : s.pack.hostLink = true ↔ linked := hostLink_iff _
  refine ⟨fun hc => exec_flashOpComplete_counter hop hc, fun hc => ⟨fun he => exec_flashOpComplete_erases hop hc he, fun he hl => ?_,
    fun he hl her => ?_, fun he hl her hwf => ?_⟩⟩
  · rw [exec_flashOpComplete_programs hop hc he, if_pos (by simpa using fun h => hl (hlinked.mp h))]
  · rw [exec_flashOpComplete_programs hop hc he, if_neg (by simpa using hlinked.mpr hl), if_neg fun h => her ((all_erased_iff _ _ _).mp h)]
    rfl
  · have hlen : (s.hostRead op.addr 4096).length = 4096 := length_readBytes _ _ _
    have hexec := exec_flashOpComplete_programs hop hc he
    rw [if_neg (by simpa using hlinked.mpr hl), if_pos ((all_erased_iff _ _ _).mpr her)] at hexec
    rw [readBytes_writeBytes hwf _ hlen, bne_self_eq_false] at hexec
    generalize s.hostRead op.addr 4096 = bs at hexec hlen ⊢
    exact ⟨_, hexec, rfl, rfl, fun i hi => read_writeBytes_in hwf (by rwa [hlen]), fun a ha => read_writeBytes_out hwf (by rwa [hlen])⟩

theorem flashEvents : FlashEvents := by
  refine ⟨attestEvents, fun s a h => ⟨fun hl => exec_attestComplete_signs h ((hostLink_iff _).mpr hl), fun h0 h2 =>
    exec_attestComplete_fails h (by simp [Pack.hostLink, h0, h2])⟩, fun s h => ?_, flashStartEvents, flashEndEvents, fun s h => ?_⟩
  · rw [exec_attestComplete, execAttestComplete, h]
  · rw [exec_flashOpComplete, execFlashOpComplete, h]

/-- Settles O56. -/
theorem powerAndFlashEvents : Obligations.PowerAndFlashEvents := ⟨powerEvents, flashEvents⟩

end Sys2Proof.Machine
end

section
/-! PROOFS. What the functions of the state leave as it is: memory. -/

namespace Sys2Proof.Machine

open Sys2Proof

@[simp] theorem foldl_mem {α : Type} {f : State → α → State} (h : ∀ s x, (f s x).mem = s.mem) (l : List α) (s : State) :
    (l.foldl f s).mem = s.mem := foldl_keeps (p := State.mem) h l s

@[simp] theorem ite_mem (c : Prop) [Decidable c] (a b : State) : (if c then a else b).mem = if c then a.mem else b.mem :=
  apply_ite State.mem c a b

@[simp] theorem arrivePush_mem (s : State) (g : GroupId) (f : InFlight) : (s.arrivePush g f).mem = s.mem := by
  unfold State.arrivePush
  split <;> rfl

@[simp] theorem arriveGroup_mem (s : State) (g : GroupId) : (s.arriveGroup g).mem = s.mem := by
  unfold State.arriveGroup
  split <;> simp

@[simp] theorem arriveClosed_mem (s : State) (g : GroupId) (start : Bool) : (s.arriveClosed g start).mem = s.mem := by
  unfold State.arriveClosed
  split <;> simp

@[simp] theorem leaveQueues_mem (s : State) (g : GroupId) (slices : BitVec 8) :
    (s.leaveQueues g slices).mem = s.mem := by simp [State.leaveQueues]

@[simp] theorem takeTrap_mem (s : State) (g : GroupId) (slices : BitVec 8) (t : Trap) : (s.takeTrap g slices t).mem = s.mem := by
  simp only [State.takeTrap]
  split <;> simp

@[simp] theorem mapSeqs_mem (s : State) (g : GroupId) (f : List WideSeq → List WideSeq) : (s.mapSeqs g f).mem = s.mem := rfl

@[simp] theorem dropSeqsOf_mem (s : State) (g : GroupId) (p : WideSeq → Bool) : (s.dropSeqsOf g p).mem = s.mem := by
  simp only [State.dropSeqsOf]
  split <;> simp

@[simp] theorem dropSeqs_mem (s : State) (g : GroupId) : (s.dropSeqs g).mem = s.mem := by simp [State.dropSeqs]
@[simp] theorem rouse_mem (s : State) (ld : Fin 4) (asn : Asn) : (s.rouse ld asn).mem = s.mem := rfl

@[simp] theorem generatorFaultAt_mem (s : State) (cl : ClusterId) (pc : Addr) (word : Word) (t : Trap) :
    (s.generatorFaultAt cl pc word t).mem = s.mem := rfl

@[simp] theorem generatorFault_mem (s : State) (cl : ClusterId) (t : Trap) : (s.generatorFault cl t).mem = s.mem := rfl

@[simp] theorem advance_mem (s : State) : (s.advance).mem = s.mem := by
  simp only [State.advance]
  repeat' split
  all_goals simp

@[simp] theorem grantLease_mem (s : State) (ld : Fin 4) (asn : Asn) (va leaf : Nat) : (s.grantLease ld asn va leaf).mem = s.mem := rfl
@[simp] theorem physMeet_mem (s : State) (ld : Fin 4) (pa n : Nat) : (s.physMeet ld pa n).mem = s.mem := by simp [State.physMeet]

@[simp] theorem track_mem (s : State) (line : Nat) (token : DWord) (home : Fin 4 × Asn × Nat) (d : Fin 5) :
    (s.track line token home d).mem = s.mem := rfl

@[simp] theorem mapLine_mem (s : State) (t : Fin 4 × Asn × Nat) (p : CacheLevel → Bool) (f : CacheLine → CacheLine) :
    (s.mapLine t p f).mem = s.mem := rfl

@[simp] theorem remember_mem (s : State) (pairs : List (Place × Byte)) : (s.remember pairs).mem = s.mem := rfl
@[simp] theorem dropPeers_mem (s : State) (out : PeerLine → Bool) : (s.dropPeers out).mem = s.mem := rfl

@[simp] theorem acquire_mem (s : State) (g : GroupId) : (s.acquire g).mem = s.mem := by
  simp only [State.acquire]
  repeat' split
  all_goals simp

@[simp] theorem dropShared_mem (s : State) (line : Nat) (d : Fin 5) : (s.dropShared line d).mem = s.mem := rfl

@[simp] theorem takeInvals_mem (s : State) (ld : Fin 4) : (s.takeInvals ld).mem = s.mem := by
  refine foldl_mem (fun s i => ?_) _ _
  exact dropShared_mem ..

@[simp] theorem observe_mem (s : State) (g : GroupId) (p : Nat → Bool) : (s.observe g p).mem = s.mem := by simp [State.observe]

@[simp] theorem shadowStore_mem (s : State) (launch : Nat) (ps : List Place) : (s.shadowStore launch ps).mem = s.mem := by
  unfold State.shadowStore
  split <;> rfl

@[simp] theorem parkGroup_mem (s : State) (g : GroupId) (slices : BitVec 8) (engine : Nat) (k : AccKind) (code reason addr : Nat)
    (fmask dmask : LaneMask) (prog : Progress) :
    (s.parkGroup g slices engine k code reason addr fmask dmask prog).mem = s.mem := by
  unfold State.parkGroup
  split <;> simp

@[simp] theorem parkPilot_mem (s : State) (cl : ClusterId) (reason : Nat) (a : PilotAccess) :
    (s.parkPilot cl reason a).mem = s.mem := by simp [State.parkPilot]

@[simp] theorem stallOn_mem (s : State) (g : GroupId) (slices : BitVec 8) (p : PortPlan) : (s.stallOn g slices p).mem = s.mem := by
  unfold State.stallOn
  split <;> rfl

@[simp] theorem makePops_mem (s : State) (g : GroupId) (slices : BitVec 8) (p : PortPlan) : (s.makePops g slices p).mem = s.mem := by
  simp only [State.makePops]
  repeat' split
  all_goals simp

@[simp] theorem pushQueue_mem (s : State) (cl : ClusterId) (q : Fin 32) (x : Option DWord) : (s.pushQueue cl q x).mem = s.mem := rfl
@[simp] theorem awaitAccess_mem (s : State) (cl : ClusterId) : (s.awaitAccess cl).mem = s.mem := rfl

@[simp] theorem commitPops_mem (s : State) (plan : PortPlan) : (s.commitPops plan).mem = s.mem := by
  simp only [State.commitPops]
  repeat' split
  all_goals simp

@[simp] theorem writeUniform_mem (s : State) (r : Fin 64) (x : DWord) : (s.writeUniform r x).mem = s.mem := by
  simp only [State.writeUniform]
  repeat' split
  all_goals simp

@[simp] theorem writeCond_mem (s : State) (k : Fin 8) (b : Bool) : (s.writeCond k b).mem = s.mem := by
  simp only [State.writeCond]
  repeat' split
  all_goals simp

@[simp] theorem setPix_mem (s : State) (g : GroupId) (n : Word) : (s.setPix g n).mem = s.mem := by
  unfold State.setPix
  split <;> rfl

@[simp] theorem setAcc_mem (s : State) (t : Team) (j : Fin 8) (a : Acc) : (s.setAcc t j a).mem = s.mem := by simp [State.setAcc]

@[simp] theorem resumeAs_mem (s : State) (g : GroupId) (slices : BitVec 8) : (s.resumeAs g slices).mem = s.mem := by
  unfold State.resumeAs
  split <;> rfl

@[simp] theorem noting_mem (s t : State) : (s.noting t).mem = s.mem := rfl

@[simp] theorem pinGroup_mem (s : State) (g : GroupId) (slices : BitVec 8) : (s.pinGroup g slices).mem = s.mem := by
  unfold State.pinGroup
  split <;> rfl

@[simp] theorem writeSpecial_mem (s : State) (g : GroupId) (grp : Group) (n : Nat) (x : DWord) :
    (s.writeSpecial g grp n x).mem = s.mem := by simp [State.writeSpecial]

@[simp] theorem acquireIssuer_mem (s : State) : (s.acquireIssuer).mem = s.mem := by
  unfold State.acquireIssuer
  split <;> simp

@[simp] theorem pinIssuer_mem (s : State) : (s.pinIssuer).mem = s.mem := by
  unfold State.pinIssuer
  split <;> simp

@[simp] theorem reserve_mem (s : State) (r : Fin 64) : (s.reserve r).mem = s.mem := by
  simp only [State.reserve]
  repeat' split
  all_goals simp

@[simp] theorem unreserve_mem (s : State) : (s.unreserve).mem = s.mem := by
  simp only [State.unreserve]
  repeat' split
  all_goals simp

@[simp] theorem deliverUniform_mem (s : State) (sd : Fin 64) (la : Nat) (x : DWord) : (s.deliverUniform sd la x).mem = s.mem := by
  simp only [State.deliverUniform]
  repeat' split
  all_goals simp

@[simp] theorem faultAccess_mem (s : State) (cl : ClusterId) (a : PilotAccess) : (s.faultAccess cl a).mem = s.mem := rfl

@[simp] theorem markFetched_mem (s : State) (g : GroupId) (slices : BitVec 8) (pc : Addr) : (s.markFetched g slices pc).mem = s.mem := by
  unfold State.markFetched
  split <;> rfl

@[simp] theorem complete_mem (s : State) (g : GroupId) (slices : BitVec 8) : (s.complete g slices).mem = s.mem := by
  unfold State.complete
  split <;> simp

@[simp] theorem trapWaiting_mem (s : State) (g : GroupId) (slices : BitVec 8) (t : Trap) : (s.trapWaiting g slices t).mem = s.mem := by
  unfold State.trapWaiting
  split <;> simp

@[simp] theorem writeFor_mem (s : State) (g : GroupId) (slices : BitVec 8) (r : Fin 64) (x : DWord) :
    (s.writeFor g slices r x).mem = s.mem := by simp [State.writeFor]

@[simp] theorem awaitRoom_mem (s : State) (g : GroupId) (slices : BitVec 8) (r : Fin 64) : (s.awaitRoom g slices r).mem = s.mem := by
  unfold State.awaitRoom
  split <;> rfl

@[simp] theorem finishBarrier_mem (s : State) (team : Nat) (n : Fin 16) : (s.finishBarrier team n).mem = s.mem := by
  simp only [State.finishBarrier]
  repeat' split
  all_goals simp

@[simp] theorem leaveBarriers_mem (s : State) (team : Nat) (g : GroupId) : (s.leaveBarriers team g).mem = s.mem := by
  refine foldl_mem (fun s n => ?_) _ _
  split <;> simp

@[simp] theorem freeSlot_mem (s : State) (cl : ClusterId) (j : Fin 8) : (s.freeSlot cl j).mem = s.mem := by
  simp only [State.freeSlot]
  repeat' split
  all_goals simp

@[simp] theorem releaseSlot_mem (s : State) (t : Team) (j : Fin 8) : (s.releaseSlot t j).mem = s.mem := by simp [State.releaseSlot]

@[simp] theorem releaseSlots_mem (s : State) (team : Nat) (m : BitVec 8) : (s.releaseSlots team m).mem = s.mem := by
  refine foldl_mem (fun s j => ?_) _ _
  repeat' split
  all_goals simp

@[simp] theorem dropProduct_mem (s : State) (cl : ClusterId) (op : Nat) : (s.dropProduct cl op).mem = s.mem := by
  simp only [State.dropProduct]
  repeat' split
  all_goals simp

@[simp] theorem failLatch_mem (s : State) (cl : ClusterId) (l : Latch) (t : Trap) : (s.failLatch cl l t).mem = s.mem := by simp [State.failLatch]
@[simp] theorem breakLatches_mem (s : State) (g : GroupId) (grp : Group) : (s.breakLatches g grp).mem = s.mem := by simp [State.breakLatches]
@[simp] theorem reapTeam_mem (s : State) (t : Team) : (s.reapTeam t).mem = s.mem := by simp [State.reapTeam]
@[simp] theorem reapTeams_mem (s : State) : (s.reapTeams).mem = s.mem := by simp [State.reapTeams]

@[simp] theorem retireGroup_mem (s : State) (g : GroupId) : (s.retireGroup g).mem = s.mem := by
  simp only [State.retireGroup]
  repeat' split
  all_goals simp

@[simp] theorem goto_mem (s : State) (pc : Addr) (loops : List LoopLevel) : (s.goto pc loops).mem = s.mem := by
  simp only [State.goto]
  repeat' split
  all_goals simp

@[simp] theorem evalRegang_mem (s : State) (g : GroupId) : (s.evalRegang g).mem = s.mem := by
  unfold State.evalRegang
  split <;> simp

@[simp] theorem afterEnd_mem (s : State) (g : GroupId) : (s.afterEnd g).mem = s.mem := by
  unfold State.afterEnd
  split <;> simp

@[simp] theorem endGenerator_mem (s : State) (cl : ClusterId) : (s.endGenerator cl).mem = s.mem := by
  simp only [State.endGenerator]
  split <;> simp

@[simp] theorem remark_mem (s : State) (g : GroupId) (old new : Nat) : (s.remark g old new).mem = s.mem := rfl
@[simp] theorem addOp_mem (s : State) (o : EngineOp) : (s.addOp o).mem = s.mem := rfl

@[simp] theorem parkOp_mem (s : State) (o : EngineOp) (k : AccKind) (code reason a : Nat) :
    (s.parkOp o k code reason a).mem = s.mem := by simp [State.parkOp]

@[simp] theorem setStatus_mem (s : State) (g : GroupId) (team : Nat) (entry : Fin 16) (seq : Word) (x : DWord) :
    (s.setStatus g team entry seq x).mem = s.mem := by
  unfold State.setStatus
  split <;> simp

@[simp] theorem finishOp_mem (s : State) (o : EngineOp) (x : DWord) : (s.finishOp o x).mem = s.mem := by
  unfold State.finishOp
  split <;> simp

@[simp] theorem postCopy_mem (s : State) (o : EngineOp) (op : Option Nat) (left : List Copy) (r : RefusedCopy) (fmask : LaneMask) :
    (s.postCopy o op left r fmask).mem = s.mem := by simp [State.postCopy]

@[simp] theorem postCopies_mem (s : State) (o : EngineOp) (op : Option Nat) (left : List Copy) (rs : List RefusedCopy) :
    (s.postCopies o op left rs).mem = s.mem := by
  refine foldl_mem (fun s n => ?_) _ _
  dsimp only
  split <;> simp

@[simp] theorem failLatches_mem (s : State) (cl : ClusterId) (ls : List Latch) : (failLatches s cl ls).mem = s.mem := by simp [failLatches]

@[simp] theorem admitLatches_mem (s : State) (cl : ClusterId) (n : Nat) : (s.admitLatches cl n).mem = s.mem := by
  induction n generalizing s with
  | zero => rfl
  | succ n ih =>
    simp only [State.admitLatches]
    split
    · rfl
    · split
      · rfl
      · rw [ih]
        refine foldl_mem (fun s g => ?_) _ _
        split <;> simp

@[simp] theorem completeLatch_mem (s : State) (cl : ClusterId) (l : Latch) : (s.completeLatch cl l).mem = s.mem := by
  simp only [State.completeLatch]
  split
  · rfl
  · split
    · simp
    · rw [admitLatches_mem]
      refine foldl_mem (fun s g => ?_) _ _
      split <;> simp

@[simp] theorem freeEntry_mem (s : State) (cl : ClusterId) (e : TabEntry) : (s.freeEntry cl e).mem = s.mem := by simp [State.freeEntry]

@[simp] theorem setPixOf_mem (s : State) (e : TabEntry) (n : Nat) (fl : BitVec 7) : (s.setPixOf e n fl).mem = s.mem := by
  refine foldl_mem (fun s g => ?_) _ _
  split <;> simp

@[simp] theorem finishJoint_mem (s : State) (cl : ClusterId) (e : TabEntry) : (s.finishJoint cl e).mem = s.mem := by simp [State.finishJoint]

@[simp] theorem trapJoint_mem (s : State) (cl : ClusterId) (e : TabEntry) (t : Trap) :
    (s.trapJoint cl e t).mem = s.mem := by simp [State.trapJoint]

@[simp] theorem parkMacc_mem (s : State) (cl : ClusterId) (e : TabEntry) (k : AccKind) (reason a : Nat) :
    (s.parkMacc cl e k reason a).mem = s.mem := by
  simp only [State.parkMacc]
  repeat' split
  all_goals simp

@[simp] theorem awaitGrant_mem (s : State) (c : Cluster) : (s.awaitGrant c).mem = s.mem := by
  simp only [State.awaitGrant]
  repeat' split
  all_goals simp

@[simp] theorem takeSlots_mem (s : State) (cl : ClusterId) (team : Nat) (js : List (Fin 8)) (named : Bool) :
    (s.takeSlots cl team js named).mem = s.mem := by
  simp only [State.takeSlots]
  split <;> simp

@[simp] theorem setStream_mem (s : State) (cl : ClusterId) (k : Fin 16) (e : EmitStream) : (s.setStream cl k e).mem = s.mem := rfl
@[simp] theorem dropMarks_mem (s : State) (cl : ClusterId) (k : Fin 16) : (s.dropMarks cl k).mem = s.mem := rfl
@[simp] theorem pilotTrap_mem (s : State) (cl : ClusterId) (t : Trap) : (s.pilotTrap cl t).mem = s.mem := by simp [State.pilotTrap]
@[simp] theorem voidRecords_mem (s : State) (ld : Fin 4) (drop : ParkOwner → Bool) : (s.voidRecords ld drop).mem = s.mem := rfl

@[simp] theorem discardTeam_mem (s : State) (t : Team) : (s.discardTeam t).mem = s.mem := by
  simp only [State.discardTeam]
  split <;> simp

@[simp] theorem discardTeams_mem (s : State) (launch : Nat) (cl : Option ClusterId) :
    (s.discardTeams launch cl).mem = s.mem := by simp [State.discardTeams]

@[simp] theorem failImage_mem (s : State) (id : Nat) (cl : ClusterId) (kind detail : Nat) : (s.failImage id cl kind detail).mem = s.mem := by
  unfold State.failImage
  split <;> simp

@[simp] theorem setQueue_mem (s : State) (ld : Fin 4) (q : Fin 32) (x : LQueue) : (s.setQueue ld q x).mem = s.mem := rfl
@[simp] theorem pushRecord_mem (s : State) (ld : Fin 4) (q : Fin 32) (r : List DWord) : (s.pushRecord ld q r).mem = s.mem := rfl

@[simp] theorem reportLaunch_mem (s : State) (l : Launch) (outcome kind detail : Nat) : (s.reportLaunch l outcome kind detail).mem = s.mem := by
  unfold State.reportLaunch
  split <;> simp

@[simp] theorem setRing_mem (s : State) (ld : Fin 4) (r : Nat) (x : Ring) : (s.setRing ld r x).mem = s.mem := rfl
@[simp] theorem badCmd_mem (s : State) (ld : Fin 4) : (s.badCmd ld).mem = s.mem := rfl
@[simp] theorem served_mem (s : State) (ld : Fin 4) (q : Fin 32) : (s.served ld q).mem = s.mem := rfl

@[simp] theorem letIn_mem (s : State) (id : Nat) : (s.letIn id).mem = s.mem := by
  unfold State.letIn
  split <;> rfl

@[simp] theorem takePacket_mem (s : State) (ld : Fin 4) (q : Fin 32) (ring : Fin 128) (pos : Nat) (ioff : Option Nat) (type : Nat) (p : Pkt) :
    (s.takePacket ld q ring pos ioff type p).mem = s.mem := by
  unfold State.takePacket
  split <;> rfl

@[simp] theorem passOver_mem (s : State) (ld : Fin 4) (q : Fin 32) (r : Nat) : (s.passOver ld q r).mem = s.mem := by simp [State.passOver]

@[simp] theorem endIndirect_mem (s : State) (ld : Fin 4) (q : Fin 32) (i : Indirect) (outcome kind : Nat) :
    (s.endIndirect ld q i outcome kind).mem = s.mem := rfl

@[simp] theorem parkIndirect_mem (s : State) (ld : Fin 4) (q : Fin 32) (asn : Asn) (reason a : Nat) :
    (s.parkIndirect ld q asn reason a).mem = s.mem := by simp [State.parkIndirect]

@[simp] theorem ageQueues_mem (s : State) (ns : Nat) : (s.ageQueues ns).mem = s.mem := rfl
@[simp] theorem releaseCoalescer_mem (s : State) (ld : Fin 4) (q : Fin 32) : (s.releaseCoalescer ld q).mem = s.mem := rfl

@[simp] theorem noteEntry_mem (s : State) (r : FaultRec) (seq : Word) : (s.noteEntry r seq).mem = s.mem := by
  unfold State.noteEntry
  split <;> rfl

@[simp] theorem answerCopy_mem (s : State) (g : GroupId) (op : Option Nat) (issue : Nat) (abandon : Bool) :
    (s.answerCopy g op issue abandon).mem = s.mem := by
  simp only [State.answerCopy]
  repeat' split
  all_goals simp

@[simp] theorem mapEntry_mem (s : State) (cl : ClusterId) (i : Fin 16) (f : TabEntry → TabEntry) : (s.mapEntry cl i f).mem = s.mem := rfl
@[simp] theorem answerPilot_mem (s : State) (cl : ClusterId) (id : Nat) (x : AccessState) : (s.answerPilot cl id x).mem = s.mem := rfl

@[simp] theorem unreserveFor_mem (s : State) (g : GroupId) (slices : BitVec 8) :
    (s.unreserveFor g slices).mem = s.mem := by simp [State.unreserveFor]

@[simp] theorem refuseOp_mem (s : State) (o : EngineOp) (addr : Nat) : (s.refuseOp o addr).mem = s.mem := by
  simp only [State.refuseOp]
  repeat' split
  all_goals simp

@[simp] theorem stopPilot_mem (s : State) (cl : ClusterId) : (s.stopPilot cl).mem = s.mem := rfl
@[simp] theorem sweep_mem (s : State) : (s.sweep).mem = s.mem := by simp [State.sweep]

@[simp] theorem cancelLaunch_mem (s : State) (id : Nat) : (s.cancelLaunch id).mem = s.mem := by
  unfold State.cancelLaunch
  split
  · rfl
  · simp only [sweep_mem, State.setLaunch_mem]
    exact foldl_mem stopPilot_mem _ _

@[simp] theorem gresume_mem (s : State) (cl : ClusterId) : (s.gresume cl).mem = s.mem := rfl
@[simp] theorem gskip_mem (s : State) (cl : ClusterId) : (s.gskip cl).mem = s.mem := by simp [State.gskip]
@[simp] theorem pgcmd_mem (s : State) (ld : Fin 4) (by_ : Asn) (x : DWord) : (s.pgcmd ld by_ x).mem = s.mem := by simp [State.pgcmd]
@[simp] theorem retireRows_mem (s : State) (lo hi : Nat) : (s.retireRows lo hi).mem = s.mem := by simp [State.retireRows]
@[simp] theorem loadShadows_mem (s : State) : (s.loadShadows).mem = s.mem := by simp [State.loadShadows]
@[simp] theorem retireShadowed_mem (s : State) (ch : Nat) : (s.retireShadowed ch).mem = s.mem := by simp [State.retireShadowed]
@[simp] theorem remapError_mem (s : State) (lo hi : Nat) (shadow : Bool) : (s.remapError lo hi shadow).mem = s.mem := by simp [State.remapError]
@[simp] theorem dbgAnswer_mem (s : State) (ld : Fin 4) (r : Fin 4) : (s.dbgAnswer ld r).mem = s.mem := rfl

@[simp] theorem stopSeq_mem (s : State) (g : GroupId) : (s.stopSeq g).mem = s.mem := by
  unfold State.stopSeq
  split <;> simp

@[simp] theorem resumeSeq_mem (s : State) (g : GroupId) : (s.resumeSeq g).mem = s.mem := by
  unfold State.resumeSeq
  split <;> simp

@[simp] theorem settleGroup_mem (s : State) (g : GroupId) : (s.settleGroup g).mem = s.mem := by
  simp only [State.settleGroup]
  repeat' split
  all_goals simp

@[simp] theorem stopGroup_mem (s : State) (g : GroupId) : (s.stopGroup g).mem = s.mem := by
  unfold State.stopGroup
  split <;> simp

@[simp] theorem stopPilotAt_mem (s : State) (cl : ClusterId) : (s.stopPilotAt cl).mem = s.mem := rfl

@[simp] theorem resumeGroup_mem (s : State) (g : GroupId) : (s.resumeGroup g).mem = s.mem := by
  unfold State.resumeGroup
  split <;> simp

@[simp] theorem resumePilot_mem (s : State) (cl : ClusterId) (req : DbgReq) : (s.resumePilot cl req).mem = s.mem := rfl

theorem onTarget_mem {s : State} {ld : Fin 4} {f : State → GroupId → State} {p : State → ClusterId → State}
    (hf : ∀ s g, (f s g).mem = s.mem) (hp : ∀ s cl, (p s cl).mem = s.mem) : (onTarget s ld f p).mem = s.mem := by
  unfold onTarget
  split
  · rfl
  · exact (foldl_mem hp _ _).trans (foldl_mem hf _ _)

theorem writeReg_mem {s t : State} {g : GroupId} {grp : Group} {cls n : Nat} {lane : Fin 32} {x : DWord}
    (h : s.writeReg g grp cls n lane x = some t) : t.mem = s.mem := by
  unfold State.writeReg at h
  split_ifs at h <;> cases h <;> simp

theorem writePilotReg_mem {s t : State} {cl : ClusterId} {cls n : Nat} {x : DWord} (h : s.writePilotReg cl cls n x = some t) :
    t.mem = s.mem := by
  simp only [State.writePilotReg] at h
  split_ifs at h <;> cases h <;> simp

@[simp] theorem dbgStopCmd_mem (s : State) (ld : Fin 4) : (s.dbgStopCmd ld).mem = s.mem :=
  onTarget_mem (by simp) (by simp)

@[simp] theorem dbgResumeCmd_mem (s : State) (ld : Fin 4) : (s.dbgResumeCmd ld).mem = s.mem :=
  onTarget_mem (by simp) (by simp)

@[simp] theorem stepGroup_mem (s : State) (named : BitVec 8) (req : DbgReq) (g : GroupId) : (s.stepGroup named req g).mem = s.mem := by
  unfold State.stepGroup
  split <;> simp

@[simp] theorem dbgStep_mem (s : State) (ld : Fin 4) (req : DbgReq) : (s.dbgStep ld req).mem = s.mem := by
  simp only [State.dbgStep]
  repeat' split
  case h_2.isTrue =>
    rw [dbgAnswer_mem]
    exact (foldl_mem (fun _ _ => resumePilot_mem ..) _ _).trans (foldl_mem (fun _ _ => stepGroup_mem ..) _ _)
  all_goals rfl

@[simp] theorem dbgAttach_mem (s : State) (ld : Fin 4) (on : Bool) : (s.dbgAttach ld on).mem = s.mem := by
  unfold State.dbgAttach
  split <;> rfl

@[simp] theorem dbgGive_mem (s : State) (ld : Fin 4) (x : Option DWord) : (s.dbgGive ld x).mem = s.mem := by
  unfold State.dbgGive
  split <;> rfl

@[simp] theorem dbgRead_mem (s : State) (ld : Fin 4) : (s.dbgRead ld).mem = s.mem := by
  simp only [State.dbgRead]
  repeat' split
  all_goals simp

@[simp] theorem dbgWrite_mem (s : State) (ld : Fin 4) (force : Bool) : (s.dbgWrite ld force).mem = s.mem := by
  simp only [State.dbgWrite]
  repeat' split
  all_goals simp only [dbgAnswer_mem]
  · exact writeReg_mem ‹_›
  · exact writeReg_mem ‹_›
  · exact writePilotReg_mem ‹_›

@[simp] theorem dbgcmd_mem (s : State) (ld : Fin 4) (x : DWord) : (s.dbgcmd ld x).mem = s.mem := by
  unfold State.dbgcmd
  split <;> simp

@[simp] theorem rewind_mem (s : State) (g : GroupId) : (s.rewind g).mem = s.mem := by
  simp only [State.rewind]
  repeat' split
  all_goals simp

@[simp] theorem stopContext_mem (s : State) (ld : Fin 4) (asn : Asn) (rewind : Bool) : (s.stopContext ld asn rewind).mem = s.mem := by
  refine (foldl_mem (fun s cl => ?_) _ _).trans (foldl_mem (fun s g => ?_) _ _)
  · rfl
  · simp

@[simp] theorem ctxRefused_mem (s : State) (ld : Fin 4) : (s.ctxRefused ld).mem = s.mem := rfl

theorem ctxCommand_mem {s : State} {ld : Fin 4} {asn : Asn} {ok : Ctx → Bool} {f : State → State} (hf : (f s).mem = s.mem) :
    (ctxCommand s ld asn ok f).mem = s.mem := by
  unfold ctxCommand
  split
  · rfl
  · exact hf

@[simp] theorem createCtx_mem (s : State) (ld : Fin 4) (asn : Asn) : (s.createCtx ld asn).mem = s.mem :=
  ctxCommand_mem rfl

@[simp] theorem preemptCtx_mem (s : State) (ld : Fin 4) (asn : Asn) (rewind : Bool) : (s.preemptCtx ld asn rewind).mem = s.mem :=
  ctxCommand_mem rfl

@[simp] theorem resumeCtx_mem (s : State) (ld : Fin 4) (asn : Asn) : (s.resumeCtx ld asn).mem = s.mem :=
  ctxCommand_mem rfl

@[simp] theorem pageMeet_mem (s : State) (p : Nat × Nat × Nat) : (s.pageMeet p).mem = s.mem := by simp [State.pageMeet]
@[simp] theorem pauseQueues_mem (s : State) (ld : Fin 4) (asn : Asn) : (s.pauseQueues ld asn).mem = s.mem := rfl

@[simp] theorem startFreeze_mem (s : State) (j : FreezeJob) : (s.startFreeze j).mem = s.mem := by
  refine foldl_mem (fun s e => ?_) _ _
  rfl

@[simp] theorem endJob_mem (s : State) (j : FreezeJob) (outcome kind : Nat) : (s.endJob j outcome kind).mem = s.mem := rfl
@[simp] theorem writePool_mem (s : State) (ld : Fin 4) (n : Fin 8) (x : DWord) : (s.writePool ld n x).mem = s.mem := by simp [State.writePool]

@[simp] theorem writePoolSize_mem (s : State) (ld : Fin 4) (n : Fin 8) (x : DWord) :
    (s.writePoolSize ld n x).mem = s.mem := by simp [State.writePoolSize]

@[simp] theorem writePubBuf_mem (s : State) (ld : Fin 4) (n : Fin 64) (x : DWord) :
    (s.writePubBuf ld n x).mem = s.mem := by simp [State.writePubBuf]

@[simp] theorem writeProfile_mem (s : State) (ld : Fin 4) (f : Fin 4) (x : DWord) : (s.writeProfile ld f x).mem = s.mem := rfl
@[simp] theorem xBad_mem (s : State) (ld : Fin 4) : (s.xBad ld).mem = s.mem := rfl

@[simp] theorem importSend_mem (s : State) (ld : Fin 4) (asn : Asn) (n : Fin 256) : (s.importSend ld asn n).mem = s.mem := by
  simp only [State.importSend, State.readEntry]
  simp

@[simp] theorem setPort_mem (s : State) (p : Fin 8) (x : EthPort) : (s.setPort p x).mem = s.mem := rfl

@[simp] theorem parkPort_mem (s : State) (p : Fin 8) (rx : Bool) (k : AccKind) (reason a : Nat) :
    (s.parkPort p rx k reason a).mem = s.mem := by simp [State.parkPort]

@[simp] theorem writeEthCfg_mem (s : State) (p : Fin 8) (x : DWord) : (s.writeEthCfg p x).mem = s.mem := rfl
@[simp] theorem setLink_mem (s : State) (second : Bool) (gen : Fin 8) : (s.setLink second gen).mem = s.mem := by simp [State.setLink]
@[simp] theorem attest_mem (s : State) (x : DWord) : (s.attest x).mem = s.mem := by simp [State.attest]
@[simp] theorem flashWrite_mem (s : State) (x : DWord) : (s.flashWrite x).mem = s.mem := by simp [State.flashWrite]
@[simp] theorem flashDone_mem (s : State) (bad : Bool) : (s.flashDone bad).mem = s.mem := rfl

@[simp] theorem writePort_mem (s : State) (p : Fin 8) (j : Nat) (x : DWord) : (s.writePort p j x).mem = s.mem := by
  unfold State.writePort
  split <;> rfl

@[simp] theorem nextGangTrap_mem (s : State) (g : GroupId) : (s.nextGangTrap g).mem = s.mem := by
  simp only [State.nextGangTrap]
  repeat' split
  all_goals simp

@[simp] theorem releaseGrid_mem (s : State) (l : Launch) : (s.releaseGrid l).mem = s.mem := by
  refine foldl_mem (fun s g => ?_) _ _
  split <;> simp [ite_self]

@[simp] theorem parkFetch_mem (s : State) (g : GroupId) (grp : Group) (slices : BitVec 8) (pc : Addr) (reason : Nat) :
    (s.parkFetch g grp slices pc reason).mem = s.mem := by simp [State.parkFetch]

@[simp] theorem mapCore_mem (s : State) (c : Core) (f : GroupId → Group → Group) : (s.mapCore c f).mem = s.mem := rfl
@[simp] theorem setRun_mem (s : State) (c : Core) (r : Option Run) : (s.setRun c r).mem = s.mem := rfl
@[simp] theorem settleStops_mem (s : State) (c : Core) : (s.settleStops c).mem = s.mem := by simp [State.settleStops]

@[simp] theorem breakGang_mem (s : State) (g : GroupId) (slices : BitVec 8) : (s.breakGang g slices).mem = s.mem := by
  unfold State.breakGang
  split <;> rfl

@[simp] theorem markIssued_mem (s : State) (r : Run) (pc : Addr) : (s.markIssued r pc).mem = s.mem := by
  unfold State.markIssued
  split <;> simp

@[simp] theorem afterGang_mem (s : State) (c : Core) (r : Run) (old : Nat) (pc : Addr) : (s.afterGang c r old pc).mem = s.mem := by
  simp only [State.afterGang]
  split <;> simp

@[simp] theorem afterPilot_mem (s : State) (cl : ClusterId) (old : Nat) : (s.afterPilot cl old).mem = s.mem := rfl
@[simp] theorem dropCounts_mem (s : State) : (s.dropCounts).mem = s.mem := rfl

@[simp] theorem admitAll_mem (s : State) : (s.admitAll).mem = s.mem :=
  foldl_mem (fun _ _ => by simp) _ _

@[simp] theorem follow_mem (s : State) : (s.follow).mem = s.mem := by simp [State.follow]
@[simp] theorem settled_mem (s : State) : (s.settled).mem = s.mem := by simp [State.settled]
@[simp] theorem elapse_mem (s : State) (ns : Nat) : (s.elapse ns).mem = s.mem := by simp [State.elapse]
@[simp] theorem placed_mem (s : State) : (s.placed).mem = s.mem := rfl

@[simp] theorem finishGang_mem (c : Core) (r : Run) (old : Nat) (pc : Addr) (s : State) :
    (State.finishGang c r old pc s).mem = s.mem := by simp [State.finishGang]

end Sys2Proof.Machine
end

section
/-! PROOFS. What an outcome and an answer of a meaning leave in memory: its canonical form, whether the word completes, traps or waits. -/

namespace Sys2Proof.Machine

open Sys2Proof

/-- The next state of an outcome, where it has one, holds memory in its canonical form. -/
def Canonical (r : Host.Outcome State Fault Refusal) : Prop := ∀ t, r = .next t → Memory.wf t.mem = true

@[simp] theorem canonical_next {t : State} : Canonical (.next t) ↔ Memory.wf t.mem = true :=
  ⟨fun h => h t rfl, fun h _ ht => Host.Outcome.next.inj ht ▸ h⟩

@[simp] theorem canonical_fault {e : Fault} : Canonical (.fault e) := fun _ h => nomatch h

@[simp] theorem canonical_refused {e : Refusal} : Canonical (.refused e) := fun _ h => nomatch h

theorem canonical_ite {c : Prop} [Decidable c] {x y : Host.Outcome State Fault Refusal} (hx : Canonical x) (hy : Canonical y) :
    Canonical (if c then x else y) := by
  split <;> assumption

/-- The state that a word leaves when it does not complete. -/
def Stop.state : Stop → State
  | .trap _ s => s
  | .wait s => s

/-- A property of what an answer gives, with memory in its canonical form where the word stops. -/
def Keeps {α : Type} (p : α → Prop) : Except Stop α → Prop
  | .ok a => p a
  | .error e => Memory.wf e.state.mem = true

/-- The word stops with memory in its canonical form, or goes on. -/
abbrev Checks {α : Type} (r : Except Stop α) : Prop := Keeps (fun _ => True) r

/-- The state that an answer leaves has memory in its canonical form. -/
abbrev Leaves (r : Except Stop State) : Prop := Keeps (fun t => Memory.wf t.mem = true) r

/-- The state that an answer leaves beside a value has memory in its canonical form. -/
abbrev Yields {β : Type} (r : Except Stop (State × β)) : Prop := Keeps (fun x => Memory.wf x.1.mem = true) r

section

variable {α β : Type} {p : α → Prop} {q : β → Prop}

@[simp] theorem keeps_ok {a : α} : Keeps p (.ok a) ↔ p a := Iff.rfl

@[simp] theorem keeps_pure {a : α} : Keeps p (pure a) ↔ p a := Iff.rfl

@[simp] theorem keeps_trap {t : Trap} {s : State} : Keeps p (.error (.trap t s)) ↔ Memory.wf s.mem = true := Iff.rfl

@[simp] theorem keeps_wait {s : State} : Keeps p (.error (.wait s)) ↔ Memory.wf s.mem = true := Iff.rfl

theorem keeps_bind {x : Except Stop α} {f : α → Except Stop β} (hx : Keeps p x) (hf : ∀ a, p a → Keeps q (f a)) :
    Keeps q (x >>= f) := by
  cases x with
  | ok a => exact hf a hx
  | error e => exact hx

theorem keeps_ite {c : Prop} [Decidable c] {x y : Except Stop α} (hx : Keeps p x) (hy : Keeps p y) : Keeps p (if c then x else y) := by
  split <;> assumption

theorem keeps_foldlM {γ : Type} {f : α → γ → Except Stop α} (hf : ∀ a c, p a → Keeps p (f a c)) (l : List γ) {a : α} (h : p a) :
    Keeps p (l.foldlM f a) := by
  induction l generalizing a with
  | nil => exact h
  | cons c l ih => exact keeps_bind (hf a c h) fun b hb => ih hb

end

theorem ite_wf {c : Prop} [Decidable c] {a b : State} (ha : Memory.wf a.mem = true) (hb : Memory.wf b.mem = true) :
    Memory.wf (if c then a else b).mem = true := by
  split <;> assumption

/-- A word that completes, traps or waits leaves memory in its canonical form. -/
theorem settle_canonical {r : Except Stop State} (hr : Leaves r) : Canonical (settle r) := by
  unfold settle
  split
  · exact canonical_next.2 hr
  · exact canonical_next.2 hr
  case h_3 t u =>
    have hu : Memory.wf u.mem = true := hr
    split
    · simpa using hu
    · simpa using hu
    · exact canonical_refused

theorem keepGroup_leaves (g : GroupId) (grp : Group) {r : Except Stop State} (hr : Leaves r) : Leaves (keepGroup g grp r) := by
  unfold keepGroup
  split
  · split <;> exact hr
  · split <;> exact hr
  · exact hr

theorem onAny_canonical {s : State} {f : Except Stop State} (hf : Leaves f) : Canonical (onAny s f) := by
  unfold onAny
  split
  · exact canonical_refused
  · exact settle_canonical hf
  · split
    · exact canonical_refused
    · exact settle_canonical (keepGroup_leaves _ _ hf)

section

variable {s : State} (h : Memory.wf s.mem = true)
include h

theorem trapOf_checks {α : Type} (k : Kind) : Checks (trapOf s k : Except Stop α) := h

theorem illegal_keeps {α : Type} {p : α → Prop} (step : Nat) : Keeps p (illegal s step : Except Stop α) := h

theorem require_checks (ok : Bool) (t : Trap) : Checks (require ok s t) := by
  unfold require
  split
  · trivial
  · exact h

theorem onGang_canonical {f : GroupId → Group → BitVec 8 → Except Stop State} (hf : ∀ g grp slices, Leaves (f g grp slices)) :
    Canonical (onGang s f) := by
  unfold onGang
  split
  · exact canonical_refused
  · exact settle_canonical (illegal_keeps h 2)
  · split
    · exact canonical_refused
    · exact settle_canonical (keepGroup_leaves _ _ (hf _ _ _))

theorem onPilot_canonical {f : ClusterId → Pilot → Except Stop State} (hf : ∀ cl p, Leaves (f cl p)) : Canonical (onPilot s f) := by
  unfold onPilot
  split
  · exact canonical_refused
  · exact settle_canonical (illegal_keeps h 2)
  · exact settle_canonical (hf _ _)

theorem guardForm_canonical {r : Host.Outcome State Fault Refusal} (hr : Canonical r) (ok : Bool) : Canonical (guardForm ok s r) := by
  unfold guardForm
  split
  · exact hr
  · exact settle_canonical (illegal_keeps h 1)

end

end Sys2Proof.Machine
end

section
/-! PROOFS. Operands of words: what reading and writing them, and the checks before, leave in memory; and the lane words (R158, R166 to
R183, R187 to R194, R237). -/

namespace Sys2Proof.Machine

open Sys2Proof

theorem streamPlaces_mem {s t : State} {g : GroupId} {grp : Group} {d : StreamDesc} {k : AccKind} {a : Nat} {ps : List Place}
    (h : s.streamPlaces g grp d k a = .ok (t, ps)) : t.mem = s.mem := by
  unfold State.streamPlaces at h
  split at h
  · cases h
    rfl
  · exact State.mem_of_held (held_places h)

theorem mapM_checks {α β : Type} {f : α → Except Stop β} (hf : ∀ a, Checks (f a)) (l : List α) : Checks (l.mapM f) := by
  induction l with
  | nil => trivial
  | cons a l ih =>
    rw [List.mapM_cons]
    exact keeps_bind (hf a) fun _ _ => keeps_bind ih fun _ _ => trivial

section

variable {s : State} (h : Memory.wf s.mem = true)
include h

theorem wf_groupStore (r : Req) (launch : Nat) (ps : List Place) (bs : List Byte) : Memory.wf (s.groupStore r launch ps bs).mem = true :=
  wf_writePlaces (by simpa using h) _ _ _

/-! ### Checks -/

theorem checkPromise_checks (grp : Group) (slices : BitVec 8) (vs : List Nat) (ss : List (Fin 64)) :
    Checks (checkPromise s grp slices vs ss) := by
  unfold checkPromise
  split
  · split
    · exact h
    · trivial
  · trivial

theorem checkArrived_checks (g : GroupId) (grp : Group) (slices : BitVec 8) (vs : List Nat) (ss : List (Fin 64)) :
    Checks (checkArrived s g grp slices vs ss) := by
  unfold checkArrived
  split
  · exact h
  · trivial

theorem checkPoison_checks (grp : Group) (names : List (Nat × Nat)) (lanes : LaneMask) : Checks (checkPoison s grp names lanes) := by
  simp only [checkPoison]
  split
  · trivial
  · exact h

theorem elementTrap_checks (grp : Group) (es : List (Fin 8 × Nat × Nat)) (k : Kind) : Checks (elementTrap s grp es k) := by
  unfold elementTrap
  split
  · trivial
  · exact h

theorem checkStreams_checks (grp : Group) (slices : BitVec 8) (os : List VOp) (acting : LaneMask) :
    Checks (checkStreams s grp slices os acting) := by
  unfold checkStreams
  split
  · exact h
  · exact keeps_bind (elementTrap_checks h _ _ _) fun _ _ => keeps_bind (elementTrap_checks h _ _ _) fun _ _ => elementTrap_checks h _ _ _

theorem laneChecks_checks (g : GroupId) (grp : Group) (slices : BitVec 8) (srcs dsts : List VOp) (reading acting : LaneMask) :
    Checks (laneChecks s g grp slices srcs dsts reading acting) :=
  keeps_bind (require_checks h _ _) fun _ _ => keeps_bind (checkPromise_checks h _ _ _ _) fun _ _ =>
    keeps_bind (checkArrived_checks h _ _ _ _ _) fun _ _ => keeps_bind (checkPoison_checks h _ _ _) fun _ _ =>
      checkStreams_checks h _ _ _ _

theorem checkUnif_checks (grp : Group) (u : Bool) (active : LaneMask) (xs : List VReg) : Checks (checkUnif s grp u active xs) := by
  simp only [checkUnif]
  split
  · exact h
  · trivial

theorem raiseFlags_leaves {s0 : State} (h0 : Memory.wf s0.mem = true) (g : GroupId) (order : List (BitVec 7 × Kind)) (raised : BitVec 7)
    (lanes : BitVec 7 → LaneMask) : Leaves (raiseFlags s0 s g order raised lanes) := by
  simp only [raiseFlags]
  split
  · refine keeps_trap.2 ?_
    split <;> exact h0
  · refine keeps_ok.2 ?_
    split <;> exact h

/-! ### Streams and registers -/

theorem readStream_yields (g : GroupId) (slices : BitVec 8) (k : Fin 8) : Yields (readStream s g slices k) := by
  unfold readStream
  split
  · exact h
  · dsimp only
    split
    · exact h
    · refine keeps_bind (p := fun r : StreamRead => Memory.wf r.s.mem = true) (keeps_foldlM (fun r e hr => ?_) _ h) fun r hr => ?_
      · split
        · exact hr
        next hplaces =>
          rw [keeps_pure]
          rw [streamPlaces_mem hplaces]
          exact hr
      · split
        · simpa using hr
        · split
          · exact hr
          · exact hr

theorem readLane_yields (g : GroupId) (slices : BitVec 8) (r : Nat) : Yields (readLane s g slices r) := by
  unfold readLane
  split
  · exact h
  · split
    · exact readStream_yields h _ _ _
    · exact h

theorem readLanes_yields (g : GroupId) (slices : BitVec 8) (rs : List Nat) : Yields (readLanes s g slices rs) := by
  induction rs generalizing s with
  | nil => exact h
  | cons r rs ih =>
    exact keeps_bind (readLane_yields h _ _ _) fun x hx => keeps_bind (ih hx) fun y hy => hy

theorem pushStream_leaves (g : GroupId) (slices : BitVec 8) (k : Fin 8) (lanes : LaneMask) (x : VReg) :
    Leaves (pushStream s g slices k lanes x) := by
  unfold pushStream
  split
  · exact h
  · dsimp only
    split
    · exact h
    · refine keeps_bind (p := fun acc : State × LaneMask × Nat × Nat × LaneMask => Memory.wf acc.1.mem = true)
        (keeps_foldlM (fun acc e hacc => ?_) _ h) fun acc hacc => ?_
      · split
        · exact hacc
        · split
          · exact hacc
          next hplaces =>
            rw [keeps_pure]
            refine wf_groupStore ?_ _ _ _ _
            rw [streamPlaces_mem hplaces]
            exact hacc
      · split
        · simpa using hacc
        · split <;> exact hacc

theorem writeLane_leaves (g : GroupId) (slices : BitVec 8) (r : Nat) (lanes : LaneMask) (x : VReg) :
    Leaves (writeLane s g slices r lanes x) := by
  unfold writeLane
  split
  · exact h
  · split
    · exact pushStream_leaves h _ _ _ _ _
    · exact h

theorem writeLanes_leaves (g : GroupId) (slices : BitVec 8) (lanes : LaneMask) (ws : List (Nat × VReg)) :
    Leaves (writeLanes s g slices lanes ws) := by
  induction ws generalizing s with
  | nil => exact h
  | cons w ws ih => exact keeps_bind (writeLane_leaves h _ _ _ _ _) fun t ht => ih ht

/-! ### Uniform operands -/

theorem portUse_checks (grp : Group) (r : Fin 64) (push : Bool) : Checks (portUse s grp r push) := by
  unfold portUse
  split
  · trivial
  · split
    · exact h
    · split
      · trivial
      · exact h

theorem planPorts_checks (grp : Group) (srcs dsts : List (Fin 64)) : Checks (planPorts s grp srcs dsts) :=
  keeps_bind (mapM_checks (fun _ => portUse_checks h _ _ _) _) fun _ _ =>
    keeps_bind (mapM_checks (fun _ => portUse_checks h _ _ _) _) fun _ _ => trivial

theorem uniformSources_checks (srcs dsts : List (Fin 64)) (extra : PortPlan) : Checks (uniformSources s srcs dsts extra) := by
  unfold uniformSources
  split
  · exact h
  · dsimp only
    split
    · simpa using h
    · split
      · exact h
      · trivial
  · split
    · exact h
    · refine keeps_bind (checkPromise_checks h _ _ _ _) fun _ _ => keeps_bind (checkArrived_checks h _ _ _ _ _) fun _ _ => ?_
      split
      · exact h
      · refine keeps_bind (planPorts_checks h _ _ _) fun _ _ => ?_
        exact keeps_ite trivial (by simpa using h)

/-! ### Lane words -/

theorem advance_leaves : Leaves (.ok s.advance) := by simpa using h

theorem laneOp_canonical (u : Bool) (guard : Fin 8) (srcs : List VOp) (dst : VOp) (f : Group → List Word → List Word × BitVec 7) :
    Canonical (laneOp s u guard srcs dst f) := by
  refine onGang_canonical h fun g grp slices => ?_
  refine keeps_bind (laneChecks_checks h _ _ _ _ _ _ _) fun _ _ => keeps_bind (readLanes_yields h _ _ _) fun x hx => ?_
  refine keeps_bind (checkUnif_checks h _ _ _ _) fun _ _ => keeps_bind (raiseFlags_leaves hx h _ _ _ _) fun s2 h2 => ?_
  exact keeps_bind (writeLanes_leaves h2 _ _ _ _) fun s3 h3 => advance_leaves h3

theorem lanePredOp_canonical (u : Bool) (guard k : Fin 8) (srcs : List VOp) (f : Group → List Word → Bool × BitVec 7) :
    Canonical (lanePredOp s u guard k srcs f) := by
  refine onGang_canonical h fun g grp slices => ?_
  refine keeps_bind (laneChecks_checks h _ _ _ _ _ _ _) fun _ _ => keeps_bind (readLanes_yields h _ _ _) fun x hx => ?_
  refine keeps_bind (checkUnif_checks h _ _ _ _) fun _ _ => keeps_bind (raiseFlags_leaves hx h _ _ _ _) fun s2 h2 => ?_
  dsimp only
  split <;> exact advance_leaves (by exact h2)

theorem execSel_canonical (o : LR3) : Canonical (execSel o s) := by
  refine onGang_canonical h fun g grp slices => ?_
  refine keeps_bind (laneChecks_checks h _ _ _ _ _ _ _) fun _ _ => keeps_bind (readLanes_yields h _ _ _) fun x hx => ?_
  refine keeps_bind (checkUnif_checks h _ _ _ _) fun _ _ => ?_
  exact keeps_bind (writeLane_leaves hx _ _ _ _ _) fun s2 h2 => advance_leaves h2

theorem crossOp_canonical (guard : Fin 8) (srcs : List VOp) (dst : VOp) (need : Group → LaneMask → LaneMask)
    (f : LaneMask → List VReg → List VReg) : Canonical (crossOp s guard srcs dst need f) := by
  refine onGang_canonical h fun g grp slices => ?_
  refine keeps_bind (require_checks h _ _) fun _ _ => keeps_bind (require_checks h _ _) fun _ _ => ?_
  refine keeps_bind (laneChecks_checks h _ _ _ _ _ _ _) fun _ _ => keeps_bind (readLanes_yields h _ _ _) fun x hx => ?_
  exact keeps_bind (writeLanes_leaves hx _ _ _ _) fun s2 h2 => advance_leaves h2

end

end Sys2Proof.Machine
end

section
/-! PROOFS. Wide words and the memory words of the lanes: what their shared operations leave in memory (R199 to R203, R225 to R238). -/

namespace Sys2Proof.Machine

open Sys2Proof

section

variable {s : State} (h : Memory.wf s.mem = true)
include h

/-! ### Wide words -/

theorem wideChecks_checks (g : GroupId) (grp : Group) (slices : BitVec 8) (srcs dsts both : List VOp) :
    Checks (wideChecks s g grp slices srcs dsts both) :=
  keeps_bind (require_checks h _ _) fun _ _ => keeps_bind (require_checks h _ _) fun _ _ =>
    keeps_bind (require_checks h _ _) fun _ _ => keeps_bind (checkPromise_checks h _ _ _ _) fun _ _ =>
      keeps_bind (checkArrived_checks h _ _ _ _ _) fun _ _ => keeps_bind (checkPoison_checks h _ _ _) fun _ _ =>
        checkStreams_checks h _ _ _ _

theorem readSpan_yields (g : GroupId) (slices : BitVec 8) (r n : Nat) : Yields (readSpan s g slices r n) := by
  refine keeps_bind (readLanes_yields h _ _ _) fun x hx => ?_
  dsimp only
  split <;> exact hx

theorem readWide_yields (g : GroupId) (slices : BitVec 8) (rs : List (Nat × Nat)) : Yields (readWide s g slices rs) := by
  induction rs generalizing s with
  | nil => exact h
  | cons r rs ih => exact keeps_bind (readSpan_yields h _ _ _ _) fun x hx => keeps_bind (ih hx) fun y hy => hy

theorem writeWide_leaves (g : GroupId) (slices : BitVec 8) (ws : List (Nat × Nat × Int)) : Leaves (writeWide s g slices ws) := by
  refine keeps_bind (writeLanes_leaves h _ _ _ _) fun t ht => ?_
  split <;> exact ht

theorem finishWide_leaves {s0 : State} (h0 : Memory.wf s0.mem = true) (g : GroupId) (slices : BitVec 8) (enables : BitVec 7) (out : WideOut) :
    Leaves (finishWide s0 s g slices enables out) := by
  simp only [finishWide]
  split
  · refine keeps_trap.2 ?_
    split <;> exact h0
  · refine keeps_bind (writeWide_leaves (by split <;> exact h) _ _ _) fun t ht => keeps_pure.2 ?_
    repeat' split
    all_goals simpa using ht

theorem wideShort_canonical (srcs dsts both : List WSrc) (uses udst : List (Fin 64)) (f : Group → List Int → List DWord → WideOut) :
    Canonical (wideShort s srcs dsts both uses udst f) := by
  refine onGang_canonical h fun g grp slices => ?_
  refine keeps_bind (wideChecks_checks h _ _ _ _ _ _) fun _ _ => keeps_bind (uniformSources_checks h _ _ _) fun x _ => ?_
  refine keeps_bind (readWide_yields h _ _ _) fun y hy => ?_
  refine keeps_bind (finishWide_leaves (by simpa using hy) h _ _ _ _) fun t ht => ?_
  simpa using ht

theorem execWsetl_canonical (o : WSet) : Canonical (execWsetl o s) := by
  refine guardForm_canonical h (onGang_canonical h fun g grp slices => ?_) _
  refine keeps_bind (require_checks h _ _) fun _ _ => keeps_bind (require_checks h _ _) fun _ _ => ?_
  refine keeps_bind (require_checks h _ _) fun _ _ => keeps_bind (checkPromise_checks h _ _ _ _) fun _ _ => ?_
  refine keeps_bind (uniformSources_checks h _ _ _) fun x _ => ?_
  refine keeps_bind (writeLane_leaves (by simpa using h) _ _ _ _ _) fun t ht => ?_
  simpa using ht

theorem wideSequenced_canonical (i : Instr) (srcs dsts : List WSrc) (uses : List (Fin 64)) {more : GroupId → Group → List DWord → Except Stop Unit}
    (hmore : ∀ g grp us, Checks (more g grp us)) (total : List Int → List DWord → Nat) :
    Canonical (wideSequenced s i srcs dsts uses more total) := by
  have hwait : ∀ (g : GroupId) (slices : BitVec 8) (t : State), Memory.wf t.mem = true →
      Leaves (pure (match t.group? g with
        | some grp => (t.setGroup g (grp.setWait slices .sequencer t.fetched)).endRun
        | none => t)) := by
    intro g slices t ht
    refine keeps_pure.2 ?_
    split <;> exact ht
  refine onGang_canonical h fun g grp slices => ?_
  dsimp only
  split
  · exact hwait _ _ _ (by simpa using h)
  · refine keeps_bind (wideChecks_checks h _ _ _ _ _ _) fun _ _ => keeps_bind (uniformSources_checks h _ _ _) fun x _ => ?_
    refine keeps_bind (hmore _ _ _) fun _ _ => keeps_bind (readWide_yields h _ _ _) fun y hy => ?_
    exact hwait _ _ _ (by simpa using hy)

theorem cresOut_yields (grp : Group) (o : WCres) (c : DWord) : Yields (cresOut s grp o c) := by
  simp only [cresOut]
  split
  · exact h
  · refine keeps_ok.2 ?_
    dsimp only
    split <;> simpa using h

theorem captured_yields (w : WideSeq) (grp : Group) : Yields (w.captured s grp) := by
  unfold WideSeq.captured
  split
  · exact keeps_bind (cresOut_yields h _ _ _) fun x hx => hx
  · exact h

end

theorem keepSeq_leaves {r : Except Stop State} (hr : Leaves r) (w : WideSeq) (xs : List Int) (s0 : State) : Leaves (keepSeq w xs s0 r) := by
  unfold keepSeq
  split
  case h_1 t =>
    have ht : Memory.wf t.mem = true := hr
    refine keeps_wait.2 ?_
    rw [mapSeqs_mem]
    split
    · split
      next u heq =>
        have hu := keepGroup_leaves w.g (by assumption) (r := .error (.wait t)) ht
        rw [heq] at hu
        exact hu
      · exact ht
    · exact ht
  · split
    · exact keepGroup_leaves _ _ hr
    · exact hr
  · exact hr

section

variable {s : State} (h : Memory.wf s.mem = true)
include h

theorem execWideSequencedComplete_canonical : Canonical (execWideSequencedComplete s) := by
  simp only [execWideSequencedComplete]
  split
  · exact canonical_next.2 h
  · split
    · exact canonical_next.2 (by simpa using h)
    · refine canonical_ite (canonical_next.2 h) (settle_canonical ?_)
      refine keeps_bind (captured_yields (by simpa using h) _ _) fun x hx => ?_
      refine keeps_bind (keepSeq_leaves (finishWide_leaves hx (by simpa using h) _ _ _ _) _ _ _) fun t ht => ?_
      split
      · simpa using ht
      · exact ht

/-! ### Accesses of an event -/

theorem laneTrap_checks (k : Kind) (bad : List LaneAddr) : Checks (laneTrap s k bad) := by
  unfold laneTrap
  split
  · trivial
  · exact h

theorem checkAddrs_checks (p : Priv) (as : List LaneAddr) (n : Nat) : Checks (checkAddrs s p as n) :=
  keeps_bind (laneTrap_checks h _ _) fun _ _ => laneTrap_checks h _ _

theorem checkAlign_checks (as : List LaneAddr) (n : Nat) : Checks (checkAlign s as n) := laneTrap_checks h _ _

theorem checkLocal_checks (size : Nat) (as : List LaneAddr) (n : Nat) : Checks (checkLocal s size as n) := laneTrap_checks h _ _

end

/-- Finding the bytes of an access leaves memory as it is. -/
def Locate.Quiet (locate : Locate) : Prop := ∀ s t a ps, locate s a = .ok (t, ps) → t.mem = s.mem

theorem virtualAt_quiet (k : AccKind) (l1 : Option Bool) (n : Nat) (g : GroupId) (grp : Group) : (virtualAt k l1 n g grp).Quiet :=
  fun _ _ _ _ h => State.mem_of_held (held_places h)

theorem localAt_quiet (n : Nat) (g : GroupId) (grp : Group) : (localAt n g grp).Quiet := by
  intro s t a ps h
  cases h
  rfl

theorem serveLoad_keeps {locate : Locate} (hl : locate.Quiet) (look : Look) (z : Size) {acc : Served} (h : Memory.wf acc.s.mem = true)
    (e : LaneAddr) : Keeps (fun r => Memory.wf r.s.mem = true) (serveLoad locate look z acc e) := by
  unfold serveLoad
  split
  · exact h
  · split
    · exact h
    next hplaces =>
      have ht := (congrArg (fun m => Memory.wf m) (hl _ _ _ _ hplaces)).trans h
      dsimp only
      split <;> exact ht

theorem serveStore_keeps {locate : Locate} (hl : locate.Quiet) {store : State → List Place → List Byte → State}
    (hs : ∀ s ps bs, Memory.wf s.mem = true → Memory.wf (store s ps bs).mem = true) (bytes : Nat → List Byte) (n : Nat) (as : List LaneAddr)
    {acc : Served} (h : Memory.wf acc.s.mem = true) (e : LaneAddr) :
    Keeps (fun r => Memory.wf r.s.mem = true) (serveStore locate store bytes n as acc e) := by
  unfold serveStore
  split
  · exact h
  · split
    · exact h
    next hplaces =>
      have ht := (congrArg (fun m => Memory.wf m) (hl _ _ _ _ hplaces)).trans h
      refine keeps_pure.2 ?_
      dsimp only
      split <;> exact hs _ _ _ ht

theorem wf_pinned {acc : Served} (h : Memory.wf acc.s.mem = true) (strong : Bool) (g : GroupId) (slices : BitVec 8) :
    Memory.wf (acc.pinned strong g slices).s.mem = true := by
  unfold Served.pinned
  split
  · simpa using h
  · exact h

section

variable {s : State} (h : Memory.wf s.mem = true)
include h

theorem endServe_leaves (g : GroupId) (slices : BitVec 8) (k : AccKind) (z : Size) (as : List LaneAddr) {acc : Served}
    (hacc : Memory.wf acc.s.mem = true) : Leaves (endServe s g slices k z as acc) := by
  simp only [endServe]
  split
  · simpa using hacc
  · split
    · simpa using h
    · exact hacc

theorem deliver_leaves (g : GroupId) (slices : BitVec 8) (lanes : LaneMask) (la : Nat) (dropped : List Nat) (dsts : List (Nat × VReg)) :
    Leaves (deliver s g slices lanes la dropped dsts) := by
  simp only [deliver]
  split
  · exact h
  · split
    · exact writeLanes_leaves h _ _ _ _
    · exact h

theorem deliverLoad_leaves (g : GroupId) (slices : BitVec 8) (lanes : LaneMask) (la : Nat) (prog : Progress) (vd : Fin 64)
    (vals : List VReg) : Leaves (deliverLoad s g slices lanes la prog vd vals) := by
  simp only [deliverLoad]
  split
  · exact h
  · split
    · exact deliver_leaves (by exact h) _ _ _ _ _ _
    · exact deliver_leaves h _ _ _ _ _ _

/-! ### Lane loads, stores, copies and atomics -/

theorem laneLoad_canonical (u : Bool) (guard : Fin 8) (vd va : Fin 64) (z : Size) (la : Nat) (strong acquire : Bool) (width : Nat)
    (addr : List VReg → Nat → Nat) {check : Group → List LaneAddr → Except Stop Unit} (hcheck : ∀ grp as, Checks (check grp as))
    {locate : GroupId → Group → Locate} (hl : ∀ g grp, (locate g grp).Quiet) (look : Group → Look) :
    Canonical (laneLoad s u guard vd va z la strong acquire width addr check locate look) := by
  have hend : ∀ (g : GroupId) (t : State), Memory.wf t.mem = true →
      Leaves (pure (if acquire then t.acquire g else t).advance) := fun g t ht =>
    keeps_pure.2 (by simpa using ht)
  refine onGang_canonical h fun g grp slices => keeps_bind (laneChecks_checks h _ _ _ _ _ _ _) fun _ _ => ?_
  dsimp only
  split
  · refine keeps_bind (readLanes_yields h _ _ _) fun x hx => keeps_bind (deliverLoad_leaves hx _ _ _ _ _ _ _) fun t ht => ?_
    exact hend _ _ ht
  · refine keeps_bind (readLanes_yields h _ _ _) fun x hx => keeps_bind (checkUnif_checks h _ _ _ _) fun _ _ => ?_
    refine keeps_bind (hcheck _ _) fun _ _ => ?_
    refine keeps_bind (keeps_foldlM (p := fun acc : Served => Memory.wf acc.s.mem = true)
      (fun acc e hacc => serveLoad_keeps (hl _ _) _ _ hacc e) _ hx) fun acc hacc => ?_
    refine keeps_bind (endServe_leaves h _ _ _ _ _ (wf_pinned hacc _ _ _)) fun t ht => ?_
    exact keeps_bind (deliverLoad_leaves ht _ _ _ _ _ _ _) fun u hu => hend _ _ hu

theorem laneStore_canonical (guard : Fin 8) (vd va : Fin 64) (z : Size) (strong : Bool) (width : Nat) (addr : List VReg → Nat → Nat)
    {check : Group → List LaneAddr → Except Stop Unit} (hcheck : ∀ grp as, Checks (check grp as)) {locate : GroupId → Group → Locate}
    (hl : ∀ g grp, (locate g grp).Quiet) : Canonical (laneStore s guard vd va z strong width addr check locate) := by
  refine onGang_canonical h fun g grp slices => keeps_bind (laneChecks_checks h _ _ _ _ _ _ _) fun _ _ => ?_
  refine keeps_bind (readLanes_yields h _ _ _) fun x hx => keeps_bind (readLanes_yields hx _ _ _) fun y hy => ?_
  refine keeps_bind (hcheck _ _) fun _ _ => ?_
  refine keeps_bind (keeps_foldlM (p := fun acc : Served => Memory.wf acc.s.mem = true)
    (fun acc e hacc => serveStore_keeps (hl _ _) (fun _ _ _ hs => wf_groupStore hs _ _ _ _) _ _ _ hacc e) _ hy) fun acc hacc => ?_
  exact keeps_bind (endServe_leaves h _ _ _ _ _ (wf_pinned hacc _ _ _)) fun t ht => advance_leaves ht

theorem execAcp_canonical (o : MAcp) : Canonical (execAcp o s) := by
  refine onGang_canonical h fun g grp slices => keeps_bind (laneChecks_checks h _ _ _ _ _ _ _) fun _ _ => ?_
  refine keeps_bind (readLanes_yields h _ _ _) fun x hx => keeps_bind (readLanes_yields hx _ _ _) fun y hy => ?_
  refine keeps_bind (checkAddrs_checks h _ _ _) fun _ _ => keeps_bind (checkAlign_checks h _ _) fun _ _ => ?_
  refine keeps_bind (checkLocal_checks h _ _ _) fun _ _ => ?_
  dsimp only
  split
  · exact hy
  · simpa using hy

theorem memoryCheck_checks (strong : Bool) (n : Nat) (grp : Group) (as : List LaneAddr) : Checks (memoryCheck strong n s grp as) :=
  keeps_bind (checkAddrs_checks h _ _ _) fun _ _ => keeps_ite (checkAlign_checks h _ _) trivial

theorem memLoad_canonical (o : MLd) (strong : Bool) (look : Group → Look) : Canonical (memLoad o s strong look) := by
  unfold memLoad
  exact laneLoad_canonical h _ _ _ _ _ _ _ _ _ _ (fun grp as => memoryCheck_checks h strong _ grp as)
    (fun g grp => virtualAt_quiet _ _ _ g grp) _

theorem memStore_canonical (o : MSt) (strong : Bool) : Canonical (memStore o s strong) := by
  unfold memStore
  exact laneStore_canonical h _ _ _ _ _ _ _ (fun grp as => memoryCheck_checks h strong _ grp as)
    fun g grp => virtualAt_quiet _ _ _ g grp

end

theorem locateLane_keeps {locate : Locate} (hl : locate.Quiet) {acc : Located} (h : Memory.wf acc.s.mem = true) (e : LaneAddr) :
    Keeps (fun r => Memory.wf r.s.mem = true) (locateLane locate acc e) := by
  unfold locateLane
  split
  · exact h
  next hplaces => exact (congrArg (fun m => Memory.wf m) (hl _ _ _ _ hplaces)).trans h

theorem wf_performAtomic (r : Req) (launch : Nat) (op : AtomOp) (n : Nat) (places : List (Nat × List Place)) (data : Nat → Nat × Nat)
    {acc : Served} (h : Memory.wf acc.s.mem = true) (e : LaneAddr) :
    Memory.wf (performAtomic r launch op n places data acc e).s.mem = true := by
  simp only [performAtomic]
  split
  · exact h
  · split
    · exact h
    · exact wf_groupStore h _ _ _ _

theorem wf_performAtomics (r : Req) (launch : Nat) (op : AtomOp) (n : Nat) (places : List (Nat × List Place)) (data : Nat → Nat × Nat)
    (as : List LaneAddr) {acc : Served} (h : Memory.wf acc.s.mem = true) :
    Memory.wf (as.foldl (performAtomic r launch op n places data) acc).s.mem = true := by
  induction as generalizing acc with
  | nil => exact h
  | cons e as ih => exact ih (wf_performAtomic r launch op n places data h e)

theorem laneAtomic_canonical {s : State} (h : Memory.wf s.mem = true) (o : MAtom) (w64 : Bool) : Canonical (laneAtomic o s w64) := by
  refine onGang_canonical h fun g grp slices => keeps_bind (laneChecks_checks h _ _ _ _ _ _ _) fun _ _ => ?_
  refine keeps_bind (readLanes_yields h _ _ _) fun x hx => keeps_bind (readLanes_yields hx _ _ _) fun y hy => ?_
  refine keeps_bind (checkAddrs_checks h _ _ _) fun _ _ => keeps_bind (checkAlign_checks h _ _) fun _ _ => ?_
  refine keeps_bind (keeps_foldlM (p := fun acc : Located => Memory.wf acc.s.mem = true)
    (fun acc e hacc => locateLane_keeps (virtualAt_quiet _ _ _ _ _) hacc e) _ hy) fun loc hloc => ?_
  dsimp only
  split
  · simpa using hloc
  · refine keeps_bind (laneTrap_checks h _ _) fun _ _ => ?_
    refine keeps_ite (keeps_trap.2 ?_) (keeps_ite (advance_leaves ?_) (keeps_bind (deliver_leaves ?_ _ _ _ _ _ _) fun t => advance_leaves))
    · split <;> exact wf_pinned (wf_performAtomics _ _ _ _ _ _ _ (by exact hloc)) _ _ _
    · exact wf_pinned (wf_performAtomics _ _ _ _ _ _ _ (by exact hloc)) _ _ _
    · exact wf_pinned (wf_performAtomics _ _ _ _ _ _ _ (by exact hloc)) _ _ _

end Sys2Proof.Machine
end

section
/-! PROOFS. The functions of the state that write memory keep its canonical form: caches, handles, records and contexts. -/

namespace Sys2Proof.Machine

open Sys2Proof

section
variable {s : State} (h : Memory.wf s.mem = true)
include h

/-! ### Caches and pins -/

theorem wf_evicted (l : List CacheLine) : Memory.wf (l.foldl State.evict s).mem = true := foldl_wf (fun _ l hs => wf_evict hs l) l h

theorem wf_evictAll (p : CacheLine → Bool) : Memory.wf (s.evictAll p).mem = true := wf_evicted (wf_evicted (by exact h) _) _

theorem wf_unpin (p : Pin) : Memory.wf (s.unpin p).mem = true := wf_writeHome (by exact h) _ _

theorem wf_unpinned (l : List Pin) : Memory.wf (l.foldl State.unpin s).mem = true := foldl_wf (fun _ p hs => wf_unpin hs p) l h

theorem wf_emptyCaches (ld : Fin 4) (asn : Asn) : Memory.wf (s.emptyCaches ld asn).mem = true := wf_unpinned (wf_evictAll h _) _

theorem wf_releaseHost (ld : Fin 4) : Memory.wf (s.releaseHost ld).mem = true := wf_evictAll h _

theorem wf_acquireHost (ld : Fin 4) : Memory.wf (s.acquireHost ld).mem = true := wf_evictAll h _

theorem wf_startAcquire (l : Launch) (cl : ClusterId) : Memory.wf (s.startAcquire l cl).mem = true := by
  unfold State.startAcquire
  refine ite_wf (by exact h) ?_
  rw [takeInvals_mem]
  exact wf_acquireHost (by exact h) _

theorem wf_fenceCaches (ld : Fin 4) (sc : Scope) (acq rel : Bool) : Memory.wf (s.fenceCaches ld sc acq rel).mem = true := by
  have htaken : Memory.wf (if acq && widerThanDevice sc then s.takeInvals ld else s).mem = true := ite_wf (by simpa using h) h
  have hreleased := ite_wf (c := rel = true) (wf_releaseHost htaken ld) htaken
  exact ite_wf (ite_wf (wf_acquireHost hreleased ld) hreleased) htaken

theorem wf_retryLine (ld : Fin 4) (asn : Asn) (line : Nat) (again : Bool) : Memory.wf (s.retryLine ld asn line again).mem = true := by
  unfold State.retryLine
  exact ite_wf (foldl_wf (fun _ _ hs => wf_evict (by exact hs) _) _ h) h

theorem wf_giveUp (level : CacheLevel) (ld : Fin 4) (asn : Asn) (va : Nat) : Memory.wf (s.giveUp level ld asn va).mem = true := by
  unfold State.giveUp
  split
  · exact ite_wf h (wf_evict h _)
  · exact h

theorem wf_purgeRange (ld : Fin 4) (q : Purge) : Memory.wf (s.purgeRange ld q).mem = true := by
  refine wf_unpinned ?_ _
  rw [dropPeers_mem]
  exact wf_evictAll h _

theorem wf_releasePort (p : Fin 8) : Memory.wf (s.releasePort p).mem = true := by
  exact wf_releaseHost (foldl_wf (fun _ _ hs => by rwa [dropShared_mem]) _ h) _

/-! ### Accesses of the units -/

theorem wf_engineStore (o : EngineOp) (mark : Nat) (ps : List Place) (bs : List Byte) : Memory.wf (engineStore s o mark ps bs).mem = true :=
  wf_groupStore h _ _ _ _

theorem wf_localWrite (o : EngineOp) (t : Team) (a : Nat) (bs : List Byte) : Memory.wf (localWrite s o t a bs).mem = true :=
  wf_engineStore h _ _ _ _

theorem wf_performOuter (r : Req) (va : Nat) (a : OuterAct) (ps : List Place) (bs : List Byte) :
    Memory.wf (s.performOuter r va a ps bs).mem = true := by
  unfold State.performOuter
  split
  · exact h
  · exact wf_writePlaces h _ _ _
  · dsimp only
    split
    · exact h
    · exact ite_wf h (wf_writePlaces h _ _ _)

theorem wf_remoteAccess (token : DWord) (offset : Nat) (a : OuterAct) (bs : List Byte) :
    Memory.wf (s.remoteAccess token offset a bs).mem = true := by
  unfold State.remoteAccess
  split
  · exact h
  · dsimp only
    split
    · exact h
    · split
      · simpa using h
      next hplaces =>
        refine wf_performOuter ?_ _ _ _ _ _
        rwa [State.mem_of_held (held_places hplaces)]

theorem wf_hostMemAccess (ld : Fin 4) (offset : Nat) (a : OuterAct) (bs : List Byte) :
    Memory.wf (s.hostMemAccess ld offset a bs).mem = true := by
  unfold State.hostMemAccess
  refine ite_wf h ?_
  split
  · exact wf_physWrite h _ _ _
  · simpa using h
  · exact h

/-! ### Launches, rings and queues -/

theorem wf_writesDone (l : Launch) : Memory.wf (s.writesDone l).mem = true := by
  unfold State.writesDone
  split
  · exact h
  · exact wf_releaseHost (by exact h) _

theorem wf_endLaunch (l : Launch) (outcome kind detail : Nat) : Memory.wf (s.endLaunch l outcome kind detail).mem = true := by
  unfold State.endLaunch
  dsimp only
  rw [reportLaunch_mem]
  exact wf_writesDone h l

theorem wf_endLaunches (l : List Launch) (outcome : Nat) : Memory.wf (l.foldl (fun u l => State.endLaunch u l outcome 0 0) s).mem = true :=
  foldl_wf (fun _ l hs => wf_endLaunch hs l _ _ _) l h

theorem wf_writeRing (ld : Fin 4) (r : Nat) (x : Ring) : Memory.wf (s.writeRing ld r x).mem = true := wf_hostWrite (by exact h) _ _

theorem wf_rload (ld : Fin 4) (r : Fin 128) : Memory.wf (s.rload ld r).mem = true := by
  unfold State.rload
  exact ite_wf (wf_writeRing h _ _ _) (by simpa using h)

theorem wf_qload (ld : Fin 4) (q : Fin 32) : Memory.wf (s.qload ld q).mem = true := by
  unfold State.qload
  exact ite_wf (wf_hostWrite (by exact h) _ _) (by simpa using h)

theorem wf_passHead (ld : Fin 4) (r : Nat) (x : Ring) (n : Nat) (p : Pkt) : Memory.wf (s.passHead ld r x n p).mem = true := by
  unfold State.passHead
  split
  · dsimp only
    split
    · rw [State.setDev_mem]
      exact wf_writeRing h _ _ _
    · exact wf_writeRing h _ _ _
  · exact wf_writeRing h _ _ _

theorem wf_takeRing (ld : Fin 4) (q : Fin 32) (r : Nat) : Memory.wf (s.takeRing ld q r).mem = true := by
  unfold State.takeRing
  split
  · exact h
  · split
    · exact h
    · rw [served_mem, takePacket_mem]
      exact wf_passHead (by rwa [passOver_mem]) _ _ _ _ _

theorem wf_passBarriers (ld : Fin 4) (q : Fin 32) : Memory.wf (s.passBarriers ld q).mem = true :=
  foldl_wf (fun _ _ hs => wf_passHead hs _ _ _ _ _) _ h

theorem wf_cancelRing (ld : Fin 4) (q : Fin 32) (r fuel : Nat) : Memory.wf (s.cancelRing ld q r fuel).mem = true := by
  induction fuel generalizing s with
  | zero => exact h
  | succ fuel ih =>
    unfold State.cancelRing
    split
    · exact h
    · split
      · exact h
      · exact ih (ite_wf (by simpa using wf_passHead h _ _ _ _ _) (wf_passHead h _ _ _ _ _))

theorem wf_cancelQueue (ld : Fin 4) (q : Fin 32) : Memory.wf (s.cancelQueue ld q).mem = true := by
  unfold State.cancelQueue
  refine foldl_wf (fun _ _ hs => wf_cancelRing hs _ _ _ _) _ ?_
  have hended : Memory.wf (match s.unadmitted ld q with
      | some l => s.endLaunch l 3 0 0
      | none => s).mem = true := by
    split
    · exact wf_endLaunch h _ _ _ _
    · exact h
  split
  · rw [endIndirect_mem]
    exact hended
  · exact hended

theorem wf_endQueue (ld : Fin 4) (q : Fin 32) : Memory.wf (s.endQueue ld q).mem = true := by
  unfold State.endQueue
  refine wf_cancelQueue ?_ _ _
  rw [foldl_mem (fun _ _ => pushRecord_mem ..), foldl_mem (fun _ _ => reportLaunch_mem ..)]
  exact h

/-! ### Answers to faults -/

theorem wf_replay (r : FaultRec) : Memory.wf (s.replay r).mem = true := by
  unfold State.replay
  split
  · split <;> exact h
  · simpa using h
  · exact h
  · simpa using h
  · simpa using h
  · exact wf_retryLine h _ _ _ _
  all_goals exact h

theorem wf_refuse (r : FaultRec) : Memory.wf (s.refuse r).mem = true := by
  simp only [State.refuse]
  split
  · split
    · exact h
    · simpa using h
  · simpa using h
  · split
    · simpa using h
    · exact h
  · split
    · simpa using h
    · exact h
  · simpa using h
  · simpa using h
  · split
    · simpa using h
    · exact h
  · exact h
  · exact wf_retryLine h _ _ _ _
  all_goals exact h

theorem wf_answer (op : Nat) (r : FaultRec) : Memory.wf (s.answer op r).mem = true := by
  unfold State.answer
  split
  · exact wf_replay h r
  · exact wf_refuse h r
  · simpa using h
  · simpa using h
  · simpa using h
  · exact h

theorem wf_fbcmd (ld : Fin 4) (op : Nat) (seq : Word) : Memory.wf (s.fbcmd ld op seq).mem = true := by
  simp only [State.fbcmd]
  split
  · exact ite_wf h (wf_answer (by exact h) _ _)
  · split <;> exact h

/-! ### Handles -/

omit h in
theorem readEntry_mem (s : State) (ld : Fin 4) (pa : Nat) : (s.readEntry ld pa).1.mem = s.mem := physMeet_mem ..

theorem wf_writeExport (ld : Fin 4) (n : Fin 256) (d0 : Nat) (en : Bool) (gen : Word) : Memory.wf (s.writeExport ld n d0 en gen).mem = true :=
  wf_physWrite (wf_physWrite h _ _ _) _ _ _

theorem wf_closeExports (ld : Fin 4) (raise : Bool) (p : ExportEntry → Bool) : Memory.wf (s.closeExports ld raise p).mem = true :=
  foldl_wf (fun _ _ hs => wf_writeExport (by rwa [physMeet_mem]) _ _ _ _ _) _ h

theorem wf_closeImports (ld : Fin 4) (p : ImportEntry → Bool) : Memory.wf (s.closeImports ld p).mem = true :=
  foldl_wf (fun _ _ hs => wf_physWrite (by rwa [physMeet_mem]) _ _ _) _ h

theorem wf_exportRange (ld : Fin 4) (n : Fin 256) : Memory.wf (s.exportRange ld n).mem = true := by
  have hmet : Memory.wf (s.readEntry ld (s.devices[ld].exportEntry n)).1.mem = true := by rwa [readEntry_mem]
  unfold State.exportRange
  exact ite_wf (by rwa [xBad_mem]) (wf_writeExport (by exact hmet) _ _ _ _ _)

theorem wf_revoke (ld : Fin 4) (n : Fin 256) : Memory.wf (s.revoke ld n).mem = true := by
  have hmet : Memory.wf (s.readEntry ld (s.devices[ld].exportEntry n)).1.mem = true := by rwa [readEntry_mem]
  unfold State.revoke
  exact ite_wf (by simpa using h) (wf_writeExport (by exact hmet) _ _ _ _ _)

theorem wf_unimport (ld : Fin 4) (n : Fin 256) : Memory.wf (s.unimport ld n).mem = true := by
  have hmet : Memory.wf (s.readEntry ld (s.devices[ld].importEntry n)).1.mem = true := by rwa [readEntry_mem]
  unfold State.unimport
  exact ite_wf (by simpa using h) (wf_physWrite (by exact hmet) _ _ _)

theorem wf_xcmd (ld : Fin 4) (asn : Asn) (x : DWord) : Memory.wf (s.xcmd ld asn x).mem = true := by
  unfold State.xcmd
  dsimp only
  split
  · exact wf_exportRange h _ _
  · exact wf_revoke h _ _
  · simpa using h
  · exact wf_unimport h _ _
  · simpa using h

/-! ### Contexts -/

theorem wf_writePieces (ld : Fin 4) (base : Nat) (ps : List (Nat × List Byte)) :
    Memory.wf (ps.foldl (fun s e => State.physWrite s ld (base + e.1) e.2) s).mem = true :=
  foldl_wf (fun _ _ hs => wf_physWrite hs _ _ _) _ h

theorem wf_writeImage (ld : Fin 4) (base key : Nat) (i : SavedCtx) : Memory.wf (s.writeImage ld base key i).mem = true :=
  wf_writePieces h _ _ _

theorem wf_dropContext (ld : Fin 4) (asn : Asn) (i : SavedCtx) : Memory.wf (s.dropContext ld asn i).mem = true := by
  unfold State.dropContext
  refine foldl_wf (fun _ _ hs => foldl_wf (fun _ _ hs => ite_wf ?_ hs) _ hs) _ ?_
  · rwa [freeSlot_mem]
  · exact wf_clearRanges h _

theorem wf_saveContext (ld : Fin 4) (asn : Asn) : Memory.wf (s.saveContext ld asn).mem = true := by
  have hstopped : Memory.wf ((s.stopContext ld asn (s.ctx ld asn).rewind).flushContext ld asn).mem = true :=
    wf_evictAll (by rwa [stopContext_mem]) _
  simp only [State.saveContext, State.setCtx_mem]
  generalize (s.stopContext ld asn (s.ctx ld asn).rewind).flushContext ld asn = u at hstopped ⊢
  exact wf_dropContext (s := { u with nextId := u.nextId + 1 }) hstopped _ _ _

theorem wf_runHeld (ld : Fin 4) (asn : Asn) : Memory.wf (s.runHeld ld asn).mem = true :=
  foldl_wf (fun _ _ hs => wf_answer (by exact hs) _ _) _ h

theorem wf_restoreImage (ld : Fin 4) (asn : Asn) (i : SavedCtx) : Memory.wf (s.restoreImage ld asn i).mem = true := by
  unfold State.restoreImage
  refine wf_runHeld ?_ _ _
  rw [foldl_mem (fun _ _ => resumeSeq_mem ..)]
  refine foldl_wf (fun _ _ hs => foldl_wf (fun _ _ hs => ite_wf ?_ hs) _ hs) _ ?_
  · rwa [freeSlot_mem]
  · exact wf_restore (wf_clearRanges h _) _

theorem wf_loseLaunches (c : Ctx) : Memory.wf (s.loseLaunches c).mem = true := by
  unfold State.loseLaunches
  split
  · exact h
  · exact wf_endLaunches h _ _

theorem wf_ctxRefused (ld : Fin 4) : Memory.wf (s.ctxRefused ld).mem = true := h

theorem wf_destroyCtx (ld : Fin 4) (asn : Asn) : Memory.wf (s.destroyCtx ld asn).mem = true := by
  have hclosed := wf_closeImports (wf_closeExports (wf_loseLaunches h (s.ctx ld asn)) ld false fun e => e.asn == asn) ld fun e => e.asn == asn
  simp only [State.destroyCtx, ctxCommand]
  split
  · exact wf_ctxRefused h ld
  · exact hclosed

theorem wf_tryResume (ld : Fin 4) (asn : Asn) : Memory.wf (s.tryResume ld asn).mem = true := by
  unfold State.tryResume
  dsimp only
  split
  · exact h
  · exact ite_wf (wf_restoreImage (ite_wf h (by rwa [physMeet_mem])) _ _ _) h

theorem wf_ctxcmd (ld : Fin 4) (x : DWord) : Memory.wf (s.ctxcmd ld x).mem = true := by
  unfold State.ctxcmd
  dsimp only
  split
  · simpa using h
  · exact wf_destroyCtx h _ _
  · simpa using h
  · simpa using h
  · exact wf_ctxRefused h _

theorem wf_freezeContexts (keys : List (Fin 4 × Asn)) : Memory.wf (s.freezeContexts keys).mem = true :=
  foldl_wf (fun _ _ hs => by exact wf_endLaunches hs _ _) _ h

theorem wf_writePages (x : FreezeImage) (rd : ImageReader) : Memory.wf (s.writePages x rd).mem = true :=
  foldl_wf (fun _ _ hs => wf_writePlain hs _ _) _ h

theorem wf_startThaw (j : FreezeJob) : Memory.wf (s.startThaw j).mem = true := by
  simp only [State.startThaw]
  split
  · simpa using h
  · exact ite_wf (by simpa using h) (by exact wf_writePages h _ _)

theorem wf_startJobs : Memory.wf s.startJobs.mem = true :=
  foldl_wf (fun _ _ hs => ite_wf (wf_startThaw hs _) (by simpa using hs)) _ h

end

theorem wf_putFreeze {s t : State} (h : Memory.wf s.mem = true) {j : FreezeJob} {at_ : Nat} {bs : List Byte} (ht : s.putFreeze j at_ bs = some t) :
    Memory.wf t.mem = true := by
  unfold State.putFreeze at ht
  split at ht
  · cases ht
    exact wf_hostWrite h _ _
  · split at ht
    · cases ht
      rwa [sendRemote_mem]
    · split at ht
      · cases ht
      · dsimp only at ht
        split at ht
        · cases ht
        · split at ht
          · cases ht
          next hplaces =>
            cases ht
            refine wf_writePlaces ?_ _ _ _
            rwa [State.mem_of_held (held_places hplaces)]

theorem wf_putPieces {j : FreezeJob} {ps : List (Nat × List Byte)} {s t : State} (h : Memory.wf s.mem = true)
    (ht : ps.foldl (fun (acc : Option State) p => acc.bind fun s => s.putFreeze j p.1 p.2) (some s) = some t) : Memory.wf t.mem = true := by
  induction ps generalizing s with
  | nil =>
    cases ht
    exact h
  | cons p ps ih =>
    rw [List.foldl_cons, Option.bind_some] at ht
    cases hp : s.putFreeze j p.1 p.2 with
    | none =>
      have hnone : ∀ l : List (Nat × List Byte),
          l.foldl (fun (acc : Option State) p => acc.bind fun s => s.putFreeze j p.1 p.2) none = none := fun l => by
        induction l with
        | nil => rfl
        | cons _ l ih => exact ih
      rw [hp, hnone] at ht
      cases ht
    | some u =>
      rw [hp] at ht
      exact ih (wf_putFreeze h hp) ht

theorem wf_finishFreeze {s : State} (h : Memory.wf s.mem = true) (j : FreezeJob) : Memory.wf (s.finishFreeze j).mem = true := by
  unfold State.finishFreeze
  dsimp only
  generalize hsaved : List.foldl _ s _ = u
  have hu : Memory.wf u.mem = true := by
    rw [← hsaved]
    exact foldl_wf (fun _ _ hs => by exact wf_saveContext hs _ _) _ h
  generalize hready : List.foldl State.pageMeet _ _ = v
  have hv : Memory.wf v.mem = true := by
    rw [← hready, foldl_mem pageMeet_mem]
    exact foldl_wf (fun _ _ hs => by exact wf_emptyCaches hs _ _) _ hu
  refine ite_wf (by simpa using hv) (ite_wf (by simpa using hv) ?_)
  split
  · simpa using hv
  next hput =>
    have hwrote := wf_putPieces hv hput
    rw [endJob_mem]
    exact wf_freezeContexts (by exact hwrote) _

end Sys2Proof.Machine
end

section
/-! PROOFS. Uniform words: what they leave in memory (R239 to R247, R277 to R286, R440). -/

namespace Sys2Proof.Machine

open Sys2Proof

section

variable {s : State} (h : Memory.wf s.mem = true)
include h

omit h in
/-- A check that a word makes only where it is needed. -/
theorem keeps_unless {β : Type} {q : β → Prop} {c : Prop} [Decidable c] {e : Except Stop PUnit} {k : PUnit → Except Stop β} (he : Checks e)
    (hk : ∀ u, Keeps q (k u)) : Keeps q (if c then e >>= k else k ⟨⟩) := by
  split
  · exact keeps_bind he fun u _ => hk u
  · exact hk _

theorem uniformOp_canonical (srcs dsts : List (Fin 64)) {f : State → List DWord → Except Stop State}
    (hf : ∀ t vs, Memory.wf t.mem = true → Leaves (f t vs)) : Canonical (uniformOp s srcs dsts f) := by
  refine onAny_canonical ?_
  split
  · exact advance_leaves h
  · refine keeps_bind (uniformSources_checks h _ _ _) fun x _ => ?_
    exact keeps_bind (hf _ _ (by simpa using h)) fun t ht => advance_leaves ht

theorem scalarOp_canonical (srcs : List (Fin 64)) (sd : Fin 64) (f : List DWord → DWord) : Canonical (scalarOp s srcs sd f) :=
  uniformOp_canonical h _ _ fun t _ ht => by simpa using ht

theorem condOp_canonical (o : UCond) (f : Bool → Bool → Bool) : Canonical (condOp o s f) :=
  uniformOp_canonical h _ _ fun t _ ht => by simpa using ht

theorem scmp_canonical (ok : Bool) (srcs : List (Fin 64)) (k : Fin 8) (f : List DWord → Bool) :
    Canonical (guardForm ok s <| uniformOp s srcs [] fun s vs => .ok (s.writeCond k (f vs))) :=
  guardForm_canonical h (uniformOp_canonical h _ _ fun t _ ht => by simpa using ht) _

theorem execSsel_canonical (o : USel) : Canonical (execSsel o s) :=
  onAny_canonical (keeps_bind (uniformSources_checks h _ _ _) fun x _ => advance_leaves (by simpa using h))

theorem execSbcv_canonical (o : UPred) : Canonical (execSbcv o s) := by
  refine onGang_canonical h fun g grp slices => ?_
  split
  · exact advance_leaves h
  · exact keeps_bind (uniformSources_checks h _ _ _) fun x _ => advance_leaves (by simpa using h)

theorem execSrd_canonical (o : USrd) : Canonical (execSrd o s) := by
  refine onAny_canonical (keeps_unless (illegal_keeps h 1) fun _ => ?_)
  split
  · refine keeps_unless (illegal_keeps h 2) fun _ => ?_
    exact keeps_bind (uniformSources_checks h _ _ _) fun x _ => advance_leaves (by simpa using h)
  · refine keeps_bind (uniformSources_checks h _ _ _) fun x _ => ?_
    dsimp only
    split
    · exact h
    · exact advance_leaves (by simpa using h)
  · exact h

theorem execSwr_canonical (o : USwr) : Canonical (execSwr o s) := by
  refine onAny_canonical (keeps_unless (illegal_keeps h 1) fun _ => ?_)
  split
  · refine keeps_unless (illegal_keeps h 2) fun _ => keeps_bind (require_checks h _ _) fun _ _ => ?_
    exact keeps_bind (uniformSources_checks h _ _ _) fun x _ => advance_leaves (ite_wf (by simpa using h) h)
  · split
    · exact h
    · refine keeps_bind (require_checks h _ _) fun _ _ => keeps_bind (uniformSources_checks h _ _ _) fun x _ => ?_
      refine keeps_bind (require_checks h _ _) fun _ _ => ?_
      dsimp only
      split
      · simpa using h
      · exact advance_leaves (by simpa using h)
  · exact h

end

/-! ### Uniform accesses (R239 to R243, R284 to R286) -/

section

variable {s : State} (h : Memory.wf s.mem = true)
include h

theorem checkUniform_checks (a n : Nat) (aligned : Bool) : Checks (checkUniform s a n aligned) := by
  unfold checkUniform
  dsimp only
  split
  · exact keeps_bind (require_checks h _ _) fun _ _ => require_checks h _ _
  · split
    · exact keeps_bind (p := fun _ => True) h fun _ _ => require_checks h _ _
    · exact keeps_bind (p := fun _ => True) trivial fun _ _ => require_checks h _ _

theorem checkAccess_checks (a n : Nat) (strong : Bool) : Checks (checkAccess s a n strong) := by
  unfold checkAccess
  split
  · exact keeps_ite (by simpa using h) trivial
  · trivial

theorem checkQuiet_checks : Checks (checkQuiet s) := by
  unfold checkQuiet
  split
  · exact keeps_ite trivial (by simpa using h)
  · trivial

theorem wf_uniformPlaces {t : State} {k : AccKind} {weak : Bool} {a n : Nat} {ps : List Place} (hp : s.uniformPlaces k weak a n = .ok (t, ps)) :
    Memory.wf t.mem = true := by
  unfold State.uniformPlaces at hp
  split at hp
  · cases hp
    exact h
  · rwa [State.mem_of_held (held_places hp)]

theorem parkUniform_leaves (reason a : Nat) (act : PilotAct) : Leaves (s.parkUniform reason a act) := by
  unfold State.parkUniform
  split
  · split
    · simpa using h
    · exact h
  · simpa using h
  · exact h

theorem uniformLoad_canonical (o : ULd) (strong : Bool) : Canonical (uniformLoad o s strong) := by
  refine onAny_canonical (keeps_bind (uniformSources_checks h _ _ _) fun x _ => ?_)
  refine keeps_bind (checkAccess_checks h _ _ _) fun _ _ => keeps_bind (checkUniform_checks h _ _ _) fun _ _ => ?_
  have hready : Memory.wf ((s.commitPops x.2).reserve o.sd).mem = true := by simpa using h
  dsimp only
  split
  · exact parkUniform_leaves hready _ _ _
  next hplaces =>
    have ht := wf_uniformPlaces hready hplaces
    split
    · simpa using ht
    · exact advance_leaves (by rw [deliverUniform_mem]; exact ite_wf (by simpa using ht) ht)

theorem uniformStore_canonical (o : USt) (strong : Bool) : Canonical (uniformStore o s strong) := by
  refine onAny_canonical (keeps_bind (uniformSources_checks h _ _ _) fun x _ => ?_)
  refine keeps_bind (checkAccess_checks h _ _ _) fun _ _ => keeps_bind (checkUniform_checks h _ _ _) fun _ _ => ?_
  have hready : Memory.wf (s.commitPops x.2).mem = true := by simpa using h
  dsimp only
  split
  · exact parkUniform_leaves hready _ _ _
  next hplaces =>
    have ht := wf_uniformPlaces hready hplaces
    exact advance_leaves (wf_groupStore (ite_wf (by simpa using ht) ht) _ _ _ _)

theorem execSatom_canonical (o : UAtom) : Canonical (execSatom o s) := by
  refine onAny_canonical (keeps_bind (require_checks h _ _) fun _ _ => keeps_bind (uniformSources_checks h _ _ _) fun x _ => ?_)
  refine keeps_bind (checkAccess_checks h _ _ _) fun _ _ => keeps_bind (checkUniform_checks h _ _ _) fun _ _ => ?_
  have hready : Memory.wf (if o.nr then s.commitPops x.2 else (s.commitPops x.2).reserve o.sd).mem = true :=
    ite_wf (by simpa using h) (by simpa using h)
  dsimp only
  split
  · exact parkUniform_leaves hready _ _ _
  next hplaces =>
    have ht := wf_uniformPlaces hready hplaces
    refine keeps_unless (keeps_trap.2 (by rw [unreserve_mem]; exact hready)) fun _ => ?_
    split
    · simpa using ht
    · have hstored := wf_groupStore (s := State.pinIssuer _) (by rw [pinIssuer_mem]; exact ht)
      refine advance_leaves (ite_wf (hstored _ _ _ _) ?_)
      rw [deliverUniform_mem]
      exact hstored _ _ _ _

theorem wf_retryAccess (cl : ClusterId) (a : PilotAccess) : Memory.wf (s.retryAccess cl a).mem = true := by
  unfold State.retryAccess
  dsimp only
  split
  · rw [parkPilot_mem]
    exact h
  next hplaces =>
    have ht := (congrArg (fun m => Memory.wf m) (State.mem_of_held (held_places hplaces))).trans h
    split
    · rw [State.setPilot_mem]
      exact wf_groupStore ht _ _ _ _
    · split
      · simpa using ht
      · exact ht
    · split
      · simpa using ht
      · split
        · simpa using ht
        · split <;> exact wf_groupStore ht _ _ _ _

end

end Sys2Proof.Machine
end

section
/-! PROOFS. Control words and the words of regions and roles: what they leave in memory (R16 to R21, R287 to R292, R307). -/

namespace Sys2Proof.Machine

open Sys2Proof

section

variable {s : State} (h : Memory.wf s.mem = true)
include h

theorem checkTow_checks (g : GroupId) (grp : Group) (slices : BitVec 8) (target : Addr) : Checks (checkTow s g grp slices target) :=
  require_checks h _ _

theorem checkTarget_checks (target : Addr) : Checks (checkTarget s target) := by
  unfold checkTarget
  split
  · split
    · exact checkTow_checks h _ _ _ _
    · trivial
  · exact require_checks h _ _
  · trivial

theorem jump_leaves (target : Addr) (test : Bool) : Leaves (jump s target test) :=
  keeps_bind (checkTarget_checks h _) fun _ _ => keeps_pure.2 (by simpa using h)

theorem checkLink_checks : Checks (checkLink s) := by
  unfold checkLink
  split
  · exact require_checks h _ _
  · exact keeps_ite (by simpa using h) trivial
  · trivial

theorem execBra_canonical (o : UJ) : Canonical (execBra o s) := onAny_canonical (keeps_ite (jump_leaves h _ _) (advance_leaves h))

theorem execCall_canonical (o : UJ) : Canonical (execCall o s) := by
  refine onAny_canonical (keeps_ite ?_ (advance_leaves h))
  refine keeps_bind (checkLink_checks h) fun _ _ => keeps_bind (jump_leaves h _ _) fun t ht => ?_
  simpa using ht

theorem registerJump_canonical (o : UA) (link test linkOp : Bool) : Canonical (registerJump o s link test linkOp) := by
  refine onAny_canonical (keeps_ite (advance_leaves h) (keeps_bind (uniformSources_checks h _ _ _) fun x _ => ?_))
  refine keeps_unless (checkLink_checks h) fun _ => keeps_bind (require_checks h _ _) fun _ _ => ?_
  refine keeps_bind (require_checks h _ _) fun _ _ => keeps_bind (checkTarget_checks h _) fun _ _ => ?_
  refine keeps_bind (jump_leaves (by simpa using h) _ _) fun t ht => keeps_pure.2 ?_
  exact ite_wf (by simpa using ht) ht

theorem execLoop_canonical (o : ULoop) : Canonical (execLoop o s) := by
  refine onAny_canonical (keeps_bind (uniformSources_checks h _ _ _) fun x _ => keeps_ite ?_ ?_)
  · split
    · exact keeps_bind (checkTarget_checks h _) fun _ _ => keeps_pure.2 (by simpa using h)
    · exact keeps_pure.2 (by simpa using h)
  · exact keeps_bind (require_checks h _ _) fun _ _ => keeps_pure.2 (by simpa using h)

theorem execLexit_canonical : Canonical (execLexit s) := by
  refine onAny_canonical (keeps_ite (advance_leaves h) ?_)
  split
  · exact illegal_keeps h 6
  · split
    · exact keeps_bind (checkTarget_checks h _) fun _ _ => keeps_pure.2 (by simpa using h)
    · exact keeps_pure.2 (by simpa using h)

theorem execBrp_canonical (o : UJ) : Canonical (execBrp o s) := by
  refine onGang_canonical h fun g grp slices => keeps_bind (require_checks h _ _) fun _ _ => keeps_bind (require_checks h _ _) fun _ _ => ?_
  exact keeps_bind (checkTow_checks h _ _ _ _) fun _ _ => keeps_pure.2 (ite_wf (by simpa using h) (by simpa using h))

theorem execRcv_canonical (o : UOff) : Canonical (execRcv o s) :=
  onGang_canonical h fun _ _ _ => keeps_bind (require_checks h _ _) fun _ _ => advance_leaves (by simpa using h)

theorem execRegang_canonical : Canonical (execRegang s) :=
  onGang_canonical h fun _ _ _ => keeps_ite (advance_leaves h) (keeps_ok.2 (by simpa using h))

theorem execRgn_canonical : Canonical (execRgn s) := by
  refine onAny_canonical (keeps_ite (advance_leaves h) ?_)
  split
  · split
    · simpa using h
    · exact h
  · simpa using h
  · exact h

theorem execJoin_canonical : Canonical (execJoin s) :=
  onGang_canonical h fun _ _ _ => keeps_bind (require_checks h _ _) fun _ _ => keeps_pure.2 (ite_wf (by simpa using h) (by simpa using h))

theorem execExitLanes_canonical : Canonical (execExitLanes s) := by
  refine onAny_canonical (keeps_ite (advance_leaves h) ?_)
  split
  · split
    · exact h
    · simpa using h
  · exact keeps_bind (checkQuiet_checks h) fun _ _ => keeps_pure.2 (by simpa using h)
  · exact h

theorem requireGang_checks (slices : BitVec 8) : Checks (requireGang s slices) := require_checks h _ _

theorem execRolesw_canonical : Canonical (execRolesw s) := by
  refine onGang_canonical h fun g grp slices => keeps_bind (requireGang_checks h _) fun _ _ => keeps_ite (advance_leaves h) ?_
  split
  · exact illegal_keeps h 6
  · refine keeps_bind (require_checks h _ _) fun _ _ => keeps_bind (checkTow_checks h _ _ _ _) fun _ _ => keeps_pure.2 ?_
    simpa using h

theorem execNop_canonical : Canonical (execNop s) := onAny_canonical (advance_leaves h)

theorem execTrap_canonical (o : UCode) : Canonical (execTrap o s) := onAny_canonical h

theorem execBkpt_canonical (o : UCode) : Canonical (execBkpt o s) := by
  refine onAny_canonical ?_
  dsimp only
  split
  · split
    · exact h
    · split
      · simpa using h
      · exact h
  · exact h

end

end Sys2Proof.Machine
end

section
/-! PROOFS. Barriers, fences, queues and streams, and what an engine operation reads and writes: what they leave in memory (R35 to R57,
R248 to R262). -/

namespace Sys2Proof.Machine

open Sys2Proof

section

variable {s : State} (h : Memory.wf s.mem = true)
include h

/-! ### Barriers and fences -/

theorem barrier_canonical (kind : Fin 4) (n : Fin 16) (uses : List (Fin 64)) : Canonical (barrier s kind n uses) := by
  refine onGang_canonical h fun g grp slices => keeps_bind (requireGang_checks h _) fun _ _ => ?_
  refine keeps_bind (uniformSources_checks h _ _ _) fun x _ => keeps_bind (require_checks h _ _) fun _ _ => ?_
  dsimp only
  split
  · simpa using h
  · simpa using h

theorem execSstep_canonical : Canonical (execSstep s) := by
  refine onGang_canonical h fun g grp slices => keeps_bind (requireGang_checks h _) fun _ _ => keeps_ite (advance_leaves h) ?_
  split
  · exact illegal_keeps h 6
  · exact keeps_bind (require_checks h _ _) fun _ _ => keeps_pure.2 (by simpa using h)

theorem checkRefusedCopy_checks (g : GroupId) (p : Option Word → Bool) : Checks (checkRefusedCopy s g p) := by
  unfold checkRefusedCopy
  split
  · trivial
  · split
    · trivial
    · exact h

theorem waitAgain_keeps {α : Type} {p : α → Prop} (g : GroupId) (grp : Group) (slices : BitVec 8) (w : Wait) :
    Keeps p (waitAgain s g grp slices w : Except Stop α) := h

theorem fence_canonical (o : UFence) (acq rel : Bool) : Canonical (fence o s acq rel) := by
  refine onAny_canonical ?_
  split
  · split
    · exact h
    · refine keeps_ite (waitAgain_keeps h _ _ _ _) (keeps_ite (waitAgain_keeps h _ _ _ _) ?_)
      refine keeps_unless (checkRefusedCopy_checks h _ _) fun _ => advance_leaves (wf_fenceCaches ?_ _ _ _ _)
      have hseen : ∀ g, Memory.wf (if o.dr then s.observe g fun _ => true else s).mem = true := fun g => ite_wf (by simpa using h) h
      exact ite_wf (by rw [acquire_mem]; exact hseen _) (hseen _)
  · refine keeps_bind (checkQuiet_checks h) fun _ _ => keeps_ite (keeps_wait.2 (by simpa using h)) ?_
    exact advance_leaves (wf_fenceCaches h _ _ _ _)
  · exact advance_leaves h

/-! ### Hardware queues and batches -/

theorem namedQueue_checks (grp : Group) (q : Fin 32) (srcs dsts : List (Fin 64)) : Checks (namedQueue s grp q srcs dsts) := by
  have hplan := uniformSources_checks h srcs dsts noPorts
  unfold namedQueue
  split
  · trivial
  · split
    next heq =>
      rw [heq] at hplan
      exact hplan
    · exact h

theorem checkResults_checks (srcs dsts : List (Fin 64)) : Checks (checkResults s srcs dsts) := by
  unfold checkResults
  split
  · split
    · exact keeps_bind (checkPromise_checks h _ _ _ _) fun _ _ => checkArrived_checks h _ _ _ _ _
    · trivial
  · trivial

theorem queueWord_leaves (nb : Bool) (c : Fin 8) (srcs dsts : List (Fin 64)) (extra : PortPlan)
    {act : State → List DWord → List DWord → State} (hact : ∀ t xs ys, Memory.wf t.mem = true → Memory.wf (act t xs ys).mem = true) :
    Leaves (queueWord s nb c srcs dsts extra act) := by
  have hplan := uniformSources_checks h srcs dsts extra
  refine keeps_bind (checkResults_checks h _ _) fun _ _ => ?_
  split
  next heq =>
    rw [heq] at hplan
    exact keeps_ite (advance_leaves (by simpa using h)) hplan
  next heq =>
    rw [heq] at hplan
    exact hplan
  · have hready : ∀ plan, Memory.wf (s.commitPops plan).pinIssuer.mem = true := fun plan => by simpa using h
    exact advance_leaves (ite_wf (by rw [writeCond_mem]; exact hact _ _ _ (hready _)) (hact _ _ _ (hready _)))

theorem execQput_canonical (o : UQput) : Canonical (execQput o s) :=
  onGang_canonical h fun _ _ _ => keeps_bind (namedQueue_checks h _ _ _ _) fun _ _ =>
    queueWord_leaves h _ _ _ _ _ fun _ _ _ ht => by rwa [pushQueue_mem]

theorem execQget_canonical (o : UQget) : Canonical (execQget o s) :=
  onGang_canonical h fun _ _ _ => keeps_bind (namedQueue_checks h _ _ _ _) fun _ _ =>
    queueWord_leaves h _ _ _ _ _ fun _ _ _ ht => by rwa [writeUniform_mem]

theorem execAseal_canonical (o : UDc) : Canonical (execAseal o s) := by
  refine onGang_canonical h fun g grp slices => keeps_ite (advance_leaves h) ?_
  refine keeps_bind (uniformSources_checks h _ _ _) fun x _ => keeps_ite (waitAgain_keeps h _ _ _ _) (advance_leaves ?_)
  simpa using h

theorem execAwait_canonical (o : UWait) : Canonical (execAwait o s) :=
  onGang_canonical h fun _ _ _ => keeps_ite (waitAgain_keeps h _ _ _ _)
    (keeps_bind (checkRefusedCopy_checks h _ _) fun _ _ => advance_leaves (by simpa using h))

theorem execAwaitT_canonical (o : UR2) : Canonical (execAwaitT o s) := by
  refine onGang_canonical h fun g grp slices => keeps_bind (uniformSources_checks h _ _ _) fun x _ => ?_
  dsimp only
  split
  · simpa using h
  · split
    · simpa using h
    · exact waitAgain_keeps h _ _ _ _

/-! ### Streams armed -/

omit h in
theorem keeps_seqRight {x y : Except Stop Unit} (hx : Checks x) (hy : Checks y) : Checks (x *> y) := by
  cases x with
  | ok u => exact hy
  | error e => exact hx

theorem checkWalk_checks (grp : Group) (d : StreamDesc) : Checks (checkWalk s grp d) := by
  unfold checkWalk
  refine keeps_ite trivial ?_
  dsimp only
  split
  · split
    · exact h
    · trivial
  · refine keeps_seqRight ?_ ?_
    all_goals
      split
      · exact h
      · trivial

theorem execSarmArm_canonical (o : UArm) : Canonical (execSarmArm o s) :=
  onGang_canonical h fun _ _ _ => keeps_bind (require_checks h _ _) fun _ _ => keeps_bind (require_checks h _ _) fun _ _ =>
    keeps_bind (checkWalk_checks h _ _) fun _ _ => advance_leaves (by simpa using h)

theorem execSarmDisarm_canonical (o : UStrm) : Canonical (execSarmDisarm o s) :=
  onGang_canonical h fun _ _ _ => advance_leaves (by simpa using h)

/-! ### Records and tickets -/

theorem checkTicket_checks (grp : Group) : Checks (checkTicket s grp) := require_checks h _ _

theorem readRecord_yields (g : GroupId) (grp : Group) (slices : BitVec 8) (a n align : Nat) :
    Yields (readRecord s g grp slices a n align) := by
  refine keeps_bind (checkUniform_checks h _ _ _) fun _ _ => keeps_bind (require_checks h _ _) fun _ _ => ?_
  split
  · exact keeps_bind (checkTicket_checks h _) fun _ _ => by simpa using h
  next hplaces =>
    have ht := (congrArg (fun m => Memory.wf m) (State.mem_of_held (held_places hplaces))).trans h
    dsimp only
    split
    · exact keeps_bind (checkTicket_checks ht _) fun _ _ => ht
    · exact ht

theorem issueTicket_yields (g : GroupId) (kind : Nat) : Yields (issueTicket s g kind) := by
  unfold issueTicket
  split
  · exact h
  · split <;> exact h

theorem startOp_leaves (plan : PortPlan) (g : GroupId) (grp : Group) (slices : BitVec 8) (kind : OpKind) (code : Nat) (sd : Fin 64)
    (la : Nat) (record : DWord) (desc : List DWord) : Leaves (startOp s plan g grp slices kind code sd la record desc) := by
  refine keeps_bind (checkTicket_checks h _) fun _ _ => keeps_bind (issueTicket_yields (by simpa using h) _ _) fun x hx => ?_
  dsimp only
  split
  · exact hx
  · simpa using hx

theorem checkRanges_checks (p : Priv) (rs : List (Nat × Nat)) : Checks (checkRanges s p rs) := by
  have hpriv : Checks (match rs.find? fun r => r.2 != 0 && addrKind p r.1 r.2 == some .priv with
      | some r => (.error (.trap { kind := .priv, val := BitVec.ofNat 64 r.1 } s) : Except Stop Unit)
      | none => .ok ()) := by
    split
    · exact h
    · trivial
  unfold checkRanges
  dsimp only
  split
  · exact keeps_bind (p := fun _ => True) h fun _ _ => hpriv
  · exact keeps_bind (p := fun _ => True) trivial fun _ _ => hpriv

end

/-! ### What an engine operation reads and writes -/

/-- A property of what an engine's access gives, with memory in its canonical form where poison ends it. -/
def EngineKeeps {α : Type} (p : α → Prop) : Except EngineStop α → Prop
  | .ok a => p a
  | .error (.poison _ s) => Memory.wf s.mem = true
  | .error (.refused ..) => True

section

variable {α β : Type} {p : α → Prop} {q : β → Prop}

@[simp] theorem engineKeeps_pure {a : α} : EngineKeeps p (pure a) ↔ p a := Iff.rfl

theorem engineKeeps_bind {x : Except EngineStop α} {f : α → Except EngineStop β} (hx : EngineKeeps p x)
    (hf : ∀ a, p a → EngineKeeps q (f a)) : EngineKeeps q (x >>= f) := by
  cases x with
  | ok a => exact hf a hx
  | error e => cases e with
    | refused => trivial
    | poison => exact hx

theorem engineKeeps_map {x : Except EngineStop α} {f : α → β} (hx : EngineKeeps p x) (hf : ∀ a, p a → q (f a)) :
    EngineKeeps q (x.map f) := by
  cases x with
  | ok a => exact hf a hx
  | error e => cases e with
    | refused => trivial
    | poison => exact hx

theorem engineKeeps_ite {c : Prop} [Decidable c] {x y : Except EngineStop α} (hx : EngineKeeps p x) (hy : EngineKeeps p y) :
    EngineKeeps p (if c then x else y) := by
  split <;> assumption

end

/-- The state that an engine's access leaves. -/
abbrev EngineLeaves (r : Except EngineStop State) : Prop := EngineKeeps (fun t => Memory.wf t.mem = true) r

/-- The state that an engine's access leaves beside a value. -/
abbrev EngineYields {β : Type} (r : Except EngineStop (State × β)) : Prop := EngineKeeps (fun x => Memory.wf x.1.mem = true) r

/-- The access gives a value, or poison ends it. -/
abbrev EngineChecks {β : Type} (r : Except EngineStop β) : Prop := EngineKeeps (fun _ => True) r

section

variable {s : State} (h : Memory.wf s.mem = true)
include h

theorem engineBytes_checks (a : Nat) (r : List Byte × Option Nat) : EngineChecks (engineBytes s a r) := by
  unfold engineBytes
  split
  · exact h
  · trivial

theorem engineReadUnits_yields (o : EngineOp) (unit a n : Nat) : EngineYields (engineReadUnits s o unit a n) := by
  unfold engineReadUnits
  split
  · trivial
  next hplaces =>
    have ht := (congrArg (fun m => Memory.wf m) (State.mem_of_held (held_places hplaces))).trans h
    exact engineKeeps_bind (engineBytes_checks ht _ _) fun _ _ => ht

theorem engineRead_yields (o : EngineOp) (a n : Nat) : EngineYields (engineRead s o a n) := engineReadUnits_yields h _ _ _ _

theorem engineReadNow_yields (o : EngineOp) (a n : Nat) : EngineYields (engineReadNow s o a n) := by
  unfold engineReadNow
  split
  · trivial
  next hplaces =>
    have ht := (congrArg (fun m => Memory.wf m) (State.mem_of_held (held_places hplaces))).trans h
    exact engineKeeps_bind (engineBytes_checks ht _ _) fun _ _ => ht

theorem engineWriteAs_leaves (o : EngineOp) (mark a : Nat) (bs : List Byte) : EngineLeaves (engineWriteAs s o mark a bs) := by
  unfold engineWriteAs
  split
  · trivial
  next hplaces =>
    have ht := (congrArg (fun m => Memory.wf m) (State.mem_of_held (held_places hplaces))).trans h
    exact wf_engineStore ht _ _ _ _

theorem engineWrite_leaves (o : EngineOp) (a : Nat) (bs : List Byte) : EngineLeaves (engineWrite s o a bs) := engineWriteAs_leaves h _ _ _ _

theorem localRead_checks (o : EngineOp) (t : Team) (a n : Nat) : EngineChecks (localRead s o t a n) := engineBytes_checks h _ _

theorem completeOp_canonical (o : EngineOp) {r : Except EngineStop (State × DWord)} (hr : EngineYields r) : Canonical (completeOp s o r) := by
  unfold completeOp
  split
  · exact canonical_next.2 (by rw [finishOp_mem]; exact hr)
  · exact canonical_next.2 (by rw [parkOp_mem]; exact h)
  next t =>
    have ht : Memory.wf t.mem = true := hr
    exact canonical_next.2 (by rwa [finishOp_mem])

/-! ### Copies -/

theorem readCopy_yields (o : EngineOp) (c : Copy) : EngineYields (readCopy s o c) := by
  unfold readCopy
  split
  · exact engineRead_yields h _ _ _
  · exact engineKeeps_map (localRead_checks h _ _ _ _) fun _ _ => h
  · exact h

theorem writeCopy_leaves (o : EngineOp) (mark : Nat) (c : Copy) (bs : List Byte) : EngineLeaves (writeCopy s o mark c bs) := by
  unfold writeCopy
  split
  · exact engineWriteAs_leaves h _ _ _ _
  · exact wf_engineStore h _ _ _ _
  · exact h

theorem wf_readCopies (o : EngineOp) (cs : List Copy) : Memory.wf (readCopies s o cs).1.mem = true := by
  induction cs generalizing s with
  | nil => exact h
  | cons c cs ih =>
    have hread := readCopy_yields h o c
    unfold readCopies
    split
    · exact ih h
    · split
      · exact ih h
      · split
        next heq =>
          rw [heq] at hread
          exact ih hread
        next heq =>
          rw [heq] at hread
          exact ih hread
        · exact ih h

theorem wf_writeCopies (o : EngineOp) (mark : Copy → Nat) (rs : List ReadCopy) : Memory.wf (writeCopies s o mark rs).1.mem = true := by
  induction rs generalizing s with
  | nil => exact h
  | cons c rs ih =>
    have hwrite := writeCopy_leaves h o (mark c.copy) c.copy c.bytes
    unfold writeCopies
    split
    next heq =>
      rw [heq] at hwrite
      exact ih hwrite
    next heq =>
      rw [heq] at hwrite
      exact ih hwrite
    · exact ih h

theorem wf_performCopies (o : EngineOp) (mark : Copy → Nat) (cs : List Copy) : Memory.wf (performCopies s o mark cs).1.mem = true :=
  wf_writeCopies (wf_readCopies h o cs) _ _ _

theorem wf_performBatch (g : GroupId) (grp : Group) (chosen : Copy → Bool) : Memory.wf (s.performBatch g grp chosen).mem = true := by
  have hdone := wf_performCopies h (mkOp s (.acp []) g grp 0 [] none) grp.batches.markOf
    ((grp.batches.unsealed ++ grp.batches.sealed_.flatMap Prod.snd).filter chosen)
  unfold State.performBatch
  dsimp only
  rw [postCopies_mem]
  split <;> exact hdone

theorem execBatchComplete_canonical : Canonical (execBatchComplete s) := by
  unfold execBatchComplete
  split
  · split
    · split
      · have hdone : ∀ o cs, Memory.wf (performCopies s o (fun _ => o.mark) cs).1.mem = true := fun o cs => wf_performCopies h _ _ _
        refine canonical_next.2 (ite_wf ?_ ?_)
        · rw [finishOp_mem]
          exact hdone _ _
        · rw [postCopies_mem]
          exact hdone _ _
      · exact canonical_next.2 h
    · exact canonical_next.2 h
  · split
    · exact canonical_next.2 h
    · dsimp only
      split
      · exact canonical_next.2 (wf_performBatch h _ _ _)
      · split
        · exact canonical_next.2 h
        · refine canonical_next.2 ?_
          have hdone := wf_performBatch h s.arg.g
          split <;> exact hdone _ _

end

end Sys2Proof.Machine
end

section
/-! PROOFS. Tile transfers and gathers: what they leave in memory (R254 to R262). -/

namespace Sys2Proof.Machine

open Sys2Proof

section

variable {s : State} (h : Memory.wf s.mem = true)
include h

theorem execBxt_canonical (o : UDAL) : Canonical (execBxt o s) := by
  refine onGang_canonical h fun g grp slices => keeps_bind (uniformSources_checks h _ _ _) fun x _ => ?_
  refine keeps_bind (readRecord_yields h _ _ _ _ _ _) fun y hy => keeps_bind (require_checks hy _ _) fun _ _ => ?_
  refine keeps_bind (require_checks hy _ _) fun _ _ => keeps_bind (checkRanges_checks hy _ _) fun _ _ => ?_
  exact keeps_bind (require_checks hy _ _) fun _ _ => startOp_leaves hy _ _ _ _ _ _ _ _ _ _

theorem execGath_canonical (o : UDAL) : Canonical (execGath o s) := by
  refine onGang_canonical h fun g grp slices => keeps_bind (uniformSources_checks h _ _ _) fun x _ => ?_
  refine keeps_bind (readRecord_yields h _ _ _ _ _ _) fun y hy => keeps_bind (require_checks hy _ _) fun _ _ => ?_
  refine keeps_bind (checkRanges_checks hy _ _) fun _ _ => ?_
  exact keeps_bind (require_checks hy _ _) fun _ _ => startOp_leaves hy _ _ _ _ _ _ _ _ _ _

/-! ### Into local store -/

theorem fetchRow_yields (o : EngineOp) (l : Layout) (row : List Nat) (cs : List (Option Nat)) : EngineYields (fetchRow s o l row cs) := by
  induction cs generalizing s with
  | nil => exact h
  | cons c cs ih =>
    cases c with
    | none => exact engineKeeps_bind (ih h) fun _ hx => hx
    | some x => exact engineKeeps_bind (engineRead_yields h _ _ _) fun _ hx => engineKeeps_bind (ih hx) fun _ hy => hy

theorem fetchRows_yields (o : EngineOp) (l : Layout) (held : List LineBuf) (rows : List (Option (List Nat))) :
    EngineYields (fetchRows s o l held rows) := by
  induction rows generalizing s with
  | nil => exact h
  | cons r rows ih =>
    cases r with
    | none => exact engineKeeps_bind (ih h) fun _ hx => hx
    | some c =>
      unfold fetchRows
      split
      · exact engineKeeps_bind (p := fun x : State × List Nat => Memory.wf x.1.mem = true) h fun _ hx => engineKeeps_bind (ih hx) fun _ hy => hy
      · exact engineKeeps_bind (fetchRow_yields h _ _ _ _) fun _ hx => engineKeeps_bind (ih hx) fun _ hy => hy

theorem fetchScales_yields (o : EngineOp) (cs : List (Option Nat)) : EngineYields (fetchScales s o cs) := by
  induction cs generalizing s with
  | nil => exact h
  | cons c cs ih =>
    cases c with
    | none => exact engineKeeps_bind (ih h) fun _ hx => hx
    | some x => exact engineKeeps_bind (engineRead_yields h _ _ _) fun _ hx => engineKeeps_bind (ih hx) fun _ hy => hy

theorem performBxtIn_yields (o : EngineOp) (l : Layout) : EngineYields (performBxtIn s o l) := by
  have hwrite : ∀ (t : Option Team) (a : Nat) (data : List Byte) (u : State), Memory.wf u.mem = true →
      Memory.wf (match t with
        | some t => localWrite u o t a data
        | none => u).mem = true := by
    intro t a data u hu
    split
    · exact wf_localWrite hu _ _ _ _
    · exact hu
  have hlines : ∀ (u : State) (c : Cluster), Memory.wf u.mem = true → Memory.wf (if l.lb then u.setCluster o.cl c else u).mem = true :=
    fun _ _ hu => ite_wf hu hu
  refine engineKeeps_bind (fetchRows_yields h _ _ _ _) fun x hx => engineKeeps_bind (fetchScales_yields hx _ _) fun y hy => ?_
  refine engineKeeps_ite (engineKeeps_pure.2 (hwrite _ _ _ _ (hlines _ _ hy))) (engineKeeps_pure.2 ?_)
  exact foldl_wf (fun _ _ hs => hwrite _ _ _ _ hs) _ (foldl_wf (fun _ _ hs => hwrite _ _ _ _ hs) _ (hlines _ _ hy))

/-! ### Out of local store -/

theorem putElement_leaves (o : EngineOp) (l : Layout) (x : Nat) (row : List Nat) (e : Nat) : EngineLeaves (putElement s o l x row e) :=
  engineKeeps_ite (engineKeeps_bind (engineReadNow_yields h _ _ _) fun _ hx => engineWrite_leaves hx _ _ _) (engineWrite_leaves h _ _ _)

theorem putElements_leaves (o : EngineOp) (l : Layout) (es : List (List Int × Nat)) : EngineLeaves (putElements s o l es) := by
  induction es generalizing s with
  | nil => exact h
  | cons e es ih =>
    refine engineKeeps_ite (engineKeeps_bind (putElement_leaves h _ _ _ _ _) fun _ ht => ih ht) ?_
    exact engineKeeps_bind (p := fun t : State => Memory.wf t.mem = true) h fun _ ht => ih ht

theorem performBxtOut_yields (o : EngineOp) (l : Layout) : EngineYields (performBxtOut s o l) := by
  unfold performBxtOut
  split
  · exact engineKeeps_bind (localRead_checks h _ _ _ _) fun _ _ => engineKeeps_bind (putElements_leaves h _ _ _) fun _ ht => ht
  · exact engineKeeps_bind (p := fun _ => True) trivial fun _ _ => engineKeeps_bind (putElements_leaves h _ _ _) fun _ ht => ht

theorem execBxtComplete_canonical : Canonical (execBxtComplete s) := by
  unfold execBxtComplete
  split
  · exact canonical_next.2 h
  · exact completeOp_canonical h _ (engineKeeps_ite (performBxtOut_yields h _ _) (performBxtIn_yields h _ _))

/-! ### Gathers -/

theorem put_leaves (q : Gather) (o : EngineOp) (i : Nat) (bs : List Byte) : EngineLeaves (q.put s o i bs) := by
  unfold Gather.put
  refine engineKeeps_ite ?_ (engineWrite_leaves h _ _ _)
  split
  · exact wf_localWrite h _ _ _ _
  · exact h

theorem entry_yields (q : Gather) (o : EngineOp) (i : Nat) : EngineYields (q.entry s o i) := by
  refine engineKeeps_bind (engineReadUnits_yields h _ _ _ _) fun x hx => engineKeeps_ite hx (engineKeeps_ite ?_ ?_)
  · exact engineKeeps_bind (put_leaves hx _ _ _ _) fun _ ht => ht
  · exact engineKeeps_bind (engineRead_yields hx _ _ _) fun y hy => engineKeeps_bind (put_leaves hy _ _ _ _) fun _ ht => ht

theorem entries_yields (q : Gather) (o : EngineOp) (i n : Nat) : EngineYields (q.entries s o i n) := by
  induction n generalizing s i with
  | zero => exact h
  | succ n ih => exact engineKeeps_bind (entry_yields h _ _ _) fun _ hx => engineKeeps_bind (ih hx _) fun _ hy => hy

theorem execGathComplete_canonical : Canonical (execGathComplete s) := by
  unfold execGathComplete
  split
  · exact canonical_next.2 h
  · refine completeOp_canonical h _ (engineKeeps_bind (entries_yields h _ _ _ _) fun x hx => ?_)
    refine engineKeeps_ite (engineKeeps_bind (p := fun t : State => Memory.wf t.mem = true) hx fun _ ht => ht) ?_
    exact engineKeeps_bind (engineWrite_leaves hx _ _ _) fun _ ht => ht

end

end Sys2Proof.Machine
end

section
/-! PROOFS. Joint words and the matrix engine, products, transforms and the stow, publication and emitted streams: what they leave in memory
(R239 to R247, R263 to R276, R296 to R304). -/

namespace Sys2Proof.Machine

open Sys2Proof

/-- Two checks under their conditions come before what follows both. -/
theorem keeps_both {β : Type} {q : β → Prop} {c d : Prop} [Decidable c] [Decidable d] {e f : Except Stop PUnit}
    {k : PUnit → Except Stop β} (he : Checks e) (hf : Checks f) (hk : ∀ u, Keeps q (k u)) :
    Keeps q (if c then e >>= fun _ => if d then f >>= k else k ⟨⟩ else k ⟨⟩) :=
  keeps_ite (keeps_bind he fun _ _ => keeps_unless hf hk) (hk _)

section

variable {s : State} (h : Memory.wf s.mem = true)
include h

/-! ### Gangs and joint words -/

theorem execMgang_canonical (o : UA) : Canonical (execMgang o s) := by
  refine onGang_canonical h fun g grp slices => keeps_bind (requireGang_checks h _) fun _ _ => keeps_ite (advance_leaves h) ?_
  refine keeps_bind (uniformSources_checks h _ _ _) fun x _ => ?_
  dsimp only
  generalize (_ && decide ((_ : Nat) < _)) = ok
  generalize BitVec.ofNat 32 _ = m
  refine keeps_bind (require_checks h _ _) fun _ _ => ?_
  split
  · simpa using h
  · exact advance_leaves (by simpa using h)

theorem joint_canonical (op : JointOp) (srcs : List (Fin 64)) : Canonical (joint s op srcs) := by
  refine onGang_canonical h fun g grp slices => keeps_bind (requireGang_checks h _) fun _ _ => ?_
  refine keeps_bind (uniformSources_checks h _ _ _) fun x _ => keeps_bind (require_checks h _ _) fun _ _ => ?_
  have hpops : Memory.wf (s.commitPops x.2).mem = true := by simpa using h
  have hfail : ∀ cl ls, Memory.wf (failLatches (s.commitPops x.2) cl ls).mem = true := fun _ _ => by rwa [failLatches_mem]
  dsimp only
  split
  · exact hfail _ _
  · refine keeps_bind (p := fun _ => True) trivial fun _ _ => keeps_bind (require_checks (hfail _ _) _ _) fun _ _ => ?_
    split
    · exact hpops
    · refine keeps_pure.2 ?_
      rw [State.endRun_mem]
      exact ite_wf (by rw [completeLatch_mem]; exact hpops) hpops

/-! ### Passes and accumulators -/

theorem execMatrixPass_canonical : Canonical (execMatrixPass s) := by
  unfold execMatrixPass
  dsimp only
  split
  · exact canonical_next.2 (by rwa [trapJoint_mem])
  · refine canonical_ite (canonical_next.2 h) ?_
    split
    · exact canonical_next.2 h
    · split
      · split
        · exact canonical_next.2 (by simpa using h)
        · exact canonical_next.2 (by simpa using h)
      · exact canonical_next.2 h

theorem execJointOpComplete_canonical : Canonical (execJointOpComplete s) := by
  unfold execJointOpComplete
  dsimp only
  split
  · exact canonical_next.2 h
  · split
    · exact canonical_next.2 (by simpa using h)
    · exact canonical_next.2 (by simpa using h)

theorem execMaccComplete_canonical : Canonical (execMaccComplete s) := by
  unfold execMaccComplete
  dsimp only
  split
  · exact canonical_next.2 h
  · split
    · split
      · exact canonical_next.2 h
      · split
        · exact canonical_next.2 (by simpa using h)
        next hplaces =>
          have ht := (congrArg (fun m => Memory.wf m) (State.mem_of_held (held_places hplaces))).trans h
          refine canonical_ite ?_ (canonical_ite (canonical_next.2 (by simpa using ht)) ?_)
          · have hstore := fun r launch ps bs => wf_groupStore ht r launch ps bs
            split
            · exact canonical_next.2 (by rw [finishJoint_mem]; exact hstore _ _ _ _)
            · exact canonical_next.2 (by rw [trapJoint_mem]; exact hstore _ _ _ _)
          · split
            · exact canonical_next.2 (by simpa using ht)
            · refine canonical_next.2 (ite_wf ?_ ?_)
              · simpa using ht
              · simpa using ht
    · exact canonical_next.2 h

theorem execMacq_canonical (o : UMacq) : Canonical (execMacq o s) := by
  refine onGang_canonical h fun g grp slices => keeps_bind (uniformSources_checks h _ _ _) fun x _ => ?_
  refine keeps_bind (require_checks h _ _) fun _ _ => ?_
  have hpops : Memory.wf (s.commitPops x.2).mem = true := by simpa using h
  dsimp only
  split
  · exact hpops
  · exact hpops

theorem execMacqGrant_canonical : Canonical (execMacqGrant s) := by
  unfold execMacqGrant
  dsimp only
  refine canonical_ite (canonical_next.2 (by simpa using h)) ?_
  split
  · exact canonical_next.2 h
  · split
    · refine canonical_next.2 ?_
      show Memory.wf (State.takeSlots _ _ _ _ _).mem = true
      rw [takeSlots_mem]
      exact h
    · split
      · exact canonical_next.2 (by rw [takeSlots_mem]; exact h)
      · refine canonical_next.2 ?_
        rw [complete_mem, writeFor_mem]
        show Memory.wf (State.takeSlots _ _ _ _ _).mem = true
        rw [takeSlots_mem]
        exact h
    · exact canonical_next.2 h

theorem execAccSpill_canonical : Canonical (execAccSpill s) := by
  unfold execAccSpill
  dsimp only
  split
  · exact canonical_next.2 h
  · split
    · exact canonical_next.2 h
    · exact canonical_next.2 (wf_physWrite (by exact h) _ _ _)

theorem execMrel_canonical (o : UA) : Canonical (execMrel o s) := by
  refine onGang_canonical h fun g grp slices => keeps_ite (advance_leaves h) ?_
  refine keeps_bind (uniformSources_checks h _ _ _) fun x _ => keeps_bind (require_checks h _ _) fun _ _ => ?_
  refine keeps_bind (require_checks h _ _) fun _ _ => keeps_ite (waitAgain_keeps h _ _ _ _) ?_
  have hpops : Memory.wf (s.commitPops x.2).mem = true := by simpa using h
  dsimp only
  split
  · exact hpops
  · exact advance_leaves (by rw [releaseSlots_mem]; exact hpops)

/-! ### Products and transforms -/

theorem execMxmul_canonical (o : UDAL) : Canonical (execMxmul o s) := by
  refine onGang_canonical h fun g grp slices => keeps_bind (uniformSources_checks h _ _ _) fun x _ => ?_
  refine keeps_bind (readRecord_yields h _ _ _ _ _ _) fun y hy => keeps_bind (checkRanges_checks hy _ _) fun _ _ => ?_
  refine keeps_bind (require_checks hy _ _) fun _ _ => keeps_bind (startOp_leaves hy _ _ _ _ _ _ _ _ _ _) fun t ht => ?_
  exact keeps_ite ht ht

theorem performProduct_yields (o : EngineOp) (m : Mul) (ntt : Bool) : EngineYields (performProduct s o m ntt) :=
  engineKeeps_bind (engineRead_yields h _ _ _) fun _ hx => engineKeeps_bind (engineRead_yields hx _ _ _) fun _ hy =>
    engineKeeps_bind (engineWrite_leaves hy _ _ _) fun _ ht => ht

theorem execMxmulComplete_canonical : Canonical (execMxmulComplete s) := by
  unfold execMxmulComplete
  split
  · exact canonical_next.2 h
  · dsimp only
    split
    · exact canonical_next.2 (by rwa [finishOp_mem])
    · exact canonical_ite (completeOp_canonical h _ (performProduct_yields h _ _ _)) (canonical_next.2 h)

theorem nttOp_canonical (o : UNtt) (inverse : Bool) : Canonical (nttOp o s inverse) := by
  refine guardForm_canonical h (onGang_canonical h fun g grp slices => keeps_bind (uniformSources_checks h _ _ _) fun x _ => ?_) _
  refine keeps_bind (readRecord_yields h _ _ _ _ _ _) fun y hy => keeps_bind (checkRanges_checks hy _ _) fun _ _ => ?_
  exact keeps_bind (require_checks hy _ _) fun _ _ => startOp_leaves hy _ _ _ _ _ _ _ _ _ _

theorem performNtt_yields (o : EngineOp) (inverse : Bool) (p : Fin 4) : EngineYields (performNtt s o inverse p) :=
  engineKeeps_bind (engineRead_yields h _ _ _) fun _ hx => engineKeeps_bind (engineWrite_leaves hx _ _ _) fun _ ht => ht

theorem execNttComplete_canonical : Canonical (execNttComplete s) := by
  unfold execNttComplete
  split
  · exact canonical_next.2 h
  · split
    · exact canonical_ite (completeOp_canonical h _ (performNtt_yields h _ _ _)) (canonical_next.2 h)
    · exact canonical_next.2 h

/-! ### The stow -/

theorem execStow_canonical (o : UR2) : Canonical (execStow o s) := by
  refine onGang_canonical h fun g grp slices => keeps_bind (uniformSources_checks h _ _ _) fun x _ => ?_
  refine keeps_unless (checkRanges_checks h _ _) fun _ => keeps_bind (require_checks h _ _) fun _ _ => ?_
  refine keeps_bind (require_checks h _ _) fun _ _ => keeps_bind (require_checks h _ _) fun _ _ => ?_
  have hpops : Memory.wf (s.commitPops x.2).mem = true := by simpa using h
  dsimp only
  split
  · exact hpops
  · refine keeps_pure.2 ?_
    exact hpops

theorem performStow_yields (o : EngineOp) : EngineYields (performStow s o) := by
  have hwrite : ∀ (t : State) (a : Nat) (bs : List Byte) (f : State → State × DWord), (∀ u, (f u).1.mem = u.mem) → Memory.wf t.mem = true →
      EngineYields (engineWrite t o a bs >>= fun u => pure (f u)) := fun t a bs f hf ht =>
    engineKeeps_bind (engineWrite_leaves ht _ _ _) fun u hu => engineKeeps_pure.2 (by rwa [hf])
  unfold performStow
  dsimp only
  split
  · split
    · refine engineKeeps_bind (p := fun x : State × List Byte => Memory.wf x.1.mem = true)
        (engineKeeps_map (localRead_checks h _ _ _ _) fun _ _ => h) fun x hx => ?_
      split
      · exact hx
      · exact hwrite _ _ _ _ (fun _ => rfl) hx
    · refine engineKeeps_bind (p := fun x : State × List Byte => Memory.wf x.1.mem = true) h fun x hx => ?_
      split
      · exact hx
      · exact hwrite _ _ _ _ (fun _ => rfl) hx
  · refine engineKeeps_bind (engineRead_yields h _ _ _) fun x hx => ?_
    split
    · exact hx
    · exact hwrite _ _ _ _ (fun _ => rfl) hx

theorem execStowComplete_canonical : Canonical (execStowComplete s) := by
  unfold execStowComplete
  split
  · exact canonical_next.2 h
  next o _ =>
    refine canonical_ite (canonical_next.2 h) ?_
    split
    · exact canonical_next.2 (by rwa [finishOp_mem])
    · refine canonical_ite (canonical_next.2 (by rwa [awaitRoom_mem])) ?_
      have hstow := performStow_yields h o
      split
      next heq =>
        rw [heq] at hstow
        refine canonical_next.2 ?_
        rw [complete_mem, writeFor_mem, observe_mem, finishOp_mem]
        exact hstow
      · exact canonical_next.2 (by rwa [parkOp_mem])
      next heq =>
        rw [heq] at hstow
        refine canonical_next.2 ?_
        rw [trapWaiting_mem, finishOp_mem]
        exact hstow

theorem execUnstow_canonical (o : UDAL) : Canonical (execUnstow o s) := by
  refine onGang_canonical h fun g grp slices => keeps_bind (uniformSources_checks h _ _ _) fun x _ => ?_
  refine keeps_unless (waitAgain_keeps (by exact h) _ _ _ _) fun _ => keeps_bind (require_checks h _ _) fun _ _ => ?_
  refine keeps_bind (require_checks h _ _) fun _ _ => advance_leaves ?_
  rw [deliverUniform_mem]
  show Memory.wf ((s.commitPops x.2).reserve o.sd).pinIssuer.mem = true
  simpa using h

/-! ### Publication -/

theorem execPubl_canonical (o : UA) : Canonical (execPubl o s) := by
  refine onGang_canonical h fun g grp slices => keeps_ite (advance_leaves h) ?_
  refine keeps_bind (uniformSources_checks h _ _ _) fun x _ => keeps_bind (require_checks h _ _) fun _ _ => ?_
  have hpops : Memory.wf (s.commitPops x.2).mem = true := by simpa using h
  dsimp only
  split
  · exact hpops
  · exact hpops

theorem execPublExchange_canonical : Canonical (execPublExchange s) := by
  unfold execPublExchange
  dsimp only
  split
  · exact canonical_next.2 h
  · split
    · exact canonical_next.2 h
    · split
      · exact canonical_next.2 (by rwa [complete_mem])
      · exact canonical_ite (canonical_next.2 h) (canonical_next.2 (by rw [complete_mem]; exact h))

/-! ### Emitted streams and tides -/

theorem checkEmitted_checks (p : Priv) (data : Bool) (w : Word) : Checks (checkEmitted s p data w) := by
  refine keeps_ite trivial ?_
  split
  · exact illegal_keeps h 1
  · exact require_checks h _ _

theorem execEmit_canonical (o : UEmit) : Canonical (execEmit o s) := by
  refine onPilot_canonical h fun cl p => keeps_bind (uniformSources_checks h _ _ _) fun x _ => ?_
  have hdone : ∀ (c : Prop) [Decidable c] (t : State) (b : Bool), Memory.wf t.mem = true →
      Leaves (.ok (if c then t.writeCond 7 b else t).advance) := fun c _ t b ht =>
    advance_leaves (ite_wf (by rwa [writeCond_mem]) ht)
  have hput : ∀ (k : Fin 16) (e : EmitStream), Memory.wf (s.setStream cl k e).mem = true := fun k e => by simpa using h
  refine keeps_bind (require_checks h _ _) fun _ _ => keeps_both (checkEmitted_checks h _ _ _) (checkEmitted_checks h _ _ _) fun _ => ?_
  refine keeps_ite (keeps_bind (require_checks h _ _) fun _ _ => hdone _ _ _ (hput _ _)) ?_
  refine keeps_ite (hdone _ _ _ (hput _ _)) (keeps_ite (hdone _ _ _ h) ?_)
  exact keeps_bind (require_checks h _ _) fun _ _ => h

theorem execEseal_canonical (o : UEStrm) : Canonical (execEseal o s) :=
  onPilot_canonical h fun _ _ => keeps_bind (require_checks h _ _) fun _ _ => advance_leaves (by simpa using h)

theorem execEsync_canonical (o : UEStrm) : Canonical (execEsync o s) := onPilot_canonical h fun _ _ => keeps_ite (advance_leaves h) h

theorem execEopen_canonical (o : UEopen) : Canonical (execEopen o s) := by
  refine onPilot_canonical h fun cl p => keeps_bind (uniformSources_checks h _ _ _) fun x _ => ?_
  refine keeps_bind (require_checks h _ _) fun _ _ => keeps_bind (require_checks h _ _) fun _ _ => ?_
  exact keeps_ite (advance_leaves (by simpa using h)) (keeps_ite (advance_leaves (by simpa using h)) h)

theorem execEpos_canonical (o : UEpos) : Canonical (execEpos o s) :=
  onPilot_canonical h fun _ _ => keeps_bind (uniformSources_checks h _ _ _) fun _ _ => advance_leaves (by simpa using h)

theorem execEmitResume_canonical : Canonical (execEmitResume s) :=
  canonical_ite (canonical_next.2 h) (canonical_ite (canonical_next.2 h)
    (canonical_ite (canonical_next.2 (by simpa using h)) (canonical_next.2 h)))

theorem execEsyncComplete_canonical : Canonical (execEsyncComplete s) := by
  unfold execEsyncComplete
  dsimp only
  split
  · exact canonical_next.2 (ite_wf h h)
  · exact canonical_next.2 h

theorem execTide_canonical (o : UTide) : Canonical (execTide o s) := by
  refine onAny_canonical (keeps_bind (uniformSources_checks h _ _ _) fun x _ => ?_)
  have hpops : Memory.wf (s.commitPops x.2).mem = true := by simpa using h
  exact keeps_ite (advance_leaves hpops) (advance_leaves hpops)

end

end Sys2Proof.Machine
end

section
/-! PROOFS. Launches, rings and queues: what they leave in memory (R105, R380 to R399). -/

namespace Sys2Proof.Machine

open Sys2Proof

/-- Placing a team writes nothing. -/
theorem carveOn_mem {s t : State} {l : Launch} {cl : ClusterId} (hc : s.carveOn l cl = some t) : t.mem = s.mem := by
  unfold State.carveOn at hc
  obtain ⟨members, _, hc⟩ := Option.bind_eq_some_iff.1 hc
  obtain ⟨base, _, hc⟩ := Option.bind_eq_some_iff.1 hc
  obtain ⟨queues, _, hc⟩ := Option.bind_eq_some_iff.1 hc
  dsimp only at hc
  split at hc
  all_goals
    obtain ⟨backing, _, hc⟩ := Option.bind_eq_some_iff.1 hc
    split at hc
    · rw [← Option.some.inj hc]
      rfl
    · exact nomatch hc

theorem placeTeam_mem {s t : State} {q : LQueue} {l : Launch} (hc : s.placeTeam q l = some t) : t.mem = s.mem := by
  obtain ⟨c, _, hc⟩ := List.exists_of_findSome?_eq_some hc
  exact carveOn_mem hc

theorem placeTeams_mem {s t : State} {q : LQueue} {id n : Nat} (hc : s.placeTeams q id n = some t) : t.mem = s.mem := by
  induction n generalizing s with
  | zero => exact congrArg State.mem (Option.some.inj hc).symm
  | succ n ih =>
    simp only [State.placeTeams, Option.bind_eq_bind, Option.bind_eq_some_iff] at hc
    obtain ⟨l, _, u, hu, hc⟩ := hc
    exact (ih hc).trans (placeTeam_mem hu)

/-- The state that the read of an INDIRECT's units leaves, whether it gives them or not. -/
def unitsState : Except State (State × List DWord) → State
  | .error t => t
  | .ok (t, _) => t

theorem placement_mem {s t : State} {ld : Fin 4} {q : Fin 32} (hc : s.placement ld q = some t) : t.mem = s.mem := by
  simp only [State.placement, Option.bind_eq_bind, Option.bind_eq_some_iff] at hc
  obtain ⟨l, _, hc⟩ := hc
  exact placeTeams_mem hc

section

variable {s : State} (h : Memory.wf s.mem = true)
include h

/-! ### Launches -/

theorem execTeamPlace_canonical : Canonical (execTeamPlace s) := by
  unfold execTeamPlace
  dsimp only
  split
  · exact canonical_next.2 h
  · split
    · split
      next hplace => exact canonical_next.2 (ite_wf (by rw [served_mem, placement_mem hplace]; exact h) h)
      · exact canonical_next.2 h
    · exact canonical_next.2 h

theorem execLaunchAdmit_canonical : Canonical (execLaunchAdmit s) := by
  unfold execLaunchAdmit
  split
  · exact canonical_next.2 h
  · refine canonical_ite (canonical_next.2 h) (canonical_ite (canonical_next.2 (wf_endLaunch h _ _ _ _)) ?_)
    refine canonical_ite (canonical_next.2 (by rwa [letIn_mem])) ?_
    split
    next hplace => exact canonical_next.2 (ite_wf (by rw [letIn_mem, served_mem, placement_mem hplace]; exact h) h)
    · exact canonical_next.2 h

theorem execTeamRelease_canonical : Canonical (execTeamRelease s) := by
  unfold execTeamRelease
  split
  · exact canonical_next.2 h
  · split
    · exact canonical_next.2 h
    next l _ _ t _ =>
      refine canonical_next.2 ?_
      have hclear : Memory.wf (Memory.clearRanges (s.startAcquire l t.cl).mem t.ranges) = true := wf_clearRanges (wf_startAcquire h _ _) _
      have hgroups : ∀ (u : State) (es : List (GroupId × Nat)), Memory.wf u.mem = true →
          Memory.wf (es.foldl (fun (s : State) e => s.setGroup e.1 (Group.atStart l t e.2 s.pack.time)) u).mem = true :=
        fun _ es hu => foldl_wf (f := fun (u : State) e => u.setGroup e.1 (Group.atStart l t e.2 u.pack.time)) (fun _ _ hs => hs) es hu
      exact hgroups _ _ hclear

theorem execGeneratorStart_canonical : Canonical (execGeneratorStart s) := by
  unfold execGeneratorStart
  dsimp only
  split
  · exact canonical_next.2 h
  next l _ =>
    have hstart : ∀ cl, Memory.wf (s.startAcquire l cl).mem = true := fun _ => wf_startAcquire h _ _
    refine canonical_ite ?_ (canonical_next.2 h)
    split
    · exact canonical_next.2 (by simpa using hstart _)
    next hplaces =>
      have ht := (congrArg (fun m => Memory.wf m) (State.mem_of_held (held_places hplaces))).trans (hstart _)
      split
      · exact canonical_next.2 (by rwa [failImage_mem])
      · exact canonical_next.2 (wf_writeBytes (wf_clearRange ht _ _) _ _)

theorem execLaunch_canonical (o : UR2) : Canonical (execLaunch o s) := by
  refine onGang_canonical h fun g grp slices => keeps_ite (advance_leaves h) ?_
  refine keeps_bind (uniformSources_checks h _ _ _) fun x _ => keeps_bind (readRecord_yields h _ _ _ _ _ _) fun y hy => ?_
  dsimp only
  split
  · exact advance_leaves hy
  · refine keeps_bind (checkTicket_checks hy _) fun _ _ => ?_
    have hissue := issueTicket_yields (s := (y.1.commitPops x.2).reserve o.sd) (by simpa using hy) g 5
    split
    next heq =>
      rw [heq] at hissue
      exact hissue
    next u e seq ticket heq =>
      rw [heq] at hissue
      have hu : Memory.wf u.mem = true := hissue
      split
      · exact advance_leaves (by simpa using hu)
      · refine keeps_ite (advance_leaves (by simpa using hu)) (keeps_ite (advance_leaves (by simpa using hu)) (advance_leaves ?_))
        show Memory.wf ((u.deliverUniform o.sd 0 ticket).pinIssuer).mem = true
        simpa using hu

theorem execLaunchComplete_canonical : Canonical (execLaunchComplete s) := by
  unfold execLaunchComplete
  split
  · exact canonical_next.2 h
  · exact canonical_next.2 (ite_wf (wf_endLaunch h _ _ _ _) h)

theorem execChildLaunchComplete_canonical : Canonical (execChildLaunchComplete s) := by
  unfold execChildLaunchComplete
  split
  · exact canonical_next.2 h
  · exact canonical_next.2 (ite_wf (wf_endLaunch h _ _ _ _) h)

/-! ### A merge unit -/

theorem wf_indirectUnits (ld : Fin 4) (q : Fin 32) (i : Indirect) (n : Nat) : Memory.wf (unitsState (s.indirectUnits ld q i n)).mem = true := by
  unfold State.indirectUnits
  dsimp only
  split
  · show Memory.wf (State.parkIndirect _ _ _ _ _ _).mem = true
    rwa [parkIndirect_mem]
  next hplaces =>
    have ht := (congrArg (fun m => Memory.wf m) (State.mem_of_held (held_places hplaces))).trans h
    split
    · show Memory.wf (State.endIndirect _ _ _ _ _ _).mem = true
      rwa [endIndirect_mem]
    · exact ht

theorem wf_takeInner (ld : Fin 4) (q : Fin 32) (i : Indirect) : Memory.wf (s.takeInner ld q i).mem = true := by
  have hfirst := wf_indirectUnits h ld q i 1
  unfold State.takeInner
  split
  next heq =>
    rw [heq] at hfirst
    exact hfirst
  next t d heq =>
    rw [heq] at hfirst
    have ht : Memory.wf t.mem = true := hfirst
    have hrest : ∀ (c : Prop) [Decidable c] (n : Nat), Memory.wf (unitsState (if c then t.indirectUnits ld q i n else .ok (t, d))).mem = true := by
      intro c _ n
      split
      · exact wf_indirectUnits ht ld q i n
      · exact ht
    dsimp only
    split
    next heq =>
      have hu := hrest (decide (i.next + unitsOf (dw d 0) ≤ i.units) = true) (unitsOf (dw d 0))
      rw [heq] at hu
      exact hu
    next heq =>
      have hu := hrest (decide (i.next + unitsOf (dw d 0) ≤ i.units) = true) (unitsOf (dw d 0))
      rw [heq] at hu
      have hu : Memory.wf _ = true := hu
      rw [served_mem]
      exact ite_wf (by rw [endIndirect_mem, takePacket_mem]; exact hu) (by rw [setQueue_mem, takePacket_mem]; exact hu)

theorem execMergeVisit_canonical : Canonical (execMergeVisit s) := by
  unfold execMergeVisit
  dsimp only
  split
  · split
    · exact canonical_next.2 (wf_passBarriers h _ _)
    · exact canonical_next.2 (wf_startJobs (wf_takeRing h _ _ _))
    · split
      · exact canonical_next.2 h
      · exact canonical_next.2 (wf_startJobs (wf_takeInner h _ _ _))
    · exact canonical_next.2 h
  · exact canonical_next.2 h

/-! ### Commands of a queue and a ring -/

theorem onDevice_canonical {f : State → State} (hf : Memory.wf (f s).mem = true) : Canonical (s.onDevice f) := canonical_next.2 (ite_wf hf h)

theorem execDoorbell_canonical : Canonical (execDoorbell s) := by
  unfold execDoorbell
  dsimp only
  split
  · exact canonical_next.2 h
  · exact canonical_ite (canonical_next.2 (by rwa [setRing_mem])) (canonical_next.2 h)

theorem execAgeTick_canonical : Canonical (execAgeTick s) := canonical_ite (canonical_next.2 (by rwa [setQueue_mem])) (canonical_next.2 h)

theorem execCompletionRecordWrite_canonical : Canonical (execCompletionRecordWrite s) := by
  unfold execCompletionRecordWrite
  dsimp only
  split
  · exact canonical_next.2 h
  · refine canonical_ite ?_ (canonical_next.2 h)
    have hwrite : ∀ a bs ld q x b bs', Memory.wf ((((s.hostWrite a bs).setQueue ld q x).hostWrite b bs')).mem = true :=
      fun _ _ _ _ _ _ _ => wf_hostWrite (by rw [setQueue_mem]; exact wf_hostWrite h _ _) _ _
    exact canonical_next.2 (ite_wf (by rw [releaseCoalescer_mem]; exact hwrite _ _ _ _ _ _ _) (hwrite _ _ _ _ _ _ _))

theorem execCoalescerHoldExpire_canonical : Canonical (execCoalescerHoldExpire s) :=
  canonical_next.2 (ite_wf (by rwa [releaseCoalescer_mem]) h)

theorem execSegmentReturn_canonical : Canonical (execSegmentReturn s) := by
  unfold execSegmentReturn
  dsimp only
  split
  · exact canonical_next.2 h
  · exact canonical_ite (canonical_next.2 (wf_hostWrite (by exact h) _ _)) (canonical_next.2 h)

end

end Sys2Proof.Machine
end

section
/-! PROOFS. The fault buffer, debugging, contexts, handles and the fabric: what they leave in memory (R340 to R353, R401 to R423). -/

namespace Sys2Proof.Machine

open Sys2Proof

/-- A property of what a port's access gives, with memory in its canonical form where it is refused. -/
def PortKeeps {α : Type} (p : α → Prop) : Except State α → Prop
  | .ok a => p a
  | .error t => Memory.wf t.mem = true

/-- The state that a port's access leaves. -/
abbrev PortLeaves (r : Except State State) : Prop := PortKeeps (fun t => Memory.wf t.mem = true) r

/-- The state that a port's access leaves beside a value. -/
abbrev PortYields {β : Type} (r : Except State (State × β)) : Prop := PortKeeps (fun x => Memory.wf x.1.mem = true) r

section

variable {α β : Type} {p : α → Prop} {q : β → Prop}

theorem portKeeps_bind {x : Except State α} {f : α → Except State β} (hx : PortKeeps p x) (hf : ∀ a, p a → PortKeeps q (f a)) :
    PortKeeps q (x >>= f) := by
  cases x with
  | ok a => exact hf a hx
  | error t => exact hx

theorem portKeeps_ite {c : Prop} [Decidable c] {x y : Except State α} (hx : PortKeeps p x) (hy : PortKeeps p y) :
    PortKeeps p (if c then x else y) := by
  split <;> assumption

end

section

variable {s : State} (h : Memory.wf s.mem = true)
include h

/-! ### The fault buffer, purges and errors -/

theorem execFaultEntryWrite_canonical : Canonical (execFaultEntryWrite s) := by
  unfold execFaultEntryWrite
  refine canonical_ite ?_ (canonical_ite (canonical_next.2 h) (canonical_next.2 h))
  split
  · exact canonical_next.2 h
  · refine canonical_next.2 ?_
    rw [rouse_mem, noteEntry_mem]
    exact wf_physWrite h _ _ _

theorem execPurgeComplete_canonical : Canonical (execPurgeComplete s) := by
  unfold execPurgeComplete
  dsimp only
  split
  · exact canonical_next.2 h
  · exact canonical_ite (canonical_next.2 (wf_purgeRange h _ _)) (canonical_next.2 (wf_purgeRange h _ _))

theorem execControllerAccess_canonical : Canonical (execControllerAccess s) :=
  canonical_ite (canonical_next.2 (wf_giveUp h _ _ _ _))
    (canonical_ite (canonical_next.2 (wf_hostMemAccess h _ _ _ _)) (canonical_next.2 (wf_remoteAccess h _ _ _ _)))

theorem execHostSnoop_canonical : Canonical (execHostSnoop s) := canonical_next.2 (ite_wf (wf_evictAll h _) h)

theorem execUncorrectableError_canonical : Canonical (execUncorrectableError s) := by
  unfold execUncorrectableError
  split
  · exact canonical_next.2 (ite_wf h h)
  · refine canonical_next.2 ?_
    split <;> exact h
  · refine canonical_next.2 ?_
    split <;> exact h
  · exact canonical_next.2 h
  · exact canonical_next.2 h
  · exact canonical_next.2 (by rwa [remapError_mem])

theorem execScrubGranule_canonical : Canonical (execScrubGranule s) := canonical_next.2 (ite_wf (by rw [memoryError_mem]; exact h) h)

/-! ### Contexts and freezes -/

theorem execPreemptComplete_canonical : Canonical (execPreemptComplete s) := by
  unfold execPreemptComplete
  dsimp only
  refine canonical_ite (canonical_next.2 ?_) (canonical_next.2 h)
  have hsaved := wf_saveContext h s.arg.ld s.arg.asn
  generalize s.saveContext s.arg.ld s.arg.asn = t at hsaved ⊢
  cases (t.ctx s.arg.ld s.arg.asn).image with
  | none => exact hsaved
  | some i => exact wf_writeImage hsaved _ _ _ _

theorem execCtxResume_canonical : Canonical (execCtxResume s) :=
  canonical_next.2 (wf_tryResume (ite_wf h (by rwa [resumeCtx_mem])) _ _)

theorem execFreezeComplete_canonical : Canonical (execFreezeComplete s) := by
  unfold execFreezeComplete
  split
  · exact canonical_next.2 h
  · exact canonical_next.2 (ite_wf (wf_finishFreeze h _) h)

theorem execThawComplete_canonical : Canonical (execThawComplete s) := by
  unfold execThawComplete
  split
  · exact canonical_next.2 h
  · exact canonical_ite (canonical_next.2 h) (canonical_next.2 (by rwa [endJob_mem]))

/-! ### Handles -/

theorem execRevokeComplete_canonical : Canonical (execRevokeComplete s) := canonical_ite (canonical_next.2 h) (canonical_next.2 h)

theorem execImportRequestArrival_canonical : Canonical (execImportRequestArrival s) := by
  unfold execImportRequestArrival
  dsimp only
  split
  · exact canonical_next.2 h
  · exact canonical_ite (canonical_next.2 h) (canonical_next.2 h)

theorem execImportResponse_canonical : Canonical (execImportResponse s) := by
  unfold execImportResponse
  dsimp only
  split
  · exact canonical_next.2 h
  · split
    · exact canonical_next.2 h
    · exact canonical_ite (canonical_next.2 (wf_physWrite (by exact h) _ _ _)) (canonical_next.2 h)

theorem execTideEvaluate_canonical : Canonical (execTideEvaluate s) := canonical_ite (canonical_next.2 h) (canonical_next.2 h)

/-! ### Ethernet ports -/

theorem portRead_yields (p : Fin 8) (rx : Bool) (a n : Nat) : PortYields (portRead s p rx a n) := by
  unfold portRead
  dsimp only
  split
  · show Memory.wf (State.parkPort _ _ _ _ _ _).mem = true
    rwa [parkPort_mem]
  next hplaces => exact (congrArg (fun m => Memory.wf m) (State.mem_of_held (held_places hplaces))).trans h

theorem portWrite_leaves (p : Fin 8) (rx : Bool) (a : Nat) (bs : List Byte) : PortLeaves (portWrite s p rx a bs) := by
  unfold portWrite
  dsimp only
  split
  · show Memory.wf (State.parkPort _ _ _ _ _ _).mem = true
    rwa [parkPort_mem]
  next hplaces =>
    have ht := (congrArg (fun m => Memory.wf m) (State.mem_of_held (held_places hplaces))).trans h
    exact wf_writePlaces ht _ _ _

theorem sendFrame_leaves (p : Fin 8) : PortLeaves (sendFrame s p) := by
  refine portKeeps_bind (portRead_yields h _ _ _ _) fun x hx => portKeeps_ite hx ?_
  refine portKeeps_ite (portKeeps_bind (portRead_yields hx _ _ _ _) fun y hy => ?_)
    (portKeeps_bind (p := fun y : State × List Byte × Bool => Memory.wf y.1.mem = true) hx fun y hy => ?_)
  · exact portKeeps_bind (portWrite_leaves (wf_releasePort hy _) _ _ _ _) fun _ hu => hu
  · exact portKeeps_bind (portWrite_leaves (wf_releasePort hy _) _ _ _ _) fun _ hu => hu

theorem takeFrame_leaves (p : Fin 8) (frame : List Byte) (bad : Bool) : PortLeaves (takeFrame s p frame bad) := by
  refine portKeeps_bind (portRead_yields h _ _ _ _) fun x hx => portKeeps_ite hx ?_
  exact portKeeps_bind (portWrite_leaves hx _ _ _ _) fun _ ht =>
    portKeeps_bind (portWrite_leaves (wf_releasePort ht _) _ _ _ _) fun _ hu => hu

theorem execEthTransmitFrame_canonical : Canonical (execEthTransmitFrame s) := by
  have hsend := sendFrame_leaves h s.arg.port
  refine canonical_next.2 (ite_wf ?_ h)
  unfold eitherState
  split
  next heq =>
    rw [heq] at hsend
    exact hsend
  next heq =>
    rw [heq] at hsend
    exact hsend

theorem wf_receive (p : Fin 8) (frame : List Byte) (bad : Bool) : Memory.wf (s.receive p frame bad).mem = true := by
  have htake := takeFrame_leaves h p frame bad
  unfold State.receive
  split
  next heq =>
    rw [heq] at htake
    exact htake
  next heq =>
    rw [heq] at htake
    exact htake

theorem execEthReceiveFrame_canonical : Canonical (execEthReceiveFrame s) := by
  unfold execEthReceiveFrame
  refine canonical_ite (canonical_next.2 h) ?_
  split
  · exact canonical_next.2 (wf_receive h _ _ _)
  · exact canonical_next.2 (ite_wf (wf_receive h _ _ _) h)

end

end Sys2Proof.Machine
end

section
/-! PROOFS. Starts, resets, power, attestation and flash, commands and privileged words: what they leave in memory (R330 to R338, R378,
R379, R426 to R438). -/

namespace Sys2Proof.Machine

open Sys2Proof

section

variable {s : State} (h : Memory.wf s.mem = true)
include h

/-! ### Starts and resets -/

omit h in
theorem wf_restart {mem : List Host.Cell} (hm : Memory.wf mem = true) (stage : BootStage) (latch : Bool) :
    Memory.wf (s.restart mem stage latch).mem = true := hm

theorem wf_packageReset (latch : Bool) : Memory.wf (s.packageReset latch).mem = true :=
  wf_restart (wf_undefinedCells (wf_filter h _) _ _) _ _

theorem wf_noteReason (i r : Nat) : Memory.wf (s.noteReason i r).mem = true := ite_wf (wf_program h _ _) h

theorem wf_noteLast (r : Nat) : Memory.wf (s.noteLast r).mem = true := by
  unfold State.noteLast
  split
  · exact wf_program h _ _
  · exact wf_noteReason h _ _

theorem wf_noteTrip : Memory.wf s.noteTrip.mem = true :=
  ite_wf (ite_wf (wf_program h _ _) (wf_noteReason h _ _)) (wf_noteReason h _ _)

theorem wf_countAttempt : Memory.wf s.countAttempt.1.mem = true := by
  unfold State.countAttempt
  dsimp only
  split
  · exact wf_program (wf_program (wf_program (wf_program (wf_eraseSector h _) _ _) _ _) _ _) _ _
  · exact wf_program h _ _

theorem wf_attempted : Memory.wf s.attempted.1.mem = true := wf_countAttempt (ite_wf (wf_noteLast h _) h)

theorem wf_failed (r : Nat) : Memory.wf (s.failed r).mem = true := by
  have hnoted : Memory.wf (s.starting.noteReason s.attempted.2.1 r).mem = true :=
    wf_noteReason (by rw [starting_mem]; exact wf_attempted h) _ _
  exact ite_wf hnoted (wf_packageReset hnoted _)

theorem wf_bootStart : Memory.wf s.bootStart.mem = true := by
  by_cases hr : startReason s.attempted.1.image s.starting.fresh = 0
  · rw [bootStart_passes hr, loadShadows_mem, trained_mem, starting_mem]
    exact wf_attempted h
  · obtain ⟨r, hr⟩ := bootStart_fails hr
    rw [hr]
    exact wf_failed h r

theorem wf_fwready : Memory.wf s.fwready.mem = true := ite_wf (ite_wf h (wf_eraseSector h _)) h

theorem wf_bootClear : Memory.wf s.bootClear.mem = true := ite_wf h (wf_eraseSector h _)

theorem wf_bootSafe : Memory.wf s.bootSafe.mem = true := ite_wf h (foldl_wf (fun _ _ hs => ite_wf (wf_program hs _ _) hs) _ h)

theorem wf_bootReset : Memory.wf s.bootReset.mem = true := ite_wf h (wf_bootStart (wf_packageReset h _))

theorem wf_bootctl (x : DWord) : Memory.wf (s.bootctl x).mem = true := by
  unfold State.bootctl
  split
  · exact wf_bootClear h
  · exact wf_bootSafe h
  · exact wf_bootReset h
  · exact h

omit h in
theorem wf_keptCells {m : List Host.Cell} (hm : Memory.wf m = true) : Memory.wf (keptCells m) = true := wf_filter hm _

theorem execPowerOnReset_canonical : Canonical (execPowerOnReset s) :=
  canonical_next.2 (ite_wf (wf_bootStart (wf_restart (wf_keptCells h) _ _)) h)

theorem execPackageReset_canonical : Canonical (execPackageReset s) := canonical_next.2 (ite_wf h (wf_bootStart (wf_packageReset h _)))

theorem execStartTimerExpire_canonical : Canonical (execStartTimerExpire s) :=
  canonical_next.2 (ite_wf (wf_bootStart (wf_packageReset h _)) h)

theorem execFirmwareWatchdog_canonical : Canonical (execFirmwareWatchdog s) :=
  canonical_next.2 (ite_wf (wf_bootStart (wf_packageReset h _)) h)

theorem execRecoveryLinkTimeout_canonical : Canonical (execRecoveryLinkTimeout s) :=
  canonical_next.2 (ite_wf (wf_bootStart (wf_packageReset h _)) h)

theorem execPowerLoss_canonical : Canonical (execPowerLoss s) := canonical_next.2 (wf_keptCells (wf_tornFlash h))

/-! ### A Function Level Reset -/

theorem wf_flushRecords (ld : Fin 4) (q : Fin 32) (n : Nat) : Memory.wf (s.flushRecords ld q n).mem = true := by
  induction n generalizing s with
  | zero => exact h
  | succ n ih =>
    have hwrite := execCompletionRecordWrite_canonical (s := { s with arg := { s.arg with ld := ld, queue := q } }) h
    unfold State.flushRecords
    split
    next heq => exact ih (hwrite _ heq)
    · exact h

theorem wf_clearDevice (ld : Fin 4) : Memory.wf (s.clearDevice ld).mem = true := wf_undefinedCells h _ _

theorem execFunctionLevelReset_canonical : Canonical (execFunctionLevelReset s) := by
  unfold execFunctionLevelReset
  refine canonical_ite (canonical_next.2 h) ?_
  extract_lets ld a lost ended flushed closed
  have hlost : Memory.wf lost.mem = true := foldl_wf (fun _ _ hs => wf_loseLaunches hs _) _ h
  have hended : Memory.wf ended.mem = true := foldl_wf (fun _ _ hs => wf_endQueue hs _ _) _ hlost
  have hflushed : Memory.wf flushed.mem = true := foldl_wf (fun _ _ hs => wf_flushRecords hs _ _ _) _ hended
  have hclosed : Memory.wf closed.mem = true := wf_closeImports (wf_closeExports hflushed _ _ _) _ _
  have hcleared := wf_clearDevice hclosed ld
  refine canonical_next.2 ?_
  dsimp only
  exact hcleared

/-! ### Links, power and heat -/

theorem execLinkReset_canonical : Canonical (execLinkReset s) := canonical_next.2 (by rw [setLink_mem]; exact h)

theorem execHostLinkUp_canonical : Canonical (execHostLinkUp s) := canonical_ite (canonical_next.2 (by rw [setLink_mem]; exact h)) (canonical_next.2 h)

theorem execPowerEvaluate_canonical : Canonical (execPowerEvaluate s) := canonical_ite (canonical_next.2 h) (canonical_next.2 h)

theorem execThermtrip_canonical : Canonical (execThermtrip s) := by
  have hnoted := wf_noteTrip h
  unfold execThermtrip
  dsimp only
  refine canonical_ite (canonical_next.2 ?_) (canonical_next.2 h)
  dsimp only
  exact hnoted

theorem execWakeSlotGrant_canonical : Canonical (execWakeSlotGrant s) := canonical_ite (canonical_next.2 h) (canonical_next.2 h)

/-! ### Attestation and flash -/

theorem execAttestComplete_canonical : Canonical (execAttestComplete s) := by
  unfold execAttestComplete
  split
  · exact canonical_next.2 h
  · refine canonical_ite ?_ (canonical_next.2 h)
    extract_lets body quote written
    have hwritten : Memory.wf written.mem = true := wf_hostWrite h _ _
    refine canonical_next.2 ?_
    dsimp only
    exact hwritten

theorem execFlashOpComplete_canonical : Canonical (execFlashOpComplete s) := by
  unfold execFlashOpComplete
  split
  · exact canonical_next.2 h
  · refine canonical_ite (canonical_next.2 (by rwa [flashDone_mem])) (canonical_ite (canonical_next.2 ?_) (canonical_ite (canonical_next.2 h) ?_))
    · rw [flashDone_mem]
      exact wf_eraseSector h _
    · extract_lets at_ bs t
      have ht : Memory.wf t.mem = true := by
        dsimp only [t]
        exact wf_writeBytes h at_ bs
      exact canonical_ite (canonical_next.2 (by rw [flashDone_mem]; exact ht)) (canonical_next.2 (by rw [flashDone_mem]; exact h))

/-! ### Commands -/

theorem execRload_canonical : Canonical (execRload s) := onDevice_canonical h (wf_rload h _ _)

theorem execQload_canonical : Canonical (execQload s) := onDevice_canonical h (wf_qload h _ _)

theorem execQueuePause_canonical : Canonical (execQueuePause s) := onDevice_canonical h (by rwa [setQueue_mem])

theorem execQueueResume_canonical : Canonical (execQueueResume s) := onDevice_canonical h (by rwa [setQueue_mem])

theorem execQueueCancel_canonical : Canonical (execQueueCancel s) := onDevice_canonical h (wf_cancelQueue h _ _)

theorem wf_qcmd (ld : Fin 4) (x : DWord) : Memory.wf (s.qcmd ld x).mem = true := by
  have hqueue : ∀ (n : Nat) (q : Fin 32) (f : State → Host.Outcome State Fault Refusal), (∀ u, Memory.wf u.mem = true → Canonical (f u)) →
      Memory.wf (if n < 32 then
        match f { s with arg := { s.arg with ld := ld, queue := q } } with
        | .next t => { t with arg := s.arg }
        | _ => s
      else s.badCmd ld).mem = true := by
    intro n q f hf
    refine ite_wf ?_ (by rwa [badCmd_mem])
    split
    next heq =>
      have ht := hf _ (by exact h) _ heq
      exact ht
    · exact h
  unfold State.qcmd
  dsimp only
  split
  · exact hqueue _ _ _ fun _ hu => execQueuePause_canonical hu
  · exact hqueue _ _ _ fun _ hu => execQueueResume_canonical hu
  · exact hqueue _ _ _ fun _ hu => execQueueCancel_canonical hu
  · exact wf_rload h _ _
  · exact ite_wf (wf_qload h _ _) (by rwa [badCmd_mem])
  · rwa [badCmd_mem]

theorem wf_command {ld : Fin 4} {asn : Asn} {n : Nat} {x : DWord} {t : State} (hc : s.command ld asn n x = some t) : Memory.wf t.mem = true := by
  unfold State.command at hc
  split at hc
  · exact Option.some.inj hc ▸ wf_fbcmd h _ _ _
  · exact Option.some.inj hc ▸ (by rwa [dbgcmd_mem])
  · exact Option.some.inj hc ▸ (by rwa [pgcmd_mem])
  · exact Option.some.inj hc ▸ wf_qcmd h _ _
  · exact Option.some.inj hc ▸ wf_ctxcmd h _ _
  · exact Option.some.inj hc ▸ wf_xcmd h _ _ _
  · exact Option.some.inj hc ▸ wf_bootctl h _
  · exact Option.some.inj hc ▸ (by rwa [attest_mem])
  · exact Option.some.inj hc ▸ ite_wf (wf_fwready h) h
  · exact Option.some.inj hc ▸ (by rwa [flashWrite_mem])
  · split at hc
    · exact Option.some.inj hc ▸ (by rwa [writeProfile_mem])
    · split at hc
      · exact Option.some.inj hc ▸ (by rwa [writePubBuf_mem])
      · split at hc
        · exact Option.some.inj hc ▸ ite_wf (by rwa [writePool_mem]) (by rwa [writePoolSize_mem])
        · split at hc
          · exact Option.some.inj hc ▸ (by rwa [writePort_mem])
          · exact nomatch hc

theorem wf_writeSys (ld : Fin 4) (asn : Asn) (n : Nat) (x : DWord) : Memory.wf (s.writeSys ld asn n x).mem = true := by
  unfold State.writeSys
  split
  next hc => exact wf_command h hc
  · refine ite_wf h (ite_wf h ?_)
    dsimp only
    exact ite_wf (by exact h) h

theorem execRegisterWrite_canonical : Canonical (execRegisterWrite s) := canonical_ite (canonical_next.2 (wf_writeSys h _ _ _ _)) (canonical_next.2 h)

/-! ### Privileged words -/

theorem privileged_canonical {f : GroupId → Group → BitVec 8 → Except Stop State} (hf : ∀ g grp slices, Leaves (f g grp slices)) :
    Canonical (privileged s f) :=
  onGang_canonical h fun _ _ _ => keeps_bind (require_checks h _ _) fun _ _ => keeps_ite (advance_leaves h) (hf _ _ _)

theorem sysNumber_checks (sb : DWord) (write : Bool) : Checks (sysNumber s sb write) := by
  refine keeps_ite (illegal_keeps h 6) ?_
  split
  · exact illegal_keeps h 6
  · exact trapOf_checks h _
  · exact illegal_keeps h 6
  · exact illegal_keeps h 6
  · trivial

theorem execRett_canonical : Canonical (execRett s) :=
  privileged_canonical h fun _ _ _ => by
    refine keeps_ok.2 ?_
    rw [State.endRun_mem, nextGangTrap_mem, dropSeqsOf_mem]
    exact h

theorem execPrd_canonical (o : UPrd) : Canonical (execPrd o s) :=
  privileged_canonical h fun _ _ _ => keeps_bind (uniformSources_checks h _ _ _) fun _ _ => keeps_bind (sysNumber_checks h _ _) fun _ _ =>
    advance_leaves (by simpa using h)

theorem execPwr_canonical (o : UPwr) : Canonical (execPwr o s) := by
  refine privileged_canonical h fun g grp _ => keeps_bind (uniformSources_checks h _ _ _) fun x _ => ?_
  refine keeps_bind (sysNumber_checks h _ _) fun n _ => ?_
  have hpops : Memory.wf (s.commitPops x.2).mem = true := by simpa using h
  refine keeps_ite ?_ (keeps_pure.2 (wf_writeSys (by rwa [advance_mem]) _ _ _ _))
  split
  · exact advance_leaves hpops
  · exact hpops

theorem execIdle_canonical : Canonical (execIdle s) := privileged_canonical h fun _ _ _ => keeps_ok.2 h

theorem execLeasew_canonical : Canonical (execLeasew s) := privileged_canonical h fun _ _ _ => keeps_ok.2 h

theorem execHalt_canonical : Canonical (execHalt s) := by
  refine privileged_canonical h fun g grp _ => keeps_ok.2 ?_
  rw [State.endRun_mem, retireGroup_mem]
  split <;> exact h

theorem execIdleWake_canonical : Canonical (execIdleWake s) := by
  unfold execIdleWake
  dsimp only
  split
  · exact canonical_next.2 h
  · exact canonical_next.2 (ite_wf h (by rwa [complete_mem]))

theorem execLeasewReturn_canonical : Canonical (execLeasewReturn s) := by
  unfold execLeasewReturn
  dsimp only
  split
  · exact canonical_next.2 h
  · exact canonical_ite (canonical_next.2 h) (canonical_next.2 (by rw [complete_mem]; exact h))

end

end Sys2Proof.Machine
end

section
/-! PROOFS. Lane words between lanes, and what a core and the units do between words: what they leave in memory (R26 to R34, R165 to R169). -/

namespace Sys2Proof.Machine

open Sys2Proof

section

variable {s : State} (h : Memory.wf s.mem = true)
include h

/-! ### Words between lanes -/

theorem predLogic_canonical (o : XPred) (f : LaneMask → LaneMask → LaneMask) : Canonical (predLogic o s f) :=
  onGang_canonical h fun _ _ _ => advance_leaves h

theorem votePred_canonical (o : XVote) (f : LaneMask → LaneMask → Bool) : Canonical (votePred o s f) :=
  onGang_canonical h fun _ _ _ => keeps_bind (requireGang_checks h _) fun _ _ => advance_leaves h

theorem execVoteBallot_canonical (o : XBallot) : Canonical (execVoteBallot o s) :=
  onGang_canonical h fun _ _ _ => keeps_bind (require_checks h _ _) fun _ _ => keeps_bind (requireGang_checks h _) fun _ _ =>
    keeps_bind (laneChecks_checks h _ _ _ _ _ _ _) fun _ _ => keeps_bind (writeLanes_leaves h _ _ _ _) fun _ ht => advance_leaves ht

theorem execLidx_canonical (o : X1) : Canonical (execLidx o s) :=
  onGang_canonical h fun _ _ _ => keeps_bind (laneChecks_checks h _ _ _ _ _ _ _) fun _ _ =>
    keeps_bind (writeLanes_leaves h _ _ _ _) fun _ ht => advance_leaves ht

theorem execBcast_canonical (o : XBcast) : Canonical (execBcast o s) := by
  refine onGang_canonical h fun g grp slices => keeps_bind (require_checks h _ _) fun _ _ => keeps_bind (requireGang_checks h _) fun _ _ => ?_
  refine keeps_bind (laneChecks_checks h _ _ _ _ _ _ _) fun _ _ => keeps_ite ?_ (keeps_bind (uniformSources_checks h _ _ _) fun x _ => ?_)
  · exact keeps_bind (writeLanes_leaves h _ _ _ _) fun _ ht => advance_leaves ht
  · have hpops : Memory.wf (s.commitPops x.2).mem = true := by simpa using h
    exact keeps_bind (writeLanes_leaves hpops _ _ _ _) fun _ ht => advance_leaves ht

theorem execVget_canonical (o : XGet) : Canonical (execVget o s) := by
  refine onGang_canonical h fun g grp slices => keeps_bind (require_checks h _ _) fun _ _ => keeps_bind (requireGang_checks h _) fun _ _ => ?_
  refine keeps_bind (laneChecks_checks h _ _ _ _ _ _ _) fun _ _ => keeps_ite ?_ (keeps_bind (uniformSources_checks h _ _ _) fun x _ => ?_)
  · exact keeps_bind (readLanes_yields h _ _ _) fun _ hx => advance_leaves hx
  · exact keeps_bind (readLanes_yields h _ _ _) fun y hy => advance_leaves (by simpa using hy)

theorem shuffleOp_canonical (o : XR3) (src : Nat → Nat → Nat) : Canonical (shuffleOp o s src) := by
  refine onGang_canonical h fun g grp slices => keeps_bind (require_checks h _ _) fun _ _ => keeps_bind (requireGang_checks h _) fun _ _ => ?_
  refine keeps_bind (laneChecks_checks h _ _ _ _ _ _ _) fun _ _ => keeps_bind (checkPromise_checks h _ _ _ _) fun _ _ => ?_
  refine keeps_bind (checkArrived_checks h _ _ _ _ _) fun _ _ => keeps_bind (checkStreams_checks h _ _ _ _) fun _ _ => ?_
  refine keeps_bind (readLanes_yields h _ _ _) fun x hx => keeps_bind (checkPoison_checks h _ _ _) fun _ _ => ?_
  exact keeps_bind (writeLanes_leaves hx _ _ _ _) fun _ ht => advance_leaves ht

/-! ### Local loads and stores, and wide words with checks of their own -/

theorem execLdl_canonical (o : MLdl) : Canonical (execLdl o s) :=
  laneLoad_canonical h _ _ _ _ _ _ _ _ _ _ (fun _ _ => checkLocal_checks h _ _ _) (fun _ _ => localAt_quiet _ _ _) _

theorem execStl_canonical (o : MStl) : Canonical (execStl o s) :=
  laneStore_canonical h _ _ _ _ _ _ _ (fun _ _ => checkLocal_checks h _ _ _) fun _ _ => localAt_quiet _ _ _

theorem execWdivs_canonical (o : WS) : Canonical (execWdivs o s) :=
  canonical_ite (onGang_canonical h fun _ _ _ => illegal_keeps h 3) (wideShort_canonical h _ _ _ _ _ _)

theorem wideSequenced_noMore_canonical (i : Instr) (srcs dsts : List WSrc) (uses : List (Fin 64)) (total : List Int → List DWord → Nat) :
    Canonical (wideSequenced s i srcs dsts uses noMore total) :=
  wideSequenced_canonical h _ _ _ _ (fun _ _ _ => keeps_ok.2 trivial) _

theorem execCres_canonical (o : WCres) : Canonical (execCres o s) := by
  unfold execCres
  refine wideSequenced_canonical h _ _ _ _ (fun g grp us => ?_) _
  dsimp only
  exact keeps_bind (require_checks h _ _) fun _ _ => keeps_bind (require_checks h _ _) fun _ _ => require_checks h _ _

/-! ### The families of words that differ in one function -/

theorem lane3_canonical (o : LR3) (f : Word → Word → Word) : Canonical (lane3 o s f) := laneOp_canonical h _ _ _ _ _

theorem lane3d_canonical (o : LR3) (f : Group → Word → Word → Word → Word) : Canonical (lane3d o s f) := laneOp_canonical h _ _ _ _ _

theorem lane2_canonical (o : LR2) (f : Word → Word) : Canonical (lane2 o s f) := laneOp_canonical h _ _ _ _ _

theorem double2_canonical (o : LR3) (f : Group → FVal → FVal → Nat × BitVec 7) : Canonical (double2 o s f) :=
  laneOp_canonical h _ _ _ _ _

theorem float1_canonical (o : LR2) (f : Fmt → Rm → Bool → FVal → Nat × BitVec 7) : Canonical (float1 o s f) :=
  laneOp_canonical h _ _ _ _ _

theorem float2_canonical (o : LR3) (f : Group → Word → Word → Nat × BitVec 7) : Canonical (float2 o s f) := laneOp_canonical h _ _ _ _ _

theorem laneDiv_canonical (o : LR3) (zero : Word → Word) (f : Word → Word → Word) : Canonical (laneDiv o s zero f) :=
  laneOp_canonical h _ _ _ _ _

theorem laneShift_canonical (o : LShift) (f : Word → Nat → Word) : Canonical (laneShift o s f) := laneOp_canonical h _ _ _ _ _

theorem dotOp_canonical (o : LR3) (w n : Nat) (val : Group → Nat → FVal) : Canonical (dotOp o s w n val) := laneOp_canonical h _ _ _ _ _

theorem dotInt_canonical (o : LR3) (w n : Nat) (val : Nat → Int) : Canonical (dotInt o s w n val) := laneOp_canonical h _ _ _ _ _

theorem extremeOp_canonical (o : XR2) (identity : Word) (better : Word → Word → Bool) : Canonical (extremeOp o s identity better) :=
  crossOp_canonical h _ _ _ _ _

theorem reduceOp_canonical (o : XR2) (z : Word) (f : Word → Word → Word) : Canonical (reduceOp o s z f) := crossOp_canonical h _ _ _ _ _

theorem scanOp_canonical (o : XR2) (z : Word) (strict : Bool) (f : Word → Word → Word) : Canonical (scanOp o s z strict f) :=
  crossOp_canonical h _ _ _ _ _

theorem scalar3_canonical (o : UR3) (f : DWord → DWord → DWord) : Canonical (scalar3 o s f) := scalarOp_canonical h _ _ _

theorem scalar2_canonical (o : UR2) (f : DWord → DWord) : Canonical (scalar2 o s f) := scalarOp_canonical h _ _ _

theorem wide2_canonical (o : W2) (f : Nat → Int → Int) : Canonical (wide2 o s f) := by
  unfold wide2
  dsimp only
  exact wideShort_canonical h _ _ _ _ _ _

theorem wide3_canonical (o : W3) (f : Nat → Bool → Int → Int → Int × Option Bool) : Canonical (wide3 o s f) := by
  unfold wide3
  dsimp only
  exact wideShort_canonical h _ _ _ _ _ _

theorem wideBits_canonical (o : W3) (f : Nat → Nat → Nat) : Canonical (wideBits o s f) := wide3_canonical h _ _

theorem wideScalar_canonical (o : WS) (addend : Bool) (f : Nat → Int → Int → Nat → Int) : Canonical (wideScalar o s addend f) := by
  unfold wideScalar
  dsimp only
  exact wideShort_canonical h _ _ _ _ _ _

theorem rational_canonical (o : W3) (i : Instr) (sum : Bool) : Canonical (rational o i s sum) := by
  unfold rational
  dsimp only
  exact wideSequenced_noMore_canonical h _ _ _ _ _

theorem execWdiv_canonical (o : W3) : Canonical (execWdiv o s) := by
  unfold execWdiv
  dsimp only
  exact wideSequenced_noMore_canonical h _ _ _ _ _

theorem execQnorm_canonical (o : W2) : Canonical (execQnorm o s) := by
  unfold execQnorm
  dsimp only
  exact wideSequenced_noMore_canonical h _ _ _ _ _

theorem execWgcd_canonical (o : W3) : Canonical (execWgcd o s) := by
  unfold execWgcd
  dsimp only
  exact wideSequenced_noMore_canonical h _ _ _ _ _

theorem execWextI_canonical (o : WExt) : Canonical (execWextI o s) := by
  unfold execWextI
  dsimp only
  exact wideShort_canonical h _ _ _ _ _ _

theorem execWextN_canonical (o : WExt) : Canonical (execWextN o s) := by
  unfold execWextN
  dsimp only
  exact wideShort_canonical h _ _ _ _ _ _

theorem execWcmpI_canonical (o : WCmp) : Canonical (execWcmpI o s) := by
  unfold execWcmpI
  dsimp only
  exact guardForm_canonical h (wideShort_canonical h _ _ _ _ _ _) _

theorem execWcmpN_canonical (o : WCmp) : Canonical (execWcmpN o s) := by
  unfold execWcmpN
  dsimp only
  exact guardForm_canonical h (wideShort_canonical h _ _ _ _ _ _) _

theorem execWgetl_canonical (o : WGet) : Canonical (execWgetl o s) := by
  unfold execWgetl
  dsimp only
  exact guardForm_canonical h (wideShort_canonical h _ _ _ _ _ _) _

theorem execLcnt_canonical (o : UDc) : Canonical (execLcnt o s) := by
  unfold execLcnt
  dsimp only
  exact scalarOp_canonical h _ _ _

/-! ### Arrivals, the ends of waits and arbitration -/

theorem execLoadResultArrival_canonical : Canonical (execLoadResultArrival s) := by
  unfold execLoadResultArrival
  refine canonical_ite ?_ ?_
  · dsimp only
    split
    · exact canonical_next.2 h
    · exact canonical_next.2 (by simpa using h)
  · dsimp only
    split
    · exact canonical_next.2 h
    · split
      · exact canonical_next.2 h
      · exact canonical_next.2 (by simpa using h)

theorem execQueueRequestServed_canonical : Canonical (execQueueRequestServed s) := by
  unfold execQueueRequestServed
  dsimp only
  split
  · exact canonical_next.2 h
  · split
    · exact canonical_next.2 h
    · exact canonical_next.2 (by simpa using h)

theorem execSstepRelease_canonical : Canonical (execSstepRelease s) := by
  unfold execSstepRelease
  split
  · exact canonical_next.2 h
  · refine canonical_ite (canonical_next.2 h) (canonical_ite (canonical_next.2 (by simpa using h)) (canonical_ite (canonical_next.2 h) ?_))
    split
    · exact canonical_next.2 (by simpa using h)
    · split
      · exact canonical_next.2 h
      · exact canonical_next.2 (by simpa using h)

theorem wf_settleStops (c : Core) : Memory.wf (s.settleStops c).mem = true := by
  unfold State.settleStops
  rwa [foldl_mem (fun _ _ => settleGroup_mem ..)]

theorem execIssueArbitration_canonical : Canonical (execIssueArbitration s) := by
  have hstops := wf_settleStops h s.arg.core
  refine canonical_ite (canonical_next.2 h) (canonical_next.2 ?_)
  dsimp only
  split
  · rw [setRun_mem, mapCore_mem]
    exact hstops
  · rw [mapCore_mem]
    exact hstops

/-! ### Fetching a word -/

theorem wf_codeWord {t : State} {w : Word} {p : Option Nat} {g : GroupId} {grp : Group} {pc : Addr}
    (hc : s.codeWord g grp pc = .ok (t, w, p)) : Memory.wf t.mem = true := by
  unfold State.codeWord at hc
  cases hplaces : s.places (s.groupReq g grp .fetch) pc.toNat 4 with
  | error e =>
    rw [hplaces] at hc
    exact nomatch hc
  | ok x =>
    rw [hplaces] at hc
    have ht := (congrArg (fun m => Memory.wf m) (State.mem_of_held (held_places hplaces))).trans h
    have hx : x.1 = t := congrArg Prod.fst (Except.ok.inj hc)
    exact hx ▸ ht

theorem plainWord_yields (g : GroupId) (grp : Group) (slices : BitVec 8) (pc : Addr) : Yields (s.plainWord g grp slices pc) := by
  unfold State.plainWord
  split
  · exact keeps_wait.2 (by rwa [parkFetch_mem])
  next hc => exact wf_codeWord h hc
  next hc => exact wf_codeWord h hc

theorem gangFetch_yields (g : GroupId) (grp : Group) (slices : BitVec 8) : Yields (s.gangFetch g grp slices) := by
  refine keeps_ite ?_ (keeps_ite h ?_)
  · split <;> exact h
  · refine keeps_bind (plainWord_yields h _ _ _ _) fun x hx => keeps_ite ?_ hx
    exact keeps_bind (plainWord_yields hx _ _ _ _) fun _ hy => hy

theorem nextFetch_yields (g : GroupId) (grp : Group) (slices : BitVec 8) : Yields (s.nextFetch g grp slices) := by
  unfold State.nextFetch
  dsimp only
  split
  · exact keeps_ok.2 (by rwa [State.setGroup_mem])
  · exact gangFetch_yields (by rwa [State.setGroup_mem]) _ _ _

theorem decoded_keeps (g : GroupId) (pc : Addr) (f : Fetched) :
    Keeps (fun x : Instr × State => Memory.wf x.2.mem = true) (s.decoded g pc f) := by
  unfold State.decoded
  split
  · show Memory.wf s.mem = true
    exact h
  · refine keeps_ite ?_ h
    show Memory.wf s.mem = true
    exact h

end

end Sys2Proof.Machine
end

section
/-! PROOFS. The dispatch: what any word or event leaves in memory. -/

namespace Sys2Proof.Machine

open Sys2Proof

theorem exec_canonical {s : State} (h : Memory.wf s.mem = true) (i : Instr) : Canonical (exec i s) := by
  unfold exec
  cases i with
  | iadd | iaddSat | iaddSatN32 | isub | isubSat | isubSatN32 | imul | imulHi | imulHiN32 | iminI32 | iminN32 | imaxI32 | imaxN32
  | land | lor | lxor | landn | ishl | ishr | isar | irot | bfxN32 | bfxI32 => exact lane3_canonical h _ _
  | imad | bfi => exact lane3d_canonical h _ _
  | idivI32 | idivN32 | iremI32 | iremN32 => exact laneDiv_canonical h _ _ _
  | popc | clz | ctz | brev => exact lane2_canonical h _ _
  | icmpI32 | icmpN32 => exact guardForm_canonical h (lanePredOp_canonical h _ _ _ _ _) _
  | sel => exact execSel_canonical h _
  | addmod | submod | mulmod | iaddi | imovi | ffma | fclass | dfma | cvt | pack8 | pack4 => exact laneOp_canonical h _ _ _ _ _
  | ishli | ishri | isari | iroti => exact laneShift_canonical h _ _
  | fadd | fsub | fmul | fmin | fmax | fscl => exact float2_canonical h _ _
  | fcmp | dcmp => exact lanePredOp_canonical h _ _ _ _ _
  | fabs | fneg | frcp | frsq | fsqrt | fexp2 | flog2 | frint => exact float1_canonical h _ _
  | dpe5 | dpbf | dpf8 | dpf4 => exact dotOp_canonical h _ _ _ _
  | dadd | dsub | dmul => exact double2_canonical h _ _
  | dpi8I8 | dpi8N8 | dpi4I4 | dpi4N4 => exact dotInt_canonical h _ _ _ _
  | shflIdx | shflUp | shflDown | shflXor => exact shuffleOp_canonical h _ _
  | redadd | redmin | redmax | redminn => exact reduceOp_canonical h _ _ _
  | minxI32 | minxN32 | maxxI32 | maxxN32 => exact extremeOp_canonical h _ _ _
  | scanAdd | scanXadd | scanMax | scanMin => exact scanOp_canonical h _ _ _ _
  | voteBallot => exact execVoteBallot_canonical h _
  | voteAny | voteAll => exact votePred_canonical h _ _
  | bcast => exact execBcast_canonical h _
  | vget => exact execVget_canonical h _
  | lidx => exact execLidx_canonical h _
  | pand | por | pxor | pandn => exact predLogic_canonical h _ _
  | vtrp => exact crossOp_canonical h _ _ _ _ _
  | wadd | wadc | wsub | wsbb => exact wide3_canonical h _ _
  | wand | wor | wxor | wandn => exact wideBits_canonical h _ _
  | wshl | wshr | wsar | wmuls | wmads => exact wideScalar_canonical h _ _ _
  | wdivs => exact execWdivs_canonical h _
  | wdiv => exact execWdiv_canonical h _
  | wcmpI => exact execWcmpI_canonical h _
  | wcmpN => exact execWcmpN_canonical h _
  | wneg | wnot | wabs | wnorm | wclz | wpopc => exact wide2_canonical h _ _
  | wextI => exact execWextI_canonical h _
  | wextN => exact execWextN_canonical h _
  | wgetl => exact execWgetl_canonical h _
  | wsetl => exact execWsetl_canonical h _
  | cres => exact execCres_canonical h _
  | qadd | qsub | qmul | qdiv => exact rational_canonical h _ _ _
  | qnorm => exact execQnorm_canonical h _
  | wgcd => exact execWgcd_canonical h _
  | acp => exact execAcp_canonical h _
  | ld | lds | ldi => exact memLoad_canonical h _ _ _
  | st | sts => exact memStore_canonical h _ _
  | ldl => exact execLdl_canonical h _
  | stl => exact execStl_canonical h _
  | atom | atom64 => exact laneAtomic_canonical h _ _
  | sadd | ssub | smul | smulh | smulhn | sdiv | sdivn | srem | sand | sor | sxor | sandn | sshl | sshr | ssar | srot | smin | smax
  | sminn | smaxn | sbfx | sbfxs => exact scalar3_canonical h _ _
  | spopc | sclz | sctz => exact scalar2_canonical h _ _
  | ssel => exact execSsel_canonical h _
  | scmpI | scmpN => exact scmp_canonical h _ _ _ _
  | saddi | slui | slit | slith | sbfi => exact scalarOp_canonical h _ _ _
  | cand | cor | cxor | candn => exact condOp_canonical h _ _
  | sbcv => exact execSbcv_canonical h _
  | srd => exact execSrd_canonical h _
  | swr => exact execSwr_canonical h _
  | bra => exact execBra_canonical h _
  | call => exact execCall_canonical h _
  | jmpr | ret | callr => exact registerJump_canonical h _ _ _ _
  | loop => exact execLoop_canonical h _
  | lcnt => exact execLcnt_canonical h _
  | brp => exact execBrp_canonical h _
  | rcv => exact execRcv_canonical h _
  | bkpt => exact execBkpt_canonical h _
  | trap => exact execTrap_canonical h _
  | prd => exact execPrd_canonical h _
  | pwr => exact execPwr_canonical h _
  | bar | barProd | barCons | barCnt => exact barrier_canonical h _ _ _
  | fenceAcq | fenceRel | fenceFull => exact fence_canonical h _ _ _
  | sld | slda => exact uniformLoad_canonical h _ _
  | sst | sstr => exact uniformStore_canonical h _ _
  | satom => exact execSatom_canonical h _
  | qput => exact execQput_canonical h _
  | qget => exact execQget_canonical h _
  | aseal => exact execAseal_canonical h _
  | await => exact execAwait_canonical h _
  | awaitT => exact execAwaitT_canonical h _
  | bxt => exact execBxt_canonical h _
  | gath => exact execGath_canonical h _
  | sarmArm => exact execSarmArm_canonical h _
  | sarmDisarm => exact execSarmDisarm_canonical h _
  | mgang => exact execMgang_canonical h _
  | macq => exact execMacq_canonical h _
  | mrel => exact execMrel_canonical h _
  | mma | mmaCx | mlt | maccLoad | maccStore | maccZero => exact joint_canonical h _ _
  | mxmul => exact execMxmul_canonical h _
  | nttFwd | nttInv => exact nttOp_canonical h _ _
  | stow => exact execStow_canonical h _
  | unstow => exact execUnstow_canonical h _
  | publ => exact execPubl_canonical h _
  | emit => exact execEmit_canonical h _
  | eseal => exact execEseal_canonical h _
  | esync => exact execEsync_canonical h _
  | eopen => exact execEopen_canonical h _
  | epos => exact execEpos_canonical h _
  | tide => exact execTide_canonical h _
  | launch => exact execLaunch_canonical h _
  | lexit => exact execLexit_canonical h
  | join => exact execJoin_canonical h
  | regang => exact execRegang_canonical h
  | rgn => exact execRgn_canonical h
  | exitLanes => exact execExitLanes_canonical h
  | rolesw => exact execRolesw_canonical h
  | nop => exact execNop_canonical h
  | rett => exact execRett_canonical h
  | idle => exact execIdle_canonical h
  | leasew => exact execLeasew_canonical h
  | halt => exact execHalt_canonical h
  | sstep => exact execSstep_canonical h
  | issueArbitration => exact execIssueArbitration_canonical h
  | loadResultArrival => exact execLoadResultArrival_canonical h
  | queueRequestServed => exact execQueueRequestServed_canonical h
  | wideSequencedComplete => exact execWideSequencedComplete_canonical h
  | batchComplete => exact execBatchComplete_canonical h
  | bxtComplete => exact execBxtComplete_canonical h
  | gathComplete => exact execGathComplete_canonical h
  | mxmulComplete => exact execMxmulComplete_canonical h
  | nttComplete => exact execNttComplete_canonical h
  | stowComplete => exact execStowComplete_canonical h
  | childLaunchComplete => exact execChildLaunchComplete_canonical h
  | matrixPass => exact execMatrixPass_canonical h
  | jointOpComplete => exact execJointOpComplete_canonical h
  | maccComplete => exact execMaccComplete_canonical h
  | macqGrant => exact execMacqGrant_canonical h
  | accSpill => exact execAccSpill_canonical h
  | publExchange => exact execPublExchange_canonical h
  | sstepRelease => exact execSstepRelease_canonical h
  | emitResume => exact execEmitResume_canonical h
  | esyncComplete => exact execEsyncComplete_canonical h
  | leasewReturn => exact execLeasewReturn_canonical h
  | idleWake => exact execIdleWake_canonical h
  | controllerAccess => exact execControllerAccess_canonical h
  | peerInvalidate => exact canonical_next.2 (by rwa [dropShared_mem])
  | leaseExpire => exact canonical_next.2 h
  | faultEntryWrite => exact execFaultEntryWrite_canonical h
  | scrubGranule => exact execScrubGranule_canonical h
  | replay | refuse | gresume | gskip | gcancel => exact onDevice_canonical h (wf_fbcmd h _ _ _)
  | purge => exact onDevice_canonical h (by rwa [pgcmd_mem])
  | purgeComplete => exact execPurgeComplete_canonical h
  | attach | detach => exact onDevice_canonical h (by rwa [dbgAttach_mem])
  | dbgStop => exact onDevice_canonical h (by rwa [dbgStopCmd_mem])
  | dbgResume => exact onDevice_canonical h (by rwa [dbgResumeCmd_mem])
  | stepi | stepr => exact onDevice_canonical h (by rwa [dbgStep_mem])
  | dbgRegrd => exact onDevice_canonical h (by rwa [dbgRead_mem])
  | dbgRegwr => exact onDevice_canonical h (by rwa [dbgWrite_mem])
  | doorbell => exact execDoorbell_canonical h
  | cqConsumedWrite => exact onDevice_canonical h (by rwa [setQueue_mem])
  | mergeVisit => exact execMergeVisit_canonical h
  | freezeComplete => exact execFreezeComplete_canonical h
  | thawComplete => exact execThawComplete_canonical h
  | segmentReturn => exact execSegmentReturn_canonical h
  | launchAdmit => exact execLaunchAdmit_canonical h
  | teamPlace => exact execTeamPlace_canonical h
  | teamRelease => exact execTeamRelease_canonical h
  | generatorStart => exact execGeneratorStart_canonical h
  | launchComplete => exact execLaunchComplete_canonical h
  | completionRecordWrite => exact execCompletionRecordWrite_canonical h
  | coalescerHoldExpire => exact execCoalescerHoldExpire_canonical h
  | ageTick => exact execAgeTick_canonical h
  | queuePause => exact execQueuePause_canonical h
  | queueResume => exact execQueueResume_canonical h
  | queueCancel => exact execQueueCancel_canonical h
  | rload => exact execRload_canonical h
  | qload => exact execQload_canonical h
  | create => exact onDevice_canonical h (by rwa [createCtx_mem])
  | destroy => exact onDevice_canonical h (wf_destroyCtx h _ _)
  | preempt => exact onDevice_canonical h (by rwa [preemptCtx_mem])
  | preemptComplete => exact execPreemptComplete_canonical h
  | ctxResume => exact execCtxResume_canonical h
  | exportHandle => exact onDevice_canonical h (wf_exportRange h _ _)
  | revokeHandle => exact onDevice_canonical h (wf_revoke h _ _)
  | revokeComplete => exact execRevokeComplete_canonical h
  | importHandle => exact onDevice_canonical h (by rwa [importSend_mem])
  | importResponse => exact execImportResponse_canonical h
  | unimportHandle => exact onDevice_canonical h (wf_unimport h _ _)
  | poolWrite => exact onDevice_canonical h (by rwa [writePool_mem])
  | pbufWrite => exact onDevice_canonical h (by rwa [writePubBuf_mem])
  | pctlWrite => exact onDevice_canonical h (by rwa [writeProfile_mem])
  | registerWrite => exact execRegisterWrite_canonical h
  | tideEvaluate => exact execTideEvaluate_canonical h
  | ethTransmitFrame => exact execEthTransmitFrame_canonical h
  | ethReceiveFrame => exact execEthReceiveFrame_canonical h
  | txTailWrite | rxTailWrite => exact onDevice_canonical h (by rwa [setPort_mem])
  | powerOnReset => exact execPowerOnReset_canonical h
  | packageReset => exact execPackageReset_canonical h
  | startTimerExpire => exact execStartTimerExpire_canonical h
  | firmwareWatchdog => exact execFirmwareWatchdog_canonical h
  | fwready => exact canonical_next.2 (wf_fwready h)
  | powerLoss => exact execPowerLoss_canonical h
  | functionLevelReset => exact execFunctionLevelReset_canonical h
  | linkReset => exact execLinkReset_canonical h
  | powerEvaluate => exact execPowerEvaluate_canonical h
  | thermtrip => exact execThermtrip_canonical h
  | wakeSlotGrant => exact execWakeSlotGrant_canonical h
  | bootClear => exact canonical_next.2 (wf_bootClear h)
  | bootSafe => exact canonical_next.2 (wf_bootSafe h)
  | bootReset => exact canonical_next.2 (wf_bootReset h)
  | attest => exact onDevice_canonical h (by rwa [attest_mem])
  | flashErase | flashProgram => exact canonical_next.2 (by rwa [flashWrite_mem])
  | flashOpComplete => exact execFlashOpComplete_canonical h
  | uncorrectableError => exact execUncorrectableError_canonical h
  | attestComplete => exact execAttestComplete_canonical h
  | hostLinkUp => exact execHostLinkUp_canonical h
  | hostSnoop => exact execHostSnoop_canonical h
  | recoveryLinkTimeout => exact execRecoveryLinkTimeout_canonical h
  | importRequestArrival => exact execImportRequestArrival_canonical h

end Sys2Proof.Machine
end

section
/-! PROOFS. One step keeps memory in its canonical form. -/

namespace Sys2Proof.Machine

open Sys2Proof

/-- What an agent has planned leaves memory in its canonical form: the state in which a word is to be executed, or the outcome. -/
def Plan.Sound : Plan → Prop
  | .exec _ s => Memory.wf s.mem = true
  | .other r => Canonical r

theorem runPlan_canonical {p : Plan} (hp : p.Sound) : Canonical (runPlan p) := by
  cases p with
  | exec i s => exact exec_canonical hp i
  | other r => exact hp

theorem onNext_canonical {r : Host.Outcome State Fault Refusal} {f : State → State} (hr : Canonical r) (hf : ∀ t, (f t).mem = t.mem) :
    Canonical (onNext r f) := by
  cases r with
  | next s => exact canonical_next.2 (by rw [hf]; exact hr s rfl)
  | fault e => exact canonical_fault
  | refused e => exact canonical_refused

section

variable {s : State} (h : Memory.wf s.mem = true)
include h

theorem planGang_sound (r : Run) : (s.planGang r).Sound := by
  have hclosed : Memory.wf ({ s.arriveClosed r.g (r.count == 0) with cur := some (.gang r.g r.slices) } : State).mem = true := by
    show Memory.wf (s.arriveClosed r.g (r.count == 0)).mem = true
    rwa [arriveClosed_mem]
  unfold State.planGang
  dsimp only
  generalize ({ s.arriveClosed r.g (r.count == 0) with cur := some (.gang r.g r.slices) } : State) = u at hclosed ⊢
  split
  · exact canonical_next.2 hclosed
  next grp _ =>
    have hfetch := nextFetch_yields hclosed r.g grp r.slices
    split
    next heq =>
      rw [heq] at hfetch
      exact settle_canonical hfetch
    next t f heq =>
      rw [heq] at hfetch
      have ht : Memory.wf t.mem = true := hfetch
      split
      · exact canonical_next.2 (by simpa using hclosed)
      · have hdecoded := decoded_keeps ht r.g (grp.lead r.slices).pc f
        split
        next heq =>
          rw [heq] at hdecoded
          exact settle_canonical hdecoded
        next heq =>
          rw [heq] at hdecoded
          exact hdecoded

theorem planPilot_sound (cl : ClusterId) : (s.planPilot cl).Sound := by
  have hpast : ∀ (t : Trap) (u : State), Memory.wf u.mem = true → Canonical (settle (.error (.trap t u))) :=
    fun t u hu => settle_canonical (keeps_trap.2 hu)
  unfold State.planPilot
  dsimp only
  split
  · exact hpast _ _ h
  · split
    · exact hpast _ _ h
    · split
      · exact hpast _ _ h
      · exact h

theorem wf_answeredAccess {t : State} {cl : ClusterId} (hc : s.answeredAccess cl = some t) : Memory.wf t.mem = true := by
  obtain ⟨a, _, rfl⟩ := Option.map_eq_some_iff.1 hc
  exact ite_wf (wf_retryAccess h _ _) (by simpa using h)

theorem firstActive_canonical {es rest : List (Instr × Arg)} {r : Host.Outcome State Fault Refusal}
    (hr : s.firstActive es = some (r, rest)) : Canonical r := by
  induction es with
  | nil => exact nomatch hr
  | cons e es ih =>
    have hexec := exec_canonical (s := { s with arg := e.2 }) h e.1
    unfold State.firstActive at hr
    split at hr
    next heq =>
      rw [heq] at hexec
      split at hr
      · exact ih hr
      · obtain ⟨rfl, rfl⟩ := Prod.mk.inj (Option.some.inj hr)
        exact hexec
    · obtain ⟨rfl, rfl⟩ := Prod.mk.inj (Option.some.inj hr)
      exact hexec

theorem nextEvent_canonical {rest : List (Instr × Arg)} {r : Host.Outcome State Fault Refusal} (hr : s.nextEvent = some (r, rest)) :
    Canonical r := by
  obtain hdue | ⟨_, hevents⟩ := (Option.orElse_eq_some _ _ _).1 hr
  · exact firstActive_canonical h hdue
  · exact firstActive_canonical h hevents

/-! ### The agents and the inputs -/

theorem stepCore_canonical (c : Core) : Canonical (stepCore s c) := by
  have hstops := wf_settleStops h c
  unfold stepCore
  split
  · exact onNext_canonical (runPlan_canonical (planGang_sound h _)) fun t => finishGang_mem ..
  · refine canonical_ite (canonical_next.2 (by simpa using hstops)) ?_
    exact onNext_canonical (exec_canonical (by exact h) _) settled_mem

theorem stepPilot_canonical (cl : ClusterId) : Canonical (stepPilot s cl) := by
  refine canonical_ite ?_ (canonical_next.2 (by simpa using h))
  split
  next heq => exact canonical_next.2 (by simpa using wf_answeredAccess h heq)
  · exact onNext_canonical (runPlan_canonical (planPilot_sound h _)) fun t => by simp

theorem stepUnits_canonical : Canonical (stepUnits s) := by
  unfold stepUnits
  split
  next heq => exact onNext_canonical (nextEvent_canonical h heq) fun t => by simp
  · exact canonical_next.2 (by simpa using h)

theorem stepAgent_canonical : Canonical (stepAgent s) := by
  unfold stepAgent
  split
  · exact stepCore_canonical h _
  · exact stepPilot_canonical h _
  · exact stepUnits_canonical h

theorem stepInput_canonical (x : Input) : Canonical (stepInput s x) := by
  cases x with
  | elapse ns => exact canonical_next.2 (by simpa using h)
  | turn a => exact canonical_next.2 (by simpa using h)
  | event i a => exact canonical_ite (onNext_canonical (exec_canonical (by exact h) _) settled_mem) (canonical_next.2 (by simpa using h))

theorem step_canonical : Canonical (step s) := by
  unfold step
  split
  · exact canonical_next.2 (by rw [settled_mem]; exact wf_bootStart h)
  · exact stepInput_canonical (by exact h) _
  · exact canonical_next.2 (by simpa using h)
  · exact canonical_next.2 (by simpa using h)
  · exact stepUnits_canonical h
  · exact stepAgent_canonical h
  · exact stepAgent_canonical h

end

/-- Settles O32: an outcome of every word, event and input, and so of every step, leaves memory in its canonical form. -/
theorem stepKeepsInv : Obligations.StepKeepsInv := by
  unfold Obligations.StepKeepsInv
  exact fun s t h hstep => step_canonical h t hstep

end Sys2Proof.Machine
end
